-- ==== Sys2Proof/Word.lean ====
section
/-!
DEFINITION. The word types of the H5 (00 R5, 01 R16).
-/
namespace Sys2Proof

/-- A byte of memory. -/
abbrev Byte := BitVec 8

/-- A 32-bit lane or instruction word (02 R37, 04 R91). -/
abbrev W32 := BitVec 32

/-- A 64-bit scalar register, address or special register (02 R37). -/
abbrev W64 := BitVec 64

end Sys2Proof
end

