-- ==== Sys2Proof/Syntax.lean ====
section
/-!
DEFINITION. The syntax: one constructor of `Instr` for every row of spec/opcode_table.json, 292 words and
114 events (spec/95_what_each_step_holds.md), and the operand record of each instruction format (04 R93 to R98).
-/
namespace Sys2Proof

/-- A resource that allotment instructions request (11 R308 to R311). -/
inductive Resource where
  | vregs | pages | tiles | sequencer
deriving DecidableEq, Repr

/-- Where uncorrectable data was found (19 R414: the DETAIL codes 0 to 5 of DATA_ERR). -/
inductive DataSource where
  | hbm | l2 | l1 | scratchpad | crs | accumulator
deriving DecidableEq, Repr

/-- The TDISP state of a virtual function's interface (22 R462). -/
inductive TdiState where
  | unlocked | locked | run | error
deriving DecidableEq, Repr

/-- A block of device registers that the host writes and reads (14 R341, 15 R364, 17 R383, 19 R420 R431, 21 R443, 22 R468), or the
PCIe configuration space of a function (22 R463, R466), or the on-chip trace buffer of a die (19 R431), or a certificate slot of SPDM
(22 R464). `byPf` says that the PF goes through its own image of a virtual function's block. -/
inductive RegBlock where
  | vfRegs (vf : Nat) (byPf : Bool)
  | binder
  | context (vf : Nat)
  | debug (vf : Nat) (byPf : Bool)
  | trace (die : Nat)
  | platform
  | bringUp
  | config (fn : Nat)
  | traceBuf (die : Nat)
  | certificate (slot : Nat)
deriving DecidableEq, Repr

/-- What arrives for a rank of a collective (21 R448, R449, R454): the stitch link, the fabric tag that its packets bear, and the bytes of
the block. -/
structure NodeBlock where
  link : Nat
  tag : BitVec 16
  bytes : List (BitVec 8)
deriving DecidableEq, Repr

/-- What a bring-up meets (22 R464, R466, R467): the manifest, with the number of VFs and the PCIe identifiers, the results of each
step, and the public key that each die derives, C-die 0 to 3 and then the hub. -/
structure BootOutcome where
  signatureOk : Bool
  version : BitVec 32
  keysOk : Bool
  hbmOk : Bool
  spineOk : Bool
  kernelOk : Bool
  linksDown : BitVec 16
  powerCap : BitVec 12
  digests : List (BitVec 384)
  dieKeys : List (BitVec 768)
  vfCount : BitVec 10
  pcieIds : BitVec 64
deriving DecidableEq, Repr

/-- Operands of format HW (R98): G0 to G7 and Y0 to Y7. -/
structure OpHint where
  gaps : BitVec 16
  yields : BitVec 8
deriving DecidableEq, Repr

/-- Operands of format RP (R98): count and stepped fields. -/
structure OpRep where
  cnt : BitVec 6
  fmD : Bool
  fmA : Bool
  fmB : Bool
  str : BitVec 2
deriving DecidableEq, Repr

/-- Operands of format VR with TA = TB = 0 (R143). -/
structure OpStage where
  vd : BitVec 7
  va : BitVec 7
  vb : BitVec 7
deriving DecidableEq, Repr

/-- Operands of format MODE payload (R139): field masks and values. -/
structure OpMode where
  mask : BitVec 6
  nanp : Bool
  ftz : Bool
  sat : Bool
  rnd : BitVec 3
  et : BitVec 4
  grd : BitVec 3
deriving DecidableEq, Repr

/-- Operands of format CT with SA at [5:0]. -/
structure OpA where
  sa : BitVec 6
deriving DecidableEq, Repr

/-- Operands of format CT with SD at [5:0]. -/
structure OpD where
  sd : BitVec 6
deriving DecidableEq, Repr

/-- Operands of format SGET payload (R139). -/
structure OpSget where
  sd : BitVec 6
  num : BitVec 12
deriving DecidableEq, Repr

/-- Operands of format SSET payload (R139). -/
structure OpSset where
  sa : BitVec 6
  num : BitVec 12
deriving DecidableEq, Repr

/-- Operands of format IMM16 payload (R144). -/
structure OpImm where
  imm : BitVec 16
deriving DecidableEq, Repr

/-- Operands of format CT with SA at [11:6] and SD at [5:0]. -/
structure OpDA where
  sa : BitVec 6
  sd : BitVec 6
deriving DecidableEq, Repr

/-- Operands of format BR (R94) with a scalar condition. -/
structure OpBr where
  sa : BitVec 6
  off : BitVec 16
deriving DecidableEq, Repr

/-- Operands of format BR with a predicate condition (R103). -/
structure OpBrP where
  pa : BitVec 3
  off : BitVec 16
deriving DecidableEq, Repr

/-- Operands of format BR always (R103). -/
structure OpBrAlways where
  off : BitVec 16
deriving DecidableEq, Repr

/-- Operands of format JP (R94). -/
structure OpJ where
  off : BitVec 26
deriving DecidableEq, Repr

/-- Operands of format SR with SA and TA only (R152). -/
structure OpJr where
  sa : BitVec 6
  ta : Bool
deriving DecidableEq, Repr

/-- Operands of format LOOP payload (R119). -/
structure OpLoop where
  len : BitVec 5
  cnt : BitVec 6
deriving DecidableEq, Repr

/-- Operands of format SR (R94). -/
structure OpSR where
  sd : BitVec 6
  sa : BitVec 6
  sb : BitVec 6
  ta : Bool
  tb : Bool
deriving DecidableEq, Repr

/-- Operands of format SR of a unary member (R157). -/
structure OpSR1 where
  sd : BitVec 6
  sa : BitVec 6
  ta : Bool
deriving DecidableEq, Repr

/-- Operands of format SI (R94). -/
structure OpSI where
  sd : BitVec 6
  sa : BitVec 6
  imm : BitVec 12
deriving DecidableEq, Repr

/-- Operands of format SI of a shift member: the amount is IMM12[5:0] (R158). -/
structure OpSh where
  sd : BitVec 6
  sa : BitVec 6
  amt : BitVec 6
deriving DecidableEq, Repr

/-- Operands of format SL (R94). -/
structure OpSL where
  sd : BitVec 6
  imm : BitVec 20
deriving DecidableEq, Repr

/-- Operands of format SM (R95). -/
structure OpSM where
  sd : BitVec 6
  sa : BitVec 6
  off : BitVec 11
deriving DecidableEq, Repr

/-- Operands of format SA (R95). -/
structure OpSA where
  sem : BitVec 2
  scp : BitVec 3
  sd : BitVec 6
  sa : BitVec 6
  sb : BitVec 5
deriving DecidableEq, Repr

/-- Operands of format SA of ld (R257). -/
structure OpSALd where
  sem : BitVec 2
  scp : BitVec 3
  sd : BitVec 6
  sa : BitVec 6
deriving DecidableEq, Repr

/-- Operands of format SA of st (R257). -/
structure OpSASt where
  sem : BitVec 2
  scp : BitVec 3
  sa : BitVec 6
  sb : BitVec 5
deriving DecidableEq, Repr

/-- Operands of format SO (R95). -/
structure OpSO where
  sd : BitVec 6
  sa : BitVec 6
  scp : BitVec 3
  off : BitVec 8
deriving DecidableEq, Repr

/-- Operands of format VR (R93). -/
structure OpVR where
  ta : Bool
  tb : Bool
  vd : BitVec 7
  va : BitVec 7
  vb : BitVec 7
deriving DecidableEq, Repr

/-- Operands of format VI (R93). -/
structure OpVI where
  ta : Bool
  vd : BitVec 7
  va : BitVec 7
  imm : BitVec 8
deriving DecidableEq, Repr

/-- Operands of format VR of a unary member. -/
structure OpVR1 where
  ta : Bool
  vd : BitVec 7
  va : BitVec 7
deriving DecidableEq, Repr

/-- Operands of format CV (R93). -/
structure OpCV where
  rnd : BitVec 3
  ta : Bool
  vd : BitVec 7
  va : BitVec 7
  st : BitVec 4
  dt : BitVec 4
deriving DecidableEq, Repr

/-- Operands of format VS of VMXQ and VMXD: FN is the block format (R177). -/
structure OpMX where
  fmt : BitVec 3
  ta : Bool
  vd : BitVec 7
  va : BitVec 7
deriving DecidableEq, Repr

/-- Operands of format VR of VCMP: PD in VD[16:14] (R105). -/
structure OpVCmp where
  ta : Bool
  tb : Bool
  pd : BitVec 3
  va : BitVec 7
  vb : BitVec 7
deriving DecidableEq, Repr

/-- Operands of format VS with a scalar destination in SB (R184, R188). -/
structure OpVSRed where
  ta : Bool
  va : BitVec 7
  sb : BitVec 6
deriving DecidableEq, Repr

/-- Operands of format PR (R96) of two predicates. -/
structure OpPR2 where
  pd : BitVec 3
  pa : BitVec 3
  pb : BitVec 3
deriving DecidableEq, Repr

/-- Operands of format PR of one predicate. -/
structure OpPR1 where
  pd : BitVec 3
  pa : BitVec 3
deriving DecidableEq, Repr

/-- Operands of format PR of PSET. -/
structure OpPSet where
  pd : BitVec 3
  sa : BitVec 6
deriving DecidableEq, Repr

/-- Operands of format PR with a scalar destination in SA (R185). -/
structure OpPGet where
  pa : BitVec 3
  sd : BitVec 6
deriving DecidableEq, Repr

/-- Operands of format VS of a vector move (R187). -/
structure OpVS1 where
  ta : Bool
  vd : BitVec 7
  va : BitVec 7
deriving DecidableEq, Repr

/-- Operands of format VS of VBCAST. -/
structure OpVBc where
  vd : BitVec 7
  sb : BitVec 6
deriving DecidableEq, Repr

/-- Operands of format VS of VIOTA: VA holds the stride (R188). -/
structure OpVIota where
  vd : BitVec 7
  k : BitVec 7
  sb : BitVec 6
deriving DecidableEq, Repr

/-- Operands of format VS of VEXT. -/
structure OpVExt where
  ta : Bool
  vd : BitVec 7
  va : BitVec 7
  sb : BitVec 6
deriving DecidableEq, Repr

/-- Operands of format VM (R95). -/
structure OpVM where
  vd : BitVec 7
  sb : BitVec 6
  vo : BitVec 7
  t : Bool
  sc : BitVec 2
deriving DecidableEq, Repr

/-- Operands of format VM of VLDU (R251). -/
structure OpVLdu where
  vd : BitVec 7
  sb : BitVec 6
deriving DecidableEq, Repr

/-- Operands of format AT (R95). -/
structure OpAT where
  sem : BitVec 2
  scp : BitVec 3
  vd : BitVec 7
  vo : BitVec 7
  sbx : BitVec 3
deriving DecidableEq, Repr

/-- Operands of format VO (R95). -/
structure OpVO where
  vd : BitVec 7
  sb : BitVec 6
  vo : BitVec 7
  scp : BitVec 3
deriving DecidableEq, Repr

/-- Operands of format FENCE payload (R259). -/
structure OpFence where
  scp : BitVec 3
  sem : BitVec 2
deriving DecidableEq, Repr

/-- Operands of format barrier payload (R259). -/
structure OpBar where
  id : BitVec 4
deriving DecidableEq, Repr

/-- Operands of format BARINIT payload (R259). -/
structure OpBarInit where
  sa : BitVec 6
  id : BitVec 4
deriving DecidableEq, Repr

/-- Operands of format CJOIN payload (R259). -/
structure OpCJoin where
  exp : BitVec 2
  sa : BitVec 6
  sd : BitVec 6
deriving DecidableEq, Repr

/-- Operands of format SOPEN payload (R264). -/
structure OpSOpen where
  sa : BitVec 6
  port : BitVec 7
deriving DecidableEq, Repr

/-- Operands of format SCLOSE and SDRAIN payload (R264). -/
structure OpPort where
  port : BitVec 7
deriving DecidableEq, Repr

/-- Operands of format BCLOSE payload (R277). -/
structure OpBClose where
  rw : BitVec 2
  sd : BitVec 6
deriving DecidableEq, Repr

/-- Operands of format CT with SB at [11:6] and SA at [5:0]. -/
structure OpAB where
  sb : BitVec 6
  sa : BitVec 6
deriving DecidableEq, Repr

/-- Operands of format TBARR payload (R277). -/
structure OpTBArr where
  scp : BitVec 3
  sa : BitVec 6
deriving DecidableEq, Repr

/-- Operands of format TBWAIT payload (R277). -/
structure OpTBWait where
  scp : BitVec 3
  sa : BitVec 6
  sd : BitVec 6
deriving DecidableEq, Repr

/-- Operands of format releasing member (R308). -/
structure OpRel where
  sa : BitVec 6
deriving DecidableEq, Repr

/-- Operands of format QV of TSPAWN (R315). -/
structure OpQSpawn where
  sh : BitVec 6
  se : BitVec 6
  va : BitVec 7
deriving DecidableEq, Repr

/-- Operands of format QV (R96). -/
structure OpQV where
  sh : BitVec 6
  va : BitVec 7
deriving DecidableEq, Repr

/-- Operands of format QV of EQFIRE. -/
structure OpEqFire where
  sh : BitVec 6
  se : BitVec 6
deriving DecidableEq, Repr

/-- Operands of format DR (R96). -/
structure OpDrain where
  rnd : BitVec 3
  acc : BitVec 2
  q : BitVec 2
  vd : BitVec 7
  sb : BitVec 6
  dt : BitVec 3
deriving DecidableEq, Repr

/-- Operands of format DR of a raw form (R322). -/
structure OpRaw where
  acc : BitVec 2
  sr : BitVec 6
  sb : BitVec 6
deriving DecidableEq, Repr

/-- Operands of format DR of AFILL. -/
structure OpFillAcc where
  acc : BitVec 2
  q : BitVec 2
  vd : BitVec 7
  sb : BitVec 6
  dt : BitVec 3
deriving DecidableEq, Repr

/-- Operands of format MBOX and BPSET payload (R426). -/
structure OpIdx where
  idx : BitVec 6
  sa : BitVec 6
deriving DecidableEq, Repr

/-- Operands of format MX (R97). -/
structure OpMma where
  wait : BitVec 8
  s : Bool
  set : BitVec 3
  acc : BitVec 2
  fb : BitVec 4
  ra : BitVec 3
  rb : BitVec 3
  kx : BitVec 2
deriving DecidableEq, Repr

/-- Operands of format MLDFB payload (R328). -/
structure OpMLdfb where
  ma : BitVec 4
  fb : BitVec 4
deriving DecidableEq, Repr

/-- Operands of format MRING payload (R328). -/
structure OpMRing where
  ma : BitVec 4
  ring : BitVec 3
deriving DecidableEq, Repr

/-- Operands of format MZERO payload (R328). -/
structure OpMZero where
  acc : BitVec 2
deriving DecidableEq, Repr

/-- Operands of format MWAIT payload (R328). -/
structure OpMWait where
  wait : BitVec 8
deriving DecidableEq, Repr

/-- Operands of format MSIG payload (R328). -/
structure OpMSig where
  wait : BitVec 8
  ma : BitVec 4
deriving DecidableEq, Repr

/-- Operands of format sequencer payload with MA (R328). -/
structure OpMA where
  ma : BitVec 4
deriving DecidableEq, Repr

/-- Operands of format MPOP payload (R328). -/
structure OpMPop where
  wait : BitVec 8
  ring : BitVec 3
deriving DecidableEq, Repr

/-- Operands of format SQ of MADD (R332). -/
structure OpMAdd where
  md : BitVec 4
  ma : BitVec 4
  mb : BitVec 4
deriving DecidableEq, Repr

/-- Operands of format SQ of MADDI. -/
structure OpMAddi where
  md : BitVec 4
  ma : BitVec 4
  imm : BitVec 15
deriving DecidableEq, Repr

/-- Operands of format SQ of MLI. -/
structure OpMLi where
  md : BitVec 4
  sh : BitVec 4
  imm : BitVec 15
deriving DecidableEq, Repr

/-- Operands of format SQ of MBNZ. -/
structure OpMBnz where
  ma : BitVec 4
  imm : BitVec 15
deriving DecidableEq, Repr

/-- Operands of format SQ of MJ. -/
structure OpMJ where
  imm : BitVec 15
deriving DecidableEq, Repr

/-- The instructions and events of the H5 (06 and 04 R106; spec/opcode_table.json). -/
inductive Instr where
  | hint (o : OpHint)
  | rep (o : OpRep)
  | stage (o : OpStage)
  | mode (o : OpMode)
  | modev (o : OpA)
  | moder (o : OpD)
  | fill (o : OpA)
  | fillRd (o : OpD)
  | sget (o : OpSget)
  | sset (o : OpSset)
  | nop
  | exit
  | lexit
  | trap (o : OpImm)
  | eret
  | sysc (o : OpDA)
  | brk (o : OpImm)
  | twait (o : OpA)
  | yield
  | bEqz (o : OpBr)
  | bNez (o : OpBr)
  | bLtz (o : OpBr)
  | bGez (o : OpBr)
  | bGtz (o : OpBr)
  | bLez (o : OpBr)
  | bPany (o : OpBrP)
  | bPnone (o : OpBrP)
  | bPall (o : OpBrP)
  | bAlways (o : OpBrAlways)
  | j (o : OpJ)
  | call (o : OpJ)
  | jr (o : OpJr)
  | callr (o : OpJr)
  | loop (o : OpLoop)
  | add (o : OpSR)
  | sub (o : OpSR)
  | and (o : OpSR)
  | or (o : OpSR)
  | xor (o : OpSR)
  | andn (o : OpSR)
  | shl (o : OpSR)
  | shr (o : OpSR)
  | sar (o : OpSR)
  | rol (o : OpSR)
  | min (o : OpSR)
  | max (o : OpSR)
  | minz (o : OpSR)
  | maxz (o : OpSR)
  | slt (o : OpSR)
  | sltz (o : OpSR)
  | mul (o : OpSR)
  | mulh (o : OpSR)
  | mulhz (o : OpSR)
  | div (o : OpSR)
  | divz (o : OpSR)
  | rem (o : OpSR)
  | remz (o : OpSR)
  | clz (o : OpSR1)
  | ctz (o : OpSR1)
  | popc (o : OpSR1)
  | brev (o : OpSR1)
  | sextb (o : OpSR1)
  | sexth (o : OpSR1)
  | sextw (o : OpSR1)
  | zextw (o : OpSR1)
  | addi (o : OpSI)
  | slti (o : OpSI)
  | sltiz (o : OpSI)
  | andi (o : OpSI)
  | ori (o : OpSI)
  | xori (o : OpSI)
  | shli (o : OpSh)
  | shri (o : OpSh)
  | sari (o : OpSh)
  | roli (o : OpSh)
  | lis (o : OpSL)
  | addpc (o : OpSL)
  | lihi (o : OpSL)
  | sldb (o : OpSM)
  | sldbz (o : OpSM)
  | sldh (o : OpSM)
  | sldhz (o : OpSM)
  | sldw (o : OpSM)
  | sldwz (o : OpSM)
  | sldd (o : OpSM)
  | sstb (o : OpSM)
  | ssth (o : OpSM)
  | sstw (o : OpSM)
  | sstd (o : OpSM)
  | satomAdd (o : OpSA)
  | satomAnd (o : OpSA)
  | satomOr (o : OpSA)
  | satomXor (o : OpSA)
  | satomMin (o : OpSA)
  | satomMax (o : OpSA)
  | satomMinz (o : OpSA)
  | satomMaxz (o : OpSA)
  | satomXchg (o : OpSA)
  | satomCas (o : OpSA)
  | satomLd (o : OpSALd)
  | satomSt (o : OpSASt)
  | slda (o : OpSO)
  | sstl (o : OpSO)
  | sldaw (o : OpSO)
  | sstlw (o : OpSO)
  | vadd (o : OpVR)
  | vsub (o : OpVR)
  | vmul (o : OpVR)
  | vmulh (o : OpVR)
  | vmad (o : OpVR)
  | vmin (o : OpVR)
  | vmax (o : OpVR)
  | vabsd (o : OpVR)
  | vand (o : OpVR)
  | vor (o : OpVR)
  | vxor (o : OpVR)
  | vandn (o : OpVR)
  | vshl (o : OpVR)
  | vshr (o : OpVR)
  | vsar (o : OpVR)
  | vrol (o : OpVR)
  | vaddi (o : OpVI)
  | vmuli (o : OpVI)
  | vandi (o : OpVI)
  | vori (o : OpVI)
  | vxori (o : OpVI)
  | vshli (o : OpVI)
  | vshri (o : OpVI)
  | vsari (o : OpVI)
  | vfadd (o : OpVR)
  | vfsub (o : OpVR)
  | vfmul (o : OpVR)
  | vfmin (o : OpVR)
  | vfmax (o : OpVR)
  | vfabs (o : OpVR1)
  | vfneg (o : OpVR1)
  | vfsgn (o : OpVR)
  | vfma (o : OpVR)
  | vfms (o : OpVR)
  | vfnma (o : OpVR)
  | vdot2 (o : OpVR)
  | vdot4i (o : OpVR)
  | vrcp (o : OpVR1)
  | vrsq (o : OpVR1)
  | vsqrt (o : OpVR1)
  | vexp2 (o : OpVR1)
  | vlog2 (o : OpVR1)
  | vsin (o : OpVR1)
  | vcos (o : OpVR1)
  | vtanh (o : OpVR1)
  | vcvt (o : OpCV)
  | vmxq (o : OpMX)
  | vmxd (o : OpMX)
  | vcmpEq (o : OpVCmp)
  | vcmpNe (o : OpVCmp)
  | vcmpLt (o : OpVCmp)
  | vcmpLe (o : OpVCmp)
  | vcmpGt (o : OpVCmp)
  | vcmpGe (o : OpVCmp)
  | vcmpUnord (o : OpVCmp)
  | vcmpOrd (o : OpVCmp)
  | vperm (o : OpVR)
  | vbperm (o : OpVR)
  | vshfx (o : OpVI)
  | vslideu (o : OpVI)
  | vslided (o : OpVI)
  | vlaneb (o : OpVI)
  | vquad (o : OpVI)
  | vscanadd (o : OpVR1)
  | vscanmin (o : OpVR1)
  | vscanmax (o : OpVR1)
  | vscanor (o : OpVR1)
  | vxscanadd (o : OpVR1)
  | vxscanmax (o : OpVR1)
  | vredadd (o : OpVSRed)
  | vredmin (o : OpVSRed)
  | vredmax (o : OpVSRed)
  | vredand (o : OpVSRed)
  | vredor (o : OpVSRed)
  | pand (o : OpPR2)
  | por (o : OpPR2)
  | pxor (o : OpPR2)
  | pandn (o : OpPR2)
  | pnot (o : OpPR1)
  | pmov (o : OpPR1)
  | pset (o : OpPSet)
  | pget (o : OpPGet)
  | pcnt (o : OpPGet)
  | pfirst (o : OpPGet)
  | qhelp (o : OpPR1)
  | vmov (o : OpVS1)
  | vmova (o : OpVS1)
  | vbcast (o : OpVBc)
  | viota (o : OpVIota)
  | vshape (o : OpVSRed)
  | vgen (o : OpVS1)
  | vext (o : OpVExt)
  | vldw (o : OpVM)
  | vldh (o : OpVM)
  | vldhz (o : OpVM)
  | vldb (o : OpVM)
  | vldbz (o : OpVM)
  | vldu (o : OpVLdu)
  | vldq (o : OpVM)
  | vstw (o : OpVM)
  | vsth (o : OpVM)
  | vstb (o : OpVM)
  | vstq (o : OpVM)
  | vatomAdd (o : OpAT)
  | vatomAnd (o : OpAT)
  | vatomOr (o : OpAT)
  | vatomXor (o : OpAT)
  | vatomMin (o : OpAT)
  | vatomMax (o : OpAT)
  | vatomMinz (o : OpAT)
  | vatomMaxz (o : OpAT)
  | vatomXchg (o : OpAT)
  | vatomCas (o : OpAT)
  | vatomFadd (o : OpAT)
  | vatomLd (o : OpAT)
  | vatomSt (o : OpAT)
  | vlda (o : OpVO)
  | vstl (o : OpVO)
  | fence (o : OpFence)
  | bar (o : OpBar)
  | bara (o : OpBar)
  | barw (o : OpBar)
  | barinit (o : OpBarInit)
  | cjoin (o : OpCJoin)
  | cleave
  | sopen (o : OpSOpen)
  | sclose (o : OpPort)
  | sdrain (o : OpPort)
  | bclose (o : OpBClose)
  | bwait (o : OpDA)
  | tbinit (o : OpAB)
  | tbarr (o : OpTBArr)
  | tbexp (o : OpAB)
  | tbwait (o : OpTBWait)
  | vacqW (o : OpDA)
  | vacqT (o : OpDA)
  | vrel (o : OpRel)
  | pgacqW (o : OpDA)
  | pgacqT (o : OpDA)
  | pgrel (o : OpRel)
  | aacqW (o : OpDA)
  | aacqT (o : OpDA)
  | arel (o : OpRel)
  | macqW (o : OpDA)
  | macqT (o : OpDA)
  | mrel
  | tspawn (o : OpQSpawn)
  | qpush (o : OpQV)
  | qpop (o : OpQV)
  | qsteal (o : OpQV)
  | eqpush (o : OpQV)
  | eqfire (o : OpEqFire)
  | adrain (o : OpDrain)
  | adrainRaw (o : OpRaw)
  | afill (o : OpFillAcc)
  | afillRaw (o : OpRaw)
  | kstart (o : OpAB)
  | kwait (o : OpDA)
  | cdrain (o : OpDA)
  | cstate (o : OpDA)
  | cload (o : OpAB)
  | csaved (o : OpA)
  | crestart (o : OpA)
  | msave (o : OpA)
  | mload (o : OpA)
  | mbox (o : OpIdx)
  | dhalt (o : OpDA)
  | dresume (o : OpDA)
  | dstep (o : OpDA)
  | dunpin (o : OpDA)
  | bpset (o : OpIdx)
  | warm (o : OpA)
  | mma (o : OpMma)
  | mldfb (o : OpMLdfb)
  | mring (o : OpMRing)
  | mzero (o : OpMZero)
  | mwait (o : OpMWait)
  | msig (o : OpMSig)
  | mfetch (o : OpMA)
  | mend
  | mtime (o : OpMA)
  | mpop (o : OpMPop)
  | madd (o : OpMAdd)
  | maddi (o : OpMAddi)
  | mli (o : OpMLi)
  | mbnz (o : OpMBnz)
  | mj (o : OpMJ)
  | registerReturn (id : Nat)
  | syscAnswer (handle : BitVec 64) (answer : BitVec 64) (bytes : List (BitVec 8))
  | twaitExpiry (q : Nat)
  | barrierPhaseWake (q : Nat)
  | barinitResume (q : Nat)
  | tbwaitWake (q : Nat)
  | bwaitDone (q : Nat)
  | bcloseResume (q : Nat)
  | sdrainDone (q : Nat)
  | kwaitDone (q : Nat)
  | lockWaitDone (q : Nat)
  | allotGrant (core : Nat) (res : Resource)
  | streamReadFill (q port : Nat)
  | streamWritePerform (q port : Nat)
  | bteStart (q : Nat)
  | copyNbtStart (id : Nat)
  | copyComplete (id : Nat)
  | copyFail (id code : Nat)
  | mmaComplete (core : Nat)
  | mfetchDoorbellWrite (core : Nat)
  | teamAdmit (core vf : Nat)
  | gatherTimerExpiry (die vf index : Nat)
  | expertAgeTimer (die vf expert : Nat)
  | expertFire (die vf expert core : Nat)
  | gatheringLaunch (die vf expert : Nat)
  | eqStarveTimeout (die vf expert : Nat)
  | activeSetEnter (q : Nat)
  | blockedEvict (q : Nat)
  | yieldHoldExpiry (q : Nat)
  | aging (q : Nat)
  | notify (vf queue : Nat)
  | wakeRefill
  | launch (vf id : Nat)
  | launchComplete (lid : Nat)
  | copy (vf id : Nat)
  | templateLoad (vf id : Nat)
  | dumpRead (vf id : Nat)
  | configureTaskQueue (vf id : Nat)
  | configureExpert (vf id : Nat)
  | disableTaskQueue (vf id : Nat)
  | disableExpert (vf id : Nat)
  | assignPartitions (vf id : Nat)
  | writeGrant (vf id : Nat)
  | clearGrant (vf id : Nat)
  | stage2Inval (vf id : Nat)
  | tlbInval (vf id : Nat)
  | demandFaultRetry (vf idx : Nat)
  | demandFaultFail (vf idx : Nat)
  | featuresOk (vf : Nat) (status : BitVec 8)
  | queueEnable (vf : Nat)
  | queueReset (vf : Nat)
  | queueResetDone (vf queue : Nat)
  | binderArm
  | binderStop
  | commitReward
  | commitEnv
  | injvalid
  | knobWrite (vf : Nat) (value : BitVec 32)
  | binderIdleWrite (off bytes : Nat) (value : BitVec 64)
  | binderBoundary
  | preempt (vf : Nat)
  | sliceExpiry (vf : Nat)
  | groupStop (q : Nat)
  | saveHandlerTimeout (vf q : Nat)
  | folioWrite (vf : Nat)
  | restore (vf : Nat)
  | folioRestore (vf : Nat) (cores : List Nat)
  | resumeSave (vf : Nat)
  | discard (vf : Nat)
  | exportImage (vf : Nat)
  | hcmdHalt (vf : Nat)
  | hcmdResume (vf : Nat)
  | hcmdStep (vf : Nat)
  | groupHalt (q : Nat)
  | dump (vf : Nat) (value : BitVec 64)
  | evlostRead (vf : Nat)
  | droopsRead
  | pdropRead
  | traceEnable (die : Nat) (value : BitVec 64)
  | traceForce (die : Nat)
  | traceFreeze (die : Nat)
  | pmcOverflow (core i : Nat)
  | correctedError (die vf core code : Nat)
  | uncorrectedError (source : DataSource) (vf : Nat) (line pa : BitVec 64)
  | dieHold (die cause : Nat)
  | dieRelease (die : Nat)
  | dieReset (die : Nat)
  | timeSyncMeasure (offset : BitVec 32)
  | lockTimeout
  | fabricPacketRx (die link vf : Nat) (tag : BitVec 16) (cells : List (Nat × BitVec 8))
  | collectiveStart (die id : Nat) (agree : Bool)
  | collectiveStep (die id rank : Nat) (data : NodeBlock)
  | collectiveComplete (die id : Nat)
  | collWatchdogExpiry (die id : Nat)
  | powerArbiterTick (demand : List Nat)
  | thermalWarn (die sensor : Nat) (reading : BitVec 16)
  | thermalCrit (die sensor : Nat) (reading : BitVec 16)
  | thermalClear (die : Nat)
  | droopTrip (die sensor : Nat) (reading : BitVec 16)
  | droopEnd (die : Nat)
  | railCurrentLimit (die sensor : Nat) (reading : BitVec 16)
  | powerOn (boot : BootOutcome)
  | pfFlr (boot : BootOutcome)
  | vfFlr (vf : Nat)
  | vfResetDone (vf : Nat) (salt : BitVec 48)
  | vfEnable (vf : Nat) (salt : BitVec 48)
  | getMeasurements
  | getDeviceInterfaceState (vf : Nat)
  | registerWrite (block : RegBlock) (off bytes : Nat) (value : BitVec 64)
  | kStepBoundary (core : Nat)
  | mtimeExpiry (core : Nat)
  | launchNbtStart (lid : Nat)
  | tdiTransition (vf : Nat) (target : TdiState)
  | vfDisable (vf : Nat)
deriving DecidableEq, Repr

end Sys2Proof
end

