-- ==== Sys2Proof/WellFormed.lean ====
section
/-!
DEFINITION. Which operand values an instruction word admits: the reserved codes of 04 R101 to R105 and the ranges of
the instruction descriptions, each with the lowest bit of its field (04 R108), and the ranges of the event operands.
-/
namespace Sys2Proof

/-- The operand fields that hold a code the spec reserves, each with the lowest bit of the field (R107 check 6, R108).
The codes that R106 reserves as selectors are listed too: no word decodes to them. -/
def Instr.codeRules : Instr → List (Nat × Bool)
  | .mode o => [(12, (o.nanp && !o.mask.getLsbD 5)), (11, (o.ftz && !o.mask.getLsbD 4)), (10, (o.sat && !o.mask.getLsbD 3)), (7, (if o.mask.getLsbD 2 then decide (o.rnd = 0 ∨ o.rnd = 7) else decide (o.rnd ≠ 0))), (3, (if o.mask.getLsbD 1 then decide (8 < o.et.toNat) else decide (o.et ≠ 0))), (0, (!o.mask.getLsbD 0 && decide (o.grd ≠ 0)))]
  | .sysc o => [(0, decide (o.sd = 0))]
  | .satomAdd o => [(17, decide (4 < o.scp.toNat))]
  | .satomAnd o => [(17, decide (4 < o.scp.toNat))]
  | .satomOr o => [(17, decide (4 < o.scp.toNat))]
  | .satomXor o => [(17, decide (4 < o.scp.toNat))]
  | .satomMin o => [(17, decide (4 < o.scp.toNat))]
  | .satomMax o => [(17, decide (4 < o.scp.toNat))]
  | .satomMinz o => [(17, decide (4 < o.scp.toNat))]
  | .satomMaxz o => [(17, decide (4 < o.scp.toNat))]
  | .satomXchg o => [(17, decide (4 < o.scp.toNat))]
  | .satomCas o => [(17, decide (4 < o.scp.toNat))]
  | .satomLd o => [(17, decide (4 < o.scp.toNat)), (20, decide (o.sem = 2 ∨ o.sem = 3))]
  | .satomSt o => [(17, decide (4 < o.scp.toNat)), (20, decide (o.sem = 1 ∨ o.sem = 3))]
  | .slda o => [(8, decide (4 < o.scp.toNat))]
  | .sstl o => [(8, decide (4 < o.scp.toNat))]
  | .sldaw o => [(8, decide (4 < o.scp.toNat))]
  | .sstlw o => [(8, decide (4 < o.scp.toNat))]
  | .vshli o => [(0, decide (31 < o.imm.toNat))]
  | .vshri o => [(0, decide (31 < o.imm.toNat))]
  | .vsari o => [(0, decide (31 < o.imm.toNat))]
  | .vcvt o => [(23, decide (o.rnd = 7)), (4, decide (13 < o.st.toNat)), (0, decide (13 < o.dt.toNat))]
  | .vmxq o => [(23, decide (5 < o.fmt.toNat))]
  | .vmxd o => [(23, decide (5 < o.fmt.toNat))]
  | .vcmpEq o => [(14, decide (o.pd = 0))]
  | .vcmpNe o => [(14, decide (o.pd = 0))]
  | .vcmpLt o => [(14, decide (o.pd = 0))]
  | .vcmpLe o => [(14, decide (o.pd = 0))]
  | .vcmpGt o => [(14, decide (o.pd = 0))]
  | .vcmpGe o => [(14, decide (o.pd = 0))]
  | .vcmpUnord o => [(14, decide (o.pd = 0))]
  | .vcmpOrd o => [(14, decide (o.pd = 0))]
  | .vshfx o => [(0, decide (31 < o.imm.toNat))]
  | .vslideu o => [(0, decide (31 < o.imm.toNat))]
  | .vslided o => [(0, decide (31 < o.imm.toNat))]
  | .vlaneb o => [(0, decide (31 < o.imm.toNat))]
  | .vquad o => [(0, decide (11 < o.imm.toNat ∨ o.imm = 3))]
  | .pand o => [(19, decide (o.pd = 0))]
  | .por o => [(19, decide (o.pd = 0))]
  | .pxor o => [(19, decide (o.pd = 0))]
  | .pandn o => [(19, decide (o.pd = 0))]
  | .pnot o => [(19, decide (o.pd = 0))]
  | .pmov o => [(19, decide (o.pd = 0))]
  | .pset o => [(19, decide (o.pd = 0))]
  | .qhelp o => [(19, decide (o.pd = 0))]
  | .vatomAdd o => [(17, decide (4 < o.scp.toNat))]
  | .vatomAnd o => [(17, decide (4 < o.scp.toNat))]
  | .vatomOr o => [(17, decide (4 < o.scp.toNat))]
  | .vatomXor o => [(17, decide (4 < o.scp.toNat))]
  | .vatomMin o => [(17, decide (4 < o.scp.toNat))]
  | .vatomMax o => [(17, decide (4 < o.scp.toNat))]
  | .vatomMinz o => [(17, decide (4 < o.scp.toNat))]
  | .vatomMaxz o => [(17, decide (4 < o.scp.toNat))]
  | .vatomXchg o => [(17, decide (4 < o.scp.toNat))]
  | .vatomCas o => [(17, decide (4 < o.scp.toNat)), (10, o.vd.getLsbD 0)]
  | .vatomFadd o => [(17, decide (4 < o.scp.toNat))]
  | .vatomLd o => [(17, decide (4 < o.scp.toNat)), (20, decide (o.sem = 2 ∨ o.sem = 3))]
  | .vatomSt o => [(17, decide (4 < o.scp.toNat)), (20, decide (o.sem = 1 ∨ o.sem = 3))]
  | .vlda o => [(0, decide (4 < o.scp.toNat))]
  | .vstl o => [(0, decide (4 < o.scp.toNat))]
  | .fence o => [(2, decide (4 < o.scp.toNat)), (0, decide (o.sem = 0))]
  | .cjoin o => [(12, decide (o.exp = 3))]
  | .sopen o => [(0, decide (o.port.toNat < 112))]
  | .sclose o => [(0, decide (o.port.toNat < 112))]
  | .sdrain o => [(0, decide (o.port ≠ 0 ∧ o.port.toNat < 112))]
  | .bclose o => [(6, decide (o.rw = 3))]
  | .tbarr o => [(6, decide (4 < o.scp.toNat))]
  | .tbwait o => [(12, decide (4 < o.scp.toNat))]
  | .adrain o => [(20, decide (o.rnd = 7)), (0, decide (o.dt.toNat = 7)), (0, decide (o.dt.toNat = 6))]
  | .afill o => [(0, decide (o.dt.toNat = 7)), (0, decide (o.dt.toNat = 6))]
  | _ => []

/-- The operands of an event name parts the package has (00 R1). Words have no such operand. -/
def Instr.eventOk : Instr → Bool
  | .twaitExpiry q => decide (q < 32768)
  | .barrierPhaseWake q => decide (q < 32768)
  | .barinitResume q => decide (q < 32768)
  | .tbwaitWake q => decide (q < 32768)
  | .bwaitDone q => decide (q < 32768)
  | .bcloseResume q => decide (q < 32768)
  | .sdrainDone q => decide (q < 32768)
  | .kwaitDone q => decide (q < 32768)
  | .lockWaitDone q => decide (q < 32768)
  | .allotGrant core _ => decide (core < 256)
  | .streamReadFill q port => decide (q < 32768) && decide (112 ≤ port ∧ port < 128)
  | .streamWritePerform q port => decide (q < 32768) && decide (112 ≤ port ∧ port < 128)
  | .bteStart q => decide (q < 32768)
  | .copyFail _ code => decide (code < 256) && decide (1 ≤ code ∧ code ≤ 7)
  | .mmaComplete core => decide (core < 256)
  | .mfetchDoorbellWrite core => decide (core < 256)
  | .teamAdmit core vf => decide (core < 256) && decide (vf ≤ 512)
  | .gatherTimerExpiry die vf index => decide (die < 4) && decide (vf ≤ 512) && decide (index < 65535)
  | .expertAgeTimer die vf expert => decide (die < 4) && decide (vf ≤ 512) && decide (expert < 256)
  | .expertFire die vf expert core => decide (die < 4) && decide (vf ≤ 512) && decide (expert < 256) && decide (core < 256)
  | .gatheringLaunch die vf expert => decide (die < 4) && decide (vf ≤ 512) && decide (expert < 256)
  | .eqStarveTimeout die vf expert => decide (die < 4) && decide (vf ≤ 512) && decide (expert < 256)
  | .activeSetEnter q => decide (q < 32768)
  | .blockedEvict q => decide (q < 32768)
  | .yieldHoldExpiry q => decide (q < 32768)
  | .aging q => decide (q < 32768)
  | .notify vf queue => decide (vf ≤ 512) && decide (queue < 64)
  | .launch vf _ => decide (vf ≤ 512)
  | .copy vf _ => decide (vf ≤ 512)
  | .templateLoad vf _ => decide (vf ≤ 512)
  | .dumpRead vf _ => decide (vf ≤ 512)
  | .configureTaskQueue vf _ => decide (vf ≤ 512)
  | .configureExpert vf _ => decide (vf ≤ 512)
  | .disableTaskQueue vf _ => decide (vf ≤ 512)
  | .disableExpert vf _ => decide (vf ≤ 512)
  | .assignPartitions vf _ => decide (vf ≤ 512)
  | .writeGrant vf _ => decide (vf ≤ 512)
  | .clearGrant vf _ => decide (vf ≤ 512)
  | .stage2Inval vf _ => decide (vf ≤ 512)
  | .tlbInval vf _ => decide (vf ≤ 512)
  | .demandFaultRetry vf _ => decide (vf ≤ 512)
  | .demandFaultFail vf _ => decide (vf ≤ 512)
  | .featuresOk vf _ => decide (vf ≤ 512)
  | .queueEnable vf => decide (vf ≤ 512)
  | .queueReset vf => decide (vf ≤ 512)
  | .queueResetDone vf queue => decide (vf ≤ 512) && decide (queue < 64)
  | .knobWrite vf _ => decide (vf ≤ 512)
  | .binderIdleWrite _ bytes _ => (bytes == 1 || bytes == 2 || bytes == 4 || bytes == 8)
  | .preempt vf => decide (vf ≤ 512)
  | .sliceExpiry vf => decide (vf ≤ 512)
  | .groupStop q => decide (q < 32768)
  | .saveHandlerTimeout vf q => decide (vf ≤ 512) && decide (q < 32768)
  | .folioWrite vf => decide (vf ≤ 512)
  | .restore vf => decide (vf ≤ 512)
  | .folioRestore vf _ => decide (vf ≤ 512)
  | .resumeSave vf => decide (vf ≤ 512)
  | .discard vf => decide (vf ≤ 512)
  | .exportImage vf => decide (vf ≤ 512)
  | .hcmdHalt vf => decide (vf ≤ 512)
  | .hcmdResume vf => decide (vf ≤ 512)
  | .hcmdStep vf => decide (vf ≤ 512)
  | .groupHalt q => decide (q < 32768)
  | .dump vf _ => decide (vf ≤ 512)
  | .evlostRead vf => decide (vf ≤ 512)
  | .traceEnable die _ => decide (die < 4)
  | .traceForce die => decide (die < 4)
  | .traceFreeze die => decide (die < 4)
  | .pmcOverflow core i => decide (core < 256) && decide (i < 16)
  | .correctedError die vf core code => decide (die < 4) && decide (vf ≤ 512) && decide (core < 256) && decide (code < 256)
  | .uncorrectedError _ vf _ _ => decide (vf ≤ 512)
  | .dieHold die _ => decide (die < 5)
  | .dieRelease die => decide (die < 5)
  | .dieReset die => decide (die < 5)
  | .fabricPacketRx die _ vf _ _ => decide (die < 4) && decide (vf ≤ 512)
  | .collectiveStart die _ _ => decide (die < 4)
  | .collectiveStep die _ _ _ => decide (die < 4)
  | .collectiveComplete die _ => decide (die < 4)
  | .collWatchdogExpiry die _ => decide (die < 4)
  | .thermalWarn die _ _ => decide (die < 5)
  | .thermalCrit die _ _ => decide (die < 5)
  | .thermalClear die => decide (die < 5)
  | .droopTrip die _ _ => decide (die < 5)
  | .droopEnd die => decide (die < 5)
  | .railCurrentLimit die _ _ => decide (die < 5)
  | .powerOn boot => decide (boot.digests.length = 8 ∧ boot.dieKeys.length = 5 ∧ 600 ≤ boot.powerCap.toNat ∧ boot.powerCap.toNat ≤ 2400)
  | .pfFlr boot => decide (boot.digests.length = 8 ∧ boot.dieKeys.length = 5 ∧ 600 ≤ boot.powerCap.toNat ∧ boot.powerCap.toNat ≤ 2400)
  | .vfFlr vf => decide (vf ≤ 512)
  | .vfResetDone vf _ => decide (vf ≤ 512)
  | .vfEnable vf _ => decide (vf ≤ 512)
  | .getDeviceInterfaceState vf => decide (vf ≤ 512)
  | .registerWrite _ _ bytes _ => (bytes == 0 || bytes == 1 || bytes == 2 || bytes == 4 || bytes == 8)
  | .kStepBoundary core => decide (core < 256)
  | .mtimeExpiry core => decide (core < 256)
  | .tdiTransition vf _ => decide (vf ≤ 512)
  | .vfDisable vf => decide (vf ≤ 512)
  | _ => true

/-- Well-formed: no operand holds a reserved code, and every event operand names a part the package has. -/
def Instr.wellFormed (i : Instr) : Bool := i.codeRules.all (fun r => !r.2) && i.eventOk

/-- The instruction is a word of 04 R91, not an event. -/
def Instr.isWord : Instr → Bool
  | .registerReturn _ => false
  | .syscAnswer _ _ _ => false
  | .twaitExpiry _ => false
  | .barrierPhaseWake _ => false
  | .barinitResume _ => false
  | .tbwaitWake _ => false
  | .bwaitDone _ => false
  | .bcloseResume _ => false
  | .sdrainDone _ => false
  | .kwaitDone _ => false
  | .lockWaitDone _ => false
  | .allotGrant _ _ => false
  | .streamReadFill _ _ => false
  | .streamWritePerform _ _ => false
  | .bteStart _ => false
  | .copyNbtStart _ => false
  | .copyComplete _ => false
  | .copyFail _ _ => false
  | .mmaComplete _ => false
  | .mfetchDoorbellWrite _ => false
  | .teamAdmit _ _ => false
  | .gatherTimerExpiry _ _ _ => false
  | .expertAgeTimer _ _ _ => false
  | .expertFire _ _ _ _ => false
  | .gatheringLaunch _ _ _ => false
  | .eqStarveTimeout _ _ _ => false
  | .activeSetEnter _ => false
  | .blockedEvict _ => false
  | .yieldHoldExpiry _ => false
  | .aging _ => false
  | .notify _ _ => false
  | .wakeRefill => false
  | .launch _ _ => false
  | .launchComplete _ => false
  | .copy _ _ => false
  | .templateLoad _ _ => false
  | .dumpRead _ _ => false
  | .configureTaskQueue _ _ => false
  | .configureExpert _ _ => false
  | .disableTaskQueue _ _ => false
  | .disableExpert _ _ => false
  | .assignPartitions _ _ => false
  | .writeGrant _ _ => false
  | .clearGrant _ _ => false
  | .stage2Inval _ _ => false
  | .tlbInval _ _ => false
  | .demandFaultRetry _ _ => false
  | .demandFaultFail _ _ => false
  | .featuresOk _ _ => false
  | .queueEnable _ => false
  | .queueReset _ => false
  | .queueResetDone _ _ => false
  | .binderArm => false
  | .binderStop => false
  | .commitReward => false
  | .commitEnv => false
  | .injvalid => false
  | .knobWrite _ _ => false
  | .binderIdleWrite _ _ _ => false
  | .binderBoundary => false
  | .preempt _ => false
  | .sliceExpiry _ => false
  | .groupStop _ => false
  | .saveHandlerTimeout _ _ => false
  | .folioWrite _ => false
  | .restore _ => false
  | .folioRestore _ _ => false
  | .resumeSave _ => false
  | .discard _ => false
  | .exportImage _ => false
  | .hcmdHalt _ => false
  | .hcmdResume _ => false
  | .hcmdStep _ => false
  | .groupHalt _ => false
  | .dump _ _ => false
  | .evlostRead _ => false
  | .droopsRead => false
  | .pdropRead => false
  | .traceEnable _ _ => false
  | .traceForce _ => false
  | .traceFreeze _ => false
  | .pmcOverflow _ _ => false
  | .correctedError _ _ _ _ => false
  | .uncorrectedError _ _ _ _ => false
  | .dieHold _ _ => false
  | .dieRelease _ => false
  | .dieReset _ => false
  | .timeSyncMeasure _ => false
  | .lockTimeout => false
  | .fabricPacketRx _ _ _ _ _ => false
  | .collectiveStart _ _ _ => false
  | .collectiveStep _ _ _ _ => false
  | .collectiveComplete _ _ => false
  | .collWatchdogExpiry _ _ => false
  | .powerArbiterTick _ => false
  | .thermalWarn _ _ _ => false
  | .thermalCrit _ _ _ => false
  | .thermalClear _ => false
  | .droopTrip _ _ _ => false
  | .droopEnd _ => false
  | .railCurrentLimit _ _ _ => false
  | .powerOn _ => false
  | .pfFlr _ => false
  | .vfFlr _ => false
  | .vfResetDone _ _ => false
  | .vfEnable _ _ => false
  | .getMeasurements => false
  | .getDeviceInterfaceState _ => false
  | .registerWrite _ _ _ _ => false
  | .kStepBoundary _ => false
  | .mtimeExpiry _ => false
  | .launchNbtStart _ => false
  | .tdiTransition _ _ => false
  | .vfDisable _ => false
  | _ => true

end Sys2Proof
end

