-- ==== Sys2Proof/Decode.lean ====
section
/-!
DEFINITION. The decoder and the encoder of instruction words (04 R91 to R108). `decode` is total: a word that is no
instruction is rejected by the check of R107 it fails (checks 1, 2, 5 and 6; checks 3, 4 and 7 to 10 need the
executing agent and are made at issue).
-/
namespace Sys2Proof

/-- The n-bit field of a word whose lowest bit is `lo` (00 R5). -/
def fld (lo n : Nat) (w : BitVec 32) : BitVec n := BitVec.ofNat n (w.toNat / 2 ^ lo)

/-- Bit `lo` of a word. -/
def flag (lo : Nat) (w : BitVec 32) : Bool := w.toNat / 2 ^ lo % 2 == 1

/-- Why a word is no instruction: an illegal or reserved opcode, or an illegal field with its lowest bit (R108). -/
inductive Reject where
  | opcode
  | field (low : Nat)
deriving DecidableEq, Repr

/-- The word whose fixed bits are `m` with these operands in their fields. -/
def OpHint.pack (m : Nat) (o : OpHint) : BitVec 32 :=
  BitVec.ofNat 32 (m + o.gaps.toNat * 2 ^ 10 + o.yields.toNat * 2 ^ 2)

/-- The operands that a word of this format holds. -/
def OpHint.unpack (w : BitVec 32) : OpHint :=
  { gaps := fld 10 16 w, yields := fld 2 8 w }

/-- The word whose fixed bits are `m` with these operands in their fields. -/
def OpRep.pack (m : Nat) (o : OpRep) : BitVec 32 :=
  BitVec.ofNat 32 (m + o.cnt.toNat * 2 ^ 20 + o.fmD.toNat * 2 ^ 19 + o.fmA.toNat * 2 ^ 18 + o.fmB.toNat * 2 ^ 17 + o.str.toNat * 2 ^ 15)

/-- The operands that a word of this format holds. -/
def OpRep.unpack (w : BitVec 32) : OpRep :=
  { cnt := fld 20 6 w, fmD := flag 19 w, fmA := flag 18 w, fmB := flag 17 w, str := fld 15 2 w }

/-- The word whose fixed bits are `m` with these operands in their fields. -/
def OpStage.pack (m : Nat) (o : OpStage) : BitVec 32 :=
  BitVec.ofNat 32 (m + o.vd.toNat * 2 ^ 14 + o.va.toNat * 2 ^ 7 + o.vb.toNat)

/-- The operands that a word of this format holds. -/
def OpStage.unpack (w : BitVec 32) : OpStage :=
  { vd := fld 14 7 w, va := fld 7 7 w, vb := fld 0 7 w }

/-- The word whose fixed bits are `m` with these operands in their fields. -/
def OpMode.pack (m : Nat) (o : OpMode) : BitVec 32 :=
  BitVec.ofNat 32 (m + o.mask.toNat * 2 ^ 13 + o.nanp.toNat * 2 ^ 12 + o.ftz.toNat * 2 ^ 11 + o.sat.toNat * 2 ^ 10 + o.rnd.toNat * 2 ^ 7 + o.et.toNat * 2 ^ 3 + o.grd.toNat)

/-- The operands that a word of this format holds. -/
def OpMode.unpack (w : BitVec 32) : OpMode :=
  { mask := fld 13 6 w, nanp := flag 12 w, ftz := flag 11 w, sat := flag 10 w, rnd := fld 7 3 w, et := fld 3 4 w, grd := fld 0 3 w }

/-- The word whose fixed bits are `m` with these operands in their fields. -/
def OpA.pack (m : Nat) (o : OpA) : BitVec 32 :=
  BitVec.ofNat 32 (m + o.sa.toNat)

/-- The operands that a word of this format holds. -/
def OpA.unpack (w : BitVec 32) : OpA :=
  { sa := fld 0 6 w }

/-- The word whose fixed bits are `m` with these operands in their fields. -/
def OpD.pack (m : Nat) (o : OpD) : BitVec 32 :=
  BitVec.ofNat 32 (m + o.sd.toNat)

/-- The operands that a word of this format holds. -/
def OpD.unpack (w : BitVec 32) : OpD :=
  { sd := fld 0 6 w }

/-- The word whose fixed bits are `m` with these operands in their fields. -/
def OpSget.pack (m : Nat) (o : OpSget) : BitVec 32 :=
  BitVec.ofNat 32 (m + o.sd.toNat * 2 ^ 12 + o.num.toNat)

/-- The operands that a word of this format holds. -/
def OpSget.unpack (w : BitVec 32) : OpSget :=
  { sd := fld 12 6 w, num := fld 0 12 w }

/-- The word whose fixed bits are `m` with these operands in their fields. -/
def OpSset.pack (m : Nat) (o : OpSset) : BitVec 32 :=
  BitVec.ofNat 32 (m + o.sa.toNat * 2 ^ 12 + o.num.toNat)

/-- The operands that a word of this format holds. -/
def OpSset.unpack (w : BitVec 32) : OpSset :=
  { sa := fld 12 6 w, num := fld 0 12 w }

/-- The word whose fixed bits are `m` with these operands in their fields. -/
def OpImm.pack (m : Nat) (o : OpImm) : BitVec 32 :=
  BitVec.ofNat 32 (m + o.imm.toNat)

/-- The operands that a word of this format holds. -/
def OpImm.unpack (w : BitVec 32) : OpImm :=
  { imm := fld 0 16 w }

/-- The word whose fixed bits are `m` with these operands in their fields. -/
def OpDA.pack (m : Nat) (o : OpDA) : BitVec 32 :=
  BitVec.ofNat 32 (m + o.sa.toNat * 2 ^ 6 + o.sd.toNat)

/-- The operands that a word of this format holds. -/
def OpDA.unpack (w : BitVec 32) : OpDA :=
  { sa := fld 6 6 w, sd := fld 0 6 w }

/-- The word whose fixed bits are `m` with these operands in their fields. -/
def OpBr.pack (m : Nat) (o : OpBr) : BitVec 32 :=
  BitVec.ofNat 32 (m + o.sa.toNat * 2 ^ 16 + o.off.toNat)

/-- The operands that a word of this format holds. -/
def OpBr.unpack (w : BitVec 32) : OpBr :=
  { sa := fld 16 6 w, off := fld 0 16 w }

/-- The word whose fixed bits are `m` with these operands in their fields. -/
def OpBrP.pack (m : Nat) (o : OpBrP) : BitVec 32 :=
  BitVec.ofNat 32 (m + o.pa.toNat * 2 ^ 16 + o.off.toNat)

/-- The operands that a word of this format holds. -/
def OpBrP.unpack (w : BitVec 32) : OpBrP :=
  { pa := fld 16 3 w, off := fld 0 16 w }

/-- The word whose fixed bits are `m` with these operands in their fields. -/
def OpBrAlways.pack (m : Nat) (o : OpBrAlways) : BitVec 32 :=
  BitVec.ofNat 32 (m + o.off.toNat)

/-- The operands that a word of this format holds. -/
def OpBrAlways.unpack (w : BitVec 32) : OpBrAlways :=
  { off := fld 0 16 w }

/-- The word whose fixed bits are `m` with these operands in their fields. -/
def OpJ.pack (m : Nat) (o : OpJ) : BitVec 32 :=
  BitVec.ofNat 32 (m + o.off.toNat)

/-- The operands that a word of this format holds. -/
def OpJ.unpack (w : BitVec 32) : OpJ :=
  { off := fld 0 26 w }

/-- The word whose fixed bits are `m` with these operands in their fields. -/
def OpJr.pack (m : Nat) (o : OpJr) : BitVec 32 :=
  BitVec.ofNat 32 (m + o.sa.toNat * 2 ^ 10 + o.ta.toNat * 2 ^ 3)

/-- The operands that a word of this format holds. -/
def OpJr.unpack (w : BitVec 32) : OpJr :=
  { sa := fld 10 6 w, ta := flag 3 w }

/-- The word whose fixed bits are `m` with these operands in their fields. -/
def OpLoop.pack (m : Nat) (o : OpLoop) : BitVec 32 :=
  BitVec.ofNat 32 (m + o.len.toNat * 2 ^ 6 + o.cnt.toNat)

/-- The operands that a word of this format holds. -/
def OpLoop.unpack (w : BitVec 32) : OpLoop :=
  { len := fld 6 5 w, cnt := fld 0 6 w }

/-- The word whose fixed bits are `m` with these operands in their fields. -/
def OpSR.pack (m : Nat) (o : OpSR) : BitVec 32 :=
  BitVec.ofNat 32 (m + o.sd.toNat * 2 ^ 16 + o.sa.toNat * 2 ^ 10 + o.sb.toNat * 2 ^ 4 + o.ta.toNat * 2 ^ 3 + o.tb.toNat * 2 ^ 2)

/-- The operands that a word of this format holds. -/
def OpSR.unpack (w : BitVec 32) : OpSR :=
  { sd := fld 16 6 w, sa := fld 10 6 w, sb := fld 4 6 w, ta := flag 3 w, tb := flag 2 w }

/-- The word whose fixed bits are `m` with these operands in their fields. -/
def OpSR1.pack (m : Nat) (o : OpSR1) : BitVec 32 :=
  BitVec.ofNat 32 (m + o.sd.toNat * 2 ^ 16 + o.sa.toNat * 2 ^ 10 + o.ta.toNat * 2 ^ 3)

/-- The operands that a word of this format holds. -/
def OpSR1.unpack (w : BitVec 32) : OpSR1 :=
  { sd := fld 16 6 w, sa := fld 10 6 w, ta := flag 3 w }

/-- The word whose fixed bits are `m` with these operands in their fields. -/
def OpSI.pack (m : Nat) (o : OpSI) : BitVec 32 :=
  BitVec.ofNat 32 (m + o.sd.toNat * 2 ^ 18 + o.sa.toNat * 2 ^ 12 + o.imm.toNat)

/-- The operands that a word of this format holds. -/
def OpSI.unpack (w : BitVec 32) : OpSI :=
  { sd := fld 18 6 w, sa := fld 12 6 w, imm := fld 0 12 w }

/-- The word whose fixed bits are `m` with these operands in their fields. -/
def OpSh.pack (m : Nat) (o : OpSh) : BitVec 32 :=
  BitVec.ofNat 32 (m + o.sd.toNat * 2 ^ 18 + o.sa.toNat * 2 ^ 12 + o.amt.toNat)

/-- The operands that a word of this format holds. -/
def OpSh.unpack (w : BitVec 32) : OpSh :=
  { sd := fld 18 6 w, sa := fld 12 6 w, amt := fld 0 6 w }

/-- The word whose fixed bits are `m` with these operands in their fields. -/
def OpSL.pack (m : Nat) (o : OpSL) : BitVec 32 :=
  BitVec.ofNat 32 (m + o.sd.toNat * 2 ^ 20 + o.imm.toNat)

/-- The operands that a word of this format holds. -/
def OpSL.unpack (w : BitVec 32) : OpSL :=
  { sd := fld 20 6 w, imm := fld 0 20 w }

/-- The word whose fixed bits are `m` with these operands in their fields. -/
def OpSM.pack (m : Nat) (o : OpSM) : BitVec 32 :=
  BitVec.ofNat 32 (m + o.sd.toNat * 2 ^ 17 + o.sa.toNat * 2 ^ 11 + o.off.toNat)

/-- The operands that a word of this format holds. -/
def OpSM.unpack (w : BitVec 32) : OpSM :=
  { sd := fld 17 6 w, sa := fld 11 6 w, off := fld 0 11 w }

/-- The word whose fixed bits are `m` with these operands in their fields. -/
def OpSA.pack (m : Nat) (o : OpSA) : BitVec 32 :=
  BitVec.ofNat 32 (m + o.sem.toNat * 2 ^ 20 + o.scp.toNat * 2 ^ 17 + o.sd.toNat * 2 ^ 11 + o.sa.toNat * 2 ^ 5 + o.sb.toNat)

/-- The operands that a word of this format holds. -/
def OpSA.unpack (w : BitVec 32) : OpSA :=
  { sem := fld 20 2 w, scp := fld 17 3 w, sd := fld 11 6 w, sa := fld 5 6 w, sb := fld 0 5 w }

/-- The word whose fixed bits are `m` with these operands in their fields. -/
def OpSALd.pack (m : Nat) (o : OpSALd) : BitVec 32 :=
  BitVec.ofNat 32 (m + o.sem.toNat * 2 ^ 20 + o.scp.toNat * 2 ^ 17 + o.sd.toNat * 2 ^ 11 + o.sa.toNat * 2 ^ 5)

/-- The operands that a word of this format holds. -/
def OpSALd.unpack (w : BitVec 32) : OpSALd :=
  { sem := fld 20 2 w, scp := fld 17 3 w, sd := fld 11 6 w, sa := fld 5 6 w }

/-- The word whose fixed bits are `m` with these operands in their fields. -/
def OpSASt.pack (m : Nat) (o : OpSASt) : BitVec 32 :=
  BitVec.ofNat 32 (m + o.sem.toNat * 2 ^ 20 + o.scp.toNat * 2 ^ 17 + o.sa.toNat * 2 ^ 5 + o.sb.toNat)

/-- The operands that a word of this format holds. -/
def OpSASt.unpack (w : BitVec 32) : OpSASt :=
  { sem := fld 20 2 w, scp := fld 17 3 w, sa := fld 5 6 w, sb := fld 0 5 w }

/-- The word whose fixed bits are `m` with these operands in their fields. -/
def OpSO.pack (m : Nat) (o : OpSO) : BitVec 32 :=
  BitVec.ofNat 32 (m + o.sd.toNat * 2 ^ 17 + o.sa.toNat * 2 ^ 11 + o.scp.toNat * 2 ^ 8 + o.off.toNat)

/-- The operands that a word of this format holds. -/
def OpSO.unpack (w : BitVec 32) : OpSO :=
  { sd := fld 17 6 w, sa := fld 11 6 w, scp := fld 8 3 w, off := fld 0 8 w }

/-- The word whose fixed bits are `m` with these operands in their fields. -/
def OpVR.pack (m : Nat) (o : OpVR) : BitVec 32 :=
  BitVec.ofNat 32 (m + o.ta.toNat * 2 ^ 22 + o.tb.toNat * 2 ^ 21 + o.vd.toNat * 2 ^ 14 + o.va.toNat * 2 ^ 7 + o.vb.toNat)

/-- The operands that a word of this format holds. -/
def OpVR.unpack (w : BitVec 32) : OpVR :=
  { ta := flag 22 w, tb := flag 21 w, vd := fld 14 7 w, va := fld 7 7 w, vb := fld 0 7 w }

/-- The word whose fixed bits are `m` with these operands in their fields. -/
def OpVI.pack (m : Nat) (o : OpVI) : BitVec 32 :=
  BitVec.ofNat 32 (m + o.ta.toNat * 2 ^ 22 + o.vd.toNat * 2 ^ 15 + o.va.toNat * 2 ^ 8 + o.imm.toNat)

/-- The operands that a word of this format holds. -/
def OpVI.unpack (w : BitVec 32) : OpVI :=
  { ta := flag 22 w, vd := fld 15 7 w, va := fld 8 7 w, imm := fld 0 8 w }

/-- The word whose fixed bits are `m` with these operands in their fields. -/
def OpVR1.pack (m : Nat) (o : OpVR1) : BitVec 32 :=
  BitVec.ofNat 32 (m + o.ta.toNat * 2 ^ 22 + o.vd.toNat * 2 ^ 14 + o.va.toNat * 2 ^ 7)

/-- The operands that a word of this format holds. -/
def OpVR1.unpack (w : BitVec 32) : OpVR1 :=
  { ta := flag 22 w, vd := fld 14 7 w, va := fld 7 7 w }

/-- The word whose fixed bits are `m` with these operands in their fields. -/
def OpCV.pack (m : Nat) (o : OpCV) : BitVec 32 :=
  BitVec.ofNat 32 (m + o.rnd.toNat * 2 ^ 23 + o.ta.toNat * 2 ^ 22 + o.vd.toNat * 2 ^ 15 + o.va.toNat * 2 ^ 8 + o.st.toNat * 2 ^ 4 + o.dt.toNat)

/-- The operands that a word of this format holds. -/
def OpCV.unpack (w : BitVec 32) : OpCV :=
  { rnd := fld 23 3 w, ta := flag 22 w, vd := fld 15 7 w, va := fld 8 7 w, st := fld 4 4 w, dt := fld 0 4 w }

/-- The word whose fixed bits are `m` with these operands in their fields. -/
def OpMX.pack (m : Nat) (o : OpMX) : BitVec 32 :=
  BitVec.ofNat 32 (m + o.fmt.toNat * 2 ^ 23 + o.ta.toNat * 2 ^ 22 + o.vd.toNat * 2 ^ 15 + o.va.toNat * 2 ^ 8)

/-- The operands that a word of this format holds. -/
def OpMX.unpack (w : BitVec 32) : OpMX :=
  { fmt := fld 23 3 w, ta := flag 22 w, vd := fld 15 7 w, va := fld 8 7 w }

/-- The word whose fixed bits are `m` with these operands in their fields. -/
def OpVCmp.pack (m : Nat) (o : OpVCmp) : BitVec 32 :=
  BitVec.ofNat 32 (m + o.ta.toNat * 2 ^ 22 + o.tb.toNat * 2 ^ 21 + o.pd.toNat * 2 ^ 14 + o.va.toNat * 2 ^ 7 + o.vb.toNat)

/-- The operands that a word of this format holds. -/
def OpVCmp.unpack (w : BitVec 32) : OpVCmp :=
  { ta := flag 22 w, tb := flag 21 w, pd := fld 14 3 w, va := fld 7 7 w, vb := fld 0 7 w }

/-- The word whose fixed bits are `m` with these operands in their fields. -/
def OpVSRed.pack (m : Nat) (o : OpVSRed) : BitVec 32 :=
  BitVec.ofNat 32 (m + o.ta.toNat * 2 ^ 22 + o.va.toNat * 2 ^ 8 + o.sb.toNat)

/-- The operands that a word of this format holds. -/
def OpVSRed.unpack (w : BitVec 32) : OpVSRed :=
  { ta := flag 22 w, va := fld 8 7 w, sb := fld 0 6 w }

/-- The word whose fixed bits are `m` with these operands in their fields. -/
def OpPR2.pack (m : Nat) (o : OpPR2) : BitVec 32 :=
  BitVec.ofNat 32 (m + o.pd.toNat * 2 ^ 19 + o.pa.toNat * 2 ^ 16 + o.pb.toNat * 2 ^ 13)

/-- The operands that a word of this format holds. -/
def OpPR2.unpack (w : BitVec 32) : OpPR2 :=
  { pd := fld 19 3 w, pa := fld 16 3 w, pb := fld 13 3 w }

/-- The word whose fixed bits are `m` with these operands in their fields. -/
def OpPR1.pack (m : Nat) (o : OpPR1) : BitVec 32 :=
  BitVec.ofNat 32 (m + o.pd.toNat * 2 ^ 19 + o.pa.toNat * 2 ^ 16)

/-- The operands that a word of this format holds. -/
def OpPR1.unpack (w : BitVec 32) : OpPR1 :=
  { pd := fld 19 3 w, pa := fld 16 3 w }

/-- The word whose fixed bits are `m` with these operands in their fields. -/
def OpPSet.pack (m : Nat) (o : OpPSet) : BitVec 32 :=
  BitVec.ofNat 32 (m + o.pd.toNat * 2 ^ 19 + o.sa.toNat * 2 ^ 7)

/-- The operands that a word of this format holds. -/
def OpPSet.unpack (w : BitVec 32) : OpPSet :=
  { pd := fld 19 3 w, sa := fld 7 6 w }

/-- The word whose fixed bits are `m` with these operands in their fields. -/
def OpPGet.pack (m : Nat) (o : OpPGet) : BitVec 32 :=
  BitVec.ofNat 32 (m + o.pa.toNat * 2 ^ 16 + o.sd.toNat * 2 ^ 7)

/-- The operands that a word of this format holds. -/
def OpPGet.unpack (w : BitVec 32) : OpPGet :=
  { pa := fld 16 3 w, sd := fld 7 6 w }

/-- The word whose fixed bits are `m` with these operands in their fields. -/
def OpVS1.pack (m : Nat) (o : OpVS1) : BitVec 32 :=
  BitVec.ofNat 32 (m + o.ta.toNat * 2 ^ 22 + o.vd.toNat * 2 ^ 15 + o.va.toNat * 2 ^ 8)

/-- The operands that a word of this format holds. -/
def OpVS1.unpack (w : BitVec 32) : OpVS1 :=
  { ta := flag 22 w, vd := fld 15 7 w, va := fld 8 7 w }

/-- The word whose fixed bits are `m` with these operands in their fields. -/
def OpVBc.pack (m : Nat) (o : OpVBc) : BitVec 32 :=
  BitVec.ofNat 32 (m + o.vd.toNat * 2 ^ 15 + o.sb.toNat)

/-- The operands that a word of this format holds. -/
def OpVBc.unpack (w : BitVec 32) : OpVBc :=
  { vd := fld 15 7 w, sb := fld 0 6 w }

/-- The word whose fixed bits are `m` with these operands in their fields. -/
def OpVIota.pack (m : Nat) (o : OpVIota) : BitVec 32 :=
  BitVec.ofNat 32 (m + o.vd.toNat * 2 ^ 15 + o.k.toNat * 2 ^ 8 + o.sb.toNat)

/-- The operands that a word of this format holds. -/
def OpVIota.unpack (w : BitVec 32) : OpVIota :=
  { vd := fld 15 7 w, k := fld 8 7 w, sb := fld 0 6 w }

/-- The word whose fixed bits are `m` with these operands in their fields. -/
def OpVExt.pack (m : Nat) (o : OpVExt) : BitVec 32 :=
  BitVec.ofNat 32 (m + o.ta.toNat * 2 ^ 22 + o.vd.toNat * 2 ^ 15 + o.va.toNat * 2 ^ 8 + o.sb.toNat)

/-- The operands that a word of this format holds. -/
def OpVExt.unpack (w : BitVec 32) : OpVExt :=
  { ta := flag 22 w, vd := fld 15 7 w, va := fld 8 7 w, sb := fld 0 6 w }

/-- The word whose fixed bits are `m` with these operands in their fields. -/
def OpVM.pack (m : Nat) (o : OpVM) : BitVec 32 :=
  BitVec.ofNat 32 (m + o.vd.toNat * 2 ^ 16 + o.sb.toNat * 2 ^ 10 + o.vo.toNat * 2 ^ 3 + o.t.toNat * 2 ^ 2 + o.sc.toNat)

/-- The operands that a word of this format holds. -/
def OpVM.unpack (w : BitVec 32) : OpVM :=
  { vd := fld 16 7 w, sb := fld 10 6 w, vo := fld 3 7 w, t := flag 2 w, sc := fld 0 2 w }

/-- The word whose fixed bits are `m` with these operands in their fields. -/
def OpVLdu.pack (m : Nat) (o : OpVLdu) : BitVec 32 :=
  BitVec.ofNat 32 (m + o.vd.toNat * 2 ^ 16 + o.sb.toNat * 2 ^ 10)

/-- The operands that a word of this format holds. -/
def OpVLdu.unpack (w : BitVec 32) : OpVLdu :=
  { vd := fld 16 7 w, sb := fld 10 6 w }

/-- The word whose fixed bits are `m` with these operands in their fields. -/
def OpAT.pack (m : Nat) (o : OpAT) : BitVec 32 :=
  BitVec.ofNat 32 (m + o.sem.toNat * 2 ^ 20 + o.scp.toNat * 2 ^ 17 + o.vd.toNat * 2 ^ 10 + o.vo.toNat * 2 ^ 3 + o.sbx.toNat)

/-- The operands that a word of this format holds. -/
def OpAT.unpack (w : BitVec 32) : OpAT :=
  { sem := fld 20 2 w, scp := fld 17 3 w, vd := fld 10 7 w, vo := fld 3 7 w, sbx := fld 0 3 w }

/-- The word whose fixed bits are `m` with these operands in their fields. -/
def OpVO.pack (m : Nat) (o : OpVO) : BitVec 32 :=
  BitVec.ofNat 32 (m + o.vd.toNat * 2 ^ 16 + o.sb.toNat * 2 ^ 10 + o.vo.toNat * 2 ^ 3 + o.scp.toNat)

/-- The operands that a word of this format holds. -/
def OpVO.unpack (w : BitVec 32) : OpVO :=
  { vd := fld 16 7 w, sb := fld 10 6 w, vo := fld 3 7 w, scp := fld 0 3 w }

/-- The word whose fixed bits are `m` with these operands in their fields. -/
def OpFence.pack (m : Nat) (o : OpFence) : BitVec 32 :=
  BitVec.ofNat 32 (m + o.scp.toNat * 2 ^ 2 + o.sem.toNat)

/-- The operands that a word of this format holds. -/
def OpFence.unpack (w : BitVec 32) : OpFence :=
  { scp := fld 2 3 w, sem := fld 0 2 w }

/-- The word whose fixed bits are `m` with these operands in their fields. -/
def OpBar.pack (m : Nat) (o : OpBar) : BitVec 32 :=
  BitVec.ofNat 32 (m + o.id.toNat)

/-- The operands that a word of this format holds. -/
def OpBar.unpack (w : BitVec 32) : OpBar :=
  { id := fld 0 4 w }

/-- The word whose fixed bits are `m` with these operands in their fields. -/
def OpBarInit.pack (m : Nat) (o : OpBarInit) : BitVec 32 :=
  BitVec.ofNat 32 (m + o.sa.toNat * 2 ^ 4 + o.id.toNat)

/-- The operands that a word of this format holds. -/
def OpBarInit.unpack (w : BitVec 32) : OpBarInit :=
  { sa := fld 4 6 w, id := fld 0 4 w }

/-- The word whose fixed bits are `m` with these operands in their fields. -/
def OpCJoin.pack (m : Nat) (o : OpCJoin) : BitVec 32 :=
  BitVec.ofNat 32 (m + o.exp.toNat * 2 ^ 12 + o.sa.toNat * 2 ^ 6 + o.sd.toNat)

/-- The operands that a word of this format holds. -/
def OpCJoin.unpack (w : BitVec 32) : OpCJoin :=
  { exp := fld 12 2 w, sa := fld 6 6 w, sd := fld 0 6 w }

/-- The word whose fixed bits are `m` with these operands in their fields. -/
def OpSOpen.pack (m : Nat) (o : OpSOpen) : BitVec 32 :=
  BitVec.ofNat 32 (m + o.sa.toNat * 2 ^ 7 + o.port.toNat)

/-- The operands that a word of this format holds. -/
def OpSOpen.unpack (w : BitVec 32) : OpSOpen :=
  { sa := fld 7 6 w, port := fld 0 7 w }

/-- The word whose fixed bits are `m` with these operands in their fields. -/
def OpPort.pack (m : Nat) (o : OpPort) : BitVec 32 :=
  BitVec.ofNat 32 (m + o.port.toNat)

/-- The operands that a word of this format holds. -/
def OpPort.unpack (w : BitVec 32) : OpPort :=
  { port := fld 0 7 w }

/-- The word whose fixed bits are `m` with these operands in their fields. -/
def OpBClose.pack (m : Nat) (o : OpBClose) : BitVec 32 :=
  BitVec.ofNat 32 (m + o.rw.toNat * 2 ^ 6 + o.sd.toNat)

/-- The operands that a word of this format holds. -/
def OpBClose.unpack (w : BitVec 32) : OpBClose :=
  { rw := fld 6 2 w, sd := fld 0 6 w }

/-- The word whose fixed bits are `m` with these operands in their fields. -/
def OpAB.pack (m : Nat) (o : OpAB) : BitVec 32 :=
  BitVec.ofNat 32 (m + o.sb.toNat * 2 ^ 6 + o.sa.toNat)

/-- The operands that a word of this format holds. -/
def OpAB.unpack (w : BitVec 32) : OpAB :=
  { sb := fld 6 6 w, sa := fld 0 6 w }

/-- The word whose fixed bits are `m` with these operands in their fields. -/
def OpTBArr.pack (m : Nat) (o : OpTBArr) : BitVec 32 :=
  BitVec.ofNat 32 (m + o.scp.toNat * 2 ^ 6 + o.sa.toNat)

/-- The operands that a word of this format holds. -/
def OpTBArr.unpack (w : BitVec 32) : OpTBArr :=
  { scp := fld 6 3 w, sa := fld 0 6 w }

/-- The word whose fixed bits are `m` with these operands in their fields. -/
def OpTBWait.pack (m : Nat) (o : OpTBWait) : BitVec 32 :=
  BitVec.ofNat 32 (m + o.scp.toNat * 2 ^ 12 + o.sa.toNat * 2 ^ 6 + o.sd.toNat)

/-- The operands that a word of this format holds. -/
def OpTBWait.unpack (w : BitVec 32) : OpTBWait :=
  { scp := fld 12 3 w, sa := fld 6 6 w, sd := fld 0 6 w }

/-- The word whose fixed bits are `m` with these operands in their fields. -/
def OpRel.pack (m : Nat) (o : OpRel) : BitVec 32 :=
  BitVec.ofNat 32 (m + o.sa.toNat * 2 ^ 6)

/-- The operands that a word of this format holds. -/
def OpRel.unpack (w : BitVec 32) : OpRel :=
  { sa := fld 6 6 w }

/-- The word whose fixed bits are `m` with these operands in their fields. -/
def OpQSpawn.pack (m : Nat) (o : OpQSpawn) : BitVec 32 :=
  BitVec.ofNat 32 (m + o.sh.toNat * 2 ^ 17 + o.se.toNat * 2 ^ 11 + o.va.toNat * 2 ^ 4)

/-- The operands that a word of this format holds. -/
def OpQSpawn.unpack (w : BitVec 32) : OpQSpawn :=
  { sh := fld 17 6 w, se := fld 11 6 w, va := fld 4 7 w }

/-- The word whose fixed bits are `m` with these operands in their fields. -/
def OpQV.pack (m : Nat) (o : OpQV) : BitVec 32 :=
  BitVec.ofNat 32 (m + o.sh.toNat * 2 ^ 17 + o.va.toNat * 2 ^ 4)

/-- The operands that a word of this format holds. -/
def OpQV.unpack (w : BitVec 32) : OpQV :=
  { sh := fld 17 6 w, va := fld 4 7 w }

/-- The word whose fixed bits are `m` with these operands in their fields. -/
def OpEqFire.pack (m : Nat) (o : OpEqFire) : BitVec 32 :=
  BitVec.ofNat 32 (m + o.sh.toNat * 2 ^ 17 + o.se.toNat * 2 ^ 11)

/-- The operands that a word of this format holds. -/
def OpEqFire.unpack (w : BitVec 32) : OpEqFire :=
  { sh := fld 17 6 w, se := fld 11 6 w }

/-- The word whose fixed bits are `m` with these operands in their fields. -/
def OpDrain.pack (m : Nat) (o : OpDrain) : BitVec 32 :=
  BitVec.ofNat 32 (m + o.rnd.toNat * 2 ^ 20 + o.acc.toNat * 2 ^ 18 + o.q.toNat * 2 ^ 16 + o.vd.toNat * 2 ^ 9 + o.sb.toNat * 2 ^ 3 + o.dt.toNat)

/-- The operands that a word of this format holds. -/
def OpDrain.unpack (w : BitVec 32) : OpDrain :=
  { rnd := fld 20 3 w, acc := fld 18 2 w, q := fld 16 2 w, vd := fld 9 7 w, sb := fld 3 6 w, dt := fld 0 3 w }

/-- The word whose fixed bits are `m` with these operands in their fields. -/
def OpRaw.pack (m : Nat) (o : OpRaw) : BitVec 32 :=
  BitVec.ofNat 32 (m + o.acc.toNat * 2 ^ 18 + o.sr.toNat * 2 ^ 9 + o.sb.toNat * 2 ^ 3)

/-- The operands that a word of this format holds. -/
def OpRaw.unpack (w : BitVec 32) : OpRaw :=
  { acc := fld 18 2 w, sr := fld 9 6 w, sb := fld 3 6 w }

/-- The word whose fixed bits are `m` with these operands in their fields. -/
def OpFillAcc.pack (m : Nat) (o : OpFillAcc) : BitVec 32 :=
  BitVec.ofNat 32 (m + o.acc.toNat * 2 ^ 18 + o.q.toNat * 2 ^ 16 + o.vd.toNat * 2 ^ 9 + o.sb.toNat * 2 ^ 3 + o.dt.toNat)

/-- The operands that a word of this format holds. -/
def OpFillAcc.unpack (w : BitVec 32) : OpFillAcc :=
  { acc := fld 18 2 w, q := fld 16 2 w, vd := fld 9 7 w, sb := fld 3 6 w, dt := fld 0 3 w }

/-- The word whose fixed bits are `m` with these operands in their fields. -/
def OpIdx.pack (m : Nat) (o : OpIdx) : BitVec 32 :=
  BitVec.ofNat 32 (m + o.idx.toNat * 2 ^ 6 + o.sa.toNat)

/-- The operands that a word of this format holds. -/
def OpIdx.unpack (w : BitVec 32) : OpIdx :=
  { idx := fld 6 6 w, sa := fld 0 6 w }

/-- The word whose fixed bits are `m` with these operands in their fields. -/
def OpMma.pack (m : Nat) (o : OpMma) : BitVec 32 :=
  BitVec.ofNat 32 (m + o.wait.toNat * 2 ^ 18 + o.s.toNat * 2 ^ 17 + o.set.toNat * 2 ^ 14 + o.acc.toNat * 2 ^ 12 + o.fb.toNat * 2 ^ 8 + o.ra.toNat * 2 ^ 5 + o.rb.toNat * 2 ^ 2 + o.kx.toNat)

/-- The operands that a word of this format holds. -/
def OpMma.unpack (w : BitVec 32) : OpMma :=
  { wait := fld 18 8 w, s := flag 17 w, set := fld 14 3 w, acc := fld 12 2 w, fb := fld 8 4 w, ra := fld 5 3 w, rb := fld 2 3 w, kx := fld 0 2 w }

/-- The word whose fixed bits are `m` with these operands in their fields. -/
def OpMLdfb.pack (m : Nat) (o : OpMLdfb) : BitVec 32 :=
  BitVec.ofNat 32 (m + o.ma.toNat * 2 ^ 4 + o.fb.toNat)

/-- The operands that a word of this format holds. -/
def OpMLdfb.unpack (w : BitVec 32) : OpMLdfb :=
  { ma := fld 4 4 w, fb := fld 0 4 w }

/-- The word whose fixed bits are `m` with these operands in their fields. -/
def OpMRing.pack (m : Nat) (o : OpMRing) : BitVec 32 :=
  BitVec.ofNat 32 (m + o.ma.toNat * 2 ^ 3 + o.ring.toNat)

/-- The operands that a word of this format holds. -/
def OpMRing.unpack (w : BitVec 32) : OpMRing :=
  { ma := fld 3 4 w, ring := fld 0 3 w }

/-- The word whose fixed bits are `m` with these operands in their fields. -/
def OpMZero.pack (m : Nat) (o : OpMZero) : BitVec 32 :=
  BitVec.ofNat 32 (m + o.acc.toNat)

/-- The operands that a word of this format holds. -/
def OpMZero.unpack (w : BitVec 32) : OpMZero :=
  { acc := fld 0 2 w }

/-- The word whose fixed bits are `m` with these operands in their fields. -/
def OpMWait.pack (m : Nat) (o : OpMWait) : BitVec 32 :=
  BitVec.ofNat 32 (m + o.wait.toNat)

/-- The operands that a word of this format holds. -/
def OpMWait.unpack (w : BitVec 32) : OpMWait :=
  { wait := fld 0 8 w }

/-- The word whose fixed bits are `m` with these operands in their fields. -/
def OpMSig.pack (m : Nat) (o : OpMSig) : BitVec 32 :=
  BitVec.ofNat 32 (m + o.wait.toNat * 2 ^ 4 + o.ma.toNat)

/-- The operands that a word of this format holds. -/
def OpMSig.unpack (w : BitVec 32) : OpMSig :=
  { wait := fld 4 8 w, ma := fld 0 4 w }

/-- The word whose fixed bits are `m` with these operands in their fields. -/
def OpMA.pack (m : Nat) (o : OpMA) : BitVec 32 :=
  BitVec.ofNat 32 (m + o.ma.toNat)

/-- The operands that a word of this format holds. -/
def OpMA.unpack (w : BitVec 32) : OpMA :=
  { ma := fld 0 4 w }

/-- The word whose fixed bits are `m` with these operands in their fields. -/
def OpMPop.pack (m : Nat) (o : OpMPop) : BitVec 32 :=
  BitVec.ofNat 32 (m + o.wait.toNat * 2 ^ 3 + o.ring.toNat)

/-- The operands that a word of this format holds. -/
def OpMPop.unpack (w : BitVec 32) : OpMPop :=
  { wait := fld 3 8 w, ring := fld 0 3 w }

/-- The word whose fixed bits are `m` with these operands in their fields. -/
def OpMAdd.pack (m : Nat) (o : OpMAdd) : BitVec 32 :=
  BitVec.ofNat 32 (m + o.md.toNat * 2 ^ 19 + o.ma.toNat * 2 ^ 15 + o.mb.toNat)

/-- The operands that a word of this format holds. -/
def OpMAdd.unpack (w : BitVec 32) : OpMAdd :=
  { md := fld 19 4 w, ma := fld 15 4 w, mb := fld 0 4 w }

/-- The word whose fixed bits are `m` with these operands in their fields. -/
def OpMAddi.pack (m : Nat) (o : OpMAddi) : BitVec 32 :=
  BitVec.ofNat 32 (m + o.md.toNat * 2 ^ 19 + o.ma.toNat * 2 ^ 15 + o.imm.toNat)

/-- The operands that a word of this format holds. -/
def OpMAddi.unpack (w : BitVec 32) : OpMAddi :=
  { md := fld 19 4 w, ma := fld 15 4 w, imm := fld 0 15 w }

/-- The word whose fixed bits are `m` with these operands in their fields. -/
def OpMLi.pack (m : Nat) (o : OpMLi) : BitVec 32 :=
  BitVec.ofNat 32 (m + o.md.toNat * 2 ^ 19 + o.sh.toNat * 2 ^ 15 + o.imm.toNat)

/-- The operands that a word of this format holds. -/
def OpMLi.unpack (w : BitVec 32) : OpMLi :=
  { md := fld 19 4 w, sh := fld 15 4 w, imm := fld 0 15 w }

/-- The word whose fixed bits are `m` with these operands in their fields. -/
def OpMBnz.pack (m : Nat) (o : OpMBnz) : BitVec 32 :=
  BitVec.ofNat 32 (m + o.ma.toNat * 2 ^ 15 + o.imm.toNat)

/-- The operands that a word of this format holds. -/
def OpMBnz.unpack (w : BitVec 32) : OpMBnz :=
  { ma := fld 15 4 w, imm := fld 0 15 w }

/-- The word whose fixed bits are `m` with these operands in their fields. -/
def OpMJ.pack (m : Nat) (o : OpMJ) : BitVec 32 :=
  BitVec.ofNat 32 (m + o.imm.toNat)

/-- The operands that a word of this format holds. -/
def OpMJ.unpack (w : BitVec 32) : OpMJ :=
  { imm := fld 0 15 w }

/-- The word of an instruction (R91 to R98, R106). An event has no word: it encodes to the illegal word 0. -/
def encode : Instr → BitVec 32
  | .hint o => o.pack 0x04000000
  | .rep o => o.pack 0x08000000
  | .stage o => o.pack 0x0C000000
  | .mode o => o.pack 0x10000000
  | .modev o => o.pack 0x10100000
  | .moder o => o.pack 0x10200000
  | .fill o => o.pack 0x10300000
  | .fillRd o => o.pack 0x10300040
  | .sget o => o.pack 0x10400000
  | .sset o => o.pack 0x10500000
  | .nop => BitVec.ofNat 32 0x14000000
  | .exit => BitVec.ofNat 32 0x14100000
  | .lexit => BitVec.ofNat 32 0x14200000
  | .trap o => o.pack 0x14300000
  | .eret => BitVec.ofNat 32 0x14400000
  | .sysc o => o.pack 0x14500000
  | .brk o => o.pack 0x14600000
  | .twait o => o.pack 0x14700000
  | .yield => BitVec.ofNat 32 0x14800000
  | .bEqz o => o.pack 0x18000000
  | .bNez o => o.pack 0x18400000
  | .bLtz o => o.pack 0x18800000
  | .bGez o => o.pack 0x18C00000
  | .bGtz o => o.pack 0x19000000
  | .bLez o => o.pack 0x19400000
  | .bPany o => o.pack 0x19800000
  | .bPnone o => o.pack 0x19C00000
  | .bPall o => o.pack 0x1A000000
  | .bAlways o => o.pack 0x1A400000
  | .j o => o.pack 0x1C000000
  | .call o => o.pack 0x20000000
  | .jr o => o.pack 0x24000000
  | .callr o => o.pack 0x24400000
  | .loop o => o.pack 0x28000000
  | .add o => o.pack 0x30000000
  | .sub o => o.pack 0x30400000
  | .and o => o.pack 0x30800000
  | .or o => o.pack 0x30C00000
  | .xor o => o.pack 0x31000000
  | .andn o => o.pack 0x31400000
  | .shl o => o.pack 0x31800000
  | .shr o => o.pack 0x31C00000
  | .sar o => o.pack 0x32000000
  | .rol o => o.pack 0x32400000
  | .min o => o.pack 0x32800000
  | .max o => o.pack 0x32C00000
  | .minz o => o.pack 0x33000000
  | .maxz o => o.pack 0x33400000
  | .slt o => o.pack 0x33800000
  | .sltz o => o.pack 0x33C00000
  | .mul o => o.pack 0x34000000
  | .mulh o => o.pack 0x34400000
  | .mulhz o => o.pack 0x34800000
  | .div o => o.pack 0x34C00000
  | .divz o => o.pack 0x35000000
  | .rem o => o.pack 0x35400000
  | .remz o => o.pack 0x35800000
  | .clz o => o.pack 0x35C00000
  | .ctz o => o.pack 0x36000000
  | .popc o => o.pack 0x36400000
  | .brev o => o.pack 0x36800000
  | .sextb o => o.pack 0x36C00000
  | .sexth o => o.pack 0x37000000
  | .sextw o => o.pack 0x37400000
  | .zextw o => o.pack 0x37800000
  | .addi o => o.pack 0x38000000
  | .slti o => o.pack 0x39000000
  | .sltiz o => o.pack 0x3A000000
  | .andi o => o.pack 0x3C000000
  | .ori o => o.pack 0x3D000000
  | .xori o => o.pack 0x3E000000
  | .shli o => o.pack 0x40000000
  | .shri o => o.pack 0x41000000
  | .sari o => o.pack 0x42000000
  | .roli o => o.pack 0x43000000
  | .lis o => o.pack 0x44000000
  | .addpc o => o.pack 0x48000000
  | .lihi o => o.pack 0x4C000000
  | .sldb o => o.pack 0x50000000
  | .sldbz o => o.pack 0x50800000
  | .sldh o => o.pack 0x51000000
  | .sldhz o => o.pack 0x51800000
  | .sldw o => o.pack 0x52000000
  | .sldwz o => o.pack 0x52800000
  | .sldd o => o.pack 0x53000000
  | .sstb o => o.pack 0x54000000
  | .ssth o => o.pack 0x54800000
  | .sstw o => o.pack 0x55000000
  | .sstd o => o.pack 0x55800000
  | .satomAdd o => o.pack 0x58000000
  | .satomAnd o => o.pack 0x58400000
  | .satomOr o => o.pack 0x58800000
  | .satomXor o => o.pack 0x58C00000
  | .satomMin o => o.pack 0x59000000
  | .satomMax o => o.pack 0x59400000
  | .satomMinz o => o.pack 0x59800000
  | .satomMaxz o => o.pack 0x59C00000
  | .satomXchg o => o.pack 0x5A000000
  | .satomCas o => o.pack 0x5A400000
  | .satomLd o => o.pack 0x5A800000
  | .satomSt o => o.pack 0x5AC00000
  | .slda o => o.pack 0x5C000000
  | .sstl o => o.pack 0x5C800000
  | .sldaw o => o.pack 0x5D000000
  | .sstlw o => o.pack 0x5D800000
  | .vadd o => o.pack 0x60000000
  | .vsub o => o.pack 0x60800000
  | .vmul o => o.pack 0x61000000
  | .vmulh o => o.pack 0x61800000
  | .vmad o => o.pack 0x62000000
  | .vmin o => o.pack 0x62800000
  | .vmax o => o.pack 0x63000000
  | .vabsd o => o.pack 0x63800000
  | .vand o => o.pack 0x64000000
  | .vor o => o.pack 0x64800000
  | .vxor o => o.pack 0x65000000
  | .vandn o => o.pack 0x65800000
  | .vshl o => o.pack 0x66000000
  | .vshr o => o.pack 0x66800000
  | .vsar o => o.pack 0x67000000
  | .vrol o => o.pack 0x67800000
  | .vaddi o => o.pack 0x68000000
  | .vmuli o => o.pack 0x68800000
  | .vandi o => o.pack 0x69000000
  | .vori o => o.pack 0x69800000
  | .vxori o => o.pack 0x6A000000
  | .vshli o => o.pack 0x6A800000
  | .vshri o => o.pack 0x6B000000
  | .vsari o => o.pack 0x6B800000
  | .vfadd o => o.pack 0x6C000000
  | .vfsub o => o.pack 0x6C800000
  | .vfmul o => o.pack 0x6D000000
  | .vfmin o => o.pack 0x6D800000
  | .vfmax o => o.pack 0x6E000000
  | .vfabs o => o.pack 0x6E800000
  | .vfneg o => o.pack 0x6F000000
  | .vfsgn o => o.pack 0x6F800000
  | .vfma o => o.pack 0x70000000
  | .vfms o => o.pack 0x70800000
  | .vfnma o => o.pack 0x71000000
  | .vdot2 o => o.pack 0x71800000
  | .vdot4i o => o.pack 0x72000000
  | .vrcp o => o.pack 0x74000000
  | .vrsq o => o.pack 0x74800000
  | .vsqrt o => o.pack 0x75000000
  | .vexp2 o => o.pack 0x75800000
  | .vlog2 o => o.pack 0x76000000
  | .vsin o => o.pack 0x76800000
  | .vcos o => o.pack 0x77000000
  | .vtanh o => o.pack 0x77800000
  | .vcvt o => o.pack 0x78000000
  | .vmxq o => o.pack 0x7C000000
  | .vmxd o => o.pack 0x7C000040
  | .vcmpEq o => o.pack 0x80000000
  | .vcmpNe o => o.pack 0x80800000
  | .vcmpLt o => o.pack 0x81000000
  | .vcmpLe o => o.pack 0x81800000
  | .vcmpGt o => o.pack 0x82000000
  | .vcmpGe o => o.pack 0x82800000
  | .vcmpUnord o => o.pack 0x83000000
  | .vcmpOrd o => o.pack 0x83800000
  | .vperm o => o.pack 0x84000000
  | .vbperm o => o.pack 0x84800000
  | .vshfx o => o.pack 0x88000000
  | .vslideu o => o.pack 0x88800000
  | .vslided o => o.pack 0x89000000
  | .vlaneb o => o.pack 0x89800000
  | .vquad o => o.pack 0x8A000000
  | .vscanadd o => o.pack 0x8C000000
  | .vscanmin o => o.pack 0x8C800000
  | .vscanmax o => o.pack 0x8D000000
  | .vscanor o => o.pack 0x8D800000
  | .vxscanadd o => o.pack 0x8E000000
  | .vxscanmax o => o.pack 0x8E800000
  | .vredadd o => o.pack 0x90000000
  | .vredmin o => o.pack 0x90800000
  | .vredmax o => o.pack 0x91000000
  | .vredand o => o.pack 0x91800000
  | .vredor o => o.pack 0x92000000
  | .pand o => o.pack 0x94000000
  | .por o => o.pack 0x94400000
  | .pxor o => o.pack 0x94800000
  | .pandn o => o.pack 0x94C00000
  | .pnot o => o.pack 0x95000000
  | .pmov o => o.pack 0x95400000
  | .pset o => o.pack 0x95800000
  | .pget o => o.pack 0x95C00000
  | .pcnt o => o.pack 0x96000000
  | .pfirst o => o.pack 0x96400000
  | .qhelp o => o.pack 0x96800000
  | .vmov o => o.pack 0x98000000
  | .vmova o => o.pack 0x98800000
  | .vbcast o => o.pack 0x99000000
  | .viota o => o.pack 0x99800000
  | .vshape o => o.pack 0x9A000000
  | .vgen o => o.pack 0x9A800000
  | .vext o => o.pack 0x9B000000
  | .vldw o => o.pack 0x9C000000
  | .vldh o => o.pack 0x9C800000
  | .vldhz o => o.pack 0x9D000000
  | .vldb o => o.pack 0x9D800000
  | .vldbz o => o.pack 0x9E000000
  | .vldu o => o.pack 0x9E800000
  | .vldq o => o.pack 0x9F000000
  | .vstw o => o.pack 0xA0000000
  | .vsth o => o.pack 0xA0800000
  | .vstb o => o.pack 0xA1000000
  | .vstq o => o.pack 0xA1800000
  | .vatomAdd o => o.pack 0xA4000000
  | .vatomAnd o => o.pack 0xA4400000
  | .vatomOr o => o.pack 0xA4800000
  | .vatomXor o => o.pack 0xA4C00000
  | .vatomMin o => o.pack 0xA5000000
  | .vatomMax o => o.pack 0xA5400000
  | .vatomMinz o => o.pack 0xA5800000
  | .vatomMaxz o => o.pack 0xA5C00000
  | .vatomXchg o => o.pack 0xA6000000
  | .vatomCas o => o.pack 0xA6400000
  | .vatomFadd o => o.pack 0xA6800000
  | .vatomLd o => o.pack 0xA6C00000
  | .vatomSt o => o.pack 0xA7000000
  | .vlda o => o.pack 0xA8000000
  | .vstl o => o.pack 0xA8800000
  | .fence o => o.pack 0xAC000000
  | .bar o => o.pack 0xAC100000
  | .bara o => o.pack 0xAC200000
  | .barw o => o.pack 0xAC300000
  | .barinit o => o.pack 0xAC400000
  | .cjoin o => o.pack 0xAC500000
  | .cleave => BitVec.ofNat 32 0xAC600000
  | .sopen o => o.pack 0xB0000000
  | .sclose o => o.pack 0xB0100000
  | .sdrain o => o.pack 0xB0200000
  | .bclose o => o.pack 0xB4000000
  | .bwait o => o.pack 0xB4100000
  | .tbinit o => o.pack 0xB4200000
  | .tbarr o => o.pack 0xB4300000
  | .tbexp o => o.pack 0xB4400000
  | .tbwait o => o.pack 0xB4500000
  | .vacqW o => o.pack 0xB8001000
  | .vacqT o => o.pack 0xB8000000
  | .vrel o => o.pack 0xB8100000
  | .pgacqW o => o.pack 0xB8201000
  | .pgacqT o => o.pack 0xB8200000
  | .pgrel o => o.pack 0xB8300000
  | .aacqW o => o.pack 0xB8401000
  | .aacqT o => o.pack 0xB8400000
  | .arel o => o.pack 0xB8500000
  | .macqW o => o.pack 0xB8601000
  | .macqT o => o.pack 0xB8600000
  | .mrel => BitVec.ofNat 32 0xB8700000
  | .tspawn o => o.pack 0xBC000000
  | .qpush o => o.pack 0xBC800000
  | .qpop o => o.pack 0xBD000000
  | .qsteal o => o.pack 0xBD800000
  | .eqpush o => o.pack 0xBE000000
  | .eqfire o => o.pack 0xBE800000
  | .adrain o => o.pack 0xC0000000
  | .adrainRaw o => o.pack 0xC0000006
  | .afill o => o.pack 0xC0800000
  | .afillRaw o => o.pack 0xC0800006
  | .kstart o => o.pack 0xC4000000
  | .kwait o => o.pack 0xC4100000
  | .cdrain o => o.pack 0xC8000000
  | .cstate o => o.pack 0xC8100000
  | .cload o => o.pack 0xC8200000
  | .csaved o => o.pack 0xC8300000
  | .crestart o => o.pack 0xC8400000
  | .msave o => o.pack 0xC8500000
  | .mload o => o.pack 0xC8600000
  | .mbox o => o.pack 0xCC000000
  | .dhalt o => o.pack 0xCC100000
  | .dresume o => o.pack 0xCC200000
  | .dstep o => o.pack 0xCC300000
  | .dunpin o => o.pack 0xCC400000
  | .bpset o => o.pack 0xCC500000
  | .warm o => o.pack 0xCC600000
  | .mma o => o.pack 0xE0000000
  | .mldfb o => o.pack 0xE4000000
  | .mring o => o.pack 0xE4100000
  | .mzero o => o.pack 0xE4200000
  | .mwait o => o.pack 0xE4300000
  | .msig o => o.pack 0xE4400000
  | .mfetch o => o.pack 0xE4500000
  | .mend => BitVec.ofNat 32 0xE4600000
  | .mtime o => o.pack 0xE4700000
  | .mpop o => o.pack 0xE4800000
  | .madd o => o.pack 0xE8000000
  | .maddi o => o.pack 0xE8800000
  | .mli o => o.pack 0xE9000000
  | .mbnz o => o.pack 0xE9800000
  | .mj o => o.pack 0xEA000000
  | _ => 0

/-- The members of major 0x03 by their selector (R106). -/
def raw03 (w : BitVec 32) : Option Instr :=
  match (fld 23 3 w).toNat with
  | 0 => some (.stage (OpStage.unpack w))
  | _ => none

/-- The members of major 0x04 by their selector (R106). -/
def raw04 (w : BitVec 32) : Option Instr :=
  match (fld 20 6 w).toNat with
  | 0 => some (.mode (OpMode.unpack w))
  | 1 => some (.modev (OpA.unpack w))
  | 2 => some (.moder (OpD.unpack w))
  | 3 => if flag 6 w then some (.fillRd (OpD.unpack w)) else some (.fill (OpA.unpack w))
  | 4 => some (.sget (OpSget.unpack w))
  | 5 => some (.sset (OpSset.unpack w))
  | _ => none

/-- The members of major 0x05 by their selector (R106). -/
def raw05 (w : BitVec 32) : Option Instr :=
  match (fld 20 6 w).toNat with
  | 0 => some .nop
  | 1 => some .exit
  | 2 => some .lexit
  | 3 => some (.trap (OpImm.unpack w))
  | 4 => some .eret
  | 5 => some (.sysc (OpDA.unpack w))
  | 6 => some (.brk (OpImm.unpack w))
  | 7 => some (.twait (OpA.unpack w))
  | 8 => some .yield
  | _ => none

/-- The members of major 0x06 by their selector (R106). -/
def raw06 (w : BitVec 32) : Option Instr :=
  match (fld 22 4 w).toNat with
  | 0 => some (.bEqz (OpBr.unpack w))
  | 1 => some (.bNez (OpBr.unpack w))
  | 2 => some (.bLtz (OpBr.unpack w))
  | 3 => some (.bGez (OpBr.unpack w))
  | 4 => some (.bGtz (OpBr.unpack w))
  | 5 => some (.bLez (OpBr.unpack w))
  | 6 => some (.bPany (OpBrP.unpack w))
  | 7 => some (.bPnone (OpBrP.unpack w))
  | 8 => some (.bPall (OpBrP.unpack w))
  | 9 => some (.bAlways (OpBrAlways.unpack w))
  | _ => none

/-- The members of major 0x09 by their selector (R106). -/
def raw09 (w : BitVec 32) : Option Instr :=
  match (fld 22 4 w).toNat with
  | 0 => some (.jr (OpJr.unpack w))
  | 1 => some (.callr (OpJr.unpack w))
  | _ => none

/-- The members of major 0x0A by their selector (R106). -/
def raw0A (w : BitVec 32) : Option Instr :=
  match (fld 20 6 w).toNat with
  | 0 => some (.loop (OpLoop.unpack w))
  | _ => none

/-- The members of major 0x0C by their selector (R106). -/
def raw0C (w : BitVec 32) : Option Instr :=
  match (fld 22 4 w).toNat with
  | 0 => some (.add (OpSR.unpack w))
  | 1 => some (.sub (OpSR.unpack w))
  | 2 => some (.and (OpSR.unpack w))
  | 3 => some (.or (OpSR.unpack w))
  | 4 => some (.xor (OpSR.unpack w))
  | 5 => some (.andn (OpSR.unpack w))
  | 6 => some (.shl (OpSR.unpack w))
  | 7 => some (.shr (OpSR.unpack w))
  | 8 => some (.sar (OpSR.unpack w))
  | 9 => some (.rol (OpSR.unpack w))
  | 10 => some (.min (OpSR.unpack w))
  | 11 => some (.max (OpSR.unpack w))
  | 12 => some (.minz (OpSR.unpack w))
  | 13 => some (.maxz (OpSR.unpack w))
  | 14 => some (.slt (OpSR.unpack w))
  | 15 => some (.sltz (OpSR.unpack w))
  | _ => none

/-- The members of major 0x0D by their selector (R106). -/
def raw0D (w : BitVec 32) : Option Instr :=
  match (fld 22 4 w).toNat with
  | 0 => some (.mul (OpSR.unpack w))
  | 1 => some (.mulh (OpSR.unpack w))
  | 2 => some (.mulhz (OpSR.unpack w))
  | 3 => some (.div (OpSR.unpack w))
  | 4 => some (.divz (OpSR.unpack w))
  | 5 => some (.rem (OpSR.unpack w))
  | 6 => some (.remz (OpSR.unpack w))
  | 7 => some (.clz (OpSR1.unpack w))
  | 8 => some (.ctz (OpSR1.unpack w))
  | 9 => some (.popc (OpSR1.unpack w))
  | 10 => some (.brev (OpSR1.unpack w))
  | 11 => some (.sextb (OpSR1.unpack w))
  | 12 => some (.sexth (OpSR1.unpack w))
  | 13 => some (.sextw (OpSR1.unpack w))
  | 14 => some (.zextw (OpSR1.unpack w))
  | _ => none

/-- The members of major 0x0E by their selector (R106). -/
def raw0E (w : BitVec 32) : Option Instr :=
  match (fld 24 2 w).toNat with
  | 0 => some (.addi (OpSI.unpack w))
  | 1 => some (.slti (OpSI.unpack w))
  | 2 => some (.sltiz (OpSI.unpack w))
  | _ => none

/-- The members of major 0x0F by their selector (R106). -/
def raw0F (w : BitVec 32) : Option Instr :=
  match (fld 24 2 w).toNat with
  | 0 => some (.andi (OpSI.unpack w))
  | 1 => some (.ori (OpSI.unpack w))
  | 2 => some (.xori (OpSI.unpack w))
  | _ => none

/-- The members of major 0x10 by their selector (R106). -/
def raw10 (w : BitVec 32) : Option Instr :=
  match (fld 24 2 w).toNat with
  | 0 => some (.shli (OpSh.unpack w))
  | 1 => some (.shri (OpSh.unpack w))
  | 2 => some (.sari (OpSh.unpack w))
  | 3 => some (.roli (OpSh.unpack w))
  | _ => none

/-- The members of major 0x14 by their selector (R106). -/
def raw14 (w : BitVec 32) : Option Instr :=
  match (fld 23 3 w).toNat with
  | 0 => some (.sldb (OpSM.unpack w))
  | 1 => some (.sldbz (OpSM.unpack w))
  | 2 => some (.sldh (OpSM.unpack w))
  | 3 => some (.sldhz (OpSM.unpack w))
  | 4 => some (.sldw (OpSM.unpack w))
  | 5 => some (.sldwz (OpSM.unpack w))
  | 6 => some (.sldd (OpSM.unpack w))
  | _ => none

/-- The members of major 0x15 by their selector (R106). -/
def raw15 (w : BitVec 32) : Option Instr :=
  match (fld 23 3 w).toNat with
  | 0 => some (.sstb (OpSM.unpack w))
  | 1 => some (.ssth (OpSM.unpack w))
  | 2 => some (.sstw (OpSM.unpack w))
  | 3 => some (.sstd (OpSM.unpack w))
  | _ => none

/-- The members of major 0x16 by their selector (R106). -/
def raw16 (w : BitVec 32) : Option Instr :=
  match (fld 22 4 w).toNat with
  | 0 => some (.satomAdd (OpSA.unpack w))
  | 1 => some (.satomAnd (OpSA.unpack w))
  | 2 => some (.satomOr (OpSA.unpack w))
  | 3 => some (.satomXor (OpSA.unpack w))
  | 4 => some (.satomMin (OpSA.unpack w))
  | 5 => some (.satomMax (OpSA.unpack w))
  | 6 => some (.satomMinz (OpSA.unpack w))
  | 7 => some (.satomMaxz (OpSA.unpack w))
  | 8 => some (.satomXchg (OpSA.unpack w))
  | 9 => some (.satomCas (OpSA.unpack w))
  | 10 => some (.satomLd (OpSALd.unpack w))
  | 11 => some (.satomSt (OpSASt.unpack w))
  | _ => none

/-- The members of major 0x17 by their selector (R106). -/
def raw17 (w : BitVec 32) : Option Instr :=
  match (fld 23 3 w).toNat with
  | 0 => some (.slda (OpSO.unpack w))
  | 1 => some (.sstl (OpSO.unpack w))
  | 2 => some (.sldaw (OpSO.unpack w))
  | 3 => some (.sstlw (OpSO.unpack w))
  | _ => none

/-- The members of major 0x18 by their selector (R106). -/
def raw18 (w : BitVec 32) : Option Instr :=
  match (fld 23 3 w).toNat with
  | 0 => some (.vadd (OpVR.unpack w))
  | 1 => some (.vsub (OpVR.unpack w))
  | 2 => some (.vmul (OpVR.unpack w))
  | 3 => some (.vmulh (OpVR.unpack w))
  | 4 => some (.vmad (OpVR.unpack w))
  | 5 => some (.vmin (OpVR.unpack w))
  | 6 => some (.vmax (OpVR.unpack w))
  | 7 => some (.vabsd (OpVR.unpack w))
  | _ => none

/-- The members of major 0x19 by their selector (R106). -/
def raw19 (w : BitVec 32) : Option Instr :=
  match (fld 23 3 w).toNat with
  | 0 => some (.vand (OpVR.unpack w))
  | 1 => some (.vor (OpVR.unpack w))
  | 2 => some (.vxor (OpVR.unpack w))
  | 3 => some (.vandn (OpVR.unpack w))
  | 4 => some (.vshl (OpVR.unpack w))
  | 5 => some (.vshr (OpVR.unpack w))
  | 6 => some (.vsar (OpVR.unpack w))
  | 7 => some (.vrol (OpVR.unpack w))
  | _ => none

/-- The members of major 0x1A by their selector (R106). -/
def raw1A (w : BitVec 32) : Option Instr :=
  match (fld 23 3 w).toNat with
  | 0 => some (.vaddi (OpVI.unpack w))
  | 1 => some (.vmuli (OpVI.unpack w))
  | 2 => some (.vandi (OpVI.unpack w))
  | 3 => some (.vori (OpVI.unpack w))
  | 4 => some (.vxori (OpVI.unpack w))
  | 5 => some (.vshli (OpVI.unpack w))
  | 6 => some (.vshri (OpVI.unpack w))
  | 7 => some (.vsari (OpVI.unpack w))
  | _ => none

/-- The members of major 0x1B by their selector (R106). -/
def raw1B (w : BitVec 32) : Option Instr :=
  match (fld 23 3 w).toNat with
  | 0 => some (.vfadd (OpVR.unpack w))
  | 1 => some (.vfsub (OpVR.unpack w))
  | 2 => some (.vfmul (OpVR.unpack w))
  | 3 => some (.vfmin (OpVR.unpack w))
  | 4 => some (.vfmax (OpVR.unpack w))
  | 5 => some (.vfabs (OpVR1.unpack w))
  | 6 => some (.vfneg (OpVR1.unpack w))
  | 7 => some (.vfsgn (OpVR.unpack w))
  | _ => none

/-- The members of major 0x1C by their selector (R106). -/
def raw1C (w : BitVec 32) : Option Instr :=
  match (fld 23 3 w).toNat with
  | 0 => some (.vfma (OpVR.unpack w))
  | 1 => some (.vfms (OpVR.unpack w))
  | 2 => some (.vfnma (OpVR.unpack w))
  | 3 => some (.vdot2 (OpVR.unpack w))
  | 4 => some (.vdot4i (OpVR.unpack w))
  | _ => none

/-- The members of major 0x1D by their selector (R106). -/
def raw1D (w : BitVec 32) : Option Instr :=
  match (fld 23 3 w).toNat with
  | 0 => some (.vrcp (OpVR1.unpack w))
  | 1 => some (.vrsq (OpVR1.unpack w))
  | 2 => some (.vsqrt (OpVR1.unpack w))
  | 3 => some (.vexp2 (OpVR1.unpack w))
  | 4 => some (.vlog2 (OpVR1.unpack w))
  | 5 => some (.vsin (OpVR1.unpack w))
  | 6 => some (.vcos (OpVR1.unpack w))
  | 7 => some (.vtanh (OpVR1.unpack w))
  | _ => none

/-- Major 0x1F: FN is the block format, X selects the member (R106). -/
def raw1F (w : BitVec 32) : Option Instr :=
  if 5 < (fld 23 3 w).toNat then none else
  match (fld 6 2 w).toNat with
  | 0 => some (.vmxq (OpMX.unpack w))
  | 1 => some (.vmxd (OpMX.unpack w))
  | _ => none

/-- The members of major 0x20 by their selector (R106). -/
def raw20 (w : BitVec 32) : Option Instr :=
  match (fld 23 3 w).toNat with
  | 0 => some (.vcmpEq (OpVCmp.unpack w))
  | 1 => some (.vcmpNe (OpVCmp.unpack w))
  | 2 => some (.vcmpLt (OpVCmp.unpack w))
  | 3 => some (.vcmpLe (OpVCmp.unpack w))
  | 4 => some (.vcmpGt (OpVCmp.unpack w))
  | 5 => some (.vcmpGe (OpVCmp.unpack w))
  | 6 => some (.vcmpUnord (OpVCmp.unpack w))
  | 7 => some (.vcmpOrd (OpVCmp.unpack w))
  | _ => none

/-- The members of major 0x21 by their selector (R106). -/
def raw21 (w : BitVec 32) : Option Instr :=
  match (fld 23 3 w).toNat with
  | 0 => some (.vperm (OpVR.unpack w))
  | 1 => some (.vbperm (OpVR.unpack w))
  | _ => none

/-- The members of major 0x22 by their selector (R106). -/
def raw22 (w : BitVec 32) : Option Instr :=
  match (fld 23 3 w).toNat with
  | 0 => some (.vshfx (OpVI.unpack w))
  | 1 => some (.vslideu (OpVI.unpack w))
  | 2 => some (.vslided (OpVI.unpack w))
  | 3 => some (.vlaneb (OpVI.unpack w))
  | 4 => some (.vquad (OpVI.unpack w))
  | _ => none

/-- The members of major 0x23 by their selector (R106). -/
def raw23 (w : BitVec 32) : Option Instr :=
  match (fld 23 3 w).toNat with
  | 0 => some (.vscanadd (OpVR1.unpack w))
  | 1 => some (.vscanmin (OpVR1.unpack w))
  | 2 => some (.vscanmax (OpVR1.unpack w))
  | 3 => some (.vscanor (OpVR1.unpack w))
  | 4 => some (.vxscanadd (OpVR1.unpack w))
  | 5 => some (.vxscanmax (OpVR1.unpack w))
  | _ => none

/-- The members of major 0x24 by their selector (R106). -/
def raw24 (w : BitVec 32) : Option Instr :=
  match (fld 23 3 w).toNat with
  | 0 => some (.vredadd (OpVSRed.unpack w))
  | 1 => some (.vredmin (OpVSRed.unpack w))
  | 2 => some (.vredmax (OpVSRed.unpack w))
  | 3 => some (.vredand (OpVSRed.unpack w))
  | 4 => some (.vredor (OpVSRed.unpack w))
  | _ => none

/-- The members of major 0x25 by their selector (R106). -/
def raw25 (w : BitVec 32) : Option Instr :=
  match (fld 22 4 w).toNat with
  | 0 => some (.pand (OpPR2.unpack w))
  | 1 => some (.por (OpPR2.unpack w))
  | 2 => some (.pxor (OpPR2.unpack w))
  | 3 => some (.pandn (OpPR2.unpack w))
  | 4 => some (.pnot (OpPR1.unpack w))
  | 5 => some (.pmov (OpPR1.unpack w))
  | 6 => some (.pset (OpPSet.unpack w))
  | 7 => some (.pget (OpPGet.unpack w))
  | 8 => some (.pcnt (OpPGet.unpack w))
  | 9 => some (.pfirst (OpPGet.unpack w))
  | 10 => some (.qhelp (OpPR1.unpack w))
  | _ => none

/-- The members of major 0x26 by their selector (R106). -/
def raw26 (w : BitVec 32) : Option Instr :=
  match (fld 23 3 w).toNat with
  | 0 => some (.vmov (OpVS1.unpack w))
  | 1 => some (.vmova (OpVS1.unpack w))
  | 2 => some (.vbcast (OpVBc.unpack w))
  | 3 => some (.viota (OpVIota.unpack w))
  | 4 => some (.vshape (OpVSRed.unpack w))
  | 5 => some (.vgen (OpVS1.unpack w))
  | 6 => some (.vext (OpVExt.unpack w))
  | _ => none

/-- The members of major 0x27 by their selector (R106). -/
def raw27 (w : BitVec 32) : Option Instr :=
  match (fld 23 3 w).toNat with
  | 0 => some (.vldw (OpVM.unpack w))
  | 1 => some (.vldh (OpVM.unpack w))
  | 2 => some (.vldhz (OpVM.unpack w))
  | 3 => some (.vldb (OpVM.unpack w))
  | 4 => some (.vldbz (OpVM.unpack w))
  | 5 => some (.vldu (OpVLdu.unpack w))
  | 6 => some (.vldq (OpVM.unpack w))
  | _ => none

/-- The members of major 0x28 by their selector (R106). -/
def raw28 (w : BitVec 32) : Option Instr :=
  match (fld 23 3 w).toNat with
  | 0 => some (.vstw (OpVM.unpack w))
  | 1 => some (.vsth (OpVM.unpack w))
  | 2 => some (.vstb (OpVM.unpack w))
  | 3 => some (.vstq (OpVM.unpack w))
  | _ => none

/-- The members of major 0x29 by their selector (R106). -/
def raw29 (w : BitVec 32) : Option Instr :=
  match (fld 22 4 w).toNat with
  | 0 => some (.vatomAdd (OpAT.unpack w))
  | 1 => some (.vatomAnd (OpAT.unpack w))
  | 2 => some (.vatomOr (OpAT.unpack w))
  | 3 => some (.vatomXor (OpAT.unpack w))
  | 4 => some (.vatomMin (OpAT.unpack w))
  | 5 => some (.vatomMax (OpAT.unpack w))
  | 6 => some (.vatomMinz (OpAT.unpack w))
  | 7 => some (.vatomMaxz (OpAT.unpack w))
  | 8 => some (.vatomXchg (OpAT.unpack w))
  | 9 => some (.vatomCas (OpAT.unpack w))
  | 10 => some (.vatomFadd (OpAT.unpack w))
  | 11 => some (.vatomLd (OpAT.unpack w))
  | 12 => some (.vatomSt (OpAT.unpack w))
  | _ => none

/-- The members of major 0x2A by their selector (R106). -/
def raw2A (w : BitVec 32) : Option Instr :=
  match (fld 23 3 w).toNat with
  | 0 => some (.vlda (OpVO.unpack w))
  | 1 => some (.vstl (OpVO.unpack w))
  | _ => none

/-- The members of major 0x2B by their selector (R106). -/
def raw2B (w : BitVec 32) : Option Instr :=
  match (fld 20 6 w).toNat with
  | 0 => some (.fence (OpFence.unpack w))
  | 1 => some (.bar (OpBar.unpack w))
  | 2 => some (.bara (OpBar.unpack w))
  | 3 => some (.barw (OpBar.unpack w))
  | 4 => some (.barinit (OpBarInit.unpack w))
  | 5 => some (.cjoin (OpCJoin.unpack w))
  | 6 => some .cleave
  | _ => none

/-- The members of major 0x2C by their selector (R106). -/
def raw2C (w : BitVec 32) : Option Instr :=
  match (fld 20 6 w).toNat with
  | 0 => some (.sopen (OpSOpen.unpack w))
  | 1 => some (.sclose (OpPort.unpack w))
  | 2 => some (.sdrain (OpPort.unpack w))
  | _ => none

/-- The members of major 0x2D by their selector (R106). -/
def raw2D (w : BitVec 32) : Option Instr :=
  match (fld 20 6 w).toNat with
  | 0 => some (.bclose (OpBClose.unpack w))
  | 1 => some (.bwait (OpDA.unpack w))
  | 2 => some (.tbinit (OpAB.unpack w))
  | 3 => some (.tbarr (OpTBArr.unpack w))
  | 4 => some (.tbexp (OpAB.unpack w))
  | 5 => some (.tbwait (OpTBWait.unpack w))
  | _ => none

/-- The members of major 0x2E by their selector (R106). -/
noncomputable def raw2E (w : BitVec 32) : Option Instr :=
  match (fld 20 6 w).toNat with
  | 0 => if flag 12 w then some (.vacqW (OpDA.unpack w)) else some (.vacqT (OpDA.unpack w))
  | 1 => some (.vrel (OpRel.unpack w))
  | 2 => if flag 12 w then some (.pgacqW (OpDA.unpack w)) else some (.pgacqT (OpDA.unpack w))
  | 3 => some (.pgrel (OpRel.unpack w))
  | 4 => if flag 12 w then some (.aacqW (OpDA.unpack w)) else some (.aacqT (OpDA.unpack w))
  | 5 => some (.arel (OpRel.unpack w))
  | 6 => if flag 12 w then some (.macqW (OpDA.unpack w)) else some (.macqT (OpDA.unpack w))
  | 7 => some .mrel
  | _ => none

/-- The members of major 0x2F by their selector (R106). -/
noncomputable def raw2F (w : BitVec 32) : Option Instr :=
  match (fld 23 3 w).toNat with
  | 0 => some (.tspawn (OpQSpawn.unpack w))
  | 1 => some (.qpush (OpQV.unpack w))
  | 2 => some (.qpop (OpQV.unpack w))
  | 3 => some (.qsteal (OpQV.unpack w))
  | 4 => some (.eqpush (OpQV.unpack w))
  | 5 => some (.eqfire (OpEqFire.unpack w))
  | _ => none

/-- The members of major 0x30 by their selector (R106). -/
noncomputable def raw30 (w : BitVec 32) : Option Instr :=
  match (fld 23 3 w).toNat with
  | 0 => if fld 0 3 w = 6 then some (.adrainRaw (OpRaw.unpack w)) else some (.adrain (OpDrain.unpack w))
  | 1 => if fld 0 3 w = 6 then some (.afillRaw (OpRaw.unpack w)) else some (.afill (OpFillAcc.unpack w))
  | _ => none

/-- The members of major 0x31 by their selector (R106). -/
noncomputable def raw31 (w : BitVec 32) : Option Instr :=
  match (fld 20 6 w).toNat with
  | 0 => some (.kstart (OpAB.unpack w))
  | 1 => some (.kwait (OpDA.unpack w))
  | _ => none

/-- The members of major 0x32 by their selector (R106). -/
noncomputable def raw32 (w : BitVec 32) : Option Instr :=
  match (fld 20 6 w).toNat with
  | 0 => some (.cdrain (OpDA.unpack w))
  | 1 => some (.cstate (OpDA.unpack w))
  | 2 => some (.cload (OpAB.unpack w))
  | 3 => some (.csaved (OpA.unpack w))
  | 4 => some (.crestart (OpA.unpack w))
  | 5 => some (.msave (OpA.unpack w))
  | 6 => some (.mload (OpA.unpack w))
  | _ => none

/-- The members of major 0x33 by their selector (R106). -/
noncomputable def raw33 (w : BitVec 32) : Option Instr :=
  match (fld 20 6 w).toNat with
  | 0 => some (.mbox (OpIdx.unpack w))
  | 1 => some (.dhalt (OpDA.unpack w))
  | 2 => some (.dresume (OpDA.unpack w))
  | 3 => some (.dstep (OpDA.unpack w))
  | 4 => some (.dunpin (OpDA.unpack w))
  | 5 => some (.bpset (OpIdx.unpack w))
  | 6 => some (.warm (OpA.unpack w))
  | _ => none

/-- The members of major 0x39 by their selector (R106). -/
noncomputable def raw39 (w : BitVec 32) : Option Instr :=
  match (fld 20 6 w).toNat with
  | 0 => some (.mldfb (OpMLdfb.unpack w))
  | 1 => some (.mring (OpMRing.unpack w))
  | 2 => some (.mzero (OpMZero.unpack w))
  | 3 => some (.mwait (OpMWait.unpack w))
  | 4 => some (.msig (OpMSig.unpack w))
  | 5 => some (.mfetch (OpMA.unpack w))
  | 6 => some .mend
  | 7 => some (.mtime (OpMA.unpack w))
  | 8 => some (.mpop (OpMPop.unpack w))
  | _ => none

/-- The members of major 0x3A by their selector (R106). -/
noncomputable def raw3A (w : BitVec 32) : Option Instr :=
  match (fld 23 3 w).toNat with
  | 0 => some (.madd (OpMAdd.unpack w))
  | 1 => some (.maddi (OpMAddi.unpack w))
  | 2 => some (.mli (OpMLi.unpack w))
  | 3 => some (.mbnz (OpMBnz.unpack w))
  | 4 => some (.mj (OpMJ.unpack w))
  | _ => none

/-- The instruction that the major and the selector of a word name, with the word's operands (R106). -/
noncomputable def rawDecode (w : BitVec 32) : Option Instr :=
  match (fld 26 6 w).toNat with
  | 0x01 => some (.hint (OpHint.unpack w))
  | 0x02 => some (.rep (OpRep.unpack w))
  | 0x03 => raw03 w
  | 0x04 => raw04 w
  | 0x05 => raw05 w
  | 0x06 => raw06 w
  | 0x07 => some (.j (OpJ.unpack w))
  | 0x08 => some (.call (OpJ.unpack w))
  | 0x09 => raw09 w
  | 0x0A => raw0A w
  | 0x0C => raw0C w
  | 0x0D => raw0D w
  | 0x0E => raw0E w
  | 0x0F => raw0F w
  | 0x10 => raw10 w
  | 0x11 => some (.lis (OpSL.unpack w))
  | 0x12 => some (.addpc (OpSL.unpack w))
  | 0x13 => some (.lihi (OpSL.unpack w))
  | 0x14 => raw14 w
  | 0x15 => raw15 w
  | 0x16 => raw16 w
  | 0x17 => raw17 w
  | 0x18 => raw18 w
  | 0x19 => raw19 w
  | 0x1A => raw1A w
  | 0x1B => raw1B w
  | 0x1C => raw1C w
  | 0x1D => raw1D w
  | 0x1E => some (.vcvt (OpCV.unpack w))
  | 0x1F => raw1F w
  | 0x20 => raw20 w
  | 0x21 => raw21 w
  | 0x22 => raw22 w
  | 0x23 => raw23 w
  | 0x24 => raw24 w
  | 0x25 => raw25 w
  | 0x26 => raw26 w
  | 0x27 => raw27 w
  | 0x28 => raw28 w
  | 0x29 => raw29 w
  | 0x2A => raw2A w
  | 0x2B => raw2B w
  | 0x2C => raw2C w
  | 0x2D => raw2D w
  | 0x2E => raw2E w
  | 0x2F => raw2F w
  | 0x30 => raw30 w
  | 0x31 => raw31 w
  | 0x32 => raw32 w
  | 0x33 => raw33 w
  | 0x38 => some (.mma (OpMma.unpack w))
  | 0x39 => raw39 w
  | 0x3A => raw3A w
  | _ => none

/-- The fields of an instruction's word that must be zero, as (highest bit, lowest bit): the fields its description
leaves unused, and in CT format each maximal run of undefined PAY bits (R100, R108). -/
def Instr.zeroFields : Instr → List (Nat × Nat)
  | .hint _ => [(1, 0)]
  | .rep _ => [(14, 0)]
  | .stage _ => [(22, 22), (21, 21)]
  | .mode _ => [(19, 19)]
  | .modev _ => [(19, 6)]
  | .moder _ => [(19, 6)]
  | .fill _ => [(19, 7)]
  | .fillRd _ => [(19, 7)]
  | .sget _ => [(19, 18)]
  | .sset _ => [(19, 18)]
  | .nop => [(19, 0)]
  | .exit => [(19, 0)]
  | .lexit => [(19, 0)]
  | .trap _ => [(19, 16)]
  | .eret => [(19, 0)]
  | .sysc _ => [(19, 12)]
  | .brk _ => [(19, 16)]
  | .twait _ => [(19, 6)]
  | .yield => [(19, 0)]
  | .bPany _ => [(21, 19)]
  | .bPnone _ => [(21, 19)]
  | .bPall _ => [(21, 19)]
  | .bAlways _ => [(21, 16)]
  | .jr _ => [(21, 16), (9, 4), (2, 2), (1, 0)]
  | .callr _ => [(21, 16), (9, 4), (2, 2), (1, 0)]
  | .loop _ => [(19, 11)]
  | .add _ => [(1, 0)]
  | .sub _ => [(1, 0)]
  | .and _ => [(1, 0)]
  | .or _ => [(1, 0)]
  | .xor _ => [(1, 0)]
  | .andn _ => [(1, 0)]
  | .shl _ => [(1, 0)]
  | .shr _ => [(1, 0)]
  | .sar _ => [(1, 0)]
  | .rol _ => [(1, 0)]
  | .min _ => [(1, 0)]
  | .max _ => [(1, 0)]
  | .minz _ => [(1, 0)]
  | .maxz _ => [(1, 0)]
  | .slt _ => [(1, 0)]
  | .sltz _ => [(1, 0)]
  | .mul _ => [(1, 0)]
  | .mulh _ => [(1, 0)]
  | .mulhz _ => [(1, 0)]
  | .div _ => [(1, 0)]
  | .divz _ => [(1, 0)]
  | .rem _ => [(1, 0)]
  | .remz _ => [(1, 0)]
  | .clz _ => [(9, 4), (2, 2), (1, 0)]
  | .ctz _ => [(9, 4), (2, 2), (1, 0)]
  | .popc _ => [(9, 4), (2, 2), (1, 0)]
  | .brev _ => [(9, 4), (2, 2), (1, 0)]
  | .sextb _ => [(9, 4), (2, 2), (1, 0)]
  | .sexth _ => [(9, 4), (2, 2), (1, 0)]
  | .sextw _ => [(9, 4), (2, 2), (1, 0)]
  | .zextw _ => [(9, 4), (2, 2), (1, 0)]
  | .shli _ => [(11, 6)]
  | .shri _ => [(11, 6)]
  | .sari _ => [(11, 6)]
  | .roli _ => [(11, 6)]
  | .satomLd _ => [(4, 0)]
  | .satomSt _ => [(16, 11)]
  | .vfabs _ => [(21, 21), (6, 0)]
  | .vfneg _ => [(21, 21), (6, 0)]
  | .vrcp _ => [(21, 21), (6, 0)]
  | .vrsq _ => [(21, 21), (6, 0)]
  | .vsqrt _ => [(21, 21), (6, 0)]
  | .vexp2 _ => [(21, 21), (6, 0)]
  | .vlog2 _ => [(21, 21), (6, 0)]
  | .vsin _ => [(21, 21), (6, 0)]
  | .vcos _ => [(21, 21), (6, 0)]
  | .vtanh _ => [(21, 21), (6, 0)]
  | .vmxq _ => [(5, 0)]
  | .vmxd _ => [(5, 0)]
  | .vcmpEq _ => [(20, 17)]
  | .vcmpNe _ => [(20, 17)]
  | .vcmpLt _ => [(20, 17)]
  | .vcmpLe _ => [(20, 17)]
  | .vcmpGt _ => [(20, 17)]
  | .vcmpGe _ => [(20, 17)]
  | .vcmpUnord _ => [(20, 17)]
  | .vcmpOrd _ => [(20, 17)]
  | .vscanadd _ => [(21, 21), (6, 0)]
  | .vscanmin _ => [(21, 21), (6, 0)]
  | .vscanmax _ => [(21, 21), (6, 0)]
  | .vscanor _ => [(21, 21), (6, 0)]
  | .vxscanadd _ => [(21, 21), (6, 0)]
  | .vxscanmax _ => [(21, 21), (6, 0)]
  | .vredadd _ => [(21, 15), (7, 6)]
  | .vredmin _ => [(21, 15), (7, 6)]
  | .vredmax _ => [(21, 15), (7, 6)]
  | .vredand _ => [(21, 15), (7, 6)]
  | .vredor _ => [(21, 15), (7, 6)]
  | .pand _ => [(12, 7), (6, 0)]
  | .por _ => [(12, 7), (6, 0)]
  | .pxor _ => [(12, 7), (6, 0)]
  | .pandn _ => [(12, 7), (6, 0)]
  | .pnot _ => [(15, 13), (12, 7), (6, 0)]
  | .pmov _ => [(15, 13), (12, 7), (6, 0)]
  | .pset _ => [(18, 16), (15, 13), (6, 0)]
  | .pget _ => [(21, 19), (15, 13), (6, 0)]
  | .pcnt _ => [(21, 19), (15, 13), (6, 0)]
  | .pfirst _ => [(21, 19), (15, 13), (6, 0)]
  | .qhelp _ => [(15, 13), (12, 7), (6, 0)]
  | .vmov _ => [(7, 6), (5, 0)]
  | .vmova _ => [(7, 6), (5, 0)]
  | .vbcast _ => [(22, 22), (14, 8), (7, 6)]
  | .viota _ => [(22, 22), (7, 6)]
  | .vshape _ => [(21, 15), (7, 6)]
  | .vgen _ => [(7, 6), (5, 0)]
  | .vext _ => [(7, 6)]
  | .vldu _ => [(9, 3), (2, 2), (1, 0)]
  | .fence _ => [(19, 5)]
  | .bar _ => [(19, 4)]
  | .bara _ => [(19, 4)]
  | .barw _ => [(19, 4)]
  | .barinit _ => [(19, 10)]
  | .cjoin _ => [(19, 14)]
  | .cleave => [(19, 0)]
  | .sopen _ => [(19, 13)]
  | .sclose _ => [(19, 7)]
  | .sdrain _ => [(19, 7)]
  | .bclose _ => [(19, 8)]
  | .bwait _ => [(19, 12)]
  | .tbinit _ => [(19, 12)]
  | .tbarr _ => [(19, 9)]
  | .tbexp _ => [(19, 12)]
  | .tbwait _ => [(19, 15)]
  | .vacqW _ => [(19, 13)]
  | .vacqT _ => [(19, 13)]
  | .vrel _ => [(19, 12), (5, 0)]
  | .pgacqW _ => [(19, 13)]
  | .pgacqT _ => [(19, 13)]
  | .pgrel _ => [(19, 12), (5, 0)]
  | .aacqW _ => [(19, 13)]
  | .aacqT _ => [(19, 13)]
  | .arel _ => [(19, 12), (5, 0)]
  | .macqW _ => [(19, 13)]
  | .macqT _ => [(19, 13)]
  | .mrel => [(19, 0)]
  | .tspawn _ => [(3, 0)]
  | .qpush _ => [(16, 11), (3, 0)]
  | .qpop _ => [(16, 11), (3, 0)]
  | .qsteal _ => [(16, 11), (3, 0)]
  | .eqpush _ => [(16, 11), (3, 0)]
  | .eqfire _ => [(10, 4), (3, 0)]
  | .adrainRaw _ => [(22, 20), (17, 16), (15, 15)]
  | .afill _ => [(22, 20)]
  | .afillRaw _ => [(22, 20), (17, 16), (15, 15)]
  | .kstart _ => [(19, 12)]
  | .kwait _ => [(19, 12)]
  | .cdrain _ => [(19, 12)]
  | .cstate _ => [(19, 12)]
  | .cload _ => [(19, 12)]
  | .csaved _ => [(19, 6)]
  | .crestart _ => [(19, 6)]
  | .msave _ => [(19, 6)]
  | .mload _ => [(19, 6)]
  | .mbox _ => [(19, 12)]
  | .dhalt _ => [(19, 12)]
  | .dresume _ => [(19, 12)]
  | .dstep _ => [(19, 12)]
  | .dunpin _ => [(19, 12)]
  | .bpset _ => [(19, 12)]
  | .warm _ => [(19, 6)]
  | .mldfb _ => [(19, 8)]
  | .mring _ => [(19, 7)]
  | .mzero _ => [(19, 2)]
  | .mwait _ => [(19, 8)]
  | .msig _ => [(19, 12)]
  | .mfetch _ => [(19, 4)]
  | .mend => [(19, 0)]
  | .mtime _ => [(19, 4)]
  | .mpop _ => [(19, 11)]
  | .madd _ => [(14, 4)]
  | .mbnz _ => [(22, 19)]
  | .mj _ => [(22, 19), (18, 15)]
  | _ => []

/-- The lowest bit of the most significant offending field of a word that names instruction `i` (R107 check 6, R108). -/
def badField (i : Instr) (w : BitVec 32) : Option Nat :=
  let zeros := (i.zeroFields.filter (fun z => w.toNat / 2 ^ z.2 % 2 ^ (z.1 + 1 - z.2) != 0)).map Prod.snd
  let codes := (i.codeRules.filter (fun r => r.2)).map Prod.fst
  (zeros ++ codes).max?

/-- The instruction of a word, or the check of R107 the word fails. -/
noncomputable def decode (w : BitVec 32) : Except Reject Instr :=
  match rawDecode w with
  | none => .error .opcode
  | some i =>
    match badField i w with
    | none => .ok i
    | some low => .error (.field low)

/-- The word in four bytes of memory, byte 0 first (R91). -/
def wordOfBytes (b : List (BitVec 8)) : BitVec 32 :=
  BitVec.ofNat 32 (b.foldr (fun x acc => x.toNat + 256 * acc) 0)

/-- The four bytes of a word in memory, byte 0 first (R91). -/
def bytesOfWord (w : BitVec 32) : List (BitVec 8) :=
  [BitVec.ofNat 8 w.toNat, BitVec.ofNat 8 (w.toNat / 2 ^ 8), BitVec.ofNat 8 (w.toNat / 2 ^ 16), BitVec.ofNat 8 (w.toNat / 2 ^ 24)]

/-- The instruction that the decoder reads from the bytes of a word numbered as the opcode table numbers it. -/
noncomputable def decodeTableWord (nbits w : Nat) : Option Instr :=
  match decode (wordOfBytes (bytesOfWord (BitVec.ofNat 32 (w % 2 ^ nbits)))) with
  | .ok i => some i
  | .error _ => none

end Sys2Proof
end

