-- ==== Sys2Proof/Config.lean ====
section
/-!
DEFINITION. What an H5 fixes and the spec leaves open (log 4): constants of the package and the free values. A free
value is an `opaque` constant with no body: nothing can be proved about which value it is.
-/
namespace Sys2Proof.Config

/-- CCLK cycles in five ticks of 1 ns: 1 CCLK is 0.8 ns (00 R1). -/
def ticksPerFiveCclk : Nat := 4

/-- Highest virtual function (14 R339). -/
def maxVf : Nat := 512

/-- CRS entries of a core (00 R1). -/
def crsEntries : Nat := 12288

/-- Reuse-table records of a core (00 R1, 02 R61). -/
def reuseRecords : Nat := 2048

/-- Scratchpad pages of a core (00 R1). -/
def pagesPerCore : Nat := 1024

/-- Entries of a range-lock table (08 R242). -/
def lockEntries : Nat := 64

/-- Task-queue entries of a die (11 R316). -/
def taskPool : Nat := 65536

/-- Records of the on-chip trace buffer of a die: 16 MiB of 32-byte records (19 R431, R432). -/
def traceRecords : Nat := 524288

/-- What a kernel descriptor holds (03 R84, R90; 07 R190, R196): its entry offset and code size, the team values and the trap
vector. `pc` is the address of the kernel's first word, which the H5 finds from the entry offset. -/
structure KDesc where
  entry : W64
  size : W64
  pc : W64
  groups : Nat
  vext : Nat
  pages : Nat
  tiles : Nat
  trapVec : W64
deriving DecidableEq, Repr, Inhabited

/-- What a physical address outside the OCPM reaches (08 R222). -/
inductive PhysKind where
  | hbm | host | peer
deriving DecidableEq, Repr, Inhabited

/-- FREE: the content of a kernel descriptor, read from its 64 bytes in memory; the spec gives the descriptor's
content (03 R90) and no byte layout. -/
opaque kdescOf : List Byte → KDesc

/-- FREE: the address that an entry offset stands for, given the offset and the address of its descriptor; the spec does not say
what the offset of a descriptor in memory counts from (log 57). -/
opaque entryPc : W64 → W64 → W64

/-- Bytes of one HBM stack, and stacks of a compute die (00 R1): 12 stacks of 96 GiB, three to a die. -/
def stackBytes : Nat := 96 * 2 ^ 30
def hbmStacks : Nat := 12
def stacksPerDie : Nat := 3

/-- FREE: the HBM stack and the byte of it that a physical address names, where it names HBM; the spec gives no map of HBM, host
and peer memory. -/
opaque hbmPlace : Nat → Option (Fin hbmStacks × Fin stackBytes)

/-- FREE: whether a physical address outside HBM reaches a peer. -/
opaque isPeer : Nat → Bool

/-- Which memory a physical address outside the OCPM reaches. -/
def physKind (pa : Nat) : PhysKind :=
  match hbmPlace pa with
  | some _ => .hbm
  | none => if isPeer pa then .peer else .host

/-- Last-level TLB entries of a die (00 R1, 14 R357). -/
def tlbEntries : Nat := 32768

/-- FREE: the number of current rails, and the current budget of each; the spec gives neither (21 R457). -/
opaque rails : Nat
opaque railBudget : Nat → Nat

/-- FREE: the byte that line data decrypts to under a key other than the one it was written under (14 R360): reader's
key, writer's key, address, stored byte. -/
opaque wrongKeyByte : Nat → Nat → Nat → Byte → Byte

/-- FREE: a 64-bit value the spec does not state, one for every value of the counter and every use. -/
opaque freeW64 : Nat → Nat → W64

/-- FREE: a choice between two outcomes the spec allows, one for every value of the counter and every use. -/
opaque freeBit : Nat → Nat → Bool

/-- FREE: the value that an SFU member picks within its error bound (06 R173): member 0 to 7 in the order of R173, the
MODE word, the input pattern. -/
opaque sfu : Nat → W32 → W32 → Nat

/-- FREE: the compatibility key of the device (17 R383). -/
opaque deviceKey : BitVec 128

/-- FREE: what the forerunner form makes of the byte at a place behind an endpaper (17 R406); the spec gives no layout of it. -/
opaque forerunnerPad : Nat → Byte

/-- FREE: the process and the system-core thread of a joined name (19 R419): VF, group. -/
opaque procOf : Nat → W32
opaque threadOf : Nat → Nat → W32

end Sys2Proof.Config
end

