-- ==== Sys2Proof/Machine/Tab.lean ====
section
/-!
DEFINITION. Tables: sparse data by key, as lists of key and value in rising key order. `get` answers a default for a
key that is not listed. The laws hold of every list, sorted or not.
-/
namespace Sys2Proof.Machine

/-- A table from natural keys to values. -/
abbrev Tab (α : Type) := List (Nat × α)

/-- The value listed for a key. -/
def Tab.find {α : Type} : Tab α → Nat → Option α
  | [], _ => none
  | (k, v) :: t, n => if k = n then some v else Tab.find t n

/-- The value of a key, or the default where none is listed. -/
def Tab.get {α : Type} (d : α) (t : Tab α) (n : Nat) : α := (Tab.find t n).getD d

/-- The table with one key set, its place kept in rising order. -/
def Tab.set {α : Type} : Tab α → Nat → α → Tab α
  | [], n, x => [(n, x)]
  | (k, v) :: t, n, x =>
    if n < k then (n, x) :: (k, v) :: t else if n = k then (n, x) :: t else (k, v) :: Tab.set t n x

/-- Put a value before the first one that it may precede. -/
def insertBy {α : Type} (le : α → α → Bool) (x : α) : List α → List α
  | [] => [x]
  | y :: t => if le x y then x :: y :: t else y :: insertBy le x t

/-- A list in order; what is equal in the order keeps its place. -/
def sortBy {α : Type} (le : α → α → Bool) : List α → List α
  | [] => []
  | x :: t => insertBy le x (sortBy le t)

/-- The table without a key. -/
def Tab.del {α : Type} (t : Tab α) (n : Nat) : Tab α := t.filter (fun e => e.1 != n)

/-- The lowest key from `n` on, within `fuel` keys, that is not listed. -/
def Tab.freeKey {α : Type} (t : Tab α) : Nat → Nat → Nat
  | 0, n => n
  | fuel + 1, n => if (Tab.find t n).isSome then Tab.freeKey t fuel (n + 1) else n

@[simp] theorem Tab.find_set_same {α : Type} (t : Tab α) (n : Nat) (x : α) : Tab.find (Tab.set t n x) n = some x := by
  induction t with
  | nil => simp [Tab.set, Tab.find]
  | cons e t ih =>
    obtain ⟨k, v⟩ := e
    by_cases h : n < k
    · simp [Tab.set, Tab.find, h]
    · by_cases h2 : n = k
      · simp [Tab.set, Tab.find, h2]
      · have h3 : ¬ k = n := fun e => h2 e.symm
        simp [Tab.set, Tab.find, h, h2, h3, ih]

@[simp] theorem Tab.find_set_other {α : Type} (t : Tab α) (n m : Nat) (x : α) (hm : m ≠ n) :
    Tab.find (Tab.set t n x) m = Tab.find t m := by
  have hn : ¬ n = m := fun e => hm e.symm
  induction t with
  | nil => simp [Tab.set, Tab.find, hn]
  | cons e t ih =>
    obtain ⟨k, v⟩ := e
    by_cases h : n < k
    · simp [Tab.set, Tab.find, h, hn]
    · by_cases h2 : n = k
      · subst h2
        simp [Tab.set, Tab.find, hn]
      · simp [Tab.set, Tab.find, h, h2, ih]

@[simp] theorem Tab.get_set_same {α : Type} (d : α) (t : Tab α) (n : Nat) (x : α) : Tab.get d (Tab.set t n x) n = x := by
  simp [Tab.get]

@[simp] theorem Tab.get_set_other {α : Type} (d : α) (t : Tab α) (n m : Nat) (x : α) (hm : m ≠ n) :
    Tab.get d (Tab.set t n x) m = Tab.get d t m := by
  simp [Tab.get, hm]

end Sys2Proof.Machine
end

