-- ==== Sys2Proof/Machine/State.lean ====
section
/-!
DEFINITION. The state of the package, as plain data, and the state after cold reset. Each structure cites the rule that
names what it holds; INVENTORY.md lists every field with its reset value.
-/
namespace Sys2Proof.Machine

/-! ## Outcomes -/

/-- Why the machine is stuck. -/
inductive Fault where
  /-- Raised by an event whose occasion is absent: the spec lets the event happen only when a condition holds, and it
  does not hold here (log 5). Safe: no step of the hardware is that event in that state. -/
  | notEnabled (event : String)
deriving DecidableEq, Repr

/-- Why an instruction has no meaning. -/
inductive Refusal where
  /-- Raised by an arm of `exec` that no meaning stands behind yet. Safe: nothing is claimed of it. -/
  | notModelled (mnemonic : String)
deriving DecidableEq, Repr

/-! ## Registers of a group (02 R37 to R56, 05 R131) -/

/-- A vector register by shape (02 R49): uniform, affine, or general with the name of its CRS entry and its 32 lanes
(log 8). -/
inductive VReg where
  | uniform (base : W32)
  | affine (base stride : W32)
  | general (name : Nat) (lanes : List W32)
deriving DecidableEq, Repr, Inhabited

/-- State of a slot in the remap table (02 R45). -/
inductive SlotState where
  | live | exited | vacant | helper
deriving DecidableEq, Repr, Inhabited

/-- One entry of the remap table: state and lane identity (07 R192). -/
structure Slot where
  st : SlotState
  ident : BitVec 16
deriving DecidableEq, Repr, Inhabited

/-- A REP in progress: the repetition to run next, the REP word's operands and its target word (04 R111). -/
structure RepRun where
  k : Nat
  op : OpRep
  target : W32
deriving DecidableEq, Repr

/-- A hint run in force: the word index reached, the gaps G0 to G7 and the give-ways Y0 to Y7 (04 R116). -/
structure HintRun where
  index : Nat
  gaps : BitVec 16
  yields : BitVec 8
deriving DecidableEq, Repr

/-- A pinned loop: the LOOP word's address, the copied body, the iterations left counting the present one, whether a trap has
suspended it (04 R119 to R122), whether DUNPIN asks for the body anew (19 R428), and whether its body is still to be read
after a restore (04 R122). `pos` is the position that CLOAD wrote, until the loop goes on (17 R399). -/
structure PinnedLoop where
  addr : W64
  body : List W32
  remaining : W64
  suspended : Bool
  refetch : Bool
  unread : Bool
  pos : Option Nat := none
deriving DecidableEq, Repr

/-- A closed batch that is pending or failed and unreported (09 R278 to R280). -/
structure Batch where
  num : W32
  pending : Nat
  failed : Bool
deriving DecidableEq, Repr, Inhabited

/-- A group's own mark at a team barrier: phase of its last arrival, and whether it is unmatched (09 R260). -/
structure BarMark where
  phase : BitVec 4
  unmatched : Bool
deriving DecidableEq, Repr, Inhabited

/-- Why a translated access failed, in the words of 09 R247 and R248. -/
structure AccessFault where
  code : BitVec 8
  detail : BitVec 6
  write : Bool
  slot : Nat
  va : W64
  lockWrite : Bool
deriving DecidableEq, Repr, Inhabited

/-- An open stream port: the copied layout record, the vectors delivered or taken, the vectors buffered (with the
guard of a write), a fault that waits to be reported (09 R265 to R268), and the stage and page of a demand fault that it waits on,
with the fault that the answer FAIL makes of it (14 R359). -/
structure Port where
  tlr : BitVec 512
  pos : Nat
  buffer : List (List W32 × W32)
  fault : Option AccessFault
  stall : Option (Nat × Nat × AccessFault) := none
deriving DecidableEq, Repr, Inhabited

/-- A system call in service: the hub's handle, the destination register, the service and its three arguments
(05 R149, 22 R470). -/
structure PendingSysc where
  handle : W64
  dest : Nat
  service : W64
  args : List W64
deriving DecidableEq, Repr, Inhabited

/-- A system call that the hub has accepted (05 R149, 17 R385): the slot and generation that its answer carries (02 R68), its launch,
the core of its group and the stage-1 root of its VF's memory, whether the
group has ended since, and the answer where it came while the launch was saved. -/
structure SyscRec where
  q : Nat
  gen : BitVec 16
  vf : Nat
  launch : Nat
  s1root : W64
  core : Nat
  service : W64
  args : List W64
  gone : Bool
  answer : Option W64
deriving DecidableEq, Repr, Inhabited

/-- Why a group waits, with the operands of its waiting word where a wake event completes that word. `register` lists the
vector registers and ports, and the scalar registers, that its word waits for; `held` is a held die (19 R415). -/
inductive Blocked where
  | register (vs xs : List Nat)
  | sysc
  | twait (o : OpA)
  | bar (o : OpBar)
  | barw (o : OpBar)
  | barinit (o : OpBarInit)
  | tbwait (o : OpTBWait)
  | bwait (o : OpDA)
  | bclose (o : OpBClose)
  | sdrain (o : OpPort)
  | sclose (o : OpPort)
  | port (n : Nat)
  | allot (r : Resource)
  | kwait (o : OpDA)
  | pgrel (o : OpRel)
  | arel (o : OpRel)
  | cleave
  | start (o : OpSM)
  | kstart (o : OpAB)
  | restart
  | held
  | demand (stage : Nat) (page : Nat)
deriving DecidableEq, Repr

/-- Whether a group slot holds a group, and whether that group may issue (05 R124, 07 R202, 17 R385, 19 R428). -/
inductive GroupState where
  | vacant | running | halted | stopped
deriving DecidableEq, Repr, Inhabited

/-- How a halted group came to halt (19 R428): the codes of its EV_HALT record. -/
structure HaltRecord where
  code : BitVec 8
  info : W64
  ret : W64
deriving DecidableEq, Repr, Inhabited

/-- The single step that DSTEP or HCMD arms (19 R428, 20 R441). -/
inductive StepArm where
  | off | afterEret | armed
deriving DecidableEq, Repr, Inhabited

/-- A group and everything it holds (02 R37 to R56, 05 R124 to R136, 07 R191 to R195). `stageAddr`, `stageLeft` and
`syscDest` are the items that CLOAD writes before those that use them (17 R399). `markV` and `markS` name the destination that a
waiting stream read has marked empty (02 R54, 09 R266). `cache` lists the registers resident in the operand cache, oldest
first (02 R67). -/
structure Group where
  st : GroupState
  vf : Nat
  launch : Nat
  team : Nat
  index : Nat
  gen : BitVec 16
  s : Tab W64
  v : Tab VReg
  p : Tab W32
  fullS : BitVec 64
  fullV : BitVec 112
  badS : Tab W64
  badV : Tab W64
  markV : Option Nat
  markS : Option Nat
  cache : List Nat
  mode : W32
  fill : W32
  fpstat : BitVec 5
  seed : W32
  tvec : W64
  tcode : W64
  tpc : W64
  tinfo : W64
  trep : W64
  dvec : W64
  pvec : W64
  pact : Bool
  dact : Bool
  hact : Bool
  level : Bool
  laneBase : W64
  pc : W64
  slots : List Slot
  rep : Option RepRun
  repResume : Option Nat
  barHalf : Bool
  hint : Option HintRun
  loop : Option PinnedLoop
  openBatch : W32
  batches : List Batch
  rwin : Bool
  batchErr : Bool
  bars : Tab BarMark
  ports : Tab Port
  sysc : Option PendingSysc
  halt : HaltRecord
  stopReq : Bool
  haltReq : Option W64
  step : StepArm
  suppress : Bool
  coopBlock : W64
  saved : Bool
  stageAddr : W64
  stageLeft : W64
  syscDest : Nat
  blocked : Option Blocked
  blockedAt : Nat
  failPages : List (Nat × Nat)
  active : Bool
  lastIssue : Nat
  readyAt : Nat
  yieldedAt : Option Nat
  notBefore : Nat
  giveWay : Bool
  aged : Bool
deriving DecidableEq, Repr, Inhabited

/-! ## Teams and launches -/

/-- A team barrier (09 R260). -/
structure Barrier where
  expect : Nat
  arrived : Nat
  phase : BitVec 4
deriving DecidableEq, Repr, Inhabited

/-- Membership of a sharing group: key, member number, view and exposure (07 R210, R211). -/
structure Share where
  key : W64
  member : Nat
  view : BitVec 16
  exposure : Nat
deriving DecidableEq, Repr, Inhabited

/-- A team resident on a core (07 R190, R197; 11 R314; 17 R392). `pages` and `tiles` list the physical pages and tiles
in team order; `members` lists the group slots of its groups that have not ended. -/
structure Team where
  launch : Nat
  index : Nat
  vf : Nat
  core : Nat
  groups : Nat
  members : List Nat
  vext : Nat
  pages : List Nat
  tiles : List Nat
  barriers : Tab Barrier
  share : Option Share
  memGen : W32
  s1root : W64
  coop : Bool
deriving DecidableEq, Repr, Inhabited

/-- What kind of launch a team belongs to (07 R196). -/
inductive LaunchKind where
  | kernel | wave | gathering
deriving DecidableEq, Repr, Inhabited

/-- What a group that is saved halted keeps beside its record (17 R385, 20 R441, R442): the handlers that are active, how it came to
halt, an armed step, the mark of the word after a debug handler's ERET, its hint run, and whether its pinned loop is suspended (04 R122). -/
structure Kept where
  hact : Bool
  dact : Bool
  pact : Bool
  halt : HaltRecord
  step : StepArm
  suppress : Bool
  hint : Option HintRun
  suspended : Bool
deriving DecidableEq, Repr, Inhabited

/-- A member of a sharing group that stands in a folio: its team's index, its key and number, and the cluster of its group (07 R213). -/
structure Member where
  team : Nat
  key : W64
  number : Nat
  cluster : Nat
deriving DecidableEq, Repr, Inhabited

/-- Where the members of a sharing key go in a restore: those that shared a cluster, or of a folio from another device, to one
cluster (07 R213). -/
structure Home where
  key : W64
  was : Option Nat
  cluster : Nat
deriving DecidableEq, Repr, Inhabited

/-- Which groups the records and entries of a folio belong to, as pairs of team index and group index: those of section 1,
those of section 5, and the stream records of section 4 (17 R393, R394, R411). The records name no team. `kept` is what the groups
of section 1 keep. `members` are its teams
that share (07 R213). `names` has the CGID of each group of section 1 and then of section 5, with whether a system call of it is pending (19 R438). -/
structure Roster where
  recs : List (Nat × Nat)
  kept : List Kept
  coops : List (Nat × Nat)
  ports : List (Nat × Nat)
  members : List Member
  names : List (W64 × Bool)
deriving DecidableEq, Repr, Inhabited

/-- A launch (14 R346, R348; 19 R433): its command, its kernel, the teams not yet ended, and the five durations of its
time-loss record as counted up to `lossAt`. `begun` is set once its not-before time has passed and its teams wait for admission;
`saved` is set while it stands in a folio. `stall` names the stage and page of a demand fault that the write of its record waits on
(14 R359). -/
structure Launch where
  vf : Nat
  kind : LaunchKind
  queue : Nat
  cmd : Option Nat
  kdesc : Config.KDesc
  args : W64
  teams : Nat
  lanes : Nat
  nbt : W64
  pvec : W64
  s1root : W64
  tlrec : W64
  begun : Bool
  left : Nat
  start : W64
  loss : List W64
  lossAt : W64
  saved : Option Roster
  stall : Option (Nat × Nat) := none
deriving DecidableEq, Repr, Inhabited

/-- A team that waits for admission (07 R199). `regs` are the scalar values s1 to s4 of its groups, where it is no kernel
team; a wave carries the argument record addresses and the task numbers of its live slots (07 R195). -/
structure WaitingTeam where
  launch : Nat
  index : Nat
  lanes : Nat
  groups : Nat
  vext : Nat
  pages : Nat
  tiles : Nat
  entry : W64
  tvec : W64
  pvec : W64
  regs : List W64
  tasks : List (W64 × BitVec 16)
deriving DecidableEq, Repr, Inhabited

/-- A gathering that is being copied (10 R302): its team, which holds its counts already, the group slots set aside for it
and the records it takes. -/
structure Firing where
  waiting : WaitingTeam
  team : Nat
  core : Nat
  slots : List Nat
  records : List (BitVec 512)
deriving DecidableEq, Repr, Inhabited

/-! ## Returns, copies and collectives -/

/-- What an outstanding return writes (02 R54, R68, R69): a scalar register, or the masked lanes of a vector
register (`cover`: the guard covered every live slot), with the TINFO that a reader takes where the data is
uncorrectable (19 R414); or a register that VREL has released since. -/
inductive RetPart where
  | scalar (n : Nat) (value : W64) (bad : Option W64)
  | vector (n : Nat) (mask : W32) (cover : Bool) (lanes : List W32) (bad : Option W64)
  | released
deriving DecidableEq, Repr

/-- An outstanding return with the group slot and generation it carries, and the load record that its completion
enters in the reuse table (12 R336), with the CRS entries that its key names and their stamps. -/
structure Return where
  q : Nat
  gen : BitVec 16
  vf : Nat
  parts : List RetPart
  loadKey : Option (List Nat)
  stamps : List (Nat × Nat) := []
deriving DecidableEq, Repr

/-- A loaded template: the template record and the layout records it names (09 R271, R272). -/
structure Template where
  record : BitVec 1024
  laya : BitVec 512
  layb : BitVec 512
deriving DecidableEq, Repr, Inhabited

/-- A started copy (09 R274, R275; 17 R389) of a launch. For a register-window copy `tgen` is the generation of the target
slot and `gone` the registers released since (02 R69). `done0` is DONE at its start and `done` its DONE now, in bytes of the element
stream. `run` is set when it has begun to read; `cmd` is set for a COPY command, whose `core` is 1024 + its die; `stall` names the
stage and page of a demand fault it waits on. `starter` is the team index and the group index of the group that started it;
`parked` is set once a stop has cancelled it, until its record is written. `badAt` is the DETAIL, the address and the physical address of
uncorrectable data in its parameter record. -/
structure Copy where
  vf : Nat
  launch : Nat
  team : Nat
  q : Nat
  gen : BitVec 16
  core : Nat
  chan : Nat
  tidx : Nat
  tpl : Template
  offset : W32
  dstOff : W32
  origins : List W32
  batch : W32
  done0 : Nat
  done : Nat
  run : Bool
  s1root : W64
  cmd : Option (Nat × Nat)
  order : Nat
  failed : Option Nat
  stall : Option (Nat × Nat)
  tgen : BitVec 16
  gone : List Nat
  starter : Nat × Nat
  parked : Bool
  badAt : Nat × Nat × Nat := (0, 0, 0)
deriving DecidableEq, Repr, Inhabited

/-- Progress of a collective (21 R454, R456): before its start time, at work, with all of DST written, or failed. -/
inductive CollPhase where
  | waiting | running | finished | failed
deriving DecidableEq, Repr, Inhabited

/-- A collective started by KSTART (21 R451 to R456) by the group of a slot and generation: its descriptor, its contribution
once SRC is read, the blocks of the ranks that have arrived, the place of its locks in their order, the time from which its
watchdog counts, and the stage and page of a demand fault it waits on. -/
structure Collective where
  vf : Nat
  launch : Nat
  team : Nat
  q : Nat
  gen : BitVec 16
  core : Nat
  desc : BitVec 1024
  descVa : W64
  s1root : W64
  start : W64
  phase : CollPhase
  source : List Byte
  arrived : Tab (List Byte)
  srcRead : Bool
  order : Nat
  watch : W64
  stall : Option (Nat × Nat)
deriving DecidableEq, Repr, Inhabited

/-! ## Parts of a core -/

/-- An entry of the content-addressed register store (02 R57 to R60). `stamp` tells it from earlier entries of its index. -/
structure CrsEntry where
  vf : Nat
  lanes : List W32
  hash : BitVec 48
  refs : Nat
  listed : Bool
  bad : Bool
  stamp : Nat
deriving DecidableEq, Repr, Inhabited

/-- A reuse-table record (02 R61 to R64): its key as numbers, the CRS names the key holds, its result and flags; for a
load also its team, the scalar value where it is a scalar load, and the TINFO that a reader of uncorrectable data takes (19 R414). -/
structure ReuseRec where
  vf : Nat
  key : List Nat
  names : List Nat
  result : VReg
  scalar : W64
  flags : BitVec 5
  loadTeam : Option Nat
  bad : Option W64 := none
deriving DecidableEq, Repr, Inhabited

/-- Whose lock an entry of the range-lock table is (08 R239). -/
inductive LockOwner where
  | copy (id : Nat)
  | mma (serial : Nat)
  | gathering (vf expert team : Nat)
  | collective (id : Nat) (dst : Bool)
deriving DecidableEq, Repr, Inhabited

/-- A lock on the 64-byte lines `lo` to `hi` of physical memory (08 R239), with its place in the order of registration
(08 R241). `late` is the address and the length of a part whose page a demand fault kept from being reached. -/
structure Lock where
  owner : LockOwner
  order : Nat
  write : Bool
  lo : Nat
  hi : Nat
  late : Option (Nat × Nat) := none
deriving DecidableEq, Repr, Inhabited

/-- The recorded range and the fault flag of a physical tile (10 R289, R295). -/
structure TileRec where
  rows : Nat
  cols : Nat
  fault : Bool
deriving DecidableEq, Repr, Inhabited

/-- State of the matrix sequencer (10 R285). -/
inductive SeqState where
  | free | run | idle | fault
deriving DecidableEq, Repr, Inhabited

/-- A ring register with its cursor (E, j) (10 R290, R291). -/
structure Ring where
  va : W64
  base : W32
  ebytes : BitVec 16
  entries : BitVec 16
  spe : BitVec 2
  win : Bool
  member : BitVec 4
  curE : W32
  curJ : BitVec 2
deriving DecidableEq, Repr, Inhabited

/-- An outstanding MMA (11 R327, 17 R395): its word's operands and address, the K-steps added, the cursor of its first
K-step not added in each ring, its format block and the rings it reads; `locked` once its locks are registered, and then
`entA` and `entB` hold the physical parts of the entries of its K-steps, from its first on. `ended` is its team as it stood where the
team has ended since (10 R285). -/
structure MmaRec where
  serial : Nat
  launch : Nat
  team : Nat
  vf : Nat
  pc : W64
  o : OpMma
  done : Nat
  curA : W32 × BitVec 2
  curB : W32 × BitVec 2
  block : BitVec 512
  ringA : Ring
  ringB : Ring
  tile : Nat
  locked : Bool
  entA : List (List (Nat × Nat))
  entB : List (List (Nat × Nat))
  ended : Option Team := none
deriving DecidableEq, Repr

/-- The matrix sequencer and the engine of a core (10 R285 to R295, 17 R388, R395). `park` is the doorbell of the MFETCH
at which it is parked (R331); `word` is the word whose access stalls, 0 where the fetch of one does. -/
structure Sequencer where
  st : SeqState
  owner : Option Nat
  pc : W64
  park : Option W64
  held : Bool
  m : Tab W64
  fb : Tab (BitVec 512)
  ring : Tab Ring
  dep : Tab Nat
  mmas : List MmaRec
  serial : Nat
  barriers : List W64
  releasing : Bool
  mtime : Option W64
  stall : Option (Nat × Nat)
  word : W32 := 0
deriving DecidableEq, Repr, Inhabited

/-- A request that waits for an allotment (11 R309): resource, group, team, count, the status register and the command
stream address of MACQ. -/
structure AllotReq where
  res : Resource
  q : Nat
  team : Nat
  count : Nat
  dest : Nat
  stream : W64
  order : Nat
deriving DecidableEq, Repr

/-- A write of a counter (`cfg` false) or of its configuration that takes effect at the end of this CCLK (19 R434, R436). -/
structure PmcSet where
  index : Nat
  cfg : Bool
  value : W64
deriving DecidableEq, Repr, Inhabited

/-- One core (00 R1, 02 R57 to R64, 08 R239, 09 R273, 19 R434). `signals` are the transaction barriers that a fault of its sequencer has
still to signal, each with its place in the order of the locks and its team (10 R295, 08 R241). `wrapped` lists the counters that have
overflowed in this CCLK (19 R436). -/
structure Core where
  crs : Tab CrsEntry
  reuse : List ReuseRec
  locks : Tab Lock
  tiles : Tab TileRec
  seq : Sequencer
  requests : List AllotReq
  lastFail : Tab Nat
  pmc : Tab W64
  pmccfg : Tab W64
  pmcSets : List PmcSet
  wrapped : List Nat
  nextStamp : Nat
  rrPart : Tab Nat
  rrVf : Nat
  lags : Tab Nat
  signals : List (Nat × Nat × W64)
deriving DecidableEq, Repr, Inhabited

/-! ## Parts of a die -/

/-- A task-queue entry: entry address (task queues of waves), the 64-bit value or argument record address, the
task number (07 R194, 11 R316), and the DETAIL of uncorrectable data in it (19 R414). -/
structure Task where
  entry : W64
  value : W64
  number : BitVec 16
  bad : Option Nat := none
deriving DecidableEq, Repr, Inhabited

/-- A task queue (11 R316): its descriptor, its generation, its entries oldest first and the next task number. The tasks of
one entry address form a wave (07 R194): `timers` gives the CCLK at which each forming wave took its first task. -/
structure TaskQueue where
  desc : BitVec 512
  s1root : W64
  gen : BitVec 16
  enabled : Bool
  entries : List Task
  nextTask : BitVec 16
  timers : Tab Nat
deriving DecidableEq, Repr, Inhabited

/-- An expert of the Gathering unit (10 R298 to R303): its entry with its kernel's descriptor, the records held on chip, the
spill ring's first and count, the records behind it whose write stalls on a demand fault (14 R359), the EQFIRE mark, the expiry of its
age timer, the once-only reports, and the gatherings that are being copied, oldest first. -/
structure Expert where
  desc : BitVec 512
  kdesc : Config.KDesc
  s1root : W64
  enabled : Bool
  queue : List (BitVec 512)
  spillAt : Nat
  spilled : Nat
  staged : List (BitVec 512)
  marked : Bool
  aged : Bool
  spillPosted : Bool
  starvePosted : Bool
  firing : List Firing
deriving DecidableEq, Repr, Inhabited

/-- The trace block of a die and its records by index (19 R431, R432). -/
structure Trace where
  tctl : W64
  tstat : W64
  txbase : W64
  txsize : W64
  tfvf : W64
  tcgval : W64
  tcgmask : W64
  tclass : W64
  ttrig : W64
  tpost : W64
  twptr : W64
  ttptr : W64
  left : Nat
  buf : Tab (BitVec 256)
deriving DecidableEq, Repr, Inhabited

/-- A page-table entry as a walk of a VF and root used it (14 R357): the stage, where it lies, its value, and the range of
virtual (stage 1) or guest-physical addresses (stage 2) that it translates. -/
structure WalkEntry where
  vf : Nat
  s1root : W64
  stage : Nat
  at_ : Nat
  value : Nat
  base : Nat
  size : Nat
deriving DecidableEq, Repr, Inhabited

/-- A translation held in the TLB of a die (14 R357): its tags, the covered range, its guest-physical and its physical base, and
the permissions of both stages together, as R, W, X and U. `path` lists the table entries that the walk used, until the walk
caches take them. -/
structure TlbEntry where
  vf : Nat
  s1root : W64
  base : Nat
  size : Nat
  gbase : Nat
  pbase : Nat
  r : Bool
  w : Bool
  x : Bool
  u : Bool
  path : List WalkEntry
deriving DecidableEq, Repr, Inhabited

/-- One compute die, or the hub as die 4 (19 R413, R415; 21 R457, R459). `duties` are the changes of its issue duty, the latest first: the
CCLK of each and the duty from then on, in thirty-seconds. -/
structure Die where
  held : Bool
  heldCause : Nat
  ceCount : W64
  queues : Tab TaskQueue
  experts : Tab Expert
  expertGen : Tab (BitVec 16)
  lastFire : Option Nat
  trace : Trace
  colls : Tab Collective
  share : Nat
  duty : Nat
  matrixDuty : Nat
  railShare : Tab Nat
  duties : List (Nat × Nat)
  tlb : List TlbEntry
  walks : List WalkEntry
  hot : Bool
  droopAt : Option W64
  droopEvAt : Option W64
  railEvAt : Tab W64
  dropEvAt : Option W64
deriving DecidableEq, Repr, Inhabited

/-! ## A virtual function -/

/-- A queue pair (14 R341, R343, R350, R353). `scanWaits` is set while a scan of it waits for memory of a held die (19 R415). -/
structure VQueue where
  size : BitVec 16
  enable : BitVec 16
  resetting : BitVec 16
  msix : BitVec 16
  desc : W64
  driver : W64
  device : W64
  status : W32
  lastSeen : BitVec 16
  usedIdx : BitVec 16
  scanWaits : Bool
deriving DecidableEq, Repr, Inhabited

/-- A command read from an available ring (14 R345, R346): where it came from, its header, its writable data area and
status area, and whether it has begun. `fin` is the status, the detail, the result and the data bytes of a command whose completion waits
for memory of a held die (19 R415). -/
structure Command where
  queue : Nat
  head : BitVec 16
  order : Nat
  header : List Byte
  readable : List (W64 × Nat)
  writable : List (W64 × Nat)
  status : W64
  begun : Bool
  fin : Option (Nat × Nat × Nat × Nat) := none
deriving DecidableEq, Repr, Inhabited

/-- A demand fault in service (14 R359). -/
structure DemandFault where
  s1root : W64
  stage : Nat
  page : Nat
deriving DecidableEq, Repr, Inhabited

/-- STATE of CSTAT (17 R383). -/
inductive CtxState where
  | running | saving | frozen | saved | restoring
deriving DecidableEq, Repr, Inhabited

/-- The context block of a VF and the progress of its save or restore (17 R383 to R407). For a save, `launches` are the
launches that are being saved, `written` counts those whose folios are written, and `cut` is set once copies are cancelled and
MEMGEN has advanced; `late` lists the groups reported under R386. `dir` holds the offsets that the directory is to list, and
`nextOff` where the next folio goes. For a restore, `todo` are the offsets of the folios not yet taken, `ran` says that a launch
ran already, `taken` that a folio was restored, and `homes` where the members of sharing groups go (07 R213). `form`
is the form that the stop under way writes (R383). `thaw` is the state that a frozen save or restore froze in. -/
structure Context where
  cctl : W64
  slice : W64
  sarea : W64
  sasize : W64
  st : CtxState
  err : BitVec 8
  cause : BitVec 8
  fgpa : W64
  sliceAt : Option W64
  stopAt : W64
  reason : Nat
  launches : List Nat
  written : Nat
  cut : Bool
  late : List Nat
  dir : Option (List Nat)
  nextOff : Nat
  todo : List Nat
  ran : Bool
  taken : Bool
  homes : List Home
  form : Nat
  thaw : CtxState
deriving DecidableEq, Repr

/-- The debug context of a VF (19 R416, R420, R421). -/
structure Debug where
  dctl : W64
  dvecr : W64
  hcgid : W64
  dumpstat : W64
  evbase : W64
  evsize : W64
  evhead : W64
  evtail : W64
  evlost : W64
  evmsix : W64
  points : Tab (BitVec 256)
  wenable : BitVec 24
  mbox : Tab W64
  evseq : W32
deriving DecidableEq, Repr, Inhabited

/-- A virtual function; function 0 is the PF (14 R339 to R353). -/
structure Vf where
  enabled : Bool
  parts : List Nat
  driverFeature : W64
  deviceStatus : Byte
  queueSelect : BitVec 16
  scopePolicy : W32
  wakeRate : W32
  wakeBurst : W32
  tokens : Nat
  queues : Tab VQueue
  cmds : Tab Command
  nextCmd : Nat
  salt : BitVec 48
  keyLoads : Nat
  s2root : W64
  templates : Tab Template
  faults : List DemandFault
  ctx : Context
  dbg : Debug
  tdi : TdiState
  resetPending : Bool
  waiting : List WaitingTeam
  hostLog : List Byte
deriving DecidableEq, Repr

/-- A grant-table entry (14 R362). -/
abbrev Grant := BitVec 128

/-! ## The hub -/

/-- The Binder (15 R364 to R378). `tally` counts what each sensor class measures of each function since the last
boundary (R368). -/
structure Binder where
  inject : Bool
  stopAt : Option W64
  armAt : Option W64
  st : Nat
  infeas : Bool
  guardHit : Bool
  werr : Bool
  cerr : Bool
  cause : BitVec 5
  period : W64
  origin : W64
  learn : W64
  radius : W64
  bseed : W32
  rewardAt : Option W64
  envAt : Option W64
  curact : W64
  lastrew : W64
  lastdelta : W64
  injAt : Option W64
  counters : Tab W64
  feat : Tab W64
  vset : Tab (BitVec 576)
  act : Tab (BitVec 128)
  rewS : Tab W64
  rewA : Tab W64
  envS : Tab (BitVec 640)
  envA : Tab (BitVec 640)
  inj : Tab W64
  weights : Tab W32
  knob : Tab W32
  lastphi : Tab W32
  icnt : Nat
  left : Nat
  have_ : Bool
  phi : List W32
  ap : Nat
  lastBoundary : Option W64
  handed : Tab W32
  tally : Tab Nat
deriving DecidableEq, Repr, Inhabited

/-- The platform block and the time base's measurements (21 R443 to R445). `slew` is the offset that is still to be removed, in ticks,
and `slewRun` the ticks since the last of it was (R444). -/
structure Platform where
  tbctl : W64
  tbstat : W64
  pwrcap : W64
  twarn : W64
  tcrit : W64
  droops : W64
  pdrop : W64
  fabtag : Tab W64
  measuredAt : W64
  goodRun : Nat
  everLocked : Bool
  arbiterAt : W64
  slew : Int
  slewRun : Nat
deriving DecidableEq, Repr, Inhabited

/-- The bring-up block, the manifest version in flash and the measurements (22 R465 to R468); the public keys that the dies derived,
C-die 0 to 3 and then the hub (R464); and the number of VFs and the PCIe identifiers that the manifest sets (R466). -/
structure BringUp where
  bootstat : W64
  svccnt : Tab W64
  version : W32
  digests : List (BitVec 384)
  dieKeys : List (BitVec 768)
  vfCount : Nat
  pcieIds : W64
deriving DecidableEq, Repr, Inhabited

/-! ## The package -/

/-- Who executes the next word. -/
inductive Agent where
  | group (q : Nat)
  | sequencer (core : Nat)
deriving DecidableEq, Repr, Inhabited

/-- One item of the agenda (log 5): a word of an agent, an event, or CCLK in which nothing of either happens. -/
inductive Turn where
  | issue (a : Agent)
  | event (i : Instr)
  | pass (cclk : Nat)
deriving DecidableEq, Repr

/-- The state of the package. `cur`, `agenda`, `free` and `reply` are the model's own (log 4, log 5): the executing
agent, what happens next, the counter of free values, and what the last host read answered. `msix` lists the MSI-X messages sent
to the host, oldest first, as function and vector (19 R416). `hubWrites` are the bytes that the hub's writes to memory of a held die have
still to write, oldest first, each with its key and its address (19 R415). -/
structure State where
  time : W64
  phase : Nat
  cclk : Nat
  cur : Agent
  agenda : List Turn
  free : Nat
  reply : List W64
  refillAt : W64
  mem : List Host.Cell
  lineKey : Tab Nat
  badLines : Tab Nat
  groups : Tab Group
  teams : Tab Team
  launches : Tab Launch
  nextLaunch : Nat
  nextTeam : Nat
  returns : Tab Return
  nextReturn : Nat
  copies : Tab Copy
  nextCopy : Nat
  nextOrder : Nat
  nextSysc : Nat
  syscs : Tab SyscRec
  cores : Tab Core
  dies : Tab Die
  vfs : Tab Vf
  grants : Tab Grant
  binder : Binder
  platform : Platform
  boot : BringUp
  tkey : BitVec 128
  msix : List (Nat × Nat)
  hubWrites : List (Nat × Nat × Byte)
deriving DecidableEq, Repr

/-! ## Reset values -/

/-- A group slot that holds no group. -/
def Group.empty : Group :=
  { st := .vacant, vf := 0, launch := 0, team := 0, index := 0, gen := 0, s := [], v := [], p := [], fullS := -1#64,
    fullV := -1#112, badS := [], badV := [], markV := none, markS := none, cache := [], mode := 0x80, fill := 0, fpstat := 0, seed := 1, tvec := 0, tcode := 0,
    tpc := 0, tinfo := 0, trep := 0, dvec := 0, pvec := 0, pact := false, dact := false, hact := false, level := false,
    laneBase := 0, pc := 0, slots := List.replicate 32 { st := .vacant, ident := 0 }, rep := none,
    repResume := none, barHalf := false,
    hint := none, loop := none, openBatch := 1, batches := [], rwin := false, batchErr := false, bars := [], ports := [],
    sysc := none, halt := { code := 0, info := 0, ret := 0 }, stopReq := false, haltReq := none, step := .off,
    suppress := false, coopBlock := 0, saved := false, stageAddr := 0, stageLeft := 0, syscDest := 0, blocked := none, blockedAt := 0, failPages := [], active := false,
    lastIssue := 0, readyAt := 0, yieldedAt := none, notBefore := 0, giveWay := false, aged := false }

/-- A team key that names no team. -/
def Team.empty : Team :=
  { launch := 0, index := 0, vf := 0, core := 0, groups := 0, members := [], vext := 0, pages := [], tiles := [],
    barriers := [], share := none, memGen := 0, s1root := 0, coop := false }

/-- A sequencer that no team owns (10 R285). -/
def Sequencer.reset : Sequencer :=
  { st := .free, owner := none, pc := 0, park := none, held := false, m := [], fb := [], ring := [], dep := [],
    mmas := [], serial := 0, barriers := [], releasing := false, mtime := none, stall := none }

/-- A core after cold reset. -/
def Core.reset : Core :=
  { crs := [], reuse := [], locks := [], tiles := [], seq := Sequencer.reset, requests := [], lastFail := [], pmc := [],
    pmccfg := [], pmcSets := [], wrapped := [], nextStamp := 0, rrPart := [], rrVf := 0, lags := [],
    signals := [] }

/-- A trace block after cold reset (19 R431). -/
def Trace.reset : Trace :=
  { tctl := 0, tstat := 0, txbase := 0, txsize := 0, tfvf := 0, tcgval := 0, tcgmask := 0, tclass := 0, ttrig := 0,
    tpost := 0, twptr := 0, ttptr := 0, left := 0, buf := [] }

/-- A die after cold reset. -/
def Die.reset : Die :=
  { held := false, heldCause := 0, ceCount := 0, queues := [], experts := [], expertGen := [], lastFire := none,
    trace := Trace.reset, colls := [], share := 0, duty := 16, matrixDuty := 16, railShare := [], duties := [],
    tlb := [], walks := [], hot := false, droopAt := none, droopEvAt := none,
    railEvAt := [], dropEvAt := none }

/-- A queue pair after cold reset (14 R341). -/
def VQueue.reset : VQueue :=
  { size := 32768, enable := 0, resetting := 0, msix := 0xFFFF, desc := 0, driver := 0, device := 0, status := 0,
    lastSeen := 0, usedIdx := 0, scanWaits := false }

/-- A context block after cold reset (17 R383). -/
def Context.reset : Context :=
  { cctl := 0, slice := 0, sarea := 0, sasize := 0, st := .running, err := 0, cause := 0, fgpa := 0, sliceAt := none,
    stopAt := 0, reason := 0, launches := [], written := 0, cut := false, late := [], dir := none, nextOff := 0, todo := [],
    ran := false, taken := false, homes := [], form := 0, thaw := .running }

/-- A debug context after cold reset (19 R420). -/
def Debug.reset : Debug :=
  { dctl := 0, dvecr := 0, hcgid := 0, dumpstat := 0, evbase := 0, evsize := 0, evhead := 0, evtail := 0, evlost := 0,
    evmsix := 0xFFFF, points := [], wenable := 0, mbox := [], evseq := 0 }

/-- A virtual function after cold reset, not enabled (14 R341). -/
def Vf.reset : Vf :=
  { enabled := false, parts := [], driverFeature := 0, deviceStatus := 0, queueSelect := 0, scopePolicy := 0,
    wakeRate := 64, wakeBurst := 256, tokens := 256, queues := [], cmds := [], nextCmd := 0, salt := 0, keyLoads := 0,
    s2root := 0, templates := [], faults := [], ctx := Context.reset, dbg := Debug.reset, tdi := .unlocked,
    resetPending := false, waiting := [], hostLog := [] }

/-- The Binder after cold reset (15 R365). -/
def Binder.reset : Binder :=
  { inject := false, stopAt := none, armAt := none, st := 0, infeas := false, guardHit := false, werr := false,
    cerr := false, cause := 0, period := 1000000, origin := 0, learn := 0, radius := 0, bseed := 1, rewardAt := none,
    envAt := none, curact := 0, lastrew := 0, lastdelta := 0, injAt := none, counters := [], feat := [], vset := [],
    act := [], rewS := [], rewA := [], envS := [], envA := [], inj := [], weights := [], knob := [], lastphi := [],
    icnt := 0, left := 0, have_ := false, phi := [], ap := 0, lastBoundary := none, handed := [], tally := [] }

/-- The platform block after cold reset (21 R443). -/
def Platform.reset : Platform :=
  { tbctl := 0, tbstat := 0, pwrcap := 2400, twarn := 95, tcrit := 105, droops := 0, pdrop := 0,
    fabtag := [], measuredAt := 0, goodRun := 0, everLocked := false, arbiterAt := 0, slew := 0, slewRun := 0 }

/-- The bring-up block before bring-up (22 R468). -/
def BringUp.reset : BringUp :=
  { bootstat := 0, svccnt := [], version := 0, digests := [], dieKeys := [], vfCount := 0, pcieIds := 0 }

/-- The package at cold reset, before the POWER_ON event runs bring-up (22 R467; log 1). -/
def State.reset : State :=
  { time := 0, phase := 0, cclk := 0, cur := .group 0, agenda := [], free := 0, reply := [], refillAt := 0, mem := [], lineKey := [],
    badLines := [], groups := [], teams := [], launches := [], nextLaunch := 1, nextTeam := 1, returns := [],
    nextReturn := 0, copies := [], nextCopy := 0, nextOrder := 0, nextSysc := 1, syscs := [], cores := [], dies := [], vfs := [],
    grants := [], binder := Binder.reset, platform := Platform.reset, boot := BringUp.reset, tkey := 0, msix := [], hubWrites := [] }

end Sys2Proof.Machine
end

