-- ==== Sys2Proof/Machine/Memory.lean ====
section
/-!
DEFINITION. The parts of the state by name, the bytes of physical memory (08 R215 to R222, 14 R360) and the two-stage
translation (14 R354 to R359).
-/
namespace Sys2Proof.Machine

/-! ## Parts by name -/

/-- The group of a slot. A slot is numbered ((die × 64 + core) × 8 + partition) × 16 + slot, the order of 19 R418. -/
def groupAt (s : State) (q : Nat) : Group := Tab.get Group.empty s.groups q

/-- The team of a key. -/
def teamAt (s : State) (k : Nat) : Team := Tab.get Team.empty s.teams k

/-- The core of an index die × 64 + core. -/
def coreAt (s : State) (c : Nat) : Core := Tab.get Core.reset s.cores c

/-- The die of a number; the hub is die 4. -/
def dieAt (s : State) (d : Nat) : Die := Tab.get Die.reset s.dies d

/-- The virtual function of a number. -/
def vfAt (s : State) (v : Nat) : Vf := Tab.get Vf.reset s.vfs v

/-- The core that a group slot lies on. -/
def coreOf (q : Nat) : Nat := q / 128

/-- The die that a group slot lies on. -/
def dieOf (q : Nat) : Nat := q / 8192

/-- The slot of the executing group; 32768, which is no slot, where a matrix sequencer executes. -/
def State.qid (s : State) : Nat :=
  match s.cur with
  | .group q => q
  | .sequencer _ => 32768

/-- The executing group. -/
def State.me (s : State) : Group := groupAt s s.qid

/-- The executing group's team. -/
def State.myTeam (s : State) : Team := teamAt s s.me.team

/-- The executing group's virtual function. -/
def State.myVf (s : State) : Vf := vfAt s s.me.vf

def setGroup (q : Nat) (g : Group) (s : State) : State := { s with groups := Tab.set s.groups q g }
def modGroup (q : Nat) (f : Group → Group) (s : State) : State := setGroup q (f (groupAt s q)) s
def modMe (f : Group → Group) (s : State) : State := modGroup s.qid f s
def modTeam (k : Nat) (f : Team → Team) (s : State) : State :=
  { s with teams := Tab.set s.teams k (f (teamAt s k)) }
def modCore (c : Nat) (f : Core → Core) (s : State) : State :=
  { s with cores := Tab.set s.cores c (f (coreAt s c)) }
def modDie (d : Nat) (f : Die → Die) (s : State) : State := { s with dies := Tab.set s.dies d (f (dieAt s d)) }
def modVf (v : Nat) (f : Vf → Vf) (s : State) : State := { s with vfs := Tab.set s.vfs v (f (vfAt s v)) }

/-- CGID of the group in a slot (19 R418). -/
def cgidOf (q : Nat) (g : Group) : W64 :=
  BitVec.ofNat 64 (g.launch % 2 ^ 24 * 2 ^ 40 + q % 32768 * 2 ^ 25 + g.gen.toNat * 2 ^ 9 + g.vf % 512)

/-! ## Little-endian values (00 R5) -/

/-- The number of a list of bytes, byte 0 first. -/
def leNat : List Byte → Nat
  | [] => 0
  | b :: t => b.toNat + 256 * leNat t

/-- The n low bytes of a number, byte 0 first. -/
def leBytes : Nat → Nat → List Byte
  | 0, _ => []
  | n + 1, v => BitVec.ofNat 8 v :: leBytes n (v / 256)

/-! ## Bytes of physical memory -/

/-- Byte `a` as it stands: what an unlisted address reads as is zero (log 2). -/
def rawByte (m : List Host.Cell) (a : Nat) : Byte := Tab.get 0#8 m a

/-- Memory with one byte set, in canonical form: a zero byte is not listed. -/
def setByte (m : List Host.Cell) (a : Nat) (b : Byte) : List Host.Cell :=
  if b = 0#8 then Tab.del m a else Tab.set m a b

/-- Addresses rise strictly above `lo` and no listed byte is zero. -/
def Memory.wfFrom : Nat → List Host.Cell → Bool
  | _, [] => true
  | lo, (a, b) :: t => decide (lo ≤ a) && b != 0#8 && Memory.wfFrom (a + 1) t

/-- The canonical form of memory (log 2). -/
def Memory.wf (m : List Host.Cell) : Bool := Memory.wfFrom 0 m

/-- The first address of the on-chip physical map (08 R219). -/
def ocpmBase : Nat := 0xFFF0000000000

/-- The address lies in the on-chip physical map (08 R219). -/
def inOcpm (pa : Nat) : Bool := decide (ocpmBase ≤ pa) && decide (pa < ocpmBase + 0x80000000)

/-- The window of a core in the on-chip physical map. -/
def ocpmWindow (core : Nat) : Nat := ocpmBase + core * 0x800000

/-- Physical address of the bytes of an accumulator element (08 R219). -/
def elemAddr (core tile m n : Nat) : Nat := ocpmWindow core + 0x100000 + tile * 0x84000 + 33 * (128 * m + n)

/-- The key in the slot of a VF (14 R360): every load of a slot brings a key that no slot has held. -/
def keyNum (s : State) (v : Nat) : Nat := v + 1024 * (vfAt s v).keyLoads

/-- Read one byte of physical memory under a key (14 R360). -/
def readPa (s : State) (key pa : Nat) : Byte :=
  match Tab.find s.lineKey (pa / 64) with
  | none => rawByte s.mem pa
  | some k =>
    if k = key then rawByte s.mem pa
    else match Config.physKind pa with
      | .hbm => Config.wrongKeyByte key k pa (rawByte s.mem pa)
      | _ => rawByte s.mem pa

/-- A line that is about to be written under a key. Bytes of HBM that stay are read under the new key (14 R360). -/
def rekey (s : State) (key pa : Nat) : State :=
  if inOcpm pa then s
  else match Tab.find s.lineKey (pa / 64) with
    | none => { s with lineKey := Tab.set s.lineKey (pa / 64) key }
    | some k =>
      if k = key then s
      else
        let addrs := (List.range 64).map (fun i => pa / 64 * 64 + i)
        { s with mem := addrs.foldl (fun m a => setByte m a (readPa s key a)) s.mem
                 lineKey := Tab.set s.lineKey (pa / 64) key }

/-- Write one byte of physical memory under a key. A write clears the mark of uncorrectable data (log 11). -/
def writePa (key pa : Nat) (b : Byte) (s : State) : State :=
  let s1 := rekey s key pa
  { s1 with mem := setByte s1.mem pa b, badLines := Tab.del s1.badLines (pa / 64) }

/-- Read n bytes from `pa` on. -/
def readPas (s : State) (key pa n : Nat) : List Byte := (List.range n).map (fun i => readPa s key (pa + i))

/-- Write bytes from `pa` on. -/
def writePas (key pa : Nat) (bs : List Byte) (s : State) : State :=
  ((List.range bs.length).zip bs).foldl (fun t p => writePa key (pa + p.1) p.2 t) s

/-! ## Memory of a held die (19 R415) -/

/-- The compute die whose cores or whose HBM controllers hold a physical address. -/
def homeDie (pa : Nat) : Option Nat :=
  if inOcpm pa then some ((pa - ocpmBase) / 0x800000 / 64)
  else (Config.hbmPlace pa).map (fun p => p.1.val / Config.stacksPerDie)

/-- Physical memory of a held die that an access of another die reaches for: it waits. -/
def heldAway (s : State) (die pa : Nat) : Bool := s.dies.any (fun d => d.2.held && d.1 != die && homeDie pa == some d.1)

/-- The hub writes a byte: to memory of a held die once that die is held no more. -/
def writeHub (key pa : Nat) (b : Byte) (s : State) : State :=
  if heldAway s 4 pa then { s with hubWrites := s.hubWrites ++ [(key, pa, b)] } else writePa key pa b s

/-- The writes of the hub that wait for no held die any more, oldest first. -/
def flushHub (s : State) : State :=
  s.hubWrites.foldl (fun t w => writeHub w.1 w.2.1 w.2.2 t) { s with hubWrites := [] }

/-! ## Translation (14 R354 to R359) -/

/-- Kind of an access as the permissions see it. -/
inductive AccessKind where
  | read | write | fetch
deriving DecidableEq, Repr

/-- A leaf reached by a walk. -/
structure Leaf where
  base : Nat
  size : Nat
  r : Bool
  w : Bool
  x : Bool
  u : Bool
deriving DecidableEq, Repr

/-- How a walk of one stage ends: at a leaf, with the table entries that the walk used; or `demand` names the stage and the
4 KiB page of the entry with V = 0 (R359). -/
inductive Walk where
  | leaf (l : Leaf) (path : List WalkEntry)
  | page (detail : Nat)
  | perm (detail : Nat)
  | demand (stage page : Nat)
deriving DecidableEq, Repr

/-- Page size in bytes of a PSZ code (R355). -/
def pszSize (p : Nat) : Nat :=
  match p with
  | 0 => 2 ^ 12 | 1 => 2 ^ 14 | 2 => 2 ^ 16 | 3 => 2 ^ 18 | 4 => 2 ^ 20
  | 5 => 2 ^ 21 | 6 => 2 ^ 23 | 7 => 2 ^ 25 | 8 => 2 ^ 27
  | 9 => 2 ^ 30 | 10 => 2 ^ 32 | 11 => 2 ^ 34 | 12 => 2 ^ 36 | 13 => 2 ^ 38
  | 14 => 2 ^ 39 | _ => 2 ^ 41

/-- Level of the leaves of a PSZ code (R355). -/
def pszLevel (p : Nat) : Nat := if p ≤ 4 then 0 else if p ≤ 8 then 1 else if p ≤ 13 then 2 else 3

/-- Bit n of an entry. -/
def entryBit (e n : Nat) : Bool := e / 2 ^ n % 2 == 1

/-- Address field of an entry, as an address. -/
def entryAddr (e : Nat) : Nat := e / 2 ^ 12 % 2 ^ 40 * 2 ^ 12

/-- A valid entry breaks a rule of R356 at its level. An entry with V = 0 is a demand fault whatever its other bits
hold (R359; log 12). -/
def entryMalformed (level e : Nat) : Bool :=
  let psz := e / 2 ^ 8 % 16
  e / 2 ^ 52 != 0 || e / 2 ^ 6 % 4 != 0 || (entryBit e 3 && !entryBit e 2)
    || (entryBit e 1 && (pszLevel psz != level || entryAddr e % pszSize psz != 0))
    || (!entryBit e 1 && (psz != 0 || level == 0))

/-- The leaf that a leaf entry describes. -/
def entryLeaf (e : Nat) : Leaf :=
  { base := entryAddr e, size := pszSize (e / 2 ^ 8 % 16), r := entryBit e 2, w := entryBit e 3, x := entryBit e 4,
    u := entryBit e 5 }

/-- The entry that a walk uses for a well-formed leaf whose run is longer than one (R355): the entry itself where all entries of
the run agree, else any one of them (log 4). `rd` reads the entry at an address of the same table. -/
def runEntry (free : Nat) (rd : Nat → Nat) (ea e : Nat) : Nat :=
  let psz := e / 2 ^ 8 % 16
  let run := pszSize psz / 2 ^ (12 + 9 * pszLevel psz)
  if entryBit e 1 && decide (1 < run) then
    let first := ea / (8 * run) * (8 * run)
    let es := (List.range run).map (fun i => rd (first + 8 * i))
    if es.all (· == e) then e else es.getD ((Config.freeW64 free (1000 + ea)).toNat % run) e
  else e

/-- For whom and where a walk goes: the VF, the stage-1 root that tags it, and the die whose walker makes it (R357). -/
structure Walker where
  vf : Nat
  s1root : W64
  die : Nat
deriving DecidableEq, Repr

/-- The value of the table entry at an address as a walk uses it: what the table holds, or an older value that the walk caches of
the die still hold under the same tags (R357, R358; log 10). -/
def cachedEntry (s : State) (k : Walker) (stage ea value : Nat) : Nat :=
  match (dieAt s k.die).walks.find? (fun x => x.at_ == ea && x.stage == stage && x.vf == k.vf && x.s1root == k.s1root) with
  | some x => if x.value != value && Config.freeBit s.free (2500 + 2 * ea + stage) then x.value else value
  | none => value

/-- The use of a table entry of a level by the walk of an address. -/
def walkEntry (k : Walker) (stage level ea value a : Nat) : WalkEntry :=
  { vf := k.vf, s1root := k.s1root, stage := stage, at_ := ea, value := value
    base := a / 2 ^ (12 + 9 * level) * 2 ^ (12 + 9 * level), size := 2 ^ (12 + 9 * level) }

/-- What a walk of one stage does with the entry at an address of a table of a level: it ends, or goes on at the next table.
`rd` reads an entry of this table; `bad` is the DETAIL of a malformed entry. -/
def walkStep (s : State) (stage bad level ea a : Nat) (rd : Nat → Nat) : Walk ⊕ Nat :=
  let e0 := rd ea
  if !entryBit e0 0 then .inl (.demand stage (a / 4096))
  else if entryMalformed level e0 then .inl (.page bad)
  else
    let e := runEntry s.free rd ea e0
    if !entryBit e 0 then .inl (.demand stage (a / 4096))
    else if entryMalformed level e then .inl (.page bad)
    else if entryBit e 1 then .inl (.leaf (entryLeaf e) [])
    else .inr (entryAddr e)

/-- Stage 2 of one guest-physical address, level by level from the root (R354). A leaf whose output lies in the OCPM is refused
(R356). -/
def walk2 (s : State) (k : Walker) (gpa : Nat) : List Nat → Nat → Walk
  | [], _ => .page 1
  | level :: rest, table =>
    let ea := table + 8 * (gpa / 2 ^ (12 + 9 * level) % 512)
    let rd := fun a => cachedEntry s k 2 a (leNat (readPas s (keyNum s k.vf) a 8))
    let me := walkEntry k 2 level ea (rd ea) gpa
    match walkStep s 2 1 level ea gpa rd with
    | .inl (.leaf l _) => if inOcpm (l.base + gpa % l.size) then .page 5 else .leaf l [me]
    | .inl w => w
    | .inr next =>
      match walk2 s k gpa rest next with
      | .leaf l p => .leaf l (me :: p)
      | w => w

/-- Stage 2 of a guest-physical address for a walker. The PF has no stage 2: its addresses are physical (log 13). -/
def stage2 (s : State) (k : Walker) (gpa : Nat) : Walk :=
  if k.vf = 0 then
    (if inOcpm gpa then .page 5
     else .leaf { base := 0, size := 2 ^ 52, r := true, w := true, x := true, u := true } [])
  else walk2 s k (gpa % 2 ^ 52) [4, 3, 2, 1, 0] (vfAt s k.vf).s2root.toNat

/-- An entry of a stage-1 table, through stage 2 (R354), with the stage-2 entries used; or how its read ends. -/
def readEntry1 (s : State) (k : Walker) (gpa : Nat) : Except Walk (Nat × List WalkEntry) :=
  match stage2 s k gpa with
  | .leaf l p =>
    if l.r then
      .ok (cachedEntry s k 1 gpa (leNat (readPas s (keyNum s k.vf) (l.base + gpa % l.size) 8)), p)
    else .error (.perm 1)
  | w => .error w

/-- Stage 1 of one virtual address, level by level from the root (R354). -/
def walk1 (s : State) (k : Walker) (va : Nat) : List Nat → Nat → Walk
  | [], _ => .page 0
  | level :: rest, table =>
    let ea := table + 8 * (va / 2 ^ (12 + 9 * level) % 512)
    match readEntry1 s k ea with
    | .error w => w
    | .ok (e0, p2) =>
      let rd := fun a => match readEntry1 s k a with
        | .ok x => x.1
        | .error _ => e0
      let me := walkEntry k 1 level ea e0 va
      match walkStep s 1 0 level ea va rd with
      | .inl (.leaf l _) => .leaf l (me :: p2)
      | .inl w => w
      | .inr next =>
        match walk1 s k va rest next with
        | .leaf l p => .leaf l (me :: p2 ++ p)
        | w => w

/-- What a translation delivers. -/
inductive Xlat where
  | ok (pa : Nat) (entry : Option TlbEntry)
  | page (detail : Nat)
  | perm (detail : Nat)
  | demand (stage page : Nat)
deriving DecidableEq, Repr

/-- A leaf's permission for a kind of access. -/
def Leaf.allows (l : Leaf) : AccessKind → Bool
  | .read => l.r
  | .write => l.w
  | .fetch => l.x

/-- The walk of both stages (R354 to R357). `priv` says that the access is made at privilege S. -/
def walkBoth (s : State) (w : Walker) (priv : Bool) (k : AccessKind) (va : Nat) : Xlat :=
  match walk1 s w va [4, 3, 2, 1, 0] w.s1root.toNat with
  | .page d => .page d
  | .perm d => .perm d
  | .demand st p => .demand st p
  | .leaf a p1 =>
    if !(a.allows k && (priv || a.u)) then .perm 0
    else
      let gpa := a.base + va % a.size
      match stage2 s w gpa with
      | .page d => .page d
      | .perm d => .perm d
      | .demand st p => .demand st p
      | .leaf b p2 =>
        if !b.allows k then .perm 1
        else
          let size := min a.size b.size
          let pa := b.base + gpa % b.size
          .ok pa (some { vf := w.vf, s1root := w.s1root, base := va / size * size, size := size, gbase := gpa / size * size
                         pbase := pa / size * size, r := a.r && b.r, w := a.w && b.w, x := a.x && b.x, u := a.u
                         path := p1 ++ p2 })

/-- The physical addresses of the table entries that stage 2 of a guest-physical address reads. -/
def walk2Reads (s : State) (k : Walker) (gpa : Nat) : List Nat → Nat → List Nat
  | [], _ => []
  | level :: rest, table =>
    let ea := table + 8 * (gpa / 2 ^ (12 + 9 * level) % 512)
    ea :: (match walkStep s 2 1 level ea gpa (fun a => cachedEntry s k 2 a (leNat (readPas s (keyNum s k.vf) a 8))) with
      | .inl _ => []
      | .inr next => walk2Reads s k gpa rest next)

/-- The guest-physical addresses that a walk of an address asks stage 2 for: those of its table entries, and that of its leaf. -/
def walk1Gpas (s : State) (k : Walker) (va : Nat) : List Nat → Nat → List Nat
  | [], _ => []
  | level :: rest, table =>
    let ea := table + 8 * (va / 2 ^ (12 + 9 * level) % 512)
    ea :: (match readEntry1 s k ea with
      | .error _ => []
      | .ok (e0, _) =>
        match walkStep s 1 0 level ea va (fun a => match readEntry1 s k a with
            | .ok x => x.1
            | .error _ => e0) with
        | .inl (.leaf l _) => [l.base + va % l.size]
        | .inl _ => []
        | .inr next => walk1Gpas s k va rest next)

def walkGpas (s : State) (k : Walker) (va : Nat) : List Nat := walk1Gpas s k va [4, 3, 2, 1, 0] k.s1root.toNat

/-- A guest-physical address whose stage 2 reads a table in memory of a held die. -/
def stage2Held (s : State) (k : Walker) (gpa : Nat) : Bool :=
  k.vf != 0 && (walk2Reads s k (gpa % 2 ^ 52) [4, 3, 2, 1, 0] (vfAt s k.vf).s2root.toNat).any (heldAway s k.die)

/-- A walk of an address reads a table of either stage in memory of a held die, and waits (19 R415). An address that the TLB of the
walker's die holds is not walked. -/
def walkHeld (s : State) (k : Walker) (va : Nat) : Bool :=
  s.dies.any (fun d => d.2.held && d.1 != k.die)
    && !(dieAt s k.die).tlb.any (fun e => e.vf == k.vf && e.s1root == k.s1root && decide (e.base ≤ va) && decide (va < e.base + e.size))
    && (walkGpas s k va).any (fun g => stage2Held s k g || (match stage2 s k g with
      | .leaf l _ => heldAway s k.die (l.base + g % l.size)
      | _ => false))

/-- The answer that a held TLB entry gives (R357). No entry gives an address in the OCPM (R356). -/
def TlbEntry.answer (e : TlbEntry) (priv : Bool) (k : AccessKind) (va : Nat) : Option Xlat :=
  let allowed := match k with
    | .read => e.r
    | .write => e.w
    | .fetch => e.x
  let pa := e.pbase + va % e.size
  if allowed && (priv || e.u) then some (if inOcpm pa then .page 5 else .ok pa none) else none

/-- Translate a virtual address of the translated region. Where the TLB of the die still holds an older translation, either that
or the tables' may be used until the invalidation completes (R358; log 10). -/
def translate (s : State) (w : Walker) (priv : Bool) (k : AccessKind) (va : Nat) : Xlat :=
  let x := walkBoth s w priv k va
  match (dieAt s w.die).tlb.find? (fun e =>
      e.vf == w.vf && e.s1root == w.s1root && decide (e.base ≤ va) && decide (va < e.base + e.size)) with
  | none => x
  | some e =>
    match e.answer priv k va, x with
    | none, _ => x
    | some (.ok pa _), .ok pa' n =>
      if pa = pa' then .ok pa' (if n.map (fun t => { t with path := [] }) = some e then none else n)
      else if Config.freeBit s.free (2000 + va) then .ok pa none else x
    | some h, _ => if Config.freeBit s.free (2000 + va) then h else x

/-- Two ranges of bytes share one. -/
def rangesMeet (a n b m : Nat) : Bool := decide (a < b + m) && decide (b < a + n)

/-- Two table entries under the same tags lie in one place. -/
def WalkEntry.same (x y : WalkEntry) : Bool :=
  x.at_ == y.at_ && x.stage == y.stage && x.vf == y.vf && x.s1root == y.s1root

/-- Enter a translation in the TLB of a die, in place of one that overlaps it, and the table entries of its walk in the walk
caches. Which entry a full TLB gives up is free (log 10). -/
def addTlb (die : Nat) (e : Option TlbEntry) (s : State) : State :=
  match e with
  | none => s
  | some t =>
    modDie die (fun d =>
      let old := d.tlb.filter (fun x =>
        !(x.vf == t.vf && x.s1root == t.s1root && rangesMeet x.base x.size t.base t.size))
      let kept := if Config.tlbEntries ≤ old.length then
        old.eraseIdx ((Config.freeW64 s.free 2400).toNat % old.length) else old
      { d with tlb := { t with path := [] } :: kept
               walks := t.path.foldl (fun ws x => x :: ws.filter (fun y => !y.same x)) d.walks }) s

/-- The walks of the H5's own accesses, which stage 2 alone translates: the hub makes them, under no root. -/
def hubWalker (vf : Nat) : Walker := { vf := vf, s1root := 0, die := 4 }

/-- Physical address that a guest-physical address of a VF reaches for the H5's own accesses (R354): none where
stage 2 does not permit it. -/
def gpaToPa (s : State) (vf gpa : Nat) (write : Bool) : Option Nat :=
  match stage2 s (hubWalker vf) gpa with
  | .leaf l _ => if (if write then l.w else l.r) then some (l.base + gpa % l.size) else none
  | _ => none

/-- Read n bytes from a guest-physical address; none where one of them is not reached. -/
def readGpa (s : State) (vf gpa n : Nat) : Option (List Byte) :=
  (List.range n).mapM (fun i => (gpaToPa s vf (gpa + i) false).map (readPa s (keyNum s vf)))

/-- Some byte of a guest-physical range lies in memory of a held die, or its stage 2 reads a table there: the hub waits to reach it
(19 R415). -/
def gpaHeld (s : State) (vf gpa n : Nat) : Bool :=
  s.dies.any (fun d => d.2.held && d.1 != 4)
    && (List.range n).any (fun i => stage2Held s (hubWalker vf) (gpa + i) || (match stage2 s (hubWalker vf) (gpa + i) with
      | .leaf l _ => heldAway s 4 (l.base + (gpa + i) % l.size)
      | _ => false))

/-- Write bytes from a guest-physical address on; none where one of them is not reached. -/
def writeGpa (vf gpa : Nat) (bs : List Byte) (s : State) : Option State :=
  if ((List.range bs.length).all (fun i => (gpaToPa s vf (gpa + i) true).isSome)) then
    some (((List.range bs.length).zip bs).foldl (fun t p =>
      match gpaToPa s vf (gpa + p.1) true with
      | some pa => writeHub (keyNum s vf) pa p.2 t
      | none => t) s)
  else none

end Sys2Proof.Machine
end

