-- ==== Sys2Proof/Machine/Ops.lean ====
section
/-!
DEFINITION. The named operations over the state: registers and slots (02 R37 to R60), counters, trace and event records
(19 R416 to R418, R431 to R436), the memory generation (02 R65), taking a trap and returning from one (05 R124 to R130),
retirement with REP, HINT and LOOP (04 R111 to R122), and the end of groups and teams (05 R146, 07 R197, R212).
-/
namespace Sys2Proof.Machine

/-! ## Slots and the guard (02 R45 to R48) -/

/-- The 32-bit mask of the slots for which a test holds. -/
def maskOf (f : Nat → Bool) : W32 :=
  BitVec.ofNat 32 ((List.range 32).foldl (fun acc s => if f s then acc + 2 ^ s else acc) 0)

def Group.slot (g : Group) (s : Nat) : Slot := g.slots.getD s { st := .vacant, ident := 0 }
def Group.live (g : Group) (s : Nat) : Bool := (g.slot s).st == .live
def Group.helper (g : Group) (s : Nat) : Bool := (g.slot s).st == .helper
def Group.liveMask (g : Group) : W32 := maskOf g.live
def Group.helperMask (g : Group) : W32 := maskOf g.helper

/-- P[n] (R45): p0 reads as the live mask. -/
def Group.readP (g : Group) (n : Nat) : W32 := if n = 0 then g.liveMask else Tab.get 0 g.p n

/-- Write a predicate other than p0. -/
def Group.writePraw (n : Nat) (v : W32) (g : Group) : Group := if n = 0 then g else { g with p := Tab.set g.p n v }

/-- Write a predicate: 0 at every helper, exited and vacant slot (R48). -/
def Group.writeP (n : Nat) (v : W32) (g : Group) : Group := g.writePraw n (v &&& g.liveMask)

/-! ### Fields of MODE (R41) -/

def modeG (m : W32) : Nat := m.toNat % 8
def modeEt (m : W32) : Nat := m.toNat / 8 % 16
def modeRnd (m : W32) : Nat := m.toNat / 128 % 8
def modeSat (m : W32) : Bool := m.getLsbD 10
def modeFtz (m : W32) : Bool := m.getLsbD 11
def modeNanp (m : W32) : Bool := m.getLsbD 12

/-- The slots an instruction acts on (R47). -/
def Group.guardMask (g : Group) : W32 :=
  let p := g.readP (modeG g.mode)
  p &&& (g.liveMask ||| g.helperMask)

/-- The acting live slots. -/
def Group.actLive (g : Group) : W32 := g.guardMask &&& g.liveMask

/-- The guard covers every live slot (R50). -/
def Group.covers (g : Group) : Bool := g.guardMask &&& g.liveMask == g.liveMask

/-! ## Registers (02 R37 to R56) -/

/-- S[n]; s0 reads as zero. -/
def Group.readS (g : Group) (n : Nat) : W64 := if n = 0 then 0 else Tab.get 0 g.s n

/-- s0 is always full (R53). -/
def Group.sFull (g : Group) (n : Nat) : Bool := n == 0 || g.fullS.getLsbD n

/-- Write S[n], full and without a mark of bad data; a write to s0 is discarded. -/
def Group.writeS (n : Nat) (v : W64) (g : Group) : Group :=
  if n = 0 then g
  else { g with s := Tab.set g.s n v, fullS := g.fullS ||| BitVec.ofNat 64 (2 ^ n), badS := Tab.del g.badS n }

/-- Empty(n) of a scalar register; s0 stays full. -/
def Group.emptyS (n : Nat) (g : Group) : Group :=
  if n = 0 then g else { g with fullS := g.fullS &&& ~~~ BitVec.ofNat 64 (2 ^ n) }

/-- The vector register n. -/
def Group.vreg (g : Group) (n : Nat) : VReg := Tab.get (.uniform 0) g.v n

def Group.vFull (g : Group) (n : Nat) : Bool := g.fullV.getLsbD n
def Group.emptyV (n : Nat) (g : Group) : Group := { g with fullV := g.fullV &&& ~~~ BitVec.ofNat 112 (2 ^ n) }

/-- V[n][s] of a register by its shape (R49). -/
def VReg.lane (r : VReg) (s : Nat) : W32 :=
  match r with
  | .uniform b => b
  | .affine b t => b + BitVec.ofNat 32 s * t
  | .general _ l => l.getD s 0

/-- The 32 values of a register. -/
def VReg.lanes (r : VReg) : List W32 := (List.range 32).map r.lane

/-- The shape code that VSHAPE reads (R49). -/
def VReg.code : VReg → Nat
  | .uniform _ => 0
  | .affine _ _ => 1
  | .general _ _ => 2

/-- First vector register number that is not allotted (R38). -/
def State.vtop (s : State) (g : Group) : Nat := 64 + (teamAt s g.team).vext

/-! ## Counters (19 R434 to R436) -/

/-- Add n to the counters of a core that count an event of a VF, whose number the owner field holds modulo 512 (log 52); a wrap sets
OVF. -/
def Core.count (ev vf n : Nat) (c : Core) : Core :=
  c.pmccfg.foldl (fun c e =>
    let cfg := e.2.toNat
    if cfg % 256 = ev && (ev == 1 || cfg / 256 % 512 == vf % 512) then
      let v := (Tab.get 0 c.pmc e.1).toNat + n
      { c with pmc := Tab.set c.pmc e.1 (BitVec.ofNat 64 (v % 2 ^ 48))
               pmccfg := if 2 ^ 48 ≤ v then Tab.set c.pmccfg e.1 (e.2 ||| BitVec.ofNat 64 (2 ^ 48)) else c.pmccfg
               wrapped := if 2 ^ 48 ≤ v then e.1 :: c.wrapped else c.wrapped }
    else c) c

/-- Count an event of a VF on a core. -/
def count (core ev vf n : Nat) (s : State) : State :=
  if n = 0 || (coreAt s core).pmccfg.isEmpty then s else modCore core (Core.count ev vf n) s

/-- Count an event of the executing group. -/
def countMe (ev n : Nat) (s : State) : State := count (coreOf s.qid) ev s.me.vf n s

/-- Add n to what a sensor class of the Binder measures of a function (15 R368): class 0 issues, 2 ticks of completed
LAUNCH commands with their number as class 7, 4 bytes of copies, 5 firings. -/
def tally (cls vf n : Nat) (s : State) : State :=
  if n = 0 then s
  else
    let k := cls * 1024 + vf
    { s with binder := { s.binder with tally := Tab.set s.binder.tally k (Tab.get 0 s.binder.tally k + n) } }

def evIssue : Nat := 2
def evReuse : Nat := 3
def evDedup : Nat := 4
def evCollide : Nat := 5
def evRefsat : Nat := 6
def evGendrop : Nat := 7
def evRangetrap : Nat := 8
def evStagemiss : Nat := 9
def evAged : Nat := 10
def evEmptywait : Nat := 11
def evKstep : Nat := 12
def evBtesec : Nat := 13
def evL1miss : Nat := 14
def evTlbmiss : Nat := 15
def evCorrected : Nat := 16
def evDemandflt : Nat := 17

/-! ## Trace (19 R431, R432) -/

/-- Number of records of the circular buffer. -/
def Trace.records (t : Trace) : Nat :=
  Config.traceRecords + (if t.txbase = 0 then 0 else t.txsize.toNat / 32)

/-- The record passes the three filters while capture runs: it stops once the post-trigger count is reached. -/
def Trace.keeps (t : Trace) (cls vf : Nat) (cg : W64) : Bool :=
  t.tctl.getLsbD 0 && !t.tstat.getLsbD 0 && !(t.tstat.getLsbD 1 && t.left == 0)
    && (!t.tfvf.getLsbD 9 || t.tfvf.toNat % 512 == vf)
    && (cg ^^^ t.tcgval) &&& t.tcgmask == 0
    && t.tclass.getLsbD cls

/-- Keep one record: its place in the buffer, the trigger and the count after it. -/
def Trace.keep (cls code : Nat) (rec : BitVec 256) (t : Trace) : Trace :=
  let i := t.twptr.toNat % t.records
  let next := (i + 1) % t.records
  let hit := t.tctl.getLsbD 1 && !t.tstat.getLsbD 1 && t.ttrig.toNat % 16 == cls
    && (t.ttrig.getLsbD 12 || t.ttrig.toNat / 16 % 256 == code)
  let left := if hit then t.tpost.toNat else if t.tstat.getLsbD 1 then t.left - 1 else t.left
  { t with
    buf := if i < Config.traceRecords then Tab.set t.buf i rec else t.buf
    twptr := BitVec.ofNat 64 next
    ttptr := if hit then BitVec.ofNat 64 i else t.ttptr
    left := left
    tstat := t.tstat ||| (if hit then 2 else 0) ||| (if next = 0 then 4 else 0) }

/-- Offer a trace record to a die (R432). `payload` is the twelve bytes from byte 20; the spec states them for an issue
sample only, and elsewhere they are free (log 14). -/
def capture (die cls code vf : Nat) (cg : W64) (payload : Option Nat) (s : State) : State :=
  let t := (dieAt s die).trace
  if t.keeps cls vf cg then
    let p := match payload with
      | some n => n % 2 ^ 96
      | none => (Config.freeW64 s.free (3000 + cls)).toNat + (Config.freeW64 s.free (3100 + cls)).toNat % 2 ^ 32 * 2 ^ 64
    let rec' := BitVec.ofNat 256 (s.time.toNat + cg.toNat * 2 ^ 64 + cls % 256 * 2 ^ 128 + code % 256 * 2 ^ 136 + p * 2 ^ 160)
    let i := t.twptr.toNat % t.records
    let s1 := modDie die (fun d => { d with trace := d.trace.keep cls code rec' }) s
    if Config.traceRecords ≤ i then
      writePas (keyNum s 0) (t.txbase.toNat + 32 * (i - Config.traceRecords)) (leBytes 32 rec'.toNat) s1
    else s1
  else s

/-- Offer a record of a class whose CODE the spec does not state (log 14). -/
def captureFree (die cls vf : Nat) (cg : W64) (s : State) : State :=
  capture die cls ((Config.freeW64 s.free 3200).toNat % 256) vf cg none s

/-! ## Event records (19 R416 to R419) -/

/-- Lay out payload fields of the given sizes in order, each aligned to its own size. -/
def packFields (fs : List (Nat × Nat)) : List Byte :=
  fs.foldl (fun acc f =>
    acc ++ List.replicate ((f.1 - acc.length % f.1) % f.1) 0#8 ++ leBytes f.1 f.2) []

/-- A function sends the MSI-X message of a vector to the host; 0xFFFF names none (14 R341, R345; 19 R416). -/
def sendMsix (vf vector : Nat) (s : State) : State :=
  if vector = 0xFFFF then s else { s with msix := s.msix ++ [(vf, vector)] }

/-- Post an event record of a type to the ring of a function (R416): a trace record is offered for it, written or dropped, and the
MSI-X message follows a written one. `vfn` is the VF concerned. -/
def postEvent (ring ty vfn die : Nat) (cg : W64) (payload : List Byte) (s : State) : State :=
  let d := (vfAt s ring).dbg
  let bump (lost wrote : Bool) (s : State) : State :=
    modVf ring (fun v => { v with dbg := { v.dbg with
      evseq := v.dbg.evseq + 1
      evlost := if lost then v.dbg.evlost + 1 else v.dbg.evlost
      evhead := if wrote then v.dbg.evhead + 1 else v.dbg.evhead } }) s
  if d.evsize = 0 then s
  else capture die 7 ty vfn cg none <| if d.evhead - d.evtail = d.evsize then bump true false s
  else
    let rec' := leBytes 2 ty ++ leBytes 2 vfn ++ leBytes 4 d.evseq.toNat ++ leBytes 8 s.time.toNat ++ leBytes 8 cg.toNat
      ++ payload ++ List.replicate (40 - payload.length) 0#8
    match writeGpa ring (d.evbase.toNat + 64 * (d.evhead.toNat % d.evsize.toNat)) rec' s with
    | none => bump true false s
    | some s1 => sendMsix ring d.evmsix.toNat (bump false true s1)

/-! ## Bring-up (22 R467, R468) -/

/-- READY. -/
def bootReady (s : State) : Bool := s.boot.bootstat.getLsbD 16

/-- An access of the PF outside its configuration space and the bring-up block, which alone are there until READY (22 R467). -/
def whenReady (f : State → State) (s : State) : State := if bootReady s then f s else s

/-! ## Memory generation (02 R65) -/

/-- MemGen++ of a team. When it wraps to 0, every load record of the team is invalid. -/
def bumpMemGen (k : Nat) (s : State) : State :=
  let t := teamAt s k
  let s1 := modTeam k (fun t => { t with memGen := t.memGen + 1 }) s
  if t.memGen + 1 = 0 then
    modCore t.core (fun c => { c with reuse := c.reuse.filter (fun r => r.loadTeam != some k) }) s1
  else s1

/-- MemGen++ of the executing group's team. -/
def memGenMe (s : State) : State := bumpMemGen s.me.team s

/-! ## The content-addressed register store (02 R57 to R60) -/

/-- The hash of a general value (R57). -/
def crsHash (salt : BitVec 48) (v : List W32) : BitVec 48 :=
  let x := ((List.range 32).zip v).foldl (fun acc p => acc ^^^ (BitVec.zeroExtend 64 p.2).rotateLeft (7 * p.1 % 64)) 0#64
  BitVec.truncate 48 (BitVec.zeroExtend 64 salt ^^^ x)

/-- Give back one reference of an entry; at 0 it is freed with the reuse records that name it (R59). -/
def Core.release (name : Nat) (c : Core) : Core :=
  match Tab.find c.crs name with
  | none => c
  | some e =>
    if e.refs ≤ 1 then
      { c with crs := Tab.del c.crs name, reuse := c.reuse.filter (fun r => !r.names.contains name) }
    else { c with crs := Tab.set c.crs name { e with refs := e.refs - 1 } }

/-- Release the entry that a register names, where it names one. -/
def Core.releaseReg (r : VReg) (c : Core) : Core :=
  match r with
  | .general n _ => c.release n
  | _ => c

/-- What naming a value found: the entry, and how often DEDUP, COLLIDE and REFSAT advance. -/
structure Named where
  name : Nat
  dedup : Nat
  collide : Nat
  refsat : Nat
deriving DecidableEq, Repr

/-- Search the directory's entries of a VF and hash for an equal value (R58). -/
def findEntry (v : List W32) : Tab CrsEntry → Nat → Nat → Option Nat × Nat × Nat
  | [], col, sat => (none, col, sat)
  | (n, e) :: t, col, sat =>
    if e.lanes = v then (if e.refs < 255 then (some n, col, sat) else findEntry v t col (sat + 1))
    else findEntry v t (col + 1) sat

/-- Name a general value: share an equal entry, or take a free one (R58). The lowest free entry is taken (log 8). -/
def Core.enter (vf : Nat) (salt : BitVec 48) (v : List W32) (c : Core) : Named × Core :=
  let h := crsHash salt v
  let listed := c.crs.filter (fun e => e.2.listed && e.2.vf == vf && e.2.hash == h)
  match findEntry v listed 0 0 with
  | (some n, col, sat) =>
    ({ name := n, dedup := 1, collide := col, refsat := sat },
     { c with crs := Tab.set c.crs n { (Tab.get default c.crs n) with refs := (Tab.get default c.crs n).refs + 1 } })
  | (none, col, sat) =>
    let n := Tab.freeKey c.crs (c.crs.length + 1) 0
    ({ name := n, dedup := 0, collide := col, refsat := sat },
     { c with crs := Tab.set c.crs n { vf := vf, lanes := v, hash := h, refs := 1, listed := decide (listed.length < 8),
                                       bad := false, stamp := c.nextStamp }
              nextStamp := c.nextStamp + 1 })

/-- Write vector register n of a group: a general value is named anew (R58), the register is full and its mark of bad
data is cleared. The name that a general argument carries is not used. -/
def putVq (q n : Nat) (r : VReg) (s : State) : State :=
  let g := groupAt s q
  let c := coreOf q
  let done (r' : VReg) (s : State) : State :=
    modGroup q (fun g => { g with v := Tab.set g.v n r', fullV := g.fullV ||| BitVec.ofNat 112 (2 ^ n)
                                  badV := Tab.del g.badV n }) s
  let s1 := modCore c (Core.releaseReg (g.vreg n)) s
  match r with
  | .general _ l =>
    let e := Core.enter g.vf (vfAt s g.vf).salt l (coreAt s1 c)
    let s2 := modCore c (fun _ => e.2) s1
    done (.general e.1.name l)
      (count c evDedup g.vf e.1.dedup (count c evCollide g.vf e.1.collide (count c evRefsat g.vf e.1.refsat s2)))
  | r => done r s1

/-- A general register whose CRS entry holds uncorrectable data (19 R414). -/
def crsBad (s : State) (q n : Nat) : Bool :=
  match (groupAt s q).vreg n with
  | .general k _ => (match Tab.find (coreAt s (coreOf q)).crs k with
      | some e => e.bad
      | none => false)
  | _ => false

/-- The marks of bad data after a write that leaves lanes of a register as they were: a mark stays, and that of its CRS entry
becomes the register's own (19 R414). -/
def keptBad (s : State) (q n : Nat) : Tab W64 :=
  let g := groupAt s q
  if (Tab.find g.badV n).isNone && crsBad s q n then Tab.set g.badV n 4 else g.badV

/-- Write a vector register of the executing group. Only a full write clears the mark of bad data (19 R414). -/
def putV (n : Nat) (r : VReg) (s : State) : State :=
  let s1 := putVq s.qid n r s
  if s.me.covers then s1 else modMe (fun g => { g with badV := keptBad s s.qid n }) s1

/-- Write a scalar register of the executing group. -/
def putS (n : Nat) (v : W64) (s : State) : State := modMe (Group.writeS n v) s

/-- Merge values into a register where the guard does not cover every live slot (R51): the slots that are not acted on
keep their values, and a write that changes nothing keeps the shape. -/
def mergeReg (old : VReg) (mask : W32) (new : Nat → W32) : VReg :=
  if (List.range 32).all (fun s => !mask.getLsbD s || new s == old.lane s) then old
  else .general 0 ((List.range 32).map (fun s => if mask.getLsbD s then new s else old.lane s))

/-- A general result: acted slots take the new value, and the others keep theirs (R50, R51). -/
def generalReg (old : VReg) (mask : W32) (new : Nat → W32) : VReg :=
  .general 0 ((List.range 32).map (fun s => if mask.getLsbD s then new s else old.lane s))

/-! ## Outstanding returns (02 R54, R68, R69) -/

/-- The CRS entry that a load's key names: the register of its offsets, where that is general (02 R64). -/
def loadKeyNames (key : List Nat) : List Nat := if key.getD 4 0 = 2 ∧ key.length = 9 then [key.getD 5 0] else []

/-- CRS entries of a core with their stamps, for those that are there. -/
def stampsOf (c : Core) (names : List Nat) : List (Nat × Nat) :=
  names.filterMap (fun k => (Tab.find c.crs k).map (fun e => (k, e.stamp)))

/-- Enter an outstanding return of the executing group. -/
def addReturn (parts : List RetPart) (key : Option (List Nat)) (s : State) : State :=
  { s with returns := Tab.set s.returns s.nextReturn
             { q := s.qid, gen := s.me.gen, vf := s.me.vf, parts := parts, loadKey := key
               stamps := match key with
                 | some k => stampsOf (coreAt s (coreOf s.qid)) (loadKeyNames k)
                 | none => [] }
           nextReturn := s.nextReturn + 1 }

/-! ## What a word does -/

/-- Where the group goes on after a word retires: at the next word, elsewhere with what its pinned loop becomes, or
where ERET resumes, with the repetition of a REP to resume and the mark of a BAR whose arrival has counted. -/
inductive Next where
  | seq
  | goto (pc : W64) (loop : Option PinnedLoop)
  | resume (pc : W64) (loop : Option PinnedLoop) (rep : Option Nat) (barHalf : Bool)
deriving DecidableEq, Repr

/-- How the execution of a word at issue ends. -/
inductive Res where
  /-- It retires. -/
  | done (s : State) (n : Next)
  /-- It takes a precise trap; the state holds what its description keeps. -/
  | trap (s : State) (code info : Nat)
  /-- It waits at issue. -/
  | wait (s : State) (b : Blocked)
  /-- It ended the group, or left it where no retirement follows. -/
  | ended (s : State)
deriving DecidableEq, Repr

abbrev Out := Host.Outcome State Fault Refusal

/-! ### Trap codes (05 R126) -/

def tIllegalOpcode : Nat := 1
def tIllegalField : Nat := 2
def tIllegalReg : Nat := 3
def tEmpty : Nat := 4
def tPriv : Nat := 5
def tAlign : Nat := 6
def tPage : Nat := 7
def tPerm : Nat := 8
def tRangeLock : Nat := 9
def tScopeDenied : Nat := 10
def tCap : Nat := 11
def tDataErr : Nat := 12
def tBrk : Nat := 13
def tTrap : Nat := 14
def tWatch : Nat := 15
def tStep : Nat := 16
def tPreempt : Nat := 17
def tStream : Nat := 18
def tAllot : Nat := 19
def tSyscFail : Nat := 20

/-- BRK, WATCH and STEP are debug events (R128). -/
def isDebugEvent (code : Nat) : Bool := code == 13 || code == 15 || code == 16

/-- TREP as a stop at this point of the group writes it (R124, R134). -/
def Group.trepNow (g : Group) : W64 :=
  (match g.rep with
    | some r => BitVec.ofNat 64 (64 + r.k % 64)
    | none => match g.repResume with
      | some k => BitVec.ofNat 64 (64 + k % 64)
      | none => 0)
  ||| (match g.blocked with
    | some (.bar _) => 128
    | _ => if g.barHalf then 128 else 0)

/-- The marks of a waiting stream read are taken back: its destination is as it was before the read (02 R54). -/
def Group.unmark (g : Group) : Group :=
  let fv : BitVec 112 := match g.markV with
    | some n => BitVec.ofNat 112 (2 ^ n)
    | none => 0
  let fs : BitVec 64 := match g.markS with
    | some n => BitVec.ofNat 64 (2 ^ n)
    | none => 0
  { g with fullV := g.fullV ||| fv, fullS := g.fullS ||| fs, markV := none, markS := none }

/-- The CCLK from which a group has waited: it issued, or its wait ended. -/
def Group.since (g : Group) : Nat := max g.lastIssue g.readyAt

/-- A debugger is attached to the VF of the group (R136, 19 R420). -/
def dattOf (s : State) (g : Group) : Bool := (vfAt s g.vf).dbg.dctl.getLsbD 0

/-- COOP of the group: bit 0 of its VF's CCTL (R136, 17 R383). A change applies from the next stop, so a save under way
and a PREEMPT handler go by the mode that the team was stopped in. -/
def coopOf (s : State) (g : Group) : Bool :=
  let c := (vfAt s g.vf).ctx
  if c.st == .saving || g.pact then (teamAt s g.team).coop else c.cctl.getLsbD 0

/-- The run of hints at the REP word of a group that stops inside the REP, where it goes on: the run stood at the target (04 R116). -/
def Group.hintBack (g : Group) : Option HintRun :=
  match g.rep, g.hint with
  | some _, some h => some { h with index := h.index - 1 }
  | _, h => h

/-- An armed step after a trap or a TRAP: cancelled, but for one that waits for the handler's ERET (20 R441). -/
def Group.stepLeft (g : Group) : StepArm := if g.step == .afterEret then .afterEret else .off

/-- The group halts (R124, 19 R428): it keeps its registers and its slot, and EV_HALT is posted. A group that stops
inside a REP resumes at the same repetition, and its hint run and an armed step wait with it (04 R116, 20 R441). A request for
allotment is withdrawn (07 R214, 10 R297). -/
def haltGroup (q code : Nat) (info ret : W64) (s : State) : State :=
  let g := groupAt s q
  let rr := match g.rep with
    | some r => some r.k
    | none => g.repResume
  let s1 := modGroup q (fun g => { g.unmark with
    st := .halted, halt := { code := BitVec.ofNat 8 code, info := info, ret := ret }, pc := ret, rep := none,
    repResume := rr, hint := g.hintBack, active := false, cache := [], haltReq := none,
    blocked := match g.blocked with
      | some (.bar o) => some (.bar o)
      | _ => none }) s
  let s2 := modCore (coreOf q) (fun c => { c with requests := c.requests.filter (fun r => r.q != q) }) s1
  postEvent g.vf 12 g.vf (dieOf q) (cgidOf q g)
    (packFields [(1, code), (1, if g.sysc.isSome then 1 else 0), (8, info.toNat), (8, ret.toNat),
      (4, (Config.procOf g.vf).toNat), (4, if g.sysc.isSome then (Config.threadOf g.vf q).toNat else 0)]) s2

/-- TakeTrap (R124): enter the handler that the entry names, or halt. The word that traps was the first one after a debug handler's
ERET, where one was to come; STEP and PREEMPT come between words (19 R424). -/
def takeTrap (q code : Nat) (info ret : W64) (s : State) : State :=
  let g := groupAt s q
  let s0 := capture (dieOf q) 1 code g.vf (cgidOf q g) none s
  let dbg := isDebugEvent code
  let vec := if code = 17 then g.pvec else if dbg then g.dvec else g.tvec
  if g.hact || g.dact || g.pact || vec == 0 || (dbg && !dattOf s g) then
    haltGroup q code info ret (modGroup q (fun g => { g with hint := none, step := g.stepLeft }) s0)
  else
    modGroup q (fun g => { g.unmark with
      tpc := ret, tcode := BitVec.ofNat 64 code, tinfo := info, trep := g.trepNow,
      hact := g.hact || (!dbg && code != 17), dact := g.dact || dbg, pact := g.pact || code == 17,
      pc := vec, hint := none, rep := none, repResume := none, barHalf := false, blocked := none, step := .off,
      failPages := [], suppress := g.suppress && (code == 16 || code == 17), loop := g.loop.map (fun l => { l with suspended := true }) }) s0

/-! ## Retirement -/

/-- The word of the run that issues: its gap and its give-way (04 R116). -/
def Group.hintGap (g : Group) : Nat :=
  match g.hint with
  | some h => h.gaps.toNat / 4 ^ h.index % 4
  | none => 0

def Group.hintYield (g : Group) : Bool :=
  match g.hint with
  | some h => h.yields.getLsbD h.index
  | none => false

/-- The run at the next word. -/
def Group.hintNext (g : Group) : Option HintRun :=
  match g.hint with
  | some h => if h.index < 7 then some { h with index := h.index + 1 } else none
  | none => none

/-- The address after a pinned loop's body (04 R119). -/
def PinnedLoop.after (l : PinnedLoop) : W64 := l.addr + BitVec.ofNat 64 (4 * (l.body.length + 1))

/-- The address lies in the body of a pinned loop. -/
def PinnedLoop.holds (l : PinnedLoop) (pc : W64) : Bool :=
  let d := (pc - l.addr).toNat
  d % 4 == 0 && decide (4 ≤ d) && decide (d < 4 * (l.body.length + 1))

/-- Go on at the next word, with the iteration of a pinned loop counted at its end (04 R121). -/
def Group.advance (g : Group) (pc : W64) : Group :=
  match g.loop with
  | none => { g with pc := pc }
  | some l =>
    if l.suspended || pc != l.after then { g with pc := pc }
    else if l.remaining.toNat ≤ 1 then { g with pc := pc, loop := none }
    else { g with pc := l.addr + 4, loop := some { l with remaining := l.remaining - 1 } }

/-- A taken branch ends an active pinned loop; a handler's branches leave a suspended one (04 R121, R122). -/
def Group.loopAfterBranch (g : Group) : Option PinnedLoop :=
  match g.loop with
  | some l => if l.suspended then some l else none
  | none => none

/-- The group after its word retires at a CCLK: pc, REP, run of hints and pinned loop (04 R111 to R122, 07 R203). -/
def Group.retire (g : Group) (n : Next) (cclk : Nat) : Group :=
  let inRep := match g.rep with
    | some r => decide (r.k < r.op.cnt.toNat)
    | none => false
  let gap := if inRep then 0 else g.hintGap
  let g1 : Group :=
    match n with
    | .goto pc l =>
      { g with pc := pc, loop := l, rep := none, repResume := none, barHalf := false, hint := none, suppress := false }
    | .resume pc l rr bh =>
      { g with pc := pc, loop := l, rep := none, repResume := rr, barHalf := bh, hint := none,
               step := if g.step == .afterEret then .armed else g.step }
    | .seq =>
      match g.rep with
      | some r =>
        if r.k < r.op.cnt.toNat then { g with rep := some { r with k := r.k + 1 }, suppress := false }
        else { g with rep := none, repResume := none, barHalf := false, hint := g.hintNext, suppress := false }.advance
          (g.pc + 8)
      | none =>
        { g with repResume := none, barHalf := false, hint := g.hintNext, suppress := false }.advance (g.pc + 4)
  { g1 with
    lastIssue := cclk, notBefore := cclk + 1 + gap, giveWay := !inRep && g.hintYield, blocked := none, aged := false,
    readyAt := cclk + 1, failPages := [] }

/-! ### What a partition owes to the functions on it (07 R207) -/

/-- The groups that reside on a partition. -/
def residents (s : State) (p : Nat) : List (Nat × Group) := s.groups.filter (fun e => e.1 / 16 == p && e.2.st != .vacant)

/-- The group runs, its wait is over, and no gap of a hint run holds it, which aging overrides (07 R203, R205). -/
def Group.ready (g : Group) (cclk : Nat) : Bool :=
  g.st == .running && g.blocked.isNone && (g.aged || decide (g.notBefore ≤ cclk))

/-- A ready group outside a YIELD hold. -/
def Group.counts (g : Group) (cclk : Nat) : Bool := g.ready cclk && g.yieldedAt.isNone

/-- The knob word of a VF after reset (15 R365): every share 16. -/
def knobReset : W32 := 0x10001010

/-- The issue weight of a VF, as the Binder has handed it out (07 R207, 15 R368). -/
def issueWeight (s : State) (vf : Nat) : Nat := (Tab.get knobReset s.binder.handed vf).toNat % 256

/-- Where a core keeps what a partition owes to a VF. -/
def lagKey (q vf : Nat) : Nat := q / 16 % 8 * 1024 + vf

/-- What the partition of a slot owes to a VF, in 2^-16 words. -/
def lagOf (s : State) (q vf : Nat) : Nat := Tab.get 0 (coreAt s (coreOf q)).lags (lagKey q vf)

/-- A partition must serve a VF before it is free to choose: it owes four words (07 R207, log 6). -/
def lagMost : Nat := 4 * 2 ^ 16

/-- A CCLK of a partition in which the group that stood as `g` in slot q issues: every VF with a ready group earns its part of a word by
its weight, and the group's VF has received one. A VF without a ready group is owed nothing. -/
def lagTurn (q : Nat) (g : Group) (s : State) (lags : Tab Nat) : Tab Nat :=
  let rs := residents s (q / 16)
  let vfs := (g.vf :: rs.map (fun e => e.2.vf)).eraseDups
  let sum := vfs.foldl (fun n v => n + issueWeight s v) 0
  vfs.foldl (fun (t : Tab Nat) v =>
    let ready := v == g.vf || rs.any (fun e => e.2.vf == v && e.2.counts s.cclk)
    let lag := Tab.get 0 lags (lagKey q v) + issueWeight s v * 2 ^ 16 / sum - (if v = g.vf then 2 ^ 16 else 0)
    if ready && lag != 0 then Tab.set t (lagKey q v) lag else t) (lags.filter (fun e => e.1 / 1024 != q / 16 % 8))

/-- The partition of a slot after a CCLK in which the group that stood as `g` there issues. -/
def owe (q : Nat) (g : Group) (s : State) : State := modCore (coreOf q) (fun c => { c with lags := lagTurn q g s c.lags }) s

/-- The issue of a word of the group that stood as `g` in slot q is counted and sampled (19 R432, R435; 15 R368; 07 R207). -/
def countIssue (q : Nat) (g : Group) (s : State) : State :=
  capture (dieOf q) 0 0 g.vf (cgidOf q g) (some g.pc.toNat)
    (owe q g (tally 0 g.vf 1 (count (coreOf q) evAged g.vf (if g.aged then 1 else 0) (count (coreOf q) evIssue g.vf 1 s))))

/-- The word of the executing group retires: its issue is counted and sampled. -/
def retireWord (n : Next) (s : State) : State := countIssue s.qid s.me (modMe (fun g => g.retire n s.cclk) s)

/-- The word of the executing group retires, and an armed single step is taken after it (R125, 19 R428). -/
def retire (n : Next) (s : State) : State :=
  match s.me.step with
  | .armed =>
    let s1 := modMe (fun g => { g with step := .off }) (retireWord n s)
    takeTrap s.qid tStep 0 s1.me.pc s1
  | _ => retireWord n s

/-- The executing group waits: it is blocked from this CCLK on, where it is not blocked already. It is not ready then, and so not
aged (07 R205). -/
def block (b : Blocked) (s : State) : State :=
  modMe (fun g => { g with
    blocked := some b, blockedAt := if g.blocked.isSome then g.blockedAt else s.cclk, aged := false }) s

/-- The executing group takes a precise trap at its word. -/
def trapHere (code info : Nat) (s : State) : State := takeTrap s.qid code (BitVec.ofNat 64 info) s.me.pc s

/-- The outcome of a word of a group. -/
def finish : Res → Out
  | .done s n => .next (retire n s)
  | .trap s code info => .next (trapHere code info s)
  | .wait s b => .next (block b s)
  | .ended s => .next s

/-! ## The return from a handler (05 R130) -/

/-- The handler bits and TREP[7:6] clear at ERET; the word after the ERET of a debug handler meets no breakpoint and no
watchpoint (19 R424). -/
def eretState (s : State) : State :=
  modMe (fun g => { g with hact := false, dact := false, pact := false, trep := g.trep &&& ~~~ (192 : W64)
                           suppress := g.dact }) s

/-- Where ERET goes: TPC, with the suspended loop active again or ended (04 R122), the repetition of a REP to resume
(04 R114) and a BAR to execute as BARW. A loop that the handler itself pinned stays active where none is suspended (log 60). -/
def eretNext (g : Group) : Next :=
  .resume g.tpc
    (match g.loop with
      | some l => if l.suspended && l.holds g.tpc then some { l with suspended := false, pos := none }
                  else if l.suspended then none else some l
      | none => none)
    (if g.trep.getLsbD 6 then some (g.trep.toNat % 64) else none)
    (g.trep.getLsbD 7)

/-- ERET of a group whose handler is active: the return from an exception. -/
def takeReturn (s : State) : Res := .done (eretState s) (eretNext s.me)

/-! ## The end of groups and teams -/

/-- Release the sequencer of a core (10 R285, 11 R313): to FREE once no MMA is outstanding. -/
def releaseSeq (c : Nat) (s : State) : State :=
  modCore c (fun k => { k with seq :=
    if k.seq.mmas.isEmpty then { Sequencer.reset with serial := k.seq.serial }
    else { k.seq with releasing := true, held := false, st := .idle, owner := none } }) s

/-- The members of sharing groups that stand in the folios of a VF (07 R213). -/
def savedMembers (s : State) (vf : Nat) : List Member :=
  s.launches.flatMap (fun l => if l.2.vf = vf then ((l.2.saved.map (fun r => r.members)).getD []) else [])

/-- A member in a folio goes to a cluster: others of its group have been restored there. -/
def Member.goesTo (m : Member) (homes : List Home) (cluster : Nat) : Bool :=
  homes.contains { key := m.key, was := some m.cluster, cluster := cluster }

/-- The team leaves its sharing group: its number leaves every other view (07 R212). -/
def leaveShare (k : Nat) (s : State) : State :=
  let t := teamAt s k
  match t.share with
  | none => s
  | some sh =>
    { s with teams := s.teams.map (fun e =>
        if e.1 = k then (e.1, { e.2 with share := none })
        else match e.2.share with
          | some o =>
            if e.2.vf = t.vf && o.key == sh.key && e.2.core / 4 == t.core / 4 then
              (e.1, { e.2 with share := some { o with view := o.view &&& ~~~ BitVec.ofNat 16 (2 ^ sh.member) } })
            else e
          | none => e) }

/-- The outstanding MMAs of a team that ends complete as those of a team that has released the sequencer do (10 R285): each keeps the team
as it stands. -/
def keepMmas (k : Nat) (s : State) : State :=
  let t := teamAt s k
  if (coreAt s t.core).seq.mmas.any (fun m => m.team == k) then
    modCore t.core (fun c => { c with seq := { c.seq with
      mmas := c.seq.mmas.map (fun m => if m.team = k then { m with ended := some t } else m) } }) s
  else s

/-- The team's last group has ended (07 R197, R212, 10 R285): it leaves its sharing group and the sequencer, and its
counts return. A wave or a gathering ends with it. -/
def endTeam (k : Nat) (s : State) : State :=
  let t := teamAt s k
  let s1 := leaveShare k (keepMmas k s)
  let s2 := if (coreAt s1 t.core).seq.owner = some k then releaseSeq t.core s1 else s1
  let s3 := modCore t.core (fun c => { c with
    reuse := c.reuse.filter (fun r => r.loadTeam != some k)
    requests := c.requests.filter (fun r => r.team != k) }) s2
  let l := Tab.find s.launches t.launch
  { s3 with
    teams := Tab.del s3.teams k
    launches := match l with
      | some x => if x.kind == .kernel then Tab.set s3.launches t.launch { x with left := x.left - 1 }
                  else Tab.del s3.launches t.launch
      | none => s3.launches }

/-- EXIT of the group in a slot (05 R146): its entries of the CRS are released, its ports close undrained, and the slot
is free at once. -/
def endGroup (q : Nat) (s : State) : State :=
  let g := groupAt s q
  let s1 := modCore (coreOf q) (fun c =>
    let c1 := g.v.foldl (fun c e => c.releaseReg e.2) c
    { c1 with requests := c1.requests.filter (fun r => r.q != q) }) s
  let s2 : State := { setGroup q { Group.empty with gen := g.gen } s1 with
    syscs := match g.sysc with
      | some y => Tab.set s1.syscs y.handle.toNat { Tab.get default s1.syscs y.handle.toNat with gone := true }
      | none => s1.syscs }
  let s3 := modTeam g.team (fun t => { t with members := t.members.filter (· != q) }) s2
  if (teamAt s3 g.team).members.isEmpty then endTeam g.team s3 else s3

/-- Helpers of each quad (02 R46): a vacant or exited slot of a quad with a live slot is a helper, and a quad without a
live slot has none. A helper of a quad that lost its last live slot becomes exited. An exited slot keeps its identity while it is a
helper, and has it again when it is exited again (DESIGN CHOICE, log 70: 07 R192 does not say; after a save and a restore between it is
0). -/
def settleQuads (slots : List Slot) : List Slot :=
  (List.range 32).map (fun s =>
    let sl := slots.getD s { st := .vacant, ident := 0 }
    let quadLive := (List.range 4).any (fun j => (slots.getD (s / 4 * 4 + j) { st := .vacant, ident := 0 }).st == .live)
    match sl.st with
    | .live => sl
    | .helper => if quadLive then sl else { sl with st := .exited }
    | .exited => if quadLive then { sl with st := .helper } else sl
    | .vacant => if quadLive then { sl with st := .helper } else sl)

/-! ## Operand errors that the descriptions share -/

/-- A scalar operand outside its range (09 R249). -/
def badOperandW (word : W32) (n : Nat) (s : State) : Res := .trap s tIllegalField (word.toNat + 2 ^ 47 + n * 2 ^ 40)

def badOperand (i : Instr) (n : Nat) (s : State) : Res := badOperandW (encode i) n s

end Sys2Proof.Machine
end

