-- ==== Sys2Proof/Machine/Access.lean ====
section
/-!
DEFINITION. One access of memory (08 R215 to R226, R238 to R242; 09 R246 to R249): regions, sharing windows, range locks,
watchpoints, demand faults, and the transaction barriers that engines update (09 R281, R282, R471).
-/
namespace Sys2Proof.Machine

/-- For whom an access is made: the VF and its stage-1 root, the team that local addresses are relative to, the core whose
lock table is checked, and whether it is made at privilege S. -/
structure Env where
  vf : Nat
  s1root : W64
  team : Nat
  core : Nat
  priv : Bool
deriving DecidableEq, Repr

/-- The accesses of a group. -/
def envOf (s : State) (q : Nat) : Env :=
  let g := groupAt s q
  { vf := g.vf, s1root := (teamAt s g.team).s1root, team := g.team, core := coreOf q, priv := g.level }

/-- The accesses of an engine for a team (08 R219): at privilege S for the PF's teams only (log 16). -/
def envOfTeam (s : State) (k : Nat) : Env :=
  let t := teamAt s k
  { vf := t.vf, s1root := t.s1root, team := k, core := t.core, priv := t.vf == 0 }

/-- The die on which an access is made: that of its core, or that of a COPY command (numbers from 1024 on, log 5). -/
def Env.die (e : Env) : Nat := if e.core < 1024 then e.core / 64 else e.core - 1024

/-- The walks that translate an access. -/
def Env.walker (e : Env) : Walker := { vf := e.vf, s1root := e.s1root, die := e.die }

/-- What an address names (R215 to R218), or the check of R226 that it fails. `stage` orders the checks. `held` is memory of a
held die that another die reaches for (19 R415). -/
inductive Place where
  | mem (pa : Nat) (tlb : Option TlbEntry)
  | aperture (off : Nat)
  | mmio (off : Nat)
  | fail (stage code detail : Nat)
  | demand (stage page : Nat)
  | held
deriving DecidableEq, Repr

/-- First address of the local region (R215). -/
def localBase : Nat := 0x01FF000000000000

/-- Physical address of a byte of a team's scratchpad (R217); none for a page that the team does not hold. -/
def scratchPa (t : Team) (off : Nat) : Option Nat :=
  match t.pages[off / 0x400]? with
  | some p => some (ocpmWindow t.core + p * 0x400 + off % 0x400)
  | none => none

/-- The team that holds a member number of a sharing group (07 R210). -/
def memberTeam (s : State) (t : Team) (key : W64) (m : Nat) : Option Team :=
  (s.teams.find? (fun e => match e.2.share with
    | some o => e.2.vf == t.vf && e.2.core / 4 == t.core / 4 && o.key == key && o.member == m
    | none => false)).map Prod.snd

/-- A byte of a sharing window (07 R211). -/
def windowPlace (s : State) (k : Nat) (m off : Nat) (write : Bool) : Place :=
  let t := teamAt s k
  match t.share with
  | none => .fail 4 tPerm 3
  | some sh =>
    if m = sh.member then
      (match scratchPa t off with
        | some pa => .mem pa none
        | none => .fail 4 tPerm 2)
    else if !sh.view.getLsbD m then .fail 4 tPerm 3
    else match memberTeam s t sh.key m with
      | none => .fail 4 tPerm 3
      | some u =>
        let ex := match u.share with
          | some o => o.exposure
          | none => 2
        if ex = 2 || (ex = 1 && write) then .fail 4 tPerm 3
        else match scratchPa u off with
          | some pa => .mem pa none
          | none => .fail 4 tPerm 2

/-- What the byte at a virtual address is for an access of a kind (R215 to R218), whichever dies are held. -/
def resolveOpen (s : State) (e : Env) (k : AccessKind) (va : Nat) : Place :=
  if 2 ^ 57 ≤ va then .fail 2 tPage 2
  else if va < 2 ^ 56 then
    match translate s e.walker e.priv k va with
    | .ok pa n => .mem pa n
    | .page d => .fail 4 tPage d
    | .perm d => .fail 4 tPerm d
    | .demand st p => .demand st p
  else if va < localBase then .fail 3 tPage 3
  else
    let off := va - localBase
    if off < 0x100000 then
      (match scratchPa (teamAt s e.team) off with
        | some pa => .mem pa none
        | none => .fail 4 tPerm 2)
    else if 0x100000000 ≤ off && off < 0x101000000 then
      windowPlace s e.team ((off - 0x100000000) / 0x100000) (off % 0x100000) (k == .write)
    else if 0x200000000 ≤ off && off < 0x200000400 then .aperture (off - 0x200000000)
    else if 0x400000000 ≤ off && off < 0x400030000 then
      (if e.priv then .mmio (off - 0x400000000) else .fail 4 tPerm 5)
    else .fail 3 tPage 3

/-- What the byte at a virtual address is for an access of a kind, whose die or whose tables' die may be held. -/
def resolve (s : State) (e : Env) (k : AccessKind) (va : Nat) : Place :=
  if va < 2 ^ 56 && walkHeld s e.walker va then .held
  else match resolveOpen s e k va with
    | .mem pa t => if heldAway s e.die pa then .held else .mem pa t
    | p => p

/-- The stage of a demand fault that was answered FAIL, where the access at an address waited on it (14 R359): `fails` are the stages and
pages that the executing group's word waited on. -/
def failStage (s : State) (e : Env) (fails : List (Nat × Nat)) (va : Nat) : Option Nat :=
  if va < 2 ^ 56 then
    (fails.find? (fun f => if f.1 = 1 then f.2 == va / 4096 else (walkGpas s e.walker va).any (fun g => g / 4096 == f.2))).map Prod.fst
  else none

/-- TINFO of a failing access (09 R247). -/
def accessInfo (lockw w : Bool) (slot va detail : Nat) : Nat :=
  (if lockw then 2 ^ 63 else 0) + (if w then 2 ^ 62 else 0) + slot % 32 * 2 ^ 57 + va / 64 % 2 ^ 51 * 64 + detail % 64

/-! ## The pages of a range -/

/-- The physical memory is the H5's own: HBM or OCPM. -/
def ownMemory (pa : Nat) : Bool := inOcpm pa || Config.physKind pa == .hbm

/-- The physical address of a byte and the bytes left in its page: the translated page, or a scratchpad page of 1 KiB. A held die
does not matter here. -/
def pageAt (s : State) (e : Env) (k : AccessKind) (va : Nat) : Option (Nat × Nat) :=
  match resolveOpen s e k va with
  | .mem pa _ =>
    if va < 2 ^ 56 then
      (match walkBoth s e.walker e.priv k va with
        | .ok _ (some t) => some (pa, t.size - va % t.size)
        | _ => some (pa, 4096 - va % 4096))
    else some (pa, 1024 - va % 1024)
  | _ => none

/-- The physical parts of a virtual range, one for each page that is reached and lies in the H5's own memory. -/
def pageParts (s : State) (e : Env) (k : AccessKind) : Nat → Nat → Nat → List (Nat × Nat)
  | 0, _, _ => []
  | fuel + 1, va, len =>
    if len = 0 then []
    else match pageAt s e k va with
      | some (pa, left) =>
        let n := min len left
        (if ownMemory pa then [(pa, n)] else []) ++ pageParts s e k fuel ((va + n) % 2 ^ 64) (len - n)
      | none =>
        let n := min len (4096 - va % 4096)
        pageParts s e k fuel ((va + n) % 2 ^ 64) (len - n)

/-! ## Range locks (08 R239 to R242) -/

/-- For whom an operation on a core makes its accesses, of the operations whose locks may be kept for pages that are not reached yet. -/
def ownerEnv (s : State) (core : Nat) : LockOwner → Option Env
  | .copy id => (Tab.find s.copies id).map (fun c => { vf := c.vf, s1root := c.s1root, team := c.team, core := c.core, priv := c.vf == 0 })
  | .collective id _ => (Tab.find (dieAt s (core / 64)).colls id).map (fun c =>
      { vf := c.vf, s1root := c.s1root, team := c.team, core := c.core, priv := c.vf == 0 })
  | _ => none

/-- A lock covers a line: one of its own lines, or one of the pages that are reached by now of the part that was not (R242; log 64). -/
def lockCovers (s : State) (core : Nat) (l : Lock) (line : Nat) : Bool :=
  (decide (l.lo ≤ line) && decide (line ≤ l.hi)) || (match l.late, ownerEnv s core l.owner with
    | some (va, n), some e => (pageParts s e (if l.write then .write else .read) (n + 1) va n).any (fun p =>
        decide (p.1 / 64 ≤ line) && decide (line ≤ (p.1 + p.2 - 1) / 64))
    | _, _ => false)

/-- The lowest entry of a core's table that an access to a line conflicts with: a write with any lock, a read with a write lock. -/
def lockHit (s : State) (core line : Nat) (write : Bool) : Option (Nat × Bool) :=
  ((coreAt s core).locks.find? (fun e => (write || e.2.write) && lockCovers s core e.2 line)).map (fun e => (e.1, e.2.write))

/-- The core whose scratchpad or accumulator window holds a physical address. -/
def ocpmCore (pa : Nat) : Option Nat := if inOcpm pa then some ((pa - ocpmBase) / 0x800000) else none

/-- The lock that a thread access of a core meets at a physical address (R240): its own core's table, and the table of the
core whose scratchpad a sharing window reaches. -/
def threadLock (s : State) (core pa : Nat) (write : Bool) : Option (Nat × Bool) :=
  match lockHit s core (pa / 64) write with
  | some h => some h
  | none =>
    match ocpmCore pa with
    | some c => if c = core then none else lockHit s c (pa / 64) write
    | none => none

/-- A lock registered before an operation's own conflicts with its access. -/
def olderLock (s : State) (core order pa : Nat) (write : Bool) : Bool :=
  let hit (c : Nat) : Bool := (coreAt s c).locks.any (fun l => decide (l.2.order < order)
    && (write || l.2.write) && lockCovers s c l.2 (pa / 64))
  (decide (core < 1024) && hit core) || (match ocpmCore pa with
    | some c => c != core && hit c
    | none => false)

/-! ## The checks of one access (R226) -/

/-- Parts of an access within one 64-byte line each. -/
def linePieces (va size : Nat) : List (Nat × Nat) :=
  if va % 64 + size ≤ 64 then [(va, size)] else [(va, 64 - va % 64), ((va + (64 - va % 64)) % 2 ^ 64, va % 64 + size - 64)]

/-- What an access is, beside its addresses. `vector` marks a vector access. -/
structure Acc where
  size : Nat
  write : Bool
  atomic : Bool
  vector : Bool
deriving DecidableEq, Repr

/-- The permission that an access needs. -/
def Acc.kind (a : Acc) : AccessKind := if a.write then .write else .read

/-- A lane that passed its checks: the physical parts of its bytes with the TLB entries its walks made, or a device
window. -/
inductive LanePlace where
  | bytes (parts : List (Nat × Nat)) (tlb : List TlbEntry)
  | aperture (off : Nat)
  | mmio (off : Nat)
deriving DecidableEq, Repr

/-- How a lane fails: the order of the check, and the trap, or what it waits on: a demand fault, or a held die. -/
inductive LaneFail where
  | trap (stage code info : Nat)
  | demand (stage page : Nat)
  | held
deriving DecidableEq, Repr

def LaneFail.stage : LaneFail → Nat
  | .trap st _ _ => st
  | .demand _ _ => 4
  | .held => 6

/-- FABTAG.V of a VF (21 R443, R448). -/
def fabTagged (s : State) (vf : Nat) : Bool := (Tab.get 0 s.platform.fabtag vf).getLsbD 16

/-- The ingress of a die takes a packet for a VF on its tag (21 R449). -/
def tagAccepted (s : State) (vf : Nat) (tag : BitVec 16) : Bool :=
  fabTagged s vf && (Tab.get 0 s.platform.fabtag vf).toNat % 2 ^ 16 == tag.toNat

/-- An event of a kind that is posted at most once in a millisecond is due. -/
def eventDue (s : State) (last : Option W64) : Bool :=
  match last with
  | some t => decide (t.toNat + 1000000 ≤ s.time.toNat)
  | none => true

/-- The ingress of a die drops a packet for a VF: PDROP advances, and EV_PARTITION_DROP is posted at most once in a millisecond (21 R449). -/
def dropPacket (die link vf : Nat) (tag : BitVec 16) (s : State) : State :=
  let s1 : State := { s with platform := { s.platform with pdrop := s.platform.pdrop + 1 } }
  if eventDue s (dieAt s die).dropEvAt then
    postEvent 0 8 vf die 0 (packFields [(1, die), (1, link), (2, tag.toNat), (2, vf)])
      (modDie die (fun d => { d with dropEvAt := some s.time }) s1)
  else s1

/-- A VF without a valid fabric tag sends no packet: none of its accesses reaches peer memory, which is reached at sys scope
(08 R222, 21 R448; log 58). -/
def fabricDenied (s : State) (vf pa : Nat) : Bool := !fabTagged s vf && !inOcpm pa && Config.physKind pa == .peer

/-- The parts of a lane after resolution: all in memory, or the lane's first failing part. A demand fault that was
answered FAIL is a PAGE (14 R359). -/
def resolveParts (s : State) (e : Env) (fails : List (Nat × Nat)) (a : Acc) (slot : Nat) :
    List (Nat × Nat) → Except LaneFail LanePlace
  | [] => .ok (.bytes [] [])
  | (va, n) :: rest =>
    match failStage s e fails va, resolve s e a.kind va with
    | some st, _ => .error (.trap 4 tPage (accessInfo false a.write slot va (st - 1)))
    | none, .fail st code d => .error (.trap st code (accessInfo false a.write slot va d))
    | none, .demand st p => .error (.demand st p)
    | none, .held => .error .held
    | none, .aperture off =>
      if a.vector || a.atomic then .error (.trap 4 tPerm (accessInfo false a.write slot va 4)) else .ok (.aperture off)
    | none, .mmio off =>
      if a.vector || a.atomic || !(a.size == 4 || a.size == 8) || va % a.size != 0 then
        .error (.trap 4 tPerm (accessInfo false a.write slot va 5))
      else .ok (.mmio off)
    | none, .mem pa t =>
      if fabricDenied s e.vf pa then .error (.trap 4 tPerm (accessInfo false a.write slot va 1))
      else match resolveParts s e fails a slot rest with
      | .ok (.bytes ps ts) => .ok (.bytes ((pa, n) :: ps) (t.toList ++ ts))
      | .ok _ => .error (.trap 4 tPerm (accessInfo false a.write slot va 4))
      | .error f => .error f

/-- The first part that meets a range lock. -/
def lockFail (s : State) (e : Env) (a : Acc) (slot : Nat) : List (Nat × Nat) → List (Nat × Nat) → Option LaneFail
  | (va, _) :: vs, (pa, _) :: ps =>
    match threadLock s e.core pa a.write with
    | some (i, w) => some (.trap 5 tRangeLock (accessInfo w a.write slot va i))
    | none => lockFail s e a slot vs ps
  | _, _ => none

/-- log2 of an access size, for the DETAIL of ALIGN (09 R248). -/
def sizeLog (n : Nat) : Nat := if n ≤ 1 then 0 else if n ≤ 2 then 1 else if n ≤ 4 then 2 else if n ≤ 8 then 3 else if n ≤ 16 then 4
  else if n ≤ 32 then 5 else 6

/-- The checks of R226 for one lane, SCOPE_DENIED apart. -/
def checkLane (s : State) (e : Env) (fails : List (Nat × Nat)) (a : Acc) (slot va : Nat) : Except LaneFail LanePlace :=
  if a.atomic && va % a.size != 0 then .error (.trap 1 tAlign (accessInfo false a.write slot va (sizeLog a.size)))
  else
    let vs := linePieces va a.size
    match resolveParts s e fails a slot vs with
    | .error f => .error f
    | .ok (.bytes ps ts) =>
      match lockFail s e a slot vs ps with
      | some f => .error f
      | none => .ok (.bytes ps ts)
    | .ok p => .ok p

/-- The checks of R226 over lanes in ascending slot order: the first check that fails, for the lowest slot that fails it. -/
def checkLanes (s : State) (e : Env) (fails : List (Nat × Nat)) (a : Acc) :
    List (Nat × Nat) → Except LaneFail (List (Nat × LanePlace))
  | [] => .ok []
  | (slot, va) :: rest =>
    match checkLane s e fails a slot va, checkLanes s e fails a rest with
    | .error f, .error f' => .error (if f'.stage < f.stage then f' else f)
    | .error f, .ok _ => .error f
    | .ok _, .error f => .error f
    | .ok p, .ok ps => .ok ((slot, p) :: ps)

/-- Raise a demand fault (14 R359): one record per VF, root, stage and page. -/
def raiseDemand (e : Env) (stage page : Nat) (s : State) : State :=
  let f : DemandFault := { s1root := e.s1root, stage := stage, page := page }
  if (vfAt s e.vf).faults.contains f then s
  else count e.core evDemandflt e.vf 1 (modVf e.vf (fun v => { v with faults := v.faults ++ [f] }) s)

/-- The end of a group's word whose access fails: a precise trap, or a stall on a demand fault. A RANGE_LOCK trap advances
MEMGEN (02 R65). -/
def failRes (s : State) (e : Env) : LaneFail → Res
  | .trap _ code info =>
    if code = tRangeLock then .trap (countMe evRangetrap 1 (memGenMe s)) code info else .trap s code info
  | .demand st p => .wait (raiseDemand e st p s) (.demand st p)
  | .held => .wait s .held

/-- SCOPE_DENIED (R225): the scope is sys and SCOPE_POLICY.SYS of the VF is 0. -/
def scopeDenied (s : State) (vf scope : Nat) : Bool := scope == 4 && !(vfAt s vf).scopePolicy.getLsbD 0

/-! ## Watchpoints (19 R421 to R424) -/

def pointAddr (d : BitVec 256) : Nat := d.toNat % 2 ^ 64
def pointLen (d : BitVec 256) : Nat := d.toNat / 2 ^ 64 % 2 ^ 32
def pointKind (d : BitVec 256) : Nat := d.toNat / 2 ^ 96 % 4
def pointRepEn (d : BitVec 256) : Bool := d.getLsbD 98
def pointRepK (d : BitVec 256) : Nat := d.toNat / 2 ^ 104 % 64

/-- The CGID filter of a point. -/
def pointFilter (d : BitVec 256) (cg : W64) : Bool :=
  !d.getLsbD 99 || (cg ^^^ BitVec.ofNat 64 (d.toNat / 2 ^ 128 % 2 ^ 64)) &&& BitVec.ofNat 64 (d.toNat / 2 ^ 192) == 0

/-- The slots of an access that a watchpoint matches. -/
def watchSlots (d : BitVec 256) (cg : W64) (read write : Bool) (size : Nat) (lanes : List (Nat × Nat)) : Nat :=
  let kind := pointKind d
  let admitted := (read && (kind == 1 || kind == 3)) || (write && (kind == 2 || kind == 3))
  if admitted && pointFilter d cg then
    lanes.foldl (fun acc l =>
      if decide (l.2 < pointAddr d + pointLen d) && decide (pointAddr d < l.2 + size) then acc + 2 ^ l.1 else acc) 0
  else 0

/-- The first armed watchpoint that an access of a group matches, as the TINFO of WATCH (R423). -/
def watchHit (s : State) (q : Nat) (read write : Bool) (size : Nat) (lanes : List (Nat × Nat)) : Option Nat :=
  let g := groupAt s q
  let d := (vfAt s g.vf).dbg
  if g.suppress || d.wenable = 0 then none
  else
    ((List.range 8).filterMap (fun j =>
      let i := 16 + j
      if d.wenable.getLsbD i then
        let m := watchSlots (Tab.get 0 d.points i) (cgidOf q g) read write size lanes
        if m = 0 then none else some (m + i * 2 ^ 32 + (if write then 2 ^ 37 else 0))
      else none)).head?

/-! ## Performing -/

/-- The bytes of a lane. -/
def readParts (s : State) (vf : Nat) (parts : List (Nat × Nat)) : List Byte :=
  parts.flatMap (fun p => readPas s (keyNum s vf) p.1 p.2)

/-- Write the bytes of a lane. -/
def writeParts (vf : Nat) : List (Nat × Nat) → List Byte → State → State
  | [], _, s => s
  | (pa, n) :: ps, bs, s => writeParts vf ps (bs.drop n) (writePas (keyNum s vf) pa (bs.take n) s)

/-- DETAIL of DATA_ERR for bytes that hold uncorrectable data (19 R414). -/
def partsBad (s : State) (parts : List (Nat × Nat)) : Option Nat :=
  (parts.filterMap (fun p => Tab.find s.badLines (p.1 / 64))).head?

/-- Enter the translations of checked lanes in the TLBs. -/
def addTlbs (die : Nat) (ts : List TlbEntry) (s : State) : State := ts.foldl (fun t e => addTlb die (some e) t) s

/-- One checked access of the executing group: its parts and the state after its walks, or how the word ends. -/
def access (s : State) (a : Acc) (read : Bool) (va : Nat) : Except Res (LanePlace × State) :=
  let e := envOf s s.qid
  match checkLane s e s.me.failPages a 0 va with
  | .error f => .error (failRes s e f)
  | .ok p =>
    match watchHit s s.qid read a.write a.size [(0, va)] with
    | some info => .error (.trap s tWatch info)
    | none =>
      match p with
      | .bytes _ ts => .ok (p, addTlbs (dieOf s.qid) ts s)
      | _ => .ok (p, s)

/-- The parts of a range within one 64-byte line each. -/
def lineRange (va n : Nat) : List (Nat × Nat) :=
  (List.range ((va % 64 + n + 63) / 64)).map (fun i =>
    let lo := if i = 0 then va else (va / 64 + i) * 64
    let hi := min (va + n) ((va / 64 + i + 1) * 64)
    (lo, hi - lo))

/-- The checks of R226 for a range of memory that the executing group accesses as one vector access (11 R324, 17 R398): its
parts and the TLB entries of its walks. -/
def rangeCheck (s : State) (write : Bool) (va n : Nat) : Except Res (List (Nat × Nat) × List TlbEntry) :=
  let e := envOf s s.qid
  let a : Acc := { size := n, write := write, atomic := false, vector := true }
  let ls := if n = 0 then [] else lineRange va n
  match resolveParts s e s.me.failPages a 0 ls with
  | .error f => .error (failRes s e f)
  | .ok (.bytes ps ts) =>
    (match lockFail s e a 0 ls ps with
      | some f => .error (failRes s e f)
      | none => .ok (ps, ts))
  | .ok _ => .error (.trap s tPerm (accessInfo false write 0 va 4))

/-- One checked access of the executing group to a range of memory: its parts and the state after its walks, or how the word
ends. -/
def accessRange (s : State) (write : Bool) (va n : Nat) : Except Res (List (Nat × Nat) × State) :=
  match rangeCheck s write va n with
  | .error r => .error r
  | .ok (ps, ts) =>
    match watchHit s s.qid (!write) write n [(0, va)] with
    | some info => .error (.trap s tWatch info)
    | none => .ok (ps, addTlbs (dieOf s.qid) ts s)

/-! ## Accesses of engines -/

/-- Physical addresses of the bytes at a virtual address, line by line, for an engine: each 64-byte line is resolved once. A VF without
a valid fabric tag reaches no peer memory (21 R448). -/
def enginePlaces (s : State) (e : Env) (k : AccessKind) (va n : Nat) : Except Place (List (Nat × Nat)) :=
  (lineRange va n).foldl (fun acc l =>
    match acc with
    | .error p => .error p
    | .ok ps =>
      match resolve s e k l.1 with
      | .mem pa _ => if fabricDenied s e.vf pa then .error (.fail 4 tPerm 1) else .ok (ps ++ [(pa, l.2)])
      | .aperture _ => .error (.fail 4 tPerm 4)
      | .mmio _ => .error (.fail 4 tPerm 5)
      | p => .error p) (.ok [])

/-- Bytes at a virtual address for an engine; none where a line fails. -/
def engineRead (s : State) (e : Env) (va n : Nat) : Except Place (List Byte) :=
  match enginePlaces s e .read va n with
  | .error p => .error p
  | .ok ps => .ok (readParts s e.vf ps)

/-- Write bytes at a virtual address for an engine: all of them, or none where a line fails. -/
def engineWrite (e : Env) (va : Nat) (bs : List Byte) (s : State) : Except Place State :=
  match enginePlaces s e .write va bs.length with
  | .error p => .error p
  | .ok ps => .ok (writeParts e.vf ps bs s)

/-! ## Transaction barriers (09 R281, R282, R471) -/

/-- Fields of a barrier record. -/
def tbPhase (t : Nat) : Nat := t % 16
def tbError (t : Nat) : Bool := t / 16 % 2 == 1
def tbParr (t : Nat) : Nat := t / 2 ^ 8 % 2 ^ 24
def tbExpect (t : Nat) : Nat := t / 2 ^ 32 % 2 ^ 32
def tbPsec (t : Nat) : Nat := t / 2 ^ 64 % 2 ^ 32
def tbReload (t : Nat) : Nat := t / 2 ^ 96 % 2 ^ 32

/-- A barrier record from its fields; bits [7:5] read 0. -/
def tbMake (phase : Nat) (err : Bool) (parr expect psec reload : Nat) : Nat :=
  phase % 16 + (if err then 16 else 0) + parr % 2 ^ 24 * 2 ^ 8 + expect % 2 ^ 32 * 2 ^ 32 + psec % 2 ^ 32 * 2 ^ 64
    + reload % 2 ^ 32 * 2 ^ 96

/-- Update (R282): `darr` arrivals, 0 or 1, and `dsec` sectors, which PSEC loses modulo 2^32. -/
def tbUpdate (t : Nat) (darr : Nat) (dsec : Int) : Nat :=
  let surplus := darr == 1 && tbParr t == 0
  let err := tbError t || surplus
  let parr := if surplus then tbParr t else tbParr t - darr
  let psec := (((tbPsec t : Int) - dsec) % 2 ^ 32).toNat
  if parr = 0 && psec = 0 then tbMake (tbPhase t + 1) err (tbExpect t % 2 ^ 24) (tbExpect t) (tbReload t) (tbReload t)
  else tbMake (tbPhase t) err parr (tbExpect t) psec (tbReload t)

/-- Set ERROR of a barrier and advance its phase once, with the reload of R282 (10 R295). -/
def tbFail (t : Nat) : Nat := tbMake (tbPhase t + 1) true (tbExpect t % 2 ^ 24) (tbExpect t) (tbReload t) (tbReload t)

/-- The address lies in the team scratchpad or a sharing window (R281). -/
def tbRegion (va : Nat) : Bool :=
  decide (localBase ≤ va) && (decide (va - localBase < 0x100000)
    || (decide (0x100000000 ≤ va - localBase) && decide (va - localBase < 0x101000000)))

/-- The physical address of a barrier for an engine of a team; none where it does not resolve (R471). -/
def tbPlace (s : State) (k va : Nat) : Option Nat :=
  if tbRegion va && va % 16 == 0 then
    match resolve s (envOfTeam s k) .write va with
    | .mem pa _ => some pa
    | _ => none
  else none

/-- Change a barrier at a physical address in one access. -/
def tbModify (vf pa : Nat) (f : Nat → Nat) (s : State) : State :=
  writePas (keyNum s vf) pa (leBytes 16 (f (leNat (readPas s (keyNum s vf) pa 16)))) s

/-- An engine's update of a barrier for a team; none where the barrier does not resolve (R471). -/
def tbEngine (k va : Nat) (f : Nat → Nat) (s : State) : Option State :=
  match tbPlace s k va with
  | some pa => some (tbModify (teamAt s k).vf pa f s)
  | none => none

/-! ## Range locks of engines -/

/-- Take the locks of an operation, each at the lowest free entry; none where the table lacks the entries (R242). -/
def takeLocks (core : Nat) (ls : List Lock) (s : State) : Option State :=
  if (coreAt s core).locks.length + ls.length ≤ Config.lockEntries then
    some { ls.foldl (fun t l => modCore core (fun c =>
      { c with locks := Tab.set c.locks (Tab.freeKey c.locks 64 0) { l with order := s.nextOrder } }) t) s with
        nextOrder := s.nextOrder + 1 }
  else none

/-- Groups that a test picks issue their waiting word again: what it waited for may be there (07 R202). -/
def wakeAgain (p : Nat → Group → Bool) (s : State) : State :=
  { s with groups := s.groups.map (fun e =>
      (e.1, if p e.1 e.2 then { e.2 with blocked := none, readyAt := s.cclk } else e.2)) }

/-- A barrier that a sequencer fault of a core signals (10 R295): it waits for the locks registered before the fault (08 R241), and one
that no longer resolves is passed over (09 R471). -/
def signalBarrier (c : Nat) (x : Nat × Nat × W64) (s : State) : Option State :=
  match tbPlace s x.2.1 x.2.2.toNat with
  | none => some s
  | some pa => if olderLock s c x.1 pa true then none else some (tbModify (teamAt s x.2.1).vf pa tbFail s)

/-- The sequencer faults of a core signal what they can now. -/
def signalCore (c : Nat) (s : State) : State :=
  (coreAt s c).signals.foldl (fun u x =>
    match signalBarrier c x u with
    | some v => v
    | none => modCore c (fun k => { k with signals := k.signals ++ [x] }) u)
    (if (coreAt s c).signals.isEmpty then s else modCore c (fun k => { k with signals := [] }) s)

/-- Release the locks of an operation on a core: a CRESTART may wait for their room (17 R401), and the barriers of a sequencer fault for
the lines. -/
def dropLocks (core : Nat) (o : LockOwner) (s : State) : State :=
  let s1 := wakeAgain (fun q g => coreOf q == core && g.blocked == some .restart)
    (modCore core (fun c => { c with locks := c.locks.filter (fun e => e.2.owner != o) }) s)
  (s1.cores.filter (fun c => !c.2.signals.isEmpty)).foldl (fun u c => signalCore c.1 u) s1


/-! ## A sequencer fault (10 R295) -/

/-- The sequencer of a core stops with a cause, at a word and its address. The MMAs of a team that has released the
sequencer belong to that team still. -/
def seqFault (c cause : Nat) (word : Nat) (addr : W64) (s : State) : State :=
  let q := (coreAt s c).seq
  let k := match q.owner, q.mmas with
    | some k, _ => k
    | none, m :: _ => m.team
    | none, [] => 0
  let vf := match q.owner, q.mmas with
    | none, m :: _ => m.vf
    | _, _ => (teamAt s k).vf
  let s1 := match q.mmas with
    | [] => s
    | m :: _ => modCore c (fun x => { x with
        tiles := Tab.set x.tiles m.tile { Tab.get default x.tiles m.tile with fault := true } }) s
  let s2 := q.mmas.foldl (fun u m => dropLocks c (.mma m.serial) u) s1
  let s3 := modCore c (fun x => { x with seq :=
    if q.releasing then { Sequencer.reset with serial := q.serial }
    else { x.seq with st := .fault, mmas := [], park := none, mtime := none, stall := none } }) s2
  let s4 := signalCore c (modCore c (fun x => { x with signals := x.signals ++ q.barriers.map (fun va => (s.nextOrder, k, va)) }) s3)
  postEvent vf 10 vf (c / 64) 0 (packFields [(4, word), (8, addr.toNat), (1, cause)]) s4

end Sys2Proof.Machine
end

