-- ==== Sys2Proof/Machine/Fp.lean ====
section
/-!
DEFINITION. Numbers and arithmetic (01 R13 to R26): the floating-point formats, exact values, the six rounding modes,
flush to zero, NaN results, overflow and saturation.
-/
namespace Sys2Proof.Machine

/-- The floating-point element formats of 01 R14. -/
inductive Fmt where
  | f32 | h16 | b16 | e4m3 | e5m2 | e3m2 | e2m3 | e2m1
deriving DecidableEq, Repr

/-- Mantissa bits (R14). -/
def Fmt.mbits : Fmt → Nat
  | .f32 => 23 | .h16 => 10 | .b16 => 7 | .e4m3 => 3 | .e5m2 => 2 | .e3m2 => 2 | .e2m3 => 3 | .e2m1 => 1

/-- Exponent bits (R14). -/
def Fmt.ebits : Fmt → Nat
  | .f32 => 8 | .h16 => 5 | .b16 => 8 | .e4m3 => 4 | .e5m2 => 5 | .e3m2 => 3 | .e2m3 => 2 | .e2m1 => 2

/-- Exponent bias (R14). -/
def Fmt.bias : Fmt → Nat
  | .f32 => 127 | .h16 => 15 | .b16 => 127 | .e4m3 => 7 | .e5m2 => 15 | .e3m2 => 3 | .e2m3 => 1 | .e2m1 => 1

/-- Bits of an element: sign, exponent and mantissa. -/
def Fmt.width (f : Fmt) : Nat := 1 + f.ebits + f.mbits

/-- The format has infinities and NaNs with E at its maximum (R14). -/
def Fmt.ieee : Fmt → Bool
  | .f32 | .h16 | .b16 | .e5m2 => true
  | _ => false

/-- MODE.FTZ acts on the format (R23). -/
def Fmt.flushes : Fmt → Bool
  | .f32 | .h16 | .b16 => true
  | _ => false

/-- The exponent of the smallest normal value. -/
def Fmt.emin (f : Fmt) : Int := 1 - (f.bias : Int)

/-- The pattern of the largest finite value, sign 0 (R14). -/
def Fmt.maxBits (f : Fmt) : Nat :=
  match f with
  | .e4m3 => 0x7E
  | f => if f.ieee then (2 ^ f.ebits - 2) * 2 ^ f.mbits + (2 ^ f.mbits - 1) else 2 ^ (f.ebits + f.mbits) - 1

/-- The pattern of +infinity of a format that has one (R14). -/
def Fmt.infBits (f : Fmt) : Nat := (2 ^ f.ebits - 1) * 2 ^ f.mbits

/-- The canonical NaN (R24). -/
def Fmt.nanBits : Fmt → Nat
  | .f32 => 0x7FC00000 | .h16 => 0x7E00 | .b16 => 0x7FC0 | .e4m3 => 0x7F | .e5m2 => 0x7E | _ => 0

/-- A value read from a pattern: a finite value is (−1)^neg × mag × 2^exp and a zero keeps its sign. -/
inductive Fpv where
  | fin (neg : Bool) (mag : Nat) (exp : Int)
  | inf (neg : Bool)
  | nan (neg : Bool) (payload : Nat)
deriving DecidableEq, Repr

/-- The exception flags of one operation, in the bit order of FPSTAT (05 R133). -/
abbrev Flags := BitVec 5

def flagNV : Flags := 16#5
def flagDZ : Flags := 8#5
def flagOF : Flags := 4#5
def flagUF : Flags := 2#5
def flagNX : Flags := 1#5

/-- What an arithmetic instruction reads of MODE beside its element type (02 R41). -/
structure FpEnv where
  rnd : Nat
  sat : Bool
  ftz : Bool
  nanp : Bool
deriving DecidableEq, Repr

/-- The value of a pattern (R14). -/
def fpDecode (f : Fmt) (bits : Nat) : Fpv :=
  let neg := bits / 2 ^ (f.ebits + f.mbits) % 2 == 1
  let e := bits / 2 ^ f.mbits % 2 ^ f.ebits
  let m := bits % 2 ^ f.mbits
  if f.ieee && e == 2 ^ f.ebits - 1 then (if m == 0 then .inf neg else .nan neg m)
  else if f == .e4m3 && e == 15 && m == 7 then .nan neg m
  else if e == 0 then .fin neg m (f.emin - f.mbits)
  else .fin neg (2 ^ f.mbits + m) ((e : Int) - f.bias - f.mbits)

/-- The pattern is a non-zero subnormal. -/
def fpSubnormal (f : Fmt) (bits : Nat) : Bool :=
  bits / 2 ^ f.mbits % 2 ^ f.ebits == 0 && bits % 2 ^ f.mbits != 0

/-- The value of an input after the flush of R23. -/
def fpInput (f : Fmt) (ftz : Bool) (bits : Nat) : Fpv :=
  if ftz && f.flushes && fpSubnormal f bits then
    .fin (bits / 2 ^ (f.ebits + f.mbits) % 2 == 1) 0 0
  else fpDecode f bits

/-- A pattern with a sign. -/
def withSign (f : Fmt) (neg : Bool) (bits : Nat) : Nat := (if neg then 2 ^ (f.ebits + f.mbits) else 0) + bits

/-- 2 to an integer power, as a multiplier of a natural number: left shift, or right shift with the lost part. -/
def shl (n : Nat) (k : Int) : Nat := n * 2 ^ k.toNat

/-- Round `mag × 2^exp` to a multiple of 2^qe in a mode of R21: the multiple and whether it is inexact. `l` holds the
16 LFSR bits of RS (R22). -/
def roundUnits (mode l : Nat) (neg : Bool) (mag : Nat) (exp qe : Int) : Nat × Bool :=
  if qe ≤ exp then (mag * 2 ^ (exp - qe).toNat, false)
  else
    let d := 2 ^ (qe - exp).toNat
    let n := mag / d
    let r := mag % d
    let up := match mode with
      | 1 => decide (d < 2 * r) || (2 * r == d && n % 2 == 1)
      | 3 => neg && r != 0
      | 4 => !neg && r != 0
      | 5 => decide (d ≤ 2 * r)
      | 6 => decide (65536 * d ≤ 65536 * r + l * d)
      | _ => false
    (if up then n + 1 else n, r != 0)

/-- Encode `n × 2^qe`, where the value is representable. -/
def fpEncode (f : Fmt) (neg : Bool) (n : Nat) (qe : Int) : Nat :=
  let p := if n == 2 ^ (f.mbits + 1) then (n / 2, qe + 1) else (n, qe)
  if p.1 < 2 ^ f.mbits then withSign f neg p.1
  else withSign f neg ((p.2 + f.mbits + f.bias).toNat * 2 ^ f.mbits + (p.1 - 2 ^ f.mbits))

/-- The largest finite magnitude of a format, as mantissa and exponent. -/
def Fmt.maxVal (f : Fmt) : Nat × Int :=
  match fpDecode f f.maxBits with
  | .fin _ m e => (m, e)
  | _ => (0, 0)

/-- `a × 2^ea` exceeds `b × 2^eb`. -/
def magGt (a : Nat) (ea : Int) (b : Nat) (eb : Int) : Bool :=
  let e := min ea eb
  decide (b * 2 ^ (eb - e).toNat < a * 2 ^ (ea - e).toNat)

/-- Overflow into a format (R25): the pattern for a finite value whose rounded magnitude is too large. -/
def fpOverflow (f : Fmt) (env : FpEnv) (neg : Bool) : Nat :=
  if env.sat then withSign f neg f.maxBits
  else match f with
    | .e3m2 | .e2m3 | .e2m1 => withSign f neg f.maxBits
    | .e4m3 => withSign f neg 0x7F
    | f =>
      let toMax := env.rnd == 2 || env.rnd == 6 || (env.rnd == 3 && !neg) || (env.rnd == 4 && neg)
      withSign f neg (if toMax then f.maxBits else f.infBits)

/-- The exponent of the leading bit of `mag × 2^exp`, for a non-zero magnitude. -/
def leadExp (mag : Nat) (exp : Int) : Int := exp + (Nat.log2 mag : Int)

/-- Deliver a value already rounded to `n × 2^qe` (R13, R23, R25): overflow, underflow and flush with their flags. -/
def fpDeliver (f : Fmt) (env : FpEnv) (neg : Bool) (n : Nat) (qe : Int) (inexact tiny : Bool) : Nat × Flags :=
  let mx := f.maxVal
  if magGt n qe mx.1 mx.2 then (fpOverflow f env neg, flagOF ||| flagNX)
  else
    let bits := fpEncode f neg n qe
    if env.ftz && f.flushes && fpSubnormal f bits then (withSign f neg 0, flagUF ||| flagNX)
    else (bits, (if inexact then flagNX else 0) ||| (if inexact && tiny then flagUF else 0))

/-- Round a finite exact value into a format (R21, R25), with the flags of R13. A zero keeps its sign. Tininess is
detected after rounding, as if the exponent were unbounded. -/
def fpRound (f : Fmt) (env : FpEnv) (l : Nat) (neg : Bool) (mag : Nat) (exp : Int) : Nat × Flags :=
  if mag == 0 then (withSign f neg 0, 0)
  else
    let e := leadExp mag exp
    let qe := max e f.emin - f.mbits
    let r := roundUnits env.rnd l neg mag exp qe
    let u := roundUnits env.rnd l neg mag exp (e - f.mbits)
    let tiny := magGt 1 f.emin u.1 (e - f.mbits)
    fpDeliver f env neg r.1 qe r.2 tiny

/-- A NaN operand with the format it stands in. -/
structure NanOp where
  fmt : Fmt
  neg : Bool
  payload : Nat
deriving DecidableEq, Repr

/-- The NaN result of R24, from the NaN operands in operand order. DESIGN CHOICE (log 67): an invalid operation without a NaN operand
delivers the destination's canonical NaN, sign 0, under NANP = 1 too, for which R24 names only the first NaN operand. -/
def nanResult (f : Fmt) (nanp : Bool) (ops : List NanOp) : Nat :=
  match nanp, ops with
  | true, o :: _ =>
    match f with
    | .e4m3 | .e5m2 => withSign f o.neg f.nanBits
    | f =>
      let p := if o.fmt.mbits ≤ f.mbits then o.payload * 2 ^ (f.mbits - o.fmt.mbits)
               else o.payload / 2 ^ (o.fmt.mbits - f.mbits)
      let q := 2 ^ (f.mbits - 1)
      withSign f o.neg (f.infBits + (if p / q % 2 == 1 then p else p + q))
  | _, _ => f.nanBits

/-- The NaN operands of a list of values. -/
def nanOps (f : Fmt) (vs : List Fpv) : List NanOp :=
  vs.filterMap (fun v => match v with
    | .nan neg p => some { fmt := f, neg := neg, payload := p }
    | _ => none)

/-- An infinite value entering a floating-point destination (R25). -/
def fpInfinity (f : Fmt) (env : FpEnv) (neg : Bool) : Nat × Flags :=
  match f with
  | .f32 | .h16 | .b16 | .e5m2 => if env.sat then (withSign f neg f.maxBits, flagNX) else (withSign f neg f.infBits, 0)
  | .e4m3 => if env.sat then (withSign f neg f.maxBits, flagNV) else (withSign f neg 0x7F, flagNV)
  | f => (withSign f neg f.maxBits, flagNV)

/-- A NaN entering a floating-point destination (R25). -/
def fpNan (f : Fmt) (env : FpEnv) (ops : List NanOp) : Nat × Flags :=
  match f with
  | .e3m2 | .e2m3 | .e2m1 => (f.maxBits, flagNV)
  | f => (nanResult f env.nanp ops, 0)

/-! ## Stochastic rounding (R22) -/

/-- One step of the LFSR (R22). -/
def lfsrStep (seed : W32) : W32 :=
  (seed <<< 1) ||| BitVec.zeroExtend 32 (BitVec.ofBool
    (seed.getLsbD 31 ^^ seed.getLsbD 21 ^^ seed.getLsbD 1 ^^ seed.getLsbD 0))

/-- Bits 31 to 16 of the LFSR state. -/
def lfsrHigh (seed : W32) : Nat := seed.toNat / 65536

/-- The state after one rounding place and the bits it uses: the LFSR steps under RS only (R22). -/
def drawRound (rnd : Nat) (seed : W32) : W32 × Nat :=
  if rnd == 6 then (lfsrStep seed, lfsrHigh (lfsrStep seed)) else (seed, 0)

/-! ## Exact sums and products -/

/-- An exact number: an integer times a power of two. -/
structure Dyadic where
  man : Int
  exp : Int
deriving DecidableEq, Repr

def Dyadic.add (a b : Dyadic) : Dyadic :=
  let e := min a.exp b.exp
  { man := a.man * 2 ^ (a.exp - e).toNat + b.man * 2 ^ (b.exp - e).toNat, exp := e }

def Dyadic.mul (a b : Dyadic) : Dyadic := { man := a.man * b.man, exp := a.exp + b.exp }

/-- The exact number of a finite value. -/
def signed (neg : Bool) (mag : Nat) (exp : Int) : Dyadic :=
  { man := if neg then -(mag : Int) else (mag : Int), exp := exp }

/-- Round an exact number into a format; a zero takes the given sign. -/
def fpRoundD (f : Fmt) (env : FpEnv) (l : Nat) (zeroNeg : Bool) (x : Dyadic) : Nat × Flags :=
  if x.man == 0 then (withSign f zeroNeg 0, 0)
  else fpRound f env l (decide (x.man < 0)) x.man.natAbs x.exp

/-- What a term of a sum is: finite with the sign it has as a zero, infinite, NaN, or an invalid product. -/
inductive Term where
  | fin (neg : Bool) (x : Dyadic)
  | inf (neg : Bool)
  | nan
  | invalid
deriving DecidableEq, Repr

/-- A value as a term. -/
def Fpv.term : Fpv → Term
  | .fin neg m e => .fin neg (signed neg m e)
  | .inf neg => .inf neg
  | .nan _ _ => .nan

/-- The exact product of two values; 0 × ∞ is invalid (R13). -/
def mulTerm (a b : Fpv) : Term :=
  match a, b with
  | .fin n1 m1 e1, .fin n2 m2 e2 => .fin (n1 ^^ n2) ((signed n1 m1 e1).mul (signed n2 m2 e2))
  | .inf n1, .inf n2 => .inf (n1 ^^ n2)
  | .inf n1, .fin n2 m _ => if m == 0 then .invalid else .inf (n1 ^^ n2)
  | .fin n1 m _, .inf n2 => if m == 0 then .invalid else .inf (n1 ^^ n2)
  | _, _ => .nan

/-- A term with its sign inverted. -/
def Term.neg : Term → Term
  | .fin n x => .fin (!n) { x with man := -x.man }
  | .inf n => .inf (!n)
  | t => t

/-- The exact sum of terms, rounded once (R31, R169, R171): a NaN operand or an invalid product gives a NaN, infinities
of both signs are invalid, and an exact zero takes the sign of R169. DESIGN CHOICE (log 67): a NaN term among infinite terms of both signs
gives the NaN without NV, which R31 leaves open for a sum of more than two terms. -/
def sumTerms (f : Fmt) (env : FpEnv) (l : Nat) (nans : List NanOp) (ts : List Term) : Nat × Flags :=
  if ts.contains .invalid then (nanResult f env.nanp nans, flagNV)
  else if ts.contains .nan then (nanResult f env.nanp nans, 0)
  else if ts.contains (.inf true) && ts.contains (.inf false) then (nanResult f env.nanp nans, flagNV)
  else if ts.contains (.inf true) then fpInfinity f env true
  else if ts.contains (.inf false) then fpInfinity f env false
  else
    let x := ts.foldl (fun acc t => match t with | .fin _ d => acc.add d | _ => acc) { man := 0, exp := 0 }
    let allNegZero := ts.all (fun t => match t with | .fin n d => n && d.man == 0 | _ => false)
    let allPosZero := ts.all (fun t => match t with | .fin n d => !n && d.man == 0 | _ => false)
    fpRoundD f env l (if allNegZero then true else if allPosZero then false else env.rnd == 3) x

/-- a + b (R169). -/
def fpAdd (f : Fmt) (env : FpEnv) (l : Nat) (a b : Nat) : Nat × Flags :=
  let x := fpInput f env.ftz a
  let y := fpInput f env.ftz b
  sumTerms f env l (nanOps f [x, y]) [x.term, y.term]

/-- a − b: the sign of b is inverted first (R169). A NaN b keeps its own sign as an operand of R24. -/
def fpSub (f : Fmt) (env : FpEnv) (l : Nat) (a b : Nat) : Nat × Flags :=
  let x := fpInput f env.ftz a
  let y := fpInput f env.ftz b
  sumTerms f env l (nanOps f [x, y]) [x.term, y.term.neg]

/-- a × b (R169). A zero product carries the exclusive or of the signs. -/
def fpMul (f : Fmt) (env : FpEnv) (l : Nat) (a b : Nat) : Nat × Flags :=
  let x := fpInput f env.ftz a
  let y := fpInput f env.ftz b
  match mulTerm x y with
  | .fin n d => fpRoundD f env l n d
  | .inf n => fpInfinity f env n
  | .nan => (nanResult f env.nanp (nanOps f [x, y]), 0)
  | .invalid => (nanResult f env.nanp (nanOps f [x, y]), flagNV)

/-- ±(a × b) ± d, rounded once (R171). -/
def fpFma (f : Fmt) (env : FpEnv) (l : Nat) (negProd negAdd : Bool) (a b d : Nat) : Nat × Flags :=
  let x := fpInput f env.ftz a
  let y := fpInput f env.ftz b
  let z := fpInput f env.ftz d
  let p := mulTerm x y
  sumTerms f env l (nanOps f [x, y, z]) [if negProd then p.neg else p, if negAdd then z.term.neg else z.term]

/-- Order of two finite or infinite values: a < b, with −0 below +0 when `zeros` is set. -/
def fpLess (zeros : Bool) (a b : Fpv) : Bool :=
  match a, b with
  | .fin n1 m1 e1, .fin n2 m2 e2 =>
    let x := signed n1 m1 e1
    let y := signed n2 m2 e2
    let e := min x.exp y.exp
    let p := x.man * 2 ^ (x.exp - e).toNat
    let q := y.man * 2 ^ (y.exp - e).toNat
    decide (p < q) || (zeros && m1 == 0 && m2 == 0 && n1 && !n2)
  | .inf n1, .inf n2 => n1 && !n2
  | .inf n1, .fin _ _ _ => n1
  | .fin _ _ _, .inf n2 => !n2
  | _, _ => false

/-- minimumNumber or maximumNumber of two patterns (R170): unrounded after the input flush, a single NaN loses. -/
def fpMinMax (f : Fmt) (env : FpEnv) (isMax : Bool) (a b : Nat) : Nat × Flags :=
  let x := fpInput f env.ftz a
  let y := fpInput f env.ftz b
  let flushed := env.ftz && f.flushes && (fpSubnormal f a || fpSubnormal f b)
  let fl : Flags := if flushed then flagUF ||| flagNX else 0
  let out (bits : Nat) : Nat :=
    if env.ftz && f.flushes && fpSubnormal f bits then withSign f (bits / 2 ^ (f.ebits + f.mbits) % 2 == 1) 0 else bits
  match x, y with
  | .nan _ _, .nan _ _ => (nanResult f env.nanp (nanOps f [x, y]), fl)
  | .nan _ _, _ => (out b, fl)
  | _, .nan _ _ => (out a, fl)
  | _, _ => (if (if isMax then fpLess true x y else fpLess true y x) then out b else out a, fl)

/-- IEEE comparison of two patterns by the relation code of R178. -/
def fpRelation (f : Fmt) (ftz : Bool) (op a b : Nat) : Bool :=
  let x := fpInput f ftz a
  let y := fpInput f ftz b
  let un := match x, y with
    | .nan _ _, _ => true
    | _, .nan _ _ => true
    | _, _ => false
  let lt := fpLess false x y
  let gt := fpLess false y x
  match op with
  | 0 => !un && !lt && !gt
  | 1 => un || lt || gt
  | 2 => !un && lt
  | 3 => !un && !gt
  | 4 => !un && gt
  | 5 => !un && !lt
  | 6 => un
  | _ => !un

/-! ## Integers (R16, R26, R27) -/

/-- The two's-complement or plain value of a w-bit pattern. -/
def intValue (signed : Bool) (w : Nat) (bits : Nat) : Int :=
  if signed && decide (2 ^ (w - 1) ≤ bits) then (bits : Int) - 2 ^ w else bits

/-- The w-bit pattern of an integer, modulo 2^w. -/
def intBits (w : Nat) (x : Int) : Nat := (x % 2 ^ w).toNat

/-- The least value of an integer type. -/
def intMin (signed : Bool) (w : Nat) : Int := if signed then -(2 ^ (w - 1)) else 0

/-- The greatest value of an integer type. -/
def intMax (signed : Bool) (w : Nat) : Int := if signed then 2 ^ (w - 1) - 1 else 2 ^ w - 1

/-- x clamped to an integer type (00 R10). -/
def satInt (signed : Bool) (w : Nat) (x : Int) : Int :=
  if x < intMin signed w then intMin signed w else if intMax signed w < x then intMax signed w else x

/-- The width rule of R26: clamp under SAT, wrap otherwise. -/
def widthRule (sat signed : Bool) (w : Nat) (x : Int) : Nat :=
  intBits w (if sat then satInt signed w x else x)

/-- A floating-point value converted to an integer (R26): rounded, always clamped; NaN gives 0. DESIGN CHOICE (log 67): an infinity
raises NV alone, and a finite value that is clamped NV and NX; R13 counts saturation under NX and does not say whether an infinity,
which has no exact result among integers, is one. -/
def fpToInt (signed : Bool) (w : Nat) (rnd l : Nat) (v : Fpv) : Nat × Flags :=
  match v with
  | .nan _ _ => (0, flagNV)
  | .inf neg => (intBits w (if neg then intMin signed w else intMax signed w), flagNV)
  | .fin neg m e =>
    let r := roundUnits rnd l neg m e 0
    let x : Int := if neg then -(r.1 : Int) else r.1
    let c := satInt signed w x
    (intBits w c, if c != x then flagNV ||| flagNX else if r.2 then flagNX else 0)

end Sys2Proof.Machine
end

