-- ==== Sys2Proof/Machine/Flags.lean ====
section
/-!
DEFINITION. Every status the instructions leave beside their result: the sticky flags of FPSTAT (05 R133, 01 R13) and the
state of the stochastic rounder (01 R22), as the acting slots raise and step them (06 R161).
-/
namespace Sys2Proof.Machine

/-- OR flags into FPSTAT. -/
def Group.raise (f : Flags) (g : Group) : Group := { g with fpstat := g.fpstat ||| f }

/-- What the arithmetic reads of MODE (02 R41). -/
def fpEnvOf (m : W32) : FpEnv := { rnd := modeRnd m, sat := modeSat m, ftz := modeFtz m, nanp := modeNanp m }

/-- The same with an RND field of the word: code 0 means MODE.RND (02 R43). -/
def fpEnvRnd (m : W32) (rnd : Nat) : FpEnv := { fpEnvOf m with rnd := if rnd = 0 then modeRnd m else rnd }

/-- What the slots of a vector instruction deliver together: 32 values, the flags of the acting live slots and the LFSR
state after the acting slots. -/
structure LaneRun where
  vals : List W32
  flags : Flags
  seed : W32
deriving DecidableEq, Repr

/-- Run an instruction's effect over the slots in ascending order (01 R22, 06 R161). A slot that does not act steps no
LFSR and raises no flag, and the flags of helper slots are discarded. -/
def runLanes (act live seed0 : W32) (f : W32 → Nat → W32 × Flags × W32) : LaneRun :=
  (List.range 32).foldl (fun r s =>
    let o := f r.seed s
    if act.getLsbD s then
      { vals := r.vals ++ [o.1], flags := if live.getLsbD s then r.flags ||| o.2.1 else r.flags, seed := o.2.2 }
    else { r with vals := r.vals ++ [o.1] }) { vals := [], flags := 0, seed := seed0 }

/-- Enter the flags and the LFSR state of a run. -/
def Group.takeRun (r : LaneRun) (g : Group) : Group := { g with fpstat := g.fpstat ||| r.flags, seed := r.seed }

/-- Flags of the drain of one element, and of single operations, raised at once. -/
def raiseMe (f : Flags) (s : State) : State := modMe (Group.raise f) s

end Sys2Proof.Machine
end

