-- ==== Sys2Proof/Machine/Operands.lean ====
section
/-!
DEFINITION. Operand forms: the checks of a word at issue (04 R107 checks 7 to 10, 02 R39, R40, R53 to R56, 19 R414), stream
ports as operands (09 R266, R267), result shapes (02 R50, R51), the reuse table (02 R61 to R63), and the frame in which
every word of a group and every event runs.
-/
namespace Sys2Proof.Machine

/-- One use of a register by a word, with its operand position of 02 R39. -/
inductive Use where
  /-- The word is of major 0x32 or 0x33 (R109). -/
  | priv (major : Nat)
  /-- A vector destination. -/
  | vd (n : Nat)
  /-- A vector destination that a field names as a first source: position 1. -/
  | vda (n : Nat)
  /-- A vector source with its T bit. -/
  | vs (n : Nat) (t : Bool) (pos : Nat)
  /-- A vector register that may not be a port and is not read as a source (02 R40). -/
  | vname (n pos : Nat)
  /-- A vector source that may not be a port. -/
  | vreg (n : Nat) (t : Bool) (pos : Nat)
  /-- A vector register whose allotment alone is checked. -/
  | vcheck (n pos : Nat)
  /-- A scalar destination. -/
  | sd (n : Nat)
  /-- A scalar source with its T bit. -/
  | ss (n : Nat) (t : Bool) (pos : Nat)
deriving DecidableEq, Repr

/-! ## Stream ports as operands -/

/-- RANK of a layout record (09 R269). -/
def tlrRank (r : BitVec 512) : Nat := r.toNat / 2 ^ 72 % 8

/-- COUNTi of a layout record. -/
def tlrCount (r : BitVec 512) (i : Nat) : Nat := r.toNat / 2 ^ (16 * i + 80) % 2 ^ 16

/-- The number of elements of a walk. -/
def tlrElems (r : BitVec 512) : Nat := (List.range (tlrRank r)).foldl (fun n i => n * tlrCount r i) 1

/-- The vector that the i-th read of a read port by one word delivers; none where it is not ready (R266). The mask of a
buffered vector marks its margin elements, which read as FILL. DESIGN CHOICE (log 67): as a source whose shape counts (R50) a vector
that was delivered is general, and a read past the end uniform. -/
def portRead (g : Group) (n i : Nat) : Option VReg :=
  match Tab.find g.ports n with
  | none => none
  | some p =>
    match p.buffer[i]? with
    | some b => some (.general 0 (b.1.zipIdx.map (fun x => if b.2.getLsbD x.2 then g.fill else x.1)))
    | none => if tlrElems p.tlr ≤ 32 * (p.pos + i) then some (.uniform g.fill) else none

/-- Take vectors from a read port. -/
def Group.popPort (n : Nat) (g : Group) : Group :=
  match Tab.find g.ports n with
  | none => g
  | some p => { g with ports := Tab.set g.ports n { p with pos := p.pos + 1, buffer := p.buffer.drop 1 } }

/-- Give a vector to a write port, with the slots it stores (R267). -/
def Group.pushPort (n : Nat) (vals : List W32) (mask : W32) (g : Group) : Group :=
  match Tab.find g.ports n with
  | none => g
  | some p => { g with ports := Tab.set g.ports n { p with buffer := p.buffer ++ [(vals, mask)] } }

/-- The port is full and holds up an instruction that writes it. -/
def Group.portFull (g : Group) (n : Nat) : Bool :=
  match Tab.find g.ports n with
  | none => false
  | some p => decide (4 ≤ p.buffer.length)

/-! ## The checks at issue -/

/-- A register of the array: the number and position that ILLEGAL_REG reports (02 R39, R40). -/
def Use.illegal (vtop : Nat) : Use → Option Nat
  | .vd n => if n < 112 then (if vtop ≤ n then some n else none) else if n < 120 then some n else none
  | .vda n => if n < 112 then (if vtop ≤ n then some (n + 256) else none)
              else if n < 120 || 128 ≤ n then some (n + 256) else none
  | .vs n _ pos => if n < 112 then (if vtop ≤ n then some (n + pos * 256) else none)
                   else if 120 ≤ n then some (n + pos * 256) else none
  | .vname n pos | .vreg n _ pos | .vcheck n pos => if vtop ≤ n then some (n + pos * 256) else none
  | _ => none

/-- A port that is not open (check 9). -/
def Use.closed (g : Group) : Use → Option Nat
  | .vd n | .vda n | .vs n _ _ => if 112 ≤ n && (Tab.find g.ports n).isNone then some n else none
  | _ => none

/-- How often a list of uses reads a port. -/
def portReads (uses : List Use) (n : Nat) : Nat :=
  (uses.filter (fun u => match u with | .vs m _ _ => m == n | _ => false)).length

/-- The source is empty: a register without a value, or a read port without a ready vector. -/
def Use.isEmpty (g : Group) (uses : List Use) : Use → Bool
  | .vs n _ _ => if n < 112 then !g.vFull n
                 else (portRead g n (portReads uses n - 1)).isNone && (match Tab.find g.ports n with
                   | some p => p.fault.isNone
                   | none => true)
  | .vreg n _ _ => !g.vFull n
  | .ss n _ _ => !g.sFull n
  | _ => false

/-- A source that is empty with T = 1: the TINFO of EMPTY (02 R55). -/
def Use.emptyTrap (g : Group) (uses : List Use) (u : Use) : Option Nat :=
  match u with
  | .vs n true pos | .vreg n true pos => if u.isEmpty g uses then some (n + pos * 256) else none
  | .ss n true pos => if u.isEmpty g uses then some (n + pos * 256 + 4096) else none
  | _ => none

/-- The word waits: a source is empty with T = 0, the destination is empty (02 R56), or a write port is full. -/
def Use.waits (g : Group) (uses : List Use) (u : Use) : Bool :=
  match u with
  | .vs _ false _ | .vreg _ false _ | .ss _ false _ => u.isEmpty g uses
  | .vd n | .vda n => if n < 112 then !g.vFull n else g.portFull n
  | .sd n => !g.sFull n
  | _ => false

/-- The register or port, and the scalar register, that a use names. -/
def Use.vecOf : Use → Option Nat
  | .vd n | .vda n | .vs n _ _ | .vreg n _ _ => some n
  | _ => none
def Use.scalarOf : Use → Option Nat
  | .sd n | .ss n _ _ => some n
  | _ => none

/-- A stream read that must wait marks its full destination empty (02 R54, 09 R266). `ws` are the uses that wait. -/
def markDest (ws uses : List Use) (s : State) : State :=
  if ws.any (fun u => match u with | .vs n _ _ => decide (112 ≤ n) | _ => false) then
    modMe (fun g => uses.foldl (fun g u => match u with
      | .vd n | .vda n => if n < 112 && g.vFull n then { g.emptyV n with markV := some n } else g
      | .sd n => if g.sFull n then { g.emptyS n with markS := some n } else g
      | _ => g) g) s
  else s

/-- What a group waits for is there: its registers are full and its ports ready (02 R55, R56, 09 R266, R267). -/
def Group.waitOver (g : Group) (vs xs : List Nat) : Bool :=
  xs.all g.sFull && vs.all (fun n =>
    if n < 112 then g.vFull n
    else if n < 120 then (portRead g n 0).isSome || (match Tab.find g.ports n with
      | some p => p.fault.isSome
      | none => true)
    else !g.portFull n)

/-- A write port has no write that is still to come: it is empty, or a fault has stopped it (09 R267). -/
def Group.portDrained (g : Group) (n : Nat) : Bool :=
  match Tab.find g.ports n with
  | some p => n < 120 || p.fault.isSome || p.buffer.isEmpty
  | none => true

/-- A group whose wait for registers or ports is over is blocked no more (07 R202). -/
def unblock (q : Nat) (s : State) : State :=
  let g := groupAt s q
  let ready : Bool := match g.blocked with
    | some (.register vs xs) => g.waitOver vs xs
    | some (.port n) => g.portDrained n
    | _ => false
  if ready then modGroup q (fun g => { g with blocked := none, readyAt := s.cclk }) s else s

/-- A word's reads of a read port reach a vector that is not there. -/
def portShort (g : Group) (uses : List Use) (n : Nat) : Bool :=
  decide (0 < portReads uses n) && (portRead g n (portReads uses n - 1)).isNone

/-- The trap of reading a bad source: DATA_ERR (19 R414), or the fault of a read port's element (09 R266). -/
def Use.badRead (s : State) (g : Group) (uses : List Use) : Use → Option (Nat × Nat)
  | .vs n _ _ | .vreg n _ _ =>
    if n < 112 then
      match Tab.find g.badV n with
      | some i => some (tDataErr, i.toNat)
      | none => if crsBad s s.qid n then some (tDataErr, 4) else none
    else match Tab.find g.ports n with
      | some p => if portShort g uses n then p.fault.map (fun f =>
          (f.code.toNat, accessInfo f.lockWrite f.write f.slot f.va.toNat f.detail.toNat)) else none
      | none => none
  | .ss n _ _ => (Tab.find g.badS n).map (fun i => (tDataErr, i.toNat))
  | _ => none

/-- The group may execute majors 0x32 and 0x33 (04 R109). -/
def mayRun (s : State) (g : Group) (major : Nat) : Bool :=
  if major = 0x32 then g.level || (g.pact && coopOf s g) else g.dact

def Use.denied (s : State) (g : Group) : Use → Bool
  | .priv m => !mayRun s g m
  | _ => false

/-- The fault of a read port is forgotten as a read takes it. -/
def Group.takeFaults (uses : List Use) (g : Group) : Group :=
  { g with ports := g.ports.map (fun e =>
      if e.1 < 120 && portShort g uses e.1 then (e.1, { e.2 with fault := none }) else e) }

/-- The checks 7 to 10 of R107 in order, then the waits, then the reads of bad data; none where the word goes on. -/
def issueCheck (word : W32) (uses : List Use) (s : State) : Option Res :=
  let g := s.me
  if uses.any (Use.denied s g) then some (.trap s tPriv word.toNat)
  else match uses.findSome? (Use.illegal (s.vtop g)) with
  | some info => some (.trap s tIllegalReg info)
  | none =>
  match uses.findSome? (Use.closed g) with
  | some n => some (.trap s tStream n)
  | none =>
  match uses.findSome? (Use.emptyTrap g uses) with
  | some info => some (.trap s tEmpty info)
  | none =>
  if uses.any (Use.waits g uses) then
    let ws := uses.filter (Use.waits g uses)
    some (.wait (markDest ws uses s) (.register (ws.filterMap Use.vecOf) (ws.filterMap Use.scalarOf)))
  else match uses.findSome? (Use.badRead s g uses) with
  | some (code, info) =>
    some (.trap (modMe (Group.takeFaults uses) s) code info)
  | none => none

/-- The sources of a word that miss the operand cache: general values of registers that no STAGE has made resident, each as often as
it is named (02 R67, 19 R435; log 59). -/
def stageMisses (g : Group) (uses : List Use) : Nat :=
  (uses.filter (fun u => match u with
    | .vs n _ _ | .vreg n _ _ => n < 112 && (g.vreg n).code == 2 && !g.cache.contains n
    | _ => false)).length

/-- The values of the vector sources, in the order of the uses; the reads of one port take its vectors in turn. -/
def sourceRegs (g : Group) : List Use → List Nat → List VReg
  | [], _ => []
  | .vs n _ _ :: us, seen =>
    (if n < 112 then g.vreg n else (portRead g n (seen.count n)).getD (.uniform g.fill)) :: sourceRegs g us (n :: seen)
  | .vreg n _ _ :: us, seen => g.vreg n :: sourceRegs g us seen
  | _ :: us, seen => sourceRegs g us seen

/-- Take what a word read from its read ports. -/
def popPorts (uses : List Use) (s : State) : State :=
  uses.foldl (fun s u => match u with
    | .vs n _ _ => if n < 112 then s else modMe (Group.popPort n) s
    | _ => s) s

/-- A word that completes leaves its frame: it takes what it read from its read ports, and its misses are counted. -/
def leaveWord (s : State) (uses : List Use) (s1 : State) : State := countMe evStagemiss (stageMisses s.me uses) (popPorts uses s1)

/-- The frame of a word of a group: the checks at issue, its effect on its sources, its retirement. A word that a matrix
sequencer meets is a sequencer fault (04 R110). `word` is the word as it is encoded. -/
def wordW (word : W32) (uses : List Use) (s : State) (body : State → List VReg → Res) : Out :=
  match s.cur with
  | .sequencer c => .next (seqFault c 1 word.toNat (coreAt s c).seq.pc s)
  | .group _ =>
    match issueCheck word uses s with
    | some r => finish r
    | none =>
      match body s (sourceRegs s.me uses []) with
      | .done s1 n => finish (.done (leaveWord s uses s1) n)
      | r => finish r

/-- The same frame, of an instruction. -/
def wordG (i : Instr) (uses : List Use) (s : State) (body : State → List VReg → Res) : Out := wordW (encode i) uses s body

/-- The frame of a word of a matrix sequencer. A group that meets one takes ILLEGAL_OPCODE (04 R107 check 3). -/
def wordM (word : W32) (s : State) (body : Nat → State → Out) : Out :=
  match s.cur with
  | .sequencer c => body c s
  | .group _ => finish (.trap s tIllegalOpcode word.toNat)

/-- The frame of an event: it happens where its condition holds. -/
def event (name : String) (r : Option State) : Out :=
  match r with
  | some s => .next s
  | none => .fault (.notEnabled name)

/-- A group of the VF on the die may run: the die is not held (19 R415) and the VF is not frozen (17 R403). -/
def mayRunAt (s : State) (die vf : Nat) : Bool := !(dieAt s die).held && (vfAt s vf).ctx.st != .frozen

/-- The VF takes launches and admissions: it is not being saved or saved (17 R385). Teams that wait then go on waiting. -/
def mayAdmit (s : State) (vf : Nat) : Bool :=
  let c := (vfAt s vf).ctx.st
  c == .running || c == .restoring

/-- The frame of a wake event of the group in a slot: the waiting word runs its second part, where it can. -/
def wakeWord (name : String) (q : Nat) (s : State) (f : Blocked → Option (State → Res)) : Out :=
  let g := groupAt s q
  match g.st == .running && mayRunAt s (dieOf q) g.vf, g.blocked.bind f with
  | true, some body =>
    let s0 : State := { s with cur := .group q }
    match body s0 with
    | .done s1 n => .next { retire n s1 with cur := s.cur }
    | .trap s1 code info => .next { trapHere code info s1 with cur := s.cur }
    | .ended s1 => .next { s1 with cur := s.cur }
    | .wait _ _ => .fault (.notEnabled name)
  | _, _ => .fault (.notEnabled name)

/-! ## Shapes of results (02 R50, R51) -/

/-- The shape that a result takes where the guard covers every live slot. -/
inductive Shape where
  | u
  | a (base stride : W32)
  | g
deriving DecidableEq, Repr

/-- The value of a vector destination: its shape under a covering guard, else the merge of R51. -/
def vresult (g : Group) (old : VReg) (sh : Shape) (res : Nat → W32) : VReg :=
  if !g.covers then mergeReg old g.guardMask res
  else match sh with
    | .u => .uniform (res 0)
    | .a b t => .affine b t
    | .g => generalReg old g.guardMask res

def VReg.isU : VReg → Bool
  | .uniform _ => true
  | _ => false

def VReg.isA : VReg → Bool
  | .affine _ _ => true
  | _ => false

/-- Base and stride of a shape word. -/
def VReg.base : VReg → W32
  | .uniform b => b
  | .affine b _ => b
  | .general _ _ => 0

def VReg.stride : VReg → W32
  | .affine _ t => t
  | _ => 0

/-- No source is general and one is affine. -/
def anyA (rs : List VReg) : Bool := rs.any VReg.isA && rs.all (fun r => r.code != 2)

/-- Every other operation: U from U alone (R50). -/
def shapeElem (rs : List VReg) : Shape := if rs.all VReg.isU then .u else .g

/-- Addition and subtraction under a 32-bit ET without SAT (R50). -/
def shapeAdd (plain sub : Bool) (a b : VReg) : Shape :=
  if a.isU && b.isU then .u
  else if plain && anyA [a, b] then
    (if sub then .a (a.base - b.base) (a.stride - b.stride) else .a (a.base + b.base) (a.stride + b.stride))
  else .g

/-- Multiplication and left shift by a constant under a 32-bit ET without SAT: affine where exactly one source is
affine (R50). -/
def shapeMul (plain : Bool) (a b : VReg) : Shape :=
  if a.isU && b.isU then .u
  else if plain && anyA [a, b] then
    (if a.isA && b.isA then .g
     else if a.isA then .a (a.base * b.base) (a.stride * b.base)
     else .a (a.base * b.base) (a.base * b.stride))
  else .g

/-- Write a vector destination, a register or a write port. -/
def putDest (n : Nat) (r : VReg) (s : State) : State :=
  if n < 112 then putV n r s else modMe (fun g => g.pushPort n r.lanes g.actLive) s

/-! ## The reuse table (02 R61 to R63) -/

/-- The name of a source in a key: the shape code and shape word, or the entry. -/
def VReg.keyName : VReg → List Nat
  | .uniform b => [0, b.toNat, 0]
  | .affine b t => [1, b.toNat, t.toNat]
  | .general n _ => [2, n, 0]

/-- The entries that a register names. -/
def VReg.entries : VReg → List Nat
  | .general n _ => [n]
  | _ => []

/-- Enter a record, beside those of its key that name another result. Which record a new one displaces is open, and whether one is
displaced before the table is full; none is while fewer than 256 are valid (02 R61, 12 R337; log 9). -/
def addRecord (core : Nat) (r : ReuseRec) (s : State) : State :=
  modCore core (fun c =>
    let old := c.reuse.filter (fun x => x != r)
    let displaces := decide (Config.reuseRecords ≤ old.length)
      || (decide (256 ≤ old.length) && Config.freeBit s.free 4001)
    let kept := if displaces then old.eraseIdx ((Config.freeW64 s.free 4000).toNat % old.length) else old
    { c with reuse := r :: kept }) s

/-- Write vector register n with the name that a record's result holds (02 R63): a general name gains a reference. -/
def putNamed (n : Nat) (r : VReg) (s : State) : State :=
  let s1 := modCore (coreOf s.qid) (fun c =>
    let c1 := match r with
      | .general k _ => { c with crs := Tab.set c.crs k { (Tab.get default c.crs k) with refs := (Tab.get default c.crs k).refs + 1 } }
      | _ => c
    c1.releaseReg (s.me.vreg n)) s
  modMe (fun g => { g with v := Tab.set g.v n r, fullV := g.fullV ||| BitVec.ofNat 112 (2 ^ n), badV := Tab.del g.badV n }) s1

/-- Two values of one shape, whatever entries they name. -/
def VReg.same (a b : VReg) : Bool := a.code == b.code && a.lanes == b.lanes

/-- A value agrees with a register in the slots outside a mask, which an instruction leaves as they are. -/
def VReg.keeps (old : VReg) (mask : W32) (x : VReg) : Bool :=
  (List.range 32).all (fun k => mask.getLsbD k || x.lane k == old.lane k)

/-- The result's entry can take another reference (02 R63). -/
def resultFree (c : Core) : VReg → Bool
  | .general k _ => (match Tab.find c.crs k with
      | some e => decide (e.refs < 255)
      | none => false)
  | _ => true

/-- The record that an eligible word hits: one of its key whose result entry can take another reference and which delivers what
execution delivers, in the slots too that the word leaves as they are (02 R63; log 9). -/
def findRecord (s : State) (key : List Nat) (delivers : VReg → Bool) : Option ReuseRec :=
  let c := coreAt s (coreOf s.qid)
  c.reuse.find? (fun r => r.vf == s.me.vf && r.key == key && resultFree c r.result && delivers r.result)

/-- The guard covers every live slot and no helper slot (02 R62). -/
def Group.reusable (g : Group) : Bool := g.covers && (g.guardMask &&& g.helperMask == 0)

/-- Write the result of an eligible word, by the reuse table where its key hits and else by execution, which is then
recorded (02 R63). A hit delivers what execution delivers. A record that would name an entry which this very write frees ends with
it (R59). `key` is none for a word that is not eligible. -/
def putReused (n : Nat) (key : Option (List Nat)) (names : List Nat) (flags : Flags) (r : VReg) (s : State) : State :=
  match key with
  | none => putDest n r s
  | some k =>
    match findRecord s k (VReg.same r) with
    | some x => countMe evReuse 1 (putNamed n x.result s)
    | none =>
      let s1 := putV n r s
      let res := s1.me.vreg n
      let c := coreOf s.qid
      if stampsOf (coreAt s1 c) names = stampsOf (coreAt s c) names then
        addRecord c { vf := s.me.vf, key := k, names := names ++ res.entries, result := res, scalar := 0, flags := flags,
                      loadTeam := none } s1
      else s1

/-- The key of a vector word (02 R61): the word without its register fields, the fields of MODE it reads, the live mask,
for majors 0x21 and 0x22 FILL and the helper mask, and the names of the sources. -/
def aluKey (g : Group) (wordBits modeBits : Nat) (cross : Bool) (srcs : List VReg) : List Nat :=
  [wordBits, modeBits, g.liveMask.toNat] ++ (if cross then [g.fill.toNat, g.helperMask.toNat] else [])
    ++ srcs.flatMap VReg.keyName

/-! ## The frame of a vector word (06 R161) -/

/-- What a vector word needs beside its lanes: where its result goes, whether it rounds under RS, whether its majors make
it eligible for reuse, the word and MODE bits of its key, and whether it is of major 0x21 or 0x22. -/
structure VecForm where
  vd : Nat
  rs : Bool
  eligible : Bool
  wordBits : Nat
  modeBits : Nat
  cross : Bool
deriving DecidableEq, Repr

/-- Run a vector word over its slots and write its destination. -/
def vecBody (f : VecForm) (uses : List Use) (shape : List VReg → Shape) (old : VReg)
    (lane : List VReg → W32 → Nat → W32 × Flags × W32) (s : State) (src : List VReg) : Res :=
  let g := s.me
  let r := runLanes g.guardMask g.liveMask g.seed (lane src)
  let res := vresult g old (if f.rs then .g else shape src) (fun k => r.vals.getD k 0)
  let ported := uses.any (fun u => match u with
    | .vs n _ _ | .vd n => decide (112 ≤ n)
    | _ => false)
  let key := if f.eligible && !f.rs && !ported && g.reusable then
    some (aluKey g f.wordBits f.modeBits f.cross src) else none
  .done (modMe (Group.takeRun r) (putReused f.vd key (src.flatMap VReg.entries) r.flags res s)) .seq

/-- ILLEGAL_FIELD of a word under an ET code that it does not accept (06 R163). -/
def badEt (i : Instr) (s : State) : Res := .trap s tIllegalField ((encode i).toNat + 3 * 2 ^ 32 + 2 ^ 46)

end Sys2Proof.Machine
end

