-- ==== Sys2Proof/Machine/Command.lean ====
section
/-!
DEFINITION. Queue pairs (14 R341 to R353): wakes, the reading of the rings, the beginning and the completion of commands,
and the events that drive them.
-/
namespace Sys2Proof.Machine

/-! ## Queues -/

/-- The queue of a number of a function. -/
def queueAt (s : State) (v q : Nat) : VQueue := Tab.get VQueue.reset (vfAt s v).queues q

def modQueue (v q : Nat) (f : VQueue → VQueue) (s : State) : State :=
  modVf v (fun x => { x with queues := Tab.set x.queues q (f (Tab.get VQueue.reset x.queues q)) }) s

def VQueue.needsReset (q : VQueue) : Bool := q.status.getLsbD 0
def VQueue.wakeAgain (q : VQueue) : Bool := q.status.getLsbD 2
/-- CAUSE of QUEUE_STATUS. -/
def VQueue.cause (q : VQueue) : Nat := q.status.toNat / 2 ^ 8 % 256

/-- QUEUE_STATUS with a cause and one more bit. -/
def VQueue.mark (bit cause : Nat) (q : VQueue) : VQueue :=
  { q with status := BitVec.ofNat 32 (q.status.toNat % 256 + cause * 256) ||| BitVec.ofNat 32 (2 ^ bit) }

/-- Post an event record to a function and to the PF (19 R417). -/
def postBoth (ty v die : Nat) (cg : W64) (mine pf : List Byte) (s : State) : State :=
  postEvent 0 ty v die cg pf (if v = 0 then s else postEvent v ty v die cg mine s)

/-! ## Headers (R345) and RING_ERROR (R351) -/

def Command.byte (c : Command) (o : Nat) : Nat := (c.header.getD o 0).toNat
/-- A field of n bytes of the header. -/
def Command.field (c : Command) (o n : Nat) : Nat := leNat ((c.header.drop o).take n)
def Command.op (c : Command) : Nat := c.byte 0
def Command.fence (c : Command) : Bool := c.byte 1 % 2 == 1

/-- Commands of a queue that stand before one in available-ring order. -/
def earlierCmds (s : State) (v : Nat) (c : Command) : List Command :=
  ((vfAt s v).cmds.filter (fun e => e.2.queue == c.queue && decide (e.2.order < c.order))).map Prod.snd

/-- The command may have begun by now: no FENCE holds it up, or an earlier one that has not begun (R348), and no LAUNCH that waits while
its VF is saved or being saved (17 R385). -/
def beginsBy (s : State) (v : Nat) (c : Command) : Bool :=
  (c :: earlierCmds s v c).all (fun e => e.begun
    || ((e.op != 1 || mayAdmit s v) && (!e.fence || (earlierCmds s v e).isEmpty)))

/-- RING_ERROR (R351): the queue stops. Of its commands, those that cannot have begun never begin (log 61). -/
def ringError (v q cause : Nat) (s : State) : State :=
  let p := packFields [(2, q), (1, cause)]
  postBoth 1 v 4 0 p p
    (modVf v (fun x => { x with
        deviceStatus := x.deviceStatus ||| 0x40
        cmds := x.cmds.filter (fun e => e.2.queue != q || beginsBy s v e.2) })
      (modQueue v q (VQueue.mark 0 cause) s))

/-- The function is enabled; the PF is from READY on. -/
def vfOn (s : State) (v : Nat) : Bool := if v = 0 then bootReady s else (vfAt s v).enabled

/-- The queue's rings may be read. -/
def queueLive (s : State) (v q : Nat) : Bool :=
  let x := queueAt s v q
  decide (q < 64) && vfOn s v && x.enable == 1 && !x.needsReset && x.resetting == 0

/-! ## Descriptor chains (R345, R350) -/

/-- A descriptor: address, length, flags and next. -/
structure Desc where
  addr : Nat
  len : Nat
  flags : Nat
  next : Nat
deriving DecidableEq, Repr

def readDesc (s : State) (v base i : Nat) : Option Desc :=
  (readGpa s v (base + 16 * i) 16).map (fun bs =>
    { addr := leNat (bs.take 8), len := leNat ((bs.drop 8).take 4), flags := leNat ((bs.drop 12).take 2),
      next := leNat (bs.drop 14) })

/-- A chain in one table of `limit` descriptors, or the cause of its failure. `fuel` is the most it may hold. The head index that an
available-ring entry gives is checked as a next field is (DESIGN CHOICE, log 72: the table of R350 names none for it). -/
def walkChain (s : State) (v base limit : Nat) : Nat → Nat → Except Nat (List Desc)
  | 0, _ => .error 6
  | fuel + 1, i =>
    if limit ≤ i then .error 5
    else match readDesc s v base i with
      | none => .error 7
      | some d =>
        if d.flags % 2 = 1 then
          (match walkChain s v base limit fuel d.next with
            | .ok ds => .ok (d :: ds)
            | .error c => .error c)
        else .ok [d]

/-- The descriptors of a chain, with an indirect table at its end taken in its place. INDIRECT counts at the end of the chain alone: with
NEXT, or within an indirect table, it is ignored (DESIGN CHOICE, log 72: R345 does not say). -/
def chainOf (s : State) (v q head : Nat) : Except Nat (List Desc) :=
  let x := queueAt s v q
  match walkChain s v x.desc.toNat x.size.toNat x.size.toNat head with
  | .error c => .error c
  | .ok ds =>
    match ds.getLast? with
    | none => .error 5
    | some d =>
      if d.flags / 4 % 2 = 0 then .ok ds
      else if d.len % 16 ≠ 0 then .error 5
      else match walkChain s v d.addr (d.len / 16) (d.len / 16) 0 with
        | .error c => .error (if d.len / 16 = 0 then 5 else c)
        | .ok es => if x.size.toNat < ds.dropLast.length + es.length then .error 6 else .ok (ds.dropLast ++ es)

/-- Every page of a guest-physical range has a stage-2 mapping that permits the access. -/
def gpaMapped (s : State) (v addr len : Nat) (write : Bool) : Bool :=
  decide (addr + len ≤ 2 ^ 52) && (len == 0
    || (List.range ((addr + len - 1) / 4096 + 1 - addr / 4096)).all (fun i => (gpaToPa s v ((addr / 4096 + i) * 4096) write).isSome))

/-- The first n bytes of readable parts; none where one is not reached. -/
def gatherBytes (s : State) (v : Nat) : List (W64 × Nat) → Nat → Option (List Byte)
  | [], _ => some []
  | (a, l) :: rest, n =>
    if n = 0 then some []
    else match readGpa s v a.toNat (min l n), gatherBytes s v rest (n - min l n) with
      | some bs, some cs => some (bs ++ cs)
      | _, _ => none

/-- Write bytes over writable parts in order. Addresses were checked. -/
def scatterBytes (v : Nat) : List (W64 × Nat) → List Byte → State → State
  | [], _, s => s
  | (a, l) :: rest, bs, s => scatterBytes v rest (bs.drop l) ((writeGpa v a.toNat (bs.take l) s).getD s)

/-- The command that a chain describes, or the cause of its failure. The last writable descriptor is the status area. -/
def commandOf (s : State) (v q order head : Nat) (ds : List Desc) : Except Nat Command :=
  let parts (w : Nat) : List (W64 × Nat) :=
    (ds.filter (fun d => d.flags / 2 % 2 == w)).map (fun d => (BitVec.ofNat 64 d.addr, d.len))
  match (parts 1).getLast? with
  | none => .error 9
  | some (a, l) =>
    if l < 16 || !gpaMapped s v a.toNat 16 true then .error 9
    else .ok { queue := q, head := BitVec.ofNat 16 head, order := order
               header := (gatherBytes s v (parts 0) 64).getD []
               readable := parts 0, writable := (parts 1).dropLast, status := a, begun := false }

/-! ## What a header asks (R345 to R347) -/

/-- The header's own reserved bits are zero, and the payload's bytes outside the listed fields (offset, size). -/
def Command.clean (c : Command) (fields : List (Nat × Nat)) : Bool :=
  c.byte 1 < 2 && c.byte 2 == 0 && c.byte 3 == 0
    && (List.range 56).all (fun i => c.byte (i + 8) == 0
      || fields.any (fun f => decide (f.1 ≤ i + 8) && decide (i + 8 < f.1 + f.2)))

/-- Every descriptor address of the chain is mapped (R352). -/
def Command.mapped (s : State) (v : Nat) (c : Command) : Bool :=
  c.readable.all (fun p => gpaMapped s v p.1.toNat p.2 false) && c.writable.all (fun p => gpaMapped s v p.1.toNat p.2 true)

/-- A command that no event begins: its status is known from its chain and header alone. -/
def Command.idle (s : State) (v : Nat) (c : Command) : Option Nat :=
  if !c.mapped s v then some 1
  else if c.header.length < 64 then some 2
  else if c.op = 0 ∨ 6 < c.op then some 2
  else if c.op = 5 then
    let sub := c.byte 8
    if sub = 2 then (if c.field 40 8 ≤ 1 then none else some 2)
    else if sub ≤ 1 ∨ (8 ≤ sub ∧ sub ≤ 11) then none
    else some 2
  else none

/-! ## Completion (R348, R350, R351, R353) -/

/-- The interrupt of a used element that took used.idx on from `old`: used_event admits it where VIRTIO_F_EVENT_IDX is accepted, else
the flags of the available ring do (R345). Both lie in the available ring as virtio 1.2 lays it out (log 62). -/
def usedInterrupt (v q : Nat) (old : BitVec 16) (s : State) : State :=
  let x := queueAt s v q
  let eventIdx := (vfAt s v).driverFeature.getLsbD 29
  match readGpa s v (x.driver.toNat + (if eventIdx then 4 + 2 * x.size.toNat else 0)) 2 with
  | none => if x.needsReset then s else ringError v q 7 s
  | some bs =>
    if (if eventIdx then leNat bs == old.toNat else leNat bs % 2 == 0) then sendMsix v x.msix.toNat s else s

/-- Write a used element, advance used.idx and send the queue's interrupt. -/
def pushUsed (v : Nat) (c : Command) (len : Nat) (s : State) : State :=
  let q := queueAt s v c.queue
  if q.resetting = 1 ∨ (q.needsReset ∧ q.cause = 8) then s
  else
    let at' := q.device.toNat + 4 + 8 * (q.usedIdx.toNat % q.size.toNat)
    match writeGpa v at' (leBytes 4 c.head.toNat ++ leBytes 4 len) s with
    | none => ringError v c.queue 8 s
    | some s1 =>
      match writeGpa v (q.device.toNat + 2) (leBytes 2 (q.usedIdx + 1).toNat) s1 with
      | none => ringError v c.queue 8 s
      | some s2 => usedInterrupt v c.queue q.usedIdx (modQueue v c.queue (fun x => { x with usedIdx := x.usedIdx + 1 }) s2)

/-- The completion of a command reaches for memory of a held die: its status area, its used element, or what says whether its interrupt
is sent. -/
def completionHeld (s : State) (v : Nat) (c : Command) : Bool :=
  let q := queueAt s v c.queue
  gpaHeld s v c.status.toNat 16 || gpaHeld s v (q.device.toNat + 4 + 8 * (q.usedIdx.toNat % q.size.toNat)) 8
    || gpaHeld s v (q.device.toNat + 2) 2
    || gpaHeld s v (q.driver.toNat + (if (vfAt s v).driverFeature.getLsbD 29 then 4 + 2 * q.size.toNat else 0)) 2

/-- A status area that has no stage-2 mapping any more is RING_ERROR with cause 9, at a queue that has not stopped yet (R350). -/
def statusError (v : Nat) (c : Command) (s : State) : State :=
  if (queueAt s v c.queue).needsReset then s else ringError v c.queue 9 s

/-- Complete a command: its status record, its used element, and its end. `extra` is the number of data bytes written. A completion that
reaches for memory of a held die waits (19 R415). -/
def finishCmd (v id status detail result extra : Nat) (s : State) : State :=
  match Tab.find (vfAt s v).cmds id with
  | none => s
  | some c =>
    if completionHeld s v c then
      modVf v (fun x => { x with cmds := Tab.set x.cmds id { c with begun := true, fin := some (status, detail, result, extra) } }) s
    else
      let rec' := leBytes 1 status ++ leBytes 1 detail ++ leBytes 2 0 ++ leBytes 4 (c.field 4 4) ++ leBytes 8 result
      let s1 := (writeGpa v c.status.toNat rec' s).getD (statusError v c s)
      let s2 := modVf v (fun x => { x with cmds := Tab.del x.cmds id }) s1
      pushUsed v c (16 + extra) (tally 7 v (if c.op = 1 then 1 else 0) s2)

/-- A command may begin (R348); none does while the hub is held (19 R415). -/
def mayBegin (s : State) (v : Nat) (c : Command) : Bool :=
  !(dieAt s 4).held && !c.begun && (queueAt s v c.queue).resetting == 0 && (earlierCmds s v c).all (fun e => e.begun && !c.fence)

/-- Complete the commands that no event begins, as they come to begin. -/
def settleCmds (v : Nat) : Nat → State → State
  | 0, s => s
  | n + 1, s =>
    match (vfAt s v).cmds.findSome? (fun e => if mayBegin s v e.2 then (e.2.idle s v).map (fun st => (e.1, st)) else none) with
    | none => s
    | some (id, st) => settleCmds v n (finishCmd v id st 0 0 0 s)

def settle (v : Nat) (s : State) : State := settleCmds v (vfAt s v).cmds.length s

/-- Complete a command, and go on with those it held up. -/
def completeCmd (v id status detail result extra : Nat) (s : State) : State :=
  settle v (finishCmd v id status detail result extra s)

/-- The accesses of a command at a stage-1 root, which the hub makes: no team, no core, die 4. -/
def cmdEnv (v : Nat) (s1root : W64) : Env := { vf := v, s1root := s1root, team := 0, core := 1028, priv := v == 0 }

/-- The root of a header's addresses and those addresses, with the bytes that the H5 reads at each (R346, R347). -/
def Command.names (c : Command) : W64 × List (Nat × Nat) :=
  let opt (o n : Nat) : List (Nat × Nat) := if c.field o 8 = 0 then [] else [(c.field o 8, n)]
  match c.op with
  | 1 => (BitVec.ofNat 64 (c.field 24 8), [(c.field 8 8, 64), (c.field 16 8, 1)] ++ opt 48 4 ++ opt 56 64)
  | 3 => (BitVec.ofNat 64 (c.field 24 8), [(c.field 16 8, 128)])
  | 5 => (BitVec.ofNat 64 (c.field 32 8), if c.byte 8 = 8 then [(c.field 24 8, 256)] else opt 24 64)
  | _ => (0, [])

/-- The command waits for memory of a held die (19 R415; log 63). -/
def Command.heldUp (s : State) (v : Nat) (c : Command) : Bool :=
  c.names.2.any (fun a => (lineRange a.1 a.2).any (fun l => resolve s (cmdEnv v c.names.1) .read l.1 == .held))

/-- A command of an opcode that may begin, as an event finds it. -/
def readyCmd (s : State) (v id op : Nat) : Option Command :=
  match Tab.find (vfAt s v).cmds id with
  | some c => if mayBegin s v c && (c.idle s v).isNone && c.op == op && !c.heldUp s v then some c else none
  | none => none

/-- Mark a command begun. -/
def beginCmd (v id : Nat) (s : State) : State :=
  modVf v (fun x => match Tab.find x.cmds id with
    | some c => { x with cmds := Tab.set x.cmds id { c with begun := true } }
    | none => x) s

/-- A status and a result: what a command that completes at once answers. -/
structure Answer where
  status : Nat
  result : Nat
  state : State

/-- The frame of a command that begins and completes in one step. -/
def cmdNow (name : String) (v id op : Nat) (pick : Command → Bool) (s : State) (f : Command → Answer) : Out :=
  event name
    (match readyCmd s v id op with
      | some c => if pick c then
          let a := f c
          some (completeCmd v id a.status 0 a.result 0 (beginCmd v id a.state)) else none
      | none => none)

/-! ## The available ring (R348 to R350) -/

/-- Read n entries of the available ring. The queue stops at the first that fails. -/
def readEntries (v q : Nat) : Nat → State → State
  | 0, s => s
  | n + 1, s =>
    let x := queueAt s v q
    match readGpa s v (x.driver.toNat + 4 + 2 * (x.lastSeen.toNat % x.size.toNat)) 2 with
    | none => ringError v q 7 s
    | some bs =>
      let order := (vfAt s v).nextCmd
      match chainOf s v q (leNat bs) with
      | .error c => ringError v q c s
      | .ok ds =>
        match commandOf s v q order (leNat bs) ds with
        | .error c => ringError v q c s
        | .ok c =>
          readEntries v q n (modQueue v q (fun x => { x with lastSeen := x.lastSeen + 1 })
            (modVf v (fun x => { x with cmds := Tab.set x.cmds order c, nextCmd := order + 1 }) s))

/-- avail_event in the used ring, where VIRTIO_F_EVENT_IDX is accepted (R345). -/
def writeAvailEvent (v q : Nat) (s : State) : State :=
  if (vfAt s v).driverFeature.getLsbD 29 then
    let x := queueAt s v q
    (writeGpa v (x.device.toNat + 4 + 8 * x.size.toNat) (leBytes 2 x.lastSeen.toNat) s).getD
      (if x.needsReset then s else ringError v q 8 s)
  else s

/-- A scan of a queue reaches for memory of a held die: its rings, its table, or what the chains of its new entries name (19 R415). -/
def scanHeld (s : State) (v q : Nat) : Bool :=
  let x := queueAt s v q
  gpaHeld s v (x.driver.toNat + 2) 2 || (match readGpa s v (x.driver.toNat + 2) 2 with
    | none => false
    | some bs =>
      let n := min x.size.toNat (BitVec.ofNat 16 (leNat bs) - x.lastSeen).toNat
      n != 0 && (gpaHeld s v (x.driver.toNat + 4) (2 * x.size.toNat) || gpaHeld s v x.desc.toNat (16 * x.size.toNat)
        || gpaHeld s v x.device.toNat (6 + 8 * x.size.toNat)
        || (List.range n).any (fun i =>
          match readGpa s v (x.driver.toNat + 4 + 2 * ((x.lastSeen.toNat + i) % 2 ^ 16 % x.size.toNat)) 2 with
          | none => false
          | some hd =>
            (match walkChain s v x.desc.toNat x.size.toNat x.size.toNat (leNat hd) with
              | .ok ds => ds.any (fun d => d.flags / 4 % 2 == 1 && gpaHeld s v d.addr d.len)
              | .error _ => false)
            || (match chainOf s v q (leNat hd) with
              | .ok ds => ds.any (fun d => d.flags / 2 % 2 == 0 && gpaHeld s v d.addr (min d.len 64))
              | .error _ => false))))

/-- The controller reads a queue's available index and the entries it adds. -/
def scanQueue (v q : Nat) (s : State) : State :=
  if !queueLive s v q then s
  else if scanHeld s v q then modQueue v q (fun x => { x with scanWaits := true }) s
  else
    let x := queueAt s v q
    match readGpa s v (x.driver.toNat + 2) 2 with
    | none => ringError v q 7 s
    | some bs =>
      let n := (BitVec.ofNat 16 (leNat bs) - x.lastSeen).toNat
      if x.size.toNat < n then ringError v q 4 s
      else settle v (writeAvailEvent v q (readEntries v q n s))

/-! ## What waited for a held die (19 R415) -/

/-- The completions of a function that waited for memory of a held die. -/
def finishHeld (v : Nat) (s : State) : State :=
  (vfAt s v).cmds.foldl (fun u e => match e.2.fin with
    | some (st, d, r, n) => completeCmd v e.1 st d r n u
    | none => u) s

/-- The scans of a function that waited. -/
def scanAgain (v : Nat) (s : State) : State :=
  ((vfAt s v).queues.filter (fun e => e.2.scanWaits)).foldl
    (fun u e => scanQueue v e.1 (modQueue v e.1 (fun x => { x with scanWaits := false }) u)) s

/-- A die is held no more: the words that waited for it issue again, the hub's writes reach its memory, and commands complete and begin. -/
def wakeHeld (s : State) : State :=
  let s1 := flushHub (wakeAgain (fun _ g => g.blocked == some .held) s)
  let s2 := s1.vfs.foldl (fun u e => finishHeld e.1 u) s1
  s2.vfs.foldl (fun u e => scanAgain e.1 u) s2

/-! ## Wakes (R349) -/

/-- Queues of a function with WAKEAGAIN set. -/
def wakingQueues (s : State) (v : Nat) : List Nat := (List.range 64).filter (fun q => (queueAt s v q).wakeAgain)

/-- A rescan where a token stands against a WAKEAGAIN bit: one token, every set bit, in ascending queue order. -/
def rescan (v : Nat) (s : State) : State :=
  let qs := wakingQueues s v
  if qs.isEmpty || (vfAt s v).tokens == 0 then s
  else
    let s1 := qs.foldl (fun t q => modQueue v q (fun x => { x with status := x.status &&& ~~~(4 : W32) }) t)
      (modVf v (fun x => { x with tokens := x.tokens - 1 }) s)
    qs.foldl (fun t q => scanQueue v q t) s1

/-- Refills due since the last: one at every multiple of 1,000 ticks. -/
def refillsDue (s : State) : Nat := s.time.toNat / 1000 - s.refillAt.toNat / 1000

/-- One refill of every bucket, with its rescans. -/
def refillOnce (s : State) : State :=
  let s1 : State := { s with
    vfs := s.vfs.map (fun e => (e.1, { e.2 with tokens := min e.2.wakeBurst.toNat (e.2.tokens + e.2.wakeRate.toNat) })) }
  s1.vfs.foldl (fun t e => rescan e.1 t) s1

/-- n refills, one after another. -/
def refillTimes : Nat → State → State
  | 0, s => s
  | n + 1, s => refillTimes n (refillOnce s)

/-- The refills that are due, with their rescans. -/
def refill (s : State) : State :=
  if refillsDue s = 0 then s else refillTimes (refillsDue s) { s with refillAt := s.time }

/-- WAKE_REFILL. -/
def execWakeRefill (s : State) : Out := event "WAKE_REFILL" (if refillsDue s = 0 then none else some (refill s))

/-- NOTIFY: a wake takes a token, or sets WAKEAGAIN. A refill of the same tick is applied first. -/
def execNotify (vf queue : Nat) (s : State) : Out :=
  event "NOTIFY"
    (if 64 ≤ queue || !vfOn s vf then none
     else
       let s1 := refill s
       if (vfAt s1 vf).tokens = 0 then some (modQueue vf queue (fun x => { x with status := x.status ||| 4 }) s1)
       else some (scanQueue vf queue (modVf vf (fun x => { x with tokens := x.tokens - 1 }) s1)))

/-! ## The virtio registers with events of their own (R341, R342, R350, R353) -/

/-- The offered features (R342). -/
def deviceFeature : W64 := BitVec.ofNat 64 (2 ^ 28 + 2 ^ 29 + 2 ^ 32 + 2 ^ 40)

/-- FEATURES_OK is refused for a feature that is not offered, or without bit 32. -/
def featuresBad (f : W64) : Bool := f &&& ~~~deviceFeature != 0 || !f.getLsbD 32

/-- FEATURES_OK: a write to DEVICE_STATUS that sets bit 3. The refused bit reads back 0; DEVICE_NEEDS_RESET is the H5's. -/
def execFeaturesOk (vf : Nat) (status : BitVec 8) (s : State) : Out :=
  event "FEATURES_OK"
    (if !vfOn s vf || !status.getLsbD 3 then none
     else
       let x := vfAt s vf
       let st := if featuresBad x.driverFeature then status &&& ~~~(8 : Byte) else status
       some (modVf vf (fun x => { x with deviceStatus := (st &&& ~~~(0x40 : Byte)) ||| (x.deviceStatus &&& 0x40) }) s))

/-- The queue that QUEUE_SELECT names, if any. -/
def selected (s : State) (v : Nat) : Option Nat :=
  let q := (vfAt s v).queueSelect.toNat
  if q < 64 then some q else none

/-- The cause for which QUEUE_ENABLE is refused (R350). -/
def enableCause (x : VQueue) (featuresOk : Bool) : Option Nat :=
  let n := x.size.toNat
  if n = 0 || 32768 < n || !(List.range 16).any (fun k => n == 2 ^ k) then some 1
  else if x.desc.toNat % 16 ≠ 0 ∨ x.driver.toNat % 2 ≠ 0 ∨ x.device.toNat % 4 ≠ 0 then some 2
  else if !featuresOk then some 3
  else none

/-- QUEUE_ENABLE: a write of 1 for the selected queue. -/
def execQueueEnable (vf : Nat) (s : State) : Out :=
  event "QUEUE_ENABLE"
    (match selected s vf with
      | none => none
      | some q =>
        if !vfOn s vf then none
        else match enableCause (queueAt s vf q) ((vfAt s vf).deviceStatus.getLsbD 3) with
          | some c => some (modQueue vf q (VQueue.mark 1 c) s)
          | none =>
            some (modQueue vf q (fun x => if x.enable = 1 then x else { x with
              enable := 1, lastSeen := 0, usedIdx := 0, status := x.status &&& ~~~(2 : W32) }) s))

/-- A begun command of a queue has not completed. -/
def queueBusy (s : State) (v q : Nat) : Bool := (vfAt s v).cmds.any (fun e => e.2.queue == q && e.2.begun)

/-- The end of a queue's reset (R353). -/
def endQueueReset (v q : Nat) (s : State) : State :=
  let s1 := modQueue v q (fun x => { x with resetting := 0, enable := 0, lastSeen := 0, scanWaits := false, status := x.status &&& ~~~(5 : W32) }) s
  if (vfAt s1 v).queues.any (fun e => e.2.needsReset) then s1
  else modVf v (fun x => { x with deviceStatus := x.deviceStatus &&& ~~~(0x40 : Byte) }) s1

/-- QUEUE_RESET: a write of 1 for the selected queue stops consumption at once. -/
def execQueueReset (vf : Nat) (s : State) : Out :=
  event "QUEUE_RESET"
    (match selected s vf with
      | none => none
      | some q =>
        if !vfOn s vf then none
        else
          let s1 := modVf vf (fun x => { x with cmds := x.cmds.filter (fun e => e.2.queue != q || e.2.begun) })
            (modQueue vf q (fun x => { x with resetting := 1 }) s)
          some (if queueBusy s1 vf q then s1 else endQueueReset vf q s1))

/-- QUEUE_RESET_DONE: every begun command of the queue has completed. -/
def execQueueResetDone (vf queue : Nat) (s : State) : Out :=
  event "QUEUE_RESET_DONE"
    (if (queueAt s vf queue).resetting = 1 && !queueBusy s vf queue then some (endQueueReset vf queue s) else none)

end Sys2Proof.Machine
end

