-- ==== Sys2Proof/Machine/Layout.lean ====
section
/-!
DEFINITION. Tensor layout records: their validity and the walk they describe (09 R269, R270).
-/
namespace Sys2Proof.Machine

def tlrBase (r : BitVec 512) : Nat := r.toNat % 2 ^ 64
def tlrEbits (r : BitVec 512) : Nat := r.toNat / 2 ^ 64 % 256
def tlrEdge (r : BitVec 512) (i : Nat) : Bool := r.getLsbD (75 + i)
def tlrFill (r : BitVec 512) : Nat := r.toNat / 2 ^ 160 % 2 ^ 32
def tlrLimit (r : BitVec 512) (i : Nat) : Nat := r.toNat / 2 ^ (32 * i + 192) % 2 ^ 32
/-- PITCHi, signed. -/
def tlrPitch (r : BitVec 512) (i : Nat) : Int := (BitVec.ofNat 32 (r.toNat / 2 ^ (32 * i + 352) % 2 ^ 32)).toInt

/-- Bytes of an element. -/
def tlrBytes (r : BitVec 512) : Nat := tlrEbits r / 8

/-- The record keeps the rules of R269. -/
def tlrValid (r : BitVec 512) : Bool :=
  decide (1 ≤ tlrRank r) && decide (tlrRank r ≤ 5)
    && (tlrEbits r == 8 || tlrEbits r == 16 || tlrEbits r == 32 || tlrEbits r == 64)
    && (List.range (tlrRank r)).all (fun i => tlrCount r i != 0 && (!tlrEdge r i || tlrLimit r i != 0))

/-- A coordinate resolved by the edge rule of its level, and whether it lies in the body (R270). -/
def tlrResolve (r : BitVec 512) (i : Nat) (c : Int) : Int × Bool :=
  if tlrEdge r i then (c % (tlrLimit r i : Int), true)
  else (c, decide (0 ≤ c) && decide (c < (tlrLimit r i : Int)))

/-- The address of the element at coordinates given by level; none for a margin element. -/
def tlrAddr (r : BitVec 512) (coord : Nat → Int) : Option Nat :=
  let levels := List.range (tlrRank r)
  if levels.all (fun i => (tlrResolve r i (coord i)).2) then
    let off : Int := levels.foldl (fun (n : Int) i => n + (tlrResolve r i (coord i)).1 * tlrPitch r i) 0
    some (((tlrBase r : Int) + off) % 2 ^ 64).toNat
  else none

/-- The step of level i in element k of a walk, level 0 fastest. -/
def tlrStep (r : BitVec 512) (k i : Nat) : Nat :=
  k / ((List.range i).foldl (fun n j => n * tlrCount r j) 1) % tlrCount r i

/-- Element k of a walk from origins: its address, or none in the margin. -/
def tlrElem (r : BitVec 512) (origins : List Int) (k : Nat) : Option Nat :=
  tlrAddr r (fun i => origins.getD i 0 + (tlrStep r k i : Int))

end Sys2Proof.Machine
end

