-- ==== Sys2Proof/Machine/Return.lean ====
section
/-!
DEFINITION. The arrival of outstanding returns in registers (02 R54, R68, R69; 12 R336; 19 R414).
-/
namespace Sys2Proof.Machine

/-- Write one scalar register of the group in a slot at the completion of a return. What lands in s0 is discarded, its mark of bad
data with it. -/
def landS (q n : Nat) (v : W64) (bad : Option W64) (s : State) : State :=
  modGroup q (fun g =>
    let g1 := g.writeS n v
    match bad with
    | some i => if n = 0 then g1 else { g1 with badS := Tab.set g1.badS n i }
    | none => g1) s

/-- Write one vector register at the completion of a return: the masked lanes, merged where the guard did not cover every
live slot. The result is G (02 R50, R51). -/
def landV (q n : Nat) (mask : W32) (cover : Bool) (lanes : List W32) (bad : Option W64) (s : State) : State :=
  let g := groupAt s q
  let old := g.vreg n
  let new (k : Nat) : W32 := lanes.getD k 0
  let s1 := putVq q n (if cover then generalReg old mask new else mergeReg old mask new) s
  modGroup q (fun g' => { g' with badV :=
    match bad with
    | some i => Tab.set g'.badV n i
    | none => if cover then g'.badV else keptBad s q n }) s1

/-- The reuse record that the completion of a load enters (12 R336), where its key names no entry that was freed since (02 R59). -/
def landRecord (r : Return) (key : List Nat) (s : State) : State :=
  let g := groupAt s r.q
  let names := loadKeyNames key
  let enter (result : VReg) (scalar : W64) (bad : Option W64) : State :=
    addRecord (coreOf r.q) { vf := g.vf, key := key, names := names ++ result.entries, result := result, scalar := scalar,
                             flags := 0, loadTeam := some g.team, bad := bad } s
  if stampsOf (coreAt s (coreOf r.q)) names ≠ r.stamps then s
  else match r.parts with
  | [.scalar _ v bad] => enter (.uniform 0) v bad
  | [.vector n _ _ _ bad] => enter (g.vreg n) 0 bad
  | _ => s

/-- Deliver one part of a return, or drop it where its register is released or lies at or above VTOP (R69). -/
def landPart (q : Nat) (p : RetPart) (s : State) : State :=
  match p with
  | .scalar n v bad => landS q n v bad s
  | .vector n mask cover lanes bad =>
    if s.vtop (groupAt s q) ≤ n then count (coreOf q) evGendrop (groupAt s q).vf 1 s
    else landV q n mask cover lanes bad s
  | .released => count (coreOf q) evGendrop (groupAt s q).vf 1 s

/-- A part that will be dropped. -/
def partDropped (s : State) (q : Nat) : RetPart → Bool
  | .vector n _ _ _ _ => decide (s.vtop (groupAt s q) ≤ n)
  | .released => true
  | .scalar _ _ _ => false

/-- Deliver a return: the generation is checked first (R68), then each part. -/
def land (r : Return) (s : State) : State :=
  let g := groupAt s r.q
  if g.st = .vacant ∨ g.gen ≠ r.gen then count (coreOf r.q) evGendrop r.vf 1 s
  else
    let dropped := r.parts.any (partDropped s r.q)
    let s1 := unblock r.q (r.parts.foldl (fun t p => landPart r.q p t) s)
    match r.loadKey with
    | some k => if dropped then s1 else landRecord r k s1
    | none => s1

/-- REGISTER_RETURN: an outstanding return arrives. -/
def execRegisterReturn (id : Nat) (s : State) : Out :=
  event "REGISTER_RETURN"
    ((Tab.find s.returns id).map (fun r => land r { s with returns := Tab.del s.returns id }))

end Sys2Proof.Machine
end

