-- ==== Sys2Proof/Machine/Copy.lean ====
section
/-!
DEFINITION. Templates and copies of the BTE (09 R271 to R276, R471; 08 R219 to R221, R239 to R242).
-/
namespace Sys2Proof.Machine

/-! ## Templates (R271, R272) -/

def tpRec (t : Template) : Nat := t.record.toNat
def tpLaya (r : Nat) : Nat := r % 2 ^ 64
def tpLayb (r : Nat) : Nat := r / 2 ^ 64 % 2 ^ 64
def tpDst (r : Nat) : Nat := r / 2 ^ 128 % 2 ^ 64
def tpNbt (r : Nat) : Nat := r / 2 ^ 192 % 2 ^ 64
def tpTba (r : Nat) : Nat := r / 2 ^ 256 % 2 ^ 64
def tpInd (r : Nat) : Bool := r / 2 ^ 320 % 2 == 1
def tpOtgt (r : Nat) : Bool := r / 2 ^ 321 % 2 == 1
def tpOdim (r : Nat) : Nat := r / 2 ^ 322 % 8
def tpDk (r : Nat) : Nat := r / 2 ^ 325 % 4

/-- The source record: LAYB of an indirect copy, else LAYA. -/
def tpSource (t : Template) : BitVec 512 := if tpInd (tpRec t) then t.layb else t.laya

/-- Elements of a walk of levels 1 and up. -/
def innerElems (r : BitVec 512) : Nat := (List.range (tlrRank r - 1)).foldl (fun n i => n * tlrCount r (i + 1)) 1

/-- Elements, element bytes and bytes of the element stream. -/
def tpElems (t : Template) : Nat := if tpInd (tpRec t) then tlrElems t.laya * innerElems t.layb else tlrElems t.laya
def tpBytes (t : Template) : Nat := tlrBytes (tpSource t)
def tpLength (t : Template) : Nat := tpElems t * tpBytes t

/-- The first address of the register window and of the accumulator window of a core (08 R219). -/
def regWindow (core : Nat) : Nat := ocpmWindow core + 0x400000
def accWindow (core : Nat) : Nat := ocpmWindow core + 0x100000
def accBytes : Nat := 0x210000

/-- The core whose register window a physical range lies in. -/
def regWindowCore (pa len : Nat) : Option Nat :=
  if inOcpm pa then
    let c := (pa - ocpmBase) / 0x800000
    if regWindow c ≤ pa ∧ pa + len ≤ regWindow c + 0x200000 then some c else none
  else none

/-- A template keeps R271 and R272. Its reserved bits are not looked at (00 R7). -/
def tplValid (t : Template) : Bool :=
  let r := tpRec t
  let two := tpLayb r != 0
  tpDk r != 3 && decide (tpLaya r < 2 ^ 56) && decide (tpLayb r < 2 ^ 56)
    && tlrValid t.laya && (!two || tlrValid t.layb)
    && (if tpInd r then two && tlrEbits t.laya == 32
        else !two || (tpDk r == 0 && tlrElems t.laya == tlrElems t.layb && tlrEbits t.laya == tlrEbits t.layb))
    && (!tpOtgt r || two) && decide (tpOdim r < tlrRank (if tpOtgt r then t.layb else t.laya))
    && (tpDk r != 1 || (tpLength t % 128 == 0 && (regWindowCore (tpDst r) (tpLength t)).isSome))
    && (tpDk r != 2 || (decide (tpDst r + tpLength t ≤ accBytes) && tpDst r % 33 == 0 && tpLength t % 33 == 0))

/-! ## Commands' memory (14 R346, R352) -/

/-- Bytes at a translated address of a command; none where one is not reached. -/
def cmdRead (s : State) (v : Nat) (s1root : W64) (va n : Nat) : Option (List Byte) :=
  if 2 ^ 56 < va + n then none else (engineRead s (cmdEnv v s1root) va n).toOption

/-- A virtual address of a command's header reaches memory for a kind of access (14 R352). -/
def cmdMapped (s : State) (v : Nat) (s1root : W64) (k : AccessKind) (va : Nat) : Bool :=
  match resolve s (cmdEnv v s1root) k va with
  | .mem _ _ => decide (va < 2 ^ 56)
  | _ => false

/-- The layout record at an address of a template. -/
def readTlr (s : State) (v : Nat) (s1root : W64) (va : Nat) : Option (BitVec 512) :=
  if va % 64 ≠ 0 then none
  else (cmdRead s v s1root va 64).map (fun bs => BitVec.ofNat 512 (leNat bs))

/-- A template with the records it names: an LAYB of 0 names none. Its reserved bits read 0. -/
def readTemplate (s : State) (v : Nat) (s1root : W64) (rec' : Nat) : Option Template :=
  match readTlr s v s1root (tpLaya rec'), (if tpLayb rec' = 0 then some 0 else readTlr s v s1root (tpLayb rec')) with
  | some a, some b => some { record := BitVec.ofNat 1024 (rec' % 2 ^ 327), laya := a, layb := b }
  | _, _ => none

/-- TEMPLATE_LOAD (14 R346). -/
def execTemplateLoad (vf id : Nat) (s : State) : Out :=
  cmdNow "TEMPLATE_LOAD" vf id 3 (fun _ => true) s (fun c =>
    let tidx := c.field 8 2
    let va := c.field 16 8
    let root := BitVec.ofNat 64 (c.field 24 8)
    if !c.clean [(8, 2), (16, 8), (24, 8)] || 4096 ≤ tidx || root.toNat % 4096 != 0 then ⟨2, 0, s⟩
    else match cmdRead s vf root va 128 with
      | none => ⟨1, 0, s⟩
      | some bs =>
        if va % 128 ≠ 0 then ⟨5, 0, s⟩
        else match readTemplate s vf root (leNat bs) with
          | none => ⟨5, 0, s⟩
          | some t => if tplValid t then ⟨0, 0, modVf vf (fun x => { x with templates := Tab.set x.templates tidx t }) s⟩
                      else ⟨5, 0, s⟩)

/-! ## The ranges of a copy (R275) -/

/-- The die that a copy runs on. -/
def Copy.die (c : Copy) : Nat := if c.core < 1024 then c.core / 64 else c.core - 1024

/-- The accesses of a copy. -/
def Copy.env (c : Copy) : Env := { vf := c.vf, s1root := c.s1root, team := c.team, core := c.core, priv := c.vf == 0 }

/-- The origins of one of the two records: those of the copy for the record that OTGT names, with OFFSET added to ODIM. -/
def Copy.originsOf (c : Copy) (b : Bool) : List Int :=
  let r := tpRec c.tpl
  if tpOtgt r = b then
    (List.range 5).map (fun i => (c.origins.getD i 0).toInt + (if i = tpOdim r then c.offset.toInt else 0))
  else []

/-- First byte of a contiguous destination, as DST is meant. -/
def Copy.dest (c : Copy) : Nat := ((((tpDst (tpRec c.tpl) : Nat) : Int) + c.dstOff.toInt) % 2 ^ 64).toNat

/-- The least and greatest coordinate of level i that a walk visits in the body. -/
def levelSpan (r : BitVec 512) (i : Nat) (o : Int) (count : Nat) : Option (Int × Int) :=
  let lim : Int := (tlrLimit r i : Nat)
  if tlrEdge r i then
    let f := o % lim
    if f + count ≤ lim then some (f, f + count - 1) else some (0, lim - 1)
  else
    let a := max o 0
    let b := min (o + count - 1) (lim - 1)
    if b < a then none else some (a, b)

/-- The least and greatest element address of the body of a walk, before reduction modulo 2^64. `row` says that level 0
takes every coordinate below its limit. -/
def walkSpan (r : BitVec 512) (org : List Int) (row : Bool) : Option (Int × Int) :=
  (List.range (tlrRank r)).foldl (fun acc i =>
    match acc, (if row && i == 0 then levelSpan r 0 0 (tlrLimit r 0) else levelSpan r i (org.getD i 0) (tlrCount r i)) with
    | some (lo, hi), some (a, b) =>
      let p := tlrPitch r i
      some (lo + min (a * p) (b * p), hi + max (a * p) (b * p))
    | _, _ => none) (some ((tlrBase r : Nat), (tlrBase r : Nat)))

/-- The byte range of a span: first address and length. -/
def spanRange (bytes : Nat) : Option (Int × Int) → List (Nat × Nat)
  | some (lo, hi) => [((lo % 2 ^ 64).toNat, (hi - lo).toNat + bytes)]
  | none => []

/-- The virtual ranges that a copy reads and those it writes. -/
def Copy.readRanges (c : Copy) : List (Nat × Nat) :=
  let t := c.tpl
  if tpInd (tpRec t) then
    spanRange 4 (walkSpan t.laya (c.originsOf false) false) ++ spanRange (tpBytes t) (walkSpan t.layb (c.originsOf true) true)
  else spanRange (tpBytes t) (walkSpan t.laya (c.originsOf false) false)

def Copy.laidOut (c : Copy) : Bool := !tpInd (tpRec c.tpl) && tpLayb (tpRec c.tpl) != 0

def Copy.writeRanges (c : Copy) : List (Nat × Nat) :=
  if c.laidOut then spanRange (tpBytes c.tpl) (walkSpan c.tpl.layb (c.originsOf true) false)
  else [(c.dest, tpLength c.tpl)]

/-- The physical range that a copy writes outside translation (DK 1, DK 2). -/
def Copy.ocpmRange (c : Copy) : Option (Nat × Nat) :=
  match tpDk (tpRec c.tpl) with
  | 1 => some (c.dest, tpLength c.tpl)
  | 2 => some (accWindow c.core + c.dest, tpLength c.tpl)
  | _ => none

/-- The parts of a virtual range that a demand fault keeps from being reached yet (14 R359), as one part for each run of them. -/
def lateParts (s : State) (e : Env) (k : AccessKind) : Nat → Nat → Nat → List (Nat × Nat)
  | 0, _, _ => []
  | fuel + 1, va, len =>
    if len = 0 then []
    else match pageAt s e k va with
      | some (_, left) => lateParts s e k fuel ((va + min len left) % 2 ^ 64) (len - min len left)
      | none =>
        let n := min len (4096 - va % 4096)
        let rest := lateParts s e k fuel ((va + n) % 2 ^ 64) (len - n)
        match resolveOpen s e k va, rest with
        | .demand _ _, (v, m) :: r => if v = (va + n) % 2 ^ 64 then (va, n + m) :: r else (va, n) :: rest
        | .demand _ _, [] => [(va, n)]
        | _, _ => rest

/-- A lock on a physical part, for an owner. -/
def lockOn (o : LockOwner) (write : Bool) (p : Nat × Nat) : Lock :=
  { owner := o, order := 0, write := write, lo := p.1 / 64, hi := (p.1 + p.2 - 1) / 64 }

/-- A lock that covers no line yet: its entry is kept for a virtual part that is not reached (log 64). -/
def lockLate (o : LockOwner) (write : Bool) (p : Nat × Nat) : Lock :=
  { owner := o, order := 0, write := write, lo := 1, hi := 0, late := some p }

/-- The locks of one virtual range of an engine. -/
def rangeLock (s : State) (e : Env) (o : LockOwner) (write : Bool) (r : Nat × Nat) : List Lock :=
  let k := if write then .write else .read
  (pageParts s e k (r.2 + 1) r.1 r.2).map (lockOn o write) ++ (lateParts s e k (r.2 + 1) r.1 r.2).map (lockLate o write)

/-- The locks of an engine's read and write ranges. -/
def rangeLocks (s : State) (e : Env) (o : LockOwner) (rd wr : List (Nat × Nat)) : List Lock :=
  rd.flatMap (rangeLock s e o false) ++ wr.flatMap (rangeLock s e o true)

/-- The entries kept for parts that were not reached take their ranges, where those are reached now, in the place of the operation in
the order of registration; none where the table lacks the entries. -/
def settleLocks (core : Nat) (o : LockOwner) (e : Env) (s : State) : Option State :=
  let t := (coreAt s core).locks
  let mine := t.filter (fun l => l.2.owner == o && l.2.late.isSome)
  if mine.isEmpty then some s
  else
    let kept := t.filter (fun l => !(l.2.owner == o && l.2.late.isSome))
    let ls := mine.flatMap (fun l => (rangeLock s e o l.2.write (l.2.late.getD (0, 0))).map (fun n => { n with order := l.2.order }))
    if Config.lockEntries < kept.length + ls.length then none
    else some (modCore core (fun c => { c with locks := ls.foldl (fun t l => Tab.set t (Tab.freeKey t 64 0) l) kept }) s)

/-- The locks of a copy. -/
def copyLocks (s : State) (id : Nat) (c : Copy) : List Lock :=
  match c.ocpmRange with
  | some p => rangeLocks s c.env (.copy id) c.readRanges [] ++ [lockOn (.copy id) true p]
  | none => rangeLocks s c.env (.copy id) c.readRanges c.writeRanges

/-! ## The checks at issue (08 R220, R221) -/

/-- The group slot, first register and number of registers that a register-window copy writes; none where a check of R220
fails. -/
def copyWindow (s : State) (c : Copy) : Option (Nat × Nat × Nat) :=
  match regWindowCore c.dest (tpLength c.tpl) with
  | none => none
  | some core =>
    let off := c.dest - regWindow core
    let q := core * 128 + off / 0x4000
    let reg := off % 0x4000 / 128
    let n := tpLength c.tpl / 128
    let g := groupAt s q
    if off % 128 = 0 ∧ reg + n ≤ 112 ∧ g.st ≠ .vacant ∧ g.vf = c.vf ∧ g.rwin then some (q, reg, n) else none

/-- An accumulator-window copy covers whole elements of tiles that its team holds. -/
def copyTilesOk (s : State) (c : Copy) : Bool :=
  let off := c.dest
  let n := tpLength c.tpl
  decide (c.core < 1024) && off % 33 == 0 && n % 33 == 0 && decide (off + n ≤ accBytes)
    && (List.range 4).all (fun t => decide ((t + 1) * 0x84000 ≤ off) || decide (off + n ≤ t * 0x84000)
      || (teamAt s c.team).tiles.contains t)

/-- A window check fails (code 4). -/
def windowBad (s : State) (c : Copy) : Bool :=
  match tpDk (tpRec c.tpl) with
  | 1 => (copyWindow s c).isNone
  | 2 => !copyTilesOk s c
  | _ => false

/-! ## Starting a copy (R273 to R275) -/

/-- Change a copy. -/
def modCopy (id : Nat) (f : Copy → Copy) (s : State) : State :=
  match Tab.find s.copies id with
  | some c => { s with copies := Tab.set s.copies id (f c) }
  | none => s

/-- A copy joins a batch of the group in a slot. -/
def joinBatch (q : Nat) (num : W32) (s : State) : State :=
  modGroup q (fun g =>
    if g.batches.any (fun b => b.num == num) then
      { g with batches := g.batches.map (fun b => if b.num = num then { b with pending := b.pending + 1 } else b) }
    else { g with batches := g.batches ++ [{ num := num, pending := 1, failed := false }] }) s

/-- The target registers of a register-window copy are marked empty (08 R220). -/
def emptyWindow (w : Nat × Nat × Nat) (s : State) : State :=
  modGroup w.1 (fun g => (List.range w.2.2).foldl (fun g i => g.emptyV (w.2.1 + i)) g) s

/-- Copies that a channel of a core holds. -/
def channelCopies (s : State) (core chan : Nat) : List (Nat × Copy) :=
  s.copies.filter (fun e => e.2.core == core && e.2.chan == chan)

/-- Enter a copy: its failure where one is known at issue, else its locks; none where the table lacks the entries. -/
def enterCopy (c : Copy) (fail : Option Nat) (s : State) : Option State :=
  let id := s.nextCopy
  let c0 : Copy := { c with order := s.nextOrder }
  let put (f : Option Nat) (s : State) : State :=
    { s with copies := Tab.set s.copies id { c0 with failed := f }, nextCopy := id + 1 }
  match fail with
  | some code => some (put (some code) { s with nextOrder := s.nextOrder + 1 })
  | none =>
    let ls := copyLocks s id c0
    if c.core < 1024 ∧ 8 < ls.length then some (put (some 5) { s with nextOrder := s.nextOrder + 1 })
    else
      match (if c.core < 1024 then takeLocks c.core ls s else some { s with nextOrder := s.nextOrder + 1 }) with
      | none => none
      | some s1 =>
        if windowBad s c0 then some (put (some 4) s1)
        else match copyWindow s c0 with
          | some w => some (if tpDk (tpRec c0.tpl) = 1 then
              modCopy id (fun c => { c with tgen := (groupAt s w.1).gen }) (put none (emptyWindow w s1)) else put none s1)
          | none => some (put none s1)

/-- The parameter record of a START (R274): DST offset and o0 to o2; or the code for which the copy fails, with the DETAIL, the
address and the physical address of uncorrectable data (R276, 19 R414). -/
def readParams (s : State) (e : Env) (pslot : Nat) : Except (Nat × Nat × Nat × Nat) (List W32) :=
  let va := localBase + 16 * pslot
  if pslot = 0 then .ok [0, 0, 0, 0]
  else match enginePlaces s e .read va 16 with
    | .error _ => .error (2, 0, 0, 0)
    | .ok ps =>
      match ps.find? (fun p => (Tab.find s.badLines (p.1 / 64)).isSome) with
      | some p => .error (6, Tab.get 0 s.badLines (p.1 / 64), va, p.1)
      | none =>
        let bs := readParts s e.vf ps
        .ok ((List.range 4).map (fun i => BitVec.ofNat 32 (leNat ((bs.drop (4 * i)).take 4))))

/-- A copy of the group in a slot, with the fields that a START or a copy record gives it. -/
def groupCopy (s : State) (q chan tidx : Nat) (offset dstOff : W32) (origins : List W32) (done : Nat) (batch : W32) : Copy :=
  let g := groupAt s q
  { vf := g.vf, launch := g.launch, team := g.team, q := q, gen := g.gen, core := coreOf q, chan := chan, tidx := tidx
    tpl := Tab.get default (vfAt s g.vf).templates tidx, offset := offset, dstOff := dstOff, origins := origins
    batch := batch, done0 := done, done := done, run := false, s1root := (teamAt s g.team).s1root, cmd := none, order := 0
    failed := none, stall := none, tgen := 0, gone := [], starter := ((teamAt s g.team).index, g.index), parked := false }

/-- Start a copy of a group in a channel and a batch (R274, R275); none where it waits at issue. `params` is the parameter record, or
why it cannot be used; `force` is a failure that is known beforehand. -/
def startCopy (q chan tidx : Nat) (offset : W32) (params : Except (Nat × Nat × Nat × Nat) (List W32)) (done : Nat) (batch : W32)
    (force : Option Nat) (s : State) : Option State :=
  if 16 ≤ (channelCopies s (coreOf q) chan).length then none
  else
    let g := groupAt s q
    let ps := params.toOption.getD [0, 0, 0, 0]
    let bad := match params with
      | .error e => e
      | .ok _ => (0, 0, 0, 0)
    let c := { groupCopy s q chan tidx offset (ps.getD 0 0) (ps.drop 1) done batch with badAt := bad.2 }
    let fail : Option Nat :=
      if (Tab.find (vfAt s g.vf).templates tidx).isNone then some 1 else if bad.1 ≠ 0 then some bad.1 else force
    (enterCopy c fail s).map (joinBatch q batch)

/-- The parameter record lies in a range that an operation writes: the H5's read of it waits, as an engine access does (08 R241; DESIGN
CHOICE, log 71: R274 does not say). -/
def paramsWait (s : State) (e : Env) (pslot : Nat) : Bool :=
  pslot != 0 && (match enginePlaces s e .read (localBase + 16 * pslot) 16 with
    | .ok ps => ps.any (fun p => olderLock s e.core s.nextOrder p.1 false)
    | .error _ => false)

/-- A doubleword written to START of a channel by the executing group (R274). -/
def startStore (chan : Nat) (v : W64) (s : State) : Option State :=
  let n := v.toNat
  let e := envOfTeam s s.me.team
  let pslot := n / 2 ^ 16 % 2 ^ 16
  if paramsWait s e pslot then none
  else startCopy s.qid chan (n % 2 ^ 16) (BitVec.ofNat 32 (n / 2 ^ 32)) (readParams s e pslot) 0 s.me.openBatch none s

/-- STATUS of a channel for a team (R273). -/
def channelStatus (s : State) (core chan team : Nat) : Nat :=
  (if (channelCopies s core chan).any (fun e => e.2.team == team) then 1 else 0)
    + Tab.get 0 (coreAt s core).lastFail (team * 16 + chan) * 2 ^ 16

/-! ## Running a copy (R275, R276, 08 R241) -/

/-- Why a copy stops before its end: a failure code, uncorrectable data (code 6), a lock of another operation, or a demand
fault. -/
inductive CopyStop where
  | fail (code : Nat)
  | bad (detail va pa : Nat)
  | locked
  | demand (stage page : Nat)
deriving DecidableEq, Repr

/-- The physical parts of pieces of memory for an operation of the engines with a place in the order of registration. -/
def copyPlaces (s : State) (e : Env) (order : Nat) (write : Bool) : List (Nat × Nat) → Except CopyStop (List (Nat × Nat))
  | [] => .ok []
  | (va, n) :: rest =>
    match resolve s e (if write then .write else .read) va with
    | .mem pa _ =>
      if fabricDenied s e.vf pa then .error (.fail 3)
      else if olderLock s e.core order pa write then .error .locked
      else (match copyPlaces s e order write rest with
        | .ok ps => .ok ((pa, n) :: ps)
        | .error e => .error e)
    | .demand st p => .error (.demand st p)
    | .held => .error .locked
    | _ => .error (.fail 3)

/-- The bytes of the pieces at an address, for such an operation. -/
def engineFetch (s : State) (e : Env) (order va : Nat) (pieces : List (Nat × Nat)) : Except CopyStop (List Byte) :=
  match copyPlaces s e order false pieces with
  | .error e => .error e
  | .ok ps =>
    match partsBad s ps with
    | some d => .error (.bad d va ((ps.find? (fun p => (Tab.find s.badLines (p.1 / 64)).isSome)).getD (0, 0)).1)
    | none => .ok (readParts s e.vf ps)

/-- The bytes at an address, for a copy. -/
def copyFetch (s : State) (c : Copy) (va n : Nat) : Except CopyStop (List Byte) :=
  engineFetch s c.env c.order va (linePieces va n)

/-- FILL of a record as an element. -/
def fillBytes (r : BitVec 512) (n : Nat) : List Byte := leBytes n (tlrFill r)

/-- Element k of the element stream (R272). -/
def copyElem (s : State) (c : Copy) (k : Nat) : Except CopyStop (List Byte) :=
  let t := c.tpl
  let n := tpBytes t
  if tpInd (tpRec t) then
    let inner := innerElems t.layb
    let idx : Except CopyStop (List Byte) := match tlrElem t.laya (c.originsOf false) (k / inner) with
      | some va => copyFetch s c va 4
      | none => .ok (fillBytes t.laya 4)
    match idx with
    | .error e => .error e
    | .ok bs =>
      let x := (BitVec.ofNat 32 (leNat bs)).toInt
      let org := c.originsOf true
      let step (i : Nat) : Nat := k % inner / ((List.range (i - 1)).foldl (fun m j => m * tlrCount t.layb (j + 1)) 1)
        % tlrCount t.layb i
      match tlrAddr t.layb (fun i => if i = 0 then x else org.getD i 0 + (step i : Int)) with
      | some va => copyFetch s c va n
      | none => .ok (fillBytes t.layb n)
  else
    match tlrElem t.laya (c.originsOf false) k with
    | some va => copyFetch s c va n
    | none => .ok (fillBytes t.laya n)

/-- The virtual pieces that element k of a copy through translation goes to: none for a margin element. -/
def Copy.elemDest (c : Copy) (k : Nat) : List (Nat × Nat) :=
  let n := tpBytes c.tpl
  if c.laidOut then
    (match tlrElem c.tpl.layb (c.originsOf true) k with
      | some va => linePieces va n
      | none => [])
  else linePieces ((c.dest + k * n) % 2 ^ 64) n

/-- The copy's VF may not write host or peer memory (code 7 of R276). -/
def sysBarred (s : State) (c : Copy) : Bool := tpDk (tpRec c.tpl) == 0 && !(vfAt s c.vf).scopePolicy.getLsbD 0

/-- Where element k goes: nowhere for a margin element, or its physical parts. Parts of a core of a held die are waited for (19 R415). -/
def copyTarget (s : State) (c : Copy) (k : Nat) : Except CopyStop (List (Nat × Nat)) :=
  match c.ocpmRange with
  | some (pa, _) =>
    let n := tpBytes c.tpl
    if (linePieces (pa + k * n) n).any (fun p => olderLock s c.core c.order p.1 true || heldAway s c.die p.1) then .error .locked
    else .ok [(pa + k * n, n)]
  | none =>
    match copyPlaces s c.env c.order true (c.elemDest k) with
    | .ok ps => if sysBarred s c && ps.any (fun p => !ownMemory p.1) then .error (.fail 7) else .ok ps
    | .error e => .error e

/-- Move up to `m` elements from element k on: the state, the elements moved, and why it stopped early. -/
def copyMove (c : Copy) : Nat → Nat → State → State × Nat × Option CopyStop
  | 0, _, s => (s, 0, none)
  | m + 1, k, s =>
    match copyElem s c k, copyTarget s c k with
    | .error e, _ => (s, 0, some e)
    | _, .error e => (s, 0, some e)
    | .ok bs, .ok ps =>
      let r := copyMove c m (k + 1) (writeParts c.vf ps bs s)
      (r.1, r.2.1 + 1, r.2.2)

/-- The element stream from element k on, for a register window. -/
def copyGather (s : State) (c : Copy) : Nat → Nat → Except CopyStop (List Byte)
  | 0, _ => .ok []
  | m + 1, k =>
    match copyElem s c k, copyTarget s c k, copyGather s c m (k + 1) with
    | .error e, _, _ => .error e
    | _, .error e, _ => .error e
    | _, _, .error e => .error e
    | .ok bs, .ok _, .ok cs => .ok (bs ++ cs)

/-- An element goes to host or peer memory, where the VF may not use sys scope (code 7): a copy does not begin then. A page that is mapped
there later is found as the copy reaches it. -/
def sysDenied (s : State) (c : Copy) : Bool :=
  sysBarred s c && (List.range (tpElems c.tpl)).any (fun k => (c.elemDest k).any (fun p =>
    match resolve s c.env .write p.1 with
    | .mem pa _ => !ownMemory pa
    | _ => false))

/-- A copy may begin to read (R275). -/
def nbtPassed (s : State) (c : Copy) : Bool := decide (tpNbt (tpRec c.tpl) ≤ s.time.toNat)

/-- The copy runs: it has begun, or begins now. -/
def copyRuns (s : State) (c : Copy) : Bool :=
  c.failed.isNone && c.stall.isNone && !c.parked && !(dieAt s c.die).held && (c.run || (nbtPassed s c && !sysDenied s c))

/-- The copy's time has come, and its start is denied: it writes memory that SYS 0 keeps from it (code 7 of R276). -/
def startDenied (s : State) (c : Copy) : Bool :=
  !c.run && c.failed.isNone && c.stall.isNone && !c.parked && !(dieAt s c.die).held && nbtPassed s c && sysDenied s c

/-- COPY_NBT_START: a copy that waited for its not-before time begins to read. -/
def execCopyNbtStart (id : Nat) (s : State) : Out :=
  event "COPY_NBT_START"
    (match Tab.find s.copies id with
      | none => none
      | some c => if !c.run && copyRuns s c then some (modCopy id (fun c => { c with run := true }) s) else none)

/-! ## The end of a copy -/

/-- A copy leaves its batch, failed or complete; nothing where its group has ended. -/
def leaveBatch (c : Copy) (failed : Bool) (s : State) : State :=
  let g := groupAt s c.q
  if c.cmd.isSome || g.st == .vacant || g.gen != c.gen then s
  else
    modGroup c.q (fun g => { g with
      batchErr := g.batchErr || failed
      batches := (g.batches.map (fun b =>
        if b.num = c.batch then { b with pending := b.pending - 1, failed := b.failed || failed } else b)).filter
          (fun b => decide (0 < b.pending) || b.failed) }) s

/-- The sectors of a copy (R275). -/
def copySectors (c : Copy) : Nat := (tpLength c.tpl + 31) / 32

/-- The copy's transaction barrier takes its sectors, with ERROR where it failed; none where it does not resolve. -/
def copySignal (c : Copy) (failed : Bool) (s : State) : Option State :=
  let tba := tpTba (tpRec c.tpl)
  if tba = 0 then some s
  else tbEngine c.team tba (fun t => tbUpdate (if failed && !tbError t then t + 16 else t) 0 (copySectors c : Nat)) s

/-- The update of the copy's barrier meets a lock registered before the copy's own, and waits (08 R241). -/
def signalWaits (s : State) (c : Copy) : Bool :=
  let tba := tpTba (tpRec c.tpl)
  tba != 0 && (match tbPlace s c.team tba with
    | some pa => olderLock s c.core c.order pa true
    | none => false)

/-- A copied accumulator element as the H5 holds it (01 R19, R20): the reserved status bits are 0, and so is the value of an element
that is not finite. -/
def holdElem (key pa : Nat) (s : State) : State :=
  let st := (readPa s key (pa + 32)).toNat % 64
  let s1 := writePa key (pa + 32) (BitVec.ofNat 8 st) s
  if st % 4 = 0 then s1 else writePas key pa (List.replicate 32 0#8) s1

/-- The elements of an accumulator-window copy whose bytes from `lo` on, up to `hi` of the stream, have been written whole; with `all`
the one that is written in part too. -/
def holdElems (c : Copy) (lo hi : Nat) (all : Bool) (s : State) : State :=
  match tpDk (tpRec c.tpl), c.ocpmRange with
  | 2, some (pa, _) =>
    let last := if all then (hi + 32) / 33 else hi / 33
    (List.range (last - lo / 33)).foldl (fun u i => holdElem (keyNum u c.vf) (pa + 33 * (lo / 33 + i)) u) s
  | _, _ => s

/-- BTESEC of a copy that stops with `done` bytes of its stream moved: the sectors that it has delivered since it started (19 R435). -/
def countSectors (c : Copy) (done : Nat) (s : State) : State :=
  let upTo := if tpLength c.tpl ≤ done then copySectors c else done / 32
  if c.core < 1024 then count c.core evBtesec c.vf (upTo - c.done0 / 32) s else s

/-- A copy is cancelled (17 R389): what it moved counts as its DONE (15 R368), and an element that it wrote in part is held as the H5
holds elements. -/
def cancelCopy (c : Copy) (s : State) : State :=
  countSectors c c.done (holdElems c (c.done / 33 * 33) c.done true (tally 4 c.vf c.done s))

/-- Remove a copy and release its locks. -/
def dropCopy (id : Nat) (c : Copy) (s : State) : State :=
  let s1 : State := { s with copies := Tab.del s.copies id }
  if c.core < 1024 then dropLocks c.core (.copy id) s1 else s1

/-- The registers of a register-window copy that has failed become full with what they hold. -/
def refillWindow (c : Copy) (s : State) : State :=
  match (if tpDk (tpRec c.tpl) = 1 ∧ (c.failed.isNone ∨ c.failed = some 3) then
      regWindowCore c.dest (tpLength c.tpl) else none) with
  | some core =>
    let off := c.dest - regWindow core
    modGroup (core * 128 + off / 0x4000) (fun g =>
      if g.st = .vacant ∨ g.gen ≠ c.tgen then g else { g with fullV := (List.range (tpLength c.tpl / 128)).foldl (fun f i =>
          f ||| BitVec.ofNat 112 (2 ^ (off % 0x4000 / 128 + i))) g.fullV }) s
  | none => s

/-- A copy fails with a code (R276). `signal` says that its barrier is told. A barrier that does not resolve then leaves the code as it is
(DESIGN CHOICE, log 71: R471 gives code 3 to a copy that would complete). -/
def failCopy (id : Nat) (c : Copy) (code : Nat) (signal : Bool) (s : State) : State :=
  let s1 := countSectors c c.done (refillWindow c (dropCopy id c (holdElems c (c.done / 33 * 33) c.done true s)))
  let s2 := if signal ∧ code ≠ 1 then (copySignal c true s1).getD s1 else s1
  let s3 := leaveBatch c true s2
  let s4 := if c.core < 1024 then
    modCore c.core (fun k => { k with lastFail := Tab.set k.lastFail (c.team * 16 + c.chan) code }) s3 else s3
  let s5 := captureFree c.die 2 c.vf (cgidOf c.q (groupAt s c.q)) s4
  match c.cmd with
  | some (v, cid) => completeCmd v cid 6 code 0 0 s5
  | none => s5

/-- A copy completes (R275). -/
def finishCopy (id : Nat) (c : Copy) (s : State) : State :=
  match copySignal c false (dropCopy id c s) with
  | none => failCopy id c 3 false s
  | some s1 =>
    let s2 := tally 4 c.vf (tpLength c.tpl - c.done0) (leaveBatch c false s1)
    let s3 := countSectors c (tpLength c.tpl) s2
    let s4 := captureFree c.die 2 c.vf (cgidOf c.q (groupAt s c.q)) s3
    match c.cmd with
    | some (v, cid) => completeCmd v cid 0 0 0 0 s4
    | none => s4

/-- A stall of a copy on a demand fault (14 R359). -/
def stallCopy (id : Nat) (c : Copy) (st p : Nat) (s : State) : State :=
  modCopy id (fun c => { c with run := true, stall := some (st, p) }) (raiseDemand { c.env with core := c.core } st p s)

/-- Deliver the stream of a register-window copy register by register (02 R69, 08 R220). -/
def deliverWindow (s : State) (c : Copy) (w : Nat × Nat × Nat) (bs : List Byte) : State :=
  let part (i : Nat) : RetPart :=
    if c.gone.contains (w.2.1 + i) then .released
    else .vector (w.2.1 + i) (-1) true ((List.range 32).map (fun k => BitVec.ofNat 32 (leNat ((bs.drop (128 * i + 4 * k)).take 4)))) none
  land { q := w.1, gen := c.tgen, vf := c.vf, parts := (List.range w.2.2).map part, loadKey := none } s

/-- What a run of a copy comes to. -/
inductive CopyRun where
  | complete (s : State)
  | failed (s : State) (code : Nat) (bad : Nat × Nat × Nat)
  | progress (s : State)
  | nothing

/-- Run a copy as far as it goes. -/
def runCopy (id : Nat) (c : Copy) (s : State) : CopyRun :=
  let n := tpBytes c.tpl
  let total := tpElems c.tpl
  if tpDk (tpRec c.tpl) = 1 then
    match copyGather s c total 0 with
    | .ok bs =>
      (match regWindowCore c.dest (tpLength c.tpl) with
        | some core =>
          let off := c.dest - regWindow core
          .complete (deliverWindow s c (core * 128 + off / 0x4000, off % 0x4000 / 128, tpLength c.tpl / 128) bs)
        | none => .failed s 4 (0, 0, 0))
    | .error (.fail code) => .failed s code (0, 0, 0)
    | .error (.bad d va pa) => .failed s 6 (d, va, pa)
    | .error (.demand st p) => .progress (stallCopy id c st p s)
    | .error .locked => .nothing
  else
    let k := c.done / n
    let r := copyMove c (total - k) k s
    let s1 := holdElems c (k * n) ((k + r.2.1) * n) false
      (modCopy id (fun c => { c with run := true, done := (k + r.2.1) * n }) r.1)
    match r.2.2 with
    | none => .complete s1
    | some (.fail code) => .failed s1 code (0, 0, 0)
    | some (.bad d va pa) => .failed s1 6 (d, va, pa)
    | some (.demand st p) => .progress (stallCopy id c st p s1)
    | some .locked => if r.2.1 = 0 then .nothing else .progress s1

/-- COPY_COMPLETE: the copy moves what it can; it completes, or stalls on a demand fault or a lock on its way. -/
def execCopyComplete (id : Nat) (s : State) : Out :=
  event "COPY_COMPLETE"
    (match Tab.find s.copies id with
      | none => none
      | some c =>
        if !copyRuns s c then none
        else match settleLocks c.core (.copy id) c.env s with
          | none => none
          | some s0 =>
            match runCopy id c s0 with
            | .complete s1 => if signalWaits s1 c then none else some (finishCopy id c s1)
            | .progress s1 => some s1
            | _ => none)

/-- COPY_FAIL: the copy fails with a code of R276. Code 6 posts EV_DATA_ERR. -/
def execCopyFail (id code : Nat) (s : State) : Out :=
  event "COPY_FAIL"
    (match Tab.find s.copies id with
      | none => none
      | some c =>
        let report (d va pa : Nat) (s : State) : State :=
          if code = 6 then
            postBoth 9 c.vf c.die 0 (packFields [(1, d), (8, va / 64 * 64)]) (packFields [(1, d), (8, va / 64 * 64), (8, pa)]) s
          else s
        if (dieAt s c.die).held || c.parked || signalWaits s c then none
        else match c.failed with
          | some k => if k = code then some (report c.badAt.1 c.badAt.2.1 c.badAt.2.2 (failCopy id c code true s)) else none
          | none =>
            if !c.run && c.stall.isNone && nbtPassed s c && sysDenied s c then
              (if code = 7 then some (failCopy id c 7 true s) else none)
            else if !copyRuns s c then none
            else match runCopy id c s with
              | .failed s1 k (d, va, pa) =>
                if k ≠ code then none
                else some (report d va pa (failCopy id ((Tab.find s1.copies id).getD c) code true s1))
              | _ => none)

/-- The window of the generation check of a new group (02 R68): the slot that a register-window copy returns to, with the generation
that its return carries. -/
def Copy.window (c : Copy) : Option (Nat × BitVec 16) :=
  if tpDk (tpRec c.tpl) = 1 then
    (regWindowCore c.dest (tpLength c.tpl)).map (fun core => (core * 128 + (c.dest - regWindow core) / 0x4000, c.tgen))
  else none

/-- A started copy moves any number of its elements before it is cancelled (17 R389, 11 R398). -/
def advanceCopy (id : Nat) (c : Copy) (s : State) : State :=
  if !copyRuns s c || tpDk (tpRec c.tpl) == 1 then s
  else
    let k := c.done / tpBytes c.tpl
    let left := tpElems c.tpl - k
    let r := copyMove c ((Config.freeW64 s.free (9000 + id)).toNat % (left + 1)) k s
    holdElems c (k * tpBytes c.tpl) ((k + r.2.1) * tpBytes c.tpl) false
      (modCopy id (fun c => { c with done := (k + r.2.1) * tpBytes c.tpl }) r.1)

/-! ## COPY (14 R346) -/

/-- COPY: a copy started by a command has no group and no core, so it takes no locks. Its S1ROOT names memory of the VF (14 R352). -/
def execCopy (vf id : Nat) (s : State) : Out :=
  event "COPY"
    (match readyCmd s vf id 2 with
      | none => none
      | some c =>
        let s0 := beginCmd vf id s
        let root := BitVec.ofNat 64 (c.field 32 8)
        let w (o : Nat) : W32 := BitVec.ofNat 32 (c.field o 4)
        let die := c.byte 40
        if !c.clean [(8, 2), (12, 4), (16, 4), (20, 4), (24, 4), (28, 4), (32, 8), (40, 1)] || 4 ≤ die || root.toNat % 4096 != 0 then
          some (completeCmd vf id 2 0 0 0 s0)
        else if !gpaMapped s vf root.toNat 4096 false then some (completeCmd vf id 1 0 0 0 s0)
        else
          let tidx := c.field 8 2
          let cp : Copy :=
            { vf := vf, launch := 0, team := 0, q := 32768, gen := 0, core := 1024 + die, chan := 0, tidx := tidx
              tpl := Tab.get default (vfAt s vf).templates tidx, offset := w 12, dstOff := w 16, origins := [w 20, w 24, w 28]
              batch := 0, done0 := 0, done := 0, run := false, s1root := root, cmd := some (vf, id), order := 0
              failed := none, stall := none, tgen := 0, gone := [], starter := (0, 0), parked := false }
          enterCopy cp (if (Tab.find (vfAt s vf).templates tidx).isNone then some 1 else none) s0)

end Sys2Proof.Machine
end

