-- ==== Sys2Proof/Machine/Lanes.lean ====
section
/-!
DEFINITION. The two views of a lane (06 R162, 01 R15) and the frames of the vector words that compute lane by lane: which
fields of MODE a word reads for its reuse key (02 R61), and the run of the elements of a lane (01 R22).
-/
namespace Sys2Proof.Machine

/-- The integer view of an element type: width, count and signedness (R162). -/
structure View where
  w : Nat
  n : Nat
  signed : Bool
deriving DecidableEq, Repr

/-- The integer view of an ET code. -/
def intView (et : Nat) : View :=
  match et with
  | 1 => { w := 32, n := 1, signed := false }
  | 2 | 7 | 8 => { w := 16, n := 2, signed := true }
  | 3 => { w := 16, n := 2, signed := false }
  | 4 => { w := 8, n := 4, signed := true }
  | 5 => { w := 8, n := 4, signed := false }
  | _ => { w := 32, n := 1, signed := true }

/-- The floating-point view of an ET code, where it has one. -/
def fpView (et : Nat) : Option Fmt :=
  match et with
  | 6 => some .f32
  | 7 => some .h16
  | 8 => some .b16
  | _ => none

/-- Element j of a lane of elements of width w (01 R15). -/
def elemOf (w j : Nat) (x : W32) : Nat := x.toNat / 2 ^ (w * j) % 2 ^ w

/-- A lane from its elements. -/
def packElems (w : Nat) (es : List Nat) : W32 :=
  BitVec.ofNat 32 (es.zipIdx.foldl (fun n e => n + e.1 % 2 ^ w * 2 ^ (w * e.2)) 0)

/-- Compute each element of a lane from the same element of the operands. -/
def mapElems (w : Nat) (f : List Nat → Nat) (xs : List W32) : W32 :=
  packElems w ((List.range (32 / w)).map (fun j => f (xs.map (elemOf w j))))

/-- Run a floating-point effect over the elements of a lane in ascending order: each element is one rounding place where
`rounds` holds (01 R22). -/
def fpElems (w : Nat) (rounds : Bool) (rnd : Nat) (f : Nat → List Nat → Nat × Flags) (xs : List W32) (seed : W32) :
    W32 × Flags × W32 :=
  let r := (List.range (32 / w)).foldl (fun (acc : List Nat × Flags × W32) j =>
    let d := if rounds then drawRound rnd acc.2.2 else (acc.2.2, 0)
    let o := f d.2 (xs.map (elemOf w j))
    (acc.1 ++ [o.1], acc.2.1 ||| o.2, d.1)) ([], 0, seed)
  (packElems w r.1, r.2.1, r.2.2)

/-! ### The MODE fields of a reuse key (02 R61) -/

def maskG : Nat := 0x7
def maskEt : Nat := 0x78
def maskRnd : Nat := 0x380
def maskSat : Nat := 0x400
def maskFtz : Nat := 0x800
def maskNanp : Nat := 0x1000
/-- Every field of MODE. -/
def maskAll : Nat := 0x1FFF

/-- The fields that a word reads. -/
def modeKey (m : W32) (mask : Nat) : Nat := m.toNat &&& mask

/-- The word without its register fields: formats VR (T bits included), and VI, VS and CV with their low eight bits. -/
def keyVR (i : Instr) : Nat := (encode i).toNat / 2 ^ 21
def keyVI (i : Instr) : Nat := (encode i).toNat / 2 ^ 22 * 256 + (encode i).toNat % 256

/-- An eligible vector word of a key. -/
def vform (vd wordBits : Nat) (m : W32) (mask : Nat) (rs cross : Bool) : VecForm :=
  { vd := vd, rs := rs, eligible := true, wordBits := wordBits, modeBits := modeKey m mask, cross := cross }

/-- A lane effect that rounds nothing and raises nothing. -/
def pureLane (f : List W32 → W32) (src : List VReg) (seed : W32) (k : Nat) : W32 × Flags × W32 :=
  (f (src.map (fun r => r.lane k)), 0, seed)

/-- The uses of a VR word: destination, two sources, and VD as third source where the word reads it (06 R166, R171). -/
def usesVR (o : OpVR) (acc : Bool) : List Use :=
  [.vd o.vd.toNat, .vs o.va.toNat o.ta 1, .vs o.vb.toNat o.tb 2] ++ (if acc then [.vs o.vd.toNat false 3] else [])

def usesVR1 (o : OpVR1) : List Use := [.vd o.vd.toNat, .vs o.va.toNat o.ta 1]
def usesVI (o : OpVI) : List Use := [.vd o.vd.toNat, .vs o.va.toNat o.ta 1]

/-- ET names a 32-bit integer and SAT is 0: the shape rules of addition and multiplication apply (02 R50). -/
def plainInt (m : W32) : Bool := decide (modeEt m ≤ 1) && !modeSat m

end Sys2Proof.Machine
end

