-- ==== Sys2Proof/Machine/VecMem.lean ====
section
/-!
DEFINITION. Vector loads and stores, majors 0x27, 0x28 and 0x2A, and the atomics of majors 0x16 and 0x29 (09 R251 to
R258). The model performs every access in one order (log 7), so semantics and scopes order nothing further.
-/
namespace Sys2Proof.Machine

/-! ## Lanes of an access -/

/-- Base plus sign-extended 32-bit offset times a scale, modulo 2^64 (R246). -/
def laneAddr (base : W64) (off : W32) (scale : Nat) : Nat := (base + off.signExtend 64 * BitVec.ofNat 64 scale).toNat

/-- The acting live slots with their addresses, in ascending order. -/
def liveLanes (g : Group) (addr : Nat → Nat) : List (Nat × Nat) :=
  ((List.range 32).filter (fun k => g.actLive.getLsbD k)).map (fun k => (k, addr k))

/-- The checks of a vector access over its acting live slots, its watchpoints, and the walks that it made (R226). -/
def vecAccess (s : State) (a : Acc) (read watchWrite : Bool) (lanes : List (Nat × Nat)) :
    Except Res (List (Nat × List (Nat × Nat)) × State) :=
  let e := envOf s s.qid
  match checkLanes s e s.me.failPages a lanes with
  | .error f => .error (failRes s e f)
  | .ok ps =>
    match watchHit s s.qid read watchWrite a.size lanes with
    | some info => .error (.trap s tWatch info)
    | none =>
      .ok (ps.filterMap (fun p => match p.2 with
          | .bytes parts _ => some (p.1, parts)
          | _ => none),
        addTlbs (dieOf s.qid) (ps.flatMap (fun p => match p.2 with
          | .bytes _ ts => ts
          | _ => [])) s)

/-- What a helper slot of a load reads: FILL where its address fails a check (R251). -/
def helperRead (s : State) (a : Acc) (va : Nat) : Option (List (Nat × Nat)) :=
  match checkLane s (envOf s s.qid) s.me.failPages a 0 va with
  | .ok (.bytes ps _) => some ps
  | _ => none

/-- TINFO of bad data under a lane (19 R414). -/
def badInfo (s : State) (slot va : Nat) (parts : List (Nat × Nat)) : Option W64 :=
  (partsBad s parts).map (fun d => BitVec.ofNat 64 (accessInfo false false slot va d))

/-- How a lane value is extended (R251): the size in bytes and whether it is sign-extended. -/
def extendLane (size : Nat) (signed : Bool) (bs : List Byte) : W32 :=
  let v := leNat bs
  BitVec.ofNat 32 (if signed then intBits' (8 * size) v else v)
where
  /-- The 32-bit pattern of a w-bit two's-complement value. -/
  intBits' (w v : Nat) : Nat := if 2 ^ (w - 1) ≤ v then v + 2 ^ 32 - 2 ^ w else v

/-! ## Loads -/

/-- Key of a plain load (02 R61, R64), where the word is eligible: the guard covers every live slot and no helper. -/
def loadKey (s : State) (wordBits modeBits : Nat) (base : W64) (off : List VReg) : Option (List Nat) :=
  let g := s.me
  if g.reusable then
    some ([wordBits, modeBits, g.liveMask.toNat, base.toNat] ++ off.flatMap VReg.keyName
      ++ [g.team, s.myTeam.memGen.toNat])
  else none

/-- A load that hits the reuse table retires with the recorded value (02 R63). -/
def loadHit (s : State) (key : Option (List Nat)) (delivers : VReg → Bool) : Option ReuseRec :=
  key.bind (fun k => findRecord s k delivers)

/-- A register that a hit fills takes the record's mark of bad data (19 R414). -/
def markV (n : Nat) (bad : Option W64) (s : State) : State :=
  match bad with
  | some i => modMe (fun g => { g with badV := Tab.set g.badV n i }) s
  | none => s
def markS (n : Nat) (bad : Option W64) (s : State) : State :=
  match bad with
  | some i => if n = 0 then s else modMe (fun g => { g with badS := Tab.set g.badS n i }) s
  | none => s

/-- Mark a vector destination empty and enter its return; a write port takes the vector at once. -/
def vecReturn (vd : Nat) (mask : W32) (cover : Bool) (lanes : List W32) (bad : Option W64) (key : Option (List Nat))
    (s : State) : State :=
  if 112 ≤ vd then modMe (fun g => g.pushPort vd lanes (mask &&& g.liveMask)) s
  else if mask = 0 then s
  else modMe (Group.emptyV vd) (addReturn [.vector vd mask cover lanes bad] key s)

/-- The performing part of a vector load. -/
def vecLoad (vd size : Nat) (signed ordered : Bool) (key : Option (List Nat)) (addr : Nat → Nat) (s : State) : Res :=
  let g := s.me
  let a : Acc := { size := size, write := false, atomic := ordered, vector := true }
  let lanes := liveLanes g addr
  match vecAccess s a true false lanes with
  | .error r => r
  | .ok (ps, s1) =>
    let value (k : Nat) : W32 :=
      match ps.find? (fun p => p.1 == k) with
      | some p => extendLane size signed (readParts s1 g.vf p.2)
      | none =>
        if g.guardMask.getLsbD k then
          match helperRead s1 a (addr k) with
          | some parts => extendLane size signed (readParts s1 g.vf parts)
          | none => g.fill
        else 0
    let bad := (ps.filterMap (fun p => badInfo s1 p.1 (addr p.1) p.2)).head?
    let s2 := if ordered then memGenMe s1 else s1
    .done (vecReturn vd g.guardMask g.covers ((List.range 32).map value) bad key s2) .seq

/-- The frame of a plain vector load of format VM. -/
def vmLoad (i : Instr) (uses : List Use) (vd sb size : Nat) (signed : Bool) (addr : W64 → List VReg → Nat → Nat)
    (s : State) : Out :=
  wordG i uses s (fun s src =>
    let g := s.me
    let base := g.readS sb
    let key := if uses.any (fun u => match u with | .vs n _ _ | .vd n => decide (112 ≤ n) | _ => false) then none
      else loadKey s ((encode i).toNat / 2 ^ 23 * 8 + (encode i).toNat % 8) (modeKey g.mode maskG) base src
    match loadHit s key ((g.vreg vd).keeps g.guardMask) with
    | some x => .done (countMe evReuse 1 (markV vd x.bad (putNamed vd x.result s))) .seq
    | none => vecLoad vd size signed false key (addr base src) s)

/-- Address of slot k for the members with a scaled offset, and for the quad members (R246). -/
def scaledAddr (sc : Nat) (base : W64) (src : List VReg) (k : Nat) : Nat :=
  laneAddr base ((src.getD 0 (.uniform 0)).lane k) (2 ^ sc)
def quadAddr (sc : Nat) (base : W64) (src : List VReg) (k : Nat) : Nat :=
  (laneAddr base ((src.getD 0 (.uniform 0)).lane (k / 4 * 4)) (2 ^ sc) + 4 * (k % 4)) % 2 ^ 64

def usesLoad (o : OpVM) : List Use := [.vd o.vd.toNat, .ss o.sb.toNat false 2, .vs o.vo.toNat o.t 1]

def execVldw (o : OpVM) (s : State) : Out :=
  vmLoad (.vldw o) (usesLoad o) o.vd.toNat o.sb.toNat 4 false (scaledAddr o.sc.toNat) s
def execVldh (o : OpVM) (s : State) : Out :=
  vmLoad (.vldh o) (usesLoad o) o.vd.toNat o.sb.toNat 2 true (scaledAddr o.sc.toNat) s
def execVldhz (o : OpVM) (s : State) : Out :=
  vmLoad (.vldhz o) (usesLoad o) o.vd.toNat o.sb.toNat 2 false (scaledAddr o.sc.toNat) s
def execVldb (o : OpVM) (s : State) : Out :=
  vmLoad (.vldb o) (usesLoad o) o.vd.toNat o.sb.toNat 1 true (scaledAddr o.sc.toNat) s
def execVldbz (o : OpVM) (s : State) : Out :=
  vmLoad (.vldbz o) (usesLoad o) o.vd.toNat o.sb.toNat 1 false (scaledAddr o.sc.toNat) s
def execVldu (o : OpVLdu) (s : State) : Out :=
  vmLoad (.vldu o) [.vd o.vd.toNat, .ss o.sb.toNat false 2] o.vd.toNat o.sb.toNat 4 false
    (fun base _ k => (base + BitVec.ofNat 64 (4 * k)).toNat) s
def execVldq (o : OpVM) (s : State) : Out :=
  vmLoad (.vldq o) (usesLoad o) o.vd.toNat o.sb.toNat 4 false (quadAddr o.sc.toNat) s

/-! ## Stores -/

/-- The performing part of a vector store: lanes in ascending slot order, so the highest slot's value remains (R227). -/
def vecStore (size : Nat) (ordered : Bool) (data : VReg) (addr : Nat → Nat) (s : State) : Res :=
  let g := s.me
  match vecAccess s { size := size, write := true, atomic := ordered, vector := true } false true (liveLanes g addr) with
  | .error r => r
  | .ok (ps, s1) =>
    .done (memGenMe (ps.foldl (fun t p => writeParts g.vf p.2 (leBytes size (data.lane p.1).toNat) t) s1)) .seq

/-- The frame of a vector store of format VM. VD is a source under T. -/
def vmStore (i : Instr) (o : OpVM) (size : Nat) (addr : W64 → List VReg → Nat → Nat) (s : State) : Out :=
  wordG i [.vs o.vd.toNat o.t 0, .ss o.sb.toNat false 2, .vs o.vo.toNat o.t 1] s (fun s src =>
    vecStore size false (src.getD 0 (.uniform 0)) (addr (s.me.readS o.sb.toNat) (src.drop 1)) s)

def execVstw (o : OpVM) (s : State) : Out := vmStore (.vstw o) o 4 (scaledAddr o.sc.toNat) s
def execVsth (o : OpVM) (s : State) : Out := vmStore (.vsth o) o 2 (scaledAddr o.sc.toNat) s
def execVstb (o : OpVM) (s : State) : Out := vmStore (.vstb o) o 1 (scaledAddr o.sc.toNat) s
def execVstq (o : OpVM) (s : State) : Out := vmStore (.vstq o) o 4 (quadAddr o.sc.toNat) s

/-! ## Ordered vector accesses (R258) -/

/-- SCOPE_DENIED of an instruction at a scope (08 R225), else its body. Of its TINFO only W may be 1 (09 R247, R248). -/
def atScope (scp : Nat) (write : Bool) (s : State) (body : Res) : Res :=
  if scopeDenied s s.me.vf scp then .trap s tScopeDenied (accessInfo false write 0 0 0) else body

def execVlda (o : OpVO) (s : State) : Out :=
  wordG (.vlda o) [.vd o.vd.toNat, .ss o.sb.toNat false 2, .vs o.vo.toNat false 1] s (fun s src =>
    atScope o.scp.toNat false s (vecLoad o.vd.toNat 4 false true none (scaledAddr 0 (s.me.readS o.sb.toNat) src) s))

def execVstl (o : OpVO) (s : State) : Out :=
  wordG (.vstl o) [.vs o.vd.toNat false 0, .ss o.sb.toNat false 2, .vs o.vo.toNat false 1] s (fun s src =>
    atScope o.scp.toNat true s
      (vecStore 4 true (src.getD 0 (.uniform 0)) (scaledAddr 0 (s.me.readS o.sb.toNat) (src.drop 1)) s))

/-! ## Atomics (R254 to R257) -/

/-- The new value of memory of a w-bit atomic (R254): operation, old value, operand, compare value. -/
def atomicNew (w op m v c : Nat) : Nat :=
  let sg (x : Nat) : Int := intValue true w x
  match op with
  | 0 => (m + v) % 2 ^ w
  | 1 => m &&& v
  | 2 => m ||| v
  | 3 => m ^^^ v
  | 4 => if sg m ≤ sg v then m else v
  | 5 => if sg m ≤ sg v then v else m
  | 6 => min m v
  | 7 => max m v
  | 8 => v
  | 9 => if m = c then v else m
  | 10 => (fpAdd .f32 { rnd := 1, sat := false, ftz := false, nanp := false } 0 m v).1
  | 11 => m
  | _ => v

/-- The operation writes memory; it returns the old value. -/
def atomicWrites (op : Nat) : Bool := op != 11
def atomicReturns (op : Nat) : Bool := op != 12

/-- One lane of an atomic: one access of the read with the write. The old value and the state after it. -/
def atomicLane (vf size op v c : Nat) (parts : List (Nat × Nat)) (s : State) : Nat × State :=
  let m := leNat (readParts s vf parts)
  (m, if atomicWrites op then writeParts vf parts (leBytes size (atomicNew (8 * size) op m v c)) s else s)

/-- The frame of a scalar atomic, codes as in the vector order of R254. `sd` is the destination and compare register. -/
def satomWord (i : Instr) (uses : List Use) (op scp sd sa sb : Nat) (s : State) : Out :=
  wordG i uses s (fun s _ =>
    let g := s.me
    atScope scp (atomicWrites op) s
      (let va := (g.readS sa).toNat
       let a : Acc := { size := 8, write := atomicWrites op, atomic := true, vector := false }
       let e := envOf s s.qid
       match checkLane s e g.failPages a 0 va with
       | .error f => failRes s e f
       | .ok (.bytes parts ts) =>
         (match watchHit s s.qid true true 8 [(0, va)] with
          | some info => .trap s tWatch info
          | none =>
            let s1 := addTlbs (dieOf s.qid) ts s
            let bad := badInfo s1 0 va parts
            let r := atomicLane g.vf 8 op (g.readS sb).toNat (g.readS sd).toNat parts s1
            let s2 := memGenMe r.2
            if atomicReturns op && sd != 0 then
              .done (modMe (Group.emptyS sd) (addReturn [.scalar sd (BitVec.ofNat 64 r.1) bad] none s2)) .seq
            else .done s2 .seq)
       | .ok _ => .trap s tPerm (accessInfo false true 0 va 4)))

/-- The uses of a scalar atomic with an operand; `cmp` says that SD is the compare value. -/
def usesSA (o : OpSA) (cmp : Bool) : List Use :=
  [.ss o.sa.toNat false 1, .ss o.sb.toNat false 2] ++ (if cmp then [.ss o.sd.toNat false 0] else []) ++ [.sd o.sd.toNat]

def satomOp (i : Instr) (o : OpSA) (op : Nat) (s : State) : Out :=
  satomWord i (usesSA o (op == 9)) op o.scp.toNat o.sd.toNat o.sa.toNat o.sb.toNat s

def execSatomAdd (o : OpSA) (s : State) : Out := satomOp (.satomAdd o) o 0 s
def execSatomAnd (o : OpSA) (s : State) : Out := satomOp (.satomAnd o) o 1 s
def execSatomOr (o : OpSA) (s : State) : Out := satomOp (.satomOr o) o 2 s
def execSatomXor (o : OpSA) (s : State) : Out := satomOp (.satomXor o) o 3 s
def execSatomMin (o : OpSA) (s : State) : Out := satomOp (.satomMin o) o 4 s
def execSatomMax (o : OpSA) (s : State) : Out := satomOp (.satomMax o) o 5 s
def execSatomMinz (o : OpSA) (s : State) : Out := satomOp (.satomMinz o) o 6 s
def execSatomMaxz (o : OpSA) (s : State) : Out := satomOp (.satomMaxz o) o 7 s
def execSatomXchg (o : OpSA) (s : State) : Out := satomOp (.satomXchg o) o 8 s
def execSatomCas (o : OpSA) (s : State) : Out := satomOp (.satomCas o) o 9 s
def execSatomLd (o : OpSALd) (s : State) : Out :=
  satomWord (.satomLd o) [.ss o.sa.toNat false 1, .sd o.sd.toNat] 11 o.scp.toNat o.sd.toNat o.sa.toNat 0 s
def execSatomSt (o : OpSASt) (s : State) : Out :=
  satomWord (.satomSt o) [.ss o.sa.toNat false 1, .ss o.sb.toNat false 2] 12 o.scp.toNat 0 o.sa.toNat o.sb.toNat s

/-- The lanes of a vector atomic in ascending slot order: the old value of each. -/
def vatomLanes (vf op : Nat) (v c : Nat → W32) :
    List (Nat × List (Nat × Nat)) → List (Nat × Nat) × State → List (Nat × Nat) × State
  | [], acc => acc
  | (k, parts) :: rest, (old, s) =>
    let r := atomicLane vf 4 op (v k).toNat (c k).toNat parts s
    vatomLanes vf op v c rest (old ++ [(k, r.1)], r.2)

/-- The frame of a vector atomic. `data` and `cmp` are the operand and compare registers among the sources. -/
def vatomWord (i : Instr) (o : OpAT) (uses : List Use) (op : Nat) (data cmp : List VReg → VReg) (off : List VReg → VReg)
    (s : State) : Out :=
  wordG i uses s (fun s src =>
    let g := s.me
    atScope o.scp.toNat (atomicWrites op) s
      (let base := g.readS o.sbx.toNat
       let addr (k : Nat) : Nat := laneAddr base ((off src).lane k) 1
       let lanes := liveLanes g addr
       match vecAccess s { size := 4, write := atomicWrites op, atomic := true, vector := true } true true lanes with
       | .error r => r
       | .ok (ps, s1) =>
         let bad := (ps.filterMap (fun p => badInfo s1 p.1 (addr p.1) p.2)).head?
         let r := vatomLanes g.vf op (data src).lane (cmp src).lane ps ([], s1)
         let s2 := memGenMe r.2
         if atomicReturns op then
           .done (vecReturn o.vd.toNat g.actLive g.covers
             ((List.range 32).map (fun k => BitVec.ofNat 32 ((r.1.find? (fun p => p.1 == k)).getD (k, 0)).2)) bad none s2) .seq
         else .done s2 .seq))

/-- The uses of a vector atomic whose VD is both operand and destination. -/
def usesAT (o : OpAT) : List Use :=
  [.vd o.vd.toNat, .vs o.vd.toNat false 0, .ss o.sbx.toNat false 2, .vs o.vo.toNat false 1]

def srcAt (n : Nat) (src : List VReg) : VReg := src.getD n (.uniform 0)

def vatomOp (i : Instr) (o : OpAT) (op : Nat) (s : State) : Out :=
  vatomWord i o (usesAT o) op (srcAt 0) (srcAt 0) (srcAt 1) s

def execVatomAdd (o : OpAT) (s : State) : Out := vatomOp (.vatomAdd o) o 0 s
def execVatomAnd (o : OpAT) (s : State) : Out := vatomOp (.vatomAnd o) o 1 s
def execVatomOr (o : OpAT) (s : State) : Out := vatomOp (.vatomOr o) o 2 s
def execVatomXor (o : OpAT) (s : State) : Out := vatomOp (.vatomXor o) o 3 s
def execVatomMin (o : OpAT) (s : State) : Out := vatomOp (.vatomMin o) o 4 s
def execVatomMax (o : OpAT) (s : State) : Out := vatomOp (.vatomMax o) o 5 s
def execVatomMinz (o : OpAT) (s : State) : Out := vatomOp (.vatomMinz o) o 6 s
def execVatomMaxz (o : OpAT) (s : State) : Out := vatomOp (.vatomMaxz o) o 7 s
def execVatomXchg (o : OpAT) (s : State) : Out := vatomOp (.vatomXchg o) o 8 s
def execVatomCas (o : OpAT) (s : State) : Out :=
  vatomWord (.vatomCas o) o
    [.vd o.vd.toNat, .vs o.vd.toNat false 0, .vs (o.vd.toNat + 1) false 0, .ss o.sbx.toNat false 2, .vs o.vo.toNat false 1] 9
    (srcAt 1) (srcAt 0) (srcAt 2) s
def execVatomFadd (o : OpAT) (s : State) : Out := vatomOp (.vatomFadd o) o 10 s
def execVatomLd (o : OpAT) (s : State) : Out :=
  vatomWord (.vatomLd o) o [.vd o.vd.toNat, .ss o.sbx.toNat false 2, .vs o.vo.toNat false 1] 11
    (srcAt 0) (srcAt 0) (srcAt 0) s
def execVatomSt (o : OpAT) (s : State) : Out :=
  vatomWord (.vatomSt o) o [.vs o.vd.toNat false 0, .ss o.sbx.toNat false 2, .vs o.vo.toNat false 1] 12
    (srcAt 0) (srcAt 0) (srcAt 1) s

end Sys2Proof.Machine
end

