-- ==== Sys2Proof/Machine/Sync.lean ====
section
/-!
DEFINITION. Fences, team barriers, sharing groups and streams, majors 0x2B and 0x2C, with their events (09 R259 to R268,
07 R210 to R212).
-/
namespace Sys2Proof.Machine

/-! ## Fences (R259) -/

/-- A fence orders accesses, which the model performs in one order (log 7), and advances MEMGEN (02 R65). -/
def execFence (o : OpFence) (s : State) : Out :=
  wordG (.fence o) [] s (fun s _ => atScope o.scp.toNat false s (.done (memGenMe s) .seq))

/-! ## Team barriers (R260, R261) -/

/-- A barrier of a team; at launch it expects every group. -/
def Team.barrier (t : Team) (id : Nat) : Barrier := Tab.get { expect := t.groups, arrived := 0, phase := 0 } t.barriers id

/-- The executing group arrives. -/
def barArrive (id : Nat) (s : State) : State :=
  let k := s.me.team
  let b := s.myTeam.barrier id
  let full := b.arrived + 1 == b.expect
  let b' : Barrier := if full then { b with arrived := 0, phase := b.phase + 1 } else { b with arrived := b.arrived + 1 }
  let s1 := modTeam k (fun t => { t with barriers := Tab.set t.barriers id b' })
    (modMe (fun g => { g with bars := Tab.set g.bars id { phase := b.phase, unmatched := true } }) s)
  if full then bumpMemGen k s1 else s1

/-- The executing group waits for the phase of its last arrival to end; none while it goes on. -/
def barLeave (id : Nat) (s : State) : Option State :=
  let m := Tab.get { phase := 0, unmatched := false } s.me.bars id
  if m.unmatched && (s.myTeam.barrier id).phase == m.phase then none
  else some (modMe (fun g => { g with bars := Tab.set g.bars id { m with unmatched := false } }) s)

def tryBarw (o : OpBar) (b : Blocked) (s : State) : Res :=
  match barLeave o.id.toNat s with
  | some t => .done t .seq
  | none => .wait s b

/-- BAR. A BAR whose arrival has counted before a stop acts as BARW alone (05 R130). -/
def execBar (o : OpBar) (s : State) : Out :=
  wordG (.bar o) [] s (fun s _ =>
    if s.me.barHalf then tryBarw o (.bar o) s else tryBarw o (.bar o) (barArrive o.id.toNat s))

def execBara (o : OpBar) (s : State) : Out := wordG (.bara o) [] s (fun s _ => .done (barArrive o.id.toNat s) .seq)
def execBarw (o : OpBar) (s : State) : Out := wordG (.barw o) [] s (fun s _ => tryBarw o (.barw o) s)

def execBarrierPhaseWake (q : Nat) (s : State) : Out :=
  wakeWord "BARRIER_PHASE_WAKE" q s (fun b => match b with
    | .bar o => some (tryBarw o b)
    | .barw o => some (tryBarw o b)
    | _ => none)

/-- BARINIT sets the expected count once nobody has arrived. -/
def tryBarinit (o : OpBarInit) (s : State) : Res :=
  let b := s.myTeam.barrier o.id.toNat
  if b.arrived = 0 then
    .done (modTeam s.me.team (fun t =>
      { t with barriers := Tab.set t.barriers o.id.toNat { b with expect := (s.me.readS o.sa.toNat).toNat } }) s) .seq
  else .wait s (.barinit o)

def execBarinit (o : OpBarInit) (s : State) : Out :=
  wordG (.barinit o) [.ss o.sa.toNat false 1] s (fun s _ =>
    let n := (s.me.readS o.sa.toNat).toNat
    if n = 0 ∨ 16 < n then badOperand (.barinit o) o.sa.toNat s else tryBarinit o s)

def execBarinitResume (q : Nat) (s : State) : Out :=
  wakeWord "BARINIT_RESUME" q s (fun b => match b with
    | .barinit o => some (tryBarinit o)
    | _ => none)

/-! ## Sharing groups (R262, R263, 07 R210 to R212) -/

/-- Member numbers held in the sharing group of a key beside a team's cluster and VF. A restore under way keeps those of the members of
its groups that still stand in folios (07 R213, log 74). -/
def heldMembers (s : State) (t : Team) (key : W64) : BitVec 16 :=
  let saved := (savedMembers s t.vf).filter (fun m => m.key == key && m.goesTo (vfAt s t.vf).ctx.homes (t.core / 4))
  s.teams.foldl (fun m e => match e.2.share with
    | some o => if e.2.vf == t.vf && e.2.core / 4 == t.core / 4 && o.key == key then
        m ||| BitVec.ofNat 16 (2 ^ o.member) else m
    | none => m) (saved.foldl (fun m x => m ||| BitVec.ofNat 16 (2 ^ x.number)) 0)

/-- The membership after CJOIN with its member number, or none where the join fails. -/
def joinShare (s : State) (t : Team) (key : W64) (exposure : Nat) : Option Share :=
  let held := heldMembers s t key
  match t.share with
  | some sh => if sh.key == key then some { sh with view := held, exposure := exposure } else none
  | none =>
    match (List.range 16).find? (fun m => !held.getLsbD m) with
    | some m => some { key := key, member := m, view := held ||| BitVec.ofNat 16 (2 ^ m), exposure := exposure }
    | none => none

def execCjoin (o : OpCJoin) (s : State) : Out :=
  wordG (.cjoin o) [.ss o.sa.toNat false 1, .sd o.sd.toNat] s (fun s _ =>
    match joinShare s s.myTeam (s.me.readS o.sa.toNat) o.exp.toNat with
    | some sh =>
      .done (memGenMe (putS o.sd.toNat (BitVec.ofNat 64 sh.member)
        (modTeam s.me.team (fun t => { t with share := some sh }) s))) .seq
    | none => .done (memGenMe (putS o.sd.toNat (-1) s)) .seq)

/-- A range lock of any core touches a page of a team's scratchpad, of the page indexes in a list. -/
def pagesLocked (s : State) (t : Team) (idx : List Nat) : Bool :=
  let lines := idx.filterMap (fun i => (scratchPa t (i * 0x400)).map (· / 64))
  s.cores.any (fun c => c.2.locks.any (fun l => lines.any (fun n => decide (l.2.lo < n + 16) && decide (n ≤ l.2.hi))))

/-- CLEAVE leaves once no lock lies on the team's window. -/
def tryCleave (s : State) : Res :=
  let t := s.myTeam
  match t.share with
  | none => .done (memGenMe s) .seq
  | some _ =>
    if pagesLocked s t (List.range t.pages.length) then .wait s .cleave
    else .done (memGenMe (leaveShare s.me.team s)) .seq

def execCleave (s : State) : Out := wordG .cleave [] s (fun s _ => tryCleave s)

/-! ## Streams (R264 to R268) -/

/-- The open ports of the groups of a partition. -/
def openPorts (s : State) (q : Nat) : Nat :=
  (s.groups.filter (fun e => e.1 / 16 == q / 16)).foldl (fun n e => n + e.2.ports.length) 0

/-- A port's pending fault as a trap of the executing group; the fault is forgotten. -/
def portTrap (n : Nat) (f : AccessFault) (s : State) : Res :=
  .trap (modMe (fun g => { g with ports := g.ports.map (fun e =>
      if e.1 = n then (e.1, { e.2 with fault := none }) else e) }) s)
    f.code.toNat (accessInfo f.lockWrite f.write f.slot f.va.toNat f.detail.toNat)

/-- What a drain of a port still waits for: its fault, or its writes. -/
inductive DrainState where
  | empty | busy
  | fault (f : AccessFault)

def drainState (g : Group) (n : Nat) : DrainState :=
  match Tab.find g.ports n with
  | none => .empty
  | some p =>
    if n < 120 then .empty
    else match p.fault with
      | some f => .fault f
      | none => if p.buffer.isEmpty then .empty else .busy

/-- Drain ports in ascending order: the first fault is taken, and any pending write is waited for. -/
def drainPorts (ns : List Nat) (b : Blocked) (s : State) (done : State → Res) : Res :=
  match ns.find? (fun n => match drainState s.me n with | .fault _ => true | _ => false) with
  | some n =>
    (match drainState s.me n with
      | .fault f => portTrap n f s
      | _ => .wait s b)
  | none =>
    if ns.any (fun n => match drainState s.me n with | .busy => true | _ => false) then .wait s b else done s

/-- The write ports that SDRAIN names: one, or all for PORT 0. -/
def drainNames (port : Nat) : List Nat := if port = 0 then (List.range 8).map (· + 120) else [port]

def trySdrain (o : OpPort) (s : State) : Res :=
  drainPorts (drainNames o.port.toNat) (.sdrain o) s (fun s => .done (memGenMe s) .seq)

def execSdrain (o : OpPort) (s : State) : Out := wordG (.sdrain o) [] s (fun s _ => trySdrain o s)

/-- Close a port and free its context. -/
def closePort (n : Nat) (s : State) : State := modMe (fun g => { g with ports := Tab.del g.ports n }) s

/-- A port closes: a write port drains first, which advances MEMGEN (02 R65). A port that is not open is left alone (R268). -/
def closeThen (n : Nat) (b : Blocked) (s : State) (done : State → Res) : Res :=
  if (Tab.find s.me.ports n).isNone then done s
  else if n < 120 then done (closePort n s)
  else drainPorts [n] b s (fun s => done (memGenMe (closePort n s)))

def trySclose (o : OpPort) (s : State) : Res := closeThen o.port.toNat (.sclose o) s (fun s => .done s .seq)

def execSclose (o : OpPort) (s : State) : Out := wordG (.sclose o) [] s (fun s _ => trySclose o s)

def execSdrainDone (q : Nat) (s : State) : Out :=
  wakeWord "SDRAIN_DONE" q s (fun b => match b with
    | .sdrain o => some (trySdrain o)
    | .sclose o => some (trySclose o)
    | _ => none)

/-- Read a 64-byte record at an address operand, which must be 64-byte aligned: the record, or how the word ends. -/
def readRecord64 (va : Nat) (s : State) : Except Res (BitVec 512 × State) :=
  if va % 64 ≠ 0 then .error (.trap s tAlign (accessInfo false false 0 va 6))
  else match access s { size := 64, write := false, atomic := false, vector := true } true va with
    | .error r => .error r
    | .ok (.bytes ps _, s1) =>
      (match partsBad s1 ps with
        | some d => .error (.trap s1 tDataErr (accessInfo false false 0 va d))
        | none => .ok (BitVec.ofNat 512 (leNat (readParts s1 s.me.vf ps)), s1))
    | .ok (_, s1) => .error (.trap s1 tPerm (accessInfo false false 0 va 4))

/-- SOPEN (R265). A port that is open closes first, as by SCLOSE. -/
def execSopen (o : OpSOpen) (s : State) : Out :=
  wordG (.sopen o) [.ss o.sa.toNat false 1] s (fun s _ =>
    let n := o.port.toNat
    match readRecord64 (s.me.readS o.sa.toNat).toNat s with
    | .error r => r
    | .ok (rec', s1) =>
      if !tlrValid rec' then badOperand (.sopen o) o.sa.toNat s1
      else closeThen n (.port n) s1 (fun s2 =>
        if 32 ≤ openPorts s2 s2.qid then .done (modMe (Group.writePraw 7 0) s2) .seq
        else .done (modMe (fun g => { g.writePraw 7 g.liveMask with
            ports := Tab.set g.ports n { tlr := rec', pos := 0, buffer := [], fault := none } }) s2) .seq))

/-- How an element access of a stream fails: a fault that is reported later, a wait on a lock or on a held die, or a demand fault
with the fault that its answer FAIL makes of it (R266, R267, 08 R241, 14 R359, 19 R415). -/
inductive StreamPlace where
  | fault (f : AccessFault)
  | locked
  | demand (stage page : Nat) (f : AccessFault)

/-- Resolve an element of a stream of the group in a slot; the model takes it by its first byte and its line pieces. -/
def streamPlace (s : State) (q : Nat) (write : Bool) (slot va size : Nat) : List (Nat × Nat) → Except StreamPlace (List (Nat × Nat))
  | [] => .ok []
  | (a, n) :: rest =>
    let g := groupAt s q
    let e := envOfTeam s g.team
    let bad (code d : Nat) : AccessFault :=
      { code := BitVec.ofNat 8 code, detail := BitVec.ofNat 6 d, write := write, slot := slot, va := BitVec.ofNat 64 a
        lockWrite := false }
    match resolve s e (if write then .write else .read) a with
    | .fail _ code d => .error (.fault (bad code d))
    | .aperture _ => .error (.fault (bad tPerm 4))
    | .mmio _ => .error (.fault (bad tPerm 5))
    | .demand st p => .error (.demand st p (bad tPage (st - 1)))
    | .held => .error .locked
    | .mem pa _ =>
      if fabricDenied s e.vf pa then .error (.fault (bad tPerm 1))
      else if (threadLock s e.core pa write).isSome then .error .locked
      else match streamPlace s q write slot va size rest with
        | .ok ps => .ok ((pa, n) :: ps)
        | .error f => .error f

/-- One element of a read: its value, or FILL in the margin. -/
def streamRead (s : State) (q : Nat) (t : BitVec 512) (slot k : Nat) : Except StreamPlace (Option W32) :=
  if tlrElems t ≤ k then .ok none
  else match tlrElem t [] k with
    | none => .ok none
    | some va =>
      match streamPlace s q false slot va (tlrBytes t) (linePieces va (tlrBytes t)) with
      | .error f => .error f
      | .ok ps =>
        match partsBad s ps with
        | some d => .error (.fault { code := BitVec.ofNat 8 tDataErr, detail := BitVec.ofNat 6 d, write := false,
                                     slot := slot, va := BitVec.ofNat 64 va, lockWrite := false })
        | none => .ok (some (BitVec.ofNat 32 (leNat (readParts s (groupAt s q).vf ps))))

/-- The 32 elements of a vector in slot order. -/
def streamVector (s : State) (q : Nat) (t : BitVec 512) (k : Nat) : Nat → Except StreamPlace (List (Option W32))
  | 0 => .ok []
  | n + 1 =>
    match streamVector s q t k n with
    | .error f => .error f
    | .ok vs =>
      match streamRead s q t n (32 * k + n) with
      | .error f => .error f
      | .ok v => .ok (vs ++ [v])

/-- Change an open port of the group in a slot. -/
def modPort (q n : Nat) (f : Port → Port) (s : State) : State :=
  modGroup q (fun g => match Tab.find g.ports n with
    | some p => { g with ports := Tab.set g.ports n (f p) }
    | none => g) s

/-- A port stalls on a demand fault (14 R359). -/
def stallPort (q n stage page : Nat) (f : AccessFault) (s : State) : State :=
  raiseDemand (envOfTeam s (groupAt s q).team) stage page (modPort q n (fun p => { p with stall := some (stage, page, f) }) s)

/-- STREAM_READ_FILL: the engine reads the next vector of an open read port, up to four ahead (R266). -/
def execStreamReadFill (q port : Nat) (s : State) : Out :=
  event "STREAM_READ_FILL"
    (match Tab.find (groupAt s q).ports port with
      | none => none
      | some p =>
        let k := p.pos + p.buffer.length
        if 120 ≤ port || 4 ≤ p.buffer.length || p.fault.isSome || p.stall.isSome || tlrElems p.tlr ≤ 32 * k || (dieAt s (dieOf q)).held then none
        else match streamVector s q p.tlr k 32 with
          | .ok vs =>
            some (unblock q (modPort q port (fun p => { p with
              buffer := p.buffer ++ [(vs.map (fun v => v.getD 0), maskOf (fun j => (vs.getD j none).isNone))] }) s))
          | .error (.fault f) => some (unblock q (modPort q port (fun p => { p with fault := some f }) s))
          | .error (.demand st pg f) => some (stallPort q port st pg f s)
          | .error .locked => none)

/-- Write the elements of a buffered vector in slot order: the state, and the first failing slot. -/
def streamStore (q : Nat) (t : BitVec 512) (k : Nat) (vals : List W32) (mask : W32) : Nat → State → State × Option (Nat × StreamPlace)
  | 0, s => (s, none)
  | n + 1, s =>
    match streamStore q t k vals mask n s with
    | (s1, some f) => (s1, some f)
    | (s1, none) =>
      let idx := 32 * k + n
      if !mask.getLsbD n || decide (tlrElems t ≤ idx) then (s1, none)
      else match tlrElem t [] idx with
        | none => (s1, none)
        | some va =>
          match streamPlace s1 q true n va (tlrBytes t) (linePieces va (tlrBytes t)) with
          | .error f => (s1, some (n, f))
          | .ok ps =>
            let v := (vals.getD n 0).toNat + (if tlrBytes t = 8 then
              (Config.freeW64 s.free (7000 + idx)).toNat % 2 ^ 32 * 2 ^ 32 else 0)
            (writeParts (groupAt s1 q).vf ps (leBytes (tlrBytes t) v) s1, none)

/-- STREAM_WRITE_PERFORM: the oldest vector of a write port is written; a failing element waits for the next SDRAIN or
SCLOSE, with the elements not yet written (R267). The upper word of a 64-bit element is free (log 4). -/
def execStreamWritePerform (q port : Nat) (s : State) : Out :=
  event "STREAM_WRITE_PERFORM"
    (match Tab.find (groupAt s q).ports port with
      | none => none
      | some p =>
        match p.buffer with
        | [] => none
        | (vals, mask) :: rest =>
          if port < 120 || p.fault.isSome || p.stall.isSome || (dieAt s (dieOf q)).held then none
          else match streamStore q p.tlr p.pos vals mask 32 s with
            | (s1, none) => some (unblock q (modPort q port (fun p => { p with pos := p.pos + 1, buffer := rest }) s1))
            | (s1, some (n, f)) =>
              let left := maskOf (fun j => mask.getLsbD j && decide (n ≤ j))
              let s2 := modPort q port (fun p => { p with buffer := (vals, left) :: rest }) s1
              match f with
              | .fault a => some (unblock q (modPort q port (fun p => { p with fault := some a }) s2))
              | .demand st pg a => some (stallPort q port st pg a s2)
              | .locked => if left = mask then none else some s2)

end Sys2Proof.Machine
end

