-- ==== Sys2Proof/Machine/Allot.lean ====
section
/-!
DEFINITION. Allotment, major 0x2E, with its grants, its refusals on deadlock and the waits for locks (11 R308 to R313; 10
R285, R296, R297; 02 R38, R60; 07 R212).
-/
namespace Sys2Proof.Machine

/-! ## What is free (R310, 07 R197) -/

/-- Teams resident on a core. -/
def coreTeams (s : State) (c : Nat) : List (Nat × Team) := s.teams.filter (fun e => e.2.core == c)

/-- CRS reservations of a core that no team holds (02 R60). -/
def freeRegs (s : State) (c : Nat) : Nat :=
  Config.crsEntries - (coreTeams s c).foldl (fun n e => n + e.2.groups * (64 + e.2.vext)) 0

/-- Scratchpad pages of a core that no team holds. -/
def freePages (s : State) (c : Nat) : List Nat :=
  let used := (coreTeams s c).flatMap (fun e => e.2.pages)
  (List.range Config.pagesPerCore).filter (fun p => !used.contains p)

/-- Tiles of a core that no team holds and no outstanding MMA changes. -/
def freeTiles (s : State) (c : Nat) : List Nat :=
  let used := (coreTeams s c).flatMap (fun e => e.2.tiles) ++ (coreAt s c).seq.mmas.map (fun m => m.tile)
  (List.range 4).filter (fun t => !used.contains t)

/-- What a team holds of a resource, as the limit counts it. -/
def heldOf (s : State) (k : Nat) : Resource → Nat
  | .vregs => (teamAt s k).vext
  | .pages => (teamAt s k).pages.length
  | .tiles => (teamAt s k).tiles.length
  | .sequencer => if (coreAt s (teamAt s k).core).seq.owner = some k then 1 else 0

/-- The limit per team. -/
def limitOf : Resource → Nat
  | .vregs => 48
  | .pages => 1024
  | .tiles => 4
  | .sequencer => 1

/-- A request can be met: its units are free and stay within the limit. -/
def canMeet (s : State) (r : AllotReq) : Bool :=
  let t := teamAt s r.team
  (r.res == .sequencer || decide (heldOf s r.team r.res + r.count ≤ limitOf r.res))
    && (match r.res with
      | .vregs => decide (t.groups * r.count ≤ freeRegs s t.core)
      | .pages => decide (r.count ≤ (freePages s t.core).length)
      | .tiles => decide (r.count ≤ (freeTiles s t.core).length)
      | .sequencer => (coreAt s t.core).seq.st == .free)

/-! ## Grants (R310) -/

/-- Memory with a range of physical bytes zeroed. -/
def clearRange (lo n : Nat) (s : State) : State :=
  { s with mem := s.mem.filter (fun c => decide (c.1 < lo) || decide (lo + n ≤ c.1))
           badLines := s.badLines.filter (fun l => decide (l.1 < lo / 64) || decide ((lo + n) / 64 ≤ l.1)) }

/-- Zero a page of a core's scratchpad, and a tile with its record (R310, 10 R289). -/
def clearPage (core p : Nat) (s : State) : State := clearRange (ocpmWindow core + p * 0x400) 0x400 s
def clearTile (core t : Nat) (s : State) : State :=
  modCore core (fun c => { c with tiles := Tab.set c.tiles t { rows := 128, cols := 128, fault := false } })
    (clearRange (accWindow core + t * 0x84000) 0x84000 s)

/-- New registers of a group: U 0 and full (02 R38). -/
def Group.freshRegs (lo n : Nat) (g : Group) : Group :=
  (List.range n).foldl (fun g i => { g with
    v := Tab.set g.v (lo + i) (.uniform 0), fullV := g.fullV ||| BitVec.ofNat 112 (2 ^ (lo + i))
    badV := Tab.del g.badV (lo + i) }) g

/-- Perform the grant of a request. Which free pages and tiles are taken is not stated; the lowest are. -/
def grantReq (r : AllotReq) (s : State) : State :=
  let t := teamAt s r.team
  match r.res with
  | .vregs =>
    t.members.foldl (fun u q => modGroup q (Group.freshRegs (64 + t.vext) r.count) u)
      (modTeam r.team (fun t => { t with vext := t.vext + r.count }) s)
  | .pages =>
    let ps := (freePages s t.core).take r.count
    ps.foldl (fun u p => clearPage t.core p u) (modTeam r.team (fun t => { t with pages := t.pages ++ ps }) s)
  | .tiles =>
    let ts := (freeTiles s t.core).take r.count
    ts.foldl (fun u p => clearTile t.core p u) (modTeam r.team (fun t => { t with tiles := t.tiles ++ ts }) s)
  | .sequencer =>
    modCore t.core (fun c => { c with seq := { Sequencer.reset with
      st := .run, owner := some r.team, pc := r.stream, serial := c.seq.serial } }) s

/-! ## Queues and deadlock (R309, R311, 10 R297) -/

/-- Waiting requests of a core for a resource, in arrival order. -/
def waitingReqs (s : State) (c : Nat) (res : Resource) : List AllotReq := (coreAt s c).requests.filter (fun r => r.res == res)

/-- The team holds the resource in the sense of R297 and R311. -/
def holdsFor (t : Team) : Resource → Bool
  | .vregs => decide (0 < t.vext)
  | .pages => !t.pages.isEmpty
  | .tiles => !t.tiles.isEmpty
  | .sequencer => false

/-- The core is deadlocked for a resource: every holder waits, and no waiting request can be met. -/
def deadlocked (s : State) (c : Nat) (res : Resource) : Bool :=
  let ws := waitingReqs s c res
  res != .sequencer && !ws.isEmpty && ws.all (fun r => !canMeet s r)
    && (coreTeams s c).all (fun e => !holdsFor e.2 res || ws.any (fun r => r.team == e.1))

/-- The code of a resource in EV_DEADLOCK (19 R417). -/
def resourceCode : Resource → Nat
  | .tiles => 0
  | .vregs => 1
  | _ => 2

/-- Withdraw a waiting request. -/
def withdraw (c : Nat) (r : AllotReq) (s : State) : State :=
  modCore c (fun k => { k with requests := k.requests.filter (fun x => x.order != r.order) }) s

/-- Refuse a request: EV_DEADLOCK is posted. -/
def refuseReq (c : Nat) (r : AllotReq) (s : State) : State :=
  let g := groupAt s r.q
  postEvent g.vf 7 g.vf (c / 64) (cgidOf r.q g) (packFields [(1, c), (1, resourceCode r.res)]) (withdraw c r s)

/-- The ALLOT trap of a word (R313). -/
def allotTrap (word : W32) (reason : Nat) (s : State) : Res := .trap s tAllot (word.toNat + reason * 2 ^ 32)

/-- The waiting form: granted at once where nothing waits before it, else queued; refused where the core is deadlocked. -/
def acquireWait (r : AllotReq) (dest : Nat) (s : State) : Res :=
  let c := coreOf s.qid
  if (waitingReqs s c r.res).isEmpty && canMeet s r then .done (putS dest 0 (grantReq r s)) .seq
  else
    let s1 := modCore c (fun k => { k with requests := k.requests ++ [r] }) { s with nextOrder := s.nextOrder + 1 }
    if deadlocked s1 c r.res then .done (putS dest 2 (refuseReq c r s1)) .seq else .wait s1 (.allot r.res)

/-- The trying form: granted where its units are free and nothing waits for the resource. -/
def acquireTry (r : AllotReq) (dest : Nat) (s : State) : Res :=
  if (waitingReqs s (coreOf s.qid) r.res).isEmpty && canMeet s r then .done (putS dest 0 (grantReq r s)) .seq
  else .done (putS dest 1 s) .seq

/-- The request of the executing group. -/
def myRequest (res : Resource) (o : OpDA) (s : State) : AllotReq :=
  let v := s.me.readS o.sa.toNat
  { res := res, q := s.qid, team := s.me.team, count := if res = .sequencer then 1 else v.toNat, dest := o.sd.toNat
    stream := v, order := s.nextOrder }

/-- A count that R308 refuses. -/
def badCount (res : Resource) (n : Nat) : Bool :=
  match res with
  | .vregs => n == 0 || n % 8 != 0
  | .sequencer => n % 4 != 0
  | _ => n == 0

/-- The frame of an acquiring member. -/
def acquireWord (word : W32) (res : Resource) (o : OpDA) (s : State) (go : AllotReq → Nat → State → Res) : Out :=
  wordW word [.ss o.sa.toNat false 1, .sd o.sd.toNat] s (fun s _ =>
    let r := myRequest res o s
    if badCount res (s.me.readS o.sa.toNat).toNat then badOperandW word o.sa.toNat s
    else if limitOf res < heldOf s s.me.team res + r.count then allotTrap word (if res = .sequencer then 3 else 1) s
    else go r o.sd.toNat s)

def execVacqW (o : OpDA) (s : State) : Out := acquireWord (o.pack 0xB8001000) .vregs o s acquireWait
def execVacqT (o : OpDA) (s : State) : Out := acquireWord (o.pack 0xB8000000) .vregs o s acquireTry
def execPgacqW (o : OpDA) (s : State) : Out := acquireWord (o.pack 0xB8201000) .pages o s acquireWait
def execPgacqT (o : OpDA) (s : State) : Out := acquireWord (o.pack 0xB8200000) .pages o s acquireTry
def execAacqW (o : OpDA) (s : State) : Out := acquireWord (o.pack 0xB8401000) .tiles o s acquireWait
def execAacqT (o : OpDA) (s : State) : Out := acquireWord (o.pack 0xB8400000) .tiles o s acquireTry
def execMacqW (o : OpDA) (s : State) : Out := acquireWord (o.pack 0xB8601000) .sequencer o s acquireWait
def execMacqT (o : OpDA) (s : State) : Out := acquireWord (o.pack 0xB8600000) .sequencer o s acquireTry

/-- ALLOT_GRANT: the request at the head of a queue is granted, or the youngest is refused where the core is
deadlocked. Its group retires its word. -/
def execAllotGrant (core : Nat) (res : Resource) (s : State) : Out :=
  let ws := waitingReqs s core res
  let serve (r : AllotReq) (status : W64) (eff : State → State) : Out :=
    wakeWord "ALLOT_GRANT" r.q s (fun b => match b with
      | .allot _ => some (fun s => .done (putS r.dest status (eff s)) .seq)
      | _ => none)
  match ws with
  | [] => event "ALLOT_GRANT" none
  | r :: _ =>
    if canMeet s r then serve r 0 (fun s => grantReq r (withdraw core r s))
    else if deadlocked s core res then
      let y := ws.getLastD r
      serve y 2 (refuseReq core y)
    else event "ALLOT_GRANT" none

/-! ## Releases (R312) -/

/-- A group loses its registers from `lo` on: their names lose a reference. -/
def dropRegs (q lo n : Nat) (s : State) : State :=
  let g := groupAt s q
  let ns := (List.range n).map (· + lo)
  modGroup q (fun g => { g with
    v := g.v.filter (fun e => !ns.contains e.1), badV := g.badV.filter (fun e => !ns.contains e.1)
    fullV := ns.foldl (fun f i => f ||| BitVec.ofNat 112 (2 ^ i)) g.fullV })
    (modCore (coreOf q) (fun c => ns.foldl (fun c i => c.releaseReg (g.vreg i)) c) s)

/-- Returns into released registers of the groups of a team will be dropped (02 R69). -/
def dropReturns (qs : List Nat) (lo : Nat) (s : State) : State :=
  { s with
    returns := s.returns.map (fun e => if qs.contains e.2.q && e.2.gen == (groupAt s e.2.q).gen then
      (e.1, { e.2 with parts := e.2.parts.map (fun p => match p with
        | .vector n _ _ _ _ => if lo ≤ n then .released else p
        | p => p) }) else e)
    copies := s.copies.map (fun e =>
      match regWindowCore e.2.dest (tpLength e.2.tpl) with
      | some core =>
        let off := e.2.dest - regWindow core
        if tpDk (tpRec e.2.tpl) = 1 ∧ qs.contains (core * 128 + off / 0x4000) then
          (e.1, { e.2 with gone := e.2.gone ++ ((List.range (112 - lo)).map (· + lo)) }) else e
      | none => e) }

def execVrel (o : OpRel) (s : State) : Out :=
  wordW (o.pack 0xB8100000) [.ss o.sa.toNat false 1] s (fun s _ =>
    let n := (s.me.readS o.sa.toNat).toNat
    let t := s.myTeam
    if badCount .vregs n then badOperandW (o.pack 0xB8100000) o.sa.toNat s
    else if t.vext < n then allotTrap (o.pack 0xB8100000) 2 s
    else
      let lo := 64 + t.vext - n
      .done (dropReturns t.members lo (t.members.foldl (fun u q => dropRegs q lo n u)
        (modTeam s.me.team (fun t => { t with vext := t.vext - n }) s))) .seq)

/-- PGREL removes the highest pages once no range lock lies on them. -/
def tryPgrel (o : OpRel) (s : State) : Res :=
  let n := (s.me.readS o.sa.toNat).toNat
  let t := s.myTeam
  let keep := t.pages.length - n
  if t.pages.length < n then allotTrap (o.pack 0xB8300000) 2 s
  else if pagesLocked s t ((List.range n).map (· + keep)) then .wait s (.pgrel o)
  else
    let k := s.me.team
    .done (modCore t.core (fun c => { c with reuse := c.reuse.filter (fun r => r.loadTeam != some k) })
      (modTeam k (fun t => { t with pages := t.pages.take keep }) s)) .seq

def execPgrel (o : OpRel) (s : State) : Out :=
  wordW (o.pack 0xB8300000) [.ss o.sa.toNat false 1] s (fun s _ =>
    if badCount .pages (s.me.readS o.sa.toNat).toNat then badOperandW (o.pack 0xB8300000) o.sa.toNat s else tryPgrel o s)

/-- AREL frees the highest tiles once no MMA lock is held on them. -/
def tryArel (o : OpRel) (s : State) : Res :=
  let n := (s.me.readS o.sa.toNat).toNat
  let t := s.myTeam
  let keep := t.tiles.length - n
  if t.tiles.length < n then allotTrap (o.pack 0xB8500000) 2 s
  else if (coreAt s t.core).seq.mmas.any (fun m => m.locked && (t.tiles.drop keep).contains m.tile) then .wait s (.arel o)
  else .done (modTeam s.me.team (fun t => { t with tiles := t.tiles.take keep }) s) .seq

def execArel (o : OpRel) (s : State) : Out :=
  wordW (o.pack 0xB8500000) [.ss o.sa.toNat false 1] s (fun s _ =>
    if badCount .tiles (s.me.readS o.sa.toNat).toNat then badOperandW (o.pack 0xB8500000) o.sa.toNat s else tryArel o s)

def execMrel (s : State) : Out :=
  wordW 0xB8700000 [] s (fun s _ =>
    let c := coreOf s.qid
    if (coreAt s c).seq.owner = some s.me.team then .done (releaseSeq c s) .seq else allotTrap 0xB8700000 4 s)

end Sys2Proof.Machine
end

