-- ==== Sys2Proof/Machine/Collective.lean ====
section
/-!
DEFINITION. Collectives, major 0x31, with their events (21 R451 to R456, R460), and the waits for locks (11 R312, 08 R242).
-/
namespace Sys2Proof.Machine

/-! ## The descriptor (R451) -/

def cdField (d : BitVec 1024) (lo n : Nat) : Nat := d.toNat / 2 ^ lo % 2 ^ n
def cdSrc (d : BitVec 1024) : Nat := cdField d 0 64
def cdDst (d : BitVec 1024) : Nat := cdField d 64 64
def cdPeers (d : BitVec 1024) : Nat := cdField d 128 64
def cdTba (d : BitVec 1024) : Nat := cdField d 192 64
def cdCount (d : BitVec 1024) : Nat := cdField d 256 32
def cdCollid (d : BitVec 1024) : Nat := cdField d 288 32
def cdRanks (d : BitVec 1024) : Nat := cdField d 320 16
def cdRank (d : BitVec 1024) : Nat := cdField d 336 16
def cdOp (d : BitVec 1024) : Nat := cdField d 352 4
def cdDtype (d : BitVec 1024) : Nat := cdField d 356 4
/-- The watchdog in ticks; 0 selects 2,000 ms. -/
def cdWdog (d : BitVec 1024) : Nat := let n := cdField d 360 32; (if n = 0 then 2000 else n) * 1000000

def cdValid (d : BitVec 1024) : Bool :=
  decide (d.toNat < 2 ^ 392) && decide (cdOp d ≤ 3) && decide (cdDtype d ≤ 2)
    && !((cdOp d == 0 || cdOp d == 2) && cdDtype d == 2) && decide (2 ≤ cdRanks d) && decide (cdRanks d ≤ 256)
    && decide (cdRank d < cdRanks d) && cdCount d != 0 && cdTba d % 16 == 0

/-! ## Blocks (R452) -/

/-- Bytes of an element and of a block. -/
def cdBytes (d : BitVec 1024) : Nat := match cdDtype d with | 0 => 4 | 1 => 2 | _ => 1
def cdBlock (d : BitVec 1024) : Nat := cdCount d * cdBytes d

/-- OP 0 and 2 sum the blocks of the ranks; OP 1 and 3 place them. -/
def cdReduces (d : BitVec 1024) : Bool := cdOp d == 0 || cdOp d == 2

/-- Bytes that SRC holds and that DST receives. -/
def cdSrcBytes (d : BitVec 1024) : Nat := if cdOp d < 2 then cdBlock d else cdBlock d * cdRanks d
def cdDstBytes (d : BitVec 1024) : Nat := if cdReduces d then cdBlock d else cdBlock d * cdRanks d

/-- Rounding to nearest even, subnormals kept, every NaN canonical. -/
def collFp : FpEnv := { rnd := 1, sat := false, ftz := false, nanp := false }

/-- An input as binary32: a bfloat16 is widened exactly. -/
def collWiden (dtype x : Nat) : Nat := if dtype = 1 then x * 2 ^ 16 else x

/-- The sum of the inputs of one element in ascending rank order, as binary32. -/
def collSum : List Nat → Nat
  | [] => 0
  | x :: xs => xs.foldl (fun c x => (fpAdd .f32 collFp 0 c x).1) x

/-- The final rounding to the element's format. -/
def collNarrow (dtype c : Nat) : Nat :=
  if dtype = 1 then
    (match fpDecode .f32 c with
      | .nan _ _ => Fmt.b16.nanBits
      | .inf neg => withSign .b16 neg Fmt.b16.infBits
      | .fin neg m e => (fpRound .b16 collFp 0 neg m e).1)
  else c

/-- The sum of the blocks of all ranks, in rank order. -/
def sumBlocks (d : BitVec 1024) (blocks : List (List Byte)) : List Byte :=
  let n := cdBytes d
  (List.range (cdCount d)).flatMap (fun i =>
    leBytes n (collNarrow (cdDtype d) (collSum (blocks.map (fun b =>
      collWiden (cdDtype d) (leNat ((b.drop (n * i)).take n)))))))

/-! ## Collectives of a die -/

def Collective.die (c : Collective) : Nat := c.core / 64

/-- The accesses of a collective: those of an engine for its team, at its root. -/
def Collective.env (c : Collective) : Env :=
  { vf := c.vf, s1root := c.s1root, team := c.team, core := c.core, priv := c.vf == 0 }

def collAt (s : State) (die id : Nat) : Option Collective := Tab.find (dieAt s die).colls id
def setColl (die id : Nat) (c : Collective) (s : State) : State :=
  modDie die (fun d => { d with colls := Tab.set d.colls id c }) s

/-- CGID of the group that started it, while that group lives. -/
def collCgid (s : State) (c : Collective) : W64 :=
  let g := groupAt s c.q
  if g.st == .vacant || g.gen != c.gen then 0 else cgidOf c.q g

/-! ## KSTART (R453, R454) -/

/-- The collective that KSTART of the executing group starts. -/
def newColl (s : State) (d : BitVec 1024) (va start : W64) : Collective :=
  { vf := s.me.vf, launch := s.me.launch, team := s.me.team, q := s.qid, gen := s.me.gen, core := coreOf s.qid, desc := d
    descVa := va, s1root := s.myTeam.s1root, start := start, phase := .waiting, source := [], arrived := [], srcRead := false
    order := s.nextOrder, watch := start, stall := none }

/-- A collective of a VF and COLLID runs on a die. -/
def collRuns (s : State) (die vf collid : Nat) : Bool :=
  (dieAt s die).colls.any (fun e => e.2.vf == vf && cdCollid e.2.desc == collid && e.2.phase != .failed)

/-- The locks of a collective: read locks on SRC, write locks on DST. -/
def collLocks (s : State) (id : Nat) (c : Collective) : List Lock :=
  rangeLocks s c.env (.collective id false) [(cdSrc c.desc, cdSrcBytes c.desc)] []
    ++ rangeLocks s c.env (.collective id true) [] [(cdDst c.desc, cdDstBytes c.desc)]

/-- Record a collective: failed from the start, or with its locks; none where the table lacks the entries. -/
def enterColl (c : Collective) (s : State) : Option State :=
  let id := s.nextCopy
  let ls := collLocks s id c
  let die := coreOf s.qid / 64
  let put (failed : Bool) (s : State) : State :=
    { setColl die id { c with phase := if failed then .failed else .waiting } s with nextCopy := id + 1 }
  if decide (8 < ls.length) || collRuns s die c.vf (cdCollid c.desc) then some (put true s)
  else (takeLocks c.core ls s).map (put false)

def tryKstart (o : OpAB) (s : State) : Res :=
  let va := s.me.readS o.sa.toNat
  if va.toNat % 64 ≠ 0 then .trap s tAlign (accessInfo false false 0 va.toNat 6)
  else match accessRange s false va.toNat 128 with
    | .error r => r
    | .ok (ps, s1) =>
      match badInfo s1 0 va.toNat ps with
      | some info => .trap s1 tDataErr info.toNat
      | none =>
        let d := BitVec.ofNat 1024 (leNat (readParts s1 s1.me.vf ps))
        if !cdValid d then badOperandW (o.pack 0xC4000000) o.sa.toNat s1
        else match enterColl (newColl s1 d va (s1.me.readS o.sb.toNat)) s1 with
          | some s2 => .done s2 .seq
          | none => .wait s1 (.kstart o)

def execKstart (o : OpAB) (s : State) : Out :=
  wordW (o.pack 0xC4000000) [.ss o.sa.toNat false 1, .ss o.sb.toNat false 2] s (fun s _ =>
    atScope 4 false s (tryKstart o s))

/-! ## KWAIT (R455) -/

/-- The collectives that a group started from a descriptor. -/
def collsFrom (s : State) (q : Nat) (va : W64) : List Collective :=
  ((dieAt s (dieOf q)).colls.filter (fun e =>
    e.2.q == q && e.2.gen == (groupAt s q).gen && e.2.descVa == va)).map Prod.snd

/-- What KWAIT answers now; none while SRC is being read. -/
def kwaitStatus (cs : List Collective) : Option W64 :=
  if cs.isEmpty then some 2
  else if cs.any (fun c => !c.srcRead && c.phase != .failed) then none
  else if cs.any (fun c => !c.srcRead) then some 1
  else some 0

def tryKwait (o : OpDA) (s : State) : Res :=
  match kwaitStatus (collsFrom s s.qid (s.me.readS o.sa.toNat)) with
  | some v => .done (putS o.sd.toNat v s) .seq
  | none => .wait s (.kwait o)

def execKwait (o : OpDA) (s : State) : Out :=
  wordW (o.pack 0xC4100000) [.ss o.sa.toNat false 1, .sd o.sd.toNat] s (fun s _ => tryKwait o s)

def execKwaitDone (q : Nat) (s : State) : Out :=
  wakeWord "KWAIT_DONE" q s (fun b => match b with
    | .kwait o => some (tryKwait o)
    | _ => none)

/-- LOCK_WAIT_DONE: the locks that a waiting PGREL, AREL or CLEAVE waits for are released (11 R312, 07 R212), or a waiting
KSTART finds the entries it needs (08 R242). -/
def execLockWaitDone (q : Nat) (s : State) : Out :=
  wakeWord "LOCK_WAIT_DONE" q s (fun b => match b with
    | .pgrel o => some (tryPgrel o)
    | .arel o => some (tryArel o)
    | .cleave => some tryCleave
    | .kstart o => some (tryKstart o)
    | _ => none)

/-! ## The engine (R452, R454, R456) -/

/-- A collective fails: its locks are released, and its barrier is told when it completes. -/
def failColl (die id : Nat) (c : Collective) (s : State) : State :=
  dropLocks c.core (.collective id false) (dropLocks c.core (.collective id true)
    (setColl die id { c with phase := .failed, stall := none } s))

/-- The bytes of SRC, line by line. -/
def collRead (s : State) (c : Collective) : List (Nat × Nat) → Except CopyStop (List Byte)
  | [] => .ok []
  | l :: ls =>
    match engineFetch s c.env c.order l.1 [l], collRead s c ls with
    | .error e, _ => .error e
    | _, .error e => .error e
    | .ok a, .ok b => .ok (a ++ b)

/-- Write bytes of DST line by line, up to one that fails. -/
def collWrite (c : Collective) : List (Nat × Nat) → List Byte → State → State × Option CopyStop
  | [], _, s => (s, none)
  | l :: ls, bs, s =>
    match copyPlaces s c.env c.order true [l] with
    | .error e => (s, some e)
    | .ok ps => collWrite c ls (bs.drop l.2) (writeParts c.vf ps (bs.take l.2) s)

/-- How a step of a collective that cannot go on ends: it fails, or it stalls; none where it waits for a lock. Uncorrectable data posts EV_DATA_ERR. -/
def stopColl (die id : Nat) (c : Collective) (why : CopyStop) (s : State) : Option State :=
  match why with
  | .fail _ => some (failColl die id c s)
  | .bad d va pa =>
    some (postBoth 9 c.vf die (collCgid s c) (packFields [(1, d), (8, va / 64 * 64)])
      (packFields [(1, d), (8, va / 64 * 64), (8, pa)]) (failColl die id c s))
  | .locked => none
  | .demand st p => some (setColl die id { c with stall := some (st, p) } (raiseDemand c.env st p s))

/-- The block of its own SRC that a rank contributes to its own DST. -/
def ownBlock (c : Collective) : List Byte :=
  if cdOp c.desc < 2 then c.source else (c.source.drop (cdBlock c.desc * cdRank c.desc)).take (cdBlock c.desc)

/-- Every rank's block has arrived. -/
def allArrived (c : Collective) : Bool := (List.range (cdRanks c.desc)).all (fun r => (Tab.find c.arrived r).isSome)

/-- Take the block of a rank: it is placed at once where OP places blocks, and the sum is written with the last of them. -/
def takeBlock (die id rank : Nat) (block : List Byte) (c0 : Collective) (s : State) : Option State :=
  let c : Collective := { c0 with arrived := Tab.set c0.arrived rank block, watch := s.time }
  let last := allArrived c
  let out : Option (Nat × List Byte) :=
    if cdReduces c.desc then
      (if last then some (cdDst c.desc, sumBlocks c.desc ((List.range (cdRanks c.desc)).map (fun r => Tab.get [] c.arrived r)))
       else none)
    else some ((cdDst c.desc + rank * cdBlock c.desc) % 2 ^ 64, block)
  match out with
  | none => some (setColl die id c s)
  | some (va, bs) =>
    let r := collWrite c (lineRange va bs.length) bs s
    match r.2 with
    | none => some (setColl die id { c with phase := if last then .finished else .running } r.1)
    | some why => stopColl die id c0 why r.1

/-- The engine serves a collective. -/
def collServes (s : State) (c : Collective) : Bool := c.stall.isNone && !(dieAt s c.die).held

/-- The parts of a collective's ranges that were not reached at KSTART take their locks, where they are reached now (log 64); none
where the table lacks the entries. -/
def collSettle (id : Nat) (c : Collective) (s : State) : Option State :=
  (settleLocks c.core (.collective id false) c.env s).bind (settleLocks c.core (.collective id true) c.env)

/-- COLLECTIVE_START: the start time has come, and the fields are exchanged. `agree` is false where a peer's differ; a peer whose KSTART
comes later tells it of one that is at work (R454, R460). A VF without a tag sends no packet, so its collective fails (R448). -/
def execCollectiveStart (die id : Nat) (agree : Bool) (s : State) : Out :=
  event "COLLECTIVE_START"
    (match collAt s die id with
      | none => none
      | some c =>
        if !collServes s c || decide (s.time.toNat < c.start.toNat) then none
        else if c.phase == .running then (if agree then none else some (failColl die id c s))
        else if c.phase != .waiting then none
        else if !agree || !fabTagged s c.vf then some (failColl die id c s)
        else match collRead s c (lineRange (cdPeers c.desc) (4 * cdRanks c.desc)) with
          | .error why => stopColl die id c why s
          | .ok _ => some (setColl die id { c with phase := .running, watch := s.time } s))

/-- COLLECTIVE_STEP: the engine commits the contribution of a rank. Its own it reads from SRC, whose locks it then releases;
another rank's is the block that arrives on a link, under the tag that its packets bear: packets with another tag than the one that
stands at their arrival are dropped (R449, R460). A collective whose VF has lost its tag fails (R454). -/
def execCollectiveStep (die id rank : Nat) (data : NodeBlock) (s : State) : Out :=
  event "COLLECTIVE_STEP"
    (match collAt s die id with
      | none => none
      | some c =>
        if c.phase != .running || !collServes s c || decide (cdRanks c.desc ≤ rank) || (Tab.find c.arrived rank).isSome then none
        else if rank ≠ cdRank c.desc && (4 ≤ data.link || data.bytes.length ≠ cdBlock c.desc) then none
        else if rank ≠ cdRank c.desc && !tagAccepted s c.vf data.tag then
          some (dropPacket die data.link c.vf data.tag (if fabTagged s c.vf then s else failColl die id c s))
        else if !fabTagged s c.vf then some (failColl die id c s)
        else match collSettle id c s with
          | none => none
          | some s0 =>
            if rank = cdRank c.desc then
              (if c.srcRead then takeBlock die id rank (ownBlock c) c s0
               else match collRead s0 c (lineRange (cdSrc c.desc) (cdSrcBytes c.desc)) with
                | .error why => stopColl die id c why s0
                | .ok bs =>
                  let c1 : Collective := { c with source := bs, srcRead := true }
                  let s1 := setColl die id c1 (dropLocks c.core (.collective id false) s0)
                  some ((takeBlock die id rank (ownBlock c1) c1 s1).getD s1))
            else takeBlock die id rank data.bytes c s0)

/-- A group of the die waits in KWAIT for the collective, which has failed before it read SRC. -/
def kwaitPends (s : State) (c : Collective) : Bool :=
  c.phase == .failed && !c.srcRead && (match (groupAt s c.q).blocked with
    | some (.kwait o) => (groupAt s c.q).gen == c.gen && (groupAt s c.q).readS o.sa.toNat == c.descVa
    | _ => false)

/-- EV_COLL_TIMEOUT of a collective, with the step and the rank waited for. -/
def postColl (die : Nat) (c : Collective) (step rank : Nat) (s : State) : State :=
  postEvent c.vf 3 c.vf die (collCgid s c) (packFields [(4, cdCollid c.desc), (4, step), (4, rank), (1, die)]) s

/-- The update of a collective's barrier meets a lock registered before the collective's own, and waits (08 R241). -/
def collSignalWaits (s : State) (c : Collective) : Bool :=
  match tbPlace s c.team (cdTba c.desc) with
  | some pa => olderLock s c.core c.order pa true
  | none => false

/-- COLLECTIVE_COMPLETE: the locks are released, and the barrier takes one arrival, with ERROR where the collective failed. A
barrier that does not resolve is reported (09 R471). A KWAIT that waits for a failed collective has its answer first. -/
def execCollectiveComplete (die id : Nat) (s : State) : Out :=
  event "COLLECTIVE_COMPLETE"
    (match collAt s die id with
      | none => none
      | some c =>
        if (c.phase != .finished && c.phase != .failed) || !collServes s c || kwaitPends s c || collSignalWaits s c then none
        else
          let failed := c.phase == .failed
          let s1 := dropLocks c.core (.collective id false) (dropLocks c.core (.collective id true)
            (modDie die (fun d => { d with colls := Tab.del d.colls id }) s))
          some ((tbEngine c.team (cdTba c.desc)
            (fun t => tbUpdate (if failed && !tbError t then t + 16 else t) 1 0) s1).getD
              (postColl die c 0xFFFFFFFF 0xFFFFFFFF s1)))

/-- The lowest rank whose contribution has not arrived. -/
def rankAwaited (c : Collective) : Nat :=
  ((List.range (cdRanks c.desc)).find? (fun r => (Tab.find c.arrived r).isNone)).getD 0

/-- The watchdog of a running collective has expired. -/
def collOverdue (s : State) (die : Nat) (c : Collective) : Bool :=
  c.phase == .running && !(dieAt s die).held && decide (c.watch.toNat + cdWdog c.desc ≤ s.time.toNat)

/-- COLL_WATCHDOG_EXPIRY: it is reported, and the watchdog restarts. The number of the waiting step is free (log 4). -/
def execCollWatchdogExpiry (die id : Nat) (s : State) : Out :=
  event "COLL_WATCHDOG_EXPIRY"
    (match collAt s die id with
      | none => none
      | some c =>
        if !collOverdue s die c then none
        else some (postColl die c ((Config.freeW64 s.free 9500).toNat % 2 ^ 32) (rankAwaited c)
          (setColl die id { c with watch := s.time } s)))

end Sys2Proof.Machine
end

