-- ==== Sys2Proof/Machine/Clock.lean ====
section
/-!
DEFINITION. Time (00 R1, 21 R444): what passes with CCLK cycles. The time base, the counters that count CCLK
(19 R435) and the durations of the time-loss records (19 R433).
-/
namespace Sys2Proof.Machine

/-- The groups that a launch has resident. -/
def launchGroups (s : State) (lid : Nat) : List (Nat × Group) :=
  s.groups.filter (fun e => e.2.st != .vacant && e.2.launch == lid)

/-- The launch that a sequencer works for: its owner's, or that of its oldest MMA once its team has released it. -/
def Sequencer.launch (s : State) (q : Sequencer) : Option Nat :=
  match q.owner with
  | some k => some (teamAt s k).launch
  | none => q.mmas.head?.map (fun m => m.launch)

/-- A group, one of its stream ports or an engine of the launch, or the write of its record, stalls on a demand fault in service. -/
def launchStalls (s : State) (lid : Nat) : Bool :=
  (Tab.get default s.launches lid).stall.isSome || (launchGroups s lid).any (fun e => (match e.2.blocked with
    | some (.demand _ _) => true
    | _ => false) || e.2.ports.any (fun p => p.2.stall.isSome))
    || s.copies.any (fun e => e.2.stall.isSome && e.2.launch == lid)
    || s.dies.any (fun d => d.2.colls.any (fun k => k.2.stall.isSome && k.2.launch == lid))
    || s.cores.any (fun e => e.2.seq.stall.isSome && e.2.seq.launch s == some lid)

/-- A copy or a collective of the launch runs. -/
def launchMoves (s : State) (lid : Nat) : Bool :=
  s.copies.any (fun e => e.2.run && e.2.launch == lid) || s.dies.any (fun e => e.2.colls.any (fun k => k.2.launch == lid))

/-- A page of a range that is reached lies in host or peer memory. -/
def rangeAway (s : State) (e : Env) (k : AccessKind) : Nat → Nat → Nat → Bool
  | 0, _, _ => false
  | fuel + 1, va, len =>
    len != 0 && (match pageAt s e k va with
      | some (pa, left) => !ownMemory pa || rangeAway s e k fuel ((va + min len left) % 2 ^ 64) (len - min len left)
      | none => rangeAway s e k fuel ((va + min len (4096 - va % 4096)) % 2 ^ 64) (len - min len (4096 - va % 4096)))

/-- The node of a rank of a collective, from its PEERS. -/
def peerNode (s : State) (c : Collective) (rank : Nat) : Option Nat :=
  ((engineRead s c.env ((cdPeers c.desc + 4 * rank) % 2 ^ 64) 4).toOption).map (fun bs => leNat bs % 2 ^ 16)

/-- A running collective has a range in host or peer memory, or a block of another node has not arrived. -/
def collAway (s : State) (c : Collective) : Bool :=
  c.phase == .running
    && (rangeAway s c.env .read (cdSrcBytes c.desc + 1) (cdSrc c.desc) (cdSrcBytes c.desc)
      || rangeAway s c.env .write (cdDstBytes c.desc + 1) (cdDst c.desc) (cdDstBytes c.desc)
      || (List.range (cdRanks c.desc)).any (fun r =>
        (Tab.find c.arrived r).isNone && peerNode s c r != peerNode s c (cdRank c.desc)))

/-- A running copy or collective of the launch reaches for host or peer memory, for which it may wait. -/
def launchAway (s : State) (lid : Nat) : Bool :=
  s.copies.any (fun e => e.2.run && e.2.launch == lid
      && (e.2.readRanges.any (fun r => rangeAway s e.2.env .read (r.2 + 1) r.1 r.2)
        || (e.2.ocpmRange.isNone && e.2.writeRanges.any (fun r => rangeAway s e.2.env .write (r.2 + 1) r.1 r.2))))
    || s.dies.any (fun e => e.2.colls.any (fun k => k.2.launch == lid && collAway s k.2))

/-- The services of the launch's system calls that the hub has accepted and not answered, also while the launch is saved. -/
def pendingServices (s : State) (lid : Nat) : List W64 :=
  (s.syscs.filter (fun y => y.2.launch == lid && !y.2.gone && y.2.answer.isNone)).map (fun y => y.2.service)

/-- The category of R433 that a tick of a launch counts in, as its place in the record: 0 SYSCALL, 1 QUEUE, 2 FAULT,
3 WAIT, 4 EXEC. Services 2 and 3 are I/O (22 R470). Whether a copy or collective that reaches for host or peer memory waits on it is free
(log 4). -/
def lossCategory (s : State) (lid : Nat) : Nat :=
  let gs := launchGroups s lid
  let calls := pendingServices s lid
  if launchStalls s lid then 2
  else if (launchAway s lid && Config.freeBit s.free (5000 + lid)) || calls.any (fun y => y == 2 || y == 3) then 3
  else if !calls.isEmpty then 0
  else if gs.any (fun e => e.2.st != .halted) || launchMoves s lid || s.cores.any (fun e => e.2.seq.mmas.any (fun m => m.launch == lid)) then 4
  else 1

/-- Count the ticks of a launch that keeps a time-loss record. -/
def Launch.lose (cat : Nat) (n : W64) (l : Launch) : Launch :=
  { l with loss := l.loss.zipIdx.map (fun x => if x.2 = cat then x.1 + n else x.1), lossAt := l.lossAt + n }

/-- The group is blocked on an empty register (02 R55, R56, 19 R435): a full write port is none. -/
def Group.onEmpty (g : Group) : Bool :=
  match g.blocked with
  | some (.register vs xs) => !xs.isEmpty || vs.any (fun n => decide (n < 120))
  | _ => false

/-- A function is active on a core: a group of it runs there, or an engine of the core works for it. -/
def activeOn (s : State) (id v : Nat) : Bool :=
  s.groups.any (fun e => coreOf e.1 == id && e.2.st == .running && e.2.vf == v)
    || s.copies.any (fun e => e.2.core == id && e.2.vf == v)
    || (coreAt s id).seq.mmas.any (fun m => m.vf == v)
    || ((coreAt s id).seq.st == .run && (match (coreAt s id).seq.owner with
      | some k => (teamAt s k).vf == v
      | none => false))
    || (dieAt s (id / 64)).colls.any (fun e => e.2.core == id && e.2.vf == v)
    || (dieAt s (id / 64)).experts.any (fun e => e.1 / 256 == v && e.2.firing.any (fun f => f.core == id))

/-- What n CCLK count on a core (19 R435): the CCLK themselves, the CCLK of groups blocked on an empty register, and the misses of
caches by what is active there, whose number is free (log 4). -/
def Core.countCclk (s : State) (id n : Nat) (c : Core) : Core :=
  let c1 := (s.groups.filter (fun e => coreOf e.1 == id && e.2.st == .running && e.2.onEmpty)).foldl
    (fun c e => c.count evEmptywait e.2.vf n) (c.count 1 0 n)
  ((s.vfs.map Prod.fst).filter (activeOn s id)).foldl (fun c v =>
    (c.count evL1miss v (Config.freeW64 s.free (6000 + 1024 * id + v)).toNat).count evTlbmiss v
      (Config.freeW64 s.free (300000 + 1024 * id + v)).toNat) c1

/-- A write of a counter takes effect at the end of its CCLK: the value written stands, and an overflow of this CCLK sets OVF in the
configuration as written, whatever OVF was (19 R436, 00 R8). -/
def Core.setPmc (c : Core) (w : PmcSet) : Core :=
  if w.cfg then
    let v := if c.wrapped.contains w.index then w.value ||| BitVec.ofNat 64 (2 ^ 48) else w.value
    { c with pmccfg := Tab.set c.pmccfg w.index v }
  else { c with pmc := Tab.set c.pmc w.index w.value }

/-- The counters of a core at the end of n CCLK. -/
def Core.close (s : State) (id n : Nat) (c : Core) : Core :=
  if c.pmccfg.isEmpty && c.pmcSets.isEmpty then c
  else { c.pmcSets.foldl Core.setPmc (c.countCclk s id n) with pmcSets := [], wrapped := [] }

/-- What the counters do at the end of n CCLK. -/
def closeCounters (n : Nat) (s : State) : State := { s with cores := s.cores.map (fun e => (e.1, e.2.close s e.1 n)) }

/-- The ticks by which the time base gains or loses on n ticks while it removes an offset: at most one in 10,000, and never more than
pass (21 R444). How fast it goes within that bound is free. -/
def slewOf (s : State) (n : Nat) : Nat :=
  let most := min (min s.platform.slew.natAbs ((s.platform.slewRun + n) / 10000)) (if 0 < s.platform.slew then s.platform.slew.natAbs else n)
  if most = 0 then 0 else (Config.freeW64 s.free 6200).toNat % (most + 1)

/-- The time base after n ticks of CCLK. Ticks in which it removes nothing are no credit beyond the next one that it removes. -/
def Platform.run (p : Platform) (n adj : Nat) : Platform :=
  if p.slew = 0 then { p with slewRun := 0 }
  else { p with slew := if 0 < p.slew then p.slew - adj else p.slew + adj, slewRun := min 10000 (p.slewRun + n - 10000 * adj) }

/-- n CCLK cycles pass for the time base and the time-loss records. One CCLK is 0.8 ns (00 R1). -/
def advance (n : Nat) (s : State) : State :=
  let fifths := s.phase + Config.ticksPerFiveCclk * n
  let adj := slewOf s (fifths / 5)
  let run := if 0 < s.platform.slew then fifths / 5 + adj else fifths / 5 - adj
  let ticks := BitVec.ofNat 64 run
  { s with
    cclk := s.cclk + n
    phase := fifths % 5
    time := s.time + ticks
    platform := s.platform.run (fifths / 5) adj
    launches := s.launches.map (fun e =>
      (e.1, if e.2.tlrec != 0 then e.2.lose (lossCategory s e.1) ticks else e.2)) }

/-- n CCLK cycles pass in which no agent issues. -/
def pass (n : Nat) (s : State) : State := closeCounters n (advance n s)

/-- A CCLK begins in which an agent issues, and the counter of free values goes on (log 4). -/
def tick (s : State) : State := { advance 1 s with free := s.free + 1 }

end Sys2Proof.Machine
end

