-- ==== Sys2Proof/Machine/Fetch.lean ====
section
/-!
DEFINITION. Fetching a word (05 R153, 14 R356, R359) and what a group does with the word it fetches before its meaning:
breakpoints (19 R422), the checks 1 to 6 of R107 and the fields that REP steps (04 R111 to R113).
-/
namespace Sys2Proof.Machine

/-- What a fetch delivers: the word, or how it ends. -/
inductive Fetched where
  | word (w : W32) (tlb : Option TlbEntry)
  | trap (code info : Nat)
  | demand (stage page : Nat)
  | held
deriving DecidableEq, Repr

/-- The word at an address for an agent. Every PAGE of a fetch carries DETAIL 4 (09 R248). A word is four aligned bytes,
so it is resolved once. -/
def fetchWord (s : State) (e : Env) (fails : List (Nat × Nat)) (pc : W64) : Fetched :=
  let va := pc.toNat
  match (if (failStage s e fails va).isSome then .fail 4 tPage 4 else resolve s e .fetch va) with
  | .mem pa t =>
    if fabricDenied s e.vf pa then .trap tPerm (accessInfo false false 0 va 1)
    else .word (wordOfBytes (readPas s (keyNum s e.vf) pa 4)) t
  | .fail _ code d => .trap code (accessInfo false false 0 va (if code = tPage then 4 else d))
  | .demand st p => .demand st p
  | .held => .held
  | .aperture _ => .trap tPerm (accessInfo false false 0 va 4)
  | .mmio _ => .trap tPerm (accessInfo false false 0 va 5)

/-- The next word of the executing group: from the loop buffer inside a pinned loop (04 R119), else from memory. -/
def groupFetch (s : State) (pc : W64) : Fetched :=
  let g := s.me
  let fromMemory := fetchWord s (envOf s s.qid) g.failPages pc
  match g.loop with
  | some l =>
    if !l.suspended && l.holds pc then
      (match l.body[((pc - l.addr).toNat - 4) / 4]? with
        | some w => .word w none
        | none => fromMemory)
    else fromMemory
  | none => fromMemory

/-- What ERET asks of the word at TPC is of no account where that word is no REP, or no BAR (04 R114, 05 R130). -/
def settleResume (s : State) : State :=
  if s.me.repResume.isNone && !s.me.barHalf then s
  else match groupFetch s s.me.pc with
    | .word w _ =>
      modMe (fun g => { g with repResume := if w.toNat / 2 ^ 26 = 2 then g.repResume else none
                               barHalf := g.barHalf && w == (OpBar.unpack w).pack 0xAC100000 }) s
    | _ => s

/-- The same for the group in a slot that stops or halts. -/
def settleGroup (q : Nat) (s : State) : State := { settleResume { s with cur := .group q } with cur := s.cur }

/-- The formats of R112 by major: which positions name fields, and the lowest bits of those fields. -/
def repFields (maj : Nat) : Option Nat × Option Nat × Option Nat :=
  if maj = 0x18 || maj = 0x19 || maj = 0x1B || maj = 0x1C || maj = 0x1D || maj = 0x21 then (some 14, some 7, some 0)
  else if maj = 0x20 then (none, some 7, some 0)
  else if maj = 0x23 then (some 14, some 7, none)
  else if maj = 0x1A || maj = 0x1E || maj = 0x1F || maj = 0x22 || maj = 0x26 then (some 15, some 8, none)
  else if maj = 0x24 then (none, some 8, none)
  else if maj = 0x27 || maj = 0x28 then (some 16, some 3, none)
  else (none, none, none)

/-- Stride of a REP word (R111). -/
def repStride (o : OpRep) : Nat := 2 ^ o.str.toNat

/-- One stepped field of a repetition: what it adds to the word, or the trap it takes (R113). A register number above 127 is reported
modulo 128, and the stepped stride of VIOTA with the word as it is encoded (log 60). -/
def stepOne (target : Nat) (vtop amount pos : Nat) (on : Bool) (lo : Option Nat) : Except (Nat × Nat) Nat :=
  match on, lo with
  | true, some l =>
    let v := target / 2 ^ l % 128 + amount
    if target / 2 ^ 26 = 0x26 && target / 2 ^ 23 % 8 = 3 && pos = 1 then
      (if 127 < v then .error (tIllegalField, target + l * 2 ^ 32) else .ok (amount * 2 ^ l))
    else if 112 ≤ v || vtop ≤ v then .error (tIllegalReg, v % 128 + pos * 256)
    else .ok (amount * 2 ^ l)
  | _, _ => .ok 0

/-- The word of a repetition, with its stepped fields (R111, R113), or the trap it takes. -/
def repWord (vtop : Nat) (r : RepRun) : Except (Nat × Nat) W32 :=
  let t := r.target.toNat
  let f := repFields (t / 2 ^ 26)
  let amount := r.k * repStride r.op
  match stepOne t vtop amount 0 r.op.fmD f.1, stepOne t vtop amount 1 r.op.fmA f.2.1, stepOne t vtop amount 2 r.op.fmB f.2.2 with
  | .error e, _, _ => .error e
  | _, .error e, _ => .error e
  | _, _, .error e => .error e
  | .ok a, .ok b, .ok c => .ok (BitVec.ofNat 32 (t + a + b + c))

/-! ## Breakpoints (19 R422) -/

/-- The first armed breakpoint that matches the word at an address, as the TINFO of its debug event (19 R422, 20 R440). `k` is the
repetition about to issue where the word is a REP target. -/
def breakHit (s : State) (addr : W64) (k : Option Nat) : Option Nat :=
  let g := s.me
  let d := (vfAt s g.vf).dbg
  if g.suppress || d.wenable = 0 then none
  else
    ((List.range 16).filterMap (fun i =>
      let p := Tab.get 0 d.points i
      if d.wenable.getLsbD i && pointAddr p == addr.toNat && pointFilter p (cgidOf s.qid g) then
        (if pointRepEn p then (if k = some (pointRepK p) then some (i + 32 + 65536) else none)
         else match k with
           | some 0 | none => some (i + 65536)
           | some _ => none)
      else none)).head?

/-- The breakpoint that matches the executing group's next word. A REP that goes on behind repetition 0 is past the stop that a point
without REPEN makes (R422). -/
def breakHere (s : State) : Option Nat := if s.me.repResume.getD 0 ≠ 0 then none else breakHit s s.me.pc none

/-! ## REP and LOOP at issue (04 R111, R112, R117, R120) -/

/-- Check 4 of R107 for a REP whose target word has been fetched: its major lies in 0x18 to 0x28. -/
def repTargetOk (target : W32) : Bool :=
  let m := target.toNat / 2 ^ 26
  decide (0x18 ≤ m) && decide (m ≤ 0x28)

/-- The most significant FM bit set for a position that the target's format marks "none" (R112). -/
def repBadField (o : OpRep) (target : W32) : Option Nat :=
  let f := repFields (target.toNat / 2 ^ 26)
  if o.fmD && f.1.isNone then some 19
  else if o.fmA && f.2.1.isNone then some 18
  else if o.fmB && f.2.2.isNone then some 17
  else none

/-- The words of a LOOP body, or how the fetch of one of them ends. -/
def loopWords (s : State) (e : Env) (fails : List (Nat × Nat)) (pc : W64) : Nat → Except Fetched (List W32)
  | 0 => .ok []
  | n + 1 =>
    match loopWords s e fails pc n with
    | .error f => .error f
    | .ok ws =>
      match fetchWord s e fails (pc + BitVec.ofNat 64 (4 * n)) with
      | .word w _ => .ok (ws ++ [w])
      | f => .error f

/-- The first word of a body that R120 refuses, with its offset: a HINT, a LOOP (FN 0 of major 0x0A), or a REP at the end. -/
def loopBadWord (ws : List W32) : Option (W32 × Nat) :=
  (ws.zipIdx.filter (fun x =>
    let m := x.1.toNat / 2 ^ 26
    m == 1 || (m == 0x0A && x.1.toNat / 2 ^ 20 % 64 == 0) || (m == 2 && x.2 + 1 == ws.length))).head?

/-- How check 4 of R107 answers a REP or LOOP word that a later check refuses: the trap that comes first, if any. Of the checks of
LOOP the loop that is active comes first, then the fetch of every word of the body, then the words that R120 refuses (log 60). -/
def check4 (s : State) (w : W32) : Option Fetched :=
  let g := s.me
  match w.toNat / 2 ^ 26 with
  | 2 =>
    (match groupFetch s (g.pc + 4) with
      | .word t _ => if repTargetOk t then none else some (.trap tIllegalOpcode w.toNat)
      | f => some f)
  | 0x0A =>
    if w.toNat / 2 ^ 20 % 64 ≠ 0 then none
    else if g.loop.isSome then some (.trap tIllegalOpcode w.toNat)
    else match loopWords s (envOf s s.qid) g.failPages (g.pc + 4) (w.toNat / 64 % 32 + 1) with
      | .error f => some f
      | .ok ws => (loopBadWord ws).map (fun b => .trap tIllegalOpcode (b.1.toNat + 2 ^ 45 + b.2 * 2 ^ 40))
  | _ => none

/-- The end of a fetch that delivers no word: a trap at the word, a stall, or the wait for a held die. -/
def fetchFail (s : State) : Fetched → Out
  | .held => finish (.wait s .held)
  | .trap code info => finish (.trap s code info)
  | .demand st p => finish (.wait (raiseDemand (envOf s s.qid) st p s) (.demand st p))
  | .word _ _ => .next s

/-- The field of a word with fields that must be zero that a group reports: the most significant one that offends, where the FM
bits of a REP are fields too (04 R108, R112). -/
def worstField (s : State) (w : W32) (low : Nat) : Nat :=
  if w.toNat / 2 ^ 26 = 2 then
    (match groupFetch s (s.me.pc + 4) with
      | .word t _ => (repBadField (OpRep.unpack w) t).getD low
      | _ => low)
  else low

/-- The trap of a word that decodes to no instruction (04 R107, R108). The words of the sequencer's majors are none of a group's
whatever their fields hold (check 3, before check 6). -/
def rejectWord (s : State) (w : W32) (r : Reject) : Out :=
  match check4 s w with
  | some f => fetchFail s f
  | none =>
    match r with
    | .opcode => finish (.trap s tIllegalOpcode w.toNat)
    | .field low =>
      if 0x38 ≤ w.toNat / 2 ^ 26 ∧ w.toNat / 2 ^ 26 ≤ 0x3A then finish (.trap s tIllegalOpcode w.toNat)
      else finish (.trap s tIllegalField (w.toNat + worstField s w low * 2 ^ 32))

/-! ## Who may issue (07 R200 to R203, 19 R415) -/

/-- The group stands at a stopping point (07 R214, 04 R122): outside its handlers, and between the iterations of a pinned
loop. Every step of the model ends at an instruction boundary or between two repetitions. -/
def Group.atStop (g : Group) : Bool :=
  !g.hact && !g.dact && !g.pact && (match g.loop with
    | some l => l.suspended || !l.holds g.pc || (g.pc == l.addr + 4 && g.rep.isNone && g.repResume.isNone)
    | none => true)

/-- A stop or a halt that was asked for is due (07 R214, 17 R385, 19 R428). -/
def Group.stopDue (g : Group) : Bool := g.st == .running && (g.stopReq || g.haltReq.isSome) && g.atStop

/-- The group may issue in this CCLK: it is active, runs, is not to stop here and is not held by a gap, its die is not held,
and its VF is not frozen (17 R403). -/
def mayIssue (s : State) (q : Nat) : Bool :=
  let g := groupAt s q
  g.st == .running && g.active && !g.stopDue && mayRunAt s (dieOf q) g.vf && (g.aged || decide (g.notBefore ≤ s.cclk))

/-- The slot kind into which a word issues (07 R200): 1 S, 2 M, 3 X, 0 none. -/
def slotKind (w : W32) : Nat :=
  let m := w.toNat / 2 ^ 26
  if (0x18 ≤ m ∧ m ≤ 0x20) ∨ m = 0x26 then 3
  else if (0x14 ≤ m ∧ m ≤ 0x17) ∨ (0x21 ≤ m ∧ m ≤ 0x24) ∨ (0x27 ≤ m ∧ m ≤ 0x30) then 2
  else if (0x03 ≤ m ∧ m ≤ 0x13) ∨ m = 0x25 ∨ (0x31 ≤ m ∧ m ≤ 0x33) then 1
  else 0

/-- The slot kind of the next word of a group: that of its target inside a REP. -/
def nextKind (s : State) (q : Nat) : Nat :=
  let g := groupAt s q
  match g.rep with
  | some r => slotKind r.target
  | none => match groupFetch { s with cur := .group q } g.pc with
    | .word w _ => slotKind w
    | _ => 0

/-- Group a goes before group b of its partition into a slot of one kind (07 R204): the aged first, the longest waiting of them first
(R205); then the VF to which the partition owes most, where it owes one four words, which keeps the bound of R207; else a choice among VFs
that R207 leaves open (log 4); then a group that does not give way (R203); then
the one that issued least recently; then the lower slot. -/
def issuesBefore (s : State) (a b : Nat) : Bool :=
  let x := groupAt s a
  let y := groupAt s b
  let owed (v : Nat) : Nat := lagOf s a v
  let rank (v : Nat) : Nat := (Config.freeW64 s.free (400000 + v)).toNat
  if x.aged != y.aged then x.aged
  else if x.aged then (if x.since != y.since then decide (x.since < y.since) else decide (a < b))
  else if x.vf != y.vf && owed x.vf != owed y.vf && decide (lagMost ≤ max (owed x.vf) (owed y.vf)) then decide (owed y.vf < owed x.vf)
  else if x.vf != y.vf && rank x.vf != rank y.vf then decide (rank x.vf < rank y.vf)
  else if x.giveWay != y.giveWay then y.giveWay
  else if x.lastIssue != y.lastIssue then decide (x.lastIssue < y.lastIssue)
  else decide (a < b)

/-- The other groups of a partition that are ready to issue. -/
def issueRivals (s : State) (q : Nat) : List Nat :=
  (s.groups.filter (fun e => e.1 != q && e.1 / 16 == q / 16 && e.2.blocked.isNone && mayIssue s e.1)).map Prod.fst

/-- The partition chooses this group for its slot kind (07 R201, R204). A word that occupies no slot has no rival. -/
def chosen (s : State) (q : Nat) : Bool :=
  match issueRivals s q with
  | [] => true
  | rs =>
    let k := nextKind s q
    k == 0 || rs.all (fun r => nextKind s r != k || issuesBefore s q r)

/-- The body of a pinned loop that DUNPIN asked for anew is fetched at the next iteration (19 R428), and that of a restored
loop at its first word (04 R122), or how that fetch ends. -/
def refreshLoop (s : State) : Except Fetched State :=
  let g := s.me
  match g.loop with
  | some l =>
    if !l.suspended && ((l.refetch && g.pc == l.addr + 4) || (l.unread && l.holds g.pc)) then
      (match loopWords s (envOf s s.qid) g.failPages (l.addr + 4) l.body.length with
        | .ok ws => .ok (modMe (fun g => { g with loop := some { l with body := ws, refetch := false, unread := false } }) s)
        | .error f => .error f)
    else .ok s
  | none => .ok s

/-- The event that ends a wait (95), where the wait has one. -/
noncomputable def wakeOf (q : Nat) : Blocked → Option Instr
  | .twait _ => some (.twaitExpiry q)
  | .bar _ | .barw _ => some (.barrierPhaseWake q)
  | .barinit _ => some (.barinitResume q)
  | .tbwait _ => some (.tbwaitWake q)
  | .bwait _ => some (.bwaitDone q)
  | .bclose _ => some (.bcloseResume q)
  | .sdrain _ | .sclose _ => some (.sdrainDone q)
  | .kwait _ => some (.kwaitDone q)
  | .pgrel _ | .arel _ | .cleave | .kstart _ => some (.lockWaitDone q)
  | .start _ => some (.bteStart q)
  | _ => none

/-- The first MMA of a sequencer that was restored and is not issued again yet (17 R402). -/
def unissued (s : State) (c : Nat) : Option MmaRec :=
  let q := (coreAt s c).seq
  if q.held || q.stall.isSome || (dieAt s (c / 64)).held then none else q.mmas.find? (fun m => !m.locked)

/-- The sequencer of a core fetches and executes (10 R285); its restored MMAs are issued again first (17 R402). -/
def seqRuns (s : State) (c : Nat) : Bool :=
  let q := (coreAt s c).seq
  q.st == .run && !q.held && !q.releasing && q.stall.isNone && q.mmas.all (fun m => m.locked) && !(dieAt s (c / 64)).held

end Sys2Proof.Machine
end

