-- ==== Sys2Proof/Machine/Control.lean ====
section
/-!
DEFINITION. The prefix and hint words and group control: majors 0x01 to 0x03 and 0x05 to 0x0A (04 R111 to R122; 05 R141 to
R154), with the events that complete SYSC and TWAIT.
-/
namespace Sys2Proof.Machine

/-! ## HINT, REP, STAGE -/

/-- The run that a HINT opens: gap and give-way of the word of each index (04 R98, R116). -/
def hintRun (o : OpHint) : HintRun :=
  let gap (i : Nat) : Nat := o.gaps.toNat / 4 ^ (7 - i) % 4 * 4 ^ i
  let give (i : Nat) : Nat := o.yields.toNat / 2 ^ (7 - i) % 2 * 2 ^ i
  { index := 0
    gaps := BitVec.ofNat 16 ((List.range 8).foldl (fun n i => n + gap i) 0)
    yields := BitVec.ofNat 8 ((List.range 8).foldl (fun n i => n + give i) 0) }

/-- HINT occupies no issue slot and opens a run over the eight words that follow it (04 R116). -/
def execHint (o : OpHint) (s : State) : Out :=
  wordG (.hint o) [] s (fun s _ =>
    .ended (modMe (fun g => { g.advance (g.pc + 4) with hint := some (hintRun o), blocked := none }) s))

/-- REP takes up its target, at repetition 0 or where ERET resumes it (04 R111, R112, R114). The repetitions follow as
steps of their own. -/
def execRep (o : OpRep) (s : State) : Out :=
  wordG (.rep o) [] s (fun s _ =>
    let w := (encode (.rep o)).toNat
    match groupFetch s (s.me.pc + 4) with
    | .trap code info => .trap s code info
    | .demand st p => .wait (raiseDemand (envOf s s.qid) st p s) (.demand st p)
    | .held => .wait s .held
    | .word t _ =>
      if !repTargetOk t then .trap s tIllegalOpcode w
      else match repBadField o t with
        | some low => .trap s tIllegalField (w + low * 2 ^ 32)
        | none =>
          let k := s.me.repResume.getD 0
          .ended (modMe (fun g =>
            if o.cnt.toNat < k then { g with hint := g.hintNext, repResume := none, blocked := none }.advance (g.pc + 8)
            else { g with rep := some { k := k, op := o, target := t }, hint := g.hintNext, repResume := none
                          blocked := none }) s))

/-- The operand cache after registers are named in order: the last six named are resident (02 R67). -/
def stageCache (named cache : List Nat) : List Nat :=
  let c := named.foldl (fun c n => c.filter (· != n) ++ [n]) cache
  c.drop (c.length - 6)

/-- STAGE makes registers resident in the operand cache and changes no register (02 R67, 05 R143). -/
def execStage (o : OpStage) (s : State) : Out :=
  wordG (.stage o) [.vname o.vd.toNat 0, .vname o.va.toNat 1, .vname o.vb.toNat 2] s (fun s _ =>
    .done (modMe (fun g => { g with cache := stageCache [o.vd.toNat, o.va.toNat, o.vb.toNat] g.cache }) s) .seq)

/-! ## Group control (05 R144 to R150) -/

def execNop (s : State) : Out := wordG .nop [] s (fun s _ => .done s .seq)

/-- EXIT (05 R146). -/
def execExit (s : State) : Out := wordG .exit [] s (fun s _ => .ended (endGroup s.qid (countIssue s.qid s.me s)))

/-- The slots after LEXIT (05 R147). -/
def lexitSlots (g : Group) : List Slot :=
  settleQuads ((List.range 32).map (fun k =>
    if g.guardMask.getLsbD k && g.live k then { g.slot k with st := .exited } else g.slot k))

/-- LEXIT (05 R147). A guard that covers no live slot makes it a NOP. The predicates stay as they are: a bit that is set at a slot which
becomes a helper stays set, so that the helper acts under it (DESIGN CHOICE, log 70: 02 R48 speaks of writes alone). -/
def execLexit (s : State) : Out :=
  wordG .lexit [] s (fun s _ =>
    let g := s.me
    if g.actLive = 0 then .done s .seq
    else if g.covers then .ended (endGroup s.qid (countIssue s.qid s.me s))
    else .done (modMe (fun g => { g with slots := lexitSlots g }) s) .seq)

/-- TRAP retires and then takes trap 0x0E (05 R148, R125). -/
def execTrap (o : OpImm) (s : State) : Out :=
  wordG (.trap o) [] s (fun s _ =>
    let s1 := modMe (fun g => { g with step := g.stepLeft }) (retireWord .seq s)
    .ended (takeTrap s.qid tTrap (o.imm.zeroExtend 64) s1.me.pc s1))

/-- ERET that an armed STEP follows at once: what it asks of the word at TPC is settled before the STEP is taken (04 R114, 05 R130). -/
def steppedReturn (s : State) : Res :=
  let s1 := eretState s
  let g := (settleResume (modMe (fun g => g.retire (eretNext s.me) s.cclk) s1)).me
  .done s1 (.resume g.pc g.loop g.repResume g.barHalf)

/-- ERET (05 R130). -/
def execEret (s : State) : Out :=
  wordG .eret [] s (fun s _ =>
    let g := s.me
    if g.hact || g.dact || g.pact then (if g.step == .armed then steppedReturn s else takeReturn s)
    else .trap s tIllegalOpcode (encode .eret).toNat)

/-- The service number and the arguments of a request block (05 R149). -/
def syscBlock (bs : List Byte) : W64 × List W64 :=
  let w (k : Nat) : W64 := BitVec.ofNat 64 (leNat ((bs.drop (8 * k)).take 8))
  (w 0, (List.range 7).map (fun k => w (k + 1)))

/-- SYSC (05 R149). One call of a group is pending at a time; a second waits (log 17). -/
def execSysc (o : OpDA) (s : State) : Out :=
  wordG (.sysc o) [.ss o.sa.toNat false 1, .sd o.sd.toNat] s (fun s _ =>
    let g := s.me
    if g.sysc.isSome then .wait s .sysc
    else match access s { size := 64, write := false, atomic := false, vector := true } true
        ((g.readS o.sa.toNat).toNat / 64 * 64) with
      | .error r => r
      | .ok (.bytes ps _, s1) =>
        match partsBad s1 ps with
        | some d => .trap s1 tDataErr (accessInfo false false 0 (g.readS o.sa.toNat).toNat d)
        | none =>
          let b := syscBlock (readParts s1 g.vf ps)
          if (Tab.get 0 s1.boot.svccnt g.vf).toNat % 256 ≤ b.1.toNat then .trap s1 tSyscFail (b.1.toNat % 2 ^ 16)
          else
            let h := s1.nextSysc
            .done { modMe (fun g => { g.emptyS o.sd.toNat with
                sysc := some { handle := BitVec.ofNat 64 h, dest := o.sd.toNat, service := b.1, args := b.2 } }) s1 with
              nextSysc := h + 1
              syscs := Tab.set s1.syscs h
                { q := s.qid, gen := g.gen, vf := g.vf, launch := g.launch, s1root := s1.myTeam.s1root, core := coreOf s1.qid
                  service := b.1, args := b.2, gone := false, answer := none } } .seq
      | .ok (_, s1) => .trap s1 tPerm (accessInfo false false 0 (g.readS o.sa.toNat).toNat 4))

/-- The answer of a call lands in its group (05 R149, 17 R404). -/
def landSysc (q : Nat) (v : W64) (s : State) : State :=
  match (groupAt s q).sysc with
  | none => s
  | some y =>
    bumpMemGen (groupAt s q).team
      (unblock q { modGroup q (fun g => { g.writeS y.dest v with
          sysc := none, blocked := if g.blocked = some .sysc then none else g.blocked
          readyAt := if g.blocked = some .sysc then s.cclk else g.readyAt }) s with
        syscs := Tab.del s.syscs y.handle.toNat })

/-- The answers that the service table of 22 R470 admits: an error −1 or −2, or the value the row gives. LOG takes at most 4,096
bytes. -/
def syscAnswerOk (r : SyscRec) (v : W64) : Bool :=
  v == -1 || v == -2 || (match r.service.toNat with
    | 0 => v == r.args.getD 0 0
    | 1 => decide (v.toNat ≤ (r.args.getD 1 0).toNat) && decide ((r.args.getD 1 0).toNat ≤ 4096)
    | 2 | 3 => decide (v.toNat ≤ (r.args.getD 2 0).toNat)
    | 4 => v == 0
    | _ => true)

/-- Every page of a range of n bytes is resolved: its translation reaches memory. -/
def pagesResolved (s : State) (e : Env) (va n : Nat) : Bool :=
  (List.range ((va % 4096 + n + 4095) / 4096)).all (fun i => match resolve s e .read (va / 4096 * 4096 + 4096 * i) with
    | .mem _ _ => true
    | _ => false)

/-- What a service does beside its answer (22 R470): LOG appends bytes of memory to the VF's host log, NETRECV writes the bytes it
received, and PAGEIN answers once every page of its range is resolved. None where memory that the answer speaks of is not reached: that
answer does not come. -/
def syscEffect (e : Env) (r : SyscRec) (v : W64) (bytes : List Byte) (s : State) : Option State :=
  if v == -1 || v == -2 then some s
  else match r.service.toNat with
    | 1 => (engineRead s e (r.args.getD 0 0).toNat v.toNat).toOption.map (fun bs =>
        modVf r.vf (fun f => { f with hostLog := f.hostLog ++ bs }) s)
    | 3 => (engineWrite e (r.args.getD 1 0).toNat (bytes.take v.toNat) s).toOption
    | 4 => if pagesResolved s e (r.args.getD 0 0).toNat (r.args.getD 1 0).toNat then some s else none
    | _ => some s

/-- SYSC_ANSWER (05 R149, 02 R68, 17 R404): a call's answer fills its register. The answer of a group that has ended is
dropped, and that of a group that has stopped for a save is kept by the hub until restore. -/
def execSyscAnswer (handle answer : W64) (bytes : List Byte) (s : State) : Out :=
  event "SYSC_ANSWER"
    (match Tab.find s.syscs handle.toNat with
      | none => none
      | some r =>
        if !syscAnswerOk r answer || r.answer.isSome then none
        else if r.gone then
          some (count r.core evGendrop r.vf 1 { s with syscs := Tab.del s.syscs handle.toNat })
        else match s.groups.find? (fun e => e.2.st != .stopped && (match e.2.sysc with
            | some y => y.handle == handle
            | none => false)) with
          | some (q, _) => (syscEffect (envOf s q) r answer bytes s).map (landSysc q answer)
          | none =>
            let e : Env := { vf := r.vf, s1root := r.s1root, team := 0, core := 1028, priv := r.vf == 0 }
            (syscEffect e r answer bytes s).map (fun s1 =>
              { s1 with syscs := Tab.set s1.syscs handle.toNat { r with answer := some answer } }))

/-- BRK does not retire; its own address is TPC (05 R148). -/
def execBrk (o : OpImm) (s : State) : Out := wordG (.brk o) [] s (fun s _ => .trap s tBrk o.imm.toNat)

/-- TWAIT retires once TIME ≥ S[SA] (05 R150). -/
def tryTwait (o : OpA) (s : State) : Res :=
  if (s.me.readS o.sa.toNat).toNat ≤ s.time.toNat then .done s .seq else .wait s (.twait o)

def execTwait (o : OpA) (s : State) : Out :=
  wordG (.twait o) [.ss o.sa.toNat false 1] s (fun s _ => tryTwait o s)

def execTwaitExpiry (q : Nat) (s : State) : Out :=
  wakeWord "TWAIT_EXPIRY" q s (fun b => match b with
    | .twait o => some (tryTwait o)
    | _ => none)

/-- YIELD retires, and the group leaves the active set (05 R145, 07 R202). -/
def execYield (s : State) : Out :=
  wordG .yield [] s (fun s _ =>
    .done (modMe (fun g => { g with active := false, cache := [], yieldedAt := some s.cclk }) s) .seq)

/-! ## Branches, jumps and calls (05 R151 to R153) -/

/-- Go to a target, as a taken branch (04 R116, R121). -/
def jumpTo (t : W64) (s : State) : Res := .done s (.goto t s.me.loopAfterBranch)

/-- A branch of BR format. -/
def branch (i : Instr) (uses : List Use) (off : BitVec 16) (taken : Group → Bool) (s : State) : Out :=
  wordG i uses s (fun s _ =>
    if taken s.me then jumpTo (s.me.pc + (off.signExtend 64 <<< 2)) s else .done s .seq)

def execBEqz (o : OpBr) (s : State) : Out :=
  branch (.bEqz o) [.ss o.sa.toNat false 1] o.off (fun g => g.readS o.sa.toNat == 0) s
def execBNez (o : OpBr) (s : State) : Out :=
  branch (.bNez o) [.ss o.sa.toNat false 1] o.off (fun g => g.readS o.sa.toNat != 0) s
def execBLtz (o : OpBr) (s : State) : Out :=
  branch (.bLtz o) [.ss o.sa.toNat false 1] o.off (fun g => decide ((g.readS o.sa.toNat).toInt < 0)) s
def execBGez (o : OpBr) (s : State) : Out :=
  branch (.bGez o) [.ss o.sa.toNat false 1] o.off (fun g => decide (0 ≤ (g.readS o.sa.toNat).toInt)) s
def execBGtz (o : OpBr) (s : State) : Out :=
  branch (.bGtz o) [.ss o.sa.toNat false 1] o.off (fun g => decide (0 < (g.readS o.sa.toNat).toInt)) s
def execBLez (o : OpBr) (s : State) : Out :=
  branch (.bLez o) [.ss o.sa.toNat false 1] o.off (fun g => decide ((g.readS o.sa.toNat).toInt ≤ 0)) s

/-- The bits of a predicate at live slots, which alone count (04 R103). -/
def Group.predLive (g : Group) (n : Nat) : W32 := g.readP n &&& g.liveMask

def execBPany (o : OpBrP) (s : State) : Out :=
  branch (.bPany o) [] o.off (fun g => g.predLive o.pa.toNat != 0) s
def execBPnone (o : OpBrP) (s : State) : Out :=
  branch (.bPnone o) [] o.off (fun g => g.predLive o.pa.toNat == 0) s
def execBPall (o : OpBrP) (s : State) : Out :=
  branch (.bPall o) [] o.off (fun g => g.predLive o.pa.toNat == g.liveMask) s
def execBAlways (o : OpBrAlways) (s : State) : Out := branch (.bAlways o) [] o.off (fun _ => true) s

/-- The target of JP format. -/
def jpTarget (pc : W64) (off : BitVec 26) : W64 := pc + (off.signExtend 64 <<< 2)

def execJ (o : OpJ) (s : State) : Out := wordG (.j o) [] s (fun s _ => jumpTo (jpTarget s.me.pc o.off) s)

def execCall (o : OpJ) (s : State) : Out :=
  wordG (.call o) [.sd 63] s (fun s _ => jumpTo (jpTarget s.me.pc o.off) (putS 63 (s.me.pc + 4) s))

/-- S[SA] with bits [1:0] cleared (R152). -/
def jrTarget (v : W64) : W64 := v &&& ~~~(3 : W64)

def execJr (o : OpJr) (s : State) : Out :=
  wordG (.jr o) [.ss o.sa.toNat o.ta 1] s (fun s _ => jumpTo (jrTarget (s.me.readS o.sa.toNat)) s)

def execCallr (o : OpJr) (s : State) : Out :=
  wordG (.callr o) [.ss o.sa.toNat o.ta 1, .sd 63] s (fun s _ =>
    jumpTo (jrTarget (s.me.readS o.sa.toNat)) (putS 63 (s.me.pc + 4) s))

/-- LOOP pins its body and runs it S[CNT] times (04 R119 to R121, 05 R154). -/
def execLoop (o : OpLoop) (s : State) : Out :=
  let n := o.len.toNat + 1
  match check4 s (encode (.loop o)) with
  | some f =>
    wordG (.loop o) [] s (fun s _ => match f with
      | .trap code info => .trap s code info
      | .demand st p => .wait (raiseDemand (envOf s s.qid) st p s) (.demand st p)
      | .held => .wait s .held
      | .word _ _ => .done s .seq)
  | none =>
    wordG (.loop o) [.ss o.cnt.toNat false 1] s (fun s _ =>
      let g := s.me
      let cnt := g.readS o.cnt.toNat
      match loopWords s (envOf s s.qid) g.failPages (g.pc + 4) n with
      | .error _ => .done s .seq
      | .ok ws =>
        if cnt = 0 then .done s (.goto (g.pc + BitVec.ofNat 64 (4 * (n + 1))) none)
        else
          let l : PinnedLoop :=
            { addr := g.pc, body := ws, remaining := cnt, suspended := false, refetch := false, unread := false }
          .done s (.goto (g.pc + 4) (some l)))

end Sys2Proof.Machine
end

