-- ==== Sys2Proof/Machine/Accum.lean ====
section
/-!
DEFINITION. Accumulator elements (01 R19, R20, R36) and the drains and fills of major 0x30 (11 R322 to R326).
-/
namespace Sys2Proof.Machine

/-! ## A256 elements (01 R19, R20) -/

/-- An accumulator element: its value in units of 2^-128 and its status byte. -/
structure Elem where
  value : Int
  status : Nat
deriving DecidableEq, Repr

def Elem.cls (e : Elem) : Nat := e.status % 4

/-- An element from its 33 bytes. Status bits [7:6] read 0. -/
def elemOfBytes (bs : List Byte) : Elem :=
  { value := intValue true 256 (leNat (bs.take 32)), status := (bs.getD 32 0).toNat % 64 }

/-- The 33 bytes of an element. -/
def Elem.bytes (e : Elem) : List Byte := leBytes 32 (intBits 256 e.value) ++ leBytes 1 e.status

/-- The element (m, n) of a physical tile. -/
def readElem (s : State) (core tile m n : Nat) : Elem := elemOfBytes (readPas s (keyNum s 0) (elemAddr core tile m n) 33)

/-- Write the element (m, n) of a physical tile. -/
def writeElem (core tile m n : Nat) (e : Elem) (s : State) : State :=
  writePas (keyNum s 0) (elemAddr core tile m n) e.bytes s

/-- A value clamped to the range of Q127.128, and whether it saturated. -/
def a256Clamp (v : Int) : Int × Bool :=
  if 2 ^ 255 - 1 < v then (2 ^ 255 - 1, true) else if v < -(2 ^ 255) then (-(2 ^ 255), true) else (v, false)

/-! ## Draining (01 R36, R25, R26) -/

/-- The destination of a DT code: a format, or an integer of a width (R322). -/
def drainFmt (dt : Nat) : Option Fmt :=
  match dt with
  | 0 => some .f32 | 2 => some .h16 | 3 => some .b16 | 4 => some .e4m3 | _ => none
def drainWidth (dt : Nat) : Nat := if dt = 1 then 32 else 8

/-- Drain(element, DT, rnd): the lane and the flags. -/
def drainElem (dt : Nat) (env : FpEnv) (l : Nat) (e : Elem) : W32 × Flags :=
  let v : Fpv :=
    match e.cls with
    | 0 => .fin (decide (e.value < 0)) e.value.natAbs (-128)
    | 1 => .inf false
    | 2 => .inf true
    | _ => .nan false 0
  match drainFmt dt with
  | some f =>
    let r := match v with
      | .fin neg m k => fpRound f env l neg m k
      | .inf neg => fpInfinity f env neg
      | .nan _ _ => (f.nanBits, 0)
    (BitVec.ofNat 32 r.1, r.2)
  | none =>
    let w := drainWidth dt
    let r := fpToInt true w env.rnd l v
    (BitVec.ofInt 32 (intValue true w r.1), r.2)

/-! ## Filling (R325) -/

/-- Enter(lane, DT): the element that a lane becomes. -/
def enterElem (dt : Nat) (x : W32) : Elem :=
  match drainFmt dt with
  | some f =>
    (match fpDecode f (x.toNat % 2 ^ f.width) with
      | .nan _ _ => { value := 0, status := 3 + 16 }
      | .inf neg => { value := 0, status := if neg then 2 else 1 }
      | .fin neg m e =>
        let r := roundUnits 1 0 neg m e (-128)
        let v : Int := if neg then -(r.1 : Int) else r.1
        let big := decide (2 ^ 255 ≤ r.1)
        { value := (a256Clamp v).1, status := (if big then 4 else 0) + (if r.2 then 8 else 0) })
  | none =>
    let w := drainWidth dt
    { value := intValue true w (x.toNat % 2 ^ w) * 2 ^ 128, status := 0 }

/-- A raw element: the value of a class that is not finite is 0. -/
def rawElem (bs : List Byte) : Elem :=
  let e := elemOfBytes bs
  { value := if e.cls = 0 then e.value else 0, status := e.status }

/-- The first n raw elements of a row's bytes. -/
def rawRow (n : Nat) (bs : List Byte) : List Byte := (List.range n).flatMap (fun i => (rawElem (bs.drop (33 * i))).bytes)

/-! ## The checks that both members share (R323) -/

/-- The lines of the elements (m, n) to (m, n + count − 1) meet a range lock, or hold uncorrectable data. -/
def elemLines (core tile m n count : Nat) : List Nat := (lineRange (elemAddr core tile m n) (33 * count)).map Prod.fst

def elemLock (s : State) (lines : List Nat) (write : Bool) : Option Res :=
  (lines.findSome? (fun pa => threadLock s (coreOf s.qid) pa write)).map (fun h =>
    failRes s (envOf s s.qid) (.trap 5 tRangeLock (accessInfo h.2 write 0 0 h.1)))

def elemBad (s : State) (lines : List Nat) : Option Res :=
  (partsBad s (lines.map (fun pa => (pa, 1)))).map (fun d => .trap s tDataErr (accessInfo false false 0 0 d))

/-- The frame of an accumulator word: ACC, then the row, then the effect on the physical tile and the row. -/
def accWord (word : W32) (uses : List Use) (acc sb : Nat) (s : State) (go : Nat → Nat → State → List VReg → Res) : Out :=
  wordW word uses s (fun s src =>
    match s.myTeam.tiles[acc]? with
    | none => .trap s tIllegalField (word.toNat + 18 * 2 ^ 32)
    | some tile =>
      let m := (s.me.readS sb).toNat
      if 128 ≤ m then badOperandW word sb s else go tile m s src)

/-- The recorded range of a tile (10 R289). -/
def tileRec (s : State) (core tile : Nat) : TileRec :=
  Tab.get { rows := 128, cols := 128, fault := false } (coreAt s core).tiles tile

/-! ## ADRAIN (R324) -/

/-- The drained slots of a register form: acting, and inside the recorded range. -/
def drainMask (g : Group) (r : TileRec) (m q : Nat) : W32 :=
  g.guardMask &&& maskOf (fun k => decide (m < r.rows) && decide (32 * q + k < r.cols))

/-- Enter the drained lanes in VD: empty now and full at completion, or a write port. -/
def drainReturn (vd : Nat) (mask : W32) (cover : Bool) (lanes : List W32) (s : State) : State :=
  if 112 ≤ vd then modMe (fun g => g.pushPort vd lanes (mask &&& g.liveMask)) s
  else if mask = 0 ∧ !cover then s
  else modMe (Group.emptyV vd) (addReturn [.vector vd mask cover lanes none] none s)

/-- The lines of the elements that a register drain consumes: data that it does not deliver is not consumed (19 R414). -/
def drainLines (core tile m q : Nat) (mask : W32) : List Nat :=
  (List.range 32).flatMap (fun k => if mask.getLsbD k then elemLines core tile m (32 * q + k) 1 else [])

def execAdrain (o : OpDrain) (s : State) : Out :=
  accWord (o.pack 0xC0000000) [.ss o.sb.toNat false 1, .vd o.vd.toNat] o.acc.toNat o.sb.toNat s (fun tile m s _ =>
    let g := s.me
    let core := coreOf s.qid
    let q := o.q.toNat
    let lines := elemLines core tile m (32 * q) 32
    match elemLock s lines false with
    | some r => r
    | none =>
      let mask := drainMask g (tileRec s core tile) m q
      match elemBad s (drainLines core tile m q mask) with
      | some r => r
      | none =>
        let env := fpEnvRnd g.mode o.rnd.toNat
        let run := runLanes mask g.liveMask g.seed (fun seed k =>
          let d := drawRound env.rnd seed
          let r := drainElem o.dt.toNat env d.2 (readElem s core tile m (32 * q + k))
          (r.1, r.2, d.1))
        .done (modMe (Group.takeRun run) (drainReturn o.vd.toNat mask g.covers run.vals s)) .seq)

def execAdrainRaw (o : OpRaw) (s : State) : Out :=
  accWord (o.pack 0xC0000006) [.ss o.sb.toNat false 1, .ss o.sr.toNat false 0] o.acc.toNat o.sb.toNat s (fun tile m s _ =>
    let core := coreOf s.qid
    let r := tileRec s core tile
    let n := if m < r.rows then r.cols else 0
    let a := (s.me.readS o.sr.toNat).toNat
    let lines := elemLines core tile m 0 (if n = 0 then 128 else n)
    match rangeCheck s true a (33 * n) with
    | .error r => r
    | .ok (ps, ts) =>
      match elemLock s lines false with
      | some r => r
      | none =>
        match (if n = 0 then none else watchHit s s.qid false true (33 * n) [(0, a)]) with
        | some info => .trap s tWatch info
        | none =>
          match (if n = 0 then none else elemBad s lines) with
          | some r => r
          | none =>
            .done (memGenMe (writeParts s.me.vf ps (rawRow n (readPas s (keyNum s 0) (elemAddr core tile m 0) (33 * n)))
              (addTlbs (dieOf s.qid) ts s))) .seq)

/-! ## AFILL (R325) -/

/-- A fill sets the recorded range of the tile to 128 × 128. -/
def fillRange (core tile : Nat) (s : State) : State :=
  modCore core (fun c => { c with tiles := Tab.set c.tiles tile { Tab.get default c.tiles tile with rows := 128, cols := 128 } }) s

def execAfill (o : OpFillAcc) (s : State) : Out :=
  accWord (o.pack 0xC0800000) [.vs o.vd.toNat false 0, .ss o.sb.toNat false 1] o.acc.toNat o.sb.toNat s (fun tile m s src =>
    let g := s.me
    let core := coreOf s.qid
    let q := o.q.toNat
    match elemLock s (elemLines core tile m (32 * q) 32) true with
    | some r => r
    | none =>
      let x := src.getD 0 (.uniform 0)
      .done (fillRange core tile ((List.range 32).foldl (fun t k =>
        if g.actLive.getLsbD k then writeElem core tile m (32 * q + k) (enterElem o.dt.toNat (x.lane k)) t else t) s)) .seq)

def execAfillRaw (o : OpRaw) (s : State) : Out :=
  accWord (o.pack 0xC0800006) [.ss o.sb.toNat false 1, .ss o.sr.toNat false 0] o.acc.toNat o.sb.toNat s (fun tile m s _ =>
    let core := coreOf s.qid
    let a := (s.me.readS o.sr.toNat).toNat
    match rangeCheck s false a 4224 with
    | .error r => r
    | .ok (ps, ts) =>
      match elemLock s (elemLines core tile m 0 128) true with
      | some r => r
      | none =>
        match watchHit s s.qid true false 4224 [(0, a)] with
        | some info => .trap s tWatch info
        | none =>
          match badInfo s 0 a ps with
          | some i => .trap s tDataErr i.toNat
          | none =>
            let bs := readParts s s.me.vf ps
            .done (fillRange core tile ((List.range 128).foldl (fun t n =>
              writeElem core tile m n (rawElem (bs.drop (33 * n))) t) (addTlbs (dieOf s.qid) ts s))) .seq)

end Sys2Proof.Machine
end

