-- ==== Sys2Proof/Machine/VecConv.lean ====
section
/-!
DEFINITION. Conversion and block scaling, majors 0x1E and 0x1F (06 R175 to R177, 01 R28 to R30).
-/
namespace Sys2Proof.Machine

/-! ## VCVT (R175, R176) -/

/-- A type of R104: its container width, and its format or its signedness. -/
structure CvtType where
  w : Nat
  fmt : Option Fmt
  signed : Bool
deriving DecidableEq, Repr

/-- The type of a code. -/
def cvtType (c : Nat) : CvtType :=
  match c with
  | 0 => { w := 32, fmt := none, signed := true }
  | 1 => { w := 32, fmt := none, signed := false }
  | 2 => { w := 16, fmt := none, signed := true }
  | 3 => { w := 16, fmt := none, signed := false }
  | 4 => { w := 8, fmt := none, signed := true }
  | 5 => { w := 8, fmt := none, signed := false }
  | 6 => { w := 32, fmt := some .f32, signed := true }
  | 7 => { w := 16, fmt := some .h16, signed := true }
  | 8 => { w := 16, fmt := some .b16, signed := true }
  | 9 => { w := 8, fmt := some .e4m3, signed := true }
  | 10 => { w := 8, fmt := some .e5m2, signed := true }
  | 11 => { w := 8, fmt := some .e3m2, signed := true }
  | 12 => { w := 8, fmt := some .e2m3, signed := true }
  | _ => { w := 4, fmt := some .e2m1, signed := true }

/-- A value entering a floating-point destination (R25): rounded, with infinities and NaN by the table. `src` is the
format that a NaN comes in. -/
def fpStore (src dst : Fmt) (env : FpEnv) (l : Nat) (v : Fpv) : Nat × Flags :=
  match v with
  | .nan neg p => fpNan dst env [{ fmt := src, neg := neg, payload := p }]
  | .inf neg => fpInfinity dst env neg
  | .fin neg m e => fpRound dst env l neg m e

/-- One element converted (R176). -/
def cvtElem (st dt : CvtType) (env : FpEnv) (l bits : Nat) : Nat × Flags :=
  match st.fmt, dt.fmt with
  | none, none => (widthRule env.sat dt.signed dt.w (intValue st.signed st.w bits), 0)
  | some f, none => fpToInt dt.signed dt.w env.rnd l (fpInput f env.ftz (bits % 2 ^ f.width))
  | none, some g =>
    let x := intValue st.signed st.w bits
    fpRound g env l (decide (x < 0)) x.natAbs 0
  | some f, some g => fpStore f g env l (fpInput f env.ftz (bits % 2 ^ f.width))

/-- A conversion between integer types rounds nothing; every other one is a rounding place (01 R22). -/
def cvtRounds (st dt : CvtType) : Bool := st.fmt.isSome || dt.fmt.isSome

/-- One lane converted: the lower element count converts and every other element is 0. -/
def cvtLane (st dt : CvtType) (env : FpEnv) (x seed : W32) : W32 × Flags × W32 :=
  let r := (List.range (min (32 / st.w) (32 / dt.w))).foldl (fun (acc : List Nat × Flags × W32) j =>
    let d := if cvtRounds st dt then drawRound env.rnd acc.2.2 else (acc.2.2, 0)
    let o := cvtElem st dt env d.2 (elemOf st.w j x)
    (acc.1 ++ [o.1], acc.2.1 ||| o.2, d.1)) ([], 0, seed)
  (packElems dt.w r.1, r.2.1, r.2.2)

/-- VCVT (R176). A conversion between integer types rounds nothing, so that its shape is that of its source under every mode (02 R50);
under RS it is not eligible for reuse (R165). -/
def execVcvt (o : OpCV) (s : State) : Out :=
  let uses := [.vd o.vd.toNat, .vs o.va.toNat o.ta 1]
  wordG (.vcvt o) uses s (fun s src =>
    let m := s.me.mode
    let env := fpEnvRnd m o.rnd.toNat
    let st := cvtType o.st.toNat
    let dt := cvtType o.dt.toNat
    let mask := maskG ||| maskSat ||| maskFtz ||| maskNanp ||| (if o.rnd = 0 then maskRnd else 0)
    let form := vform o.vd.toNat (keyVI (.vcvt o)) m mask (cvtRounds st dt && env.rnd == 6) false
    vecBody { form with eligible := env.rnd != 6 } uses shapeElem
      (s.me.vreg o.vd.toNat)
      (fun src seed k => cvtLane st dt env ((src.map (fun r => r.lane k)).getD 0 0) seed) s src)

/-! ## VMXQ and VMXD (R177) -/

/-- The block element format of a code; none is the plain i8 (R177). -/
def mxFmt (c : Nat) : Option Fmt :=
  match c with
  | 0 => some .e4m3 | 1 => some .e5m2 | 2 => some .e3m2 | 3 => some .e2m3 | 4 => some .e2m1 | _ => none

/-- emax of a destination (01 R29). -/
def mxEmax (c : Nat) : Int :=
  match c with
  | 0 => 8 | 1 => 15 | 2 => 4 | 3 => 2 | 4 => 2 | _ => 6

/-- Container width of a block element. -/
def mxWidth (c : Nat) : Nat := if c = 4 then 4 else 8

/-- An element of a block quantized under an exponent (R29): Sat(Round(x / 2^e, RNE), F), with UF and NX but no OF. -/
def mxElem (c : Nat) (e : Int) (x : Fpv) : Nat × Flags :=
  match x with
  | .fin neg m k =>
    (match mxFmt c with
      | some f =>
        let r := fpRound f { rnd := 1, sat := true, ftz := false, nanp := false } 0 neg m (k - e)
        (r.1, r.2 &&& (flagUF ||| flagNX))
      | none =>
        let r := roundUnits 1 0 neg m (k - e) 0
        let v : Int := if neg then -(r.1 : Int) else r.1
        let cl := max (-127) (min 127 v)
        (intBits 8 cl, if r.2 || cl != v then flagNX else 0))
  | _ => (0, 0)

/-- The slots of a block's register (R29): the packed elements from slot 0 upward and the scale in the next slot. -/
def mxLayout (c : Nat) (scale : Nat) (es : List Nat) : List W32 :=
  let w := mxWidth c
  let per := 32 / w
  let slots := 32 / per
  (List.range 32).map (fun s =>
    if s < slots then packElems w ((es.drop (s * per)).take per)
    else if s = slots then BitVec.ofNat 32 scale
    else 0)

/-- A value that no block holds. -/
def mxBad (v : Fpv) : Bool :=
  match v with
  | .fin _ _ _ => false
  | _ => true

/-- Quantize 32 binary32 values to one block (R29), with the flags that the elements of live slots raise (R161). -/
def mxQuantize (c : Nat) (ftz : Bool) (live : W32) (xs : List W32) : List W32 × Flags :=
  let vs := xs.map (fun x => fpInput .f32 ftz x.toNat)
  let flagsOf (fs : List Flags) : Flags := fs.zipIdx.foldl (fun f x => if live.getLsbD x.2 then f ||| x.1 else f) 0
  let bad := vs.any mxBad
  let exps := vs.filterMap (fun v => match v with
    | .fin _ m e => if m = 0 then none else some (leadExp m e)
    | _ => none)
  if bad then (mxLayout c 0xFF (List.replicate 32 0), flagsOf (vs.map (fun v => if mxBad v then flagNV else 0)))
  else match exps with
    | [] => (mxLayout c 0x7F (List.replicate 32 0), 0)
    | a :: t =>
      let e := max (t.foldl max a - mxEmax c) (-127)
      let es := vs.map (mxElem c e)
      (mxLayout c (e + 127).toNat (es.map Prod.fst), flagsOf (es.map Prod.snd))

def execVmxq (o : OpMX) (s : State) : Out :=
  let uses := [.vd o.vd.toNat, .vs o.va.toNat o.ta 1]
  wordG (.vmxq o) uses s (fun s src =>
    let g := s.me
    let r0 := src.getD 0 (.uniform 0)
    let xs := (List.range 32).map (fun k => if g.guardMask.getLsbD k then r0.lane k else 0)
    let r := mxQuantize o.fmt.toNat (modeFtz g.mode) g.liveMask xs
    let key := if g.reusable && decide (o.vd.toNat < 112) && decide (o.va.toNat < 112) then
      some (aluKey g (keyVI (.vmxq o)) (modeKey g.mode (maskG ||| maskFtz)) false src) else none
    .done (raiseMe r.2 (putReused o.vd.toNat key (src.flatMap VReg.entries) r.2 (.general 0 r.1) s)) .seq)

/-- Element i of a block register as its container bits. -/
def mxBits (c i : Nat) (r : VReg) : Nat :=
  let per := 32 / mxWidth c
  elemOf (mxWidth c) (i % per) (r.lane (i / per))

/-- Dequantize element i of a block (R30). -/
def mxDequant (c : Nat) (env : FpEnv) (l i : Nat) (r : VReg) : Nat × Flags :=
  let scale := (r.lane (if c = 4 then 4 else 8)).toNat % 256
  let canonical := Fmt.nanBits .f32
  match mxFmt c with
  | none =>
    if scale = 0xFF then (canonical, 0)
    else
      let x := intValue true 8 (mxBits c i r)
      fpRound .f32 env l (decide (x < 0)) x.natAbs ((scale : Int) - 127)
  | some f =>
    match fpDecode f (mxBits c i r % 2 ^ f.width) with
    | .nan neg p => (nanResult .f32 env.nanp [{ fmt := f, neg := neg, payload := p }], 0)
    | .inf neg => if scale = 0xFF then (canonical, 0) else fpInfinity .f32 env neg
    | .fin neg m e => if scale = 0xFF then (canonical, 0) else fpRound .f32 env l neg m (e + (scale : Int) - 127)

def execVmxd (o : OpMX) (s : State) : Out :=
  let uses := [.vd o.vd.toNat, .vs o.va.toNat o.ta 1]
  wordG (.vmxd o) uses s (fun s src =>
    let m := s.me.mode
    let mask := maskG ||| maskFtz ||| maskRnd ||| maskSat ||| maskNanp
    vecBody (vform o.vd.toNat (keyVI (.vmxd o)) m mask (modeRnd m == 6) false) uses (fun _ => .g)
      (s.me.vreg o.vd.toNat)
      (fun src seed k =>
        let d := drawRound (modeRnd m) seed
        let r := mxDequant o.fmt.toNat (fpEnvOf m) d.2 k (src.getD 0 (.uniform 0))
        (BitVec.ofNat 32 r.1, r.2, d.1)) s src)

end Sys2Proof.Machine
end

