-- ==== Sys2Proof/Machine/Matrix.lean ====
section
/-!
DEFINITION. The matrix sequencer, majors 0x38 to 0x3A, and the matrix engine (10 R285 to R295; 11 R327 to R333; 01 R34, R35;
08 R239 to R242).
-/
namespace Sys2Proof.Machine

/-! ## The sequencer as an agent (R333) -/

def modSeq (c : Nat) (f : Sequencer → Sequencer) (s : State) : State := modCore c (fun x => { x with seq := f x.seq }) s
def seqAt (s : State) (c : Nat) : Sequencer := (coreAt s c).seq

/-- The team that owns the sequencer. -/
def seqTeam (s : State) (c : Nat) : Nat := (seqAt s c).owner.getD 0
def seqEnv (s : State) (c : Nat) : Env := envOfTeam s (seqTeam s c)

/-- M[n]. -/
def Sequencer.mreg (q : Sequencer) (n : Nat) : W64 := Tab.get 0 q.m n

/-- The sequencer's word is complete: it goes on at an address. -/
def seqGoto (c : Nat) (pc : W64) (s : State) : Out :=
  .next (modSeq c (fun q => { q with pc := pc, mtime := none }) s)
def seqNext (c : Nat) (s : State) : Out := seqGoto c ((seqAt s c).pc + 4) s

/-- The sequencer's word is a sequencer fault with a cause. -/
def seqStop (c cause : Nat) (word : W32) (s : State) : Out := .next (seqFault c cause word.toNat (seqAt s c).pc s)

/-- The sequencer stalls on a demand fault at an access of a word (14 R359). -/
def seqStall (c : Nat) (e : Env) (word : W32) (st p : Nat) (s : State) : Out :=
  .next (modSeq c (fun q => { q with stall := some (st, p), word := word }) (raiseDemand e st p s))

/-- One access of the sequencer to its team's memory: its physical parts. It waits for a conflicting lock (08 R241), and a
failure is a sequencer fault with cause 2. -/
def seqPlaces (c : Nat) (word : W32) (write : Bool) (va n : Nat) (s : State) (go : List (Nat × Nat) → Out) : Out :=
  let e := seqEnv s c
  match enginePlaces s e (if write then .write else .read) va n with
  | .error (.demand st p) => seqStall c e word st p s
  | .error .held => .next s
  | .error _ => seqStop c 2 word s
  | .ok ps => if ps.any (fun p => olderLock s c s.nextOrder p.1 write) then .next s else go ps

/-- A read of the sequencer. Uncorrectable data is cause 7 (19 R414). -/
def seqRead (c : Nat) (word : W32) (va n : Nat) (s : State) (go : Nat → Out) : Out :=
  seqPlaces c word false va n s (fun ps =>
    if (partsBad s ps).isSome then seqStop c 7 word s else go (leNat (readParts s (seqEnv s c).vf ps)))

/-- A write of the sequencer. -/
def seqWrite (c : Nat) (word : W32) (va : Nat) (bs : List Byte) (s : State) (go : State → Out) : Out :=
  seqPlaces c word true va bs.length s (fun ps => go (writeParts (seqEnv s c).vf ps bs s))

/-- Every dependency slot of a mask holds 0 (R294). -/
def slotsClear (q : Sequencer) (mask : BitVec 8) : Bool :=
  (List.range 8).all (fun j => !mask.getLsbD j || Tab.get 0 q.dep j == 0)

/-! ## Scalar words (R332) -/

def imm15 (i : BitVec 15) : W64 := i.signExtend 64

/-- Set M[n] and go on. -/
def seqSet (c n : Nat) (v : W64) (s : State) : Out := seqNext c (modSeq c (fun q => { q with m := Tab.set q.m n v }) s)

def execMadd (o : OpMAdd) (s : State) : Out :=
  wordM (o.pack 0xE8000000) s (fun c s =>
    seqSet c o.md.toNat ((seqAt s c).mreg o.ma.toNat + (seqAt s c).mreg o.mb.toNat) s)

def execMaddi (o : OpMAddi) (s : State) : Out :=
  wordM (o.pack 0xE8800000) s (fun c s => seqSet c o.md.toNat ((seqAt s c).mreg o.ma.toNat + imm15 o.imm) s)

def execMli (o : OpMLi) (s : State) : Out :=
  wordM (o.pack 0xE9000000) s (fun c s => seqSet c o.md.toNat (imm15 o.imm <<< (4 * o.sh.toNat)) s)

/-- A branch target: address + 4 × imm. -/
def seqTarget (s : State) (c : Nat) (i : BitVec 15) : W64 := (seqAt s c).pc + 4 * imm15 i

def execMbnz (o : OpMBnz) (s : State) : Out :=
  wordM (o.pack 0xE9800000) s (fun c s =>
    if (seqAt s c).mreg o.ma.toNat ≠ 0 then seqGoto c (seqTarget s c o.imm) s else seqNext c s)

def execMj (o : OpMJ) (s : State) : Out :=
  wordM (o.pack 0xEA000000) s (fun c s => seqGoto c (seqTarget s c o.imm) s)

/-! ## Format blocks and rings (10 R287 to R291) -/

def fbA (b : BitVec 512) : Nat := b.toNat % 16
def fbB (b : BitVec 512) : Nat := b.toNat / 2 ^ 4 % 16
def fbBlen (b : BitVec 512) : Nat := b.toNat / 2 ^ 12 % 256
def fbAsm (b : BitVec 512) : Nat := b.toNat / 2 ^ 20 % 4
def fbBsm (b : BitVec 512) : Nat := b.toNat / 2 ^ 22 % 4
def fbSpb (b : BitVec 512) : Bool := b.getLsbD 24
def fbRows (b : BitVec 512) : Nat := b.toNat / 2 ^ 32 % 256
def fbCols (b : BitVec 512) : Nat := b.toNat / 2 ^ 40 % 256
def fbOvw (b : BitVec 512) : Bool := b.getLsbD 48
def fbAsa (b : BitVec 512) : Nat := b.toNat / 2 ^ 96 % 2 ^ 32
def fbBsa (b : BitVec 512) : Nat := b.toNat / 2 ^ 128 % 2 ^ 32

/-- The reserved bits of a format block are 0, as its map has them. -/
def fbReservedClear (b : BitVec 512) : Bool :=
  let n := b.toNat
  n / 2 ^ 8 % 16 == 0 && n / 2 ^ 25 % 2 ^ 7 == 0 && n / 2 ^ 49 % 2 ^ 47 == 0 && n / 2 ^ 160 == 0

/-- A format block is valid (R287, R288). -/
def fbValid (b : BitVec 512) : Bool :=
  fbReservedClear b
    && decide (fbA b ≤ 5) && (decide (fbB b ≤ 5) || (fbB b == 6 && fbA b == 5))
    && fbBlen b == 32 && fbAsm b != 3 && fbBsm b != 3
    && (!fbSpb b || fbB b == 0 || fbB b == 1 || fbB b == 5)
    && decide (1 ≤ fbRows b) && decide (fbRows b ≤ 128) && decide (1 ≤ fbCols b) && decide (fbCols b ≤ 128)

/-- Container bits of an element code (R292). -/
def fbWidth (code : Nat) : Nat := if code = 4 then 4 else if code = 6 then 2 else 8

/-- Bytes that an entry of A and one of B needs (R292, R293). -/
def needA (b : BitVec 512) : Nat := 1024 * fbWidth (fbA b) + (if fbAsm b = 1 then 256 else 0)
def needB (b : BitVec 512) : Nat :=
  if fbSpb b then 16384 else 1024 * fbWidth (fbB b) + (if fbBsm b = 1 then 256 else 0)

/-- The ring register that a descriptor gives, with its cursor at (HEAD, 0) (R290, R329). -/
def ringOf (va : W64) (d : Nat) : Ring :=
  { va := va, base := BitVec.ofNat 32 (d % 2 ^ 32), ebytes := BitVec.ofNat 16 (d / 2 ^ 32), entries := BitVec.ofNat 16 (d / 2 ^ 48)
    spe := BitVec.ofNat 2 (d / 2 ^ 64), win := d / 2 ^ 70 % 2 == 1, member := BitVec.ofNat 4 (d / 2 ^ 66)
    curE := BitVec.ofNat 32 (d / 2 ^ 224), curJ := 0 }

/-- A ring descriptor is valid (R290). Reserved bits are ignored (00 R7). -/
def ringValid (r : Ring) : Bool :=
  (r.spe == 1 || r.spe == 3) && r.entries != 0 && r.ebytes.toNat % 128 == 0 && decide (r.base.toNat < 2 ^ 20)
    && (r.win || r.member == 0) && decide (r.base.toNat + r.entries.toNat * r.ebytes.toNat ≤ 2 ^ 20)

/-- The cursor advanced by one K-step (R291). -/
def curStep (r : Ring) (p : W32 × BitVec 2) : W32 × BitVec 2 := if p.2 + 1 < r.spe then (p.1, p.2 + 1) else (p.1 + 1, 0)

/-- The cursor advanced by n K-steps. -/
def curAdd (r : Ring) (p : W32 × BitVec 2) : Nat → W32 × BitVec 2
  | 0 => p
  | n + 1 => curAdd r (curStep r p) n

def Ring.cur (r : Ring) : W32 × BitVec 2 := (r.curE, r.curJ)

/-- Local VA of the entry i (R290). -/
def entryVa (r : Ring) (i : W32) : Nat :=
  localBase + (if r.win then 0x100000000 + r.member.toNat * 0x100000 else 0) + r.base.toNat
    + i.toNat % r.entries.toNat * r.ebytes.toNat

/-- K-steps published ahead of the cursor (R291). -/
def published (r : Ring) (tail : W32) : Int := ((tail - r.curE).toNat : Int) * r.spe.toNat - r.curJ.toNat

/-- An outstanding MMA names a ring register. -/
def ringNamed (q : Sequencer) (n : Nat) : Bool := q.mmas.any (fun m => m.o.ra.toNat == n || m.o.rb.toNat == n)

/-- An outstanding MMA names a physical tile. -/
def tileNamed (q : Sequencer) (t : Nat) : Bool := q.mmas.any (fun m => m.tile == t)

/-- The sequencer's word at a misaligned address: a translation or permission failure there is told before it (R295). -/
def seqMisaligned (c : Nat) (word : W32) (va n : Nat) (s : State) : Out :=
  match enginePlaces s (seqEnv s c) .read va n with
  | .error (.demand _ _) | .error .held | .ok _ => seqStop c 8 word s
  | .error _ => seqStop c 2 word s

def execMldfb (o : OpMLdfb) (s : State) : Out :=
  let word := o.pack 0xE4000000
  wordM word s (fun c s =>
    let va := ((seqAt s c).mreg o.ma.toNat).toNat
    if va % 64 ≠ 0 then seqMisaligned c word va 64 s
    else seqRead c word va 64 s (fun n =>
      if fbValid (BitVec.ofNat 512 n) then
        seqNext c (modSeq c (fun q => { q with fb := Tab.set q.fb o.fb.toNat (BitVec.ofNat 512 n) }) s)
      else seqStop c 3 word s))

def execMring (o : OpMRing) (s : State) : Out :=
  let word := o.pack 0xE4100000
  wordM word s (fun c s =>
    let va := (seqAt s c).mreg o.ma.toNat
    if ringNamed (seqAt s c) o.ring.toNat then .next s
    else if va.toNat % 32 ≠ 0 then seqMisaligned c word va.toNat 32 s
    else seqRead c word va.toNat 32 s (fun n =>
      if tbRegion va.toNat && ringValid (ringOf va n) then
        seqNext c (modSeq c (fun q => { q with ring := Tab.set q.ring o.ring.toNat (ringOf va n) }) s)
      else seqStop c 4 word s))

/-- A range of a core's physical memory meets a lock of an engine operation. -/
def rangeLocked (s : State) (c lo n : Nat) : Bool :=
  (coreAt s c).locks.any (fun l => decide (l.2.lo ≤ (lo + n - 1) / 64) && decide (lo / 64 ≤ l.2.hi))

/-- Physical address of a tile. -/
def tileBase (c tile : Nat) : Nat := accWindow c + tile * 0x84000

def execMzero (o : OpMZero) (s : State) : Out :=
  let word := o.pack 0xE4200000
  wordM word s (fun c s =>
    match (teamAt s (seqTeam s c)).tiles[o.acc.toNat]? with
    | none => seqStop c 5 word s
    | some t =>
      if tileNamed (seqAt s c) t || rangeLocked s c (tileBase c t) 0x84000 then .next s else seqNext c (clearTile c t s))

def execMwait (o : OpMWait) (s : State) : Out :=
  wordM (o.pack 0xE4300000) s (fun c s => if slotsClear (seqAt s c) o.wait then seqNext c s else .next s)

/-- A barrier named by an MSIG is recorded for the signalling of R295. -/
def recordBarrier (c : Nat) (va : W64) (s : State) : State :=
  modSeq c (fun q => { q with barriers := if q.barriers.contains va then q.barriers else q.barriers ++ [va] }) s

def execMsig (o : OpMSig) (s : State) : Out :=
  let word := o.pack 0xE4400000
  wordM word s (fun c s =>
    let va := (seqAt s c).mreg o.ma.toNat
    if va.toNat % 16 ≠ 0 then seqStop c 8 word s
    else if !tbRegion va.toNat then seqStop c 9 word s
    else
      let s1 := recordBarrier c va s
      if !slotsClear (seqAt s c) o.wait then .next s1
      else match tbPlace s1 (seqTeam s c) va.toNat with
        | none => seqStop c 12 word s1
        | some pa =>
          if olderLock s1 c s1.nextOrder pa true then .next s1
          else seqNext c (tbModify (teamAt s (seqTeam s c)).vf pa (fun t => tbUpdate t 1 0) s1))

/-- The doorbell of an MFETCH held a value: it is cleared, and fetching goes on there (R331). -/
def doorbellTaken (c : Nat) (word : W32) (door : W64) (v : W64) (s : State) : Out :=
  seqWrite c word door.toNat (leBytes 8 0) s (fun s1 =>
    if v.toNat % 4 ≠ 0 then seqStop c 8 word s1
    else seqGoto c v (modSeq c (fun q => { q with st := .run, park := none }) s1))

def execMfetch (o : OpMA) (s : State) : Out :=
  let word := o.pack 0xE4500000
  wordM word s (fun c s =>
    let va := (seqAt s c).mreg o.ma.toNat
    if va.toNat % 8 ≠ 0 then seqMisaligned c word va.toNat 8 s
    else seqRead c word va.toNat 8 s (fun n =>
      if n = 0 then .next (modSeq c (fun q => { q with st := .idle, park := some va }) s)
      else doorbellTaken c word va (BitVec.ofNat 64 n) s))

def execMend (s : State) : Out :=
  wordM 0xE4600000 s (fun c s => seqNext c (modSeq c (fun q => { q with st := .idle, park := none }) s))

def execMtime (o : OpMA) (s : State) : Out :=
  wordM (o.pack 0xE4700000) s (fun c s =>
    let t := (seqAt s c).mreg o.ma.toNat
    if t.toNat ≤ s.time.toNat then seqNext c s else .next (modSeq c (fun q => { q with mtime := some t }) s))

def execMpop (o : OpMPop) (s : State) : Out :=
  let word := o.pack 0xE4800000
  wordM word s (fun c s =>
    match Tab.find (seqAt s c).ring o.ring.toNat with
    | none => seqStop c 10 word s
    | some r =>
      if !slotsClear (seqAt s c) o.wait then .next s
      else seqWrite c word (r.va.toNat + 28) (leBytes 4 r.curE.toNat) s (seqNext c))

/-! ## Waits of the sequencer that an event ends -/

/-- MTIME_EXPIRY: TIME has reached the value that an MTIME waits for. -/
def execMtimeExpiry (c : Nat) (s : State) : Out :=
  match (seqAt s c).mtime with
  | some t =>
    if seqRuns s c && decide (t.toNat ≤ s.time.toNat) then seqNext c s else event "MTIME_EXPIRY" none
  | none => event "MTIME_EXPIRY" none

/-- MFETCH_DOORBELL_WRITE: the doorbell of a parked sequencer has been written, and the sequencer reads it again (R331). -/
def execMfetchDoorbellWrite (c : Nat) (s : State) : Out :=
  let q := seqAt s c
  match q.st, q.park with
  | .idle, some va =>
    if q.held || q.releasing || q.stall.isSome || (dieAt s (c / 64)).held then event "MFETCH_DOORBELL_WRITE" none
    else
      let word : W32 := match fetchWord s (seqEnv s c) [] q.pc with
        | .word w _ => w
        | _ => 0
      seqRead c word va.toNat 8 s (fun n => if n = 0 then .next s else doorbellTaken c word va (BitVec.ofNat 64 n) s)
  | _, _ => event "MFETCH_DOORBELL_WRITE" none

/-! ## MMA at issue (R327) -/

/-- The physical parts of a range of scratchpad, adjoining parts joined; none where a part does not resolve. -/
def scratchParts (s : State) (e : Env) (va n : Nat) : Option (List (Nat × Nat)) :=
  match enginePlaces s e .read va n with
  | .error _ => none
  | .ok ps => some (ps.foldl (fun acc p =>
      match acc.getLast? with
      | some l => if l.1 + l.2 = p.1 then acc.dropLast ++ [(l.1, l.2 + p.2)] else acc ++ [p]
      | none => [p]) [])

/-- The state in which an MMA's addresses resolve: with its team as it stood, where the team has ended since (10 R285). -/
def MmaRec.view (m : MmaRec) (s : State) : State :=
  match m.ended with
  | some t => { s with teams := Tab.set s.teams m.team t }
  | none => s

/-- The parts of the entries of n K-steps from a cursor on. -/
def entryParts (s : State) (e : Env) (r : Ring) (p : W32 × BitVec 2) : Nat → Option (List (List (Nat × Nat)))
  | 0 => some []
  | n + 1 =>
    match scratchParts s e (entryVa r p.1) r.ebytes.toNat, entryParts s e r (curStep r p) n with
    | some a, some rest => some (a :: rest)
    | _, _ => none

/-- Sorted parts of entries, each range once, with adjoining ones joined. -/
def joinParts (ps : List (Nat × Nat)) : List (Nat × Nat) :=
  (sortBy (fun a b => decide (a.1 ≤ b.1)) ps).foldl (fun acc p =>
    match acc.getLast? with
    | some l => if p.1 ≤ l.1 + l.2 then acc.dropLast ++ [(l.1, max (l.1 + l.2) (p.1 + p.2) - l.1)] else acc ++ [p]
    | none => [p]) []

/-- The locks of an MMA (08 R239): read locks on its entries, a write lock on its tile. -/
def mmaLocks (c serial tile : Nat) (parts : List (List (Nat × Nat))) : List Lock :=
  (joinParts parts.flatten).map (lockOn (.mma serial) false) ++ [lockOn (.mma serial) true (tileBase c tile, 0x84000)]

/-- K-steps of an MMA. -/
def mmaSteps (o : OpMma) : Nat := 2 ^ o.kx.toNat

/-- The causes that an MMA's operands meet (R327, R295), from its format block and rings. -/
def mmaCauses (o : OpMma) (tiles : Nat) (fb : Option (BitVec 512)) (ra rb : Option Ring) : List Nat :=
  let n := mmaSteps o
  let bad (r : Option Ring) : Bool := match r with
    | some x => decide (x.entries.toNat * x.spe.toNat < n)
    | none => true
  (if tiles ≤ o.acc.toNat then [5] else [])
    ++ (match fb with
      | some f => if ra.any (fun a => decide (a.ebytes.toNat < needA f)) || rb.any (fun b => decide (b.ebytes.toNat < needB f))
          then [6] else []
      | none => [])
    ++ (if fb.isNone || o.ra == o.rb || bad ra || bad rb
          || (match fb, ra, rb with
            | some f, some a, some b => a.spe != 1 || b.spe != (if fbSpb f then 3 else 1)
            | _, _, _ => true)
          || (!o.s && o.set != 0) then [10] else [])

/-- The causes that the TAIL of a ring meets (R295): it is not reached, or uncorrectable. -/
def tailCauses (s : State) (c : Nat) (x : Ring) : List Nat :=
  match enginePlaces s (seqEnv s c) .read (x.va.toNat + 24) 4 with
  | .error (.demand _ _) | .error .held => []
  | .error _ => [2]
  | .ok ps => if (partsBad s ps).isSome then [7] else []

/-- The causes that a loaded ring meets (R295): those of its TAIL, or an entry of the n K-steps from its cursor on is not reached. -/
def ringCauses (s : State) (c n : Nat) (r : Option Ring) : List Nat :=
  match r with
  | none => []
  | some x => tailCauses s c x ++ (if (entryParts s (seqEnv s c) x x.cur n).isNone then [2] else [])

/-- Register the locks of an MMA whose locks are not held, for its K-steps not added; none where it waits. The error is a
cause of R295. -/
def mmaLock (c : Nat) (m : MmaRec) (s : State) : Except Nat (Option State) :=
  let v := m.view s
  let e : Env := envOfTeam v m.team
  let left := mmaSteps m.o - m.done
  match entryParts v e m.ringA m.curA left, entryParts v e m.ringB m.curB left with
  | some a, some b =>
    let pad := List.replicate m.done []
    .ok ((takeLocks c (mmaLocks c m.serial m.tile (a ++ b)) s).map (modSeq c (fun q => { q with mmas := q.mmas.map (fun x =>
      if x.serial = m.serial then { x with locked := true, entA := pad ++ a, entB := pad ++ b } else x) })))
  | _, _ => .error 2

/-- The record of an MMA at issue. -/
def mmaRecord (s : State) (c : Nat) (o : OpMma) (f : BitVec 512) (a b : Ring) (tile : Nat) : MmaRec :=
  let k := seqTeam s c
  { serial := (seqAt s c).serial, launch := (teamAt s k).launch, team := k, vf := (teamAt s k).vf, pc := (seqAt s c).pc
    o := o, done := 0, curA := a.cur, curB := b.cur, block := f, ringA := a, ringB := b, tile := tile, locked := false
    entA := [], entB := [] }

/-- Enter an MMA: its locks, its cursors and its slot; none where the lock table lacks the entries. -/
def mmaIssue (c : Nat) (m : MmaRec) (s : State) : Except Nat (Option State) :=
  let n := mmaSteps m.o
  let adv (r : Ring) : Ring := { r with curE := (curAdd r r.cur n).1, curJ := (curAdd r r.cur n).2 }
  mmaLock c m (modSeq c (fun q => { q with
    mmas := q.mmas ++ [m], serial := q.serial + 1
    ring := Tab.set (Tab.set q.ring m.o.ra.toNat (adv m.ringA)) m.o.rb.toNat (adv m.ringB)
    dep := if m.o.s then Tab.set q.dep m.o.set.toNat (Tab.get 0 q.dep m.o.set.toNat + 1) else q.dep }) s)

def execMma (o : OpMma) (s : State) : Out :=
  let word := o.pack 0xE0000000
  wordM word s (fun c s =>
    let q := seqAt s c
    let tiles := (teamAt s (seqTeam s c)).tiles
    let fb := Tab.find q.fb o.fb.toNat
    let ra := Tab.find q.ring o.ra.toNat
    let rb := Tab.find q.ring o.rb.toNat
    if !slotsClear q o.wait || decide (2 ≤ q.mmas.length) then .next s
    else
      let stop (cs : List Nat) : Out :=
        seqStop c ((ringCauses s c (mmaSteps o) ra ++ ringCauses s c (mmaSteps o) rb ++ cs).foldl min 10) word s
      match mmaCauses o tiles.length fb ra rb, fb, ra, rb, tiles[o.acc.toNat]? with
      | [], some f, some a, some b, some tile =>
        if !(tailCauses s c a ++ tailCauses s c b).isEmpty then stop []
        else seqRead c word (a.va.toNat + 24) 4 s (fun ta =>
          seqRead c word (b.va.toNat + 24) 4 s (fun tb =>
            if published a (BitVec.ofNat 32 ta) < mmaSteps o ∨ published b (BitVec.ofNat 32 tb) < mmaSteps o then .next s
            else if o.s && Tab.get 0 q.dep o.set.toNat == 255 then .next s
            else match mmaIssue c (mmaRecord s c o f a b tile) s with
              | .error cause => seqStop c cause word s
              | .ok none => .next s
              | .ok (some s1) => seqNext c (captureFree (c / 64) 4 (teamAt s (seqTeam s c)).vf 0 s1)))
      | cs, _, _, _, _ => stop cs)

/-! ## K-steps (01 R34, R35; 10 R292, R293) -/

/-- Element of a matrix operand: its value, and whether it is the reserved ternary code. -/
def mxValue (code bits : Nat) : Fpv × Bool :=
  if code = 6 then
    (match bits with
      | 1 => (.fin false 1 0, false)
      | 3 => (.fin true 1 0, false)
      | 2 => (.fin false 0 0, true)
      | _ => (.fin false 0 0, false))
  else match mxFmt code with
    | some f => (fpDecode f (bits % 2 ^ f.width), false)
    | none => (let x := intValue true 8 bits; .fin (decide (x < 0)) x.natAbs 0, false)

/-- The 64 elements of a dense line (row of A or column of B) that begins at a byte. -/
def denseLine (code : Nat) (bs : List Byte) (line : Nat) : List (Fpv × Bool) :=
  let w := fbWidth code
  (List.range 64).map (fun k =>
    let byte := (bs.getD (8 * w * line + k * w / 8) 0).toNat
    mxValue code (byte / 2 ^ (k * w % 8) % 2 ^ w))

/-- What the 64 K positions of a sparse column hold in K-step j of its entry: every kept value that names the position, or
zero where none does (R293). -/
def sparseLine (code : Nat) (bs : List Byte) (line j : Nat) : List (List (Fpv × Bool)) :=
  let base := 128 * line
  (List.range 64).map (fun k =>
    let kept := [0, 1].filterMap (fun h =>
      let i := 2 * (16 * j + k / 4) + h
      if (bs.getD (base + i / 4) 0).toNat / 4 ^ (i % 4) % 4 = k % 4 then
        some (mxValue code (bs.getD (base + 32 + i) 0).toNat) else none)
    if kept.isEmpty then [(.fin false 0 0, false)] else kept)

/-- What a block product comes to. -/
inductive BlockSum where
  | fin (x : Dyadic)
  | inf (neg : Bool)
  | nan
deriving DecidableEq, Repr

/-- The block product of 32 elements of A with those of B, under scales (R34, R35). -/
def blockSum (a : List (Fpv × Bool)) (b : List (List (Fpv × Bool))) (sa sb : Nat) : BlockSum :=
  let ts := (a.zip b).flatMap (fun p => p.2.map (fun y => mulTerm p.1.1 y.1))
  if sa = 255 || sb = 255 || ts.contains .nan || ts.contains .invalid then .nan
  else if ts.contains (.inf true) && ts.contains (.inf false) then .nan
  else if ts.contains (.inf true) then .inf true
  else if ts.contains (.inf false) then .inf false
  else
    let x := ts.foldl (fun (acc : Dyadic) t => match t with | .fin _ d => acc.add d | _ => acc) { man := 0, exp := 0 }
    .fin { x with exp := x.exp + (sa : Int) + sb - 254 }

/-- Add a block product to an element (R34, R35). `tern` says that a reserved weight entered it (01 R17). -/
def addBlock (p : BlockSum) (tern : Bool) (e : Elem) : Elem :=
  let st := e.status ||| (if tern then 32 else 0)
  let cls (n st : Nat) : Elem := { value := 0, status := st / 4 * 4 + n }
  match p with
  | .nan => cls 3 (st ||| 16)
  | .inf neg =>
    (match e.cls with
      | 0 => cls (if neg then 2 else 1) st
      | 3 => cls 3 (st ||| 16)
      | n => if (n = 2) = neg then { value := 0, status := st } else cls 3 (st ||| 16))
  | .fin x =>
    (match e.cls with
      | 0 =>
        let r := roundUnits 1 0 (decide (x.man < 0)) x.man.natAbs x.exp (-128)
        let v := a256Clamp (e.value + (if x.man < 0 then -(r.1 : Int) else r.1))
        { value := v.1, status := st ||| (if r.2 then 8 else 0) ||| (if v.2 then 4 else 0) }
      | 3 => cls 3 (st ||| 16)
      | _ => { value := 0, status := st })

/-- The scales of one operand in one K-step: byte 2r + j of 256. -/
def scaleAt (bs : List Byte) (line j : Nat) : Nat := (bs.getD (2 * line + j) 0).toNat

/-- The scale array of mode 2 for the K-step c of a ring (R292). -/
def scaleVa (array : Nat) (r : Ring) (p : W32 × BitVec 2) : Nat :=
  localBase + array + 256 * (p.1.toNat % r.entries.toNat * r.spe.toNat + p.2.toNat)

/-- The operand bytes of a K-step. -/
structure StepData where
  a : List Byte
  b : List Byte
  sa : List Byte
  sb : List Byte

/-- Why a K-step does not run: a cause of R295, or a lock of another operation. -/
inductive StepStop where
  | fault (cause : Nat)
  | locked

/-- The place of an MMA's locks in the order of registration. -/
def mmaOrder (s : State) (c serial : Nat) : Nat :=
  (((coreAt s c).locks.find? (fun l => l.2.owner == .mma serial)).map (fun l => l.2.order)).getD 0

/-- A lock of an operation that registered before the MMA lies on its tile. -/
def tileLocked (s : State) (c : Nat) (m : MmaRec) : Bool :=
  let lo := tileBase c m.tile
  (coreAt s c).locks.any (fun l => decide (l.2.order < mmaOrder s c m.serial) && decide (l.2.lo ≤ (lo + 0x84000 - 1) / 64)
    && decide (lo / 64 ≤ l.2.hi))

/-- Read physical parts for a K-step. -/
def stepParts (s : State) (c : Nat) (m : MmaRec) (ps : List (Nat × Nat)) : Except StepStop (List Byte) :=
  if ps.any (fun p => (lineRange p.1 p.2).any (fun l => olderLock s c (mmaOrder s c m.serial) l.1 false)) then .error .locked
  else if ps.any (fun p => (partsBad s (lineRange p.1 p.2)).isSome) then .error (.fault 7)
  else .ok (readParts s m.vf ps)

/-- The scale bytes of an operand in one K-step: none of them, those behind the entry's elements, or the array's. -/
def stepScales (s : State) (c : Nat) (m : MmaRec) (mode array elems : Nat) (r : Ring) (p : W32 × BitVec 2) (entry : List Byte) :
    Except StepStop (List Byte) :=
  match mode with
  | 0 => .ok (List.replicate 256 127#8)
  | 1 => .ok ((entry.drop elems).take 256)
  | _ =>
    match scratchParts (m.view s) (envOfTeam (m.view s) m.team) (scaleVa array r p) 256 with
    | none => .error (.fault 2)
    | some ps => stepParts s c m ps

/-- The entry that a K-step reads, at its address as it resolves now (R290, 07 R211). An MMA whose team has ended reads the parts that it
had at issue. -/
def stepEntry (s : State) (c : Nat) (m : MmaRec) (r : Ring) (p : W32 × BitVec 2) (parts : List (Nat × Nat)) : Except StepStop (List Byte) :=
  if m.ended.isSome then stepParts s c m parts
  else match scratchParts s (envOfTeam s m.team) (entryVa r p.1) r.ebytes.toNat with
    | none => .error (.fault 2)
    | some ps => stepParts s c m ps

/-- What keeps one of several reads of a K-step from being made: a lock to wait for, or else the lowest cause (R295). -/
def stepStop (rs : List (Except StepStop (List Byte))) : Option StepStop :=
  rs.foldl (fun acc r => match acc, r with
    | some .locked, _ | _, .error .locked => some .locked
    | some (.fault a), .error (.fault b) => some (.fault (min a b))
    | none, .error e => some e
    | e, .ok _ => e) none

/-- Gather the operands of the next K-step of an MMA. -/
def stepData (s : State) (c : Nat) (m : MmaRec) : Except StepStop StepData :=
  let f := m.block
  let ra := stepEntry s c m m.ringA m.curA (m.entA.getD m.done [])
  let rb := stepEntry s c m m.ringB m.curB (m.entB.getD m.done [])
  let a := ra.toOption.getD []
  let b := rb.toOption.getD []
  let rsa := stepScales s c m (fbAsm f) (fbAsa f) (1024 * fbWidth (fbA f)) m.ringA m.curA a
  let rsb := if fbSpb f && fbBsm f == 1 then
      .ok ((List.range 128).flatMap (fun n => [b.getD (128 * n + 24 + 2 * m.curB.2.toNat) 0,
        b.getD (128 * n + 25 + 2 * m.curB.2.toNat) 0]))
    else stepScales s c m (fbBsm f) (fbBsa f) (1024 * fbWidth (fbB f)) m.ringB m.curB b
  match stepStop [ra, rb, rsa, rsb] with
  | some e => .error e
  | none => .ok { a := a, b := b, sa := rsa.toOption.getD [], sb := rsb.toOption.getD [] }

/-- A column of B in the K-step at a place within its entry: what each K position holds. -/
def columnOf (f : BitVec 512) (d : StepData) (j n : Nat) : List (List (Fpv × Bool)) :=
  if fbSpb f then sparseLine (fbB f) d.b n j else (denseLine (fbB f) d.b n).map (fun x => [x])

/-- Add both blocks of a K-step to one element. -/
def stepElem (d : StepData) (row : List (Fpv × Bool)) (col : List (List (Fpv × Bool))) (m n : Nat) (e : Elem) : Elem :=
  (List.range 2).foldl (fun e j =>
    let b := (col.drop (32 * j)).take 32
    addBlock (blockSum ((row.drop (32 * j)).take 32) b (scaleAt d.sa m j) (scaleAt d.sb n j))
      (b.any (fun xs => xs.any Prod.snd)) e) e

/-- Add a K-step to the tile (R34). The first block of an overwrite-mode MMA meets value 0, status byte 0 and a tile without
its fault flag (R289, R295). -/
def addStep (c : Nat) (m : MmaRec) (d : StepData) (s : State) : State :=
  let f := m.block
  let fresh := fbOvw f && m.done == 0
  let cols := (List.range (fbCols f)).map (columnOf f d m.curB.2.toNat)
  let s1 := if fresh then modCore c (fun x => { x with
    tiles := Tab.set x.tiles m.tile { Tab.get default x.tiles m.tile with fault := false } }) s else s
  (List.range (fbRows f)).foldl (fun t r =>
    let row := denseLine (fbA f) d.a r
    cols.zipIdx.foldl (fun (t : State) x =>
      let e := if fresh then { value := 0, status := 0 } else readElem t c m.tile r x.2
      writeElem c m.tile r x.2 (stepElem d row x.1 r x.2 e) t) t) s1

/-- The executing MMA after one more K-step. -/
def MmaRec.stepped (m : MmaRec) : MmaRec :=
  { m with done := m.done + 1, curA := curStep m.ringA m.curA, curB := curStep m.ringB m.curB }

/-- Change the executing MMA. -/
def setHead (c : Nat) (m : MmaRec) (s : State) : State := modSeq c (fun q => { q with mmas := m :: q.mmas.drop 1 }) s

/-- The engine of a core runs: an MMA is outstanding, and neither the sequencer nor the die is held. -/
def engineHead (s : State) (c : Nat) : Option MmaRec :=
  let q := seqAt s c
  if q.held || (dieAt s (c / 64)).held then none else q.mmas.head?

/-- The executing MMA adds its next K-step; a fault of R295 stops the sequencer. None where it waits for a lock. -/
def runStep (c : Nat) (m : MmaRec) (s : State) : Option (State × Option MmaRec) :=
  match stepData s c m with
  | .error .locked => none
  | .error (.fault cause) => some (seqFault c cause (m.o.pack 0xE0000000).toNat m.pc s, none)
  | .ok d =>
    if tileLocked s c m then none
    else some (captureFree (c / 64) 4 m.vf 0 (count c evKstep m.vf 1 (setHead c m.stepped (addStep c m d s))), some m.stepped)

/-- The TAIL of a ring, as the engine reads it for a restored MMA. -/
def ringTail (s : State) (m : MmaRec) (r : Ring) : Option W32 :=
  ((engineRead (m.view s) (envOfTeam (m.view s) m.team) (r.va.toNat + 24) 4).toOption).map (fun bs => BitVec.ofNat 32 (leNat bs))

/-- The K-steps that a restored MMA has still to add are published (10 R291, 18 R410); none where a ring is not reached. -/
def restPublished (s : State) (m : MmaRec) : Option Bool :=
  let left : Int := (mmaSteps m.o - m.done : Nat)
  let ahead (r : Ring) (p : W32 × BitVec 2) (t : W32) : Bool := decide (left ≤ published { r with curE := p.1, curJ := p.2 } t)
  match ringTail s m m.ringA, ringTail s m m.ringB with
  | some ta, some tb => some (ahead m.ringA m.curA ta && ahead m.ringB m.curB tb)
  | _, _ => none

/-- The sequencer of a core reissues the first of its restored MMAs that is not issued again: once its K-steps are published it
registers its locks (17 R402, 18 R410). It fetches no word before all are; a failure is a sequencer fault. -/
def seqReissue (c : Nat) (m : MmaRec) (s : State) : State :=
  let stop (cause : Nat) : State := seqFault c cause (m.o.pack 0xE0000000).toNat m.pc s
  match restPublished s m with
  | none => stop 2
  | some false => s
  | some true =>
    match mmaLock c m s with
    | .error k => stop k
    | .ok none => s
    | .ok (some s1) => s1

/-- The executing MMA, with its locks: one that was restored waits until its K-steps are published and registers its locks
again (17 R402, 18 R410). -/
def lockedHead (s : State) (c : Nat) : Except Nat (Option (State × MmaRec)) :=
  match engineHead s c with
  | none => .ok none
  | some m =>
    if m.locked then .ok (some (s, m))
    else match restPublished s m with
      | none => .error 2
      | some false => .ok none
      | some true =>
        match mmaLock c m s with
        | .error k => .error k
        | .ok none => .ok none
        | .ok (some s1) => .ok ((seqAt s1 c).mmas.head?.map (fun m1 => (s1, m1)))

/-- A restored MMA whose entries do not resolve is a sequencer fault. -/
def lockFault (s : State) (c cause : Nat) : State :=
  match (seqAt s c).mmas with
  | m :: _ => seqFault c cause (m.o.pack 0xE0000000).toNat m.pc s
  | [] => s

/-- K_STEP_BOUNDARY: the executing MMA adds a K-step that is not its last. -/
def execKStepBoundary (c : Nat) (s : State) : Out :=
  match lockedHead s c with
  | .error k => .next (lockFault s c k)
  | .ok none => event "K_STEP_BOUNDARY" none
  | .ok (some (s1, m)) =>
    if m.done + 1 < mmaSteps m.o then event "K_STEP_BOUNDARY" ((runStep c m s1).map Prod.fst)
    else event "K_STEP_BOUNDARY" none

/-- The executing MMA completes (R294, R327): its range is recorded, its locks and its slot are released, and a sequencer
that was released becomes free. -/
def mmaDone (c : Nat) (m : MmaRec) (s : State) : State :=
  let s1 := modCore c (fun x =>
    let t := { Tab.get default x.tiles m.tile with rows := fbRows m.block, cols := fbCols m.block }
    { x with tiles := Tab.set x.tiles m.tile t }) s
  modSeq c (fun q =>
    let rest := q.mmas.drop 1
    let dep := if m.o.s then Tab.set q.dep m.o.set.toNat (Tab.get 0 q.dep m.o.set.toNat - 1) else q.dep
    if q.releasing && rest.isEmpty then { Sequencer.reset with serial := q.serial }
    else { q with mmas := rest, dep := dep }) (captureFree (c / 64) 4 m.vf 0 (dropLocks c (.mma m.serial) s1))

/-- MMA_COMPLETE: the executing MMA adds its last K-step and completes. -/
def execMmaComplete (c : Nat) (s : State) : Out :=
  match lockedHead s c with
  | .error k => .next (lockFault s c k)
  | .ok none => event "MMA_COMPLETE" none
  | .ok (some (s1, m)) =>
    if m.done = mmaSteps m.o then .next (mmaDone c m s1)
    else if m.done + 1 = mmaSteps m.o then
      event "MMA_COMPLETE" ((runStep c m s1).map (fun r => match r.2 with
        | some m1 => mmaDone c m1 r.1
        | none => r.1))
    else event "MMA_COMPLETE" none

end Sys2Proof.Machine
end

