-- ==== Sys2Proof/Machine/Special.lean ====
section
/-!
DEFINITION. MODE, FILL and the special registers: major 0x04 (05 R131 to R140, 02 R41 to R44, 09 R278, 11 R314, 19 R434).
-/
namespace Sys2Proof.Machine

/-! ## Views (05 R131) -/

/-- PEND of BATCH: closed batches with copies outstanding (09 R278). -/
def Group.pend (g : Group) : Nat := (g.batches.filter (fun b => b.num != g.openBatch && decide (0 < b.pending))).length

/-- BATCH (09 R278). -/
def batchView (g : Group) : W64 :=
  BitVec.ofNat 64 (g.openBatch.toNat + g.pend % 16 * 2 ^ 32 + (if g.rwin then 2 ^ 36 else 0)
    + (if g.batchErr then 2 ^ 37 else 0))

/-- ALLOTP (11 R314). -/
def allotpView (t : Team) : W64 :=
  BitVec.ofNat 64 (t.pages.length % 2048 + t.tiles.length % 8 * 2 ^ 12
    + (t.tiles.zipIdx.foldl (fun n x => n + x.1 % 4 * 4 ^ x.2) 0) % 256 * 2 ^ 16)

/-- TEAM (05 R135). -/
def teamView (g : Group) (t : Team) : W64 :=
  BitVec.ofNat 64 (t.index % 2 ^ 16 + g.index % 16 * 2 ^ 16 + (t.groups - 1) % 16 * 2 ^ 20)

/-- PRIV (05 R136). -/
def privView (s : State) (g : Group) : W64 :=
  let b (x : Bool) (n : Nat) : Nat := if x then 2 ^ n else 0
  BitVec.ofNat 64 (b g.level 0 + b (coopOf s g) 1 + b g.hact 2 + b g.dact 3 + b g.pact 4 + b (dattOf s g) 5)

/-- PMCi as a group reads it (19 R434): 0 at U for another VF's counter. -/
def pmcView (s : State) (core i vf : Nat) (priv : Bool) : W64 :=
  let c := coreAt s core
  let cfg := (Tab.get 0 c.pmccfg i).toNat
  if !priv && cfg % 256 != 0 && cfg / 256 % 512 != vf % 512 then 0
  else Tab.get 0 c.pmc i

/-- PMCCFGi as a group reads it (19 R434). -/
def pmccfgView (s : State) (core i vf : Nat) (priv : Bool) : W64 :=
  let c := coreAt s core
  let cfg := Tab.get 0 c.pmccfg i
  let n := cfg.toNat
  if !priv && n % 256 != 0 && n / 256 % 512 != vf % 512 then 0
  else cfg

/-- A special register; none for an unassigned number (R131, R132). -/
def specialRead (s : State) (n : Nat) : Option W64 :=
  let g := s.me
  let t := s.myTeam
  if 0x20 ≤ n ∧ n ≤ 0x2F then some (pmcView s (coreOf s.qid) (n - 0x20) g.vf g.level)
  else if 0x40 ≤ n ∧ n ≤ 0x4F then some (pmccfgView s (coreOf s.qid) (n - 0x40) g.vf g.level)
  else match n with
    | 0x000 => some s.time
    | 0x001 => some (cgidOf s.qid g)
    | 0x002 => some g.laneBase
    | 0x003 => some (teamView g t)
    | 0x004 => some (BitVec.ofNat 64 (g.vf % 512))
    | 0x005 => some (g.fpstat.zeroExtend 64)
    | 0x006 => some (batchView g)
    | 0x007 => some (BitVec.ofNat 64 (64 + t.vext))
    | 0x008 => some (allotpView t)
    | 0x009 => some (g.seed.zeroExtend 64)
    | 0x00A => some (t.memGen.zeroExtend 64)
    | 0x010 => some g.tvec
    | 0x011 => some g.tcode
    | 0x012 => some g.tpc
    | 0x013 => some g.tinfo
    | 0x014 => some g.trep
    | 0x015 => some g.dvec
    | 0x016 => some g.pvec
    | 0x017 => some (privView s g)
    | _ => none

/-- What SSET of a number does before it writes (R132, 19 R434). -/
inductive SsetCheck where
  | ok | illegal | priv
deriving DecidableEq, Repr

/-- The check of R132 on the number of an SSET, and that of R434 on a counter of another VF. -/
def ssetCheck (s : State) (n : Nat) : SsetCheck :=
  let g := s.me
  if (0x20 ≤ n ∧ n ≤ 0x2F) ∨ (0x40 ≤ n ∧ n ≤ 0x4F) then
    let cfg := (Tab.get 0 (coreAt s (coreOf s.qid)).pmccfg (n % 16)).toNat
    if !g.level && cfg % 256 != 0 && cfg / 256 % 512 != g.vf % 512 then .priv else .ok
  else match n with
    | 0x005 | 0x009 | 0x010 | 0x011 | 0x012 | 0x013 | 0x014 => .ok
    | 0x015 | 0x016 => if g.level then .ok else .priv
    | _ => .illegal

/-- Write a counter's configuration (19 R434): OVF clears where written 1; at U the VF field takes the writer's VF. The write takes
effect from the next CCLK on (R436). -/
def pmccfgWrite (core i vf : Nat) (priv : Bool) (v : W64) (s : State) : State :=
  modCore core (fun c =>
    let old := Tab.get 0 c.pmccfg i
    let ovf := old.getLsbD 48 && !v.getLsbD 48
    let owner := if priv then v.toNat / 256 % 512 else vf % 512
    let w := BitVec.ofNat 64 (v.toNat % 256 + owner * 256 + (if ovf then 2 ^ 48 else 0))
    { c with pmcSets := c.pmcSets ++ [{ index := i, cfg := true, value := w }] }) s

/-- Write a counter: bits [47:0] of the value, which wins over what this CCLK counts (R436). -/
def pmcWrite (core i : Nat) (v : W64) (s : State) : State :=
  modCore core (fun c => { c with
    pmcSets := c.pmcSets ++ [{ index := i, cfg := false, value := BitVec.ofNat 64 (v.toNat % 2 ^ 48) }] }) s

/-- A value whose EVENT is reserved (19 R435). -/
def eventReserved (v : W64) : Bool := decide (17 < v.toNat % 256)

/-- Write a special register that SSET may write; RSV bits are ignored (R132). -/
def specialWrite (n : Nat) (v : W64) (s : State) : State :=
  let aligned := v &&& ~~~(3 : W64)
  if 0x20 ≤ n ∧ n ≤ 0x2F then pmcWrite (coreOf s.qid) (n - 0x20) v s
  else if 0x40 ≤ n ∧ n ≤ 0x4F then pmccfgWrite (coreOf s.qid) (n - 0x40) s.me.vf s.me.level v s
  else modMe (fun g => match n with
    | 0x005 => { g with fpstat := v.setWidth 5 }
    | 0x009 => { g with seed := v.setWidth 32 }
    | 0x010 => { g with tvec := aligned }
    | 0x011 => { g with tcode := v &&& 0xFF }
    | 0x012 => { g with tpc := aligned }
    | 0x013 => { g with tinfo := v }
    | 0x014 => { g with trep := v &&& 0xFF }
    | 0x015 => { g with dvec := aligned }
    | 0x016 => { g with pvec := aligned }
    | _ => g) s

/-! ## Major 0x04 (R139, R140) -/

/-- MODE with the masked fields replaced (R140). -/
def modeSet (o : OpMode) (m : W32) : W32 :=
  let f (bit : Nat) (lo w new old : Nat) : Nat := (if o.mask.getLsbD bit then new else old / 2 ^ lo % 2 ^ w) * 2 ^ lo
  let x := m.toNat
  BitVec.ofNat 32 (f 0 0 3 o.grd.toNat x + f 1 3 4 o.et.toNat x + f 2 7 3 o.rnd.toNat x + f 3 10 1 o.sat.toNat x
    + f 4 11 1 o.ftz.toNat x + f 5 12 1 o.nanp.toNat x)

/-- A value that MODE may not take (02 R43). -/
def modeBad (v : W32) : Bool := decide (2 ^ 13 ≤ v.toNat) || decide (8 < modeEt v) || modeRnd v == 0 || modeRnd v == 7

def execMode (o : OpMode) (s : State) : Out :=
  wordG (.mode o) [] s (fun s _ => .done (modMe (fun g => { g with mode := modeSet o g.mode }) s) .seq)

def execModev (o : OpA) (s : State) : Out :=
  wordG (.modev o) [.ss o.sa.toNat false 1] s (fun s _ =>
    let v := (s.me.readS o.sa.toNat).setWidth 32
    if modeBad v then badOperand (.modev o) o.sa.toNat s
    else .done (modMe (fun g => { g with mode := v }) s) .seq)

def execModer (o : OpD) (s : State) : Out :=
  wordG (.moder o) [.sd o.sd.toNat] s (fun s _ => .done (putS o.sd.toNat (s.me.mode.zeroExtend 64) s) .seq)

def execFill (o : OpA) (s : State) : Out :=
  wordG (.fill o) [.ss o.sa.toNat false 1] s (fun s _ =>
    .done (modMe (fun g => { g with fill := (g.readS o.sa.toNat).setWidth 32 }) s) .seq)

def execFillRd (o : OpD) (s : State) : Out :=
  wordG (.fillRd o) [.sd o.sd.toNat] s (fun s _ => .done (putS o.sd.toNat (s.me.fill.zeroExtend 64) s) .seq)

def execSget (o : OpSget) (s : State) : Out :=
  match specialRead s o.num.toNat with
  | none => wordG (.sget o) [] s (fun s _ => .trap s tIllegalField (encode (.sget o)).toNat)
  | some _ =>
    wordG (.sget o) [.sd o.sd.toNat] s (fun s _ =>
      .done (putS o.sd.toNat ((specialRead s o.num.toNat).getD 0) s) .seq)

def execSset (o : OpSset) (s : State) : Out :=
  match ssetCheck s o.num.toNat with
  | .illegal => wordG (.sset o) [] s (fun s _ => .trap s tIllegalField (encode (.sset o)).toNat)
  | .priv => wordG (.sset o) [] s (fun s _ => .trap s tPriv (encode (.sset o)).toNat)
  | .ok =>
    wordG (.sset o) [.ss o.sa.toNat false 1] s (fun s _ =>
      let v := s.me.readS o.sa.toNat
      if 0x40 ≤ o.num.toNat ∧ o.num.toNat ≤ 0x4F ∧ eventReserved v = true then badOperand (.sset o) o.sa.toNat s
      else .done (specialWrite o.num.toNat v s) .seq)

end Sys2Proof.Machine
end

