-- ==== Sys2Proof/Machine/Folio.lean ====
section
/-!
DEFINITION. The records of a saved context as bytes (17 R389 to R395, R411): what a stop writes and what a restore reads.
-/
namespace Sys2Proof.Machine

/-! ## Bytes -/

/-- Bytes cut or filled with zeros to a length. -/
def padBytes (n : Nat) (bs : List Byte) : List Byte := bs.take n ++ List.replicate (n - bs.length) 0#8

def align64 (n : Nat) : Nat := (n + 63) / 64 * 64
def align4k (n : Nat) : Nat := (n + 4095) / 4096 * 4096

/-- A little-endian field of n bytes at an offset. -/
def fieldAt (bs : List Byte) (off n : Nat) : Nat := leNat ((bs.drop off).take n)

/-- Bit-packed fields of w bits each, the first lowest. -/
def packBits (w : Nat) (xs : List Nat) : Nat := xs.zipIdx.foldl (fun n x => n + x.1 % 2 ^ w * 2 ^ (w * x.2)) 0

def bit (b : Bool) (n : Nat) : Nat := if b then 2 ^ n else 0

/-- Records, each on a 64-byte boundary; the last is not filled up (R390, R411). -/
def joinRecords (rs : List (List Byte)) : List Byte :=
  rs.foldl (fun acc r => padBytes (align64 acc.length) acc ++ r) []

/-! ## Copies (R389) -/

/-- The target window of a copy, as RWGRP names it: a group of the same launch, or none. -/
def copyRwgrp (s : State) (c : Copy) : Nat :=
  match (if tpDk (tpRec c.tpl) = 1 then regWindowCore c.dest (tpLength c.tpl) else none) with
  | some core =>
    let g := groupAt s (core * 128 + (c.dest - regWindow core) / 0x4000)
    if g.st != .vacant && g.launch == c.launch && g.gen == c.tgen then
      2 ^ 31 + (teamAt s g.team).index % 2 ^ 16 * 2 ^ 8 + g.index % 16
    else 0
  | none => 0

/-- The restartable record of a copy. -/
def copyRecord (s : State) (c : Copy) : List Byte :=
  padBytes 64 (leBytes 2 c.tidx ++ leBytes 1 c.chan ++ leBytes 1 1 ++ leBytes 4 0 ++ leBytes 8 c.done ++ leBytes 4 c.batch.toNat
    ++ leBytes 4 c.offset.toNat ++ leBytes 4 c.dstOff.toNat
    ++ (List.range 3).flatMap (fun i => leBytes 4 (c.origins.getD i 0).toNat)
    ++ leBytes 4 (c.starter.1 % 2 ^ 16 * 2 ^ 8 + c.starter.2 % 16) ++ leBytes 4 (copyRwgrp s c))

/-- The group of a launch with a team index and a group index. -/
def launchGroupAt (s : State) (launch tix gix : Nat) : Option Nat :=
  (s.groups.find? (fun e => e.2.st != .vacant && e.2.launch == launch && e.2.index == gix
    && (teamAt s e.2.team).index == tix)).map Prod.fst

/-- The DST offset with which a record's copy restarts: the window of the group that RWGRP names, as it stands now (R401). -/
def rwOffset (s : State) (vf launch : Nat) (rec' : List Byte) : W32 :=
  let doff := BitVec.ofNat 32 (fieldAt rec' 24 4)
  let rw := fieldAt rec' 44 4
  let t := Tab.get default (vfAt s vf).templates (fieldAt rec' 0 2)
  if rw / 2 ^ 31 = 1 then
    match launchGroupAt s launch (rw / 2 ^ 8 % 2 ^ 16) (rw % 16) with
    | some q =>
      let old : Int := (tpDst (tpRec t) : Nat) + doff.toInt
      let new : Int := (regWindow (coreOf q) + q % 128 * 0x4000 : Nat) + old % 0x4000
      BitVec.ofInt 32 (new - (tpDst (tpRec t) : Nat))
    | none => doff
  else doff

/-- The batch that a restart joins (R401). -/
def restartBatch (g : Group) (num : W32) : W32 :=
  let before := (g.openBatch - num).toNat < 2 ^ 31
  let known := g.batches.any (fun b => b.num == num && decide (0 < b.pending))
  if num = g.openBatch then num
  else if before && (known || decide (g.pend < 8)) then num
  else g.openBatch

/-- Start the copy of a record for the group in a slot; none where it waits at issue. A copy into a register window of another
launch fails with code 4 (R408). -/
def restartCopy (q : Nat) (rec' : List Byte) (s : State) : Option State :=
  let g := groupAt s q
  let tidx := fieldAt rec' 0 2
  let t := Tab.get default (vfAt s g.vf).templates tidx
  let foreign := tpDk (tpRec t) = 1 ∧ fieldAt rec' 44 4 / 2 ^ 31 ≠ 1
  startCopy q (fieldAt rec' 2 1 % 16) tidx (BitVec.ofNat 32 (fieldAt rec' 20 4))
    (.ok (rwOffset s g.vf g.launch rec' :: (List.range 3).map (fun i => BitVec.ofNat 32 (fieldAt rec' (28 + 4 * i) 4))))
    (fieldAt rec' 8 8) (restartBatch g (BitVec.ofNat 32 (fieldAt rec' 16 4))) (if foreign then some 4 else none) s

/-! ## Teams (R392) -/

/-- A team record with its pages. -/
def teamRecord (s : State) (k : Nat) : List Byte :=
  let t := teamAt s k
  let owns := (coreAt s t.core).seq.owner == some k
  let sh : Share := t.share.getD { key := 0, member := 0, view := 0, exposure := 0 }
  leBytes 4 t.index ++ leBytes 1 t.groups ++ leBytes 1 t.vext ++ leBytes 1 t.tiles.length
    ++ leBytes 1 (bit owns 0 + bit t.share.isSome 1 + bit t.coop 2)
    ++ leBytes 2 t.pages.length ++ leBytes 2 sh.member ++ leBytes 4 t.memGen.toNat ++ leBytes 8 sh.key.toNat
    ++ (List.range 16).flatMap (fun i =>
      if t.coop then [0, 0, 0, 0]
      else
        let b := t.barrier i
        leBytes 1 b.expect ++ leBytes 1 b.arrived ++ leBytes 1 b.phase.toNat ++ [0])
    ++ leBytes 2 sh.view.toNat ++ leBytes 1 sh.exposure ++ List.replicate 5 0#8
    ++ t.pages.flatMap (fun p => readPas s 0 (ocpmWindow t.core + p * 0x400) 0x400)

/-- Bytes of a team record. -/
def teamRecordSize (rec' : List Byte) : Nat := 96 + 1024 * fieldAt rec' 8 2

/-! ## Groups (R393) -/

/-- The two bits of a slot's state, and its identity as it is read (07 R192). -/
def Slot.code (sl : Slot) : Nat := match sl.st with | .live => 0 | .exited => 1 | .vacant => 2 | .helper => 3
def Slot.shown (sl : Slot) : Nat := if sl.st == .helper then 0 else sl.ident.toNat
def slotOf (code ident : Nat) : Slot :=
  { st := match code % 4 with | 0 => .live | 1 => .exited | 2 => .vacant | _ => .helper, ident := BitVec.ofNat 16 ident }

/-- The word index that a group has reached in its pinned loop's body: that of the word at which it goes on, or what CLOAD wrote of a
loop that has not gone on since (R399). -/
def loopPosition (g : Group) (l : PinnedLoop) : Nat :=
  let pc := if l.suspended then g.tpc else g.pc
  let here := if l.holds pc then some (((pc - l.addr).toNat - 4) / 4) else none
  if l.suspended then l.pos.getD (here.getD 0) else here.getD (l.pos.getD 0)

/-- The failed closed batches that are not reported: bit j for batch OPEN − 8 + j. -/
def failMask (g : Group) : Nat :=
  (List.range 8).foldl (fun n j =>
    n + bit (g.batches.any (fun b => b.num == g.openBatch - 8 + BitVec.ofNat 32 j && b.failed)) j) 0

/-- Own arrival phases and unmatched flags. -/
def barPhases (g : Group) : Nat :=
  packBits 4 ((List.range 16).map (fun i => (Tab.get { phase := 0, unmatched := false } g.bars i).phase.toNat))
def barFlags (g : Group) : Nat :=
  packBits 1 ((List.range 16).map (fun i => bit (Tab.get { phase := 0, unmatched := false } g.bars i).unmatched 0))

/-- The shape codes of n registers from `lo` on, 2 bits each; 0 above VTOP. -/
def shapeBits (g : Group) (vtop lo n : Nat) : Nat :=
  packBits 2 ((List.range n).map (fun i => if lo + i < vtop then (g.vreg (lo + i)).code else 0))

/-- The payload of a register by its shape. -/
def payload : VReg → List Byte
  | .uniform b => leBytes 4 b.toNat
  | .affine b t => leBytes 4 b.toNat ++ leBytes 4 t.toNat
  | .general _ l => (List.range 32).flatMap (fun i => leBytes 4 (l.getD i 0).toNat)

/-- A group record of the native hardware form. -/
def groupRecord (s : State) (g : Group) : List Byte :=
  let vtop := s.vtop g
  let lp := match g.loop with
    | some l => leBytes 4 (2 ^ 31 + loopPosition g l % 32 * 2 ^ 8 + (l.body.length - 1) % 32) ++ leBytes 4 0
        ++ leBytes 8 l.addr.toNat ++ leBytes 8 l.remaining.toNat
    | none => List.replicate 24 0#8
  let sy := match g.sysc with
    | some y => leBytes 8 y.handle.toNat ++ leBytes 1 y.dest
    | none => []
  let body := leBytes 1 g.index ++ leBytes 1 (bit (g.st == .halted) 0) ++ leBytes 1 vtop ++ leBytes 1 g.trepNow.toNat
    ++ leBytes 4 0 ++ leBytes 8 g.pc.toNat
    ++ (List.range 63).flatMap (fun i => leBytes 8 (g.readS (i + 1)).toNat)
    ++ leBytes 4 g.mode.toNat ++ leBytes 4 g.fill.toNat ++ leBytes 4 g.seed.toNat ++ leBytes 4 g.fpstat.toNat
    ++ leBytes 16 g.fullV.toNat ++ leBytes 8 g.fullS.toNat ++ leBytes 28 (shapeBits g vtop 0 112)
    ++ (List.range 7).flatMap (fun i => leBytes 4 (g.readP (i + 1)).toNat)
    ++ (List.range 32).flatMap (fun i => leBytes 2 (g.slot i).shown ++ leBytes 1 (g.slot i).code ++ [0])
    ++ leBytes 8 g.tvec.toNat ++ leBytes 8 g.tcode.toNat ++ leBytes 8 g.tpc.toNat ++ leBytes 8 g.tinfo.toNat
    ++ leBytes 8 g.trep.toNat ++ lp ++ leBytes 8 (batchView g).toNat ++ leBytes 8 (failMask g)
    ++ leBytes 8 (barPhases g) ++ leBytes 2 (barFlags g) ++ List.replicate 6 0#8 ++ padBytes 16 sy
    ++ (List.range vtop).flatMap (fun n => payload (g.vreg n))
  padBytes (align64 body.length) body

/-- Shape code of register n in a group record. -/
def recShape (rec' : List Byte) (n : Nat) : Nat := fieldAt rec' (560 + n / 4) 1 / 4 ^ (n % 4) % 4
def shapeBytes (code : Nat) : Nat := match code with | 0 => 4 | 1 => 8 | _ => 128

/-- Where the payload of register n begins. -/
def payloadAt (rec' : List Byte) (n : Nat) : Nat := (List.range n).foldl (fun a i => a + shapeBytes (recShape rec' i)) 856

/-- Bytes of a group record. -/
def groupRecordSize (rec' : List Byte) : Nat := align64 (payloadAt rec' (fieldAt rec' 2 1))

/-- Register n of a group record. -/
def recReg (rec' : List Byte) (n : Nat) : VReg :=
  let o := payloadAt rec' n
  let w (i : Nat) : W32 := BitVec.ofNat 32 (fieldAt rec' (o + 4 * i) 4)
  match recShape rec' n with
  | 0 => .uniform (w 0)
  | 1 => .affine (w 0) (w 1)
  | _ => .general 0 ((List.range 32).map w)

/-- The batches that BATCH and the failed mask describe: OPEN, RWIN, ERR, and the failed closed ones. -/
def setBatches (batch : W64) (mask : Nat) (g : Group) : Group :=
  let o := batch.setWidth 32
  { g with
    openBatch := o, rwin := batch.getLsbD 36, batchErr := batch.getLsbD 37
    batches := (List.range 8).filterMap (fun j =>
      if mask / 2 ^ j % 2 = 1 then some { num := o - 8 + BitVec.ofNat 32 j, pending := 0, failed := true } else none) }

/-- Own phases and unmatched flags of the barriers. -/
def setBars (phases flags : Nat) (g : Group) : Group :=
  { g with bars := (List.range 16).map (fun i =>
      (i, { phase := BitVec.ofNat 4 (phases / 16 ^ i), unmatched := flags / 2 ^ i % 2 == 1 })) }

/-- The group that a record describes, but for its vector registers and its place. Addresses of words are multiples of 4 (04 R91). A
pinned loop reads its body again before its next word (04 R122). -/
def groupOfRecord (rec' : List Byte) (g : Group) : Group :=
  let d (off : Nat) : W64 := BitVec.ofNat 64 (fieldAt rec' off 8)
  let a (off : Nat) : W64 := d off &&& ~~~(3 : W64)
  let w (off : Nat) : W32 := BitVec.ofNat 32 (fieldAt rec' off 4)
  let rep := fieldAt rec' 3 1
  let lw := fieldAt rec' 784 4
  let g1 : Group := { g with
    st := if fieldAt rec' 1 1 % 2 = 1 then .halted else .running
    pc := a 8, s := (List.range 63).map (fun i => (i + 1, d (16 + 8 * i))), mode := w 520, fill := w 524, seed := w 528
    fpstat := BitVec.ofNat 5 (fieldAt rec' 532 4)
    fullS := BitVec.ofNat 64 (fieldAt rec' 552 8) ||| 1
    p := (List.range 7).map (fun i => (i + 1, w (588 + 4 * i)))
    slots := (List.range 32).map (fun i => slotOf (fieldAt rec' (618 + 4 * i) 1) (fieldAt rec' (616 + 4 * i) 2))
    tvec := a 744, tcode := d 752, tpc := a 760, tinfo := d 768, trep := d 776
    repResume := if rep / 64 % 2 = 1 then some (rep % 64) else none
    barHalf := rep / 128 == 1
    loop := if lw / 2 ^ 31 = 1 then
        some { addr := a 792, body := List.replicate (lw % 32 + 1) 0, remaining := d 800, suspended := false, refetch := false
               unread := true }
      else none }
  setBars (fieldAt rec' 824 8) (fieldAt rec' 832 2) (setBatches (d 808) (fieldAt rec' 816 8) g1)

/-- Load the vector registers of a record into the group in a slot, and their full bits. -/
def loadRegs (q : Nat) (rec' : List Byte) (s : State) : State :=
  let n := fieldAt rec' 2 1
  modGroup q (fun g => { g with fullV := BitVec.ofNat 112 (fieldAt rec' 536 14) ||| ~~~(BitVec.ofNat 112 (2 ^ n - 1)) })
    ((List.range n).foldl (fun u i => putVq q i (recReg rec' i) u) s)

/-! ## The matrix sequencer (R394, R395) -/

def SeqState.code : SeqState → Nat | .free => 0 | .run => 1 | .idle => 2 | .fault => 3

/-- A record of an outstanding MMA. -/
def mmaBytes (m : MmaRec) : List Byte :=
  padBytes 64 (leBytes 4 (m.o.pack 0xE0000000).toNat ++ leBytes 1 m.done ++ List.replicate 3 0#8
    ++ leBytes 4 m.curA.1.toNat ++ leBytes 4 m.curB.1.toNat ++ leBytes 1 m.curA.2.toNat ++ leBytes 1 m.curB.2.toNat)
    ++ leBytes 64 m.block.toNat

/-- A ring register. -/
def ringBytes (r : Option Ring) : List Byte :=
  match r with
  | none => List.replicate 32 0#8
  | some r => leBytes 8 r.va.toNat ++ leBytes 4 r.base.toNat ++ leBytes 2 r.ebytes.toNat ++ leBytes 2 r.entries.toNat
      ++ leBytes 1 r.spe.toNat ++ leBytes 1 1 ++ leBytes 1 (r.member.toNat + bit r.win 4) ++ [0]
      ++ leBytes 4 r.curE.toNat ++ leBytes 1 r.curJ.toNat ++ List.replicate 7 0#8

/-- The image of a sequencer. -/
def seqImage (q : Sequencer) : List Byte :=
  padBytes 2048 (leBytes 8 q.pc.toNat ++ leBytes 1 q.st.code ++ leBytes 1 q.mmas.length
    ++ leBytes 1 (bit (q.st == .idle && q.park.isSome) 0) ++ List.replicate 5 0#8
    ++ (List.range 8).flatMap (fun i => leBytes 1 (Tab.get 0 q.dep i)) ++ List.replicate 8 0#8
    ++ (List.range 16).flatMap (fun i => leBytes 8 (q.mreg i).toNat)
    ++ (List.range 8).flatMap (fun i => ringBytes (Tab.find q.ring i))
    ++ padBytes 256 (q.mmas.flatMap mmaBytes)
    ++ (List.range 16).flatMap (fun i => leBytes 64 (Tab.get 0 q.fb i).toNat)
    ++ leBytes 2 (packBits 1 ((List.range 16).map (fun i => bit (Tab.find q.fb i).isSome 0))))

/-- A ring register of an image. -/
def imageRing (img : List Byte) (i : Nat) : Option Ring :=
  let o := 160 + 32 * i
  let loc := fieldAt img (o + 18) 1
  if fieldAt img (o + 17) 1 = 0 then none
  else some { va := BitVec.ofNat 64 (fieldAt img o 8), base := BitVec.ofNat 32 (fieldAt img (o + 8) 4)
              ebytes := BitVec.ofNat 16 (fieldAt img (o + 12) 2), entries := BitVec.ofNat 16 (fieldAt img (o + 14) 2)
              spe := BitVec.ofNat 2 (fieldAt img (o + 16) 1), win := loc / 16 % 2 == 1, member := BitVec.ofNat 4 loc
              curE := BitVec.ofNat 32 (fieldAt img (o + 20) 4), curJ := BitVec.ofNat 2 (fieldAt img (o + 24) 1) }

/-- The sequencer that an image describes, for a team that owns it: not held, with its MMAs to be issued again (R402, R410).
The address of a restored MMA is not in its image: free (log 4). -/
def imageSeq (s : State) (k : Nat) (serial : Nat) (img : List Byte) : Sequencer :=
  let t := teamAt s k
  let ring := (List.range 8).filterMap (fun i => (imageRing img i).map (fun r => (i, r)))
  let st := fieldAt img 8 1 % 4
  let park := fieldAt img 10 1 % 2 == 1
  let mma (i : Nat) : MmaRec :=
    let o := 416 + 128 * i
    let op := OpMma.unpack (BitVec.ofNat 32 (fieldAt img o 4))
    let cur (e j : Nat) : W32 × BitVec 2 := (BitVec.ofNat 32 (fieldAt img (o + e) 4), BitVec.ofNat 2 (fieldAt img (o + j) 1))
    { serial := serial + i, launch := t.launch, team := k, vf := t.vf, pc := Config.freeW64 s.free 9600, o := op
      done := fieldAt img (o + 4) 1, curA := cur 8 16, curB := cur 12 17, block := BitVec.ofNat 512 (fieldAt img (o + 64) 64)
      ringA := Tab.get default ring op.ra.toNat, ringB := Tab.get default ring op.rb.toNat
      tile := t.tiles.getD op.acc.toNat 0, locked := false, entA := [], entB := [] }
  { st := if st = 1 ∨ (st = 2 ∧ park) then .run else if st = 3 then .fault else .idle
    owner := some k, pc := BitVec.ofNat 64 (fieldAt img 0 8) &&& ~~~(3 : W64), park := none, held := false
    m := (List.range 16).map (fun i => (i, BitVec.ofNat 64 (fieldAt img (32 + 8 * i) 8)))
    fb := (List.range 16).filterMap (fun i => if fieldAt img 1696 2 / 2 ^ i % 2 = 1 then
      some (i, BitVec.ofNat 512 (fieldAt img (672 + 64 * i) 64)) else none)
    ring := ring, dep := (List.range 8).map (fun i => (i, fieldAt img (16 + i) 1))
    mmas := (List.range (fieldAt img 9 1)).map mma, serial := serial + fieldAt img 9 1, barriers := [], releasing := false
    mtime := none, stall := none }

/-- An MMA of an image names a tile that the team does not hold (cause 5), or a ring that is not loaded (cause 10). -/
def imageCause (s : State) (k : Nat) (img : List Byte) : Option Nat :=
  let ops := (List.range (fieldAt img 9 1)).map (fun i => OpMma.unpack (BitVec.ofNat 32 (fieldAt img (416 + 128 * i) 4)))
  if ops.any (fun o => decide ((teamAt s k).tiles.length ≤ o.acc.toNat)) then some 5
  else if ops.any (fun o => (imageRing img o.ra.toNat).isNone || (imageRing img o.rb.toNat).isNone) then some 10
  else none

/-- Load an image into the sequencer of a core for its team (R402); an image of state 3, or of more than two MMAs, is refused
with cause 11. -/
def loadImage (c k : Nat) (img : List Byte) (s : State) : State :=
  let q := seqAt s c
  let s0 := modSeq c (fun q => { q with held := false }) s
  if fieldAt img 8 1 % 4 = 3 ∨ 2 < fieldAt img 9 1 then seqFault c 11 0 q.pc s0
  else match imageCause s k img with
    | some cause => seqFault c cause 0 q.pc s0
    | none => modSeq c (fun q => { imageSeq s k q.serial img with barriers := [] }) s0

/-- The record of a team's tiles and of the sequencer where the team owns it. -/
def matrixRecord (s : State) (k : Nat) : List Byte :=
  let t := teamAt s k
  let q := seqAt s t.core
  let owns := q.owner == some k
  let recs := t.tiles.map (tileRec s t.core)
  let body := leBytes 1 t.tiles.length ++ leBytes 1 (if owns then q.st.code + 128 else 0)
    ++ leBytes 1 (packBits 1 (recs.map (fun r => bit r.fault 0))) ++ [0]
    ++ padBytes 12 (recs.flatMap (fun r => leBytes 1 r.rows ++ leBytes 1 r.cols))
    ++ (if owns then seqImage q else List.replicate 2048 0#8)
    ++ t.tiles.flatMap (fun p => readPas s 0 (accWindow t.core + p * 0x84000) 0x84000)
  body

def matrixRecordSize (rec' : List Byte) : Nat := 2064 + 0x84000 * fieldAt rec' 0 1

/-- A team has a matrix record. -/
def hasMatrix (s : State) (k : Nat) : Bool :=
  !(teamAt s k).tiles.isEmpty || (seqAt s (teamAt s k).core).owner == some k

/-- Restore a matrix record: the tiles of the team with their ranges and fault flags, and the sequencer. A sequencer saved in
FAULT is in FAULT again. -/
def loadMatrix (k : Nat) (rec' : List Byte) (s : State) : State :=
  let t := teamAt s k
  let tile : Nat → TileRec := fun j =>
    { rows := fieldAt rec' (4 + 2 * j) 1, cols := fieldAt rec' (5 + 2 * j) 1
      fault := fieldAt rec' 2 1 / 2 ^ j % 2 == 1 }
  let s1 := t.tiles.zipIdx.foldl (fun (u : State) x =>
    writePas 0 (accWindow t.core + x.1 * 0x84000) ((rec'.drop (2064 + 0x84000 * x.2)).take 0x84000)
      (modCore t.core (fun c => { c with tiles := Tab.set c.tiles x.1 (tile x.2) }) u)) s
  if fieldAt rec' 1 1 / 128 = 0 then s1
  else
    let img := (rec'.drop 16).take 2048
    if fieldAt img 8 1 % 4 = 3 then modSeq t.core (fun q => imageSeq s1 k q.serial (padBytes 2048 (img.take 9 ++ [0] ++ img.drop 10))) s1
    else loadImage t.core k img s1

/-! ## Streams (R394) -/

/-- A stream record. -/
def streamRecord (gi n : Nat) (p : Port) : List Byte :=
  leBytes 1 gi ++ leBytes 1 n ++ leBytes 2 0 ++ leBytes 4 p.pos ++ leBytes 8 0 ++ leBytes 64 p.tlr.toNat

/-- Reopen the port of a stream record in the group of a slot. -/
def loadStream (q : Nat) (rec' : List Byte) (s : State) : State :=
  let p : Port := { tlr := BitVec.ofNat 512 (fieldAt rec' 16 64), pos := fieldAt rec' 4 4, buffer := [], fault := none }
  modGroup q (fun g => { g with ports := Tab.set g.ports (fieldAt rec' 1 1) p }) s

/-! ## The folio (R390, R411) -/

def folioMagic : Nat := 0x4F494C4F46354857

/-- The teams of a launch in ascending index, and the groups of a team in ascending index. -/
def teamsOf (s : State) (lid : Nat) : List Nat :=
  (sortBy (fun a b => decide (a.2.index ≤ b.2.index)) (s.teams.filter (fun e => e.2.launch == lid))).map Prod.fst
def groupsOf (s : State) (k : Nat) : List (Nat × Group) :=
  sortBy (fun a b => decide (a.2.index ≤ b.2.index)) (s.groups.filter (fun e => e.2.st != .vacant && e.2.team == k))

/-- The groups of a launch in order of team and group, each with its team index. -/
def rosterGroups (s : State) (lid : Nat) : List (Nat × Nat × Group) :=
  (teamsOf s lid).flatMap (fun k => (groupsOf s k).map (fun e => ((teamAt s k).index, e.1, e.2)))

/-- What a group keeps beside its record. -/
def Group.kept (g : Group) : Kept :=
  { hact := g.hact, dact := g.dact, pact := g.pact, halt := g.halt, step := g.step, suppress := g.suppress, hint := g.hint
    suspended := (g.loop.map (fun l => l.suspended)).getD false }

/-- What a group of a folio from another device keeps: free where it is halted (log 50). -/
def foreignKept (s : State) (i : Nat) (halted : Bool) : Kept :=
  let b (n : Nat) : Bool := halted && Config.freeBit s.free (9800 + 4 * i + n)
  { hact := b 0, dact := b 1, pact := b 2
    halt := { code := if halted then (Config.freeW64 s.free (9900 + i)).setWidth 8 else 0, info := 0, ret := 0 }
    step := .off, suppress := false, hint := none, suspended := b 3 && (b 0 || b 1 || b 2) }

/-- The group with what it kept. -/
def Group.keep (k : Kept) (g : Group) : Group :=
  { g with hact := k.hact, dact := k.dact, pact := k.pact, halt := k.halt, step := k.step, suppress := k.suppress, hint := k.hint
           loop := g.loop.map (fun l => { l with suspended := k.suspended }) }

/-- Which groups a folio's records and entries belong to. A group that retired CSAVED has an entry, any other a record. -/
def rosterOf (s : State) (lid : Nat) : Roster :=
  let gs := rosterGroups s lid
  let name (x : Nat × Nat × Group) : W64 × Bool := (cgidOf x.2.1 x.2.2, x.2.2.sysc.isSome)
  { recs := (gs.filter (fun x => !x.2.2.saved)).map (fun x => (x.1, x.2.2.index))
    kept := (gs.filter (fun x => !x.2.2.saved)).map (fun x => x.2.2.kept)
    coops := (gs.filter (fun x => x.2.2.saved)).map (fun x => (x.1, x.2.2.index))
    ports := gs.flatMap (fun x => x.2.2.ports.map (fun _ => (x.1, x.2.2.index)))
    members := (teamsOf s lid).filterMap (fun k =>
      let t := teamAt s k
      t.share.map (fun o => { team := t.index, key := o.key, number := o.member, cluster := t.core / 4 }))
    names := (gs.filter (fun x => !x.2.2.saved) ++ gs.filter (fun x => x.2.2.saved)).map name }

/-- The sections of a folio: teams, groups, matrix, copies, streams, cooperative blocks. Cooperative teams have no matrix
record (R396). -/
def folioSections (s : State) (lid : Nat) : List (List Byte) :=
  let ks := teamsOf s lid
  let gs := rosterGroups s lid
  let cs := sortBy (fun a b => decide (a.2.order ≤ b.2.order)) (s.copies.filter (fun e => e.2.launch == lid && e.2.cmd.isNone))
  [joinRecords (ks.map (teamRecord s)),
   joinRecords ((gs.filter (fun x => !x.2.2.saved)).map (fun x => groupRecord s x.2.2)),
   joinRecords ((ks.filter (fun k => hasMatrix s k && !(teamAt s k).coop)).map (matrixRecord s)),
   joinRecords (cs.map (fun e => copyRecord s e.2)),
   joinRecords (gs.flatMap (fun x => x.2.2.ports.map (fun p => streamRecord x.2.2.index p.1 p.2))),
   (gs.filter (fun x => x.2.2.saved)).flatMap (fun x => leBytes 8 x.2.2.coopBlock.toNat)]

/-- Where sections lie from an offset on, each on a 64-byte boundary; an empty one has offset 0 and length 0. -/
def placeSections : Nat → List (List Byte) → List (Nat × Nat)
  | _, [] => []
  | at', b :: bs => if b.isEmpty then (0, 0) :: placeSections at' bs else (align64 at', b.length) :: placeSections (align64 at' + b.length) bs

/-- What an endpaper states of its folio, apart from its sections. -/
structure FolioHead where
  form : Nat
  flags : Nat
  vf : Nat
  reason : Nat
  launch : Nat
  nteams : Nat
  stime : W64
  ckey : BitVec 128

/-- The endpaper. -/
def endpaper (h : FolioHead) (size : Nat) (sect : List (Nat × Nat)) : List Byte :=
  padBytes 256 (leBytes 8 folioMagic ++ leBytes 2 1 ++ leBytes 1 h.form ++ leBytes 1 h.flags ++ leBytes 2 h.vf ++ leBytes 1 h.reason
    ++ [0] ++ leBytes 4 (h.launch % 2 ^ 24) ++ leBytes 4 h.nteams ++ leBytes 8 size ++ leBytes 8 h.stime.toNat
    ++ leBytes 8 0x0100 ++ padBytes 128 (sect.flatMap (fun x => leBytes 8 x.1 ++ leBytes 8 x.2)) ++ leBytes 16 h.ckey.toNat)

/-- The bytes of a folio behind its endpaper in the forerunner form, which nothing reads but a restore: each byte under a free pad
(log 19). The pad undoes itself. -/
def opaqueBytes (form : Nat) (bs : List Byte) : List Byte :=
  if form = 2 then bs.zipIdx.map (fun x => x.1 ^^^ Config.forerunnerPad x.2) else bs

/-- The folio of a launch. -/
def folioBytes (s : State) (lid : Nat) : List Byte :=
  let l := Tab.get default s.launches lid
  let c := (vfAt s l.vf).ctx
  let ss := folioSections s lid
  let body := (joinRecords ([] :: ss.filter (fun b => !b.isEmpty)))
  let form := c.form
  let ks := teamsOf s lid
  let halted := (rosterGroups s lid).any (fun x => x.2.2.st == .halted)
  let h : FolioHead :=
    { form := form, flags := 1 + bit halted 1, vf := l.vf, reason := c.reason, launch := lid, nteams := ks.length
      stime := s.time, ckey := if form = 2 then Config.deviceKey else 0 }
  endpaper h (256 + body.length) (placeSections 256 ss) ++ opaqueBytes form body

/-- A field of an endpaper. -/
def epSect (bs : List Byte) (i : Nat) : Nat × Nat := (fieldAt bs (48 + 16 * i) 8, fieldAt bs (56 + 16 * i) 8)

/-- The code of R407 for an endpaper, its folio's room in the area given; 0 where every check passes. -/
def folioError (ep : List Byte) (room : Nat) : Nat :=
  let form := fieldAt ep 10 1
  let flags := fieldAt ep 11 1
  let size := fieldAt ep 24 8
  if fieldAt ep 0 8 ≠ folioMagic ∨ fieldAt ep 8 2 ≠ 1 ∨ 2 < form then 1
  else if fieldAt ep 40 2 ≠ 0x0100 then 2
  else if form = 2 ∧ fieldAt ep 176 16 ≠ Config.deviceKey.toNat then 3
  else if form = 2 ∧ flags / 4 % 2 = 0 then 4
  else if room < size ∨ (List.range 8).any (fun i => size < (epSect ep i).1 + (epSect ep i).2) then 5
  else if flags % 2 = 0 then 6
  else 0

/-- A section of a folio. -/
def sectionOf (folio : List Byte) (i : Nat) : List Byte :=
  let x := epSect folio i
  (folio.drop x.1).take x.2

/-- The records of a section, where `size` gives the bytes of the first. -/
def splitRecords (size : List Byte → Nat) : Nat → List Byte → List (List Byte)
  | 0, _ => []
  | fuel + 1, bs => if bs.isEmpty then [] else bs.take (size bs) :: splitRecords size fuel (bs.drop (align64 (max 1 (size bs))))

/-- Assign records in order to teams where no roster names them: a record goes to the present team while its key rises, and
to the next team where it does not. `lim` bounds the keys of a team. -/
def assignRecords (teams : List (Nat × Nat)) : List Nat → Nat → List Nat
  | [], _ => []
  | key :: rest, from' =>
    match teams with
    | [] => []
    | [t] => t.1 :: assignRecords [t] rest (key + 1)
    | t :: u :: ts =>
      if from' ≤ key ∧ key < t.2 then t.1 :: assignRecords (t :: u :: ts) rest (key + 1)
      else u.1 :: assignRecords (u :: ts) rest (key + 1)

end Sys2Proof.Machine
end

