-- ==== Sys2Proof/Machine/Teams.lean ====
section
/-!
DEFINITION. Admission and placement of teams (07 R197 to R199, R206), the launch state of groups (R190 to R192, R195), task
waves (R193, R194, R196) and the active set (R200 to R206), with their events.
-/
namespace Sys2Proof.Machine

/-! ## Placement (R197, R198, R206) -/

/-- Group slots of a core that gatherings hold while they are copied, each with its VF. -/
def heldSlots (s : State) (c : Nat) : List (Nat × Nat) :=
  (dieAt s (c / 64)).experts.flatMap (fun e =>
    (e.2.firing.filter (fun f => f.core == c)).flatMap (fun f => f.slots.map (fun q => (q, e.1 / 256))))

/-- The VFs of the groups of a partition. Partitions are numbered as group slots over 16. -/
def partVfs (s : State) (p : Nat) : List Nat :=
  (s.groups.filter (fun e => e.1 / 16 == p && e.2.st != .vacant)).map (fun e => e.2.vf)
    ++ ((heldSlots s (p / 8)).filter (fun h => h.1 / 16 == p)).map Prod.snd

/-- A partition that holds groups of four other VFs offers no slot (R206). -/
def partOffers (s : State) (p vf : Nat) : Bool := decide (((partVfs s p).filter (· != vf)).eraseDups.length < 4)

/-- A slot is free: it holds no group and is set aside for none, and no outstanding return carries the generation that its next
group would have (02 R68). -/
def slotFree (s : State) (q : Nat) : Bool :=
  (groupAt s q).st == .vacant && !(heldSlots s (coreOf q)).any (fun h => h.1 == q)
    && !s.returns.any (fun r => r.2.q == q && r.2.gen == (groupAt s q).gen + 1)
    && !s.syscs.any (fun r => r.2.q == q && r.2.gen == (groupAt s q).gen + 1)
    && !s.copies.any (fun c => c.2.window == some (q, (groupAt s q).gen + 1))

/-- The group slots that a partition offers to a VF. -/
def offeredSlots (s : State) (vf p : Nat) : List Nat :=
  if partOffers s p vf then ((List.range 16).map (p * 16 + ·)).filter (slotFree s) else []

/-- Place n groups round-robin: each takes the lowest free slot of the next partition that has one. `from'` is the
partition at which the search begins. -/
def placeGroups (parts : List Nat) (free : Nat → List Nat) : Nat → Nat → List Nat → Option (List Nat)
  | 0, _, taken => some taken
  | n + 1, from', taken =>
    let open' (p : Nat) : Option Nat := (free p).find? (fun q => !taken.contains q)
    match (parts.filter (fun p => decide (from' ≤ p)) ++ parts.filter (fun p => decide (p < from'))).findSome? open' with
    | none => none
    | some q => placeGroups parts free n (q / 16 + 1) (taken ++ [q])

/-- Where a core would place a team of a VF, where every count is satisfied on it at once (R197). -/
def placement (s : State) (c vf : Nat) (w : WaitingTeam) : Option (List Nat) :=
  if decide (w.groups * (64 + w.vext) ≤ freeRegs s c) && decide (w.pages ≤ (freePages s c).length)
      && decide (w.tiles ≤ (freeTiles s c).length) && !(dieAt s (c / 64)).held then
    placeGroups ((vfAt s vf).parts.filter (fun p => p / 8 == c)) (offeredSlots s vf) w.groups
      (Tab.get 0 (coreAt s c).rrPart vf) []
  else none

/-- The team of an admission takes its counts (R197). Its pages read as memory that nothing has written (00 R2; log 2) and
its tiles are zeroed. -/
def takeCounts (c vf : Nat) (w : WaitingTeam) (s1root : W64) (slots : List Nat) (s : State) : State :=
  let k := s.nextTeam
  let ps := (freePages s c).take w.pages
  let ts := (freeTiles s c).take w.tiles
  let s1 : State := { s with
    nextTeam := k + 1
    teams := Tab.set s.teams k { Team.empty with
      launch := w.launch, index := w.index, vf := vf, core := c, groups := w.groups, vext := w.vext, pages := ps, tiles := ts
      s1root := s1root } }
  let s2 := modCore c (fun x => { x with rrPart := Tab.set x.rrPart vf (slots.headD 0 / 16 + 1) }) s1
  ts.foldl (fun u t => clearTile c t u) (ps.foldl (fun u p => clearPage c p u) s2)

/-! ## Launch state of a group (R190 to R192, R195, 05 R131) -/

/-- Remap table of group gi of a team: live slots, and helpers beside them. -/
def launchSlots (w : WaitingTeam) (wave : Bool) (gi : Nat) : List Slot :=
  settleQuads ((List.range 32).map (fun i =>
    if 32 * gi + i < w.lanes then
      { st := .live, ident := if wave then (w.tasks.getD i (0, 0)).2 else BitVec.ofNat 16 (32 * gi + i) }
    else { st := .vacant, ident := 0 }))

/-- v0 or v1 of a wave: a half of the record address of each task, FILL elsewhere. -/
def waveReg (w : WaitingTeam) (shift : Nat) : VReg :=
  .general 0 ((List.range 32).map (fun i => BitVec.ofNat 32 ((w.tasks.getD i (0, 0)).1.toNat / 2 ^ shift)))

/-- s1 to s4 at launch. -/
def launchRegs (w : WaitingTeam) (l : Launch) (gi : Nat) : List W64 :=
  if l.kind == .kernel then [l.args, BitVec.ofNat 64 w.index, BitVec.ofNat 64 gi, BitVec.ofNat 64 l.teams] else w.regs

/-- The group that starts in a slot. The launches of the PF are the system launches, with LEVEL 1 (05 R136; log 60). Its issues count
from its admission for the choices of R204 and R205 (DESIGN CHOICE, log 38). -/
def launchGroup (s : State) (k : Nat) (w : WaitingTeam) (l : Launch) (gi q : Nat) : Group :=
  let wave := l.kind == .wave
  { Group.empty with
    st := .running, vf := l.vf, launch := w.launch, team := k, index := gi, gen := (groupAt s q).gen + 1
    s := (launchRegs w l gi).zipIdx.map (fun x => (x.2 + 1, x.1)), v := [(0, .affine (BitVec.ofNat 32 (32 * gi)) 1)]
    tvec := w.tvec &&& ~~~(3 : W64), dvec := (vfAt s l.vf).dbg.dvecr &&& ~~~(3 : W64), pvec := w.pvec &&& ~~~(3 : W64)
    level := l.vf == 0, laneBase := if wave then 0 else BitVec.ofNat 64 (32 * gi), pc := w.entry &&& ~~~(3 : W64)
    slots := launchSlots w wave gi, lastIssue := s.cclk, readyAt := s.cclk }

/-- Start group gi of a team in a slot. -/
def startGroup (k : Nat) (w : WaitingTeam) (l : Launch) (gi q : Nat) (s : State) : State :=
  let s1 := modTeam k (fun t => { t with members := t.members ++ [q] }) (setGroup q (launchGroup s k w l gi q) s)
  if l.kind == .wave then putVq q 1 (waveReg w 32) (putVq q 0 (waveReg w 0) s1) else s1

/-- Start the groups of a team in the slots that it was given. -/
def startTeam (k : Nat) (w : WaitingTeam) (slots : List Nat) (s : State) : State :=
  let l := Tab.get default s.launches w.launch
  slots.zipIdx.foldl (fun u (x : Nat × Nat) => startGroup k w l x.2 x.1 u) s

/-! ## Admission (R197, R199) -/

/-- The team of a VF that a core can admit now, with its place: the first that waits. -/
def admissible (s : State) (c vf : Nat) : Option (WaitingTeam × List Nat) :=
  if mayAdmit s vf then
    (match (vfAt s vf).waiting with
      | [] => none
      | w :: _ => (placement s c vf w).map (fun p => (w, p)))
  else none

/-- The VF whose turn it is on a core: the next in number after the last admitted, among those it can admit. -/
def turnOf (s : State) (c : Nat) : Option Nat :=
  let vs := (s.vfs.map Prod.fst).filter (fun v => (admissible s c v).isSome)
  match vs.find? (fun v => decide ((coreAt s c).rrVf < v)) with
  | some v => some v
  | none => vs.head?

/-- The slice of a VF starts with an admission that finds no launch of it resident (17 R384). -/
def startSlice (vf : Nat) (s : State) : State :=
  if (vfAt s vf).ctx.st == .running && !s.teams.any (fun e => e.2.vf == vf && !e.2.members.isEmpty) then
    modVf vf (fun v => { v with ctx := { v.ctx with sliceAt := some s.time } }) s
  else s

/-- A core admits a team of a VF. -/
def admitTeam (c vf : Nat) (w : WaitingTeam) (slots : List Nat) (s : State) : State :=
  let l := Tab.get default s.launches w.launch
  let s1 := modVf vf (fun v => { v with waiting := v.waiting.drop 1 })
    (modCore c (fun x => { x with rrVf := vf }) (startSlice vf s))
  startTeam s.nextTeam w slots (takeCounts c vf w l.s1root slots s1)

/-- TEAM_ADMIT. -/
def execTeamAdmit (core vf : Nat) (s : State) : Out :=
  event "TEAM_ADMIT"
    (if turnOf s core = some vf then (admissible s core vf).map (fun a => admitTeam core vf a.1 a.2 s) else none)

/-! ## Waves (R193 to R196) -/

/-- A task queue of a die: of a VF and an index. -/
def queueKey (vf index : Nat) : Nat := vf * 65536 + index
def taskQueue (s : State) (die vf index : Nat) : Option TaskQueue := Tab.find (dieAt s die).queues (queueKey vf index)
def modQueueOf (die vf index : Nat) (f : TaskQueue → TaskQueue) (s : State) : State :=
  modDie die (fun d => match Tab.find d.queues (queueKey vf index) with
    | some q => { d with queues := Tab.set d.queues (queueKey vf index) (f q) }
    | none => d) s

/-! ### Fields of a task-queue descriptor (11 R316) -/

def tqWpvec (d : BitVec 512) : W64 := BitVec.ofNat 64 (d.toNat / 2 ^ 448)
def tqWtvec (d : BitVec 512) : W64 := BitVec.ofNat 64 (d.toNat / 2 ^ 384 % 2 ^ 64)
/-- The gather timer in CCLK; 0 selects 512. -/
def tqTimer (d : BitVec 512) : Nat := let n := d.toNat / 2 ^ 48 % 2 ^ 16; if n = 0 then 512 else n
def tqPages (d : BitVec 512) : Nat := d.toNat / 2 ^ 32 % 2 ^ 11
def tqVext (d : BitVec 512) : Nat := d.toNat / 2 ^ 26 % 2 ^ 6
def tqCap (d : BitVec 512) : Nat := 2 ^ (d.toNat / 2 ^ 16 % 2 ^ 5)
def tqWave (d : BitVec 512) : Bool := d.getLsbD 1
def tqEn (d : BitVec 512) : Bool := d.getLsbD 0

/-- A queue handle (10 R305). -/
def queueHandle (gen : BitVec 16) (vf die index rights : Nat) : W64 :=
  BitVec.ofNat 64 (index % 2 ^ 16 + die % 16 * 2 ^ 16 + rights % 8 * 2 ^ 20 + vf % 512 * 2 ^ 23 + gen.toNat * 2 ^ 32)

/-- A wave is a launch of its own (R196): take the tasks of one entry address from the queue and let its team wait. -/
def launchWave (die vf index : Nat) (entry : W64) (s : State) : State :=
  match taskQueue s die vf index with
  | none => s
  | some q =>
    let ts := (q.entries.filter (fun t => t.entry == entry)).take 32
    let id := s.nextLaunch
    let w : WaitingTeam :=
      { launch := id, index := 0, lanes := ts.length, groups := 1, vext := tqVext q.desc, pages := tqPages q.desc, tiles := 0
        entry := entry, tvec := tqWtvec q.desc, pvec := tqWpvec q.desc
        regs := [queueHandle q.gen vf die index 1, BitVec.ofNat 64 ts.length, 0, 0]
        tasks := ts.map (fun t => (t.value, t.number)) }
    let l : Launch :=
      { vf := vf, kind := .wave, queue := index, cmd := none
        kdesc := { entry := entry, size := 0, pc := entry, groups := 1, vext := w.vext, pages := w.pages, tiles := 0, trapVec := w.tvec }
        args := 0, teams := 1, lanes := ts.length, nbt := 0, pvec := w.pvec, s1root := q.s1root, tlrec := 0, begun := true
        left := 1, start := s.time, loss := [], lossAt := s.time, saved := none }
    let s1 := modQueueOf die vf index (fun q => { q with
      entries := q.entries.filter (fun t => !ts.contains t), timers := Tab.del q.timers entry.toNat }) s
    modVf vf (fun v => { v with waiting := v.waiting ++ [w] }) <| captureFree die 3 vf 0
      { s1 with launches := Tab.set s1.launches id l, nextLaunch := id + 1 }

/-- The gather timer of a forming wave has run out. -/
def timerOver (s : State) (q : TaskQueue) (entry : Nat) : Bool :=
  match Tab.find q.timers entry with
  | some t => decide (t + tqTimer q.desc ≤ s.cclk)
  | none => false

/-- GATHER_TIMER_EXPIRY. -/
def execGatherTimerExpiry (die vf index : Nat) (s : State) : Out :=
  event "GATHER_TIMER_EXPIRY"
    (match taskQueue s die vf index with
      | none => none
      | some q =>
        if !q.enabled || (dieAt s die).held then none
        else (q.timers.find? (fun e => timerOver s q e.1)).map (fun e => launchWave die vf index (BitVec.ofNat 64 e.1) s))

/-- Push a task (R194): it joins the forming wave of its entry address, which launches at 32 tasks. A wave whose timer has run
out launches first. -/
def pushTask (die vf index : Nat) (entry value : W64) (s : State) : State :=
  match taskQueue s die vf index with
  | none => s
  | some q0 =>
    let s1 := if timerOver s q0 entry.toNat then launchWave die vf index entry s else s
    let s2 := captureFree die 3 vf (cgidOf s.qid s.me) <| modQueueOf die vf index (fun q => { q with
      entries := q.entries ++ [{ entry := entry, value := value, number := q.nextTask }], nextTask := q.nextTask + 1
      timers := if (Tab.find q.timers entry.toNat).isSome then q.timers else Tab.set q.timers entry.toNat s.cclk }) s1
    match taskQueue s2 die vf index with
    | some q => if 32 ≤ (q.entries.filter (fun t => t.entry == entry)).length then launchWave die vf index entry s2 else s2
    | none => s2

/-! ## The active set (R202, R205, R206) -/

/-- The group may take an active entry: during its hold only where no other resident group of its partition is ready. -/
def mayEnter (s : State) (q : Nat) : Bool :=
  let g := groupAt s q
  g.ready s.cclk && !g.active && !(dieAt s (dieOf q)).held
    && (g.yieldedAt.isNone || !(residents s (q / 16)).any (fun e => e.1 != q && e.2.ready s.cclk))

/-- Active groups of a partition, and whether a VF holds no active entry. -/
def activeOf (s : State) (p : Nat) : List (Nat × Group) := (residents s p).filter (fun e => e.2.active)
def lacksEntry (s : State) (p vf : Nat) : Bool := !(activeOf s p).any (fun e => e.2.vf == vf)

/-- Of two aged groups the one that has waited longest goes first, then the lower slot (R205). -/
def agesBefore (s : State) (a b : Nat) : Bool :=
  let x := groupAt s a
  let y := groupAt s b
  if x.since != y.since then decide (x.since < y.since) else decide (a < b)

/-- Group a goes before group b into a free entry (R202). -/
def goesBefore (s : State) (p a b : Nat) : Bool :=
  let x := groupAt s a
  let y := groupAt s b
  if x.aged != y.aged then x.aged
  else if x.aged then agesBefore s a b
  else if lacksEntry s p x.vf != lacksEntry s p y.vf then lacksEntry s p x.vf
  else if x.readyAt != y.readyAt then decide (x.readyAt < y.readyAt)
  else decide (a < b)

/-- A group leaves the active set: its operand cache is written back (02 R67) and it is no longer aged. -/
def Group.leaveActive (g : Group) : Group := { g with active := false, cache := [], aged := false }

/-- Enter the active set, in place of another group where one is named. -/
def enterActive (q : Nat) (out : Option Nat) (s : State) : State :=
  let s1 := match out with
    | some o => modGroup o Group.leaveActive s
    | none => s
  modGroup q (fun g => { g with active := true, yieldedAt := none }) s1

/-- Active groups that may give up their entry to a group of a VF: their VF keeps another, or it is the same VF (R205). -/
def displaceable (s : State) (p vf : Nat) : List (Nat × Group) :=
  (activeOf s p).filter (fun e => e.2.vf == vf || (activeOf s p).any (fun f => f.1 != e.1 && f.2.vf == e.2.vf))

/-- A group of a VF that holds no active entry, ready outside a hold: its VF has a claim on an entry (R206). -/
def claims (s : State) (p q : Nat) : Bool :=
  mayEnter s q && (groupAt s q).counts s.cclk && lacksEntry s p (groupAt s q).vf

/-- Of the groups of its partition that may, this one goes first. -/
def goesFirst (s : State) (may : Nat → Bool) (q : Nat) : Bool :=
  may q && !(residents s (q / 16)).any (fun e => e.1 != q && may e.1 && goesBefore s (q / 16) e.1 q)

/-- The group takes an active entry now: a free one, or, in a full set, that of another for a VF with a claim. -/
def enters (s : State) (q : Nat) : Bool :=
  if (activeOf s (q / 16)).length < 4 then goesFirst s (mayEnter s) q else goesFirst s (claims s (q / 16)) q

/-- ACTIVE_SET_ENTER. Where the set is full and the VF of a ready group holds no entry, one group of a VF with several gives up
its own (R206), for the first in order of those that have such a claim; which one gives up is free (log 4). -/
def execActiveSetEnter (q : Nat) (s : State) : Out :=
  event "ACTIVE_SET_ENTER"
    (let p := q / 16
     if !enters s q then none
     else if (activeOf s p).length < 4 then some (enterActive q none s)
     else
       let ds := displaceable s p (groupAt s q).vf
       (ds[(Config.freeW64 s.free (8000 + q)).toNat % ds.length]?).map (fun d => enterActive q (some d.1) s))

/-- The reasons for which a blocked group leaves the active set (R202; KWAIT is a wait of this kind, 21 R455). -/
def Blocked.evicts : Blocked → Bool
  | .register vs xs => !xs.isEmpty || vs.any (fun n => decide (n < 120))
  | .twait _ | .bar _ | .barw _ | .barinit _ | .bwait _ | .tbwait _ | .bclose _ | .allot _ | .kwait _ | .demand _ _ => true
  | _ => false

/-- An active group has been blocked for 32 consecutive CCLK. -/
def Group.evictDue (g : Group) (cclk : Nat) : Bool :=
  g.active && g.st == .running && decide (g.blockedAt + 32 ≤ cclk) && (match g.blocked with
    | some b => b.evicts
    | none => false)

/-- BLOCKED_EVICT. -/
def execBlockedEvict (q : Nat) (s : State) : Out :=
  event "BLOCKED_EVICT" (if (groupAt s q).evictDue s.cclk then some (modGroup q Group.leaveActive s) else none)

/-- The hold of a group that yielded is over. -/
def Group.holdOver (g : Group) (cclk : Nat) : Bool :=
  match g.yieldedAt with
  | some c => decide (c + 32 ≤ cclk)
  | none => false

/-- YIELD_HOLD_EXPIRY: the 32 CCLK of a yielded group are over. Its waiting still counts from its YIELD, its last issue (DESIGN CHOICE,
log 38: R202 does not say from when). -/
def execYieldHoldExpiry (q : Nat) (s : State) : Out :=
  event "YIELD_HOLD_EXPIRY"
    (if (groupAt s q).holdOver s.cclk then some (modGroup q (fun g => { g with yieldedAt := none }) s) else none)

/-- The most recent issuer of a list of groups. -/
def mostRecent : List (Nat × Group) → Option (Nat × Group)
  | [] => none
  | e :: t => match mostRecent t with
    | some f => if e.2.lastIssue < f.2.lastIssue then some f else some e
    | none => some e

/-- What a die has withheld of issue since a CCLK, in thirty-seconds of a CCLK. -/
def withheld (since now : Nat) : List (Nat × Nat) → Nat
  | [] => 0
  | (c, k) :: t => (32 - k) * (now - max c since) + (if c ≤ since then 0 else withheld since c t)

/-- The window of R205 of a group, in CCLK: it stretches by those in which its die has withheld issue (21 R457). -/
def agingWindow (s : State) (q : Nat) : Nat :=
  1024 + withheld (groupAt s q).since s.cclk (dieAt s (dieOf q)).duties / 32

/-- The group has been ready for 1,024 CCLK of its partition without an issue (R205). -/
def agingDue (s : State) (q : Nat) : Bool :=
  let g := groupAt s q
  g.counts s.cclk && !(dieAt s (dieOf q)).held && decide (g.since + agingWindow s q ≤ s.cclk)

/-- The group ages now: it has not aged yet, or it is aged and has lost its active entry. Among several the one that has waited
longest goes first (R205). -/
def agesNow (s : State) (q : Nat) : Bool :=
  let due (r : Nat) : Bool := agingDue s r && !((groupAt s r).aged && (groupAt s r).active)
  due q && !(residents s (q / 16)).any (fun e => e.1 != q && due e.1 && agesBefore s e.1 q)

/-- AGING (R205): a ready group that has not issued for 1,024 CCLK of its partition ages, and takes an active entry if it has none.
Gaps and give-way no longer hold it. -/
def execAging (q : Nat) (s : State) : Out :=
  event "AGING"
    (let p := q / 16
     if !agesNow s q then none
     else
       let s1 := modGroup q (fun g => { g with aged := true }) s
       if (groupAt s q).active then some s1
       else if (activeOf s p).length < 4 then some (enterActive q none s1)
       else (mostRecent (displaceable s p (groupAt s q).vf)).map (fun d => enterActive q (some d.1) s1))

end Sys2Proof.Machine
end

