-- ==== Sys2Proof/Machine/Context.lean ====
section
/-!
DEFINITION. The context engine (17 R383 to R408; 18 R409 to R412; 07 R213, R214): stops, saves, restores, and the context
instructions of major 0x32.
-/
namespace Sys2Proof.Machine

def ctxAt (s : State) (vf : Nat) : Context := (vfAt s vf).ctx
def modCtx (vf : Nat) (f : Context → Context) (s : State) : State := modVf vf (fun v => { v with ctx := f v.ctx }) s

/-- A PF write that concerns a VF whose TDI is locked or runs does not take effect, and the TDI enters ERROR, where it would change
something (22 R462). -/
def pfWrite (vf : Nat) (f : State → State) (s : State) : State :=
  if !bootReady s then s
  else if (vfAt s vf).tdi == .locked || (vfAt s vf).tdi == .run then
    (if f s = s then s else modVf vf (fun v => { v with tdi := .error }) s)
  else f s

/-! ## Stop requests (R385 to R388) -/

/-- The launches of a VF with a resident team, in ascending id. -/
def residentLaunches (s : State) (vf : Nat) : List Nat :=
  sortBy (fun a b => decide (a ≤ b))
    (((s.teams.filter (fun e => e.2.vf == vf && !e.2.members.isEmpty)).map (fun e => e.2.launch)).eraseDups)

/-- A sequencer is held (R387, R388): its MMAs keep their completed K-steps and lose their locks. -/
def holdSeq (c : Nat) (s : State) : State :=
  modSeq c (fun q => { q with
    held := true, stall := none, mtime := none
    mmas := q.mmas.map (fun m => { m with locked := false, entA := [], entB := [] }) })
    ((seqAt s c).mmas.foldl (fun u m => dropLocks c (.mma m.serial) u) s)

/-- The sequencers that the teams of a VF own are held. -/
def holdSeqs (vf : Nat) (s : State) : State :=
  s.cores.foldl (fun (u : State) (e : Nat × Core) =>
    match e.2.seq.owner with
    | some k => if (teamAt s k).vf = vf then holdSeq e.1 u else u
    | none => u) s

/-- An MMA of a sequencer that its team has released runs out before the VF's groups stop (R385 step 2). -/
def stopBlocked (s : State) (vf : Nat) : Bool :=
  s.cores.any (fun c => c.2.seq.owner.isNone && c.2.seq.mmas.any (fun m => m.vf == vf))

/-- The form in which a stop writes folios: the forerunner's, the cooperative or the native one (R383). -/
def cctlForm (cctl : W64) : Nat := if cctl.getLsbD 1 then 2 else if cctl.getLsbD 0 then 1 else 0

/-- A stop request for a VF: 0 at a slice end, 1 for PREEMPT (R385). What CCTL says at the stop holds for it. -/
def startStop (vf reason : Nat) (s : State) : State :=
  let coop := (ctxAt s vf).cctl.getLsbD 0
  let s1 := holdSeqs vf s
  let s2 : State := { s1 with
    teams := s1.teams.map (fun e => if e.2.vf = vf then (e.1, { e.2 with coop := coop }) else e)
    groups := s1.groups.map (fun e =>
      if e.2.vf = vf && e.2.st == .running then (e.1, { e.2 with stopReq := true }) else e) }
  modCtx vf (fun c => { c with
    st := .saving, stopAt := s.time, reason := reason, launches := residentLaunches s vf, written := 0, cut := false, late := []
    dir := none, nextOff := 0, form := cctlForm c.cctl }) s2

/-- PREEMPT: ignored outside state 0. -/
def execPreempt (vf : Nat) (s : State) : Out :=
  .next (pfWrite vf (fun s => if (ctxAt s vf).st == .running then startStop vf 1 s else s) s)

/-- The slice is over. -/
def Context.sliceOver (c : Context) (time : W64) : Bool :=
  c.slice != 0 && (match c.sliceAt with
    | some t => decide (t.toNat + c.slice.toNat ≤ time.toNat)
    | none => false)

/-- SLICE_EXPIRY (R384): PREEMPT is issued, which is ignored outside state 0 (R383). -/
def execSliceExpiry (vf : Nat) (s : State) : Out :=
  event "SLICE_EXPIRY"
    (let c := ctxAt s vf
     if c.sliceOver s.time then
       let s1 := modCtx vf (fun c => { c with sliceAt := none }) s
       some (if c.st == .running then startStop vf 0 s1 else s1)
     else none)

/-- Returns into a group's registers are outstanding. -/
def returnsOpen (s : State) (q : Nat) : Bool := s.returns.any (fun e => e.2.q == q && e.2.gen == (groupAt s q).gen)

/-- A write port has vectors to store and no fault. -/
def portsBusy (g : Group) : Bool := g.ports.any (fun e => decide (120 ≤ e.1) && !e.2.buffer.isEmpty && e.2.fault.isNone)

/-- A stop takes effect on a group now (R385 step 3). -/
def stopReady (s : State) (q : Nat) : Bool :=
  let g := groupAt s q
  g.stopDue && g.stopReq && !returnsOpen s q && !portsBusy g && !(dieAt s (dieOf q)).held && !(coopOf s g && stopBlocked s g.vf)

/-- A group stops where it stands (07 R214): what of a REP or of a BAR is done stays recorded. -/
def Group.stopped (g : Group) : Group :=
  { g.unmark with
    st := .stopped, stopReq := false, active := false, cache := [], rep := none, hint := g.hintBack
    repResume := match g.rep with
      | some r => some r.k
      | none => g.repResume
    blocked := match g.blocked with
      | some (.bar o) => some (.bar o)
      | _ => none }

/-- GROUP_STOP: a group reaches its stopping point. A fault of a write port that drains is taken first; a cooperative group
enters PREEMPT. A request for allotment is withdrawn. -/
def execGroupStop (q : Nat) (s : State) : Out :=
  event "GROUP_STOP"
    (if !stopReady s q then none
     else
       let s := settleGroup q s
       let g := groupAt s q
       let s := captureFree (dieOf q) 6 g.vf (cgidOf q g) s
       match g.ports.find? (fun e => decide (120 ≤ e.1) && e.2.fault.isSome) with
       | some (n, p) =>
         let f := p.fault.getD default
         some (modGroup q (fun h => { h with suppress := g.suppress })
           (takeTrap q f.code.toNat (BitVec.ofNat 64 (accessInfo f.lockWrite f.write f.slot f.va.toNat f.detail.toNat)) g.pc
             (modGroup q (fun g => { g with ports := g.ports.map (fun e =>
               if e.1 = n then (e.1, { e.2 with fault := none }) else e) }) s)))
       | none =>
         let s1 := modCore (coreOf q) (fun c => { c with requests := c.requests.filter (fun r => r.q != q) }) s
         if coopOf s g then some (takeTrap q tPreempt 0 g.pc (modGroup q (fun g => { g with stopReq := false }) s1))
         else some (modGroup q Group.stopped s1))

/-- SAVE_HANDLER_TIMEOUT (R386): reported once for a group; the save goes on waiting. -/
def execSaveHandlerTimeout (vf q : Nat) (s : State) : Out :=
  event "SAVE_HANDLER_TIMEOUT"
    (let c := ctxAt s vf
     let g := groupAt s q
     if c.st == .saving && c.launches.contains g.launch && g.st == .running && (g.hact || g.dact || g.pact || (teamAt s g.team).coop)
         && decide (c.stopAt.toNat + 1000000 ≤ s.time.toNat) && !c.late.contains q then
       some (postEvent 0 2 vf 4 0 (packFields [(8, 0), (1, 2)])
         (modCtx vf (fun c => { c with cause := 2, late := c.late ++ [q] }) s))
     else none)

/-! ## The save area (R391, R403) -/

/-- Read bytes of a VF's memory, or the first address that is not reached. -/
def readUpTo (s : State) (vf gpa n : Nat) : Except Nat (List Byte) :=
  match (List.range n).find? (fun i => (gpaToPa s vf (gpa + i) false).isNone) with
  | some i => .error (gpa + i)
  | none => .ok ((readGpa s vf gpa n).getD [])

/-- Write bytes of a VF's memory up to the first address that is not reached. -/
def writeUpTo (vf gpa : Nat) (bs : List Byte) (s : State) : State × Option Nat :=
  match (List.range bs.length).find? (fun i => (gpaToPa s vf (gpa + i) true).isNone) with
  | none => ((writeGpa vf gpa bs s).getD s, none)
  | some i => ((writeGpa vf gpa (bs.take i) s).getD s, some (gpa + i))

/-- A save or a restore freezes (R403). -/
def freezeCtx (vf gpa cause : Nat) (s : State) : State :=
  postEvent 0 2 vf 4 0 (packFields [(8, gpa), (1, cause)])
    (modCtx vf (fun c => { c with
      thaw := c.st, st := .frozen, fgpa := BitVec.ofNat 64 gpa, cause := BitVec.ofNat 8 cause }) s)

/-- Most folios that a directory lists before the first folio. -/
def dirMost : Nat := 511

/-- The offsets in the directory. -/
def readDir (s : State) (vf : Nat) : Except Nat (List Nat) :=
  let sa := (ctxAt s vf).sarea.toNat
  match readUpTo s vf sa 8 with
  | .error g => .error g
  | .ok bs =>
    let n := min dirMost (leNat bs)
    match readUpTo s vf (sa + 8) (8 * n) with
    | .error g => .error g
    | .ok os => .ok ((List.range n).map (fun i => fieldAt os (8 * i) 8))

/-- The bytes of a directory. -/
def dirBytes (os : List Nat) : List Byte := leBytes 8 os.length ++ os.flatMap (leBytes 8)

/-- The directory of a save area, or the endpaper of the last folio that it lists, lies in memory of a held die (19 R415). -/
def dirHeld (s : State) (vf : Nat) : Bool :=
  let sa := (ctxAt s vf).sarea.toNat
  gpaHeld s vf sa 8 || (match readUpTo s vf sa 8 with
    | .error _ => false
    | .ok bs => gpaHeld s vf (sa + 8) (8 * min dirMost (leNat bs)) || (match readDir s vf with
        | .error _ => false
        | .ok os => (match os.getLast? with
            | some o => gpaHeld s vf (sa + o + 24) 8
            | none => false)))

/-- Where the next folio goes: the first 4 KiB boundary behind the last that is listed. -/
def dirEnd (s : State) (vf : Nat) (os : List Nat) : Except Nat Nat :=
  match os.getLast? with
  | none => .ok 0x1000
  | some o =>
    match readUpTo s vf ((ctxAt s vf).sarea.toNat + o + 24) 8 with
    | .error g => .error g
    | .ok bs => .ok (align4k (o + leNat bs))

/-! ## FOLIO_WRITE (R385 steps 4 to 6) -/

/-- The groups of the launches that are being saved. -/
def savedGroups (s : State) (vf : Nat) : List (Nat × Group) :=
  s.groups.filter (fun e => e.2.st != .vacant && (ctxAt s vf).launches.contains e.2.launch)

/-- Every group has stopped, and nothing of it is on its way; the directory is read, or can be (19 R415). -/
def saveReady (s : State) (vf : Nat) : Bool :=
  (ctxAt s vf).st == .saving && !stopBlocked s vf && ((ctxAt s vf).dir.isSome || !dirHeld s vf) && (savedGroups s vf).all (fun e =>
    (e.2.st == .halted || e.2.st == .stopped) && !returnsOpen s e.1 && !portsBusy e.2 && !(dieAt s (dieOf e.1)).held)

/-- Cancel a copy for the save: it moves what it has begun, and its locks are released (R389). -/
def parkCopy (id : Nat) (s : State) : State :=
  match Tab.find s.copies id with
  | some c =>
    let s1 := advanceCopy id c s
    modCopy id (fun c => { c with parked := true, stall := none })
      (dropLocks c.core (.copy id) (cancelCopy (Tab.get c s1.copies id) s1))
  | none => s

/-- Copies are cancelled and MEMGEN advances, once. -/
def cutCopies (vf : Nat) (s : State) : State :=
  let ls := (residentLaunches s vf).filter (ctxAt s vf).launches.contains
  let ids := (s.copies.filter (fun e => ls.contains e.2.launch && e.2.cmd.isNone && !e.2.parked)).map Prod.fst
  let s1 := ids.foldl (fun u id => parkCopy id u) s
  let s2 := (ls.flatMap (teamsOf s)).foldl (fun u k => bumpMemGen k u) s1
  modCtx vf (fun c => { c with launches := ls, cut := true }) s2

/-- Write the folio of one launch; an address and a cause where it fails. -/
def saveOne (vf lid : Nat) (s : State) : State × Option (Nat × Nat) :=
  let c := ctxAt s vf
  let bs := folioBytes s lid
  if c.sasize.toNat < c.nextOff + bs.length || decide (dirMost ≤ (c.dir.getD []).length) then
    (s, some (c.sarea.toNat + c.sasize.toNat, 1))
  else
    let r := writeUpTo vf (c.sarea.toNat + c.nextOff) bs s
    match r.2 with
    | some g => (r.1, some (g, 0))
    | none => (modCtx vf (fun c => { c with
        written := c.written + 1, dir := c.dir.map (· ++ [c.nextOff]), nextOff := align4k (c.nextOff + bs.length) }) r.1, none)

/-- Write the folios of launches in order; whether all are written. -/
def saveFolios (vf : Nat) : List Nat → State → State × Bool
  | [], s => (s, true)
  | lid :: rest, s =>
    let r := saveOne vf lid s
    match r.2 with
    | some (g, cause) => (freezeCtx vf g cause r.1, false)
    | none => saveFolios vf rest r.1

/-- A group slot is given up; its registers lose their names. -/
def vacate (q : Nat) (s : State) : State :=
  let g := groupAt s q
  setGroup q { Group.empty with gen := g.gen } (modCore (coreOf q) (fun c =>
    let c1 := g.v.foldl (fun c e => c.releaseReg e.2) c
    { c1 with requests := c1.requests.filter (fun r => r.q != q) }) s)

/-- A team gives up its core without ending (R385 step 6). -/
def freeTeam (k : Nat) (s : State) : State :=
  let t := teamAt s k
  let s1 := (groupsOf s k).foldl (fun u e => vacate e.1 u) s
  let s2 := leaveShare k s1
  let s3 := if (seqAt s2 t.core).owner = some k then
      (seqAt s2 t.core).mmas.foldl (fun u m => dropLocks t.core (.mma m.serial) u)
        (modSeq t.core (fun q => { Sequencer.reset with serial := q.serial }) s2)
    else s2
  let s4 := modCore t.core (fun c => { c with
    reuse := c.reuse.filter (fun r => r.loadTeam != some k)
    requests := c.requests.filter (fun r => r.team != k) }) s3
  { s4 with teams := Tab.del s4.teams k }

/-- The cores of a saved launch are freed; the launch stands in its folio from now on. -/
def freeLaunch (lid : Nat) (s : State) : State :=
  let r := rosterOf s lid
  let s1 := (teamsOf s lid).foldl (fun u k => freeTeam k u) s
  { s1 with
    copies := s1.copies.filter (fun e => e.2.launch != lid || e.2.cmd.isSome)
    launches := match Tab.find s1.launches lid with
      | some l => Tab.set s1.launches lid { l with saved := some r }
      | none => s1.launches }

/-- The folios are written: the directory follows, the cores are freed, and STATE is 3. -/
def finishSave (vf : Nat) (s : State) : State :=
  let c := ctxAt s vf
  let r := writeUpTo vf c.sarea.toNat (dirBytes (c.dir.getD [])) s
  match r.2 with
  | some g => freezeCtx vf g 0 r.1
  | none => captureFree 4 6 vf 0
      (modCtx vf (fun c => { c with st := .saved, launches := [], written := 0, cut := false, late := [], homes := [], dir := none })
        (c.launches.foldl (fun u lid => freeLaunch lid u) r.1))

/-- Write what of a save is not written yet. -/
def runSave (vf : Nat) (s : State) : State :=
  let s1 := if (ctxAt s vf).cut then s else cutCopies vf s
  let s2 : Except Nat State := match (ctxAt s1 vf).dir with
    | some _ => .ok s1
    | none =>
      match readDir s1 vf with
      | .error g => .error g
      | .ok os =>
        match dirEnd s1 vf os with
        | .error g => .error g
        | .ok n => .ok (modCtx vf (fun c => { c with dir := some os, nextOff := n }) s1)
  match s2 with
  | .error g => freezeCtx vf g 0 s1
  | .ok s3 =>
    let c := ctxAt s3 vf
    let r := saveFolios vf (c.launches.drop c.written) s3
    if r.2 then finishSave vf r.1 else r.1

/-- FOLIO_WRITE. -/
def execFolioWrite (vf : Nat) (s : State) : Out :=
  event "FOLIO_WRITE" (if saveReady s vf then some (runSave vf s) else none)

/-! ## Ending launches (R403) -/

/-- Delete a launch with its groups, teams, copies, collectives and command; no used element is written. -/
def killLaunch (lid : Nat) (s : State) : State :=
  let l := Tab.find s.launches lid
  let s0 : State := { s with syscs := s.syscs.map (fun e => if e.2.launch == lid then (e.1, { e.2 with gone := true }) else e) }
  let cs := s0.copies.filter (fun e => e.2.launch == lid && e.2.cmd.isNone)
  let s1 := cs.foldl (fun u e => dropCopy e.1 e.2 u) s0
  let s2 := s1.dies.foldl (fun (u : State) (d : Nat × Die) =>
    (d.2.colls.filter (fun e => e.2.launch == lid)).foldl (fun (u : State) (e : Nat × Collective) =>
      dropLocks e.2.core (.collective e.1 false) (dropLocks e.2.core (.collective e.1 true)
        (modDie d.1 (fun d => { d with colls := Tab.del d.colls e.1 }) u))) u) s1
  let s3 := (teamsOf s2 lid).foldl (fun u k => freeTeam k u) s2
  match l with
  | none => s3
  | some x =>
    modVf x.vf (fun v => { v with
      waiting := v.waiting.filter (fun w => w.launch != lid)
      cmds := match x.cmd with
        | some id => Tab.del v.cmds id
        | none => v.cmds }) { s3 with launches := Tab.del s3.launches lid }

/-- MMAs of a VF on sequencers that their team has released are ended with it. -/
def dropReleased (vf : Nat) (s : State) : State :=
  s.cores.foldl (fun (u : State) (e : Nat × Core) =>
    if e.2.seq.owner.isNone && e.2.seq.mmas.any (fun m => m.vf == vf) then
      e.2.seq.mmas.foldl (fun u m => dropLocks e.1 (.mma m.serial) u)
        (modSeq e.1 (fun q => { Sequencer.reset with serial := q.serial }) u)
    else u) s

/-! ## RESTORE (R404) -/

/-- A launch of a VF has begun and stands in no folio. -/
def launchOn (s : State) (vf : Nat) : Bool := s.launches.any (fun e => e.2.vf == vf && e.2.begun && e.2.saved.isNone)

/-- The members that stay in folios belong to their groups where these have been restored (07 R213). -/
def settleHomes (vf : Nat) (s : State) : State :=
  let hs := (ctxAt s vf).homes
  let move (m : Member) : Member :=
    match hs.find? (fun h => h.key == m.key && h.was == some m.cluster) with
    | some h => { m with cluster := h.cluster }
    | none => m
  modCtx vf (fun c => { c with homes := (hs.filter (fun h => h.was.isSome)).map (fun h => { h with was := some h.cluster }) })
    { s with launches := s.launches.map (fun l =>
        if l.2.vf = vf then (l.1, { l.2 with saved := l.2.saved.map (fun r => { r with members := r.members.map move }) }) else l) }

/-- The last folio is taken: the directory keeps those that were not restored, and STATE follows. -/
def finishRestore (vf : Nat) (s : State) : State :=
  let c := ctxAt s vf
  let r := writeUpTo vf c.sarea.toNat (dirBytes (c.dir.getD [])) s
  match r.2 with
  | some g => freezeCtx vf g 0 r.1
  | none =>
    let on := c.taken || c.ran
    settleHomes vf (captureFree 4 6 vf 0 (modCtx vf (fun c => { c with
      st := if on then .running else .saved, sliceAt := some s.time, dir := none, todo := [] }) r.1))

/-- Read the directory and begin with its first folio. -/
def beginRestore (vf : Nat) (s : State) : State :=
  match readDir s vf with
  | .error g => freezeCtx vf g 3 s
  | .ok os =>
    let s1 := modCtx vf (fun c => { c with dir := some [], todo := os, ran := c.ran && (os.isEmpty || launchOn s vf) }) s
    if os.isEmpty then finishRestore vf s1 else s1

/-- A restore begins, once its directory can be read (19 R415). -/
def tryRestore (vf : Nat) (s : State) : State := if dirHeld s vf then s else beginRestore vf s

/-- RESTORE: ignored outside states 0 and 3. -/
def execRestore (vf : Nat) (s : State) : Out :=
  .next (pfWrite vf (fun s =>
    let c := ctxAt s vf
    if c.st == .running || c.st == .saved then
      tryRestore vf (modCtx vf (fun c => { c with
        st := .restoring, ran := c.st == .running, taken := false, dir := none, todo := [] }) s)
    else s) s)

/-! ### The parts of a folio -/

/-- A folio's records sorted out by team: each with its team index, and those of groups with the group index and what the group
keeps. -/
structure FolioParts where
  teams : List (Nat × List Byte)
  groups : List (Nat × Nat × Kept × List Byte)
  matrix : List (Nat × List Byte)
  copies : List (List Byte)
  ports : List (Nat × Nat × List Byte)
  coops : List (Nat × Nat × Nat)

/-- Fields of a team record (R392). -/
def trIndex (r : List Byte) : Nat := fieldAt r 0 4
def trGroups (r : List Byte) : Nat := fieldAt r 4 1
def trTiles (r : List Byte) : Nat := fieldAt r 6 1
def trOwns (r : List Byte) : Bool := fieldAt r 7 1 % 2 == 1
def trShares (r : List Byte) : Bool := fieldAt r 7 1 / 2 % 2 == 1
def trCoop (r : List Byte) : Bool := fieldAt r 7 1 / 4 % 2 == 1
def trKey (r : List Byte) : W64 := BitVec.ofNat 64 (fieldAt r 16 8)

/-- Sort out a folio. The roster of a launch of this device says which groups its records and entries belong to; those of
another device are assigned in order. -/
def folioParts (s : State) (bs : List Byte) (roster : Option Roster) : FolioParts :=
  let split (i : Nat) (size : List Byte → Nat) : List (List Byte) :=
    let b := sectionOf bs i
    splitRecords size b.length b
  let ts := split 0 teamRecordSize
  let gs := split 1 groupRecordSize
  let ps := split 4 (fun _ => 80)
  let shape (k : Nat) : List (Nat × Nat) := ts.map (fun t => (trIndex t, k * trGroups t))
  let es := (List.range (((epSect bs 5).2) / 8)).map (fun i => fieldAt (sectionOf bs 5) (8 * i) 8)
  let recs : List (Nat × Nat) := match roster with
    | some r => r.recs
    | none => (assignRecords (shape 1) (gs.map (fun r => fieldAt r 0 1)) 0).zip (gs.map (fun r => fieldAt r 0 1))
  let kept : List Kept := match roster with
    | some r => r.kept
    | none => gs.zipIdx.map (fun x => foreignKept s x.2 (fieldAt x.1 1 1 % 2 == 1))
  let ports : List Nat := match roster with
    | some r => r.ports.map Prod.fst
    | none => assignRecords (shape 128) (ps.map (fun r => fieldAt r 0 1 * 128 + fieldAt r 1 1 % 128)) 0
  let coops : List (Nat × Nat) := match roster with
    | some r => r.coops
    | none => (ts.filter trCoop).flatMap (fun t =>
        ((List.range (trGroups t)).map (fun i => (trIndex t, i))).filter (fun x => !recs.contains x))
  let holders := (ts.filter (fun t => !trCoop t && (trTiles t != 0 || trOwns t))).map trIndex
  { teams := ts.map (fun t => (trIndex t, t))
    groups := ((recs.zip gs).zip kept).map (fun x => (x.1.1.1, x.1.1.2, x.2, x.1.2))
    matrix := holders.zip (split 2 matrixRecordSize)
    copies := split 3 (fun _ => 64)
    ports := (ports.zip ps).map (fun x => (x.1, fieldAt x.2 0 1, x.2))
    coops := (coops.zip es).map (fun x => (x.1.1, x.1.2, x.2)) }

/-! ### Loading -/

/-- The team of a record as it waits for admission. -/
def recordTeam (lid : Nat) (r : List Byte) : WaitingTeam :=
  { launch := lid, index := trIndex r, lanes := 0, groups := trGroups r, vext := fieldAt r 5 1, pages := fieldAt r 8 2
    tiles := trTiles r, entry := 0, tvec := 0, pvec := 0, regs := [], tasks := [] }

/-- A team with the fields of its record; MEMGEN advances (R392, R404). -/
def loadTeam (k : Nat) (r : List Byte) (s : State) : State :=
  let bar (i : Nat) : Barrier :=
    { expect := fieldAt r (24 + 4 * i) 1, arrived := fieldAt r (25 + 4 * i) 1, phase := BitVec.ofNat 4 (fieldAt r (26 + 4 * i) 1) }
  let sh : Share := { key := trKey r, member := fieldAt r 10 2, view := BitVec.ofNat 16 (fieldAt r 88 2), exposure := fieldAt r 90 1 }
  let s1 := modTeam k (fun t => { t with
    memGen := BitVec.ofNat 32 (fieldAt r 12 4) + 1, coop := trCoop r, share := if trShares r then some sh else none
    barriers := if trCoop r then [] else (List.range 16).map (fun i => (i, bar i)) }) s
  (teamAt s1 k).pages.zipIdx.foldl (fun (u : State) (x : Nat × Nat) =>
    writePas 0 (ocpmWindow (teamAt s1 k).core + x.1 * 0x400) ((r.drop (96 + 1024 * x.2)).take 1024) u) s1

/-- A group that a restore brings into a slot, before its record is loaded. -/
def newGroup (s : State) (k : Nat) (l : Launch) (lid gi q : Nat) : Group :=
  { Group.empty with
    st := .running, vf := l.vf, launch := lid, team := k, index := gi, gen := (groupAt s q).gen + 1
    dvec := (vfAt s l.vf).dbg.dvecr &&& ~~~(3 : W64), pvec := l.pvec &&& ~~~(3 : W64), level := l.vf == 0
    laneBase := if l.kind == .wave then 0 else BitVec.ofNat 64 (32 * gi), lastIssue := s.cclk, readyAt := s.cclk }

/-- A pending SYSC is attached to the group in a slot again: its register is empty until the answer, and an answer that the hub
holds is delivered (R385, R404). -/
def attachSysc (q : Nat) (handle : W64) (dest : Nat) (s : State) : State :=
  let r := Tab.find s.syscs handle.toNat
  let y : PendingSysc :=
    { handle := handle, dest := dest, service := (r.map (fun x => x.service)).getD 0, args := (r.map (fun x => x.args)).getD [] }
  let s1 : State := { modGroup q (fun g => { g.emptyS dest with sysc := some y }) s with
    syscs := match r with
      | some x => Tab.set s.syscs handle.toNat { x with launch := (groupAt s q).launch }
      | none => s.syscs }
  match r.bind (fun x => x.answer) with
  | some v => landSysc q v s1
  | none => s1

/-- Load a group record into a slot (R393), with what the group kept. -/
def loadGroup (k : Nat) (l : Launch) (lid gi q : Nat) (kept : Kept) (r : List Byte) (s : State) : State :=
  let s1 := modTeam k (fun t => { t with members := t.members ++ [q] })
    (setGroup q ((groupOfRecord r (newGroup s k l lid gi q)).keep kept) s)
  let s2 := loadRegs q r s1
  let h := BitVec.ofNat 64 (fieldAt r 840 8)
  if h = 0 then s2 else attachSysc q h (fieldAt r 848 1 % 64) s2

/-- A group of a cooperative team enters at PVEC with its launch state and every slot live (R396, R409). -/
def enterCoop (k : Nat) (l : Launch) (lid gi q block : Nat) (s : State) : State :=
  let ident (i : Nat) : Slot := { st := .live, ident := BitVec.ofNat 16 (32 * gi + i) }
  let regs : List W64 := [l.args, BitVec.ofNat 64 (teamAt s k).index, BitVec.ofNat 64 gi, BitVec.ofNat 64 l.teams]
  let g : Group := { newGroup s k l lid gi q with
    s := regs.zipIdx.map (fun x => (x.2 + 1, x.1)), v := [(0, .affine (BitVec.ofNat 32 (32 * gi)) 1)]
    tvec := l.kdesc.trapVec &&& ~~~(3 : W64), slots := (List.range 32).map ident, coopBlock := BitVec.ofNat 64 block }
  takeTrap q tPreempt 1 0 (modTeam k (fun t => { t with members := t.members ++ [q] }) (setGroup q g s))

/-- The sequencer of a cooperative team that owned it: owned, held, in IDLE, with nothing loaded (R396). -/
def idleSeq (k : Nat) (s : State) : State :=
  modSeq (teamAt s k).core (fun q => { Sequencer.reset with st := .idle, owner := some k, held := true, serial := q.serial }) s

/-- Load a team that has been given slots on a core. -/
def restoreTeam (l : Launch) (lid c : Nat) (slots : List Nat) (r : List Byte) (p : FolioParts) (s : State) : State :=
  let k := s.nextTeam
  let t := trIndex r
  let s1 := loadTeam k r (takeCounts c l.vf (recordTeam lid r) l.s1root slots s)
  let s2 := (p.groups.filter (fun x => x.1 == t)).foldl (fun (u : State) (x : Nat × Nat × Kept × List Byte) =>
    match slots[x.2.1]? with
    | some q => loadGroup k l lid x.2.1 q x.2.2.1 x.2.2.2 u
    | none => u) s1
  let s3 := (p.coops.filter (fun x => x.1 == t)).foldl (fun (u : State) (x : Nat × Nat × Nat) =>
    match slots[x.2.1]? with
    | some q => enterCoop k l lid x.2.1 q x.2.2 u
    | none => u) s2
  let s4 := (p.matrix.filter (fun x => x.1 == t)).foldl (fun (u : State) (x : Nat × List Byte) => loadMatrix k x.2 u) s3
  let s5 := if trCoop r && trOwns r then idleSeq k s4 else s4
  (p.ports.filter (fun x => x.1 == t)).foldl (fun (u : State) (x : Nat × Nat × List Byte) =>
    match slots[x.2.1]? with
    | some q => loadStream q x.2.2 u
    | none => u) s5

/-- A member number of a sharing group of a VF is held on a cluster. -/
def memberHeld (s : State) (vf cluster : Nat) (key : W64) (m : Nat) : Bool :=
  s.teams.any (fun e => e.2.vf == vf && e.2.core / 4 == cluster && (match e.2.share with
    | some o => o.key == key && o.member == m
    | none => false))

/-- A member number of a key is taken on a cluster: a team there holds it, or a member in a folio whose group, another than that of the
cluster `was`, has been restored there. -/
def numberTaken (s : State) (vf cluster : Nat) (homes : List Home) (pend : List Member) (was : Option Nat) (key : W64) (m : Nat) : Bool :=
  memberHeld s vf cluster key m
    || pend.any (fun p => p.key == key && p.number == m && some p.cluster != was && p.goesTo homes cluster)

/-- A team of a sharing group may not go to a cluster (07 R213, log 74): its number is taken there; members of its group have been
restored on another one; or it is the first of its group, and the number of another member is taken there. Of a team from another device
it is not known which teams shared its cluster: it goes where a team of its key has gone, if its number is not taken there. -/
def awayFrom (s : State) (vf cluster : Nat) (homes : List Home) (pend : List Member) (was : Option Nat) (r : List Byte) : Bool :=
  let key := trKey r
  let taken (c m : Nat) : Bool := numberTaken s vf c homes pend was key m
  let m := fieldAt r 10 2
  let at' := homes.filter (fun h => h.key == key && h.was == was && (was.isSome || !taken h.cluster m))
  trShares r && (taken cluster m
    || (if at'.isEmpty then was.isSome && pend.any (fun p => p.key == key && some p.cluster == was && taken cluster p.number)
        else at'.all (fun h => h.cluster != cluster)))

/-- Admit and load teams on the cores given for them, those of one sharing group on one cluster (R404, 07 R213), with the clusters
where this RESTORE has placed members; none where one is not admitted. `pend` are the members that stand in folios, this one's among
them. -/
def restoreTeams (l : Launch) (lid : Nat) (p : FolioParts) (pend : List Member) :
    List (Nat × List Byte) → List Nat → List Home → State → Option (State × List Home)
  | [], _, homes, s => some (s, homes)
  | _ :: _, [], _, _ => none
  | (t, r) :: ts, c :: cs, homes, s =>
    let was : Option Nat := l.saved.bind (fun ro => (ro.members.find? (fun m => m.team == t)).map (fun m => m.cluster))
    if awayFrom s l.vf (c / 4) homes pend was r || (trOwns r && (seqAt s c).st != .free) then none
    else match placement s c l.vf (recordTeam lid r) with
      | none => none
      | some slots =>
        let home : Home := { key := trKey r, was := was, cluster := c / 4 }
        restoreTeams l lid p pend ts cs (if trShares r && !homes.contains home then home :: homes else homes) (restoreTeam l lid c slots r p s)

/-- Restart the copy of a record whose starting group has ended: it has a team and no group. -/
def restartOrphan (l : Launch) (lid k : Nat) (r : List Byte) (s : State) : Option State :=
  let t := teamAt s k
  let w (off : Nat) : W32 := BitVec.ofNat 32 (fieldAt r off 4)
  let tidx := fieldAt r 0 2
  let tpl := Tab.find (vfAt s l.vf).templates tidx
  let starter := fieldAt r 40 4
  let c : Copy :=
    { vf := l.vf, launch := lid, team := k, q := 32768, gen := 0, core := t.core, chan := fieldAt r 2 1 % 16, tidx := tidx
      tpl := tpl.getD default, offset := w 20, dstOff := rwOffset s l.vf lid r, origins := [w 28, w 32, w 36], batch := w 16
      done0 := fieldAt r 8 8, done := fieldAt r 8 8, run := false, s1root := l.s1root, cmd := none, order := 0, failed := none
      stall := none, tgen := 0, gone := [], starter := (starter / 2 ^ 8 % 2 ^ 16, starter % 16), parked := false }
  let foreign := tpDk (tpRec c.tpl) = 1 ∧ fieldAt r 44 4 / 2 ^ 31 ≠ 1
  enterCopy c (if tpl.isNone then some 1 else if foreign then some 4 else none) s

/-- Restart the copies of a folio; none where one waits (R404 step 4). -/
def restartCopies (l : Launch) (lid : Nat) : List (List Byte) → State → Option State
  | [], s => some s
  | r :: rs, s =>
    let starter := fieldAt r 40 4
    let ks := teamsOf s lid
    let k := (ks.find? (fun k => (teamAt s k).index == starter / 2 ^ 8 % 2 ^ 16)).getD (ks.headD 0)
    let next := match launchGroupAt s lid (starter / 2 ^ 8 % 2 ^ 16) (starter % 16) with
      | some q => restartCopy q r s
      | none => restartOrphan l lid k r s
    next.bind (restartCopies l lid rs)

/-- The launch of this device that an endpaper names. -/
def knownLaunch (s : State) (vf id : Nat) : Option (Nat × Launch) :=
  s.launches.find? (fun e => e.1 % 2 ^ 24 == id && e.2.vf == vf && e.2.saved.isSome)

/-- The launch of a folio that comes from another device: what the folio does not state of it is free (log 4). It has no
command here. -/
def foreignLaunch (s : State) (vf n : Nat) : Launch :=
  { vf := vf, kind := .kernel, queue := 0, cmd := none, kdesc := { (default : Config.KDesc) with trapVec := Config.freeW64 s.free 9701 }
    args := Config.freeW64 s.free 9702, teams := n, lanes := 0, nbt := 0, pvec := Config.freeW64 s.free 9703
    s1root := Config.freeW64 s.free 9700 &&& ~~~(0xFFF : W64), tlrec := 0, begun := true, left := n, start := s.time, loss := []
    lossAt := s.time, saved := none }

/-- Restore the launch of a folio that passed its checks; none while it waits for cores. -/
def restoreFolio (vf : Nat) (bs : List Byte) (cores : List Nat) (s : State) : Option State :=
  let id := fieldAt bs 16 4 % 2 ^ 24
  let known := knownLaunch s vf id
  let lid := match known with
    | some (i, _) => i
    | none => if (Tab.find s.launches id).isNone then id else s.nextLaunch
  let l := match known with
    | some (_, l) => l
    | none => foreignLaunch s vf (fieldAt bs 20 4)
  let p := folioParts s bs (l.saved)
  let s1 : State := { s with
    launches := Tab.set s.launches lid { l with saved := none }, nextLaunch := max s.nextLaunch (lid + 1) }
  (restoreTeams l lid p (savedMembers s vf) (sortBy (fun a b => decide (a.1 ≤ b.1)) p.teams) cores (ctxAt s vf).homes s1).bind (fun x =>
    restartCopies l lid p.copies (captureFree 4 6 vf 0 (modCtx vf (fun c => { c with homes := x.2 }) x.1)))

/-- A folio is taken, restored or not. -/
def takeFolio (vf : Nat) (s : State) : State :=
  let s1 := modCtx vf (fun c => { c with todo := c.todo.drop 1 }) s
  if (ctxAt s1 vf).todo.isEmpty then finishRestore vf s1 else s1

/-- FOLIO_RESTORE: the next folio is checked and, where it passes, its teams are admitted on the cores given and loaded. A restore whose
directory lay in memory of a held die reads it first (19 R415). -/
def execFolioRestore (vf : Nat) (cores : List Nat) (s : State) : Out :=
  event "FOLIO_RESTORE"
    (let c := ctxAt s vf
     let sa := c.sarea.toNat
     match c.st, c.todo with
     | .restoring, [] => if c.dir.isSome || dirHeld s vf then none else some (beginRestore vf s)
     | .restoring, off :: _ =>
       let fail (code : Nat) : State :=
         takeFolio vf (modCtx vf (fun c => { c with err := BitVec.ofNat 8 code, dir := c.dir.map (· ++ [off]) }) s)
       if c.sasize.toNat < off + 256 then some (fail 5)
       else if gpaHeld s vf (sa + off) 256 then none
       else match readUpTo s vf (sa + off) 256 with
         | .error g => some (freezeCtx vf g 3 s)
         | .ok ep =>
           if folioError ep (c.sasize.toNat - off) ≠ 0 then some (fail (folioError ep (c.sasize.toNat - off)))
           else if gpaHeld s vf (sa + off) (fieldAt ep 24 8) then none
           else match readUpTo s vf (sa + off) (fieldAt ep 24 8) with
             | .error g => some (freezeCtx vf g 3 s)
             | .ok bs =>
               let clear := ep ++ opaqueBytes (fieldAt ep 10 1) (bs.drop 256)
               (restoreFolio vf clear cores s).map (fun t => takeFolio vf (modCtx vf (fun c => { c with taken := true }) t))
     | _, _ => none)

/-! ## RESUME_SAVE and DISCARD (R403) -/

/-- RESUME_SAVE: what froze is tried again. -/
def execResumeSave (vf : Nat) (s : State) : Out :=
  .next (pfWrite vf (fun s =>
    let c := ctxAt s vf
    if c.st != .frozen then s
    else
      let s1 := modCtx vf (fun c => { c with st := c.thaw }) s
      if c.thaw == .saving then (if c.dir.isNone && dirHeld s1 vf then s1 else runSave vf s1)
      else if c.dir.isNone then tryRestore vf s1
      else if c.todo.isEmpty then finishRestore vf s1
      else s1) s)

/-- The launches of a save are ended. -/
def discardSave (vf : Nat) (s : State) : State :=
  let s1 := (ctxAt s vf).launches.foldl (fun u lid => killLaunch lid u) (dropReleased vf s)
  postEvent vf 2 vf 4 0 (packFields [(8, 0), (1, 0xFF)])
    (modCtx vf (fun c => { c with st := .running, cause := 0xFF, launches := [], written := 0, cut := false, late := [], dir := none }) s1)

/-- A restore is ended: what it has restored runs, and the other folios stay listed. -/
def discardRestore (vf : Nat) (s : State) : State :=
  let c := ctxAt s vf
  let s1 := match c.dir with
    | some d => (writeUpTo vf c.sarea.toNat (dirBytes (d ++ c.todo)) s).1
    | none => s
  modCtx vf (fun c => { c with
    st := if (residentLaunches s vf).isEmpty then .saved else .running, dir := none, todo := [] }) s1

/-- DISCARD: of what froze, or of a save that waits for a group that was reported (R386). -/
def execDiscard (vf : Nat) (s : State) : Out :=
  .next (pfWrite vf (fun s =>
    let c := ctxAt s vf
    if c.st == .frozen && c.thaw == .restoring then discardRestore vf s
    else if c.st == .frozen || (c.st == .saving && !c.late.isEmpty) then discardSave vf s
    else s) s)

/-! ## EXPORT (R406) -/

/-- The endpapers of the listed folios, with their offsets; none where one is not reached. -/
def endpapers (s : State) (vf : Nat) : Option (List (Nat × List Byte)) :=
  match readDir s vf with
  | .error _ => none
  | .ok os => os.mapM (fun o => ((readUpTo s vf ((ctxAt s vf).sarea.toNat + o) 256).toOption).map (fun b => (o, b)))

/-- EXPORT: TKEY is compared with the CKEY of every folio in the area. On a match FLAGS[2] is set. -/
def execExportImage (vf : Nat) (s : State) : Out :=
  .next (pfWrite vf (fun s =>
    let c := ctxAt s vf
    if c.st != .saved then s
    else
      let bad := modCtx vf (fun c => { c with err := 4 }) s
      match endpapers s vf with
      | none => bad
      | some eps =>
        if eps.all (fun e => fieldAt e.2 176 16 == s.tkey.toNat) then
          eps.foldl (fun (u : State) (e : Nat × List Byte) =>
            let f := fieldAt e.2 11 1
            (writeUpTo vf (c.sarea.toNat + e.1 + 11) (leBytes 1 (if f / 4 % 2 = 1 then f else f + 4)) u).1) s
        else bad) s)

/-! ## Context instructions (R397 to R402) -/

/-- The frame of a member of major 0x32: each advances MEMGEN. -/
def ctxWord (word : W32) (uses : List Use) (s : State) (body : State → Res) : Out :=
  wordW word (.priv 0x32 :: uses) s (fun s _ =>
    match body s with
    | .done s1 n => .done (memGenMe s1) n
    | r => r)

/-- An address operand must be 64-byte aligned. -/
def at64 (va : W64) (write : Bool) (s : State) (body : Nat → Res) : Res :=
  if va.toNat % 64 ≠ 0 then .trap s tAlign (accessInfo false write 0 va.toNat 6) else body va.toNat

/-- The copies that the executing group started and that have not completed, in start order. -/
def myCopies (s : State) : List (Nat × Copy) :=
  sortBy (fun a b => decide (a.2.order ≤ b.2.order))
    (s.copies.filter (fun e => e.2.q == s.qid && e.2.gen == s.me.gen && e.2.cmd.isNone && !e.2.parked))

/-- CDRAIN (R398). -/
def execCdrain (o : OpDA) (s : State) : Out :=
  ctxWord (o.pack 0xC8000000) [.ss o.sa.toNat false 1, .sd o.sd.toNat] s (fun s =>
    at64 (s.me.readS o.sa.toNat) true s (fun va =>
      let cs := myCopies s
      match accessRange s true va (64 * cs.length) with
      | .error r => r
      | .ok (ps, s1) =>
        let s2 := cs.foldl (fun (u : State) (e : Nat × Copy) => advanceCopy e.1 e.2 u) s1
        let bs := cs.flatMap (fun e => copyRecord s2 (Tab.get e.2 s2.copies e.1))
        let s3 := cs.foldl (fun (u : State) (e : Nat × Copy) =>
          leaveBatch e.2 false (dropCopy e.1 e.2 (cancelCopy (Tab.get e.2 u.copies e.1) u))) s2
        .done (putS o.sd.toNat (BitVec.ofNat 64 cs.length) (writeParts s3.me.vf ps bs s3)) .seq))

/-- A remap item: slots 2k and 2k + 1 (R399). -/
def remapItem (g : Group) (k : Nat) : Nat :=
  let h (i : Nat) : Nat := (g.slot i).shown + (g.slot i).code * 2 ^ 16
  h (2 * k) + h (2 * k + 1) * 2 ^ 32

/-- Four team barriers (R399). -/
def barItem (t : Team) (k : Nat) : Nat :=
  packBits 16 ((List.range 4).map (fun i =>
    let b := t.barrier (4 * k + i)
    b.expect % 32 + b.arrived % 16 * 2 ^ 5 + b.phase.toNat * 2 ^ 9))

/-- A context item as CSTATE reads it; none for one not listed (R399). -/
def ctxItem (s : State) (i : Nat) : Option Nat :=
  let g := s.me
  if i < 0x010 then some (remapItem g i)
  else if i < 0x014 then some (shapeBits g (s.vtop g) (32 * (i - 0x010)) 32)
  else if 0x020 ≤ i ∧ i < 0x024 then some (barItem s.myTeam (i - 0x020))
  else if 0x030 ≤ i ∧ i < 0x040 then
    some (match Tab.find g.ports (112 + (i - 0x030)) with
      | some p => 2 ^ 63 + p.pos % 2 ^ 32
      | none => 0)
  else match i with
    | 0x014 => some (g.fullV.toNat % 2 ^ 64)
    | 0x015 => some (g.fullV.toNat / 2 ^ 64)
    | 0x016 => some g.fullS.toNat
    | 0x018 => some (match g.loop with
        | some l => 2 ^ 63 + loopPosition g l % 32 * 2 ^ 8 + (l.body.length - 1) % 32
        | none => 0)
    | 0x019 => some ((g.loop.map (fun l => l.addr)).getD g.stageAddr).toNat
    | 0x01A => some ((g.loop.map (fun l => l.remaining)).getD g.stageLeft).toNat
    | 0x024 => some (barPhases g)
    | 0x025 => some (barFlags g)
    | 0x026 => some (batchView g).toNat
    | 0x027 => some (failMask g)
    | 0x028 => some ((g.sysc.map (fun (y : PendingSysc) => y.handle)).getD 0).toNat
    | 0x029 => some ((g.sysc.map (fun (y : PendingSysc) => y.dest)).getD (g.syscDest % 64))
    | 0x040 => some g.coopBlock.toNat
    | _ => none

/-- CSTATE (R399). -/
def execCstate (o : OpDA) (s : State) : Out :=
  ctxWord (o.pack 0xC8100000) [.ss o.sa.toNat false 1, .sd o.sd.toNat] s (fun s =>
    match ctxItem s ((s.me.readS o.sa.toNat).toNat % 4096) with
    | some v => .done (putS o.sd.toNat (BitVec.ofNat 64 v) s) .seq
    | none => badOperandW (o.pack 0xC8100000) o.sa.toNat s)

/-- The batches after a write of item 0x026: closed ones count as complete. -/
def batchesOpen (o : W32) (bs : List Batch) : List Batch :=
  bs.filterMap (fun b => if b.num = o then some b else if b.failed then some { b with pending := 0 } else none)

/-- The batches after a write of item 0x027: the failed ones among the eight before OPEN are those of the mask. -/
def batchesFailed (o : W32) (mask : Nat) (bs : List Batch) : List Batch :=
  let nums := (List.range 8).map (fun j => o - 8 + BitVec.ofNat 32 j)
  bs.filter (fun b => !nums.contains b.num) ++ nums.zipIdx.filterMap (fun x =>
    let pend := ((bs.find? (fun b => b.num == x.1)).map (fun b => b.pending)).getD 0
    let bad := mask / 2 ^ x.2 % 2 == 1
    if bad || decide (0 < pend) then some { num := x.1, pending := pend, failed := bad } else none)

/-- Write a team barrier item. -/
def setBarItem (k : Nat) (v : Nat) (t : Team) : Team :=
  { t with barriers := (List.range 4).foldl (fun b i =>
      let x := v / 2 ^ (16 * i) % 2 ^ 16
      Tab.set b (4 * k + i) { expect := x % 32, arrived := x / 2 ^ 5 % 16, phase := BitVec.ofNat 4 (x / 2 ^ 9) }) t.barriers }

/-- Write an item of the group's own registers; none for one not listed or read-only. A loop that is pinned reads its body again
before its next word (04 R122); it is suspended inside a handler, and active outside. -/
def groupItem (i : Nat) (v : W64) (g : Group) : Option Group :=
  let n := v.toNat
  if i < 0x010 then
    let sl (k : Nat) : Slot := if k / 2 = i then slotOf (n / 2 ^ (32 * (k % 2) + 16)) (n / 2 ^ (32 * (k % 2)) % 2 ^ 16) else g.slot k
    some { g with slots := settleQuads ((List.range 32).map sl) }
  else if 0x030 ≤ i ∧ i < 0x040 then
    let w := 112 + (i - 0x030)
    some (match Tab.find g.ports w with
      | some p => { g with ports := Tab.set g.ports w { p with pos := n % 2 ^ 32, buffer := [] } }
      | none => g)
  else match i with
    | 0x014 => some { g with fullV := (g.fullV >>> 64 <<< 64) ||| v.setWidth 112 }
    | 0x015 => some { g with fullV := (g.fullV.setWidth 64).setWidth 112 ||| (v.setWidth 112 <<< 64) }
    | 0x016 => some { g with fullS := v ||| 1 }
    | 0x018 =>
      let l : PinnedLoop :=
        { addr := g.stageAddr, body := List.replicate (n % 32 + 1) 0, remaining := g.stageLeft
          suspended := g.hact || g.dact || g.pact, refetch := false, unread := true, pos := some (n / 2 ^ 8 % 32) }
      some { g with loop := if v.getLsbD 63 then some l else none }
    | 0x019 =>
      let a := v &&& ~~~(3 : W64)
      some { g with stageAddr := a, loop := g.loop.map (fun l => { l with addr := a, unread := true }) }
    | 0x01A => some { g with stageLeft := v, loop := g.loop.map (fun l => { l with remaining := v }) }
    | 0x024 => some (setBars n (barFlags g) g)
    | 0x025 => some (setBars (barPhases g) n g)
    | 0x026 => some { g with
        openBatch := v.setWidth 32, rwin := v.getLsbD 36, batchErr := v.getLsbD 37
        batches := batchesOpen (v.setWidth 32) g.batches }
    | 0x027 => some { g with batches := batchesFailed g.openBatch n g.batches }
    | _ => none

/-- Write a context item; none for one not listed or read-only. Item 0x029 may come before or after 0x028; an answer that the
hub holds is delivered once both are written. -/
def writeItem (i : Nat) (v : W64) (s : State) : Option State :=
  if 0x020 ≤ i ∧ i < 0x024 then some (modTeam s.me.team (setBarItem (i - 0x020) v.toNat) s)
  else if i = 0x028 then
    some (if v = 0 then modMe (fun g => { g with sysc := none }) s
      else if 64 ≤ s.me.syscDest then
        attachSysc s.qid v (s.me.syscDest % 64) (modMe (fun g => { g with syscDest := 0 }) s)
      else modMe (fun g => { g with sysc := some { handle := v, dest := 0, service := 0, args := [] } }) s)
  else if i = 0x029 then
    some (match s.me.sysc with
      | some y => attachSysc s.qid y.handle (v.toNat % 64) s
      | none => modMe (fun g => { g with syscDest := 64 + v.toNat % 64 }) s)
  else (groupItem i v s.me).map (fun g => modMe (fun _ => g) s)

/-- CLOAD (R399). -/
def execCload (o : OpAB) (s : State) : Out :=
  ctxWord (o.pack 0xC8200000) [.ss o.sa.toNat false 1, .ss o.sb.toNat false 2] s (fun s =>
    match writeItem ((s.me.readS o.sa.toNat).toNat % 4096) (s.me.readS o.sb.toNat) s with
    | some t => .done t .seq
    | none => badOperandW (o.pack 0xC8200000) o.sa.toNat s)

/-- The group that retired CSAVED: its slot, its ports and its block stay until the save is complete; its registers and its
requests do not. -/
def saveGroup (block : W64) (s : State) : State :=
  let g := s.me
  setGroup s.qid { Group.empty with
    st := .stopped, vf := g.vf, launch := g.launch, team := g.team, index := g.index, gen := g.gen, ports := g.ports
    sysc := g.sysc, coopBlock := block, saved := true } (vacate s.qid s)

/-- CSAVED (R400). Outside a save it takes ILLEGAL_FIELD. -/
def execCsaved (o : OpA) (s : State) : Out :=
  ctxWord (o.pack 0xC8300000) [.ss o.sa.toNat false 1] s (fun s =>
    let v := s.me.readS o.sa.toNat
    at64 v false s (fun _ =>
      if (ctxAt s s.me.vf).st == .saving && s.me.pact then .ended (saveGroup v (memGenMe (countIssue s.qid s.me s)))
      else badOperandW (o.pack 0xC8300000) o.sa.toNat s))

/-- The record of n bytes at an address operand: its bytes and the state after the checks, or how the word ends. -/
def readRecord (va n : Nat) (s : State) : Except Res (List Byte × State) :=
  match accessRange s false va n with
  | .error r => .error r
  | .ok (ps, s1) =>
    match badInfo s1 0 va ps with
    | some info => .error (.trap s1 tDataErr info.toNat)
    | none => .ok (readParts s1 s1.me.vf ps, s1)

/-- CRESTART (R401). -/
def execCrestart (o : OpA) (s : State) : Out :=
  ctxWord (o.pack 0xC8400000) [.ss o.sa.toNat false 1] s (fun s =>
    at64 (s.me.readS o.sa.toNat) false s (fun va =>
      match readRecord va 64 s with
      | .error r => r
      | .ok (bs, s1) =>
        if fieldAt bs 3 1 % 2 = 0 then badOperandW (o.pack 0xC8400000) o.sa.toNat s1
        else match restartCopy s1.qid bs s1 with
          | some s2 => .done s2 .seq
          | none => .wait s1 .restart))

/-- The team must own the sequencer of its core (R402). -/
def ownSeq (word : W32) (s : State) (body : Res) : Res :=
  if (seqAt s (coreOf s.qid)).owner = some s.me.team then body else allotTrap word 4 s

/-- MSAVE (R402): the sequencer is held between two K-steps, which it is at every step of the model. -/
def execMsave (o : OpA) (s : State) : Out :=
  let word := o.pack 0xC8500000
  ctxWord word [.ss o.sa.toNat false 1] s (fun s =>
    at64 (s.me.readS o.sa.toNat) true s (fun va =>
      ownSeq word s (match accessRange s true va 2048 with
        | .error r => r
        | .ok (ps, s1) =>
          let s2 := holdSeq (coreOf s1.qid) s1
          .done (writeParts s2.me.vf ps (seqImage (seqAt s2 (coreOf s2.qid))) s2) .seq)))

/-- MLOAD (R402): the image is loaded and the hold is released. -/
def execMload (o : OpA) (s : State) : Out :=
  let word := o.pack 0xC8600000
  ctxWord word [.ss o.sa.toNat false 1] s (fun s =>
    at64 (s.me.readS o.sa.toNat) false s (fun va =>
      ownSeq word s (match readRecord va 2048 s with
        | .error r => r
        | .ok (bs, s1) =>
          let c := coreOf s1.qid
          .done (loadImage c s1.me.team bs (holdSeq c s1)) .seq)))

end Sys2Proof.Machine
end

