-- ==== Sys2Proof/Machine/Batch.lean ====
section
/-!
DEFINITION. Batches and transaction barriers of groups, major 0x2D, with their events (09 R277 to R283).
-/
namespace Sys2Proof.Machine

/-! ## Batches (R278 to R280) -/

/-- The number after a batch number: after 0xFFFF_FFFF comes 1 (R278). -/
def nextBatch (n : W32) : W32 := if n = -1 then 1 else n + 1

/-- a comes at or before b in serial-number arithmetic. -/
def serialLe (a b : W32) : Bool := decide ((b - a).toNat < 2 ^ 31)

/-- The closed batches of a group numbered n or less; an n at or beyond OPEN stands for the last closed batch (R280). -/
def Group.closedUpTo (g : Group) (n : W32) : List Batch :=
  if n = 0 then []
  else g.batches.filter (fun b => b.num != g.openBatch && (serialLe g.openBatch n || serialLe b.num n))

/-- BCLOSE (R279). A batch with no copy is complete at once and leaves no entry. -/
def tryBclose (o : OpBClose) (s : State) : Res :=
  let g := s.me
  if 8 ≤ g.pend then .wait s (.bclose o)
  else
    .done (modMe (fun g => { g.writeS o.sd.toNat (g.openBatch.zeroExtend 64) with
      openBatch := nextBatch g.openBatch
      batches := g.batches.filter (fun b => b.num != g.openBatch || decide (0 < b.pending) || b.failed)
      rwin := if o.rw = 1 then true else if o.rw = 2 then false else g.rwin }) s) .seq

def execBclose (o : OpBClose) (s : State) : Out :=
  wordG (.bclose o) [.sd o.sd.toNat] s (fun s _ => tryBclose o s)

def execBcloseResume (q : Nat) (s : State) : Out :=
  wakeWord "BCLOSE_RESUME" q s (fun b => match b with
    | .bclose o => some (tryBclose o)
    | _ => none)

/-- The oldest failed batch of a list, under the number of the open batch. -/
def oldestFailed (openNum : W32) (bs : List Batch) : Option Batch :=
  (bs.filter (fun b => b.failed)).foldl (fun r b => match r with
    | none => some b
    | some a => if (openNum - a.num).toNat < (openNum - b.num).toNat then some b else some a) none

/-- BWAIT (R280): once the batches are complete, the oldest unreported failure is reported. -/
def tryBwait (o : OpDA) (s : State) : Res :=
  let g := s.me
  let bs := g.closedUpTo ((g.readS o.sa.toNat).setWidth 32)
  if bs.any (fun b => decide (0 < b.pending)) then .wait s (.bwait o)
  else
    let hit := oldestFailed g.openBatch bs
    let num : W32 := match hit with
      | some b => b.num
      | none => 0
    .done (memGenMe (modMe (fun g => { g.writeS o.sd.toNat (num.zeroExtend 64) with
      batches := g.batches.filter (fun b => hit.isNone || b.num != num) }) s)) .seq

def execBwait (o : OpDA) (s : State) : Out :=
  wordG (.bwait o) [.ss o.sa.toNat false 1, .sd o.sd.toNat] s (fun s _ => tryBwait o s)

def execBwaitDone (q : Nat) (s : State) : Out :=
  wakeWord "BWAIT_DONE" q s (fun b => match b with
    | .bwait o => some (tryBwait o)
    | _ => none)

/-! ## Transaction barriers (R281 to R283) -/

/-- The access of a barrier by a group: its physical bytes and the state after the checks, or how the word ends. -/
def tbAccess (va : Nat) (read write : Bool) (s : State) : Except Res (List (Nat × Nat) × State) :=
  if va % 16 ≠ 0 then .error (.trap s tAlign (accessInfo false write 0 va 4))
  else if !tbRegion va then .error (.trap s tPerm (accessInfo false write 0 va 6))
  else match access s { size := 16, write := write, atomic := false, vector := true } read va with
    | .error r => .error r
    | .ok (.bytes ps _, s1) => .ok (ps, s1)
    | .ok (_, s1) => .error (.trap s1 tPerm (accessInfo false write 0 va 6))

/-- Change the barrier at an address in one access, and go on. A barrier whose line holds uncorrectable data is used as it stands, raises
no DATA_ERR, and its write clears the mark (DESIGN CHOICE, log 71: 19 R414 speaks of loads and pops). -/
def tbWord (va : Nat) (read : Bool) (f : Nat → Nat) (s : State) : Res :=
  match tbAccess va read true s with
  | .error r => r
  | .ok (ps, s1) =>
    .done (memGenMe (writeParts s1.me.vf ps (leBytes 16 (f (leNat (readParts s1 s1.me.vf ps)))) s1)) .seq

def execTbinit (o : OpAB) (s : State) : Out :=
  wordG (.tbinit o) [.ss o.sa.toNat false 1, .ss o.sb.toNat false 2] s (fun s _ =>
    let v := (s.me.readS o.sb.toNat).toNat
    let expect := v % 2 ^ 24
    let reload := v / 2 ^ 32 % 2 ^ 31
    if expect = 0 ∨ v / 2 ^ 24 % 256 ≠ 0 ∨ v / 2 ^ 63 ≠ 0 then badOperand (.tbinit o) o.sb.toNat s
    else tbWord (s.me.readS o.sa.toNat).toNat false (fun _ => tbMake 0 false expect expect reload reload) s)

def execTbarr (o : OpTBArr) (s : State) : Out :=
  wordG (.tbarr o) [.ss o.sa.toNat false 1] s (fun s _ =>
    atScope o.scp.toNat true s (tbWord (s.me.readS o.sa.toNat).toNat true (fun t => tbUpdate t 1 0) s))

def execTbexp (o : OpAB) (s : State) : Out :=
  wordG (.tbexp o) [.ss o.sa.toNat false 1, .ss o.sb.toNat false 2] s (fun s _ =>
    let n : Nat := (s.me.readS o.sb.toNat).toNat % 2 ^ 32
    tbWord (s.me.readS o.sa.toNat).toNat true (fun t => tbUpdate t 0 (-(n : Int))) s)

/-- TBWAIT goes on once the phase differs from the one observed before. -/
def tryTbwait (o : OpTBWait) (s : State) : Res :=
  match tbAccess (s.me.readS o.sa.toNat).toNat true false s with
  | .error r => r
  | .ok (ps, s1) =>
    let t := leNat (readParts s1 s1.me.vf ps)
    if tbPhase t = (s.me.readS o.sd.toNat).toNat % 16 then .wait s1 (.tbwait o)
    else .done (memGenMe (putS o.sd.toNat (BitVec.ofNat 64 (t % 256)) s1)) .seq

def execTbwait (o : OpTBWait) (s : State) : Out :=
  wordG (.tbwait o) [.ss o.sa.toNat false 1, .ss o.sd.toNat false 0, .sd o.sd.toNat] s (fun s _ =>
    atScope o.scp.toNat false s (tryTbwait o s))

def execTbwaitWake (q : Nat) (s : State) : Out :=
  wakeWord "TBWAIT_WAKE" q s (fun b => match b with
    | .tbwait o => some (tryTbwait o)
    | _ => none)

end Sys2Proof.Machine
end

