-- ==== Sys2Proof/Machine/Binder.lean ====
section
/-!
DEFINITION. The Binder (15 R364 to R380, 16 R381, R382): its register block, its sensors, its rewards and envelopes, and
one boundary.
-/
namespace Sys2Proof.Machine

/-! ## Parts of words -/

/-- The 32-bit part k of a value. -/
def part32 (x k : Nat) : Nat := x / 2 ^ (32 * k) % 2 ^ 32

/-- A value with its 32-bit part k replaced. -/
def withPart32 (x k w : Nat) : Nat := x - part32 x k * 2 ^ (32 * k) + w % 2 ^ 32 * 2 ^ (32 * k)

/-- Signed value of the low w bits. -/
def signedOf (w x : Nat) : Int := (BitVec.ofNat w x).toInt

/-- Saturation to [-2^31, 2^31 - 1] (R372). -/
def sat32 (x : Int) : Int := if x < -2 ^ 31 then -2 ^ 31 else if 2 ^ 31 - 1 < x then 2 ^ 31 - 1 else x

/-! ## Knobs (R368) -/

def Binder.knobWord (b : Binder) (v : Nat) : Nat := (Tab.get knobReset b.knob v).toNat

/-- Lowest bit, and the number of values, of a knob kind: 0 W, 1 H, 2 B, 3 P. -/
def knobLow (kind : Nat) : Nat := if kind = 0 then 0 else if kind = 1 then 8 else if kind = 2 then 16 else 24
def knobSize (kind : Nat) : Nat := if kind = 2 then 4 else 256
def knobField (w kind : Nat) : Nat := w / 2 ^ knobLow kind % knobSize kind

/-- A knob value is in its range. -/
def knobOk (kind : Nat) (x : Int) : Bool := if kind = 2 then decide (0 ≤ x) && decide (x ≤ 3) else decide (1 ≤ x) && decide (x ≤ 255)

/-- A software write of a knob word, in range. -/
def knobWordOk (w : Nat) : Bool := [0, 1, 3].all (fun k => knobOk k (knobField w k))

/-! ## The register block (R364 to R367) -/

def Binder.status (b : Binder) : Nat :=
  b.st % 4 + (if b.infeas then 8 else 0) + (if b.guardHit then 16 else 0) + (if b.werr then 32 else 0)
    + (if b.cerr then 64 else 0) + b.cause.toNat * 128

def flagBit (x : Bool) (n : Nat) : Nat := if x then 2 ^ n else 0

/-- A register below 0x100, whole. -/
def Binder.reg (b : Binder) (base : Nat) : Nat :=
  if base = 0x00 then flagBit b.inject 3 + flagBit b.stopAt.isSome 2 + flagBit b.armAt.isSome 1
  else if base = 0x08 then b.status
  else if base = 0x10 then b.period.toNat
  else if base = 0x18 then b.origin.toNat
  else if base = 0x20 then b.learn.toNat
  else if base = 0x28 then b.radius.toNat
  else if base = 0x30 then b.bseed.toNat
  else if base = 0x38 then flagBit b.rewardAt.isSome 0 + flagBit b.envAt.isSome 1
  else if base = 0x40 then b.curact.toNat
  else if base = 0x48 then b.lastrew.toNat
  else if base = 0x50 then b.lastdelta.toNat
  else if base = 0x58 then flagBit b.injAt.isSome 0
  else if 0x60 ≤ base ∧ base ≤ 0x90 then (Tab.get 0 b.counters ((base - 0x60) / 8)).toNat
  else 0

/-- A 32-bit word of the arrays from 0x100 on. -/
def Binder.word (b : Binder) (o : Nat) : Nat :=
  if 0x100 ≤ o ∧ o < 0x140 then part32 (Tab.get 0 b.feat ((o - 0x100) / 8)).toNat (o / 4 % 2)
  else if 0x200 ≤ o ∧ o < 0x400 then part32 (Tab.get 0 b.vset ((o - 0x200) / 0x80)).toNat (o % 0x80 / 4)
  else if 0x400 ≤ o ∧ o < 0x600 then part32 (Tab.get 0 b.act ((o - 0x400) / 16)).toNat (o / 4 % 4)
  else if 0x800 ≤ o ∧ o < 0x900 then part32 (Tab.get 0 b.rewS ((o - 0x800) / 8)).toNat (o / 4 % 2)
  else if 0x900 ≤ o ∧ o < 0xA00 then part32 (Tab.get 0 b.rewA ((o - 0x900) / 8)).toNat (o / 4 % 2)
  else if 0x1000 ≤ o ∧ o < 0x1A00 then part32 (Tab.get 0 b.envS ((o - 0x1000) / 80)).toNat ((o - 0x1000) % 80 / 4)
  else if 0x2000 ≤ o ∧ o < 0x2A00 then part32 (Tab.get 0 b.envA ((o - 0x2000) / 80)).toNat ((o - 0x2000) % 80 / 4)
  else if 0x3000 ≤ o ∧ o < 0x3100 then part32 (Tab.get 0 b.inj ((o - 0x3000) / 8)).toNat (o / 4 % 2)
  else if 0x4000 ≤ o ∧ o < 0x4800 then (if o % 64 / 4 < 9 then (Tab.get 0 b.weights ((o - 0x4000) / 4)).toNat else 0)
  else if 0x8000 ≤ o ∧ o ≤ 0x8800 then b.knobWord ((o - 0x8000) / 4)
  else if 0x9000 ≤ o ∧ o ≤ 0x9020 then (Tab.get 0 b.lastphi ((o - 0x9000) / 4)).toNat
  else 0

/-- A load of 4 or 8 bytes of the block. -/
def binderLoad (off bytes : Nat) (s : State) : Nat :=
  if off < 0x100 then s.binder.reg (off / 8 * 8) / 2 ^ (8 * (off % 8)) % 2 ^ (8 * bytes)
  else s.binder.word off + (if bytes = 8 then s.binder.word (off + 4) * 2 ^ 32 else 0)

/-- An idle-only register below 0x100 written whole; none for a field out of its range. -/
def Binder.setIdle (b : Binder) (base v : Nat) : Option Binder :=
  if base = 0x10 then (if 10000 ≤ v ∧ v ≤ 2 ^ 40 then some { b with period := BitVec.ofNat 64 v } else none)
  else if base = 0x18 then some { b with origin := BitVec.ofNat 64 v }
  else if base = 0x20 then
    (if v / 2 ^ 48 % 128 ≤ 64 ∧ 1 ≤ v / 2 ^ 56 % 64 ∧ v / 2 ^ 56 % 64 ≤ 32 then
      some { b with learn := BitVec.ofNat 64 v &&& 0x3F7FFFFFFFFFFFFF } else none)
  else if base = 0x28 then some { b with radius := BitVec.ofNat 64 v }
  else some { b with bseed := BitVec.ofNat 32 v }

/-- The word at an offset from 0x100 on is idle-only. Action 0 is none: writes to it are ignored (R370). -/
def idleWord (o : Nat) : Bool :=
  (decide (0x100 ≤ o) && decide (o < 0x140)) || (decide (0x200 ≤ o) && decide (o < 0x400) && decide (o % 0x80 < 0x48))
    || (decide (0x410 ≤ o) && decide (o < 0x600))
    || (decide (0x4000 ≤ o) && decide (o < 0x4800) && decide (o % 64 < 36)) || (decide (0x8000 ≤ o) && decide (o ≤ 0x8800))

/-- A 32-bit word of the arrays written; none for a value out of range. Reserved bits stay 0. -/
def Binder.setWord (b : Binder) (o w : Nat) : Option Binder :=
  if 0x100 ≤ o ∧ o < 0x140 then
    let i := (o - 0x100) / 8
    let w' := if o % 8 = 0 then w - w / 2 ^ 21 % 2 ^ 10 * 2 ^ 21 else w
    some { b with feat := Tab.set b.feat i (BitVec.ofNat 64 (withPart32 (Tab.get 0 b.feat i).toNat (o / 4 % 2) w')) }
  else if 0x200 ≤ o ∧ o < 0x400 then
    let i := (o - 0x200) / 0x80
    let k := o % 0x80 / 4
    let w' := if k < 16 then w else if k = 16 then w % 2 else 0
    some { b with vset := Tab.set b.vset i (BitVec.ofNat 576 (withPart32 (Tab.get 0 b.vset i).toNat k w')) }
  else if 0x410 ≤ o ∧ o < 0x600 then
    let i := (o - 0x400) / 16
    some { b with act := Tab.set b.act i (BitVec.ofNat 128 (withPart32 (Tab.get 0 b.act i).toNat (o / 4 % 4) w)) }
  else if 0x800 ≤ o ∧ o < 0x900 then
    let i := (o - 0x800) / 8
    some { b with rewS := Tab.set b.rewS i (BitVec.ofNat 64 (withPart32 (Tab.get 0 b.rewS i).toNat (o / 4 % 2) w)) }
  else if 0x1000 ≤ o ∧ o < 0x1A00 then
    let i := (o - 0x1000) / 80
    let r := withPart32 (Tab.get 0 b.envS i).toNat ((o - 0x1000) % 80 / 4) w
    some { b with envS := Tab.set b.envS i (BitVec.ofNat 640 r) }
  else if 0x3000 ≤ o ∧ o < 0x3100 then
    let i := (o - 0x3000) / 8
    let w' := if o % 8 = 0 then w % 2 ^ 17 else w
    some { b with inj := Tab.set b.inj i (BitVec.ofNat 64 (withPart32 (Tab.get 0 b.inj i).toNat (o / 4 % 2) w')) }
  else if 0x4000 ≤ o ∧ o < 0x4800 ∧ o % 64 < 36 then
    some { b with weights := Tab.set b.weights ((o - 0x4000) / 4) (BitVec.ofNat 32 w) }
  else if 0x8000 ≤ o ∧ o ≤ 0x8800 then
    (if knobWordOk w then
      some { b with knob := Tab.set b.knob ((o - 0x8000) / 4) (BitVec.ofNat 32 w &&& 0xFF03FFFF) } else none)
  else some b

/-- One 32-bit word of the arrays written by software, with the idle check of R365. -/
def Binder.storeWord (b : Binder) (o w : Nat) : Binder :=
  if idleWord o && b.st == 1 then { b with werr := true }
  else (b.setWord o w).getD { b with werr := true }

/-- A write to a register below 0x100: `old` bits outside the written half stay, and `ones` are the bits written 1. -/
def Binder.storeReg (b : Binder) (base half4 : Nat) (ones : Nat) (full : Bool) (now : W64) : Binder :=
  let pend (f : Option W64) (n : Nat) : Option W64 := if ones / 2 ^ n % 2 = 1 && f.isNone then some now else f
  if base = 0x00 then
    { b with inject := if full || half4 = 0 then ones / 8 % 2 == 1 else b.inject
             stopAt := pend b.stopAt 2, armAt := pend b.armAt 1 }
  else if base = 0x08 then
    { b with guardHit := b.guardHit && ones / 16 % 2 == 0, werr := b.werr && ones / 32 % 2 == 0
             cerr := b.cerr && ones / 64 % 2 == 0 }
  else if base = 0x38 then { b with rewardAt := pend b.rewardAt 0, envAt := pend b.envAt 1 }
  else if base = 0x58 then { b with injAt := pend b.injAt 0 }
  else if 0x10 ≤ base ∧ base ≤ 0x30 then
    (if b.st = 1 then { b with werr := true }
     else (b.setIdle base (if full then ones else withPart32 (b.reg base) half4 (part32 ones half4))).getD
       { b with werr := true })
  else b

/-- A store of 4 or 8 bytes of the block, as the registers take it. -/
def binderPut (off bytes value : Nat) (s : State) : State :=
  let b := s.binder
  if off < 0x100 then
    let ones := value % 2 ^ (8 * bytes) * 2 ^ (8 * (off % 8))
    { s with binder := b.storeReg (off / 8 * 8) (off / 4 % 2) ones (bytes == 8) s.time }
  else
    let b1 := b.storeWord off (value % 2 ^ 32)
    { s with binder := if bytes = 8 then b1.storeWord (off + 4) (value / 2 ^ 32 % 2 ^ 32) else b1 }

/-! ## Sensors (R368, R369) -/

/-- Commands of a function that are available and not begun: those read, and those that stand in the available rings.
The ring's index is the idx field of the driver area (14 R350). -/
def commandsWaiting (s : State) (v : Nat) : Nat :=
  let f := vfAt s v
  (f.cmds.filter (fun c => !c.2.begun)).length
    + f.queues.foldl (fun n q => n + (if q.2.enable = 1 then
        match readGpa s v (q.2.driver.toNat + 2) 2 with
        | some bs => (BitVec.ofNat 16 (leNat bs) - q.2.lastSeen).toNat
        | none => 0 else 0)) 0

/-- What a class measures of a function for the interval that ends, in Q16.16 (R368). The units' fractions are floored.
HBM bytes, power, temperature and current are measured values: free (log 4). -/
def liveSensor (s : State) (cls v : Nat) : Int :=
  let t (c : Nat) : Nat := Tab.get 0 s.binder.tally (c * 1024 + v)
  let meas (k : Nat) : Nat := (Config.freeW64 s.free (8000 + k * 1024 + v)).toNat % 2 ^ 31
  let raw : Nat :=
    if cls = 15 then meas 15
    else if v ≠ 0 && !(vfAt s v).enabled then 0
    else match cls with
      | 0 => t 0 / 16
      | 1 => meas 1
      | 2 => if t 7 = 0 then 0 else t 2 * 65536 / (1000 * t 7)
      | 3 => commandsWaiting s v * 65536
      | 4 => t 4 / 16
      | 5 => t 5 * 65536
      | _ => 0
  (min raw 0x7FFFFFFF : Nat)

/-- The lowest valid entry of an injection table for a sensor, or 0 (R369). -/
def injected (b : Binder) (cls v : Nat) : Int :=
  match (List.range 32).find? (fun i =>
    let e := (Tab.get 0 b.inj i).toNat
    e / 2 ^ 16 % 2 == 1 && e % 2 ^ 16 == cls * 4096 + v) with
  | some i => signedOf 32 ((Tab.get 0 b.inj i).toNat / 2 ^ 32)
  | none => 0

/-- The sensors of a boundary. -/
def sensorOf (s : State) (cls v : Nat) : Int := if s.binder.inject then injected s.binder cls v else liveSensor s cls v

/-- A sensor by its index. -/
def sensorAt (sens : Nat → Nat → Int) (idx : Nat) : Int := sens (idx / 4096) (idx % 4096)

/-- The functions of a VF set. -/
def vsetMembers (b : Binder) (n : Nat) : List Nat := (List.range 513).filter (fun v => (Tab.get 0 b.vset n).getLsbD v)

/-! ## Reward programs (R372) -/

def opCode (w : Nat) : Nat := w % 256
def opOpnd (w : Nat) : Nat := w / 2 ^ 16 % 2 ^ 16
def opConst (w : Nat) : Int := signedOf 32 (w / 2 ^ 32)

/-- The index of the first op at which a program is found invalid, if any. `d` is the depth before the ops. -/
def rewardBad (d i : Nat) : List Nat → Option Nat
  | [] => some 31
  | w :: rest =>
    let op := opCode w
    let badBits := w / 2 ^ 8 % 256 != 0
      || (if op = 1 then opOpnd w / 512 % 8 != 0 else if op = 9 then 64 ≤ opOpnd w else opOpnd w != 0)
      || (op != 2 && w / 2 ^ 32 % 2 ^ 32 != 0)
    if 9 < op || badBits then some i
    else if op = 0 then (if d = 1 then none else some i)
    else if op = 1 ∨ op = 2 ∨ op = 9 then (if d = 8 then some i else rewardBad (d + 1) (i + 1) rest)
    else if op = 6 then (if d = 0 then some i else rewardBad d (i + 1) rest)
    else if d < 2 then some i else rewardBad (d - 1) (i + 1) rest

/-- Run a program: the top of the stack at its END, and 0 for an END at depth 0. -/
def rewardRun (b : Binder) (sens : Nat → Nat → Int) : List Nat → List Int → Int
  | [], _ => 0
  | w :: rest, st =>
    match opCode w, st with
    | 0, x :: _ => x
    | 0, [] => 0
    | 1, _ => rewardRun b sens rest (sensorAt sens (opOpnd w) :: st)
    | 2, _ => rewardRun b sens rest (opConst w :: st)
    | 3, y :: x :: t => rewardRun b sens rest (sat32 (x + y) :: t)
    | 4, y :: x :: t => rewardRun b sens rest (sat32 (x - y) :: t)
    | 5, y :: x :: t => rewardRun b sens rest (sat32 (x * y / 2 ^ 16) :: t)
    | 6, x :: t => rewardRun b sens rest (sat32 (-x) :: t)
    | 7, y :: x :: t => rewardRun b sens rest (min x y :: t)
    | 8, y :: x :: t => rewardRun b sens rest (max x y :: t)
    | 9, _ =>
      let vs := vsetMembers b (opOpnd w / 16 % 4)
      rewardRun b sens rest (sat32 (vs.foldl (fun (n : Int) v => n + sens (opOpnd w % 16) v) 0) :: st)
    | _, _ => rewardRun b sens rest st

def programOf (t : Tab W64) : List Nat := (List.range 32).map (fun i => (Tab.get 0 t i).toNat)

/-! ## Envelopes (R373) -/

/-- Fields of a term. -/
structure EnvTerm where
  c : Int
  sidx : Nat
  summed : Bool
  v : Bool
  opnd : Nat
  clean : Bool
deriving DecidableEq, Repr

def termOf (row k : Nat) : EnvTerm :=
  let t := row / 2 ^ (64 * k) % 2 ^ 64
  { c := signedOf 16 (t / 2 ^ 32), sidx := t / 2 ^ 18 % 4, summed := t / 2 ^ 17 % 2 == 1, v := t / 2 ^ 16 % 2 == 1
    opnd := t % 2 ^ 16, clean := t / 2 ^ 48 == 0 && t / 2 ^ 20 % 2 ^ 12 == 0 }

def rowTerms (row : Nat) : List EnvTerm := (List.range 8).map (termOf row)
def rowB (row : Nat) : Int := signedOf 32 (row / 2 ^ 512)
def rowV (row : Nat) : Bool := row / 2 ^ 544 % 2 == 1
def rowGuard (row : Nat) : Bool := row / 2 ^ 545 % 2 == 1

/-- A row that makes the envelope invalid: a reserved bit set, an operand of a knob row with a bit above its identity, or a valid term
of a valid row with an operand that names no set or sensor. -/
def rowBad (row : Nat) : Bool :=
  row / 2 ^ 546 != 0 || (rowTerms row).any (fun t => !t.clean || (!rowGuard row && t.opnd / 2 ^ 11 != 0)
    || (rowV row && t.v && ((t.summed && t.opnd % 512 != 0) || (rowGuard row && t.opnd / 512 % 8 != 0))))

/-- The index of the first invalid row of the shadow. -/
def envelopeBad (t : Tab (BitVec 640)) : Option Nat := (List.range 32).find? (fun i => rowBad (Tab.get 0 t i).toNat)

/-- A row holds for knob values and sensors: both sums exact over the valid terms. -/
def rowHolds (b : Binder) (knobs sens : Nat → Nat → Int) (row : Nat) : Bool :=
  let val (t : EnvTerm) : Int :=
    let vs := if t.summed then vsetMembers b t.sidx else [t.opnd % 512]
    let one (v : Nat) : Int := if rowGuard row then sens (t.opnd / 4096) v else knobs (t.opnd / 512 % 4) v
    vs.foldl (fun (n : Int) v => n + one v) 0
  let sum := (rowTerms row).foldl (fun (n : Int) t => if t.v then n + t.c * val t else n) 0
  decide (sum ≤ rowB row * (if rowGuard row then 2 ^ 24 else 256))

/-- The valid rows of the committed envelope of one kind, with their index. -/
def activeRows (b : Binder) (isGuard : Bool) : List (Nat × Nat) :=
  (List.range 32).filterMap (fun i =>
    let r := (Tab.get 0 b.envA i).toNat
    if rowV r && rowGuard r == isGuard then some (i, r) else none)

/-! ## Actions (R370) -/

/-- The valid pairs of an action: kind, VF and DELTA. Action 0 has none. -/
def pairsOf (b : Binder) (a : Nat) : List (Nat × Nat × Int) :=
  if a = 0 then []
  else (List.range 4).filterMap (fun p =>
    let w := part32 (Tab.get 0 b.act a).toNat p
    if w / 2 ^ 15 % 2 = 1 then some (w / 512 % 4, w % 512, signedOf 16 (w / 2 ^ 16)) else none)

/-- A knob's value with the pairs of an action added. -/
def knobWith (b : Binder) (ps : List (Nat × Nat × Int)) (kind v : Nat) : Int :=
  ps.foldl (fun (n : Int) p => if p.1 = kind ∧ p.2.1 = v then n + p.2.2 else n) (knobField (b.knobWord v) kind)

/-- Every knob in range and every valid knob row holding after an action (R376). -/
def feasible (b : Binder) (sens : Nat → Nat → Int) (a : Nat) : Bool :=
  let ps := pairsOf b a
  ps.all (fun p => knobOk p.1 (knobWith b ps p.1 p.2.1))
    && (activeRows b false).all (fun r => rowHolds b (knobWith b ps) sens r.2)

/-- An action lies within the radius. -/
def inRadius (b : Binder) (a : Nat) : Bool :=
  (pairsOf b a).all (fun p => decide (p.2.2.natAbs ≤ b.radius.toNat / 2 ^ (16 * p.1) % 2 ^ 16))

/-- Apply an action to the knob table. -/
def applyAction (b : Binder) (a : Nat) : Binder :=
  let ps := pairsOf b a
  let word (v : Nat) : W32 := BitVec.ofNat 32 ((List.range 4).foldl (fun n k =>
    n + (knobWith b ps k v).toNat % knobSize k * 2 ^ knobLow k) 0)
  { b with knob := ps.foldl (fun t p => Tab.set t p.2.1 (word p.2.1)) b.knob }

/-! ## One boundary (R374 to R378, R381, R382) -/

/-- The nine features. -/
def features (b : Binder) (sens : Nat → Nat → Int) : List Int :=
  (List.range 8).map (fun i =>
    let f := (Tab.get 0 b.feat i).toNat
    if f / 2 ^ 31 % 2 = 1 then sensorAt sens (f % 2 ^ 16) / 2 ^ (f / 2 ^ 16 % 32) else 0) ++ [0x10000]

def weightOf (b : Binder) (a i : Nat) : Int := (Tab.get 0 b.weights (16 * a + i)).toInt

/-- Q(φ, a) (R374). -/
def qValue (b : Binder) (phi : List Int) (a : Nat) : Int :=
  sat32 ((List.range 9).foldl (fun (n : Int) i => n + weightOf b a i * phi.getD i 0 / 2 ^ 16) 0)

def Binder.alpha (b : Binder) : Int := (b.learn.toNat % 2 ^ 16 : Nat)
def Binder.gamma (b : Binder) : Int := (b.learn.toNat / 2 ^ 16 % 2 ^ 16 : Nat)
def Binder.eps (b : Binder) : Nat := b.learn.toNat / 2 ^ 32 % 2 ^ 16
def Binder.budget (b : Binder) : Nat := b.learn.toNat / 2 ^ 48 % 128
def Binder.nact (b : Binder) : Nat := b.learn.toNat / 2 ^ 56 % 64

/-- Advance a counter: 0 INTERVALS, 1 EXPLORED, 2 REFUSED, 3 GUARDHIT, 4 INFEAS, 5 INJMISS, 6 CREFUSE. -/
def Binder.bump (i : Nat) (b : Binder) : Binder := { b with counters := Tab.set b.counters i (Tab.get 0 b.counters i + 1) }

/-- The learning update of the stored pair (R376). -/
def learnStep (b : Binder) (phi : List Int) (rew : Int) : Binder :=
  if !b.have_ then b
  else
    let stored := b.phi.map BitVec.toInt
    let best := (List.range b.nact).foldl (fun (m : Int) a => max m (qValue b phi a)) (qValue b phi 0)
    let delta := sat32 (rew + b.gamma * best / 2 ^ 16 - qValue b stored b.ap)
    let t := b.alpha * delta / 2 ^ 16
    { b with
      weights := (List.range 9).foldl (fun w i => Tab.set w (16 * b.ap + i)
        (BitVec.ofInt 32 (sat32 (weightOf b b.ap i + t * stored.getD i 0 / 2 ^ 16)))) b.weights
      lastdelta := BitVec.ofInt 64 delta }

/-- The feasible action with the highest Q, the lower on ties. -/
def greedy (b : Binder) (phi : List Int) : List Nat → Nat
  | [] => 0
  | a :: rest => rest.foldl (fun c x => if qValue b phi c < qValue b phi x then x else c) a

/-- The choice of an action where no guard row fails: the action, whether a draw was taken, whether its candidate was
refused, and the Binder after the draws. -/
def choose (b : Binder) (phi : List Int) (feas : List Nat) : Nat × Bool × Bool × Binder :=
  let b1 := { b with left := if b.icnt % 64 = 0 then b.budget else b.left, bseed := lfsrStep b.bseed }
  if 0 < b1.left ∧ lfsrHigh b1.bseed < b.eps then
    let b2 := { b1 with left := b1.left - 1 }.bump 1
    let e := (List.range b.nact).filter (fun a => a != 0 && inRadius b a)
    if e.isEmpty then (greedy b phi feas, true, false, b2)
    else
      let b3 := { b2 with bseed := lfsrStep b2.bseed }
      let c := e.getD (lfsrHigh b3.bseed * e.length / 65536) 0
      if feas.contains c then (c, true, false, b3) else (greedy b phi feas, true, true, b3.bump 2)
  else (greedy b1 phi feas, false, false, b1)

/-- The decision of a running boundary (R376, R377). A freeze shows as STATE 2. -/
def decideStep (b : Binder) (sens : Nat → Nat → Int) : Binder :=
  let phi := features b sens
  let rew := rewardRun b sens (programOf b.rewA) []
  let feas := (List.range b.nact).filter (feasible b sens)
  let guardFail := (activeRows b true).any (fun r => !rowHolds b (knobWith b []) sens r.2)
  let b1 := if guardFail then { b with guardHit := true }.bump 3 else b
  if feas.isEmpty || (guardFail && !feas.contains 0) then { b1 with st := 2, infeas := true }.bump 4
  else
    let b2 := learnStep b1 phi rew
    let c : Nat × Bool × Bool × Binder := if guardFail then (0, false, false, b2) else choose b2 phi feas
    { applyAction c.2.2.2 c.1 with
      phi := phi.map (BitVec.ofInt 32), ap := c.1, have_ := true, icnt := b.icnt + 1
      curact := BitVec.ofNat 64 (c.1 + flagBit c.2.1 5 + flagBit c.2.2.1 6)
      lastrew := BitVec.ofInt 64 rew
      lastphi := phi.zipIdx.foldl (fun (t : Tab W32) (x : Int × Nat) => Tab.set t x.2 (BitVec.ofInt 32 x.1)) b.lastphi }.bump 0

/-- A request whose write came before a boundary's TIME. -/
def dueAt (at' : Option W64) (bt : W64) : Bool :=
  match at' with
  | some t => decide (t.toNat < bt.toNat)
  | none => false

/-- A pending STOP or ARM is taken (R378). -/
def takeArmStop (b : Binder) (bt : W64) : Binder :=
  if dueAt b.stopAt bt then { b with st := 0, stopAt := none, armAt := if dueAt b.armAt bt then none else b.armAt }
  else if dueAt b.armAt bt then { b with st := 1, infeas := false, icnt := 0, have_ := false, armAt := none }
  else b

/-- Pending commits are taken or refused together (R371). -/
def takeCommits (b : Binder) (bt : W64) : Binder :=
  let r := dueAt b.rewardAt bt
  let e := dueAt b.envAt bt
  let b1 := { b with rewardAt := if r then none else b.rewardAt, envAt := if e then none else b.envAt }
  let bad := match (if r then rewardBad 0 0 (programOf b.rewS) else none) with
    | some i => some i
    | none => if e then envelopeBad b.envS else none
  match bad with
  | some i => { b1 with cerr := true, cause := BitVec.ofNat 5 i }.bump 6
  | none => { b1 with rewA := if r then b.rewS else b.rewA, envA := if e then b.envS else b.envA }

/-- The mask of the knob rows that the current knobs violate (R377). -/
def violated (b : Binder) (sens : Nat → Nat → Int) : Nat :=
  (activeRows b false).foldl (fun m r => if rowHolds b (knobWith b []) sens r.2 then m else m + 2 ^ r.1) 0

/-- The TIME of the boundary that comes next: the first ORIGIN + k × PERIOD after the last that has run (R365). -/
def Binder.nextBoundary (b : Binder) : Nat :=
  match b.lastBoundary with
  | none => b.origin.toNat % b.period.toNat
  | some p => p.toNat + b.period.toNat - (((p.toNat : Int) - b.origin.toNat) % b.period.toNat).toNat

/-- The boundary that is to run: the next one, once its TIME has come (R365, 21 R446). -/
def boundaryTime (s : State) : Option W64 :=
  let n := s.binder.nextBoundary
  if s.binder.period = 0 ∨ s.time.toNat < n then none else some (BitVec.ofNat 64 n)

/-- One boundary at TIME bt (R381). -/
def boundaryStep (bt : W64) (s : State) : State :=
  let b1 := takeArmStop s.binder bt
  let took := b1.inject && dueAt b1.injAt bt
  let b2 := takeCommits { b1 with injAt := if took then none else b1.injAt } bt
  let sens := sensorOf { s with binder := b2 }
  let b3 :=
    if b2.st ≠ 1 then b2
    else if b2.inject && !took then b2.bump 5
    else decideStep b2 sens
  let s1 : State := { s with binder := { b3 with handed := b3.knob, lastBoundary := some bt, tally := [] } }
  let s2 := capture 4 5 0 0 0 none s1
  if b2.st = 1 ∧ b3.st = 2 then
    { postEvent 0 4 0 4 0 (packFields [(8, b3.icnt), (4, violated b3 sens)]) { s2 with time := bt } with time := s2.time }
  else s2

/-- The work of the next boundary, once its TIME has come. It is done within 2,000 ticks (R381; log 43). -/
def settleBoundary (s : State) : Option State :=
  match boundaryTime s with
  | none => none
  | some bt => if (dieAt s 4).held then none else some (boundaryStep bt s)

/-- BINDER_BOUNDARY: the next boundary runs (R365, R381). -/
def execBinderBoundary (s : State) : Out := event "BINDER_BOUNDARY" (settleBoundary s)

/-- A store of 4 or 8 bytes of the block. A store to PERIOD or ORIGIN comes after the work of the boundary before it, and the boundaries
of the new schedule lie after it (log 43). -/
def binderStore (off bytes value : Nat) (s : State) : State :=
  if off / 8 * 8 = 0x10 ∨ off / 8 * 8 = 0x18 then
    let s1 := (settleBoundary s).getD s
    let s2 := binderPut off bytes value s1
    if s2.binder.period = s1.binder.period ∧ s2.binder.origin = s1.binder.origin then s2
    else { s2 with binder := { s2.binder with lastBoundary := some s.time } }
  else binderPut off bytes value s

/-! ## Writes of the host (R364 to R371) -/

def execBinderArm (s : State) : Out := .next (whenReady (binderStore 0 8 (flagBit s.binder.inject 3 + 2)) s)
def execBinderStop (s : State) : Out := .next (whenReady (binderStore 0 8 (flagBit s.binder.inject 3 + 4)) s)
def execCommitReward (s : State) : Out := .next (whenReady (binderStore 0x38 8 1) s)
def execCommitEnv (s : State) : Out := .next (whenReady (binderStore 0x38 8 2) s)
def execInjvalid (s : State) : Out := .next (whenReady (binderStore 0x58 8 1) s)

def execKnobWrite (vf : Nat) (value : BitVec 32) (s : State) : Out :=
  event "KNOB_WRITE" (if vf ≤ Config.maxVf then some (whenReady (binderStore (0x8000 + 4 * vf) 4 value.toNat) s) else none)

/-- An access of 4 or 8 bytes, naturally aligned (R218, R364). -/
def regAccess (off bytes : Nat) : Bool := (bytes == 4 || bytes == 8) && off % bytes == 0

def execBinderIdleWrite (off bytes : Nat) (value : BitVec 64) (s : State) : Out :=
  event "BINDER_IDLE_WRITE"
    (if regAccess off bytes && (idleWord off || (decide (0x10 ≤ off) && decide (off < 0x38))) then
      some (whenReady (binderStore off bytes value.toNat) s) else none)

end Sys2Proof.Machine
end

