-- ==== Sys2Proof/Machine/Debug.lean ====
section
/-!
DEFINITION. The debug context, major 0x33, halts, the trace blocks and the errors of the hardware (19 R413 to R432; 20 R441,
R442; 22 R462, R468, R469).
-/
namespace Sys2Proof.Machine

/-! ## Registers of a block, as software reads and writes them -/

/-- A read of `bytes` bytes at an offset of a 64-bit register. -/
def regPart (v : W64) (off bytes : Nat) : Nat := v.toNat / 2 ^ (8 * (off % 8)) % 2 ^ (8 * bytes)

/-- A 64-bit register after a write of `bytes` bytes at an offset. -/
def regMerge (old : W64) (off bytes value : Nat) : W64 :=
  let k := 8 * (off % 8)
  let n := 8 * bytes
  BitVec.ofNat 64 (old.toNat - old.toNat / 2 ^ k % 2 ^ n * 2 ^ k + value % 2 ^ n * 2 ^ k)

/-- The accesses that a block of registers takes: naturally aligned, of 4 or 8 bytes. -/
def regAligned (off bytes : Nat) : Bool := (bytes == 4 || bytes == 8) && off % bytes == 0

/-! ## The debug context (R420) -/

def modDbg (vf : Nat) (f : Debug → Debug) (s : State) : State := modVf vf (fun v => { v with dbg := f v.dbg }) s

/-- A 64-bit register of the debug context by the offset of its first byte. -/
def Debug.reg (d : Debug) (base : Nat) : W64 :=
  if 0x100 ≤ base ∧ base < 0x400 then
    BitVec.ofNat 64 ((Tab.get 0 d.points ((base - 0x100) / 32)).toNat / 2 ^ (8 * (base % 32)))
  else if 0x800 ≤ base ∧ base < 0xA00 then Tab.get 0 d.mbox ((base - 0x800) / 8)
  else match base with
    | 0x000 => d.dctl
    | 0x008 => d.dvecr
    | 0x010 => d.hcgid
    | 0x028 => d.dumpstat
    | 0x040 => d.evbase
    | 0x048 => d.evsize
    | 0x050 => d.evhead
    | 0x058 => d.evtail
    | 0x060 => d.evlost
    | 0x068 => d.evmsix
    | 0x400 => d.wenable.zeroExtend 64
    | _ => 0

/-- A read of a debug context. Reading EVLOST clears it. -/
def debugLoad (vf off bytes : Nat) (s : State) : Nat × State :=
  let d := (vfAt s vf).dbg
  (regPart (d.reg (off / 8 * 8)) off bytes,
   if off / 8 * 8 = 0x060 then modDbg vf (fun d => { d with evlost := 0 }) s else s)

/-- EVLOST_READ: the answer stands in `reply`. -/
def execEvlostRead (vf : Nat) (s : State) : Out :=
  .next (whenReady (fun s =>
    let r := debugLoad vf 0x060 8 s
    { r.2 with reply := [BitVec.ofNat 64 r.1] }) s)

/-- Armed points among a mask: a point that is cleared stays disarmed (R429). -/
def armable (d : Debug) (m : BitVec 24) : BitVec 24 :=
  m &&& BitVec.ofNat 24 ((List.range 24).foldl (fun n i => if Tab.get 0 d.points i = 0 then n else n + 2 ^ i) 0)

/-- Reserved bits of a point descriptor read 0. -/
def pointMask : BitVec 256 := ~~~(BitVec.ofNat 256 ((2 ^ 18 - 1) * 2 ^ 110 + 15 * 2 ^ 100))

/-- EVSIZE takes 0 and the powers of two from 16 to 65,536; another value leaves it as it is. -/
def evsizeOk (v : W64) : Bool := v == 0 || (List.range 13).any (fun k => v.toNat == 2 ^ (k + 4))

/-- A write to a register of the debug context, HCMD and DUMPCMD apart. -/
def Debug.store (d : Debug) (off bytes value : Nat) : Debug :=
  let base := off / 8 * 8
  let v := regMerge (d.reg base) off bytes value
  if 0x100 ≤ base ∧ base < 0x400 then
    let i := (base - 0x100) / 32
    let old := (Tab.get 0 d.points i).toNat
    let k := 8 * (base % 32)
    let p := (BitVec.ofNat 256 (old - old / 2 ^ k % 2 ^ 64 * 2 ^ k + v.toNat * 2 ^ k)) &&& pointMask
    { d with points := Tab.set d.points i p }
  else if 0x800 ≤ base ∧ base < 0xA00 then { d with mbox := Tab.set d.mbox ((base - 0x800) / 8) v }
  else match base with
    | 0x000 => { d with dctl := v &&& 1 }
    | 0x008 => { d with dvecr := v }
    | 0x010 => { d with hcgid := v }
    | 0x040 => { d with evbase := v }
    | 0x048 => if evsizeOk v then { d with evsize := v } else d
    | 0x058 => { d with evtail := v }
    | 0x068 => { d with evmsix := v }
    | 0x400 => { d with wenable := armable d (v.setWidth 24) }
    | _ => d

/-! ## Halting and resuming a group (R428, R430; 20 R441, R442) -/

/-- The group of a VF with a CGID, GEN included. -/
def findGroup (s : State) (vf : Nat) (cg : W64) : Option Nat :=
  (s.groups.find? (fun e => e.2.st != .vacant && e.2.vf == vf && cgidOf e.1 e.2 == cg)).map Prod.fst

/-- A group is asked to halt at its next stopping point; `by'` is the CGID of the group that asks, or 0. -/
def askHalt (q : Nat) (by' : W64) (s : State) : State :=
  if (groupAt s q).st == .halted then s else modGroup q (fun g => { g with haltReq := some by' }) s

/-- GROUP_HALT: the group has reached its stopping point. -/
def execGroupHalt (q : Nat) (s : State) : Out :=
  event "GROUP_HALT"
    (let g := groupAt s q
     match g.haltReq with
     | some by' => if g.st == .running && g.atStop then some (haltGroup q 0 by' g.pc (settleGroup q s)) else none
     | none => none)

/-- A halted group resumes at its PC, its handler bits unchanged; its first word meets no breakpoint and no watchpoint (R424).
`step` arms the single step. -/
def resumeGroup (q : Nat) (step : Bool) (s : State) : State :=
  modGroup q (fun g => { g with
    st := .running, suppress := true, step := if step then .armed else g.step, readyAt := s.cclk, lastIssue := s.cclk }) s

/-- A group may be resumed. -/
def isHalted (s : State) (q : Nat) : Bool := (groupAt s q).st == .halted

/-- The target of a debug member: the executing group for 0. -/
def debugTarget (s : State) (v : W64) : Option Nat := if v = 0 then some s.qid else findGroup s s.me.vf v

/-- The frame of a member with a target and a status (R428). -/
def debugWord (word : W32) (o : OpDA) (s : State) (go : Nat → State → Res) : Out :=
  wordW word [.priv 0x33, .ss o.sa.toNat false 1, .sd o.sd.toNat] s (fun s _ =>
    match debugTarget s (s.me.readS o.sa.toNat) with
    | some q => go q s
    | none => .done (putS o.sd.toNat 1 s) .seq)

/-- DHALT of the executing group takes effect at its own retirement. -/
def execDhalt (o : OpDA) (s : State) : Out :=
  debugWord (o.pack 0xCC100000) o s (fun q s =>
    let s0 := putS o.sd.toNat 0 s
    if q = s.qid then
      let cg := cgidOf s.qid s.me
      let s1 := retire .seq s0
      .ended (if (groupAt s1 q).st == .running then haltGroup q 0 cg (groupAt s1 q).pc s1 else s1)
    else .done (askHalt q (cgidOf s.qid s.me) s0) .seq)

def execDresume (o : OpDA) (s : State) : Out :=
  debugWord (o.pack 0xCC200000) o s (fun q s =>
    if isHalted s q then .done (putS o.sd.toNat 0 (resumeGroup q false s)) .seq else .done (putS o.sd.toNat 2 s) .seq)

def execDstep (o : OpDA) (s : State) : Out :=
  debugWord (o.pack 0xCC300000) o s (fun q s =>
    if q = s.qid then .done (putS o.sd.toNat 0 (modMe (fun g => { g with step := .afterEret }) s)) .seq
    else if isHalted s q then .done (putS o.sd.toNat 0 (resumeGroup q true s)) .seq
    else .done (putS o.sd.toNat 2 s) .seq)

def execDunpin (o : OpDA) (s : State) : Out :=
  debugWord (o.pack 0xCC400000) o s (fun q s =>
    let g := groupAt s q
    if q ≠ s.qid ∧ !isHalted s q then .done (putS o.sd.toNat 2 s) .seq
    else if g.loop.isNone then .done (putS o.sd.toNat 3 s) .seq
    else .done (putS o.sd.toNat 0 (modGroup q (fun g => { g with
      loop := g.loop.map (fun l => { l with refetch := true }) }) s)) .seq)

/-- HCMD acts on the group that HCGID names, and on nothing where it names none. -/
def hcmd (vf : Nat) (cmd : Nat) (s : State) : State :=
  match findGroup s vf (vfAt s vf).dbg.hcgid with
  | none => s
  | some q =>
    match cmd with
    | 1 => askHalt q 0 s
    | 2 => if isHalted s q then resumeGroup q false s else s
    | 3 => if isHalted s q then resumeGroup q true s else s
    | _ => s

def execHcmdHalt (vf : Nat) (s : State) : Out := .next (whenReady (hcmd vf 1) s)
def execHcmdResume (vf : Nat) (s : State) : Out := .next (whenReady (hcmd vf 2) s)
def execHcmdStep (vf : Nat) (s : State) : Out := .next (whenReady (hcmd vf 3) s)

/-! ## MBOX, BPSET and WARM (R427, R429) -/

def execMbox (o : OpIdx) (s : State) : Out :=
  wordW (o.pack 0xCC000000) [.priv 0x33, .ss o.sa.toNat false 1] s (fun s _ =>
    let g := s.me
    .done (captureFree (dieOf s.qid) 8 g.vf (cgidOf s.qid g) (memGenMe
      (modDbg g.vf (fun d => { d with mbox := Tab.set d.mbox o.idx.toNat (g.readS o.sa.toNat) }) s))) .seq)

/-- A point descriptor may stand at an index (R421). -/
def pointOk (i : Nat) (d : BitVec 256) : Bool :=
  d &&& pointMask == 0 ||
    (if i < 16 then pointKind d == 0 && pointLen d == 0 && pointAddr d % 4 == 0 && (pointRepEn d || pointRepK d == 0)
     else pointKind d != 0 && pointLen d != 0 && !pointRepEn d && pointRepK d == 0)

def execBpset (o : OpIdx) (s : State) : Out :=
  let word := o.pack 0xCC500000
  wordW word [.priv 0x33, .ss o.sa.toNat false 1] s (fun s _ =>
    let va := (s.me.readS o.sa.toNat).toNat
    let i := o.idx.toNat
    if 24 ≤ i then badOperandW word o.sa.toNat s
    else if va % 32 ≠ 0 then .trap s tAlign (accessInfo false false 0 va 5)
    else match access s { size := 32, write := false, atomic := false, vector := true } true va with
      | .error r => r
      | .ok (.bytes ps _, s1) =>
        (match badInfo s1 0 va ps with
          | some info => .trap s1 tDataErr info.toNat
          | none =>
            let d := BitVec.ofNat 256 (leNat (readParts s1 s1.me.vf ps))
            if !pointOk i d then badOperandW word o.sa.toNat s1
            else .done (modDbg s.me.vf (fun x => { x with
              points := Tab.set x.points i (d &&& pointMask), wenable := x.wenable &&& ~~~(BitVec.ofNat 24 (2 ^ i)) }) s1) .seq)
      | .ok (_, s1) => .trap s1 tPerm (accessInfo false false 0 va 4))

def execWarm (o : OpA) (s : State) : Out :=
  wordW (o.pack 0xCC600000) [.priv 0x33, .ss o.sa.toNat false 1] s (fun s _ =>
    .done (modDbg s.me.vf (fun d => { d with wenable := armable d ((s.me.readS o.sa.toNat).setWidth 24) }) s) .seq)

/-! ## Trace blocks (R431, R432) -/

def modTrace (die : Nat) (f : Trace → Trace) (s : State) : State := modDie die (fun d => { d with trace := f d.trace }) s

/-- FORCE triggers now, while capture runs: the trigger is the next record. -/
def Trace.force (t : Trace) : Trace :=
  if t.tctl.getLsbD 0 && t.tctl.getLsbD 1 && !t.tstat.getLsbD 0 && !t.tstat.getLsbD 1 then
    { t with tstat := t.tstat ||| 2, ttptr := t.twptr, left := t.tpost.toNat }
  else t

/-- A write to TCTL: one that sets EN clears TSTAT and TWPTR. FORCE reads 0. -/
def Trace.control (v : W64) (t : Trace) : Trace :=
  let t1 := if v.getLsbD 0 && !t.tctl.getLsbD 0 then { t with tstat := 0, twptr := 0, left := 0 } else t
  let t2 := { t1 with tctl := v &&& 3 }
  if v.getLsbD 2 then t2.force else t2

/-- A 64-bit register of a trace block. -/
def Trace.reg (t : Trace) (base : Nat) : W64 :=
  match base with
  | 0x00 => t.tctl
  | 0x08 => t.tstat
  | 0x10 => t.txbase
  | 0x18 => t.txsize
  | 0x20 => t.tfvf
  | 0x28 => t.tcgval
  | 0x30 => t.tcgmask
  | 0x38 => t.tclass
  | 0x40 => t.ttrig
  | 0x48 => t.tpost
  | 0x50 => t.twptr
  | 0x58 => t.ttptr
  | _ => 0

/-- A write to a trace block. The registers at 0x10 to 0x48 ignore writes while EN = 1. -/
def Trace.store (t : Trace) (off bytes value : Nat) : Trace :=
  let base := off / 8 * 8
  let v := regMerge (t.reg base) off bytes value
  if base = 0 then t.control v
  else if t.tctl.getLsbD 0 then t
  else match base with
    | 0x10 => { t with txbase := v }
    | 0x18 => { t with txsize := v }
    | 0x20 => { t with tfvf := v &&& 0x3FF }
    | 0x28 => { t with tcgval := v }
    | 0x30 => { t with tcgmask := v }
    | 0x38 => { t with tclass := v &&& 0xFFFF }
    | 0x40 => { t with ttrig := v &&& 0x1FFF }
    | 0x48 => { t with tpost := v &&& 0xFFFFFFFF }
    | _ => t

/-- TRACE_ENABLE: a TCTL write that sets EN. -/
def execTraceEnable (die : Nat) (value : BitVec 64) (s : State) : Out :=
  event "TRACE_ENABLE" (if die < 4 && value.getLsbD 0 then some (whenReady (modTrace die (Trace.control value)) s) else none)

/-- TRACE_FORCE: a TCTL write of FORCE. -/
def execTraceForce (die : Nat) (s : State) : Out :=
  event "TRACE_FORCE" (if die < 4 then some (whenReady (modTrace die Trace.force) s) else none)

/-- TRACE_FREEZE: the post-trigger count is reached. -/
def execTraceFreeze (die : Nat) (s : State) : Out :=
  event "TRACE_FREEZE"
    (let t := (dieAt s die).trace
     if t.tstat.getLsbD 1 && !t.tstat.getLsbD 0 && t.left == 0 then
       some (modTrace die (fun t => { t with tstat := t.tstat ||| 1 }) s) else none)

/-! ## Counters (R434 to R436) -/

/-- PMC_OVERFLOW: a counter wraps and sets OVF. The counters that the model counts wrap in the step that advances them;
L1MISS and TLBMISS count what caches hold, so theirs may wrap at any time (log 4). -/
def execPmcOverflow (core i : Nat) (s : State) : Out :=
  event "PMC_OVERFLOW"
    (let cfg := (Tab.get 0 (coreAt s core).pmccfg i)
     let e := cfg.toNat % 256
     if i < 16 && (e == 14 || e == 15) then
       some (modCore core (fun c => { c with
         pmc := Tab.set c.pmc i 0, pmccfg := Tab.set c.pmccfg i (cfg ||| BitVec.ofNat 64 (2 ^ 48)) }) s)
     else none)

/-! ## Errors (R413 to R415, 22 R469) -/

/-- CORRECTED_ERROR: counted on its die and, for its VF, on its core; a trace record of class 9. -/
def execCorrectedError (die vf core code : Nat) (s : State) : Out :=
  .next (capture die 9 (code % 256) vf 0 none (count core evCorrected vf 1
    (modDie die (fun d => { d with ceCount := d.ceCount + 1 }) s)))

/-- DETAIL of a source of bad data. -/
def sourceDetail : DataSource → Nat
  | .hbm => 0 | .l2 => 1 | .l1 => 2 | .scratchpad => 3 | .crs => 4 | .accumulator => 5

/-- The entry n of a task queue of a die holds uncorrectable data. -/
def spoilTask (die key n d : Nat) (s : State) : State :=
  modDie die (fun x => match Tab.find x.queues key with
    | some q => { x with queues := Tab.set x.queues key { q with
        entries := q.entries.zipIdx.map (fun e => if e.2 = n then { e.1 with bad := some d } else e.1) } }
    | none => x) s

/-- UNCORRECTED_ERROR: EV_DATA_ERR at detection; the line, the CRS entry or the queue entry is bad for its consumers. What has no
address is named otherwise: a CRS entry by core × 65,536 + its number; an entry of a task queue by bit 63, its place in the queue from
bit 40 on, the die in [39:32] and VF × 65,536 + index below (log 35). -/
def execUncorrectedError (source : DataSource) (vf : Nat) (line pa : BitVec 64) (s : State) : Out :=
  let d := sourceDetail source
  let s1 : State := match source with
    | .crs => modCore (pa.toNat / 65536) (fun c => match Tab.find c.crs (pa.toNat % 65536) with
        | some e => { c with crs := Tab.set c.crs (pa.toNat % 65536) { e with bad := true } }
        | none => c) s
    | _ =>
      if pa.getLsbD 63 then spoilTask (pa.toNat / 2 ^ 32 % 2 ^ 8) (pa.toNat % 2 ^ 32) (pa.toNat / 2 ^ 40 % 2 ^ 23) d s
      else { s with badLines := Tab.set s.badLines (pa.toNat / 64) d }
  .next (postBoth 9 vf 4 0 (packFields [(1, d), (8, line.toNat / 64 * 64)])
    (packFields [(1, d), (8, line.toNat / 64 * 64), (8, if source = .crs ∨ pa.getLsbD 63 then 0 else pa.toNat)]) s1)

/-- DIE_HOLD: an uncontained error. Die 4 is the hub (log 18). -/
def execDieHold (die cause : Nat) (s : State) : Out :=
  event "DIE_HOLD"
    (if die ≤ 4 then
      some (postEvent 0 13 0 die 0 (packFields [(1, die), (1, cause)])
        (modDie die (fun d => { d with held := true, heldCause := cause }) s))
     else none)

/-- DIE_RELEASE: DIECMD release of a held die. -/
def execDieRelease (die : Nat) (s : State) : Out :=
  event "DIE_RELEASE" (if (dieAt s die).held then some (wakeHeld (modDie die (fun d => { d with held := false }) s)) else none)

/-- HELDSTAT (22 R468). -/
def heldStat (s : State) : W64 :=
  BitVec.ofNat 64 ((List.range 5).foldl (fun n d => if (dieAt s d).held then n + 2 ^ d else n) 0)

end Sys2Proof.Machine
end

