-- ==== Sys2Proof/Machine/Dump.lean ====
section
/-!
DEFINITION. Dumps: the colophon and DUMP_READ (19 R437, R438), and the writes to a debug context (19 R420).
-/
namespace Sys2Proof.Machine

/-! ## The colophon (R438) -/

def colophonMagic : Nat := 0x4E4F484F4C4F4335

/-- The offsets of the records of section 1 in a folio, with the records. -/
def groupOffsets (bs : List Byte) : List (Nat × List Byte) :=
  let b := sectionOf bs 1
  let rs := splitRecords groupRecordSize b.length b
  (rs.foldl (fun (acc : List (Nat × List Byte) × Nat) r => (acc.1 ++ [(acc.2, r)], acc.2 + align64 r.length))
    ([], (epSect bs 1).1)).1

/-- The groups of a folio in the order of a colophon: their CGID and pending call where this device knows the launch, and free ones
where it does not (log 4); the offset of the record in the folio, or 0; and whether it is halted. -/
def folioNames (s : State) (vf : Nat) (bs : List Byte) : List (W64 × Bool × Nat × Bool) :=
  let recs := (groupOffsets bs).map (fun x => (x.1, fieldAt x.2 1 1 % 2 == 1))
  let all := recs ++ List.replicate ((epSect bs 5).2 / 8) (0, false)
  let known := ((knownLaunch s vf (fieldAt bs 16 4 % 2 ^ 24)).bind (fun e => e.2.saved)).map (fun r => r.names)
  all.zipIdx.map (fun x =>
    let n := (known.bind (fun ns => ns[x.2]?)).getD (Config.freeW64 s.free (9800 + x.2), Config.freeBit s.free (9900 + x.2))
    (n.1, n.2, x.1.1, x.1.2))

/-- Bytes of a name. PROC and THREAD are the resident kernel's (19 R419). -/
def nameBytes (vf size : Nat) (n : W64 × Bool × Nat × Bool) : List Byte :=
  leBytes 8 n.1.toNat ++ leBytes 4 (Config.procOf vf).toNat
    ++ leBytes 4 (if n.2.1 then (Config.threadOf vf (n.1.toNat / 2 ^ 25 % 2 ^ 15)).toNat else 0)
    ++ leBytes 8 (if n.2.2.1 = 0 then 0 else n.2.2.1 + size) ++ leBytes 4 (bit n.2.2.2 0 + bit n.2.1 1) ++ leBytes 4 0

/-- The reasons of a dump that hold; which of several REASON states is free (log 4). -/
def dumpReasons (s : State) (bs : List Byte) : List Nat :=
  (if fieldAt bs 11 1 / 2 % 2 = 1 then [1] else [])
    ++ (if (groupOffsets bs).any (fun x => fieldAt x.2 752 8 == tDataErr) then [2] else [])
    ++ (if s.dies.any (fun d => d.2.held) then [3] else [])

/-- The colophon of a folio. -/
def colophon (s : State) (vf : Nat) (bs : List Byte) : List Byte :=
  let ns := folioNames s vf bs
  let size := 256 + 32 * ns.length
  let rs := dumpReasons s bs
  let reason := if rs.isEmpty then 0 else rs.getD ((Config.freeW64 s.free 9790).toNat % rs.length) 0
  let sect (i : Nat) : List Byte :=
    let x := epSect bs i
    leBytes 8 (if x.2 = 0 then x.1 else x.1 + size) ++ leBytes 8 x.2
  padBytes 256 (leBytes 8 colophonMagic ++ leBytes 2 1 ++ leBytes 2 reason ++ leBytes 4 ns.length ++ leBytes 8 size
    ++ leBytes 8 s.time.toNat ++ (List.range 4).flatMap (fun d => leBytes 8 (dieAt s d).trace.twptr.toNat)
    ++ (List.range 8).flatMap sect) ++ ns.flatMap (nameBytes vf size)

/-! ## DUMPCMD and DUMP_READ (R437) -/

/-- A folio of a VF's save area by its index: its offset in the area and its bytes, those of the forerunner form read by the engine. -/
def folioOf (s : State) (vf n : Nat) : Option (Nat × List Byte) :=
  let sa := (ctxAt s vf).sarea.toNat
  match readDir s vf with
  | .error _ => none
  | .ok os =>
    match os[n]? with
    | none => none
    | some o =>
      match (readUpTo s vf (sa + o) 256).toOption with
      | none => none
      | some ep => ((readUpTo s vf (sa + o) (fieldAt ep 24 8)).toOption).map (fun bs => (o, bs))

/-- The folio as the context engine reads it. -/
def clearFolio (bs : List Byte) : List Byte := bs.take 256 ++ opaqueBytes (fieldAt bs 10 1) (bs.drop 256)

/-- Where a folio's colophon lies in the area. -/
def colophonAt (o : Nat) (bs : List Byte) : Nat := align64 (o + bs.length)

/-- A write to DUMPCMD. DUMPSTAT shows error 1 for a folio that is not there, and 2 for a colophon that finds no room. -/
def dump (vf n : Nat) (s : State) : State :=
  let stat (e : Nat) (s : State) : State := modDbg vf (fun d => { d with dumpstat := BitVec.ofNat 64 (e * 256) }) s
  match folioOf s vf (n % 65536) with
  | none => stat 1 s
  | some (o, bs) =>
    let c := ctxAt s vf
    let col := colophon s vf (clearFolio bs)
    if c.sasize.toNat < colophonAt o bs + col.length then stat 2 s
    else match writeGpa vf (c.sarea.toNat + colophonAt o bs) col s with
      | some t => stat 0 t
      | none => stat 2 s

/-- DUMP. -/
def execDump (vf : Nat) (value : BitVec 64) (s : State) : Out := .next (whenReady (dump vf value.toNat) s)

/-- The bytes of a dump: the colophon, then the folio. -/
def dumpBytes (s : State) (vf n : Nat) : Option (List Byte) :=
  match folioOf s vf n with
  | none => none
  | some (o, bs) =>
    let at' := (ctxAt s vf).sarea.toNat + colophonAt o bs
    match (readUpTo s vf at' 256).toOption with
    | none => none
    | some h => ((readUpTo s vf at' (256 + 32 * fieldAt h 12 4)).toOption).map (· ++ bs)

/-- DUMP_READ: bytes of a dump into the writable data area. A dump that is not there, and a range outside it or the area, complete
with BADCMD. -/
def execDumpRead (vf id : Nat) (s : State) : Out :=
  event "DUMP_READ"
    (match readyCmd s vf id 4 with
      | none => none
      | some c =>
        let s0 := beginCmd vf id s
        let off := c.field 16 8
        let len := c.field 24 8
        let bad := completeCmd vf id 2 0 0 0 s0
        if !c.clean [(8, 4), (16, 8), (24, 8)] || (c.writable.foldl (fun n p => n + p.2) 0) < len then some bad
        else match dumpBytes s vf (c.field 8 4) with
          | none => some bad
          | some bs =>
            if bs.length < off + len then some bad
            else some (completeCmd vf id 0 0 len len (scatterBytes vf c.writable ((bs.drop off).take len) s0)))

/-! ## Writes to a debug context (R420) -/

/-- A write of 4 or 8 bytes at an offset of a debug context. HCMD and DUMPCMD take the half that holds their fields. -/
def debugStore (vf off bytes value : Nat) (s : State) : State :=
  let v := value % 2 ^ (8 * bytes)
  match off / 8 * 8 with
  | 0x018 => if off % 8 = 0 then hcmd vf v s else s
  | 0x020 => if off % 8 = 0 then dump vf v s else s
  | _ => modDbg vf (fun d => d.store off bytes v) s

end Sys2Proof.Machine
end

