-- ==== Sys2Proof/Machine/Platform.lean ====
section
/-!
DEFINITION. The platform block, the time base, packets from other packages, and power (21 R443 to R449, R457 to R460).
-/
namespace Sys2Proof.Machine

def modPlatform (f : Platform → Platform) (s : State) : State := { s with platform := f s.platform }

/-! ## The platform block (R443) -/

/-- PWRSTAT: the compute dies throttled by the arbiter or by temperature, and those at or above TCRIT. -/
def pwrStat (s : State) : W64 :=
  BitVec.ofNat 64 ((List.range 4).foldl (fun n i =>
    let d := dieAt s i
    n + (if d.duty < 16 ∨ d.matrixDuty < 16 ∨ d.hot then 2 ^ i else 0) + (if d.hot then 2 ^ (i + 4) else 0)) 0)

/-- A register of the platform block by the offset of its first byte. -/
def platformReg (s : State) (base : Nat) : W64 :=
  let p := s.platform
  if 0x800 ≤ base ∧ base ≤ 0x1800 then Tab.get 0 p.fabtag ((base - 0x800) / 8)
  else match base with
    | 0x000 => p.tbctl
    | 0x008 => p.tbstat
    | 0x010 => p.pwrcap
    | 0x018 => p.twarn
    | 0x020 => p.tcrit
    | 0x028 => pwrStat s
    | 0x030 => p.droops
    | 0x038 => p.pdrop
    | _ => 0

/-- A write to the platform block. A value outside a field's range leaves its register as it is. -/
def platformStore (off bytes value : Nat) (s : State) : State :=
  let base := off / 8 * 8
  let v := regMerge (platformReg s base) off bytes value
  let n := v.toNat
  if 0x800 ≤ base ∧ base ≤ 0x1800 then
    modPlatform (fun p => { p with fabtag := Tab.set p.fabtag ((base - 0x800) / 8) (v &&& 0x1FFFF) }) s
  else modPlatform (fun p => match base with
    | 0x000 => if n % 4 = 3 then p else { p with tbctl := v &&& 0x3F, slew := if n % 4 = 0 then 0 else p.slew }
    | 0x010 => let w := n % 4096; if 600 ≤ w ∧ w ≤ 2400 then { p with pwrcap := BitVec.ofNat 64 w } else p
    | 0x018 => let w := n % 256; if 60 ≤ w ∧ w ≤ 110 then { p with twarn := BitVec.ofNat 64 w } else p
    | 0x020 => let w := n % 256; if p.twarn.toNat < w ∧ w ≤ 115 then { p with tcrit := BitVec.ofNat 64 w } else p
    | _ => p) s

/-- DROOPS_READ and PDROP_READ: the count since the last read, which the read clears; the answer stands in `reply`. -/
def execDroopsRead (s : State) : Out :=
  .next (whenReady (fun s => { modPlatform (fun p => { p with droops := 0 }) s with reply := [s.platform.droops] }) s)
def execPdropRead (s : State) : Out :=
  .next (whenReady (fun s => { modPlatform (fun p => { p with pdrop := 0 }) s with reply := [s.platform.pdrop] }) s)

/-! ## The time base (R444, R445) -/

def tbRole (s : State) : Nat := s.platform.tbctl.toNat % 4
def tbLock (s : State) : Bool := s.platform.tbstat.getLsbD 0

/-- TBSTAT with LOCK and OFFSET. -/
def tbStat (lock : Bool) (offset : W32) : W64 := BitVec.ofNat 64 ((if lock then 1 else 0) + offset.toNat * 2 ^ 16)

/-- TIME_SYNC_MEASURE: a measurement of the offset from the master, in ticks. LOCK is set by the second in a row that lies inside
the bound. When it is first set after power-on the time base is corrected by a step, but never back; any other offset is removed by
running the time base fast or slow. -/
def execTimeSyncMeasure (offset : BitVec 32) (s : State) : Out :=
  event "TIME_SYNC_MEASURE"
    (let bound : Int := if tbRole s = 1 then 5 else 100
     let inside := decide (-bound ≤ offset.toInt) && decide (offset.toInt ≤ bound)
     let run := if inside then s.platform.goodRun + 1 else 0
     let lock := inside && (tbLock s || decide (2 ≤ run))
     let steps := lock && !s.platform.everLocked && decide (offset.toInt < 0)
     if tbRole s = 0 then none
     else some { modPlatform (fun p => { p with
         tbstat := tbStat lock offset, goodRun := run, measuredAt := s.time, everLocked := p.everLocked || lock
         slew := if steps then 0 else -offset.toInt, slewRun := 0 }) s with
       time := if steps then s.time + BitVec.ofNat 64 offset.toInt.natAbs else s.time })

/-- LOCK holds and no measurement has arrived for 4 ms. -/
def lockLost (s : State) : Bool := tbLock s && decide (s.platform.measuredAt.toNat + 4000000 ≤ s.time.toNat)

/-- LOCK_TIMEOUT. -/
def execLockTimeout (s : State) : Out :=
  event "LOCK_TIMEOUT"
    (if lockLost s then
      some (modPlatform (fun p => { p with tbstat := p.tbstat &&& ~~~(1 : W64), goodRun := 0 }) s)
     else none)

/-! ## Packets (R447 to R449) -/

/-- A stitch link of a compute die is down (22 R468). -/
def linkDown (s : State) (die link : Nat) : Bool := s.boot.bootstat.getLsbD (20 + 4 * die + link)

/-- FABRIC_PACKET_RX: the ingress of a die accepts a packet for a VF on its tag, and what the packet writes is written; or it drops
the whole packet. No packet arrives on a link that stayed down (22 R467). -/
def execFabricPacketRx (die link vf : Nat) (tag : BitVec 16) (cells : List (Nat × BitVec 8)) (s : State) : Out :=
  event "FABRIC_PACKET_RX"
    (if 4 ≤ die ∨ 4 ≤ link ∨ 512 < vf ∨ linkDown s die link then none
     else if tagAccepted s vf tag then
       some (cells.foldl (fun u c => if inOcpm c.1 then u else writePa (keyNum u vf) c.1 c.2 u) s)
     else some (dropPacket die link vf tag s))

/-! ## Power (R457 to R459) -/

/-- The share of the package cap that a die's demand earns, in W; the demands of all dies add up to `total`. -/
def powerShare (cap demand total : Nat) : Nat := if total = 0 then cap / 5 else cap * demand / total

/-- The duty that keeps a die within its share, in sixteenths from 1 to 16. -/
def powerDuty (share demand : Nat) : Nat := if demand ≤ share then 16 else max 1 (16 * share / demand)

/-- The issue duty that a die runs at, in thirty-seconds: the arbiter's, 1/16 at TCRIT, and half of that during a droop (21 R457,
R459). -/
def Die.duty32 (d : Die) : Nat :=
  let x := if d.hot then 1 else d.duty
  if d.droopAt.isSome then x else 2 * x

/-- The changes of duty that the last 32,768 CCLK hold, and the one before them: 1,024 CCLK at the lowest duty. -/
def recentDuties (now : Nat) : List (Nat × Nat) → List (Nat × Nat)
  | [] => []
  | e :: t => if e.1 + 32768 ≤ now then [e] else e :: recentDuties now t

/-- A change of a die that may change its issue duty. -/
def modDuty (die : Nat) (f : Die → Die) (s : State) : State :=
  modDie die (fun d =>
    let x := f d
    if x.duty32 = (x.duties.map Prod.snd).headD 32 then x
    else { x with duties := (s.cclk, x.duty32) :: recentDuties s.cclk x.duties }) s

/-- What a die demands of a rail: free (log 4). -/
def railDemand (free r die : Nat) : Nat := (Config.freeW64 free (1000000 + 8 * r + die)).toNat % 2 ^ 16

/-- A die takes its shares of the cap and of each rail's budget, and lowers its issue duty, its matrix duty or both, so that it stays within
every share: which of the two is free (log 4). -/
def Die.takeShares (die cap demand total free : Nat) (d : Die) : Die :=
  let sh := powerShare cap demand total
  let rails := (List.range Config.rails).map (fun r =>
    (r, powerShare (Config.railBudget r) (railDemand free r die) ((List.range 5).foldl (fun n i => n + railDemand free r i) 0)))
  let k := rails.foldl (fun k r => min k (powerDuty r.2 (railDemand free r.1 die))) (powerDuty sh demand)
  let which := (Config.freeW64 free (9700 + die)).toNat % 3
  { d with
    share := sh, duty := if which = 1 then 16 else k, matrixDuty := if which = 2 then 16 else k
    railShare := rails }

/-- A tick of the arbiter is due. -/
def arbiterDue (s : State) : Bool :=
  !(dieAt s 4).held && decide (s.time.toNat / 10000 ≠ s.platform.arbiterAt.toNat / 10000)

/-- POWER_ARBITER_TICK: every 10 µs the arbiter in the hub divides PWRCAP, and the current budget of each rail, among the five dies by
their demand. Duty changes when words issue, and no result (07 R201). -/
def execPowerArbiterTick (demand : List Nat) (s : State) : Out :=
  event "POWER_ARBITER_TICK"
    (if demand.length ≠ 5 ∨ !arbiterDue s then none
     else
       let total := demand.foldl (· + ·) 0
       some ((List.range 5).foldl (fun u i =>
         modDuty i (Die.takeShares i s.platform.pwrcap.toNat (demand.getD i 0) total s.free) u)
         (modPlatform (fun p => { p with arbiterAt := s.time }) s)))

/-- EV_THERMAL. -/
def postThermal (die kind sensor : Nat) (reading : BitVec 16) (s : State) : State :=
  postEvent 0 11 0 die 0 (packFields [(1, die), (1, kind), (1, sensor), (2, reading.toNat)]) s

/-- THERMAL_WARN: a sensor reads above TWARN. Readings are unsigned Q8.8. -/
def execThermalWarn (die sensor : Nat) (reading : BitVec 16) (s : State) : Out :=
  event "THERMAL_WARN"
    (if 4 < die ∨ 64 ≤ sensor ∨ reading.toNat ≤ s.platform.twarn.toNat * 256 then none
     else some (postThermal die 0 sensor reading s))

/-- THERMAL_CRIT: a sensor reads TCRIT or more. -/
def execThermalCrit (die sensor : Nat) (reading : BitVec 16) (s : State) : Out :=
  event "THERMAL_CRIT"
    (if 4 < die ∨ 64 ≤ sensor ∨ reading.toNat < s.platform.tcrit.toNat * 256 then none
     else some (postThermal die 1 sensor reading (modDuty die (fun d => { d with hot := true }) s)))

/-- THERMAL_CLEAR: every sensor of the die reads 5 °C below TCRIT. -/
def execThermalClear (die : Nat) (s : State) : Out :=
  event "THERMAL_CLEAR" (if (dieAt s die).hot then some (modDuty die (fun d => { d with hot := false }) s) else none)

/-- DROOP_TRIP: a droop detector trips. -/
def execDroopTrip (die sensor : Nat) (reading : BitVec 16) (s : State) : Out :=
  event "DROOP_TRIP"
    (if 4 < die ∨ 16 ≤ sensor then none
     else
       let s1 := modPlatform (fun p => { p with droops := p.droops + 1 })
         (modDuty die (fun d => { d with droopAt := some s.time }) s)
       some (if eventDue s (dieAt s die).droopEvAt then
         postThermal die 2 sensor reading (modDie die (fun d => { d with droopEvAt := some s.time }) s1) else s1))

/-- DROOP_END: the droop throttle has lasted at least 1 µs. -/
def execDroopEnd (die : Nat) (s : State) : Out :=
  event "DROOP_END"
    (match (dieAt s die).droopAt with
      | some t => if t.toNat + 1000 ≤ s.time.toNat then some (modDuty die (fun d => { d with droopAt := none }) s) else none
      | none => none)

/-- RAIL_CURRENT_LIMIT: a rail is at its current budget; `sensor` names the rail. -/
def execRailCurrentLimit (die sensor : Nat) (reading : BitVec 16) (s : State) : Out :=
  event "RAIL_CURRENT_LIMIT"
    (if 4 < die ∨ 256 ≤ sensor then none
     else if eventDue s (Tab.find (dieAt s die).railEvAt sensor) then
       some (postThermal die 3 sensor reading
         (modDie die (fun d => { d with railEvAt := Tab.set d.railEvAt sensor s.time }) s))
     else some s)

end Sys2Proof.Machine
end

