-- ==== Sys2Proof/Machine/Gather.lean ====
section
/-!
DEFINITION. The Gathering unit (10 R298 to R304; 11 R321; 13 R338): token records, firing and the launch of gatherings.
-/
namespace Sys2Proof.Machine

/-! ## Entries and records (R298, R299) -/

def exPvec (d : BitVec 512) : W64 := BitVec.ofNat 64 (d.toNat / 2 ^ 384 % 2 ^ 64)
def exSpcnt (d : BitVec 512) : Nat := d.toNat / 2 ^ 352 % 2 ^ 32
def exSpbase (d : BitVec 512) : Nat := d.toNat / 2 ^ 288 % 2 ^ 64
def exKdesc (d : BitVec 512) : Nat := d.toNat / 2 ^ 224 % 2 ^ 64
def exAffin (d : BitVec 512) : Nat := d.toNat / 2 ^ 160 % 2 ^ 64
def exTimer (d : BitVec 512) : Nat := d.toNat / 2 ^ 128 % 2 ^ 32
def exClass (d : BitVec 512) : Nat := d.toNat / 2 ^ 17 % 4
/-- The fill threshold; 0 stands for 128. -/
def exThresh (d : BitVec 512) : Nat := let n := d.toNat / 2 ^ 8 % 2 ^ 9; if n = 0 then 128 else n

/-- ENQ and TOK of a queued record. -/
def recEnq (r : BitVec 512) : Nat := r.toNat / 2 ^ 320 % 2 ^ 64
def recTok (r : BitVec 512) : Nat := r.toNat % 2 ^ 32
/-- A record with its enqueue time. -/
def recStamp (r : BitVec 512) (t : W64) : BitVec 512 :=
  BitVec.ofNat 512 (r.toNat % 2 ^ 320 + t.toNat * 2 ^ 320 + r.toNat / 2 ^ 384 * 2 ^ 384)

/-- An expert of a die, by VF and index. -/
def expertKey (vf e : Nat) : Nat := vf * 256 + e
def expertAt (s : State) (die vf e : Nat) : Option Expert := Tab.find (dieAt s die).experts (expertKey vf e)
def modExpert (die vf e : Nat) (f : Expert → Expert) (s : State) : State :=
  modDie die (fun d => match Tab.find d.experts (expertKey vf e) with
    | some x => { d with experts := Tab.set d.experts (expertKey vf e) (f x) }
    | none => d) s

/-- Tokens that wait for an expert, on chip and spilled. -/
def Expert.fill (x : Expert) : Nat := x.queue.length + x.spilled + x.staged.length

/-! ## The queue and its spill ring (R300) -/

/-- The VA of a record of the spill ring. -/
def Expert.spillVa (x : Expert) (i : Nat) : Nat := exSpbase x.desc + 64 * ((x.spillAt + i) % exSpcnt x.desc)

/-- How an access to the spill ring ends: done, to be tried again later, or refused. -/
inductive SpillEnd where
  | done (s : State)
  | later (s : State)
  | refused

/-- A failing access to the spill ring: the unit stalls on a demand fault (14 R359), or waits for a held die. -/
def spillFail (e : Env) (p : Place) (s : State) : SpillEnd :=
  match p with
  | .demand st pg => .later (raiseDemand e st pg s)
  | .held => .later s
  | _ => .refused

/-- Write a record behind those of the spill ring. -/
def spillWrite (vf : Nat) (x : Expert) (r : BitVec 512) (s : State) : SpillEnd :=
  match engineWrite (cmdEnv vf x.s1root) (x.spillVa x.spilled) (leBytes 64 r.toNat) s with
  | .ok t => .done t
  | .error p => spillFail (cmdEnv vf x.s1root) p s

/-- The records whose write has stalled go into the ring, in order, as far as they can. -/
def flushStaged (die vf e : Nat) : Nat → State → State
  | 0, s => s
  | n + 1, s =>
    match expertAt s die vf e with
    | none => s
    | some x =>
      match x.staged with
      | [] => s
      | r :: rest =>
        match spillWrite vf x r s with
        | .done t => flushStaged die vf e n (modExpert die vf e (fun x => { x with staged := rest, spilled := x.spilled + 1 }) t)
        | .later t => t
        | .refused => s

/-- Spilled records return on chip in order as room appears, the stalled ones behind them. A record that is not reached stays in the
ring, and is read again later. -/
def unspill (die vf e : Nat) : Nat → State → State
  | 0, s => s
  | n + 1, s =>
    match expertAt s die vf e with
    | none => s
    | some x =>
      if 256 ≤ x.queue.length then s
      else if x.spilled = 0 then
        (match x.staged with
          | [] => s
          | r :: rest => unspill die vf e n (modExpert die vf e (fun x => { x with queue := x.queue ++ [r], staged := rest }) s))
      else match engineRead s (cmdEnv vf x.s1root) (x.spillVa 0) 64 with
        | .error (.demand st p) => raiseDemand (cmdEnv vf x.s1root) st p s
        | .error _ => s
        | .ok bs =>
          unspill die vf e n (modExpert die vf e (fun x => { x with
            queue := x.queue ++ [BitVec.ofNat 512 (leNat bs)], spillAt := (x.spillAt + 1) % exSpcnt x.desc
            spilled := x.spilled - 1 }) s)

/-- The accesses of the unit to an expert's spill ring are tried again: records return on chip, and stalled ones go out. -/
def retrySpill (die vf e : Nat) (s : State) : State :=
  match expertAt s die vf e with
  | some x =>
    if x.spilled = 0 ∧ x.staged = [] then s else flushStaged die vf e x.staged.length (unspill die vf e 256 s)
  | none => s

/-- Push a record: on chip, else into the spill ring; none where it finds no room. A spill that stalls on a demand fault keeps its
place in the ring's order. A spill whose write is refused otherwise finds no room either (log 34). -/
def pushRecord (die vf e : Nat) (r : BitVec 512) (s0 : State) : Option State :=
  let s := retrySpill die vf e s0
  match expertAt s die vf e with
  | none => none
  | some x =>
    let r' := recStamp r s.time
    let took (f : Expert → Expert) (t : State) : Option State :=
      some (captureFree die 3 vf (cgidOf s.qid s.me) (modExpert die vf e f t))
    if !x.enabled then none
    else if x.queue.length < 256 ∧ x.spilled = 0 ∧ x.staged = [] then took (fun x => { x with queue := x.queue ++ [r'] }) s
    else if x.spilled + x.staged.length < exSpcnt x.desc then
      if x.staged ≠ [] then took (fun x => { x with staged := x.staged ++ [r'] }) s
      else match spillWrite vf x r' s with
        | .done t => took (fun x => { x with spilled := x.spilled + 1 }) t
        | .later t => took (fun x => { x with staged := [r'] }) t
        | .refused => none
    else none

/-- The report of a push that found no room: once, until the queue has been taken from. -/
def reportSpill (die vf e : Nat) (s : State) : State :=
  match expertAt s die vf e with
  | some x =>
    if x.enabled && !x.spillPosted then
      modExpert die vf e (fun x => { x with spillPosted := true })
        (postEvent vf 5 vf die 0 (packFields [(1, die), (1, e)]) s)
    else s
  | none => s

/-! ## Firing (R301, R302, R338) -/

/-- The team of a gathering. -/
def gatherTeam (id e : Nat) (x : Expert) (n reason : Nat) : WaitingTeam :=
  { launch := id, index := 0, lanes := 32 * x.kdesc.groups, groups := x.kdesc.groups, vext := x.kdesc.vext
    pages := x.kdesc.pages, tiles := x.kdesc.tiles, entry := x.kdesc.pc, tvec := x.kdesc.trapVec, pvec := exPvec x.desc
    regs := [0, BitVec.ofNat 64 n, BitVec.ofNat 64 e, BitVec.ofNat 64 reason], tasks := [] }

/-- The head token has reached n age timers (R301, R303). -/
def Expert.older (x : Expert) (time : W64) (n : Nat) : Bool :=
  exTimer x.desc != 0 && (match x.queue with
    | [] => false
    | h :: _ => decide (recEnq h + n * exTimer x.desc ≤ time.toNat))

/-- The reason for which an expert is ready at a time, if it is. Fill comes before age, and age before EQFIRE (R307). -/
def Expert.reason (x : Expert) (time : W64) : Option Nat :=
  if !x.enabled || x.queue.isEmpty then none
  else if exThresh x.desc ≤ x.fill then some 0
  else if x.older time 1 then some 1
  else if x.marked then some 2
  else none

/-- A core of a die that AFFIN names can admit the expert's team. -/
def coreAdmits (s : State) (die vf e : Nat) (x : Expert) (c : Nat) : Option (List Nat) :=
  if c / 64 = die ∧ exAffin x.desc / 2 ^ (c % 64) % 2 = 1 ∧ mayAdmit s vf = true then
    placement s c vf (gatherTeam 0 e x 0 0) else none

/-- Some core admits it. -/
def someAdmits (s : State) (die vf e : Nat) (x : Expert) : Bool :=
  (List.range 64).any (fun c => (coreAdmits s die vf e x (die * 64 + c)).isSome)

/-- One expert goes before another (R301): class, older head, lower index, lower VF. -/
def firesBefore (a b : Nat × Expert) : Bool :=
  let h (x : Expert) : Nat := recEnq (x.queue.headD 0)
  if exClass a.2.desc ≠ exClass b.2.desc then decide (exClass b.2.desc < exClass a.2.desc)
  else if h a.2 ≠ h b.2 then decide (h a.2 < h b.2)
  else if a.1 % 256 ≠ b.1 % 256 then decide (a.1 % 256 < b.1 % 256)
  else decide (a.1 / 256 < b.1 / 256)

/-- The physical lines of the first n bytes of a team's scratchpad, page by page. -/
def scratchRanges (t : Team) (n : Nat) : List (Nat × Nat) :=
  (List.range ((n + 1023) / 1024)).filterMap (fun i => (scratchPa t (i * 1024)).map (fun pa => (pa, min 1024 (n - i * 1024))))

/-- The records that a firing takes are on chip: those of the spill ring have been read (14 R359). An expert with records that are not is
passed over. -/
def Expert.whole (x : Expert) : Bool := decide (min x.fill 256 ≤ x.queue.length)

/-- Fire an expert on a core: the first min(fill, 256) records leave the queue, its team takes its counts and the copy takes its write
lock; none where the spill ring still holds some of them, or the lock table is full. -/
def fire (die vf e core : Nat) (slots : List Nat) (reason : Nat) (s0 : State) : Option State :=
  let s := retrySpill die vf e s0
  match expertAt s die vf e with
  | none => none
  | some x =>
    if !x.whole then none
    else
      let rs := x.queue.take 256
      let id := s.nextLaunch
      let w := gatherTeam id e x rs.length reason
      let k := s.nextTeam
      let s1 := takeCounts core vf w x.s1root slots { s with nextLaunch := id + 1 }
      match takeLocks core ((scratchRanges (teamAt s1 k) (64 * rs.length)).map (lockOn (.gathering vf e k) true)) s1 with
      | none => none
      | some s2 =>
        let s3 := modExpert die vf e (fun x => { x with
          queue := x.queue.drop 256, marked := false, aged := false, spillPosted := false, starvePosted := false
          firing := x.firing ++ [{ waiting := w, team := k, core := core, slots := slots, records := rs }] }) s2
        some (captureFree die 3 vf 0 (tally 5 vf 1 (retrySpill die vf e (modDie die (fun d => { d with lastFire := some s.cclk }) s3))))

/-- The unit of a die may fire in this CCLK: at most one expert every 16 CCLK. -/
def mayFire (d : Die) (cclk : Nat) : Bool :=
  !d.held && (match d.lastFire with
    | some c => decide (c + 16 ≤ cclk)
    | none => true)

/-- No ready expert of a die that some core admits goes before one. -/
def firesFirst (s : State) (die : Nat) (me : Nat × Expert) : Bool :=
  !(dieAt s die).experts.any (fun y => y.1 != me.1 && (y.2.reason s.time).isSome && y.2.whole && firesBefore y me
    && someAdmits s die (y.1 / 256) (y.1 % 256) y.2)

/-- The cores of a die that admit an expert's team, with the slots that they give. -/
def firingCores (s : State) (die vf e : Nat) (x : Expert) : List (Nat × List Nat) :=
  (List.range 64).filterMap (fun c => (coreAdmits s die vf e x (die * 64 + c)).map (fun sl => (die * 64 + c, sl)))

/-- A firing after a slot's step of an EQPUSH (R321): the unit fires the first ready expert, or does not yet; on which core is
free too (log 4). -/
def fireBetween (die slot : Nat) (s : State) : State :=
  if !mayFire (dieAt s die) s.cclk then s
  else match (dieAt s die).experts.find? (fun y => (y.2.reason s.time).isSome && y.2.whole && firesFirst s die y
      && someAdmits s die (y.1 / 256) (y.1 % 256) y.2) with
    | none => s
    | some y =>
      if !Config.freeBit s.free (610000 + 8 * slot + die) then s
      else
        let cs := firingCores s die (y.1 / 256) (y.1 % 256) y.2
        match cs[(Config.freeW64 s.free (610400 + 8 * slot + die)).toNat % cs.length]?, y.2.reason s.time with
        | some c, some r => (fire die (y.1 / 256) (y.1 % 256) c.1 c.2 r s).getD s
        | _, _ => s

/-- EXPERT_FIRE: the unit fires the first of the ready experts that some core admits, at most one every 16 CCLK. -/
def execExpertFire (die vf expert core : Nat) (s : State) : Out :=
  event "EXPERT_FIRE"
    (if !mayFire (dieAt s die) s.cclk || 256 ≤ expert then none
     else match expertAt s die vf expert with
       | none => none
       | some x =>
         match x.reason s.time, coreAdmits s die vf expert x core with
         | some r, some slots =>
           if firesFirst s die (expertKey vf expert, x) then fire die vf expert core slots r s else none
         | _, _ => none)

/-- The copy of a gathering meets a lock that was registered before its own (08 R241). -/
def gatherWaits (s : State) (vf e : Nat) (f : Firing) : Bool :=
  match (coreAt s f.core).locks.find? (fun l => l.2.owner == .gathering vf e f.team) with
  | some l => (scratchRanges (teamAt s f.team) (64 * f.records.length)).any (fun r =>
      (lineRange r.1 r.2).any (fun p => olderLock s f.core l.2.order p.1 true))
  | none => false

/-- GATHERING_LAUNCH: the copy of the oldest firing is done; its lock is released and the team starts. -/
def execGatheringLaunch (die vf expert : Nat) (s : State) : Out :=
  event "GATHERING_LAUNCH"
    (match expertAt s die vf expert with
      | none => none
      | some x =>
        match x.firing with
        | [] => none
        | f :: later =>
          if (dieAt s die).held || !mayAdmit s vf || gatherWaits s vf expert f then none
          else
            let t := teamAt s f.team
            let w := f.waiting
            let s1 := f.records.zipIdx.foldl (fun u (r : BitVec 512 × Nat) => match scratchPa t (64 * r.2) with
              | some pa => writePas (keyNum u vf) pa (leBytes 64 r.1.toNat) u
              | none => u) s
            let s2 := startSlice vf (modExpert die vf expert (fun x => { x with firing := later })
              (dropLocks f.core (.gathering vf expert f.team) s1))
            let l : Launch :=
              { vf := vf, kind := .gathering, queue := expert, cmd := none, kdesc := x.kdesc, args := 0, teams := 1
                lanes := w.lanes, nbt := 0, pvec := w.pvec, s1root := t.s1root, tlrec := 0, begun := true, left := 1
                start := s.time, loss := [], lossAt := s.time, saved := none }
            some (startTeam f.team w f.slots { s2 with launches := Tab.set s2.launches w.launch l }))

/-- EXPERT_AGE_TIMER: the head token reaches the age timer. -/
def execExpertAgeTimer (die vf expert : Nat) (s : State) : Out :=
  event "EXPERT_AGE_TIMER"
    (match expertAt s die vf expert with
      | none => none
      | some x =>
        if x.enabled && x.older s.time 1 && !x.aged then some (modExpert die vf expert (fun x => { x with aged := true }) s) else none)

/-- The head token has waited four timers, which is not reported yet (R303). -/
def Expert.starves (x : Expert) (time : W64) : Bool := x.enabled && !x.starvePosted && x.older time 4

/-- The head token has waited so long that the firing of R303 is at hand: 1,000 ticks of the 2,000 are left (log 5). -/
def Expert.overdue (x : Expert) (time : W64) : Bool :=
  x.enabled && exTimer x.desc != 0 && (match x.queue with
    | [] => false
    | h :: _ => decide (recEnq h + exTimer x.desc + 1000 ≤ time.toNat))

/-- EQ_STARVE_TIMEOUT (R303): the head token has waited four timers; it is reported once. -/
def execEqStarveTimeout (die vf expert : Nat) (s : State) : Out :=
  event "EQ_STARVE_TIMEOUT"
    (match expertAt s die vf expert with
      | none => none
      | some x =>
        if x.starves s.time then
          some (modExpert die vf expert (fun x => { x with starvePosted := true })
            (postEvent vf 6 vf die 0 (packFields [(1, die), (1, expert), (4, recTok (x.queue.headD 0))]) s))
        else none)

end Sys2Proof.Machine
end

