-- ==== Sys2Proof/Machine/Submit.lean ====
section
/-!
DEFINITION. The commands LAUNCH, CONFIGURE and TLB_INVAL (14 R346, R347, R358, R362; 07 R190, R196, R199; 10 R298; 11 R316), the
completion of a launch (14 R348, 19 R433) and the answers to demand faults (14 R359).
-/
namespace Sys2Proof.Machine

/-! ## LAUNCH (07 R190, R199) -/

/-- The descriptor's values lie in their ranges (03 R84). -/
def kdescOk (k : Config.KDesc) : Bool :=
  decide (1 ≤ k.groups) && decide (k.groups ≤ 16) && decide (k.vext ≤ 48) && k.vext % 8 == 0 && decide (k.pages ≤ 1024)
    && decide (k.tiles ≤ 4)

/-- A kernel descriptor at a translated address, with the address of the kernel's first word, which is a multiple of 4 (03 R90, 04
R91; log 57); none where it is not reached. -/
def readKdesc (s : State) (vf : Nat) (root : W64) (va : Nat) : Option Config.KDesc :=
  (cmdRead s vf root va 64).map (fun bs =>
    let k := Config.kdescOf bs
    { k with pc := Config.entryPc k.entry (BitVec.ofNat 64 va) &&& ~~~(3 : W64) })

/-- Some core could hold a team of n groups of this shape while it is empty (R199, 14 R340). -/
def shapeFits (s : State) (vf n : Nat) (k : Config.KDesc) : Bool :=
  let ps := (vfAt s vf).parts
  ps.any (fun p => decide (n ≤ 16 * (ps.filter (fun r => r / 8 == p / 8)).length))
    && decide (n * (64 + k.vext) ≤ Config.crsEntries) && decide (k.pages ≤ Config.pagesPerCore) && decide (k.tiles ≤ 4)

/-- A team of a kernel launch, as it waits for admission. -/
def kernelTeam (lid i : Nat) (l : Launch) : WaitingTeam :=
  { launch := lid, index := i, lanes := l.lanes, groups := (l.lanes + 31) / 32, vext := l.kdesc.vext, pages := l.kdesc.pages
    tiles := l.kdesc.tiles, entry := l.kdesc.pc, tvec := l.kdesc.trapVec, pvec := l.pvec, regs := [], tasks := [] }

/-- The teams of a launch begin to wait for admission. -/
def queueTeams (lid : Nat) (l : Launch) (s : State) : State :=
  modVf l.vf (fun v => { v with waiting := v.waiting ++ (List.range l.teams).map (fun i => kernelTeam lid i l) })
    { s with launches := Tab.set s.launches lid { l with begun := true } }

/-- The launch that a LAUNCH command describes. -/
def launchOf (s : State) (vf id : Nat) (c : Command) (k : Config.KDesc) : Launch :=
  let w (o : Nat) : W64 := BitVec.ofNat 64 (c.field o 8)
  { vf := vf, kind := .kernel, queue := c.queue, cmd := some id, kdesc := k, args := w 16, teams := c.field 32 4
    lanes := c.field 36 4, nbt := w 40, pvec := w 48, s1root := w 24, tlrec := w 56, begun := false, left := c.field 32 4
    start := s.time, loss := List.replicate 5 0, lossAt := s.time, saved := none }

/-- LAUNCH of a status: what a command that is refused answers, or its kernel. -/
def launchCheck (s : State) (vf : Nat) (c : Command) : Except Nat Config.KDesc :=
  let root := BitVec.ofNat 64 (c.field 24 8)
  let teams := c.field 32 4
  if !c.clean [(8, 56)] || root.toNat % 4096 != 0 || teams == 0 || decide (65536 < teams) then .error 2
  else if !cmdMapped s vf root .read (c.field 16 8)
      || (c.field 48 8 != 0 && !cmdMapped s vf root .fetch (c.field 48 8))
      || (c.field 56 8 != 0 && (cmdRead s vf root (c.field 56 8) 64).isNone) then .error 1
  else match readKdesc s vf root (c.field 8 8) with
    | none => .error 1
    | some k =>
      let lanes := c.field 36 4
      if !kdescOk k || lanes == 0 || decide (32 * k.groups < lanes) then .error 2
      else if !shapeFits s vf ((lanes + 31) / 32) k then .error 3
      else .ok k

/-- LAUNCH. No launch of a VF begins while the VF is saved or is being saved (17 R385). -/
def execLaunch (vf id : Nat) (s : State) : Out :=
  event "LAUNCH"
    (match readyCmd s vf id 1 with
      | none => none
      | some c =>
        if !mayAdmit s vf then none
        else
          let s0 := beginCmd vf id s
          match launchCheck s vf c with
          | .error e => some (completeCmd vf id e 0 0 0 s0)
          | .ok k =>
            let lid := s.nextLaunch
            let l := launchOf s vf id c k
            let s1 : State := { s0 with launches := Tab.set s0.launches lid l, nextLaunch := lid + 1 }
            some (settle vf (if l.nbt.toNat ≤ s.time.toNat then queueTeams lid l s1 else s1)))

/-- LAUNCH_NBT_START: the not-before time of a launch has come (21 R446). -/
def execLaunchNbtStart (lid : Nat) (s : State) : Out :=
  event "LAUNCH_NBT_START"
    (match Tab.find s.launches lid with
      | none => none
      | some l => if l.begun || decide (s.time.toNat < l.nbt.toNat) then none else some (queueTeams lid l s))

/-- The time-loss record (19 R433). -/
def lossRecord (lid : Nat) (l : Launch) (fin : W64) : List Byte :=
  leBytes 8 l.start.toNat ++ leBytes 8 fin.toNat ++ l.loss.flatMap (fun d => leBytes 8 d.toNat)
    ++ leBytes 4 (lid % 2 ^ 24) ++ leBytes 4 0

/-- Copies or collectives that groups of the launch started have not completed. -/
def launchWorks (s : State) (lid : Nat) : Bool :=
  s.copies.any (fun e => e.2.launch == lid && e.2.cmd.isNone)
    || s.dies.any (fun d => d.2.colls.any (fun e => e.2.launch == lid))

/-- How the write of the time-loss record ends: it is made, or nothing asks for one; it stalls on a demand fault (14 R359); it waits for
memory of a held die (19 R415). A write that fails otherwise is dropped (log 34). -/
def writeLoss (lid : Nat) (l0 : Launch) (s : State) : SpillEnd :=
  let l := l0.lose (lossCategory s lid) (s.time - l0.lossAt)
  if l.tlrec = 0 then .done s
  else match engineWrite (cmdEnv l.vf l.s1root) l.tlrec.toNat (lossRecord lid l s.time) s with
    | .ok t => .done t
    | .error (.demand st p) =>
      .later (raiseDemand (cmdEnv l.vf l.s1root) st p { s with launches := Tab.set s.launches lid { l0 with stall := some (st, p) } })
    | .error .held => .refused
    | .error _ => .done s

/-- The used element of a launch, whose time-loss record is written. -/
def completeLaunch (lid : Nat) (l : Launch) (s : State) : State :=
  let s1 : State := { s with launches := Tab.del s.launches lid }
  match l.cmd with
  | none => s1
  | some id => completeCmd l.vf id 0 0 (lid % 2 ^ 24) 0 (tally 2 l.vf (s.time - l.start).toNat s1)

/-- LAUNCH_COMPLETE: every group of every team has ended, and all that they started is performed. The record is written first, and the
launch waits where its write does (R348). -/
def execLaunchComplete (lid : Nat) (s : State) : Out :=
  event "LAUNCH_COMPLETE"
    (match Tab.find s.launches lid with
      | none => none
      | some l =>
        if l.kind == .kernel && l.begun && l.left == 0 && l.saved.isNone && !launchWorks s lid && !(dieAt s 4).held && l.stall.isNone then
          (match writeLoss lid l s with
            | .done t => some (completeLaunch lid l t)
            | .later t => some t
            | .refused => none)
        else none)

/-! ## CONFIGURE (14 R347) -/

def Command.sub (c : Command) : Nat := c.byte 8
def Command.die (c : Command) : Nat := c.byte 12
def Command.index (c : Command) : Nat := c.field 16 4
def Command.recordVa (c : Command) : Nat := c.field 24 8
def Command.root (c : Command) : W64 := BitVec.ofNat 64 (c.field 32 8)
def Command.arg (c : Command) : Nat := c.field 40 8

/-- The header of a CONFIGURE is in order. -/
def cfgClean (c : Command) : Bool :=
  c.clean [(8, 1), (12, 1), (16, 4), (24, 8), (32, 8), (40, 8)] && decide (c.die < 4) && c.root.toNat % 4096 == 0

/-- The frame of a CONFIGURE command: one SUB, its range of INDEX, its header. -/
def configure (name : String) (sub limit vf id : Nat) (pick : Command → Bool) (s : State) (f : Command → Answer) : Out :=
  cmdNow name vf id 5 (fun c => c.sub == sub && pick c) s (fun c =>
    if !cfgClean c || decide (limit < c.index) then ⟨2, 0, s⟩ else f c)

/-- The fields of a task-queue descriptor lie in their ranges (11 R316). Reserved bits are not looked at (00 R7). -/
def tqOk (d : BitVec 512) : Bool :=
  let lc := d.toNat / 2 ^ 16 % 2 ^ 5
  decide (4 ≤ lc) && decide (lc ≤ 16) && decide (tqVext d ≤ 48) && tqVext d % 8 == 0 && decide (tqPages d ≤ 1024)

/-- Entries of the pool of a die that its other queues have reserved. -/
def poolUsed (s : State) (die key : Nat) : Nat :=
  (((dieAt s die).queues.filter (fun e => e.1 != key)).map (fun e => tqCap e.2.desc)).foldl (· + ·) 0

/-- Generation of a queue that is configured anew: the first is 1. -/
def nextGen (q : Option TaskQueue) : BitVec 16 :=
  match q with
  | some x => x.gen + 1
  | none => 1

/-- CONFIGURE_TASK_QUEUE: the entries that the queue held are discarded. -/
def execConfigureTaskQueue (vf id : Nat) (s : State) : Out :=
  configure "CONFIGURE_TASK_QUEUE" 0 0xFFFE vf id (fun _ => true) s (fun c =>
    match cmdRead s vf c.root c.recordVa 64 with
    | none => ⟨1, 0, s⟩
    | some bs =>
      let d := BitVec.ofNat 512 (leNat bs)
      let key := queueKey vf c.index
      if !tqOk d then ⟨2, 0, s⟩
      else if Config.taskPool < poolUsed s c.die key + tqCap d then ⟨4, 0, s⟩
      else
        let gen := nextGen (taskQueue s c.die vf c.index)
        let q : TaskQueue :=
          { desc := d, s1root := c.root, gen := gen, enabled := tqEn d, entries := [], nextTask := 0, timers := [] }
        ⟨0, (queueHandle gen vf c.die c.index (if tqWave d then 1 else 7)).toNat,
          modDie c.die (fun x => { x with queues := Tab.set x.queues key q }) s⟩)

/-- The fields of an expert entry lie in their ranges (10 R298). -/
def exOk (d : BitVec 512) : Bool :=
  decide (exThresh d ≤ 256) && (exPvec d).toNat % 4 == 0 && exSpbase d % 64 == 0

def exEn (d : BitVec 512) : Bool := d.getLsbD 0

/-- Enabled experts of a die but for one. -/
def expertsOn (s : State) (die key : Nat) : Nat := ((dieAt s die).experts.filter (fun e => e.1 != key && e.2.enabled)).length

/-- Load an expert's entry. The records that it held are discarded; a gathering that is being copied goes on. -/
def loadExpert (vf die e : Nat) (d : BitVec 512) (k : Config.KDesc) (root : W64) (s : State) : State :=
  let x : Expert :=
    { desc := d, kdesc := k, s1root := root, enabled := exEn d, queue := [], spillAt := 0, spilled := 0, marked := false
      aged := false, spillPosted := false, starvePosted := false, staged := []
      firing := ((expertAt s die vf e).map (fun x => x.firing)).getD [] }
  modDie die (fun t => { t with
    experts := Tab.set t.experts (expertKey vf e) x
    expertGen := if (Tab.find t.expertGen vf).isSome then t.expertGen else Tab.set t.expertGen vf 1 }) s

/-- CONFIGURE_EXPERT. -/
def execConfigureExpert (vf id : Nat) (s : State) : Out :=
  configure "CONFIGURE_EXPERT" 1 255 vf id (fun _ => true) s (fun c =>
    match cmdRead s vf c.root c.recordVa 64 with
    | none => ⟨1, 0, s⟩
    | some bs =>
      let d := BitVec.ofNat 512 (leNat bs)
      let gen := Tab.get 1 (dieAt s c.die).expertGen vf
      let done (k : Config.KDesc) : Answer :=
        ⟨0, (queueHandle gen vf c.die 0xFFFF 1).toNat, loadExpert vf c.die c.index d k c.root s⟩
      if !exOk d then ⟨2, 0, s⟩
      else if !exEn d then done default
      else match readKdesc s vf c.root (exKdesc d) with
        | none => ⟨1, 0, s⟩
        | some k =>
          if !kdescOk k then ⟨2, 0, s⟩
          else if 256 ≤ expertsOn s c.die (expertKey vf c.index) then ⟨4, 0, s⟩
          else if k.pages < 16 then ⟨3, 0, s⟩
          else done k)

/-- DISABLE_TASK_QUEUE: the queue keeps its entries, and every handle to it is stale. -/
def execDisableTaskQueue (vf id : Nat) (s : State) : Out :=
  configure "DISABLE_TASK_QUEUE" 2 0xFFFE vf id (fun c => c.arg == 0) s (fun c =>
    ⟨0, 0, modQueueOf c.die vf c.index (fun q => { q with enabled := false, gen := q.gen + 1 }) s⟩)

/-- DISABLE_EXPERT: EN becomes 0; the records stay, and the table's generation does. -/
def execDisableExpert (vf id : Nat) (s : State) : Out :=
  configure "DISABLE_EXPERT" 2 255 vf id (fun c => c.arg == 1) s (fun c =>
    ⟨0, 0, modExpert c.die vf c.index (fun x => { x with enabled := false, desc := x.desc &&& ~~~(1 : BitVec 512) }) s⟩)

/-- The frame of a SUB that only the PF has: DENIED on another function's queue. -/
def configurePf (name : String) (sub vf id : Nat) (s : State) (f : Command → Answer) : Out :=
  cmdNow name vf id 5 (fun c => c.sub == sub) s (fun c =>
    if vf ≠ 0 then ⟨7, 0, s⟩ else if !cfgClean c || decide (512 < c.index) then ⟨2, 0, s⟩ else f c)

/-- The partitions of a mask, bit p for partition p. -/
def maskParts (bs : List Byte) : List Nat := (List.range 2048).filter (fun p => (bs.getD (p / 8) 0).toNat / 2 ^ (p % 8) % 2 == 1)

/-- ASSIGN_PARTITIONS. While a save is frozen no partition is reassigned (17 R403). -/
def execAssignPartitions (vf id : Nat) (s : State) : Out :=
  configurePf "ASSIGN_PARTITIONS" 8 vf id s (fun c =>
    match cmdRead s vf c.root c.recordVa 256 with
    | none => ⟨1, 0, s⟩
    | some bs =>
      ⟨0, 0, pfWrite c.index (fun s =>
        if (ctxAt s c.index).st == .frozen then s else modVf c.index (fun v => { v with parts := maskParts bs }) s) s⟩)

/-- The fields of a grant-table entry; its reserved bits read 0. -/
def grantMask : BitVec 128 := ~~~(BitVec.ofNat 128 ((2 ^ 64 - 1) * 2 ^ 64 + 63 * 2))

/-- WRITE_GRANT (14 R362). -/
def execWriteGrant (vf id : Nat) (s : State) : Out :=
  configurePf "WRITE_GRANT" 9 vf id s (fun c =>
    if 4096 ≤ c.arg then ⟨2, 0, s⟩
    else match cmdRead s vf c.root c.recordVa 16 with
      | none => ⟨1, 0, s⟩
      | some bs => ⟨0, 0, { s with grants := Tab.set s.grants c.arg (BitVec.ofNat 128 (leNat bs) &&& grantMask) }⟩)

/-- CLEAR_GRANT. -/
def execClearGrant (vf id : Nat) (s : State) : Out :=
  configurePf "CLEAR_GRANT" 10 vf id s (fun c =>
    if 4096 ≤ c.arg then ⟨2, 0, s⟩ else ⟨0, 0, { s with grants := Tab.del s.grants c.arg }⟩)

/-! ## Invalidation (14 R358, 02 R64) -/

/-- No load of a VF is at work that enters a record when it completes (12 R336): its walk began before, so an invalidation waits for
it (R358; log 10). -/
def loadsDone (s : State) (vf : Nat) : Bool := s.returns.all (fun r => r.2.vf != vf || r.2.loadKey.isNone)

/-- The TLBs and the walk caches of every die keep the entries of a VF for which the tests fail; the VF's load records end. -/
def dropTranslations (vf : Nat) (hit : TlbEntry → Bool) (hitW : WalkEntry → Bool) (s : State) : State :=
  { s with
    dies := s.dies.map (fun d => (d.1, { d.2 with
      tlb := d.2.tlb.filter (fun e => e.vf != vf || !hit e)
      walks := d.2.walks.filter (fun e => e.vf != vf || !hitW e) }))
    cores := s.cores.map (fun c => (c.1, { c.2 with reuse := c.2.reuse.filter (fun r => r.loadTeam.isNone || r.vf != vf) })) }

/-- The frame of an invalidation: it completes once the loads of the VF have. -/
def invalidate (name : String) (done : Bool) (o : Out) : Out := if done then o else .fault (.notEnabled name)

/-- A held entry of a table lies in a range of guest-physical addresses, or translates from it. -/
def WalkEntry.ofGpa (e : WalkEntry) (lo n : Nat) : Bool :=
  if e.stage = 2 then rangesMeet e.base e.size lo n else rangesMeet e.at_ 8 lo n

/-- The VF that a PF command names in its header. -/
def commandVf (s : State) (vf id : Nat) : Nat := ((Tab.find (vfAt s vf).cmds id).map (fun c => c.index)).getD 0

/-- STAGE2_INVAL: the range of guest-physical addresses begins at the record address and has ARG bytes. -/
def execStage2Inval (vf id : Nat) (s : State) : Out :=
  invalidate "STAGE2_INVAL" (vf != 0 || loadsDone s (commandVf s vf id)) (configurePf "STAGE2_INVAL" 11 vf id s (fun c =>
    ⟨0, 0, pfWrite c.index (dropTranslations c.index (fun e => rangesMeet e.gbase e.size c.recordVa c.arg)
      (fun e => e.ofGpa c.recordVa c.arg)) s⟩))

/-- TLB_INVAL: a root of 0 names every one, and a length of 0 every address. The stage-2 entries that the walks under a named root used are
dropped whatever addresses they translate, so that every later walk uses the tables as they stand. -/
def execTlbInval (vf id : Nat) (s : State) : Out :=
  invalidate "TLB_INVAL" (loadsDone s vf) (cmdNow "TLB_INVAL" vf id 6 (fun _ => true) s (fun c =>
    let root := BitVec.ofNat 64 (c.field 8 8)
    let rooted (r : W64) : Bool := root == 0 || r == root
    let named (r : W64) (base size : Nat) : Bool := rooted r
      && (c.field 24 8 == 0 || rangesMeet base size (c.field 16 8) (c.field 24 8))
    if !c.clean [(8, 8), (16, 8), (24, 8)] || root.toNat % 4096 != 0 then ⟨2, 0, s⟩
    else ⟨0, 0, dropTranslations vf (fun e => named e.s1root e.base e.size)
      (fun e => if e.stage = 1 then named e.s1root e.base e.size else rooted e.s1root) s⟩))

/-! ## Demand faults (14 R359) -/

/-- The access waits on a fault: of its VF, its stage-1 root, and the stage and page of its stall. -/
def waitsOn (vf : Nat) (f : DemandFault) (v : Nat) (root : W64) (stall : Option (Nat × Nat)) : Bool :=
  v == vf && root == f.s1root && stall == some (f.stage, f.page)

def Group.stallOf (g : Group) : Option (Nat × Nat) :=
  match g.blocked with
  | some (.demand st p) => some (st, p)
  | _ => none

/-- The stall of a sequencer on a fault. -/
def seqWaits (s : State) (vf : Nat) (f : DemandFault) (q : Sequencer) : Bool :=
  match q.owner with
  | some k => waitsOn vf f (teamAt s k).vf (teamAt s k).s1root q.stall
  | none => match q.mmas with
    | m :: _ => waitsOn vf f m.vf (teamAt s m.team).s1root q.stall
    | [] => false

/-- The waiting write of a time-loss record goes on, or is dropped (19 R433; log 34). -/
def Launch.wake (vf : Nat) (f : DemandFault) (fail : Bool) (l : Launch) : Launch :=
  if waitsOn vf f l.vf l.s1root l.stall then { l with stall := none, tlrec := if fail then 0 else l.tlrec } else l

/-- The waiting accesses of copies, of collectives, of sequencers and of launches go on; `fail` says how a copy fails. -/
def wakeEngines (vf : Nat) (f : DemandFault) (fail : Option Nat) (s : State) : State :=
  { s with
    launches := s.launches.map (fun e => (e.1, e.2.wake vf f fail.isSome))
    copies := s.copies.map (fun e =>
      (e.1, if waitsOn vf f e.2.vf e.2.s1root e.2.stall then
          { e.2 with stall := none, failed := if e.2.failed.isSome then e.2.failed else fail } else e.2))
    dies := s.dies.map (fun d => (d.1, { d.2 with colls := d.2.colls.map (fun e =>
      (e.1, if waitsOn vf f e.2.vf e.2.s1root e.2.stall then { e.2 with stall := none } else e.2)) }))
    cores := s.cores.map (fun c => (c.1, if seqWaits s vf f c.2.seq then { c.2 with seq := { c.2.seq with stall := none } } else c.2)) }

/-- The waiting access of a port goes on, or it fails and the port keeps its fault (09 R266, R267). -/
def Port.wake (f : DemandFault) (fail : Bool) (p : Port) : Port :=
  match p.stall with
  | some (st, pg, a) =>
    if st = f.stage && pg = f.page then { p with stall := none, fault := if fail then some a else p.fault } else p
  | none => p

/-- The waiting word of a group issues again, where it waits on the fault; `fail` says that its access to the page then fails. -/
def Group.wake (cclk : Nat) (f : DemandFault) (fail : Bool) (g : Group) : Group :=
  if g.stallOf = some (f.stage, f.page) then
    { g with blocked := none, readyAt := cclk, failPages := if fail then (f.stage, f.page) :: g.failPages else g.failPages }
  else g

/-- The waiting accesses of a VF's groups and of their ports go on, under the root of the fault. -/
def wakeGroups (vf : Nat) (f : DemandFault) (fail : Bool) (s : State) : State :=
  let woken := s.groups.filter (fun e => e.2.vf == vf && (teamAt s e.2.team).s1root == f.s1root)
  let s1 : State := { s with groups := s.groups.map (fun e =>
    (e.1, if e.2.vf == vf && (teamAt s e.2.team).s1root == f.s1root then
        { e.2.wake s.cclk f fail with ports := e.2.ports.map (fun p => (p.1, p.2.wake f fail)) } else e.2)) }
  woken.foldl (fun s e => unblock e.1 s) s1

/-- The fault is out of service. -/
def endFault (vf : Nat) (f : DemandFault) (s : State) : State :=
  modVf vf (fun v => { v with faults := v.faults.filter (· != f) }) s

/-- The Gathering units try the spill rings of a VF's experts again. -/
def wakeSpills (vf : Nat) (s : State) : State :=
  s.dies.foldl (fun (u : State) (d : Nat × Die) =>
    (d.2.experts.filter (fun e => e.1 / 256 == vf)).foldl (fun (u : State) (e : Nat × Expert) => retrySpill d.1 vf (e.1 % 256) u) u) s

/-- Every access that waits on a fault walks again. -/
def retryFault (vf : Nat) (f : DemandFault) (s : State) : State :=
  wakeSpills vf (endFault vf f (wakeEngines vf f none (wakeGroups vf f false s)))

/-- DEMAND_FAULT_RETRY. -/
def execDemandFaultRetry (vf idx : Nat) (s : State) : Out :=
  event "DEMAND_FAULT_RETRY" (((vfAt s vf).faults[idx]?).map (fun f => retryFault vf f s))

/-- DEMAND_FAULT_FAIL: a group takes PAGE at its word, a copy fails with code 3, a sequencer faults with cause 2 and a collective
fails. -/
def execDemandFaultFail (vf idx : Nat) (s : State) : Out :=
  event "DEMAND_FAULT_FAIL"
    (match (vfAt s vf).faults[idx]? with
      | none => none
      | some f =>
        let s1 := s.cores.foldl (fun (u : State) (c : Nat × Core) =>
          if seqWaits s vf f c.2.seq then seqFault c.1 2 c.2.seq.word.toNat c.2.seq.pc u else u) s
        let s2 := s.dies.foldl (fun (u : State) (d : Nat × Die) =>
          (d.2.colls.filter (fun e => waitsOn vf f e.2.vf e.2.s1root e.2.stall)).foldl
            (fun (u : State) (e : Nat × Collective) => failColl d.1 e.1 e.2 u) u) s1
        some (endFault vf f (wakeEngines vf f (some 3) (wakeGroups vf f true s2))))

end Sys2Proof.Machine
end

