-- ==== Sys2Proof/Machine/Bringup.lean ====
section
/-!
DEFINITION. Resets and bring-up (14 R339, R360; 22 R462 to R469; 00 R2), and the writes to device registers (00 R7; 14 R341 to
R344; 17 R383).
-/
namespace Sys2Proof.Machine

/-! ## The end of a tenancy (00 R2, 14 R360) -/

/-- Drop a gathering that is being copied, with the counts it holds. -/
def dropFiring (vf e : Nat) (f : Firing) (s : State) : State := freeTeam f.team (dropLocks f.core (.gathering vf e f.team) s)

/-- Drop the gatherings that a VF, or every VF, is having copied on a die. -/
def dropFirings (die : Nat) (mine : Nat → Bool) (s : State) : State :=
  (dieAt s die).experts.foldl (fun (u : State) (e : Nat × Expert) =>
    if mine (e.1 / 256) then
      modExpert die (e.1 / 256) (e.1 % 256) (fun x => { x with firing := [] })
        (e.2.firing.foldl (fun u f => dropFiring (e.1 / 256) (e.1 % 256) f u) u)
    else u) s

/-- The launches of a VF end with everything they hold. -/
def endLaunches (vf : Nat) (s : State) : State :=
  (s.launches.filter (fun e => e.2.vf == vf)).foldl (fun (u : State) (e : Nat × Launch) => killLaunch e.1 u) s

/-- The learner forgets what it learned: weights, features, action and draws stand as after a cold reset (00 R2, log 68). -/
def Binder.forget (b : Binder) : Binder :=
  { b with weights := [], lastphi := [], phi := [], ap := 0, have_ := false, icnt := 0, left := 0, bseed := 1 }

/-- What the dies, the cores and the hub hold of a VF goes: of the Binder its knob word, as set and as handed, what its sensors counted,
and what the learner has learned (log 68). No grant names function 512, whose number the fields do not hold (log 52). -/
def dropTenancy (vf : Nat) (s : State) : State :=
  { s with
    returns := s.returns.filter (fun r => r.2.vf != vf)
    copies := s.copies.filter (fun c => c.2.vf != vf)
    syscs := s.syscs.filter (fun y => y.2.vf != vf)
    cores := s.cores.map (fun c => (c.1, { c.2 with reuse := c.2.reuse.filter (fun r => r.vf != vf) }))
    dies := s.dies.map (fun d => (d.1, { d.2 with
      queues := d.2.queues.filter (fun q => q.1 / 65536 != vf)
      experts := d.2.experts.filter (fun e => e.1 / 256 != vf)
      expertGen := Tab.del d.2.expertGen vf
      tlb := d.2.tlb.filter (fun e => e.vf != vf)
      walks := d.2.walks.filter (fun e => e.vf != vf) }))
    grants := s.grants.filter (fun g => g.2.toNat / 2 ^ 30 % 2 ^ 9 != vf && g.2.toNat / 2 ^ 39 % 2 ^ 9 != vf)
    binder := { s.binder.forget with
      knob := Tab.del s.binder.knob vf, handed := Tab.del s.binder.handed vf
      tally := s.binder.tally.filter (fun t => t.1 % 1024 != vf) }
    platform := { s.platform with fabtag := Tab.del s.platform.fabtag vf } }

/-- A stage-2 root of the PF's choosing: the spec names no register that sets it, so it is free (log 20). -/
def freshRoot (s : State) : W64 := (Config.freeW64 s.free 9600 &&& ~~~(0xFFF : W64)) &&& 0xFFFFFFFFFFFFF

/-- The tenancy of a VF ends: none of its state is kept. Its key slot takes a fresh key and its hash salt changes. -/
def endTenancy (vf : Nat) (on : Bool) (salt : BitVec 48) (s : State) : State :=
  let s1 := (List.range 4).foldl (fun u d => dropFirings d (· == vf) u) (dropReleased vf (endLaunches vf s))
  modVf vf (fun v => { Vf.reset with enabled := on, keyLoads := v.keyLoads + 1, salt := salt, s2root := freshRoot s })
    (dropTenancy vf s1)

/-- The VF has a resident launch (22 R463). -/
def hasResident (s : State) (vf : Nat) : Bool := s.teams.any (fun e => e.2.vf == vf && !e.2.members.isEmpty)

/-- The function is a VF that the manifest offers (22 R466). -/
def isVf (s : State) (v : Nat) : Bool := decide (1 ≤ v) && decide (v ≤ min Config.maxVf s.boot.vfCount)

/-- VF_FLR: a VF reset is requested; it completes once no launch of the VF is resident. -/
def execVfFlr (vf : Nat) (s : State) : Out :=
  event "VF_FLR" (if isVf s vf && (vfAt s vf).enabled then some (modVf vf (fun v => { v with resetPending := true }) s) else none)

/-- VF_RESET_DONE. -/
def execVfResetDone (vf : Nat) (salt : BitVec 48) (s : State) : Out :=
  event "VF_RESET_DONE"
    (if isVf s vf && (vfAt s vf).resetPending && !hasResident s vf then some (endTenancy vf (vfAt s vf).enabled salt s) else none)

/-- VF_ENABLE: the VF begins with a full token bucket, a fresh key and a fresh salt. -/
def execVfEnable (vf : Nat) (salt : BitVec 48) (s : State) : Out :=
  event "VF_ENABLE"
    (if isVf s vf && bootReady s && !(vfAt s vf).enabled && !(vfAt s vf).resetPending then
      some (modVf vf (fun v => { v with
        enabled := true, keyLoads := v.keyLoads + 1, salt := salt, tokens := v.wakeBurst.toNat, s2root := freshRoot s }) s)
     else none)

/-- VF_DISABLE: the tenancy ends at once where no launch of the VF is resident, and else once none is. -/
def execVfDisable (vf : Nat) (s : State) : Out :=
  event "VF_DISABLE"
    (if !isVf s vf || !(vfAt s vf).enabled then none
     else if hasResident s vf then some (modVf vf (fun v => { v with enabled := false, resetPending := true }) s)
     else some (endTenancy vf false (BitVec.ofNat 48 (Config.freeW64 s.free 9601).toNat) s))

/-! ## TDISP and SPDM (R462, R465) -/

/-- A message moves a TDI: lock, start and stop. -/
def tdiMoves (a b : TdiState) : Bool :=
  match a, b with
  | .unlocked, .locked | .locked, .run => true
  | .locked, .unlocked | .run, .unlocked | .error, .unlocked => true
  | _, _ => false

/-- TDI_TRANSITION. -/
def execTdiTransition (vf : Nat) (target : TdiState) (s : State) : Out :=
  event "TDI_TRANSITION"
    (if isVf s vf && tdiMoves (vfAt s vf).tdi target then some (modVf vf (fun v => { v with tdi := target }) s) else none)

/-- The code of a TDI state, in the order of TDISP. -/
def tdiCode : TdiState → W64
  | .unlocked => 0
  | .locked => 1
  | .run => 2
  | .error => 3

/-- GET_DEVICE_INTERFACE_STATE: the answer stands in `reply`. -/
def execGetDeviceInterfaceState (vf : Nat) (s : State) : Out :=
  event "GET_DEVICE_INTERFACE_STATE" (if isVf s vf then some { s with reply := [tdiCode (vfAt s vf).tdi] } else none)

/-- A digest as six words, the lowest first. -/
def digestWords (d : BitVec 384) : List W64 := (List.range 6).map (fun i => BitVec.ofNat 64 (d.toNat / 2 ^ (64 * i)))

/-- GET_MEASUREMENTS: the digests taken so far, in the order of their blocks, stand in `reply`. -/
def execGetMeasurements (s : State) : Out := .next { s with reply := s.boot.digests.flatMap digestWords }

/-- The die whose chain a certificate slot holds (22 R464): the hub, die 4, in slot 0 and C-die 0 to 3 in slots 1 to 4; slots 5 to 7
are not provisioned. -/
def certDie (slot : Nat) : Option Nat := if slot = 0 then some 4 else if slot ≤ 4 then some (slot - 1) else none

/-- The public key at the end of a slot's chain. -/
def certKey (s : State) (slot : Nat) : Option (BitVec 768) := (certDie slot).bind (fun d => s.boot.dieKeys[d]?)

/-! ## Bring-up (R466, R467) -/

/-- The manifest is accepted: its signature holds and its version is not below the stored one. -/
def manifestOk (stored : W32) (b : BootOutcome) : Bool := b.signatureOk && decide (stored ≤ b.version)

/-- STEP and ERR that bring-up comes to. Every one of the five dies derives its key (R464). -/
def bootEnd (stored : W32) (b : BootOutcome) : Nat × Nat :=
  if !b.signatureOk then (1, 1)
  else if !manifestOk stored b then (1, 2)
  else if !b.keysOk || b.dieKeys.length != 5 then (2, 3)
  else if !b.hbmOk then (3, 4)
  else if !b.spineOk then (4, 5)
  else if !b.kernelOk then (6, 6)
  else (7, 0)

/-- BOOTSTAT. -/
def bootStatus (stored : W32) (b : BootOutcome) : W64 :=
  let e := bootEnd stored b
  BitVec.ofNat 64 (e.1 + e.2 * 2 ^ 8 + (if e.2 = 0 then 2 ^ 16 else 0) + (if 4 ≤ e.1 then b.linksDown.toNat * 2 ^ 20 else 0))

/-- Measurement blocks taken when bring-up has come to a step: 1 and 2 at step 1, 3 to 7 at step 2, 8 at step 6. -/
def blocksTaken (stored : W32) (b : BootOutcome) : Nat :=
  let e := bootEnd stored b
  if e.1 = 1 then (if e.2 = 0 then 2 else 0) else if e.1 = 2 then 2 else if e.1 < 6 ∨ e.2 = 6 then 7 else 8

/-- Cold reset and bring-up: memory keeps its bytes under keys that are gone, the flash keeps its version, and everything else
begins anew. -/
def coldReset (b : BootOutcome) (s : State) : State :=
  let stored := s.boot.version
  let ok := manifestOk stored b
  let cap := b.powerCap.toNat
  { State.reset with
    cur := s.cur, agenda := s.agenda, free := s.free + 1, mem := s.mem, lineKey := s.lineKey, badLines := s.badLines
    vfs := Tab.set (s.vfs.map (fun e => (e.1, { Vf.reset with keyLoads := e.2.keyLoads + 1 }))) 0
      { Vf.reset with keyLoads := (vfAt s 0).keyLoads + 1 }
    platform := { Platform.reset with pwrcap := if ok && decide (600 ≤ cap) && decide (cap ≤ 2400) then BitVec.ofNat 64 cap else 2400 }
    boot := { bootstat := bootStatus stored b, svccnt := [], version := if ok then b.version else stored
              digests := b.digests.take (blocksTaken stored b)
              dieKeys := if 2 ≤ (bootEnd stored b).1 && b.keysOk && b.dieKeys.length == 5 then b.dieKeys else []
              vfCount := if ok then min Config.maxVf b.vfCount.toNat else 0
              pcieIds := if ok then b.pcieIds else 0 } }

/-- POWER_ON. -/
def execPowerOn (boot : BootOutcome) (s : State) : Out := .next (coldReset boot s)

/-- PF_FLR: a cold reset of the package (R463). -/
def execPfFlr (boot : BootOutcome) (s : State) : Out := .next (coldReset boot s)

/-! ## The reset of a held die (R469) -/

/-- A launch has a group on a die. -/
def onDie (s : State) (die lid : Nat) : Bool := s.groups.any (fun g => g.2.st != .vacant && g.2.launch == lid && dieOf g.1 == die)

/-- A queue whose command was ended needs QUEUE_RESET. -/
def spoilQueue (v q : Nat) (s : State) : State :=
  modVf v (fun x => { x with deviceStatus := x.deviceStatus ||| 0x40 })
    (modQueue v q (fun x => { x with status := x.status ||| 1 }) s)

/-- A command is ended without its used element. -/
def endCmd (v id : Nat) (s : State) : State :=
  match Tab.find (vfAt s v).cmds id with
  | none => s
  | some c => spoilQueue v c.queue (modVf v (fun x => { x with cmds := Tab.del x.cmds id }) s)

/-- A launch of the die is ended with its command. -/
def endOnDie (lid : Nat) (l : Launch) (s : State) : State :=
  killLaunch lid (match l.cmd with
    | some id => endCmd l.vf id s
    | none => s)

/-- What the reset of the hub clears beside (log 46): the calls that it has accepted, the demand faults in service, whose accesses walk
again, and the Binder, whose next boundary lies ahead. -/
def resetHub (s : State) : State :=
  let s1 := s.vfs.foldl (fun (u : State) (v : Nat × Vf) => v.2.faults.foldl (fun u f => retryFault v.1 f u) u) s
  { s1 with syscs := [], binder := { Binder.reset with lastBoundary := some s.time } }

/-- The reset of a die: its launches, its engines, its caches and its cores. Its queues and its trace block stay. -/
def resetDie (die : Nat) (s0 : State) : State :=
  let s := if die = 4 then resetHub s0 else s0
  let ls := s.launches.filter (fun e => onDie s die e.1)
  let s1 := ls.foldl (fun (u : State) (e : Nat × Launch) => endOnDie e.1 e.2 u) s
  let s2 := dropFirings die (fun _ => true) s1
  let s3 := (s2.copies.filter (fun c => c.2.die == die)).foldl (fun (u : State) (c : Nat × Copy) =>
    let u1 : State := { u with copies := Tab.del u.copies c.1 }
    match c.2.cmd with
    | some (v, id) => endCmd v id u1
    | none => u1) s2
  wakeHeld <| modDie die (fun d => { d with held := false, heldCause := 0, lastFire := none, colls := [], tlb := [], walks := [] })
    { s3 with
      returns := s3.returns.filter (fun r => dieOf r.2.q != die)
      cores := s3.cores.map (fun c => (c.1, if c.1 / 64 = die then { Core.reset with seq := { Sequencer.reset with serial := c.2.seq.serial } } else c.2)) }

/-- DIE_RESET: a DIECMD for a die that is not held is ignored. -/
def execDieReset (die : Nat) (s : State) : Out := .next (if decide (die ≤ 4) && (dieAt s die).held then resetDie die s else s)

/-! ## The VF register block (14 R341 to R344) -/

/-- A write to a register of the selected queue. -/
def queueStore (vf : Nat) (f : VQueue → VQueue) (s : State) : State :=
  match selected s vf with
  | some q => modQueue vf q f s
  | none => s

/-- A register that a queue keeps while it is enabled. -/
def VQueue.whileOff (f : VQueue → VQueue) (x : VQueue) : VQueue := if x.enable = 1 then x else f x

/-- Registers that the PF alone writes, through its image of the block. -/
def scopeStore (vf off n : Nat) (s : State) : State :=
  modVf vf (fun v =>
    if off = 0x044 then { v with scopePolicy := BitVec.ofNat 32 (n % 2) }
    else if n = 0 ∨ 65535 < n then v
    else if off = 0x048 then { v with wakeRate := BitVec.ofNat 32 n }
    else { v with wakeBurst := BitVec.ofNat 32 n }) s

/-- The outcome of a host write that another event describes; one that has no occasion has no effect. -/
def orStay (o : Out) (s : State) : State :=
  match o with
  | .next t => t
  | _ => s

/-- A write of a register of the VF register block, each at its own width, 64-bit registers also by halves. A write of 0 to DEVICE_STATUS
stores 0 and resets no queue (DESIGN CHOICE, log 72: R341 does not say). -/
def vfRegStore (vf : Nat) (byPf : Bool) (off bytes : Nat) (value : W64) (s : State) : State :=
  let n := value.toNat % 2 ^ (8 * bytes)
  let half (base : Nat) : Bool := regAligned off bytes && off / 8 * 8 == base
  if half 0x008 then modVf vf (fun v => { v with driverFeature := regMerge v.driverFeature off bytes n }) s
  else if half 0x028 then queueStore vf (VQueue.whileOff (fun x => { x with desc := regMerge x.desc off bytes n })) s
  else if half 0x030 then queueStore vf (VQueue.whileOff (fun x => { x with driver := regMerge x.driver off bytes n })) s
  else if half 0x038 then queueStore vf (VQueue.whileOff (fun x => { x with device := regMerge x.device off bytes n })) s
  else match off, bytes with
    | 0x010, 1 =>
      if n / 8 % 2 = 1 then orStay (execFeaturesOk vf (BitVec.ofNat 8 n) s) s
      else modVf vf (fun v => { v with deviceStatus := (BitVec.ofNat 8 n &&& ~~~(0x40 : Byte)) ||| (v.deviceStatus &&& 0x40) }) s
    | 0x018, 2 => modVf vf (fun v => { v with queueSelect := BitVec.ofNat 16 n }) s
    | 0x01C, 2 => queueStore vf (VQueue.whileOff (fun x => { x with size := BitVec.ofNat 16 n })) s
    | 0x020, 2 => if n = 1 then orStay (execQueueEnable vf s) s else s
    | 0x022, 2 => if n = 1 then orStay (execQueueReset vf s) s else s
    | 0x024, 2 => queueStore vf (fun x => { x with msix := BitVec.ofNat 16 n }) s
    | 0x040, 4 => if n / 2 % 2 = 1 then queueStore vf (fun x => { x with status := x.status &&& ~~~(2 : W32) }) s else s
    | 0x044, 4 | 0x048, 4 | 0x04C, 4 => if byPf then pfWrite vf (scopeStore vf off n) s else s
    | _, _ => s

/-! ## The context block (17 R383) -/

/-- A write to a register of a context block, CCMD apart. -/
def Context.store (c : Context) (off bytes n : Nat) : Context :=
  let pages (old : W64) : W64 :=
    let v := regMerge old off bytes n
    if v.toNat % 4096 = 0 then v else old
  match off / 8 * 8 with
  | 0x00 => { c with cctl := regMerge c.cctl off bytes n &&& 3 }
  | 0x08 => { c with slice := regMerge c.slice off bytes n }
  | 0x10 => { c with sarea := pages c.sarea }
  | 0x18 => { c with sasize := pages c.sasize }
  | _ => c

/-- A write to CCMD. -/
def ctxCommand (vf n : Nat) (s : State) : State :=
  match n with
  | 1 => orStay (execPreempt vf s) s
  | 2 => orStay (execRestore vf s) s
  | 3 => orStay (execResumeSave vf s) s
  | 4 => orStay (execDiscard vf s) s
  | 5 => orStay (execExportImage vf s) s
  | _ => s

/-- A write among the context blocks and the device-wide key registers after them; `a` is its offset from the first block. -/
def ctxStore (a bytes n : Nat) (s : State) : State :=
  if 0x8050 ≤ a ∧ a < 0x8060 then
    let k := 8 * (a - 0x8050)
    let old := s.tkey.toNat
    { s with tkey := BitVec.ofNat 128 (old - old / 2 ^ k % 2 ^ (8 * bytes) * 2 ^ k + n * 2 ^ k) }
  else if 0x8040 ≤ a then s
  else if a % 0x40 = 0x20 then ctxCommand (a / 0x40) n s
  else pfWrite (a / 0x40) (modCtx (a / 0x40) (fun c => c.store (a % 0x40) bytes n)) s

/-! ## Register writes (00 R7) -/

/-- A write to the bring-up block (22 R468). A count of services above 5 leaves SVCCNT as it is. -/
def bootStore (off bytes n : Nat) (s : State) : State :=
  if off / 8 * 8 = 0x010 then
    (if off % 8 ≠ 0 then s
     else match n / 2 ^ 8 % 4 with
       | 1 => orStay (execDieRelease (n % 8) s) s
       | 2 => orStay (execDieReset (n % 8) s) s
       | _ => s)
  else if 0x100 ≤ off ∧ off < 0x100 + 8 * 513 then
    let v := (off - 0x100) / 8
    let w := (regMerge (Tab.get 0 s.boot.svccnt v) off bytes n).toNat % 256
    if 5 < w then s else { s with boot := { s.boot with svccnt := Tab.set s.boot.svccnt v (BitVec.ofNat 64 w) } }
  else s

/-- A write to a debug context, by the function or through the PF's image of it. -/
def dbgStore (vf : Nat) (byPf : Bool) (off bytes n : Nat) (s : State) : State :=
  if byPf && (off / 8 * 8 == 0x000 || off / 8 * 8 == 0x020) then pfWrite vf (debugStore vf off bytes n) s
  else debugStore vf off bytes n s

/-- A write to a block of registers. -/
def blockStore (b : RegBlock) (off bytes : Nat) (value : W64) (s : State) : State :=
  let n := value.toNat % 2 ^ (8 * bytes)
  match b with
  | .vfRegs vf byPf => if decide (512 < vf) || (!byPf && !vfOn s vf) then s else vfRegStore vf byPf off bytes value s
  | .bringUp => if regAligned off bytes then bootStore off bytes n s else s
  | .binder => if regAligned off bytes then binderStore off bytes n s else s
  | .context vf => if regAligned off bytes && decide (vf ≤ 512) then ctxStore (0x40 * vf + off) bytes n s else s
  | .debug vf byPf =>
    if regAligned off bytes && decide (vf ≤ 512) && (byPf || vfOn s vf) then dbgStore vf byPf off bytes n s else s
  | .trace die => if regAligned off bytes && decide (die < 4) then modTrace die (fun t => t.store off bytes n) s else s
  | .config _ | .traceBuf _ | .certificate _ => s
  | .platform =>
    if !regAligned off bytes then s
    else if 0x800 ≤ off ∧ off < 0x800 + 8 * 513 then pfWrite ((off - 0x800) / 8) (platformStore off bytes n) s
    else platformStore off bytes n s

/-! ## Register reads (00 R7) -/

/-- A register of the VF register block (14 R341) by its offset, and the high half of a 64-bit one by its own. With no queue selected
the queue registers read 0. -/
def vfRegLoad (s : State) (vf off : Nat) : Nat :=
  let v := vfAt s vf
  let half (r : W64) : Nat := r.toNat / 2 ^ (8 * (off % 8))
  let ofQueue (f : Nat → VQueue → Nat) : Nat := match selected s vf with
    | some q => f q (queueAt s vf q)
    | none => 0
  match off with
  | 0x000 | 0x004 => half deviceFeature
  | 0x008 | 0x00C => half v.driverFeature
  | 0x010 => v.deviceStatus.toNat
  | 0x014 => 64
  | 0x018 => v.queueSelect.toNat
  | 0x01C => ofQueue (fun _ x => x.size.toNat)
  | 0x020 => ofQueue (fun _ x => x.enable.toNat)
  | 0x022 => ofQueue (fun _ x => x.resetting.toNat)
  | 0x024 => ofQueue (fun _ x => x.msix.toNat)
  | 0x026 => ofQueue (fun q _ => q)
  | 0x028 | 0x02C => ofQueue (fun _ x => half x.desc)
  | 0x030 | 0x034 => ofQueue (fun _ x => half x.driver)
  | 0x038 | 0x03C => ofQueue (fun _ x => half x.device)
  | 0x040 => ofQueue (fun _ x => x.status.toNat)
  | 0x044 => v.scopePolicy.toNat
  | 0x048 => v.wakeRate.toNat
  | 0x04C => v.wakeBurst.toNat
  | _ => 0

/-- The code of STATE in CSTAT (17 R383). -/
def ctxStateCode : CtxState → Nat
  | .running => 0
  | .saving => 1
  | .frozen => 2
  | .saved => 3
  | .restoring => 4

/-- A register among the context blocks and the key registers after them (17 R383); `a` is its offset from the first block. -/
def ctxLoad (s : State) (a : Nat) : Nat :=
  if 0x8040 ≤ a ∧ a < 0x8050 then Config.deviceKey.toNat / 2 ^ (8 * (a - 0x8040)) % 2 ^ 64
  else if 0x8050 ≤ a ∧ a < 0x8060 then s.tkey.toNat / 2 ^ (8 * (a - 0x8050)) % 2 ^ 64
  else if 0x8040 ≤ a then 0
  else
    let c := ctxAt s (a / 0x40)
    match a % 0x40 with
    | 0x00 => c.cctl.toNat
    | 0x08 => c.slice.toNat
    | 0x10 => c.sarea.toNat
    | 0x18 => c.sasize.toNat
    | 0x28 => ctxStateCode c.st + c.err.toNat * 2 ^ 8 + c.cause.toNat * 2 ^ 16
    | 0x30 => c.fgpa.toNat
    | _ => 0

/-- A register of the bring-up block (22 R468). -/
def bootLoad (s : State) (off : Nat) : Nat :=
  if off = 0x000 then s.boot.bootstat.toNat
  else if off = 0x008 then (heldStat s).toNat
  else if 0x100 ≤ off ∧ off < 0x100 + 8 * 513 then (Tab.get 0 s.boot.svccnt ((off - 0x100) / 8)).toNat
  else 0

/-- A register of configuration space: the PCIe identifiers of the manifest at its start (22 R466; log 66). The rest of it is the host
link's, and free. -/
def configLoad (s : State) (fn off : Nat) : Nat :=
  if off = 0 then s.boot.pcieIds.toNat else (Config.freeW64 s.free (700000 + 4096 * fn + off)).toNat

/-- A word of the chain of a certificate slot: the key at its end by its twelve words, the lowest first; the other bytes of the chain are
free (22 R464, log 66). -/
def certLoad (s : State) (slot off : Nat) : Nat :=
  if off < 96 then ((certKey s slot).map (fun k => k.toNat / 2 ^ (8 * off) % 2 ^ 64)).getD 0
  else (Config.freeW64 s.free (800000 + 65536 * slot + off)).toNat

/-- What a read at the offset of a register answers, and the state after it: a register that a read clears is cleared. -/
def blockReg (b : RegBlock) (off : Nat) (s : State) : Nat × State :=
  match b with
  | .vfRegs vf byPf => (if decide (512 < vf) || (!byPf && !vfOn s vf) then 0 else vfRegLoad s vf off, s)
  | .bringUp => (bootLoad s off, s)
  | .binder => (if off % 8 = 0 then binderLoad off 8 s else if off % 8 = 4 then binderLoad off 4 s else 0, s)
  | .context vf => (if vf ≤ 512 then ctxLoad s (0x40 * vf + off) else 0, s)
  | .debug vf byPf => if decide (vf ≤ 512) && (byPf || vfOn s vf) && off % 8 = 0 then debugLoad vf off 8 s else (0, s)
  | .trace die => (if die < 4 then ((dieAt s die).trace.reg off).toNat else 0, s)
  | .platform =>
    ((platformReg s off).toNat,
     if off = 0x030 then modPlatform (fun p => { p with droops := 0 }) s
     else if off = 0x038 then modPlatform (fun p => { p with pdrop := 0 }) s else s)
  | .config fn => (configLoad s fn off, s)
  | .certificate slot => (certLoad s slot off, s)
  | .traceBuf die =>
    (if die < 4 ∧ off < 32 * Config.traceRecords then
       (Tab.get 0 (dieAt s die).trace.buf (off / 32)).toNat / 2 ^ (64 * (off / 8 % 4)) % 2 ^ 64 else 0, s)

/-- The registers of a block all have 64 bits. -/
def wideBlock : RegBlock → Bool
  | .vfRegs _ _ | .config _ | .binder | .certificate _ => false
  | _ => true

/-- What a read of a block answers. At 4 beyond the offset of a 64-bit register it is the high half. -/
def blockLoad (b : RegBlock) (off : Nat) (s : State) : Nat × State :=
  if wideBlock b && off % 8 == 4 then
    let r := blockReg b (off - 4) s
    (r.1 / 2 ^ 32 % 2 ^ 32, r.2)
  else blockReg b off s

/-- A configuration read of a VF whose reset is pending is answered with Request Retry Status (22 R463); a certificate slot without a
key, because it is not provisioned or no die has derived one yet, has no chain to answer with (22 R464). -/
def noAnswer (b : RegBlock) (s : State) : Bool :=
  match b with
  | .config fn => fn != 0 && (vfAt s fn).resetPending
  | .certificate slot => (certKey s slot).isNone
  | _ => false

/-- A block that is there: until READY the configuration space of the PF, through which SPDM answers too, and the bring-up block alone
(22 R464, R467). -/
def blockThere (b : RegBlock) (s : State) : Bool :=
  b == .bringUp || b == .config 0 || bootReady s || (match b with
    | .certificate _ => true
    | _ => false)

/-- The host reads a register. Its value stands in `reply`, which is empty where there is no answer (log 65). -/
def hostRead (b : RegBlock) (off : Nat) (s : State) : State :=
  if noAnswer b s then { s with reply := [] }
  else
    let r := blockLoad b off s
    { r.2 with reply := [BitVec.ofNat 64 r.1] }

/-- REGISTER_WRITE: a write of `bytes` bytes; one of no bytes stands for the host's read of the register (log 65). -/
def execRegisterWrite (block : RegBlock) (off bytes : Nat) (value : BitVec 64) (s : State) : Out :=
  .next (if !blockThere block s then s
         else if bytes = 0 then hostRead block off s else blockStore block off bytes value s)

end Sys2Proof.Machine
end

