-- ==== Sys2Proof/Machine/Queues.lean ====
section
/-!
DEFINITION. Task and expert queues, major 0x2F: capabilities and members (10 R305, R306; 11 R315 to R321; 14 R362).
-/
namespace Sys2Proof.Machine

/-! ## Capabilities (10 R305, R306, 11 R317, 14 R362) -/

def capIndex (h : W64) : Nat := h.toNat % 2 ^ 16
def capDie (h : W64) : Nat := h.toNat / 2 ^ 16 % 16
def capRights (h : W64) : Nat := h.toNat / 2 ^ 20 % 8
def capVf (h : W64) : Nat := h.toNat / 2 ^ 23 % 512
def capGen (h : W64) : BitVec 16 := BitVec.ofNat 16 (h.toNat / 2 ^ 32)

/-- The function that a handle names to the executing group. The field has 9 bits: function 512 reads as itself the 0 that its own
handles hold (log 52). -/
def capOwner (s : State) (h : W64) : Nat := if s.me.vf % 512 = capVf h then s.me.vf else capVf h

/-- A grant admits a caller to a handle for a right. -/
def granted (s : State) (h : W64) (caller right : Nat) : Bool :=
  s.grants.any (fun e =>
    let g := e.2.toNat
    g % 2 == 1 && g / 2 ^ 7 % 2 ^ 16 == capIndex h && g / 2 ^ 23 % 16 == capDie h && g / 2 ^ 27 % 8 / 2 ^ right % 2 == 1
      && g / 2 ^ 30 % 2 ^ 9 == capVf h && g / 2 ^ 39 % 2 ^ 9 == caller && g / 2 ^ 48 % 2 ^ 16 == (capGen h).toNat)

/-- What a member needs of a handle: right 0 enqueue, 1 dequeue, 2 steal; an expert table; or a queue of waves. -/
structure CapNeed where
  right : Nat
  table : Bool
  wave : Bool
deriving DecidableEq, Repr

/-- The generation, EN and WAVE of what a handle names on its die; none where it names no queue. -/
def capTarget (s : State) (h : W64) : Option (BitVec 16 × Bool × Bool) :=
  if 4 ≤ capDie h then none
  else if capIndex h = 0xFFFF then (Tab.find (dieAt s (capDie h)).expertGen (capOwner s h)).map (fun g => (g, true, false))
  else (taskQueue s (capDie h) (capOwner s h) (capIndex h)).map (fun q => (q.gen, q.enabled && tqEn q.desc, tqWave q.desc))

/-- The reason for which the capability check fails, if it does. A stale generation is told before EN = 0. -/
def capReason (s : State) (h : W64) (n : CapNeed) : Option Nat :=
  if h.toNat / 2 ^ 48 ≠ 0 then some 1
  else match capTarget s h with
    | none => some 2
    | some (gen, en, wave) =>
      if gen ≠ capGen h then some 3
      else if !en then some 2
      else if capRights h / 2 ^ n.right % 2 = 0 then some 4
      else if capOwner s h ≠ s.me.vf ∧ !granted s h s.me.vf n.right then some 5
      else if (capIndex h == 0xFFFF) != n.table || (!n.table && wave != n.wave) then some 6
      else none

/-- The CAP trap: P7 := 0 first. -/
def capTrap (s : State) (h : W64) (reason : Nat) : Res :=
  .trap (modMe (Group.writePraw 7 0) s) tCap (capIndex h + capDie h * 2 ^ 16 + reason * 2 ^ 20)

/-- The frame of a member: its uses, the capability check and the body. -/
def queueWord (word : W32) (uses : List Use) (sh : Nat) (n : CapNeed) (pre : State → Option Res) (s : State)
    (body : W64 → State → List VReg → Res) : Out :=
  wordW word (.ss sh false 1 :: uses) s (fun s src =>
    let h := s.me.readS sh
    match pre s with
    | some r => r
    | none =>
      match capReason s h n with
      | some r => capTrap s h r
      | none => body h s src)

/-- The acting live slots in ascending order (R318). -/
def actingSlots (g : Group) : List Nat := (List.range 32).filter (fun k => g.actLive.getLsbD k)

/-- The 64-bit operand of a slot: high word, low word. -/
def pairOf (lo hi : VReg) (k : Nat) : Nat := (hi.lane k).toNat * 2 ^ 32 + (lo.lane k).toNat

/-- Perform one step for each acting live slot in ascending order; P7 becomes the mask of those that succeed. -/
def eachSlot (step : Nat → State → Option State) (s : State) : State :=
  let r := (actingSlots s.me).foldl (fun (a : Nat × State) k => match step k a.2 with
    | some t => (a.1 + 2 ^ k, t)
    | none => a) (0, s)
  modMe (Group.writePraw 7 (BitVec.ofNat 32 r.1)) r.2

/-! ## Task queues (R316, R318, R319) -/

/-- The queue has room. -/
def queueRoom (s : State) (h : W64) : Bool :=
  match taskQueue s (capDie h) (capOwner s h) (capIndex h) with
  | some q => decide (q.entries.length < tqCap q.desc)
  | none => false

/-- The checks of TSPAWN's record addresses: alignment, then canonical form (R226). -/
def spawnCheck (s : State) (addrs : List (Nat × Nat)) : Option Res :=
  match addrs.find? (fun a => a.2 % 64 != 0) with
  | some a => some (.trap s tAlign (accessInfo false false a.1 a.2 6))
  | none =>
    match addrs.find? (fun a => decide (2 ^ 57 ≤ a.2)) with
    | some a => some (.trap s tPage (accessInfo false false a.1 a.2 2))
    | none => none

def execTspawn (o : OpQSpawn) (s : State) : Out :=
  let va := o.va.toNat
  queueWord (o.pack 0xBC000000) [.ss o.se.toNat false 2, .vs va false 1, .vs (va + 1) false 1] o.sh.toNat
    { right := 0, table := false, wave := true }
    (fun s =>
      let e := s.me.readS o.se.toNat
      if e.toNat % 4 ≠ 0 ∨ 2 ^ 57 ≤ e.toNat then some (badOperandW (o.pack 0xBC000000) o.se.toNat s) else none) s
    (fun h s src =>
      let e := s.me.readS o.se.toNat
      let addr := pairOf (src.getD 0 (.uniform 0)) (src.getD 1 (.uniform 0))
      match spawnCheck s ((actingSlots s.me).map (fun k => (k, addr k))) with
      | some r => r
      | none =>
        .done (eachSlot (fun k u => if queueRoom u h then
          some (pushTask (capDie h) (capOwner s h) (capIndex h) e (BitVec.ofNat 64 (addr k)) u) else none) s) .seq)

/-- Push a value (R318). -/
def pushValue (h : W64) (v : W64) (s : State) : Option State :=
  if queueRoom s h then
    some (captureFree (capDie h) 3 (capOwner s h) (cgidOf s.qid s.me) <| modQueueOf (capDie h) (capOwner s h) (capIndex h) (fun q => { q with
      entries := q.entries ++ [{ entry := 0, value := v, number := q.nextTask }], nextTask := q.nextTask + 1 }) s)
  else none

def execQpush (o : OpQV) (s : State) : Out :=
  let va := o.va.toNat
  queueWord (o.pack 0xBC800000) [.vs va false 1, .vs (va + 1) false 1] o.sh.toNat
    { right := 0, table := false, wave := false } (fun _ => none) s
    (fun h s src =>
      let val := pairOf (src.getD 0 (.uniform 0)) (src.getD 1 (.uniform 0))
      .done (eachSlot (fun k u => pushValue h (BitVec.ofNat 64 (val k)) u) s) .seq)

/-- Take the oldest entry of a queue, or its newest. -/
def takeEntry (h : W64) (tail : Bool) (s : State) : Option (Task × State) :=
  match taskQueue s (capDie h) (capOwner s h) (capIndex h) with
  | none => none
  | some q =>
    let drop (es : List Task) : State := captureFree (capDie h) 3 (capOwner s h) (cgidOf s.qid s.me)
      (modQueueOf (capDie h) (capOwner s h) (capIndex h) (fun q => { q with entries := es }) s)
    if tail then (q.entries.getLast?).map (fun t => (t, drop q.entries.dropLast))
    else q.entries.head?.map (fun t => (t, drop q.entries.tail))

/-- Take an entry for each acting live slot: the mask of those that succeed, the entries by slot, and the state. -/
def takeEach (h : W64) (tail : Bool) : List Nat → State → Nat × List (Nat × Task) × State
  | [], s => (0, [], s)
  | k :: ks, s =>
    match takeEntry h tail s with
    | some (v, t) =>
      let r := takeEach h tail ks t
      (2 ^ k + r.1, (k, v) :: r.2.1, r.2.2)
    | none => takeEach h tail ks s

/-- The TINFO that a reader of popped data takes where an entry of it is uncorrectable: that of its lowest slot; the data has no
address (19 R414). -/
def poppedBad (ts : List (Nat × Task)) : Option W64 :=
  ts.findSome? (fun p => p.2.bad.map (fun d => BitVec.ofNat 64 (accessInfo false false p.1 0 d)))

/-- Where popped values go: registers are empty until the return; a write port takes its vector at once. -/
def popReturn (mask : W32) (cover : Bool) (bad : Option W64) (outs : List (Nat × List W32)) (s : State) : State :=
  let regs := outs.filter (fun o => decide (o.1 < 112))
  let s1 := (outs.filter (fun o => decide (112 ≤ o.1))).foldl (fun u o => modMe (fun g => g.pushPort o.1 o.2 mask) u) s
  if regs.isEmpty then s1
  else modMe (fun g => regs.foldl (fun g o => g.emptyV o.1) g)
    (addReturn (regs.map (fun o => .vector o.1 mask cover o.2 bad)) none s1)

/-- QPOP and QSTEAL: P7 at once; both registers empty at issue and full at the return (R318). -/
def popWord (word : W32) (o : OpQV) (tail : Bool) (s : State) : Out :=
  let va := o.va.toNat
  queueWord word [.vda va, .vda (va + 1)] o.sh.toNat
    { right := if tail then 2 else 1, table := false, wave := false } (fun _ => none) s
    (fun h s _ =>
      let g := s.me
      let r := takeEach h tail (actingSlots g) s
      let mask : W32 := BitVec.ofNat 32 r.1
      let half (shift : Nat) : List W32 := (List.range 32).map (fun k =>
        BitVec.ofNat 32 (((r.2.1.find? (fun p => p.1 == k)).map (fun p => p.2.value.toNat)).getD 0 / 2 ^ shift))
      let s1 := memGenMe (modMe (Group.writePraw 7 mask) r.2.2)
      if g.actLive = 0 then .done s1 .seq
      else
        .done (popReturn mask g.covers (poppedBad r.2.1) [(va, half 0), (va + 1, half 32)] s1) .seq)

def execQpop (o : OpQV) (s : State) : Out := popWord (o.pack 0xBD000000) o false s
def execQsteal (o : OpQV) (s : State) : Out := popWord (o.pack 0xBD800000) o true s

/-! ## Expert queues (R318, R320) -/

def execEqpush (o : OpQV) (s : State) : Out :=
  let va := o.va.toNat
  queueWord (o.pack 0xBE000000) [.vs va false 1, .vs (va + 1) false 1, .vs (va + 2) false 1] o.sh.toNat
    { right := 0, table := true, wave := false } (fun _ => none) s
    (fun h s src =>
      let addr := pairOf (src.getD 1 (.uniform 0)) (src.getD 2 (.uniform 0))
      let lanes := (actingSlots s.me).map (fun k => (k, addr k))
      match lanes.find? (fun a => a.2 % 64 != 0) with
      | some a => .trap s tAlign (accessInfo false false a.1 a.2 6)
      | none =>
        match vecAccess s { size := 64, write := false, atomic := false, vector := true } true false lanes with
        | .error r => r
        | .ok (ps, s1) =>
          match (ps.filterMap (fun p => badInfo s1 p.1 (addr p.1) p.2)).head? with
          | some info => .trap s1 tDataErr info.toNat
          | none =>
            let rec' (k : Nat) : BitVec 512 := match ps.find? (fun p => p.1 == k) with
              | some p => BitVec.ofNat 512 (leNat (readParts s1 s1.me.vf p.2))
              | none => 0
            .done (let r := (actingSlots s.me).foldl (fun (a : Nat × State) k =>
                let e := ((src.getD 0 (.uniform 0)).lane k).toNat
                if 256 ≤ e then a
                else match pushRecord (capDie h) (capOwner s h) e (rec' k) a.2 with
                  | some t => (a.1 + 2 ^ k, fireBetween (capDie h) k t)
                  | none => (a.1, fireBetween (capDie h) k (reportSpill (capDie h) (capOwner s h) e a.2))) (0, s1)
              modMe (Group.writePraw 7 (BitVec.ofNat 32 r.1)) r.2) .seq)

def execEqfire (o : OpEqFire) (s : State) : Out :=
  queueWord (o.pack 0xBE800000) [.ss o.se.toNat false 2] o.sh.toNat { right := 0, table := true, wave := false }
    (fun _ => none) s
    (fun h s _ =>
      let e := (s.me.readS o.se.toNat).toNat
      let on := match expertAt s (capDie h) (capOwner s h) e with
        | some x => decide (e < 256) && x.enabled && decide (0 < x.fill)
        | none => false
      if on then
        .done (modMe (fun g => g.writePraw 7 g.liveMask)
          (modExpert (capDie h) (capOwner s h) e (fun x => { x with marked := true }) s)) .seq
      else .done (modMe (Group.writePraw 7 0) s) .seq)

end Sys2Proof.Machine
end

