-- ==== Sys2Proof/Machine/Scalar.lean ====
section
/-!
DEFINITION. Scalar arithmetic, majors 0x0C to 0x13 (05 R155 to R159).
-/
namespace Sys2Proof.Machine

/-- A binary member of SR format (R156, R157): sources by their T bits, a write to s0 discarded. -/
def scalar2 (i : Instr) (o : OpSR) (f : W64 → W64 → W64) (s : State) : Out :=
  wordG i [.ss o.sa.toNat o.ta 1, .ss o.sb.toNat o.tb 2, .sd o.sd.toNat] s (fun s _ =>
    .done (putS o.sd.toNat (f (s.me.readS o.sa.toNat) (s.me.readS o.sb.toNat)) s) .seq)

/-- A unary member of SR format (R157). -/
def scalar1 (i : Instr) (o : OpSR1) (f : W64 → W64) (s : State) : Out :=
  wordG i [.ss o.sa.toNat o.ta 1, .sd o.sd.toNat] s (fun s _ =>
    .done (putS o.sd.toNat (f (s.me.readS o.sa.toNat)) s) .seq)

/-- A member of SI format (R158): the immediate is sign-extended. -/
def scalarImm (i : Instr) (o : OpSI) (f : W64 → W64 → W64) (s : State) : Out :=
  wordG i [.ss o.sa.toNat false 1, .sd o.sd.toNat] s (fun s _ =>
    .done (putS o.sd.toNat (f (s.me.readS o.sa.toNat) (o.imm.signExtend 64)) s) .seq)

/-- A shift by an immediate amount (R158). -/
def scalarShift (i : Instr) (o : OpSh) (f : W64 → W64 → W64) (s : State) : Out :=
  wordG i [.ss o.sa.toNat false 1, .sd o.sd.toNat] s (fun s _ =>
    .done (putS o.sd.toNat (f (s.me.readS o.sa.toNat) (o.amt.zeroExtend 64)) s) .seq)

/-! ## The functions of R156 and R157 -/

/-- A shift or rotate amount is taken modulo 64 (R155). -/
def amount64 (b : W64) : Nat := b.toNat % 64

def opShl (a b : W64) : W64 := a <<< amount64 b
def opShr (a b : W64) : W64 := a >>> amount64 b
def opSar (a b : W64) : W64 := a.sshiftRight (amount64 b)
def opRol (a b : W64) : W64 := a.rotateLeft (amount64 b)
def opMin (a b : W64) : W64 := if a.toInt ≤ b.toInt then a else b
def opMax (a b : W64) : W64 := if a.toInt ≤ b.toInt then b else a
def opMinz (a b : W64) : W64 := if a.toNat ≤ b.toNat then a else b
def opMaxz (a b : W64) : W64 := if a.toNat ≤ b.toNat then b else a
def opSlt (a b : W64) : W64 := if a.toInt < b.toInt then 1 else 0
def opSltz (a b : W64) : W64 := if a.toNat < b.toNat then 1 else 0

def opMulh (a b : W64) : W64 := BitVec.ofInt 64 (a.toInt * b.toInt / 2 ^ 64)
def opMulhz (a b : W64) : W64 := BitVec.ofNat 64 (a.toNat * b.toNat / 2 ^ 64)

/-- Signed quotient (01 R27): all ones by zero, the minimum by −1 gives the minimum, else toward zero. -/
def opDiv (a b : W64) : W64 := if b = 0 then -1 else BitVec.ofInt 64 (Int.tdiv a.toInt b.toInt)
def opDivz (a b : W64) : W64 := if b = 0 then -1 else BitVec.ofNat 64 (a.toNat / b.toNat)
/-- Signed remainder (01 R27): the dividend by zero, else with the dividend's sign. -/
def opRem (a b : W64) : W64 := if b = 0 then a else BitVec.ofInt 64 (Int.tmod a.toInt b.toInt)
def opRemz (a b : W64) : W64 := if b = 0 then a else BitVec.ofNat 64 (a.toNat % b.toNat)

/-- Leading zero bits of the low n bits. -/
def clzFrom (a : W64) : Nat → Nat
  | 0 => 0
  | n + 1 => if a.getLsbD n then 0 else clzFrom a n + 1

/-- Trailing zero bits from bit k on, over n bits. -/
def ctzFrom (a : W64) : Nat → Nat → Nat
  | 0, _ => 0
  | n + 1, k => if a.getLsbD k then 0 else ctzFrom a n (k + 1) + 1

def opClz (a : W64) : W64 := BitVec.ofNat 64 (clzFrom a 64)
def opCtz (a : W64) : W64 := BitVec.ofNat 64 (ctzFrom a 64 0)
def opPopc (a : W64) : W64 :=
  BitVec.ofNat 64 ((List.range 64).foldl (fun n i => if a.getLsbD i then n + 1 else n) 0)
def opBrev (a : W64) : W64 :=
  BitVec.ofNat 64 ((List.range 64).foldl (fun n i => if a.getLsbD i then n + 2 ^ (63 - i) else n) 0)

/-- Sign-extend the low w bits. -/
def sext64 (w : Nat) (a : W64) : W64 := (a.setWidth w).signExtend 64

/-! ## Major 0x0C (R156) -/

def execAdd (o : OpSR) (s : State) : Out := scalar2 (.add o) o (fun a b => a + b) s
def execSub (o : OpSR) (s : State) : Out := scalar2 (.sub o) o (fun a b => a - b) s
def execAnd (o : OpSR) (s : State) : Out := scalar2 (.and o) o (fun a b => a &&& b) s
def execOr (o : OpSR) (s : State) : Out := scalar2 (.or o) o (fun a b => a ||| b) s
def execXor (o : OpSR) (s : State) : Out := scalar2 (.xor o) o (fun a b => a ^^^ b) s
def execAndn (o : OpSR) (s : State) : Out := scalar2 (.andn o) o (fun a b => a &&& ~~~b) s
def execShl (o : OpSR) (s : State) : Out := scalar2 (.shl o) o opShl s
def execShr (o : OpSR) (s : State) : Out := scalar2 (.shr o) o opShr s
def execSar (o : OpSR) (s : State) : Out := scalar2 (.sar o) o opSar s
def execRol (o : OpSR) (s : State) : Out := scalar2 (.rol o) o opRol s
def execMin (o : OpSR) (s : State) : Out := scalar2 (.min o) o opMin s
def execMax (o : OpSR) (s : State) : Out := scalar2 (.max o) o opMax s
def execMinz (o : OpSR) (s : State) : Out := scalar2 (.minz o) o opMinz s
def execMaxz (o : OpSR) (s : State) : Out := scalar2 (.maxz o) o opMaxz s
def execSlt (o : OpSR) (s : State) : Out := scalar2 (.slt o) o opSlt s
def execSltz (o : OpSR) (s : State) : Out := scalar2 (.sltz o) o opSltz s

/-! ## Major 0x0D (R157) -/

def execMul (o : OpSR) (s : State) : Out := scalar2 (.mul o) o (fun a b => a * b) s
def execMulh (o : OpSR) (s : State) : Out := scalar2 (.mulh o) o opMulh s
def execMulhz (o : OpSR) (s : State) : Out := scalar2 (.mulhz o) o opMulhz s
def execDiv (o : OpSR) (s : State) : Out := scalar2 (.div o) o opDiv s
def execDivz (o : OpSR) (s : State) : Out := scalar2 (.divz o) o opDivz s
def execRem (o : OpSR) (s : State) : Out := scalar2 (.rem o) o opRem s
def execRemz (o : OpSR) (s : State) : Out := scalar2 (.remz o) o opRemz s
def execClz (o : OpSR1) (s : State) : Out := scalar1 (.clz o) o opClz s
def execCtz (o : OpSR1) (s : State) : Out := scalar1 (.ctz o) o opCtz s
def execPopc (o : OpSR1) (s : State) : Out := scalar1 (.popc o) o opPopc s
def execBrev (o : OpSR1) (s : State) : Out := scalar1 (.brev o) o opBrev s
def execSextb (o : OpSR1) (s : State) : Out := scalar1 (.sextb o) o (sext64 8) s
def execSexth (o : OpSR1) (s : State) : Out := scalar1 (.sexth o) o (sext64 16) s
def execSextw (o : OpSR1) (s : State) : Out := scalar1 (.sextw o) o (sext64 32) s
def execZextw (o : OpSR1) (s : State) : Out := scalar1 (.zextw o) o (fun a => BitVec.ofNat 64 (a.toNat % 2 ^ 32)) s

/-! ## Majors 0x0E to 0x10 (R158) -/

def execAddi (o : OpSI) (s : State) : Out := scalarImm (.addi o) o (fun a i => a + i) s
def execSlti (o : OpSI) (s : State) : Out := scalarImm (.slti o) o opSlt s
def execSltiz (o : OpSI) (s : State) : Out := scalarImm (.sltiz o) o opSltz s
def execAndi (o : OpSI) (s : State) : Out := scalarImm (.andi o) o (fun a i => a &&& i) s
def execOri (o : OpSI) (s : State) : Out := scalarImm (.ori o) o (fun a i => a ||| i) s
def execXori (o : OpSI) (s : State) : Out := scalarImm (.xori o) o (fun a i => a ^^^ i) s
def execShli (o : OpSh) (s : State) : Out := scalarShift (.shli o) o opShl s
def execShri (o : OpSh) (s : State) : Out := scalarShift (.shri o) o opShr s
def execSari (o : OpSh) (s : State) : Out := scalarShift (.sari o) o opSar s
def execRoli (o : OpSh) (s : State) : Out := scalarShift (.roli o) o opRol s

/-! ## Majors 0x11 to 0x13 (R159) -/

/-- sext64(IMM20) << 12. -/
def upper20 (imm : BitVec 20) : W64 := imm.signExtend 64 <<< 12

def execLis (o : OpSL) (s : State) : Out :=
  wordG (.lis o) [.sd o.sd.toNat] s (fun s _ => .done (putS o.sd.toNat (upper20 o.imm) s) .seq)

def execAddpc (o : OpSL) (s : State) : Out :=
  wordG (.addpc o) [.sd o.sd.toNat] s (fun s _ => .done (putS o.sd.toNat (s.me.pc + upper20 o.imm) s) .seq)

def execLihi (o : OpSL) (s : State) : Out :=
  wordG (.lihi o) [.ss o.sd.toNat false 1, .sd o.sd.toNat] s (fun s _ =>
    .done (putS o.sd.toNat ((s.me.readS o.sd.toNat <<< 20) ||| o.imm.zeroExtend 64) s) .seq)

end Sys2Proof.Machine
end

