-- ==== Sys2Proof/Machine/ScalarMem.lean ====
section
/-!
DEFINITION. Scalar loads and stores, majors 0x14, 0x15 and 0x17 (09 R246 to R250, R258), with the BTE aperture (09 R273, R274) and
the privileged MMIO (08 R216, R218; 15 R364; 19 R420, R434).
-/
namespace Sys2Proof.Machine

/-! ## Privileged MMIO (08 R216) -/

/-- The counters at +0x2_0000: the counter of an offset, and whether the offset lies in its configuration (19 R434). -/
def pmcIndex (off : Nat) : Nat := (off - 0x20000) / 16
def pmcIsCfg (off : Nat) : Bool := decide (8 ≤ off % 16)

/-- A load of the MMIO: the Binder block, the mirror of the VF's own debug context, or the counters of the core. -/
def mmioLoad (off size : Nat) (s : State) : Nat × State :=
  if off < 0x10000 then (binderLoad off size s, s)
  else if off < 0x20000 then debugLoad s.me.vf (off - 0x10000) size s
  else if 16 ≤ pmcIndex off then (0, s)
  else
    let v := if pmcIsCfg off then pmccfgView s (coreOf s.qid) (pmcIndex off) s.me.vf true
      else pmcView s (coreOf s.qid) (pmcIndex off) s.me.vf true
    (regPart v off size, s)

/-- A store to a counter; none for an EVENT that is reserved (19 R435). -/
def pmcStore (off size value : Nat) (s : State) : Option State :=
  let c := coreOf s.qid
  let i := pmcIndex off
  if 16 ≤ i then some s
  else if pmcIsCfg off then
    let v := regMerge ((Tab.get 0 (coreAt s c).pmccfg i) &&& ~~~(BitVec.ofNat 64 (2 ^ 48))) off size value
    if eventReserved v then none else some (pmccfgWrite c i s.me.vf true v s)
  else some (pmcWrite c i (regMerge (Tab.get 0 (coreAt s c).pmc i) off size value) s)

/-- A store to the MMIO; none for a value that the block refuses. -/
def mmioStore (off size value : Nat) (s : State) : Option State :=
  if off < 0x10000 then some (binderStore off size value s)
  else if off < 0x20000 then some (debugStore s.me.vf (off - 0x10000) size value s)
  else pmcStore off size value s

/-! ## Loads -/

/-- A value of `size` bytes extended to 64 bits. -/
def extendScalar (size : Nat) (signed : Bool) (n : Nat) : W64 :=
  if signed && decide (2 ^ (8 * size - 1) ≤ n) then BitVec.ofNat 64 (n + 2 ^ 64 - 2 ^ (8 * size)) else BitVec.ofNat 64 n

/-- The address is of the BTE aperture or the privileged MMIO: its loads are never eligible for reuse (02 R64). -/
def deviceAddr (va : Nat) : Bool := decide (localBase + 0x200000000 ≤ va)

/-- What a scalar load finds where its address leads: value, bad data, and the state after it; none for a misuse of the aperture. -/
def scalarFind (size : Nat) (signed ordered : Bool) (va : Nat) (p : LanePlace) (s : State) : Option (W64 × Option W64 × State) :=
  match p with
  | .bytes ps _ => some (extendScalar size signed (leNat (readParts s s.me.vf ps)), badInfo s 0 va ps, s)
  | .aperture off =>
    if !ordered && size == 8 && off % 64 == 8 then
      some (BitVec.ofNat 64 (channelStatus s (coreOf s.qid) (off / 64) s.me.team), none, s)
    else none
  | .mmio off =>
    let r := mmioLoad off size s
    some (extendScalar size signed r.1, none, r.2)

/-- The performing part of a scalar load. An ordered one must be naturally aligned, and advances MEMGEN. -/
def scalarLoad (sd size : Nat) (signed ordered : Bool) (key : Option (List Nat)) (va : Nat) (s : State) : Res :=
  if ordered && va % size != 0 then .trap s tAlign (accessInfo false false 0 va (sizeLog size))
  else match access s { size := size, write := false, atomic := false, vector := false } true va with
    | .error r => r
    | .ok (p, s1) =>
      match scalarFind size signed ordered va p s1 with
      | none => .trap s1 tPerm (accessInfo false false 0 va 4)
      | some (v, bad, s2) =>
        let s3 := if ordered then memGenMe s2 else s2
        .done (modMe (Group.emptyS sd) (addReturn [.scalar sd v bad] key s3)) .seq

/-- The address of SM format, and that of SO (R246). -/
def smAddr (s : State) (o : OpSM) (size : Nat) : Nat :=
  (s.me.readS o.sa.toNat + o.off.signExtend 64 * BitVec.ofNat 64 size).toNat
def soAddr (s : State) (o : OpSO) (size : Nat) : Nat :=
  (s.me.readS o.sa.toNat + o.off.signExtend 64 * BitVec.ofNat 64 size).toNat

/-- The frame of a scalar load. `fn` is its function code, which with the offset enters its key. -/
def sldWord (i : Instr) (o : OpSM) (fn size : Nat) (signed : Bool) (s : State) : Out :=
  wordG i [.ss o.sa.toNat false 1, .sd o.sd.toNat] s (fun s _ =>
    let va := smAddr s o size
    let key := if deviceAddr va then none
      else loadKey s (2 ^ 20 + fn * 2048 + o.off.toNat) 0 (s.me.readS o.sa.toNat) []
    match loadHit s key (fun _ => true) with
    | some x => .done (countMe evReuse 1 (markS o.sd.toNat x.bad (putS o.sd.toNat x.scalar s))) .seq
    | none => scalarLoad o.sd.toNat size signed false key va s)

def execSldb (o : OpSM) (s : State) : Out := sldWord (.sldb o) o 0 1 true s
def execSldbz (o : OpSM) (s : State) : Out := sldWord (.sldbz o) o 1 1 false s
def execSldh (o : OpSM) (s : State) : Out := sldWord (.sldh o) o 2 2 true s
def execSldhz (o : OpSM) (s : State) : Out := sldWord (.sldhz o) o 3 2 false s
def execSldw (o : OpSM) (s : State) : Out := sldWord (.sldw o) o 4 4 true s
def execSldwz (o : OpSM) (s : State) : Out := sldWord (.sldwz o) o 5 4 false s
def execSldd (o : OpSM) (s : State) : Out := sldWord (.sldd o) o 6 8 false s

/-! ## Stores -/

/-- The performing part of a scalar store. `start` is the word that a START to a full channel waits with; a word that cannot be a
START has none. `word` and `sd` name the data operand where the MMIO refuses its value. -/
def scalarStore (word : W32) (sd size : Nat) (ordered : Bool) (start : Option OpSM) (va : Nat) (s : State) : Res :=
  if ordered && va % size != 0 then .trap s tAlign (accessInfo false true 0 va (sizeLog size))
  else match access s { size := size, write := true, atomic := false, vector := false } false va with
    | .error r => r
    | .ok (.bytes ps _, s1) => .done (memGenMe (writeParts s1.me.vf ps (leBytes size (s1.me.readS sd).toNat) s1)) .seq
    | .ok (.aperture off, s1) =>
      (match start with
        | some o =>
          if size = 8 ∧ off % 64 = 0 then
            (match startStore (off / 64) (s1.me.readS sd) s1 with
              | some s2 => .done (memGenMe s2) .seq
              | none => .wait s1 (.start o))
          else .trap s1 tPerm (accessInfo false true 0 va 4)
        | none => .trap s1 tPerm (accessInfo false true 0 va 4))
    | .ok (.mmio off, s1) =>
      match mmioStore off size ((s1.me.readS sd).toNat % 2 ^ (8 * size)) s1 with
      | some s2 => .done (memGenMe s2) .seq
      | none => badOperandW word sd s1

/-- A store of SM format. -/
def sstBody (word : W32) (o : OpSM) (size : Nat) (s : State) : Res :=
  scalarStore word o.sd.toNat size false (some o) (smAddr s o size) s

def sstWord (i : Instr) (o : OpSM) (size : Nat) (s : State) : Out :=
  wordG i [.ss o.sa.toNat false 1, .ss o.sd.toNat false 0] s (fun s _ => sstBody (encode i) o size s)

def execSstb (o : OpSM) (s : State) : Out := sstWord (.sstb o) o 1 s
def execSsth (o : OpSM) (s : State) : Out := sstWord (.ssth o) o 2 s
def execSstw (o : OpSM) (s : State) : Out := sstWord (.sstw o) o 4 s
def execSstd (o : OpSM) (s : State) : Out := sstWord (.sstd o) o 8 s

/-- BTE_START: a START that waits at issue finds room in its channel and in the lock table (09 R273, 08 R242). -/
def execBteStart (q : Nat) (s : State) : Out :=
  wakeWord "BTE_START" q s (fun b => match b with
    | .start o => some (sstBody (encode (.sstd o)) o 8)
    | _ => none)

/-! ## Ordered scalar accesses (R258) -/

def execSlda (o : OpSO) (s : State) : Out :=
  wordG (.slda o) [.ss o.sa.toNat false 1, .sd o.sd.toNat] s (fun s _ =>
    atScope o.scp.toNat false s (scalarLoad o.sd.toNat 8 false true none (soAddr s o 8) s))

def execSldaw (o : OpSO) (s : State) : Out :=
  wordG (.sldaw o) [.ss o.sa.toNat false 1, .sd o.sd.toNat] s (fun s _ =>
    atScope o.scp.toNat false s (scalarLoad o.sd.toNat 4 false true none (soAddr s o 4) s))

def execSstl (o : OpSO) (s : State) : Out :=
  wordG (.sstl o) [.ss o.sa.toNat false 1, .ss o.sd.toNat false 0] s (fun s _ =>
    atScope o.scp.toNat true s (scalarStore (encode (.sstl o)) o.sd.toNat 8 true none (soAddr s o 8) s))

def execSstlw (o : OpSO) (s : State) : Out :=
  wordG (.sstlw o) [.ss o.sa.toNat false 1, .ss o.sd.toNat false 0] s (fun s _ =>
    atScope o.scp.toNat true s (scalarStore (encode (.sstlw o)) o.sd.toNat 4 true none (soAddr s o 4) s))

end Sys2Proof.Machine
end

