-- ==== Sys2Proof/Machine/VecInt.lean ====
section
/-!
DEFINITION. Vector integer, bitwise and shift members, majors 0x18 to 0x1A (06 R166 to R168).
-/
namespace Sys2Proof.Machine

/-- A member of the integer view: every element by its exact value and the width rule (R166). -/
def intLane (m : W32) (sat : Bool) (f : View → List Int → Int) (xs : List W32) : W32 :=
  let v := intView (modeEt m)
  mapElems v.w (fun es => widthRule sat v.signed v.w (f v (es.map (intValue v.signed v.w)))) xs

/-- The frame of a VR word that acts lane by lane without flags. -/
def intVR (i : Instr) (o : OpVR) (acc : Bool) (mask : Nat) (shape : W32 → List VReg → Shape)
    (f : W32 → List W32 → W32) (s : State) : Out :=
  wordG i (usesVR o acc) s (fun s src =>
    let m := s.me.mode
    vecBody (vform o.vd.toNat (keyVR i) m (maskG ||| mask) false false) (usesVR o acc) (shape m)
      (s.me.vreg o.vd.toNat) (pureLane (f m)) s src)

/-- The frame of a VI word that acts lane by lane without flags. -/
def intVI (i : Instr) (o : OpVI) (mask : Nat) (shape : W32 → List VReg → Shape) (f : W32 → List W32 → W32) (s : State) : Out :=
  wordG i (usesVI o) s (fun s src =>
    let m := s.me.mode
    vecBody (vform o.vd.toNat (keyVI i) m (maskG ||| mask) false false) (usesVI o) (shape m)
      (s.me.vreg o.vd.toNat) (pureLane (f m)) s src)

/-- Shape of a member outside the affine rows of R50. -/
def shapeOther (_ : W32) (rs : List VReg) : Shape := shapeElem rs

def src2 (rs : List VReg) (f : VReg → VReg → Shape) : Shape := f (rs.getD 0 (.uniform 0)) (rs.getD 1 (.uniform 0))

def x0 (l : List Int) : Int := l.getD 0 0
def x1 (l : List Int) : Int := l.getD 1 0
def x2 (l : List Int) : Int := l.getD 2 0

/-! ## Major 0x18 (R166) -/

def execVadd (o : OpVR) (s : State) : Out :=
  intVR (.vadd o) o false (maskEt ||| maskSat) (fun m rs => src2 rs (shapeAdd (plainInt m) false))
    (fun m => intLane m (modeSat m) (fun _ x => x0 x + x1 x)) s
def execVsub (o : OpVR) (s : State) : Out :=
  intVR (.vsub o) o false (maskEt ||| maskSat) (fun m rs => src2 rs (shapeAdd (plainInt m) true))
    (fun m => intLane m (modeSat m) (fun _ x => x0 x - x1 x)) s
def execVmul (o : OpVR) (s : State) : Out :=
  intVR (.vmul o) o false (maskEt ||| maskSat) (fun m rs => src2 rs (shapeMul (plainInt m)))
    (fun m => intLane m (modeSat m) (fun _ x => x0 x * x1 x)) s
def execVmulh (o : OpVR) (s : State) : Out :=
  intVR (.vmulh o) o false maskEt shapeOther
    (fun m => intLane m false (fun v x => x0 x * x1 x / 2 ^ v.w)) s
def execVmad (o : OpVR) (s : State) : Out :=
  intVR (.vmad o) o true (maskEt ||| maskSat) shapeOther
    (fun m => intLane m (modeSat m) (fun _ x => x0 x * x1 x + x2 x)) s
def execVmin (o : OpVR) (s : State) : Out :=
  intVR (.vmin o) o false maskEt shapeOther (fun m => intLane m false (fun _ x => min (x0 x) (x1 x))) s
def execVmax (o : OpVR) (s : State) : Out :=
  intVR (.vmax o) o false maskEt shapeOther (fun m => intLane m false (fun _ x => max (x0 x) (x1 x))) s
def execVabsd (o : OpVR) (s : State) : Out :=
  intVR (.vabsd o) o false (maskEt ||| maskSat) shapeOther
    (fun m => intLane m (modeSat m) (fun _ x => ((x0 x - x1 x).natAbs : Int))) s

/-! ## Major 0x19 (R167) -/

def w0 (l : List W32) : W32 := l.getD 0 0
def w1 (l : List W32) : W32 := l.getD 1 0

/-- A shift of an element by an amount below its width. -/
def shlElem (w a k : Nat) : Nat := a * 2 ^ k % 2 ^ w
def shrElem (_ a k : Nat) : Nat := a / 2 ^ k
def sarElem (w a k : Nat) : Nat := intBits w (intValue true w a / 2 ^ k)
def rolElem (w a k : Nat) : Nat := (a * 2 ^ k + a / 2 ^ (w - k)) % 2 ^ w

/-- A shift member: the amount of element j is b_j mod w. -/
def shiftLane (m : W32) (f : Nat → Nat → Nat → Nat) (xs : List W32) : W32 :=
  let w := (intView (modeEt m)).w
  mapElems w (fun es => f w (es.getD 0 0) (es.getD 1 0 % w)) xs

/-- A shift member with an immediate amount (R168). -/
def shiftImmLane (m : W32) (amt : Nat) (f : Nat → Nat → Nat → Nat) (xs : List W32) : W32 :=
  let w := (intView (modeEt m)).w
  mapElems w (fun es => f w (es.getD 0 0) (amt % w)) xs

def execVand (o : OpVR) (s : State) : Out :=
  intVR (.vand o) o false 0 shapeOther (fun _ x => w0 x &&& w1 x) s
def execVor (o : OpVR) (s : State) : Out :=
  intVR (.vor o) o false 0 shapeOther (fun _ x => w0 x ||| w1 x) s
def execVxor (o : OpVR) (s : State) : Out :=
  intVR (.vxor o) o false 0 shapeOther (fun _ x => w0 x ^^^ w1 x) s
def execVandn (o : OpVR) (s : State) : Out :=
  intVR (.vandn o) o false 0 shapeOther (fun _ x => w0 x &&& ~~~(w1 x)) s
def execVshl (o : OpVR) (s : State) : Out :=
  intVR (.vshl o) o false maskEt shapeOther (fun m => shiftLane m shlElem) s
def execVshr (o : OpVR) (s : State) : Out :=
  intVR (.vshr o) o false maskEt shapeOther (fun m => shiftLane m shrElem) s
def execVsar (o : OpVR) (s : State) : Out :=
  intVR (.vsar o) o false maskEt shapeOther (fun m => shiftLane m sarElem) s
def execVrol (o : OpVR) (s : State) : Out :=
  intVR (.vrol o) o false maskEt shapeOther (fun m => shiftLane m rolElem) s

/-! ## Major 0x1A (R168) -/

/-- sext32(IMM8). -/
def imm32 (i : BitVec 8) : W32 := i.signExtend 32

/-- The source beside the immediate as a uniform value. -/
def srcImm (rs : List VReg) (b : W32) (f : VReg → VReg → Shape) : Shape := f (rs.getD 0 (.uniform 0)) (.uniform b)

def execVaddi (o : OpVI) (s : State) : Out :=
  intVI (.vaddi o) o (maskEt ||| maskSat) (fun m rs => srcImm rs (imm32 o.imm) (shapeAdd (plainInt m) false))
    (fun m => intLane m (modeSat m) (fun _ x => x0 x + o.imm.toInt)) s
def execVmuli (o : OpVI) (s : State) : Out :=
  intVI (.vmuli o) o (maskEt ||| maskSat) (fun m rs => srcImm rs (imm32 o.imm) (shapeMul (plainInt m)))
    (fun m => intLane m (modeSat m) (fun _ x => x0 x * o.imm.toInt)) s
def execVandi (o : OpVI) (s : State) : Out :=
  intVI (.vandi o) o 0 shapeOther (fun _ x => w0 x &&& imm32 o.imm) s
def execVori (o : OpVI) (s : State) : Out :=
  intVI (.vori o) o 0 shapeOther (fun _ x => w0 x ||| imm32 o.imm) s
def execVxori (o : OpVI) (s : State) : Out :=
  intVI (.vxori o) o 0 shapeOther (fun _ x => w0 x ^^^ imm32 o.imm) s
def execVshli (o : OpVI) (s : State) : Out :=
  intVI (.vshli o) o (maskEt ||| maskSat)
    (fun m rs => srcImm rs (BitVec.ofNat 32 (2 ^ (o.imm.toNat % 32))) (shapeMul (plainInt m)))
    (fun m => shiftImmLane m o.imm.toNat shlElem) s
def execVshri (o : OpVI) (s : State) : Out :=
  intVI (.vshri o) o maskEt shapeOther (fun m => shiftImmLane m o.imm.toNat shrElem) s
def execVsari (o : OpVI) (s : State) : Out :=
  intVI (.vsari o) o maskEt shapeOther (fun m => shiftImmLane m o.imm.toNat sarElem) s

end Sys2Proof.Machine
end

