-- ==== Sys2Proof/Machine/VecCross.lean ====
section
/-!
DEFINITION. Comparison, permutes, scans and reductions, majors 0x20 to 0x24 (06 R178 to R184, 01 R32, R33).
-/
namespace Sys2Proof.Machine

/-! ## Comparison (R178) -/

/-- The integer relation of a code. -/
def intRelation (op : Nat) (a b : Int) : Bool :=
  match op with
  | 0 => a == b
  | 1 => a != b
  | 2 => decide (a < b)
  | 3 => decide (a ≤ b)
  | 4 => decide (b < a)
  | 5 => decide (b ≤ a)
  | 6 => false
  | _ => true

/-- The relation holds for every element of a lane. -/
def laneRelation (m : W32) (op : Nat) (a b : W32) : Bool :=
  match fpView (modeEt m) with
  | some f => (List.range (32 / f.width)).all (fun j => fpRelation f (modeFtz m) op (elemOf f.width j a) (elemOf f.width j b))
  | none =>
    let v := intView (modeEt m)
    (List.range v.n).all (fun j =>
      intRelation op (intValue v.signed v.w (elemOf v.w j a)) (intValue v.signed v.w (elemOf v.w j b)))

/-- The frame of VCMP: live slots under the guard take the relation, and live slots outside it keep their bit. -/
def cmpWord (i : Instr) (o : OpVCmp) (op : Nat) (s : State) : Out :=
  wordG i [.vs o.va.toNat o.ta 1, .vs o.vb.toNat o.tb 2] s (fun s src =>
    let g := s.me
    let a := src.getD 0 (.uniform 0)
    let b := src.getD 1 (.uniform 0)
    let c := maskOf (fun k => laneRelation g.mode op (a.lane k) (b.lane k))
    let old := g.readP o.pd.toNat
    .done (modMe (Group.writeP o.pd.toNat ((c &&& g.guardMask) ||| (old &&& ~~~g.guardMask))) s) .seq)

def execVcmpEq (o : OpVCmp) (s : State) : Out := cmpWord (.vcmpEq o) o 0 s
def execVcmpNe (o : OpVCmp) (s : State) : Out := cmpWord (.vcmpNe o) o 1 s
def execVcmpLt (o : OpVCmp) (s : State) : Out := cmpWord (.vcmpLt o) o 2 s
def execVcmpLe (o : OpVCmp) (s : State) : Out := cmpWord (.vcmpLe o) o 3 s
def execVcmpGt (o : OpVCmp) (s : State) : Out := cmpWord (.vcmpGt o) o 4 s
def execVcmpGe (o : OpVCmp) (s : State) : Out := cmpWord (.vcmpGe o) o 5 s
def execVcmpUnord (o : OpVCmp) (s : State) : Out := cmpWord (.vcmpUnord o) o 6 s
def execVcmpOrd (o : OpVCmp) (s : State) : Out := cmpWord (.vcmpOrd o) o 7 s

/-! ## Permutes (R164, R179 to R182) -/

/-- Src(a, t): the value of a live or helper slot, else FILL (R164). -/
def Group.src (g : Group) (a : VReg) (t : Int) : W32 :=
  if 0 ≤ t ∧ t < 32 ∧ (g.live t.toNat || g.helper t.toNat) = true then a.lane t.toNat else g.fill

/-- The frame of a permute: slot k takes a value from the sources. -/
def permWord (i : Instr) (uses : List Use) (vd wordBits mask : Nat) (shape : List VReg → Shape)
    (f : Group → List VReg → Nat → W32) (s : State) : Out :=
  wordG i uses s (fun s src =>
    let g := s.me
    vecBody (vform vd wordBits g.mode (maskG ||| mask) false true) uses shape (g.vreg vd)
      (fun src seed k => (f g src k, 0, seed)) s src)

def execVperm (o : OpVR) (s : State) : Out :=
  permWord (.vperm o) (usesVR o false) o.vd.toNat (keyVR (.vperm o)) 0 (fun _ => .g)
    (fun g src k => g.src (src.getD 0 (.uniform 0)) (((src.getD 1 (.uniform 0)).lane k).toNat % 32)) s

/-- The slots that a scatter writes, and their values: the highest sender wins (R180). -/
def scatterTo (g : Group) (a b : VReg) (t : Nat) : Option W32 :=
  if g.live t || g.helper t then
    (List.range 32).foldl (fun r k => if g.guardMask.getLsbD k && (b.lane k).toNat % 32 == t then some (a.lane k) else r) none
  else none

/-- VBPERM: the written slots stand in the place of the guard (R180). Eligible for reuse as its guard says (R165, 02 R62); a slot that
is not written keeps its value (02 R63; log 9). -/
def execVbperm (o : OpVR) (s : State) : Out :=
  wordG (.vbperm o) (usesVR o false) s (fun s src =>
    let g := s.me
    let a := src.getD 0 (.uniform 0)
    let b := src.getD 1 (.uniform 0)
    let old := g.vreg o.vd.toNat
    let written := maskOf (fun t => (scatterTo g a b t).isSome)
    let new (t : Nat) : W32 := (scatterTo g a b t).getD 0
    let res := if written &&& g.liveMask == g.liveMask then generalReg old written new else mergeReg old written new
    let key := if g.reusable && decide (o.vd.toNat < 112) && decide (o.va.toNat < 112) && decide (o.vb.toNat < 112) then
      some (aluKey g (keyVR (.vbperm o)) (modeKey g.mode maskG) true src) else none
    if o.vd.toNat < 112 then .done (putReused o.vd.toNat key (src.flatMap VReg.entries) 0 res s) .seq
    else .done (modMe (fun g => g.pushPort o.vd.toNat res.lanes (written &&& g.liveMask)) s) .seq)

/-- A member of major 0x22 that reads one source position (R181). -/
def slideWord (i : Instr) (o : OpVI) (shape : List VReg → Shape) (t : Nat → Int) (s : State) : Out :=
  permWord i (usesVI o) o.vd.toNat (keyVI i) 0 shape (fun g src k => g.src (src.getD 0 (.uniform 0)) (t k)) s

def execVshfx (o : OpVI) (s : State) : Out :=
  slideWord (.vshfx o) o (fun _ => .g) (fun k => ((k ^^^ o.imm.toNat : Nat) : Int)) s
def execVslideu (o : OpVI) (s : State) : Out :=
  slideWord (.vslideu o) o (fun _ => .g) (fun k => (k : Int) - o.imm.toNat) s
def execVslided (o : OpVI) (s : State) : Out :=
  slideWord (.vslided o) o (fun _ => .g) (fun k => (k : Int) + o.imm.toNat) s
def execVlaneb (o : OpVI) (s : State) : Out :=
  slideWord (.vlaneb o) o (fun _ => .u) (fun _ => o.imm.toNat) s

/-- The two positions that a derivative code subtracts, at a slot (R182). -/
def quadPair (code k : Nat) : Nat × Nat :=
  let b := k / 4 * 4
  let q := k % 4
  match code with
  | 8 => (b + (q ||| 1), b + (q &&& 2))
  | 9 => (b + (q ||| 2), b + (q &&& 1))
  | 10 => (b + 1, b)
  | _ => (b + 2, b)

def execVquad (o : OpVI) (s : State) : Out :=
  let c := o.imm.toNat
  if c < 8 then
    slideWord (.vquad o) o (fun _ => .g)
      (fun k => (k / 4 * 4 : Nat) + (if c < 4 then ((k % 4) ^^^ (c + 1) : Nat) else c - 4)) s
  else
    wordG (.vquad o) (usesVI o) s (fun s src =>
      let g := s.me
      match fpView (modeEt g.mode) with
      | none => badEt (.vquad o) s
      | some f =>
        vecBody (vform o.vd.toNat (keyVI (.vquad o)) g.mode maskAll (modeRnd g.mode == 6) true) (usesVI o) (fun _ => .g)
          (g.vreg o.vd.toNat)
          (fun src seed k =>
            let a := src.getD 0 (.uniform 0)
            let p := quadPair c k
            fpElems f.width true (modeRnd g.mode) (fun l x => fpSub f (fpEnvOf g.mode) l (x.getD 0 0) (x.getD 1 0))
              [g.src a p.1, g.src a p.2] seed) s src)

/-! ## Combining operations (01 R32, R33) -/

/-- An operation of a scan or reduction as its view gives it: the element width, the identity of one element, and one
combination with its flags and LFSR state. -/
structure Combine where
  w : Nat
  identity : Nat
  op : Nat → Nat → W32 → Nat × Flags × W32

/-- An operation of R183 and R184: 0 add, 1 min, 2 max, 3 or, 4 and. -/
def combineOf (m : W32) (kind : Nat) : Combine :=
  let v := intView (modeEt m)
  let env := fpEnvOf m
  let int (f : Int → Int → Int) (sat : Bool) (a b : Nat) (seed : W32) : Nat × Flags × W32 :=
    (widthRule sat v.signed v.w (f (intValue v.signed v.w a) (intValue v.signed v.w b)), 0, seed)
  match kind, fpView (modeEt m) with
  | 3, _ => { w := 32, identity := 0, op := fun a b seed => (a ||| b, 0, seed) }
  | 4, _ => { w := 32, identity := 2 ^ 32 - 1, op := fun a b seed => (a &&& b, 0, seed) }
  | 0, none => { w := v.w, identity := 0, op := int (fun a b => a + b) env.sat }
  | 1, none => { w := v.w, identity := intBits v.w (intMax v.signed v.w), op := int min false }
  | _, none => { w := v.w, identity := intBits v.w (intMin v.signed v.w), op := int max false }
  | 0, some f =>
    { w := f.width, identity := 0, op := fun a b seed =>
        let d := drawRound env.rnd seed
        let r := fpAdd f env d.2 a b
        (r.1, r.2, d.1) }
  | 1, some f =>
    { w := f.width, identity := f.infBits, op := fun a b seed => let r := fpMinMax f env false a b; (r.1, r.2, seed) }
  | _, some f =>
    { w := f.width, identity := withSign f true f.infBits,
      op := fun a b seed => let r := fpMinMax f env true a b; (r.1, r.2, seed) }

/-- Combine two lanes element by element. -/
def Combine.lanes (c : Combine) (a b seed : W32) : W32 × Flags × W32 :=
  let r := (List.range (32 / c.w)).foldl (fun (acc : List Nat × Flags × W32) j =>
    let o := c.op (elemOf c.w j a) (elemOf c.w j b) acc.2.2
    (acc.1 ++ [o.1], acc.2.1 ||| o.2.1, o.2.2)) ([], 0, seed)
  (packElems c.w r.1, r.2.1, r.2.2)

/-- A lane that holds the identity in every element. -/
def Combine.unit (c : Combine) : W32 := packElems c.w (List.replicate (32 / c.w) c.identity)

/-- The MODE fields that an operation reads. -/
def combineMask (m : W32) (kind : Nat) : Nat :=
  maskG ||| (if kind = 3 ∨ kind = 4 then 0
    else if (fpView (modeEt m)).isSome then maskEt ||| (if kind = 0 then maskAll else maskFtz ||| maskNanp)
    else maskEt ||| (if kind = 0 then maskSat else 0))

/-! ## Scans (R183, 01 R33) -/

/-- State of a scan's chain. -/
structure ScanRun where
  vals : List W32
  acc : Option W32
  flags : Flags
  seed : W32

/-- The chain over the slots in order: slots outside `mask` are skipped. -/
def scanRun (c : Combine) (exclusive : Bool) (mask : W32) (a : VReg) (seed : W32) : ScanRun :=
  (List.range 32).foldl (fun r k =>
    if mask.getLsbD k then
      match r.acc with
      | none => { r with vals := r.vals ++ [if exclusive then c.unit else a.lane k], acc := some (a.lane k) }
      | some x =>
        let o := c.lanes x (a.lane k) r.seed
        { vals := r.vals ++ [if exclusive then x else o.1], acc := some o.1, flags := r.flags ||| o.2.1, seed := o.2.2 }
    else { r with vals := r.vals ++ [0] }) { vals := [], acc := none, flags := 0, seed := seed }

def scanWord (i : Instr) (o : OpVR1) (kind : Nat) (exclusive : Bool) (s : State) : Out :=
  wordG i (usesVR1 o) s (fun s src =>
    let g := s.me
    let c := combineOf g.mode kind
    let r := scanRun c exclusive g.actLive (src.getD 0 (.uniform 0)) g.seed
    let old := g.vreg o.vd.toNat
    let new (k : Nat) : W32 := r.vals.getD k 0
    let res := if g.covers then generalReg old g.actLive new else mergeReg old g.actLive new
    let rs := kind == 0 && (fpView (modeEt g.mode)).isSome && modeRnd g.mode == 6
    let key := if g.reusable && !rs && decide (o.vd.toNat < 112) && decide (o.va.toNat < 112) then
      some (aluKey g (keyVR i) (modeKey g.mode (combineMask g.mode kind)) false src) else none
    .done (modMe (fun g => { g with fpstat := g.fpstat ||| r.flags, seed := r.seed })
      (putReused o.vd.toNat key (src.flatMap VReg.entries) r.flags res s)) .seq)

def execVscanadd (o : OpVR1) (s : State) : Out := scanWord (.vscanadd o) o 0 false s
def execVscanmin (o : OpVR1) (s : State) : Out := scanWord (.vscanmin o) o 1 false s
def execVscanmax (o : OpVR1) (s : State) : Out := scanWord (.vscanmax o) o 2 false s
def execVscanor (o : OpVR1) (s : State) : Out := scanWord (.vscanor o) o 3 false s
def execVxscanadd (o : OpVR1) (s : State) : Out := scanWord (.vxscanadd o) o 0 true s
def execVxscanmax (o : OpVR1) (s : State) : Out := scanWord (.vxscanmax o) o 2 true s

/-! ## Reductions (R184, 01 R32) -/

/-- State of a reduction: the value at each position, where one is present. -/
structure RedRun where
  vals : List (Option W32)
  flags : Flags
  seed : W32

/-- One level of the tree: position i combines with position i + 2^k, in ascending order. -/
def redLevel (c : Combine) (r : RedRun) (k : Nat) : RedRun :=
  (List.range (32 / 2 ^ (k + 1))).foldl (fun r p =>
    let i := p * 2 ^ (k + 1)
    match r.vals.getD i none, r.vals.getD (i + 2 ^ k) none with
    | some a, some b =>
      let o := c.lanes a b r.seed
      { vals := r.vals.set i (some o.1), flags := r.flags ||| o.2.1, seed := o.2.2 }
    | none, b => { r with vals := r.vals.set i b }
    | some _, none => r) r

/-- The tree of five levels over the contributing slots. -/
def redRun (c : Combine) (mask : W32) (a : VReg) (seed : W32) : RedRun :=
  [0, 1, 2, 3, 4].foldl (redLevel c)
    { vals := (List.range 32).map (fun k => if mask.getLsbD k then some (a.lane k) else none), flags := 0, seed := seed }

def redWord (i : Instr) (o : OpVSRed) (kind : Nat) (s : State) : Out :=
  wordG i [.vs o.va.toNat o.ta 1, .sd o.sb.toNat] s (fun s src =>
    let g := s.me
    let c := combineOf g.mode kind
    let r := redRun c g.actLive (src.getD 0 (.uniform 0)) g.seed
    let v := (r.vals.getD 0 none).getD c.unit
    let wide : W64 := if kind ≤ 2 ∧ modeEt g.mode = 0 then v.signExtend 64 else v.zeroExtend 64
    .done (putS o.sb.toNat wide (modMe (fun g => { g with fpstat := g.fpstat ||| r.flags, seed := r.seed }) s)) .seq)

def execVredadd (o : OpVSRed) (s : State) : Out := redWord (.vredadd o) o 0 s
def execVredmin (o : OpVSRed) (s : State) : Out := redWord (.vredmin o) o 1 s
def execVredmax (o : OpVSRed) (s : State) : Out := redWord (.vredmax o) o 2 s
def execVredand (o : OpVSRed) (s : State) : Out := redWord (.vredand o) o 4 s
def execVredor (o : OpVSRed) (s : State) : Out := redWord (.vredor o) o 3 s

end Sys2Proof.Machine
end

