-- ==== Sys2Proof/Machine/Sfu.lean ====
section
/-!
DEFINITION. The functions of the SFU (06 R173, R174). The square root is rounded from its exact value. Every other member
delivers a free value (log 4) that lies within its error bound around the function's value, which is computed here to
about 250 binary places; the special cases and the exact cases of R173 and R174 are as the rules state them.
-/
namespace Sys2Proof.Machine

/-! ## Fixed-point series, in units of 2^-256 -/

def fxOne : Int := 2 ^ 256
def fxMul (a b : Int) : Int := a * b / 2 ^ 256

/-- 1 + x/k (1 + x/(k+1) (1 + …)). -/
def expFrom (x : Int) : Nat → Nat → Int
  | 0, _ => fxOne
  | n + 1, k => fxOne + fxMul x (expFrom x n (k + 1)) / (k : Int)

/-- e^x for x in [0, 1). -/
def fxExp (x : Int) : Int := expFrom x 60 1

/-- The sum of ± z^(2i+1) / (2i+1) from a power on: atanh for sign +1, atan for sign −1. -/
def oddSeries (sign : Int) (z2 p : Int) : Nat → Nat → Int
  | 0, _ => 0
  | n + 1, k => p / (k : Int) + sign * oddSeries sign z2 (fxMul p z2) n (k + 2)

def fxAtanh (z : Int) : Int := oddSeries 1 (fxMul z z) z 90 1
def fxAtan (z : Int) : Int := oddSeries (-1) (fxMul z z) z 60 1

def fxLn2 : Int := 2 * fxAtanh (fxOne / 3)
def fxPi : Int := 16 * fxAtan (fxOne / 5) - 4 * fxAtan (fxOne / 239)

/-- 1 − y²/(k(k+1)) (1 − y²/((k+2)(k+3)) (…)). -/
def sinFrom (y2 : Int) : Nat → Nat → Int
  | 0, _ => fxOne
  | n + 1, k => fxOne - fxMul y2 (sinFrom y2 n (k + 2)) / ((k * (k + 1) : Nat) : Int)

/-- sin(π r) for r in [0, 1/2]. -/
def fxSinPi (r : Int) : Int :=
  let y := fxMul fxPi r
  fxMul y (sinFrom (fxMul y y) 60 2)

/-- The largest r with r² ≤ n, over the low `bits` bits. -/
def isqrtFrom (n : Nat) : Nat → Nat → Nat
  | 0, r => r
  | b + 1, r => isqrtFrom n b (if (r + 2 ^ b) * (r + 2 ^ b) ≤ n then r + 2 ^ b else r)

/-- The integer square root of a number below 2^1400. -/
def isqrt (n : Nat) : Nat := isqrtFrom n 700 0

/-! ## Exact numbers -/

def Dyadic.sub (a b : Dyadic) : Dyadic := a.add { b with man := -b.man }
def Dyadic.eq (a b : Dyadic) : Bool := (a.sub b).man == 0
/-- |a| exceeds |b|. -/
def Dyadic.magGt (a b : Dyadic) : Bool := Sys2Proof.Machine.magGt a.man.natAbs a.exp b.man.natAbs b.exp

/-- x in units of 2^-256, rounded down. -/
def Dyadic.fx (x : Dyadic) : Int :=
  if 0 ≤ x.exp + 256 then x.man * 2 ^ (x.exp + 256).toNat else x.man / 2 ^ (-(x.exp + 256)).toNat

/-- The greatest integer not above x. -/
def Dyadic.floor (x : Dyadic) : Int := if 0 ≤ x.exp then x.man * 2 ^ x.exp.toNat else x.man / 2 ^ (-x.exp).toNat

/-- x is an integer. -/
def Dyadic.isInt (x : Dyadic) : Bool := x.eq { man := x.floor, exp := 0 }

/-- An exact magnitude as m × 2^e with e even. -/
def evenExp (m : Nat) (e : Int) : Nat × Int := if e % 2 = 0 then (m, e) else (2 * m, e - 1)

/-! ## The values of the functions -/

/-- 2^x. Beyond the exponents of every format the value stands for overflow or for a tiny result. -/
def valExp2 (x : Dyadic) : Dyadic :=
  let k := max (-1000) (min 1000 x.floor)
  if x.floor = k then
    { man := fxExp (fxMul (x.sub { man := x.floor, exp := 0 }).fx fxLn2), exp := k - 256 }
  else { man := 1, exp := k }

/-- log2 of a positive number m × 2^e. -/
def valLog2 (m : Nat) (e : Int) : Dyadic :=
  let k := Nat.log2 m
  let a : Int := (m : Int) * 2 ^ 256 / 2 ^ k
  let z := (a - fxOne) * 2 ^ 256 / (a + fxOne)
  { man := (e + k) * fxOne + 2 * fxAtanh z * 2 ^ 256 / fxLn2, exp := -256 }

/-- sin(π x) for a number x, by its fraction of a whole turn. -/
def valSinPi (x : Dyadic) : Dyadic :=
  let half : Dyadic := { man := x.man, exp := x.exp - 1 }
  let r := x.sub { man := 2 * half.floor, exp := 0 }
  let neg := !(Dyadic.sub r { man := 1, exp := 0 }).man < 0
  let u := if neg then (r.sub { man := 1, exp := 0 }).fx else r.fx
  let v := if u * 2 ≤ fxOne then u else fxOne - u
  { man := if neg then -(fxSinPi v) else fxSinPi v, exp := -256 }

/-- tanh of a positive number. -/
def valTanh (x : Dyadic) : Dyadic :=
  if 64 ≤ x.floor then { man := 2 ^ 180 - 1, exp := -180 }
  else
    let y := 2 * x.fx
    let k := y / fxLn2
    let e := fxExp (y - k * fxLn2) * 2 ^ k.toNat
    { man := (e - fxOne) * 2 ^ 256 / (e + fxOne), exp := -256 }

/-- The value of a member other than the square root at a finite number that is no special case. -/
def sfuValue (member : Nat) (neg : Bool) (m : Nat) (e : Int) : Dyadic :=
  let x := signed neg m e
  match member with
  | 0 => { man := (if neg then -1 else 1) * ((2 ^ 400 / m : Nat) : Int), exp := -e - 400 }
  | 1 =>
    let p := evenExp m e
    { man := (isqrt (2 ^ 800 / p.1) : Int), exp := -(p.2 / 2) - 400 }
  | 3 => valExp2 x
  | 4 => valLog2 m e
  | 5 => valSinPi x
  | 6 => valSinPi (x.add { man := 1, exp := -1 })
  | _ => let t := valTanh { x with man := x.man.natAbs }
         { t with man := if neg then -t.man else t.man }

/-- The delivered number equals the function's value. -/
def sfuExact (member : Nat) (x v : Dyadic) : Bool :=
  match member with
  | 0 => (v.mul x).eq { man := 1, exp := 0 }
  | 1 => ((v.mul v).mul x).eq { man := 1, exp := 0 }
  | 3 => x.isInt && v.eq { man := 1, exp := x.floor }
  | _ => false

/-- A number lies within a member's error bound around a value (R173). -/
def sfuWithin (f : Fmt) (member : Nat) (x t v : Dyadic) : Bool :=
  let q := max (leadExp t.man.natAbs t.exp) f.emin - f.mbits
  let d := v.sub t
  let two := f == .f32 && (member == 3 || member == 4 || member == 5 || member == 6 || member == 7)
  let ulps : Dyadic := { man := if two then 2 else 1, exp := q }
  let near : Bool := !(Dyadic.sub x { man := 1, exp := -1 }).man < 0 && !(Dyadic.sub { man := 2, exp := 0 } x).man < 0
  !d.magGt ulps
    || (f == .f32 && member == 4 && near && !d.magGt { man := 1, exp := -22 })
    || (f == .f32 && (member == 5 || member == 6) && !d.magGt { man := 1, exp := -24 })

/-- The number that the last rounding delivers from an internal value, without a flush; none where it overflows, whatever R25 then
delivers. -/
def sfuDelivered (f : Fmt) (env : FpEnv) (l : Nat) (v : Dyadic) : Option Dyadic :=
  let r := fpRoundD f { env with ftz := false, sat := false } l false v
  if r.2 &&& flagOF != 0 then none
  else match fpDecode f r.1 with
    | .fin neg m e => some (signed neg m e)
    | _ => none

/-- An internal value whose delivered number lies within the member's bound, which holds under every mode (R174). -/
def sfuMeets (f : Fmt) (env : FpEnv) (member l : Nat) (x t v : Dyadic) : Bool :=
  match sfuDelivered f env l v with
  | some d => sfuWithin f member x t d
  | none => sfuWithin f member x t v

/-- The internal value of a member: the free pick where what it delivers lies within the bound, else the value rounded to nearest.
Under RS it carries 16 more bits. -/
def sfuPicked (f : Fmt) (env : FpEnv) (member l : Nat) (x t : Dyadic) (free : Nat) : Dyadic :=
  let mb := f.mbits + (if env.rnd == 6 then 16 else 0)
  let m := free / 2 % 2 ^ (mb + 1)
  let e : Int := ((free / 2 ^ (mb + 2) % 4096 : Nat) : Int) - 2048
  let v : Dyadic := { man := if free % 2 = 1 then -(m : Int) else m, exp := e }
  if f.emin - mb ≤ e && sfuMeets f env member l x t v then v
  else
    let q := max (leadExp t.man.natAbs t.exp) f.emin - mb
    let r := roundUnits 1 0 (decide (t.man < 0)) t.man.natAbs t.exp q
    { man := if t.man < 0 then -(r.1 : Int) else r.1, exp := q }

/-- The value is tiny after the last rounding, as if the exponent were unbounded (R13). -/
def sfuTiny (f : Fmt) (env : FpEnv) (l : Nat) (v : Dyadic) : Bool :=
  let q := leadExp v.man.natAbs v.exp - f.mbits
  magGt 1 f.emin (roundUnits env.rnd l (decide (v.man < 0)) v.man.natAbs v.exp q).1 q

/-- Deliver an internal value (R173, R174): overflow and flush by R23 and R25, an overflow with OF and NX. UF and NX are those of the delivered number, which is
exact where it equals the function's value (R13). -/
def sfuDeliver (f : Fmt) (env : FpEnv) (member l : Nat) (x v : Dyadic) : Nat × Flags :=
  let r := fpRoundD f env l (decide (v.man < 0)) v
  match sfuDelivered f env l v with
  | none => (r.1, r.2 ||| flagNX)
  | some d =>
    if env.ftz && f.flushes && fpSubnormal f (fpRoundD f { env with ftz := false } l false v).1 then r
    else if sfuExact member x d then (r.1, 0)
    else (r.1, flagNX ||| (if sfuTiny f env l v then flagUF else 0))

/-- The square root of m × 2^e, rounded once. -/
def sfuSqrt (f : Fmt) (env : FpEnv) (l : Nat) (m : Nat) (e : Int) : Nat × Flags :=
  let p := evenExp m e
  let r := isqrt (p.1 * 2 ^ 200)
  let sticky := if r * r = p.1 * 2 ^ 200 then 0 else 1
  fpRound f env l false (2 * r + sticky) (p.2 / 2 - 101)

def fpOne (f : Fmt) : Nat := f.bias * 2 ^ f.mbits

/-- A finite non-zero input that R174 gives no row for. DESIGN CHOICE (log 67): the cases of VEXP2 and VLOG2 that R173 calls exact in its
binary32 column are exact in the 16-bit formats too, for which it states 1 ulp. -/
def sfuFinite (f : Fmt) (env : FpEnv) (member : Nat) (mode pattern : W32) (l : Nat) (neg : Bool) (m : Nat) (e : Int) :
    Nat × Flags :=
  let x := signed neg m e
  let one := fpOne f
  match member with
  | 2 => sfuSqrt f env l m e
  | k =>
    let pow2 := m == 2 ^ Nat.log2 m
    if k == 3 && x.isInt && decide (f.emin ≤ x.floor) then
      fpRoundD f env l false { man := 1, exp := min 2000 x.floor }
    else if k == 4 && pow2 then fpRoundD f env l false { man := e + Nat.log2 m, exp := 0 }
    else if k == 5 && x.isInt then (withSign f neg 0, 0)
    else if k == 6 && x.isInt then (withSign f (x.floor % 2 == 1) one, 0)
    else if (k == 5 || k == 6) && ({ x with exp := x.exp + 1 } : Dyadic).isInt then
      (if k == 6 then (0, 0) else (withSign f (({ x with exp := x.exp + 1 } : Dyadic).floor % 4 == 3) one, 0))
    else
      let t := sfuValue k neg m e
      sfuDeliver f env k l x (sfuPicked f env k l x t (Config.sfu k mode pattern))

/-- One element of an SFU member, 0 to 7 in the order of R173 (R174). -/
def sfuOp (f : Fmt) (env : FpEnv) (member : Nat) (mode : W32) (l bits : Nat) : Nat × Flags :=
  let inf (neg : Bool) (fl : Flags) : Nat × Flags := (withSign f neg f.infBits, fl)
  let invalid : Nat × Flags := (nanResult f env.nanp [], flagNV)
  match fpInput f env.ftz bits, member with
  | .nan neg p, _ => (nanResult f env.nanp (nanOps f [.nan neg p]), 0)
  | .inf false, 0 | .inf false, 1 => (0, 0)
  | .inf false, 2 | .inf false, 3 | .inf false, 4 => inf false 0
  | .inf true, 0 => (withSign f true 0, 0)
  | .inf true, 3 => (0, 0)
  | .inf neg, 7 => (withSign f neg (fpOne f), 0)
  | .inf _, _ => invalid
  | .fin neg 0 _, 0 | .fin neg 0 _, 1 => inf neg flagDZ
  | .fin neg 0 _, 2 | .fin neg 0 _, 5 | .fin neg 0 _, 7 => (withSign f neg 0, 0)
  | .fin _ 0 _, 3 | .fin _ 0 _, 6 => (fpOne f, 0)
  | .fin _ 0 _, _ => inf true flagDZ
  | .fin neg m e, k =>
    if neg && (k == 1 || k == 2 || k == 4) then invalid
    else sfuFinite f env k mode (BitVec.ofNat 32 bits) l neg m e

end Sys2Proof.Machine
end

