-- ==== Sys2Proof/Machine/VecFp.lean ====
section
/-!
DEFINITION. Vector floating-point, fused, dot-product and SFU members, majors 0x1B to 0x1D (06 R169 to R174).
-/
namespace Sys2Proof.Machine

/-- The frame of a word of the floating-point view; under an integer ET it takes ILLEGAL_FIELD (R163). -/
def fpWord (i : Instr) (uses : List Use) (vd mask : Nat) (rounds : Bool)
    (f : Fmt → W32 → FpEnv → Nat → List Nat → Nat × Flags) (s : State) : Out :=
  wordG i uses s (fun s src =>
    let m := s.me.mode
    match fpView (modeEt m) with
    | none => badEt i s
    | some fm =>
      vecBody (vform vd (keyVR i) m (maskG ||| maskEt ||| mask) (rounds && modeRnd m == 6) false) uses shapeElem
        (s.me.vreg vd)
        (fun src seed k => fpElems fm.width rounds (modeRnd m) (f fm m (fpEnvOf m)) (src.map (fun r => r.lane k)) seed) s src)

def e0 (l : List Nat) : Nat := l.getD 0 0
def e1 (l : List Nat) : Nat := l.getD 1 0
def e2 (l : List Nat) : Nat := l.getD 2 0

/-- The MODE fields of a rounding member, beside G and ET. -/
def maskRound : Nat := maskRnd ||| maskSat ||| maskFtz ||| maskNanp

/-! ## Major 0x1B (R169, R170) -/

def execVfadd (o : OpVR) (s : State) : Out :=
  fpWord (.vfadd o) (usesVR o false) o.vd.toNat maskRound true (fun f _ env l x => fpAdd f env l (e0 x) (e1 x)) s
def execVfsub (o : OpVR) (s : State) : Out :=
  fpWord (.vfsub o) (usesVR o false) o.vd.toNat maskRound true (fun f _ env l x => fpSub f env l (e0 x) (e1 x)) s
def execVfmul (o : OpVR) (s : State) : Out :=
  fpWord (.vfmul o) (usesVR o false) o.vd.toNat maskRound true (fun f _ env l x => fpMul f env l (e0 x) (e1 x)) s
def execVfmin (o : OpVR) (s : State) : Out :=
  fpWord (.vfmin o) (usesVR o false) o.vd.toNat (maskFtz ||| maskNanp) false
    (fun f _ env _ x => fpMinMax f env false (e0 x) (e1 x)) s
def execVfmax (o : OpVR) (s : State) : Out :=
  fpWord (.vfmax o) (usesVR o false) o.vd.toNat (maskFtz ||| maskNanp) false
    (fun f _ env _ x => fpMinMax f env true (e0 x) (e1 x)) s

/-- The sign bit of an element. -/
def signOf (f : Fmt) (x : Nat) : Nat := x / 2 ^ (f.width - 1) % 2

/-- An element with its sign bit replaced. -/
def putSign (f : Fmt) (sg x : Nat) : Nat := x % 2 ^ (f.width - 1) + sg * 2 ^ (f.width - 1)

/-- The frame of a sign member: it changes the sign bit alone and is not eligible for reuse (R170). -/
def signWord (i : Instr) (uses : List Use) (vd : Nat) (f : Fmt → List Nat → Nat) (s : State) : Out :=
  wordG i uses s (fun s src =>
    match fpView (modeEt s.me.mode) with
    | none => badEt i s
    | some fm =>
      vecBody { vform vd 0 s.me.mode 0 false false with eligible := false } uses shapeElem (s.me.vreg vd)
        (pureLane (mapElems fm.width (f fm))) s src)

def execVfabs (o : OpVR1) (s : State) : Out :=
  signWord (.vfabs o) (usesVR1 o) o.vd.toNat (fun f x => putSign f 0 (e0 x)) s
def execVfneg (o : OpVR1) (s : State) : Out :=
  signWord (.vfneg o) (usesVR1 o) o.vd.toNat (fun f x => putSign f (1 - signOf f (e0 x)) (e0 x)) s
def execVfsgn (o : OpVR) (s : State) : Out :=
  signWord (.vfsgn o) (usesVR o false) o.vd.toNat (fun f x => putSign f (signOf f (e1 x)) (e0 x)) s

/-! ## Major 0x1C (R171, R172) -/

def execVfma (o : OpVR) (s : State) : Out :=
  fpWord (.vfma o) (usesVR o true) o.vd.toNat maskRound true
    (fun f _ env l x => fpFma f env l false false (e0 x) (e1 x) (e2 x)) s
def execVfms (o : OpVR) (s : State) : Out :=
  fpWord (.vfms o) (usesVR o true) o.vd.toNat maskRound true
    (fun f _ env l x => fpFma f env l false true (e0 x) (e1 x) (e2 x)) s
def execVfnma (o : OpVR) (s : State) : Out :=
  fpWord (.vfnma o) (usesVR o true) o.vd.toNat maskRound true
    (fun f _ env l x => fpFma f env l true false (e0 x) (e1 x) (e2 x)) s

/-- a0 × b0 + a1 × b1 + d in binary32, rounded once (R172). -/
def dot2 (f : Fmt) (env : FpEnv) (l : Nat) (a b d : W32) : Nat × Flags :=
  let v (j : Nat) (x : W32) : Fpv := fpInput f env.ftz (elemOf 16 j x)
  let z := fpInput .f32 env.ftz d.toNat
  sumTerms .f32 env l (nanOps f [v 0 a, v 1 a, v 0 b, v 1 b] ++ nanOps .f32 [z])
    [mulTerm (v 0 a) (v 0 b), mulTerm (v 1 a) (v 1 b), z.term]

def execVdot2 (o : OpVR) (s : State) : Out :=
  wordG (.vdot2 o) (usesVR o true) s (fun s src =>
    let m := s.me.mode
    match fpView (modeEt m) with
    | some .h16 | some .b16 =>
      let f := (fpView (modeEt m)).getD .h16
      vecBody (vform o.vd.toNat (keyVR (.vdot2 o)) m maskAll (modeRnd m == 6) false) (usesVR o true) shapeElem
        (s.me.vreg o.vd.toNat)
        (fun src seed k =>
          let d := drawRound (modeRnd m) seed
          let x := src.map (fun r => r.lane k)
          let r := dot2 f (fpEnvOf m) d.2 (x.getD 0 0) (x.getD 1 0) (x.getD 2 0)
          (BitVec.ofNat 32 r.1, r.2, d.1)) s src
    | _ => badEt (.vdot2 o) s)

/-- The sum of four byte products and a 32-bit addend (R172, R31). -/
def dot4 (signed sat : Bool) (x : List W32) : W32 :=
  let e (j k : Nat) : Int := intValue signed 8 (elemOf 8 j (x.getD k 0))
  let sum := (List.range 4).foldl (fun n j => n + e j 0 * e j 1) (intValue signed 32 (x.getD 2 0).toNat)
  BitVec.ofNat 32 (widthRule sat signed 32 sum)

def execVdot4i (o : OpVR) (s : State) : Out :=
  wordG (.vdot4i o) (usesVR o true) s (fun s src =>
    let m := s.me.mode
    if modeEt m = 4 ∨ modeEt m = 5 then
      vecBody (vform o.vd.toNat (keyVR (.vdot4i o)) m (maskG ||| maskEt ||| maskSat) false false) (usesVR o true) shapeElem
        (s.me.vreg o.vd.toNat) (pureLane (dot4 (modeEt m == 4) (modeSat m))) s src
    else badEt (.vdot4i o) s)

/-! ## Major 0x1D (R173, R174) -/

/-- The frame of an SFU member. -/
def sfuWord (i : Instr) (o : OpVR1) (member : Nat) (s : State) : Out :=
  fpWord i (usesVR1 o) o.vd.toNat maskRound true (fun f m env l x => sfuOp f env member m l (e0 x)) s

def execVrcp (o : OpVR1) (s : State) : Out := sfuWord (.vrcp o) o 0 s
def execVrsq (o : OpVR1) (s : State) : Out := sfuWord (.vrsq o) o 1 s
def execVsqrt (o : OpVR1) (s : State) : Out := sfuWord (.vsqrt o) o 2 s
def execVexp2 (o : OpVR1) (s : State) : Out := sfuWord (.vexp2 o) o 3 s
def execVlog2 (o : OpVR1) (s : State) : Out := sfuWord (.vlog2 o) o 4 s
def execVsin (o : OpVR1) (s : State) : Out := sfuWord (.vsin o) o 5 s
def execVcos (o : OpVR1) (s : State) : Out := sfuWord (.vcos o) o 6 s
def execVtanh (o : OpVR1) (s : State) : Out := sfuWord (.vtanh o) o 7 s

end Sys2Proof.Machine
end

