-- ==== Sys2Proof/Machine/VecMove.lean ====
section
/-!
DEFINITION. Predicates and moves, majors 0x25 and 0x26 (06 R185 to R188).
-/
namespace Sys2Proof.Machine

/-! ## Major 0x25 (R185, R186) -/

/-- The frame of a member that writes a predicate. -/
def predWord (i : Instr) (pd : Nat) (f : Group → W32) (s : State) : Out :=
  wordG i [] s (fun s _ => .done (modMe (fun g => g.writeP pd (f g)) s) .seq)

def execPand (o : OpPR2) (s : State) : Out :=
  predWord (.pand o) o.pd.toNat (fun g => g.readP o.pa.toNat &&& g.readP o.pb.toNat) s
def execPor (o : OpPR2) (s : State) : Out :=
  predWord (.por o) o.pd.toNat (fun g => g.readP o.pa.toNat ||| g.readP o.pb.toNat) s
def execPxor (o : OpPR2) (s : State) : Out :=
  predWord (.pxor o) o.pd.toNat (fun g => g.readP o.pa.toNat ^^^ g.readP o.pb.toNat) s
def execPandn (o : OpPR2) (s : State) : Out :=
  predWord (.pandn o) o.pd.toNat (fun g => g.readP o.pa.toNat &&& ~~~g.readP o.pb.toNat) s
def execPnot (o : OpPR1) (s : State) : Out := predWord (.pnot o) o.pd.toNat (fun g => ~~~g.readP o.pa.toNat) s
def execPmov (o : OpPR1) (s : State) : Out := predWord (.pmov o) o.pd.toNat (fun g => g.readP o.pa.toNat) s

def execPset (o : OpPSet) (s : State) : Out :=
  wordG (.pset o) [.ss o.sa.toNat false 1] s (fun s _ =>
    .done (modMe (fun g => g.writeP o.pd.toNat ((g.readS o.sa.toNat).setWidth 32)) s) .seq)

/-- The frame of a member that writes a scalar register from a predicate. -/
def predScalar (i : Instr) (o : OpPGet) (f : Group → W64) (s : State) : Out :=
  wordG i [.sd o.sd.toNat] s (fun s _ => .done (putS o.sd.toNat (f s.me) s) .seq)

def execPget (o : OpPGet) (s : State) : Out := predScalar (.pget o) o (fun g => (g.readP o.pa.toNat).zeroExtend 64) s
def execPcnt (o : OpPGet) (s : State) : Out :=
  predScalar (.pcnt o) o (fun g => opPopc ((g.readP o.pa.toNat &&& g.liveMask).zeroExtend 64)) s
def execPfirst (o : OpPGet) (s : State) : Out :=
  predScalar (.pfirst o) o (fun g => BitVec.ofNat 64 (ctzFrom ((g.readP o.pa.toNat &&& g.liveMask).zeroExtend 64) 32 0)) s

/-- The guard of QHELP: a helper's bit is set where some live slot of its quad has its bit set (R186). -/
def qhelpMask (g : Group) (p : W32) : W32 :=
  maskOf (fun k =>
    if g.live k then p.getLsbD k
    else g.helper k && (List.range 4).any (fun j => g.live (k / 4 * 4 + j) && p.getLsbD (k / 4 * 4 + j)))

def execQhelp (o : OpPR1) (s : State) : Out :=
  wordG (.qhelp o) [] s (fun s _ =>
    .done (modMe (fun g => g.writePraw o.pd.toNat (qhelpMask g (g.readP o.pa.toNat))) s) .seq)

/-! ## Major 0x26 (R187, R188) -/

/-- The shape that a move carries over. -/
def shapeOf (r : VReg) : Shape :=
  match r with
  | .uniform _ => .u
  | .affine b t => .a b t
  | .general _ _ => .g

/-- The frame of a move under the guard; moves are never eligible for reuse (R165). -/
def moveBody (vd : Nat) (uses : List Use) (sh : Shape) (f : Nat → W32) (s : State) (src : List VReg) : Res :=
  vecBody { vform vd 0 s.me.mode 0 false false with eligible := false } uses (fun _ => sh) (s.me.vreg vd)
    (fun _ seed k => (f k, 0, seed)) s src

def usesVS1 (o : OpVS1) : List Use := [.vd o.vd.toNat, .vs o.va.toNat o.ta 1]

def execVmov (o : OpVS1) (s : State) : Out :=
  wordG (.vmov o) (usesVS1 o) s (fun s src =>
    let a := src.getD 0 (.uniform 0)
    moveBody o.vd.toNat (usesVS1 o) (shapeOf a) a.lane s src)

def execVmova (o : OpVS1) (s : State) : Out :=
  wordG (.vmova o) (usesVS1 o) s (fun s src => .done (putDest o.vd.toNat (src.getD 0 (.uniform 0)) s) .seq)

def execVbcast (o : OpVBc) (s : State) : Out :=
  let uses := [.vd o.vd.toNat, .ss o.sb.toNat false 2]
  wordG (.vbcast o) uses s (fun s src =>
    moveBody o.vd.toNat uses .u (fun _ => (s.me.readS o.sb.toNat).setWidth 32) s src)

def execViota (o : OpVIota) (s : State) : Out :=
  let uses := [.vd o.vd.toNat, .ss o.sb.toNat false 2]
  wordG (.viota o) uses s (fun s src =>
    let r : VReg := .affine ((s.me.readS o.sb.toNat).setWidth 32) (o.k.zeroExtend 32)
    moveBody o.vd.toNat uses (shapeOf r) r.lane s src)

def execVshape (o : OpVSRed) (s : State) : Out :=
  wordG (.vshape o) [.vreg o.va.toNat o.ta 1, .sd o.sb.toNat] s (fun s src =>
    .done (putS o.sb.toNat (BitVec.ofNat 64 (src.getD 0 (.uniform 0)).code) s) .seq)

def execVgen (o : OpVS1) (s : State) : Out :=
  wordG (.vgen o) [.vname o.vd.toNat 0, .vd o.vd.toNat, .vreg o.va.toNat o.ta 1] s (fun s src =>
    .done (putV o.vd.toNat (.general 0 (src.getD 0 (.uniform 0)).lanes) s) .seq)

/-- The field that VEXT takes from a lane under a control value (R188). -/
def extField (c : W64) (x : W32) : W32 :=
  let p := c.toNat % 32
  let wd := c.toNat / 32 % 32 + 1
  let v := x.toNat / 2 ^ p % 2 ^ wd
  BitVec.ofNat 32 (if c.getLsbD 10 then intBits 32 (intValue true wd v) else v)

def execVext (o : OpVExt) (s : State) : Out :=
  let uses := [.vd o.vd.toNat, .vs o.va.toNat o.ta 1, .ss o.sb.toNat false 2]
  wordG (.vext o) uses s (fun s src =>
    let a := src.getD 0 (.uniform 0)
    let c := s.me.readS o.sb.toNat
    moveBody o.vd.toNat uses .g (fun k => extField c (a.lane k)) s src)

end Sys2Proof.Machine
end

