-- ==== Sys2Proof/Machine/Dispatch.lean ====
section
/-!
DEFINITION. The meaning of every instruction and event: one arm per constructor of `Instr`.
-/
namespace Sys2Proof.Machine

def exec (i : Instr) (s : State) : Host.Outcome State Fault Refusal :=
  match i with
  | .hint o => Sys2Proof.Machine.execHint o s
  | .rep o => Sys2Proof.Machine.execRep o s
  | .stage o => Sys2Proof.Machine.execStage o s
  | .mode o => Sys2Proof.Machine.execMode o s
  | .modev o => Sys2Proof.Machine.execModev o s
  | .moder o => Sys2Proof.Machine.execModer o s
  | .fill o => Sys2Proof.Machine.execFill o s
  | .fillRd o => Sys2Proof.Machine.execFillRd o s
  | .sget o => Sys2Proof.Machine.execSget o s
  | .sset o => Sys2Proof.Machine.execSset o s
  | .nop => Sys2Proof.Machine.execNop s
  | .exit => Sys2Proof.Machine.execExit s
  | .lexit => Sys2Proof.Machine.execLexit s
  | .trap o => Sys2Proof.Machine.execTrap o s
  | .eret => Sys2Proof.Machine.execEret s
  | .sysc o => Sys2Proof.Machine.execSysc o s
  | .brk o => Sys2Proof.Machine.execBrk o s
  | .twait o => Sys2Proof.Machine.execTwait o s
  | .yield => Sys2Proof.Machine.execYield s
  | .bEqz o => Sys2Proof.Machine.execBEqz o s
  | .bNez o => Sys2Proof.Machine.execBNez o s
  | .bLtz o => Sys2Proof.Machine.execBLtz o s
  | .bGez o => Sys2Proof.Machine.execBGez o s
  | .bGtz o => Sys2Proof.Machine.execBGtz o s
  | .bLez o => Sys2Proof.Machine.execBLez o s
  | .bPany o => Sys2Proof.Machine.execBPany o s
  | .bPnone o => Sys2Proof.Machine.execBPnone o s
  | .bPall o => Sys2Proof.Machine.execBPall o s
  | .bAlways o => Sys2Proof.Machine.execBAlways o s
  | .j o => Sys2Proof.Machine.execJ o s
  | .call o => Sys2Proof.Machine.execCall o s
  | .jr o => Sys2Proof.Machine.execJr o s
  | .callr o => Sys2Proof.Machine.execCallr o s
  | .loop o => Sys2Proof.Machine.execLoop o s
  | .add o => Sys2Proof.Machine.execAdd o s
  | .sub o => Sys2Proof.Machine.execSub o s
  | .and o => Sys2Proof.Machine.execAnd o s
  | .or o => Sys2Proof.Machine.execOr o s
  | .xor o => Sys2Proof.Machine.execXor o s
  | .andn o => Sys2Proof.Machine.execAndn o s
  | .shl o => Sys2Proof.Machine.execShl o s
  | .shr o => Sys2Proof.Machine.execShr o s
  | .sar o => Sys2Proof.Machine.execSar o s
  | .rol o => Sys2Proof.Machine.execRol o s
  | .min o => Sys2Proof.Machine.execMin o s
  | .max o => Sys2Proof.Machine.execMax o s
  | .minz o => Sys2Proof.Machine.execMinz o s
  | .maxz o => Sys2Proof.Machine.execMaxz o s
  | .slt o => Sys2Proof.Machine.execSlt o s
  | .sltz o => Sys2Proof.Machine.execSltz o s
  | .mul o => Sys2Proof.Machine.execMul o s
  | .mulh o => Sys2Proof.Machine.execMulh o s
  | .mulhz o => Sys2Proof.Machine.execMulhz o s
  | .div o => Sys2Proof.Machine.execDiv o s
  | .divz o => Sys2Proof.Machine.execDivz o s
  | .rem o => Sys2Proof.Machine.execRem o s
  | .remz o => Sys2Proof.Machine.execRemz o s
  | .clz o => Sys2Proof.Machine.execClz o s
  | .ctz o => Sys2Proof.Machine.execCtz o s
  | .popc o => Sys2Proof.Machine.execPopc o s
  | .brev o => Sys2Proof.Machine.execBrev o s
  | .sextb o => Sys2Proof.Machine.execSextb o s
  | .sexth o => Sys2Proof.Machine.execSexth o s
  | .sextw o => Sys2Proof.Machine.execSextw o s
  | .zextw o => Sys2Proof.Machine.execZextw o s
  | .addi o => Sys2Proof.Machine.execAddi o s
  | .slti o => Sys2Proof.Machine.execSlti o s
  | .sltiz o => Sys2Proof.Machine.execSltiz o s
  | .andi o => Sys2Proof.Machine.execAndi o s
  | .ori o => Sys2Proof.Machine.execOri o s
  | .xori o => Sys2Proof.Machine.execXori o s
  | .shli o => Sys2Proof.Machine.execShli o s
  | .shri o => Sys2Proof.Machine.execShri o s
  | .sari o => Sys2Proof.Machine.execSari o s
  | .roli o => Sys2Proof.Machine.execRoli o s
  | .lis o => Sys2Proof.Machine.execLis o s
  | .addpc o => Sys2Proof.Machine.execAddpc o s
  | .lihi o => Sys2Proof.Machine.execLihi o s
  | .sldb o => Sys2Proof.Machine.execSldb o s
  | .sldbz o => Sys2Proof.Machine.execSldbz o s
  | .sldh o => Sys2Proof.Machine.execSldh o s
  | .sldhz o => Sys2Proof.Machine.execSldhz o s
  | .sldw o => Sys2Proof.Machine.execSldw o s
  | .sldwz o => Sys2Proof.Machine.execSldwz o s
  | .sldd o => Sys2Proof.Machine.execSldd o s
  | .sstb o => Sys2Proof.Machine.execSstb o s
  | .ssth o => Sys2Proof.Machine.execSsth o s
  | .sstw o => Sys2Proof.Machine.execSstw o s
  | .sstd o => Sys2Proof.Machine.execSstd o s
  | .satomAdd o => Sys2Proof.Machine.execSatomAdd o s
  | .satomAnd o => Sys2Proof.Machine.execSatomAnd o s
  | .satomOr o => Sys2Proof.Machine.execSatomOr o s
  | .satomXor o => Sys2Proof.Machine.execSatomXor o s
  | .satomMin o => Sys2Proof.Machine.execSatomMin o s
  | .satomMax o => Sys2Proof.Machine.execSatomMax o s
  | .satomMinz o => Sys2Proof.Machine.execSatomMinz o s
  | .satomMaxz o => Sys2Proof.Machine.execSatomMaxz o s
  | .satomXchg o => Sys2Proof.Machine.execSatomXchg o s
  | .satomCas o => Sys2Proof.Machine.execSatomCas o s
  | .satomLd o => Sys2Proof.Machine.execSatomLd o s
  | .satomSt o => Sys2Proof.Machine.execSatomSt o s
  | .slda o => Sys2Proof.Machine.execSlda o s
  | .sstl o => Sys2Proof.Machine.execSstl o s
  | .sldaw o => Sys2Proof.Machine.execSldaw o s
  | .sstlw o => Sys2Proof.Machine.execSstlw o s
  | .vadd o => Sys2Proof.Machine.execVadd o s
  | .vsub o => Sys2Proof.Machine.execVsub o s
  | .vmul o => Sys2Proof.Machine.execVmul o s
  | .vmulh o => Sys2Proof.Machine.execVmulh o s
  | .vmad o => Sys2Proof.Machine.execVmad o s
  | .vmin o => Sys2Proof.Machine.execVmin o s
  | .vmax o => Sys2Proof.Machine.execVmax o s
  | .vabsd o => Sys2Proof.Machine.execVabsd o s
  | .vand o => Sys2Proof.Machine.execVand o s
  | .vor o => Sys2Proof.Machine.execVor o s
  | .vxor o => Sys2Proof.Machine.execVxor o s
  | .vandn o => Sys2Proof.Machine.execVandn o s
  | .vshl o => Sys2Proof.Machine.execVshl o s
  | .vshr o => Sys2Proof.Machine.execVshr o s
  | .vsar o => Sys2Proof.Machine.execVsar o s
  | .vrol o => Sys2Proof.Machine.execVrol o s
  | .vaddi o => Sys2Proof.Machine.execVaddi o s
  | .vmuli o => Sys2Proof.Machine.execVmuli o s
  | .vandi o => Sys2Proof.Machine.execVandi o s
  | .vori o => Sys2Proof.Machine.execVori o s
  | .vxori o => Sys2Proof.Machine.execVxori o s
  | .vshli o => Sys2Proof.Machine.execVshli o s
  | .vshri o => Sys2Proof.Machine.execVshri o s
  | .vsari o => Sys2Proof.Machine.execVsari o s
  | .vfadd o => Sys2Proof.Machine.execVfadd o s
  | .vfsub o => Sys2Proof.Machine.execVfsub o s
  | .vfmul o => Sys2Proof.Machine.execVfmul o s
  | .vfmin o => Sys2Proof.Machine.execVfmin o s
  | .vfmax o => Sys2Proof.Machine.execVfmax o s
  | .vfabs o => Sys2Proof.Machine.execVfabs o s
  | .vfneg o => Sys2Proof.Machine.execVfneg o s
  | .vfsgn o => Sys2Proof.Machine.execVfsgn o s
  | .vfma o => Sys2Proof.Machine.execVfma o s
  | .vfms o => Sys2Proof.Machine.execVfms o s
  | .vfnma o => Sys2Proof.Machine.execVfnma o s
  | .vdot2 o => Sys2Proof.Machine.execVdot2 o s
  | .vdot4i o => Sys2Proof.Machine.execVdot4i o s
  | .vrcp o => Sys2Proof.Machine.execVrcp o s
  | .vrsq o => Sys2Proof.Machine.execVrsq o s
  | .vsqrt o => Sys2Proof.Machine.execVsqrt o s
  | .vexp2 o => Sys2Proof.Machine.execVexp2 o s
  | .vlog2 o => Sys2Proof.Machine.execVlog2 o s
  | .vsin o => Sys2Proof.Machine.execVsin o s
  | .vcos o => Sys2Proof.Machine.execVcos o s
  | .vtanh o => Sys2Proof.Machine.execVtanh o s
  | .vcvt o => Sys2Proof.Machine.execVcvt o s
  | .vmxq o => Sys2Proof.Machine.execVmxq o s
  | .vmxd o => Sys2Proof.Machine.execVmxd o s
  | .vcmpEq o => Sys2Proof.Machine.execVcmpEq o s
  | .vcmpNe o => Sys2Proof.Machine.execVcmpNe o s
  | .vcmpLt o => Sys2Proof.Machine.execVcmpLt o s
  | .vcmpLe o => Sys2Proof.Machine.execVcmpLe o s
  | .vcmpGt o => Sys2Proof.Machine.execVcmpGt o s
  | .vcmpGe o => Sys2Proof.Machine.execVcmpGe o s
  | .vcmpUnord o => Sys2Proof.Machine.execVcmpUnord o s
  | .vcmpOrd o => Sys2Proof.Machine.execVcmpOrd o s
  | .vperm o => Sys2Proof.Machine.execVperm o s
  | .vbperm o => Sys2Proof.Machine.execVbperm o s
  | .vshfx o => Sys2Proof.Machine.execVshfx o s
  | .vslideu o => Sys2Proof.Machine.execVslideu o s
  | .vslided o => Sys2Proof.Machine.execVslided o s
  | .vlaneb o => Sys2Proof.Machine.execVlaneb o s
  | .vquad o => Sys2Proof.Machine.execVquad o s
  | .vscanadd o => Sys2Proof.Machine.execVscanadd o s
  | .vscanmin o => Sys2Proof.Machine.execVscanmin o s
  | .vscanmax o => Sys2Proof.Machine.execVscanmax o s
  | .vscanor o => Sys2Proof.Machine.execVscanor o s
  | .vxscanadd o => Sys2Proof.Machine.execVxscanadd o s
  | .vxscanmax o => Sys2Proof.Machine.execVxscanmax o s
  | .vredadd o => Sys2Proof.Machine.execVredadd o s
  | .vredmin o => Sys2Proof.Machine.execVredmin o s
  | .vredmax o => Sys2Proof.Machine.execVredmax o s
  | .vredand o => Sys2Proof.Machine.execVredand o s
  | .vredor o => Sys2Proof.Machine.execVredor o s
  | .pand o => Sys2Proof.Machine.execPand o s
  | .por o => Sys2Proof.Machine.execPor o s
  | .pxor o => Sys2Proof.Machine.execPxor o s
  | .pandn o => Sys2Proof.Machine.execPandn o s
  | .pnot o => Sys2Proof.Machine.execPnot o s
  | .pmov o => Sys2Proof.Machine.execPmov o s
  | .pset o => Sys2Proof.Machine.execPset o s
  | .pget o => Sys2Proof.Machine.execPget o s
  | .pcnt o => Sys2Proof.Machine.execPcnt o s
  | .pfirst o => Sys2Proof.Machine.execPfirst o s
  | .qhelp o => Sys2Proof.Machine.execQhelp o s
  | .vmov o => Sys2Proof.Machine.execVmov o s
  | .vmova o => Sys2Proof.Machine.execVmova o s
  | .vbcast o => Sys2Proof.Machine.execVbcast o s
  | .viota o => Sys2Proof.Machine.execViota o s
  | .vshape o => Sys2Proof.Machine.execVshape o s
  | .vgen o => Sys2Proof.Machine.execVgen o s
  | .vext o => Sys2Proof.Machine.execVext o s
  | .vldw o => Sys2Proof.Machine.execVldw o s
  | .vldh o => Sys2Proof.Machine.execVldh o s
  | .vldhz o => Sys2Proof.Machine.execVldhz o s
  | .vldb o => Sys2Proof.Machine.execVldb o s
  | .vldbz o => Sys2Proof.Machine.execVldbz o s
  | .vldu o => Sys2Proof.Machine.execVldu o s
  | .vldq o => Sys2Proof.Machine.execVldq o s
  | .vstw o => Sys2Proof.Machine.execVstw o s
  | .vsth o => Sys2Proof.Machine.execVsth o s
  | .vstb o => Sys2Proof.Machine.execVstb o s
  | .vstq o => Sys2Proof.Machine.execVstq o s
  | .vatomAdd o => Sys2Proof.Machine.execVatomAdd o s
  | .vatomAnd o => Sys2Proof.Machine.execVatomAnd o s
  | .vatomOr o => Sys2Proof.Machine.execVatomOr o s
  | .vatomXor o => Sys2Proof.Machine.execVatomXor o s
  | .vatomMin o => Sys2Proof.Machine.execVatomMin o s
  | .vatomMax o => Sys2Proof.Machine.execVatomMax o s
  | .vatomMinz o => Sys2Proof.Machine.execVatomMinz o s
  | .vatomMaxz o => Sys2Proof.Machine.execVatomMaxz o s
  | .vatomXchg o => Sys2Proof.Machine.execVatomXchg o s
  | .vatomCas o => Sys2Proof.Machine.execVatomCas o s
  | .vatomFadd o => Sys2Proof.Machine.execVatomFadd o s
  | .vatomLd o => Sys2Proof.Machine.execVatomLd o s
  | .vatomSt o => Sys2Proof.Machine.execVatomSt o s
  | .vlda o => Sys2Proof.Machine.execVlda o s
  | .vstl o => Sys2Proof.Machine.execVstl o s
  | .fence o => Sys2Proof.Machine.execFence o s
  | .bar o => Sys2Proof.Machine.execBar o s
  | .bara o => Sys2Proof.Machine.execBara o s
  | .barw o => Sys2Proof.Machine.execBarw o s
  | .barinit o => Sys2Proof.Machine.execBarinit o s
  | .cjoin o => Sys2Proof.Machine.execCjoin o s
  | .cleave => Sys2Proof.Machine.execCleave s
  | .sopen o => Sys2Proof.Machine.execSopen o s
  | .sclose o => Sys2Proof.Machine.execSclose o s
  | .sdrain o => Sys2Proof.Machine.execSdrain o s
  | .bclose o => Sys2Proof.Machine.execBclose o s
  | .bwait o => Sys2Proof.Machine.execBwait o s
  | .tbinit o => Sys2Proof.Machine.execTbinit o s
  | .tbarr o => Sys2Proof.Machine.execTbarr o s
  | .tbexp o => Sys2Proof.Machine.execTbexp o s
  | .tbwait o => Sys2Proof.Machine.execTbwait o s
  | .vacqW o => Sys2Proof.Machine.execVacqW o s
  | .vacqT o => Sys2Proof.Machine.execVacqT o s
  | .vrel o => Sys2Proof.Machine.execVrel o s
  | .pgacqW o => Sys2Proof.Machine.execPgacqW o s
  | .pgacqT o => Sys2Proof.Machine.execPgacqT o s
  | .pgrel o => Sys2Proof.Machine.execPgrel o s
  | .aacqW o => Sys2Proof.Machine.execAacqW o s
  | .aacqT o => Sys2Proof.Machine.execAacqT o s
  | .arel o => Sys2Proof.Machine.execArel o s
  | .macqW o => Sys2Proof.Machine.execMacqW o s
  | .macqT o => Sys2Proof.Machine.execMacqT o s
  | .mrel => Sys2Proof.Machine.execMrel s
  | .tspawn o => Sys2Proof.Machine.execTspawn o s
  | .qpush o => Sys2Proof.Machine.execQpush o s
  | .qpop o => Sys2Proof.Machine.execQpop o s
  | .qsteal o => Sys2Proof.Machine.execQsteal o s
  | .eqpush o => Sys2Proof.Machine.execEqpush o s
  | .eqfire o => Sys2Proof.Machine.execEqfire o s
  | .adrain o => Sys2Proof.Machine.execAdrain o s
  | .adrainRaw o => Sys2Proof.Machine.execAdrainRaw o s
  | .afill o => Sys2Proof.Machine.execAfill o s
  | .afillRaw o => Sys2Proof.Machine.execAfillRaw o s
  | .kstart o => Sys2Proof.Machine.execKstart o s
  | .kwait o => Sys2Proof.Machine.execKwait o s
  | .cdrain o => Sys2Proof.Machine.execCdrain o s
  | .cstate o => Sys2Proof.Machine.execCstate o s
  | .cload o => Sys2Proof.Machine.execCload o s
  | .csaved o => Sys2Proof.Machine.execCsaved o s
  | .crestart o => Sys2Proof.Machine.execCrestart o s
  | .msave o => Sys2Proof.Machine.execMsave o s
  | .mload o => Sys2Proof.Machine.execMload o s
  | .mbox o => Sys2Proof.Machine.execMbox o s
  | .dhalt o => Sys2Proof.Machine.execDhalt o s
  | .dresume o => Sys2Proof.Machine.execDresume o s
  | .dstep o => Sys2Proof.Machine.execDstep o s
  | .dunpin o => Sys2Proof.Machine.execDunpin o s
  | .bpset o => Sys2Proof.Machine.execBpset o s
  | .warm o => Sys2Proof.Machine.execWarm o s
  | .mma o => Sys2Proof.Machine.execMma o s
  | .mldfb o => Sys2Proof.Machine.execMldfb o s
  | .mring o => Sys2Proof.Machine.execMring o s
  | .mzero o => Sys2Proof.Machine.execMzero o s
  | .mwait o => Sys2Proof.Machine.execMwait o s
  | .msig o => Sys2Proof.Machine.execMsig o s
  | .mfetch o => Sys2Proof.Machine.execMfetch o s
  | .mend => Sys2Proof.Machine.execMend s
  | .mtime o => Sys2Proof.Machine.execMtime o s
  | .mpop o => Sys2Proof.Machine.execMpop o s
  | .madd o => Sys2Proof.Machine.execMadd o s
  | .maddi o => Sys2Proof.Machine.execMaddi o s
  | .mli o => Sys2Proof.Machine.execMli o s
  | .mbnz o => Sys2Proof.Machine.execMbnz o s
  | .mj o => Sys2Proof.Machine.execMj o s
  | .registerReturn id => Sys2Proof.Machine.execRegisterReturn id s
  | .syscAnswer handle answer bytes => Sys2Proof.Machine.execSyscAnswer handle answer bytes s
  | .twaitExpiry q => Sys2Proof.Machine.execTwaitExpiry q s
  | .barrierPhaseWake q => Sys2Proof.Machine.execBarrierPhaseWake q s
  | .barinitResume q => Sys2Proof.Machine.execBarinitResume q s
  | .tbwaitWake q => Sys2Proof.Machine.execTbwaitWake q s
  | .bwaitDone q => Sys2Proof.Machine.execBwaitDone q s
  | .bcloseResume q => Sys2Proof.Machine.execBcloseResume q s
  | .sdrainDone q => Sys2Proof.Machine.execSdrainDone q s
  | .kwaitDone q => Sys2Proof.Machine.execKwaitDone q s
  | .lockWaitDone q => Sys2Proof.Machine.execLockWaitDone q s
  | .allotGrant core res => Sys2Proof.Machine.execAllotGrant core res s
  | .streamReadFill q port => Sys2Proof.Machine.execStreamReadFill q port s
  | .streamWritePerform q port => Sys2Proof.Machine.execStreamWritePerform q port s
  | .bteStart q => Sys2Proof.Machine.execBteStart q s
  | .copyNbtStart id => Sys2Proof.Machine.execCopyNbtStart id s
  | .copyComplete id => Sys2Proof.Machine.execCopyComplete id s
  | .copyFail id code => Sys2Proof.Machine.execCopyFail id code s
  | .mmaComplete core => Sys2Proof.Machine.execMmaComplete core s
  | .mfetchDoorbellWrite core => Sys2Proof.Machine.execMfetchDoorbellWrite core s
  | .teamAdmit core vf => Sys2Proof.Machine.execTeamAdmit core vf s
  | .gatherTimerExpiry die vf index => Sys2Proof.Machine.execGatherTimerExpiry die vf index s
  | .expertAgeTimer die vf expert => Sys2Proof.Machine.execExpertAgeTimer die vf expert s
  | .expertFire die vf expert core => Sys2Proof.Machine.execExpertFire die vf expert core s
  | .gatheringLaunch die vf expert => Sys2Proof.Machine.execGatheringLaunch die vf expert s
  | .eqStarveTimeout die vf expert => Sys2Proof.Machine.execEqStarveTimeout die vf expert s
  | .activeSetEnter q => Sys2Proof.Machine.execActiveSetEnter q s
  | .blockedEvict q => Sys2Proof.Machine.execBlockedEvict q s
  | .yieldHoldExpiry q => Sys2Proof.Machine.execYieldHoldExpiry q s
  | .aging q => Sys2Proof.Machine.execAging q s
  | .notify vf queue => Sys2Proof.Machine.execNotify vf queue s
  | .wakeRefill => Sys2Proof.Machine.execWakeRefill s
  | .launch vf id => Sys2Proof.Machine.execLaunch vf id s
  | .launchComplete lid => Sys2Proof.Machine.execLaunchComplete lid s
  | .copy vf id => Sys2Proof.Machine.execCopy vf id s
  | .templateLoad vf id => Sys2Proof.Machine.execTemplateLoad vf id s
  | .dumpRead vf id => Sys2Proof.Machine.execDumpRead vf id s
  | .configureTaskQueue vf id => Sys2Proof.Machine.execConfigureTaskQueue vf id s
  | .configureExpert vf id => Sys2Proof.Machine.execConfigureExpert vf id s
  | .disableTaskQueue vf id => Sys2Proof.Machine.execDisableTaskQueue vf id s
  | .disableExpert vf id => Sys2Proof.Machine.execDisableExpert vf id s
  | .assignPartitions vf id => Sys2Proof.Machine.execAssignPartitions vf id s
  | .writeGrant vf id => Sys2Proof.Machine.execWriteGrant vf id s
  | .clearGrant vf id => Sys2Proof.Machine.execClearGrant vf id s
  | .stage2Inval vf id => Sys2Proof.Machine.execStage2Inval vf id s
  | .tlbInval vf id => Sys2Proof.Machine.execTlbInval vf id s
  | .demandFaultRetry vf idx => Sys2Proof.Machine.execDemandFaultRetry vf idx s
  | .demandFaultFail vf idx => Sys2Proof.Machine.execDemandFaultFail vf idx s
  | .featuresOk vf status => Sys2Proof.Machine.execFeaturesOk vf status s
  | .queueEnable vf => Sys2Proof.Machine.execQueueEnable vf s
  | .queueReset vf => Sys2Proof.Machine.execQueueReset vf s
  | .queueResetDone vf queue => Sys2Proof.Machine.execQueueResetDone vf queue s
  | .binderArm => Sys2Proof.Machine.execBinderArm s
  | .binderStop => Sys2Proof.Machine.execBinderStop s
  | .commitReward => Sys2Proof.Machine.execCommitReward s
  | .commitEnv => Sys2Proof.Machine.execCommitEnv s
  | .injvalid => Sys2Proof.Machine.execInjvalid s
  | .knobWrite vf value => Sys2Proof.Machine.execKnobWrite vf value s
  | .binderIdleWrite off bytes value => Sys2Proof.Machine.execBinderIdleWrite off bytes value s
  | .binderBoundary => Sys2Proof.Machine.execBinderBoundary s
  | .preempt vf => Sys2Proof.Machine.execPreempt vf s
  | .sliceExpiry vf => Sys2Proof.Machine.execSliceExpiry vf s
  | .groupStop q => Sys2Proof.Machine.execGroupStop q s
  | .saveHandlerTimeout vf q => Sys2Proof.Machine.execSaveHandlerTimeout vf q s
  | .folioWrite vf => Sys2Proof.Machine.execFolioWrite vf s
  | .restore vf => Sys2Proof.Machine.execRestore vf s
  | .folioRestore vf cores => Sys2Proof.Machine.execFolioRestore vf cores s
  | .resumeSave vf => Sys2Proof.Machine.execResumeSave vf s
  | .discard vf => Sys2Proof.Machine.execDiscard vf s
  | .exportImage vf => Sys2Proof.Machine.execExportImage vf s
  | .hcmdHalt vf => Sys2Proof.Machine.execHcmdHalt vf s
  | .hcmdResume vf => Sys2Proof.Machine.execHcmdResume vf s
  | .hcmdStep vf => Sys2Proof.Machine.execHcmdStep vf s
  | .groupHalt q => Sys2Proof.Machine.execGroupHalt q s
  | .dump vf value => Sys2Proof.Machine.execDump vf value s
  | .evlostRead vf => Sys2Proof.Machine.execEvlostRead vf s
  | .droopsRead => Sys2Proof.Machine.execDroopsRead s
  | .pdropRead => Sys2Proof.Machine.execPdropRead s
  | .traceEnable die value => Sys2Proof.Machine.execTraceEnable die value s
  | .traceForce die => Sys2Proof.Machine.execTraceForce die s
  | .traceFreeze die => Sys2Proof.Machine.execTraceFreeze die s
  | .pmcOverflow core idx => Sys2Proof.Machine.execPmcOverflow core idx s
  | .correctedError die vf core code => Sys2Proof.Machine.execCorrectedError die vf core code s
  | .uncorrectedError source vf line pa => Sys2Proof.Machine.execUncorrectedError source vf line pa s
  | .dieHold die cause => Sys2Proof.Machine.execDieHold die cause s
  | .dieRelease die => Sys2Proof.Machine.execDieRelease die s
  | .dieReset die => Sys2Proof.Machine.execDieReset die s
  | .timeSyncMeasure offset => Sys2Proof.Machine.execTimeSyncMeasure offset s
  | .lockTimeout => Sys2Proof.Machine.execLockTimeout s
  | .fabricPacketRx die link vf tag cells => Sys2Proof.Machine.execFabricPacketRx die link vf tag cells s
  | .collectiveStart die id agree => Sys2Proof.Machine.execCollectiveStart die id agree s
  | .collectiveStep die id rank data => Sys2Proof.Machine.execCollectiveStep die id rank data s
  | .collectiveComplete die id => Sys2Proof.Machine.execCollectiveComplete die id s
  | .collWatchdogExpiry die id => Sys2Proof.Machine.execCollWatchdogExpiry die id s
  | .powerArbiterTick demand => Sys2Proof.Machine.execPowerArbiterTick demand s
  | .thermalWarn die sensor reading => Sys2Proof.Machine.execThermalWarn die sensor reading s
  | .thermalCrit die sensor reading => Sys2Proof.Machine.execThermalCrit die sensor reading s
  | .thermalClear die => Sys2Proof.Machine.execThermalClear die s
  | .droopTrip die sensor reading => Sys2Proof.Machine.execDroopTrip die sensor reading s
  | .droopEnd die => Sys2Proof.Machine.execDroopEnd die s
  | .railCurrentLimit die sensor reading => Sys2Proof.Machine.execRailCurrentLimit die sensor reading s
  | .powerOn boot => Sys2Proof.Machine.execPowerOn boot s
  | .pfFlr boot => Sys2Proof.Machine.execPfFlr boot s
  | .vfFlr vf => Sys2Proof.Machine.execVfFlr vf s
  | .vfResetDone vf salt => Sys2Proof.Machine.execVfResetDone vf salt s
  | .vfEnable vf salt => Sys2Proof.Machine.execVfEnable vf salt s
  | .getMeasurements => Sys2Proof.Machine.execGetMeasurements s
  | .getDeviceInterfaceState vf => Sys2Proof.Machine.execGetDeviceInterfaceState vf s
  | .registerWrite block off bytes value => Sys2Proof.Machine.execRegisterWrite block off bytes value s
  | .kStepBoundary core => Sys2Proof.Machine.execKStepBoundary core s
  | .mtimeExpiry core => Sys2Proof.Machine.execMtimeExpiry core s
  | .launchNbtStart lid => Sys2Proof.Machine.execLaunchNbtStart lid s
  | .tdiTransition vf target => Sys2Proof.Machine.execTdiTransition vf target s
  | .vfDisable vf => Sys2Proof.Machine.execVfDisable vf s

end Sys2Proof.Machine
end

