-- ==== Sys2Proof/Machine/Issue.lean ====
section
/-!
DEFINITION. One step (log 5): which agent or event goes next, and what it does. What is due goes first, then an item of the agenda;
with none, the oldest outstanding return is delivered; with none of those, an agent issues its next word.
-/
namespace Sys2Proof.Machine

/-- A breakpoint that matches a REP target. Where its REPEN is 1, TPC is the REP word and TREP names the repetition; else TPC is the
matched word (19 R422, 20 R440; log 23). -/
def breakAtTarget (info : Nat) (s : State) : Out :=
  if info / 32 % 2 = 1 then finish (.trap s tBrk info)
  else finish (.trap (modMe (fun g => { g with pc := g.pc + 4, rep := none }) s) tBrk info)

/-- The executing group runs one repetition of a REP target (04 R111 to R114). Its stepped fields are checked before the other checks of
the stepped word, which a trap then reports (log 60). -/
noncomputable def issueRep (s : State) (r : RepRun) : Out :=
  match breakHit s (s.me.pc + 4) (some r.k) with
  | some info => breakAtTarget info s
  | none =>
    match repWord (s.vtop s.me) r with
    | .error (code, info) => finish (.trap s code info)
    | .ok w =>
      match decode w with
      | .ok i => exec i s
      | .error .opcode => finish (.trap s tIllegalOpcode w.toNat)
      | .error (.field low) => finish (.trap s tIllegalField (w.toNat + low * 2 ^ 32))

/-- The executing group takes up a word that it fetched (04 R107). -/
noncomputable def issueWord (s : State) (w : W32) : Out :=
  match decode w with
  | .ok i => exec i s
  | .error r => rejectWord s w r

/-- The executing group issues its next word. -/
noncomputable def issueNext (s0 : State) : Out :=
  let s := settleResume s0
  match breakHere s with
  | some info => finish (.trap s tBrk info)
  | none =>
    match refreshLoop s with
    | .error f => fetchFail s f
    | .ok s1 =>
      match groupFetch s1 s1.me.pc with
      | .word w t => issueWord (addTlb (dieOf s1.qid) t s1) w
      | f => fetchFail s1 f

/-- The marks of the executing group's waiting stream read are taken back as the word issues again (02 R54). -/
def unmarkMe (s : State) : State := if s.me.markV.isSome || s.me.markS.isSome then modMe Group.unmark s else s

/-- The executing group issues the next repetition of a REP, or its next word. -/
noncomputable def issueReady (s : State) : Out :=
  match s.me.rep with
  | some r => issueRep s r
  | none => issueNext s

/-- A group's turn: it issues, where its partition chooses it, or its wait ends, or time alone passes. -/
noncomputable def issueGroup (q : Nat) (s : State) : Out :=
  if !mayIssue s q then .next s
  else
    match s.me.blocked with
    | none | some (.register _ _) | some (.port _) | some .sysc | some .restart | some .held =>
      if chosen s q then issueReady (unmarkMe s) else .next s
    | some b =>
      match wakeOf q b with
      | some i => (match exec i s with
          | .next t => .next t
          | _ => .next s)
      | none => .next s

/-- A sequencer's turn (10 R285, R286, 04 R110): it issues a restored MMA again, or executes its next word. -/
noncomputable def issueSeq (c : Nat) (s : State) : Out :=
  let q := (coreAt s c).seq
  if let some m := unissued s c then .next (seqReissue c m s)
  else if !seqRuns s c then .next s
  else
    let e := envOfTeam s (q.owner.getD 0)
    match fetchWord s e [] q.pc with
    | .trap _ _ => .next (seqFault c 2 0 q.pc s)
    | .held => .next s
    | .demand st p =>
      .next (modCore c (fun x => { x with seq := { x.seq with stall := some (st, p), word := 0 } }) (raiseDemand e st p s))
    | .word w t =>
      let s1 := addTlb (c / 64) t s
      let m := w.toNat / 2 ^ 26
      match decode w with
      | .ok i => if 0x38 ≤ m && m ≤ 0x3A then exec i s1 else .next (seqFault c 1 w.toNat q.pc s1)
      | .error _ => .next (seqFault c 1 w.toNat q.pc s1)

/-- An outcome within a CCLK, with what the counters do at the CCLK's end. -/
def closeCclk (o : Out) : Out :=
  match o with
  | .next t => .next (closeCounters 1 t)
  | o => o

/-- An agent's turn takes one CCLK. -/
noncomputable def issue (a : Agent) (s : State) : Out :=
  let s1 : State := { tick s with cur := a }
  match a with
  | .group q => closeCclk (issueGroup q s1)
  | .sequencer c => closeCclk (issueSeq c s1)

/-! ## What is due (log 5) -/

/-- An event that is due where a test holds. -/
noncomputable def dueIf (b : Bool) (i : Instr) : List Instr := if b then [i] else []

/-- A trace that has reached its post-trigger count freezes (19 R432), and a core that is deadlocked for a resource has the youngest
request refused (10 R297, 11 R311). -/
noncomputable def dueAtOnce (s : State) : List Instr :=
  s.dies.flatMap (fun d => dueIf (d.2.trace.tstat.getLsbD 1 && !d.2.trace.tstat.getLsbD 0 && d.2.trace.left == 0) (.traceFreeze d.1))
    ++ s.cores.flatMap (fun c => [Resource.tiles, .vregs, .pages].flatMap (fun r => dueIf (deadlocked s c.1 r) (.allotGrant c.1 r)))

/-- The work of a boundary may take 2,000 ticks (16 R381): it is free when within 1,990 of them it ends. -/
def boundaryDue (s : State) : Bool :=
  bootReady s && (match boundaryTime s with
    | some bt => decide (bt.toNat + 1990 ≤ s.time.toNat) || Config.freeBit s.free 9720
    | none => false)

/-- The actions that start at a stated time, each in the first CCLK in which TIME has reached it (21 R446): copies, which fail where their
start is denied, launches, the earlier first, MTIME and collectives. Whether a collective's peers agree is free. -/
noncomputable def dueStarts (s : State) : List Instr :=
  let launches := s.launches.filter (fun l => !l.2.begun && decide (l.2.nbt.toNat ≤ s.time.toNat))
  s.copies.flatMap (fun c => dueIf (!c.2.run && copyRuns s c.2) (.copyNbtStart c.1) ++ dueIf (startDenied s c.2) (.copyFail c.1 7))
    ++ launches.flatMap (fun l => dueIf (launches.all (fun k => decide (l.2.nbt.toNat ≤ k.2.nbt.toNat))) (.launchNbtStart l.1))
    ++ s.cores.flatMap (fun c => dueIf (c.2.seq.mtime.isSome) (.mtimeExpiry c.1))
    ++ s.dies.flatMap (fun d => d.2.colls.flatMap (fun k =>
        dueIf (k.2.phase == .waiting) (.collectiveStart d.1 k.1 (!Config.freeBit s.free 9730))))

/-- What a time makes due: the actions that start at it, watchdogs of collectives (21 R456), refills (14 R349), Binder boundaries (15 R365), the arbiter's window (21 R457), the loss of LOCK
(21 R445), and the end of a slice (17 R384). -/
noncomputable def dueByTime (s : State) : List Instr :=
  dueStarts s ++ s.dies.flatMap (fun d => d.2.colls.flatMap (fun k => dueIf (collOverdue s d.1 k.2) (.collWatchdogExpiry d.1 k.1)))
    ++ dueIf (refillsDue s != 0) .wakeRefill ++ dueIf (boundaryDue s) .binderBoundary
    ++ dueIf (bootReady s && arbiterDue s)
      (.powerArbiterTick ((List.range 5).map (fun d => (Config.freeW64 s.free (9710 + d)).toNat % 2 ^ 16)))
    ++ dueIf (lockLost s) .lockTimeout
    ++ s.vfs.flatMap (fun v => dueIf (v.2.ctx.sliceOver s.time) (.sliceExpiry v.1))

/-- What the age of a head token makes due: its report, and its firing on a core that is free (10 R303). -/
noncomputable def dueExperts (s : State) : List Instr :=
  s.dies.flatMap (fun d => d.2.experts.flatMap (fun x =>
    let vf := x.1 / 256
    let e := x.1 % 256
    dueIf (x.2.starves s.time) (.eqStarveTimeout d.1 vf e)
      ++ (if x.2.overdue s.time && mayFire d.2 s.cclk && firesFirst s d.1 x then
            (let cs := firingCores s d.1 vf e x.2
             ((cs[(Config.freeW64 s.free (600010 + d.1)).toNat % cs.length]?).map (fun c => Instr.expertFire d.1 vf e c.1)).toList)
          else [])))

/-- The waits that may be over: the event of each has its occasion where it is (07 R202). -/
noncomputable def dueWakes (s : State) : List Instr :=
  s.groups.flatMap (fun g => if g.2.st == .running then (g.2.blocked.bind (wakeOf g.1)).toList else [])

/-- What the active sets make due (07 R202, R205, R206): groups that leave, holds that end, groups that age and groups that enter. -/
noncomputable def dueGroups (s : State) : List Instr :=
  s.groups.flatMap (fun g =>
    dueIf (g.2.evictDue s.cclk) (.blockedEvict g.1) ++ dueIf (g.2.holdOver s.cclk) (.yieldHoldExpiry g.1)
      ++ dueIf (agesNow s g.1) (.aging g.1) ++ dueIf (enters s g.1) (.activeSetEnter g.1))

/-- The events that are due before anything else happens. -/
noncomputable def forced (s : State) : List Instr := dueAtOnce s ++ dueWakes s ++ dueByTime s ++ dueExperts s ++ dueGroups s

/-- Run the first event of a list that has its occasion. -/
noncomputable def runFirst (s : State) : List Instr → Option State
  | [] => none
  | i :: is =>
    match exec i { s with free := s.free + 1 } with
    | .next t => some t
    | _ => runFirst s is

/-- The event that comes when the agenda is empty: a group stops or halts where it was asked to (07 R214); the oldest outstanding
return arrives (02 R54). -/
noncomputable def dueEvent (s : State) : Option Instr :=
  match s.groups.find? (fun e => stopReady s e.1 || (e.2.stopDue && e.2.haltReq.isSome)) with
  | some (q, g) => some (if g.haltReq.isSome then .groupHalt q else .groupStop q)
  | none =>
    match s.returns with
    | [] => none
    | (id, _) :: _ => some (.registerReturn id)

/-! ## Turns -/

/-- One item of the agenda. CCLK pass one by one, so that what they make due comes between them. -/
noncomputable def turn (t : Turn) (s : State) : Out :=
  match t with
  | .issue a => issue a s
  | .event i => exec i { s with free := s.free + 1 }
  | .pass 0 => .next { s with free := s.free + 1 }
  | .pass (n + 1) => .next { pass 1 s with free := s.free + 1, agenda := if n = 0 then s.agenda else .pass n :: s.agenda }

/-- A group issues in its turn: it runs, it does not wait, and its partition chooses it. -/
def goesOn (s : State) (q : Nat) : Bool := mayIssue s q && (groupAt s q).blocked.isNone && chosen s q

/-- A sequencer executes its next word, or issues a restored MMA. -/
def seqGoesOn (s : State) (c : Nat) : Bool := seqRuns s c || (unissued s c).isSome

/-- The aged group that issues now, of every partition and slot kind: the longest waiting first (07 R205, R208). -/
def agedNext (s : State) : Option Nat :=
  let due := (s.groups.filter (fun e => e.2.aged && goesOn s e.1)).map Prod.fst
  due.find? (fun q => due.all (fun r => r == q || agesBefore s q r))

/-- A group of a VF to which its partition owes four words: of the VF that is owed most there (07 R207, R208). -/
def owedNext (s : State) : Option Nat :=
  let due := (s.groups.filter (fun e => goesOn s e.1 && decide (lagMost ≤ lagOf s e.1 e.2.vf))).map (fun e => (e.1, lagOf s e.1 e.2.vf))
  (due.find? (fun x => due.all (fun y => decide (y.2 ≤ x.2)))).map Prod.fst

/-- The agent whose turn it is when the agenda is empty: an aged group; else one of a VF that is owed words; else the present one while it can go on; else the first group,
then the first sequencer, that can; else the present one, whose turn passes time. -/
noncomputable def nextAgent (s : State) : Agent :=
  let here : Bool := match s.cur with
    | .group q => goesOn s q
    | .sequencer c => seqGoesOn s c
  match agedNext s with
  | some q => .group q
  | none => match owedNext s with
  | some q => .group q
  | none =>
    if here then s.cur
    else match s.groups.find? (fun e => goesOn s e.1) with
      | some e => .group e.1
      | none =>
        match s.cores.find? (fun e => seqGoesOn s e.1) with
        | some e => .sequencer e.1
        | none => s.cur

/-- The next step: what is due comes first, then the agenda; with no agenda a stop or a return, and else an agent's turn. -/
noncomputable def nextTurn (s : State) : Out :=
  match runFirst s (forced s) with
  | some t => .next t
  | none =>
    match s.agenda with
    | t :: rest => turn t { s with agenda := rest }
    | [] =>
      match dueEvent s with
      | some i => exec i { s with free := s.free + 1 }
      | none => issue (nextAgent s) s

/-! ## A word placed where the next step fetches it (log 1) -/

/-- Page tables that map the lowest 512 GiB of both stages onto themselves, as bytes of physical memory: stage 2 at
0x1000, stage 1 at 0x3000 (14 R354, R355). -/
def mapBytes : List (Nat × Nat) :=
  [(0x1000, 0x2001), (0x2000, 0xE1F), (0x3000, 0x4001), (0x4000, 0xE3F)]

/-- Where the placed word lies, as a virtual and a physical address. -/
def placePc : Nat := 0x10000

/-- Memory with the page tables and the word's bytes in it. -/
def placeMem (w : W32) (m : List Host.Cell) : List Host.Cell :=
  let m1 := mapBytes.foldl (fun m e => ((List.range 8).zip (leBytes 8 e.2)).foldl (fun m p => setByte m (e.1 + p.1) p.2) m) m
  ((List.range 4).zip (bytesOfWord w)).foldl (fun m p => setByte m (placePc + p.1) p.2) m1

/-- The group that is to fetch the word: one live lane per slot, in the active set. -/
def placeGroup : Group :=
  { Group.empty with
    st := .running, vf := 1, launch := 1, team := 1, pc := BitVec.ofNat 64 placePc, active := true,
    slots := (List.range 32).map (fun s => { st := .live, ident := BitVec.ofNat 16 s }), v := [(0, .affine 0 1)] }

/-- Set what a fetch of the word needs: a VF with a fabric tag, without which it reaches no peer memory, a launch, a team and a group
with its page tables; for a word of majors 0x38 to 0x3A the team's sequencer. -/
def placeWord (w : W32) (s : State) : State :=
  let m := w.toNat / 2 ^ 26
  let seqWord := decide (0x38 ≤ m) && decide (m ≤ 0x3A)
  let a : Agent := if seqWord then .sequencer 0 else .group 0
  let s1 : State :=
    { s with
      cur := a
      agenda := [.issue a]
      mem := placeMem w s.mem
      lineKey := [0x40, 0x80, 0xC0, 0x100, placePc / 64].foldl Tab.del s.lineKey
      groups := Tab.set s.groups 0 placeGroup
      teams := Tab.set s.teams 1
        { Team.empty with launch := 1, vf := 1, core := 0, groups := 1, members := [0], s1root := 0x3000 }
      dies := Tab.set s.dies 0 { dieAt s 0 with held := false, tlb := [], walks := [] }
      vfs := Tab.set s.vfs 1 { vfAt s 1 with enabled := true, s2root := 0x1000 }
      platform := { s.platform with fabtag := Tab.set s.platform.fabtag 1 0x10000 } }
  if seqWord then
    modCore 0 (fun c => { c with seq := { Sequencer.reset with st := .run, owner := some 1, pc := BitVec.ofNat 64 placePc } }) s1
  else s1

end Sys2Proof.Machine
end

