-- ==== Sys2Proof/Machine/Step.lean ====
section
/-!
DEFINITION. The step of the package, and the state in which the next step fetches and runs a given word.
-/
namespace Sys2Proof.Machine

/-- One step (log 5). -/
noncomputable def step (s : State) : Host.Outcome State Fault Refusal := nextTurn s

/-- The state with a word of `nbits` bits stored where the next step fetches it (log 1). -/
def State.withFetchWord (s : State) (nbits w : Nat) : State := placeWord (BitVec.ofNat 32 (w % 2 ^ nbits)) s

end Sys2Proof.Machine
end

