-- ==== Sys2Proof/Safety.lean ====
section
/-!
DEFINITION. What counts as a safe run: every step of it answers a next state; and the invariants that claims are stated in.
-/
namespace Sys2Proof.Machine

/-- The next state that a step answers, if it answers one. -/
def nextOf (o : Out) : Option State :=
  match o with
  | .next t => some t
  | _ => none

/-- The state after n steps, where each of them answers a next state. -/
noncomputable def after : Nat → State → Option State
  | 0, s => some s
  | n + 1, s => (nextOf (step s)).bind (after n)

/-- A run of n steps from s is safe. -/
def SafeRun (n : Nat) (s : State) : Prop := ∃ t, after n s = some t

/-- No event that is due has its occasion: the agenda and the agents have their turn (log 5). -/
def NothingDue (s : State) : Prop := runFirst s (forced s) = none

/-- A group does not wait, or waits for what issuing its word again finds out: a register, a port, a SYSC's return, a restart or a
held die. -/
def TriesAgain (g : Group) : Prop :=
  g.blocked = none ∨ (∃ vs xs, g.blocked = some (.register vs xs)) ∨ (∃ b, g.blocked = some b ∧ b ∈ [.sysc, .restart, .held])
    ∨ ∃ n, g.blocked = some (.port n)

/-- The agent whose turn it is is a group, the checks 7 to 10 of R107 let this word of it go on, and it waits for nothing. -/
def MayGo (i : Instr) (uses : List Use) (s : State) : Prop :=
  (match s.cur with
    | .group _ => true
    | .sequencer _ => false) = true ∧ issueCheck (encode i) uses s = none

/-- Nothing but the word itself happens at its retirement: no single step is armed (19 R428) and the trace of the die keeps
no issue sample of it (19 R432). -/
def Calm (s : State) : Prop :=
  s.me.step ≠ .armed ∧ (dieAt s (dieOf s.qid)).trace.keeps 0 s.me.vf (cgidOf s.qid s.me) = false

/-- Every byte of memory reads, under every key, as it did. -/
def SameMemory (s t : State) : Prop := ∀ key pa, readPa t key pa = readPa s key pa

/-- Every other group is as it was. -/
def SameOthers (s t : State) : Prop := t.qid = s.qid ∧ ∀ q, q ≠ s.qid → groupAt t q = groupAt s q

/-- The registers of the executing group are as they were, but for the scalar registers, the vector registers and the
predicates listed. -/
def SameRegisters (ss vs ps : List Nat) (s t : State) : Prop :=
  (∀ n, n ∉ ss → t.me.readS n = s.me.readS n ∧ t.me.sFull n = s.me.sFull n)
    ∧ (∀ n, n ∉ vs → t.me.vreg n = s.me.vreg n ∧ t.me.vFull n = s.me.vFull n)
    ∧ (∀ n, n ∉ ps → t.me.readP n = s.me.readP n)

/-- The registers that a trap saves into, and the handler bits, are as they were. -/
def SameTrapState (s t : State) : Prop :=
  t.me.tcode = s.me.tcode ∧ t.me.tpc = s.me.tpc ∧ t.me.tinfo = s.me.tinfo ∧ t.me.trep = s.me.trep
    ∧ t.me.tvec = s.me.tvec ∧ t.me.dvec = s.me.dvec ∧ t.me.pvec = s.me.pvec
    ∧ t.me.hact = s.me.hact ∧ t.me.dact = s.me.dact ∧ t.me.pact = s.me.pact ∧ t.me.level = s.me.level

/-- The stream ports of the executing group are as they were, but for those listed. -/
def SamePorts (ns : List Nat) (s t : State) : Prop := ∀ n, n ∉ ns → Tab.find t.me.ports n = Tab.find s.me.ports n

/-- No flag of FPSTAT changes, and the state of the rounder stays. -/
def SameFlags (s t : State) : Prop := t.me.fpstat = s.me.fpstat ∧ t.me.seed = s.me.seed

/-- MODE and FILL, the slots, the open batch and the arrival marks are as they were. -/
def SameControl (s t : State) : Prop :=
  t.me.mode = s.me.mode ∧ t.me.fill = s.me.fill ∧ t.me.slots = s.me.slots
    ∧ t.me.openBatch = s.me.openBatch ∧ t.me.batches = s.me.batches ∧ t.me.bars = s.me.bars
    ∧ t.me.st = s.me.st

/-- What a word that computes from registers leaves alone beside its destinations: the scalar registers, vector registers,
predicates and ports that are not listed, the control state, the trap state, the other groups, the teams, the launches, the matrix sequencers and tiles, the copies and all memory. -/
structure Frame (ss vs ps ns : List Nat) (s t : State) : Prop where
  regs : SameRegisters ss vs ps s t
  ports : SamePorts ns s t
  control : SameControl s t
  trap : SameTrapState s t
  others : SameOthers s t
  memory : SameMemory s t
  teams : t.teams = s.teams
  launches : t.launches = s.launches
  copies : t.copies = s.copies
  vfs : t.vfs = s.vfs
  engines : ∀ c, (coreAt t c).seq = (coreAt s c).seq ∧ (coreAt t c).tiles = (coreAt s c).tiles ∧ (coreAt t c).locks = (coreAt s c).locks

/-- No record of the reuse table stands for what the executing group computes (02 R61 to R63). -/
def NoReuse (s : State) : Prop := ∀ key delivers, findRecord s key delivers = none

/-- An access of the executing group passes every check of 08 R215 to R226 under a slot, and these are its physical parts
and the translations that it walks. -/
def Reaches (s : State) (a : Acc) (slot va : Nat) (parts : List (Nat × Nat)) (walks : List TlbEntry) : Prop :=
  checkLane s (envOf s s.qid) s.me.failPages a slot va = .ok (.bytes parts walks)

/-- No watchpoint of the group's function matches an access (19 R421 to R424). -/
def Unwatched (s : State) (read write : Bool) (size : Nat) (lanes : List (Nat × Nat)) : Prop :=
  watchHit s s.qid read write size lanes = none

/-- A physical address lies in a part. -/
def inParts (parts : List (Nat × Nat)) (pa : Nat) : Bool := parts.any (fun p => decide (p.1 ≤ pa) && decide (pa < p.1 + p.2))

/-- Every byte outside the parts reads as it did: under the key of a function in all of memory, and under every key in the
lines that no part touches. -/
def OnlyParts (vf : Nat) (parts : List (Nat × Nat)) (s t : State) : Prop :=
  (∀ pa, inParts parts pa = false → readPa t (keyNum s vf) pa = readPa s (keyNum s vf) pa)
    ∧ ∀ key pa, (∀ pa', inParts parts pa' = true → pa' / 64 ≠ pa / 64) → readPa t key pa = readPa s key pa

/-- Source n of a word as it reads its uses: a register, or the next vector of a read port. -/
def srcReg (uses : List Use) (s : State) (n : Nat) : VReg := (sourceRegs s.me uses []).getD n (.uniform 0)

/-- The lanes of a word that raises no flag and rounds nothing. -/
def plainRun (s : State) (val : Nat → W32) : LaneRun := { vals := (List.range 32).map val, flags := 0, seed := s.me.seed }

/-- The value that a word gives a vector destination from the lanes of a run (02 R50, R51; 06 R161). Under a guard that covers
every live slot it takes the shape given, and as a general value it keeps what the slots that do not act held. Under another
guard the slots that act take their values, the others keep theirs, and it is general unless no value changes. -/
structure LaneValue (old : VReg) (run : LaneRun) (sh : Shape) (s : State) (r : VReg) : Prop where
  uniform : s.me.covers = true → sh = .u → r = .uniform (run.vals.getD 0 0)
  affine : ∀ b d, s.me.covers = true → sh = .a b d → r = .affine b d
  general : s.me.covers = true → sh = .g → r.code = 2
  lanes : s.me.covers = false ∨ sh = .g → ∀ k, k < 32 →
    r.lane k = if s.me.guardMask.getLsbD k then run.vals.getD k 0 else old.lane k
  merged : s.me.covers = false → r.code = 2 ∨ r = old

/-- The word delivers a vector value: a register is full and holds it, a write port takes it for the acting live slots
(09 R267). -/
structure Delivers (vd : Nat) (r : VReg) (s t : State) : Prop where
  full : vd < 112 → t.me.vFull vd = true
  value : vd < 112 → (t.me.vreg vd).lanes = r.lanes ∧ (t.me.vreg vd).code = r.code
  port : 112 ≤ vd → t.me.ports = (s.me.pushPort vd r.lanes s.me.actLive).ports

/-- The word delivers the lanes of a run to its destination, with the flags ORed into FPSTAT and the state of the rounder. -/
structure LaneResult (vd : Nat) (run : LaneRun) (sh : Shape) (s t : State) : Prop where
  flags : t.me.fpstat = s.me.fpstat ||| run.flags
  seed : t.me.seed = run.seed
  value : ∃ r, LaneValue (s.me.vreg vd) run sh s r ∧ Delivers vd r s t

/-- The value at position i after k levels of the tree of 01 R32: a pair combines where both are there, else the one that is
there passes. -/
def treeVal (f : W32 → W32 → W32) (x : Nat → Option W32) : Nat → Nat → Option W32
  | 0, i => x i
  | k + 1, i =>
    match treeVal f x k i, treeVal f x k (i + 2 ^ k) with
    | some a, some b => some (f a b)
    | some a, none => some a
    | none, b => b

/-- The chain of 01 R33 over lanes in order, with its flags. -/
def chainVal (f : W32 → W32 → W32 × Flags) : List W32 → Option (W32 × Flags)
  | [] => none
  | x :: rest => some (rest.foldl (fun (a : W32 × Flags) y => ((f a.1 y).1, a.2 ||| (f a.1 y).2)) (x, 0))

/-- How two floating-point patterns compare (06 R178): not at all where either is NaN. -/
def fpOrder (f : Fmt) (ftz : Bool) (a b : Nat) : Option Ordering :=
  match fpInput f ftz a, fpInput f ftz b with
  | .nan _ _, _ => none
  | _, .nan _ _ => none
  | x, y => some (if fpLess false x y then .lt else if fpLess false y x then .gt else .eq)

/-- The sequencer of a core becomes q, and nothing else changes. -/
def SeqBecomes (c : Nat) (q : Sequencer) (s t : State) : Prop :=
  coreAt t c = { coreAt s c with seq := q } ∧ (∀ k, k ≠ c → coreAt t k = coreAt s k) ∧ t = { s with cores := t.cores }

/-- The sequencer of a core reaches n bytes of its team's memory, whose physical parts these are, and waits for no lock. -/
def SeqReaches (s : State) (c : Nat) (write : Bool) (va n : Nat) (ps : List (Nat × Nat)) : Prop :=
  enginePlaces s (seqEnv s c) (if write then .write else .read) va n = .ok ps
    ∧ ∀ p ∈ ps, olderLock s c s.nextOrder p.1 write = false

/-- The sequencer of a core reads n good bytes of its team's memory, and this is their value. -/
def SeqReads (s : State) (c : Nat) (va n v : Nat) : Prop :=
  ∃ ps, SeqReaches s c false va n ps ∧ partsBad s ps = none ∧ v = leNat (readParts s (seqEnv s c).vf ps)

/-- The memory has its canonical form. -/
abbrev MemoryWf (s : State) : Prop := Memory.wf s.mem = true

end Sys2Proof.Machine
end

