-- ==== Sys2Proof/Certificates/Slice0/Obligations.lean ====
section
/-!
DEFINITION. The statements: the manual's numbered rules about what each instruction and event does, the frame of each, and
the invariants of the whole machine. A statement of a result concludes that `exec` answers a next state and gives it.
-/
section
open Sys2Proof Sys2Proof.Machine

/-! ## The encoding (04 R91 to R106) -/

/-- Every word of the table, with every operand at every value that its encoding admits, decodes back to itself: decoding
drops no bit of a well-formed instruction (04 R91 to R106). -/
def Obligations.EncodingRoundTrip : Prop :=
  ∀ i : Instr, i.isWord = true → i.wellFormed = true → decode (encode i) = .ok i

/-- A word that decodes is the encoding of what it decodes to, and that instruction is well-formed: no two words mean one
instruction, and no reserved word decodes (04 R100, R106). -/
def Obligations.DecodingIsExact : Prop :=
  ∀ (w : W32) (i : Instr), decode w = .ok i → encode i = w ∧ i.isWord = true ∧ i.wellFormed = true

/-- Words that the manual itself writes out, and what they stand for (04 R113, R154, 05 R141, 04 "Encodings at a glance", 05
"A kernel with a call and a trap"). -/
def Obligations.SpecWordsDecode : Prop :=
  decode 0x38140064 = .ok (.addi { sd := 5, sa := 0, imm := 100 })
    ∧ decode 0x1430002A = .ok (.trap { imm := 0x2A })
    ∧ decode 0x34C81400 = .ok (.div { sd := 8, sa := 5, sb := 0, ta := false, tb := false })
    ∧ decode 0x2000_0004 = .ok (.call { off := 4 })
    ∧ decode 0x2400FC00 = .ok (.jr { sa := 63, ta := false })
    ∧ decode 0x1040A011 = .ok (.sget { sd := 10, num := 0x011 })
    ∧ decode 0x14400000 = .ok .eret
    ∧ decode 0x280000C5 = .ok (.loop { len := 3, cnt := 5 })
    ∧ decode 0x1983FFFD = .ok (.bPany { pa := 3, off := -3 })
    ∧ decode 0x083C8000 = .ok (.rep { cnt := 3, fmD := true, fmA := true, fmB := false, str := 1 })
    ∧ decode 0x6C020428 = .ok (.vfadd { ta := false, tb := false, vd := 8, va := 8, vb := 40 })
    ∧ decode 0xA416144A = .ok (.vatomAdd { sem := 1, scp := 3, vd := 5, vo := 9, sbx := 2 })
    ∧ decode 0 = .error .opcode ∧ decode 0x2C000000 = .error .opcode ∧ decode 0x72800000 = .error .opcode
    ∧ decode 0x80024000 = .error (.field 17)

/-! ## Steps, checks, traps and retirement (04 R107 to R123; 05 R124 to R130) -/

/-- A step runs what is there to run. An event that is due and has its occasion comes first; then an event of the agenda is
executed as it stands; then, with an empty agenda, a stop or the oldest outstanding return. Else it is the turn of an agent,
which takes one CCLK, and in which a group that the partition chooses fetches the word that its PC leads to, through both
stages of translation or from its loop buffer, and executes the instruction that the word decodes to; a group whose wait is
over goes on; inside a REP it executes the stepped target; and a matrix sequencer that runs executes the sequencer word that
its own PC leads to. What a step adds to that is the CCLK that passes, the translation that the fetch used, the end of a
stream read's wait, and what ERET left for a REP or a BAR that the word is not. The model's own readings in it stand in log
5. -/
def Obligations.StepRunsTheDecodedWord : Prop :=
  (∀ s t : State, runFirst s (forced s) = some t → step s = .next t)
  ∧ (∀ (s : State) (i : Instr) (rest : List Turn), NothingDue s → s.agenda = .event i :: rest →
    step s = exec i { s with agenda := rest, free := s.free + 1 })
  ∧ (∀ (s : State) (a : Agent) (rest : List Turn), NothingDue s → s.agenda = .issue a :: rest →
    step s = issue a { s with agenda := rest })
  ∧ (∀ (s : State) (i : Instr), NothingDue s → s.agenda = [] → dueEvent s = some i →
    step s = exec i { s with free := s.free + 1 })
  ∧ (∀ s : State, NothingDue s → s.agenda = [] → dueEvent s = none → step s = issue (nextAgent s) s)
  ∧ (∀ (s s1 s2 s3 : State) (q : Nat) (w : W32) (e : Option TlbEntry) (i : Instr),
    s1 = { tick s with cur := .group q } → mayIssue s1 q = true → TriesAgain s1.me → chosen s1 q = true →
    s2 = settleResume (unmarkMe s1) → s1.me.rep = none → breakHere s2 = none → refreshLoop s2 = .ok s3 →
    groupFetch s3 s3.me.pc = .word w e → decode w = .ok i →
    issue (.group q) s = closeCclk (exec i (addTlb (dieOf q) e s3)))
  ∧ (∀ (s1 : State) (q pa : Nat) (e : Option TlbEntry), s1.cur = .group q → s1.me.loop = none →
    failStage s1 (envOf s1 q) s1.me.failPages s1.me.pc.toNat = none →
    resolve s1 (envOf s1 q) .fetch s1.me.pc.toNat = .mem pa e → fabricDenied s1 s1.me.vf pa = false →
    refreshLoop s1 = .ok s1 ∧
    groupFetch s1 s1.me.pc = .word (wordOfBytes (readPas s1 (keyNum s1 s1.me.vf) pa 4)) e)
  ∧ (∀ (s1 : State) (l : PinnedLoop) (w : W32), s1.me.loop = some l → l.suspended = false → l.holds s1.me.pc = true →
    l.body[((s1.me.pc - l.addr).toNat - 4) / 4]? = some w → groupFetch s1 s1.me.pc = .word w none)
  ∧ (∀ (s s1 s2 : State) (q : Nat) (r : RepRun) (w : W32) (i : Instr),
    s1 = { tick s with cur := .group q } → mayIssue s1 q = true → TriesAgain s1.me → chosen s1 q = true →
    s2 = unmarkMe s1 → s2.me.rep = some r → breakHit s2 (s2.me.pc + 4) (some r.k) = none →
    repWord (s2.vtop s2.me) r = .ok w → decode w = .ok i → issue (.group q) s = closeCclk (exec i s2))
  ∧ (∀ (s s1 t : State) (q : Nat) (b : Blocked) (i : Instr),
    s1 = { tick s with cur := .group q } → mayIssue s1 q = true → s1.me.blocked = some b → wakeOf q b = some i →
    exec i s1 = .next t → issue (.group q) s = closeCclk (.next t))
  ∧ (∀ (s s1 : State) (c k pa : Nat) (e : Option TlbEntry) (w : W32) (i : Instr),
    s1 = { tick s with cur := .sequencer c } → unissued s1 c = none →
    seqRuns s1 c = true → (coreAt s1 c).seq.owner = some k →
    resolve s1 (envOfTeam s1 k) .fetch (coreAt s1 c).seq.pc.toNat = .mem pa e →
    fabricDenied s1 (envOfTeam s1 k).vf pa = false →
    w = wordOfBytes (readPas s1 (keyNum s1 (envOfTeam s1 k).vf) pa 4) → decode w = .ok i →
    0x38 ≤ w.toNat / 2 ^ 26 → w.toNat / 2 ^ 26 ≤ 0x3A →
    issue (.sequencer c) s = closeCclk (exec i (addTlb (c / 64) e s1)))

/-- Whatever runs, memory stays in its canonical form: addresses rise, and no listed byte is 0. -/
def Obligations.StepKeepsMemoryForm : Prop :=
  ∀ s t : State, MemoryWf s → step s = .next t → MemoryWf t

/-- The state right after reset (00 R2, 14 R349, 15 R365, R368, 21 R443): memory has its canonical form and lists nothing,
no group runs and no launch waits, TIME is 0, every function is disabled and its TDI unlocked, and the registers hold the
reset values that the manual gives them. The model's own readings in it stand in log 3. -/
def Obligations.ResetState : Prop :=
  MemoryWf State.reset ∧ State.reset.mem = [] ∧ State.reset.groups = [] ∧ State.reset.launches = [] ∧ State.reset.teams = []
    ∧ State.reset.time = 0
    ∧ (∀ v, (vfAt State.reset v).enabled = false ∧ (vfAt State.reset v).tdi = .unlocked
      ∧ (vfAt State.reset v).wakeRate = 64 ∧ (vfAt State.reset v).wakeBurst = 256)
    ∧ State.reset.binder.period = 1000000 ∧ State.reset.binder.bseed = 1 ∧ State.reset.binder.st = 0
    ∧ (∀ v, State.reset.binder.knobWord v = 0x10001010)
    ∧ State.reset.platform.pwrcap = 2400 ∧ State.reset.platform.twarn = 95 ∧ State.reset.platform.tcrit = 105
    ∧ (∀ core, (coreAt State.reset core).seq.st = .free) ∧ ∀ d, (dieAt State.reset d).held = false

/-- The checks at issue (04 R107 checks 7 to 10 and the waits of 02 R55, R56): a word goes on exactly where no check
applies, and a scalar source without a value traps under T = 1 and makes the word wait under T = 0, as an empty destination
does. The model's own readings in it stand in log 22 and log 23. -/
def Obligations.IssueChecks : Prop :=
  (∀ (w : W32) (uses : List Use) (s : State),
    issueCheck w uses s = none ↔
      (∀ m, .priv m ∈ uses → mayRun s s.me m = true)
      ∧ (∀ u ∈ uses, u.illegal (s.vtop s.me) = none) ∧ (∀ u ∈ uses, u.closed s.me = none)
      ∧ (∀ u ∈ uses, u.emptyTrap s.me uses = none) ∧ (∀ u ∈ uses, u.waits s.me uses = false)
      ∧ (∀ u ∈ uses, u.badRead s s.me uses = none))
  ∧ (∀ (w : W32) (n d : Nat) (t : Bool) (s : State), s.me.sFull n = false →
    issueCheck w [.ss n t 1, .sd d] s =
      some (if t then .trap s 0x04 (n + 1 * 2 ^ 8 + 2 ^ 12)
        else .wait s (.register [] (if s.me.sFull d then [n] else [n, d]))))
  ∧ (∀ (w : W32) (d : Nat) (s : State), s.me.sFull d = false →
    issueCheck w [.sd d] s = some (.wait s (.register [] [d])))
  ∧ (∀ (w : W32) (n : Nat) (s : State), n < 112 → s.vtop s.me ≤ n →
    issueCheck w [.vd n] s = some (.trap s 0x03 n) ∧
    ∀ t, issueCheck w [.vs n t 1] s = some (.trap s 0x03 (n + 2 ^ 8)))
  ∧ (∀ (w : W32) (n : Nat) (t : Bool) (s : State), 112 ≤ n → n < 120 → Tab.find s.me.ports n = none →
    issueCheck w [.vs n t 1] s = some (.trap s 0x12 n))

/-- Major 0x32 executes only at privilege S, or in the PREEMPT handler of a cooperative team, and major 0x33 only in a debug
handler; elsewhere every word of them takes PRIV, whatever its operands (04 R109). -/
def Obligations.PrivilegedWordsTrap : Prop :=
  (∀ (s : State) (i : Instr) (m : Nat),
    ((m = 0x32 ∧ s.me.level = false ∧ (s.me.pact = false ∨ coopOf s s.me = false)
        ∧ ((∃ o : OpDA, i = .cdrain o ∨ i = .cstate o) ∨ (∃ o, i = .cload o)
          ∨ (∃ o : OpA, i = .csaved o ∨ i = .crestart o ∨ i = .msave o ∨ i = .mload o)))
      ∨ (m = 0x33 ∧ s.me.dact = false
        ∧ ((∃ o : OpIdx, i = .mbox o ∨ i = .bpset o) ∨ (∃ o, i = .warm o)
          ∨ (∃ o : OpDA, i = .dhalt o ∨ i = .dresume o ∨ i = .dstep o ∨ i = .dunpin o)))) →
    (∃ q, s.cur = .group q) →
    (encode i).toNat / 2 ^ 26 = m ∧ exec i s = .next (takeTrap s.qid 0x05 (BitVec.ofNat 64 (encode i).toNat) s.me.pc s))
  ∧ (∀ (w : W32) (s : State),
    (issueCheck w [.priv 0x32] s = none ↔ s.me.level = true ∨ (s.me.pact = true ∧ coopOf s s.me = true))
    ∧ (issueCheck w [.priv 0x33] s = none ↔ s.me.dact = true))

/-- Taking a trap, an ordinary one, a debug event or PREEMPT (05 R124, R128, R129): the return address, the code and the
information are saved, TREP says whether the stop lies inside a REP or in a BAR that has arrived, the handler's bit is set,
a pinned loop is suspended (04 R122), a run of hints ends (04 R116) and the PC goes to the handler's address. The
destination of a stream read that waited is full again. An armed step is off: by 20 R441 where the word itself traps, by log
23 where a debug event or PREEMPT is entered. The next word is matched again, but at STEP and PREEMPT, which come between
words (19 R424), and a demand fault that was answered FAIL is forgotten (14 R359). Nothing else of the group changes, and no
other group. A trap inside a handler, a trap whose vector is 0 and a debug event without a debugger halt the group instead
(05 R124, R128): it keeps its registers, and its halt record holds the code, the information and the return address. An
armed step is off, but for one that waits for the ERET of the handler (20 R441). -/
def Obligations.Traps : Prop :=
  (∀ (s : State) (q code : Nat) (info ret : W64),
    let g := groupAt s q
    let debug := code = 0x0D ∨ code = 0x0F ∨ code = 0x10
    let vec := if code = 0x11 then g.pvec else if debug then g.dvec else g.tvec
    g.hact = false → g.dact = false → g.pact = false → vec ≠ 0 →
    (debug → (vfAt s g.vf).dbg.dctl.getLsbD 0 = true) →
    groupAt (takeTrap q code info ret s) q =
      { g.unmark with
        tpc := ret, tcode := BitVec.ofNat 64 code, tinfo := info
        trep := (match g.rep, g.repResume with
            | some r, _ => BitVec.ofNat 64 (2 ^ 6 + r.k % 64)
            | none, some k => BitVec.ofNat 64 (2 ^ 6 + k % 64)
            | none, none => 0)
          ||| (match g.blocked with
            | some (.bar _) => 0x80
            | _ => if g.barHalf then 0x80 else 0)
        hact := !decide debug && !decide (code = 0x11), dact := decide debug, pact := decide (code = 0x11)
        pc := vec, hint := none, rep := none, repResume := none, barHalf := false, blocked := none, step := .off, failPages := []
        suppress := g.suppress && (decide (code = 0x10) || decide (code = 0x11))
        loop := g.loop.map (fun l => { l with suspended := true }) }
    ∧ ∀ q', q' ≠ q → groupAt (takeTrap q code info ret s) q' = groupAt s q')
  ∧ (∀ (s : State) (q code : Nat) (info ret : W64),
    let g := groupAt s q
    let debug := code = 0x0D ∨ code = 0x0F ∨ code = 0x10
    let vec := if code = 0x11 then g.pvec else if debug then g.dvec else g.tvec
    g.hact = true ∨ g.dact = true ∨ g.pact = true ∨ vec = 0 ∨ (debug ∧ (vfAt s g.vf).dbg.dctl.getLsbD 0 = false) →
    let h := groupAt (takeTrap q code info ret s) q
    h.st = .halted ∧ h.halt = { code := BitVec.ofNat 8 code, info := info, ret := ret } ∧ h.pc = ret
      ∧ h.s = g.s ∧ h.v = g.v ∧ h.p = g.p ∧ h.fullS = g.unmark.fullS ∧ h.fullV = g.unmark.fullV ∧ h.hint = none ∧ h.step = (if g.step = .afterEret then .afterEret else .off) ∧ h.mode = g.mode ∧ h.fill = g.fill
      ∧ h.tpc = g.tpc ∧ h.tcode = g.tcode ∧ h.tinfo = g.tinfo ∧ h.trep = g.trep
      ∧ h.hact = g.hact ∧ h.dact = g.dact ∧ h.pact = g.pact)

/-- ERET (05 R130): outside every handler it takes ILLEGAL_OPCODE; inside one it clears the handler's bit, goes to TPC,
resumes a suspended loop where TPC lies in its body and ends it elsewhere, and resumes a REP at TREP[5:0] where TREP[6] is
set. FPSTAT, MODE and TREP[5:0] stay. That a loop which is not suspended stays is log 60's choice: the rule speaks of a
suspended loop only. -/
def Obligations.ReturnFromHandler : Prop :=
  (∀ (s : State), MayGo .eret [] s → s.me.hact = false → s.me.dact = false → s.me.pact = false →
    exec .eret s = .next (takeTrap s.qid 0x01 0x14400000 s.me.pc s))
  ∧ (∀ (s : State), MayGo .eret [] s → s.me.hact = true ∨ s.me.dact = true ∨ s.me.pact = true → Calm s →
    ∃ t, exec .eret s = .next t ∧
      t.me.hact = false ∧ t.me.dact = false ∧ t.me.pact = false ∧ t.me.pc = s.me.tpc ∧ t.me.hint = none
      ∧ t.me.rep = none ∧ t.me.repResume = (if s.me.trep.getLsbD 6 then some (s.me.trep.toNat % 64) else none)
      ∧ t.me.barHalf = s.me.trep.getLsbD 7
      ∧ t.me.trep = s.me.trep &&& ~~~(0xC0 : W64) ∧ t.me.fpstat = s.me.fpstat ∧ t.me.mode = s.me.mode
      ∧ t.me.loop = s.me.loop.bind (fun l => if l.suspended
          then (if l.holds s.me.tpc then some { l with suspended := false, pos := none } else none) else some l)
      ∧ SameRegisters [] [] [] s t ∧ SameOthers s t ∧ SameMemory s t
      ∧ t.me.tpc = s.me.tpc ∧ t.me.tcode = s.me.tcode ∧ t.me.tinfo = s.me.tinfo ∧ t.me.tvec = s.me.tvec
      ∧ t.me.dvec = s.me.dvec ∧ t.me.pvec = s.me.pvec ∧ t.me.level = s.me.level)

/-- Where a group goes on after a word retires (04 R111, R115, R116, R118, R119, R121): at the next word; inside a REP at
the same pair with the next repetition, and after the last one past the target; at the last word of a pinned body back to
its first word, with one iteration fewer left, or past the body with the loop ended. The next issue is no earlier than the
gap that the word's field in a run of hints gives. A group that has issued is not aged. An armed single step is taken after
the stepped word retires, with the address of the next word to execute as its return address (05 R125, R127, 19 R428). -/
def Obligations.Retirement : Prop :=
  (∀ (g : Group) (c : Nat),
    (∀ n, (g.retire n c).lastIssue = c ∧ (g.retire n c).aged = false ∧ (g.retire n c).blocked = none)
    ∧ (g.rep = none → g.loop = none → (g.retire .seq c).pc = g.pc + 4 ∧ (g.retire .seq c).loop = none)
    ∧ (∀ r, g.rep = some r → r.k < r.op.cnt.toNat →
        (g.retire .seq c).pc = g.pc ∧ (g.retire .seq c).rep = some { r with k := r.k + 1 }
          ∧ (g.retire .seq c).notBefore = c + 1)
    ∧ (∀ r, g.rep = some r → r.k = r.op.cnt.toNat → g.loop = none →
        (g.retire .seq c).pc = g.pc + 8 ∧ (g.retire .seq c).rep = none)
    ∧ (∀ l, g.rep = none → g.loop = some l → l.suspended = false → g.pc + 4 = l.addr + BitVec.ofNat 64 (4 * (l.body.length + 1)) →
        (1 < l.remaining.toNat → (g.retire .seq c).pc = l.addr + 4
          ∧ (g.retire .seq c).loop = some { l with remaining := l.remaining - 1 })
        ∧ (l.remaining.toNat ≤ 1 → (g.retire .seq c).pc = g.pc + 4 ∧ (g.retire .seq c).loop = none))
    ∧ (∀ h, g.rep = none → g.hint = some h →
        (g.retire .seq c).notBefore = c + 1 + h.gaps.toNat / 4 ^ h.index % 4
        ∧ (g.retire .seq c).giveWay = h.yields.getLsbD h.index
        ∧ (g.retire .seq c).hint = (if h.index < 7 then some { h with index := h.index + 1 } else none))
    ∧ (∀ p l, (g.retire (.goto p l) c).pc = p ∧ (g.retire (.goto p l) c).loop = l ∧ (g.retire (.goto p l) c).hint = none
        ∧ (g.retire (.goto p l) c).rep = none))
  ∧ (∀ (s : State) (n : Next), s.me.step = .armed →
    (dieAt s (dieOf s.qid)).trace.keeps 0 s.me.vf (cgidOf s.qid s.me) = false →
    ∃ t, retire n s = takeTrap s.qid 0x10 0 (s.me.retire n s.cclk).pc t ∧ t.qid = s.qid
      ∧ t.me = { s.me.retire n s.cclk with step := .off } ∧ SameMemory s t)

/-! ## Scalar words and control flow (05 R131 to R160) -/

/-- The scalar register file (02 R53, 05 R155): a write fills the register that it names, and a write to s0 is discarded; s0
reads as 0 and is always full; every other register stays as it was. -/
def Obligations.ScalarRegisters : Prop :=
  ∀ (g : Group) (n : Nat) (v : W64), n < 64 →
    (n ≠ 0 → (g.writeS n v).readS n = v ∧ (g.writeS n v).sFull n = true) ∧ g.writeS 0 v = g
    ∧ g.readS 0 = 0 ∧ g.sFull 0 = true
    ∧ (∀ m, m < 64 → m ≠ n → (g.writeS n v).readS m = g.readS m ∧ (g.writeS n v).sFull m = g.sFull m
      ∧ (g.emptyS n).readS m = g.readS m ∧ (g.emptyS n).sFull m = g.sFull m)
    ∧ (n ≠ 0 → (g.emptyS n).sFull n = false)

/-- The binary members of majors 0x0C and 0x0D (05 R155, R156, R157, 01 R27): each completes on every value, and S[SD]
becomes what its row gives. The unary members of major 0x0D (05 R157): CLZ and CTZ count the zero bits above and below the
bits that are set, POPC counts the bits that are set, BREV moves bit i to bit 63 − i, and the extensions extend the low
bits. The immediate members of majors 0x0E to 0x10 (05 R158) and the constants of majors 0x11 to 0x13 (05 R159). -/
def Obligations.ScalarArithmetic : Prop :=
  (∀ (o : OpSR) (s : State) (i : Instr) (f : W64 → W64 → W64),
    (i, f) ∈ ([(.add o, fun a b => a + b), (.sub o, fun a b => a - b), (.and o, fun a b => a &&& b),
      (.or o, fun a b => a ||| b), (.xor o, fun a b => a ^^^ b), (.andn o, fun a b => a &&& ~~~b),
      (.shl o, fun a b => a <<< (b.toNat % 64)), (.shr o, fun a b => a >>> (b.toNat % 64)),
      (.sar o, fun a b => a.sshiftRight (b.toNat % 64)), (.rol o, fun a b => a.rotateLeft (b.toNat % 64)),
      (.min o, fun a b => if a.slt b then a else b), (.max o, fun a b => if a.slt b then b else a),
      (.minz o, fun a b => if a < b then a else b), (.maxz o, fun a b => if a < b then b else a),
      (.slt o, fun a b => if a.slt b then 1 else 0), (.sltz o, fun a b => if a < b then 1 else 0),
      (.mul o, fun a b => a * b),
      (.mulh o, fun a b => (a.signExtend 128 * b.signExtend 128).extractLsb' 64 64),
      (.mulhz o, fun a b => (a.zeroExtend 128 * b.zeroExtend 128).extractLsb' 64 64),
      (.div o, fun a b => if b = 0 then 0xFFFF_FFFF_FFFF_FFFF else a.sdiv b),
      (.divz o, fun a b => if b = 0 then 0xFFFF_FFFF_FFFF_FFFF else a / b),
      (.rem o, fun a b => if b = 0 then a else a.srem b), (.remz o, fun a b => if b = 0 then a else a % b)] :
      List (Instr × (W64 → W64 → W64))) →
    MayGo i [.ss o.sa.toNat o.ta 1, .ss o.sb.toNat o.tb 2, .sd o.sd.toNat] s →
    exec i s = .next (retire .seq (putS o.sd.toNat (f (s.me.readS o.sa.toNat) (s.me.readS o.sb.toNat)) s)))
  ∧ (∀ (o : OpSR1) (s : State) (i : Instr) (r : W64 → W64 → Prop),
    (i, r) ∈ ([
      (.clz o, fun a v => v.toNat ≤ 64 ∧ a.toNat < 2 ^ (64 - v.toNat) ∧ (v.toNat < 64 → 2 ^ (63 - v.toNat) ≤ a.toNat)),
      (.ctz o, fun a v => v.toNat ≤ 64 ∧ (∀ k, k < v.toNat → a.getLsbD k = false) ∧ (v.toNat < 64 → a.getLsbD v.toNat = true)),
      (.popc o, fun a v => v.toNat = ((List.range 64).filter a.getLsbD).length),
      (.brev o, fun a v => ∀ k, k < 64 → v.getLsbD (63 - k) = a.getLsbD k),
      (.sextb o, fun a v => v = (a.setWidth 8).signExtend 64), (.sexth o, fun a v => v = (a.setWidth 16).signExtend 64),
      (.sextw o, fun a v => v = (a.setWidth 32).signExtend 64), (.zextw o, fun a v => v = (a.setWidth 32).zeroExtend 64)] :
      List (Instr × (W64 → W64 → Prop))) →
    MayGo i [.ss o.sa.toNat o.ta 1, .sd o.sd.toNat] s →
    ∃ v, r (s.me.readS o.sa.toNat) v ∧ exec i s = .next (retire .seq (putS o.sd.toNat v s)))
  ∧ ((∀ (o : OpSI) (s : State) (i : Instr) (f : W64 → W64 → W64),
    (i, f) ∈ ([(.addi o, fun a b => a + b), (.slti o, fun a b => if a.slt b then 1 else 0),
      (.sltiz o, fun a b => if a < b then 1 else 0), (.andi o, fun a b => a &&& b), (.ori o, fun a b => a ||| b),
      (.xori o, fun a b => a ^^^ b)] : List (Instr × (W64 → W64 → W64))) →
    MayGo i [.ss o.sa.toNat false 1, .sd o.sd.toNat] s →
    exec i s = .next (retire .seq (putS o.sd.toNat (f (s.me.readS o.sa.toNat) (o.imm.signExtend 64)) s)))
  ∧ (∀ (o : OpSh) (s : State) (i : Instr) (f : W64 → Nat → W64),
    (i, f) ∈ ([(.shli o, fun a n => a <<< n), (.shri o, fun a n => a >>> n), (.sari o, fun a n => a.sshiftRight n),
      (.roli o, fun a n => a.rotateLeft n)] : List (Instr × (W64 → Nat → W64))) →
    MayGo i [.ss o.sa.toNat false 1, .sd o.sd.toNat] s →
    exec i s = .next (retire .seq (putS o.sd.toNat (f (s.me.readS o.sa.toNat) o.amt.toNat) s)))
  ∧ (∀ (o : OpSL) (s : State), MayGo (.lis o) [.sd o.sd.toNat] s →
    exec (.lis o) s = .next (retire .seq (putS o.sd.toNat (o.imm.signExtend 64 * 4096) s)))
  ∧ (∀ (o : OpSL) (s : State), MayGo (.addpc o) [.sd o.sd.toNat] s →
    exec (.addpc o) s = .next (retire .seq (putS o.sd.toNat (s.me.pc + o.imm.signExtend 64 * 4096) s)))
  ∧ (∀ (o : OpSL) (s : State), MayGo (.lihi o) [.ss o.sd.toNat false 1, .sd o.sd.toNat] s →
    exec (.lihi o) s
      = .next (retire .seq (putS o.sd.toNat (s.me.readS o.sd.toNat * 2 ^ 20 ||| o.imm.zeroExtend 64) s))))

/-- What scalar arithmetic leaves alone (05 R155: it reads neither MODE nor FILL, raises no FPSTAT flag, never traps on a
value): every register but S[SD], every flag, the control and trap state, the other groups and all memory. What control
transfers (R151 to R153) leave alone: every register but S[63] for the calls, every flag, the control and trap state, the
other groups and all memory. -/
def Obligations.ScalarFrame : Prop :=
  (∀ (s t : State) (i : Instr), exec i s = .next t → Calm s →
    (∀ o : OpSR, i ∈ ([.add o, .sub o, .and o, .or o, .xor o, .andn o, .shl o, .shr o, .sar o, .rol o, .min o, .max o,
        .minz o, .maxz o, .slt o, .sltz o, .mul o, .mulh o, .mulhz o, .div o, .divz o, .rem o, .remz o] : List Instr) →
      MayGo i [.ss o.sa.toNat o.ta 1, .ss o.sb.toNat o.tb 2, .sd o.sd.toNat] s →
      Frame [o.sd.toNat] [] [] [] s t ∧ SameFlags s t)
    ∧ (∀ o : OpSR1, i ∈ ([.clz o, .ctz o, .popc o, .brev o, .sextb o, .sexth o, .sextw o, .zextw o] : List Instr) →
      MayGo i [.ss o.sa.toNat o.ta 1, .sd o.sd.toNat] s → Frame [o.sd.toNat] [] [] [] s t ∧ SameFlags s t)
    ∧ (∀ o : OpSI, i ∈ ([.addi o, .slti o, .sltiz o, .andi o, .ori o, .xori o] : List Instr) →
      MayGo i [.ss o.sa.toNat false 1, .sd o.sd.toNat] s → Frame [o.sd.toNat] [] [] [] s t ∧ SameFlags s t)
    ∧ (∀ o : OpSh, i ∈ ([.shli o, .shri o, .sari o, .roli o] : List Instr) →
      MayGo i [.ss o.sa.toNat false 1, .sd o.sd.toNat] s → Frame [o.sd.toNat] [] [] [] s t ∧ SameFlags s t)
    ∧ (∀ o : OpSL, i ∈ ([.lis o, .addpc o] : List Instr) → MayGo i [.sd o.sd.toNat] s →
      Frame [o.sd.toNat] [] [] [] s t ∧ SameFlags s t)
    ∧ (∀ o : OpSL, i = .lihi o → MayGo i [.ss o.sd.toNat false 1, .sd o.sd.toNat] s →
      Frame [o.sd.toNat] [] [] [] s t ∧ SameFlags s t))
  ∧ (∀ (s t : State) (i : Instr), exec i s = .next t → Calm s →
    (∀ o : OpBr, i ∈ ([.bEqz o, .bNez o, .bLtz o, .bGez o, .bGtz o, .bLez o] : List Instr) →
      MayGo i [.ss o.sa.toNat false 1] s → Frame [] [] [] [] s t ∧ SameFlags s t)
    ∧ (∀ o : OpBrP, i ∈ ([.bPany o, .bPnone o, .bPall o] : List Instr) → MayGo i [] s →
      Frame [] [] [] [] s t ∧ SameFlags s t)
    ∧ (∀ o : OpBrAlways, i = .bAlways o → MayGo i [] s → Frame [] [] [] [] s t ∧ SameFlags s t)
    ∧ (∀ o : OpJ, i = .j o → MayGo i [] s → Frame [] [] [] [] s t ∧ SameFlags s t)
    ∧ (∀ o : OpJ, i = .call o → MayGo i [.sd 63] s → Frame [63] [] [] [] s t ∧ SameFlags s t)
    ∧ (∀ o : OpJr, i = .jr o → MayGo i [.ss o.sa.toNat o.ta 1] s → Frame [] [] [] [] s t ∧ SameFlags s t)
    ∧ (∀ o : OpJr, i = .callr o → MayGo i [.ss o.sa.toNat o.ta 1, .sd 63] s →
      Frame [63] [] [] [] s t ∧ SameFlags s t))

/-- Branches, jumps and calls (05 R151, R152; 04 R103). A branch whose condition holds sets the PC to its address + 4 ×
OFF16, and otherwise the PC advances by 4; the predicate conditions read live slots only. J and CALL go to their address + 4
× OFF26, JR and CALLR to S[SA] with bits [1:0] cleared, read before S[63] is written; CALL and CALLR leave the address of
the next word in S[63]. The words are those of BR, JP and SR format. -/
def Obligations.BranchesAndCalls : Prop :=
  (∀ (s : State) (i : Instr) (uses : List Use) (off : BitVec 16) (taken : Bool),
    ((∃ o : OpBr, off = o.off ∧ uses = [.ss o.sa.toNat false 1] ∧
      (i, taken) ∈ ([(.bEqz o, decide ((s.me.readS o.sa.toNat).toInt = 0)), (.bNez o, decide ((s.me.readS o.sa.toNat).toInt ≠ 0)),
        (.bLtz o, decide ((s.me.readS o.sa.toNat).toInt < 0)), (.bGez o, decide ((s.me.readS o.sa.toNat).toInt ≥ 0)),
        (.bGtz o, decide ((s.me.readS o.sa.toNat).toInt > 0)), (.bLez o, decide ((s.me.readS o.sa.toNat).toInt ≤ 0))] :
        List (Instr × Bool)))
    ∨ (∃ o : OpBrP, off = o.off ∧ uses = [] ∧
      (i, taken) ∈ ([
        (.bPany o, (List.range 32).any (fun k => s.me.live k && (s.me.readP o.pa.toNat).getLsbD k)),
        (.bPnone o, (List.range 32).all (fun k => !(s.me.live k && (s.me.readP o.pa.toNat).getLsbD k))),
        (.bPall o, (List.range 32).all (fun k => !s.me.live k || (s.me.readP o.pa.toNat).getLsbD k))] : List (Instr × Bool)))
    ∨ (∃ o : OpBrAlways, off = o.off ∧ uses = [] ∧ i = .bAlways o ∧ taken = true)) →
    MayGo i uses s →
    exec i s = .next (retire
      (if taken then .goto (s.me.pc + off.signExtend 64 * 4) (s.me.loop.filter (fun l => l.suspended)) else .seq) s))
  ∧ ((∀ (o : OpJ) (s : State), MayGo (.j o) [] s →
    exec (.j o) s = .next (retire (.goto (s.me.pc + o.off.signExtend 64 * 4) (s.me.loop.filter (fun l => l.suspended))) s))
  ∧ (∀ (o : OpJ) (s : State), MayGo (.call o) [.sd 63] s →
    exec (.call o) s = .next (retire (.goto (s.me.pc + o.off.signExtend 64 * 4) (s.me.loop.filter (fun l => l.suspended)))
      (putS 63 (s.me.pc + 4) s)))
  ∧ (∀ (o : OpJr) (s : State), MayGo (.jr o) [.ss o.sa.toNat o.ta 1] s →
    exec (.jr o) s = .next (retire
      (.goto (s.me.readS o.sa.toNat &&& 0xFFFF_FFFF_FFFF_FFFC) (s.me.loop.filter (fun l => l.suspended))) s))
  ∧ (∀ (o : OpJr) (s : State), MayGo (.callr o) [.ss o.sa.toNat o.ta 1, .sd 63] s →
    exec (.callr o) s = .next (retire
      (.goto (s.me.readS o.sa.toNat &&& 0xFFFF_FFFF_FFFF_FFFC) (s.me.loop.filter (fun l => l.suspended)))
      (putS 63 (s.me.pc + 4) s))))
  ∧ (∀ (b : OpBr) (p : OpBrP) (a : OpBrAlways) (j : OpJ) (r : OpJr),
    let cond (n low : Nat) : Nat := 0x06 * 2 ^ 26 + n * 2 ^ 22 + low
    (∀ i n, (i, n) ∈ ([(.bEqz b, 0), (.bNez b, 1), (.bLtz b, 2), (.bGez b, 3), (.bGtz b, 4), (.bLez b, 5)] : List (Instr × Nat)) →
      (encode i).toNat = cond n (b.sa.toNat * 2 ^ 16 + b.off.toNat))
    ∧ (∀ i n, (i, n) ∈ ([(.bPany p, 6), (.bPnone p, 7), (.bPall p, 8)] : List (Instr × Nat)) →
      (encode i).toNat = cond n (p.pa.toNat * 2 ^ 16 + p.off.toNat))
    ∧ (encode (.bAlways a)).toNat = cond 9 a.off.toNat
    ∧ (encode (.j j)).toNat = 0x07 * 2 ^ 26 + j.off.toNat ∧ (encode (.call j)).toNat = 0x08 * 2 ^ 26 + j.off.toNat
    ∧ (encode (.jr r)).toNat = 0x09 * 2 ^ 26 + r.sa.toNat * 2 ^ 10 + r.ta.toNat * 2 ^ 3
    ∧ (encode (.callr r)).toNat = 0x09 * 2 ^ 26 + 1 * 2 ^ 22 + r.sa.toNat * 2 ^ 10 + r.ta.toNat * 2 ^ 3)

/-- LOOP (04 R119 to R121): where the words of its body are read and none of them is a HINT, a LOOP or a REP whose target
lies outside, and no loop is pinned, LOOP pins a copy of the body to run S[CNT] times; with a count of 0 it skips the body.
Each repetition of a REP is its target with every selected field increased by k × stride, in every format and for every
selection of fields that the format has (04 R111, R112); of the selected fields the first, in the order D, A, B, that would
name a register outside the allotment takes ILLEGAL_REG, and the stride of VIOTA takes ILLEGAL_FIELD above 127 (04 R113).
That the report holds the number modulo 128, the order of the fields and the word reported for VIOTA are log 60's choices. A
selected position that the format lacks takes ILLEGAL_FIELD at the REP, and a repetition whose fields fail traps at the
REP's address. The manual's own examples are instances. -/
def Obligations.LoopsAndRepetitions : Prop :=
  (∀ (o : OpLoop) (s : State) (ws : List W32),
    MayGo (.loop o) [.ss o.cnt.toNat false 1] s → s.me.loop = none →
    loopWords s (envOf s s.qid) s.me.failPages (s.me.pc + 4) (o.len.toNat + 1) = .ok ws →
    (∀ k, k < o.len.toNat + 1 → (ws.getD k 0).toNat / 2 ^ 26 ≠ 0x01
      ∧ ((ws.getD k 0).toNat / 2 ^ 26 = 0x0A → (ws.getD k 0).toNat / 2 ^ 20 % 64 ≠ 0)) →
    (ws.getD o.len.toNat 0).toNat / 2 ^ 26 ≠ 0x02 →
    exec (.loop o) s = .next (retire
      (if s.me.readS o.cnt.toNat = 0 then .goto (s.me.pc + BitVec.ofNat 64 (4 * (o.len.toNat + 2))) none
       else .goto (s.me.pc + 4) (some
        { addr := s.me.pc, body := ws, remaining := s.me.readS o.cnt.toNat, suspended := false, refetch := false,
          unread := false })) s))
  ∧ ((∀ (vtop : Nat) (r : RepRun) (d a b : Option Nat),
    (r.target.toNat / 2 ^ 26, d, a, b) ∈ ([0x18, 0x19, 0x1B, 0x1C, 0x1D, 0x21].map (fun m => (m, some 14, some 7, some 0))
      ++ [(0x20, none, some 7, some 0), (0x23, some 14, some 7, none)]
      ++ [0x1A, 0x1E, 0x1F, 0x22, 0x26].map (fun m => (m, some 15, some 8, none)) ++ [(0x24, none, some 8, none)]
      ++ [0x27, 0x28].map (fun m => (m, some 16, some 3, none)) : List (Nat × Option Nat × Option Nat × Option Nat)) →
    (r.op.fmD = true → d.isSome = true) → (r.op.fmA = true → a.isSome = true) → (r.op.fmB = true → b.isSome = true) → vtop ≤ 112 →
    let step := r.k * 2 ^ r.op.str.toNat
    let fields : List (Nat × Nat) := ([(r.op.fmD, d, 0), (r.op.fmA, a, 1), (r.op.fmB, b, 2)] : List (Bool × Option Nat × Nat)).filterMap
      (fun x => if x.1 then x.2.1.map (fun l => (l, x.2.2)) else none)
    let value (f : Nat × Nat) : Nat := r.target.toNat / 2 ^ f.1 % 128 + step
    let stride (f : Nat × Nat) : Bool := r.target.toNat / 2 ^ 26 == 0x26 && r.target.toNat / 2 ^ 23 % 8 == 3 && f.2 == 1
    let fits (f : Nat × Nat) : Prop := if stride f then value f ≤ 127 else value f < vtop
    ((∀ f ∈ fields, fits f) →
      repWord vtop r = .ok (BitVec.ofNat 32 (r.target.toNat + (fields.map (fun f => step * 2 ^ f.1)).sum)))
    ∧ (∀ f before after, fields = before ++ f :: after → (∀ e ∈ before, fits e) → ¬ fits f →
      repWord vtop r = .error (if stride f then (0x02, r.target.toNat + f.1 * 2 ^ 32) else (0x03, value f % 128 + f.2 * 2 ^ 8))))
  ∧ (∀ (o : OpRep) (s : State) (w : W32) (e : Option TlbEntry) (bit : Nat), MayGo (.rep o) [] s →
    groupFetch s (s.me.pc + 4) = .word w e → 0x18 ≤ w.toNat / 2 ^ 26 → w.toNat / 2 ^ 26 ≤ 0x28 →
    (let f := repFields (w.toNat / 2 ^ 26)
     (o.fmD = true ∧ f.1 = none ∧ bit = 19) ∨ ((o.fmD = false ∨ f.1 ≠ none) ∧ o.fmA = true ∧ f.2.1 = none ∧ bit = 18)
      ∨ ((o.fmD = false ∨ f.1 ≠ none) ∧ (o.fmA = false ∨ f.2.1 ≠ none) ∧ o.fmB = true ∧ f.2.2 = none ∧ bit = 17)) →
    exec (.rep o) s = .next (takeTrap s.qid 0x02 (BitVec.ofNat 64 ((encode (.rep o)).toNat + bit * 2 ^ 32)) s.me.pc s))
  ∧ (∀ (s s1 s2 : State) (q code info : Nat) (r : RepRun),
    s1 = { tick s with cur := .group q } → mayIssue s1 q = true → TriesAgain s1.me → chosen s1 q = true →
    s2 = unmarkMe s1 → s2.me.rep = some r → breakHit s2 (s2.me.pc + 4) (some r.k) = none →
    repWord (s2.vtop s2.me) r = .error (code, info) →
    issue (.group q) s = closeCclk (.next (takeTrap q code (BitVec.ofNat 64 info) s2.me.pc s2)))
  ∧ (repWord 64 { k := 1, op := { cnt := 3, fmD := true, fmA := true, fmB := false, str := 1 }, target := 0x6C020428 }
      = .ok 0x6C028528)
  ∧ (repWord 64 { k := 2, op := { cnt := 3, fmD := true, fmA := true, fmB := false, str := 3 }, target := 0x6C0C1828 }
      = .error (0x03, 64)))

/-- HINT opens a run over the eight words that follow and does nothing else (04 R98, R116). REP takes up its target (04
R111), at repetition 0 or where ERET resumes it (04 R114). STAGE, NOP and YIELD change no register: STAGE makes the
registers that it names resident in the operand cache, which holds six (02 R67), and YIELD leaves the active set, and the
cache with it (05 R145). TWAIT goes on once TIME has come (05 R150). -/
def Obligations.PrefixesAndHints : Prop :=
  (∀ (o : OpHint) (s : State), MayGo (.hint o) [] s →
    ∃ h : HintRun, exec (.hint o) s = .next (modMe (fun g => { g.advance (g.pc + 4) with hint := some h, blocked := none }) s)
      ∧ h.index = 0 ∧ (∀ k, k < 8 → h.gaps.toNat / 4 ^ k % 4 = o.gaps.toNat / 4 ^ (7 - k) % 4
        ∧ h.yields.getLsbD k = o.yields.getLsbD (7 - k)))
  ∧ (∀ (o : OpRep) (s : State) (w : W32) (e : Option TlbEntry), MayGo (.rep o) [] s →
    groupFetch s (s.me.pc + 4) = .word w e → 0x18 ≤ w.toNat / 2 ^ 26 → w.toNat / 2 ^ 26 ≤ 0x28 → repBadField o w = none →
    let k := s.me.repResume.getD 0
    exec (.rep o) s = .next (modMe (fun g =>
      if o.cnt.toNat < k then { g with hint := g.hintNext, repResume := none, blocked := none }.advance (g.pc + 8)
      else { g with rep := some { k := k, op := o, target := w }, hint := g.hintNext, repResume := none, blocked := none }) s))
  ∧ (∀ (o : OpStage) (s : State), MayGo (.stage o) [.vname o.vd.toNat 0, .vname o.va.toNat 1, .vname o.vb.toNat 2] s →
    let named := [o.vd.toNat, o.va.toNat, o.vb.toNat]
    ∃ c, exec (.stage o) s = .next (retire .seq (modMe (fun g => { g with cache := c }) s)) ∧ c.length ≤ 6 ∧ (∀ n ∈ named, n ∈ c)
      ∧ (∀ n ∈ c, n ∈ named ∨ n ∈ s.me.cache))
  ∧ (∀ s : State, MayGo .nop [] s → exec .nop s = .next (retire .seq s))
  ∧ (∀ s : State, MayGo .yield [] s →
    exec .yield s = .next (retire .seq (modMe (fun g => { g with active := false, cache := [], yieldedAt := some s.cclk }) s)))
  ∧ (∀ (o : OpA) (s : State), MayGo (.twait o) [.ss o.sa.toNat false 1] s →
    (s.me.readS o.sa.toNat ≤ s.time → exec (.twait o) s = .next (retire .seq s))
    ∧ (s.time < s.me.readS o.sa.toNat → exec (.twait o) s = .next (block (.twait o) s)))

/-- MODE, MODEV, MODER and FILL (05 R139, R140): each masked field of a well-formed MODE takes its value and the others
stay; a MODEV of a reserved value takes ILLEGAL_FIELD that names its scalar operand. -/
def Obligations.ModeAndFill : Prop :=
  (∀ (o : OpMode) (s : State), (Instr.mode o).wellFormed = true → MayGo (.mode o) [] s →
    ∃ m, exec (.mode o) s = .next (retire .seq (modMe (fun g => { g with mode := m }) s))
      ∧ m.toNat % 8 = (if o.mask.getLsbD 0 then o.grd.toNat else s.me.mode.toNat % 8)
      ∧ m.toNat / 2 ^ 3 % 16 = (if o.mask.getLsbD 1 then o.et.toNat else s.me.mode.toNat / 2 ^ 3 % 16)
      ∧ m.toNat / 2 ^ 7 % 8 = (if o.mask.getLsbD 2 then o.rnd.toNat else s.me.mode.toNat / 2 ^ 7 % 8)
      ∧ m.getLsbD 10 = (if o.mask.getLsbD 3 then o.sat else s.me.mode.getLsbD 10)
      ∧ m.getLsbD 11 = (if o.mask.getLsbD 4 then o.ftz else s.me.mode.getLsbD 11)
      ∧ m.getLsbD 12 = (if o.mask.getLsbD 5 then o.nanp else s.me.mode.getLsbD 12) ∧ m.toNat < 2 ^ 13)
  ∧ (∀ (o : OpA) (s : State), MayGo (.modev o) [.ss o.sa.toNat false 1] s →
    let v : W32 := (s.me.readS o.sa.toNat).setWidth 32
    let bad := 2 ^ 13 ≤ v.toNat ∨ 8 < v.toNat / 2 ^ 3 % 16 ∨ v.toNat / 2 ^ 7 % 8 = 0 ∨ v.toNat / 2 ^ 7 % 8 = 7
    (¬bad → exec (.modev o) s = .next (retire .seq (modMe (fun g => { g with mode := v }) s)))
    ∧ (bad → exec (.modev o) s = .next (takeTrap s.qid 0x02
        (BitVec.ofNat 64 ((encode (.modev o)).toNat + 2 ^ 47 + o.sa.toNat * 2 ^ 40)) s.me.pc s)))
  ∧ (∀ (o : OpD) (s : State), MayGo (.moder o) [.sd o.sd.toNat] s →
    exec (.moder o) s = .next (retire .seq (putS o.sd.toNat (s.me.mode.zeroExtend 64) s)))
  ∧ (∀ (o : OpA) (s : State), MayGo (.fill o) [.ss o.sa.toNat false 1] s →
    exec (.fill o) s
      = .next (retire .seq (modMe (fun g => { g with fill := (s.me.readS o.sa.toNat).setWidth 32 }) s)))
  ∧ (∀ (o : OpD) (s : State), MayGo (.fillRd o) [.sd o.sd.toNat] s →
    exec (.fillRd o) s = .next (retire .seq (putS o.sd.toNat (s.me.fill.zeroExtend 64) s)))

/-- SGET reads the special register that its number names (05 R131, R133 to R137), and a number that none bears takes
ILLEGAL_FIELD (05 R132). Register 0x004 holds the number of the function modulo 512 (log 52). SSET writes the special
registers that may be written and ignores reserved bits; a number that none bears or that is read only takes ILLEGAL_FIELD,
and DVEC and PVEC take PRIV at U (05 R131, R132). So does a counter, or its configuration, that counts an event of another
VF; at U a configuration becomes the writer's (19 R434). A write of a counter or of its configuration takes effect at the
end of its CCLK: the value written stands, OVF as it was but where 1 is written to it, and an overflow of that CCLK sets OVF
over it (19 R436). -/
def Obligations.SpecialRegisters : Prop :=
  (∀ (o : OpSget) (s : State),
    (∀ v : W64, (o.num.toNat, v) ∈ ([(0x000, s.time), (0x001, cgidOf s.qid s.me), (0x002, s.me.laneBase),
        (0x003, BitVec.ofNat 64 (s.myTeam.index % 2 ^ 16 + s.me.index % 16 * 2 ^ 16 + (s.myTeam.groups - 1) % 16 * 2 ^ 20)),
        (0x004, BitVec.ofNat 64 (s.me.vf % 512)), (0x005, s.me.fpstat.zeroExtend 64), (0x006, batchView s.me),
        (0x007, BitVec.ofNat 64 (64 + s.myTeam.vext)), (0x008, allotpView s.myTeam), (0x009, s.me.seed.zeroExtend 64),
        (0x00A, s.myTeam.memGen.zeroExtend 64), (0x010, s.me.tvec), (0x011, s.me.tcode), (0x012, s.me.tpc),
        (0x013, s.me.tinfo), (0x014, s.me.trep), (0x015, s.me.dvec), (0x016, s.me.pvec),
        (0x017, BitVec.ofNat 64 (s.me.level.toNat + 2 * (coopOf s s.me).toNat + 4 * s.me.hact.toNat + 8 * s.me.dact.toNat
          + 16 * s.me.pact.toNat + 32 * (dattOf s s.me).toNat))]
        ++ (List.range 16).map (fun k => (0x20 + k, pmcView s (coreOf s.qid) k s.me.vf s.me.level))
        ++ (List.range 16).map (fun k => (0x40 + k, pmccfgView s (coreOf s.qid) k s.me.vf s.me.level)) : List (Nat × W64)) →
      MayGo (.sget o) [.sd o.sd.toNat] s → exec (.sget o) s = .next (retire .seq (putS o.sd.toNat v s)))
    ∧ (o.num.toNat ∉ [0x000, 0x001, 0x002, 0x003, 0x004, 0x005, 0x006, 0x007, 0x008, 0x009, 0x00A, 0x010, 0x011, 0x012, 0x013,
        0x014, 0x015, 0x016, 0x017] ++ (List.range 16).map (fun k => 0x20 + k) ++ (List.range 16).map (fun k => 0x40 + k) →
      MayGo (.sget o) [] s →
      exec (.sget o) s = .next (takeTrap s.qid 0x02 (BitVec.ofNat 64 (encode (.sget o)).toNat) s.me.pc s)))
  ∧ (∀ (o : OpSset) (s : State) (v : W64), v = s.me.readS o.sa.toNat →
    (∀ f : Group → Group, (o.num.toNat, f) ∈ ([(0x005, fun g => { g with fpstat := v.setWidth 5 }),
        (0x009, fun g => { g with seed := v.setWidth 32 }), (0x010, fun g => { g with tvec := v &&& 0xFFFF_FFFF_FFFF_FFFC }),
        (0x011, fun g => { g with tcode := v &&& 0xFF }), (0x012, fun g => { g with tpc := v &&& 0xFFFF_FFFF_FFFF_FFFC }),
        (0x013, fun g => { g with tinfo := v }), (0x014, fun g => { g with trep := v &&& 0xFF })] :
        List (Nat × (Group → Group))) →
      MayGo (.sset o) [.ss o.sa.toNat false 1] s → exec (.sset o) s = .next (retire .seq (modMe f s)))
    ∧ (∀ f : Group → Group, (o.num.toNat, f) ∈ ([(0x015, fun g => { g with dvec := v &&& 0xFFFF_FFFF_FFFF_FFFC }),
        (0x016, fun g => { g with pvec := v &&& 0xFFFF_FFFF_FFFF_FFFC })] : List (Nat × (Group → Group))) →
      (s.me.level = true → MayGo (.sset o) [.ss o.sa.toNat false 1] s → exec (.sset o) s = .next (retire .seq (modMe f s)))
      ∧ (s.me.level = false → MayGo (.sset o) [] s →
        exec (.sset o) s = .next (takeTrap s.qid 0x05 (BitVec.ofNat 64 (encode (.sset o)).toNat) s.me.pc s)))
    ∧ (∀ k, k < 16 →
      let cfg := (Tab.get 0 (coreAt s (coreOf s.qid)).pmccfg k).toNat
      let foreign := s.me.level = false ∧ cfg % 2 ^ 8 ≠ 0 ∧ cfg / 2 ^ 8 % 2 ^ 9 ≠ s.me.vf % 512
      (o.num.toNat = 0x20 + k ∨ o.num.toNat = 0x40 + k → foreign → MayGo (.sset o) [] s →
        exec (.sset o) s = .next (takeTrap s.qid 0x05 (BitVec.ofNat 64 (encode (.sset o)).toNat) s.me.pc s))
      ∧ (o.num.toNat = 0x20 + k → ¬ foreign → MayGo (.sset o) [.ss o.sa.toNat false 1] s →
        exec (.sset o) s = .next (retire .seq (modCore (coreOf s.qid) (fun c => { c with
          pmcSets := c.pmcSets ++ [{ index := k, cfg := false, value := BitVec.ofNat 64 (v.toNat % 2 ^ 48) }] }) s)))
      ∧ (o.num.toNat = 0x40 + k → ¬ foreign → MayGo (.sset o) [.ss o.sa.toNat false 1] s →
        (v.toNat % 256 ≤ 17 → ∃ w : W64, exec (.sset o) s = .next (retire .seq (modCore (coreOf s.qid)
            (fun c => { c with pmcSets := c.pmcSets ++ [{ index := k, cfg := true, value := w }] }) s))
          ∧ w.toNat % 2 ^ 8 = v.toNat % 2 ^ 8 ∧ w.toNat / 2 ^ 8 % 2 ^ 9 = (if s.me.level then v.toNat / 2 ^ 8 % 2 ^ 9 else s.me.vf % 512)
          ∧ w.toNat / 2 ^ 17 = (if cfg / 2 ^ 48 % 2 = 1 ∧ v.getLsbD 48 = false then 2 ^ 31 else 0))
        ∧ (17 < v.toNat % 256 → exec (.sset o) s = .next (takeTrap s.qid 0x02
            (BitVec.ofNat 64 ((encode (.sset o)).toNat + 2 ^ 47 + o.sa.toNat * 2 ^ 40)) s.me.pc s))))
    ∧ (∀ (s : State) (id n : Nat) (c : Core) (w : PmcSet), c.pmcSets = [w] →
      let counted := c.countCclk s id n
      (w.cfg = false → Tab.get 0 (c.close s id n).pmc w.index = w.value ∧ (c.close s id n).pmccfg = counted.pmccfg)
      ∧ (w.cfg = true → Tab.get 0 (c.close s id n).pmccfg w.index
        = if w.index ∈ counted.wrapped then w.value ||| BitVec.ofNat 64 (2 ^ 48) else w.value)
      ∧ (c.close s id n).pmcSets = [] ∧ (c.close s id n).wrapped = [])
    ∧ (∀ (c : Core) (ev vf n k : Nat) (cfg : W64), c.pmccfg = [(k, cfg)] → cfg.toNat % 256 = ev → cfg.toNat / 256 % 512 = vf % 512 →
      (c.count ev vf n).wrapped = if 2 ^ 48 ≤ (Tab.get 0 c.pmc k).toNat + n then k :: c.wrapped else c.wrapped)
    ∧ (o.num.toNat ∉ [0x005, 0x009, 0x010, 0x011, 0x012, 0x013, 0x014, 0x015, 0x016]
        ++ (List.range 16).map (fun k => 0x20 + k) ++ (List.range 16).map (fun k => 0x40 + k) →
      MayGo (.sset o) [] s →
      exec (.sset o) s = .next (takeTrap s.qid 0x02 (BitVec.ofNat 64 (encode (.sset o)).toNat) s.me.pc s)))

/-- EXIT frees the group's slot at once, keeps its outstanding work elsewhere and changes no other group and no memory (05
R146). LEXIT retires the acting live lanes: with none it is a NOP, with all of them it is EXIT, and else each of them
leaves, a slot of a quad that still has a live one being a helper (05 R147, 02 R46). SYSC (05 R149): the 64-byte block at
S[SA], its low six bits cleared, is read; a service below the function's count is requested, with S[SD] empty until the
answer fills it; at or above the count the call takes SYSC_FAIL. The model's own readings in it stand in log 17. -/
def Obligations.ExitsAndSystemCalls : Prop :=
  ((∀ s : State, MayGo .exit [] s → ∃ t, exec .exit s = .next t ∧
    groupAt t s.qid = { Group.empty with gen := s.me.gen } ∧ SameOthers s t ∧ (Calm s → SameMemory s t) ∧ t.returns = s.returns
      ∧ t.copies = s.copies
      ∧ (∀ y, s.me.sysc = some y → (Tab.find t.syscs y.handle.toNat).map (fun r => r.gone) = some true))
  ∧ (∀ s : State, MayGo .lexit [] s → s.me.actLive = 0 → exec .lexit s = .next (retire .seq s))
  ∧ (∀ s : State, MayGo .lexit [] s → MayGo .exit [] s → s.me.actLive ≠ 0 → s.me.actLive = s.me.liveMask →
    exec .lexit s = exec .exit s)
  ∧ (∀ s : State, MayGo .lexit [] s → s.me.actLive ≠ 0 → s.me.actLive ≠ s.me.liveMask →
    ∃ sl, exec .lexit s = .next (retire .seq (modMe (fun g => { g with slots := sl }) s)) ∧ sl.length = 32
      ∧ ∀ k, k < 32 →
        let stays (j : Nat) : Bool := s.me.live j && !s.me.guardMask.getLsbD j
        (stays k = true → sl.getD k { st := .vacant, ident := 0 } = s.me.slot k)
        ∧ (stays k = false → ((sl.getD k { st := .vacant, ident := 0 }).st = .helper ↔
            (List.range 4).any (fun j => stays (k / 4 * 4 + j)) = true)
          ∧ (sl.getD k { st := .vacant, ident := 0 }).st ≠ .live)))
  ∧ (∀ (o : OpDA) (s : State) (va : Nat) (ps : List (Nat × Nat)) (ts : List TlbEntry),
    MayGo (.sysc o) [.ss o.sa.toNat false 1, .sd o.sd.toNat] s → s.me.sysc = none → o.sd ≠ 0 →
    va = (s.me.readS o.sa.toNat).toNat / 64 * 64 →
    Reaches s { size := 64, write := false, atomic := false, vector := true } 0 va ps ts →
    Unwatched s true false 64 [(0, va)] → partsBad s ps = none →
    let word (k : Nat) : W64 := BitVec.ofNat 64 (leNat (((readParts s s.me.vf ps).drop (8 * k)).take 8))
    ((word 0).toNat < (Tab.get 0 s.boot.svccnt s.me.vf).toNat % 256 → Calm s →
      ∃ t, exec (.sysc o) s = .next t ∧ t.me.sFull o.sd.toNat = false ∧ t.me.pc = (s.me.retire .seq s.cclk).pc
        ∧ (∃ y r, t.me.sysc = some y ∧ y.handle = BitVec.ofNat 64 s.nextSysc ∧ y.dest = o.sd.toNat ∧ y.service = word 0
          ∧ y.args = (List.range 7).map (fun k => word (k + 1)) ∧ Tab.find t.syscs s.nextSysc = some r ∧ r.vf = s.me.vf
          ∧ r.service = word 0 ∧ r.args = y.args ∧ r.answer = none ∧ r.gone = false) ∧ SameMemory s t ∧ SameOthers s t)
    ∧ ((Tab.get 0 s.boot.svccnt s.me.vf).toNat % 256 ≤ (word 0).toNat →
      exec (.sysc o) s = .next (takeTrap s.qid 0x14 (BitVec.ofNat 64 ((word 0).toNat % 2 ^ 16)) s.me.pc
        (addTlbs (dieOf s.qid) ts s))))

/-- TRAP retires and then takes trap 0x0E; BRK does not retire and takes debug event 0x0D at its own address (05 R148,
R125). -/
def Obligations.TrapAndBreak : Prop :=
  (∀ (o : OpImm) (s : State), MayGo (.trap o) [] s →
    exec (.trap o) s = .next (takeTrap s.qid 0x0E (o.imm.zeroExtend 64) (s.me.retire .seq s.cclk).pc
      (modMe (fun g => { g with step := if g.step = .afterEret then .afterEret else .off }) (retireWord .seq s))))
  ∧ (∀ (o : OpImm) (s : State), MayGo (.brk o) [] s →
    exec (.brk o) s = .next (takeTrap s.qid 0x0D (o.imm.zeroExtend 64) s.me.pc s))

/-! ## Scalar memory (09 R245 to R258) -/

/-- A scalar load whose access passes its checks and meets neither a watchpoint nor a record of the reuse table completes:
S[SD] is empty and one return is outstanding, which holds the bytes, sign- or zero-extended. A privileged MMIO register is
read in the same way. The model's own readings in it stand in log 25 and log 28. -/
def Obligations.ScalarLoads : Prop :=
  (∀ (o : OpSM) (s : State) (i : Instr) (size : Nat) (signed : Bool) (va : Nat),
    (i, size, signed) ∈ ([(.sldb o, 1, true), (.sldbz o, 1, false), (.sldh o, 2, true), (.sldhz o, 2, false),
      (.sldw o, 4, true), (.sldwz o, 4, false), (.sldd o, 8, false)] : List (Instr × Nat × Bool)) →
    MayGo i [.ss o.sa.toNat false 1, .sd o.sd.toNat] s → NoReuse s →
    va = (s.me.readS o.sa.toNat + o.off.signExtend 64 * BitVec.ofNat 64 size).toNat →
    Unwatched s true false size [(0, va)] →
    (∀ ps ts, Reaches s { size := size, write := false, atomic := false, vector := false } 0 va ps ts →
      ∃ key, exec i s = .next (retire .seq (modMe (Group.emptyS o.sd.toNat)
        (addReturn [.scalar o.sd.toNat (extendScalar size signed (leNat (readParts s s.me.vf ps)))
          ((partsBad s ps).map (fun d => BitVec.ofNat 64 (accessInfo false false 0 va d)))] key (addTlbs (dieOf s.qid) ts s)))))
    ∧ (∀ off, checkLane s (envOf s s.qid) s.me.failPages
        { size := size, write := false, atomic := false, vector := false } 0 va = .ok (.mmio off) →
      ∃ key, exec i s = .next (retire .seq (modMe (Group.emptyS o.sd.toNat)
        (addReturn [.scalar o.sd.toNat (extendScalar size signed (mmioLoad off size s).1) none] key
          (mmioLoad off size s).2)))))
  ∧ (∀ (o : OpSO) (s : State) (i : Instr) (size : Nat) (va : Nat) (ps : List (Nat × Nat)) (ts : List TlbEntry),
    (i, size) ∈ ([(.slda o, 8), (.sldaw o, 4)] : List (Instr × Nat)) →
    MayGo i [.ss o.sa.toNat false 1, .sd o.sd.toNat] s → scopeDenied s s.me.vf o.scp.toNat = false →
    va = (s.me.readS o.sa.toNat + o.off.signExtend 64 * BitVec.ofNat 64 size).toNat → va % size = 0 →
    Unwatched s true false size [(0, va)] →
    Reaches s { size := size, write := false, atomic := false, vector := false } 0 va ps ts →
    exec i s = .next (retire .seq (modMe (Group.emptyS o.sd.toNat)
      (addReturn [.scalar o.sd.toNat (extendScalar size false (leNat (readParts s s.me.vf ps)))
        ((partsBad s ps).map (fun d => BitVec.ofNat 64 (accessInfo false false 0 va d)))] none
        (memGenMe (addTlbs (dieOf s.qid) ts s))))))
  ∧ (∀ size n : Nat, size ∈ [1, 2, 4, 8] → n < 2 ^ (8 * size) →
    extendScalar size true n = (BitVec.ofNat (8 * size) n).signExtend 64 ∧ extendScalar size false n = BitVec.ofNat 64 n)

/-- A scalar store whose access passes its checks and meets no watchpoint completes: the low bytes of S[SD] (R250, and R258
for the releasing store) lie at the address of R246, and the memory generation advances (R65). A doubleword stored to START
of a BTE channel with room starts a copy (R273 to R275), and a store to a privileged MMIO register writes that register
(R218). The model's own readings in it stand in log 28. -/
def Obligations.ScalarStores : Prop :=
  (∀ (o : OpSM) (s : State) (i : Instr) (size : Nat) (va : Nat),
    (i, size) ∈ ([(.sstb o, 1), (.ssth o, 2), (.sstw o, 4), (.sstd o, 8)] : List (Instr × Nat)) →
    MayGo i [.ss o.sa.toNat false 1, .ss o.sd.toNat false 0] s →
    va = (s.me.readS o.sa.toNat + o.off.signExtend 64 * BitVec.ofNat 64 size).toNat →
    Unwatched s false true size [(0, va)] →
    (∀ ps ts, Reaches s { size := size, write := true, atomic := false, vector := false } 0 va ps ts →
      exec i s = .next (retire .seq (memGenMe (writeParts s.me.vf ps (leBytes size (s.me.readS o.sd.toNat).toNat)
        (addTlbs (dieOf s.qid) ts s)))))
    ∧ (∀ off t, checkLane s (envOf s s.qid) s.me.failPages
        { size := size, write := true, atomic := false, vector := false } 0 va = .ok (.aperture off) →
      size = 8 → off % 64 = 0 → startStore (off / 64) (s.me.readS o.sd.toNat) s = some t →
      exec i s = .next (retire .seq (memGenMe t)))
    ∧ (∀ off t, checkLane s (envOf s s.qid) s.me.failPages
        { size := size, write := true, atomic := false, vector := false } 0 va = .ok (.mmio off) →
      mmioStore off size ((s.me.readS o.sd.toNat).toNat % 2 ^ (8 * size)) s = some t →
      exec i s = .next (retire .seq (memGenMe t))))
  ∧ (∀ (o : OpSO) (s : State) (i : Instr) (size : Nat) (va : Nat) (ps : List (Nat × Nat)) (ts : List TlbEntry),
    (i, size) ∈ ([(.sstl o, 8), (.sstlw o, 4)] : List (Instr × Nat)) →
    MayGo i [.ss o.sa.toNat false 1, .ss o.sd.toNat false 0] s → scopeDenied s s.me.vf o.scp.toNat = false →
    va = (s.me.readS o.sa.toNat + o.off.signExtend 64 * BitVec.ofNat 64 size).toNat → va % size = 0 →
    Unwatched s false true size [(0, va)] →
    Reaches s { size := size, write := true, atomic := false, vector := false } 0 va ps ts →
    exec i s = .next (retire .seq (memGenMe (writeParts s.me.vf ps (leBytes size (s.me.readS o.sd.toNat).toNat)
      (addTlbs (dieOf s.qid) ts s)))))

/-- What the scalar stores leave alone: all registers and flags, the control and trap state, the other groups, and every
byte of memory outside the bytes that the store writes (R250, R258) at the address that R246 gives. -/
def Obligations.ScalarStoreFrame : Prop :=
  ∀ (s t : State) (i : Instr) (va size : Nat) (ps : List (Nat × Nat)) (ts : List TlbEntry),
    exec i s = .next t → Calm s → Unwatched s false true size [(0, va)] →
    Reaches s { size := size, write := true, atomic := false, vector := false } 0 va ps ts →
    ((∃ o : OpSM, MayGo i [.ss o.sa.toNat false 1, .ss o.sd.toNat false 0] s ∧
        va = (s.me.readS o.sa.toNat + o.off.signExtend 64 * BitVec.ofNat 64 size).toNat ∧
        (i, size) ∈ ([(.sstb o, 1), (.ssth o, 2), (.sstw o, 4), (.sstd o, 8)] : List (Instr × Nat)))
      ∨ (∃ o : OpSO, MayGo i [.ss o.sa.toNat false 1, .ss o.sd.toNat false 0] s ∧
        scopeDenied s s.me.vf o.scp.toNat = false ∧ va % size = 0 ∧
        va = (s.me.readS o.sa.toNat + o.off.signExtend 64 * BitVec.ofNat 64 size).toNat ∧
        (i, size) ∈ ([(.sstl o, 8), (.sstlw o, 4)] : List (Instr × Nat)))) →
    SameRegisters [] [] [] s t ∧ SamePorts [] s t ∧ SameControl s t ∧ SameTrapState s t ∧ SameOthers s t ∧ SameFlags s t
      ∧ OnlyParts s.me.vf ps s t

/-- The new value that an atomic gives memory (09 R254, R255), in 32 and in 64 bits: from the old value m, the operand v and
the compare value c. A scalar atomic whose access passes its checks completes: in one access the old doubleword is read and
the new value written (`ld` writes nothing), the memory generation advances, and the old value is on its way to S[SD] (`st`
and SD = 0 return none). The codes are those of the vector order of R254. -/
def Obligations.ScalarAtomics : Prop :=
  (∀ (w : Nat) (m v c : BitVec w) (op : Nat) (f : BitVec w → BitVec w → BitVec w → BitVec w), 0 < w →
    (op, f) ∈ ([(0, fun m v _ => m + v), (1, fun m v _ => m &&& v), (2, fun m v _ => m ||| v), (3, fun m v _ => m ^^^ v),
      (4, fun m v _ => if m.slt v then m else v), (5, fun m v _ => if m.slt v then v else m),
      (6, fun m v _ => if m < v then m else v), (7, fun m v _ => if m < v then v else m), (8, fun _ v _ => v),
      (9, fun m v c => if m = c then v else m), (11, fun m _ _ => m), (12, fun _ v _ => v)] :
      List (Nat × (BitVec w → BitVec w → BitVec w → BitVec w))) →
    BitVec.ofNat w (atomicNew w op m.toNat v.toNat c.toNat) = f m v c)
  ∧ (∀ (s : State) (i : Instr) (uses : List Use) (op scp sd sa sb va : Nat) (ps : List (Nat × Nat)) (ts : List TlbEntry),
    ((∃ o : OpSA, scp = o.scp.toNat ∧ sd = o.sd.toNat ∧ sa = o.sa.toNat ∧ sb = o.sb.toNat ∧
      uses = [.ss sa false 1, .ss sb false 2] ++ (if op = 9 then [.ss sd false 0] else []) ++ [.sd sd] ∧
      (i, op) ∈ ([(.satomAdd o, 0), (.satomAnd o, 1), (.satomOr o, 2), (.satomXor o, 3), (.satomMin o, 4),
        (.satomMax o, 5), (.satomMinz o, 6), (.satomMaxz o, 7), (.satomXchg o, 8), (.satomCas o, 9)] : List (Instr × Nat)))
    ∨ (∃ o : OpSALd, scp = o.scp.toNat ∧ sd = o.sd.toNat ∧ sa = o.sa.toNat ∧ sb = 0 ∧ i = .satomLd o ∧ op = 11 ∧
      uses = [.ss sa false 1, .sd sd])
    ∨ (∃ o : OpSASt, scp = o.scp.toNat ∧ sd = 0 ∧ sa = o.sa.toNat ∧ sb = o.sb.toNat ∧ i = .satomSt o ∧ op = 12 ∧
      uses = [.ss sa false 1, .ss sb false 2])) →
    MayGo i uses s → scopeDenied s s.me.vf scp = false → va = (s.me.readS sa).toNat →
    Reaches s { size := 8, write := op != 11, atomic := true, vector := false } 0 va ps ts →
    Unwatched s true true 8 [(0, va)] →
    let m := leNat (readParts s s.me.vf ps)
    let s1 := addTlbs (dieOf s.qid) ts s
    let s2 := if op = 11 then s1
      else writeParts s.me.vf ps (leBytes 8 (atomicNew 64 op m (s.me.readS sb).toNat (s.me.readS sd).toNat)) s1
    exec i s = .next (retire .seq
      (if op = 12 ∨ sd = 0 then memGenMe s2
       else modMe (Group.emptyS sd) (addReturn [.scalar sd (BitVec.ofNat 64 m)
         ((partsBad s ps).map (fun d => BitVec.ofNat 64 (accessInfo false false 0 va d)))] none (memGenMe s2)))))

/-! ## Vector words (06 R161 to R189) -/

/-- How a lane splits into elements (01 R15, 06 R162), what the exact value of an element is (01 R16) and the width rule (01
R26): elements never carry into each other, a result without SAT wraps, and one with SAT clamps. The shapes of results under
a guard that covers every live slot (02 R50): addition, subtraction and multiplication keep affine shapes under a 32-bit ET
without SAT, every other operation is uniform from uniform sources alone. -/
def Obligations.ElementsAndShapes : Prop :=
  ((∀ (w : Nat) (f : List Nat → Nat) (xs : List W32) (j : Nat), w ∈ [8, 16, 32] → j < 32 / w →
    elemOf w j (mapElems w f xs) = f (xs.map (elemOf w j)) % 2 ^ w)
  ∧ (∀ (w j : Nat) (x : W32), w ∈ [8, 16, 32] → j < 32 / w → BitVec.ofNat w (elemOf w j x) = x.extractLsb' (w * j) w)
  ∧ (∀ (w : Nat) (v : BitVec w), w ∈ [8, 16, 32] → intValue true w v.toNat = v.toInt ∧ intValue false w v.toNat = v.toNat)
  ∧ (∀ (w : Nat) (signed : Bool) (x : Int), w ∈ [8, 16, 32] →
    let lo : Int := if signed then -(2 ^ (w - 1)) else 0
    let hi : Int := if signed then 2 ^ (w - 1) - 1 else 2 ^ w - 1
    ((widthRule false signed w x : Int) = x % 2 ^ w)
    ∧ intValue signed w (widthRule true signed w x) = max lo (min x hi)))
  ∧ (∀ (x y b d e c : W32) (n m : Nat) (l k : List W32) (r : VReg),
    shapeAdd true false (.uniform x) (.uniform y) = .u ∧ shapeAdd false false (.uniform x) (.uniform y) = .u
    ∧ shapeAdd true false (.affine b d) (.uniform y) = .a (b + y) d
    ∧ shapeAdd true false (.uniform x) (.affine c e) = .a (x + c) e
    ∧ shapeAdd true false (.affine b d) (.affine c e) = .a (b + c) (d + e)
    ∧ shapeAdd true true (.affine b d) (.uniform y) = .a (b - y) d
    ∧ shapeAdd true true (.uniform x) (.affine c e) = .a (x - c) (-e)
    ∧ shapeAdd true true (.affine b d) (.affine c e) = .a (b - c) (d - e)
    ∧ (∀ p sb, shapeAdd p sb (.general n l) r = .g ∧ shapeAdd p sb r (.general m k) = .g)
    ∧ shapeAdd false false (.affine b d) (.uniform y) = .g
    ∧ shapeMul true (.uniform x) (.uniform y) = .u ∧ shapeMul true (.affine b d) (.uniform y) = .a (b * y) (d * y)
    ∧ shapeMul true (.uniform x) (.affine c e) = .a (x * c) (x * e) ∧ shapeMul true (.affine b d) (.affine c e) = .g
    ∧ (∀ p, shapeMul p (.general n l) r = .g) ∧ shapeMul false (.affine b d) (.uniform y) = .g
    ∧ shapeElem [.uniform x, .uniform y] = .u ∧ shapeElem [.uniform x, .affine c e] = .g ∧ shapeElem [r, .general n l] = .g)

/-- Integer, bitwise and shift members (06 R166 to R168): each completes under every ET and SAT on every value; the result
of each element is the exact result under the width rule, in the shape that its class gives. -/
def Obligations.VectorInteger : Prop :=
  (∀ (o : OpVR) (s : State) (i : Instr) (acc : Bool) (f : List W32 → W32) (sh : VReg → VReg → Shape),
    let m := s.me.mode
    let w := (intView (modeEt m)).w
    let el (sat : Bool) (x : List Int → Int) : List W32 → W32 := mapElems w (fun es =>
      widthRule sat (intView (modeEt m)).signed w (x (es.map (intValue (intView (modeEt m)).signed w))))
    let shift (g : Nat → Nat → Nat) : List W32 → W32 := mapElems w (fun es => g (es.getD 0 0) (es.getD 1 0 % w))
    let other (a b : VReg) : Shape := shapeElem [a, b]
    let uses : List Use := [.vd o.vd.toNat, .vs o.va.toNat o.ta 1, .vs o.vb.toNat o.tb 2]
      ++ (if acc then [.vs o.vd.toNat false 3] else [])
    ((i, acc, f, sh) ∈ ([
        (.vadd o, false, el (modeSat m) (fun x => x.getD 0 0 + x.getD 1 0), shapeAdd (plainInt m) false),
        (.vsub o, false, el (modeSat m) (fun x => x.getD 0 0 - x.getD 1 0), shapeAdd (plainInt m) true),
        (.vmul o, false, el (modeSat m) (fun x => x.getD 0 0 * x.getD 1 0), shapeMul (plainInt m)),
        (.vmulh o, false, el false (fun x => x.getD 0 0 * x.getD 1 0 / 2 ^ w), other),
        (.vmin o, false, el false (fun x => min (x.getD 0 0) (x.getD 1 0)), other),
        (.vmax o, false, el false (fun x => max (x.getD 0 0) (x.getD 1 0)), other),
        (.vabsd o, false, el (modeSat m) (fun x => |x.getD 0 0 - x.getD 1 0|), other),
        (.vand o, false, fun x => x.getD 0 0 &&& x.getD 1 0, other),
        (.vor o, false, fun x => x.getD 0 0 ||| x.getD 1 0, other),
        (.vxor o, false, fun x => x.getD 0 0 ^^^ x.getD 1 0, other),
        (.vandn o, false, fun x => x.getD 0 0 &&& ~~~(x.getD 1 0), other),
        (.vshl o, false, shift (fun a k => a * 2 ^ k % 2 ^ w), other), (.vshr o, false, shift (fun a k => a / 2 ^ k), other),
        (.vsar o, false, shift (fun a k => (intValue true w a / 2 ^ k % 2 ^ w).toNat), other),
        (.vrol o, false, shift (fun a k => (a * 2 ^ k + a / 2 ^ (w - k)) % 2 ^ w), other)] :
        List (Instr × Bool × (List W32 → W32) × (VReg → VReg → Shape)))
      ∨ (i = .vmad o ∧ acc = true ∧ f = el (modeSat m) (fun x => x.getD 0 0 * x.getD 1 0 + x.getD 2 0)
        ∧ sh = fun a b => shapeElem [a, b, srcReg uses s 2])) →
    MayGo i uses s → NoReuse s →
    ∃ t, exec i s = .next (retire .seq (leaveWord s uses t))
      ∧ LaneResult o.vd.toNat (plainRun s (fun k => f ((sourceRegs s.me uses []).map (fun r => r.lane k))))
        (sh (srcReg uses s 0) (srcReg uses s 1)) s t)
  ∧ (∀ (o : OpVI) (s : State) (i : Instr) (f : W32 → W32) (sh : VReg → Shape),
    let m := s.me.mode
    let w := (intView (modeEt m)).w
    let el (x : Int → Int) (a : W32) : W32 := mapElems w (fun es => widthRule (modeSat m) (intView (modeEt m)).signed w
      (x (intValue (intView (modeEt m)).signed w (es.getD 0 0)))) [a]
    let shift (g : Nat → Nat → Nat) (a : W32) : W32 := mapElems w (fun es => g (es.getD 0 0) (o.imm.toNat % w)) [a]
    let b : W32 := o.imm.signExtend 32
    let uses : List Use := [.vd o.vd.toNat, .vs o.va.toNat o.ta 1]
    (i, f, sh) ∈ ([
        (.vaddi o, el (fun x => x + o.imm.toInt), fun r => shapeAdd (plainInt m) false r (.uniform b)),
        (.vmuli o, el (fun x => x * o.imm.toInt), fun r => shapeMul (plainInt m) r (.uniform b)),
        (.vandi o, fun a => a &&& b, fun r => shapeElem [r]), (.vori o, fun a => a ||| b, fun r => shapeElem [r]),
        (.vxori o, fun a => a ^^^ b, fun r => shapeElem [r]),
        (.vshli o, shift (fun a k => a * 2 ^ k % 2 ^ w),
          fun r => shapeMul (plainInt m) r (.uniform (BitVec.ofNat 32 (2 ^ (o.imm.toNat % 32))))),
        (.vshri o, shift (fun a k => a / 2 ^ k), fun r => shapeElem [r]),
        (.vsari o, shift (fun a k => (intValue true w a / 2 ^ k % 2 ^ w).toNat), fun r => shapeElem [r])] :
        List (Instr × (W32 → W32) × (VReg → Shape))) →
    MayGo i uses s → NoReuse s →
    ∃ t, exec i s = .next (retire .seq (leaveWord s uses t))
      ∧ LaneResult o.vd.toNat (plainRun s (fun k => f ((srcReg uses s 0).lane k))) (sh (srcReg uses s 0)) s t)

/-- The values that floating-point elements get at the edges (01 R24, 06 R169, R174): a NaN operand without NANP gives the
canonical NaN and no flag, infinities of opposite signs are invalid, and the SFU's special inputs give the rows of R174.
Floating-point, fused, dot-product and SFU members (06 R163, R169 to R174): under a format that the member accepts each
completes on every value. Every element of every slot is one rounding place in ascending order, the flags of the acting live
slots are ORed into FPSTAT, and outside RS the rounder's state stays. Under another ET the word takes ILLEGAL_FIELD. The
model's own readings in it stand in log 27. -/
def Obligations.VectorFloating : Prop :=
  (∀ (f : Fmt) (env : FpEnv) (l a b : Nat) (mode : W32), f ∈ [Fmt.f32, .h16, .b16] → env.nanp = false →
    ((∃ n p, fpDecode f a = .nan n p) → fpAdd f env l a b = (f.nanBits, 0) ∧ fpSub f env l a b = (f.nanBits, 0)
      ∧ fpMul f env l a b = (f.nanBits, 0))
    ∧ (∀ n, fpDecode f a = .inf n → fpDecode f b = .inf (!n) → fpAdd f env l a b = (f.nanBits, flagNV))
    ∧ (∀ n, fpDecode f a = .inf n → fpDecode f b = .inf n → fpSub f env l a b = (f.nanBits, flagNV))
    ∧ (∀ n e k, fpDecode f a = .inf n → fpDecode f b = .fin k 0 e → fpMul f env l a b = (f.nanBits, flagNV))
    ∧ (∀ member, member < 8 → (∃ n p, fpDecode f a = .nan n p) → sfuOp f env member mode l a = (f.nanBits, 0))
    ∧ (∀ n e, fpDecode f a = .fin n 0 e →
      sfuOp f env 0 mode l a = (withSign f n f.infBits, flagDZ) ∧ sfuOp f env 1 mode l a = (withSign f n f.infBits, flagDZ)
      ∧ sfuOp f env 2 mode l a = (withSign f n 0, 0) ∧ sfuOp f env 3 mode l a = (fpOne f, 0)
      ∧ sfuOp f env 4 mode l a = (withSign f true f.infBits, flagDZ) ∧ sfuOp f env 5 mode l a = (withSign f n 0, 0)
      ∧ sfuOp f env 6 mode l a = (fpOne f, 0) ∧ sfuOp f env 7 mode l a = (withSign f n 0, 0))
    ∧ (fpDecode f a = .inf false →
      sfuOp f env 0 mode l a = (0, 0) ∧ sfuOp f env 1 mode l a = (0, 0) ∧ sfuOp f env 2 mode l a = (f.infBits, 0)
      ∧ sfuOp f env 3 mode l a = (f.infBits, 0) ∧ sfuOp f env 4 mode l a = (f.infBits, 0)
      ∧ sfuOp f env 5 mode l a = (f.nanBits, flagNV) ∧ sfuOp f env 6 mode l a = (f.nanBits, flagNV)
      ∧ sfuOp f env 7 mode l a = (fpOne f, 0))
    ∧ (∀ m e, m ≠ 0 → fpDecode f a = .fin true m e → (env.ftz = false ∨ fpSubnormal f a = false) →
      ∀ member, member ∈ [1, 2, 4] → sfuOp f env member mode l a = (f.nanBits, flagNV)))
  ∧ ((∀ (s : State) (i : Instr) (uses : List Use) (vd : Nat) (rounds : Bool) (f : Fmt → FpEnv → Nat → List Nat → Nat × Flags),
    let env : FpEnv := { rnd := modeRnd s.me.mode, sat := modeSat s.me.mode, ftz := modeFtz s.me.mode, nanp := modeNanp s.me.mode }
    ((∃ (o : OpVR) (acc : Bool), vd = o.vd.toNat ∧ uses = [.vd o.vd.toNat, .vs o.va.toNat o.ta 1, .vs o.vb.toNat o.tb 2]
        ++ (if acc then [.vs o.vd.toNat false 3] else []) ∧
      (i, acc, rounds, f) ∈ ([
        (.vfadd o, false, true, fun f e l x => fpAdd f e l (x.getD 0 0) (x.getD 1 0)),
        (.vfsub o, false, true, fun f e l x => fpSub f e l (x.getD 0 0) (x.getD 1 0)),
        (.vfmul o, false, true, fun f e l x => fpMul f e l (x.getD 0 0) (x.getD 1 0)),
        (.vfmin o, false, false, fun f e _ x => fpMinMax f e false (x.getD 0 0) (x.getD 1 0)),
        (.vfmax o, false, false, fun f e _ x => fpMinMax f e true (x.getD 0 0) (x.getD 1 0)),
        (.vfsgn o, false, false, fun f _ _ x => (x.getD 0 0 % 2 ^ (f.width - 1)
          + x.getD 1 0 / 2 ^ (f.width - 1) % 2 * 2 ^ (f.width - 1), 0)),
        (.vfma o, true, true, fun f e l x => fpFma f e l false false (x.getD 0 0) (x.getD 1 0) (x.getD 2 0)),
        (.vfms o, true, true, fun f e l x => fpFma f e l false true (x.getD 0 0) (x.getD 1 0) (x.getD 2 0)),
        (.vfnma o, true, true, fun f e l x => fpFma f e l true false (x.getD 0 0) (x.getD 1 0) (x.getD 2 0))] :
        List (Instr × Bool × Bool × (Fmt → FpEnv → Nat → List Nat → Nat × Flags))))
    ∨ (∃ o : OpVR1, vd = o.vd.toNat ∧ uses = [.vd o.vd.toNat, .vs o.va.toNat o.ta 1] ∧
      (i, rounds, f) ∈ ([
        (.vfabs o, false, fun f _ _ x => (x.getD 0 0 % 2 ^ (f.width - 1), 0)),
        (.vfneg o, false, fun f _ _ x => (x.getD 0 0 % 2 ^ (f.width - 1)
          + (1 - x.getD 0 0 / 2 ^ (f.width - 1) % 2) * 2 ^ (f.width - 1), 0)),
        (.vrcp o, true, fun f e l x => sfuOp f e 0 s.me.mode l (x.getD 0 0)),
        (.vrsq o, true, fun f e l x => sfuOp f e 1 s.me.mode l (x.getD 0 0)),
        (.vsqrt o, true, fun f e l x => sfuOp f e 2 s.me.mode l (x.getD 0 0)),
        (.vexp2 o, true, fun f e l x => sfuOp f e 3 s.me.mode l (x.getD 0 0)),
        (.vlog2 o, true, fun f e l x => sfuOp f e 4 s.me.mode l (x.getD 0 0)),
        (.vsin o, true, fun f e l x => sfuOp f e 5 s.me.mode l (x.getD 0 0)),
        (.vcos o, true, fun f e l x => sfuOp f e 6 s.me.mode l (x.getD 0 0)),
        (.vtanh o, true, fun f e l x => sfuOp f e 7 s.me.mode l (x.getD 0 0))] :
        List (Instr × Bool × (Fmt → FpEnv → Nat → List Nat → Nat × Flags))))) →
    MayGo i uses s →
    (∀ fm, fpView (modeEt s.me.mode) = some fm → NoReuse s →
      ∃ t run, exec i s = .next (retire .seq (leaveWord s uses t))
        ∧ run = runLanes s.me.guardMask s.me.liveMask s.me.seed (fun seed k =>
          fpElems fm.width rounds env.rnd (f fm env) ((sourceRegs s.me uses []).map (fun r => r.lane k)) seed)
        ∧ LaneResult vd run (if rounds && env.rnd == 6 then .g else shapeElem (sourceRegs s.me uses [])) s t
        ∧ (rounds = false ∨ env.rnd ≠ 6 → run.seed = s.me.seed ∧ ∀ k j, k < 32 → j < 32 / fm.width →
          elemOf fm.width j (run.vals.getD k 0)
            = (f fm env 0 ((sourceRegs s.me uses []).map (fun r => elemOf fm.width j (r.lane k)))).1 % 2 ^ fm.width))
    ∧ (fpView (modeEt s.me.mode) = none → exec i s = .next (takeTrap s.qid 0x02
        (BitVec.ofNat 64 ((encode i).toNat + 3 * 2 ^ 32 + 2 ^ 46)) s.me.pc s)))
  ∧ (∀ (o : OpVR) (s : State),
    let uses : List Use := [.vd o.vd.toNat, .vs o.va.toNat o.ta 1, .vs o.vb.toNat o.tb 2, .vs o.vd.toNat false 3]
    (MayGo (.vdot4i o) uses s → (modeEt s.me.mode = 4 ∨ modeEt s.me.mode = 5) → NoReuse s →
      ∃ t, exec (.vdot4i o) s = .next (retire .seq (leaveWord s uses t))
        ∧ LaneResult o.vd.toNat (plainRun s (fun k =>
          let sg := decide (modeEt s.me.mode = 4)
          let e (r j : Nat) : Int := intValue sg 8 (elemOf 8 j ((srcReg uses s r).lane k))
          BitVec.ofNat 32 (widthRule (modeSat s.me.mode) sg 32 (e 0 0 * e 1 0 + e 0 1 * e 1 1 + e 0 2 * e 1 2 + e 0 3 * e 1 3
            + intValue sg 32 ((srcReg uses s 2).lane k).toNat)))) (shapeElem (sourceRegs s.me uses [])) s t)
    ∧ (MayGo (.vdot2 o) uses s → (modeEt s.me.mode = 7 ∨ modeEt s.me.mode = 8) → NoReuse s →
      ∃ t run, exec (.vdot2 o) s = .next (retire .seq (leaveWord s uses t))
        ∧ run = runLanes s.me.guardMask s.me.liveMask s.me.seed (fun seed k =>
          let d := drawRound (modeRnd s.me.mode) seed
          let r := dot2 (if modeEt s.me.mode = 7 then .h16 else .b16) (fpEnvOf s.me.mode) d.2 ((srcReg uses s 0).lane k)
            ((srcReg uses s 1).lane k) ((srcReg uses s 2).lane k)
          (BitVec.ofNat 32 r.1, r.2, d.1))
        ∧ LaneResult o.vd.toNat run
          (if modeRnd s.me.mode = 6 then .g else shapeElem (sourceRegs s.me uses [])) s t)))

/-- Conversions and block scaling (06 R175 to R177, 01 R28 to R30): VCVT converts the lower element count, element j to
element j, and leaves 0 in every other element; VMXQ writes all 32 slots of a block whatever the guard, and VMXD the element
of its slot. The model's own readings in it stand in log 26. VCMP (06 R178): each member completes under every ET on every
value; a live slot that acts takes the relation over all its elements, a live slot outside the guard keeps its bit, every
other bit is 0. Only NE and UNORD hold of a NaN. -/
def Obligations.ConversionsAndCompares : Prop :=
  ((∀ (o : OpCV) (s : State),
    let uses : List Use := [.vd o.vd.toNat, .vs o.va.toNat o.ta 1]
    let env := fpEnvRnd s.me.mode o.rnd.toNat
    let st := cvtType o.st.toNat
    let dt := cvtType o.dt.toNat
    let draws := (st.fmt.isSome || dt.fmt.isSome) && env.rnd == 6
    MayGo (.vcvt o) uses s → NoReuse s → o.st.toNat < 14 → o.dt.toNat < 14 →
    ∃ t run, exec (.vcvt o) s = .next (retire .seq (leaveWord s uses t))
      ∧ LaneResult o.vd.toNat run (if draws then .g else shapeElem (sourceRegs s.me uses [])) s t
      ∧ (draws = false → run.seed = s.me.seed ∧ ∀ k j, k < 32 → j < 32 / dt.w →
        elemOf dt.w j (run.vals.getD k 0) = (if j < 32 / st.w
          then (cvtElem st dt env 0 (elemOf st.w j ((srcReg uses s 0).lane k))).1 % 2 ^ dt.w else 0)))
  ∧ (∀ (o : OpMX) (s : State),
    let uses : List Use := [.vd o.vd.toNat, .vs o.va.toNat o.ta 1]
    MayGo (.vmxd o) uses s → NoReuse s → modeRnd s.me.mode ≠ 6 →
    ∃ t run, exec (.vmxd o) s = .next (retire .seq (leaveWord s uses t)) ∧ LaneResult o.vd.toNat run .g s t
      ∧ run.seed = s.me.seed ∧ ∀ k, k < 32 → run.vals.getD k 0
        = BitVec.ofNat 32 (mxDequant o.fmt.toNat (fpEnvOf s.me.mode) 0 k (srcReg uses s 0)).1)
  ∧ (∀ (o : OpMX) (s : State),
    let uses : List Use := [.vd o.vd.toNat, .vs o.va.toNat o.ta 1]
    let xs := (List.range 32).map (fun k => if s.me.guardMask.getLsbD k then (srcReg uses s 0).lane k else 0)
    MayGo (.vmxq o) uses s → NoReuse s → o.vd.toNat < 112 →
    ∃ t n, exec (.vmxq o) s = .next (retire .seq (leaveWord s uses t))
      ∧ t.me.vreg o.vd.toNat = .general n (mxQuantize o.fmt.toNat (modeFtz s.me.mode) s.me.liveMask xs).1
      ∧ t.me.vFull o.vd.toNat = true
      ∧ t.me.fpstat = s.me.fpstat ||| (mxQuantize o.fmt.toNat (modeFtz s.me.mode) s.me.liveMask xs).2))
  ∧ ((∀ (o : OpVCmp) (s : State) (i : Instr) (rel : Int → Int → Bool) (frel : Option Ordering → Bool),
    let uses : List Use := [.vs o.va.toNat o.ta 1, .vs o.vb.toNat o.tb 2]
    let v := intView (modeEt s.me.mode)
    let a := srcReg uses s 0
    let b := srcReg uses s 1
    (i, rel, frel) ∈ ([
      (.vcmpEq o, fun a b => decide (a = b), fun r => r == some .eq),
      (.vcmpNe o, fun a b => decide (a ≠ b), fun r => r != some .eq),
      (.vcmpLt o, fun a b => decide (a < b), fun r => r == some .lt),
      (.vcmpLe o, fun a b => decide (a ≤ b), fun r => r == some .lt || r == some .eq),
      (.vcmpGt o, fun a b => decide (a > b), fun r => r == some .gt),
      (.vcmpGe o, fun a b => decide (a ≥ b), fun r => r == some .gt || r == some .eq),
      (.vcmpUnord o, fun _ _ => false, fun r => r.isNone), (.vcmpOrd o, fun _ _ => true, fun r => r.isSome)] :
      List (Instr × (Int → Int → Bool) × (Option Ordering → Bool))) →
    MayGo i uses s →
    ∃ p, exec i s = .next (retire .seq (leaveWord s uses (modMe (Group.writeP o.pd.toNat p) s)))
      ∧ ∀ k, k < 32 → (p &&& s.me.liveMask).getLsbD k = (s.me.live k &&
        (if s.me.guardMask.getLsbD k then
          (match fpView (modeEt s.me.mode) with
          | none => (List.range v.n).all (fun j => rel (intValue v.signed v.w (elemOf v.w j (a.lane k)))
              (intValue v.signed v.w (elemOf v.w j (b.lane k))))
          | some f => (List.range (32 / f.width)).all (fun j =>
              frel (fpOrder f (modeFtz s.me.mode) (elemOf f.width j (a.lane k)) (elemOf f.width j (b.lane k)))))
        else (s.me.readP o.pd.toNat).getLsbD k))))

/-- Permutes and lane moves (06 R164, R179 to R182): each completes on every value. An acting slot reads its source
position, which gives the value of a live or helper slot and FILL elsewhere; VLANEB is uniform, the others are general;
VBPERM writes the value of the highest sender of each live or helper slot. A derivative code takes ILLEGAL_FIELD under an
integer ET. -/
def Obligations.Permutes : Prop :=
  (∀ (s : State) (i : Instr) (uses : List Use) (vd : Nat) (sh : Shape) (pos : Nat → Int),
    let src (t : Int) : W32 := if 0 ≤ t ∧ t < 32 ∧ (s.me.live t.toNat || s.me.helper t.toNat) = true
      then (srcReg uses s 0).lane t.toNat else s.me.fill
    ((∃ o : OpVR, i = .vperm o ∧ uses = [.vd o.vd.toNat, .vs o.va.toNat o.ta 1, .vs o.vb.toNat o.tb 2] ∧ vd = o.vd.toNat
        ∧ sh = .g ∧ pos = fun k => ((((srcReg uses s 1).lane k).toNat % 32 : Nat) : Int))
      ∨ (∃ o : OpVI, uses = [.vd o.vd.toNat, .vs o.va.toNat o.ta 1] ∧ vd = o.vd.toNat ∧
        (i, sh, pos) ∈ ([
          (.vshfx o, .g, fun k => ((k ^^^ o.imm.toNat : Nat) : Int)), (.vslideu o, .g, fun k => (k : Int) - o.imm.toNat),
          (.vslided o, .g, fun k => (k : Int) + o.imm.toNat), (.vlaneb o, .u, fun _ => (o.imm.toNat : Int))] :
          List (Instr × Shape × (Nat → Int))))
      ∨ (∃ (o : OpVI) (c : Nat), i = .vquad o ∧ uses = [.vd o.vd.toNat, .vs o.va.toNat o.ta 1] ∧ vd = o.vd.toNat ∧ sh = .g
        ∧ c = o.imm.toNat ∧ ((c < 3 ∧ pos = fun k => ((k / 4 * 4 + (k % 4 ^^^ (c + 1)) : Nat) : Int))
          ∨ (4 ≤ c ∧ c < 8 ∧ pos = fun k => ((k / 4 * 4 + (c - 4) : Nat) : Int))))) →
    MayGo i uses s → NoReuse s →
    ∃ t, exec i s = .next (retire .seq (leaveWord s uses t))
      ∧ LaneResult vd (plainRun s (fun k => src (pos k))) sh s t)
  ∧ (∀ (o : OpVI) (s : State) (p q : Nat → Nat),
    let uses : List Use := [.vd o.vd.toNat, .vs o.va.toNat o.ta 1]
    let src (t : Nat) : W32 := if (s.me.live t || s.me.helper t) = true then (srcReg uses s 0).lane t else s.me.fill
    (o.imm.toNat, p, q) ∈ ([(8, fun k => k / 4 * 4 + (k % 4 ||| 1), fun k => k / 4 * 4 + (k % 4 &&& 2)),
      (9, fun k => k / 4 * 4 + (k % 4 ||| 2), fun k => k / 4 * 4 + (k % 4 &&& 1)),
      (10, fun k => k / 4 * 4 + 1, fun k => k / 4 * 4), (11, fun k => k / 4 * 4 + 2, fun k => k / 4 * 4)] :
      List (Nat × (Nat → Nat) × (Nat → Nat))) →
    MayGo (.vquad o) uses s →
    (∀ fm, fpView (modeEt s.me.mode) = some fm → NoReuse s → modeRnd s.me.mode ≠ 6 →
      ∃ t run, exec (.vquad o) s = .next (retire .seq (leaveWord s uses t)) ∧ LaneResult o.vd.toNat run .g s t
        ∧ run.seed = s.me.seed ∧ ∀ k j, k < 32 → j < 32 / fm.width → elemOf fm.width j (run.vals.getD k 0)
          = (fpSub fm (fpEnvOf s.me.mode) 0 (elemOf fm.width j (src (p k))) (elemOf fm.width j (src (q k)))).1 % 2 ^ fm.width)
    ∧ (fpView (modeEt s.me.mode) = none → exec (.vquad o) s = .next (takeTrap s.qid 0x02
        (BitVec.ofNat 64 ((encode (.vquad o)).toNat + 3 * 2 ^ 32 + 2 ^ 46)) s.me.pc s)))
  ∧ (∀ (o : OpVR) (s : State) (send : Nat → Nat → Prop),
    let uses : List Use := [.vd o.vd.toNat, .vs o.va.toNat o.ta 1, .vs o.vb.toNat o.tb 2]
    MayGo (.vbperm o) uses s → NoReuse s →
    (send = fun k t => k < 32 ∧ s.me.guardMask.getLsbD k = true ∧ ((srcReg uses s 1).lane k).toNat % 32 = t) →
    ∃ t r, exec (.vbperm o) s = .next (retire .seq (leaveWord s uses t))
      ∧ (o.vd.toNat < 112 → Delivers o.vd.toNat r s t) ∧ SameFlags s t
      ∧ (112 ≤ o.vd.toNat → ∃ mask, t.me.ports = (s.me.pushPort o.vd.toNat r.lanes mask).ports
        ∧ ∀ k, k < 32 → (mask.getLsbD k = true ↔ s.me.live k = true ∧ ∃ j, send j k))
      ∧ ∀ k, k < 32 →
        ((∀ j, ¬ send j k) ∨ (s.me.live k = false ∧ s.me.helper k = false) → r.lane k = (s.me.vreg o.vd.toNat).lane k)
        ∧ (s.me.live k = true ∨ s.me.helper k = true → ∀ j, send j k → (∀ j', send j' k → j' ≤ j) →
          r.lane k = (srcReg uses s 0).lane j))

/-- Scans and reductions (06 R183, R184, 01 R32, R33): each completes under every ET on every value. Outside RS a scan's
live slots under the guard take the chain of the contributing slots before them, their own included or not, the first of an
exclusive scan the identity; a reduction gives S[SB] the value of the tree, or the identity, sign-extended under i32. -/
def Obligations.ScansReductions : Prop :=
  (∀ (o : OpVR1) (s : State) (i : Instr) (kind : Nat) (exclusive : Bool),
    let uses : List Use := [.vd o.vd.toNat, .vs o.va.toNat o.ta 1]
    let m := s.me.mode
    let c := combineOf m kind
    let f (x y : W32) : W32 × Flags := ((c.lanes x y s.me.seed).1, (c.lanes x y s.me.seed).2.1)
    let chain (n : Nat) : Option (W32 × Flags) :=
      chainVal f (((List.range n).filter s.me.actLive.getLsbD).map (srcReg uses s 0).lane)
    let value (k : Nat) : W32 := match chain (if exclusive then k else k + 1) with
      | some x => x.1
      | none => c.unit
    (i, kind, exclusive) ∈ ([(.vscanadd o, 0, false), (.vscanmin o, 1, false), (.vscanmax o, 2, false), (.vscanor o, 3, false),
      (.vxscanadd o, 0, true), (.vxscanmax o, 2, true)] : List (Instr × Nat × Bool)) →
    MayGo i uses s → NoReuse s →
    ∃ t r, exec i s = .next (retire .seq (leaveWord s uses t)) ∧ Delivers o.vd.toNat r s t
      ∧ (¬ (kind = 0 ∧ (fpView (modeEt m)).isSome = true ∧ modeRnd m = 6) → t.me.seed = s.me.seed
        ∧ t.me.fpstat = s.me.fpstat ||| (match chain 32 with
          | some x => x.2
          | none => 0)
        ∧ ∀ k, k < 32 → r.lane k = if s.me.actLive.getLsbD k then value k else (s.me.vreg o.vd.toNat).lane k))
  ∧ (∀ (o : OpVSRed) (s : State) (i : Instr) (kind : Nat),
    let uses : List Use := [.vs o.va.toNat o.ta 1, .sd o.sb.toNat]
    let m := s.me.mode
    let c := combineOf m kind
    (i, kind) ∈ ([(.vredadd o, 0), (.vredmin o, 1), (.vredmax o, 2), (.vredor o, 3), (.vredand o, 4)] : List (Instr × Nat)) →
    MayGo i uses s →
    ∃ v fl seed, exec i s = .next (retire .seq (leaveWord s uses (putS o.sb.toNat
        (if kind ≤ 2 ∧ modeEt m = 0 then v.signExtend 64 else v.zeroExtend 64)
        (modMe (fun g => { g with fpstat := g.fpstat ||| fl, seed := seed }) s))))
      ∧ (¬ (kind = 0 ∧ (fpView (modeEt m)).isSome = true ∧ modeRnd m = 6) → seed = s.me.seed ∧ v = (treeVal (fun x y => (c.lanes x y s.me.seed).1)
          (fun k => if s.me.actLive.getLsbD k then some ((srcReg uses s 0).lane k) else none) 5 0).getD c.unit))
  ∧ (∀ (m a b seed : W32),
    let v := intView (modeEt m)
    let env := fpEnvOf m
    let e (w j : Nat) (x : W32) : Int := intValue v.signed w (elemOf w j x)
    ((combineOf m 3).lanes a b seed).1 = a ||| b ∧ ((combineOf m 4).lanes a b seed).1 = a &&& b
    ∧ (combineOf m 3).unit = 0 ∧ (combineOf m 4).unit = 0xFFFF_FFFF
    ∧ (fpView (modeEt m) = none → (combineOf m 0).unit = 0 ∧ ∀ j, j < v.n →
      elemOf v.w j ((combineOf m 0).lanes a b seed).1 = widthRule (modeSat m) v.signed v.w (e v.w j a + e v.w j b)
      ∧ elemOf v.w j ((combineOf m 1).lanes a b seed).1 = widthRule false v.signed v.w (min (e v.w j a) (e v.w j b))
      ∧ elemOf v.w j ((combineOf m 2).lanes a b seed).1 = widthRule false v.signed v.w (max (e v.w j a) (e v.w j b))
      ∧ intValue v.signed v.w (elemOf v.w j (combineOf m 1).unit) = intMax v.signed v.w
      ∧ intValue v.signed v.w (elemOf v.w j (combineOf m 2).unit) = intMin v.signed v.w)
    ∧ (∀ f, fpView (modeEt m) = some f → modeRnd m ≠ 6 → (combineOf m 0).unit = 0 ∧ ∀ j, j < 32 / f.width →
      elemOf f.width j ((combineOf m 0).lanes a b seed).1
        = (fpAdd f env 0 (elemOf f.width j a) (elemOf f.width j b)).1 % 2 ^ f.width
      ∧ elemOf f.width j ((combineOf m 1).lanes a b seed).1
        = (fpMinMax f env false (elemOf f.width j a) (elemOf f.width j b)).1 % 2 ^ f.width
      ∧ elemOf f.width j ((combineOf m 2).lanes a b seed).1
        = (fpMinMax f env true (elemOf f.width j a) (elemOf f.width j b)).1 % 2 ^ f.width
      ∧ fpDecode f (elemOf f.width j (combineOf m 1).unit) = .inf false
      ∧ fpDecode f (elemOf f.width j (combineOf m 2).unit) = .inf true))

/-- Predicates (06 R185, R186): each completes on every value. A predicate that is written keeps the bits of the live slots
alone, but for QHELP, which sets the bit of a helper whose quad has a live slot with its bit set. Moves, shapes and fields
(06 R187, R188): each completes on every value and under every guard. -/
def Obligations.PredicatesAndMoves : Prop :=
  ((∀ (s : State) (i : Instr) (pd : Nat) (v : W32) (uses : List Use),
    ((∃ o : OpPR2, pd = o.pd.toNat ∧ uses = [] ∧ (i, v) ∈ ([
        (.pand o, s.me.readP o.pa.toNat &&& s.me.readP o.pb.toNat), (.por o, s.me.readP o.pa.toNat ||| s.me.readP o.pb.toNat),
        (.pxor o, s.me.readP o.pa.toNat ^^^ s.me.readP o.pb.toNat),
        (.pandn o, s.me.readP o.pa.toNat &&& ~~~(s.me.readP o.pb.toNat))] : List (Instr × W32)))
      ∨ (∃ o : OpPR1, pd = o.pd.toNat ∧ uses = [] ∧
        (i, v) ∈ ([(.pnot o, ~~~(s.me.readP o.pa.toNat)), (.pmov o, s.me.readP o.pa.toNat)] : List (Instr × W32)))
      ∨ (∃ o : OpPSet, pd = o.pd.toNat ∧ uses = [.ss o.sa.toNat false 1] ∧ i = .pset o
        ∧ v = (s.me.readS o.sa.toNat).setWidth 32)) →
    MayGo i uses s → pd ≠ 0 →
    ∃ t, exec i s = .next (retire .seq t) ∧ t = modMe (Group.writeP pd v) s ∧ t.me.readP pd = v &&& s.me.readP 0
      ∧ ∀ n, n ≠ pd → t.me.readP n = s.me.readP n)
  ∧ (∀ (o : OpPGet) (s : State) (i : Instr) (r : W32 → W64 → Prop),
    (i, r) ∈ ([(.pget o, fun p v => v = p.zeroExtend 64),
      (.pcnt o, fun p v => v.toNat = ((List.range 32).filter (fun k => p.getLsbD k && s.me.live k)).length),
      (.pfirst o, fun p v => v.toNat ≤ 32 ∧ (∀ k, k < v.toNat → (p.getLsbD k && s.me.live k) = false)
        ∧ (v.toNat < 32 → (p.getLsbD v.toNat && s.me.live v.toNat) = true))] : List (Instr × (W32 → W64 → Prop))) →
    MayGo i [.sd o.sd.toNat] s →
    ∃ v, r (s.me.readP o.pa.toNat) v ∧ exec i s = .next (retire .seq (putS o.sd.toNat v s)))
  ∧ (∀ (o : OpPR1) (s : State), MayGo (.qhelp o) [] s → o.pd.toNat ≠ 0 →
    ∃ p, exec (.qhelp o) s = .next (retire .seq (modMe (Group.writePraw o.pd.toNat p) s)) ∧ ∀ k, k < 32 →
      (s.me.live k = true → p.getLsbD k = (s.me.readP o.pa.toNat).getLsbD k)
      ∧ (s.me.live k = false → (p.getLsbD k = true ↔ s.me.helper k = true ∧ ∃ j, j / 4 = k / 4 ∧ s.me.live j = true
        ∧ (s.me.readP o.pa.toNat).getLsbD j = true))))
  ∧ ((∀ (s : State) (i : Instr) (uses : List Use) (vd : Nat) (sh : Shape) (f : Nat → W32),
    let a := srcReg uses s 0
    ((∃ o : OpVS1, i = .vmov o ∧ uses = [.vd o.vd.toNat, .vs o.va.toNat o.ta 1] ∧ vd = o.vd.toNat ∧ f = a.lane
        ∧ sh = (match a with
          | .uniform _ => .u
          | .affine b d => .a b d
          | .general _ _ => .g))
      ∨ (∃ o : OpVBc, i = .vbcast o ∧ uses = [.vd o.vd.toNat, .ss o.sb.toNat false 2] ∧ vd = o.vd.toNat ∧ sh = .u
        ∧ f = fun _ => (s.me.readS o.sb.toNat).setWidth 32)
      ∨ (∃ o : OpVIota, i = .viota o ∧ uses = [.vd o.vd.toNat, .ss o.sb.toNat false 2] ∧ vd = o.vd.toNat
        ∧ sh = .a ((s.me.readS o.sb.toNat).setWidth 32) (o.k.zeroExtend 32)
        ∧ f = fun k => (s.me.readS o.sb.toNat).setWidth 32 + BitVec.ofNat 32 k * o.k.zeroExtend 32)
      ∨ (∃ (o : OpVExt) (c : Nat), i = .vext o
        ∧ uses = [.vd o.vd.toNat, .vs o.va.toNat o.ta 1, .ss o.sb.toNat false 2] ∧ vd = o.vd.toNat ∧ sh = .g
        ∧ c = (s.me.readS o.sb.toNat).toNat
        ∧ f = fun k =>
          let wd := c / 32 % 32 + 1
          let x := (a.lane k).toNat / 2 ^ (c % 32) % 2 ^ wd
          BitVec.ofInt 32 (if (s.me.readS o.sb.toNat).getLsbD 10 ∧ 2 ^ (wd - 1) ≤ x then (x : Int) - 2 ^ wd else x))) →
    MayGo i uses s →
    ∃ t, exec i s = .next (retire .seq (leaveWord s uses t)) ∧ LaneResult vd (plainRun s f) sh s t)
  ∧ (∀ (o : OpVS1) (s : State), let uses : List Use := [.vd o.vd.toNat, .vs o.va.toNat o.ta 1]
    MayGo (.vmova o) uses s → ∃ t, exec (.vmova o) s = .next (retire .seq (leaveWord s uses t))
      ∧ Delivers o.vd.toNat (srcReg uses s 0) s t ∧ SameFlags s t)
  ∧ (∀ (o : OpVS1) (s : State),
    MayGo (.vgen o) [.vname o.vd.toNat 0, .vd o.vd.toNat, .vreg o.va.toNat o.ta 1] s → o.vd.toNat < 112 →
    ∃ t, exec (.vgen o) s = .next (retire .seq t) ∧ Delivers o.vd.toNat (.general 0 (s.me.vreg o.va.toNat).lanes) s t
      ∧ SameFlags s t)
  ∧ (∀ (o : OpVSRed) (s : State), let uses : List Use := [.vreg o.va.toNat o.ta 1, .sd o.sb.toNat]
    MayGo (.vshape o) uses s →
    exec (.vshape o) s = .next (retire .seq (leaveWord s uses (putS o.sb.toNat (match s.me.vreg o.va.toNat with
      | .uniform _ => 0
      | .affine _ _ => 1
      | .general _ _ => 2) s)))))

/-- What the vector words that access no memory leave alone: every register but their destination, the control and trap
state, the other groups and all memory; the ports that they read or write move on, no other port does. -/
def Obligations.VectorFrame : Prop :=
  ∀ (s t : State) (i : Instr) (uses : List Use) (ss vs ps : List Nat), exec i s = .next t → Calm s → MayGo i uses s →
    let fp := (fpView (modeEt s.me.mode)).isSome = true
    ((∃ (o : OpVR) (acc : Bool), ss = [] ∧ vs = [o.vd.toNat] ∧ ps = []
        ∧ uses = [.vd o.vd.toNat, .vs o.va.toNat o.ta 1, .vs o.vb.toNat o.tb 2]
          ++ (if acc then [.vs o.vd.toNat false 3] else [])
        ∧ (acc = false ∧ i ∈ ([.vadd o, .vsub o, .vmul o, .vmulh o, .vmin o, .vmax o, .vabsd o, .vand o, .vor o, .vxor o,
              .vandn o, .vshl o, .vshr o, .vsar o, .vrol o, .vperm o, .vbperm o] : List Instr)
          ∨ acc = false ∧ fp ∧ i ∈ ([.vfadd o, .vfsub o, .vfmul o, .vfmin o, .vfmax o, .vfsgn o] : List Instr)
          ∨ acc = true ∧ i = .vmad o
          ∨ acc = true ∧ fp ∧ i ∈ ([.vfma o, .vfms o, .vfnma o] : List Instr)
          ∨ acc = true ∧ i = .vdot4i o ∧ (modeEt s.me.mode = 4 ∨ modeEt s.me.mode = 5)
          ∨ acc = true ∧ i = .vdot2 o ∧ (modeEt s.me.mode = 7 ∨ modeEt s.me.mode = 8)))
      ∨ (∃ o : OpVR1, ss = [] ∧ vs = [o.vd.toNat] ∧ ps = [] ∧ uses = [.vd o.vd.toNat, .vs o.va.toNat o.ta 1]
        ∧ (fp ∧ i ∈ ([.vfabs o, .vfneg o, .vrcp o, .vrsq o, .vsqrt o, .vexp2 o, .vlog2 o, .vsin o, .vcos o, .vtanh o] :
              List Instr)
          ∨ i ∈ ([.vscanadd o, .vscanmin o, .vscanmax o, .vscanor o, .vxscanadd o, .vxscanmax o] : List Instr)))
      ∨ (∃ o : OpVI, ss = [] ∧ vs = [o.vd.toNat] ∧ ps = [] ∧ uses = [.vd o.vd.toNat, .vs o.va.toNat o.ta 1]
        ∧ (i ∈ ([.vaddi o, .vmuli o, .vandi o, .vori o, .vxori o, .vshli o, .vshri o, .vsari o, .vshfx o, .vslideu o,
              .vslided o, .vlaneb o] : List Instr) ∨ i = .vquad o ∧ (o.imm.toNat < 8 ∨ fp)))
      ∨ (∃ o : OpCV, i = .vcvt o ∧ ss = [] ∧ vs = [o.vd.toNat] ∧ ps = []
        ∧ uses = [.vd o.vd.toNat, .vs o.va.toNat o.ta 1])
      ∨ (∃ o : OpMX, i ∈ ([.vmxq o, .vmxd o] : List Instr) ∧ ss = [] ∧ vs = [o.vd.toNat] ∧ ps = []
        ∧ uses = [.vd o.vd.toNat, .vs o.va.toNat o.ta 1])
      ∨ (∃ o : OpVS1, ss = [] ∧ vs = [o.vd.toNat] ∧ ps = []
        ∧ (i ∈ ([.vmov o, .vmova o] : List Instr) ∧ uses = [.vd o.vd.toNat, .vs o.va.toNat o.ta 1]
          ∨ i = .vgen o ∧ uses = [.vname o.vd.toNat 0, .vd o.vd.toNat, .vreg o.va.toNat o.ta 1]))
      ∨ (∃ o : OpVBc, i = .vbcast o ∧ ss = [] ∧ vs = [o.vd.toNat] ∧ ps = []
        ∧ uses = [.vd o.vd.toNat, .ss o.sb.toNat false 2])
      ∨ (∃ o : OpVIota, i = .viota o ∧ ss = [] ∧ vs = [o.vd.toNat] ∧ ps = []
        ∧ uses = [.vd o.vd.toNat, .ss o.sb.toNat false 2])
      ∨ (∃ o : OpVExt, i = .vext o ∧ ss = [] ∧ vs = [o.vd.toNat] ∧ ps = []
        ∧ uses = [.vd o.vd.toNat, .vs o.va.toNat o.ta 1, .ss o.sb.toNat false 2])
      ∨ (∃ o : OpVSRed, ss = [o.sb.toNat] ∧ vs = [] ∧ ps = []
        ∧ (i ∈ ([.vredadd o, .vredmin o, .vredmax o, .vredand o, .vredor o] : List Instr)
            ∧ uses = [.vs o.va.toNat o.ta 1, .sd o.sb.toNat]
          ∨ i = .vshape o ∧ uses = [.vreg o.va.toNat o.ta 1, .sd o.sb.toNat]))
      ∨ (∃ o : OpVCmp, i ∈ ([.vcmpEq o, .vcmpNe o, .vcmpLt o, .vcmpLe o, .vcmpGt o, .vcmpGe o, .vcmpUnord o, .vcmpOrd o] :
          List Instr) ∧ ss = [] ∧ vs = [] ∧ ps = [o.pd.toNat] ∧ uses = [.vs o.va.toNat o.ta 1, .vs o.vb.toNat o.tb 2])
      ∨ (∃ o : OpPR2, i ∈ ([.pand o, .por o, .pxor o, .pandn o] : List Instr) ∧ ss = [] ∧ vs = [] ∧ ps = [o.pd.toNat]
        ∧ uses = [])
      ∨ (∃ o : OpPR1, i ∈ ([.pnot o, .pmov o, .qhelp o] : List Instr) ∧ ss = [] ∧ vs = [] ∧ ps = [o.pd.toNat] ∧ uses = [])
      ∨ (∃ o : OpPSet, i = .pset o ∧ ss = [] ∧ vs = [] ∧ ps = [o.pd.toNat] ∧ uses = [.ss o.sa.toNat false 1])
      ∨ (∃ o : OpPGet, i ∈ ([.pget o, .pcnt o, .pfirst o] : List Instr) ∧ ss = [o.sd.toNat] ∧ vs = [] ∧ ps = []
        ∧ uses = [.sd o.sd.toNat])) →
    Frame ss vs ps ((uses.filterMap Use.vecOf).filter (fun n => decide (112 ≤ n))) s t

/-- A vector load whose acting live slots all pass the checks, with neither a watchpoint nor a record of the reuse table
met, completes: VD is empty and one return is outstanding, or a write port takes the vector. Each live slot under the guard
gets its own bytes, sign- or zero-extended; a helper slot gets FILL where its address fails a check. The model's own
readings in it stand in log 24 and log 25. -/
def Obligations.VectorLoads : Prop :=
  ∀ (s : State) (i : Instr) (uses : List Use) (a : Acc) (vd : Nat) (signed : Bool) (addr : Nat → Nat)
    (parts : Nat → List (Nat × Nat)),
    let off := srcReg uses s 0
    let at4 (sb : BitVec 6) (o : W32) (scale : Nat) : Nat :=
      (s.me.readS sb.toNat + o.signExtend 64 * BitVec.ofNat 64 scale).toNat
    ((∃ o : OpVM, uses = [.vd o.vd.toNat, .ss o.sb.toNat false 2, .vs o.vo.toNat o.t 1] ∧ vd = o.vd.toNat
        ∧ NoReuse s ∧ a.atomic = false ∧
        ((i, a.size, signed) ∈ ([(.vldw o, 4, false), (.vldh o, 2, true), (.vldhz o, 2, false), (.vldb o, 1, true),
            (.vldbz o, 1, false)] : List (Instr × Nat × Bool)) ∧ addr = (fun k => at4 o.sb (off.lane k) (2 ^ o.sc.toNat))
          ∨ i = .vldq o ∧ a.size = 4 ∧ signed = false
            ∧ addr = (fun k => (at4 o.sb (off.lane (k / 4 * 4)) (2 ^ o.sc.toNat) + 4 * (k % 4)) % 2 ^ 64)))
      ∨ (∃ o : OpVLdu, i = .vldu o ∧ uses = [.vd o.vd.toNat, .ss o.sb.toNat false 2] ∧ vd = o.vd.toNat
        ∧ NoReuse s ∧ a.atomic = false ∧ a.size = 4 ∧ signed = false
        ∧ addr = fun k => (s.me.readS o.sb.toNat + BitVec.ofNat 64 (4 * k)).toNat)
      ∨ (∃ o : OpVO, i = .vlda o ∧ uses = [.vd o.vd.toNat, .ss o.sb.toNat false 2, .vs o.vo.toNat false 1]
        ∧ vd = o.vd.toNat ∧ scopeDenied s s.me.vf o.scp.toNat = false ∧ a.atomic = true ∧ a.size = 4
        ∧ signed = false ∧ addr = fun k => at4 o.sb (off.lane k) 1)) →
    a.write = false → a.vector = true → MayGo i uses s →
    (∀ k, k < 32 → s.me.actLive.getLsbD k = true → ∃ ts, Reaches s a k (addr k) (parts k) ts) →
    Unwatched s true false a.size (((List.range 32).filter s.me.actLive.getLsbD).map (fun k => (k, addr k))) →
    ∃ s1 lanes bad key, exec i s = .next (retire .seq (leaveWord s uses
        (if 112 ≤ vd then modMe (fun g => g.pushPort vd lanes s.me.actLive) s1
         else if s.me.guardMask = 0 then s1
         else modMe (Group.emptyV vd) (addReturn [.vector vd s.me.guardMask s.me.covers lanes bad] key s1))))
      ∧ SameMemory s s1 ∧ SameOthers s s1 ∧ s1.me = s.me
      ∧ (bad = none ↔ ∀ k, k < 32 → s.me.actLive.getLsbD k = true → partsBad s (parts k) = none)
      ∧ lanes.length = 32 ∧ ∀ k, k < 32 → s.me.guardMask.getLsbD k = true →
        let value (ps : List (Nat × Nat)) : W32 :=
          if signed then (BitVec.ofNat (8 * a.size) (leNat (readParts s s.me.vf ps))).signExtend 32
          else BitVec.ofNat 32 (leNat (readParts s s.me.vf ps))
        (s.me.actLive.getLsbD k = true → lanes.getD k 0 = value (parts k))
        ∧ (s.me.actLive.getLsbD k = false →
          (∀ ps ts, Reaches s1 a 0 (addr k) ps ts → lanes.getD k 0 = value ps)
          ∧ ((∀ ps ts, ¬ Reaches s1 a 0 (addr k) ps ts) → lanes.getD k 0 = s.me.fill))

/-- A vector store whose acting live slots all pass the checks, with no watchpoint met, completes: in ascending order each
live slot under the guard writes the low bytes of its lane at its own address, so that of two slots at one address the
higher remains, and the memory generation advances. It changes no register, and no byte outside those that it stores. A
vector atomic whose acting live slots all pass the checks, with no watchpoint met, completes: in ascending order each live
slot under the guard reads its word and writes the new value of it in one access (`ld` writes nothing); the old values are
on their way to VD (`st` returns none). Only the words that the slots name change. -/
def Obligations.VectorStoresAndAtomics : Prop :=
  (∀ (s : State) (i : Instr) (uses : List Use) (a : Acc) (addr : Nat → Nat) (parts : Nat → List (Nat × Nat)),
    let off := srcReg uses s 1
    let at4 (sb : BitVec 6) (o : W32) (scale : Nat) : Nat :=
      (s.me.readS sb.toNat + o.signExtend 64 * BitVec.ofNat 64 scale).toNat
    let slots := (List.range 32).filter s.me.actLive.getLsbD
    ((∃ o : OpVM, uses = [.vs o.vd.toNat o.t 0, .ss o.sb.toNat false 2, .vs o.vo.toNat o.t 1]
        ∧ a.atomic = false ∧
        ((i, a.size) ∈ ([(.vstw o, 4), (.vsth o, 2), (.vstb o, 1)] : List (Instr × Nat))
            ∧ addr = (fun k => at4 o.sb (off.lane k) (2 ^ o.sc.toNat))
          ∨ i = .vstq o ∧ a.size = 4
            ∧ addr = (fun k => (at4 o.sb (off.lane (k / 4 * 4)) (2 ^ o.sc.toNat) + 4 * (k % 4)) % 2 ^ 64)))
      ∨ (∃ o : OpVO, i = .vstl o ∧ uses = [.vs o.vd.toNat false 0, .ss o.sb.toNat false 2, .vs o.vo.toNat false 1]
        ∧ scopeDenied s s.me.vf o.scp.toNat = false ∧ a.atomic = true ∧ a.size = 4
        ∧ addr = fun k => at4 o.sb (off.lane k) 1)) →
    a.write = true → a.vector = true → MayGo i uses s →
    (∀ k, k < 32 → s.me.actLive.getLsbD k = true → ∃ ts, Reaches s a k (addr k) (parts k) ts) →
    Unwatched s false true a.size (slots.map (fun k => (k, addr k))) →
    ∃ s1 t, exec i s = .next (retire .seq (leaveWord s uses (memGenMe t)))
      ∧ t = slots.foldl (fun u k =>
          writeParts s.me.vf (parts k) (leBytes a.size ((srcReg uses s 0).lane k).toNat) u) s1
      ∧ SameMemory s s1 ∧ s1.me = s.me ∧ OnlyParts s.me.vf (slots.flatMap parts) s (memGenMe t)
      ∧ t.me = s.me ∧ SameOthers s (memGenMe t))
  ∧ ((∀ (o : OpAT) (s : State) (i : Instr) (op : Nat) (uses : List Use) (parts : Nat → List (Nat × Nat)) (data cmp off : VReg),
    let slots := (List.range 32).filter s.me.actLive.getLsbD
    let addr (k : Nat) : Nat := (s.me.readS o.sbx.toNat + (off.lane k).signExtend 64).toNat
    (((i, op) ∈ ([(.vatomAdd o, 0), (.vatomAnd o, 1), (.vatomOr o, 2), (.vatomXor o, 3), (.vatomMin o, 4), (.vatomMax o, 5),
          (.vatomMinz o, 6), (.vatomMaxz o, 7), (.vatomXchg o, 8), (.vatomFadd o, 10)] : List (Instr × Nat))
        ∧ uses = [.vd o.vd.toNat, .vs o.vd.toNat false 0, .ss o.sbx.toNat false 2, .vs o.vo.toNat false 1]
        ∧ data = srcReg uses s 0 ∧ off = srcReg uses s 1)
      ∨ (i = .vatomCas o ∧ op = 9 ∧ uses = [.vd o.vd.toNat, .vs o.vd.toNat false 0, .vs (o.vd.toNat + 1) false 0,
          .ss o.sbx.toNat false 2, .vs o.vo.toNat false 1]
        ∧ cmp = srcReg uses s 0 ∧ data = srcReg uses s 1 ∧ off = srcReg uses s 2)
      ∨ (i = .vatomLd o ∧ op = 11 ∧ uses = [.vd o.vd.toNat, .ss o.sbx.toNat false 2, .vs o.vo.toNat false 1]
        ∧ off = srcReg uses s 0)
      ∨ (i = .vatomSt o ∧ op = 12 ∧ uses = [.vs o.vd.toNat false 0, .ss o.sbx.toNat false 2, .vs o.vo.toNat false 1]
        ∧ data = srcReg uses s 0 ∧ off = srcReg uses s 1)) →
    MayGo i uses s → scopeDenied s s.me.vf o.scp.toNat = false →
    (∀ k, k < 32 → s.me.actLive.getLsbD k = true → ∃ ts, Reaches s
      { size := 4, write := op != 11, atomic := true, vector := true } k (addr k) (parts k) ts) →
    Unwatched s true true 4 (slots.map (fun k => (k, addr k))) →
    ∃ s1 bad,
      let upTo (n : Nat) : State := if op = 11 then s1 else ((List.range n).filter s.me.actLive.getLsbD).foldl (fun u k =>
        writeParts s.me.vf (parts k) (leBytes 4 (atomicNew 32 op (leNat (readParts u s.me.vf (parts k)))
          (data.lane k).toNat (cmp.lane k).toNat)) u) s1
      let old (k : Nat) : W32 :=
        if s.me.actLive.getLsbD k then BitVec.ofNat 32 (leNat (readParts (upTo k) s.me.vf (parts k))) else 0
      let lanes := (List.range 32).map old
      let t := memGenMe (upTo 32)
      exec i s = .next (retire .seq (leaveWord s uses
        (if op = 12 then t
         else if 112 ≤ o.vd.toNat then modMe (fun g => g.pushPort o.vd.toNat lanes s.me.actLive) t
         else if s.me.actLive = 0 then t
         else modMe (Group.emptyV o.vd.toNat)
           (addReturn [.vector o.vd.toNat s.me.actLive s.me.covers lanes bad] none t))))
      ∧ SameMemory s s1 ∧ s1.me = s.me ∧ OnlyParts s.me.vf (slots.flatMap parts) s t
      ∧ (bad = none ↔ ∀ k, k < 32 → s.me.actLive.getLsbD k = true → partsBad s (parts k) = none))
  ∧ (∀ m v c : W32, BitVec.ofNat 32 (atomicNew 32 10 m.toNat v.toNat c.toNat) = BitVec.ofNat 32
      (fpAdd .f32 { rnd := 1, sat := false, ftz := false, nanp := false } 0 m.toNat v.toNat).1))

/-! ## Synchronisation, streams and copies (09 R259 to R283) -/

/-- Fences and team barriers (09 R259 to R261): a fence advances MEMGEN; an arrival counts and marks the group, the last one
starts the next phase; BAR and BARW go on once the phase of the group's own arrival has ended and wait until then; BARINIT
sets the expected count once nobody has arrived. The wake events run the part that waits. The model's own readings in it
stand in log 7 and log 54. -/
def Obligations.FencesBarriers : Prop :=
  (∀ (o : OpFence) (s : State), MayGo (.fence o) [] s → scopeDenied s s.me.vf o.scp.toNat = false →
    exec (.fence o) s = .next (retire .seq (memGenMe s)) ∧ (memGenMe s).myTeam.memGen = s.myTeam.memGen + 1
      ∧ (memGenMe s).me = s.me)
  ∧ (∀ (o : OpBar) (s : State),
    let b := s.myTeam.barrier o.id.toNat
    let t := barArrive o.id.toNat s
    (MayGo (.bara o) [] s → exec (.bara o) s = .next (retire .seq t))
    ∧ t.me.bars = Tab.set s.me.bars o.id.toNat { phase := b.phase, unmatched := true }
    ∧ t.myTeam.barrier o.id.toNat = (if b.arrived + 1 = b.expect then { b with arrived := 0, phase := b.phase + 1 }
      else { b with arrived := b.arrived + 1 })
    ∧ (MayGo (.bar o) [] s → s.me.barHalf = false → b.arrived + 1 = b.expect → exec (.bar o) s = .next (retire .seq
      (modMe (fun g => { g with bars := Tab.set g.bars o.id.toNat { phase := b.phase, unmatched := false } }) t)))
    ∧ (MayGo (.bar o) [] s → s.me.barHalf = false → b.arrived + 1 ≠ b.expect → exec (.bar o) s = .next (block (.bar o) t)))
  ∧ (∀ (o : OpBar) (s : State) (i : Instr) (b : Blocked),
    let m := Tab.get { phase := 0, unmatched := false } s.me.bars o.id.toNat
    (i, b) ∈ ([(.bar o, .bar o), (.barw o, .barw o)] : List (Instr × Blocked)) → MayGo i [] s →
    (i = .bar o → s.me.barHalf = true) →
    (m.unmatched = false ∨ (s.myTeam.barrier o.id.toNat).phase ≠ m.phase → exec i s = .next (retire .seq
      (modMe (fun g => { g with bars := Tab.set g.bars o.id.toNat { m with unmatched := false } }) s)))
    ∧ (m.unmatched = true → (s.myTeam.barrier o.id.toNat).phase = m.phase → exec i s = .next (block b s)))
  ∧ (∀ (o : OpBarInit) (s : State),
    let n := (s.me.readS o.sa.toNat).toNat
    let b := s.myTeam.barrier o.id.toNat
    MayGo (.barinit o) [.ss o.sa.toNat false 1] s →
    (1 ≤ n → n ≤ 16 → b.arrived = 0 → exec (.barinit o) s = .next (retire .seq (modTeam s.me.team (fun t =>
      { t with barriers := Tab.set t.barriers o.id.toNat { b with expect := n } }) s)))
    ∧ (1 ≤ n → n ≤ 16 → b.arrived ≠ 0 → exec (.barinit o) s = .next (block (.barinit o) s))
    ∧ (n = 0 ∨ 16 < n → exec (.barinit o) s = .next (takeTrap s.qid 0x02
        (BitVec.ofNat 64 ((encode (.barinit o)).toNat + 2 ^ 47 + o.sa.toNat * 2 ^ 40)) s.me.pc s)))
  ∧ (∀ (o : OpBar) (q : Nat) (s : State),
    let g := groupAt s q
    let m := Tab.get { phase := 0, unmatched := false } g.bars o.id.toNat
    g.st = .running → mayRunAt s (dieOf q) g.vf = true → g.blocked = some (.bar o) ∨ g.blocked = some (.barw o) →
    m.unmatched = false ∨ ((teamAt s g.team).barrier o.id.toNat).phase ≠ m.phase →
    exec (.barrierPhaseWake q) s = .next { retire .seq (modGroup q (fun g =>
      { g with bars := Tab.set g.bars o.id.toNat { m with unmatched := false } }) { s with cur := .group q }) with
        cur := s.cur })
  ∧ (∀ (o : OpBarInit) (q : Nat) (s : State),
    let g := groupAt s q
    let b := (teamAt s g.team).barrier o.id.toNat
    g.st = .running → mayRunAt s (dieOf q) g.vf = true → g.blocked = some (.barinit o) → b.arrived = 0 →
    exec (.barinitResume q) s = .next { retire .seq (modTeam g.team (fun t =>
      { t with barriers := Tab.set t.barriers o.id.toNat { b with expect := (g.readS o.sa.toNat).toNat } })
        { s with cur := .group q }) with cur := s.cur })

/-- Sharing groups (09 R262, R263, 07 R210 to R212): CJOIN gives a team the lowest member number that is free beside it and
a view of all members, refreshes the view of a team that belongs to the group already, and answers all ones where it fails;
CLEAVE leaves the group, and its number leaves every view, once no lock lies on the team's window. Both advance MEMGEN. A
number that a restore under way keeps for a member still in a folio counts as held (log 74). Streams (09 R264 to R268):
SOPEN opens a port on a valid layout record, with p7 as the live mask, and clears p7 where the partition has 32 ports open,
and an open port closes first as by SCLOSE; SCLOSE and SDRAIN of a write port, SDRAIN 0 of every write port in ascending
order, and SOPEN of an open write port take the fault of the port and forget it, wait for its writes, and go on else (R267,
R268); SCLOSE of a port that is not open has no effect; the engine reads the next vector of a read port, or stalls on its
demand fault, and writes the oldest vector of a write port. A read that must wait marks the destination of its word empty
(02 R54). The model's own readings in it stand in log 30. -/
def Obligations.SharingAndStreams : Prop :=
  ((∀ (o : OpCJoin) (s : State) (key : W64),
    let t := s.myTeam
    let held (m : Nat) : Bool := s.teams.any (fun e => match e.2.share with
      | some sh => e.2.vf == t.vf && e.2.core / 4 == t.core / 4 && sh.key == key && sh.member == m
      | none => false)
      || (savedMembers s t.vf).any (fun x => x.key == key && x.number == m
        && x.goesTo (vfAt s t.vf).ctx.homes (t.core / 4))
    let joined (sh : Share) : Out := .next (retire .seq (memGenMe (putS o.sd.toNat (BitVec.ofNat 64 sh.member)
      (modTeam s.me.team (fun t => { t with share := some sh }) s))))
    key = s.me.readS o.sa.toNat → MayGo (.cjoin o) [.ss o.sa.toNat false 1, .sd o.sd.toNat] s →
    (∀ m, t.share = none → m < 16 → held m = false → (∀ j, j < m → held j = true) →
      ∃ view, exec (.cjoin o) s = joined { key := key, member := m, view := view, exposure := o.exp.toNat }
        ∧ ∀ j, j < 16 → view.getLsbD j = (held j || decide (j = m)))
    ∧ (∀ sh, t.share = some sh → sh.key = key →
      ∃ view, exec (.cjoin o) s = joined { sh with view := view, exposure := o.exp.toNat }
        ∧ ∀ j, j < 16 → view.getLsbD j = held j)
    ∧ ((t.share = none ∧ ∀ j, j < 16 → held j = true) ∨ (∃ sh, t.share = some sh ∧ sh.key ≠ key) →
      exec (.cjoin o) s = .next (retire .seq (memGenMe (putS o.sd.toNat 0xFFFF_FFFF_FFFF_FFFF s)))))
  ∧ (∀ (s : State), MayGo .cleave [] s →
    (s.myTeam.share = none → exec .cleave s = .next (retire .seq (memGenMe s)))
    ∧ (∀ sh, s.myTeam.share = some sh → pagesLocked s s.myTeam (List.range s.myTeam.pages.length) = false →
      ∃ t, exec .cleave s = .next (retire .seq (memGenMe t)) ∧ t.teams = s.teams.map (fun e =>
        if e.1 = s.me.team then (e.1, { e.2 with share := none })
        else match e.2.share with
          | some o => if e.2.vf = s.myTeam.vf ∧ o.key = sh.key ∧ e.2.core / 4 = s.myTeam.core / 4 then
              (e.1, { e.2 with share := some { o with view := o.view &&& ~~~ BitVec.ofNat 16 (2 ^ sh.member) } }) else e
          | none => e))
    ∧ (∀ sh, s.myTeam.share = some sh → pagesLocked s s.myTeam (List.range s.myTeam.pages.length) = true →
      exec .cleave s = .next (block .cleave s))))
  ∧ (let forget (n : Nat) (s : State) : State := modMe (fun g => { g with ports := g.ports.map (fun e =>
    if e.1 = n then (e.1, { e.2 with fault := none }) else e) }) s
  (∀ (o : OpSOpen) (s s1 s2 : State) (r : BitVec 512),
    let n := o.port.toNat
    MayGo (.sopen o) [.ss o.sa.toNat false 1] s → readRecord64 (s.me.readS o.sa.toNat).toNat s = .ok (r, s1) →
    tlrValid r = true →
    (Tab.find s1.me.ports n = none ∧ s2 = s1
      ∨ (∃ p, Tab.find s1.me.ports n = some p ∧ (n < 120 ∧ s2 = closePort n s1
        ∨ 120 ≤ n ∧ p.buffer = [] ∧ p.fault = none ∧ s2 = memGenMe (closePort n s1)))) →
    (openPorts s2 s2.qid < 32 → exec (.sopen o) s = .next (retire .seq (modMe (fun g =>
      { g.writePraw 7 g.liveMask with
        ports := Tab.set g.ports n { tlr := r, pos := 0, buffer := [], fault := none } }) s2)))
    ∧ (32 ≤ openPorts s2 s2.qid → exec (.sopen o) s = .next (retire .seq (modMe (Group.writePraw 7 0) s2))))
  ∧ (∀ (o : OpSOpen) (s s1 : State) (r : BitVec 512) (p : Port),
    let n := o.port.toNat
    MayGo (.sopen o) [.ss o.sa.toNat false 1] s → readRecord64 (s.me.readS o.sa.toNat).toNat s = .ok (r, s1) →
    tlrValid r = true → Tab.find s1.me.ports n = some p → 120 ≤ n →
    (p.buffer ≠ [] → p.fault = none → exec (.sopen o) s = .next (block (.port n) s1))
    ∧ (∀ f, p.fault = some f → exec (.sopen o) s = .next (takeTrap s1.qid f.code.toNat
        (BitVec.ofNat 64 (accessInfo f.lockWrite f.write f.slot f.va.toNat f.detail.toNat)) s1.me.pc (forget n s1))))
  ∧ (∀ (o : OpPort) (s : State),
    let n := o.port.toNat
    let idle (m : Nat) : Prop := ∀ p, Tab.find s.me.ports m = some p → p.buffer = [] ∧ p.fault = none
    let close := modMe (fun g => { g with ports := Tab.del g.ports n }) s
    (MayGo (.sclose o) [] s → Tab.find s.me.ports n = none → exec (.sclose o) s = .next (retire .seq s))
    ∧ (∀ p, MayGo (.sclose o) [] s → Tab.find s.me.ports n = some p → n < 120 → exec (.sclose o) s = .next (retire .seq close))
    ∧ (∀ p, MayGo (.sclose o) [] s → Tab.find s.me.ports n = some p → 120 ≤ n → idle n →
      exec (.sclose o) s = .next (retire .seq (memGenMe close)))
    ∧ (MayGo (.sdrain o) [] s → (n = 0 ∧ ∀ m, 120 ≤ m → m < 128 → idle m) ∨ (120 ≤ n ∧ idle n) →
      exec (.sdrain o) s = .next (retire .seq (memGenMe s)))
    ∧ (∀ (i : Instr) (b : Blocked) (ns : List Nat), MayGo i [] s →
      ((i = .sclose o ∧ b = .sclose o ∨ i = .sdrain o ∧ b = .sdrain o) ∧ 120 ≤ n ∧ ns = [n]
        ∨ i = .sdrain o ∧ b = .sdrain o ∧ n = 0 ∧ ns = [120, 121, 122, 123, 124, 125, 126, 127]) →
      let quiet (m : Nat) : Prop := ∀ p, Tab.find s.me.ports m = some p → p.fault = none
      ((∀ m ∈ ns, quiet m) → (∃ m ∈ ns, ∃ p, Tab.find s.me.ports m = some p ∧ p.buffer ≠ []) →
        exec i s = .next (block b s))
      ∧ (∀ m p f, m ∈ ns → (∀ j ∈ ns, j < m → quiet j) → Tab.find s.me.ports m = some p → p.fault = some f →
        exec i s = .next (takeTrap s.qid f.code.toNat
          (BitVec.ofNat 64 (accessInfo f.lockWrite f.write f.slot f.va.toNat f.detail.toNat)) s.me.pc (forget m s)))))
  ∧ (∀ (o : OpPort) (q : Nat) (s : State) (p : Port),
    let g := groupAt s q
    let close := modGroup q (fun g => { g with ports := Tab.del g.ports o.port.toNat }) { s with cur := .group q }
    g.st = .running → mayRunAt s (dieOf q) g.vf = true → 120 ≤ o.port.toNat → Tab.find g.ports o.port.toNat = some p →
    p.buffer = [] → p.fault = none →
    (g.blocked = some (.sdrain o) →
      exec (.sdrainDone q) s = .next { retire .seq (memGenMe { s with cur := .group q }) with cur := s.cur })
    ∧ (g.blocked = some (.sclose o) →
      exec (.sdrainDone q) s = .next { retire .seq (memGenMe close) with cur := s.cur }))
  ∧ (∀ (q n : Nat) (s : State) (p : Port) (vs : List (Option W32)), Tab.find (groupAt s q).ports n = some p → n < 120 →
    p.buffer.length < 4 → p.fault = none → p.stall = none → 32 * (p.pos + p.buffer.length) < tlrElems p.tlr →
    (dieAt s (dieOf q)).held = false → streamVector s q p.tlr (p.pos + p.buffer.length) 32 = .ok vs →
    exec (.streamReadFill q n) s = .next (unblock q (modPort q n (fun p => { p with
      buffer := p.buffer ++ [(vs.map (fun v => v.getD 0), maskOf (fun j => (vs.getD j none).isNone))] }) s)))
  ∧ (∀ (q n : Nat) (s s1 : State) (p : Port) (v : List W32) (mask : W32) (rest : List (List W32 × W32)),
    Tab.find (groupAt s q).ports n = some p → 120 ≤ n → p.buffer = (v, mask) :: rest → p.fault = none →
    p.stall = none → (dieAt s (dieOf q)).held = false →
    (streamStore q p.tlr p.pos v mask 32 s = (s1, none) → exec (.streamWritePerform q n) s
      = .next (unblock q (modPort q n (fun p => { p with pos := p.pos + 1, buffer := rest }) s1)))
    ∧ (∀ k f, streamStore q p.tlr p.pos v mask 32 s = (s1, some (k, .fault f)) →
      ∃ t, exec (.streamWritePerform q n) s = .next t ∧ ∀ p1, Tab.find (groupAt s1 q).ports n = some p1 →
        ∃ left, Tab.find (groupAt t q).ports n = some { p1 with buffer := (v, left) :: rest, fault := some f }
          ∧ ∀ j, j < 32 → left.getLsbD j = (mask.getLsbD j && decide (k ≤ j))))
  ∧ (∀ (q n : Nat) (s : State) (p : Port) (st pg : Nat) (f : AccessFault), Tab.find (groupAt s q).ports n = some p → n < 120 →
    p.buffer.length < 4 → p.fault = none → p.stall = none → 32 * (p.pos + p.buffer.length) < tlrElems p.tlr →
    (dieAt s (dieOf q)).held = false → streamVector s q p.tlr (p.pos + p.buffer.length) 32 = .error (.demand st pg f) →
    ∃ t, exec (.streamReadFill q n) s = .next t
      ∧ Tab.find (groupAt t q).ports n = some { p with stall := some (st, pg, f) })
  ∧ (∀ (w : W32) (uses : List Use) (n d : Nat) (s t : State) (b : Blocked) (q : Nat), s.cur = .group q → 112 ≤ n → n < 120 →
    .vs n false 1 ∈ uses → .vd d ∈ uses → d < 112 → issueCheck w uses s = some (.wait t b) →
    Use.waits s.me uses (.vs n false 1) = true → s.me.vFull d = true → t.me.vFull d = false))

/-- Batches (09 R277 to R280): BCLOSE gives S[SD] the number of the open batch and opens the next, after 0xFFFF_FFFF the
batch 1, and waits while 8 closed batches are incomplete; BWAIT goes on once the batches up to the number in S[SA] are
complete and reports the oldest failure among them, once. The wake events run the part that waits. Transaction barriers (09
R281 to R283): TBINIT writes a fresh record, TBARR and TBEXP update it, TBWAIT reads it and goes on once its phase is not
the one observed before. An update loses an arrival and sectors, and where both are 0 the phase advances and the counts are
loaded again; an arrival beyond the expected ones sets ERROR. The model's own readings in it stand in log 54. -/
def Obligations.BatchesAndTransactions : Prop :=
  ((∀ (o : OpBClose) (s : State),
    let g := s.me
    let incomplete := (g.batches.filter (fun b => b.num != g.openBatch && decide (0 < b.pending))).length
    let t := modMe (fun g => { g.writeS o.sd.toNat (g.openBatch.zeroExtend 64) with
      openBatch := if g.openBatch = 0xFFFF_FFFF then 1 else g.openBatch + 1
      batches := g.batches.filter (fun b => b.num != g.openBatch || decide (0 < b.pending) || b.failed)
      rwin := if o.rw = 1 then true else if o.rw = 2 then false else g.rwin }) s
    MayGo (.bclose o) [.sd o.sd.toNat] s →
    (incomplete < 8 → exec (.bclose o) s = .next (retire .seq t))
    ∧ (8 ≤ incomplete → exec (.bclose o) s = .next (block (.bclose o) s)))
  ∧ (∀ (o : OpDA) (s : State) (n : W32),
    let g := s.me
    let covered (b : Batch) : Bool := b.num != g.openBatch
      && (decide ((n - g.openBatch).toNat < 2 ^ 31) || decide ((n - b.num).toNat < 2 ^ 31))
    let bs := if n = 0 then [] else g.batches.filter covered
    let answer (v : W32) (left : List Batch) : Out := .next (retire .seq (memGenMe (modMe (fun g =>
      { g.writeS o.sd.toNat (v.zeroExtend 64) with batches := left }) s)))
    n = (s.me.readS o.sa.toNat).setWidth 32 → MayGo (.bwait o) [.ss o.sa.toNat false 1, .sd o.sd.toNat] s →
    ((∀ b ∈ bs, b.pending = 0 ∧ b.failed = false) → exec (.bwait o) s = answer 0 g.batches)
    ∧ (∀ b ∈ bs, (∀ c ∈ bs, c.pending = 0) → b.failed = true →
      (∀ c ∈ bs, c.failed = true → c = b ∨ (g.openBatch - c.num).toNat < (g.openBatch - b.num).toNat) →
      exec (.bwait o) s = answer b.num (g.batches.filter (fun c => c.num != b.num)))
    ∧ ((∃ b ∈ bs, 0 < b.pending) → exec (.bwait o) s = .next (block (.bwait o) s)))
  ∧ (∀ (q : Nat) (s : State), (groupAt s q).st = .running → mayRunAt s (dieOf q) (groupAt s q).vf = true →
    (∀ o, (groupAt s q).blocked = some (.bclose o) → (groupAt s q).pend < 8 →
      ∃ t, exec (.bcloseResume q) s = .next { retire .seq t with cur := s.cur } ∧ t.qid = q
        ∧ t.me.readS o.sd.toNat = (if o.sd = 0 then 0 else (groupAt s q).openBatch.zeroExtend 64)
        ∧ t.me.openBatch = (if (groupAt s q).openBatch = 0xFFFF_FFFF then 1 else (groupAt s q).openBatch + 1))
    ∧ (∀ o, (groupAt s q).blocked = some (.bwait o) →
      (∀ b ∈ (groupAt s q).batches, b.pending = 0 ∧ b.failed = false) →
      exec (.bwaitDone q) s = .next { retire .seq (memGenMe (modGroup q (fun g => g.writeS o.sd.toNat 0)
        { s with cur := .group q })) with cur := s.cur })))
  ∧ ((∀ (s s1 : State) (i : Instr) (uses : List Use) (sa : Nat) (read : Bool) (f : Nat → Nat) (ps : List (Nat × Nat)),
    ((∃ o : OpAB, i = .tbinit o ∧ uses = [.ss o.sa.toNat false 1, .ss o.sb.toNat false 2] ∧ sa = o.sa.toNat ∧ read = false ∧
        let v := (s.me.readS o.sb.toNat).toNat
        v % 2 ^ 24 ≠ 0 ∧ v / 2 ^ 24 % 256 = 0 ∧ v < 2 ^ 63 ∧
        f = fun _ => tbMake 0 false (v % 2 ^ 24) (v % 2 ^ 24) (v / 2 ^ 32) (v / 2 ^ 32))
      ∨ (∃ o : OpTBArr, i = .tbarr o ∧ uses = [.ss o.sa.toNat false 1] ∧ sa = o.sa.toNat ∧ read = true
        ∧ scopeDenied s s.me.vf o.scp.toNat = false ∧ f = fun t => tbUpdate t 1 0)
      ∨ (∃ o : OpAB, i = .tbexp o ∧ uses = [.ss o.sa.toNat false 1, .ss o.sb.toNat false 2] ∧ sa = o.sa.toNat ∧ read = true
        ∧ f = fun t => tbUpdate t 0 (-(((s.me.readS o.sb.toNat).toNat % 2 ^ 32 : Nat) : Int)))) →
    MayGo i uses s → tbAccess (s.me.readS sa).toNat read true s = .ok (ps, s1) →
    exec i s = .next (retire .seq (memGenMe (writeParts s1.me.vf ps
      (leBytes 16 (f (leNat (readParts s1 s1.me.vf ps)))) s1))))
  ∧ (∀ (o : OpTBWait) (s s1 : State) (ps : List (Nat × Nat)),
    let t := leNat (readParts s1 s1.me.vf ps)
    MayGo (.tbwait o) [.ss o.sa.toNat false 1, .ss o.sd.toNat false 0, .sd o.sd.toNat] s →
    scopeDenied s s.me.vf o.scp.toNat = false → tbAccess (s.me.readS o.sa.toNat).toNat true false s = .ok (ps, s1) →
    (t % 16 ≠ (s.me.readS o.sd.toNat).toNat % 16 →
      exec (.tbwait o) s = .next (retire .seq (memGenMe (putS o.sd.toNat (BitVec.ofNat 64 (t % 256)) s1))))
    ∧ (t % 16 = (s.me.readS o.sd.toNat).toNat % 16 → exec (.tbwait o) s = .next (block (.tbwait o) s1)))
  ∧ (∀ (o : OpTBWait) (q : Nat) (s s1 : State) (ps : List (Nat × Nat)),
    let t := leNat (readParts s1 s1.me.vf ps)
    (groupAt s q).st = .running → mayRunAt s (dieOf q) (groupAt s q).vf = true → (groupAt s q).blocked = some (.tbwait o) →
    tbAccess ((groupAt s q).readS o.sa.toNat).toNat true false { s with cur := .group q } = .ok (ps, s1) →
    t % 16 ≠ ((groupAt s q).readS o.sd.toNat).toNat % 16 →
    exec (.tbwaitWake q) s
      = .next { retire .seq (memGenMe (putS o.sd.toNat (BitVec.ofNat 64 (t % 256)) s1)) with cur := s.cur })
  ∧ (∀ (phase parr expect psec reload da ds : Nat) (err : Bool),
    let t := tbMake phase err parr expect psec reload
    phase < 16 → parr < 2 ^ 24 → expect < 2 ^ 24 → psec < 2 ^ 32 → reload < 2 ^ 32 → da ≤ 1 → ds ≤ psec →
    t < 2 ^ 128 ∧ t % 16 = phase ∧ t / 16 % 2 = (if err then 1 else 0) ∧ t / 2 ^ 8 % 2 ^ 24 = parr
    ∧ t / 2 ^ 32 % 2 ^ 32 = expect ∧ t / 2 ^ 64 % 2 ^ 32 = psec ∧ t / 2 ^ 96 = reload
    ∧ tbUpdate t da ds = (if da = 1 ∧ parr = 0 then
        (if psec = ds then tbMake ((phase + 1) % 16) true expect expect reload reload
         else tbMake phase true 0 expect (psec - ds) reload)
      else if parr = da ∧ psec = ds then tbMake ((phase + 1) % 16) err expect expect reload reload
      else tbMake phase err (parr - da) expect (psec - ds) reload)))

/-- The end of a copy (09 R275, R276): a copy that waited for its time begins to read; one whose elements are all written
leaves the table and its batch, and a copy to an OCPM range writes nothing outside it (an element that it wrote into a tile
is held with its reserved bits at 0 and, where it is not finite, a value of 0: 01 R19, R20); one that fails leaves its code
in the status of its channel and marks its batch. The model's own readings in it stand in log 31. -/
def Obligations.CopyEvents : Prop :=
  (∀ (id : Nat) (s : State) (c : Copy), Tab.find s.copies id = some c → c.run = false → copyRuns s c = true →
    exec (.copyNbtStart id) s = .next { s with copies := Tab.set s.copies id { c with run := true } })
  ∧ (∀ (id n : Nat) (s s0 s1 : State) (c : Copy), Tab.find s.copies id = some c → copyRuns s c = true →
    settleLocks c.core (.copy id) c.env s = some s0 →
    tpDk (tpRec c.tpl) ≠ 1 → copyMove c (tpElems c.tpl - c.done / tpBytes c.tpl) (c.done / tpBytes c.tpl) s0 = (s1, n, none) →
    tpTba (tpRec c.tpl) = 0 → c.cmd = none →
    ∃ t, exec (.copyComplete id) s = .next t ∧ Tab.find t.copies id = none
      ∧ (∀ k, k ≠ c.q → groupAt t k = groupAt s0 k)
      ∧ ((groupAt s0 c.q).st ≠ .vacant → (groupAt s0 c.q).gen = c.gen → (groupAt t c.q).batchErr = (groupAt s0 c.q).batchErr
        ∧ ((groupAt s0 c.q).batches = [{ num := c.batch, pending := 1, failed := false }] → (groupAt t c.q).batches = []))
      ∧ ((dieAt s1 c.die).trace.keeps 2 c.vf (cgidOf c.q (groupAt s0 c.q)) = false →
        (tpDk (tpRec c.tpl) ≠ 2 → SameMemory s1 t) ∧ ∀ pa len, c.ocpmRange = some (pa, len) → OnlyParts c.vf [(pa, len)] s t))
  ∧ (∀ (key pa : Nat) (s : State),
    let t := holdElem key pa s
    let st := (readPa s key (pa + 32)).toNat
    readPa t key (pa + 32) = BitVec.ofNat 8 (st % 64)
    ∧ (st % 4 = 0 → ∀ i, i < 32 → readPa t key (pa + i) = readPa s key (pa + i))
    ∧ (st % 4 ≠ 0 → ∀ i, i < 32 → readPa t key (pa + i) = 0))
  ∧ (∀ (id code : Nat) (s : State) (c : Copy), Tab.find s.copies id = some c → (dieAt s c.die).held = false →
    c.parked = false → signalWaits s c = false → c.failed = some code → c.cmd = none →
    ∃ t, exec (.copyFail id code) s = .next t ∧ Tab.find t.copies id = none
      ∧ (c.core < 1024 → Tab.get 0 (coreAt t c.core).lastFail (c.team * 16 + c.chan) = code)
      ∧ ((groupAt s c.q).st ≠ .vacant → (groupAt s c.q).gen = c.gen → (groupAt t c.q).batchErr = true
        ∧ ∀ b ∈ (groupAt t c.q).batches, b.num = c.batch → b.failed = true))

/-! ## Allotment, queues, accumulators and sequencers (10, 11, 12, 13) -/

/-- Allotment (11 R308 to R313, 10 R285): an acquiring word within the limit is granted at once where its units are free and
no request waits before it; else the trying form answers 1 and the waiting form queues, or answers 2 where the core is
deadlocked; a count that R308 refuses and a limit exceeded trap. A grant adds registers, pages, tiles or the sequencer. A
release removes the highest ones. The model's own readings in it stand in log 42. -/
def Obligations.Allotment : Prop :=
  (∀ (o : OpDA) (s : State) (i : Instr) (res : Resource) (wait : Bool),
    let n := (s.me.readS o.sa.toNat).toNat
    let c := coreOf s.qid
    let r := myRequest res o s
    let bad := match res with
      | .vregs => n = 0 ∨ n % 8 ≠ 0
      | .sequencer => n % 4 ≠ 0
      | _ => n = 0
    let limit := match res with
      | .vregs => 48
      | .pages => 1024
      | .tiles => 4
      | .sequencer => 1
    let excess := limit < heldOf s s.me.team res + (if res = .sequencer then 1 else n)
    let free := (waitingReqs s c res).isEmpty && canMeet s r
    let s1 := modCore c (fun k => { k with requests := k.requests ++ [r] }) { s with nextOrder := s.nextOrder + 1 }
    (i, res, wait) ∈ ([(.vacqW o, .vregs, true), (.vacqT o, .vregs, false), (.pgacqW o, .pages, true),
      (.pgacqT o, .pages, false), (.aacqW o, .tiles, true), (.aacqT o, .tiles, false), (.macqW o, .sequencer, true),
      (.macqT o, .sequencer, false)] : List (Instr × Resource × Bool)) →
    MayGo i [.ss o.sa.toNat false 1, .sd o.sd.toNat] s →
    (¬bad → ¬excess → free = true → exec i s = .next (retire .seq (putS o.sd.toNat 0 (grantReq r s))))
    ∧ (¬bad → ¬excess → free = false → wait = false → exec i s = .next (retire .seq (putS o.sd.toNat 1 s)))
    ∧ (¬bad → ¬excess → free = false → wait = true →
      exec i s = if deadlocked s1 c res then .next (retire .seq (putS o.sd.toNat 2 (refuseReq c r s1)))
        else .next (block (.allot res) s1))
    ∧ (bad → exec i s = .next (takeTrap s.qid 0x02
        (BitVec.ofNat 64 ((encode i).toNat + 2 ^ 47 + o.sa.toNat * 2 ^ 40)) s.me.pc s))
    ∧ (¬bad → excess → exec i s = .next (takeTrap s.qid 0x13
        (BitVec.ofNat 64 ((encode i).toNat + (if res = .sequencer then 3 else 1) * 2 ^ 32)) s.me.pc s)))
  ∧ (∀ (r : AllotReq) (s : State),
    let t := teamAt s r.team
    let u := grantReq r s
    (r.res = .vregs → (teamAt u r.team).vext = t.vext + r.count ∧ ∀ q ∈ t.members, ∀ n, 64 + t.vext ≤ n →
      n < 64 + t.vext + r.count → n < 112 → (groupAt u q).vreg n = .uniform 0 ∧ (groupAt u q).vFull n = true)
    ∧ (r.res = .pages → r.count ≤ (freePages s t.core).length → ∃ ps, ps.length = r.count
      ∧ (teamAt u r.team).pages = t.pages ++ ps ∧ ∀ p ∈ ps, p ∈ freePages s t.core
      ∧ ∀ j, j < 0x400 → rawByte u.mem (ocpmWindow t.core + p * 0x400 + j) = 0)
    ∧ (r.res = .tiles → r.count ≤ (freeTiles s t.core).length → ∃ ts, ts.length = r.count
      ∧ (teamAt u r.team).tiles = t.tiles ++ ts ∧ ∀ p ∈ ts, p ∈ freeTiles s t.core)
    ∧ (r.res = .sequencer → (coreAt u t.core).seq.owner = some r.team ∧ (coreAt u t.core).seq.st = .run
      ∧ (coreAt u t.core).seq.pc = r.stream ∧ (coreAt u t.core).seq.mmas = []))
  ∧ (∀ (o : OpRel) (s : State),
    let n := (s.me.readS o.sa.toNat).toNat
    let t := s.myTeam
    (MayGo (.vrel o) [.ss o.sa.toNat false 1] s → n ≠ 0 → n % 8 = 0 → n ≤ t.vext →
      ∃ u, exec (.vrel o) s = .next (retire .seq u) ∧ (teamAt u s.me.team).vext = t.vext - n)
    ∧ (MayGo (.pgrel o) [.ss o.sa.toNat false 1] s → n ≠ 0 → n ≤ t.pages.length →
      pagesLocked s t ((List.range n).map (fun i => i + (t.pages.length - n))) = false →
      ∃ u, exec (.pgrel o) s = .next (retire .seq u) ∧ (teamAt u s.me.team).pages = t.pages.take (t.pages.length - n))
    ∧ (MayGo (.arel o) [.ss o.sa.toNat false 1] s → n ≠ 0 → n ≤ t.tiles.length →
      (∀ m ∈ (coreAt s t.core).seq.mmas, m.locked = true → m.tile ∉ t.tiles.drop (t.tiles.length - n)) →
      exec (.arel o) s = .next (retire .seq (modTeam s.me.team (fun t =>
        { t with tiles := t.tiles.take (t.tiles.length - n) }) s)))
    ∧ (∀ i held, (i, held) ∈ ([(.vrel o, t.vext), (.pgrel o, t.pages.length), (.arel o, t.tiles.length)] :
        List (Instr × Nat)) → MayGo i [.ss o.sa.toNat false 1] s → n ≠ 0 → (i = .vrel o → n % 8 = 0) → held < n →
      exec i s = .next (takeTrap s.qid 0x13 (BitVec.ofNat 64 ((encode i).toNat + 2 * 2 ^ 32)) s.me.pc s)))
  ∧ (∀ (s : State), MayGo .mrel [] s →
    ((coreAt s (coreOf s.qid)).seq.owner = some s.me.team → ∃ u, exec .mrel s = .next (retire .seq u)
      ∧ (coreAt u (coreOf s.qid)).seq.owner = none)
    ∧ ((coreAt s (coreOf s.qid)).seq.owner ≠ some s.me.team → exec .mrel s = .next (takeTrap s.qid 0x13
        (BitVec.ofNat 64 ((encode .mrel).toNat + 4 * 2 ^ 32)) s.me.pc s)))
  ∧ (∀ (s : State) (c : Nat) (res : Resource) (r y : AllotReq) (rest : List AllotReq),
    waitingReqs s c res = r :: rest →
    (canMeet s r = true → (groupAt s r.q).st = .running → mayRunAt s (dieOf r.q) (groupAt s r.q).vf = true → (groupAt s r.q).blocked = some (.allot res) →
      exec (.allotGrant c res) s = .next { retire .seq (putS r.dest 0 (grantReq r (withdraw c r { s with cur := .group r.q })))
        with cur := s.cur })
    ∧ (canMeet s r = false → deadlocked s c res = true → (r :: rest).getLast? = some y → (groupAt s y.q).st = .running →
      mayRunAt s (dieOf y.q) (groupAt s y.q).vf = true → (groupAt s y.q).blocked = some (.allot res) →
      exec (.allotGrant c res) s = .next { retire .seq (putS y.dest 2 (refuseReq c y { s with cur := .group y.q }))
        with cur := s.cur }))

/-- The capability check of the queue words (10 R305, R306, 11 R317, 14 R362): when it passes, and that a failing check
clears p7 and traps with its reason. That function 512 reads the VF field 0 of its own handles as itself is the model's (log
52). Queue words on a handle that passes the capability check (11 R318 to R320). Each acting live slot takes its turn in
ascending order and p7 becomes the mask of the slots that succeed: pushes until the queue is full, pops from its head and
steals from its tail until it is empty. EQFIRE marks an expert that holds a token. The model's own readings in it stand in
log 36. -/
def Obligations.QueuesAndCapabilities : Prop :=
  ((∀ (s : State) (h : W64) (n : CapNeed),
    capReason s h n = none ↔ h.toNat < 2 ^ 48 ∧ ∃ wave, capTarget s h = some (BitVec.ofNat 16 (h.toNat / 2 ^ 32), true, wave)
      ∧ h.toNat / 2 ^ 20 % 8 / 2 ^ n.right % 2 = 1
      ∧ (h.toNat / 2 ^ 23 % 512 = s.me.vf % 512 ∨ granted s h s.me.vf n.right = true)
      ∧ (n.table = true ↔ h.toNat % 2 ^ 16 = 0xFFFF) ∧ (n.table = false → wave = n.wave))
  ∧ (∀ (s : State) (i : Instr) (uses : List Use) (sh reason : Nat) (n : CapNeed),
    let h := s.me.readS sh
    ((∃ o : OpQSpawn, i = .tspawn o ∧ sh = o.sh.toNat ∧ n = { right := 0, table := false, wave := true }
        ∧ uses = [.ss o.sh.toNat false 1, .ss o.se.toNat false 2, .vs o.va.toNat false 1, .vs (o.va.toNat + 1) false 1]
        ∧ (s.me.readS o.se.toNat).toNat % 4 = 0 ∧ (s.me.readS o.se.toNat).toNat < 2 ^ 57)
      ∨ (∃ o : OpQV, sh = o.sh.toNat ∧
        (i = .qpush o ∧ n = { right := 0, table := false, wave := false }
            ∧ uses = [.ss sh false 1, .vs o.va.toNat false 1, .vs (o.va.toNat + 1) false 1]
          ∨ i = .qpop o ∧ n = { right := 1, table := false, wave := false }
            ∧ uses = [.ss sh false 1, .vda o.va.toNat, .vda (o.va.toNat + 1)]
          ∨ i = .qsteal o ∧ n = { right := 2, table := false, wave := false }
            ∧ uses = [.ss sh false 1, .vda o.va.toNat, .vda (o.va.toNat + 1)]
          ∨ i = .eqpush o ∧ n = { right := 0, table := true, wave := false }
            ∧ uses = [.ss sh false 1, .vs o.va.toNat false 1, .vs (o.va.toNat + 1) false 1, .vs (o.va.toNat + 2) false 1]))
      ∨ (∃ o : OpEqFire, i = .eqfire o ∧ sh = o.sh.toNat ∧ n = { right := 0, table := true, wave := false }
        ∧ uses = [.ss sh false 1, .ss o.se.toNat false 2])) →
    MayGo i uses s → capReason s h n = some reason →
    exec i s = .next (takeTrap s.qid 0x0B
      (BitVec.ofNat 64 (h.toNat % 2 ^ 16 + h.toNat / 2 ^ 16 % 16 * 2 ^ 16 + reason * 2 ^ 20)) s.me.pc
      (modMe (Group.writePraw 7 0) s))))
  ∧ ((∀ (o : OpQV) (s : State) (q : TaskQueue),
    let h := s.me.readS o.sh.toNat
    let uses : List Use := [.ss o.sh.toNat false 1, .vs o.va.toNat false 1, .vs (o.va.toNat + 1) false 1]
    let won := ((List.range 32).filter s.me.actLive.getLsbD).take (tqCap q.desc - q.entries.length)
    let value (k : Nat) : W64 := ((srcReg uses s 1).lane k).zeroExtend 64 <<< 32 ||| ((srcReg uses s 0).lane k).zeroExtend 64
    MayGo (.qpush o) uses s → capReason s h { right := 0, table := false, wave := false } = none →
    taskQueue s (capDie h) (capOwner s h) (capIndex h) = some q →
    ∃ t q', exec (.qpush o) s = .next (retire .seq (leaveWord s uses t))
      ∧ taskQueue t (capDie h) (capOwner s h) (capIndex h) = some q' ∧ q'.desc = q.desc
      ∧ q'.entries.map (fun e => e.value) = q.entries.map (fun e => e.value) ++ won.map value
      ∧ ∀ k, k < 32 → (t.me.readP 7).getLsbD k = decide (k ∈ won))
  ∧ (∀ (o : OpQV) (s : State) (q : TaskQueue) (i : Instr) (tail : Bool),
    let h := s.me.readS o.sh.toNat
    let won := ((List.range 32).filter s.me.actLive.getLsbD).take q.entries.length
    let order := if tail then q.entries.reverse else q.entries
    (i, tail) ∈ ([(.qpop o, false), (.qsteal o, true)] : List (Instr × Bool)) →
    MayGo i [.ss o.sh.toNat false 1, .vda o.va.toNat, .vda (o.va.toNat + 1)] s →
    capReason s h { right := if tail then 2 else 1, table := false, wave := false } = none →
    taskQueue s (capDie h) (capOwner s h) (capIndex h) = some q →
    ∃ t q' mask, exec i s = .next (retire .seq t) ∧ taskQueue t (capDie h) (capOwner s h) (capIndex h) = some q'
      ∧ q'.entries = (if tail then q.entries.take (q.entries.length - won.length) else q.entries.drop won.length)
      ∧ t.me.readP 7 = mask ∧ (∀ k, k < 32 → mask.getLsbD k = decide (k ∈ won))
      ∧ (s.me.actLive ≠ 0 → o.va.toNat + 1 < 112 → ∃ lo hi bad,
        Tab.find t.returns s.nextReturn = some
          { q := s.qid, gen := s.me.gen, vf := s.me.vf, loadKey := none
            parts := [.vector o.va.toNat mask s.me.covers lo bad, .vector (o.va.toNat + 1) mask s.me.covers hi bad] }
        ∧ (bad = none ↔ ∀ j e, j < won.length → order[j]? = some e → e.bad = none)
        ∧ t.me.vFull o.va.toNat = false ∧ t.me.vFull (o.va.toNat + 1) = false
        ∧ ∀ (j k : Nat) (e : Sys2Proof.Machine.Task), won[j]? = some k → order[j]? = some e →
          (hi.getD k 0).zeroExtend 64 <<< 32 ||| (lo.getD k 0).zeroExtend 64 = e.value))
  ∧ (∀ (o : OpQSpawn) (s : State) (q : TaskQueue),
    let h := s.me.readS o.sh.toNat
    let e := s.me.readS o.se.toNat
    let uses : List Use :=
      [.ss o.sh.toNat false 1, .ss o.se.toNat false 2, .vs o.va.toNat false 1, .vs (o.va.toNat + 1) false 1]
    let addr (k : Nat) : Nat := ((srcReg uses s 1).lane k).toNat * 2 ^ 32 + ((srcReg uses s 0).lane k).toNat
    MayGo (.tspawn o) uses s → e.toNat % 4 = 0 → e.toNat < 2 ^ 57 →
    capReason s h { right := 0, table := false, wave := true } = none →
    taskQueue s (capDie h) (capOwner s h) (capIndex h) = some q →
    (∀ k, k < 32 → s.me.actLive.getLsbD k = true → addr k % 64 = 0 ∧ addr k < 2 ^ 57) →
    ∃ t, exec (.tspawn o) s = .next (retire .seq (leaveWord s uses t)) ∧ t.me.readP 7 &&& s.me.actLive = t.me.readP 7
      ∧ (q.entries.length + 32 ≤ tqCap q.desc → t.me.readP 7 = s.me.actLive))
  ∧ (∀ (o : OpQV) (s s1 : State) (ps : List (Nat × List (Nat × Nat))),
    let h := s.me.readS o.sh.toNat
    let uses : List Use := [.ss o.sh.toNat false 1, .vs o.va.toNat false 1, .vs (o.va.toNat + 1) false 1,
      .vs (o.va.toNat + 2) false 1]
    let addr (k : Nat) : Nat := ((srcReg uses s 2).lane k).toNat * 2 ^ 32 + ((srcReg uses s 1).lane k).toNat
    let slots := (List.range 32).filter s.me.actLive.getLsbD
    MayGo (.eqpush o) uses s → capReason s h { right := 0, table := true, wave := false } = none →
    (∀ k ∈ slots, addr k % 64 = 0) →
    vecAccess s { size := 64, write := false, atomic := false, vector := true } true false (slots.map (fun k => (k, addr k)))
      = .ok (ps, s1) → (∀ p ∈ ps, partsBad s1 p.2 = none) →
    ∃ t, exec (.eqpush o) s = .next (retire .seq (leaveWord s uses t)) ∧ t.me.readP 7 &&& s.me.actLive = t.me.readP 7
      ∧ ∀ k ∈ slots, let e := ((srcReg uses s 0).lane k).toNat
        (256 ≤ e → (t.me.readP 7).getLsbD k = false)
        ∧ ∀ x, e < 256 → expertAt s (capDie h) (capOwner s h) e = some x → x.enabled = true → x.spilled = 0 → x.staged = [] →
          x.queue.length + 32 ≤ 256 → (t.me.readP 7).getLsbD k = true)
  ∧ (∀ (o : OpEqFire) (s : State),
    let h := s.me.readS o.sh.toNat
    let e := (s.me.readS o.se.toNat).toNat
    MayGo (.eqfire o) [.ss o.sh.toNat false 1, .ss o.se.toNat false 2] s →
    capReason s h { right := 0, table := true, wave := false } = none →
    (∀ x, e < 256 → expertAt s (capDie h) (capOwner s h) e = some x → x.enabled = true → 0 < x.queue.length + x.spilled + x.staged.length →
      exec (.eqfire o) s = .next (retire .seq (modMe (fun g => g.writePraw 7 g.liveMask)
        (modExpert (capDie h) (capOwner s h) e (fun x => { x with marked := true }) s))))
    ∧ (256 ≤ e ∨ (∀ x, expertAt s (capDie h) (capOwner s h) e = some x → x.enabled = false ∨ (x.queue = [] ∧ x.spilled = 0 ∧ x.staged = [])) →
      exec (.eqfire o) s = .next (retire .seq (modMe (Group.writePraw 7 0) s)))))

/-- Drains and fills (11 R322 to R325): an ACC that names no tile of the team and a row above 127 take ILLEGAL_FIELD. A
drain brings the converted elements of the acting slots inside the recorded range to VD, or the raw elements of the row to
memory; a fill writes the elements of the acting live slots, or the whole row, and records the range 128 × 128. The model's
own readings in it stand in log 40. -/
def Obligations.Accumulators : Prop :=
  (∀ (s : State) (i : Instr) (uses : List Use) (acc sb : Nat),
    ((∃ o : OpDrain, i = .adrain o ∧ uses = [.ss o.sb.toNat false 1, .vd o.vd.toNat] ∧ acc = o.acc.toNat ∧ sb = o.sb.toNat)
      ∨ (∃ o : OpFillAcc, i = .afill o ∧ uses = [.vs o.vd.toNat false 0, .ss o.sb.toNat false 1] ∧ acc = o.acc.toNat
        ∧ sb = o.sb.toNat)
      ∨ (∃ o : OpRaw, (i = .adrainRaw o ∨ i = .afillRaw o) ∧ uses = [.ss o.sb.toNat false 1, .ss o.sr.toNat false 0]
        ∧ acc = o.acc.toNat ∧ sb = o.sb.toNat)) →
    MayGo i uses s →
    (s.myTeam.tiles.length ≤ acc → exec i s
      = .next (takeTrap s.qid 0x02 (BitVec.ofNat 64 ((encode i).toNat + 18 * 2 ^ 32)) s.me.pc s))
    ∧ (acc < s.myTeam.tiles.length → 128 ≤ (s.me.readS sb).toNat → exec i s
      = .next (takeTrap s.qid 0x02 (BitVec.ofNat 64 ((encode i).toNat + 2 ^ 47 + sb * 2 ^ 40)) s.me.pc s)))
  ∧ (∀ (o : OpDrain) (s : State) (tile : Nat),
    let m := (s.me.readS o.sb.toNat).toNat
    let core := coreOf s.qid
    let rec' := tileRec s core tile
    let col (k : Nat) : Nat := 32 * o.q.toNat + k
    let lines := elemLines core tile m (32 * o.q.toNat) 32
    let env := fpEnvRnd s.me.mode o.rnd.toNat
    MayGo (.adrain o) [.ss o.sb.toNat false 1, .vd o.vd.toNat] s → s.myTeam.tiles[o.acc.toNat]? = some tile → m < 128 →
    elemLock s lines false = none →
    elemBad s (drainLines core tile m o.q.toNat (drainMask s.me rec' m o.q.toNat)) = none →
    ∃ t mask lanes fl, exec (.adrain o) s = .next (retire .seq t)
      ∧ (∀ k, k < 32 → mask.getLsbD k = (s.me.guardMask.getLsbD k && decide (m < rec'.rows) && decide (col k < rec'.cols)))
      ∧ t.me.fpstat = s.me.fpstat ||| fl ∧ SameMemory s t
      ∧ (env.rnd ≠ 6 → t.me.seed = s.me.seed ∧ ∀ k, k < 32 → mask.getLsbD k = true →
        lanes.getD k 0 = (drainElem o.dt.toNat env 0 (readElem s core tile m (col k))).1)
      ∧ (o.vd.toNat < 112 → mask ≠ 0 → t.me.vFull o.vd.toNat = false
        ∧ Tab.find t.returns s.nextReturn = some { q := s.qid, gen := s.me.gen, vf := s.me.vf, loadKey := none
                                                   parts := [.vector o.vd.toNat mask s.me.covers lanes none] }))
  ∧ (∀ (o : OpRaw) (s : State) (tile : Nat) (ps : List (Nat × Nat)) (ts : List TlbEntry),
    let m := (s.me.readS o.sb.toNat).toNat
    let core := coreOf s.qid
    let cols := (tileRec s core tile).cols
    MayGo (.adrainRaw o) [.ss o.sb.toNat false 1, .ss o.sr.toNat false 0] s → s.myTeam.tiles[o.acc.toNat]? = some tile →
    m < 128 → m < (tileRec s core tile).rows → 0 < cols →
    rangeCheck s true (s.me.readS o.sr.toNat).toNat (33 * cols) = .ok (ps, ts) →
    elemLock s (elemLines core tile m 0 cols) false = none → elemBad s (elemLines core tile m 0 cols) = none →
    Unwatched s false true (33 * cols) [(0, (s.me.readS o.sr.toNat).toNat)] →
    exec (.adrainRaw o) s = .next (retire .seq (memGenMe (writeParts s.me.vf ps
      (rawRow cols (readPas s (keyNum s 0) (elemAddr core tile m 0) (33 * cols))) (addTlbs (dieOf s.qid) ts s)))))
  ∧ (∀ (s : State) (i : Instr) (uses : List Use) (tile m : Nat) (new : Nat → Option Elem),
    let core := coreOf s.qid
    let elem (t : State) (r n : Nat) : Elem :=
      elemOfBytes ((List.range 33).map (fun j => rawByte t.mem (elemAddr core tile r n + j)))
    ((∃ o : OpFillAcc, i = .afill o ∧ uses = [.vs o.vd.toNat false 0, .ss o.sb.toNat false 1]
        ∧ s.myTeam.tiles[o.acc.toNat]? = some tile ∧ m = (s.me.readS o.sb.toNat).toNat
        ∧ elemLock s (elemLines core tile m (32 * o.q.toNat) 32) true = none
        ∧ new = fun n => if n / 32 = o.q.toNat ∧ s.me.actLive.getLsbD (n % 32) = true then
            some (enterElem o.dt.toNat ((srcReg uses s 0).lane (n % 32))) else none)
      ∨ (∃ (o : OpRaw) (a : Nat) (ps : List (Nat × Nat)) (ts : List TlbEntry), i = .afillRaw o
        ∧ uses = [.ss o.sb.toNat false 1, .ss o.sr.toNat false 0] ∧ s.myTeam.tiles[o.acc.toNat]? = some tile
        ∧ m = (s.me.readS o.sb.toNat).toNat ∧ a = (s.me.readS o.sr.toNat).toNat
        ∧ rangeCheck s false a 4224 = .ok (ps, ts) ∧ elemLock s (elemLines core tile m 0 128) true = none
        ∧ Unwatched s true false 4224 [(0, a)] ∧ partsBad s ps = none
        ∧ new = fun n => some (rawElem ((readParts s s.me.vf ps).drop (33 * n))))) →
    MayGo i uses s → m < 128 → s.qid < 32768 → tile < 4 →
    ∃ t, exec i s = .next (retire .seq (leaveWord s uses t)) ∧ (tileRec t core tile).rows = 128
      ∧ (tileRec t core tile).cols = 128
      ∧ ∀ r n, r < 128 → n < 128 → elem t r n = (if r = m then (new n).getD (elem s r n) else elem s r n))
  ∧ (∀ (dt l v st : Nat) (env : FpEnv) (f : Fmt), drainFmt dt = some f →
    drainElem dt env l { value := v, status := 4 * st + 3 } = (BitVec.ofNat 32 f.nanBits, 0)
    ∧ ∀ n x, fpDecode f (x % 2 ^ f.width) = .nan n v →
      enterElem dt (BitVec.ofNat 32 (x % 2 ^ f.width)) = { value := 0, status := 3 + 16 })

/-- The sequencer's scalar words (11 R331 to R333, 10 R294): each completes on every value, writes its register or takes its
branch and goes on; MWAIT goes on once the slots of its mask hold 0, MTIME once TIME has come, MEND idles. A group that
meets a sequencer word takes ILLEGAL_OPCODE. The model's own readings in it stand in log 39. The sequencer's words that
access memory (11 R327 to R331, 10 R287 to R291, 09 R281): MLDFB loads a valid format block, MRING a valid ring with its
cursor at HEAD, MZERO clears a tile, MSIG updates a barrier, MFETCH goes where its doorbell says or idles, MPOP writes the
cursor back. A misaligned address and an invalid record are sequencer faults, with the lowest cause that applies: an address
that is not reached is told before its misalignment. -/
def Obligations.SequencerWords : Prop :=
  ((∀ (s : State) (c : Nat) (i : Instr) (q' : Sequencer),
    let q := seqAt s c
    let on : Sequencer := { q with pc := q.pc + 4, mtime := none }
    let imm (x : BitVec 15) : W64 := x.signExtend 64
    let slots (w : BitVec 8) : Prop := ∀ j, j < 8 → w.getLsbD j = true → Tab.get 0 q.dep j = 0
    s.cur = .sequencer c →
    ((∃ o, i = .madd o ∧ q' = { on with m := Tab.set q.m o.md.toNat (q.mreg o.ma.toNat + q.mreg o.mb.toNat) })
      ∨ (∃ o, i = .maddi o ∧ q' = { on with m := Tab.set q.m o.md.toNat (q.mreg o.ma.toNat + imm o.imm) })
      ∨ (∃ o, i = .mli o ∧ q' = { on with m := Tab.set q.m o.md.toNat (imm o.imm * 2 ^ (4 * o.sh.toNat)) })
      ∨ (∃ o, i = .mbnz o ∧ q' = { on with pc := if q.mreg o.ma.toNat = 0 then q.pc + 4 else q.pc + 4 * imm o.imm })
      ∨ (∃ o, i = .mj o ∧ q' = { on with pc := q.pc + 4 * imm o.imm })
      ∨ (∃ o, i = .mwait o ∧ slots o.wait ∧ q' = on)
      ∨ (∃ o, i = .mwait o ∧ ¬ slots o.wait ∧ q' = q)
      ∨ (i = .mend ∧ q' = { on with st := .idle, park := none })
      ∨ (∃ o, i = .mtime o ∧ (q.mreg o.ma.toNat).toNat ≤ s.time.toNat ∧ q' = on)
      ∨ (∃ o, i = .mtime o ∧ s.time.toNat < (q.mreg o.ma.toNat).toNat ∧ q' = { q with mtime := some (q.mreg o.ma.toNat) })) →
    ∃ t, exec i s = .next t ∧ seqAt t c = q' ∧ (∀ k, k ≠ c → coreAt t k = coreAt s k)
      ∧ t = { s with cores := t.cores })
  ∧ (∀ (s : State) (i : Instr) (q : Nat), s.cur = .group q →
    (∃ (a : OpMma) (b : OpMLdfb) (r : OpMRing) (z : OpMZero) (w : OpMWait) (g : OpMSig) (m : OpMA) (p : OpMPop) (d : OpMAdd)
      (e : OpMAddi) (l : OpMLi) (n : OpMBnz) (j : OpMJ), i ∈ ([.mma a, .mldfb b, .mring r, .mzero z, .mwait w, .msig g, .mfetch m,
        .mend, .mtime m, .mpop p, .madd d, .maddi e, .mli l, .mbnz n, .mj j] : List Instr)) →
    exec i s = .next (takeTrap q 0x01 (BitVec.ofNat 64 (encode i).toNat) s.me.pc s)))
  ∧ (∀ (s : State) (c : Nat),
    let q := seqAt s c
    let on : Sequencer := { q with pc := q.pc + 4, mtime := none }
    let stop (cause : Nat) (i : Instr) : Out := .next (seqFault c cause (encode i).toNat q.pc s)
    let missed (va n : Nat) : Prop := ∃ p, enginePlaces s (seqEnv s c) .read va n = .error p ∧ p ≠ .held
      ∧ ∀ stage page, p ≠ .demand stage page
    s.cur = .sequencer c →
    (∀ (o : OpMLdfb) (n : Nat), let va := (q.mreg o.ma.toNat).toNat
      (va % 64 ≠ 0 → (¬ missed va 64 → exec (.mldfb o) s = stop 8 (.mldfb o))
        ∧ (missed va 64 → exec (.mldfb o) s = stop 2 (.mldfb o)))
      ∧ (va % 64 = 0 → SeqReads s c va 64 n → fbValid (BitVec.ofNat 512 n) = true →
        ∃ t, exec (.mldfb o) s = .next t ∧ SeqBecomes c { on with fb := Tab.set q.fb o.fb.toNat (BitVec.ofNat 512 n) } s t)
      ∧ (va % 64 = 0 → SeqReads s c va 64 n → fbValid (BitVec.ofNat 512 n) = false →
        exec (.mldfb o) s = stop 3 (.mldfb o)))
    ∧ (∀ (o : OpMRing) (n : Nat), let va := q.mreg o.ma.toNat
      (∀ m ∈ q.mmas, m.o.ra ≠ o.ring ∧ m.o.rb ≠ o.ring) →
      (va.toNat % 32 ≠ 0 → (¬ missed va.toNat 32 → exec (.mring o) s = stop 8 (.mring o))
        ∧ (missed va.toNat 32 → exec (.mring o) s = stop 2 (.mring o)))
      ∧ (va.toNat % 32 = 0 → SeqReads s c va.toNat 32 n → tbRegion va.toNat = true → ringValid (ringOf va n) = true →
        ∃ t, exec (.mring o) s = .next t ∧ SeqBecomes c { on with ring := Tab.set q.ring o.ring.toNat (ringOf va n) } s t)
      ∧ (va.toNat % 32 = 0 → SeqReads s c va.toNat 32 n → tbRegion va.toNat = false ∨ ringValid (ringOf va n) = false →
        exec (.mring o) s = stop 4 (.mring o)))
    ∧ (∀ (o : OpMZero),
      ((teamAt s (seqTeam s c)).tiles.length ≤ o.acc.toNat → exec (.mzero o) s = stop 5 (.mzero o))
      ∧ (∀ tile, (teamAt s (seqTeam s c)).tiles[o.acc.toNat]? = some tile → (∀ m ∈ q.mmas, m.tile ≠ tile) →
        rangeLocked s c (tileBase c tile) 0x84000 = false → ∃ t, exec (.mzero o) s = .next t ∧ seqAt t c = on
          ∧ tileRec t c tile = { rows := 128, cols := 128, fault := false }
          ∧ (∀ a, tileBase c tile ≤ a → a < tileBase c tile + 0x84000 → rawByte t.mem a = 0)
          ∧ (∀ a, a < tileBase c tile ∨ tileBase c tile + 0x84000 ≤ a → rawByte t.mem a = rawByte s.mem a)))
    ∧ (∀ (o : OpMSig) (pa : Nat), let va := q.mreg o.ma.toNat
      (va.toNat % 16 ≠ 0 → exec (.msig o) s = stop 8 (.msig o))
      ∧ (va.toNat % 16 = 0 → tbRegion va.toNat = false → exec (.msig o) s = stop 9 (.msig o))
      ∧ (tbPlace s (seqTeam s c) va.toNat = some pa → (∀ j, j < 8 → o.wait.getLsbD j = true → Tab.get 0 q.dep j = 0) →
        olderLock s c s.nextOrder pa true = false → ∃ t, exec (.msig o) s = .next t ∧ (seqAt t c).pc = q.pc + 4
          ∧ va ∈ (seqAt t c).barriers
          ∧ t.mem = (tbModify (teamAt s (seqTeam s c)).vf pa (fun t => tbUpdate t 1 0) s).mem))
    ∧ (∀ (o : OpMA) (n : Nat), let va := q.mreg o.ma.toNat
      (va.toNat % 8 ≠ 0 → (¬ missed va.toNat 8 → exec (.mfetch o) s = stop 8 (.mfetch o))
        ∧ (missed va.toNat 8 → exec (.mfetch o) s = stop 2 (.mfetch o)))
      ∧ (va.toNat % 8 = 0 → SeqReads s c va.toNat 8 0 →
        ∃ t, exec (.mfetch o) s = .next t ∧ SeqBecomes c { q with st := .idle, park := some va } s t)
      ∧ (∀ ps, va.toNat % 8 = 0 → SeqReads s c va.toNat 8 n → n ≠ 0 → n % 4 = 0 → SeqReaches s c true va.toNat 8 ps →
        ∃ t, exec (.mfetch o) s = .next t ∧ seqAt t c = { q with st := .run, park := none, pc := BitVec.ofNat 64 n, mtime := none }
          ∧ t.mem = (writeParts (seqEnv s c).vf ps (List.replicate 8 0) s).mem))
    ∧ (∀ (o : OpMPop) (r : Ring) (ps : List (Nat × Nat)),
      (Tab.find q.ring o.ring.toNat = none → exec (.mpop o) s = stop 10 (.mpop o))
      ∧ (Tab.find q.ring o.ring.toNat = some r → (∀ j, j < 8 → o.wait.getLsbD j = true → Tab.get 0 q.dep j = 0) →
        SeqReaches s c true (r.va.toNat + 28) 4 ps → ∃ t, exec (.mpop o) s = .next t ∧ seqAt t c = on
          ∧ t.mem = (writeParts (seqEnv s c).vf ps (leBytes 4 r.curE.toNat) s).mem))
    ∧ (∀ (cause word : Nat) (pc : W64), let t := seqFault c cause word pc s
      (seqAt t c).mmas = [] ∧ (q.releasing = false → (seqAt t c).st = .fault)
      ∧ ∀ m rest, q.mmas = m :: rest → (coreAt t c).tiles = Tab.set (coreAt s c).tiles m.tile
        { Tab.get default (coreAt s c).tiles m.tile with fault := true }))

/-- MMA (11 R327): it waits for its dependency slots, for one of the two places of the engine and for its K-steps to be
published; then it enters with its locks and its cursors move on by its K-steps. An operand that it may not name is a
sequencer fault with the lowest cause. The matrix engine (01 R34, R35, 10 R289 to R294, 11 R327, R331, R332): the executing
MMA adds one K-step at a time, which the trace may record (19 R432), and completes with its last: its locks and its place
are free and the tile records its range. A doorbell that is written and a time that comes let the sequencer go on. The
model's own readings in it stand in log 39 and log 40. -/
def Obligations.MatrixEngine : Prop :=
  (∀ (s : State) (c : Nat) (o : OpMma),
    let q := seqAt s c
    let tiles := (teamAt s (seqTeam s c)).tiles
    let fb := Tab.find q.fb o.fb.toNat
    let ra := Tab.find q.ring o.ra.toNat
    let rb := Tab.find q.ring o.rb.toNat
    let n : Nat := 2 ^ o.kx.toNat
    let ready : Prop := (∀ j, j < 8 → o.wait.getLsbD j = true → Tab.get 0 q.dep j = 0) ∧ q.mmas.length < 2
    s.cur = .sequencer c →
    (¬ ready → exec (.mma o) s = .next s)
    ∧ (ready → mmaCauses o tiles.length fb ra rb ≠ [] →
      exec (.mma o) s = .next (seqFault c ((ringCauses s c n ra ++ ringCauses s c n rb ++ mmaCauses o tiles.length fb ra rb).foldl min 10)
        (encode (.mma o)).toNat q.pc s))
    ∧ (∀ f a b tile ta tb s1, ready → mmaCauses o tiles.length fb ra rb = [] → fb = some f → ra = some a → rb = some b →
      tiles[o.acc.toNat]? = some tile → SeqReads s c (a.va.toNat + 24) 4 ta → SeqReads s c (b.va.toNat + 24) 4 tb →
      (n : Int) ≤ published a (BitVec.ofNat 32 ta) → (n : Int) ≤ published b (BitVec.ofNat 32 tb) →
      (o.s = true → Tab.get 0 q.dep o.set.toNat ≠ 255) →
      mmaIssue c (mmaRecord s c o f a b tile) s = .ok (some s1) →
      ∃ t, exec (.mma o) s = .next t ∧ (seqAt t c).pc = q.pc + 4 ∧ (seqAt t c).mmas.length = q.mmas.length + 1
        ∧ ((seqAt t c).mmas.getLast?).map (fun m => (m.o, m.done, m.tile)) = some (o, 0, tile)
        ∧ (Tab.find (seqAt t c).ring o.rb.toNat).map Ring.cur = some (curAdd b b.cur n)
        ∧ (o.s = true → Tab.get 0 (seqAt t c).dep o.set.toNat = Tab.get 0 q.dep o.set.toNat + 1))
    ∧ (mmaCauses o tiles.length fb ra rb = [] ↔ o.acc.toNat < tiles.length ∧ ∃ f a b, fb = some f ∧ ra = some a ∧ rb = some b
      ∧ needA f ≤ a.ebytes.toNat ∧ needB f ≤ b.ebytes.toNat ∧ o.ra ≠ o.rb ∧ n ≤ a.entries.toNat * a.spe.toNat
      ∧ n ≤ b.entries.toNat * b.spe.toNat ∧ a.spe = 1 ∧ b.spe = (if fbSpb f then 3 else 1) ∧ (o.s = true ∨ o.set = 0)))
  ∧ ((∀ (s s1 : State) (c : Nat) (m : MmaRec) (d : StepData), lockedHead s c = .ok (some (s1, m)) →
    stepData s1 c m = .ok d → tileLocked s1 c m = false →
    (m.done + 1 < 2 ^ m.o.kx.toNat → exec (.kStepBoundary c) s
      = .next (captureFree (c / 64) 4 m.vf 0 (count c evKstep m.vf 1 (setHead c m.stepped (addStep c m d s1)))))
    ∧ (m.done + 1 = 2 ^ m.o.kx.toNat → ∃ t, exec (.mmaComplete c) s = .next t
      ∧ (∀ l ∈ (coreAt t c).locks, l.2.owner ≠ .mma m.serial)
      ∧ (tileRec t c m.tile).rows = fbRows m.block ∧ (tileRec t c m.tile).cols = fbCols m.block
      ∧ (seqAt t c).mmas = (seqAt s1 c).mmas.drop 1))
  ∧ (∀ (s : State) (c n : Nat) (va : W64) (ps : List (Nat × Nat)),
    let q := seqAt s c
    q.st = .idle → q.park = some va → q.held = false → q.releasing = false → q.stall = none →
    (dieAt s (c / 64)).held = false → SeqReads s c va.toNat 8 n →
    (n = 0 → exec (.mfetchDoorbellWrite c) s = .next s)
    ∧ (n ≠ 0 → n % 4 = 0 → SeqReaches s c true va.toNat 8 ps → ∃ t, exec (.mfetchDoorbellWrite c) s = .next t
      ∧ seqAt t c = { q with st := .run, park := none, pc := BitVec.ofNat 64 n, mtime := none }
      ∧ t.mem = (writeParts (seqEnv s c).vf ps (List.replicate 8 0) s).mem))
  ∧ (∀ (s : State) (c : Nat) (v : W64), (seqAt s c).mtime = some v → seqRuns s c = true → v.toNat ≤ s.time.toNat →
    ∃ t, exec (.mtimeExpiry c) s = .next t
      ∧ SeqBecomes c { seqAt s c with pc := (seqAt s c).pc + 4, mtime := none } s t)
  ∧ (∀ (e : Elem) (tern : Bool) (man exp : Int),
    let st := e.status ||| (if tern then 32 else 0)
    let v := e.value + man * 2 ^ (exp + 128).toNat
    (e.status % 4 = 0 → -128 ≤ exp → -(2 ^ 255) ≤ v → v < 2 ^ 255 →
      addBlock (.fin { man := man, exp := exp }) tern e = { value := v, status := st })
    ∧ (e.status % 4 = 0 → -128 ≤ exp → 2 ^ 255 ≤ v →
      addBlock (.fin { man := man, exp := exp }) tern e = { value := 2 ^ 255 - 1, status := st ||| 4 })
    ∧ (e.status % 4 = 0 → -128 ≤ exp → v < -(2 ^ 255) →
      addBlock (.fin { man := man, exp := exp }) tern e = { value := -(2 ^ 255), status := st ||| 4 })
    ∧ (addBlock .nan tern e).status % 4 = 3 ∧ (addBlock .nan tern e).status / 16 % 2 = 1
    ∧ (e.status % 4 = 0 → ∀ neg, (addBlock (.inf neg) tern e).status % 4 = (if neg then 2 else 1))
    ∧ (∀ neg, e.status % 4 = (if neg then 1 else 2) → (addBlock (.inf neg) tern e).status % 4 = 3)))

/-! ## Groups, admission and commands (07, 14) -/

/-- What arrives after its word has retired. A return writes its registers and makes them full; it is dropped where its
group has ended (its slot is vacant or of another generation), and a part for a released register is dropped. The answer of
a system call fills the register of the call and advances MEMGEN; that of a group that has ended is dropped, and that of a
group that has stopped is kept. TWAIT ends once TIME has reached its operand, and a START that waited for room starts its
copy. -/
def Obligations.ReturnsAndAnswers : Prop :=
  (∀ (id : Nat) (s : State) (r : Return), Tab.find s.returns id = some r →
    let g := groupAt s r.q
    ∃ t, exec (.registerReturn id) s = .next t ∧ t.returns = Tab.del s.returns id ∧ SameMemory s t
      ∧ t.teams = s.teams ∧ (∀ q, q ≠ r.q → groupAt t q = groupAt s q)
      ∧ (g.st = .vacant ∨ g.gen ≠ r.gen → groupAt t r.q = g)
      ∧ (g.st ≠ .vacant → g.gen = r.gen →
        (∀ n v bad, r.parts = [.scalar n v bad] → n < 64 → (groupAt t r.q).sFull n = true
          ∧ (groupAt t r.q).readS n = (if n = 0 then 0 else v)
          ∧ (∀ m, m ≠ n → (groupAt t r.q).readS m = g.readS m) ∧ (∀ m, (groupAt t r.q).vreg m = g.vreg m))
        ∧ (∀ n mask cover lanes bad, r.parts = [.vector n mask cover lanes bad] → n < 112 →
          (n < s.vtop g → (groupAt t r.q).vFull n = true
            ∧ (∀ k, k < 32 → ((groupAt t r.q).vreg n).lane k = if mask.getLsbD k then lanes.getD k 0 else (g.vreg n).lane k)
            ∧ (cover = true → ((groupAt t r.q).vreg n).code = 2))
          ∧ (s.vtop g ≤ n → (groupAt t r.q).vreg n = g.vreg n ∧ (groupAt t r.q).vFull n = g.vFull n)
          ∧ (∀ m, m ≠ n → (groupAt t r.q).vreg m = g.vreg m) ∧ (∀ m, (groupAt t r.q).readS m = g.readS m))))
  ∧ (∀ (h answer : W64) (bytes : List Byte) (s : State) (r : SyscRec),
    let owns (e : Nat × Group) : Bool := e.2.st != .stopped && (match e.2.sysc with
      | some y => y.handle == h
      | none => false)
    let e0 : Env := { vf := r.vf, s1root := r.s1root, team := 0, core := 1028, priv := r.vf == 0 }
    Tab.find s.syscs h.toNat = some r → syscAnswerOk r answer = true → r.answer = none →
    (r.gone = true → ∃ t, exec (.syscAnswer h answer bytes) s = .next t ∧ t.syscs = Tab.del s.syscs h.toNat
      ∧ t.groups = s.groups ∧ SameMemory s t)
    ∧ (∀ q g y, r.gone = false → s.groups.find? owns = some (q, g) → (groupAt s q).sysc = some y → y.handle = h →
      y.dest < 64 → (syscEffect (envOf s q) r answer bytes s).isSome = true → ∃ t, exec (.syscAnswer h answer bytes) s = .next t ∧ Tab.find t.syscs h.toNat = none
        ∧ (groupAt t q).sysc = none ∧ (groupAt t q).sFull y.dest = true
        ∧ (groupAt t q).readS y.dest = (if y.dest = 0 then 0 else answer)
        ∧ (teamAt t (groupAt s q).team).memGen = (teamAt s (groupAt s q).team).memGen + 1
        ∧ ∀ k, k ≠ q → groupAt t k = groupAt s k)
    ∧ (r.gone = false → s.groups.find? owns = none → (syscEffect e0 r answer bytes s).isSome = true → ∃ t, exec (.syscAnswer h answer bytes) s = .next t
      ∧ t.groups = s.groups ∧ Tab.find t.syscs h.toNat = some { r with answer := some answer }))
  ∧ (∀ (q : Nat) (s : State) (o : OpA), (groupAt s q).st = .running → mayRunAt s (dieOf q) (groupAt s q).vf = true →
    (groupAt s q).blocked = some (.twait o) →
    ((groupAt s q).readS o.sa.toNat).toNat ≤ s.time.toNat →
    exec (.twaitExpiry q) s = .next { retire .seq { s with cur := .group q } with cur := s.cur })
  ∧ (∀ (q : Nat) (s s1 s2 : State) (o : OpSM) (off : Nat),
    let s0 : State := { s with cur := .group q }
    (groupAt s q).st = .running → mayRunAt s (dieOf q) (groupAt s q).vf = true → (groupAt s q).blocked = some (.start o) →
    access s0 { size := 8, write := true, atomic := false, vector := false } false (smAddr s0 o 8) = .ok (.aperture off, s1) →
    off % 64 = 0 → startStore (off / 64) (s1.me.readS o.sd.toNat) s1 = some s2 →
    exec (.bteStart q) s = .next { retire .seq (memGenMe s2) with cur := s.cur })

/-- The active set of a partition (07 R202, R205, R206). While fewer than four groups are in it, the group enters that goes
before the others: aged groups first (among them the one that has waited longest), then those of a VF without an entry, then
those ready longest, then the lower slot. Where it is full, a group ready outside a YIELD hold, of a VF without an entry,
takes the place of one whose VF keeps another. A group leaves after 32 CCLK of a wait and ages no more; a YIELD holds for
32. A group that is ready and has not issued for 1,024 CCLK, and for as much again as its die withheld from it by its duty
meanwhile (R457), ages, enters and displaces the most recent issuer. The model's own readings in it stand in log 38. Which
of the ready groups of a partition goes into a slot of one kind (07 R201, R203 to R205): an aged group before one that is
not, and the longest waiting of the aged; of the groups of one function a group that does not give way before one that does;
then the one that issued least recently, then the lower slot. One group goes before the other, never both; a group whose
partition chooses it has no ready rival for its slot kind that goes before it. While an aged group can go on, the next word
is an aged group's (R208). A function that is owed four words or more of its share goes before one owed less, so that R207's
bound holds (log 6); within the bound the choice among functions is free (log 4). -/
def Obligations.ActiveSet : Prop :=
  ((∀ (q : Nat) (s : State), enters s q = true →
    ((activeOf s (q / 16)).length < 4 → exec (.activeSetEnter q) s =
      .next (modGroup q (fun g => { g with active := true, yieldedAt := none }) s))
    ∧ (4 ≤ (activeOf s (q / 16)).length → displaceable s (q / 16) (groupAt s q).vf ≠ [] →
      ∃ d t, d ∈ displaceable s (q / 16) (groupAt s q).vf
        ∧ exec (.activeSetEnter q) s = .next t ∧ (groupAt t q).active = true
        ∧ (d.1 ≠ q → (groupAt t d.1).active = false ∧ (groupAt t d.1).aged = false)
        ∧ ∀ k, k ≠ q → k ≠ d.1 → groupAt t k = groupAt s k))
  ∧ (∀ (q : Nat) (s : State),
    let may (k : Nat) : Bool := if (activeOf s (q / 16)).length < 4 then mayEnter s k
      else mayEnter s k && (groupAt s k).counts s.cclk && lacksEntry s (q / 16) (groupAt s k).vf
    (enters s q = true ↔ may q = true ∧
      ∀ e ∈ residents s (q / 16), e.1 ≠ q → may e.1 = true → goesBefore s (q / 16) e.1 q = false))
  ∧ (∀ (s : State) (p a b : Nat),
    let x := groupAt s a
    let y := groupAt s b
    let plain := x.aged = false ∧ y.aged = false
    goesBefore s p a a = false ∧ (a ≠ b → goesBefore s p a b = !goesBefore s p b a)
    ∧ (x.aged = true → y.aged = false → goesBefore s p a b = true)
    ∧ (x.aged = true → y.aged = true → x.since < y.since → goesBefore s p a b = true)
    ∧ (x.aged = true → y.aged = true → x.since = y.since → a < b → goesBefore s p a b = true)
    ∧ (plain → lacksEntry s p x.vf = true → lacksEntry s p y.vf = false → goesBefore s p a b = true)
    ∧ (plain → lacksEntry s p x.vf = lacksEntry s p y.vf → x.readyAt < y.readyAt → goesBefore s p a b = true)
    ∧ (plain → lacksEntry s p x.vf = lacksEntry s p y.vf → x.readyAt = y.readyAt → a < b → goesBefore s p a b = true))
  ∧ (∀ (q : Nat) (s : State) (b : Blocked),
    let g := groupAt s q
    (g.active = true → g.st = .running → g.blockedAt + 32 ≤ s.cclk → g.blocked = some b → b.evicts = true →
      exec (.blockedEvict q) s = .next (modGroup q Group.leaveActive s))
    ∧ (∀ c, g.yieldedAt = some c → c + 32 ≤ s.cclk → exec (.yieldHoldExpiry q) s =
      .next (modGroup q (fun g => { g with yieldedAt := none }) s))
    ∧ (g.leaveActive.active = false ∧ g.leaveActive.aged = false ∧ g.leaveActive.cache = [] ∧ g.leaveActive.s = g.s
      ∧ g.leaveActive.v = g.v ∧ g.leaveActive.pc = g.pc))
  ∧ (∀ (q : Nat) (s : State),
    let g := groupAt s q
    let aged := modGroup q (fun g => { g with aged := true }) s
    let d := dieAt s (dieOf q)
    (d.duties = [] → agingWindow s q = 1024) ∧ 1024 ≤ agingWindow s q
    ∧ (agingDue s q = true ↔ g.st = .running ∧ g.blocked = none ∧ (g.aged = true ∨ g.notBefore ≤ s.cclk) ∧ g.yieldedAt = none
      ∧ d.held = false ∧ g.since + agingWindow s q ≤ s.cclk)
    ∧ (agesNow s q = true → g.active = true → exec (.aging q) s = .next aged)
    ∧ (agesNow s q = true → g.active = false → (activeOf s (q / 16)).length < 4 → exec (.aging q) s =
      .next (modGroup q (fun g => { g with active := true, yieldedAt := none }) aged))
    ∧ (agesNow s q = true → g.active = false → 4 ≤ (activeOf s (q / 16)).length → displaceable s (q / 16) g.vf ≠ [] →
      ∃ d ∈ displaceable s (q / 16) g.vf, (∀ e ∈ displaceable s (q / 16) g.vf, e.2.lastIssue ≤ d.2.lastIssue)
        ∧ exec (.aging q) s = .next (enterActive q (some d.1) aged))))
  ∧ ((∀ (s : State) (a b : Nat), a ≠ b → a / 16 = b / 16 → issuesBefore s a b = !issuesBefore s b a)
  ∧ (∀ (s : State) (a b : Nat), (groupAt s a).aged = true → (groupAt s b).aged = false → issuesBefore s a b = true)
  ∧ (∀ (s : State) (a b : Nat), (groupAt s a).aged = true → (groupAt s b).aged = true → (groupAt s a).since < (groupAt s b).since →
    issuesBefore s a b = true)
  ∧ (∀ (s : State) (a b : Nat), (groupAt s a).aged = false → (groupAt s b).aged = false → (groupAt s a).vf = (groupAt s b).vf →
    ((groupAt s a).giveWay = false → (groupAt s b).giveWay = true → issuesBefore s a b = true)
    ∧ ((groupAt s a).giveWay = (groupAt s b).giveWay → (groupAt s a).lastIssue < (groupAt s b).lastIssue → issuesBefore s a b = true)
    ∧ ((groupAt s a).giveWay = (groupAt s b).giveWay → (groupAt s a).lastIssue = (groupAt s b).lastIssue → a < b →
      issuesBefore s a b = true))
  ∧ (∀ (s : State) (q r : Nat), chosen s q = true → nextKind s q ≠ 0 → r ∈ issueRivals s q → nextKind s r = nextKind s q →
    issuesBefore s q r = true)
  ∧ (∀ (s : State) (q r : Nat), r ∈ issueRivals s q ↔
    r ≠ q ∧ r / 16 = q / 16 ∧ ∃ g, (r, g) ∈ s.groups ∧ g.blocked = none ∧ mayIssue s r = true)
  ∧ (∀ (s : State) (a b : Nat), (groupAt s a).aged = false → (groupAt s b).aged = false → (groupAt s a).vf ≠ (groupAt s b).vf →
    lagOf s a (groupAt s b).vf < lagOf s a (groupAt s a).vf → 4 * 2 ^ 16 ≤ lagOf s a (groupAt s a).vf → issuesBefore s a b = true)
  ∧ (∀ (s : State) (q : Nat), s.cur = .group q → goesOn s q = true → (∀ e ∈ s.groups, e.2.aged = true → goesOn s e.1 = false) →
    (∀ e ∈ s.groups, goesOn s e.1 = true → lagOf s e.1 e.2.vf < 4 * 2 ^ 16) → nextAgent s = .group q)
  ∧ (∀ (s : State), (∃ e ∈ s.groups, e.2.aged = true ∧ goesOn s e.1 = true) →
    ∃ q g, nextAgent s = .group q ∧ (q, g) ∈ s.groups ∧ g.aged = true ∧ goesOn s q = true))

/-- Admission (07 R190, R191, R192, R197, R199): the first waiting team of the VF whose turn it is takes its counts on a
core and starts: its groups run in the slots given, each with the launch state of R191, and no other group changes. A launch
whose not-before time has come lets its teams wait, and one whose groups have all ended completes with its id as the result.
LAUNCH checks its fields and what they name (R346; the order of its checks and its not-before time are log 34's). That the
groups of the PF's launches alone are at level 1 is log 60's reading of R136. The model's own readings in it stand in log
37. -/
def Obligations.Admission : Prop :=
  (∀ (core vf : Nat) (s : State) (w : WaitingTeam) (slots : List Nat), turnOf s core = some vf →
    admissible s core vf = some (w, slots) →
    let l := Tab.get default s.launches w.launch
    ∃ t, exec (.teamAdmit core vf) s = .next t ∧ (vfAt t vf).waiting = (vfAt s vf).waiting.drop 1
      ∧ (coreAt t core).rrVf = vf ∧ t.nextTeam = s.nextTeam + 1
      ∧ (let k := teamAt t s.nextTeam
        k.launch = w.launch ∧ k.index = w.index ∧ k.vf = vf ∧ k.core = core ∧ k.groups = w.groups ∧ k.vext = w.vext
        ∧ k.pages.length = w.pages ∧ k.tiles.length = w.tiles ∧ k.members = slots ∧ k.memGen = 0 ∧ k.s1root = l.s1root)
      ∧ slots.length = w.groups ∧ slots.Nodup ∧ (∀ q ∈ slots, (groupAt s q).st = .vacant ∧ q / 128 = core)
      ∧ (∀ q, q ∉ slots → groupAt t q = groupAt s q)
      ∧ (l.kind = .kernel → ∀ gi q, slots[gi]? = some q →
        let g := groupAt t q
        g.st = .running ∧ g.vf = l.vf ∧ g.launch = w.launch ∧ g.team = s.nextTeam ∧ g.index = gi
        ∧ g.gen = (groupAt s q).gen + 1 ∧ g.pc = w.entry &&& ~~~(3 : W64) ∧ g.mode = 0x80 ∧ g.fill = 0 ∧ g.seed = 1 ∧ g.fpstat = 0
        ∧ g.readS 1 = l.args ∧ g.readS 2 = BitVec.ofNat 64 w.index ∧ g.readS 3 = BitVec.ofNat 64 gi
        ∧ g.readS 4 = BitVec.ofNat 64 l.teams ∧ (∀ n, 4 < n → g.readS n = 0) ∧ (∀ n, n < 64 → g.sFull n = true)
        ∧ g.vreg 0 = .affine (BitVec.ofNat 32 (32 * gi)) 1 ∧ (∀ n, 0 < n → g.vreg n = .uniform 0)
        ∧ (∀ n, n < 112 → g.vFull n = true) ∧ g.readP 0 = g.liveMask ∧ (∀ n, 1 ≤ n → n ≤ 7 → g.readP n = 0)
        ∧ (∀ i, i < 32 → (g.liveMask.getLsbD i = decide (32 * gi + i < w.lanes)))
        ∧ (∀ i, i < 32 → 32 * gi + i < w.lanes →
          (g.slots.getD i { st := .vacant, ident := 0 }).ident = BitVec.ofNat 16 (32 * gi + i))
        ∧ g.tvec = w.tvec &&& ~~~(3 : W64) ∧ g.pvec = w.pvec &&& ~~~(3 : W64)
        ∧ g.level = (l.vf == 0) ∧ g.hact = false ∧ g.dact = false ∧ g.pact = false ∧ g.blocked = none))
  ∧ (∀ (lid : Nat) (s : State) (l : Launch), Tab.find s.launches lid = some l → l.begun = false →
    l.nbt.toNat ≤ s.time.toNat → ∃ t, exec (.launchNbtStart lid) s = .next t
      ∧ Tab.find t.launches lid = some { l with begun := true }
      ∧ (vfAt t l.vf).waiting = (vfAt s l.vf).waiting ++ (List.range l.teams).map (fun i => kernelTeam lid i l)
      ∧ t.groups = s.groups ∧ SameMemory s t)
  ∧ (∀ (lid : Nat) (s : State) (l : Launch), Tab.find s.launches lid = some l → l.kind = .kernel → l.begun = true →
    l.left = 0 → l.saved = none → l.stall = none → launchWorks s lid = false → (dieAt s 4).held = false → l.tlrec = 0 →
    (l.cmd = none → exec (.launchComplete lid) s = .next { s with launches := Tab.del s.launches lid })
    ∧ (∀ id, l.cmd = some id → ∃ u, exec (.launchComplete lid) s = .next (completeCmd l.vf id 0 0 (lid % 2 ^ 24) 0 u)
      ∧ Tab.find u.launches lid = none ∧ SameMemory s u ∧ u.groups = s.groups))
  ∧ (∀ (vf id : Nat) (s : State) (c : Command), readyCmd s vf id 1 = some c → mayAdmit s vf = true →
    (∀ e, launchCheck s vf c = .error e →
      exec (.launch vf id) s = .next (completeCmd vf id e 0 0 0 (beginCmd vf id s)))
    ∧ (∀ k, launchCheck s vf c = .ok k → ∃ u, exec (.launch vf id) s = .next (settle vf u)
      ∧ (∃ l, Tab.find u.launches s.nextLaunch = some l ∧ l.vf = vf ∧ l.cmd = some id ∧ l.kdesc = k
        ∧ l.args = BitVec.ofNat 64 (c.field 16 8) ∧ l.teams = c.field 32 4 ∧ l.lanes = c.field 36 4
        ∧ l.begun = decide ((BitVec.ofNat 64 (c.field 40 8)).toNat ≤ s.time.toNat)
        ∧ (vfAt u vf).waiting = (vfAt s vf).waiting ++
          (if l.begun then (List.range l.teams).map (fun i => kernelTeam s.nextLaunch i l) else []))
      ∧ u.nextLaunch = s.nextLaunch + 1 ∧ u.groups = s.groups ∧ SameMemory s u))

/-- Waves and gatherings (07 R194, R196; 10 R301 to R303; 13 R338): a forming wave launches as a team that waits once its
timer has run out; the Gathering unit fires the first ready expert that a core admits, at most one every 16 CCLK; the
gathering's team starts when its records lie in its scratchpad, once no older lock lies on it; a head token reaches the age
timer, and after four timers is reported. The model's own readings in it stand in log 41. -/
def Obligations.WavesAndGatherings : Prop :=
  (∀ (die vf index entry since : Nat) (s : State) (q : TaskQueue), taskQueue s die vf index = some q → q.enabled = true →
    (dieAt s die).held = false → q.timers = [(entry, since)] → since + tqTimer q.desc ≤ s.cclk →
    let ts := (q.entries.filter (fun t => t.entry == BitVec.ofNat 64 entry)).take 32
    ∃ t, exec (.gatherTimerExpiry die vf index) s = .next t ∧ t.nextLaunch = s.nextLaunch + 1
      ∧ (∃ w, (vfAt t vf).waiting = (vfAt s vf).waiting ++ [w] ∧ w.launch = s.nextLaunch ∧ w.groups = 1 ∧ w.tiles = 0
        ∧ w.lanes = ts.length ∧ w.tasks = ts.map (fun x => (x.value, x.number)) ∧ w.entry = BitVec.ofNat 64 entry
        ∧ w.vext = tqVext q.desc ∧ w.pages = tqPages q.desc ∧ w.tvec = tqWtvec q.desc ∧ w.pvec = tqWpvec q.desc
        ∧ w.regs.getD 1 0 = BitVec.ofNat 64 ts.length)
      ∧ (∃ q', taskQueue t die vf index = some q' ∧ q'.entries = q.entries.filter (fun x => !ts.contains x))
      ∧ t.groups = s.groups ∧ ((dieAt s die).trace.keeps 3 vf 0 = false → SameMemory s t))
  ∧ (∀ (die vf expert core : Nat) (s : State) (x : Expert) (slots : List Nat) (r : Nat),
    expertAt s die vf expert = some x → expert < 256 → (dieAt s die).held = false →
    (∀ c, (dieAt s die).lastFire = some c → c + 16 ≤ s.cclk) → x.reason s.time = some r →
    coreAdmits s die vf expert x core = some slots → x.spilled = 0 → x.staged = [] →
    (∀ y ∈ (dieAt s die).experts, y.1 ≠ expertKey vf expert → (y.2.reason s.time).isSome = true →
      firesBefore y (expertKey vf expert, x) = true → someAdmits s die (y.1 / 256) (y.1 % 256) y.2 = false) →
    (coreAt s core).locks.length + 16 ≤ Config.lockEntries →
    ∃ t, exec (.expertFire die vf expert core) s = .next t ∧ (dieAt t die).lastFire = some s.cclk
      ∧ t.nextLaunch = s.nextLaunch + 1 ∧ t.nextTeam = s.nextTeam + 1
      ∧ (∃ x' f, expertAt t die vf expert = some x' ∧ x'.queue = x.queue.drop 256 ∧ x'.firing = x.firing ++ [f]
        ∧ f.records = x.queue.take 256 ∧ f.team = s.nextTeam ∧ f.core = core ∧ f.slots = slots
        ∧ f.waiting.regs = [0, BitVec.ofNat 64 (min 256 x.queue.length), BitVec.ofNat 64 expert, BitVec.ofNat 64 r])
      ∧ t.groups = s.groups)
  ∧ (∀ (die vf expert : Nat) (s : State) (x : Expert) (f : Firing) (later : List Firing), expertAt s die vf expert = some x →
    x.firing = f :: later → (dieAt s die).held = false → mayAdmit s vf = true → gatherWaits s vf expert f = false →
    f.slots.Nodup →
    ∃ t, exec (.gatheringLaunch die vf expert) s = .next t
      ∧ (∃ x', expertAt t die vf expert = some x' ∧ x'.firing = later)
      ∧ (∃ l, Tab.find t.launches f.waiting.launch = some l ∧ l.vf = vf ∧ l.kind = .gathering ∧ l.cmd = none ∧ l.left = 1)
      ∧ (∀ gi q, f.slots[gi]? = some q → (groupAt t q).st = .running ∧ (groupAt t q).pc = f.waiting.entry &&& ~~~(3 : W64)
        ∧ (groupAt t q).team = f.team ∧ (groupAt t q).index = gi
        ∧ ∀ n, 1 ≤ n → n ≤ 4 → (groupAt t q).readS n = f.waiting.regs.getD (n - 1) 0)
      ∧ (∀ q, q ∉ f.slots → groupAt t q = groupAt s q))
  ∧ (∀ (die vf expert : Nat) (s : State) (x : Expert) (h : BitVec 512) (rest : List (BitVec 512)),
    expertAt s die vf expert = some x → x.enabled = true → x.queue = h :: rest → exTimer x.desc ≠ 0 →
    (x.aged = false → recEnq h + exTimer x.desc ≤ s.time.toNat → ∃ t, exec (.expertAgeTimer die vf expert) s = .next t
      ∧ expertAt t die vf expert = some { x with aged := true } ∧ t = { s with dies := t.dies })
    ∧ (x.starvePosted = false → recEnq h + 4 * exTimer x.desc ≤ s.time.toNat →
      ∃ t, exec (.eqStarveTimeout die vf expert) s = .next t
        ∧ expertAt t die vf expert = some { x with starvePosted := true }
        ∧ ∃ u, u = postEvent vf 6 vf die 0 [BitVec.ofNat 8 die, BitVec.ofNat 8 expert, 0, 0, BitVec.ofNat 8 (recTok h),
            BitVec.ofNat 8 (recTok h / 2 ^ 8), BitVec.ofNat 8 (recTok h / 2 ^ 16), BitVec.ofNat 8 (recTok h / 2 ^ 24)] s
          ∧ t = { u with dies := t.dies }))

/-- Notifications (14 R349) and the end of a command (R348, R351): a notification takes a token and the queue is read, or
sets WAKEAGAIN where no token is left; tokens are refilled at every multiple of 1,000 ticks up to WAKEBURST; a command that
completes writes its status record and its used element, leaves the table and sends the queue's interrupt as used_event or
the flags of the available ring ask. A completion that needs the memory of a held die waits (R415), and one whose status
area is not mapped is a RING_ERROR (R350). The model's own readings in it stand in log 32, log 62 and log 73. -/
def Obligations.CommandCompletion : Prop :=
  (∀ (vf q : Nat) (s : State), q < 64 → vfOn s vf = true →
    ((vfAt (refill s) vf).tokens = 0 → exec (.notify vf q) s =
      .next (modQueue vf q (fun x => { x with status := x.status ||| 4 }) (refill s)))
    ∧ ((vfAt (refill s) vf).tokens ≠ 0 → exec (.notify vf q) s =
      .next (scanQueue vf q (modVf vf (fun x => { x with tokens := x.tokens - 1 }) (refill s)))))
  ∧ (∀ s : State, s.time.toNat / 1000 = s.refillAt.toNat / 1000 → refill s = s)
  ∧ (∀ s : State, s.refillAt.toNat / 1000 < s.time.toNat / 1000 → s.refillAt.toNat ≤ s.time.toNat →
    (∀ e ∈ s.vfs, wakingQueues s e.1 = []) →
    ∃ t, exec .wakeRefill s = .next t ∧ t.refillAt = s.time ∧ t.mem = s.mem ∧ t.groups = s.groups
      ∧ ∀ v x, Tab.find s.vfs v = some x → (vfAt t v).tokens =
        min x.wakeBurst.toNat (x.tokens + (s.time.toNat / 1000 - s.refillAt.toNat / 1000) * x.wakeRate.toNat))
  ∧ (∀ (v id st detail result extra : Nat) (s t1 t2 t3 : State) (c : Command),
    let q := queueAt s v c.queue
    Tab.find (vfAt s v).cmds id = some c → completionHeld s v c = false → q.resetting ≠ 1 → q.needsReset = false →
    writeGpa v c.status.toNat (leBytes 1 st ++ leBytes 1 detail ++ [0, 0] ++ leBytes 4 (c.field 4 4) ++ leBytes 8 result) s
      = some t1 →
    writeGpa v (q.device.toNat + 4 + 8 * (q.usedIdx.toNat % q.size.toNat)) (leBytes 4 c.head.toNat ++ leBytes 4 (16 + extra))
      (modVf v (fun x => { x with cmds := Tab.del x.cmds id }) t1) = some t2 →
    writeGpa v (q.device.toNat + 2) (leBytes 2 (q.usedIdx + 1).toNat) t2 = some t3 →
    let t := finishCmd v id st detail result extra s
    let u := modQueue v c.queue (fun x => { x with usedIdx := x.usedIdx + 1 }) t3
    let eventIdx := (vfAt s v).driverFeature.getLsbD 29
    Tab.find (vfAt t v).cmds id = none ∧ (queueAt t v c.queue).usedIdx = q.usedIdx + 1
    ∧ (∀ bs, readGpa u v (q.driver.toNat + (if eventIdx then 4 + 2 * q.size.toNat else 0)) 2 = some bs → SameMemory t3 t
      ∧ t.msix = if (eventIdx = true ∧ leNat bs = q.usedIdx.toNat ∨ eventIdx = false ∧ leNat bs % 2 = 0) ∧ q.msix.toNat ≠ 0xFFFF
        then s.msix ++ [(v, q.msix.toNat)] else s.msix))
  ∧ (∀ (v id st detail result extra : Nat) (s : State) (c : Command), Tab.find (vfAt s v).cmds id = some c →
    let t := finishCmd v id st detail result extra s
    (completionHeld s v c = true → t = modVf v (fun x => { x with
      cmds := Tab.set x.cmds id { c with begun := true, fin := some (st, detail, result, extra) } }) s)
    ∧ (completionHeld s v c = false → (queueAt s v c.queue).needsReset = false →
      writeGpa v c.status.toNat (leBytes 1 st ++ leBytes 1 detail ++ [0, 0] ++ leBytes 4 (c.field 4 4) ++ leBytes 8 result) s
        = none → Tab.find (vfAt t v).cmds id = none ∧ (queueAt t v c.queue).needsReset = true))

/-- The commands that complete at once (14 R346, R347, R358, R359, R362; 17 R403), where the command may begin: its header
is in order and what it names is read. Each answers its status and result, and the configuring ones and the grants change
what they configure and nothing else; of a copy, an invalidation and a demand fault the statement says what they start, drop
and wake. A subcommand of the PF is DENIED to a VF (R347). The statuses REFUSED and BADADDR are log 31's, a handle's rights
and first generation log 36's; the model's own readings in it stand besides in log 34, log 35 and log 51. -/
def Obligations.Commands : Prop :=
  (∀ (vf id : Nat) (s : State) (c : Command) (bs : List Byte),
    let root := BitVec.ofNat 64 (c.field 24 8)
    let va := c.field 16 8
    let answer (st : Nat) (u : State) : Out := .next (completeCmd vf id st 0 0 0 (beginCmd vf id u))
    readyCmd s vf id 3 = some c → c.clean [(8, 2), (16, 8), (24, 8)] = true → c.field 8 2 < 4096 → root.toNat % 4096 = 0 →
    cmdRead s vf root va 128 = some bs →
    (∀ t, va % 128 = 0 → readTemplate s vf root (leNat bs) = some t → tplValid t = true →
      exec (.templateLoad vf id) s = answer 0 (modVf vf (fun x => { x with
        templates := Tab.set x.templates (c.field 8 2) t }) s))
    ∧ (va % 128 ≠ 0 ∨ readTemplate s vf root (leNat bs) = none → exec (.templateLoad vf id) s = answer 5 s))
  ∧ (∀ (vf id : Nat) (s : State) (c : Command),
    let root := BitVec.ofNat 64 (c.field 32 8)
    readyCmd s vf id 2 = some c →
    (c.clean [(8, 2), (12, 4), (16, 4), (20, 4), (24, 4), (28, 4), (32, 8), (40, 1)] = true → c.byte 40 < 4 →
      root.toNat % 4096 = 0 → gpaMapped s vf root.toNat 4096 false = true → ∃ t cp, exec (.copy vf id) s = .next t ∧ Tab.find t.copies s.nextCopy = some cp
        ∧ cp.cmd = some (vf, id) ∧ cp.tidx = c.field 8 2 ∧ cp.s1root = root ∧ cp.core = 1024 + c.byte 40 ∧ cp.done = 0
        ∧ cp.tpl = Tab.get default (vfAt s vf).templates (c.field 8 2) ∧ t.nextCopy = s.nextCopy + 1 ∧ SameMemory s t)
    ∧ (c.clean [(8, 2), (12, 4), (16, 4), (20, 4), (24, 4), (28, 4), (32, 8), (40, 1)] = true → c.byte 40 < 4 →
      root.toNat % 4096 = 0 → gpaMapped s vf root.toNat 4096 false = false →
      exec (.copy vf id) s = .next (completeCmd vf id 1 0 0 0 (beginCmd vf id s)))
    ∧ (c.byte 40 ≥ 4 ∨ root.toNat % 4096 ≠ 0 → exec (.copy vf id) s = .next (completeCmd vf id 2 0 0 0 (beginCmd vf id s))))
  ∧ (∀ (vf id : Nat) (s : State) (c : Command) (bs : List Byte),
    let off := c.field 16 8
    let len := c.field 24 8
    readyCmd s vf id 4 = some c → c.clean [(8, 4), (16, 8), (24, 8)] = true →
    len ≤ c.writable.foldl (fun n p => n + p.2) 0 → dumpBytes s vf (c.field 8 4) = some bs → off + len ≤ bs.length →
    exec (.dumpRead vf id) s = .next (completeCmd vf id 0 0 len len
      (scatterBytes vf c.writable ((bs.drop off).take len) (beginCmd vf id s))))
  ∧ (∀ (vf id : Nat) (s : State) (c : Command) (bs : List Byte), readyCmd s vf id 5 = some c → cfgClean c = true →
    cmdRead s vf c.root c.recordVa 64 = some bs →
    let d := BitVec.ofNat 512 (leNat bs)
    let gen (q : Option TaskQueue) : BitVec 16 := match q with
      | some x => x.gen + 1
      | none => 1
    (c.sub = 0 → c.index ≤ 0xFFFE → tqOk d = true →
      poolUsed s c.die (queueKey vf c.index) + tqCap d ≤ Config.taskPool → ∃ u q,
        exec (.configureTaskQueue vf id) s = .next (completeCmd vf id 0 0 (queueHandle q.gen vf c.die c.index
          (if tqWave d then 1 else 7)).toNat 0 (beginCmd vf id u)) ∧ u = { s with dies := u.dies }
        ∧ taskQueue u c.die vf c.index = some q ∧ q.desc = d ∧ q.enabled = tqEn d ∧ q.entries = [] ∧ q.s1root = c.root
        ∧ q.gen = gen (taskQueue s c.die vf c.index)
        ∧ ∀ die k, die ≠ c.die ∨ k ≠ queueKey vf c.index → Tab.find (dieAt u die).queues k = Tab.find (dieAt s die).queues k)
    ∧ (∀ k, c.sub = 1 → c.index ≤ 255 → exOk d = true → exEn d = true → readKdesc s vf c.root (exKdesc d) = some k →
      kdescOk k = true → expertsOn s c.die (expertKey vf c.index) < 256 → 16 ≤ k.pages → ∃ u x,
        exec (.configureExpert vf id) s = .next (completeCmd vf id 0 0 (queueHandle (Tab.get 1 (dieAt s c.die).expertGen vf) vf
          c.die 0xFFFF 1).toNat 0 (beginCmd vf id u)) ∧ u = { s with dies := u.dies }
        ∧ expertAt u c.die vf c.index = some x ∧ x.desc = d ∧ x.kdesc = k ∧ x.enabled = true ∧ x.queue = [] ∧ x.spilled = 0 ∧ x.staged = []))
  ∧ (∀ (vf id : Nat) (s : State) (c : Command), readyCmd s vf id 5 = some c → cfgClean c = true → c.sub = 2 →
    (∀ q, c.arg = 0 → c.index ≤ 0xFFFE → taskQueue s c.die vf c.index = some q → ∃ u,
      exec (.disableTaskQueue vf id) s = .next (completeCmd vf id 0 0 0 0 (beginCmd vf id u)) ∧ u = { s with dies := u.dies }
      ∧ taskQueue u c.die vf c.index = some { q with enabled := false, gen := q.gen + 1 })
    ∧ (∀ x, c.arg = 1 → c.index ≤ 255 → expertAt s c.die vf c.index = some x → ∃ u,
      exec (.disableExpert vf id) s = .next (completeCmd vf id 0 0 0 0 (beginCmd vf id u)) ∧ u = { s with dies := u.dies }
      ∧ expertAt u c.die vf c.index = some { x with enabled := false, desc := x.desc &&& ~~~(1 : BitVec 512) }))
  ∧ (∀ (vf id : Nat) (s : State) (c : Command) (i : Instr) (sub : Nat),
    (i, sub) ∈ ([(.assignPartitions vf id, 8), (.writeGrant vf id, 9), (.clearGrant vf id, 10), (.stage2Inval vf id, 11)]
      : List (Instr × Nat)) → readyCmd s vf id 5 = some c → c.sub = sub → vf ≠ 0 →
    exec i s = .next (completeCmd vf id 7 0 0 0 (beginCmd vf id s)))
  ∧ (∀ (id : Nat) (s : State) (c : Command), readyCmd s 0 id 5 = some c → cfgClean c = true → c.index ≤ 512 →
    (∀ bs, c.sub = 8 → cmdRead s 0 c.root c.recordVa 256 = some bs → ∃ u,
      exec (.assignPartitions 0 id) s = .next (completeCmd 0 id 0 0 0 0 (beginCmd 0 id u)) ∧ u = { s with vfs := u.vfs }
      ∧ ((vfAt s c.index).ctx.st = .frozen → u = s)
      ∧ ((vfAt s c.index).ctx.st ≠ .frozen → (vfAt s c.index).tdi = .unlocked → bootReady s = true → ∀ p, p ∈ (vfAt u c.index).parts ↔
        p < 2048 ∧ (bs.getD (p / 8) 0).getLsbD (p % 8) = true))
    ∧ (∀ bs, c.sub = 9 → c.arg < 4096 → cmdRead s 0 c.root c.recordVa 16 = some bs → ∃ u,
      exec (.writeGrant 0 id) s = .next (completeCmd 0 id 0 0 0 0 (beginCmd 0 id u)) ∧ u = { s with grants := u.grants }
      ∧ Tab.find u.grants c.arg = some (BitVec.ofNat 128 (leNat bs) &&& grantMask)
      ∧ ∀ k, k ≠ c.arg → Tab.find u.grants k = Tab.find s.grants k)
    ∧ (c.sub = 10 → c.arg < 4096 → exec (.clearGrant 0 id) s =
      .next (completeCmd 0 id 0 0 0 0 (beginCmd 0 id { s with grants := Tab.del s.grants c.arg })))
    ∧ (c.sub = 11 → (vfAt s c.index).tdi = .unlocked → bootReady s = true → loadsDone s c.index = true → ∃ u, exec (.stage2Inval 0 id) s = .next (completeCmd 0 id 0 0 0 0 (beginCmd 0 id u))
      ∧ SameMemory s u ∧ u.groups = s.groups
      ∧ ∀ d e, e ∈ (dieAt u d).tlb ↔ e ∈ (dieAt s d).tlb
        ∧ ¬(e.vf = c.index ∧ e.gbase < c.recordVa + c.arg ∧ c.recordVa < e.gbase + e.size)))
  ∧ (∀ (vf id : Nat) (s : State) (c : Command),
    let root := BitVec.ofNat 64 (c.field 8 8)
    readyCmd s vf id 6 = some c → c.clean [(8, 8), (16, 8), (24, 8)] = true → root.toNat % 4096 = 0 →
      loadsDone s vf = true → ∃ u,
      exec (.tlbInval vf id) s = .next (completeCmd vf id 0 0 0 0 (beginCmd vf id u)) ∧ SameMemory s u ∧ u.groups = s.groups
      ∧ ∀ d e, e ∈ (dieAt u d).tlb ↔ e ∈ (dieAt s d).tlb ∧ ¬(e.vf = vf ∧ (root = 0 ∨ e.s1root = root) ∧ (c.field 24 8 = 0
        ∨ (e.base < c.field 16 8 + c.field 24 8 ∧ c.field 16 8 < e.base + e.size))))
  ∧ (∀ (vf idx : Nat) (s : State) (f : DemandFault), (vfAt s vf).faults[idx]? = some f →
    (∃ t, exec (.demandFaultRetry vf idx) s = .next t
      ∧ ((∀ d ∈ s.dies, ∀ e ∈ d.2.experts, e.1 / 256 = vf → e.2.spilled = 0 ∧ e.2.staged = []) →
        f ∉ (vfAt t vf).faults ∧ SameMemory s t)
      ∧ ∀ q, (groupAt s q).vf = vf → (teamAt s (groupAt s q).team).s1root = f.s1root →
        (groupAt s q).blocked = some (.demand f.stage f.page) → (Tab.find s.groups q).isSome = true →
        (groupAt t q).blocked = none ∧ (groupAt t q).readyAt = s.cclk ∧ (groupAt t q).pc = (groupAt s q).pc
        ∧ (groupAt t q).s = (groupAt s q).s ∧ (groupAt t q).v = (groupAt s q).v ∧ (groupAt t q).failPages = (groupAt s q).failPages)
    ∧ (∃ t, exec (.demandFaultFail vf idx) s = .next t ∧ f ∉ (vfAt t vf).faults
      ∧ ∀ q, (groupAt s q).vf = vf → (teamAt s (groupAt s q).team).s1root = f.s1root →
        (groupAt s q).blocked = some (.demand f.stage f.page) → (Tab.find s.groups q).isSome = true →
        (groupAt t q).blocked = none ∧ (f.stage, f.page) ∈ (groupAt t q).failPages))

/-! ## Saving, debugging and the device (17, 19 to 22) -/

/-- The words of major 0x32 (17 R397 to R402). Each advances MEMGEN. CDRAIN writes a record for every copy that the group
started, cancels them and answers their number; CSTATE reads and CLOAD writes the listed items, and traps on another one;
CSAVED ends the group in a save and traps outside one; CRESTART starts a recorded copy; MSAVE holds the sequencer and writes
its image, MLOAD loads one. The model's own readings in it stand in log 49 and log 50. -/
def Obligations.ContextWords : Prop :=
  (∀ (o : OpDA) (s s1 : State) (ps : List (Nat × Nat)),
    MayGo (.cdrain o) [.priv 0x32, .ss o.sa.toNat false 1, .sd o.sd.toNat] s → (s.me.readS o.sa.toNat).toNat % 64 = 0 →
    accessRange s true (s.me.readS o.sa.toNat).toNat (64 * (myCopies s).length) = .ok (ps, s1) →
    ∃ t, exec (.cdrain o) s = .next (retire .seq (memGenMe t))
      ∧ t.me.readS o.sd.toNat = (if o.sd.toNat = 0 then 0 else BitVec.ofNat 64 (myCopies s).length)
      ∧ ∀ id c, (id, c) ∈ s.copies → c.q = s.qid → c.gen = s.me.gen → c.cmd = none → c.parked = false →
        Tab.find t.copies id = none)
  ∧ (∀ (o : OpDA) (s : State),
    let i := (s.me.readS o.sa.toNat).toNat % 4096
    MayGo (.cstate o) [.priv 0x32, .ss o.sa.toNat false 1, .sd o.sd.toNat] s →
    (∀ v, ctxItem s i = some v →
      exec (.cstate o) s = .next (retire .seq (memGenMe (putS o.sd.toNat (BitVec.ofNat 64 v) s))))
    ∧ ((ctxItem s i).isSome = true ↔ i ≤ 0x016 ∨ (0x018 ≤ i ∧ i ≤ 0x01A) ∨ (0x020 ≤ i ∧ i ≤ 0x029) ∨ (0x030 ≤ i ∧ i ≤ 0x040))
    ∧ (ctxItem s i = none → exec (.cstate o) s = .next (takeTrap s.qid 0x02
        (BitVec.ofNat 64 ((encode (.cstate o)).toNat + 2 ^ 47 + o.sa.toNat * 2 ^ 40)) s.me.pc s)))
  ∧ (∀ (o : OpAB) (s : State),
    let i := (s.me.readS o.sa.toNat).toNat % 4096
    let v := s.me.readS o.sb.toNat
    MayGo (.cload o) [.priv 0x32, .ss o.sa.toNat false 1, .ss o.sb.toNat false 2] s →
    (∀ t, writeItem i v s = some t → exec (.cload o) s = .next (retire .seq (memGenMe t)))
    ∧ ((writeItem i v s).isSome = true ↔ i < 0x010 ∨ (0x014 ≤ i ∧ i ≤ 0x016) ∨ (0x018 ≤ i ∧ i ≤ 0x01A)
      ∨ (0x020 ≤ i ∧ i ≤ 0x029) ∨ (0x030 ≤ i ∧ i ≤ 0x03F))
    ∧ (i = 0x016 → writeItem i v s = some (modMe (fun g => { g with fullS := v ||| 1 }) s))
    ∧ (i = 0x019 → s.me.loop = none → writeItem i v s = some (modMe (fun g =>
      { g with stageAddr := v &&& 0xFFFF_FFFF_FFFF_FFFC, loop := none }) s))
    ∧ (i = 0x018 → v.getLsbD 63 = true → ∃ l, writeItem i v s = some (modMe (fun g => { g with loop := some l }) s)
      ∧ l.addr = s.me.stageAddr ∧ l.remaining = s.me.stageLeft ∧ l.body.length = v.toNat % 32 + 1 ∧ l.unread = true
      ∧ l.suspended = (s.me.hact || s.me.dact || s.me.pact) ∧ l.pos = some (v.toNat / 2 ^ 8 % 32))
    ∧ (writeItem i v s = none → exec (.cload o) s = .next (takeTrap s.qid 0x02
        (BitVec.ofNat 64 ((encode (.cload o)).toNat + 2 ^ 47 + o.sa.toNat * 2 ^ 40)) s.me.pc s)))
  ∧ (∀ (o : OpA) (s : State), MayGo (.csaved o) [.priv 0x32, .ss o.sa.toNat false 1] s →
    (s.me.readS o.sa.toNat).toNat % 64 = 0 →
    ((ctxAt s s.me.vf).st = .saving → s.me.pact = true → ∃ t, exec (.csaved o) s = .next t
      ∧ (groupAt t s.qid).st = .stopped ∧ (groupAt t s.qid).saved = true
      ∧ (groupAt t s.qid).coopBlock = s.me.readS o.sa.toNat ∧ (groupAt t s.qid).ports = s.me.ports
      ∧ t.copies = s.copies)
    ∧ (((ctxAt s s.me.vf).st ≠ .saving ∨ s.me.pact = false) → exec (.csaved o) s = .next (takeTrap s.qid 0x02
        (BitVec.ofNat 64 ((encode (.csaved o)).toNat + 2 ^ 47 + o.sa.toNat * 2 ^ 40)) s.me.pc s)))
  ∧ (∀ (o : OpA) (s s1 : State) (bs : List Byte), MayGo (.crestart o) [.priv 0x32, .ss o.sa.toNat false 1] s →
    (s.me.readS o.sa.toNat).toNat % 64 = 0 → readRecord (s.me.readS o.sa.toNat).toNat 64 s = .ok (bs, s1) →
    (fieldAt bs 3 1 % 2 = 1 → ∀ s2, restartCopy s1.qid bs s1 = some s2 →
      exec (.crestart o) s = .next (retire .seq (memGenMe s2)))
    ∧ (fieldAt bs 3 1 % 2 = 0 → exec (.crestart o) s = .next (takeTrap s.qid 0x02
        (BitVec.ofNat 64 ((encode (.crestart o)).toNat + 2 ^ 47 + o.sa.toNat * 2 ^ 40)) s.me.pc s1)))
  ∧ (∀ (o : OpA) (s : State) (i : Instr),
    let c := coreOf s.qid
    (i = .msave o ∨ i = .mload o) → MayGo i [.priv 0x32, .ss o.sa.toNat false 1] s →
    (s.me.readS o.sa.toNat).toNat % 64 = 0 →
    ((coreAt s c).seq.owner = some s.me.team →
      (∀ ps s1, i = .msave o → accessRange s true (s.me.readS o.sa.toNat).toNat 2048 = .ok (ps, s1) →
        exec i s = .next (retire .seq (memGenMe (writeParts s.me.vf ps (seqImage (seqAt (holdSeq c s1) c)) (holdSeq c s1))))
          ∧ (coreAt (holdSeq c s1) c).seq.held = true)
      ∧ (∀ bs s1, i = .mload o → readRecord (s.me.readS o.sa.toNat).toNat 2048 s = .ok (bs, s1) →
        exec i s = .next (retire .seq (memGenMe (loadImage c s.me.team bs (holdSeq c s1))))))
    ∧ ((coreAt s c).seq.owner ≠ some s.me.team → exec i s = .next (takeTrap s.qid 0x13
        (BitVec.ofNat 64 ((encode i).toNat + 4 * 2 ^ 32)) s.me.pc s)))

/-- The events of a save and of a restore (17 R384 to R386, R403, R404, R406; 22 R462). PREEMPT and the end of a slice ask
every running group of the VF to stop; a group that reaches its stopping point stops where it stands, or enters PREEMPT in a
cooperative team; the save ends written or frozen; a folio that fails its checks leaves its error, and one that passes is
loaded; a save area on a held die waits (R415); DISCARD of a save ends its launches. A command for a VF whose TDI is locked
or runs does not act, and the TDI enters ERROR. The model's own readings in it stand in log 47, log 49, log 50, log 73 and
log 74. -/
def Obligations.ContextEvents : Prop :=
  (∀ (vf reason : Nat) (s : State) (i : Instr), (vfAt s vf).ctx.st = .running →
    (i = .preempt vf ∧ reason = 1 ∧ (vfAt s vf).tdi = .unlocked ∧ bootReady s = true
      ∨ i = .sliceExpiry vf ∧ reason = 0 ∧ (vfAt s vf).ctx.slice ≠ 0
        ∧ ∃ c, (vfAt s vf).ctx.sliceAt = some c ∧ c.toNat + (vfAt s vf).ctx.slice.toNat ≤ s.time.toNat) →
    ∃ t, exec i s = .next t ∧ (vfAt t vf).ctx.st = .saving ∧ (vfAt t vf).ctx.reason = reason
      ∧ (vfAt t vf).ctx.form = (if (vfAt s vf).ctx.cctl.getLsbD 1 then 2 else if (vfAt s vf).ctx.cctl.getLsbD 0 then 1 else 0)
      ∧ (vfAt t vf).ctx.sliceAt = (if reason = 0 then none else (vfAt s vf).ctx.sliceAt)
      ∧ (vfAt t vf).ctx.stopAt = s.time ∧ (vfAt t vf).ctx.launches = residentLaunches s vf ∧ SameMemory s t
      ∧ (∀ q g, Tab.find s.groups q = some g →
        groupAt t q = if g.vf = vf ∧ g.st = .running then { g with stopReq := true } else g)
      ∧ ∀ c k, (coreAt s c).seq.owner = some k → (teamAt s k).vf = vf → (Tab.find s.cores c).isSome = true →
        (coreAt t c).seq.held = true)
  ∧ (∀ (vf : Nat) (s : State), (vfAt s vf).ctx.st ≠ .running → (vfAt s vf).ctx.sliceOver s.time = true →
    exec (.sliceExpiry vf) s = .next (modCtx vf (fun c => { c with sliceAt := none }) s))
  ∧ (∀ (vf : Nat) (s : State), bootReady s = false → exec (.preempt vf) s = .next s ∧ exec (.restore vf) s = .next s
    ∧ exec (.resumeSave vf) s = .next s ∧ exec (.discard vf) s = .next s ∧ exec (.exportImage vf) s = .next s)
  ∧ (∀ (vf : Nat) (s : State), bootReady s = true → (vfAt s vf).ctx.st = .running →
    (vfAt s vf).tdi = .locked ∨ (vfAt s vf).tdi = .run → exec (.preempt vf) s = .next (modVf vf (fun v => { v with tdi := .error }) s))
  ∧ (∀ (vf : Nat) (s : State), (vfAt s vf).ctx.st ≠ .running → exec (.preempt vf) s = .next s)
  ∧ (∀ (q : Nat) (s : State), stopReady s q = true → (∀ e ∈ (groupAt s q).ports, 120 ≤ e.1 → e.2.fault = none) →
    let g := groupAt s q
    let untraced := (dieAt s (dieOf q)).trace.keeps 6 g.vf (cgidOf q g) = false
    (coopOf s g = false → ∃ t, exec (.groupStop q) s = .next t ∧ (∀ k, k ≠ q → groupAt t k = groupAt s k)
      ∧ (untraced → SameMemory s t)
      ∧ (let h := groupAt t q
        h.st = .stopped ∧ h.stopReq = false ∧ h.active = false ∧ h.pc = g.pc ∧ (∀ n, h.readS n = g.readS n)
        ∧ (∀ n, h.vreg n = g.vreg n) ∧ (∀ n, h.readP n = g.readP n) ∧ h.fpstat = g.fpstat ∧ h.mode = g.mode
        ∧ (g.rep = none → h.hint = g.hint) ∧ (∀ r x, g.rep = some r → g.hint = some x → h.hint = some { x with index := x.index - 1 })
        ∧ h.loop = g.loop ∧ h.step = g.step ∧ h.cache = []
        ∧ h.rep = none ∧ (∀ r, g.rep = some r → h.repResume = some r.k)))
    ∧ (coopOf s g = true → ∃ u r b, exec (.groupStop q) s = .next (takeTrap q 17 0 g.pc u)
      ∧ groupAt u q = { g with stopReq := false, repResume := r, barHalf := b }
      ∧ (g.repResume = none → g.barHalf = false → r = none ∧ b = false) ∧ (∀ k, k ≠ q → groupAt u k = groupAt s k)
      ∧ (untraced → SameMemory s u)))
  ∧ (∀ (vf q : Nat) (s : State),
    let c := (vfAt s vf).ctx
    let g := groupAt s q
    c.st = .saving → g.launch ∈ c.launches → g.st = .running →
    g.hact = true ∨ g.dact = true ∨ g.pact = true ∨ (teamAt s g.team).coop = true →
    c.stopAt.toNat + 1000000 ≤ s.time.toNat → q ∉ c.late → ∃ u, exec (.saveHandlerTimeout vf q) s =
      .next (postEvent 0 2 vf 4 0 [0, 0, 0, 0, 0, 0, 0, 0, 2] u) ∧ (vfAt u vf).ctx.cause = 2
      ∧ (vfAt u vf).ctx.late = c.late ++ [q] ∧ u = { s with vfs := u.vfs })
  ∧ (∀ (vf : Nat) (s : State),
    (saveReady s vf = true → (vfAt s vf).ctx.st = .saving → ∃ t, exec (.folioWrite vf) s = .next t
      ∧ ((vfAt t vf).ctx.st = .saved ∧ (vfAt t vf).ctx.launches = []
        ∨ (vfAt t vf).ctx.st = .frozen ∧ (vfAt t vf).ctx.thaw = .saving))
    ∧ ((vfAt s vf).tdi = .unlocked → bootReady s = true → (vfAt s vf).ctx.st = .frozen → (vfAt s vf).ctx.thaw = .saving →
      ∃ t, exec (.resumeSave vf) s = .next t ∧ ((vfAt t vf).ctx.st = .saved ∨ (vfAt t vf).ctx.st = .frozen))
    ∧ ((vfAt s vf).tdi = .unlocked → (vfAt s vf).ctx.st ≠ .frozen → exec (.resumeSave vf) s = .next s))
  ∧ (∀ (vf : Nat) (s : State), (vfAt s vf).tdi = .unlocked →
    ((vfAt s vf).ctx.st ≠ .running → (vfAt s vf).ctx.st ≠ .saved → exec (.restore vf) s = .next s)
    ∧ (bootReady s = true → (vfAt s vf).ctx.st = .running ∨ (vfAt s vf).ctx.st = .saved →
      (dirHeld s vf = true → ∃ t, exec (.restore vf) s = .next t ∧ t = { s with vfs := t.vfs }
        ∧ (vfAt t vf).ctx.st = .restoring ∧ (vfAt t vf).ctx.todo = [] ∧ (vfAt t vf).ctx.dir = none)
      ∧ (∀ g, dirHeld s vf = false → readDir s vf = .error g → ∃ t, exec (.restore vf) s = .next t ∧ (vfAt t vf).ctx.st = .frozen
        ∧ (vfAt t vf).ctx.thaw = .restoring ∧ (vfAt t vf).ctx.cause = 3 ∧ (vfAt t vf).ctx.fgpa = BitVec.ofNat 64 g)
      ∧ (∀ os, dirHeld s vf = false → readDir s vf = .ok os → os ≠ [] → ∃ t, exec (.restore vf) s = .next t ∧ t = { s with vfs := t.vfs }
        ∧ (vfAt t vf).ctx.st = .restoring ∧ (vfAt t vf).ctx.todo = os ∧ (vfAt t vf).ctx.dir = some []
        ∧ (vfAt t vf).ctx.homes = (vfAt s vf).ctx.homes)))
  ∧ (∀ (vf off : Nat) (rest cores : List Nat) (s : State),
    let c := (vfAt s vf).ctx
    let at' := c.sarea.toNat + off
    c.st = .restoring → c.todo = off :: rest →
    (c.sasize.toNat < off + 256 → ∃ t, exec (.folioRestore vf cores) s = .next t ∧ (vfAt t vf).ctx.err = 5
      ∧ t.groups = s.groups ∧ (vfAt t vf).ctx.todo = rest)
    ∧ (∀ ep, off + 256 ≤ c.sasize.toNat → gpaHeld s vf at' 256 = false → readUpTo s vf at' 256 = .ok ep → folioError ep (c.sasize.toNat - off) ≠ 0 →
      ∃ t, exec (.folioRestore vf cores) s = .next t
        ∧ (vfAt t vf).ctx.err = BitVec.ofNat 8 (folioError ep (c.sasize.toNat - off)) ∧ t.groups = s.groups)
    ∧ (∀ ep bs u, off + 256 ≤ c.sasize.toNat → gpaHeld s vf at' 256 = false → readUpTo s vf at' 256 = .ok ep →
      gpaHeld s vf at' (fieldAt ep 24 8) = false →
      folioError ep (c.sasize.toNat - off) = 0 → readUpTo s vf at' (fieldAt ep 24 8) = .ok bs →
      restoreFolio vf (ep ++ opaqueBytes (fieldAt ep 10 1) (bs.drop 256)) cores s = some u →
      ∃ t, exec (.folioRestore vf cores) s = .next t ∧ t.groups = u.groups ∧ t.teams = u.teams
        ∧ (vfAt t vf).ctx.todo = (vfAt u vf).ctx.todo.drop 1))
  ∧ (∀ (vf : Nat) (s : State), (vfAt s vf).tdi = .unlocked →
    (bootReady s = true → (vfAt s vf).ctx.st = .frozen → (vfAt s vf).ctx.thaw ≠ .restoring → ∃ t, exec (.discard vf) s = .next t
      ∧ (vfAt t vf).ctx.st = .running ∧ (vfAt t vf).ctx.launches = [] ∧ (vfAt t vf).ctx.cause = 0xFF
      ∧ ∀ lid ∈ (vfAt s vf).ctx.launches, Tab.find t.launches lid = none)
    ∧ ((vfAt s vf).ctx.st = .running ∨ (vfAt s vf).ctx.st = .saved → exec (.discard vf) s = .next s)
    ∧ ((vfAt s vf).ctx.st ≠ .saved → exec (.exportImage vf) s = .next s)
    ∧ (∀ eps, bootReady s = true → (vfAt s vf).ctx.st = .saved → endpapers s vf = some eps →
      ((∃ e ∈ eps, fieldAt e.2 176 16 ≠ s.tkey.toNat) → ∃ t, exec (.exportImage vf) s = .next t
        ∧ (vfAt t vf).ctx.err = 4 ∧ t = { s with vfs := t.vfs })
      ∧ ((∀ e ∈ eps, fieldAt e.2 176 16 = s.tkey.toNat) → ∃ t, exec (.exportImage vf) s = .next t
        ∧ (vfAt t vf).ctx = (vfAt s vf).ctx ∧ t.groups = s.groups)))

/-- The words of major 0x33 (19 R427 to R429). MBOX writes a mailbox and advances MEMGEN; DHALT, DRESUME, DSTEP and DUNPIN
act on the group that a CGID names and answer 0, 1, 2 or 3; BPSET writes a point and disarms it; WARM arms points. The
model's own readings in it stand in log 44. -/
def Obligations.DebugWords : Prop :=
  (∀ (o : OpIdx) (s : State), MayGo (.mbox o) [.priv 0x33, .ss o.sa.toNat false 1] s →
    ∃ t, exec (.mbox o) s = .next (retire .seq t) ∧ t.me = s.me
      ∧ (vfAt t s.me.vf).dbg.mbox = Tab.set (vfAt s s.me.vf).dbg.mbox o.idx.toNat (s.me.readS o.sa.toNat)
      ∧ t.myTeam.memGen = s.myTeam.memGen + 1)
  ∧ (∀ (o : OpDA) (s : State) (i : Instr),
    let a := s.me.readS o.sa.toNat
    let answer (v : W64) (t : State) : Out := .next (retire .seq (putS o.sd.toNat v t))
    i ∈ ([.dhalt o, .dresume o, .dstep o, .dunpin o] : List Instr) →
    MayGo i [.priv 0x33, .ss o.sa.toNat false 1, .sd o.sd.toNat] s →
    (a ≠ 0 → findGroup s s.me.vf a = none → exec i s = answer 1 s)
    ∧ (∀ q, a ≠ 0 → findGroup s s.me.vf a = some q → q ≠ s.qid →
      (i = .dhalt o → (groupAt s q).st = .running →
        exec i s = .next (retire .seq (modGroup q (fun g => { g with haltReq := some (cgidOf s.qid s.me) })
          (putS o.sd.toNat 0 s))))
      ∧ ((groupAt s q).st = .halted → (i = .dresume o → exec i s = answer 0 (resumeGroup q false s))
        ∧ (i = .dstep o → exec i s = answer 0 (resumeGroup q true s))
        ∧ (i = .dunpin o → (groupAt s q).loop = none → exec i s = answer 3 s)
        ∧ (∀ l, i = .dunpin o → (groupAt s q).loop = some l → exec i s
          = answer 0 (modGroup q (fun g => { g with loop := some { l with refetch := true } }) s)))
      ∧ ((groupAt s q).st ≠ .halted → i ≠ .dhalt o → exec i s = answer 2 s))
    ∧ (a = 0 → s.me.st = .running →
      (i = .dhalt o → s.me.step ≠ .armed → ∃ t, exec i s = .next t ∧ (groupAt t s.qid).st = .halted
        ∧ (groupAt t s.qid).halt.code = 0 ∧ (groupAt t s.qid).halt.info = cgidOf s.qid s.me
        ∧ (groupAt t s.qid).readS o.sd.toNat = 0)
      ∧ (i = .dresume o → exec i s = answer 2 s)
      ∧ (i = .dstep o → exec i s = answer 0 (modMe (fun g => { g with step := .afterEret }) s))
      ∧ (i = .dunpin o → s.me.loop = none → exec i s = answer 3 s)
      ∧ (∀ l, i = .dunpin o → s.me.loop = some l → exec i s
        = answer 0 (modMe (fun g => { g with loop := some { l with refetch := true } }) s))))
  ∧ (∀ (o : OpIdx) (s : State),
    let va := (s.me.readS o.sa.toNat).toNat
    MayGo (.bpset o) [.priv 0x33, .ss o.sa.toNat false 1] s →
    (∀ ps ts s1 d, o.idx.toNat < 24 → va % 32 = 0 →
      access s { size := 32, write := false, atomic := false, vector := true } true va = .ok (.bytes ps ts, s1) →
      partsBad s1 ps = none → d = BitVec.ofNat 256 (leNat (readParts s1 s1.me.vf ps)) →
      pointOk o.idx.toNat d = true → exec (.bpset o) s = .next (retire .seq (modDbg s.me.vf (fun x => { x with
        points := Tab.set x.points o.idx.toNat (d &&& pointMask)
        wenable := x.wenable &&& ~~~(BitVec.ofNat 24 (2 ^ o.idx.toNat)) }) s1)))
    ∧ (24 ≤ o.idx.toNat → exec (.bpset o) s = .next (takeTrap s.qid 0x02
        (BitVec.ofNat 64 ((encode (.bpset o)).toNat + 2 ^ 47 + o.sa.toNat * 2 ^ 40)) s.me.pc s))
    ∧ (o.idx.toNat < 24 → va % 32 ≠ 0 → exec (.bpset o) s = .next (takeTrap s.qid 0x06
        (BitVec.ofNat 64 (va / 64 % 2 ^ 51 * 64 + 5)) s.me.pc s)))
  ∧ (∀ (o : OpA) (s : State), MayGo (.warm o) [.priv 0x33, .ss o.sa.toNat false 1] s →
    ∃ w, exec (.warm o) s = .next (retire .seq (modDbg s.me.vf (fun d => { d with wenable := w }) s))
      ∧ ∀ k, k < 24 → w.getLsbD k = ((s.me.readS o.sa.toNat).getLsbD k && decide (Tab.get 0 (vfAt s s.me.vf).dbg.points k ≠ 0)))

/-- What the debug context does to a group that HCGID names, and to none where it names none; a group that was asked to halt
halts at its stopping point; event records, and the counters that a read clears. The model's own readings in it stand in log
15 and log 44. -/
def Obligations.DebugEvents : Prop :=
  (∀ (vf : Nat) (s : State), findGroup s vf (vfAt s vf).dbg.hcgid = none →
    exec (.hcmdHalt vf) s = .next s ∧ exec (.hcmdResume vf) s = .next s ∧ exec (.hcmdStep vf) s = .next s)
  ∧ (∀ (vf q : Nat) (s : State), findGroup s vf (vfAt s vf).dbg.hcgid = some q →
    let g := groupAt s q
    let resumed (st : StepArm) : Out := .next (modGroup q (fun g => { g with
      st := .running, suppress := true, step := st, readyAt := s.cclk, lastIssue := s.cclk }) s)
    (bootReady s = true → g.st ≠ .halted → exec (.hcmdHalt vf) s = .next (modGroup q (fun g => { g with haltReq := some 0 }) s)
      ∧ exec (.hcmdResume vf) s = .next s ∧ exec (.hcmdStep vf) s = .next s)
    ∧ (bootReady s = true → g.st = .halted → exec (.hcmdHalt vf) s = .next s ∧ exec (.hcmdResume vf) s = resumed g.step
      ∧ exec (.hcmdStep vf) s = resumed .armed))
  ∧ (∀ (q : Nat) (s : State) (by' : W64),
    let g := groupAt s q
    g.haltReq = some by' → g.st = .running → g.atStop = true → ∃ t, exec (.groupHalt q) s = .next t
      ∧ (groupAt t q).st = .halted ∧ (groupAt t q).halt = { code := 0, info := by', ret := g.pc } ∧ (groupAt t q).pc = g.pc
      ∧ (∀ n, (groupAt t q).readS n = g.readS n) ∧ (∀ n, (groupAt t q).vreg n = g.vreg n)
      ∧ (g.rep = none → (groupAt t q).hint = g.hint)
      ∧ (∀ r x, g.rep = some r → g.hint = some x → (groupAt t q).hint = some { x with index := x.index - 1 }) ∧ (groupAt t q).step = g.step ∧ (groupAt t q).dact = g.dact ∧ (groupAt t q).hact = g.hact
      ∧ (∀ k, k ≠ q → groupAt t k = groupAt s k))
  ∧ (∀ (vf : Nat) (s : State), bootReady s = true → ∃ t, exec (.evlostRead vf) s = .next t ∧ t.reply = [(vfAt s vf).dbg.evlost]
    ∧ (vfAt t vf).dbg = { (vfAt s vf).dbg with evlost := 0 } ∧ t = { s with vfs := t.vfs, reply := t.reply })
  ∧ (∀ (ring ty vfn die : Nat) (cg : W64) (payload : List Byte) (s : State),
    let d := (vfAt s ring).dbg
    let t := postEvent ring ty vfn die cg payload s
    (d.evsize = 0 → t = s)
    ∧ (d.evsize ≠ 0 → (vfAt t ring).dbg.evseq = d.evseq + 1)
    ∧ (d.evsize ≠ 0 → d.evhead - d.evtail = d.evsize →
      (vfAt t ring).dbg.evhead = d.evhead ∧ (vfAt t ring).dbg.evlost = d.evlost + 1
      ∧ t.msix = s.msix ∧ ((dieAt s die).trace.keeps 7 vfn cg = false → SameMemory s t))
    ∧ (∀ u, d.evsize ≠ 0 → d.evhead - d.evtail ≠ d.evsize → (dieAt s die).trace.keeps 7 vfn cg = false →
      writeGpa ring (d.evbase.toNat + 64 * (d.evhead.toNat % d.evsize.toNat)) (leBytes 2 ty ++ leBytes 2 vfn
        ++ leBytes 4 d.evseq.toNat ++ leBytes 8 s.time.toNat ++ leBytes 8 cg.toNat ++ payload
        ++ List.replicate (40 - payload.length) 0) s = some u →
      (vfAt t ring).dbg.evhead = d.evhead + 1 ∧ (vfAt t ring).dbg.evlost = d.evlost ∧ SameMemory u t
      ∧ t.msix = if d.evmsix.toNat = 0xFFFF then s.msix else s.msix ++ [(ring, d.evmsix.toNat)]))
  ∧ (∀ (vf : Nat) (value : W64) (s : State),
    let n := value.toNat % 65536
    let stat (e : W64) (s : State) : Out := .next (modDbg vf (fun d => { d with dumpstat := e }) s)
    (bootReady s = true → folioOf s vf n = none → exec (.dump vf value) s = stat 0x100 s)
    ∧ (∀ o bs, bootReady s = true → folioOf s vf n = some (o, bs) →
      let col := colophon s vf (clearFolio bs)
      ((vfAt s vf).ctx.sasize.toNat < colophonAt o bs + col.length → exec (.dump vf value) s = stat 0x200 s)
      ∧ (∀ t, colophonAt o bs + col.length ≤ (vfAt s vf).ctx.sasize.toNat →
        writeGpa vf ((vfAt s vf).ctx.sarea.toNat + colophonAt o bs) col s = some t → exec (.dump vf value) s = stat 0 t)))

/-- Trace blocks, counters and errors: a TCTL write that sets EN starts a new capture, FORCE triggers, and the trace freezes
when the records after its trigger are kept; a counter that wraps sets OVF; errors are counted, mark their line, or hold the
die; a held die is released, which wakes what waits for it, or reset, and a reset ends the launches that have a group on it.
The names of places of a CRS and of a task queue, with PA 0, and that PMC_OVERFLOW stands for the codes 14 and 15 alone are
log 35's and log 44's; what a reset of a die or of the hub drops and keeps is log 46's and log 48's. The model's own
readings in it stand besides in log 11, log 14, log 18 and log 73. -/
def Obligations.TraceAndErrors : Prop :=
  (∀ (die : Nat) (value : W64) (s : State), die < 4 → value.getLsbD 0 = true → bootReady s = true → ∃ t,
    exec (.traceEnable die value) s = .next t ∧ t = { s with dies := t.dies } ∧ (∀ k, k ≠ die → dieAt t k = dieAt s k)
    ∧ (dieAt t die).trace.tctl = value &&& 3
    ∧ ((dieAt s die).trace.tctl.getLsbD 0 = false → (dieAt t die).trace.twptr = 0
      ∧ (value.getLsbD 2 = false ∨ value.getLsbD 1 = false → (dieAt t die).trace.tstat = 0)
      ∧ (value.getLsbD 2 = true → value.getLsbD 1 = true → (dieAt t die).trace.tstat = 2)))
  ∧ (∀ (die : Nat) (s : State), die < 4 → bootReady s = true →
    let b := (dieAt s die).trace
    ∃ t, exec (.traceForce die) s = .next t ∧ t = { s with dies := t.dies } ∧ (∀ k, k ≠ die → dieAt t k = dieAt s k)
    ∧ (b.tctl.getLsbD 0 = true → b.tctl.getLsbD 1 = true → b.tstat = 0 → (dieAt t die).trace = { b with
      tstat := 2, ttptr := b.twptr, left := b.tpost.toNat })
    ∧ (b.tctl.getLsbD 0 = false ∨ b.tctl.getLsbD 1 = false → dieAt t die = dieAt s die))
  ∧ (∀ (die : Nat) (s : State),
    let b := (dieAt s die).trace
    b.tstat.getLsbD 1 = true → b.tstat.getLsbD 0 = false → b.left = 0 → exec (.traceFreeze die) s =
      .next (modDie die (fun d => { d with trace := { d.trace with tstat := d.trace.tstat ||| 1 } }) s))
  ∧ (∀ (core i : Nat) (s : State),
    let cfg := Tab.get 0 (coreAt s core).pmccfg i
    i < 16 → cfg.toNat % 256 ∈ [14, 15] → ∃ t, exec (.pmcOverflow core i) s = .next t ∧ t = { s with cores := t.cores }
      ∧ Tab.get 0 (coreAt t core).pmc i = 0 ∧ Tab.get 0 (coreAt t core).pmccfg i = cfg ||| 0x1_0000_0000_0000
      ∧ ∀ j, j ≠ i → Tab.get 0 (coreAt t core).pmc j = Tab.get 0 (coreAt s core).pmc j)
  ∧ (∀ (die vf core code : Nat) (s : State), ∃ t, exec (.correctedError die vf core code) s = .next t
    ∧ (dieAt t die).ceCount = (dieAt s die).ceCount + 1 ∧ t.groups = s.groups)
  ∧ (∀ (vf : Nat) (line pa : W64) (s : State) (src : DataSource) (d : Nat),
    (src, d) ∈ ([(.hbm, 0), (.l2, 1), (.l1, 2), (.scratchpad, 3), (.accumulator, 5)] : List (DataSource × Nat)) → pa.getLsbD 63 = false → ∃ u,
    exec (.uncorrectedError src vf line pa) s = .next (postBoth 9 vf 4 0
      (packFields [(1, d), (8, line.toNat / 64 * 64)]) (packFields [(1, d), (8, line.toNat / 64 * 64), (8, pa.toNat)]) u)
    ∧ u = { s with badLines := u.badLines } ∧ Tab.find u.badLines (pa.toNat / 64) = some d
    ∧ ∀ l, l ≠ pa.toNat / 64 → Tab.find u.badLines l = Tab.find s.badLines l)
  ∧ (∀ (vf core entry : Nat) (line : W64) (s : State) (x : CrsEntry), core < 1024 → entry < 65536 →
    Tab.find (coreAt s core).crs entry = some x → ∃ u,
    exec (.uncorrectedError .crs vf line (BitVec.ofNat 64 (core * 65536 + entry))) s = .next (postBoth 9 vf 4 0
      (packFields [(1, 4), (8, line.toNat / 64 * 64)]) (packFields [(1, 4), (8, line.toNat / 64 * 64), (8, 0)]) u)
    ∧ u = { s with cores := u.cores } ∧ Tab.find (coreAt u core).crs entry = some { x with bad := true }
    ∧ ∀ n, n ≠ entry → Tab.find (coreAt u core).crs n = Tab.find (coreAt s core).crs n)
  ∧ (∀ (vf die index n : Nat) (line : W64) (s : State) (q : TaskQueue), die < 4 → index < 65536 → vf ≤ 512 → n < 2 ^ 17 →
    taskQueue s die vf index = some q → ∃ u q',
    exec (.uncorrectedError .hbm vf line (BitVec.ofNat 64 (2 ^ 63 + n * 2 ^ 40 + die * 2 ^ 32 + queueKey vf index))) s
      = .next (postBoth 9 vf 4 0 (packFields [(1, 0), (8, line.toNat / 64 * 64)])
        (packFields [(1, 0), (8, line.toNat / 64 * 64), (8, 0)]) u)
    ∧ u = { s with dies := u.dies } ∧ taskQueue u die vf index = some q'
    ∧ ∀ i, q'.entries[i]? = if i = n then (q.entries[i]?).map (fun e => { e with bad := some 0 }) else q.entries[i]?)
  ∧ (∀ (die cause : Nat) (s : State), die ≤ 4 → exec (.dieHold die cause) s = .next
    (postEvent 0 13 0 die 0 [BitVec.ofNat 8 die, BitVec.ofNat 8 cause]
      (modDie die (fun d => { d with held := true, heldCause := cause }) s)))
  ∧ (∀ (die : Nat) (s : State),
    let quiet : Prop := ∀ v, (∀ e ∈ (vfAt s v).cmds, e.2.fin = none) ∧ ∀ e ∈ (vfAt s v).queues, e.2.scanWaits = false
    let away : Prop := (∀ v, (vfAt s v).faults = []) ∧ (∀ e ∈ s.copies, e.2.die ≠ 4) ∧ ∀ lid, onDie s 4 lid = false
    ((dieAt s die).held = true →
      (quiet → s.hubWrites = [] → (∀ e ∈ s.groups, e.2.blocked ≠ some .held) →
        exec (.dieRelease die) s = .next (modDie die (fun d => { d with held := false }) s))
      ∧ ∃ t, exec (.dieRelease die) s = .next t ∧ (dieAt t die).held = false
        ∧ (∀ k, k ≠ die → (dieAt t k).held = (dieAt s k).held)
        ∧ ∀ q, (groupAt s q).blocked = some .held → (groupAt t q).blocked = none ∧ (groupAt t q).pc = (groupAt s q).pc)
    ∧ ((dieAt s die).held = false → exec (.dieReset die) s = .next s)
    ∧ ((dieAt s die).held = true → die ≤ 4 → ∃ t, exec (.dieReset die) s = .next t ∧ (dieAt t die).held = false
      ∧ (dieAt t die).colls = [] ∧ (dieAt t die).tlb = [] ∧ (dieAt t die).walks = []
      ∧ (die = 4 → t.syscs = [] ∧ (quiet → t.binder = { Binder.reset with lastBoundary := some s.time }))
      ∧ (die ≠ 4 ∨ quiet ∧ away → (dieAt t die).trace = (dieAt s die).trace)
      ∧ ∀ lid, onDie s die lid = true → (Tab.find s.launches lid).isSome = true → Tab.find t.launches lid = none))

/-- Collectives (21 R451 to R456): KSTART on a valid descriptor records the collective with its locks and goes on, or
records a failed one; KWAIT answers 2 where no such collective runs, 1 where it failed before SRC was read, 0 where SRC is
read, and waits else; the waits for locks end once nothing holds them. The collective engine (21 R452, R454, R456): the
exchange at the start time, each rank's contribution once, its own from SRC, whose read locks are then gone; a peer's block
under another fabric tag is dropped and counted (R449, R460); the end, which frees the collective and its locks; and the
watchdog, which restarts. The model's own readings in it stand in log 45. -/
def Obligations.Collectives : Prop :=
  ((∀ (o : OpAB) (s s1 : State) (ps : List (Nat × Nat)) (d : BitVec 1024) (c : Collective),
    let a := s.me.readS o.sa.toNat
    let die := coreOf s1.qid / 64
    MayGo (.kstart o) [.ss o.sa.toNat false 1, .ss o.sb.toNat false 2] s → scopeDenied s s.me.vf 4 = false →
    a.toNat % 64 = 0 → accessRange s false a.toNat 128 = .ok (ps, s1) → partsBad s1 ps = none →
    d = BitVec.ofNat 1024 (leNat (readParts s1 s1.me.vf ps)) → c = newColl s1 d a (s1.me.readS o.sb.toNat) →
    (cdValid d = true → (collLocks s1 s1.nextCopy c).length ≤ 8 → collRuns s1 die c.vf (cdCollid d) = false →
      (coreAt s1 c.core).locks.length + (collLocks s1 s1.nextCopy c).length ≤ 64 →
      ∃ t, exec (.kstart o) s = .next (retire .seq t) ∧ t.nextCopy = s1.nextCopy + 1
        ∧ collAt t die s1.nextCopy = some { c with phase := .waiting })
    ∧ (cdValid d = true → 8 < (collLocks s1 s1.nextCopy c).length ∨ collRuns s1 die c.vf (cdCollid d) = true →
      ∃ t, exec (.kstart o) s = .next (retire .seq t) ∧ t.cores = s1.cores
        ∧ collAt t die s1.nextCopy = some { c with phase := .failed })
    ∧ (cdValid d = false → exec (.kstart o) s = .next (takeTrap s.qid 0x02
        (BitVec.ofNat 64 ((encode (.kstart o)).toNat + 2 ^ 47 + o.sa.toNat * 2 ^ 40)) s.me.pc s1)))
  ∧ (∀ (d : BitVec 1024), let f (lo n : Nat) : Nat := d.toNat / 2 ^ lo % 2 ^ n
    cdValid d = true ↔ d.toNat < 2 ^ 392 ∧ f 352 4 ≤ 3 ∧ f 356 4 ≤ 2 ∧ ¬((f 352 4 = 0 ∨ f 352 4 = 2) ∧ f 356 4 = 2)
      ∧ 2 ≤ f 320 16 ∧ f 320 16 ≤ 256 ∧ f 336 16 < f 320 16 ∧ f 256 32 ≠ 0 ∧ f 192 64 % 16 = 0)
  ∧ (∀ (s : State) (o : OpDA) (q : Nat) (wake : Bool),
    let g := groupAt s q
    let cs := (((dieAt s (dieOf q)).colls.filter (fun e =>
      e.2.q == q && e.2.gen == g.gen && e.2.descVa == g.readS o.sa.toNat)).map Prod.snd)
    let answer (v : W64) : Prop :=
      if wake then exec (.kwaitDone q) s = .next { retire .seq (putS o.sd.toNat v { s with cur := .group q }) with cur := s.cur }
      else exec (.kwait o) s = .next (retire .seq (putS o.sd.toNat v s))
    (wake = false → MayGo (.kwait o) [.ss o.sa.toNat false 1, .sd o.sd.toNat] s ∧ q = s.qid) →
    (wake = true → g.st = .running ∧ mayRunAt s (dieOf q) g.vf = true ∧ g.blocked = some (.kwait o)) →
    (cs = [] → answer 2)
    ∧ (cs ≠ [] → (∀ c ∈ cs, c.srcRead = true) → answer 0)
    ∧ ((∀ c ∈ cs, c.srcRead = true ∨ c.phase = .failed) → (∃ c ∈ cs, c.srcRead = false) → answer 1)
    ∧ (wake = false → (∃ c ∈ cs, c.srcRead = false ∧ c.phase ≠ .failed) → exec (.kwait o) s = .next (block (.kwait o) s)))
  ∧ (∀ (s t : State) (q : Nat) (b : Blocked) (f : State → Res), (groupAt s q).st = .running →
    mayRunAt s (dieOf q) (groupAt s q).vf = true →
    (groupAt s q).blocked = some b →
    ((∃ o, b = .pgrel o ∧ f = tryPgrel o) ∨ (∃ o, b = .arel o ∧ f = tryArel o) ∨ (b = .cleave ∧ f = tryCleave)
      ∨ (∃ o, b = .kstart o ∧ f = tryKstart o)) →
    f { s with cur := .group q } = .done t .seq → exec (.lockWaitDone q) s = .next { retire .seq t with cur := s.cur }))
  ∧ (∀ (s : State) (die id : Nat) (c : Collective), collAt s die id = some c →
    (c.phase = .waiting → collServes s c = true → c.start.toNat ≤ s.time.toNat →
      ((∃ bs, collRead s c (lineRange (cdPeers c.desc) (4 * cdRanks c.desc)) = .ok bs) → fabTagged s c.vf = true →
        exec (.collectiveStart die id true) s = .next (setColl die id { c with phase := .running, watch := s.time } s))
      ∧ (∀ agree, agree = false ∨ fabTagged s c.vf = false → ∃ t, exec (.collectiveStart die id agree) s = .next t
        ∧ collAt t die id = some { c with phase := .failed, stall := none }
        ∧ ∀ l ∈ (coreAt t c.core).locks, l.2.owner ≠ .collective id true ∧ l.2.owner ≠ .collective id false))
    ∧ (c.phase = .running → collServes s c = true → c.start.toNat ≤ s.time.toNat →
      ∃ t, exec (.collectiveStart die id false) s = .next t ∧ collAt t die id = some { c with phase := .failed, stall := none })
    ∧ (c.phase = .running → collServes s c = true → fabTagged s c.vf = false → ∀ rank link tag data, rank < cdRanks c.desc →
      Tab.find c.arrived rank = none → (rank ≠ cdRank c.desc → link < 4 ∧ data.length = cdBlock c.desc) →
      ∃ t, exec (.collectiveStep die id rank ⟨link, tag, data⟩) s = .next t
        ∧ collAt t die id = some { c with phase := .failed, stall := none }
        ∧ (rank ≠ cdRank c.desc → t.platform.pdrop = s.platform.pdrop + 1))
    ∧ (c.phase = .running → collServes s c = true → fabTagged s c.vf = true → ∀ rank link tag data, rank < cdRanks c.desc →
      Tab.find c.arrived rank = none → rank ≠ cdRank c.desc → link < 4 → data.length = cdBlock c.desc →
      tag.toNat ≠ (Tab.get 0 s.platform.fabtag c.vf).toNat % 2 ^ 16 →
      ∃ t, exec (.collectiveStep die id rank ⟨link, tag, data⟩) s = .next t ∧ collAt t die id = some c
        ∧ t.platform.pdrop = s.platform.pdrop + 1 ∧ t.groups = s.groups)
    ∧ (c.phase = .running → collServes s c = true → fabTagged s c.vf = true → ∀ s0, collSettle id c s = some s0 →
      (∀ rank link tag data, rank < cdRanks c.desc → Tab.find c.arrived rank = none → rank ≠ cdRank c.desc → link < 4 →
        tag.toNat = (Tab.get 0 s.platform.fabtag c.vf).toNat % 2 ^ 16 → data.length = cdBlock c.desc → cdReduces c.desc = true →
        (∃ r, r < cdRanks c.desc ∧ r ≠ rank ∧ Tab.find c.arrived r = none) →
        exec (.collectiveStep die id rank ⟨link, tag, data⟩) s
          = .next (setColl die id { c with arrived := Tab.set c.arrived rank data, watch := s.time } s0))
      ∧ (∀ bs link tag data, cdRank c.desc < cdRanks c.desc → Tab.find c.arrived (cdRank c.desc) = none → c.srcRead = false →
        collRead s0 c (lineRange (cdSrc c.desc) (cdSrcBytes c.desc)) = .ok bs →
        ∃ t c', exec (.collectiveStep die id (cdRank c.desc) ⟨link, tag, data⟩) s = .next t ∧ collAt t die id = some c'
          ∧ c'.srcRead = true ∧ c'.source = bs ∧ ∀ l ∈ (coreAt t c.core).locks, l.2.owner ≠ .collective id false))
    ∧ ((c.phase = .finished ∨ c.phase = .failed) → collServes s c = true → kwaitPends s c = false → collSignalWaits s c = false →
      ∃ t, exec (.collectiveComplete die id) s = .next t ∧ collAt t die id = none
        ∧ ∀ l ∈ (coreAt t c.core).locks, l.2.owner ≠ .collective id true ∧ l.2.owner ≠ .collective id false)
    ∧ (c.phase = .running → (dieAt s die).held = false → c.watch.toNat + cdWdog c.desc ≤ s.time.toNat →
      ∃ t, exec (.collWatchdogExpiry die id) s = .next t ∧ collAt t die id = some { c with watch := s.time }))

/-- Accesses of the host to device registers: until READY only the PF's configuration space, the bring-up block (R467) and
the certificates (log 66) are there; a read answers the register's value, Request Retry Status in the configuration space of
a VF whose reset is pending (R463), nothing in a slot without a certificate (R464), and 0 in a queue register where
QUEUE_SELECT names no queue (a write of no bytes stands for a read, log 65); each register takes the values that its field
allows (R341, R344, R383, R431, R443), QUEUE_SIZE and the ring addresses of an enabled queue and the filters of an enabled
trace ignore writes, and SCOPE_POLICY, WAKE_RATE and WAKE_BURST are the PF's. FEATURES_OK, QUEUE_ENABLE and QUEUE_RESET act
as R342, R350 and R353 say. The model's own readings in it stand in log 32 and log 48. -/
def Obligations.DeviceRegisters : Prop :=
  (∀ (b : RegBlock) (off bytes : Nat) (v : W64) (s : State), b ≠ .bringUp → b ≠ .config 0 →
    (∀ n, b ≠ .certificate n) → bootReady s = false →
    exec (.registerWrite b off bytes v) s = .next s)
  ∧ (∀ (b : RegBlock) (off : Nat) (v : W64) (s : State), b = .bringUp ∨ b = .config 0 ∨ (∃ n, b = .certificate n) ∨ bootReady s = true →
    noAnswer b s = false → ∃ t, exec (.registerWrite b off 0 v) s = .next t
      ∧ t.reply = [BitVec.ofNat 64 (blockLoad b off s).1] ∧ t.groups = s.groups ∧ SameMemory s t)
  ∧ (∀ (vf off : Nat) (v : W64) (s : State), bootReady s = true → vf ≠ 0 → (vfAt s vf).resetPending = true →
    exec (.registerWrite (.config vf) off 0 v) s = .next { s with reply := [] })
  ∧ (∀ (slot off : Nat) (v : W64) (s : State), certKey s slot = none →
    exec (.registerWrite (.certificate slot) off 0 v) s = .next { s with reply := [] })
  ∧ (∀ (vf : Nat) (byPf : Bool) (s : State), vf ≤ 512 → vfOn s vf = true →
    let r (off : Nat) : Nat := (blockLoad (.vfRegs vf byPf) off s).1
    let q := (vfAt s vf).queueSelect.toNat
    r 0x014 = 64 ∧ r 0x018 = q
    ∧ (q < 64 → r 0x01C = (queueAt s vf q).size.toNat ∧ r 0x020 = (queueAt s vf q).enable.toNat ∧ r 0x026 = q
      ∧ r 0x040 = (queueAt s vf q).status.toNat)
    ∧ (64 ≤ q → ∀ off ∈ [0x01C, 0x020, 0x022, 0x024, 0x026, 0x028, 0x02C, 0x030, 0x034, 0x038, 0x03C, 0x040], r off = 0))
  ∧ (∀ (vf : Nat) (byPf : Bool) (v : W64) (s : State), bootReady s = true → vf ≤ 512 → vfOn s vf = true →
    let w (off bytes : Nat) : Out := exec (.registerWrite (.vfRegs vf byPf) off bytes v) s
    w 0x008 8 = .next (modVf vf (fun x => { x with driverFeature := v }) s)
    ∧ w 0x018 2 = .next (modVf vf (fun x => { x with queueSelect := v.setWidth 16 }) s)
    ∧ (∀ q, (vfAt s vf).queueSelect = BitVec.ofNat 16 q → q < 64 →
      w 0x024 2 = .next (modQueue vf q (fun x => { x with msix := v.setWidth 16 }) s)
      ∧ (v.getLsbD 1 = true → w 0x040 4 = .next (modQueue vf q (fun x => { x with status := x.status &&& ~~~(2 : W32) }) s))
      ∧ (v.getLsbD 1 = false → w 0x040 4 = .next s)
      ∧ ((queueAt s vf q).enable = 0 →
        w 0x028 8 = .next (modQueue vf q (fun x => { x with desc := v }) s)
        ∧ w 0x030 8 = .next (modQueue vf q (fun x => { x with driver := v }) s)
        ∧ w 0x038 8 = .next (modQueue vf q (fun x => { x with device := v }) s)
        ∧ w 0x01C 2 = .next (modQueue vf q (fun x => { x with size := v.setWidth 16 }) s))
      ∧ ((queueAt s vf q).enable = 1 → ∀ off bytes,
        (off, bytes) ∈ ([(0x01C, 2), (0x028, 8), (0x030, 8), (0x038, 8)] : List (Nat × Nat)) →
        ∃ t, w off bytes = .next t ∧ t = { s with vfs := t.vfs } ∧ ∀ k n, queueAt t k n = queueAt s k n))
    ∧ (64 ≤ (vfAt s vf).queueSelect.toNat → ∀ off bytes,
      (off, bytes) ∈ ([(0x01C, 2), (0x020, 2), (0x022, 2), (0x024, 2), (0x028, 8), (0x030, 8), (0x038, 8), (0x040, 4)] :
        List (Nat × Nat)) → w off bytes = .next s)
    ∧ (∀ off, off ∈ [0x044, 0x048, 0x04C] → byPf = false → w off 4 = .next s)
    ∧ (byPf = true → (vfAt s vf).tdi = .unlocked → let n := v.toNat % 2 ^ 32
      w 0x044 4 = .next (modVf vf (fun x => { x with scopePolicy := (v &&& 1).setWidth 32 }) s)
      ∧ (1 ≤ n → n ≤ 65535 → w 0x048 4 = .next (modVf vf (fun x => { x with wakeRate := v.setWidth 32 }) s)
        ∧ w 0x04C 4 = .next (modVf vf (fun x => { x with wakeBurst := v.setWidth 32 }) s))
      ∧ (n = 0 ∨ 65535 < n → ∀ off, off ∈ [0x048, 0x04C] →
        ∃ t, w off 4 = .next t ∧ t = { s with vfs := t.vfs } ∧ ∀ k, vfAt t k = vfAt s k)))
  ∧ (∀ (vf : Nat) (status : BitVec 8) (s : State), vfOn s vf = true → status.getLsbD 3 = true → ∃ t,
    exec (.featuresOk vf status) s = .next t ∧ t = { s with vfs := t.vfs }
    ∧ (∀ i, i < 8 → i ≠ 6 → i ≠ 3 → (vfAt t vf).deviceStatus.getLsbD i = status.getLsbD i)
    ∧ (vfAt t vf).deviceStatus.getLsbD 6 = (vfAt s vf).deviceStatus.getLsbD 6
    ∧ ((vfAt t vf).deviceStatus.getLsbD 3 = true ↔ (vfAt s vf).driverFeature.getLsbD 32 = true
      ∧ ∀ i, i < 64 → (vfAt s vf).driverFeature.getLsbD i = true → i ∈ [28, 29, 32, 40]))
  ∧ (∀ (vf q : Nat) (s : State), vfOn s vf = true → (vfAt s vf).queueSelect = BitVec.ofNat 16 q → q < 64 →
    let x := queueAt s vf q
    let ok := (∃ k, k < 16 ∧ x.size.toNat = 2 ^ k) ∧ x.desc.toNat % 16 = 0 ∧ x.driver.toNat % 2 = 0
      ∧ x.device.toNat % 4 = 0 ∧ (vfAt s vf).deviceStatus.getLsbD 3 = true
    ∃ t, exec (.queueEnable vf) s = .next t ∧ t = { s with vfs := t.vfs }
      ∧ (ok → x.enable = 0 → queueAt t vf q =
        { x with enable := 1, lastSeen := 0, usedIdx := 0, status := x.status &&& ~~~(2 : W32) })
      ∧ (ok → x.enable = 1 → queueAt t vf q = x)
      ∧ (¬ok → (queueAt t vf q).enable = x.enable ∧ (queueAt t vf q).status.getLsbD 1 = true
        ∧ (queueAt t vf q).cause ∈ [1, 2, 3]))
  ∧ (∀ (vf q : Nat) (s : State), vfOn s vf = true → (vfAt s vf).queueSelect = BitVec.ofNat 16 q → q < 64 → ∃ t,
    exec (.queueReset vf) s = .next t ∧ t = { s with vfs := t.vfs }
    ∧ (∀ e ∈ (vfAt t vf).cmds, e ∈ (vfAt s vf).cmds ∧ (e.2.queue = q → e.2.begun = true))
    ∧ ((∃ e ∈ (vfAt s vf).cmds, e.2.queue = q ∧ e.2.begun = true) → (queueAt t vf q).resetting = 1)
    ∧ ((∀ e ∈ (vfAt s vf).cmds, e.2.queue = q → e.2.begun = false) → (queueAt t vf q).resetting = 0
      ∧ (queueAt t vf q).enable = 0 ∧ (queueAt t vf q).lastSeen = 0))
  ∧ (∀ (vf q : Nat) (s : State), (queueAt s vf q).resetting = 1 → (∀ e ∈ (vfAt s vf).cmds, e.2.queue = q → e.2.begun = false) →
    ∃ t, exec (.queueResetDone vf q) s = .next t ∧ (queueAt t vf q).resetting = 0 ∧ (queueAt t vf q).enable = 0
      ∧ t = { s with vfs := t.vfs })
  ∧ (∀ (vf : Nat) (v : W64) (s : State), bootReady s = true → vf ≤ 512 → (vfAt s vf).tdi = .unlocked →
    let w (off : Nat) : Out := exec (.registerWrite (.context vf) off 8 v) s
    w 0x00 = .next (modCtx vf (fun c => { c with cctl := v &&& 3 }) s)
    ∧ w 0x08 = .next (modCtx vf (fun c => { c with slice := v }) s)
    ∧ (v.toNat % 4096 = 0 → w 0x10 = .next (modCtx vf (fun c => { c with sarea := v }) s)
      ∧ w 0x18 = .next (modCtx vf (fun c => { c with sasize := v }) s))
    ∧ (v.toNat % 4096 ≠ 0 → ∀ off, off ∈ [0x10, 0x18] →
      ∃ t, w off = .next t ∧ t = { s with vfs := t.vfs } ∧ ∀ k, vfAt t k = vfAt s k))
  ∧ (∀ (die : Nat) (v : W64) (s : State), bootReady s = true → die < 4 →
    let w (off : Nat) : Out := exec (.registerWrite (.trace die) off 8 v) s
    ((dieAt s die).trace.tctl.getLsbD 0 = true → ∀ off, off % 8 = 0 → off ≠ 0 → ∃ t, w off = .next t ∧ dieAt t die = dieAt s die)
    ∧ ((dieAt s die).trace.tctl.getLsbD 0 = false → ∀ (off : Nat) (f : Trace → Trace),
      (off, f) ∈ ([(0x10, fun t => { t with txbase := v }), (0x18, fun t => { t with txsize := v }),
        (0x20, fun t => { t with tfvf := v &&& 0x3FF }), (0x28, fun t => { t with tcgval := v }),
        (0x30, fun t => { t with tcgmask := v }), (0x38, fun t => { t with tclass := v &&& 0xFFFF }),
        (0x40, fun t => { t with ttrig := v &&& 0x1FFF }), (0x48, fun t => { t with tpost := v &&& 0xFFFF_FFFF })] :
        List (Nat × (Trace → Trace))) → w off = .next (modDie die (fun d => { d with trace := f d.trace }) s)))
  ∧ (∀ (v : W64) (s : State), bootReady s = true →
    let w (off : Nat) : Out := exec (.registerWrite .platform off 8 v) s
    let p := s.platform
    let c := v.toNat % 4096
    let n := v.toNat % 256
    w 0x010 = .next { s with platform := { p with
      pwrcap := if 600 ≤ c ∧ c ≤ 2400 then BitVec.ofNat 64 c else p.pwrcap } }
    ∧ w 0x018 = .next { s with platform := { p with twarn := if 60 ≤ n ∧ n ≤ 110 then BitVec.ofNat 64 n else p.twarn } }
    ∧ w 0x020 = .next { s with platform := { p with
      tcrit := if p.twarn.toNat < n ∧ n ≤ 115 then BitVec.ofNat 64 n else p.tcrit } }
    ∧ (v.toNat % 4 ≠ 3 → ∃ t, w 0x000 = .next t ∧ t.platform.tbctl = v &&& 0x3F)
    ∧ (v.toNat % 4 = 3 → w 0x000 = .next s)
    ∧ ∀ vf, vf ≤ 512 → (vfAt s vf).tdi = .unlocked → w (0x800 + 8 * vf) = .next { s with platform := { p with
      fabtag := Tab.set p.fabtag vf (v &&& 0x1FFFF) } })

/-- The Binder (15 R364 to R378; 16 R381): a request is kept with the TIME of its write until a boundary takes it, idle-only
words refuse a write while it runs, and an out-of-range value is refused; the boundaries lie PERIOD apart and each is the
next after the one that ran last; a boundary hands out the knobs. A decision that does not freeze applies an action below
NACT that is feasible, changes only the knobs of that action's pairs, and a freeze changes none; the value of an action is
saturated to 32 bits. The model's own readings in it stand in log 43. -/
def Obligations.BinderRules : Prop :=
  (∀ (s : State), bootReady s = true → let b := s.binder
    (b.armAt = none → exec .binderArm s = .next { s with binder := { b with armAt := some s.time } })
    ∧ (b.stopAt = none → exec .binderStop s = .next { s with binder := { b with stopAt := some s.time } })
    ∧ (b.rewardAt = none → exec .commitReward s = .next { s with binder := { b with rewardAt := some s.time } })
    ∧ (b.envAt = none → exec .commitEnv s = .next { s with binder := { b with envAt := some s.time } })
    ∧ (b.injAt = none → exec .injvalid s = .next { s with binder := { b with injAt := some s.time } }))
  ∧ (∀ (vf : Nat) (v : W32) (s : State), vf ≤ 512 → bootReady s = true →
    let n := v.toNat
    let ok := 1 ≤ n % 256 ∧ 1 ≤ n / 256 % 256 ∧ 1 ≤ n / 2 ^ 24
    (s.binder.st = 1 ∨ ¬ok → exec (.knobWrite vf v) s = .next { s with binder := { s.binder with werr := true } })
    ∧ (s.binder.st ≠ 1 → ok → exec (.knobWrite vf v) s = .next { s with binder := { s.binder with
      knob := Tab.set s.binder.knob vf (v &&& 0xFF03FFFF) } }))
  ∧ (∀ (v : W64) (s : State), bootReady s = true → boundaryTime s = none →
    (s.binder.st ≠ 1 → 10000 ≤ v.toNat → v.toNat ≤ 2 ^ 40 → v ≠ s.binder.period → exec (.binderIdleWrite 0x10 8 v) s =
      .next { s with binder := { s.binder with period := v, lastBoundary := some s.time } })
    ∧ (s.binder.st = 1 ∨ v.toNat < 10000 ∨ 2 ^ 40 < v.toNat → exec (.binderIdleWrite 0x10 8 v) s =
      .next { s with binder := { s.binder with werr := true } })
    ∧ (s.binder.st ≠ 1 → v ≠ s.binder.origin → exec (.binderIdleWrite 0x18 8 v) s =
      .next { s with binder := { s.binder with origin := v, lastBoundary := some s.time } })
    ∧ (s.binder.st ≠ 1 → v = s.binder.origin → exec (.binderIdleWrite 0x18 8 v) s = .next s))
  ∧ (∀ (v bt : W64) (s : State), bootReady s = true → boundaryTime s = some bt → (dieAt s 4).held = false → ∃ t,
    exec (.binderIdleWrite 0x18 8 v) s = .next t ∧ t = { boundaryStep bt s with binder := t.binder })
  ∧ (∀ (s : State) (bt : W64), boundaryTime s = some bt →
    bt.toNat ≤ s.time.toNat ∧ bt.toNat % s.binder.period.toNat = s.binder.origin.toNat % s.binder.period.toNat
    ∧ ∀ p, s.binder.lastBoundary = some p → p.toNat < bt.toNat ∧ bt.toNat ≤ p.toNat + s.binder.period.toNat)
  ∧ (∀ (s : State) (bt : W64), boundaryTime s = some bt → (dieAt s 4).held = false →
    ∃ t, exec .binderBoundary s = .next t ∧ t.binder.lastBoundary = some bt ∧ t.binder.handed = t.binder.knob
      ∧ t.binder.tally = [] ∧ t.groups = s.groups
      ∧ (s.binder.st ≠ 1 → s.binder.armAt = none → t.binder.knob = s.binder.knob
        ∧ t.binder.weights = s.binder.weights)
      ∧ (∀ at', s.binder.stopAt = some at' → at'.toNat < bt.toNat → t.binder.st = 0 ∧ t.binder.stopAt = none)
      ∧ (∀ at', s.binder.armAt = some at' → at'.toNat < bt.toNat → s.binder.stopAt = none →
        s.binder.inject = true → s.binder.injAt = none → t.binder.st = 1 ∧ t.binder.armAt = none))
  ∧ (∀ (b : Binder) (sens : Nat → Nat → Int), b.st = 1 →
    let d := decideStep b sens
    (d.st ≠ 2 → d.ap < b.nact ∧ feasible b sens d.ap = true ∧ d.icnt = b.icnt + 1
      ∧ ∀ v, (∀ p ∈ pairsOf b d.ap, p.2.1 ≠ v) → d.knobWord v = b.knobWord v)
    ∧ (d.st = 2 → d.knob = b.knob ∧ d.infeas = true))
  ∧ (∀ (b : Binder) (phi : List Int) (a : Nat), -2 ^ 31 ≤ qValue b phi a ∧ qValue b phi a ≤ 2 ^ 31 - 1)

/-- The time base, packets and power: LOCK is set by the second measurement in a row inside the bound and TIME never steps
back; a packet on the VF's tag is written, and any other is dropped whole and counted; a die runs at full duty within its
share of the cap and of each rail (what a die asks of a rail is a free value, log 4); temperature and droop set and clear
their throttles. The model's own readings in it stand in log 46. -/
def Obligations.PlatformEvents : Prop :=
  (∀ (offset : W32) (s : State), s.platform.tbctl.toNat % 4 ≠ 0 →
    let bound : Int := if s.platform.tbctl.toNat % 4 = 1 then 5 else 100
    let inside := -bound ≤ offset.toInt ∧ offset.toInt ≤ bound
    ∃ t, exec (.timeSyncMeasure offset) s = .next t ∧ t.platform.measuredAt = s.time
      ∧ t.platform.tbstat.toNat / 2 ^ 16 = offset.toNat
      ∧ (inside → t.platform.goodRun = s.platform.goodRun + 1
        ∧ (t.platform.tbstat.getLsbD 0 = true ↔ s.platform.tbstat.getLsbD 0 = true ∨ 1 ≤ s.platform.goodRun))
      ∧ (¬inside → t.platform.goodRun = 0 ∧ t.platform.tbstat.getLsbD 0 = false ∧ t.time = s.time)
      ∧ (s.platform.everLocked = true → t.time = s.time)
      ∧ (0 ≤ offset.toInt → t.time = s.time ∧ t.platform.slew = -offset.toInt)
      ∧ (inside → offset.toInt < 0 → s.platform.everLocked = false → 1 ≤ s.platform.goodRun →
        t.time = s.time + BitVec.ofNat 64 offset.toInt.natAbs ∧ t.platform.slew = 0))
  ∧ (∀ (s : State) (n : Nat), slewOf s n ≤ s.platform.slew.natAbs ∧ slewOf s n ≤ (s.platform.slewRun + n) / 10000
    ∧ (s.platform.slewRun ≤ 10000 → n < 10000 → slewOf s n ≤ 1) ∧ (advance n s).platform.slewRun ≤ 10000
    ∧ (s.platform.slew < 0 → slewOf s n ≤ n)
    ∧ (s.platform.slew = 0 → (pass n s).time =
      s.time + BitVec.ofNat 64 ((s.phase + Config.ticksPerFiveCclk * n) / 5)))
  ∧ (∀ (s : State), s.platform.tbstat.getLsbD 0 = true → s.platform.measuredAt.toNat + 4000000 ≤ s.time.toNat → ∃ t,
    exec .lockTimeout s = .next t ∧ t = { s with platform := t.platform } ∧ t.platform.tbstat.getLsbD 0 = false
    ∧ t.platform.goodRun = 0)
  ∧ (∀ (die link vf pa : Nat) (tag : BitVec 16) (x : Byte) (s : State), die < 4 → link < 4 → vf ≤ 512 →
    linkDown s die link = false →
    let f := Tab.get 0 s.platform.fabtag vf
    (f.toNat / 2 ^ 16 % 2 = 1 → f.toNat % 2 ^ 16 = tag.toNat → inOcpm pa = false → ∃ t,
      exec (.fabricPacketRx die link vf tag [(pa, x)]) s = .next t ∧ readPa t (keyNum s vf) pa = x
      ∧ (∀ a, a ≠ pa → readPa t (keyNum s vf) a = readPa s (keyNum s vf) a) ∧ t.platform = s.platform)
    ∧ (f.toNat / 2 ^ 16 % 2 = 0 ∨ f.toNat % 2 ^ 16 ≠ tag.toNat → (vfAt s 0).dbg.evsize = 0 → ∃ t,
      exec (.fabricPacketRx die link vf tag [(pa, x)]) s = .next t ∧ SameMemory s t
      ∧ t.platform.pdrop = s.platform.pdrop + 1))
  ∧ (∀ (s : State) (demand : List Nat), demand.length = 5 → (dieAt s 4).held = false →
    s.platform.arbiterAt.toNat / 10000 ≠ s.time.toNat / 10000 →
    let total := demand.foldl (· + ·) 0
    ∃ t, exec (.powerArbiterTick demand) s = .next t ∧ t.platform.arbiterAt = s.time
      ∧ ∀ i, i < 5 → (dieAt t i).share = powerShare s.platform.pwrcap.toNat (demand.getD i 0) total
        ∧ ∃ k, ((dieAt t i).duty, (dieAt t i).matrixDuty) ∈ [(k, k), (16, k), (k, 16)]
          ∧ k ≤ powerDuty (dieAt t i).share (demand.getD i 0)
          ∧ (∀ r, r < Config.rails →
            let rail (d : Nat) : Nat := railDemand s.free r d
            let share := powerShare (Config.railBudget r) (rail i) (rail 0 + rail 1 + rail 2 + rail 3 + rail 4)
            Tab.find (dieAt t i).railShare r = some share ∧ k ≤ powerDuty share (rail i))
          ∧ (k = powerDuty (dieAt t i).share (demand.getD i 0) ∨ ∃ r, r < Config.rails
            ∧ k = powerDuty ((Tab.find (dieAt t i).railShare r).getD 0) (railDemand s.free r i)))
  ∧ (∀ share d : Nat, 1 ≤ powerDuty share d ∧ powerDuty share d ≤ 16 ∧ (d ≤ share → powerDuty share d = 16)
    ∧ (2 ≤ powerDuty share d → powerDuty share d * d ≤ 16 * max share d))
  ∧ (∀ (die sensor : Nat) (reading : BitVec 16) (s : State), die ≤ 4 → sensor < 64 →
    (s.platform.twarn.toNat * 256 < reading.toNat →
      exec (.thermalWarn die sensor reading) s = .next (postThermal die 0 sensor reading s))
    ∧ (s.platform.tcrit.toNat * 256 ≤ reading.toNat → ∃ u, exec (.thermalCrit die sensor reading) s =
      .next (postThermal die 1 sensor reading u) ∧ u = { s with dies := u.dies } ∧ (dieAt u die).hot = true
      ∧ (∀ k, k ≠ die → dieAt u k = dieAt s k)))
  ∧ (∀ (die sensor : Nat) (reading : BitVec 16) (s : State), die ≤ 4 → sensor < 16 →
    ((dieAt s die).hot = true → ∃ t, exec (.thermalClear die) s = .next t ∧ t = { s with dies := t.dies }
      ∧ (dieAt t die).hot = false ∧ (∀ k, k ≠ die → dieAt t k = dieAt s k))
    ∧ (∃ t, exec (.droopTrip die sensor reading) s = .next t ∧ (dieAt t die).droopAt = some s.time
      ∧ t.platform.droops = s.platform.droops + 1)
    ∧ (∀ c, (dieAt s die).droopAt = some c → c.toNat + 1000 ≤ s.time.toNat →
      ∃ t, exec (.droopEnd die) s = .next t ∧ t = { s with dies := t.dies } ∧ (dieAt t die).droopAt = none
        ∧ (∀ k, k ≠ die → dieAt t k = dieAt s k))
    ∧ (∀ c, Tab.find (dieAt s die).railEvAt sensor = some c → s.time.toNat < c.toNat + 1000000 →
      exec (.railCurrentLimit die sensor reading) s = .next s)
    ∧ (Tab.find (dieAt s die).railEvAt sensor = none → ∃ u, exec (.railCurrentLimit die sensor reading) s =
      .next (postThermal die 3 sensor reading u) ∧ Tab.find (dieAt u die).railEvAt sensor = some s.time
      ∧ u = { s with dies := u.dies }))
  ∧ (∀ s : State, bootReady s = true → exec .droopsRead s = .next { s with platform := { s.platform with droops := 0 }, reply := [s.platform.droops] }
    ∧ exec .pdropRead s = .next { s with platform := { s.platform with pdrop := 0 }, reply := [s.platform.pdrop] })

/-- Power-on, resets and the trust interface (22 R462 to R467; 14 R360; 00 R2): a cold reset keeps the bytes of memory under
keys that are gone, and BOOTSTAT says where bring-up ended; the end of a tenancy leaves nothing of the VF and gives it a
fresh key; a VF with a resident launch ends once none is; the certificate slots 0 to 4 hold the chains of the hub and of the
compute dies. That the end of a tenancy of any VF clears what the Binder has learnt is log 68's choice. The model's own
readings in it stand in log 47, log 48 and log 66. -/
def Obligations.PowerAndReset : Prop :=
  (∀ (b : BootOutcome) (s : State) (i : Instr), i = .powerOn b ∨ i = .pfFlr b → ∃ t, exec i s = .next t
    ∧ t.mem = s.mem ∧ t.groups = [] ∧ t.launches = [] ∧ t.teams = [] ∧ t.copies = [] ∧ t.time = 0 ∧ t.grants = []
    ∧ (∀ v, (vfAt t v).enabled = Vf.reset.enabled)
    ∧ (∀ v x, Tab.find s.vfs v = some x → (vfAt t v).keyLoads = x.keyLoads + 1)
    ∧ (b.signatureOk = true → s.boot.version ≤ b.version → b.keysOk = true → b.dieKeys.length = 5 → b.hbmOk = true → b.spineOk = true →
      b.kernelOk = true → bootReady t = true ∧ t.boot.bootstat.toNat % 8 = 7 ∧ t.boot.version = b.version
        ∧ t.boot.digests = b.digests.take 8 ∧ t.boot.dieKeys = b.dieKeys
        ∧ t.boot.vfCount = min 512 b.vfCount.toNat ∧ t.boot.pcieIds = b.pcieIds)
    ∧ (b.signatureOk = false → bootReady t = false ∧ t.boot.bootstat.toNat % 2 ^ 16 = 0x101 ∧ t.boot.version = s.boot.version)
    ∧ (b.signatureOk = true → s.boot.version ≤ b.version → b.keysOk = false ∨ b.dieKeys.length ≠ 5 →
      bootReady t = false ∧ t.boot.bootstat.toNat % 2 ^ 16 = 0x302 ∧ t.boot.dieKeys = [])
    ∧ (b.signatureOk = true → b.version < s.boot.version →
      bootReady t = false ∧ t.boot.bootstat.toNat % 2 ^ 16 = 0x201 ∧ t.boot.version = s.boot.version))
  ∧ (∀ (vf : Nat) (s : State), isVf s vf = true ↔ 1 ≤ vf ∧ vf ≤ 512 ∧ vf ≤ s.boot.vfCount)
  ∧ (∀ s : State, certKey s 0 = s.boot.dieKeys[4]? ∧ (∀ d, d < 4 → certKey s (d + 1) = s.boot.dieKeys[d]?)
    ∧ ∀ n, 5 ≤ n → certKey s n = none)
  ∧ (∀ (vf : Nat) (salt : BitVec 48) (s : State), isVf s vf = true →
    ((vfAt s vf).enabled = true →
      exec (.vfFlr vf) s = .next (modVf vf (fun v => { v with resetPending := true }) s)
      ∧ (hasResident s vf = true → exec (.vfDisable vf) s =
        .next (modVf vf (fun v => { v with enabled := false, resetPending := true }) s))
      ∧ (hasResident s vf = false → ∃ t, exec (.vfDisable vf) s = .next t ∧ (vfAt t vf).enabled = false
        ∧ (vfAt t vf).keyLoads = (vfAt s vf).keyLoads + 1 ∧ (∀ e ∈ t.copies, e.2.vf ≠ vf)))
    ∧ (bootReady s = true → (vfAt s vf).enabled = false → (vfAt s vf).resetPending = false → ∃ t,
      exec (.vfEnable vf salt) s = .next t ∧ t = { s with vfs := t.vfs } ∧ (vfAt t vf).enabled = true
      ∧ (vfAt t vf).salt = salt ∧ (vfAt t vf).tokens = (vfAt s vf).wakeBurst.toNat
      ∧ (vfAt t vf).keyLoads = (vfAt s vf).keyLoads + 1)
    ∧ ((vfAt s vf).resetPending = true → hasResident s vf = false → ∃ t, exec (.vfResetDone vf salt) s = .next t
      ∧ (vfAt t vf).resetPending = false ∧ (vfAt t vf).enabled = (vfAt s vf).enabled ∧ (vfAt t vf).salt = salt
      ∧ (vfAt t vf).keyLoads = (vfAt s vf).keyLoads + 1 ∧ (vfAt t vf).cmds = []
      ∧ (∀ d, ∀ e ∈ (dieAt t d).tlb, e.vf ≠ vf)
      ∧ (vfAt t vf).templates = [] ∧ (vfAt t vf).waiting = [] ∧ (vfAt t vf).parts = []
      ∧ (∀ e ∈ t.copies, e.2.vf ≠ vf) ∧ (∀ e ∈ t.returns, e.2.vf ≠ vf) ∧ (∀ e ∈ t.syscs, e.2.vf ≠ vf)
      ∧ t.binder.weights = [] ∧ t.binder.lastphi = [] ∧ t.binder.phi = [] ∧ t.binder.ap = 0 ∧ t.binder.have_ = false
      ∧ t.binder.icnt = 0 ∧ t.binder.left = 0 ∧ t.binder.bseed = 1))
  ∧ (∀ (vf : Nat) (s : State) (a : TdiState), isVf s vf = true →
    (((vfAt s vf).tdi, a) ∈ ([(.unlocked, .locked), (.locked, .run), (.locked, .unlocked), (.run, .unlocked),
      (.error, .unlocked)] : List (TdiState × TdiState)) →
      exec (.tdiTransition vf a) s = .next (modVf vf (fun v => { v with tdi := a }) s))
    ∧ ∃ c, exec (.getDeviceInterfaceState vf) s = .next { s with reply := [c] }
      ∧ ((vfAt s vf).tdi, c) ∈ ([(.unlocked, 0), (.locked, 1), (.run, 2), (.error, 3)] : List (TdiState × W64)))
  ∧ (∀ s : State, ∃ t, exec .getMeasurements s = .next t ∧ t = { s with reply := t.reply }
    ∧ t.reply.length = 6 * s.boot.digests.length
    ∧ ∀ d i, s.boot.digests.head? = some d → i < 6 → t.reply.getD i 0 = d.extractLsb' (64 * i) 64)

end
end

