-- ==== Sys2Proof/Laws/State.lean ====
section
/-!
SUPPORT. The updates of the state, field by field: each lemma says what an update leaves as it is, or what it writes.
-/

set_option Elab.async false
namespace Sys2Proof.Machine

@[simp] theorem setGroup_time (q : Nat) (g : Group) (s : State) : (setGroup q g s).time = s.time := rfl
@[simp] theorem setGroup_phase (q : Nat) (g : Group) (s : State) : (setGroup q g s).phase = s.phase := rfl
@[simp] theorem setGroup_cclk (q : Nat) (g : Group) (s : State) : (setGroup q g s).cclk = s.cclk := rfl
@[simp] theorem setGroup_cur (q : Nat) (g : Group) (s : State) : (setGroup q g s).cur = s.cur := rfl
@[simp] theorem setGroup_agenda (q : Nat) (g : Group) (s : State) : (setGroup q g s).agenda = s.agenda := rfl
@[simp] theorem setGroup_free (q : Nat) (g : Group) (s : State) : (setGroup q g s).free = s.free := rfl
@[simp] theorem setGroup_reply (q : Nat) (g : Group) (s : State) : (setGroup q g s).reply = s.reply := rfl
@[simp] theorem setGroup_refillAt (q : Nat) (g : Group) (s : State) : (setGroup q g s).refillAt = s.refillAt := rfl
@[simp] theorem setGroup_mem (q : Nat) (g : Group) (s : State) : (setGroup q g s).mem = s.mem := rfl
@[simp] theorem setGroup_lineKey (q : Nat) (g : Group) (s : State) : (setGroup q g s).lineKey = s.lineKey := rfl
@[simp] theorem setGroup_badLines (q : Nat) (g : Group) (s : State) : (setGroup q g s).badLines = s.badLines := rfl
@[simp] theorem setGroup_teams (q : Nat) (g : Group) (s : State) : (setGroup q g s).teams = s.teams := rfl
@[simp] theorem setGroup_launches (q : Nat) (g : Group) (s : State) : (setGroup q g s).launches = s.launches := rfl
@[simp] theorem setGroup_nextLaunch (q : Nat) (g : Group) (s : State) : (setGroup q g s).nextLaunch = s.nextLaunch := rfl
@[simp] theorem setGroup_nextTeam (q : Nat) (g : Group) (s : State) : (setGroup q g s).nextTeam = s.nextTeam := rfl
@[simp] theorem setGroup_returns (q : Nat) (g : Group) (s : State) : (setGroup q g s).returns = s.returns := rfl
@[simp] theorem setGroup_nextReturn (q : Nat) (g : Group) (s : State) : (setGroup q g s).nextReturn = s.nextReturn := rfl
@[simp] theorem setGroup_copies (q : Nat) (g : Group) (s : State) : (setGroup q g s).copies = s.copies := rfl
@[simp] theorem setGroup_nextCopy (q : Nat) (g : Group) (s : State) : (setGroup q g s).nextCopy = s.nextCopy := rfl
@[simp] theorem setGroup_nextOrder (q : Nat) (g : Group) (s : State) : (setGroup q g s).nextOrder = s.nextOrder := rfl
@[simp] theorem setGroup_nextSysc (q : Nat) (g : Group) (s : State) : (setGroup q g s).nextSysc = s.nextSysc := rfl
@[simp] theorem setGroup_syscs (q : Nat) (g : Group) (s : State) : (setGroup q g s).syscs = s.syscs := rfl
@[simp] theorem setGroup_cores (q : Nat) (g : Group) (s : State) : (setGroup q g s).cores = s.cores := rfl
@[simp] theorem setGroup_dies (q : Nat) (g : Group) (s : State) : (setGroup q g s).dies = s.dies := rfl
@[simp] theorem setGroup_vfs (q : Nat) (g : Group) (s : State) : (setGroup q g s).vfs = s.vfs := rfl
@[simp] theorem setGroup_grants (q : Nat) (g : Group) (s : State) : (setGroup q g s).grants = s.grants := rfl
@[simp] theorem setGroup_binder (q : Nat) (g : Group) (s : State) : (setGroup q g s).binder = s.binder := rfl
@[simp] theorem setGroup_platform (q : Nat) (g : Group) (s : State) : (setGroup q g s).platform = s.platform := rfl
@[simp] theorem setGroup_boot (q : Nat) (g : Group) (s : State) : (setGroup q g s).boot = s.boot := rfl
@[simp] theorem setGroup_tkey (q : Nat) (g : Group) (s : State) : (setGroup q g s).tkey = s.tkey := rfl
@[simp] theorem setGroup_msix (q : Nat) (g : Group) (s : State) : (setGroup q g s).msix = s.msix := rfl
@[simp] theorem setGroup_hubWrites (q : Nat) (g : Group) (s : State) : (setGroup q g s).hubWrites = s.hubWrites := rfl

@[simp] theorem modGroup_time (q : Nat) (f : Group → Group) (s : State) : (modGroup q f s).time = s.time := rfl
@[simp] theorem modGroup_phase (q : Nat) (f : Group → Group) (s : State) : (modGroup q f s).phase = s.phase := rfl
@[simp] theorem modGroup_cclk (q : Nat) (f : Group → Group) (s : State) : (modGroup q f s).cclk = s.cclk := rfl
@[simp] theorem modGroup_cur (q : Nat) (f : Group → Group) (s : State) : (modGroup q f s).cur = s.cur := rfl
@[simp] theorem modGroup_agenda (q : Nat) (f : Group → Group) (s : State) : (modGroup q f s).agenda = s.agenda := rfl
@[simp] theorem modGroup_free (q : Nat) (f : Group → Group) (s : State) : (modGroup q f s).free = s.free := rfl
@[simp] theorem modGroup_reply (q : Nat) (f : Group → Group) (s : State) : (modGroup q f s).reply = s.reply := rfl
@[simp] theorem modGroup_refillAt (q : Nat) (f : Group → Group) (s : State) : (modGroup q f s).refillAt = s.refillAt := rfl
@[simp] theorem modGroup_mem (q : Nat) (f : Group → Group) (s : State) : (modGroup q f s).mem = s.mem := rfl
@[simp] theorem modGroup_lineKey (q : Nat) (f : Group → Group) (s : State) : (modGroup q f s).lineKey = s.lineKey := rfl
@[simp] theorem modGroup_badLines (q : Nat) (f : Group → Group) (s : State) : (modGroup q f s).badLines = s.badLines := rfl
@[simp] theorem modGroup_teams (q : Nat) (f : Group → Group) (s : State) : (modGroup q f s).teams = s.teams := rfl
@[simp] theorem modGroup_launches (q : Nat) (f : Group → Group) (s : State) : (modGroup q f s).launches = s.launches := rfl
@[simp] theorem modGroup_nextLaunch (q : Nat) (f : Group → Group) (s : State) : (modGroup q f s).nextLaunch = s.nextLaunch := rfl
@[simp] theorem modGroup_nextTeam (q : Nat) (f : Group → Group) (s : State) : (modGroup q f s).nextTeam = s.nextTeam := rfl
@[simp] theorem modGroup_returns (q : Nat) (f : Group → Group) (s : State) : (modGroup q f s).returns = s.returns := rfl
@[simp] theorem modGroup_nextReturn (q : Nat) (f : Group → Group) (s : State) : (modGroup q f s).nextReturn = s.nextReturn := rfl
@[simp] theorem modGroup_copies (q : Nat) (f : Group → Group) (s : State) : (modGroup q f s).copies = s.copies := rfl
@[simp] theorem modGroup_nextCopy (q : Nat) (f : Group → Group) (s : State) : (modGroup q f s).nextCopy = s.nextCopy := rfl
@[simp] theorem modGroup_nextOrder (q : Nat) (f : Group → Group) (s : State) : (modGroup q f s).nextOrder = s.nextOrder := rfl
@[simp] theorem modGroup_nextSysc (q : Nat) (f : Group → Group) (s : State) : (modGroup q f s).nextSysc = s.nextSysc := rfl
@[simp] theorem modGroup_syscs (q : Nat) (f : Group → Group) (s : State) : (modGroup q f s).syscs = s.syscs := rfl
@[simp] theorem modGroup_cores (q : Nat) (f : Group → Group) (s : State) : (modGroup q f s).cores = s.cores := rfl
@[simp] theorem modGroup_dies (q : Nat) (f : Group → Group) (s : State) : (modGroup q f s).dies = s.dies := rfl
@[simp] theorem modGroup_vfs (q : Nat) (f : Group → Group) (s : State) : (modGroup q f s).vfs = s.vfs := rfl
@[simp] theorem modGroup_grants (q : Nat) (f : Group → Group) (s : State) : (modGroup q f s).grants = s.grants := rfl
@[simp] theorem modGroup_binder (q : Nat) (f : Group → Group) (s : State) : (modGroup q f s).binder = s.binder := rfl
@[simp] theorem modGroup_platform (q : Nat) (f : Group → Group) (s : State) : (modGroup q f s).platform = s.platform := rfl
@[simp] theorem modGroup_boot (q : Nat) (f : Group → Group) (s : State) : (modGroup q f s).boot = s.boot := rfl
@[simp] theorem modGroup_tkey (q : Nat) (f : Group → Group) (s : State) : (modGroup q f s).tkey = s.tkey := rfl
@[simp] theorem modGroup_msix (q : Nat) (f : Group → Group) (s : State) : (modGroup q f s).msix = s.msix := rfl
@[simp] theorem modGroup_hubWrites (q : Nat) (f : Group → Group) (s : State) : (modGroup q f s).hubWrites = s.hubWrites := rfl

@[simp] theorem modMe_time (f : Group → Group) (s : State) : (modMe f s).time = s.time := rfl
@[simp] theorem modMe_phase (f : Group → Group) (s : State) : (modMe f s).phase = s.phase := rfl
@[simp] theorem modMe_cclk (f : Group → Group) (s : State) : (modMe f s).cclk = s.cclk := rfl
@[simp] theorem modMe_cur (f : Group → Group) (s : State) : (modMe f s).cur = s.cur := rfl
@[simp] theorem modMe_agenda (f : Group → Group) (s : State) : (modMe f s).agenda = s.agenda := rfl
@[simp] theorem modMe_free (f : Group → Group) (s : State) : (modMe f s).free = s.free := rfl
@[simp] theorem modMe_reply (f : Group → Group) (s : State) : (modMe f s).reply = s.reply := rfl
@[simp] theorem modMe_refillAt (f : Group → Group) (s : State) : (modMe f s).refillAt = s.refillAt := rfl
@[simp] theorem modMe_mem (f : Group → Group) (s : State) : (modMe f s).mem = s.mem := rfl
@[simp] theorem modMe_lineKey (f : Group → Group) (s : State) : (modMe f s).lineKey = s.lineKey := rfl
@[simp] theorem modMe_badLines (f : Group → Group) (s : State) : (modMe f s).badLines = s.badLines := rfl
@[simp] theorem modMe_teams (f : Group → Group) (s : State) : (modMe f s).teams = s.teams := rfl
@[simp] theorem modMe_launches (f : Group → Group) (s : State) : (modMe f s).launches = s.launches := rfl
@[simp] theorem modMe_nextLaunch (f : Group → Group) (s : State) : (modMe f s).nextLaunch = s.nextLaunch := rfl
@[simp] theorem modMe_nextTeam (f : Group → Group) (s : State) : (modMe f s).nextTeam = s.nextTeam := rfl
@[simp] theorem modMe_returns (f : Group → Group) (s : State) : (modMe f s).returns = s.returns := rfl
@[simp] theorem modMe_nextReturn (f : Group → Group) (s : State) : (modMe f s).nextReturn = s.nextReturn := rfl
@[simp] theorem modMe_copies (f : Group → Group) (s : State) : (modMe f s).copies = s.copies := rfl
@[simp] theorem modMe_nextCopy (f : Group → Group) (s : State) : (modMe f s).nextCopy = s.nextCopy := rfl
@[simp] theorem modMe_nextOrder (f : Group → Group) (s : State) : (modMe f s).nextOrder = s.nextOrder := rfl
@[simp] theorem modMe_nextSysc (f : Group → Group) (s : State) : (modMe f s).nextSysc = s.nextSysc := rfl
@[simp] theorem modMe_syscs (f : Group → Group) (s : State) : (modMe f s).syscs = s.syscs := rfl
@[simp] theorem modMe_cores (f : Group → Group) (s : State) : (modMe f s).cores = s.cores := rfl
@[simp] theorem modMe_dies (f : Group → Group) (s : State) : (modMe f s).dies = s.dies := rfl
@[simp] theorem modMe_vfs (f : Group → Group) (s : State) : (modMe f s).vfs = s.vfs := rfl
@[simp] theorem modMe_grants (f : Group → Group) (s : State) : (modMe f s).grants = s.grants := rfl
@[simp] theorem modMe_binder (f : Group → Group) (s : State) : (modMe f s).binder = s.binder := rfl
@[simp] theorem modMe_platform (f : Group → Group) (s : State) : (modMe f s).platform = s.platform := rfl
@[simp] theorem modMe_boot (f : Group → Group) (s : State) : (modMe f s).boot = s.boot := rfl
@[simp] theorem modMe_tkey (f : Group → Group) (s : State) : (modMe f s).tkey = s.tkey := rfl
@[simp] theorem modMe_msix (f : Group → Group) (s : State) : (modMe f s).msix = s.msix := rfl
@[simp] theorem modMe_hubWrites (f : Group → Group) (s : State) : (modMe f s).hubWrites = s.hubWrites := rfl

@[simp] theorem modTeam_time (k : Nat) (f : Team → Team) (s : State) : (modTeam k f s).time = s.time := rfl
@[simp] theorem modTeam_phase (k : Nat) (f : Team → Team) (s : State) : (modTeam k f s).phase = s.phase := rfl
@[simp] theorem modTeam_cclk (k : Nat) (f : Team → Team) (s : State) : (modTeam k f s).cclk = s.cclk := rfl
@[simp] theorem modTeam_cur (k : Nat) (f : Team → Team) (s : State) : (modTeam k f s).cur = s.cur := rfl
@[simp] theorem modTeam_agenda (k : Nat) (f : Team → Team) (s : State) : (modTeam k f s).agenda = s.agenda := rfl
@[simp] theorem modTeam_free (k : Nat) (f : Team → Team) (s : State) : (modTeam k f s).free = s.free := rfl
@[simp] theorem modTeam_reply (k : Nat) (f : Team → Team) (s : State) : (modTeam k f s).reply = s.reply := rfl
@[simp] theorem modTeam_refillAt (k : Nat) (f : Team → Team) (s : State) : (modTeam k f s).refillAt = s.refillAt := rfl
@[simp] theorem modTeam_mem (k : Nat) (f : Team → Team) (s : State) : (modTeam k f s).mem = s.mem := rfl
@[simp] theorem modTeam_lineKey (k : Nat) (f : Team → Team) (s : State) : (modTeam k f s).lineKey = s.lineKey := rfl
@[simp] theorem modTeam_badLines (k : Nat) (f : Team → Team) (s : State) : (modTeam k f s).badLines = s.badLines := rfl
@[simp] theorem modTeam_groups (k : Nat) (f : Team → Team) (s : State) : (modTeam k f s).groups = s.groups := rfl
@[simp] theorem modTeam_launches (k : Nat) (f : Team → Team) (s : State) : (modTeam k f s).launches = s.launches := rfl
@[simp] theorem modTeam_nextLaunch (k : Nat) (f : Team → Team) (s : State) : (modTeam k f s).nextLaunch = s.nextLaunch := rfl
@[simp] theorem modTeam_nextTeam (k : Nat) (f : Team → Team) (s : State) : (modTeam k f s).nextTeam = s.nextTeam := rfl
@[simp] theorem modTeam_returns (k : Nat) (f : Team → Team) (s : State) : (modTeam k f s).returns = s.returns := rfl
@[simp] theorem modTeam_nextReturn (k : Nat) (f : Team → Team) (s : State) : (modTeam k f s).nextReturn = s.nextReturn := rfl
@[simp] theorem modTeam_copies (k : Nat) (f : Team → Team) (s : State) : (modTeam k f s).copies = s.copies := rfl
@[simp] theorem modTeam_nextCopy (k : Nat) (f : Team → Team) (s : State) : (modTeam k f s).nextCopy = s.nextCopy := rfl
@[simp] theorem modTeam_nextOrder (k : Nat) (f : Team → Team) (s : State) : (modTeam k f s).nextOrder = s.nextOrder := rfl
@[simp] theorem modTeam_nextSysc (k : Nat) (f : Team → Team) (s : State) : (modTeam k f s).nextSysc = s.nextSysc := rfl
@[simp] theorem modTeam_syscs (k : Nat) (f : Team → Team) (s : State) : (modTeam k f s).syscs = s.syscs := rfl
@[simp] theorem modTeam_cores (k : Nat) (f : Team → Team) (s : State) : (modTeam k f s).cores = s.cores := rfl
@[simp] theorem modTeam_dies (k : Nat) (f : Team → Team) (s : State) : (modTeam k f s).dies = s.dies := rfl
@[simp] theorem modTeam_vfs (k : Nat) (f : Team → Team) (s : State) : (modTeam k f s).vfs = s.vfs := rfl
@[simp] theorem modTeam_grants (k : Nat) (f : Team → Team) (s : State) : (modTeam k f s).grants = s.grants := rfl
@[simp] theorem modTeam_binder (k : Nat) (f : Team → Team) (s : State) : (modTeam k f s).binder = s.binder := rfl
@[simp] theorem modTeam_platform (k : Nat) (f : Team → Team) (s : State) : (modTeam k f s).platform = s.platform := rfl
@[simp] theorem modTeam_boot (k : Nat) (f : Team → Team) (s : State) : (modTeam k f s).boot = s.boot := rfl
@[simp] theorem modTeam_tkey (k : Nat) (f : Team → Team) (s : State) : (modTeam k f s).tkey = s.tkey := rfl
@[simp] theorem modTeam_msix (k : Nat) (f : Team → Team) (s : State) : (modTeam k f s).msix = s.msix := rfl
@[simp] theorem modTeam_hubWrites (k : Nat) (f : Team → Team) (s : State) : (modTeam k f s).hubWrites = s.hubWrites := rfl

@[simp] theorem modCore_time (c : Nat) (f : Core → Core) (s : State) : (modCore c f s).time = s.time := rfl
@[simp] theorem modCore_phase (c : Nat) (f : Core → Core) (s : State) : (modCore c f s).phase = s.phase := rfl
@[simp] theorem modCore_cclk (c : Nat) (f : Core → Core) (s : State) : (modCore c f s).cclk = s.cclk := rfl
@[simp] theorem modCore_cur (c : Nat) (f : Core → Core) (s : State) : (modCore c f s).cur = s.cur := rfl
@[simp] theorem modCore_agenda (c : Nat) (f : Core → Core) (s : State) : (modCore c f s).agenda = s.agenda := rfl
@[simp] theorem modCore_free (c : Nat) (f : Core → Core) (s : State) : (modCore c f s).free = s.free := rfl
@[simp] theorem modCore_reply (c : Nat) (f : Core → Core) (s : State) : (modCore c f s).reply = s.reply := rfl
@[simp] theorem modCore_refillAt (c : Nat) (f : Core → Core) (s : State) : (modCore c f s).refillAt = s.refillAt := rfl
@[simp] theorem modCore_mem (c : Nat) (f : Core → Core) (s : State) : (modCore c f s).mem = s.mem := rfl
@[simp] theorem modCore_lineKey (c : Nat) (f : Core → Core) (s : State) : (modCore c f s).lineKey = s.lineKey := rfl
@[simp] theorem modCore_badLines (c : Nat) (f : Core → Core) (s : State) : (modCore c f s).badLines = s.badLines := rfl
@[simp] theorem modCore_groups (c : Nat) (f : Core → Core) (s : State) : (modCore c f s).groups = s.groups := rfl
@[simp] theorem modCore_teams (c : Nat) (f : Core → Core) (s : State) : (modCore c f s).teams = s.teams := rfl
@[simp] theorem modCore_launches (c : Nat) (f : Core → Core) (s : State) : (modCore c f s).launches = s.launches := rfl
@[simp] theorem modCore_nextLaunch (c : Nat) (f : Core → Core) (s : State) : (modCore c f s).nextLaunch = s.nextLaunch := rfl
@[simp] theorem modCore_nextTeam (c : Nat) (f : Core → Core) (s : State) : (modCore c f s).nextTeam = s.nextTeam := rfl
@[simp] theorem modCore_returns (c : Nat) (f : Core → Core) (s : State) : (modCore c f s).returns = s.returns := rfl
@[simp] theorem modCore_nextReturn (c : Nat) (f : Core → Core) (s : State) : (modCore c f s).nextReturn = s.nextReturn := rfl
@[simp] theorem modCore_copies (c : Nat) (f : Core → Core) (s : State) : (modCore c f s).copies = s.copies := rfl
@[simp] theorem modCore_nextCopy (c : Nat) (f : Core → Core) (s : State) : (modCore c f s).nextCopy = s.nextCopy := rfl
@[simp] theorem modCore_nextOrder (c : Nat) (f : Core → Core) (s : State) : (modCore c f s).nextOrder = s.nextOrder := rfl
@[simp] theorem modCore_nextSysc (c : Nat) (f : Core → Core) (s : State) : (modCore c f s).nextSysc = s.nextSysc := rfl
@[simp] theorem modCore_syscs (c : Nat) (f : Core → Core) (s : State) : (modCore c f s).syscs = s.syscs := rfl
@[simp] theorem modCore_dies (c : Nat) (f : Core → Core) (s : State) : (modCore c f s).dies = s.dies := rfl
@[simp] theorem modCore_vfs (c : Nat) (f : Core → Core) (s : State) : (modCore c f s).vfs = s.vfs := rfl
@[simp] theorem modCore_grants (c : Nat) (f : Core → Core) (s : State) : (modCore c f s).grants = s.grants := rfl
@[simp] theorem modCore_binder (c : Nat) (f : Core → Core) (s : State) : (modCore c f s).binder = s.binder := rfl
@[simp] theorem modCore_platform (c : Nat) (f : Core → Core) (s : State) : (modCore c f s).platform = s.platform := rfl
@[simp] theorem modCore_boot (c : Nat) (f : Core → Core) (s : State) : (modCore c f s).boot = s.boot := rfl
@[simp] theorem modCore_tkey (c : Nat) (f : Core → Core) (s : State) : (modCore c f s).tkey = s.tkey := rfl
@[simp] theorem modCore_msix (c : Nat) (f : Core → Core) (s : State) : (modCore c f s).msix = s.msix := rfl
@[simp] theorem modCore_hubWrites (c : Nat) (f : Core → Core) (s : State) : (modCore c f s).hubWrites = s.hubWrites := rfl

@[simp] theorem modDie_time (d : Nat) (f : Die → Die) (s : State) : (modDie d f s).time = s.time := rfl
@[simp] theorem modDie_phase (d : Nat) (f : Die → Die) (s : State) : (modDie d f s).phase = s.phase := rfl
@[simp] theorem modDie_cclk (d : Nat) (f : Die → Die) (s : State) : (modDie d f s).cclk = s.cclk := rfl
@[simp] theorem modDie_cur (d : Nat) (f : Die → Die) (s : State) : (modDie d f s).cur = s.cur := rfl
@[simp] theorem modDie_agenda (d : Nat) (f : Die → Die) (s : State) : (modDie d f s).agenda = s.agenda := rfl
@[simp] theorem modDie_free (d : Nat) (f : Die → Die) (s : State) : (modDie d f s).free = s.free := rfl
@[simp] theorem modDie_reply (d : Nat) (f : Die → Die) (s : State) : (modDie d f s).reply = s.reply := rfl
@[simp] theorem modDie_refillAt (d : Nat) (f : Die → Die) (s : State) : (modDie d f s).refillAt = s.refillAt := rfl
@[simp] theorem modDie_mem (d : Nat) (f : Die → Die) (s : State) : (modDie d f s).mem = s.mem := rfl
@[simp] theorem modDie_lineKey (d : Nat) (f : Die → Die) (s : State) : (modDie d f s).lineKey = s.lineKey := rfl
@[simp] theorem modDie_badLines (d : Nat) (f : Die → Die) (s : State) : (modDie d f s).badLines = s.badLines := rfl
@[simp] theorem modDie_groups (d : Nat) (f : Die → Die) (s : State) : (modDie d f s).groups = s.groups := rfl
@[simp] theorem modDie_teams (d : Nat) (f : Die → Die) (s : State) : (modDie d f s).teams = s.teams := rfl
@[simp] theorem modDie_launches (d : Nat) (f : Die → Die) (s : State) : (modDie d f s).launches = s.launches := rfl
@[simp] theorem modDie_nextLaunch (d : Nat) (f : Die → Die) (s : State) : (modDie d f s).nextLaunch = s.nextLaunch := rfl
@[simp] theorem modDie_nextTeam (d : Nat) (f : Die → Die) (s : State) : (modDie d f s).nextTeam = s.nextTeam := rfl
@[simp] theorem modDie_returns (d : Nat) (f : Die → Die) (s : State) : (modDie d f s).returns = s.returns := rfl
@[simp] theorem modDie_nextReturn (d : Nat) (f : Die → Die) (s : State) : (modDie d f s).nextReturn = s.nextReturn := rfl
@[simp] theorem modDie_copies (d : Nat) (f : Die → Die) (s : State) : (modDie d f s).copies = s.copies := rfl
@[simp] theorem modDie_nextCopy (d : Nat) (f : Die → Die) (s : State) : (modDie d f s).nextCopy = s.nextCopy := rfl
@[simp] theorem modDie_nextOrder (d : Nat) (f : Die → Die) (s : State) : (modDie d f s).nextOrder = s.nextOrder := rfl
@[simp] theorem modDie_nextSysc (d : Nat) (f : Die → Die) (s : State) : (modDie d f s).nextSysc = s.nextSysc := rfl
@[simp] theorem modDie_syscs (d : Nat) (f : Die → Die) (s : State) : (modDie d f s).syscs = s.syscs := rfl
@[simp] theorem modDie_cores (d : Nat) (f : Die → Die) (s : State) : (modDie d f s).cores = s.cores := rfl
@[simp] theorem modDie_vfs (d : Nat) (f : Die → Die) (s : State) : (modDie d f s).vfs = s.vfs := rfl
@[simp] theorem modDie_grants (d : Nat) (f : Die → Die) (s : State) : (modDie d f s).grants = s.grants := rfl
@[simp] theorem modDie_binder (d : Nat) (f : Die → Die) (s : State) : (modDie d f s).binder = s.binder := rfl
@[simp] theorem modDie_platform (d : Nat) (f : Die → Die) (s : State) : (modDie d f s).platform = s.platform := rfl
@[simp] theorem modDie_boot (d : Nat) (f : Die → Die) (s : State) : (modDie d f s).boot = s.boot := rfl
@[simp] theorem modDie_tkey (d : Nat) (f : Die → Die) (s : State) : (modDie d f s).tkey = s.tkey := rfl
@[simp] theorem modDie_msix (d : Nat) (f : Die → Die) (s : State) : (modDie d f s).msix = s.msix := rfl
@[simp] theorem modDie_hubWrites (d : Nat) (f : Die → Die) (s : State) : (modDie d f s).hubWrites = s.hubWrites := rfl

@[simp] theorem modVf_time (v : Nat) (f : Vf → Vf) (s : State) : (modVf v f s).time = s.time := rfl
@[simp] theorem modVf_phase (v : Nat) (f : Vf → Vf) (s : State) : (modVf v f s).phase = s.phase := rfl
@[simp] theorem modVf_cclk (v : Nat) (f : Vf → Vf) (s : State) : (modVf v f s).cclk = s.cclk := rfl
@[simp] theorem modVf_cur (v : Nat) (f : Vf → Vf) (s : State) : (modVf v f s).cur = s.cur := rfl
@[simp] theorem modVf_agenda (v : Nat) (f : Vf → Vf) (s : State) : (modVf v f s).agenda = s.agenda := rfl
@[simp] theorem modVf_free (v : Nat) (f : Vf → Vf) (s : State) : (modVf v f s).free = s.free := rfl
@[simp] theorem modVf_reply (v : Nat) (f : Vf → Vf) (s : State) : (modVf v f s).reply = s.reply := rfl
@[simp] theorem modVf_refillAt (v : Nat) (f : Vf → Vf) (s : State) : (modVf v f s).refillAt = s.refillAt := rfl
@[simp] theorem modVf_mem (v : Nat) (f : Vf → Vf) (s : State) : (modVf v f s).mem = s.mem := rfl
@[simp] theorem modVf_lineKey (v : Nat) (f : Vf → Vf) (s : State) : (modVf v f s).lineKey = s.lineKey := rfl
@[simp] theorem modVf_badLines (v : Nat) (f : Vf → Vf) (s : State) : (modVf v f s).badLines = s.badLines := rfl
@[simp] theorem modVf_groups (v : Nat) (f : Vf → Vf) (s : State) : (modVf v f s).groups = s.groups := rfl
@[simp] theorem modVf_teams (v : Nat) (f : Vf → Vf) (s : State) : (modVf v f s).teams = s.teams := rfl
@[simp] theorem modVf_launches (v : Nat) (f : Vf → Vf) (s : State) : (modVf v f s).launches = s.launches := rfl
@[simp] theorem modVf_nextLaunch (v : Nat) (f : Vf → Vf) (s : State) : (modVf v f s).nextLaunch = s.nextLaunch := rfl
@[simp] theorem modVf_nextTeam (v : Nat) (f : Vf → Vf) (s : State) : (modVf v f s).nextTeam = s.nextTeam := rfl
@[simp] theorem modVf_returns (v : Nat) (f : Vf → Vf) (s : State) : (modVf v f s).returns = s.returns := rfl
@[simp] theorem modVf_nextReturn (v : Nat) (f : Vf → Vf) (s : State) : (modVf v f s).nextReturn = s.nextReturn := rfl
@[simp] theorem modVf_copies (v : Nat) (f : Vf → Vf) (s : State) : (modVf v f s).copies = s.copies := rfl
@[simp] theorem modVf_nextCopy (v : Nat) (f : Vf → Vf) (s : State) : (modVf v f s).nextCopy = s.nextCopy := rfl
@[simp] theorem modVf_nextOrder (v : Nat) (f : Vf → Vf) (s : State) : (modVf v f s).nextOrder = s.nextOrder := rfl
@[simp] theorem modVf_nextSysc (v : Nat) (f : Vf → Vf) (s : State) : (modVf v f s).nextSysc = s.nextSysc := rfl
@[simp] theorem modVf_syscs (v : Nat) (f : Vf → Vf) (s : State) : (modVf v f s).syscs = s.syscs := rfl
@[simp] theorem modVf_cores (v : Nat) (f : Vf → Vf) (s : State) : (modVf v f s).cores = s.cores := rfl
@[simp] theorem modVf_dies (v : Nat) (f : Vf → Vf) (s : State) : (modVf v f s).dies = s.dies := rfl
@[simp] theorem modVf_grants (v : Nat) (f : Vf → Vf) (s : State) : (modVf v f s).grants = s.grants := rfl
@[simp] theorem modVf_binder (v : Nat) (f : Vf → Vf) (s : State) : (modVf v f s).binder = s.binder := rfl
@[simp] theorem modVf_platform (v : Nat) (f : Vf → Vf) (s : State) : (modVf v f s).platform = s.platform := rfl
@[simp] theorem modVf_boot (v : Nat) (f : Vf → Vf) (s : State) : (modVf v f s).boot = s.boot := rfl
@[simp] theorem modVf_tkey (v : Nat) (f : Vf → Vf) (s : State) : (modVf v f s).tkey = s.tkey := rfl
@[simp] theorem modVf_msix (v : Nat) (f : Vf → Vf) (s : State) : (modVf v f s).msix = s.msix := rfl
@[simp] theorem modVf_hubWrites (v : Nat) (f : Vf → Vf) (s : State) : (modVf v f s).hubWrites = s.hubWrites := rfl

@[simp] theorem putS_time (n : Nat) (v : W64) (s : State) : (putS n v s).time = s.time := rfl
@[simp] theorem putS_phase (n : Nat) (v : W64) (s : State) : (putS n v s).phase = s.phase := rfl
@[simp] theorem putS_cclk (n : Nat) (v : W64) (s : State) : (putS n v s).cclk = s.cclk := rfl
@[simp] theorem putS_cur (n : Nat) (v : W64) (s : State) : (putS n v s).cur = s.cur := rfl
@[simp] theorem putS_agenda (n : Nat) (v : W64) (s : State) : (putS n v s).agenda = s.agenda := rfl
@[simp] theorem putS_free (n : Nat) (v : W64) (s : State) : (putS n v s).free = s.free := rfl
@[simp] theorem putS_reply (n : Nat) (v : W64) (s : State) : (putS n v s).reply = s.reply := rfl
@[simp] theorem putS_refillAt (n : Nat) (v : W64) (s : State) : (putS n v s).refillAt = s.refillAt := rfl
@[simp] theorem putS_mem (n : Nat) (v : W64) (s : State) : (putS n v s).mem = s.mem := rfl
@[simp] theorem putS_lineKey (n : Nat) (v : W64) (s : State) : (putS n v s).lineKey = s.lineKey := rfl
@[simp] theorem putS_badLines (n : Nat) (v : W64) (s : State) : (putS n v s).badLines = s.badLines := rfl
@[simp] theorem putS_teams (n : Nat) (v : W64) (s : State) : (putS n v s).teams = s.teams := rfl
@[simp] theorem putS_launches (n : Nat) (v : W64) (s : State) : (putS n v s).launches = s.launches := rfl
@[simp] theorem putS_nextLaunch (n : Nat) (v : W64) (s : State) : (putS n v s).nextLaunch = s.nextLaunch := rfl
@[simp] theorem putS_nextTeam (n : Nat) (v : W64) (s : State) : (putS n v s).nextTeam = s.nextTeam := rfl
@[simp] theorem putS_returns (n : Nat) (v : W64) (s : State) : (putS n v s).returns = s.returns := rfl
@[simp] theorem putS_nextReturn (n : Nat) (v : W64) (s : State) : (putS n v s).nextReturn = s.nextReturn := rfl
@[simp] theorem putS_copies (n : Nat) (v : W64) (s : State) : (putS n v s).copies = s.copies := rfl
@[simp] theorem putS_nextCopy (n : Nat) (v : W64) (s : State) : (putS n v s).nextCopy = s.nextCopy := rfl
@[simp] theorem putS_nextOrder (n : Nat) (v : W64) (s : State) : (putS n v s).nextOrder = s.nextOrder := rfl
@[simp] theorem putS_nextSysc (n : Nat) (v : W64) (s : State) : (putS n v s).nextSysc = s.nextSysc := rfl
@[simp] theorem putS_syscs (n : Nat) (v : W64) (s : State) : (putS n v s).syscs = s.syscs := rfl
@[simp] theorem putS_cores (n : Nat) (v : W64) (s : State) : (putS n v s).cores = s.cores := rfl
@[simp] theorem putS_dies (n : Nat) (v : W64) (s : State) : (putS n v s).dies = s.dies := rfl
@[simp] theorem putS_vfs (n : Nat) (v : W64) (s : State) : (putS n v s).vfs = s.vfs := rfl
@[simp] theorem putS_grants (n : Nat) (v : W64) (s : State) : (putS n v s).grants = s.grants := rfl
@[simp] theorem putS_binder (n : Nat) (v : W64) (s : State) : (putS n v s).binder = s.binder := rfl
@[simp] theorem putS_platform (n : Nat) (v : W64) (s : State) : (putS n v s).platform = s.platform := rfl
@[simp] theorem putS_boot (n : Nat) (v : W64) (s : State) : (putS n v s).boot = s.boot := rfl
@[simp] theorem putS_tkey (n : Nat) (v : W64) (s : State) : (putS n v s).tkey = s.tkey := rfl
@[simp] theorem putS_msix (n : Nat) (v : W64) (s : State) : (putS n v s).msix = s.msix := rfl
@[simp] theorem putS_hubWrites (n : Nat) (v : W64) (s : State) : (putS n v s).hubWrites = s.hubWrites := rfl

@[simp] theorem teamAt_setGroup (q : Nat) (g : Group) (s : State) (k : Nat) : teamAt (setGroup q g s) k = teamAt s k := rfl
@[simp] theorem coreAt_setGroup (q : Nat) (g : Group) (s : State) (k : Nat) : coreAt (setGroup q g s) k = coreAt s k := rfl
@[simp] theorem dieAt_setGroup (q : Nat) (g : Group) (s : State) (k : Nat) : dieAt (setGroup q g s) k = dieAt s k := rfl
@[simp] theorem vfAt_setGroup (q : Nat) (g : Group) (s : State) (k : Nat) : vfAt (setGroup q g s) k = vfAt s k := rfl
@[simp] theorem qid_setGroup (q : Nat) (g : Group) (s : State) : (setGroup q g s).qid = s.qid := rfl

@[simp] theorem teamAt_modGroup (q : Nat) (f : Group → Group) (s : State) (k : Nat) : teamAt (modGroup q f s) k = teamAt s k := rfl
@[simp] theorem coreAt_modGroup (q : Nat) (f : Group → Group) (s : State) (k : Nat) : coreAt (modGroup q f s) k = coreAt s k := rfl
@[simp] theorem dieAt_modGroup (q : Nat) (f : Group → Group) (s : State) (k : Nat) : dieAt (modGroup q f s) k = dieAt s k := rfl
@[simp] theorem vfAt_modGroup (q : Nat) (f : Group → Group) (s : State) (k : Nat) : vfAt (modGroup q f s) k = vfAt s k := rfl
@[simp] theorem qid_modGroup (q : Nat) (f : Group → Group) (s : State) : (modGroup q f s).qid = s.qid := rfl

@[simp] theorem teamAt_modMe (f : Group → Group) (s : State) (k : Nat) : teamAt (modMe f s) k = teamAt s k := rfl
@[simp] theorem coreAt_modMe (f : Group → Group) (s : State) (k : Nat) : coreAt (modMe f s) k = coreAt s k := rfl
@[simp] theorem dieAt_modMe (f : Group → Group) (s : State) (k : Nat) : dieAt (modMe f s) k = dieAt s k := rfl
@[simp] theorem vfAt_modMe (f : Group → Group) (s : State) (k : Nat) : vfAt (modMe f s) k = vfAt s k := rfl
@[simp] theorem qid_modMe (f : Group → Group) (s : State) : (modMe f s).qid = s.qid := rfl

@[simp] theorem groupAt_modTeam (k : Nat) (f : Team → Team) (s : State) (j : Nat) : groupAt (modTeam k f s) j = groupAt s j := rfl
@[simp] theorem coreAt_modTeam (k : Nat) (f : Team → Team) (s : State) (j : Nat) : coreAt (modTeam k f s) j = coreAt s j := rfl
@[simp] theorem dieAt_modTeam (k : Nat) (f : Team → Team) (s : State) (j : Nat) : dieAt (modTeam k f s) j = dieAt s j := rfl
@[simp] theorem vfAt_modTeam (k : Nat) (f : Team → Team) (s : State) (j : Nat) : vfAt (modTeam k f s) j = vfAt s j := rfl
@[simp] theorem qid_modTeam (k : Nat) (f : Team → Team) (s : State) : (modTeam k f s).qid = s.qid := rfl

@[simp] theorem groupAt_modCore (c : Nat) (f : Core → Core) (s : State) (k : Nat) : groupAt (modCore c f s) k = groupAt s k := rfl
@[simp] theorem teamAt_modCore (c : Nat) (f : Core → Core) (s : State) (k : Nat) : teamAt (modCore c f s) k = teamAt s k := rfl
@[simp] theorem dieAt_modCore (c : Nat) (f : Core → Core) (s : State) (k : Nat) : dieAt (modCore c f s) k = dieAt s k := rfl
@[simp] theorem vfAt_modCore (c : Nat) (f : Core → Core) (s : State) (k : Nat) : vfAt (modCore c f s) k = vfAt s k := rfl
@[simp] theorem qid_modCore (c : Nat) (f : Core → Core) (s : State) : (modCore c f s).qid = s.qid := rfl

@[simp] theorem groupAt_modDie (d : Nat) (f : Die → Die) (s : State) (k : Nat) : groupAt (modDie d f s) k = groupAt s k := rfl
@[simp] theorem teamAt_modDie (d : Nat) (f : Die → Die) (s : State) (k : Nat) : teamAt (modDie d f s) k = teamAt s k := rfl
@[simp] theorem coreAt_modDie (d : Nat) (f : Die → Die) (s : State) (k : Nat) : coreAt (modDie d f s) k = coreAt s k := rfl
@[simp] theorem vfAt_modDie (d : Nat) (f : Die → Die) (s : State) (k : Nat) : vfAt (modDie d f s) k = vfAt s k := rfl
@[simp] theorem qid_modDie (d : Nat) (f : Die → Die) (s : State) : (modDie d f s).qid = s.qid := rfl

@[simp] theorem groupAt_modVf (v : Nat) (f : Vf → Vf) (s : State) (k : Nat) : groupAt (modVf v f s) k = groupAt s k := rfl
@[simp] theorem teamAt_modVf (v : Nat) (f : Vf → Vf) (s : State) (k : Nat) : teamAt (modVf v f s) k = teamAt s k := rfl
@[simp] theorem coreAt_modVf (v : Nat) (f : Vf → Vf) (s : State) (k : Nat) : coreAt (modVf v f s) k = coreAt s k := rfl
@[simp] theorem dieAt_modVf (v : Nat) (f : Vf → Vf) (s : State) (k : Nat) : dieAt (modVf v f s) k = dieAt s k := rfl
@[simp] theorem qid_modVf (v : Nat) (f : Vf → Vf) (s : State) : (modVf v f s).qid = s.qid := rfl

@[simp] theorem teamAt_putS (n : Nat) (v : W64) (s : State) (k : Nat) : teamAt (putS n v s) k = teamAt s k := rfl
@[simp] theorem coreAt_putS (n : Nat) (v : W64) (s : State) (k : Nat) : coreAt (putS n v s) k = coreAt s k := rfl
@[simp] theorem dieAt_putS (n : Nat) (v : W64) (s : State) (k : Nat) : dieAt (putS n v s) k = dieAt s k := rfl
@[simp] theorem vfAt_putS (n : Nat) (v : W64) (s : State) (k : Nat) : vfAt (putS n v s) k = vfAt s k := rfl
@[simp] theorem qid_putS (n : Nat) (v : W64) (s : State) : (putS n v s).qid = s.qid := rfl

@[simp] theorem groupAt_modGroup_same (q : Nat) (f : Group → Group) (s : State) : groupAt (modGroup q f s) q = f (groupAt s q) := by simp [groupAt, modGroup, setGroup]
@[simp] theorem groupAt_modGroup_other (q : Nat) (f : Group → Group) (s : State) (j : Nat) (h : j ≠ q) : groupAt (modGroup q f s) j = groupAt s j := by simp [groupAt, modGroup, setGroup, h]
@[simp] theorem teamAt_modTeam_same (k : Nat) (f : Team → Team) (s : State) : teamAt (modTeam k f s) k = f (teamAt s k) := by simp [teamAt, modTeam]
@[simp] theorem teamAt_modTeam_other (k : Nat) (f : Team → Team) (s : State) (j : Nat) (h : j ≠ k) : teamAt (modTeam k f s) j = teamAt s j := by simp [teamAt, modTeam, h]
@[simp] theorem coreAt_modCore_same (c : Nat) (f : Core → Core) (s : State) : coreAt (modCore c f s) c = f (coreAt s c) := by simp [coreAt, modCore]
@[simp] theorem coreAt_modCore_other (c : Nat) (f : Core → Core) (s : State) (j : Nat) (h : j ≠ c) : coreAt (modCore c f s) j = coreAt s j := by simp [coreAt, modCore, h]
@[simp] theorem dieAt_modDie_same (d : Nat) (f : Die → Die) (s : State) : dieAt (modDie d f s) d = f (dieAt s d) := by simp [dieAt, modDie]
@[simp] theorem dieAt_modDie_other (d : Nat) (f : Die → Die) (s : State) (j : Nat) (h : j ≠ d) : dieAt (modDie d f s) j = dieAt s j := by simp [dieAt, modDie, h]
@[simp] theorem vfAt_modVf_same (v : Nat) (f : Vf → Vf) (s : State) : vfAt (modVf v f s) v = f (vfAt s v) := by simp [vfAt, modVf]
@[simp] theorem vfAt_modVf_other (v : Nat) (f : Vf → Vf) (s : State) (j : Nat) (h : j ≠ v) : vfAt (modVf v f s) j = vfAt s j := by simp [vfAt, modVf, h]
@[simp] theorem groupAt_setGroup_same (q : Nat) (g : Group) (s : State) : groupAt (setGroup q g s) q = g := by simp [groupAt, setGroup]
@[simp] theorem groupAt_setGroup_other (q : Nat) (g : Group) (s : State) (j : Nat) (h : j ≠ q) :
    groupAt (setGroup q g s) j = groupAt s j := by simp [groupAt, setGroup, h]
@[simp] theorem me_modMe (f : Group → Group) (s : State) : (modMe f s).me = f s.me := by simp [State.me, modMe, State.qid]
@[simp] theorem me_putS (n : Nat) (v : W64) (s : State) : (putS n v s).me = Group.writeS n v s.me := by simp [putS]
@[simp] theorem groupAt_modMe_other (f : Group → Group) (s : State) (j : Nat) (h : j ≠ s.qid) : groupAt (modMe f s) j = groupAt s j := by
  simp [modMe, h]

@[simp] theorem Group.writeS_st (n : Nat) (v : W64) (g : Group) : (Group.writeS n v g).st = g.st := by
  unfold Group.writeS; split <;> rfl
@[simp] theorem Group.writeS_vf (n : Nat) (v : W64) (g : Group) : (Group.writeS n v g).vf = g.vf := by
  unfold Group.writeS; split <;> rfl
@[simp] theorem Group.writeS_launch (n : Nat) (v : W64) (g : Group) : (Group.writeS n v g).launch = g.launch := by
  unfold Group.writeS; split <;> rfl
@[simp] theorem Group.writeS_team (n : Nat) (v : W64) (g : Group) : (Group.writeS n v g).team = g.team := by
  unfold Group.writeS; split <;> rfl
@[simp] theorem Group.writeS_index (n : Nat) (v : W64) (g : Group) : (Group.writeS n v g).index = g.index := by
  unfold Group.writeS; split <;> rfl
@[simp] theorem Group.writeS_gen (n : Nat) (v : W64) (g : Group) : (Group.writeS n v g).gen = g.gen := by
  unfold Group.writeS; split <;> rfl
@[simp] theorem Group.writeS_v (n : Nat) (v : W64) (g : Group) : (Group.writeS n v g).v = g.v := by
  unfold Group.writeS; split <;> rfl
@[simp] theorem Group.writeS_p (n : Nat) (v : W64) (g : Group) : (Group.writeS n v g).p = g.p := by
  unfold Group.writeS; split <;> rfl
@[simp] theorem Group.writeS_fullV (n : Nat) (v : W64) (g : Group) : (Group.writeS n v g).fullV = g.fullV := by
  unfold Group.writeS; split <;> rfl
@[simp] theorem Group.writeS_badV (n : Nat) (v : W64) (g : Group) : (Group.writeS n v g).badV = g.badV := by
  unfold Group.writeS; split <;> rfl
@[simp] theorem Group.writeS_markV (n : Nat) (v : W64) (g : Group) : (Group.writeS n v g).markV = g.markV := by
  unfold Group.writeS; split <;> rfl
@[simp] theorem Group.writeS_markS (n : Nat) (v : W64) (g : Group) : (Group.writeS n v g).markS = g.markS := by
  unfold Group.writeS; split <;> rfl
@[simp] theorem Group.writeS_cache (n : Nat) (v : W64) (g : Group) : (Group.writeS n v g).cache = g.cache := by
  unfold Group.writeS; split <;> rfl
@[simp] theorem Group.writeS_mode (n : Nat) (v : W64) (g : Group) : (Group.writeS n v g).mode = g.mode := by
  unfold Group.writeS; split <;> rfl
@[simp] theorem Group.writeS_fill (n : Nat) (v : W64) (g : Group) : (Group.writeS n v g).fill = g.fill := by
  unfold Group.writeS; split <;> rfl
@[simp] theorem Group.writeS_fpstat (n : Nat) (v : W64) (g : Group) : (Group.writeS n v g).fpstat = g.fpstat := by
  unfold Group.writeS; split <;> rfl
@[simp] theorem Group.writeS_seed (n : Nat) (v : W64) (g : Group) : (Group.writeS n v g).seed = g.seed := by
  unfold Group.writeS; split <;> rfl
@[simp] theorem Group.writeS_tvec (n : Nat) (v : W64) (g : Group) : (Group.writeS n v g).tvec = g.tvec := by
  unfold Group.writeS; split <;> rfl
@[simp] theorem Group.writeS_tcode (n : Nat) (v : W64) (g : Group) : (Group.writeS n v g).tcode = g.tcode := by
  unfold Group.writeS; split <;> rfl
@[simp] theorem Group.writeS_tpc (n : Nat) (v : W64) (g : Group) : (Group.writeS n v g).tpc = g.tpc := by
  unfold Group.writeS; split <;> rfl
@[simp] theorem Group.writeS_tinfo (n : Nat) (v : W64) (g : Group) : (Group.writeS n v g).tinfo = g.tinfo := by
  unfold Group.writeS; split <;> rfl
@[simp] theorem Group.writeS_trep (n : Nat) (v : W64) (g : Group) : (Group.writeS n v g).trep = g.trep := by
  unfold Group.writeS; split <;> rfl
@[simp] theorem Group.writeS_dvec (n : Nat) (v : W64) (g : Group) : (Group.writeS n v g).dvec = g.dvec := by
  unfold Group.writeS; split <;> rfl
@[simp] theorem Group.writeS_pvec (n : Nat) (v : W64) (g : Group) : (Group.writeS n v g).pvec = g.pvec := by
  unfold Group.writeS; split <;> rfl
@[simp] theorem Group.writeS_pact (n : Nat) (v : W64) (g : Group) : (Group.writeS n v g).pact = g.pact := by
  unfold Group.writeS; split <;> rfl
@[simp] theorem Group.writeS_dact (n : Nat) (v : W64) (g : Group) : (Group.writeS n v g).dact = g.dact := by
  unfold Group.writeS; split <;> rfl
@[simp] theorem Group.writeS_hact (n : Nat) (v : W64) (g : Group) : (Group.writeS n v g).hact = g.hact := by
  unfold Group.writeS; split <;> rfl
@[simp] theorem Group.writeS_level (n : Nat) (v : W64) (g : Group) : (Group.writeS n v g).level = g.level := by
  unfold Group.writeS; split <;> rfl
@[simp] theorem Group.writeS_laneBase (n : Nat) (v : W64) (g : Group) : (Group.writeS n v g).laneBase = g.laneBase := by
  unfold Group.writeS; split <;> rfl
@[simp] theorem Group.writeS_pc (n : Nat) (v : W64) (g : Group) : (Group.writeS n v g).pc = g.pc := by
  unfold Group.writeS; split <;> rfl
@[simp] theorem Group.writeS_slots (n : Nat) (v : W64) (g : Group) : (Group.writeS n v g).slots = g.slots := by
  unfold Group.writeS; split <;> rfl
@[simp] theorem Group.writeS_rep (n : Nat) (v : W64) (g : Group) : (Group.writeS n v g).rep = g.rep := by
  unfold Group.writeS; split <;> rfl
@[simp] theorem Group.writeS_repResume (n : Nat) (v : W64) (g : Group) : (Group.writeS n v g).repResume = g.repResume := by
  unfold Group.writeS; split <;> rfl
@[simp] theorem Group.writeS_barHalf (n : Nat) (v : W64) (g : Group) : (Group.writeS n v g).barHalf = g.barHalf := by
  unfold Group.writeS; split <;> rfl
@[simp] theorem Group.writeS_hint (n : Nat) (v : W64) (g : Group) : (Group.writeS n v g).hint = g.hint := by
  unfold Group.writeS; split <;> rfl
@[simp] theorem Group.writeS_loop (n : Nat) (v : W64) (g : Group) : (Group.writeS n v g).loop = g.loop := by
  unfold Group.writeS; split <;> rfl
@[simp] theorem Group.writeS_openBatch (n : Nat) (v : W64) (g : Group) : (Group.writeS n v g).openBatch = g.openBatch := by
  unfold Group.writeS; split <;> rfl
@[simp] theorem Group.writeS_batches (n : Nat) (v : W64) (g : Group) : (Group.writeS n v g).batches = g.batches := by
  unfold Group.writeS; split <;> rfl
@[simp] theorem Group.writeS_rwin (n : Nat) (v : W64) (g : Group) : (Group.writeS n v g).rwin = g.rwin := by
  unfold Group.writeS; split <;> rfl
@[simp] theorem Group.writeS_batchErr (n : Nat) (v : W64) (g : Group) : (Group.writeS n v g).batchErr = g.batchErr := by
  unfold Group.writeS; split <;> rfl
@[simp] theorem Group.writeS_bars (n : Nat) (v : W64) (g : Group) : (Group.writeS n v g).bars = g.bars := by
  unfold Group.writeS; split <;> rfl
@[simp] theorem Group.writeS_ports (n : Nat) (v : W64) (g : Group) : (Group.writeS n v g).ports = g.ports := by
  unfold Group.writeS; split <;> rfl
@[simp] theorem Group.writeS_sysc (n : Nat) (v : W64) (g : Group) : (Group.writeS n v g).sysc = g.sysc := by
  unfold Group.writeS; split <;> rfl
@[simp] theorem Group.writeS_halt (n : Nat) (v : W64) (g : Group) : (Group.writeS n v g).halt = g.halt := by
  unfold Group.writeS; split <;> rfl
@[simp] theorem Group.writeS_stopReq (n : Nat) (v : W64) (g : Group) : (Group.writeS n v g).stopReq = g.stopReq := by
  unfold Group.writeS; split <;> rfl
@[simp] theorem Group.writeS_haltReq (n : Nat) (v : W64) (g : Group) : (Group.writeS n v g).haltReq = g.haltReq := by
  unfold Group.writeS; split <;> rfl
@[simp] theorem Group.writeS_step (n : Nat) (v : W64) (g : Group) : (Group.writeS n v g).step = g.step := by
  unfold Group.writeS; split <;> rfl
@[simp] theorem Group.writeS_suppress (n : Nat) (v : W64) (g : Group) : (Group.writeS n v g).suppress = g.suppress := by
  unfold Group.writeS; split <;> rfl
@[simp] theorem Group.writeS_coopBlock (n : Nat) (v : W64) (g : Group) : (Group.writeS n v g).coopBlock = g.coopBlock := by
  unfold Group.writeS; split <;> rfl
@[simp] theorem Group.writeS_saved (n : Nat) (v : W64) (g : Group) : (Group.writeS n v g).saved = g.saved := by
  unfold Group.writeS; split <;> rfl
@[simp] theorem Group.writeS_stageAddr (n : Nat) (v : W64) (g : Group) : (Group.writeS n v g).stageAddr = g.stageAddr := by
  unfold Group.writeS; split <;> rfl
@[simp] theorem Group.writeS_stageLeft (n : Nat) (v : W64) (g : Group) : (Group.writeS n v g).stageLeft = g.stageLeft := by
  unfold Group.writeS; split <;> rfl
@[simp] theorem Group.writeS_syscDest (n : Nat) (v : W64) (g : Group) : (Group.writeS n v g).syscDest = g.syscDest := by
  unfold Group.writeS; split <;> rfl
@[simp] theorem Group.writeS_blocked (n : Nat) (v : W64) (g : Group) : (Group.writeS n v g).blocked = g.blocked := by
  unfold Group.writeS; split <;> rfl
@[simp] theorem Group.writeS_blockedAt (n : Nat) (v : W64) (g : Group) : (Group.writeS n v g).blockedAt = g.blockedAt := by
  unfold Group.writeS; split <;> rfl
@[simp] theorem Group.writeS_failPages (n : Nat) (v : W64) (g : Group) : (Group.writeS n v g).failPages = g.failPages := by
  unfold Group.writeS; split <;> rfl
@[simp] theorem Group.writeS_active (n : Nat) (v : W64) (g : Group) : (Group.writeS n v g).active = g.active := by
  unfold Group.writeS; split <;> rfl
@[simp] theorem Group.writeS_lastIssue (n : Nat) (v : W64) (g : Group) : (Group.writeS n v g).lastIssue = g.lastIssue := by
  unfold Group.writeS; split <;> rfl
@[simp] theorem Group.writeS_readyAt (n : Nat) (v : W64) (g : Group) : (Group.writeS n v g).readyAt = g.readyAt := by
  unfold Group.writeS; split <;> rfl
@[simp] theorem Group.writeS_yieldedAt (n : Nat) (v : W64) (g : Group) : (Group.writeS n v g).yieldedAt = g.yieldedAt := by
  unfold Group.writeS; split <;> rfl
@[simp] theorem Group.writeS_notBefore (n : Nat) (v : W64) (g : Group) : (Group.writeS n v g).notBefore = g.notBefore := by
  unfold Group.writeS; split <;> rfl
@[simp] theorem Group.writeS_giveWay (n : Nat) (v : W64) (g : Group) : (Group.writeS n v g).giveWay = g.giveWay := by
  unfold Group.writeS; split <;> rfl
@[simp] theorem Group.writeS_aged (n : Nat) (v : W64) (g : Group) : (Group.writeS n v g).aged = g.aged := by
  unfold Group.writeS; split <;> rfl

@[simp] theorem Group.emptyS_st (n : Nat) (g : Group) : (Group.emptyS n g).st = g.st := by
  unfold Group.emptyS; split <;> rfl
@[simp] theorem Group.emptyS_vf (n : Nat) (g : Group) : (Group.emptyS n g).vf = g.vf := by
  unfold Group.emptyS; split <;> rfl
@[simp] theorem Group.emptyS_launch (n : Nat) (g : Group) : (Group.emptyS n g).launch = g.launch := by
  unfold Group.emptyS; split <;> rfl
@[simp] theorem Group.emptyS_team (n : Nat) (g : Group) : (Group.emptyS n g).team = g.team := by
  unfold Group.emptyS; split <;> rfl
@[simp] theorem Group.emptyS_index (n : Nat) (g : Group) : (Group.emptyS n g).index = g.index := by
  unfold Group.emptyS; split <;> rfl
@[simp] theorem Group.emptyS_gen (n : Nat) (g : Group) : (Group.emptyS n g).gen = g.gen := by
  unfold Group.emptyS; split <;> rfl
@[simp] theorem Group.emptyS_s (n : Nat) (g : Group) : (Group.emptyS n g).s = g.s := by
  unfold Group.emptyS; split <;> rfl
@[simp] theorem Group.emptyS_v (n : Nat) (g : Group) : (Group.emptyS n g).v = g.v := by
  unfold Group.emptyS; split <;> rfl
@[simp] theorem Group.emptyS_p (n : Nat) (g : Group) : (Group.emptyS n g).p = g.p := by
  unfold Group.emptyS; split <;> rfl
@[simp] theorem Group.emptyS_fullV (n : Nat) (g : Group) : (Group.emptyS n g).fullV = g.fullV := by
  unfold Group.emptyS; split <;> rfl
@[simp] theorem Group.emptyS_badV (n : Nat) (g : Group) : (Group.emptyS n g).badV = g.badV := by
  unfold Group.emptyS; split <;> rfl
@[simp] theorem Group.emptyS_markV (n : Nat) (g : Group) : (Group.emptyS n g).markV = g.markV := by
  unfold Group.emptyS; split <;> rfl
@[simp] theorem Group.emptyS_markS (n : Nat) (g : Group) : (Group.emptyS n g).markS = g.markS := by
  unfold Group.emptyS; split <;> rfl
@[simp] theorem Group.emptyS_cache (n : Nat) (g : Group) : (Group.emptyS n g).cache = g.cache := by
  unfold Group.emptyS; split <;> rfl
@[simp] theorem Group.emptyS_mode (n : Nat) (g : Group) : (Group.emptyS n g).mode = g.mode := by
  unfold Group.emptyS; split <;> rfl
@[simp] theorem Group.emptyS_fill (n : Nat) (g : Group) : (Group.emptyS n g).fill = g.fill := by
  unfold Group.emptyS; split <;> rfl
@[simp] theorem Group.emptyS_fpstat (n : Nat) (g : Group) : (Group.emptyS n g).fpstat = g.fpstat := by
  unfold Group.emptyS; split <;> rfl
@[simp] theorem Group.emptyS_seed (n : Nat) (g : Group) : (Group.emptyS n g).seed = g.seed := by
  unfold Group.emptyS; split <;> rfl
@[simp] theorem Group.emptyS_tvec (n : Nat) (g : Group) : (Group.emptyS n g).tvec = g.tvec := by
  unfold Group.emptyS; split <;> rfl
@[simp] theorem Group.emptyS_tcode (n : Nat) (g : Group) : (Group.emptyS n g).tcode = g.tcode := by
  unfold Group.emptyS; split <;> rfl
@[simp] theorem Group.emptyS_tpc (n : Nat) (g : Group) : (Group.emptyS n g).tpc = g.tpc := by
  unfold Group.emptyS; split <;> rfl
@[simp] theorem Group.emptyS_tinfo (n : Nat) (g : Group) : (Group.emptyS n g).tinfo = g.tinfo := by
  unfold Group.emptyS; split <;> rfl
@[simp] theorem Group.emptyS_trep (n : Nat) (g : Group) : (Group.emptyS n g).trep = g.trep := by
  unfold Group.emptyS; split <;> rfl
@[simp] theorem Group.emptyS_dvec (n : Nat) (g : Group) : (Group.emptyS n g).dvec = g.dvec := by
  unfold Group.emptyS; split <;> rfl
@[simp] theorem Group.emptyS_pvec (n : Nat) (g : Group) : (Group.emptyS n g).pvec = g.pvec := by
  unfold Group.emptyS; split <;> rfl
@[simp] theorem Group.emptyS_pact (n : Nat) (g : Group) : (Group.emptyS n g).pact = g.pact := by
  unfold Group.emptyS; split <;> rfl
@[simp] theorem Group.emptyS_dact (n : Nat) (g : Group) : (Group.emptyS n g).dact = g.dact := by
  unfold Group.emptyS; split <;> rfl
@[simp] theorem Group.emptyS_hact (n : Nat) (g : Group) : (Group.emptyS n g).hact = g.hact := by
  unfold Group.emptyS; split <;> rfl
@[simp] theorem Group.emptyS_level (n : Nat) (g : Group) : (Group.emptyS n g).level = g.level := by
  unfold Group.emptyS; split <;> rfl
@[simp] theorem Group.emptyS_laneBase (n : Nat) (g : Group) : (Group.emptyS n g).laneBase = g.laneBase := by
  unfold Group.emptyS; split <;> rfl
@[simp] theorem Group.emptyS_pc (n : Nat) (g : Group) : (Group.emptyS n g).pc = g.pc := by
  unfold Group.emptyS; split <;> rfl
@[simp] theorem Group.emptyS_slots (n : Nat) (g : Group) : (Group.emptyS n g).slots = g.slots := by
  unfold Group.emptyS; split <;> rfl
@[simp] theorem Group.emptyS_rep (n : Nat) (g : Group) : (Group.emptyS n g).rep = g.rep := by
  unfold Group.emptyS; split <;> rfl
@[simp] theorem Group.emptyS_repResume (n : Nat) (g : Group) : (Group.emptyS n g).repResume = g.repResume := by
  unfold Group.emptyS; split <;> rfl
@[simp] theorem Group.emptyS_barHalf (n : Nat) (g : Group) : (Group.emptyS n g).barHalf = g.barHalf := by
  unfold Group.emptyS; split <;> rfl
@[simp] theorem Group.emptyS_hint (n : Nat) (g : Group) : (Group.emptyS n g).hint = g.hint := by
  unfold Group.emptyS; split <;> rfl
@[simp] theorem Group.emptyS_loop (n : Nat) (g : Group) : (Group.emptyS n g).loop = g.loop := by
  unfold Group.emptyS; split <;> rfl
@[simp] theorem Group.emptyS_openBatch (n : Nat) (g : Group) : (Group.emptyS n g).openBatch = g.openBatch := by
  unfold Group.emptyS; split <;> rfl
@[simp] theorem Group.emptyS_batches (n : Nat) (g : Group) : (Group.emptyS n g).batches = g.batches := by
  unfold Group.emptyS; split <;> rfl
@[simp] theorem Group.emptyS_rwin (n : Nat) (g : Group) : (Group.emptyS n g).rwin = g.rwin := by
  unfold Group.emptyS; split <;> rfl
@[simp] theorem Group.emptyS_batchErr (n : Nat) (g : Group) : (Group.emptyS n g).batchErr = g.batchErr := by
  unfold Group.emptyS; split <;> rfl
@[simp] theorem Group.emptyS_bars (n : Nat) (g : Group) : (Group.emptyS n g).bars = g.bars := by
  unfold Group.emptyS; split <;> rfl
@[simp] theorem Group.emptyS_ports (n : Nat) (g : Group) : (Group.emptyS n g).ports = g.ports := by
  unfold Group.emptyS; split <;> rfl
@[simp] theorem Group.emptyS_sysc (n : Nat) (g : Group) : (Group.emptyS n g).sysc = g.sysc := by
  unfold Group.emptyS; split <;> rfl
@[simp] theorem Group.emptyS_halt (n : Nat) (g : Group) : (Group.emptyS n g).halt = g.halt := by
  unfold Group.emptyS; split <;> rfl
@[simp] theorem Group.emptyS_stopReq (n : Nat) (g : Group) : (Group.emptyS n g).stopReq = g.stopReq := by
  unfold Group.emptyS; split <;> rfl
@[simp] theorem Group.emptyS_haltReq (n : Nat) (g : Group) : (Group.emptyS n g).haltReq = g.haltReq := by
  unfold Group.emptyS; split <;> rfl
@[simp] theorem Group.emptyS_step (n : Nat) (g : Group) : (Group.emptyS n g).step = g.step := by
  unfold Group.emptyS; split <;> rfl
@[simp] theorem Group.emptyS_suppress (n : Nat) (g : Group) : (Group.emptyS n g).suppress = g.suppress := by
  unfold Group.emptyS; split <;> rfl
@[simp] theorem Group.emptyS_coopBlock (n : Nat) (g : Group) : (Group.emptyS n g).coopBlock = g.coopBlock := by
  unfold Group.emptyS; split <;> rfl
@[simp] theorem Group.emptyS_saved (n : Nat) (g : Group) : (Group.emptyS n g).saved = g.saved := by
  unfold Group.emptyS; split <;> rfl
@[simp] theorem Group.emptyS_stageAddr (n : Nat) (g : Group) : (Group.emptyS n g).stageAddr = g.stageAddr := by
  unfold Group.emptyS; split <;> rfl
@[simp] theorem Group.emptyS_stageLeft (n : Nat) (g : Group) : (Group.emptyS n g).stageLeft = g.stageLeft := by
  unfold Group.emptyS; split <;> rfl
@[simp] theorem Group.emptyS_syscDest (n : Nat) (g : Group) : (Group.emptyS n g).syscDest = g.syscDest := by
  unfold Group.emptyS; split <;> rfl
@[simp] theorem Group.emptyS_blocked (n : Nat) (g : Group) : (Group.emptyS n g).blocked = g.blocked := by
  unfold Group.emptyS; split <;> rfl
@[simp] theorem Group.emptyS_blockedAt (n : Nat) (g : Group) : (Group.emptyS n g).blockedAt = g.blockedAt := by
  unfold Group.emptyS; split <;> rfl
@[simp] theorem Group.emptyS_failPages (n : Nat) (g : Group) : (Group.emptyS n g).failPages = g.failPages := by
  unfold Group.emptyS; split <;> rfl
@[simp] theorem Group.emptyS_active (n : Nat) (g : Group) : (Group.emptyS n g).active = g.active := by
  unfold Group.emptyS; split <;> rfl
@[simp] theorem Group.emptyS_lastIssue (n : Nat) (g : Group) : (Group.emptyS n g).lastIssue = g.lastIssue := by
  unfold Group.emptyS; split <;> rfl
@[simp] theorem Group.emptyS_readyAt (n : Nat) (g : Group) : (Group.emptyS n g).readyAt = g.readyAt := by
  unfold Group.emptyS; split <;> rfl
@[simp] theorem Group.emptyS_yieldedAt (n : Nat) (g : Group) : (Group.emptyS n g).yieldedAt = g.yieldedAt := by
  unfold Group.emptyS; split <;> rfl
@[simp] theorem Group.emptyS_notBefore (n : Nat) (g : Group) : (Group.emptyS n g).notBefore = g.notBefore := by
  unfold Group.emptyS; split <;> rfl
@[simp] theorem Group.emptyS_giveWay (n : Nat) (g : Group) : (Group.emptyS n g).giveWay = g.giveWay := by
  unfold Group.emptyS; split <;> rfl
@[simp] theorem Group.emptyS_aged (n : Nat) (g : Group) : (Group.emptyS n g).aged = g.aged := by
  unfold Group.emptyS; split <;> rfl

@[simp] theorem Group.emptyV_st (n : Nat) (g : Group) : (Group.emptyV n g).st = g.st := rfl
@[simp] theorem Group.emptyV_vf (n : Nat) (g : Group) : (Group.emptyV n g).vf = g.vf := rfl
@[simp] theorem Group.emptyV_launch (n : Nat) (g : Group) : (Group.emptyV n g).launch = g.launch := rfl
@[simp] theorem Group.emptyV_team (n : Nat) (g : Group) : (Group.emptyV n g).team = g.team := rfl
@[simp] theorem Group.emptyV_index (n : Nat) (g : Group) : (Group.emptyV n g).index = g.index := rfl
@[simp] theorem Group.emptyV_gen (n : Nat) (g : Group) : (Group.emptyV n g).gen = g.gen := rfl
@[simp] theorem Group.emptyV_s (n : Nat) (g : Group) : (Group.emptyV n g).s = g.s := rfl
@[simp] theorem Group.emptyV_v (n : Nat) (g : Group) : (Group.emptyV n g).v = g.v := rfl
@[simp] theorem Group.emptyV_p (n : Nat) (g : Group) : (Group.emptyV n g).p = g.p := rfl
@[simp] theorem Group.emptyV_fullS (n : Nat) (g : Group) : (Group.emptyV n g).fullS = g.fullS := rfl
@[simp] theorem Group.emptyV_badS (n : Nat) (g : Group) : (Group.emptyV n g).badS = g.badS := rfl
@[simp] theorem Group.emptyV_badV (n : Nat) (g : Group) : (Group.emptyV n g).badV = g.badV := rfl
@[simp] theorem Group.emptyV_markV (n : Nat) (g : Group) : (Group.emptyV n g).markV = g.markV := rfl
@[simp] theorem Group.emptyV_markS (n : Nat) (g : Group) : (Group.emptyV n g).markS = g.markS := rfl
@[simp] theorem Group.emptyV_cache (n : Nat) (g : Group) : (Group.emptyV n g).cache = g.cache := rfl
@[simp] theorem Group.emptyV_mode (n : Nat) (g : Group) : (Group.emptyV n g).mode = g.mode := rfl
@[simp] theorem Group.emptyV_fill (n : Nat) (g : Group) : (Group.emptyV n g).fill = g.fill := rfl
@[simp] theorem Group.emptyV_fpstat (n : Nat) (g : Group) : (Group.emptyV n g).fpstat = g.fpstat := rfl
@[simp] theorem Group.emptyV_seed (n : Nat) (g : Group) : (Group.emptyV n g).seed = g.seed := rfl
@[simp] theorem Group.emptyV_tvec (n : Nat) (g : Group) : (Group.emptyV n g).tvec = g.tvec := rfl
@[simp] theorem Group.emptyV_tcode (n : Nat) (g : Group) : (Group.emptyV n g).tcode = g.tcode := rfl
@[simp] theorem Group.emptyV_tpc (n : Nat) (g : Group) : (Group.emptyV n g).tpc = g.tpc := rfl
@[simp] theorem Group.emptyV_tinfo (n : Nat) (g : Group) : (Group.emptyV n g).tinfo = g.tinfo := rfl
@[simp] theorem Group.emptyV_trep (n : Nat) (g : Group) : (Group.emptyV n g).trep = g.trep := rfl
@[simp] theorem Group.emptyV_dvec (n : Nat) (g : Group) : (Group.emptyV n g).dvec = g.dvec := rfl
@[simp] theorem Group.emptyV_pvec (n : Nat) (g : Group) : (Group.emptyV n g).pvec = g.pvec := rfl
@[simp] theorem Group.emptyV_pact (n : Nat) (g : Group) : (Group.emptyV n g).pact = g.pact := rfl
@[simp] theorem Group.emptyV_dact (n : Nat) (g : Group) : (Group.emptyV n g).dact = g.dact := rfl
@[simp] theorem Group.emptyV_hact (n : Nat) (g : Group) : (Group.emptyV n g).hact = g.hact := rfl
@[simp] theorem Group.emptyV_level (n : Nat) (g : Group) : (Group.emptyV n g).level = g.level := rfl
@[simp] theorem Group.emptyV_laneBase (n : Nat) (g : Group) : (Group.emptyV n g).laneBase = g.laneBase := rfl
@[simp] theorem Group.emptyV_pc (n : Nat) (g : Group) : (Group.emptyV n g).pc = g.pc := rfl
@[simp] theorem Group.emptyV_slots (n : Nat) (g : Group) : (Group.emptyV n g).slots = g.slots := rfl
@[simp] theorem Group.emptyV_rep (n : Nat) (g : Group) : (Group.emptyV n g).rep = g.rep := rfl
@[simp] theorem Group.emptyV_repResume (n : Nat) (g : Group) : (Group.emptyV n g).repResume = g.repResume := rfl
@[simp] theorem Group.emptyV_barHalf (n : Nat) (g : Group) : (Group.emptyV n g).barHalf = g.barHalf := rfl
@[simp] theorem Group.emptyV_hint (n : Nat) (g : Group) : (Group.emptyV n g).hint = g.hint := rfl
@[simp] theorem Group.emptyV_loop (n : Nat) (g : Group) : (Group.emptyV n g).loop = g.loop := rfl
@[simp] theorem Group.emptyV_openBatch (n : Nat) (g : Group) : (Group.emptyV n g).openBatch = g.openBatch := rfl
@[simp] theorem Group.emptyV_batches (n : Nat) (g : Group) : (Group.emptyV n g).batches = g.batches := rfl
@[simp] theorem Group.emptyV_rwin (n : Nat) (g : Group) : (Group.emptyV n g).rwin = g.rwin := rfl
@[simp] theorem Group.emptyV_batchErr (n : Nat) (g : Group) : (Group.emptyV n g).batchErr = g.batchErr := rfl
@[simp] theorem Group.emptyV_bars (n : Nat) (g : Group) : (Group.emptyV n g).bars = g.bars := rfl
@[simp] theorem Group.emptyV_ports (n : Nat) (g : Group) : (Group.emptyV n g).ports = g.ports := rfl
@[simp] theorem Group.emptyV_sysc (n : Nat) (g : Group) : (Group.emptyV n g).sysc = g.sysc := rfl
@[simp] theorem Group.emptyV_halt (n : Nat) (g : Group) : (Group.emptyV n g).halt = g.halt := rfl
@[simp] theorem Group.emptyV_stopReq (n : Nat) (g : Group) : (Group.emptyV n g).stopReq = g.stopReq := rfl
@[simp] theorem Group.emptyV_haltReq (n : Nat) (g : Group) : (Group.emptyV n g).haltReq = g.haltReq := rfl
@[simp] theorem Group.emptyV_step (n : Nat) (g : Group) : (Group.emptyV n g).step = g.step := rfl
@[simp] theorem Group.emptyV_suppress (n : Nat) (g : Group) : (Group.emptyV n g).suppress = g.suppress := rfl
@[simp] theorem Group.emptyV_coopBlock (n : Nat) (g : Group) : (Group.emptyV n g).coopBlock = g.coopBlock := rfl
@[simp] theorem Group.emptyV_saved (n : Nat) (g : Group) : (Group.emptyV n g).saved = g.saved := rfl
@[simp] theorem Group.emptyV_stageAddr (n : Nat) (g : Group) : (Group.emptyV n g).stageAddr = g.stageAddr := rfl
@[simp] theorem Group.emptyV_stageLeft (n : Nat) (g : Group) : (Group.emptyV n g).stageLeft = g.stageLeft := rfl
@[simp] theorem Group.emptyV_syscDest (n : Nat) (g : Group) : (Group.emptyV n g).syscDest = g.syscDest := rfl
@[simp] theorem Group.emptyV_blocked (n : Nat) (g : Group) : (Group.emptyV n g).blocked = g.blocked := rfl
@[simp] theorem Group.emptyV_blockedAt (n : Nat) (g : Group) : (Group.emptyV n g).blockedAt = g.blockedAt := rfl
@[simp] theorem Group.emptyV_failPages (n : Nat) (g : Group) : (Group.emptyV n g).failPages = g.failPages := rfl
@[simp] theorem Group.emptyV_active (n : Nat) (g : Group) : (Group.emptyV n g).active = g.active := rfl
@[simp] theorem Group.emptyV_lastIssue (n : Nat) (g : Group) : (Group.emptyV n g).lastIssue = g.lastIssue := rfl
@[simp] theorem Group.emptyV_readyAt (n : Nat) (g : Group) : (Group.emptyV n g).readyAt = g.readyAt := rfl
@[simp] theorem Group.emptyV_yieldedAt (n : Nat) (g : Group) : (Group.emptyV n g).yieldedAt = g.yieldedAt := rfl
@[simp] theorem Group.emptyV_notBefore (n : Nat) (g : Group) : (Group.emptyV n g).notBefore = g.notBefore := rfl
@[simp] theorem Group.emptyV_giveWay (n : Nat) (g : Group) : (Group.emptyV n g).giveWay = g.giveWay := rfl
@[simp] theorem Group.emptyV_aged (n : Nat) (g : Group) : (Group.emptyV n g).aged = g.aged := rfl

@[simp] theorem Group.writePraw_st (n : Nat) (v : W32) (g : Group) : (Group.writePraw n v g).st = g.st := by
  unfold Group.writePraw; split <;> rfl
@[simp] theorem Group.writePraw_vf (n : Nat) (v : W32) (g : Group) : (Group.writePraw n v g).vf = g.vf := by
  unfold Group.writePraw; split <;> rfl
@[simp] theorem Group.writePraw_launch (n : Nat) (v : W32) (g : Group) : (Group.writePraw n v g).launch = g.launch := by
  unfold Group.writePraw; split <;> rfl
@[simp] theorem Group.writePraw_team (n : Nat) (v : W32) (g : Group) : (Group.writePraw n v g).team = g.team := by
  unfold Group.writePraw; split <;> rfl
@[simp] theorem Group.writePraw_index (n : Nat) (v : W32) (g : Group) : (Group.writePraw n v g).index = g.index := by
  unfold Group.writePraw; split <;> rfl
@[simp] theorem Group.writePraw_gen (n : Nat) (v : W32) (g : Group) : (Group.writePraw n v g).gen = g.gen := by
  unfold Group.writePraw; split <;> rfl
@[simp] theorem Group.writePraw_s (n : Nat) (v : W32) (g : Group) : (Group.writePraw n v g).s = g.s := by
  unfold Group.writePraw; split <;> rfl
@[simp] theorem Group.writePraw_v (n : Nat) (v : W32) (g : Group) : (Group.writePraw n v g).v = g.v := by
  unfold Group.writePraw; split <;> rfl
@[simp] theorem Group.writePraw_fullS (n : Nat) (v : W32) (g : Group) : (Group.writePraw n v g).fullS = g.fullS := by
  unfold Group.writePraw; split <;> rfl
@[simp] theorem Group.writePraw_fullV (n : Nat) (v : W32) (g : Group) : (Group.writePraw n v g).fullV = g.fullV := by
  unfold Group.writePraw; split <;> rfl
@[simp] theorem Group.writePraw_badS (n : Nat) (v : W32) (g : Group) : (Group.writePraw n v g).badS = g.badS := by
  unfold Group.writePraw; split <;> rfl
@[simp] theorem Group.writePraw_badV (n : Nat) (v : W32) (g : Group) : (Group.writePraw n v g).badV = g.badV := by
  unfold Group.writePraw; split <;> rfl
@[simp] theorem Group.writePraw_markV (n : Nat) (v : W32) (g : Group) : (Group.writePraw n v g).markV = g.markV := by
  unfold Group.writePraw; split <;> rfl
@[simp] theorem Group.writePraw_markS (n : Nat) (v : W32) (g : Group) : (Group.writePraw n v g).markS = g.markS := by
  unfold Group.writePraw; split <;> rfl
@[simp] theorem Group.writePraw_cache (n : Nat) (v : W32) (g : Group) : (Group.writePraw n v g).cache = g.cache := by
  unfold Group.writePraw; split <;> rfl
@[simp] theorem Group.writePraw_mode (n : Nat) (v : W32) (g : Group) : (Group.writePraw n v g).mode = g.mode := by
  unfold Group.writePraw; split <;> rfl
@[simp] theorem Group.writePraw_fill (n : Nat) (v : W32) (g : Group) : (Group.writePraw n v g).fill = g.fill := by
  unfold Group.writePraw; split <;> rfl
@[simp] theorem Group.writePraw_fpstat (n : Nat) (v : W32) (g : Group) : (Group.writePraw n v g).fpstat = g.fpstat := by
  unfold Group.writePraw; split <;> rfl
@[simp] theorem Group.writePraw_seed (n : Nat) (v : W32) (g : Group) : (Group.writePraw n v g).seed = g.seed := by
  unfold Group.writePraw; split <;> rfl
@[simp] theorem Group.writePraw_tvec (n : Nat) (v : W32) (g : Group) : (Group.writePraw n v g).tvec = g.tvec := by
  unfold Group.writePraw; split <;> rfl
@[simp] theorem Group.writePraw_tcode (n : Nat) (v : W32) (g : Group) : (Group.writePraw n v g).tcode = g.tcode := by
  unfold Group.writePraw; split <;> rfl
@[simp] theorem Group.writePraw_tpc (n : Nat) (v : W32) (g : Group) : (Group.writePraw n v g).tpc = g.tpc := by
  unfold Group.writePraw; split <;> rfl
@[simp] theorem Group.writePraw_tinfo (n : Nat) (v : W32) (g : Group) : (Group.writePraw n v g).tinfo = g.tinfo := by
  unfold Group.writePraw; split <;> rfl
@[simp] theorem Group.writePraw_trep (n : Nat) (v : W32) (g : Group) : (Group.writePraw n v g).trep = g.trep := by
  unfold Group.writePraw; split <;> rfl
@[simp] theorem Group.writePraw_dvec (n : Nat) (v : W32) (g : Group) : (Group.writePraw n v g).dvec = g.dvec := by
  unfold Group.writePraw; split <;> rfl
@[simp] theorem Group.writePraw_pvec (n : Nat) (v : W32) (g : Group) : (Group.writePraw n v g).pvec = g.pvec := by
  unfold Group.writePraw; split <;> rfl
@[simp] theorem Group.writePraw_pact (n : Nat) (v : W32) (g : Group) : (Group.writePraw n v g).pact = g.pact := by
  unfold Group.writePraw; split <;> rfl
@[simp] theorem Group.writePraw_dact (n : Nat) (v : W32) (g : Group) : (Group.writePraw n v g).dact = g.dact := by
  unfold Group.writePraw; split <;> rfl
@[simp] theorem Group.writePraw_hact (n : Nat) (v : W32) (g : Group) : (Group.writePraw n v g).hact = g.hact := by
  unfold Group.writePraw; split <;> rfl
@[simp] theorem Group.writePraw_level (n : Nat) (v : W32) (g : Group) : (Group.writePraw n v g).level = g.level := by
  unfold Group.writePraw; split <;> rfl
@[simp] theorem Group.writePraw_laneBase (n : Nat) (v : W32) (g : Group) : (Group.writePraw n v g).laneBase = g.laneBase := by
  unfold Group.writePraw; split <;> rfl
@[simp] theorem Group.writePraw_pc (n : Nat) (v : W32) (g : Group) : (Group.writePraw n v g).pc = g.pc := by
  unfold Group.writePraw; split <;> rfl
@[simp] theorem Group.writePraw_slots (n : Nat) (v : W32) (g : Group) : (Group.writePraw n v g).slots = g.slots := by
  unfold Group.writePraw; split <;> rfl
@[simp] theorem Group.writePraw_rep (n : Nat) (v : W32) (g : Group) : (Group.writePraw n v g).rep = g.rep := by
  unfold Group.writePraw; split <;> rfl
@[simp] theorem Group.writePraw_repResume (n : Nat) (v : W32) (g : Group) : (Group.writePraw n v g).repResume = g.repResume := by
  unfold Group.writePraw; split <;> rfl
@[simp] theorem Group.writePraw_barHalf (n : Nat) (v : W32) (g : Group) : (Group.writePraw n v g).barHalf = g.barHalf := by
  unfold Group.writePraw; split <;> rfl
@[simp] theorem Group.writePraw_hint (n : Nat) (v : W32) (g : Group) : (Group.writePraw n v g).hint = g.hint := by
  unfold Group.writePraw; split <;> rfl
@[simp] theorem Group.writePraw_loop (n : Nat) (v : W32) (g : Group) : (Group.writePraw n v g).loop = g.loop := by
  unfold Group.writePraw; split <;> rfl
@[simp] theorem Group.writePraw_openBatch (n : Nat) (v : W32) (g : Group) : (Group.writePraw n v g).openBatch = g.openBatch := by
  unfold Group.writePraw; split <;> rfl
@[simp] theorem Group.writePraw_batches (n : Nat) (v : W32) (g : Group) : (Group.writePraw n v g).batches = g.batches := by
  unfold Group.writePraw; split <;> rfl
@[simp] theorem Group.writePraw_rwin (n : Nat) (v : W32) (g : Group) : (Group.writePraw n v g).rwin = g.rwin := by
  unfold Group.writePraw; split <;> rfl
@[simp] theorem Group.writePraw_batchErr (n : Nat) (v : W32) (g : Group) : (Group.writePraw n v g).batchErr = g.batchErr := by
  unfold Group.writePraw; split <;> rfl
@[simp] theorem Group.writePraw_bars (n : Nat) (v : W32) (g : Group) : (Group.writePraw n v g).bars = g.bars := by
  unfold Group.writePraw; split <;> rfl
@[simp] theorem Group.writePraw_ports (n : Nat) (v : W32) (g : Group) : (Group.writePraw n v g).ports = g.ports := by
  unfold Group.writePraw; split <;> rfl
@[simp] theorem Group.writePraw_sysc (n : Nat) (v : W32) (g : Group) : (Group.writePraw n v g).sysc = g.sysc := by
  unfold Group.writePraw; split <;> rfl
@[simp] theorem Group.writePraw_halt (n : Nat) (v : W32) (g : Group) : (Group.writePraw n v g).halt = g.halt := by
  unfold Group.writePraw; split <;> rfl
@[simp] theorem Group.writePraw_stopReq (n : Nat) (v : W32) (g : Group) : (Group.writePraw n v g).stopReq = g.stopReq := by
  unfold Group.writePraw; split <;> rfl
@[simp] theorem Group.writePraw_haltReq (n : Nat) (v : W32) (g : Group) : (Group.writePraw n v g).haltReq = g.haltReq := by
  unfold Group.writePraw; split <;> rfl
@[simp] theorem Group.writePraw_step (n : Nat) (v : W32) (g : Group) : (Group.writePraw n v g).step = g.step := by
  unfold Group.writePraw; split <;> rfl
@[simp] theorem Group.writePraw_suppress (n : Nat) (v : W32) (g : Group) : (Group.writePraw n v g).suppress = g.suppress := by
  unfold Group.writePraw; split <;> rfl
@[simp] theorem Group.writePraw_coopBlock (n : Nat) (v : W32) (g : Group) : (Group.writePraw n v g).coopBlock = g.coopBlock := by
  unfold Group.writePraw; split <;> rfl
@[simp] theorem Group.writePraw_saved (n : Nat) (v : W32) (g : Group) : (Group.writePraw n v g).saved = g.saved := by
  unfold Group.writePraw; split <;> rfl
@[simp] theorem Group.writePraw_stageAddr (n : Nat) (v : W32) (g : Group) : (Group.writePraw n v g).stageAddr = g.stageAddr := by
  unfold Group.writePraw; split <;> rfl
@[simp] theorem Group.writePraw_stageLeft (n : Nat) (v : W32) (g : Group) : (Group.writePraw n v g).stageLeft = g.stageLeft := by
  unfold Group.writePraw; split <;> rfl
@[simp] theorem Group.writePraw_syscDest (n : Nat) (v : W32) (g : Group) : (Group.writePraw n v g).syscDest = g.syscDest := by
  unfold Group.writePraw; split <;> rfl
@[simp] theorem Group.writePraw_blocked (n : Nat) (v : W32) (g : Group) : (Group.writePraw n v g).blocked = g.blocked := by
  unfold Group.writePraw; split <;> rfl
@[simp] theorem Group.writePraw_blockedAt (n : Nat) (v : W32) (g : Group) : (Group.writePraw n v g).blockedAt = g.blockedAt := by
  unfold Group.writePraw; split <;> rfl
@[simp] theorem Group.writePraw_failPages (n : Nat) (v : W32) (g : Group) : (Group.writePraw n v g).failPages = g.failPages := by
  unfold Group.writePraw; split <;> rfl
@[simp] theorem Group.writePraw_active (n : Nat) (v : W32) (g : Group) : (Group.writePraw n v g).active = g.active := by
  unfold Group.writePraw; split <;> rfl
@[simp] theorem Group.writePraw_lastIssue (n : Nat) (v : W32) (g : Group) : (Group.writePraw n v g).lastIssue = g.lastIssue := by
  unfold Group.writePraw; split <;> rfl
@[simp] theorem Group.writePraw_readyAt (n : Nat) (v : W32) (g : Group) : (Group.writePraw n v g).readyAt = g.readyAt := by
  unfold Group.writePraw; split <;> rfl
@[simp] theorem Group.writePraw_yieldedAt (n : Nat) (v : W32) (g : Group) : (Group.writePraw n v g).yieldedAt = g.yieldedAt := by
  unfold Group.writePraw; split <;> rfl
@[simp] theorem Group.writePraw_notBefore (n : Nat) (v : W32) (g : Group) : (Group.writePraw n v g).notBefore = g.notBefore := by
  unfold Group.writePraw; split <;> rfl
@[simp] theorem Group.writePraw_giveWay (n : Nat) (v : W32) (g : Group) : (Group.writePraw n v g).giveWay = g.giveWay := by
  unfold Group.writePraw; split <;> rfl
@[simp] theorem Group.writePraw_aged (n : Nat) (v : W32) (g : Group) : (Group.writePraw n v g).aged = g.aged := by
  unfold Group.writePraw; split <;> rfl

@[simp] theorem Group.writeP_st (n : Nat) (v : W32) (g : Group) : (Group.writeP n v g).st = g.st := by
  unfold Group.writeP; unfold Group.writePraw; split <;> rfl
@[simp] theorem Group.writeP_vf (n : Nat) (v : W32) (g : Group) : (Group.writeP n v g).vf = g.vf := by
  unfold Group.writeP; unfold Group.writePraw; split <;> rfl
@[simp] theorem Group.writeP_launch (n : Nat) (v : W32) (g : Group) : (Group.writeP n v g).launch = g.launch := by
  unfold Group.writeP; unfold Group.writePraw; split <;> rfl
@[simp] theorem Group.writeP_team (n : Nat) (v : W32) (g : Group) : (Group.writeP n v g).team = g.team := by
  unfold Group.writeP; unfold Group.writePraw; split <;> rfl
@[simp] theorem Group.writeP_index (n : Nat) (v : W32) (g : Group) : (Group.writeP n v g).index = g.index := by
  unfold Group.writeP; unfold Group.writePraw; split <;> rfl
@[simp] theorem Group.writeP_gen (n : Nat) (v : W32) (g : Group) : (Group.writeP n v g).gen = g.gen := by
  unfold Group.writeP; unfold Group.writePraw; split <;> rfl
@[simp] theorem Group.writeP_s (n : Nat) (v : W32) (g : Group) : (Group.writeP n v g).s = g.s := by
  unfold Group.writeP; unfold Group.writePraw; split <;> rfl
@[simp] theorem Group.writeP_v (n : Nat) (v : W32) (g : Group) : (Group.writeP n v g).v = g.v := by
  unfold Group.writeP; unfold Group.writePraw; split <;> rfl
@[simp] theorem Group.writeP_fullS (n : Nat) (v : W32) (g : Group) : (Group.writeP n v g).fullS = g.fullS := by
  unfold Group.writeP; unfold Group.writePraw; split <;> rfl
@[simp] theorem Group.writeP_fullV (n : Nat) (v : W32) (g : Group) : (Group.writeP n v g).fullV = g.fullV := by
  unfold Group.writeP; unfold Group.writePraw; split <;> rfl
@[simp] theorem Group.writeP_badS (n : Nat) (v : W32) (g : Group) : (Group.writeP n v g).badS = g.badS := by
  unfold Group.writeP; unfold Group.writePraw; split <;> rfl
@[simp] theorem Group.writeP_badV (n : Nat) (v : W32) (g : Group) : (Group.writeP n v g).badV = g.badV := by
  unfold Group.writeP; unfold Group.writePraw; split <;> rfl
@[simp] theorem Group.writeP_markV (n : Nat) (v : W32) (g : Group) : (Group.writeP n v g).markV = g.markV := by
  unfold Group.writeP; unfold Group.writePraw; split <;> rfl
@[simp] theorem Group.writeP_markS (n : Nat) (v : W32) (g : Group) : (Group.writeP n v g).markS = g.markS := by
  unfold Group.writeP; unfold Group.writePraw; split <;> rfl
@[simp] theorem Group.writeP_cache (n : Nat) (v : W32) (g : Group) : (Group.writeP n v g).cache = g.cache := by
  unfold Group.writeP; unfold Group.writePraw; split <;> rfl
@[simp] theorem Group.writeP_mode (n : Nat) (v : W32) (g : Group) : (Group.writeP n v g).mode = g.mode := by
  unfold Group.writeP; unfold Group.writePraw; split <;> rfl
@[simp] theorem Group.writeP_fill (n : Nat) (v : W32) (g : Group) : (Group.writeP n v g).fill = g.fill := by
  unfold Group.writeP; unfold Group.writePraw; split <;> rfl
@[simp] theorem Group.writeP_fpstat (n : Nat) (v : W32) (g : Group) : (Group.writeP n v g).fpstat = g.fpstat := by
  unfold Group.writeP; unfold Group.writePraw; split <;> rfl
@[simp] theorem Group.writeP_seed (n : Nat) (v : W32) (g : Group) : (Group.writeP n v g).seed = g.seed := by
  unfold Group.writeP; unfold Group.writePraw; split <;> rfl
@[simp] theorem Group.writeP_tvec (n : Nat) (v : W32) (g : Group) : (Group.writeP n v g).tvec = g.tvec := by
  unfold Group.writeP; unfold Group.writePraw; split <;> rfl
@[simp] theorem Group.writeP_tcode (n : Nat) (v : W32) (g : Group) : (Group.writeP n v g).tcode = g.tcode := by
  unfold Group.writeP; unfold Group.writePraw; split <;> rfl
@[simp] theorem Group.writeP_tpc (n : Nat) (v : W32) (g : Group) : (Group.writeP n v g).tpc = g.tpc := by
  unfold Group.writeP; unfold Group.writePraw; split <;> rfl
@[simp] theorem Group.writeP_tinfo (n : Nat) (v : W32) (g : Group) : (Group.writeP n v g).tinfo = g.tinfo := by
  unfold Group.writeP; unfold Group.writePraw; split <;> rfl
@[simp] theorem Group.writeP_trep (n : Nat) (v : W32) (g : Group) : (Group.writeP n v g).trep = g.trep := by
  unfold Group.writeP; unfold Group.writePraw; split <;> rfl
@[simp] theorem Group.writeP_dvec (n : Nat) (v : W32) (g : Group) : (Group.writeP n v g).dvec = g.dvec := by
  unfold Group.writeP; unfold Group.writePraw; split <;> rfl
@[simp] theorem Group.writeP_pvec (n : Nat) (v : W32) (g : Group) : (Group.writeP n v g).pvec = g.pvec := by
  unfold Group.writeP; unfold Group.writePraw; split <;> rfl
@[simp] theorem Group.writeP_pact (n : Nat) (v : W32) (g : Group) : (Group.writeP n v g).pact = g.pact := by
  unfold Group.writeP; unfold Group.writePraw; split <;> rfl
@[simp] theorem Group.writeP_dact (n : Nat) (v : W32) (g : Group) : (Group.writeP n v g).dact = g.dact := by
  unfold Group.writeP; unfold Group.writePraw; split <;> rfl
@[simp] theorem Group.writeP_hact (n : Nat) (v : W32) (g : Group) : (Group.writeP n v g).hact = g.hact := by
  unfold Group.writeP; unfold Group.writePraw; split <;> rfl
@[simp] theorem Group.writeP_level (n : Nat) (v : W32) (g : Group) : (Group.writeP n v g).level = g.level := by
  unfold Group.writeP; unfold Group.writePraw; split <;> rfl
@[simp] theorem Group.writeP_laneBase (n : Nat) (v : W32) (g : Group) : (Group.writeP n v g).laneBase = g.laneBase := by
  unfold Group.writeP; unfold Group.writePraw; split <;> rfl
@[simp] theorem Group.writeP_pc (n : Nat) (v : W32) (g : Group) : (Group.writeP n v g).pc = g.pc := by
  unfold Group.writeP; unfold Group.writePraw; split <;> rfl
@[simp] theorem Group.writeP_slots (n : Nat) (v : W32) (g : Group) : (Group.writeP n v g).slots = g.slots := by
  unfold Group.writeP; unfold Group.writePraw; split <;> rfl
@[simp] theorem Group.writeP_rep (n : Nat) (v : W32) (g : Group) : (Group.writeP n v g).rep = g.rep := by
  unfold Group.writeP; unfold Group.writePraw; split <;> rfl
@[simp] theorem Group.writeP_repResume (n : Nat) (v : W32) (g : Group) : (Group.writeP n v g).repResume = g.repResume := by
  unfold Group.writeP; unfold Group.writePraw; split <;> rfl
@[simp] theorem Group.writeP_barHalf (n : Nat) (v : W32) (g : Group) : (Group.writeP n v g).barHalf = g.barHalf := by
  unfold Group.writeP; unfold Group.writePraw; split <;> rfl
@[simp] theorem Group.writeP_hint (n : Nat) (v : W32) (g : Group) : (Group.writeP n v g).hint = g.hint := by
  unfold Group.writeP; unfold Group.writePraw; split <;> rfl
@[simp] theorem Group.writeP_loop (n : Nat) (v : W32) (g : Group) : (Group.writeP n v g).loop = g.loop := by
  unfold Group.writeP; unfold Group.writePraw; split <;> rfl
@[simp] theorem Group.writeP_openBatch (n : Nat) (v : W32) (g : Group) : (Group.writeP n v g).openBatch = g.openBatch := by
  unfold Group.writeP; unfold Group.writePraw; split <;> rfl
@[simp] theorem Group.writeP_batches (n : Nat) (v : W32) (g : Group) : (Group.writeP n v g).batches = g.batches := by
  unfold Group.writeP; unfold Group.writePraw; split <;> rfl
@[simp] theorem Group.writeP_rwin (n : Nat) (v : W32) (g : Group) : (Group.writeP n v g).rwin = g.rwin := by
  unfold Group.writeP; unfold Group.writePraw; split <;> rfl
@[simp] theorem Group.writeP_batchErr (n : Nat) (v : W32) (g : Group) : (Group.writeP n v g).batchErr = g.batchErr := by
  unfold Group.writeP; unfold Group.writePraw; split <;> rfl
@[simp] theorem Group.writeP_bars (n : Nat) (v : W32) (g : Group) : (Group.writeP n v g).bars = g.bars := by
  unfold Group.writeP; unfold Group.writePraw; split <;> rfl
@[simp] theorem Group.writeP_ports (n : Nat) (v : W32) (g : Group) : (Group.writeP n v g).ports = g.ports := by
  unfold Group.writeP; unfold Group.writePraw; split <;> rfl
@[simp] theorem Group.writeP_sysc (n : Nat) (v : W32) (g : Group) : (Group.writeP n v g).sysc = g.sysc := by
  unfold Group.writeP; unfold Group.writePraw; split <;> rfl
@[simp] theorem Group.writeP_halt (n : Nat) (v : W32) (g : Group) : (Group.writeP n v g).halt = g.halt := by
  unfold Group.writeP; unfold Group.writePraw; split <;> rfl
@[simp] theorem Group.writeP_stopReq (n : Nat) (v : W32) (g : Group) : (Group.writeP n v g).stopReq = g.stopReq := by
  unfold Group.writeP; unfold Group.writePraw; split <;> rfl
@[simp] theorem Group.writeP_haltReq (n : Nat) (v : W32) (g : Group) : (Group.writeP n v g).haltReq = g.haltReq := by
  unfold Group.writeP; unfold Group.writePraw; split <;> rfl
@[simp] theorem Group.writeP_step (n : Nat) (v : W32) (g : Group) : (Group.writeP n v g).step = g.step := by
  unfold Group.writeP; unfold Group.writePraw; split <;> rfl
@[simp] theorem Group.writeP_suppress (n : Nat) (v : W32) (g : Group) : (Group.writeP n v g).suppress = g.suppress := by
  unfold Group.writeP; unfold Group.writePraw; split <;> rfl
@[simp] theorem Group.writeP_coopBlock (n : Nat) (v : W32) (g : Group) : (Group.writeP n v g).coopBlock = g.coopBlock := by
  unfold Group.writeP; unfold Group.writePraw; split <;> rfl
@[simp] theorem Group.writeP_saved (n : Nat) (v : W32) (g : Group) : (Group.writeP n v g).saved = g.saved := by
  unfold Group.writeP; unfold Group.writePraw; split <;> rfl
@[simp] theorem Group.writeP_stageAddr (n : Nat) (v : W32) (g : Group) : (Group.writeP n v g).stageAddr = g.stageAddr := by
  unfold Group.writeP; unfold Group.writePraw; split <;> rfl
@[simp] theorem Group.writeP_stageLeft (n : Nat) (v : W32) (g : Group) : (Group.writeP n v g).stageLeft = g.stageLeft := by
  unfold Group.writeP; unfold Group.writePraw; split <;> rfl
@[simp] theorem Group.writeP_syscDest (n : Nat) (v : W32) (g : Group) : (Group.writeP n v g).syscDest = g.syscDest := by
  unfold Group.writeP; unfold Group.writePraw; split <;> rfl
@[simp] theorem Group.writeP_blocked (n : Nat) (v : W32) (g : Group) : (Group.writeP n v g).blocked = g.blocked := by
  unfold Group.writeP; unfold Group.writePraw; split <;> rfl
@[simp] theorem Group.writeP_blockedAt (n : Nat) (v : W32) (g : Group) : (Group.writeP n v g).blockedAt = g.blockedAt := by
  unfold Group.writeP; unfold Group.writePraw; split <;> rfl
@[simp] theorem Group.writeP_failPages (n : Nat) (v : W32) (g : Group) : (Group.writeP n v g).failPages = g.failPages := by
  unfold Group.writeP; unfold Group.writePraw; split <;> rfl
@[simp] theorem Group.writeP_active (n : Nat) (v : W32) (g : Group) : (Group.writeP n v g).active = g.active := by
  unfold Group.writeP; unfold Group.writePraw; split <;> rfl
@[simp] theorem Group.writeP_lastIssue (n : Nat) (v : W32) (g : Group) : (Group.writeP n v g).lastIssue = g.lastIssue := by
  unfold Group.writeP; unfold Group.writePraw; split <;> rfl
@[simp] theorem Group.writeP_readyAt (n : Nat) (v : W32) (g : Group) : (Group.writeP n v g).readyAt = g.readyAt := by
  unfold Group.writeP; unfold Group.writePraw; split <;> rfl
@[simp] theorem Group.writeP_yieldedAt (n : Nat) (v : W32) (g : Group) : (Group.writeP n v g).yieldedAt = g.yieldedAt := by
  unfold Group.writeP; unfold Group.writePraw; split <;> rfl
@[simp] theorem Group.writeP_notBefore (n : Nat) (v : W32) (g : Group) : (Group.writeP n v g).notBefore = g.notBefore := by
  unfold Group.writeP; unfold Group.writePraw; split <;> rfl
@[simp] theorem Group.writeP_giveWay (n : Nat) (v : W32) (g : Group) : (Group.writeP n v g).giveWay = g.giveWay := by
  unfold Group.writeP; unfold Group.writePraw; split <;> rfl
@[simp] theorem Group.writeP_aged (n : Nat) (v : W32) (g : Group) : (Group.writeP n v g).aged = g.aged := by
  unfold Group.writeP; unfold Group.writePraw; split <;> rfl

end Sys2Proof.Machine
end

