-- ==== Sys2Proof/Laws/Memory.lean ====
section
/-!
SUPPORT. Memory: every operation keeps the canonical form, a byte reads as it was last written, and a write leaves every
other byte alone.
-/

set_option Elab.async false
namespace Sys2Proof.Machine

/-! ## One byte of the list -/

theorem Memory.wfFrom_mono {lo hi : Nat} (m : List Host.Cell) (h : lo ≤ hi) (w : Memory.wfFrom hi m = true) :
    Memory.wfFrom lo m = true := by
  cases m with
  | nil => rfl
  | cons c t =>
    obtain ⟨a, b⟩ := c
    simp only [Memory.wfFrom, Bool.and_eq_true, decide_eq_true_eq] at w ⊢
    exact ⟨⟨by omega, w.1.2⟩, w.2⟩

theorem Memory.wfFrom_set (m : List Host.Cell) (a : Nat) (b : Byte) (hb : b ≠ 0#8) :
    ∀ lo, lo ≤ a → Memory.wfFrom lo m = true → Memory.wfFrom lo (Tab.set m a b) = true := by
  induction m with
  | nil => intro lo h _; simp [Tab.set, Memory.wfFrom, h, hb]
  | cons c t ih =>
    obtain ⟨k, v⟩ := c
    intro lo h w
    simp only [Memory.wfFrom, Bool.and_eq_true, decide_eq_true_eq] at w
    obtain ⟨⟨hk, hv⟩, ht⟩ := w
    by_cases h1 : a < k
    · simp [Tab.set, h1, Memory.wfFrom, h, hb, hv, ht]
    · by_cases h2 : a = k
      · subst h2
        simp [Tab.set, Memory.wfFrom, h, hb, ht]
      · simp only [Tab.set, h1, h2, if_false, Memory.wfFrom, Bool.and_eq_true, decide_eq_true_eq]
        exact ⟨⟨hk, hv⟩, ih (k + 1) (by omega) ht⟩

theorem Memory.wfFrom_del (m : List Host.Cell) (a : Nat) :
    ∀ lo, Memory.wfFrom lo m = true → Memory.wfFrom lo (Tab.del m a) = true := by
  induction m with
  | nil => intro lo _; rfl
  | cons c t ih =>
    obtain ⟨k, v⟩ := c
    intro lo w
    simp only [Memory.wfFrom, Bool.and_eq_true, decide_eq_true_eq] at w
    obtain ⟨⟨hk, hv⟩, ht⟩ := w
    by_cases h : k = a
    · subst h
      have e : Tab.del ((k, v) :: t) k = Tab.del t k := by simp [Tab.del]
      rw [e]
      exact Memory.wfFrom_mono _ (by omega) (ih (k + 1) ht)
    · have e : Tab.del ((k, v) :: t) a = (k, v) :: Tab.del t a := by simp [Tab.del, h]
      rw [e]
      simp only [Memory.wfFrom, Bool.and_eq_true, decide_eq_true_eq]
      exact ⟨⟨hk, hv⟩, ih (k + 1) ht⟩

/-- Setting a byte keeps the canonical form. -/
theorem Memory.wf_setByte (m : List Host.Cell) (a : Nat) (b : Byte) (h : Memory.wf m = true) :
    Memory.wf (setByte m a b) = true := by
  unfold setByte
  by_cases hb : b = 0#8
  · simp only [hb, if_true]; exact Memory.wfFrom_del m a 0 h
  · simp only [hb, if_false]; exact Memory.wfFrom_set m a b hb 0 (Nat.zero_le a) h

theorem Tab.find_del_same {α : Type} (t : Tab α) (n : Nat) : Tab.find (Tab.del t n) n = none := by
  induction t with
  | nil => rfl
  | cons e t ih =>
    obtain ⟨k, v⟩ := e
    by_cases h : k = n
    · subst h
      have e : Tab.del ((k, v) :: t) k = Tab.del t k := by simp [Tab.del]
      rw [e]; exact ih
    · have e : Tab.del ((k, v) :: t) n = (k, v) :: Tab.del t n := by simp [Tab.del, h]
      rw [e]; simp [Tab.find, h, ih]

theorem Tab.find_del_other {α : Type} (t : Tab α) (n m : Nat) (hm : m ≠ n) : Tab.find (Tab.del t n) m = Tab.find t m := by
  induction t with
  | nil => rfl
  | cons e t ih =>
    obtain ⟨k, v⟩ := e
    by_cases h : k = n
    · subst h
      have e : Tab.del ((k, v) :: t) k = Tab.del t k := by simp [Tab.del]
      rw [e, ih]
      have : ¬ k = m := fun x => hm x.symm
      simp [Tab.find, this]
    · have e : Tab.del ((k, v) :: t) n = (k, v) :: Tab.del t n := by simp [Tab.del, h]
      rw [e]
      by_cases h2 : k = m
      · simp [Tab.find, h2]
      · simp [Tab.find, h2, ih]

@[simp] theorem rawByte_setByte_same (m : List Host.Cell) (a : Nat) (b : Byte) : rawByte (setByte m a b) a = b := by
  unfold rawByte setByte
  by_cases hb : b = 0#8
  · simp [hb, Tab.get, Tab.find_del_same]
  · simp [hb]

@[simp] theorem rawByte_setByte_other (m : List Host.Cell) (a x : Nat) (b : Byte) (h : x ≠ a) :
    rawByte (setByte m a b) x = rawByte m x := by
  unfold rawByte setByte
  by_cases hb : b = 0#8
  · simp [hb, Tab.get, Tab.find_del_other _ _ _ h]
  · simp [hb, h]

/-! ## Bytes under a key -/

theorem foldl_setByte_wf (as : List Nat) (f : Nat → Byte) :
    ∀ m, Memory.wf m = true → Memory.wf (as.foldl (fun m a => setByte m a (f a)) m) = true := by
  induction as with
  | nil => intro m h; exact h
  | cons a as ih => intro m h; exact ih _ (Memory.wf_setByte m a (f a) h)

theorem Memory.wf_rekey (s : State) (key pa : Nat) (h : Memory.wf s.mem = true) : Memory.wf (rekey s key pa).mem = true := by
  unfold rekey
  split
  · exact h
  · split
    · exact h
    · split
      · exact h
      · exact foldl_setByte_wf _ _ _ h

theorem Memory.wf_writePa (key pa : Nat) (b : Byte) (s : State) (h : Memory.wf s.mem = true) :
    Memory.wf (writePa key pa b s).mem = true := Memory.wf_setByte _ _ _ (Memory.wf_rekey s key pa h)

theorem foldl_writePa_wf (key pa : Nat) (ps : List (Nat × Byte)) :
    ∀ s, Memory.wf s.mem = true → Memory.wf (ps.foldl (fun t p => writePa key (pa + p.1) p.2 t) s).mem = true := by
  induction ps with
  | nil => intro s h; exact h
  | cons p ps ih => intro s h; exact ih _ (Memory.wf_writePa key (pa + p.1) p.2 s h)

theorem Memory.wf_writePas (key pa : Nat) (bs : List Byte) (s : State) (h : Memory.wf s.mem = true) :
    Memory.wf (writePas key pa bs s).mem = true := foldl_writePa_wf key pa _ s h

theorem Memory.wf_writeHub (key pa : Nat) (b : Byte) (s : State) (h : Memory.wf s.mem = true) :
    Memory.wf (writeHub key pa b s).mem = true := by
  unfold writeHub
  split
  · exact h
  · exact Memory.wf_writePa key pa b s h

/-- What the hub's writes have waited for is written. -/
theorem Memory.wf_flushHub (s : State) (h : Memory.wf s.mem = true) : Memory.wf (flushHub s).mem = true := by
  unfold flushHub
  generalize s.hubWrites = ws
  suffices ∀ u : State, Memory.wf u.mem = true →
      Memory.wf (ws.foldl (fun t w => writeHub w.1 w.2.1 w.2.2 t) u).mem = true from this _ h
  induction ws with
  | nil => exact fun u hu => hu
  | cons w ws ih => exact fun u hu => ih _ (Memory.wf_writeHub _ _ _ u hu)

theorem Memory.wf_writeGpa (vf gpa : Nat) (bs : List Byte) (s t : State) (h : Memory.wf s.mem = true)
    (e : writeGpa vf gpa bs s = some t) : Memory.wf t.mem = true := by
  unfold writeGpa at e
  split at e
  · simp only [Option.some.injEq] at e
    subst e
    generalize (List.range bs.length).zip bs = ps
    have key : ∀ (ps : List (Nat × Byte)) (u : State), Memory.wf u.mem = true →
        Memory.wf (ps.foldl (fun t p => match gpaToPa s vf (gpa + p.1) true with
          | some pa => writeHub (keyNum s vf) pa p.2 t
          | none => t) u).mem = true := by
      intro ps
      induction ps with
      | nil => intro u hu; exact hu
      | cons p ps ih =>
        intro u hu
        apply ih
        dsimp only
        split
        · exact Memory.wf_writeHub _ _ _ _ hu
        · exact hu
    exact key ps s h
  · cases e

theorem Memory.wfFrom_filter (m : List Host.Cell) (p : Host.Cell → Bool) :
    ∀ lo, Memory.wfFrom lo m = true → Memory.wfFrom lo (m.filter p) = true := by
  induction m with
  | nil => intro lo _; rfl
  | cons c t ih =>
    obtain ⟨k, v⟩ := c
    intro lo w
    simp only [Memory.wfFrom, Bool.and_eq_true, decide_eq_true_eq] at w
    obtain ⟨⟨hk, hv⟩, ht⟩ := w
    by_cases h : p (k, v) = true
    · simp only [List.filter_cons, h, if_true, Memory.wfFrom, Bool.and_eq_true, decide_eq_true_eq]
      exact ⟨⟨hk, hv⟩, ih (k + 1) ht⟩
    · simp only [List.filter_cons, h]
      exact Memory.wfFrom_mono _ (by omega) (ih (k + 1) ht)

/-- Clearing a range keeps the canonical form. -/
theorem Memory.wf_clearRange (lo n : Nat) (s : State) (h : Memory.wf s.mem = true) :
    Memory.wf (clearRange lo n s).mem = true := Memory.wfFrom_filter s.mem _ 0 h

/-- A byte reads, under the key it was written under, as it was written. -/
theorem readPa_writePa_same (s : State) (key pa : Nat) (b : Byte) (h : inOcpm pa = false) :
    readPa (writePa key pa b s) key pa = b := by
  unfold writePa rekey
  simp only [h, Bool.false_eq_true, if_false]
  cases e : Tab.find s.lineKey (pa / 64) with
  | none => simp [readPa]
  | some k =>
    by_cases hk : k = key
    · simp [hk, readPa, e]
    · simp [hk, readPa]

end Sys2Proof.Machine
end

