-- ==== Sys2Proof/Laws/Retire.lean ====
section
/-!
SUPPORT. What counting, tracing and the retirement of a word leave as it is.
-/

set_option Elab.async false
namespace Sys2Proof.Machine

/-! ## Counters, sensors and trace records, field by field -/

@[simp] theorem count_time (core ev vf n : Nat) (s : State) : (count core ev vf n s).time = s.time := by
  unfold count; split <;> rfl
@[simp] theorem countMe_time (ev n : Nat) (s : State) : (countMe ev n s).time = s.time := count_time _ _ _ _ _
@[simp] theorem count_phase (core ev vf n : Nat) (s : State) : (count core ev vf n s).phase = s.phase := by
  unfold count; split <;> rfl
@[simp] theorem countMe_phase (ev n : Nat) (s : State) : (countMe ev n s).phase = s.phase := count_phase _ _ _ _ _
@[simp] theorem count_cclk (core ev vf n : Nat) (s : State) : (count core ev vf n s).cclk = s.cclk := by
  unfold count; split <;> rfl
@[simp] theorem countMe_cclk (ev n : Nat) (s : State) : (countMe ev n s).cclk = s.cclk := count_cclk _ _ _ _ _
@[simp] theorem count_cur (core ev vf n : Nat) (s : State) : (count core ev vf n s).cur = s.cur := by
  unfold count; split <;> rfl
@[simp] theorem countMe_cur (ev n : Nat) (s : State) : (countMe ev n s).cur = s.cur := count_cur _ _ _ _ _
@[simp] theorem count_agenda (core ev vf n : Nat) (s : State) : (count core ev vf n s).agenda = s.agenda := by
  unfold count; split <;> rfl
@[simp] theorem countMe_agenda (ev n : Nat) (s : State) : (countMe ev n s).agenda = s.agenda := count_agenda _ _ _ _ _
@[simp] theorem count_free (core ev vf n : Nat) (s : State) : (count core ev vf n s).free = s.free := by
  unfold count; split <;> rfl
@[simp] theorem countMe_free (ev n : Nat) (s : State) : (countMe ev n s).free = s.free := count_free _ _ _ _ _
@[simp] theorem count_reply (core ev vf n : Nat) (s : State) : (count core ev vf n s).reply = s.reply := by
  unfold count; split <;> rfl
@[simp] theorem countMe_reply (ev n : Nat) (s : State) : (countMe ev n s).reply = s.reply := count_reply _ _ _ _ _
@[simp] theorem count_refillAt (core ev vf n : Nat) (s : State) : (count core ev vf n s).refillAt = s.refillAt := by
  unfold count; split <;> rfl
@[simp] theorem countMe_refillAt (ev n : Nat) (s : State) : (countMe ev n s).refillAt = s.refillAt := count_refillAt _ _ _ _ _
@[simp] theorem count_mem (core ev vf n : Nat) (s : State) : (count core ev vf n s).mem = s.mem := by
  unfold count; split <;> rfl
@[simp] theorem countMe_mem (ev n : Nat) (s : State) : (countMe ev n s).mem = s.mem := count_mem _ _ _ _ _
@[simp] theorem count_lineKey (core ev vf n : Nat) (s : State) : (count core ev vf n s).lineKey = s.lineKey := by
  unfold count; split <;> rfl
@[simp] theorem countMe_lineKey (ev n : Nat) (s : State) : (countMe ev n s).lineKey = s.lineKey := count_lineKey _ _ _ _ _
@[simp] theorem count_badLines (core ev vf n : Nat) (s : State) : (count core ev vf n s).badLines = s.badLines := by
  unfold count; split <;> rfl
@[simp] theorem countMe_badLines (ev n : Nat) (s : State) : (countMe ev n s).badLines = s.badLines := count_badLines _ _ _ _ _
@[simp] theorem count_groups (core ev vf n : Nat) (s : State) : (count core ev vf n s).groups = s.groups := by
  unfold count; split <;> rfl
@[simp] theorem countMe_groups (ev n : Nat) (s : State) : (countMe ev n s).groups = s.groups := count_groups _ _ _ _ _
@[simp] theorem count_teams (core ev vf n : Nat) (s : State) : (count core ev vf n s).teams = s.teams := by
  unfold count; split <;> rfl
@[simp] theorem countMe_teams (ev n : Nat) (s : State) : (countMe ev n s).teams = s.teams := count_teams _ _ _ _ _
@[simp] theorem count_launches (core ev vf n : Nat) (s : State) : (count core ev vf n s).launches = s.launches := by
  unfold count; split <;> rfl
@[simp] theorem countMe_launches (ev n : Nat) (s : State) : (countMe ev n s).launches = s.launches := count_launches _ _ _ _ _
@[simp] theorem count_nextLaunch (core ev vf n : Nat) (s : State) : (count core ev vf n s).nextLaunch = s.nextLaunch := by
  unfold count; split <;> rfl
@[simp] theorem countMe_nextLaunch (ev n : Nat) (s : State) : (countMe ev n s).nextLaunch = s.nextLaunch := count_nextLaunch _ _ _ _ _
@[simp] theorem count_nextTeam (core ev vf n : Nat) (s : State) : (count core ev vf n s).nextTeam = s.nextTeam := by
  unfold count; split <;> rfl
@[simp] theorem countMe_nextTeam (ev n : Nat) (s : State) : (countMe ev n s).nextTeam = s.nextTeam := count_nextTeam _ _ _ _ _
@[simp] theorem count_returns (core ev vf n : Nat) (s : State) : (count core ev vf n s).returns = s.returns := by
  unfold count; split <;> rfl
@[simp] theorem countMe_returns (ev n : Nat) (s : State) : (countMe ev n s).returns = s.returns := count_returns _ _ _ _ _
@[simp] theorem count_nextReturn (core ev vf n : Nat) (s : State) : (count core ev vf n s).nextReturn = s.nextReturn := by
  unfold count; split <;> rfl
@[simp] theorem countMe_nextReturn (ev n : Nat) (s : State) : (countMe ev n s).nextReturn = s.nextReturn := count_nextReturn _ _ _ _ _
@[simp] theorem count_copies (core ev vf n : Nat) (s : State) : (count core ev vf n s).copies = s.copies := by
  unfold count; split <;> rfl
@[simp] theorem countMe_copies (ev n : Nat) (s : State) : (countMe ev n s).copies = s.copies := count_copies _ _ _ _ _
@[simp] theorem count_nextCopy (core ev vf n : Nat) (s : State) : (count core ev vf n s).nextCopy = s.nextCopy := by
  unfold count; split <;> rfl
@[simp] theorem countMe_nextCopy (ev n : Nat) (s : State) : (countMe ev n s).nextCopy = s.nextCopy := count_nextCopy _ _ _ _ _
@[simp] theorem count_nextOrder (core ev vf n : Nat) (s : State) : (count core ev vf n s).nextOrder = s.nextOrder := by
  unfold count; split <;> rfl
@[simp] theorem countMe_nextOrder (ev n : Nat) (s : State) : (countMe ev n s).nextOrder = s.nextOrder := count_nextOrder _ _ _ _ _
@[simp] theorem count_nextSysc (core ev vf n : Nat) (s : State) : (count core ev vf n s).nextSysc = s.nextSysc := by
  unfold count; split <;> rfl
@[simp] theorem countMe_nextSysc (ev n : Nat) (s : State) : (countMe ev n s).nextSysc = s.nextSysc := count_nextSysc _ _ _ _ _
@[simp] theorem count_syscs (core ev vf n : Nat) (s : State) : (count core ev vf n s).syscs = s.syscs := by
  unfold count; split <;> rfl
@[simp] theorem countMe_syscs (ev n : Nat) (s : State) : (countMe ev n s).syscs = s.syscs := count_syscs _ _ _ _ _
@[simp] theorem count_dies (core ev vf n : Nat) (s : State) : (count core ev vf n s).dies = s.dies := by
  unfold count; split <;> rfl
@[simp] theorem countMe_dies (ev n : Nat) (s : State) : (countMe ev n s).dies = s.dies := count_dies _ _ _ _ _
@[simp] theorem count_vfs (core ev vf n : Nat) (s : State) : (count core ev vf n s).vfs = s.vfs := by
  unfold count; split <;> rfl
@[simp] theorem countMe_vfs (ev n : Nat) (s : State) : (countMe ev n s).vfs = s.vfs := count_vfs _ _ _ _ _
@[simp] theorem count_grants (core ev vf n : Nat) (s : State) : (count core ev vf n s).grants = s.grants := by
  unfold count; split <;> rfl
@[simp] theorem countMe_grants (ev n : Nat) (s : State) : (countMe ev n s).grants = s.grants := count_grants _ _ _ _ _
@[simp] theorem count_binder (core ev vf n : Nat) (s : State) : (count core ev vf n s).binder = s.binder := by
  unfold count; split <;> rfl
@[simp] theorem countMe_binder (ev n : Nat) (s : State) : (countMe ev n s).binder = s.binder := count_binder _ _ _ _ _
@[simp] theorem count_platform (core ev vf n : Nat) (s : State) : (count core ev vf n s).platform = s.platform := by
  unfold count; split <;> rfl
@[simp] theorem countMe_platform (ev n : Nat) (s : State) : (countMe ev n s).platform = s.platform := count_platform _ _ _ _ _
@[simp] theorem count_boot (core ev vf n : Nat) (s : State) : (count core ev vf n s).boot = s.boot := by
  unfold count; split <;> rfl
@[simp] theorem countMe_boot (ev n : Nat) (s : State) : (countMe ev n s).boot = s.boot := count_boot _ _ _ _ _
@[simp] theorem count_tkey (core ev vf n : Nat) (s : State) : (count core ev vf n s).tkey = s.tkey := by
  unfold count; split <;> rfl
@[simp] theorem countMe_tkey (ev n : Nat) (s : State) : (countMe ev n s).tkey = s.tkey := count_tkey _ _ _ _ _
@[simp] theorem count_msix (core ev vf n : Nat) (s : State) : (count core ev vf n s).msix = s.msix := by
  unfold count; split <;> rfl
@[simp] theorem countMe_msix (ev n : Nat) (s : State) : (countMe ev n s).msix = s.msix := count_msix _ _ _ _ _
@[simp] theorem count_hubWrites (core ev vf n : Nat) (s : State) : (count core ev vf n s).hubWrites = s.hubWrites := by
  unfold count; split <;> rfl
@[simp] theorem countMe_hubWrites (ev n : Nat) (s : State) : (countMe ev n s).hubWrites = s.hubWrites := count_hubWrites _ _ _ _ _
@[simp] theorem tally_time (c vf n : Nat) (s : State) : (tally c vf n s).time = s.time := by
  unfold tally; split <;> rfl
@[simp] theorem tally_phase (c vf n : Nat) (s : State) : (tally c vf n s).phase = s.phase := by
  unfold tally; split <;> rfl
@[simp] theorem tally_cclk (c vf n : Nat) (s : State) : (tally c vf n s).cclk = s.cclk := by
  unfold tally; split <;> rfl
@[simp] theorem tally_cur (c vf n : Nat) (s : State) : (tally c vf n s).cur = s.cur := by
  unfold tally; split <;> rfl
@[simp] theorem tally_agenda (c vf n : Nat) (s : State) : (tally c vf n s).agenda = s.agenda := by
  unfold tally; split <;> rfl
@[simp] theorem tally_free (c vf n : Nat) (s : State) : (tally c vf n s).free = s.free := by
  unfold tally; split <;> rfl
@[simp] theorem tally_reply (c vf n : Nat) (s : State) : (tally c vf n s).reply = s.reply := by
  unfold tally; split <;> rfl
@[simp] theorem tally_refillAt (c vf n : Nat) (s : State) : (tally c vf n s).refillAt = s.refillAt := by
  unfold tally; split <;> rfl
@[simp] theorem tally_mem (c vf n : Nat) (s : State) : (tally c vf n s).mem = s.mem := by
  unfold tally; split <;> rfl
@[simp] theorem tally_lineKey (c vf n : Nat) (s : State) : (tally c vf n s).lineKey = s.lineKey := by
  unfold tally; split <;> rfl
@[simp] theorem tally_badLines (c vf n : Nat) (s : State) : (tally c vf n s).badLines = s.badLines := by
  unfold tally; split <;> rfl
@[simp] theorem tally_groups (c vf n : Nat) (s : State) : (tally c vf n s).groups = s.groups := by
  unfold tally; split <;> rfl
@[simp] theorem tally_teams (c vf n : Nat) (s : State) : (tally c vf n s).teams = s.teams := by
  unfold tally; split <;> rfl
@[simp] theorem tally_launches (c vf n : Nat) (s : State) : (tally c vf n s).launches = s.launches := by
  unfold tally; split <;> rfl
@[simp] theorem tally_nextLaunch (c vf n : Nat) (s : State) : (tally c vf n s).nextLaunch = s.nextLaunch := by
  unfold tally; split <;> rfl
@[simp] theorem tally_nextTeam (c vf n : Nat) (s : State) : (tally c vf n s).nextTeam = s.nextTeam := by
  unfold tally; split <;> rfl
@[simp] theorem tally_returns (c vf n : Nat) (s : State) : (tally c vf n s).returns = s.returns := by
  unfold tally; split <;> rfl
@[simp] theorem tally_nextReturn (c vf n : Nat) (s : State) : (tally c vf n s).nextReturn = s.nextReturn := by
  unfold tally; split <;> rfl
@[simp] theorem tally_copies (c vf n : Nat) (s : State) : (tally c vf n s).copies = s.copies := by
  unfold tally; split <;> rfl
@[simp] theorem tally_nextCopy (c vf n : Nat) (s : State) : (tally c vf n s).nextCopy = s.nextCopy := by
  unfold tally; split <;> rfl
@[simp] theorem tally_nextOrder (c vf n : Nat) (s : State) : (tally c vf n s).nextOrder = s.nextOrder := by
  unfold tally; split <;> rfl
@[simp] theorem tally_nextSysc (c vf n : Nat) (s : State) : (tally c vf n s).nextSysc = s.nextSysc := by
  unfold tally; split <;> rfl
@[simp] theorem tally_syscs (c vf n : Nat) (s : State) : (tally c vf n s).syscs = s.syscs := by
  unfold tally; split <;> rfl
@[simp] theorem tally_cores (c vf n : Nat) (s : State) : (tally c vf n s).cores = s.cores := by
  unfold tally; split <;> rfl
@[simp] theorem tally_dies (c vf n : Nat) (s : State) : (tally c vf n s).dies = s.dies := by
  unfold tally; split <;> rfl
@[simp] theorem tally_vfs (c vf n : Nat) (s : State) : (tally c vf n s).vfs = s.vfs := by
  unfold tally; split <;> rfl
@[simp] theorem tally_grants (c vf n : Nat) (s : State) : (tally c vf n s).grants = s.grants := by
  unfold tally; split <;> rfl
@[simp] theorem tally_platform (c vf n : Nat) (s : State) : (tally c vf n s).platform = s.platform := by
  unfold tally; split <;> rfl
@[simp] theorem tally_boot (c vf n : Nat) (s : State) : (tally c vf n s).boot = s.boot := by
  unfold tally; split <;> rfl
@[simp] theorem tally_tkey (c vf n : Nat) (s : State) : (tally c vf n s).tkey = s.tkey := by
  unfold tally; split <;> rfl
@[simp] theorem tally_msix (c vf n : Nat) (s : State) : (tally c vf n s).msix = s.msix := by
  unfold tally; split <;> rfl
@[simp] theorem tally_hubWrites (c vf n : Nat) (s : State) : (tally c vf n s).hubWrites = s.hubWrites := by
  unfold tally; split <;> rfl
@[simp] theorem owe_time (q : Nat) (g : Group) (s : State) : (owe q g s).time = s.time := rfl
@[simp] theorem owe_phase (q : Nat) (g : Group) (s : State) : (owe q g s).phase = s.phase := rfl
@[simp] theorem owe_cclk (q : Nat) (g : Group) (s : State) : (owe q g s).cclk = s.cclk := rfl
@[simp] theorem owe_cur (q : Nat) (g : Group) (s : State) : (owe q g s).cur = s.cur := rfl
@[simp] theorem owe_agenda (q : Nat) (g : Group) (s : State) : (owe q g s).agenda = s.agenda := rfl
@[simp] theorem owe_free (q : Nat) (g : Group) (s : State) : (owe q g s).free = s.free := rfl
@[simp] theorem owe_reply (q : Nat) (g : Group) (s : State) : (owe q g s).reply = s.reply := rfl
@[simp] theorem owe_refillAt (q : Nat) (g : Group) (s : State) : (owe q g s).refillAt = s.refillAt := rfl
@[simp] theorem owe_mem (q : Nat) (g : Group) (s : State) : (owe q g s).mem = s.mem := rfl
@[simp] theorem owe_lineKey (q : Nat) (g : Group) (s : State) : (owe q g s).lineKey = s.lineKey := rfl
@[simp] theorem owe_badLines (q : Nat) (g : Group) (s : State) : (owe q g s).badLines = s.badLines := rfl
@[simp] theorem owe_groups (q : Nat) (g : Group) (s : State) : (owe q g s).groups = s.groups := rfl
@[simp] theorem owe_teams (q : Nat) (g : Group) (s : State) : (owe q g s).teams = s.teams := rfl
@[simp] theorem owe_launches (q : Nat) (g : Group) (s : State) : (owe q g s).launches = s.launches := rfl
@[simp] theorem owe_nextLaunch (q : Nat) (g : Group) (s : State) : (owe q g s).nextLaunch = s.nextLaunch := rfl
@[simp] theorem owe_nextTeam (q : Nat) (g : Group) (s : State) : (owe q g s).nextTeam = s.nextTeam := rfl
@[simp] theorem owe_returns (q : Nat) (g : Group) (s : State) : (owe q g s).returns = s.returns := rfl
@[simp] theorem owe_nextReturn (q : Nat) (g : Group) (s : State) : (owe q g s).nextReturn = s.nextReturn := rfl
@[simp] theorem owe_copies (q : Nat) (g : Group) (s : State) : (owe q g s).copies = s.copies := rfl
@[simp] theorem owe_nextCopy (q : Nat) (g : Group) (s : State) : (owe q g s).nextCopy = s.nextCopy := rfl
@[simp] theorem owe_nextOrder (q : Nat) (g : Group) (s : State) : (owe q g s).nextOrder = s.nextOrder := rfl
@[simp] theorem owe_nextSysc (q : Nat) (g : Group) (s : State) : (owe q g s).nextSysc = s.nextSysc := rfl
@[simp] theorem owe_syscs (q : Nat) (g : Group) (s : State) : (owe q g s).syscs = s.syscs := rfl
@[simp] theorem owe_dies (q : Nat) (g : Group) (s : State) : (owe q g s).dies = s.dies := rfl
@[simp] theorem owe_vfs (q : Nat) (g : Group) (s : State) : (owe q g s).vfs = s.vfs := rfl
@[simp] theorem owe_grants (q : Nat) (g : Group) (s : State) : (owe q g s).grants = s.grants := rfl
@[simp] theorem owe_binder (q : Nat) (g : Group) (s : State) : (owe q g s).binder = s.binder := rfl
@[simp] theorem owe_platform (q : Nat) (g : Group) (s : State) : (owe q g s).platform = s.platform := rfl
@[simp] theorem owe_boot (q : Nat) (g : Group) (s : State) : (owe q g s).boot = s.boot := rfl
@[simp] theorem owe_tkey (q : Nat) (g : Group) (s : State) : (owe q g s).tkey = s.tkey := rfl
@[simp] theorem owe_msix (q : Nat) (g : Group) (s : State) : (owe q g s).msix = s.msix := rfl
@[simp] theorem owe_hubWrites (q : Nat) (g : Group) (s : State) : (owe q g s).hubWrites = s.hubWrites := rfl

/-- What a partition owes is all that a CCLK of it changes in a core. -/
theorem coreAt_owe (q : Nat) (g : Group) (s : State) (c : Nat) : ∃ l, coreAt (owe q g s) c = { coreAt s c with lags := l } := by
  unfold owe
  by_cases h : c = coreOf q
  · subst h; simp only [coreAt_modCore_same]; exact ⟨_, rfl⟩
  · simp only [coreAt_modCore_other _ _ _ _ h]; exact ⟨_, rfl⟩

/-- A record that a trace does not keep changes nothing. -/
theorem capture_off {die cls code vf : Nat} {cg : W64} {p : Option Nat} {s : State}
    (h : (dieAt s die).trace.keeps cls vf cg = false) : capture die cls code vf cg p s = s := by
  unfold capture
  simp only [h, Bool.false_eq_true, if_false]

@[simp] theorem groupAt_count (core ev vf n : Nat) (s : State) (q : Nat) : groupAt (count core ev vf n s) q = groupAt s q := by
  simp [groupAt]
@[simp] theorem groupAt_tally (c vf n : Nat) (s : State) (q : Nat) : groupAt (tally c vf n s) q = groupAt s q := by
  simp [groupAt]
@[simp] theorem dieAt_count (core ev vf n : Nat) (s : State) (d : Nat) : dieAt (count core ev vf n s) d = dieAt s d := by
  simp [dieAt]
@[simp] theorem dieAt_tally (c vf n : Nat) (s : State) (d : Nat) : dieAt (tally c vf n s) d = dieAt s d := by
  simp [dieAt]
@[simp] theorem groupAt_owe (p : Nat) (g : Group) (s : State) (q : Nat) : groupAt (owe p g s) q = groupAt s q := rfl
@[simp] theorem dieAt_owe (q : Nat) (g : Group) (s : State) (d : Nat) : dieAt (owe q g s) d = dieAt s d := rfl
@[simp] theorem qid_owe (q : Nat) (g : Group) (s : State) : (owe q g s).qid = s.qid := rfl
@[simp] theorem qid_count (core ev vf n : Nat) (s : State) : (count core ev vf n s).qid = s.qid := by simp [State.qid]
@[simp] theorem qid_tally (c vf n : Nat) (s : State) : (tally c vf n s).qid = s.qid := by simp [State.qid]

/-- A count leaves of each core all but its counters as it was. -/
theorem Core.count_keeps (ev vf n : Nat) (c : Core) :
    (Core.count ev vf n c).crs = c.crs ∧ (Core.count ev vf n c).seq = c.seq ∧ (Core.count ev vf n c).locks = c.locks
      ∧ (Core.count ev vf n c).tiles = c.tiles ∧ (Core.count ev vf n c).reuse = c.reuse
      ∧ (Core.count ev vf n c).requests = c.requests := by
  unfold Core.count
  generalize c.pmccfg = l
  induction l generalizing c with
  | nil => simp
  | cons e l ih =>
    simp only [List.foldl_cons]
    split
    · exact ih _
    · exact ih _

/-! ## Retirement -/

theorem retire_calm (n : Next) (s : State) (h : s.me.step ≠ .armed) : retire n s = retireWord n s := by
  unfold retire
  split
  · rename_i e; exact absurd e h
  · rfl

/-- The state after a word retires where nothing else happens. -/
theorem retire_of_calm (n : Next) (s : State) (h : Calm s) :
    retire n s = owe s.qid s.me (tally 0 s.me.vf 1 (count (coreOf s.qid) evAged s.me.vf (if s.me.aged then 1 else 0)
      (count (coreOf s.qid) evIssue s.me.vf 1 (modMe (fun g => g.retire n s.cclk) s)))) := by
  rw [retire_calm n s h.1, retireWord, countIssue]
  apply capture_off
  simpa [countMe] using h.2

theorem retire_time (n : Next) (s : State) (h : Calm s) : (retire n s).time = s.time := by simp [retire_of_calm n s h]
theorem retire_phase (n : Next) (s : State) (h : Calm s) : (retire n s).phase = s.phase := by simp [retire_of_calm n s h]
theorem retire_cclk (n : Next) (s : State) (h : Calm s) : (retire n s).cclk = s.cclk := by simp [retire_of_calm n s h]
theorem retire_cur (n : Next) (s : State) (h : Calm s) : (retire n s).cur = s.cur := by simp [retire_of_calm n s h]
theorem retire_agenda (n : Next) (s : State) (h : Calm s) : (retire n s).agenda = s.agenda := by simp [retire_of_calm n s h]
theorem retire_free (n : Next) (s : State) (h : Calm s) : (retire n s).free = s.free := by simp [retire_of_calm n s h]
theorem retire_reply (n : Next) (s : State) (h : Calm s) : (retire n s).reply = s.reply := by simp [retire_of_calm n s h]
theorem retire_refillAt (n : Next) (s : State) (h : Calm s) : (retire n s).refillAt = s.refillAt := by simp [retire_of_calm n s h]
theorem retire_mem (n : Next) (s : State) (h : Calm s) : (retire n s).mem = s.mem := by simp [retire_of_calm n s h]
theorem retire_lineKey (n : Next) (s : State) (h : Calm s) : (retire n s).lineKey = s.lineKey := by simp [retire_of_calm n s h]
theorem retire_badLines (n : Next) (s : State) (h : Calm s) : (retire n s).badLines = s.badLines := by simp [retire_of_calm n s h]
theorem retire_teams (n : Next) (s : State) (h : Calm s) : (retire n s).teams = s.teams := by simp [retire_of_calm n s h]
theorem retire_launches (n : Next) (s : State) (h : Calm s) : (retire n s).launches = s.launches := by simp [retire_of_calm n s h]
theorem retire_nextLaunch (n : Next) (s : State) (h : Calm s) : (retire n s).nextLaunch = s.nextLaunch := by simp [retire_of_calm n s h]
theorem retire_nextTeam (n : Next) (s : State) (h : Calm s) : (retire n s).nextTeam = s.nextTeam := by simp [retire_of_calm n s h]
theorem retire_returns (n : Next) (s : State) (h : Calm s) : (retire n s).returns = s.returns := by simp [retire_of_calm n s h]
theorem retire_nextReturn (n : Next) (s : State) (h : Calm s) : (retire n s).nextReturn = s.nextReturn := by simp [retire_of_calm n s h]
theorem retire_copies (n : Next) (s : State) (h : Calm s) : (retire n s).copies = s.copies := by simp [retire_of_calm n s h]
theorem retire_nextCopy (n : Next) (s : State) (h : Calm s) : (retire n s).nextCopy = s.nextCopy := by simp [retire_of_calm n s h]
theorem retire_nextOrder (n : Next) (s : State) (h : Calm s) : (retire n s).nextOrder = s.nextOrder := by simp [retire_of_calm n s h]
theorem retire_nextSysc (n : Next) (s : State) (h : Calm s) : (retire n s).nextSysc = s.nextSysc := by simp [retire_of_calm n s h]
theorem retire_syscs (n : Next) (s : State) (h : Calm s) : (retire n s).syscs = s.syscs := by simp [retire_of_calm n s h]
theorem retire_dies (n : Next) (s : State) (h : Calm s) : (retire n s).dies = s.dies := by simp [retire_of_calm n s h]
theorem retire_vfs (n : Next) (s : State) (h : Calm s) : (retire n s).vfs = s.vfs := by simp [retire_of_calm n s h]
theorem retire_grants (n : Next) (s : State) (h : Calm s) : (retire n s).grants = s.grants := by simp [retire_of_calm n s h]
theorem retire_platform (n : Next) (s : State) (h : Calm s) : (retire n s).platform = s.platform := by simp [retire_of_calm n s h]
theorem retire_boot (n : Next) (s : State) (h : Calm s) : (retire n s).boot = s.boot := by simp [retire_of_calm n s h]
theorem retire_tkey (n : Next) (s : State) (h : Calm s) : (retire n s).tkey = s.tkey := by simp [retire_of_calm n s h]
theorem retire_msix (n : Next) (s : State) (h : Calm s) : (retire n s).msix = s.msix := by simp [retire_of_calm n s h]
theorem retire_hubWrites (n : Next) (s : State) (h : Calm s) : (retire n s).hubWrites = s.hubWrites := by simp [retire_of_calm n s h]

/-- The group after its word retired. -/
theorem retire_me (n : Next) (s : State) (h : Calm s) : (retire n s).me = s.me.retire n s.cclk := by
  rw [retire_of_calm n s h]
  simp [State.me, modMe]

/-- Every other group stays as it was. -/
theorem retire_other (n : Next) (s : State) (h : Calm s) (q : Nat) (hq : q ≠ s.qid) :
    groupAt (retire n s) q = groupAt s q := by
  rw [retire_of_calm n s h]
  simp [modMe, hq]

theorem retire_readPa (n : Next) (s : State) (h : Calm s) (key pa : Nat) : readPa (retire n s) key pa = readPa s key pa := by
  unfold readPa
  rw [retire_mem n s h, retire_lineKey n s h]

/-! ## The group's fields at retirement -/

@[simp] theorem Group.advance_st (g : Group) (pc : W64) : (g.advance pc).st = g.st := by
  unfold Group.advance; split
  · rfl
  · split
    · rfl
    · split <;> rfl
@[simp] theorem Group.advance_vf (g : Group) (pc : W64) : (g.advance pc).vf = g.vf := by
  unfold Group.advance; split
  · rfl
  · split
    · rfl
    · split <;> rfl
@[simp] theorem Group.advance_launch (g : Group) (pc : W64) : (g.advance pc).launch = g.launch := by
  unfold Group.advance; split
  · rfl
  · split
    · rfl
    · split <;> rfl
@[simp] theorem Group.advance_team (g : Group) (pc : W64) : (g.advance pc).team = g.team := by
  unfold Group.advance; split
  · rfl
  · split
    · rfl
    · split <;> rfl
@[simp] theorem Group.advance_index (g : Group) (pc : W64) : (g.advance pc).index = g.index := by
  unfold Group.advance; split
  · rfl
  · split
    · rfl
    · split <;> rfl
@[simp] theorem Group.advance_gen (g : Group) (pc : W64) : (g.advance pc).gen = g.gen := by
  unfold Group.advance; split
  · rfl
  · split
    · rfl
    · split <;> rfl
@[simp] theorem Group.advance_s (g : Group) (pc : W64) : (g.advance pc).s = g.s := by
  unfold Group.advance; split
  · rfl
  · split
    · rfl
    · split <;> rfl
@[simp] theorem Group.advance_v (g : Group) (pc : W64) : (g.advance pc).v = g.v := by
  unfold Group.advance; split
  · rfl
  · split
    · rfl
    · split <;> rfl
@[simp] theorem Group.advance_p (g : Group) (pc : W64) : (g.advance pc).p = g.p := by
  unfold Group.advance; split
  · rfl
  · split
    · rfl
    · split <;> rfl
@[simp] theorem Group.advance_fullS (g : Group) (pc : W64) : (g.advance pc).fullS = g.fullS := by
  unfold Group.advance; split
  · rfl
  · split
    · rfl
    · split <;> rfl
@[simp] theorem Group.advance_fullV (g : Group) (pc : W64) : (g.advance pc).fullV = g.fullV := by
  unfold Group.advance; split
  · rfl
  · split
    · rfl
    · split <;> rfl
@[simp] theorem Group.advance_badS (g : Group) (pc : W64) : (g.advance pc).badS = g.badS := by
  unfold Group.advance; split
  · rfl
  · split
    · rfl
    · split <;> rfl
@[simp] theorem Group.advance_badV (g : Group) (pc : W64) : (g.advance pc).badV = g.badV := by
  unfold Group.advance; split
  · rfl
  · split
    · rfl
    · split <;> rfl
@[simp] theorem Group.advance_markV (g : Group) (pc : W64) : (g.advance pc).markV = g.markV := by
  unfold Group.advance; split
  · rfl
  · split
    · rfl
    · split <;> rfl
@[simp] theorem Group.advance_markS (g : Group) (pc : W64) : (g.advance pc).markS = g.markS := by
  unfold Group.advance; split
  · rfl
  · split
    · rfl
    · split <;> rfl
@[simp] theorem Group.advance_cache (g : Group) (pc : W64) : (g.advance pc).cache = g.cache := by
  unfold Group.advance; split
  · rfl
  · split
    · rfl
    · split <;> rfl
@[simp] theorem Group.advance_mode (g : Group) (pc : W64) : (g.advance pc).mode = g.mode := by
  unfold Group.advance; split
  · rfl
  · split
    · rfl
    · split <;> rfl
@[simp] theorem Group.advance_fill (g : Group) (pc : W64) : (g.advance pc).fill = g.fill := by
  unfold Group.advance; split
  · rfl
  · split
    · rfl
    · split <;> rfl
@[simp] theorem Group.advance_fpstat (g : Group) (pc : W64) : (g.advance pc).fpstat = g.fpstat := by
  unfold Group.advance; split
  · rfl
  · split
    · rfl
    · split <;> rfl
@[simp] theorem Group.advance_seed (g : Group) (pc : W64) : (g.advance pc).seed = g.seed := by
  unfold Group.advance; split
  · rfl
  · split
    · rfl
    · split <;> rfl
@[simp] theorem Group.advance_tvec (g : Group) (pc : W64) : (g.advance pc).tvec = g.tvec := by
  unfold Group.advance; split
  · rfl
  · split
    · rfl
    · split <;> rfl
@[simp] theorem Group.advance_tcode (g : Group) (pc : W64) : (g.advance pc).tcode = g.tcode := by
  unfold Group.advance; split
  · rfl
  · split
    · rfl
    · split <;> rfl
@[simp] theorem Group.advance_tpc (g : Group) (pc : W64) : (g.advance pc).tpc = g.tpc := by
  unfold Group.advance; split
  · rfl
  · split
    · rfl
    · split <;> rfl
@[simp] theorem Group.advance_tinfo (g : Group) (pc : W64) : (g.advance pc).tinfo = g.tinfo := by
  unfold Group.advance; split
  · rfl
  · split
    · rfl
    · split <;> rfl
@[simp] theorem Group.advance_trep (g : Group) (pc : W64) : (g.advance pc).trep = g.trep := by
  unfold Group.advance; split
  · rfl
  · split
    · rfl
    · split <;> rfl
@[simp] theorem Group.advance_dvec (g : Group) (pc : W64) : (g.advance pc).dvec = g.dvec := by
  unfold Group.advance; split
  · rfl
  · split
    · rfl
    · split <;> rfl
@[simp] theorem Group.advance_pvec (g : Group) (pc : W64) : (g.advance pc).pvec = g.pvec := by
  unfold Group.advance; split
  · rfl
  · split
    · rfl
    · split <;> rfl
@[simp] theorem Group.advance_pact (g : Group) (pc : W64) : (g.advance pc).pact = g.pact := by
  unfold Group.advance; split
  · rfl
  · split
    · rfl
    · split <;> rfl
@[simp] theorem Group.advance_dact (g : Group) (pc : W64) : (g.advance pc).dact = g.dact := by
  unfold Group.advance; split
  · rfl
  · split
    · rfl
    · split <;> rfl
@[simp] theorem Group.advance_hact (g : Group) (pc : W64) : (g.advance pc).hact = g.hact := by
  unfold Group.advance; split
  · rfl
  · split
    · rfl
    · split <;> rfl
@[simp] theorem Group.advance_level (g : Group) (pc : W64) : (g.advance pc).level = g.level := by
  unfold Group.advance; split
  · rfl
  · split
    · rfl
    · split <;> rfl
@[simp] theorem Group.advance_laneBase (g : Group) (pc : W64) : (g.advance pc).laneBase = g.laneBase := by
  unfold Group.advance; split
  · rfl
  · split
    · rfl
    · split <;> rfl
@[simp] theorem Group.advance_slots (g : Group) (pc : W64) : (g.advance pc).slots = g.slots := by
  unfold Group.advance; split
  · rfl
  · split
    · rfl
    · split <;> rfl
@[simp] theorem Group.advance_openBatch (g : Group) (pc : W64) : (g.advance pc).openBatch = g.openBatch := by
  unfold Group.advance; split
  · rfl
  · split
    · rfl
    · split <;> rfl
@[simp] theorem Group.advance_batches (g : Group) (pc : W64) : (g.advance pc).batches = g.batches := by
  unfold Group.advance; split
  · rfl
  · split
    · rfl
    · split <;> rfl
@[simp] theorem Group.advance_rwin (g : Group) (pc : W64) : (g.advance pc).rwin = g.rwin := by
  unfold Group.advance; split
  · rfl
  · split
    · rfl
    · split <;> rfl
@[simp] theorem Group.advance_batchErr (g : Group) (pc : W64) : (g.advance pc).batchErr = g.batchErr := by
  unfold Group.advance; split
  · rfl
  · split
    · rfl
    · split <;> rfl
@[simp] theorem Group.advance_bars (g : Group) (pc : W64) : (g.advance pc).bars = g.bars := by
  unfold Group.advance; split
  · rfl
  · split
    · rfl
    · split <;> rfl
@[simp] theorem Group.advance_ports (g : Group) (pc : W64) : (g.advance pc).ports = g.ports := by
  unfold Group.advance; split
  · rfl
  · split
    · rfl
    · split <;> rfl
@[simp] theorem Group.advance_sysc (g : Group) (pc : W64) : (g.advance pc).sysc = g.sysc := by
  unfold Group.advance; split
  · rfl
  · split
    · rfl
    · split <;> rfl
@[simp] theorem Group.advance_halt (g : Group) (pc : W64) : (g.advance pc).halt = g.halt := by
  unfold Group.advance; split
  · rfl
  · split
    · rfl
    · split <;> rfl
@[simp] theorem Group.advance_stopReq (g : Group) (pc : W64) : (g.advance pc).stopReq = g.stopReq := by
  unfold Group.advance; split
  · rfl
  · split
    · rfl
    · split <;> rfl
@[simp] theorem Group.advance_haltReq (g : Group) (pc : W64) : (g.advance pc).haltReq = g.haltReq := by
  unfold Group.advance; split
  · rfl
  · split
    · rfl
    · split <;> rfl
@[simp] theorem Group.advance_coopBlock (g : Group) (pc : W64) : (g.advance pc).coopBlock = g.coopBlock := by
  unfold Group.advance; split
  · rfl
  · split
    · rfl
    · split <;> rfl
@[simp] theorem Group.advance_saved (g : Group) (pc : W64) : (g.advance pc).saved = g.saved := by
  unfold Group.advance; split
  · rfl
  · split
    · rfl
    · split <;> rfl
@[simp] theorem Group.advance_stageAddr (g : Group) (pc : W64) : (g.advance pc).stageAddr = g.stageAddr := by
  unfold Group.advance; split
  · rfl
  · split
    · rfl
    · split <;> rfl
@[simp] theorem Group.advance_stageLeft (g : Group) (pc : W64) : (g.advance pc).stageLeft = g.stageLeft := by
  unfold Group.advance; split
  · rfl
  · split
    · rfl
    · split <;> rfl
@[simp] theorem Group.advance_syscDest (g : Group) (pc : W64) : (g.advance pc).syscDest = g.syscDest := by
  unfold Group.advance; split
  · rfl
  · split
    · rfl
    · split <;> rfl
@[simp] theorem Group.advance_blockedAt (g : Group) (pc : W64) : (g.advance pc).blockedAt = g.blockedAt := by
  unfold Group.advance; split
  · rfl
  · split
    · rfl
    · split <;> rfl
@[simp] theorem Group.advance_active (g : Group) (pc : W64) : (g.advance pc).active = g.active := by
  unfold Group.advance; split
  · rfl
  · split
    · rfl
    · split <;> rfl
@[simp] theorem Group.advance_yieldedAt (g : Group) (pc : W64) : (g.advance pc).yieldedAt = g.yieldedAt := by
  unfold Group.advance; split
  · rfl
  · split
    · rfl
    · split <;> rfl
@[simp] theorem Group.retire_st (g : Group) (n : Next) (c : Nat) : (g.retire n c).st = g.st := by
  unfold Group.retire
  cases n with
  | goto _ _ => rfl
  | resume _ _ _ _ => rfl
  | seq =>
    cases h : g.rep with
    | none => simp
    | some r => by_cases hk : r.k < r.op.cnt.toNat <;> simp [hk]
@[simp] theorem Group.retire_vf (g : Group) (n : Next) (c : Nat) : (g.retire n c).vf = g.vf := by
  unfold Group.retire
  cases n with
  | goto _ _ => rfl
  | resume _ _ _ _ => rfl
  | seq =>
    cases h : g.rep with
    | none => simp
    | some r => by_cases hk : r.k < r.op.cnt.toNat <;> simp [hk]
@[simp] theorem Group.retire_launch (g : Group) (n : Next) (c : Nat) : (g.retire n c).launch = g.launch := by
  unfold Group.retire
  cases n with
  | goto _ _ => rfl
  | resume _ _ _ _ => rfl
  | seq =>
    cases h : g.rep with
    | none => simp
    | some r => by_cases hk : r.k < r.op.cnt.toNat <;> simp [hk]
@[simp] theorem Group.retire_team (g : Group) (n : Next) (c : Nat) : (g.retire n c).team = g.team := by
  unfold Group.retire
  cases n with
  | goto _ _ => rfl
  | resume _ _ _ _ => rfl
  | seq =>
    cases h : g.rep with
    | none => simp
    | some r => by_cases hk : r.k < r.op.cnt.toNat <;> simp [hk]
@[simp] theorem Group.retire_index (g : Group) (n : Next) (c : Nat) : (g.retire n c).index = g.index := by
  unfold Group.retire
  cases n with
  | goto _ _ => rfl
  | resume _ _ _ _ => rfl
  | seq =>
    cases h : g.rep with
    | none => simp
    | some r => by_cases hk : r.k < r.op.cnt.toNat <;> simp [hk]
@[simp] theorem Group.retire_gen (g : Group) (n : Next) (c : Nat) : (g.retire n c).gen = g.gen := by
  unfold Group.retire
  cases n with
  | goto _ _ => rfl
  | resume _ _ _ _ => rfl
  | seq =>
    cases h : g.rep with
    | none => simp
    | some r => by_cases hk : r.k < r.op.cnt.toNat <;> simp [hk]
@[simp] theorem Group.retire_s (g : Group) (n : Next) (c : Nat) : (g.retire n c).s = g.s := by
  unfold Group.retire
  cases n with
  | goto _ _ => rfl
  | resume _ _ _ _ => rfl
  | seq =>
    cases h : g.rep with
    | none => simp
    | some r => by_cases hk : r.k < r.op.cnt.toNat <;> simp [hk]
@[simp] theorem Group.retire_v (g : Group) (n : Next) (c : Nat) : (g.retire n c).v = g.v := by
  unfold Group.retire
  cases n with
  | goto _ _ => rfl
  | resume _ _ _ _ => rfl
  | seq =>
    cases h : g.rep with
    | none => simp
    | some r => by_cases hk : r.k < r.op.cnt.toNat <;> simp [hk]
@[simp] theorem Group.retire_p (g : Group) (n : Next) (c : Nat) : (g.retire n c).p = g.p := by
  unfold Group.retire
  cases n with
  | goto _ _ => rfl
  | resume _ _ _ _ => rfl
  | seq =>
    cases h : g.rep with
    | none => simp
    | some r => by_cases hk : r.k < r.op.cnt.toNat <;> simp [hk]
@[simp] theorem Group.retire_fullS (g : Group) (n : Next) (c : Nat) : (g.retire n c).fullS = g.fullS := by
  unfold Group.retire
  cases n with
  | goto _ _ => rfl
  | resume _ _ _ _ => rfl
  | seq =>
    cases h : g.rep with
    | none => simp
    | some r => by_cases hk : r.k < r.op.cnt.toNat <;> simp [hk]
@[simp] theorem Group.retire_fullV (g : Group) (n : Next) (c : Nat) : (g.retire n c).fullV = g.fullV := by
  unfold Group.retire
  cases n with
  | goto _ _ => rfl
  | resume _ _ _ _ => rfl
  | seq =>
    cases h : g.rep with
    | none => simp
    | some r => by_cases hk : r.k < r.op.cnt.toNat <;> simp [hk]
@[simp] theorem Group.retire_badS (g : Group) (n : Next) (c : Nat) : (g.retire n c).badS = g.badS := by
  unfold Group.retire
  cases n with
  | goto _ _ => rfl
  | resume _ _ _ _ => rfl
  | seq =>
    cases h : g.rep with
    | none => simp
    | some r => by_cases hk : r.k < r.op.cnt.toNat <;> simp [hk]
@[simp] theorem Group.retire_badV (g : Group) (n : Next) (c : Nat) : (g.retire n c).badV = g.badV := by
  unfold Group.retire
  cases n with
  | goto _ _ => rfl
  | resume _ _ _ _ => rfl
  | seq =>
    cases h : g.rep with
    | none => simp
    | some r => by_cases hk : r.k < r.op.cnt.toNat <;> simp [hk]
@[simp] theorem Group.retire_markV (g : Group) (n : Next) (c : Nat) : (g.retire n c).markV = g.markV := by
  unfold Group.retire
  cases n with
  | goto _ _ => rfl
  | resume _ _ _ _ => rfl
  | seq =>
    cases h : g.rep with
    | none => simp
    | some r => by_cases hk : r.k < r.op.cnt.toNat <;> simp [hk]
@[simp] theorem Group.retire_markS (g : Group) (n : Next) (c : Nat) : (g.retire n c).markS = g.markS := by
  unfold Group.retire
  cases n with
  | goto _ _ => rfl
  | resume _ _ _ _ => rfl
  | seq =>
    cases h : g.rep with
    | none => simp
    | some r => by_cases hk : r.k < r.op.cnt.toNat <;> simp [hk]
@[simp] theorem Group.retire_cache (g : Group) (n : Next) (c : Nat) : (g.retire n c).cache = g.cache := by
  unfold Group.retire
  cases n with
  | goto _ _ => rfl
  | resume _ _ _ _ => rfl
  | seq =>
    cases h : g.rep with
    | none => simp
    | some r => by_cases hk : r.k < r.op.cnt.toNat <;> simp [hk]
@[simp] theorem Group.retire_mode (g : Group) (n : Next) (c : Nat) : (g.retire n c).mode = g.mode := by
  unfold Group.retire
  cases n with
  | goto _ _ => rfl
  | resume _ _ _ _ => rfl
  | seq =>
    cases h : g.rep with
    | none => simp
    | some r => by_cases hk : r.k < r.op.cnt.toNat <;> simp [hk]
@[simp] theorem Group.retire_fill (g : Group) (n : Next) (c : Nat) : (g.retire n c).fill = g.fill := by
  unfold Group.retire
  cases n with
  | goto _ _ => rfl
  | resume _ _ _ _ => rfl
  | seq =>
    cases h : g.rep with
    | none => simp
    | some r => by_cases hk : r.k < r.op.cnt.toNat <;> simp [hk]
@[simp] theorem Group.retire_fpstat (g : Group) (n : Next) (c : Nat) : (g.retire n c).fpstat = g.fpstat := by
  unfold Group.retire
  cases n with
  | goto _ _ => rfl
  | resume _ _ _ _ => rfl
  | seq =>
    cases h : g.rep with
    | none => simp
    | some r => by_cases hk : r.k < r.op.cnt.toNat <;> simp [hk]
@[simp] theorem Group.retire_seed (g : Group) (n : Next) (c : Nat) : (g.retire n c).seed = g.seed := by
  unfold Group.retire
  cases n with
  | goto _ _ => rfl
  | resume _ _ _ _ => rfl
  | seq =>
    cases h : g.rep with
    | none => simp
    | some r => by_cases hk : r.k < r.op.cnt.toNat <;> simp [hk]
@[simp] theorem Group.retire_tvec (g : Group) (n : Next) (c : Nat) : (g.retire n c).tvec = g.tvec := by
  unfold Group.retire
  cases n with
  | goto _ _ => rfl
  | resume _ _ _ _ => rfl
  | seq =>
    cases h : g.rep with
    | none => simp
    | some r => by_cases hk : r.k < r.op.cnt.toNat <;> simp [hk]
@[simp] theorem Group.retire_tcode (g : Group) (n : Next) (c : Nat) : (g.retire n c).tcode = g.tcode := by
  unfold Group.retire
  cases n with
  | goto _ _ => rfl
  | resume _ _ _ _ => rfl
  | seq =>
    cases h : g.rep with
    | none => simp
    | some r => by_cases hk : r.k < r.op.cnt.toNat <;> simp [hk]
@[simp] theorem Group.retire_tpc (g : Group) (n : Next) (c : Nat) : (g.retire n c).tpc = g.tpc := by
  unfold Group.retire
  cases n with
  | goto _ _ => rfl
  | resume _ _ _ _ => rfl
  | seq =>
    cases h : g.rep with
    | none => simp
    | some r => by_cases hk : r.k < r.op.cnt.toNat <;> simp [hk]
@[simp] theorem Group.retire_tinfo (g : Group) (n : Next) (c : Nat) : (g.retire n c).tinfo = g.tinfo := by
  unfold Group.retire
  cases n with
  | goto _ _ => rfl
  | resume _ _ _ _ => rfl
  | seq =>
    cases h : g.rep with
    | none => simp
    | some r => by_cases hk : r.k < r.op.cnt.toNat <;> simp [hk]
@[simp] theorem Group.retire_trep (g : Group) (n : Next) (c : Nat) : (g.retire n c).trep = g.trep := by
  unfold Group.retire
  cases n with
  | goto _ _ => rfl
  | resume _ _ _ _ => rfl
  | seq =>
    cases h : g.rep with
    | none => simp
    | some r => by_cases hk : r.k < r.op.cnt.toNat <;> simp [hk]
@[simp] theorem Group.retire_dvec (g : Group) (n : Next) (c : Nat) : (g.retire n c).dvec = g.dvec := by
  unfold Group.retire
  cases n with
  | goto _ _ => rfl
  | resume _ _ _ _ => rfl
  | seq =>
    cases h : g.rep with
    | none => simp
    | some r => by_cases hk : r.k < r.op.cnt.toNat <;> simp [hk]
@[simp] theorem Group.retire_pvec (g : Group) (n : Next) (c : Nat) : (g.retire n c).pvec = g.pvec := by
  unfold Group.retire
  cases n with
  | goto _ _ => rfl
  | resume _ _ _ _ => rfl
  | seq =>
    cases h : g.rep with
    | none => simp
    | some r => by_cases hk : r.k < r.op.cnt.toNat <;> simp [hk]
@[simp] theorem Group.retire_pact (g : Group) (n : Next) (c : Nat) : (g.retire n c).pact = g.pact := by
  unfold Group.retire
  cases n with
  | goto _ _ => rfl
  | resume _ _ _ _ => rfl
  | seq =>
    cases h : g.rep with
    | none => simp
    | some r => by_cases hk : r.k < r.op.cnt.toNat <;> simp [hk]
@[simp] theorem Group.retire_dact (g : Group) (n : Next) (c : Nat) : (g.retire n c).dact = g.dact := by
  unfold Group.retire
  cases n with
  | goto _ _ => rfl
  | resume _ _ _ _ => rfl
  | seq =>
    cases h : g.rep with
    | none => simp
    | some r => by_cases hk : r.k < r.op.cnt.toNat <;> simp [hk]
@[simp] theorem Group.retire_hact (g : Group) (n : Next) (c : Nat) : (g.retire n c).hact = g.hact := by
  unfold Group.retire
  cases n with
  | goto _ _ => rfl
  | resume _ _ _ _ => rfl
  | seq =>
    cases h : g.rep with
    | none => simp
    | some r => by_cases hk : r.k < r.op.cnt.toNat <;> simp [hk]
@[simp] theorem Group.retire_level (g : Group) (n : Next) (c : Nat) : (g.retire n c).level = g.level := by
  unfold Group.retire
  cases n with
  | goto _ _ => rfl
  | resume _ _ _ _ => rfl
  | seq =>
    cases h : g.rep with
    | none => simp
    | some r => by_cases hk : r.k < r.op.cnt.toNat <;> simp [hk]
@[simp] theorem Group.retire_laneBase (g : Group) (n : Next) (c : Nat) : (g.retire n c).laneBase = g.laneBase := by
  unfold Group.retire
  cases n with
  | goto _ _ => rfl
  | resume _ _ _ _ => rfl
  | seq =>
    cases h : g.rep with
    | none => simp
    | some r => by_cases hk : r.k < r.op.cnt.toNat <;> simp [hk]
@[simp] theorem Group.retire_slots (g : Group) (n : Next) (c : Nat) : (g.retire n c).slots = g.slots := by
  unfold Group.retire
  cases n with
  | goto _ _ => rfl
  | resume _ _ _ _ => rfl
  | seq =>
    cases h : g.rep with
    | none => simp
    | some r => by_cases hk : r.k < r.op.cnt.toNat <;> simp [hk]
@[simp] theorem Group.retire_openBatch (g : Group) (n : Next) (c : Nat) : (g.retire n c).openBatch = g.openBatch := by
  unfold Group.retire
  cases n with
  | goto _ _ => rfl
  | resume _ _ _ _ => rfl
  | seq =>
    cases h : g.rep with
    | none => simp
    | some r => by_cases hk : r.k < r.op.cnt.toNat <;> simp [hk]
@[simp] theorem Group.retire_batches (g : Group) (n : Next) (c : Nat) : (g.retire n c).batches = g.batches := by
  unfold Group.retire
  cases n with
  | goto _ _ => rfl
  | resume _ _ _ _ => rfl
  | seq =>
    cases h : g.rep with
    | none => simp
    | some r => by_cases hk : r.k < r.op.cnt.toNat <;> simp [hk]
@[simp] theorem Group.retire_rwin (g : Group) (n : Next) (c : Nat) : (g.retire n c).rwin = g.rwin := by
  unfold Group.retire
  cases n with
  | goto _ _ => rfl
  | resume _ _ _ _ => rfl
  | seq =>
    cases h : g.rep with
    | none => simp
    | some r => by_cases hk : r.k < r.op.cnt.toNat <;> simp [hk]
@[simp] theorem Group.retire_batchErr (g : Group) (n : Next) (c : Nat) : (g.retire n c).batchErr = g.batchErr := by
  unfold Group.retire
  cases n with
  | goto _ _ => rfl
  | resume _ _ _ _ => rfl
  | seq =>
    cases h : g.rep with
    | none => simp
    | some r => by_cases hk : r.k < r.op.cnt.toNat <;> simp [hk]
@[simp] theorem Group.retire_bars (g : Group) (n : Next) (c : Nat) : (g.retire n c).bars = g.bars := by
  unfold Group.retire
  cases n with
  | goto _ _ => rfl
  | resume _ _ _ _ => rfl
  | seq =>
    cases h : g.rep with
    | none => simp
    | some r => by_cases hk : r.k < r.op.cnt.toNat <;> simp [hk]
@[simp] theorem Group.retire_ports (g : Group) (n : Next) (c : Nat) : (g.retire n c).ports = g.ports := by
  unfold Group.retire
  cases n with
  | goto _ _ => rfl
  | resume _ _ _ _ => rfl
  | seq =>
    cases h : g.rep with
    | none => simp
    | some r => by_cases hk : r.k < r.op.cnt.toNat <;> simp [hk]
@[simp] theorem Group.retire_sysc (g : Group) (n : Next) (c : Nat) : (g.retire n c).sysc = g.sysc := by
  unfold Group.retire
  cases n with
  | goto _ _ => rfl
  | resume _ _ _ _ => rfl
  | seq =>
    cases h : g.rep with
    | none => simp
    | some r => by_cases hk : r.k < r.op.cnt.toNat <;> simp [hk]
@[simp] theorem Group.retire_halt (g : Group) (n : Next) (c : Nat) : (g.retire n c).halt = g.halt := by
  unfold Group.retire
  cases n with
  | goto _ _ => rfl
  | resume _ _ _ _ => rfl
  | seq =>
    cases h : g.rep with
    | none => simp
    | some r => by_cases hk : r.k < r.op.cnt.toNat <;> simp [hk]
@[simp] theorem Group.retire_stopReq (g : Group) (n : Next) (c : Nat) : (g.retire n c).stopReq = g.stopReq := by
  unfold Group.retire
  cases n with
  | goto _ _ => rfl
  | resume _ _ _ _ => rfl
  | seq =>
    cases h : g.rep with
    | none => simp
    | some r => by_cases hk : r.k < r.op.cnt.toNat <;> simp [hk]
@[simp] theorem Group.retire_haltReq (g : Group) (n : Next) (c : Nat) : (g.retire n c).haltReq = g.haltReq := by
  unfold Group.retire
  cases n with
  | goto _ _ => rfl
  | resume _ _ _ _ => rfl
  | seq =>
    cases h : g.rep with
    | none => simp
    | some r => by_cases hk : r.k < r.op.cnt.toNat <;> simp [hk]
@[simp] theorem Group.retire_coopBlock (g : Group) (n : Next) (c : Nat) : (g.retire n c).coopBlock = g.coopBlock := by
  unfold Group.retire
  cases n with
  | goto _ _ => rfl
  | resume _ _ _ _ => rfl
  | seq =>
    cases h : g.rep with
    | none => simp
    | some r => by_cases hk : r.k < r.op.cnt.toNat <;> simp [hk]
@[simp] theorem Group.retire_saved (g : Group) (n : Next) (c : Nat) : (g.retire n c).saved = g.saved := by
  unfold Group.retire
  cases n with
  | goto _ _ => rfl
  | resume _ _ _ _ => rfl
  | seq =>
    cases h : g.rep with
    | none => simp
    | some r => by_cases hk : r.k < r.op.cnt.toNat <;> simp [hk]
@[simp] theorem Group.retire_stageAddr (g : Group) (n : Next) (c : Nat) : (g.retire n c).stageAddr = g.stageAddr := by
  unfold Group.retire
  cases n with
  | goto _ _ => rfl
  | resume _ _ _ _ => rfl
  | seq =>
    cases h : g.rep with
    | none => simp
    | some r => by_cases hk : r.k < r.op.cnt.toNat <;> simp [hk]
@[simp] theorem Group.retire_stageLeft (g : Group) (n : Next) (c : Nat) : (g.retire n c).stageLeft = g.stageLeft := by
  unfold Group.retire
  cases n with
  | goto _ _ => rfl
  | resume _ _ _ _ => rfl
  | seq =>
    cases h : g.rep with
    | none => simp
    | some r => by_cases hk : r.k < r.op.cnt.toNat <;> simp [hk]
@[simp] theorem Group.retire_syscDest (g : Group) (n : Next) (c : Nat) : (g.retire n c).syscDest = g.syscDest := by
  unfold Group.retire
  cases n with
  | goto _ _ => rfl
  | resume _ _ _ _ => rfl
  | seq =>
    cases h : g.rep with
    | none => simp
    | some r => by_cases hk : r.k < r.op.cnt.toNat <;> simp [hk]
@[simp] theorem Group.retire_blockedAt (g : Group) (n : Next) (c : Nat) : (g.retire n c).blockedAt = g.blockedAt := by
  unfold Group.retire
  cases n with
  | goto _ _ => rfl
  | resume _ _ _ _ => rfl
  | seq =>
    cases h : g.rep with
    | none => simp
    | some r => by_cases hk : r.k < r.op.cnt.toNat <;> simp [hk]
@[simp] theorem Group.retire_active (g : Group) (n : Next) (c : Nat) : (g.retire n c).active = g.active := by
  unfold Group.retire
  cases n with
  | goto _ _ => rfl
  | resume _ _ _ _ => rfl
  | seq =>
    cases h : g.rep with
    | none => simp
    | some r => by_cases hk : r.k < r.op.cnt.toNat <;> simp [hk]
@[simp] theorem Group.retire_yieldedAt (g : Group) (n : Next) (c : Nat) : (g.retire n c).yieldedAt = g.yieldedAt := by
  unfold Group.retire
  cases n with
  | goto _ _ => rfl
  | resume _ _ _ _ => rfl
  | seq =>
    cases h : g.rep with
    | none => simp
    | some r => by_cases hk : r.k < r.op.cnt.toNat <;> simp [hk]

/-- A word outside a REP and outside an active pinned loop goes on at the next word (05 R153). -/
theorem Group.retire_pc (g : Group) (c : Nat) (hr : g.rep = none) (hl : g.loop = none) : (g.retire .seq c).pc = g.pc + 4 := by
  simp [Group.retire, hr, Group.advance, hl]

end Sys2Proof.Machine
end

