-- ==== Sys2Proof/Laws/Word.lean ====
section
/-!
SUPPORT. What the frames of words and events do: a word of a group that passes its checks runs its body and retires, a wait
that is over runs its second part, and the checks at issue pass exactly where each of them does.
-/

set_option Elab.async false
namespace Sys2Proof.Machine

@[simp] theorem finish_done (s : State) (n : Next) : finish (.done s n) = .next (retire n s) := rfl
@[simp] theorem finish_trap (s : State) (c i : Nat) : finish (.trap s c i) = .next (trapHere c i s) := rfl
@[simp] theorem finish_wait (s : State) (b : Blocked) : finish (.wait s b) = .next (block b s) := rfl
@[simp] theorem finish_ended (s : State) : finish (.ended s) = .next s := rfl

/-- Every way that the execution of a word ends is a next state. -/
theorem finish_next (r : Res) : ∃ t, finish r = .next t := by
  cases r <;> exact ⟨_, rfl⟩

@[simp] theorem event_some (name : String) (t : State) : event name (some t) = .next t := rfl
@[simp] theorem event_none (name : String) : event name none = .fault (.notEnabled name) := rfl

/-- A word that may go runs its body on its sources; where the body completes, the word retires. -/
theorem wordG_go {i : Instr} {uses : List Use} {s : State} (h : MayGo i uses s) (body : State → List VReg → Res) :
    wordG i uses s body = (match body s (sourceRegs s.me uses []) with
      | .done s1 n => .next (retire n (leaveWord s uses s1))
      | r => finish r) := by
  obtain ⟨hc, hi⟩ := h
  unfold wordG wordW
  cases hcur : s.cur with
  | sequencer c => simp [hcur] at hc
  | group q =>
    simp only [hi]
    cases body s (sourceRegs s.me uses []) <;> rfl

/-- A word that may go and whose body completes. -/
theorem wordG_done {i : Instr} {uses : List Use} {s : State} (h : MayGo i uses s) {body : State → List VReg → Res}
    {t : State} {n : Next} (hb : body s (sourceRegs s.me uses []) = .done t n) :
    wordG i uses s body = .next (retire n (leaveWord s uses t)) := by
  rw [wordG_go h, hb]

/-- A word of a group ends in a next state, whatever its checks find. -/
theorem wordG_next (i : Instr) (uses : List Use) (s : State) (body : State → List VReg → Res) :
    ∃ t, wordG i uses s body = .next t := by
  unfold wordG wordW
  cases s.cur with
  | sequencer c => exact ⟨_, rfl⟩
  | group q =>
    cases hi : issueCheck (encode i) uses s with
    | some r => simpa [hi] using finish_next r
    | none =>
      simp only []
      cases body s (sourceRegs s.me uses []) <;> exact ⟨_, rfl⟩

/-- A word that reads no port takes nothing from a port. -/
theorem popPorts_same (uses : List Use) (s : State)
    (h : uses.all (fun u => match u with
      | .vs n _ _ => decide (n < 112)
      | _ => true) = true) : popPorts uses s = s := by
  unfold popPorts
  induction uses generalizing s with
  | nil => rfl
  | cons u us ih =>
    simp only [List.all_cons, Bool.and_eq_true] at h
    cases u <;> simp_all

/-- A word with no vector source leaves nothing behind. -/
theorem leaveWord_same (s : State) (uses : List Use) (s1 : State)
    (h : uses.all (fun u => match u with
      | .vs _ _ _ | .vreg _ _ _ => false
      | _ => true) = true) : leaveWord s uses s1 = s1 := by
  have hm : stageMisses s.me uses = 0 := by
    unfold stageMisses
    rw [List.filter_eq_nil_iff.mpr, List.length_nil]
    intro u hu
    have hu' := List.all_eq_true.mp h u hu
    cases u <;> simp_all
  have hp : popPorts uses s1 = s1 := by
    apply popPorts_same
    rw [List.all_eq_true] at h ⊢
    intro u hu
    have hu' := h u hu
    cases u <;> simp_all
  rw [leaveWord, hm, hp, countMe, count]
  simp

/-- The checks at issue pass exactly where each of them does (04 R107). -/
theorem issueCheck_none (w : W32) (uses : List Use) (s : State) :
    issueCheck w uses s = none ↔
      uses.any (Use.denied s s.me) = false ∧ uses.findSome? (Use.illegal (s.vtop s.me)) = none
        ∧ uses.findSome? (Use.closed s.me) = none ∧ uses.findSome? (Use.emptyTrap s.me uses) = none
        ∧ uses.any (Use.waits s.me uses) = false ∧ uses.findSome? (Use.badRead s s.me uses) = none := by
  unfold issueCheck
  dsimp only
  cases uses.any (Use.denied s s.me) <;> cases uses.findSome? (Use.illegal (s.vtop s.me)) <;>
    cases uses.findSome? (Use.closed s.me) <;> cases uses.findSome? (Use.emptyTrap s.me uses) <;>
    cases uses.any (Use.waits s.me uses) <;> cases uses.findSome? (Use.badRead s s.me uses) <;> simp

/-- A wake of a group that runs and waits with a word whose second part completes. -/
theorem wakeWord_done {name : String} {q : Nat} {s : State} {f : Blocked → Option (State → Res)} {body : State → Res}
    {t : State} {n : Next} (hr : (groupAt s q).st = .running) (hm : mayRunAt s (dieOf q) (groupAt s q).vf = true) (hb : (groupAt s q).blocked.bind f = some body)
    (hd : body { s with cur := .group q } = .done t n) :
    wakeWord name q s f = .next { retire n t with cur := s.cur } := by
  unfold wakeWord
  simp only [hr, hm, hb, beq_self_eq_true, Bool.and_self, hd]

end Sys2Proof.Machine
end

