-- ==== Sys2Proof/Laws/Trap.lean ====
section
/-!
SUPPORT. What a write of memory, a trace record, an event record, the entry of a handler and a halt can change: each lemma
names the fields that differ afterwards, so that every other field is as it was.
-/

set_option Elab.async false
namespace Sys2Proof.Machine

/-- A change of the key of a line touches memory and its keys alone. -/
theorem rekey_eq (s : State) (key pa : Nat) : ∃ m l, rekey s key pa = { s with mem := m, lineKey := l } := by
  unfold rekey
  split
  · exact ⟨_, _, rfl⟩
  · split
    · exact ⟨_, _, rfl⟩
    · dsimp only
      split <;> exact ⟨_, _, rfl⟩

theorem writePa_eq (key pa : Nat) (b : Byte) (s : State) :
    ∃ m l d, writePa key pa b s = { s with mem := m, lineKey := l, badLines := d } := by
  unfold writePa
  obtain ⟨m, l, h⟩ := rekey_eq s key pa
  rw [h]
  exact ⟨_, _, _, rfl⟩

theorem foldl_writePa_eq {α : Type} (ps : List α) (f : α → Nat × Nat × Byte) (s : State) :
    ∃ m l d, ps.foldl (fun t p => writePa (f p).1 (f p).2.1 (f p).2.2 t) s
      = { s with mem := m, lineKey := l, badLines := d } := by
  induction ps generalizing s with
  | nil => exact ⟨_, _, _, rfl⟩
  | cons p ps ih =>
    simp only [List.foldl_cons]
    obtain ⟨m, l, d, h⟩ := writePa_eq (f p).1 (f p).2.1 (f p).2.2 s
    obtain ⟨m', l', d', h'⟩ := ih (writePa (f p).1 (f p).2.1 (f p).2.2 s)
    exact ⟨m', l', d', by rw [h', h]⟩

/-- A write of bytes touches memory, its keys and its marks alone. -/
theorem writePas_eq (key pa : Nat) (bs : List Byte) (s : State) :
    ∃ m l d, writePas key pa bs s = { s with mem := m, lineKey := l, badLines := d } :=
  foldl_writePa_eq ((List.range bs.length).zip bs) (fun p => (key, pa + p.1, p.2)) s

/-- A write of the hub touches memory, or joins those that wait for a held die. -/
theorem writeHub_eq (key pa : Nat) (b : Byte) (s : State) :
    ∃ m l d w, writeHub key pa b s = { s with mem := m, lineKey := l, badLines := d, hubWrites := w } := by
  unfold writeHub
  split
  · exact ⟨_, _, _, _, rfl⟩
  · obtain ⟨m, l, d, h⟩ := writePa_eq key pa b s
    exact ⟨m, l, d, _, h⟩

theorem writeGpa_eq {vf gpa : Nat} {bs : List Byte} {s t : State} (h : writeGpa vf gpa bs s = some t) :
    ∃ m l d w, t = { s with mem := m, lineKey := l, badLines := d, hubWrites := w } := by
  unfold writeGpa at h
  split at h
  · simp only [Option.some.injEq] at h
    subst h
    generalize (List.range bs.length).zip bs = ps
    suffices ∀ t, (∃ m l d w, t = { s with mem := m, lineKey := l, badLines := d, hubWrites := w }) →
        ∃ m l d w, ps.foldl (fun t p => match gpaToPa s vf (gpa + p.1) true with
          | some pa => writeHub (keyNum s vf) pa p.2 t
          | none => t) t = { s with mem := m, lineKey := l, badLines := d, hubWrites := w } from this s ⟨_, _, _, _, rfl⟩
    induction ps with
    | nil => exact fun t ht => ht
    | cons p ps ih =>
      intro t ht
      apply ih
      dsimp only
      split
      · obtain ⟨m, l, d, w, e⟩ := ht
        obtain ⟨m', l', d', w', e'⟩ := writeHub_eq (keyNum s vf) _ p.2 t
        exact ⟨m', l', d', w', by rw [e', e]⟩
      · exact ht
  · exact absurd h (by simp)

/-- A trace record touches the trace of its die, and memory where the buffer lies there. -/
theorem capture_eq (die cls code vf : Nat) (cg : W64) (p : Option Nat) (s : State) :
    ∃ m l b d, capture die cls code vf cg p s = { s with mem := m, lineKey := l, badLines := b, dies := d } := by
  unfold capture
  dsimp only
  split
  · split
    · exact (writePas_eq _ _ _ _).elim fun m h => h.elim fun l h => h.elim fun b h => ⟨m, l, b, _, h⟩
    · exact ⟨_, _, _, _, rfl⟩
  · exact ⟨_, _, _, _, rfl⟩

/-- An event record touches the ring's registers, its memory or what waits for it, the trace and the messages sent. -/
theorem postEvent_eq (ring ty vfn die : Nat) (cg : W64) (pl : List Byte) (s : State) :
    ∃ m l b d v x w, postEvent ring ty vfn die cg pl s
      = { s with mem := m, lineKey := l, badLines := b, dies := d, vfs := v, msix := x, hubWrites := w } := by
  have traced (s1 : State)
      (h : ∃ m l b v x w, s1 = { s with mem := m, lineKey := l, badLines := b, vfs := v, msix := x, hubWrites := w }) :
      ∃ m l b d v x w, capture die 7 ty vfn cg none s1
        = { s with mem := m, lineKey := l, badLines := b, dies := d, vfs := v, msix := x, hubWrites := w } := by
    obtain ⟨m, l, b, v, x, w, h⟩ := h
    obtain ⟨m', l', b', d', h'⟩ := capture_eq die 7 ty vfn cg none s1
    exact ⟨m', l', b', d', v, x, w, by rw [h', h]⟩
  unfold postEvent
  dsimp only
  split
  · exact ⟨_, _, _, _, _, _, _, rfl⟩
  · apply traced
    split
    · exact ⟨_, _, _, _, _, _, rfl⟩
    · split
      · exact ⟨_, _, _, _, _, _, rfl⟩
      · rename_i s1 h
        obtain ⟨m, l, b, w, e⟩ := writeGpa_eq h
        subst e
        unfold sendMsix
        split <;> exact ⟨_, _, _, _, _, _, rfl⟩

@[simp] theorem groupAt_capture (die cls code vf : Nat) (cg : W64) (p : Option Nat) (s : State) (q : Nat) :
    groupAt (capture die cls code vf cg p s) q = groupAt s q := by
  obtain ⟨m, l, b, d, h⟩ := capture_eq die cls code vf cg p s
  rw [h]; rfl

@[simp] theorem qid_capture (die cls code vf : Nat) (cg : W64) (p : Option Nat) (s : State) :
    (capture die cls code vf cg p s).qid = s.qid := by
  obtain ⟨m, l, b, d, h⟩ := capture_eq die cls code vf cg p s
  rw [h]; rfl

@[simp] theorem groupAt_postEvent (ring ty vfn die : Nat) (cg : W64) (pl : List Byte) (s : State) (q : Nat) :
    groupAt (postEvent ring ty vfn die cg pl s) q = groupAt s q := by
  obtain ⟨m, l, b, d, v, x, w, h⟩ := postEvent_eq ring ty vfn die cg pl s
  rw [h]; rfl

/-- Where a trap finds an active handler, no vector or, for a debug event, no debugger, the group halts (05 R124, R128). -/
theorem takeTrap_halts {q code : Nat} {info ret : W64} {s : State}
    (h : ((groupAt s q).hact || (groupAt s q).dact || (groupAt s q).pact
      || (if code = 17 then (groupAt s q).pvec else if isDebugEvent code then (groupAt s q).dvec else (groupAt s q).tvec) == 0
      || (isDebugEvent code && !dattOf s (groupAt s q))) = true) :
    takeTrap q code info ret s
      = haltGroup q code info ret (modGroup q (fun g => { g with hint := none, step := g.stepLeft })
          (capture (dieOf q) 1 code (groupAt s q).vf (cgidOf q (groupAt s q)) none s)) := by
  unfold takeTrap
  exact if_pos h

/-- Otherwise it enters the handler (05 R124). -/
theorem takeTrap_enters {q code : Nat} {info ret : W64} {s : State}
    (h : ((groupAt s q).hact || (groupAt s q).dact || (groupAt s q).pact
      || (if code = 17 then (groupAt s q).pvec else if isDebugEvent code then (groupAt s q).dvec else (groupAt s q).tvec) == 0
      || (isDebugEvent code && !dattOf s (groupAt s q))) = false) :
    takeTrap q code info ret s = modGroup q (fun g => { g.unmark with
      tpc := ret, tcode := BitVec.ofNat 64 code, tinfo := info, trep := g.trepNow,
      hact := g.hact || (!isDebugEvent code && code != 17), dact := g.dact || isDebugEvent code, pact := g.pact || code == 17,
      pc := if code = 17 then (groupAt s q).pvec else if isDebugEvent code then (groupAt s q).dvec else (groupAt s q).tvec
      hint := none, rep := none, repResume := none, barHalf := false, blocked := none, step := .off, failPages := [],
      suppress := g.suppress && (code == 16 || code == 17)
      loop := g.loop.map (fun l => { l with suspended := true }) })
        (capture (dieOf q) 1 code (groupAt s q).vf (cgidOf q (groupAt s q)) none s) := by
  unfold takeTrap
  exact if_neg (by rw [h]; exact Bool.false_ne_true)

/-- The group that halts, after it (05 R124, 19 R428). -/
theorem groupAt_haltGroup (q code : Nat) (info ret : W64) (s : State) :
    groupAt (haltGroup q code info ret s) q = { (groupAt s q).unmark with
      st := .halted, halt := { code := BitVec.ofNat 8 code, info := info, ret := ret }, pc := ret, rep := none,
      repResume := (match (groupAt s q).rep with
        | some r => some r.k
        | none => (groupAt s q).repResume)
      hint := (groupAt s q).hintBack
      active := false, cache := [], haltReq := none,
      blocked := match (groupAt s q).blocked with
        | some (.bar o) => some (.bar o)
        | _ => none } := by
  unfold haltGroup
  simp only [groupAt_postEvent, groupAt_modCore, groupAt_modGroup_same] <;> rfl

end Sys2Proof.Machine
end

