-- ==== Sys2Proof/Laws/Lanes.lean ====
section
/-!
SUPPORT. Masks over the slots of a group: a mask has the bit of a slot set exactly where the test of that slot holds.
-/

set_option Elab.async false
namespace Sys2Proof.Machine

theorem maskOf_sum (f : Nat → Bool) (n : Nat) :
    (List.range n).foldl (fun acc s => if f s then acc + 2 ^ s else acc) 0 < 2 ^ n
      ∧ ∀ k, k < n → ((List.range n).foldl (fun acc s => if f s then acc + 2 ^ s else acc) 0).testBit k = f k := by
  induction n with
  | zero => exact ⟨by simp, fun k h => absurd h (by omega)⟩
  | succ n ih =>
    obtain ⟨h1, h2⟩ := ih
    simp only [List.range_succ, List.foldl_append, List.foldl_cons, List.foldl_nil]
    generalize (List.range n).foldl (fun acc s => if f s then acc + 2 ^ s else acc) 0 = x at h1 h2
    refine ⟨by split <;> omega, fun k hk => ?_⟩
    by_cases e : k = n
    · subst e
      have hx : x.testBit k = false := Nat.testBit_lt_two_pow h1
      cases hf : f k
      · simpa using hx
      · simp [Nat.add_comm x, Nat.testBit_two_pow_add_eq, hx]
    · have hk' : k < n := by omega
      cases f n
      · simpa using h2 k hk'
      · simpa [Nat.add_comm x, Nat.testBit_two_pow_add_gt hk'] using h2 k hk'

/-- Bit k of a mask. -/
theorem maskOf_getLsbD (f : Nat → Bool) (k : Nat) (h : k < 32) : (maskOf f).getLsbD k = f k := by
  simp only [maskOf, BitVec.getLsbD_ofNat, h, decide_true, Bool.true_and]
  exact (maskOf_sum f 32).2 k h

/-- A mask has no bit beyond the slots. -/
theorem maskOf_ext (f g : Nat → Bool) (h : ∀ k, k < 32 → f k = g k) : maskOf f = maskOf g := by
  apply BitVec.eq_of_getLsbD_eq
  intro k hk
  rw [maskOf_getLsbD f k hk, maskOf_getLsbD g k hk, h k hk]

theorem Group.liveMask_getLsbD (g : Group) (k : Nat) (h : k < 32) : g.liveMask.getLsbD k = g.live k := maskOf_getLsbD _ k h

/-- A predicate that is written keeps its bits at the live slots and has 0 elsewhere (02 R48). -/
theorem Group.readP_writeP_same (g : Group) (n : Nat) (v : W32) (h : n ≠ 0) : (g.writeP n v).readP n = v &&& g.liveMask := by
  simp [Group.writeP, Group.writePraw, Group.readP, h]

theorem Group.readP_writeP_other (g : Group) (n m : Nat) (v : W32) (h : m ≠ n) : (g.writeP n v).readP m = g.readP m := by
  by_cases h0 : n = 0
  · simp [Group.writeP, Group.writePraw, h0]
  · by_cases h1 : m = 0
    · simp only [Group.writeP, Group.writePraw, Group.readP, h0, h1, if_true, if_false]
      rfl
    · simp [Group.writeP, Group.writePraw, Group.readP, h0, h1, h]

end Sys2Proof.Machine
end

