-- ==== Sys2Proof/Laws/PerInstr.lean ====
section
/-!
SUPPORT. Statements for all instructions, made per instruction.
-/

set_option Elab.async false
namespace Sys2Proof.Laws.RoundTrip

/-- The decoder reads from the word of a well-formed instruction that instruction. -/
def Statement (i : Instr) : Prop := i.isWord = true → i.wellFormed = true → decode (encode i) = .ok i

theorem fld_of (w : BitVec 32) (lo n : Nat) (x : BitVec n) (h : w.toNat / 2 ^ lo % 2 ^ n = x.toNat) : fld lo n w = x := by
  apply BitVec.eq_of_toNat_eq
  simp only [fld, BitVec.toNat_ofNat, h]

theorem flag_of (w : BitVec 32) (lo : Nat) (b : Bool) (h : w.toNat / 2 ^ lo % 2 = b.toNat) : flag lo w = b := by
  unfold flag
  rw [h]
  cases b <;> rfl

theorem fld_val (w : BitVec 32) (lo n v : Nat) (h : w.toNat / 2 ^ lo % 2 ^ n = v) : (fld lo n w).toNat = v := by
  simp only [fld, BitVec.toNat_ofNat, h]

theorem hi_div (w : BitVec 32) (m t lo : Nat) (g : w.toNat / 2 ^ t = m / 2 ^ t) (h : t ≤ lo) :
    w.toNat / 2 ^ lo = m / 2 ^ lo := by
  obtain ⟨k, rfl⟩ := Nat.exists_eq_add_of_le h
  rw [Nat.pow_add, ← Nat.div_div_eq_div_mul, ← Nat.div_div_eq_div_mul, g]

theorem hi_fld (w : BitVec 32) (m t lo n v : Nat) (g : w.toNat / 2 ^ t = m / 2 ^ t) (h : t ≤ lo)
    (hv : m / 2 ^ lo % 2 ^ n = v) : (fld lo n w).toNat = v := fld_val w lo n v (by rw [hi_div w m t lo g h, hv])

theorem hi_flag (w : BitVec 32) (m t lo : Nat) (b : Bool) (g : w.toNat / 2 ^ t = m / 2 ^ t) (h : t ≤ lo)
    (hv : m / 2 ^ lo % 2 = b.toNat) : flag lo w = b := flag_of w lo b (by rw [hi_div w m t lo g h, hv])

theorem hi_zero (w : BitVec 32) (m t lo n : Nat) (g : w.toNat / 2 ^ t = m / 2 ^ t) (h : t ≤ lo)
    (hv : m / 2 ^ lo % 2 ^ n = 0) : w.toNat / 2 ^ lo % 2 ^ n = 0 := by rw [hi_div w m t lo g h, hv]

theorem decode_of (i : Instr) (w : BitVec 32) (h : rawDecode w = some i)
    (hz : ∀ z ∈ i.zeroFields, w.toNat / 2 ^ z.2 % 2 ^ (z.1 + 1 - z.2) = 0) (hw : i.wellFormed = true) :
    decode w = .ok i := by
  have hz0 : i.zeroFields.filter (fun z => w.toNat / 2 ^ z.2 % 2 ^ (z.1 + 1 - z.2) != 0) = [] := by
    simp only [List.filter_eq_nil_iff, bne_iff_ne, ne_eq, Decidable.not_not]
    exact hz
  have hc0 : i.codeRules.filter (fun r => r.2) = [] := by
    have hw' : i.codeRules.all (fun r => !r.2) = true := by
      simp only [Instr.wellFormed, Bool.and_eq_true] at hw
      exact hw.1
    simp only [List.all_eq_true, Bool.not_eq_true'] at hw'
    simp only [List.filter_eq_nil_iff]
    intro r hr
    simp [hw' r hr]
  simp [decode, h, badField, hz0, hc0]

theorem OpHint_val (m : Nat) (o : OpHint) (h : m + 2 ^ 26 ≤ 2 ^ 32) : (o.pack m).toNat = m + o.gaps.toNat * 2 ^ 10 + o.yields.toNat * 2 ^ 2 := by
  have l0 := o.gaps.isLt
  have l1 := o.yields.isLt
  simp only [OpHint.pack, BitVec.toNat_ofNat]
  omega

theorem OpHint_rt (m : Nat) (o : OpHint) (h : m + 2 ^ 26 ≤ 2 ^ 32) (hm : m % 2 ^ 26 = 0) :
    (o.pack m).toNat / 2 ^ 26 = m / 2 ^ 26 ∧ OpHint.unpack (o.pack m) = o := by
  have l0 := o.gaps.isLt
  have l1 := o.yields.isLt
  have e := OpHint_val m o h
  have u0 : fld 10 16 (o.pack m) = o.gaps := fld_of _ _ _ _ (by omega)
  have u1 : fld 2 8 (o.pack m) = o.yields := fld_of _ _ _ _ (by omega)
  exact ⟨by omega, by simp only [OpHint.unpack, u0, u1]⟩

theorem OpRep_val (m : Nat) (o : OpRep) (h : m + 2 ^ 26 ≤ 2 ^ 32) : (o.pack m).toNat = m + o.cnt.toNat * 2 ^ 20 + o.fmD.toNat * 2 ^ 19 + o.fmA.toNat * 2 ^ 18 + o.fmB.toNat * 2 ^ 17 + o.str.toNat * 2 ^ 15 := by
  have l0 := o.cnt.isLt
  have l1 := o.fmD.toNat_le
  have l2 := o.fmA.toNat_le
  have l3 := o.fmB.toNat_le
  have l4 := o.str.isLt
  simp only [OpRep.pack, BitVec.toNat_ofNat]
  omega

theorem OpRep_rt (m : Nat) (o : OpRep) (h : m + 2 ^ 26 ≤ 2 ^ 32) (hm : m % 2 ^ 26 = 0) :
    (o.pack m).toNat / 2 ^ 26 = m / 2 ^ 26 ∧ OpRep.unpack (o.pack m) = o := by
  have l0 := o.cnt.isLt
  have l1 := o.fmD.toNat_le
  have l2 := o.fmA.toNat_le
  have l3 := o.fmB.toNat_le
  have l4 := o.str.isLt
  have e := OpRep_val m o h
  have u0 : fld 20 6 (o.pack m) = o.cnt := fld_of _ _ _ _ (by omega)
  have u1 : flag 19 (o.pack m) = o.fmD := flag_of _ _ _ (by omega)
  have u2 : flag 18 (o.pack m) = o.fmA := flag_of _ _ _ (by omega)
  have u3 : flag 17 (o.pack m) = o.fmB := flag_of _ _ _ (by omega)
  have u4 : fld 15 2 (o.pack m) = o.str := fld_of _ _ _ _ (by omega)
  exact ⟨by omega, by simp only [OpRep.unpack, u0, u1, u2, u3, u4]⟩

theorem OpStage_val (m : Nat) (o : OpStage) (h : m + 2 ^ 21 ≤ 2 ^ 32) : (o.pack m).toNat = m + o.vd.toNat * 2 ^ 14 + o.va.toNat * 2 ^ 7 + o.vb.toNat := by
  have l0 := o.vd.isLt
  have l1 := o.va.isLt
  have l2 := o.vb.isLt
  simp only [OpStage.pack, BitVec.toNat_ofNat]
  omega

theorem OpStage_rt (m : Nat) (o : OpStage) (h : m + 2 ^ 21 ≤ 2 ^ 32) (hm : m % 2 ^ 21 = 0) :
    (o.pack m).toNat / 2 ^ 21 = m / 2 ^ 21 ∧ OpStage.unpack (o.pack m) = o := by
  have l0 := o.vd.isLt
  have l1 := o.va.isLt
  have l2 := o.vb.isLt
  have e := OpStage_val m o h
  have u0 : fld 14 7 (o.pack m) = o.vd := fld_of _ _ _ _ (by omega)
  have u1 : fld 7 7 (o.pack m) = o.va := fld_of _ _ _ _ (by omega)
  have u2 : fld 0 7 (o.pack m) = o.vb := fld_of _ _ _ _ (by omega)
  exact ⟨by omega, by simp only [OpStage.unpack, u0, u1, u2]⟩

theorem OpMode_val (m : Nat) (o : OpMode) (h : m + 2 ^ 19 ≤ 2 ^ 32) : (o.pack m).toNat = m + o.mask.toNat * 2 ^ 13 + o.nanp.toNat * 2 ^ 12 + o.ftz.toNat * 2 ^ 11 + o.sat.toNat * 2 ^ 10 + o.rnd.toNat * 2 ^ 7 + o.et.toNat * 2 ^ 3 + o.grd.toNat := by
  have l0 := o.mask.isLt
  have l1 := o.nanp.toNat_le
  have l2 := o.ftz.toNat_le
  have l3 := o.sat.toNat_le
  have l4 := o.rnd.isLt
  have l5 := o.et.isLt
  have l6 := o.grd.isLt
  simp only [OpMode.pack, BitVec.toNat_ofNat]
  omega

theorem OpMode_rt (m : Nat) (o : OpMode) (h : m + 2 ^ 19 ≤ 2 ^ 32) (hm : m % 2 ^ 19 = 0) :
    (o.pack m).toNat / 2 ^ 19 = m / 2 ^ 19 ∧ OpMode.unpack (o.pack m) = o := by
  have l0 := o.mask.isLt
  have l1 := o.nanp.toNat_le
  have l2 := o.ftz.toNat_le
  have l3 := o.sat.toNat_le
  have l4 := o.rnd.isLt
  have l5 := o.et.isLt
  have l6 := o.grd.isLt
  have e := OpMode_val m o h
  have u0 : fld 13 6 (o.pack m) = o.mask := fld_of _ _ _ _ (by omega)
  have u1 : flag 12 (o.pack m) = o.nanp := flag_of _ _ _ (by omega)
  have u2 : flag 11 (o.pack m) = o.ftz := flag_of _ _ _ (by omega)
  have u3 : flag 10 (o.pack m) = o.sat := flag_of _ _ _ (by omega)
  have u4 : fld 7 3 (o.pack m) = o.rnd := fld_of _ _ _ _ (by omega)
  have u5 : fld 3 4 (o.pack m) = o.et := fld_of _ _ _ _ (by omega)
  have u6 : fld 0 3 (o.pack m) = o.grd := fld_of _ _ _ _ (by omega)
  exact ⟨by omega, by simp only [OpMode.unpack, u0, u1, u2, u3, u4, u5, u6]⟩

theorem OpA_val (m : Nat) (o : OpA) (h : m + 2 ^ 6 ≤ 2 ^ 32) : (o.pack m).toNat = m + o.sa.toNat := by
  have l0 := o.sa.isLt
  simp only [OpA.pack, BitVec.toNat_ofNat]
  omega

theorem OpA_rt (m : Nat) (o : OpA) (h : m + 2 ^ 6 ≤ 2 ^ 32) (hm : m % 2 ^ 6 = 0) :
    (o.pack m).toNat / 2 ^ 6 = m / 2 ^ 6 ∧ OpA.unpack (o.pack m) = o := by
  have l0 := o.sa.isLt
  have e := OpA_val m o h
  have u0 : fld 0 6 (o.pack m) = o.sa := fld_of _ _ _ _ (by omega)
  exact ⟨by omega, by simp only [OpA.unpack, u0]⟩

theorem OpD_val (m : Nat) (o : OpD) (h : m + 2 ^ 6 ≤ 2 ^ 32) : (o.pack m).toNat = m + o.sd.toNat := by
  have l0 := o.sd.isLt
  simp only [OpD.pack, BitVec.toNat_ofNat]
  omega

theorem OpD_rt (m : Nat) (o : OpD) (h : m + 2 ^ 6 ≤ 2 ^ 32) (hm : m % 2 ^ 6 = 0) :
    (o.pack m).toNat / 2 ^ 6 = m / 2 ^ 6 ∧ OpD.unpack (o.pack m) = o := by
  have l0 := o.sd.isLt
  have e := OpD_val m o h
  have u0 : fld 0 6 (o.pack m) = o.sd := fld_of _ _ _ _ (by omega)
  exact ⟨by omega, by simp only [OpD.unpack, u0]⟩

theorem OpSget_val (m : Nat) (o : OpSget) (h : m + 2 ^ 18 ≤ 2 ^ 32) : (o.pack m).toNat = m + o.sd.toNat * 2 ^ 12 + o.num.toNat := by
  have l0 := o.sd.isLt
  have l1 := o.num.isLt
  simp only [OpSget.pack, BitVec.toNat_ofNat]
  omega

theorem OpSget_rt (m : Nat) (o : OpSget) (h : m + 2 ^ 18 ≤ 2 ^ 32) (hm : m % 2 ^ 18 = 0) :
    (o.pack m).toNat / 2 ^ 18 = m / 2 ^ 18 ∧ OpSget.unpack (o.pack m) = o := by
  have l0 := o.sd.isLt
  have l1 := o.num.isLt
  have e := OpSget_val m o h
  have u0 : fld 12 6 (o.pack m) = o.sd := fld_of _ _ _ _ (by omega)
  have u1 : fld 0 12 (o.pack m) = o.num := fld_of _ _ _ _ (by omega)
  exact ⟨by omega, by simp only [OpSget.unpack, u0, u1]⟩

theorem OpSset_val (m : Nat) (o : OpSset) (h : m + 2 ^ 18 ≤ 2 ^ 32) : (o.pack m).toNat = m + o.sa.toNat * 2 ^ 12 + o.num.toNat := by
  have l0 := o.sa.isLt
  have l1 := o.num.isLt
  simp only [OpSset.pack, BitVec.toNat_ofNat]
  omega

theorem OpSset_rt (m : Nat) (o : OpSset) (h : m + 2 ^ 18 ≤ 2 ^ 32) (hm : m % 2 ^ 18 = 0) :
    (o.pack m).toNat / 2 ^ 18 = m / 2 ^ 18 ∧ OpSset.unpack (o.pack m) = o := by
  have l0 := o.sa.isLt
  have l1 := o.num.isLt
  have e := OpSset_val m o h
  have u0 : fld 12 6 (o.pack m) = o.sa := fld_of _ _ _ _ (by omega)
  have u1 : fld 0 12 (o.pack m) = o.num := fld_of _ _ _ _ (by omega)
  exact ⟨by omega, by simp only [OpSset.unpack, u0, u1]⟩

theorem OpImm_val (m : Nat) (o : OpImm) (h : m + 2 ^ 16 ≤ 2 ^ 32) : (o.pack m).toNat = m + o.imm.toNat := by
  have l0 := o.imm.isLt
  simp only [OpImm.pack, BitVec.toNat_ofNat]
  omega

theorem OpImm_rt (m : Nat) (o : OpImm) (h : m + 2 ^ 16 ≤ 2 ^ 32) (hm : m % 2 ^ 16 = 0) :
    (o.pack m).toNat / 2 ^ 16 = m / 2 ^ 16 ∧ OpImm.unpack (o.pack m) = o := by
  have l0 := o.imm.isLt
  have e := OpImm_val m o h
  have u0 : fld 0 16 (o.pack m) = o.imm := fld_of _ _ _ _ (by omega)
  exact ⟨by omega, by simp only [OpImm.unpack, u0]⟩

theorem OpDA_val (m : Nat) (o : OpDA) (h : m + 2 ^ 12 ≤ 2 ^ 32) : (o.pack m).toNat = m + o.sa.toNat * 2 ^ 6 + o.sd.toNat := by
  have l0 := o.sa.isLt
  have l1 := o.sd.isLt
  simp only [OpDA.pack, BitVec.toNat_ofNat]
  omega

theorem OpDA_rt (m : Nat) (o : OpDA) (h : m + 2 ^ 12 ≤ 2 ^ 32) (hm : m % 2 ^ 12 = 0) :
    (o.pack m).toNat / 2 ^ 12 = m / 2 ^ 12 ∧ OpDA.unpack (o.pack m) = o := by
  have l0 := o.sa.isLt
  have l1 := o.sd.isLt
  have e := OpDA_val m o h
  have u0 : fld 6 6 (o.pack m) = o.sa := fld_of _ _ _ _ (by omega)
  have u1 : fld 0 6 (o.pack m) = o.sd := fld_of _ _ _ _ (by omega)
  exact ⟨by omega, by simp only [OpDA.unpack, u0, u1]⟩

theorem OpBr_val (m : Nat) (o : OpBr) (h : m + 2 ^ 22 ≤ 2 ^ 32) : (o.pack m).toNat = m + o.sa.toNat * 2 ^ 16 + o.off.toNat := by
  have l0 := o.sa.isLt
  have l1 := o.off.isLt
  simp only [OpBr.pack, BitVec.toNat_ofNat]
  omega

theorem OpBr_rt (m : Nat) (o : OpBr) (h : m + 2 ^ 22 ≤ 2 ^ 32) (hm : m % 2 ^ 22 = 0) :
    (o.pack m).toNat / 2 ^ 22 = m / 2 ^ 22 ∧ OpBr.unpack (o.pack m) = o := by
  have l0 := o.sa.isLt
  have l1 := o.off.isLt
  have e := OpBr_val m o h
  have u0 : fld 16 6 (o.pack m) = o.sa := fld_of _ _ _ _ (by omega)
  have u1 : fld 0 16 (o.pack m) = o.off := fld_of _ _ _ _ (by omega)
  exact ⟨by omega, by simp only [OpBr.unpack, u0, u1]⟩

theorem OpBrP_val (m : Nat) (o : OpBrP) (h : m + 2 ^ 19 ≤ 2 ^ 32) : (o.pack m).toNat = m + o.pa.toNat * 2 ^ 16 + o.off.toNat := by
  have l0 := o.pa.isLt
  have l1 := o.off.isLt
  simp only [OpBrP.pack, BitVec.toNat_ofNat]
  omega

theorem OpBrP_rt (m : Nat) (o : OpBrP) (h : m + 2 ^ 19 ≤ 2 ^ 32) (hm : m % 2 ^ 19 = 0) :
    (o.pack m).toNat / 2 ^ 19 = m / 2 ^ 19 ∧ OpBrP.unpack (o.pack m) = o := by
  have l0 := o.pa.isLt
  have l1 := o.off.isLt
  have e := OpBrP_val m o h
  have u0 : fld 16 3 (o.pack m) = o.pa := fld_of _ _ _ _ (by omega)
  have u1 : fld 0 16 (o.pack m) = o.off := fld_of _ _ _ _ (by omega)
  exact ⟨by omega, by simp only [OpBrP.unpack, u0, u1]⟩

theorem OpBrAlways_val (m : Nat) (o : OpBrAlways) (h : m + 2 ^ 16 ≤ 2 ^ 32) : (o.pack m).toNat = m + o.off.toNat := by
  have l0 := o.off.isLt
  simp only [OpBrAlways.pack, BitVec.toNat_ofNat]
  omega

theorem OpBrAlways_rt (m : Nat) (o : OpBrAlways) (h : m + 2 ^ 16 ≤ 2 ^ 32) (hm : m % 2 ^ 16 = 0) :
    (o.pack m).toNat / 2 ^ 16 = m / 2 ^ 16 ∧ OpBrAlways.unpack (o.pack m) = o := by
  have l0 := o.off.isLt
  have e := OpBrAlways_val m o h
  have u0 : fld 0 16 (o.pack m) = o.off := fld_of _ _ _ _ (by omega)
  exact ⟨by omega, by simp only [OpBrAlways.unpack, u0]⟩

theorem OpJ_val (m : Nat) (o : OpJ) (h : m + 2 ^ 26 ≤ 2 ^ 32) : (o.pack m).toNat = m + o.off.toNat := by
  have l0 := o.off.isLt
  simp only [OpJ.pack, BitVec.toNat_ofNat]
  omega

theorem OpJ_rt (m : Nat) (o : OpJ) (h : m + 2 ^ 26 ≤ 2 ^ 32) (hm : m % 2 ^ 26 = 0) :
    (o.pack m).toNat / 2 ^ 26 = m / 2 ^ 26 ∧ OpJ.unpack (o.pack m) = o := by
  have l0 := o.off.isLt
  have e := OpJ_val m o h
  have u0 : fld 0 26 (o.pack m) = o.off := fld_of _ _ _ _ (by omega)
  exact ⟨by omega, by simp only [OpJ.unpack, u0]⟩

theorem OpJr_val (m : Nat) (o : OpJr) (h : m + 2 ^ 16 ≤ 2 ^ 32) : (o.pack m).toNat = m + o.sa.toNat * 2 ^ 10 + o.ta.toNat * 2 ^ 3 := by
  have l0 := o.sa.isLt
  have l1 := o.ta.toNat_le
  simp only [OpJr.pack, BitVec.toNat_ofNat]
  omega

theorem OpJr_rt (m : Nat) (o : OpJr) (h : m + 2 ^ 16 ≤ 2 ^ 32) (hm : m % 2 ^ 16 = 0) :
    (o.pack m).toNat / 2 ^ 16 = m / 2 ^ 16 ∧ OpJr.unpack (o.pack m) = o := by
  have l0 := o.sa.isLt
  have l1 := o.ta.toNat_le
  have e := OpJr_val m o h
  have u0 : fld 10 6 (o.pack m) = o.sa := fld_of _ _ _ _ (by omega)
  have u1 : flag 3 (o.pack m) = o.ta := flag_of _ _ _ (by omega)
  exact ⟨by omega, by simp only [OpJr.unpack, u0, u1]⟩

theorem OpLoop_val (m : Nat) (o : OpLoop) (h : m + 2 ^ 11 ≤ 2 ^ 32) : (o.pack m).toNat = m + o.len.toNat * 2 ^ 6 + o.cnt.toNat := by
  have l0 := o.len.isLt
  have l1 := o.cnt.isLt
  simp only [OpLoop.pack, BitVec.toNat_ofNat]
  omega

theorem OpLoop_rt (m : Nat) (o : OpLoop) (h : m + 2 ^ 11 ≤ 2 ^ 32) (hm : m % 2 ^ 11 = 0) :
    (o.pack m).toNat / 2 ^ 11 = m / 2 ^ 11 ∧ OpLoop.unpack (o.pack m) = o := by
  have l0 := o.len.isLt
  have l1 := o.cnt.isLt
  have e := OpLoop_val m o h
  have u0 : fld 6 5 (o.pack m) = o.len := fld_of _ _ _ _ (by omega)
  have u1 : fld 0 6 (o.pack m) = o.cnt := fld_of _ _ _ _ (by omega)
  exact ⟨by omega, by simp only [OpLoop.unpack, u0, u1]⟩

theorem OpSR_val (m : Nat) (o : OpSR) (h : m + 2 ^ 22 ≤ 2 ^ 32) : (o.pack m).toNat = m + o.sd.toNat * 2 ^ 16 + o.sa.toNat * 2 ^ 10 + o.sb.toNat * 2 ^ 4 + o.ta.toNat * 2 ^ 3 + o.tb.toNat * 2 ^ 2 := by
  have l0 := o.sd.isLt
  have l1 := o.sa.isLt
  have l2 := o.sb.isLt
  have l3 := o.ta.toNat_le
  have l4 := o.tb.toNat_le
  simp only [OpSR.pack, BitVec.toNat_ofNat]
  omega

theorem OpSR_rt (m : Nat) (o : OpSR) (h : m + 2 ^ 22 ≤ 2 ^ 32) (hm : m % 2 ^ 22 = 0) :
    (o.pack m).toNat / 2 ^ 22 = m / 2 ^ 22 ∧ OpSR.unpack (o.pack m) = o := by
  have l0 := o.sd.isLt
  have l1 := o.sa.isLt
  have l2 := o.sb.isLt
  have l3 := o.ta.toNat_le
  have l4 := o.tb.toNat_le
  have e := OpSR_val m o h
  have u0 : fld 16 6 (o.pack m) = o.sd := fld_of _ _ _ _ (by omega)
  have u1 : fld 10 6 (o.pack m) = o.sa := fld_of _ _ _ _ (by omega)
  have u2 : fld 4 6 (o.pack m) = o.sb := fld_of _ _ _ _ (by omega)
  have u3 : flag 3 (o.pack m) = o.ta := flag_of _ _ _ (by omega)
  have u4 : flag 2 (o.pack m) = o.tb := flag_of _ _ _ (by omega)
  exact ⟨by omega, by simp only [OpSR.unpack, u0, u1, u2, u3, u4]⟩

theorem OpSR1_val (m : Nat) (o : OpSR1) (h : m + 2 ^ 22 ≤ 2 ^ 32) : (o.pack m).toNat = m + o.sd.toNat * 2 ^ 16 + o.sa.toNat * 2 ^ 10 + o.ta.toNat * 2 ^ 3 := by
  have l0 := o.sd.isLt
  have l1 := o.sa.isLt
  have l2 := o.ta.toNat_le
  simp only [OpSR1.pack, BitVec.toNat_ofNat]
  omega

theorem OpSR1_rt (m : Nat) (o : OpSR1) (h : m + 2 ^ 22 ≤ 2 ^ 32) (hm : m % 2 ^ 22 = 0) :
    (o.pack m).toNat / 2 ^ 22 = m / 2 ^ 22 ∧ OpSR1.unpack (o.pack m) = o := by
  have l0 := o.sd.isLt
  have l1 := o.sa.isLt
  have l2 := o.ta.toNat_le
  have e := OpSR1_val m o h
  have u0 : fld 16 6 (o.pack m) = o.sd := fld_of _ _ _ _ (by omega)
  have u1 : fld 10 6 (o.pack m) = o.sa := fld_of _ _ _ _ (by omega)
  have u2 : flag 3 (o.pack m) = o.ta := flag_of _ _ _ (by omega)
  exact ⟨by omega, by simp only [OpSR1.unpack, u0, u1, u2]⟩

theorem OpSI_val (m : Nat) (o : OpSI) (h : m + 2 ^ 24 ≤ 2 ^ 32) : (o.pack m).toNat = m + o.sd.toNat * 2 ^ 18 + o.sa.toNat * 2 ^ 12 + o.imm.toNat := by
  have l0 := o.sd.isLt
  have l1 := o.sa.isLt
  have l2 := o.imm.isLt
  simp only [OpSI.pack, BitVec.toNat_ofNat]
  omega

theorem OpSI_rt (m : Nat) (o : OpSI) (h : m + 2 ^ 24 ≤ 2 ^ 32) (hm : m % 2 ^ 24 = 0) :
    (o.pack m).toNat / 2 ^ 24 = m / 2 ^ 24 ∧ OpSI.unpack (o.pack m) = o := by
  have l0 := o.sd.isLt
  have l1 := o.sa.isLt
  have l2 := o.imm.isLt
  have e := OpSI_val m o h
  have u0 : fld 18 6 (o.pack m) = o.sd := fld_of _ _ _ _ (by omega)
  have u1 : fld 12 6 (o.pack m) = o.sa := fld_of _ _ _ _ (by omega)
  have u2 : fld 0 12 (o.pack m) = o.imm := fld_of _ _ _ _ (by omega)
  exact ⟨by omega, by simp only [OpSI.unpack, u0, u1, u2]⟩

theorem OpSh_val (m : Nat) (o : OpSh) (h : m + 2 ^ 24 ≤ 2 ^ 32) : (o.pack m).toNat = m + o.sd.toNat * 2 ^ 18 + o.sa.toNat * 2 ^ 12 + o.amt.toNat := by
  have l0 := o.sd.isLt
  have l1 := o.sa.isLt
  have l2 := o.amt.isLt
  simp only [OpSh.pack, BitVec.toNat_ofNat]
  omega

theorem OpSh_rt (m : Nat) (o : OpSh) (h : m + 2 ^ 24 ≤ 2 ^ 32) (hm : m % 2 ^ 24 = 0) :
    (o.pack m).toNat / 2 ^ 24 = m / 2 ^ 24 ∧ OpSh.unpack (o.pack m) = o := by
  have l0 := o.sd.isLt
  have l1 := o.sa.isLt
  have l2 := o.amt.isLt
  have e := OpSh_val m o h
  have u0 : fld 18 6 (o.pack m) = o.sd := fld_of _ _ _ _ (by omega)
  have u1 : fld 12 6 (o.pack m) = o.sa := fld_of _ _ _ _ (by omega)
  have u2 : fld 0 6 (o.pack m) = o.amt := fld_of _ _ _ _ (by omega)
  exact ⟨by omega, by simp only [OpSh.unpack, u0, u1, u2]⟩

theorem OpSL_val (m : Nat) (o : OpSL) (h : m + 2 ^ 26 ≤ 2 ^ 32) : (o.pack m).toNat = m + o.sd.toNat * 2 ^ 20 + o.imm.toNat := by
  have l0 := o.sd.isLt
  have l1 := o.imm.isLt
  simp only [OpSL.pack, BitVec.toNat_ofNat]
  omega

theorem OpSL_rt (m : Nat) (o : OpSL) (h : m + 2 ^ 26 ≤ 2 ^ 32) (hm : m % 2 ^ 26 = 0) :
    (o.pack m).toNat / 2 ^ 26 = m / 2 ^ 26 ∧ OpSL.unpack (o.pack m) = o := by
  have l0 := o.sd.isLt
  have l1 := o.imm.isLt
  have e := OpSL_val m o h
  have u0 : fld 20 6 (o.pack m) = o.sd := fld_of _ _ _ _ (by omega)
  have u1 : fld 0 20 (o.pack m) = o.imm := fld_of _ _ _ _ (by omega)
  exact ⟨by omega, by simp only [OpSL.unpack, u0, u1]⟩

theorem OpSM_val (m : Nat) (o : OpSM) (h : m + 2 ^ 23 ≤ 2 ^ 32) : (o.pack m).toNat = m + o.sd.toNat * 2 ^ 17 + o.sa.toNat * 2 ^ 11 + o.off.toNat := by
  have l0 := o.sd.isLt
  have l1 := o.sa.isLt
  have l2 := o.off.isLt
  simp only [OpSM.pack, BitVec.toNat_ofNat]
  omega

theorem OpSM_rt (m : Nat) (o : OpSM) (h : m + 2 ^ 23 ≤ 2 ^ 32) (hm : m % 2 ^ 23 = 0) :
    (o.pack m).toNat / 2 ^ 23 = m / 2 ^ 23 ∧ OpSM.unpack (o.pack m) = o := by
  have l0 := o.sd.isLt
  have l1 := o.sa.isLt
  have l2 := o.off.isLt
  have e := OpSM_val m o h
  have u0 : fld 17 6 (o.pack m) = o.sd := fld_of _ _ _ _ (by omega)
  have u1 : fld 11 6 (o.pack m) = o.sa := fld_of _ _ _ _ (by omega)
  have u2 : fld 0 11 (o.pack m) = o.off := fld_of _ _ _ _ (by omega)
  exact ⟨by omega, by simp only [OpSM.unpack, u0, u1, u2]⟩

theorem OpSA_val (m : Nat) (o : OpSA) (h : m + 2 ^ 22 ≤ 2 ^ 32) : (o.pack m).toNat = m + o.sem.toNat * 2 ^ 20 + o.scp.toNat * 2 ^ 17 + o.sd.toNat * 2 ^ 11 + o.sa.toNat * 2 ^ 5 + o.sb.toNat := by
  have l0 := o.sem.isLt
  have l1 := o.scp.isLt
  have l2 := o.sd.isLt
  have l3 := o.sa.isLt
  have l4 := o.sb.isLt
  simp only [OpSA.pack, BitVec.toNat_ofNat]
  omega

theorem OpSA_rt (m : Nat) (o : OpSA) (h : m + 2 ^ 22 ≤ 2 ^ 32) (hm : m % 2 ^ 22 = 0) :
    (o.pack m).toNat / 2 ^ 22 = m / 2 ^ 22 ∧ OpSA.unpack (o.pack m) = o := by
  have l0 := o.sem.isLt
  have l1 := o.scp.isLt
  have l2 := o.sd.isLt
  have l3 := o.sa.isLt
  have l4 := o.sb.isLt
  have e := OpSA_val m o h
  have u0 : fld 20 2 (o.pack m) = o.sem := fld_of _ _ _ _ (by omega)
  have u1 : fld 17 3 (o.pack m) = o.scp := fld_of _ _ _ _ (by omega)
  have u2 : fld 11 6 (o.pack m) = o.sd := fld_of _ _ _ _ (by omega)
  have u3 : fld 5 6 (o.pack m) = o.sa := fld_of _ _ _ _ (by omega)
  have u4 : fld 0 5 (o.pack m) = o.sb := fld_of _ _ _ _ (by omega)
  exact ⟨by omega, by simp only [OpSA.unpack, u0, u1, u2, u3, u4]⟩

theorem OpSALd_val (m : Nat) (o : OpSALd) (h : m + 2 ^ 22 ≤ 2 ^ 32) : (o.pack m).toNat = m + o.sem.toNat * 2 ^ 20 + o.scp.toNat * 2 ^ 17 + o.sd.toNat * 2 ^ 11 + o.sa.toNat * 2 ^ 5 := by
  have l0 := o.sem.isLt
  have l1 := o.scp.isLt
  have l2 := o.sd.isLt
  have l3 := o.sa.isLt
  simp only [OpSALd.pack, BitVec.toNat_ofNat]
  omega

theorem OpSALd_rt (m : Nat) (o : OpSALd) (h : m + 2 ^ 22 ≤ 2 ^ 32) (hm : m % 2 ^ 22 = 0) :
    (o.pack m).toNat / 2 ^ 22 = m / 2 ^ 22 ∧ OpSALd.unpack (o.pack m) = o := by
  have l0 := o.sem.isLt
  have l1 := o.scp.isLt
  have l2 := o.sd.isLt
  have l3 := o.sa.isLt
  have e := OpSALd_val m o h
  have u0 : fld 20 2 (o.pack m) = o.sem := fld_of _ _ _ _ (by omega)
  have u1 : fld 17 3 (o.pack m) = o.scp := fld_of _ _ _ _ (by omega)
  have u2 : fld 11 6 (o.pack m) = o.sd := fld_of _ _ _ _ (by omega)
  have u3 : fld 5 6 (o.pack m) = o.sa := fld_of _ _ _ _ (by omega)
  exact ⟨by omega, by simp only [OpSALd.unpack, u0, u1, u2, u3]⟩

theorem OpSASt_val (m : Nat) (o : OpSASt) (h : m + 2 ^ 22 ≤ 2 ^ 32) : (o.pack m).toNat = m + o.sem.toNat * 2 ^ 20 + o.scp.toNat * 2 ^ 17 + o.sa.toNat * 2 ^ 5 + o.sb.toNat := by
  have l0 := o.sem.isLt
  have l1 := o.scp.isLt
  have l2 := o.sa.isLt
  have l3 := o.sb.isLt
  simp only [OpSASt.pack, BitVec.toNat_ofNat]
  omega

theorem OpSASt_rt (m : Nat) (o : OpSASt) (h : m + 2 ^ 22 ≤ 2 ^ 32) (hm : m % 2 ^ 22 = 0) :
    (o.pack m).toNat / 2 ^ 22 = m / 2 ^ 22 ∧ OpSASt.unpack (o.pack m) = o := by
  have l0 := o.sem.isLt
  have l1 := o.scp.isLt
  have l2 := o.sa.isLt
  have l3 := o.sb.isLt
  have e := OpSASt_val m o h
  have u0 : fld 20 2 (o.pack m) = o.sem := fld_of _ _ _ _ (by omega)
  have u1 : fld 17 3 (o.pack m) = o.scp := fld_of _ _ _ _ (by omega)
  have u2 : fld 5 6 (o.pack m) = o.sa := fld_of _ _ _ _ (by omega)
  have u3 : fld 0 5 (o.pack m) = o.sb := fld_of _ _ _ _ (by omega)
  exact ⟨by omega, by simp only [OpSASt.unpack, u0, u1, u2, u3]⟩

theorem OpSO_val (m : Nat) (o : OpSO) (h : m + 2 ^ 23 ≤ 2 ^ 32) : (o.pack m).toNat = m + o.sd.toNat * 2 ^ 17 + o.sa.toNat * 2 ^ 11 + o.scp.toNat * 2 ^ 8 + o.off.toNat := by
  have l0 := o.sd.isLt
  have l1 := o.sa.isLt
  have l2 := o.scp.isLt
  have l3 := o.off.isLt
  simp only [OpSO.pack, BitVec.toNat_ofNat]
  omega

theorem OpSO_rt (m : Nat) (o : OpSO) (h : m + 2 ^ 23 ≤ 2 ^ 32) (hm : m % 2 ^ 23 = 0) :
    (o.pack m).toNat / 2 ^ 23 = m / 2 ^ 23 ∧ OpSO.unpack (o.pack m) = o := by
  have l0 := o.sd.isLt
  have l1 := o.sa.isLt
  have l2 := o.scp.isLt
  have l3 := o.off.isLt
  have e := OpSO_val m o h
  have u0 : fld 17 6 (o.pack m) = o.sd := fld_of _ _ _ _ (by omega)
  have u1 : fld 11 6 (o.pack m) = o.sa := fld_of _ _ _ _ (by omega)
  have u2 : fld 8 3 (o.pack m) = o.scp := fld_of _ _ _ _ (by omega)
  have u3 : fld 0 8 (o.pack m) = o.off := fld_of _ _ _ _ (by omega)
  exact ⟨by omega, by simp only [OpSO.unpack, u0, u1, u2, u3]⟩

theorem OpVR_val (m : Nat) (o : OpVR) (h : m + 2 ^ 23 ≤ 2 ^ 32) : (o.pack m).toNat = m + o.ta.toNat * 2 ^ 22 + o.tb.toNat * 2 ^ 21 + o.vd.toNat * 2 ^ 14 + o.va.toNat * 2 ^ 7 + o.vb.toNat := by
  have l0 := o.ta.toNat_le
  have l1 := o.tb.toNat_le
  have l2 := o.vd.isLt
  have l3 := o.va.isLt
  have l4 := o.vb.isLt
  simp only [OpVR.pack, BitVec.toNat_ofNat]
  omega

theorem OpVR_rt (m : Nat) (o : OpVR) (h : m + 2 ^ 23 ≤ 2 ^ 32) (hm : m % 2 ^ 23 = 0) :
    (o.pack m).toNat / 2 ^ 23 = m / 2 ^ 23 ∧ OpVR.unpack (o.pack m) = o := by
  have l0 := o.ta.toNat_le
  have l1 := o.tb.toNat_le
  have l2 := o.vd.isLt
  have l3 := o.va.isLt
  have l4 := o.vb.isLt
  have e := OpVR_val m o h
  have u0 : flag 22 (o.pack m) = o.ta := flag_of _ _ _ (by omega)
  have u1 : flag 21 (o.pack m) = o.tb := flag_of _ _ _ (by omega)
  have u2 : fld 14 7 (o.pack m) = o.vd := fld_of _ _ _ _ (by omega)
  have u3 : fld 7 7 (o.pack m) = o.va := fld_of _ _ _ _ (by omega)
  have u4 : fld 0 7 (o.pack m) = o.vb := fld_of _ _ _ _ (by omega)
  exact ⟨by omega, by simp only [OpVR.unpack, u0, u1, u2, u3, u4]⟩

theorem OpVI_val (m : Nat) (o : OpVI) (h : m + 2 ^ 23 ≤ 2 ^ 32) : (o.pack m).toNat = m + o.ta.toNat * 2 ^ 22 + o.vd.toNat * 2 ^ 15 + o.va.toNat * 2 ^ 8 + o.imm.toNat := by
  have l0 := o.ta.toNat_le
  have l1 := o.vd.isLt
  have l2 := o.va.isLt
  have l3 := o.imm.isLt
  simp only [OpVI.pack, BitVec.toNat_ofNat]
  omega

theorem OpVI_rt (m : Nat) (o : OpVI) (h : m + 2 ^ 23 ≤ 2 ^ 32) (hm : m % 2 ^ 23 = 0) :
    (o.pack m).toNat / 2 ^ 23 = m / 2 ^ 23 ∧ OpVI.unpack (o.pack m) = o := by
  have l0 := o.ta.toNat_le
  have l1 := o.vd.isLt
  have l2 := o.va.isLt
  have l3 := o.imm.isLt
  have e := OpVI_val m o h
  have u0 : flag 22 (o.pack m) = o.ta := flag_of _ _ _ (by omega)
  have u1 : fld 15 7 (o.pack m) = o.vd := fld_of _ _ _ _ (by omega)
  have u2 : fld 8 7 (o.pack m) = o.va := fld_of _ _ _ _ (by omega)
  have u3 : fld 0 8 (o.pack m) = o.imm := fld_of _ _ _ _ (by omega)
  exact ⟨by omega, by simp only [OpVI.unpack, u0, u1, u2, u3]⟩

theorem OpVR1_val (m : Nat) (o : OpVR1) (h : m + 2 ^ 23 ≤ 2 ^ 32) : (o.pack m).toNat = m + o.ta.toNat * 2 ^ 22 + o.vd.toNat * 2 ^ 14 + o.va.toNat * 2 ^ 7 := by
  have l0 := o.ta.toNat_le
  have l1 := o.vd.isLt
  have l2 := o.va.isLt
  simp only [OpVR1.pack, BitVec.toNat_ofNat]
  omega

theorem OpVR1_rt (m : Nat) (o : OpVR1) (h : m + 2 ^ 23 ≤ 2 ^ 32) (hm : m % 2 ^ 23 = 0) :
    (o.pack m).toNat / 2 ^ 23 = m / 2 ^ 23 ∧ OpVR1.unpack (o.pack m) = o := by
  have l0 := o.ta.toNat_le
  have l1 := o.vd.isLt
  have l2 := o.va.isLt
  have e := OpVR1_val m o h
  have u0 : flag 22 (o.pack m) = o.ta := flag_of _ _ _ (by omega)
  have u1 : fld 14 7 (o.pack m) = o.vd := fld_of _ _ _ _ (by omega)
  have u2 : fld 7 7 (o.pack m) = o.va := fld_of _ _ _ _ (by omega)
  exact ⟨by omega, by simp only [OpVR1.unpack, u0, u1, u2]⟩

theorem OpCV_val (m : Nat) (o : OpCV) (h : m + 2 ^ 26 ≤ 2 ^ 32) : (o.pack m).toNat = m + o.rnd.toNat * 2 ^ 23 + o.ta.toNat * 2 ^ 22 + o.vd.toNat * 2 ^ 15 + o.va.toNat * 2 ^ 8 + o.st.toNat * 2 ^ 4 + o.dt.toNat := by
  have l0 := o.rnd.isLt
  have l1 := o.ta.toNat_le
  have l2 := o.vd.isLt
  have l3 := o.va.isLt
  have l4 := o.st.isLt
  have l5 := o.dt.isLt
  simp only [OpCV.pack, BitVec.toNat_ofNat]
  omega

theorem OpCV_rt (m : Nat) (o : OpCV) (h : m + 2 ^ 26 ≤ 2 ^ 32) (hm : m % 2 ^ 26 = 0) :
    (o.pack m).toNat / 2 ^ 26 = m / 2 ^ 26 ∧ OpCV.unpack (o.pack m) = o := by
  have l0 := o.rnd.isLt
  have l1 := o.ta.toNat_le
  have l2 := o.vd.isLt
  have l3 := o.va.isLt
  have l4 := o.st.isLt
  have l5 := o.dt.isLt
  have e := OpCV_val m o h
  have u0 : fld 23 3 (o.pack m) = o.rnd := fld_of _ _ _ _ (by omega)
  have u1 : flag 22 (o.pack m) = o.ta := flag_of _ _ _ (by omega)
  have u2 : fld 15 7 (o.pack m) = o.vd := fld_of _ _ _ _ (by omega)
  have u3 : fld 8 7 (o.pack m) = o.va := fld_of _ _ _ _ (by omega)
  have u4 : fld 4 4 (o.pack m) = o.st := fld_of _ _ _ _ (by omega)
  have u5 : fld 0 4 (o.pack m) = o.dt := fld_of _ _ _ _ (by omega)
  exact ⟨by omega, by simp only [OpCV.unpack, u0, u1, u2, u3, u4, u5]⟩

theorem OpVCmp_val (m : Nat) (o : OpVCmp) (h : m + 2 ^ 23 ≤ 2 ^ 32) : (o.pack m).toNat = m + o.ta.toNat * 2 ^ 22 + o.tb.toNat * 2 ^ 21 + o.pd.toNat * 2 ^ 14 + o.va.toNat * 2 ^ 7 + o.vb.toNat := by
  have l0 := o.ta.toNat_le
  have l1 := o.tb.toNat_le
  have l2 := o.pd.isLt
  have l3 := o.va.isLt
  have l4 := o.vb.isLt
  simp only [OpVCmp.pack, BitVec.toNat_ofNat]
  omega

theorem OpVCmp_rt (m : Nat) (o : OpVCmp) (h : m + 2 ^ 23 ≤ 2 ^ 32) (hm : m % 2 ^ 23 = 0) :
    (o.pack m).toNat / 2 ^ 23 = m / 2 ^ 23 ∧ OpVCmp.unpack (o.pack m) = o := by
  have l0 := o.ta.toNat_le
  have l1 := o.tb.toNat_le
  have l2 := o.pd.isLt
  have l3 := o.va.isLt
  have l4 := o.vb.isLt
  have e := OpVCmp_val m o h
  have u0 : flag 22 (o.pack m) = o.ta := flag_of _ _ _ (by omega)
  have u1 : flag 21 (o.pack m) = o.tb := flag_of _ _ _ (by omega)
  have u2 : fld 14 3 (o.pack m) = o.pd := fld_of _ _ _ _ (by omega)
  have u3 : fld 7 7 (o.pack m) = o.va := fld_of _ _ _ _ (by omega)
  have u4 : fld 0 7 (o.pack m) = o.vb := fld_of _ _ _ _ (by omega)
  exact ⟨by omega, by simp only [OpVCmp.unpack, u0, u1, u2, u3, u4]⟩

theorem OpVSRed_val (m : Nat) (o : OpVSRed) (h : m + 2 ^ 23 ≤ 2 ^ 32) : (o.pack m).toNat = m + o.ta.toNat * 2 ^ 22 + o.va.toNat * 2 ^ 8 + o.sb.toNat := by
  have l0 := o.ta.toNat_le
  have l1 := o.va.isLt
  have l2 := o.sb.isLt
  simp only [OpVSRed.pack, BitVec.toNat_ofNat]
  omega

theorem OpVSRed_rt (m : Nat) (o : OpVSRed) (h : m + 2 ^ 23 ≤ 2 ^ 32) (hm : m % 2 ^ 23 = 0) :
    (o.pack m).toNat / 2 ^ 23 = m / 2 ^ 23 ∧ OpVSRed.unpack (o.pack m) = o := by
  have l0 := o.ta.toNat_le
  have l1 := o.va.isLt
  have l2 := o.sb.isLt
  have e := OpVSRed_val m o h
  have u0 : flag 22 (o.pack m) = o.ta := flag_of _ _ _ (by omega)
  have u1 : fld 8 7 (o.pack m) = o.va := fld_of _ _ _ _ (by omega)
  have u2 : fld 0 6 (o.pack m) = o.sb := fld_of _ _ _ _ (by omega)
  exact ⟨by omega, by simp only [OpVSRed.unpack, u0, u1, u2]⟩

theorem OpPR2_val (m : Nat) (o : OpPR2) (h : m + 2 ^ 22 ≤ 2 ^ 32) : (o.pack m).toNat = m + o.pd.toNat * 2 ^ 19 + o.pa.toNat * 2 ^ 16 + o.pb.toNat * 2 ^ 13 := by
  have l0 := o.pd.isLt
  have l1 := o.pa.isLt
  have l2 := o.pb.isLt
  simp only [OpPR2.pack, BitVec.toNat_ofNat]
  omega

theorem OpPR2_rt (m : Nat) (o : OpPR2) (h : m + 2 ^ 22 ≤ 2 ^ 32) (hm : m % 2 ^ 22 = 0) :
    (o.pack m).toNat / 2 ^ 22 = m / 2 ^ 22 ∧ OpPR2.unpack (o.pack m) = o := by
  have l0 := o.pd.isLt
  have l1 := o.pa.isLt
  have l2 := o.pb.isLt
  have e := OpPR2_val m o h
  have u0 : fld 19 3 (o.pack m) = o.pd := fld_of _ _ _ _ (by omega)
  have u1 : fld 16 3 (o.pack m) = o.pa := fld_of _ _ _ _ (by omega)
  have u2 : fld 13 3 (o.pack m) = o.pb := fld_of _ _ _ _ (by omega)
  exact ⟨by omega, by simp only [OpPR2.unpack, u0, u1, u2]⟩

theorem OpPR1_val (m : Nat) (o : OpPR1) (h : m + 2 ^ 22 ≤ 2 ^ 32) : (o.pack m).toNat = m + o.pd.toNat * 2 ^ 19 + o.pa.toNat * 2 ^ 16 := by
  have l0 := o.pd.isLt
  have l1 := o.pa.isLt
  simp only [OpPR1.pack, BitVec.toNat_ofNat]
  omega

theorem OpPR1_rt (m : Nat) (o : OpPR1) (h : m + 2 ^ 22 ≤ 2 ^ 32) (hm : m % 2 ^ 22 = 0) :
    (o.pack m).toNat / 2 ^ 22 = m / 2 ^ 22 ∧ OpPR1.unpack (o.pack m) = o := by
  have l0 := o.pd.isLt
  have l1 := o.pa.isLt
  have e := OpPR1_val m o h
  have u0 : fld 19 3 (o.pack m) = o.pd := fld_of _ _ _ _ (by omega)
  have u1 : fld 16 3 (o.pack m) = o.pa := fld_of _ _ _ _ (by omega)
  exact ⟨by omega, by simp only [OpPR1.unpack, u0, u1]⟩

theorem OpPSet_val (m : Nat) (o : OpPSet) (h : m + 2 ^ 22 ≤ 2 ^ 32) : (o.pack m).toNat = m + o.pd.toNat * 2 ^ 19 + o.sa.toNat * 2 ^ 7 := by
  have l0 := o.pd.isLt
  have l1 := o.sa.isLt
  simp only [OpPSet.pack, BitVec.toNat_ofNat]
  omega

theorem OpPSet_rt (m : Nat) (o : OpPSet) (h : m + 2 ^ 22 ≤ 2 ^ 32) (hm : m % 2 ^ 22 = 0) :
    (o.pack m).toNat / 2 ^ 22 = m / 2 ^ 22 ∧ OpPSet.unpack (o.pack m) = o := by
  have l0 := o.pd.isLt
  have l1 := o.sa.isLt
  have e := OpPSet_val m o h
  have u0 : fld 19 3 (o.pack m) = o.pd := fld_of _ _ _ _ (by omega)
  have u1 : fld 7 6 (o.pack m) = o.sa := fld_of _ _ _ _ (by omega)
  exact ⟨by omega, by simp only [OpPSet.unpack, u0, u1]⟩

theorem OpPGet_val (m : Nat) (o : OpPGet) (h : m + 2 ^ 19 ≤ 2 ^ 32) : (o.pack m).toNat = m + o.pa.toNat * 2 ^ 16 + o.sd.toNat * 2 ^ 7 := by
  have l0 := o.pa.isLt
  have l1 := o.sd.isLt
  simp only [OpPGet.pack, BitVec.toNat_ofNat]
  omega

theorem OpPGet_rt (m : Nat) (o : OpPGet) (h : m + 2 ^ 19 ≤ 2 ^ 32) (hm : m % 2 ^ 19 = 0) :
    (o.pack m).toNat / 2 ^ 19 = m / 2 ^ 19 ∧ OpPGet.unpack (o.pack m) = o := by
  have l0 := o.pa.isLt
  have l1 := o.sd.isLt
  have e := OpPGet_val m o h
  have u0 : fld 16 3 (o.pack m) = o.pa := fld_of _ _ _ _ (by omega)
  have u1 : fld 7 6 (o.pack m) = o.sd := fld_of _ _ _ _ (by omega)
  exact ⟨by omega, by simp only [OpPGet.unpack, u0, u1]⟩

theorem OpVS1_val (m : Nat) (o : OpVS1) (h : m + 2 ^ 23 ≤ 2 ^ 32) : (o.pack m).toNat = m + o.ta.toNat * 2 ^ 22 + o.vd.toNat * 2 ^ 15 + o.va.toNat * 2 ^ 8 := by
  have l0 := o.ta.toNat_le
  have l1 := o.vd.isLt
  have l2 := o.va.isLt
  simp only [OpVS1.pack, BitVec.toNat_ofNat]
  omega

theorem OpVS1_rt (m : Nat) (o : OpVS1) (h : m + 2 ^ 23 ≤ 2 ^ 32) (hm : m % 2 ^ 23 = 0) :
    (o.pack m).toNat / 2 ^ 23 = m / 2 ^ 23 ∧ OpVS1.unpack (o.pack m) = o := by
  have l0 := o.ta.toNat_le
  have l1 := o.vd.isLt
  have l2 := o.va.isLt
  have e := OpVS1_val m o h
  have u0 : flag 22 (o.pack m) = o.ta := flag_of _ _ _ (by omega)
  have u1 : fld 15 7 (o.pack m) = o.vd := fld_of _ _ _ _ (by omega)
  have u2 : fld 8 7 (o.pack m) = o.va := fld_of _ _ _ _ (by omega)
  exact ⟨by omega, by simp only [OpVS1.unpack, u0, u1, u2]⟩

theorem OpVBc_val (m : Nat) (o : OpVBc) (h : m + 2 ^ 22 ≤ 2 ^ 32) : (o.pack m).toNat = m + o.vd.toNat * 2 ^ 15 + o.sb.toNat := by
  have l0 := o.vd.isLt
  have l1 := o.sb.isLt
  simp only [OpVBc.pack, BitVec.toNat_ofNat]
  omega

theorem OpVBc_rt (m : Nat) (o : OpVBc) (h : m + 2 ^ 22 ≤ 2 ^ 32) (hm : m % 2 ^ 22 = 0) :
    (o.pack m).toNat / 2 ^ 22 = m / 2 ^ 22 ∧ OpVBc.unpack (o.pack m) = o := by
  have l0 := o.vd.isLt
  have l1 := o.sb.isLt
  have e := OpVBc_val m o h
  have u0 : fld 15 7 (o.pack m) = o.vd := fld_of _ _ _ _ (by omega)
  have u1 : fld 0 6 (o.pack m) = o.sb := fld_of _ _ _ _ (by omega)
  exact ⟨by omega, by simp only [OpVBc.unpack, u0, u1]⟩

theorem OpVIota_val (m : Nat) (o : OpVIota) (h : m + 2 ^ 22 ≤ 2 ^ 32) : (o.pack m).toNat = m + o.vd.toNat * 2 ^ 15 + o.k.toNat * 2 ^ 8 + o.sb.toNat := by
  have l0 := o.vd.isLt
  have l1 := o.k.isLt
  have l2 := o.sb.isLt
  simp only [OpVIota.pack, BitVec.toNat_ofNat]
  omega

theorem OpVIota_rt (m : Nat) (o : OpVIota) (h : m + 2 ^ 22 ≤ 2 ^ 32) (hm : m % 2 ^ 22 = 0) :
    (o.pack m).toNat / 2 ^ 22 = m / 2 ^ 22 ∧ OpVIota.unpack (o.pack m) = o := by
  have l0 := o.vd.isLt
  have l1 := o.k.isLt
  have l2 := o.sb.isLt
  have e := OpVIota_val m o h
  have u0 : fld 15 7 (o.pack m) = o.vd := fld_of _ _ _ _ (by omega)
  have u1 : fld 8 7 (o.pack m) = o.k := fld_of _ _ _ _ (by omega)
  have u2 : fld 0 6 (o.pack m) = o.sb := fld_of _ _ _ _ (by omega)
  exact ⟨by omega, by simp only [OpVIota.unpack, u0, u1, u2]⟩

theorem OpVExt_val (m : Nat) (o : OpVExt) (h : m + 2 ^ 23 ≤ 2 ^ 32) : (o.pack m).toNat = m + o.ta.toNat * 2 ^ 22 + o.vd.toNat * 2 ^ 15 + o.va.toNat * 2 ^ 8 + o.sb.toNat := by
  have l0 := o.ta.toNat_le
  have l1 := o.vd.isLt
  have l2 := o.va.isLt
  have l3 := o.sb.isLt
  simp only [OpVExt.pack, BitVec.toNat_ofNat]
  omega

theorem OpVExt_rt (m : Nat) (o : OpVExt) (h : m + 2 ^ 23 ≤ 2 ^ 32) (hm : m % 2 ^ 23 = 0) :
    (o.pack m).toNat / 2 ^ 23 = m / 2 ^ 23 ∧ OpVExt.unpack (o.pack m) = o := by
  have l0 := o.ta.toNat_le
  have l1 := o.vd.isLt
  have l2 := o.va.isLt
  have l3 := o.sb.isLt
  have e := OpVExt_val m o h
  have u0 : flag 22 (o.pack m) = o.ta := flag_of _ _ _ (by omega)
  have u1 : fld 15 7 (o.pack m) = o.vd := fld_of _ _ _ _ (by omega)
  have u2 : fld 8 7 (o.pack m) = o.va := fld_of _ _ _ _ (by omega)
  have u3 : fld 0 6 (o.pack m) = o.sb := fld_of _ _ _ _ (by omega)
  exact ⟨by omega, by simp only [OpVExt.unpack, u0, u1, u2, u3]⟩

theorem OpVM_val (m : Nat) (o : OpVM) (h : m + 2 ^ 23 ≤ 2 ^ 32) : (o.pack m).toNat = m + o.vd.toNat * 2 ^ 16 + o.sb.toNat * 2 ^ 10 + o.vo.toNat * 2 ^ 3 + o.t.toNat * 2 ^ 2 + o.sc.toNat := by
  have l0 := o.vd.isLt
  have l1 := o.sb.isLt
  have l2 := o.vo.isLt
  have l3 := o.t.toNat_le
  have l4 := o.sc.isLt
  simp only [OpVM.pack, BitVec.toNat_ofNat]
  omega

theorem OpVM_rt (m : Nat) (o : OpVM) (h : m + 2 ^ 23 ≤ 2 ^ 32) (hm : m % 2 ^ 23 = 0) :
    (o.pack m).toNat / 2 ^ 23 = m / 2 ^ 23 ∧ OpVM.unpack (o.pack m) = o := by
  have l0 := o.vd.isLt
  have l1 := o.sb.isLt
  have l2 := o.vo.isLt
  have l3 := o.t.toNat_le
  have l4 := o.sc.isLt
  have e := OpVM_val m o h
  have u0 : fld 16 7 (o.pack m) = o.vd := fld_of _ _ _ _ (by omega)
  have u1 : fld 10 6 (o.pack m) = o.sb := fld_of _ _ _ _ (by omega)
  have u2 : fld 3 7 (o.pack m) = o.vo := fld_of _ _ _ _ (by omega)
  have u3 : flag 2 (o.pack m) = o.t := flag_of _ _ _ (by omega)
  have u4 : fld 0 2 (o.pack m) = o.sc := fld_of _ _ _ _ (by omega)
  exact ⟨by omega, by simp only [OpVM.unpack, u0, u1, u2, u3, u4]⟩

theorem OpVLdu_val (m : Nat) (o : OpVLdu) (h : m + 2 ^ 23 ≤ 2 ^ 32) : (o.pack m).toNat = m + o.vd.toNat * 2 ^ 16 + o.sb.toNat * 2 ^ 10 := by
  have l0 := o.vd.isLt
  have l1 := o.sb.isLt
  simp only [OpVLdu.pack, BitVec.toNat_ofNat]
  omega

theorem OpVLdu_rt (m : Nat) (o : OpVLdu) (h : m + 2 ^ 23 ≤ 2 ^ 32) (hm : m % 2 ^ 23 = 0) :
    (o.pack m).toNat / 2 ^ 23 = m / 2 ^ 23 ∧ OpVLdu.unpack (o.pack m) = o := by
  have l0 := o.vd.isLt
  have l1 := o.sb.isLt
  have e := OpVLdu_val m o h
  have u0 : fld 16 7 (o.pack m) = o.vd := fld_of _ _ _ _ (by omega)
  have u1 : fld 10 6 (o.pack m) = o.sb := fld_of _ _ _ _ (by omega)
  exact ⟨by omega, by simp only [OpVLdu.unpack, u0, u1]⟩

theorem OpAT_val (m : Nat) (o : OpAT) (h : m + 2 ^ 22 ≤ 2 ^ 32) : (o.pack m).toNat = m + o.sem.toNat * 2 ^ 20 + o.scp.toNat * 2 ^ 17 + o.vd.toNat * 2 ^ 10 + o.vo.toNat * 2 ^ 3 + o.sbx.toNat := by
  have l0 := o.sem.isLt
  have l1 := o.scp.isLt
  have l2 := o.vd.isLt
  have l3 := o.vo.isLt
  have l4 := o.sbx.isLt
  simp only [OpAT.pack, BitVec.toNat_ofNat]
  omega

theorem OpAT_rt (m : Nat) (o : OpAT) (h : m + 2 ^ 22 ≤ 2 ^ 32) (hm : m % 2 ^ 22 = 0) :
    (o.pack m).toNat / 2 ^ 22 = m / 2 ^ 22 ∧ OpAT.unpack (o.pack m) = o := by
  have l0 := o.sem.isLt
  have l1 := o.scp.isLt
  have l2 := o.vd.isLt
  have l3 := o.vo.isLt
  have l4 := o.sbx.isLt
  have e := OpAT_val m o h
  have u0 : fld 20 2 (o.pack m) = o.sem := fld_of _ _ _ _ (by omega)
  have u1 : fld 17 3 (o.pack m) = o.scp := fld_of _ _ _ _ (by omega)
  have u2 : fld 10 7 (o.pack m) = o.vd := fld_of _ _ _ _ (by omega)
  have u3 : fld 3 7 (o.pack m) = o.vo := fld_of _ _ _ _ (by omega)
  have u4 : fld 0 3 (o.pack m) = o.sbx := fld_of _ _ _ _ (by omega)
  exact ⟨by omega, by simp only [OpAT.unpack, u0, u1, u2, u3, u4]⟩

theorem OpVO_val (m : Nat) (o : OpVO) (h : m + 2 ^ 23 ≤ 2 ^ 32) : (o.pack m).toNat = m + o.vd.toNat * 2 ^ 16 + o.sb.toNat * 2 ^ 10 + o.vo.toNat * 2 ^ 3 + o.scp.toNat := by
  have l0 := o.vd.isLt
  have l1 := o.sb.isLt
  have l2 := o.vo.isLt
  have l3 := o.scp.isLt
  simp only [OpVO.pack, BitVec.toNat_ofNat]
  omega

theorem OpVO_rt (m : Nat) (o : OpVO) (h : m + 2 ^ 23 ≤ 2 ^ 32) (hm : m % 2 ^ 23 = 0) :
    (o.pack m).toNat / 2 ^ 23 = m / 2 ^ 23 ∧ OpVO.unpack (o.pack m) = o := by
  have l0 := o.vd.isLt
  have l1 := o.sb.isLt
  have l2 := o.vo.isLt
  have l3 := o.scp.isLt
  have e := OpVO_val m o h
  have u0 : fld 16 7 (o.pack m) = o.vd := fld_of _ _ _ _ (by omega)
  have u1 : fld 10 6 (o.pack m) = o.sb := fld_of _ _ _ _ (by omega)
  have u2 : fld 3 7 (o.pack m) = o.vo := fld_of _ _ _ _ (by omega)
  have u3 : fld 0 3 (o.pack m) = o.scp := fld_of _ _ _ _ (by omega)
  exact ⟨by omega, by simp only [OpVO.unpack, u0, u1, u2, u3]⟩

theorem OpFence_val (m : Nat) (o : OpFence) (h : m + 2 ^ 5 ≤ 2 ^ 32) : (o.pack m).toNat = m + o.scp.toNat * 2 ^ 2 + o.sem.toNat := by
  have l0 := o.scp.isLt
  have l1 := o.sem.isLt
  simp only [OpFence.pack, BitVec.toNat_ofNat]
  omega

theorem OpFence_rt (m : Nat) (o : OpFence) (h : m + 2 ^ 5 ≤ 2 ^ 32) (hm : m % 2 ^ 5 = 0) :
    (o.pack m).toNat / 2 ^ 5 = m / 2 ^ 5 ∧ OpFence.unpack (o.pack m) = o := by
  have l0 := o.scp.isLt
  have l1 := o.sem.isLt
  have e := OpFence_val m o h
  have u0 : fld 2 3 (o.pack m) = o.scp := fld_of _ _ _ _ (by omega)
  have u1 : fld 0 2 (o.pack m) = o.sem := fld_of _ _ _ _ (by omega)
  exact ⟨by omega, by simp only [OpFence.unpack, u0, u1]⟩

theorem OpBar_val (m : Nat) (o : OpBar) (h : m + 2 ^ 4 ≤ 2 ^ 32) : (o.pack m).toNat = m + o.id.toNat := by
  have l0 := o.id.isLt
  simp only [OpBar.pack, BitVec.toNat_ofNat]
  omega

theorem OpBar_rt (m : Nat) (o : OpBar) (h : m + 2 ^ 4 ≤ 2 ^ 32) (hm : m % 2 ^ 4 = 0) :
    (o.pack m).toNat / 2 ^ 4 = m / 2 ^ 4 ∧ OpBar.unpack (o.pack m) = o := by
  have l0 := o.id.isLt
  have e := OpBar_val m o h
  have u0 : fld 0 4 (o.pack m) = o.id := fld_of _ _ _ _ (by omega)
  exact ⟨by omega, by simp only [OpBar.unpack, u0]⟩

theorem OpBarInit_val (m : Nat) (o : OpBarInit) (h : m + 2 ^ 10 ≤ 2 ^ 32) : (o.pack m).toNat = m + o.sa.toNat * 2 ^ 4 + o.id.toNat := by
  have l0 := o.sa.isLt
  have l1 := o.id.isLt
  simp only [OpBarInit.pack, BitVec.toNat_ofNat]
  omega

theorem OpBarInit_rt (m : Nat) (o : OpBarInit) (h : m + 2 ^ 10 ≤ 2 ^ 32) (hm : m % 2 ^ 10 = 0) :
    (o.pack m).toNat / 2 ^ 10 = m / 2 ^ 10 ∧ OpBarInit.unpack (o.pack m) = o := by
  have l0 := o.sa.isLt
  have l1 := o.id.isLt
  have e := OpBarInit_val m o h
  have u0 : fld 4 6 (o.pack m) = o.sa := fld_of _ _ _ _ (by omega)
  have u1 : fld 0 4 (o.pack m) = o.id := fld_of _ _ _ _ (by omega)
  exact ⟨by omega, by simp only [OpBarInit.unpack, u0, u1]⟩

theorem OpCJoin_val (m : Nat) (o : OpCJoin) (h : m + 2 ^ 14 ≤ 2 ^ 32) : (o.pack m).toNat = m + o.exp.toNat * 2 ^ 12 + o.sa.toNat * 2 ^ 6 + o.sd.toNat := by
  have l0 := o.exp.isLt
  have l1 := o.sa.isLt
  have l2 := o.sd.isLt
  simp only [OpCJoin.pack, BitVec.toNat_ofNat]
  omega

theorem OpCJoin_rt (m : Nat) (o : OpCJoin) (h : m + 2 ^ 14 ≤ 2 ^ 32) (hm : m % 2 ^ 14 = 0) :
    (o.pack m).toNat / 2 ^ 14 = m / 2 ^ 14 ∧ OpCJoin.unpack (o.pack m) = o := by
  have l0 := o.exp.isLt
  have l1 := o.sa.isLt
  have l2 := o.sd.isLt
  have e := OpCJoin_val m o h
  have u0 : fld 12 2 (o.pack m) = o.exp := fld_of _ _ _ _ (by omega)
  have u1 : fld 6 6 (o.pack m) = o.sa := fld_of _ _ _ _ (by omega)
  have u2 : fld 0 6 (o.pack m) = o.sd := fld_of _ _ _ _ (by omega)
  exact ⟨by omega, by simp only [OpCJoin.unpack, u0, u1, u2]⟩

theorem OpSOpen_val (m : Nat) (o : OpSOpen) (h : m + 2 ^ 13 ≤ 2 ^ 32) : (o.pack m).toNat = m + o.sa.toNat * 2 ^ 7 + o.port.toNat := by
  have l0 := o.sa.isLt
  have l1 := o.port.isLt
  simp only [OpSOpen.pack, BitVec.toNat_ofNat]
  omega

theorem OpSOpen_rt (m : Nat) (o : OpSOpen) (h : m + 2 ^ 13 ≤ 2 ^ 32) (hm : m % 2 ^ 13 = 0) :
    (o.pack m).toNat / 2 ^ 13 = m / 2 ^ 13 ∧ OpSOpen.unpack (o.pack m) = o := by
  have l0 := o.sa.isLt
  have l1 := o.port.isLt
  have e := OpSOpen_val m o h
  have u0 : fld 7 6 (o.pack m) = o.sa := fld_of _ _ _ _ (by omega)
  have u1 : fld 0 7 (o.pack m) = o.port := fld_of _ _ _ _ (by omega)
  exact ⟨by omega, by simp only [OpSOpen.unpack, u0, u1]⟩

theorem OpPort_val (m : Nat) (o : OpPort) (h : m + 2 ^ 7 ≤ 2 ^ 32) : (o.pack m).toNat = m + o.port.toNat := by
  have l0 := o.port.isLt
  simp only [OpPort.pack, BitVec.toNat_ofNat]
  omega

theorem OpPort_rt (m : Nat) (o : OpPort) (h : m + 2 ^ 7 ≤ 2 ^ 32) (hm : m % 2 ^ 7 = 0) :
    (o.pack m).toNat / 2 ^ 7 = m / 2 ^ 7 ∧ OpPort.unpack (o.pack m) = o := by
  have l0 := o.port.isLt
  have e := OpPort_val m o h
  have u0 : fld 0 7 (o.pack m) = o.port := fld_of _ _ _ _ (by omega)
  exact ⟨by omega, by simp only [OpPort.unpack, u0]⟩

theorem OpBClose_val (m : Nat) (o : OpBClose) (h : m + 2 ^ 8 ≤ 2 ^ 32) : (o.pack m).toNat = m + o.rw.toNat * 2 ^ 6 + o.sd.toNat := by
  have l0 := o.rw.isLt
  have l1 := o.sd.isLt
  simp only [OpBClose.pack, BitVec.toNat_ofNat]
  omega

theorem OpBClose_rt (m : Nat) (o : OpBClose) (h : m + 2 ^ 8 ≤ 2 ^ 32) (hm : m % 2 ^ 8 = 0) :
    (o.pack m).toNat / 2 ^ 8 = m / 2 ^ 8 ∧ OpBClose.unpack (o.pack m) = o := by
  have l0 := o.rw.isLt
  have l1 := o.sd.isLt
  have e := OpBClose_val m o h
  have u0 : fld 6 2 (o.pack m) = o.rw := fld_of _ _ _ _ (by omega)
  have u1 : fld 0 6 (o.pack m) = o.sd := fld_of _ _ _ _ (by omega)
  exact ⟨by omega, by simp only [OpBClose.unpack, u0, u1]⟩

theorem OpAB_val (m : Nat) (o : OpAB) (h : m + 2 ^ 12 ≤ 2 ^ 32) : (o.pack m).toNat = m + o.sb.toNat * 2 ^ 6 + o.sa.toNat := by
  have l0 := o.sb.isLt
  have l1 := o.sa.isLt
  simp only [OpAB.pack, BitVec.toNat_ofNat]
  omega

theorem OpAB_rt (m : Nat) (o : OpAB) (h : m + 2 ^ 12 ≤ 2 ^ 32) (hm : m % 2 ^ 12 = 0) :
    (o.pack m).toNat / 2 ^ 12 = m / 2 ^ 12 ∧ OpAB.unpack (o.pack m) = o := by
  have l0 := o.sb.isLt
  have l1 := o.sa.isLt
  have e := OpAB_val m o h
  have u0 : fld 6 6 (o.pack m) = o.sb := fld_of _ _ _ _ (by omega)
  have u1 : fld 0 6 (o.pack m) = o.sa := fld_of _ _ _ _ (by omega)
  exact ⟨by omega, by simp only [OpAB.unpack, u0, u1]⟩

theorem OpTBArr_val (m : Nat) (o : OpTBArr) (h : m + 2 ^ 9 ≤ 2 ^ 32) : (o.pack m).toNat = m + o.scp.toNat * 2 ^ 6 + o.sa.toNat := by
  have l0 := o.scp.isLt
  have l1 := o.sa.isLt
  simp only [OpTBArr.pack, BitVec.toNat_ofNat]
  omega

theorem OpTBArr_rt (m : Nat) (o : OpTBArr) (h : m + 2 ^ 9 ≤ 2 ^ 32) (hm : m % 2 ^ 9 = 0) :
    (o.pack m).toNat / 2 ^ 9 = m / 2 ^ 9 ∧ OpTBArr.unpack (o.pack m) = o := by
  have l0 := o.scp.isLt
  have l1 := o.sa.isLt
  have e := OpTBArr_val m o h
  have u0 : fld 6 3 (o.pack m) = o.scp := fld_of _ _ _ _ (by omega)
  have u1 : fld 0 6 (o.pack m) = o.sa := fld_of _ _ _ _ (by omega)
  exact ⟨by omega, by simp only [OpTBArr.unpack, u0, u1]⟩

theorem OpTBWait_val (m : Nat) (o : OpTBWait) (h : m + 2 ^ 15 ≤ 2 ^ 32) : (o.pack m).toNat = m + o.scp.toNat * 2 ^ 12 + o.sa.toNat * 2 ^ 6 + o.sd.toNat := by
  have l0 := o.scp.isLt
  have l1 := o.sa.isLt
  have l2 := o.sd.isLt
  simp only [OpTBWait.pack, BitVec.toNat_ofNat]
  omega

theorem OpTBWait_rt (m : Nat) (o : OpTBWait) (h : m + 2 ^ 15 ≤ 2 ^ 32) (hm : m % 2 ^ 15 = 0) :
    (o.pack m).toNat / 2 ^ 15 = m / 2 ^ 15 ∧ OpTBWait.unpack (o.pack m) = o := by
  have l0 := o.scp.isLt
  have l1 := o.sa.isLt
  have l2 := o.sd.isLt
  have e := OpTBWait_val m o h
  have u0 : fld 12 3 (o.pack m) = o.scp := fld_of _ _ _ _ (by omega)
  have u1 : fld 6 6 (o.pack m) = o.sa := fld_of _ _ _ _ (by omega)
  have u2 : fld 0 6 (o.pack m) = o.sd := fld_of _ _ _ _ (by omega)
  exact ⟨by omega, by simp only [OpTBWait.unpack, u0, u1, u2]⟩

theorem OpRel_val (m : Nat) (o : OpRel) (h : m + 2 ^ 12 ≤ 2 ^ 32) : (o.pack m).toNat = m + o.sa.toNat * 2 ^ 6 := by
  have l0 := o.sa.isLt
  simp only [OpRel.pack, BitVec.toNat_ofNat]
  omega

theorem OpRel_rt (m : Nat) (o : OpRel) (h : m + 2 ^ 12 ≤ 2 ^ 32) (hm : m % 2 ^ 12 = 0) :
    (o.pack m).toNat / 2 ^ 12 = m / 2 ^ 12 ∧ OpRel.unpack (o.pack m) = o := by
  have l0 := o.sa.isLt
  have e := OpRel_val m o h
  have u0 : fld 6 6 (o.pack m) = o.sa := fld_of _ _ _ _ (by omega)
  exact ⟨by omega, by simp only [OpRel.unpack, u0]⟩

theorem OpQSpawn_val (m : Nat) (o : OpQSpawn) (h : m + 2 ^ 23 ≤ 2 ^ 32) : (o.pack m).toNat = m + o.sh.toNat * 2 ^ 17 + o.se.toNat * 2 ^ 11 + o.va.toNat * 2 ^ 4 := by
  have l0 := o.sh.isLt
  have l1 := o.se.isLt
  have l2 := o.va.isLt
  simp only [OpQSpawn.pack, BitVec.toNat_ofNat]
  omega

theorem OpQSpawn_rt (m : Nat) (o : OpQSpawn) (h : m + 2 ^ 23 ≤ 2 ^ 32) (hm : m % 2 ^ 23 = 0) :
    (o.pack m).toNat / 2 ^ 23 = m / 2 ^ 23 ∧ OpQSpawn.unpack (o.pack m) = o := by
  have l0 := o.sh.isLt
  have l1 := o.se.isLt
  have l2 := o.va.isLt
  have e := OpQSpawn_val m o h
  have u0 : fld 17 6 (o.pack m) = o.sh := fld_of _ _ _ _ (by omega)
  have u1 : fld 11 6 (o.pack m) = o.se := fld_of _ _ _ _ (by omega)
  have u2 : fld 4 7 (o.pack m) = o.va := fld_of _ _ _ _ (by omega)
  exact ⟨by omega, by simp only [OpQSpawn.unpack, u0, u1, u2]⟩

theorem OpQV_val (m : Nat) (o : OpQV) (h : m + 2 ^ 23 ≤ 2 ^ 32) : (o.pack m).toNat = m + o.sh.toNat * 2 ^ 17 + o.va.toNat * 2 ^ 4 := by
  have l0 := o.sh.isLt
  have l1 := o.va.isLt
  simp only [OpQV.pack, BitVec.toNat_ofNat]
  omega

theorem OpQV_rt (m : Nat) (o : OpQV) (h : m + 2 ^ 23 ≤ 2 ^ 32) (hm : m % 2 ^ 23 = 0) :
    (o.pack m).toNat / 2 ^ 23 = m / 2 ^ 23 ∧ OpQV.unpack (o.pack m) = o := by
  have l0 := o.sh.isLt
  have l1 := o.va.isLt
  have e := OpQV_val m o h
  have u0 : fld 17 6 (o.pack m) = o.sh := fld_of _ _ _ _ (by omega)
  have u1 : fld 4 7 (o.pack m) = o.va := fld_of _ _ _ _ (by omega)
  exact ⟨by omega, by simp only [OpQV.unpack, u0, u1]⟩

theorem OpEqFire_val (m : Nat) (o : OpEqFire) (h : m + 2 ^ 23 ≤ 2 ^ 32) : (o.pack m).toNat = m + o.sh.toNat * 2 ^ 17 + o.se.toNat * 2 ^ 11 := by
  have l0 := o.sh.isLt
  have l1 := o.se.isLt
  simp only [OpEqFire.pack, BitVec.toNat_ofNat]
  omega

theorem OpEqFire_rt (m : Nat) (o : OpEqFire) (h : m + 2 ^ 23 ≤ 2 ^ 32) (hm : m % 2 ^ 23 = 0) :
    (o.pack m).toNat / 2 ^ 23 = m / 2 ^ 23 ∧ OpEqFire.unpack (o.pack m) = o := by
  have l0 := o.sh.isLt
  have l1 := o.se.isLt
  have e := OpEqFire_val m o h
  have u0 : fld 17 6 (o.pack m) = o.sh := fld_of _ _ _ _ (by omega)
  have u1 : fld 11 6 (o.pack m) = o.se := fld_of _ _ _ _ (by omega)
  exact ⟨by omega, by simp only [OpEqFire.unpack, u0, u1]⟩

theorem OpDrain_val (m : Nat) (o : OpDrain) (h : m + 2 ^ 23 ≤ 2 ^ 32) : (o.pack m).toNat = m + o.rnd.toNat * 2 ^ 20 + o.acc.toNat * 2 ^ 18 + o.q.toNat * 2 ^ 16 + o.vd.toNat * 2 ^ 9 + o.sb.toNat * 2 ^ 3 + o.dt.toNat := by
  have l0 := o.rnd.isLt
  have l1 := o.acc.isLt
  have l2 := o.q.isLt
  have l3 := o.vd.isLt
  have l4 := o.sb.isLt
  have l5 := o.dt.isLt
  simp only [OpDrain.pack, BitVec.toNat_ofNat]
  omega

theorem OpDrain_rt (m : Nat) (o : OpDrain) (h : m + 2 ^ 23 ≤ 2 ^ 32) (hm : m % 2 ^ 23 = 0) :
    (o.pack m).toNat / 2 ^ 23 = m / 2 ^ 23 ∧ OpDrain.unpack (o.pack m) = o := by
  have l0 := o.rnd.isLt
  have l1 := o.acc.isLt
  have l2 := o.q.isLt
  have l3 := o.vd.isLt
  have l4 := o.sb.isLt
  have l5 := o.dt.isLt
  have e := OpDrain_val m o h
  have u0 : fld 20 3 (o.pack m) = o.rnd := fld_of _ _ _ _ (by omega)
  have u1 : fld 18 2 (o.pack m) = o.acc := fld_of _ _ _ _ (by omega)
  have u2 : fld 16 2 (o.pack m) = o.q := fld_of _ _ _ _ (by omega)
  have u3 : fld 9 7 (o.pack m) = o.vd := fld_of _ _ _ _ (by omega)
  have u4 : fld 3 6 (o.pack m) = o.sb := fld_of _ _ _ _ (by omega)
  have u5 : fld 0 3 (o.pack m) = o.dt := fld_of _ _ _ _ (by omega)
  exact ⟨by omega, by simp only [OpDrain.unpack, u0, u1, u2, u3, u4, u5]⟩

theorem OpFillAcc_val (m : Nat) (o : OpFillAcc) (h : m + 2 ^ 20 ≤ 2 ^ 32) : (o.pack m).toNat = m + o.acc.toNat * 2 ^ 18 + o.q.toNat * 2 ^ 16 + o.vd.toNat * 2 ^ 9 + o.sb.toNat * 2 ^ 3 + o.dt.toNat := by
  have l0 := o.acc.isLt
  have l1 := o.q.isLt
  have l2 := o.vd.isLt
  have l3 := o.sb.isLt
  have l4 := o.dt.isLt
  simp only [OpFillAcc.pack, BitVec.toNat_ofNat]
  omega

theorem OpFillAcc_rt (m : Nat) (o : OpFillAcc) (h : m + 2 ^ 20 ≤ 2 ^ 32) (hm : m % 2 ^ 20 = 0) :
    (o.pack m).toNat / 2 ^ 20 = m / 2 ^ 20 ∧ OpFillAcc.unpack (o.pack m) = o := by
  have l0 := o.acc.isLt
  have l1 := o.q.isLt
  have l2 := o.vd.isLt
  have l3 := o.sb.isLt
  have l4 := o.dt.isLt
  have e := OpFillAcc_val m o h
  have u0 : fld 18 2 (o.pack m) = o.acc := fld_of _ _ _ _ (by omega)
  have u1 : fld 16 2 (o.pack m) = o.q := fld_of _ _ _ _ (by omega)
  have u2 : fld 9 7 (o.pack m) = o.vd := fld_of _ _ _ _ (by omega)
  have u3 : fld 3 6 (o.pack m) = o.sb := fld_of _ _ _ _ (by omega)
  have u4 : fld 0 3 (o.pack m) = o.dt := fld_of _ _ _ _ (by omega)
  exact ⟨by omega, by simp only [OpFillAcc.unpack, u0, u1, u2, u3, u4]⟩

theorem OpIdx_val (m : Nat) (o : OpIdx) (h : m + 2 ^ 12 ≤ 2 ^ 32) : (o.pack m).toNat = m + o.idx.toNat * 2 ^ 6 + o.sa.toNat := by
  have l0 := o.idx.isLt
  have l1 := o.sa.isLt
  simp only [OpIdx.pack, BitVec.toNat_ofNat]
  omega

theorem OpIdx_rt (m : Nat) (o : OpIdx) (h : m + 2 ^ 12 ≤ 2 ^ 32) (hm : m % 2 ^ 12 = 0) :
    (o.pack m).toNat / 2 ^ 12 = m / 2 ^ 12 ∧ OpIdx.unpack (o.pack m) = o := by
  have l0 := o.idx.isLt
  have l1 := o.sa.isLt
  have e := OpIdx_val m o h
  have u0 : fld 6 6 (o.pack m) = o.idx := fld_of _ _ _ _ (by omega)
  have u1 : fld 0 6 (o.pack m) = o.sa := fld_of _ _ _ _ (by omega)
  exact ⟨by omega, by simp only [OpIdx.unpack, u0, u1]⟩

theorem OpMma_val (m : Nat) (o : OpMma) (h : m + 2 ^ 26 ≤ 2 ^ 32) : (o.pack m).toNat = m + o.wait.toNat * 2 ^ 18 + o.s.toNat * 2 ^ 17 + o.set.toNat * 2 ^ 14 + o.acc.toNat * 2 ^ 12 + o.fb.toNat * 2 ^ 8 + o.ra.toNat * 2 ^ 5 + o.rb.toNat * 2 ^ 2 + o.kx.toNat := by
  have l0 := o.wait.isLt
  have l1 := o.s.toNat_le
  have l2 := o.set.isLt
  have l3 := o.acc.isLt
  have l4 := o.fb.isLt
  have l5 := o.ra.isLt
  have l6 := o.rb.isLt
  have l7 := o.kx.isLt
  simp only [OpMma.pack, BitVec.toNat_ofNat]
  omega

theorem OpMma_rt (m : Nat) (o : OpMma) (h : m + 2 ^ 26 ≤ 2 ^ 32) (hm : m % 2 ^ 26 = 0) :
    (o.pack m).toNat / 2 ^ 26 = m / 2 ^ 26 ∧ OpMma.unpack (o.pack m) = o := by
  have l0 := o.wait.isLt
  have l1 := o.s.toNat_le
  have l2 := o.set.isLt
  have l3 := o.acc.isLt
  have l4 := o.fb.isLt
  have l5 := o.ra.isLt
  have l6 := o.rb.isLt
  have l7 := o.kx.isLt
  have e := OpMma_val m o h
  have u0 : fld 18 8 (o.pack m) = o.wait := fld_of _ _ _ _ (by omega)
  have u1 : flag 17 (o.pack m) = o.s := flag_of _ _ _ (by omega)
  have u2 : fld 14 3 (o.pack m) = o.set := fld_of _ _ _ _ (by omega)
  have u3 : fld 12 2 (o.pack m) = o.acc := fld_of _ _ _ _ (by omega)
  have u4 : fld 8 4 (o.pack m) = o.fb := fld_of _ _ _ _ (by omega)
  have u5 : fld 5 3 (o.pack m) = o.ra := fld_of _ _ _ _ (by omega)
  have u6 : fld 2 3 (o.pack m) = o.rb := fld_of _ _ _ _ (by omega)
  have u7 : fld 0 2 (o.pack m) = o.kx := fld_of _ _ _ _ (by omega)
  exact ⟨by omega, by simp only [OpMma.unpack, u0, u1, u2, u3, u4, u5, u6, u7]⟩

theorem OpMLdfb_val (m : Nat) (o : OpMLdfb) (h : m + 2 ^ 8 ≤ 2 ^ 32) : (o.pack m).toNat = m + o.ma.toNat * 2 ^ 4 + o.fb.toNat := by
  have l0 := o.ma.isLt
  have l1 := o.fb.isLt
  simp only [OpMLdfb.pack, BitVec.toNat_ofNat]
  omega

theorem OpMLdfb_rt (m : Nat) (o : OpMLdfb) (h : m + 2 ^ 8 ≤ 2 ^ 32) (hm : m % 2 ^ 8 = 0) :
    (o.pack m).toNat / 2 ^ 8 = m / 2 ^ 8 ∧ OpMLdfb.unpack (o.pack m) = o := by
  have l0 := o.ma.isLt
  have l1 := o.fb.isLt
  have e := OpMLdfb_val m o h
  have u0 : fld 4 4 (o.pack m) = o.ma := fld_of _ _ _ _ (by omega)
  have u1 : fld 0 4 (o.pack m) = o.fb := fld_of _ _ _ _ (by omega)
  exact ⟨by omega, by simp only [OpMLdfb.unpack, u0, u1]⟩

theorem OpMRing_val (m : Nat) (o : OpMRing) (h : m + 2 ^ 7 ≤ 2 ^ 32) : (o.pack m).toNat = m + o.ma.toNat * 2 ^ 3 + o.ring.toNat := by
  have l0 := o.ma.isLt
  have l1 := o.ring.isLt
  simp only [OpMRing.pack, BitVec.toNat_ofNat]
  omega

theorem OpMRing_rt (m : Nat) (o : OpMRing) (h : m + 2 ^ 7 ≤ 2 ^ 32) (hm : m % 2 ^ 7 = 0) :
    (o.pack m).toNat / 2 ^ 7 = m / 2 ^ 7 ∧ OpMRing.unpack (o.pack m) = o := by
  have l0 := o.ma.isLt
  have l1 := o.ring.isLt
  have e := OpMRing_val m o h
  have u0 : fld 3 4 (o.pack m) = o.ma := fld_of _ _ _ _ (by omega)
  have u1 : fld 0 3 (o.pack m) = o.ring := fld_of _ _ _ _ (by omega)
  exact ⟨by omega, by simp only [OpMRing.unpack, u0, u1]⟩

theorem OpMZero_val (m : Nat) (o : OpMZero) (h : m + 2 ^ 2 ≤ 2 ^ 32) : (o.pack m).toNat = m + o.acc.toNat := by
  have l0 := o.acc.isLt
  simp only [OpMZero.pack, BitVec.toNat_ofNat]
  omega

theorem OpMZero_rt (m : Nat) (o : OpMZero) (h : m + 2 ^ 2 ≤ 2 ^ 32) (hm : m % 2 ^ 2 = 0) :
    (o.pack m).toNat / 2 ^ 2 = m / 2 ^ 2 ∧ OpMZero.unpack (o.pack m) = o := by
  have l0 := o.acc.isLt
  have e := OpMZero_val m o h
  have u0 : fld 0 2 (o.pack m) = o.acc := fld_of _ _ _ _ (by omega)
  exact ⟨by omega, by simp only [OpMZero.unpack, u0]⟩

theorem OpMWait_val (m : Nat) (o : OpMWait) (h : m + 2 ^ 8 ≤ 2 ^ 32) : (o.pack m).toNat = m + o.wait.toNat := by
  have l0 := o.wait.isLt
  simp only [OpMWait.pack, BitVec.toNat_ofNat]
  omega

theorem OpMWait_rt (m : Nat) (o : OpMWait) (h : m + 2 ^ 8 ≤ 2 ^ 32) (hm : m % 2 ^ 8 = 0) :
    (o.pack m).toNat / 2 ^ 8 = m / 2 ^ 8 ∧ OpMWait.unpack (o.pack m) = o := by
  have l0 := o.wait.isLt
  have e := OpMWait_val m o h
  have u0 : fld 0 8 (o.pack m) = o.wait := fld_of _ _ _ _ (by omega)
  exact ⟨by omega, by simp only [OpMWait.unpack, u0]⟩

theorem OpMSig_val (m : Nat) (o : OpMSig) (h : m + 2 ^ 12 ≤ 2 ^ 32) : (o.pack m).toNat = m + o.wait.toNat * 2 ^ 4 + o.ma.toNat := by
  have l0 := o.wait.isLt
  have l1 := o.ma.isLt
  simp only [OpMSig.pack, BitVec.toNat_ofNat]
  omega

theorem OpMSig_rt (m : Nat) (o : OpMSig) (h : m + 2 ^ 12 ≤ 2 ^ 32) (hm : m % 2 ^ 12 = 0) :
    (o.pack m).toNat / 2 ^ 12 = m / 2 ^ 12 ∧ OpMSig.unpack (o.pack m) = o := by
  have l0 := o.wait.isLt
  have l1 := o.ma.isLt
  have e := OpMSig_val m o h
  have u0 : fld 4 8 (o.pack m) = o.wait := fld_of _ _ _ _ (by omega)
  have u1 : fld 0 4 (o.pack m) = o.ma := fld_of _ _ _ _ (by omega)
  exact ⟨by omega, by simp only [OpMSig.unpack, u0, u1]⟩

theorem OpMA_val (m : Nat) (o : OpMA) (h : m + 2 ^ 4 ≤ 2 ^ 32) : (o.pack m).toNat = m + o.ma.toNat := by
  have l0 := o.ma.isLt
  simp only [OpMA.pack, BitVec.toNat_ofNat]
  omega

theorem OpMA_rt (m : Nat) (o : OpMA) (h : m + 2 ^ 4 ≤ 2 ^ 32) (hm : m % 2 ^ 4 = 0) :
    (o.pack m).toNat / 2 ^ 4 = m / 2 ^ 4 ∧ OpMA.unpack (o.pack m) = o := by
  have l0 := o.ma.isLt
  have e := OpMA_val m o h
  have u0 : fld 0 4 (o.pack m) = o.ma := fld_of _ _ _ _ (by omega)
  exact ⟨by omega, by simp only [OpMA.unpack, u0]⟩

theorem OpMPop_val (m : Nat) (o : OpMPop) (h : m + 2 ^ 11 ≤ 2 ^ 32) : (o.pack m).toNat = m + o.wait.toNat * 2 ^ 3 + o.ring.toNat := by
  have l0 := o.wait.isLt
  have l1 := o.ring.isLt
  simp only [OpMPop.pack, BitVec.toNat_ofNat]
  omega

theorem OpMPop_rt (m : Nat) (o : OpMPop) (h : m + 2 ^ 11 ≤ 2 ^ 32) (hm : m % 2 ^ 11 = 0) :
    (o.pack m).toNat / 2 ^ 11 = m / 2 ^ 11 ∧ OpMPop.unpack (o.pack m) = o := by
  have l0 := o.wait.isLt
  have l1 := o.ring.isLt
  have e := OpMPop_val m o h
  have u0 : fld 3 8 (o.pack m) = o.wait := fld_of _ _ _ _ (by omega)
  have u1 : fld 0 3 (o.pack m) = o.ring := fld_of _ _ _ _ (by omega)
  exact ⟨by omega, by simp only [OpMPop.unpack, u0, u1]⟩

theorem OpMAdd_val (m : Nat) (o : OpMAdd) (h : m + 2 ^ 23 ≤ 2 ^ 32) : (o.pack m).toNat = m + o.md.toNat * 2 ^ 19 + o.ma.toNat * 2 ^ 15 + o.mb.toNat := by
  have l0 := o.md.isLt
  have l1 := o.ma.isLt
  have l2 := o.mb.isLt
  simp only [OpMAdd.pack, BitVec.toNat_ofNat]
  omega

theorem OpMAdd_rt (m : Nat) (o : OpMAdd) (h : m + 2 ^ 23 ≤ 2 ^ 32) (hm : m % 2 ^ 23 = 0) :
    (o.pack m).toNat / 2 ^ 23 = m / 2 ^ 23 ∧ OpMAdd.unpack (o.pack m) = o := by
  have l0 := o.md.isLt
  have l1 := o.ma.isLt
  have l2 := o.mb.isLt
  have e := OpMAdd_val m o h
  have u0 : fld 19 4 (o.pack m) = o.md := fld_of _ _ _ _ (by omega)
  have u1 : fld 15 4 (o.pack m) = o.ma := fld_of _ _ _ _ (by omega)
  have u2 : fld 0 4 (o.pack m) = o.mb := fld_of _ _ _ _ (by omega)
  exact ⟨by omega, by simp only [OpMAdd.unpack, u0, u1, u2]⟩

theorem OpMAddi_val (m : Nat) (o : OpMAddi) (h : m + 2 ^ 23 ≤ 2 ^ 32) : (o.pack m).toNat = m + o.md.toNat * 2 ^ 19 + o.ma.toNat * 2 ^ 15 + o.imm.toNat := by
  have l0 := o.md.isLt
  have l1 := o.ma.isLt
  have l2 := o.imm.isLt
  simp only [OpMAddi.pack, BitVec.toNat_ofNat]
  omega

theorem OpMAddi_rt (m : Nat) (o : OpMAddi) (h : m + 2 ^ 23 ≤ 2 ^ 32) (hm : m % 2 ^ 23 = 0) :
    (o.pack m).toNat / 2 ^ 23 = m / 2 ^ 23 ∧ OpMAddi.unpack (o.pack m) = o := by
  have l0 := o.md.isLt
  have l1 := o.ma.isLt
  have l2 := o.imm.isLt
  have e := OpMAddi_val m o h
  have u0 : fld 19 4 (o.pack m) = o.md := fld_of _ _ _ _ (by omega)
  have u1 : fld 15 4 (o.pack m) = o.ma := fld_of _ _ _ _ (by omega)
  have u2 : fld 0 15 (o.pack m) = o.imm := fld_of _ _ _ _ (by omega)
  exact ⟨by omega, by simp only [OpMAddi.unpack, u0, u1, u2]⟩

theorem OpMLi_val (m : Nat) (o : OpMLi) (h : m + 2 ^ 23 ≤ 2 ^ 32) : (o.pack m).toNat = m + o.md.toNat * 2 ^ 19 + o.sh.toNat * 2 ^ 15 + o.imm.toNat := by
  have l0 := o.md.isLt
  have l1 := o.sh.isLt
  have l2 := o.imm.isLt
  simp only [OpMLi.pack, BitVec.toNat_ofNat]
  omega

theorem OpMLi_rt (m : Nat) (o : OpMLi) (h : m + 2 ^ 23 ≤ 2 ^ 32) (hm : m % 2 ^ 23 = 0) :
    (o.pack m).toNat / 2 ^ 23 = m / 2 ^ 23 ∧ OpMLi.unpack (o.pack m) = o := by
  have l0 := o.md.isLt
  have l1 := o.sh.isLt
  have l2 := o.imm.isLt
  have e := OpMLi_val m o h
  have u0 : fld 19 4 (o.pack m) = o.md := fld_of _ _ _ _ (by omega)
  have u1 : fld 15 4 (o.pack m) = o.sh := fld_of _ _ _ _ (by omega)
  have u2 : fld 0 15 (o.pack m) = o.imm := fld_of _ _ _ _ (by omega)
  exact ⟨by omega, by simp only [OpMLi.unpack, u0, u1, u2]⟩

theorem OpMBnz_val (m : Nat) (o : OpMBnz) (h : m + 2 ^ 19 ≤ 2 ^ 32) : (o.pack m).toNat = m + o.ma.toNat * 2 ^ 15 + o.imm.toNat := by
  have l0 := o.ma.isLt
  have l1 := o.imm.isLt
  simp only [OpMBnz.pack, BitVec.toNat_ofNat]
  omega

theorem OpMBnz_rt (m : Nat) (o : OpMBnz) (h : m + 2 ^ 19 ≤ 2 ^ 32) (hm : m % 2 ^ 19 = 0) :
    (o.pack m).toNat / 2 ^ 19 = m / 2 ^ 19 ∧ OpMBnz.unpack (o.pack m) = o := by
  have l0 := o.ma.isLt
  have l1 := o.imm.isLt
  have e := OpMBnz_val m o h
  have u0 : fld 15 4 (o.pack m) = o.ma := fld_of _ _ _ _ (by omega)
  have u1 : fld 0 15 (o.pack m) = o.imm := fld_of _ _ _ _ (by omega)
  exact ⟨by omega, by simp only [OpMBnz.unpack, u0, u1]⟩

theorem OpMJ_val (m : Nat) (o : OpMJ) (h : m + 2 ^ 15 ≤ 2 ^ 32) : (o.pack m).toNat = m + o.imm.toNat := by
  have l0 := o.imm.isLt
  simp only [OpMJ.pack, BitVec.toNat_ofNat]
  omega

theorem OpMJ_rt (m : Nat) (o : OpMJ) (h : m + 2 ^ 15 ≤ 2 ^ 32) (hm : m % 2 ^ 15 = 0) :
    (o.pack m).toNat / 2 ^ 15 = m / 2 ^ 15 ∧ OpMJ.unpack (o.pack m) = o := by
  have l0 := o.imm.isLt
  have e := OpMJ_val m o h
  have u0 : fld 0 15 (o.pack m) = o.imm := fld_of _ _ _ _ (by omega)
  exact ⟨by omega, by simp only [OpMJ.unpack, u0]⟩

theorem hint (o : OpHint) : Statement (.hint o) := by
  intro _ hw
  have l0 := o.gaps.isLt
  have l1 := o.yields.isLt
  have e := OpHint_val 0x04000000 o (by decide)
  obtain ⟨g, u⟩ := OpHint_rt 0x04000000 o (by decide) (by decide)
  have hm : (fld 26 6 (o.pack 0x04000000)).toNat = 1 := hi_fld _ 0x04000000 26 _ _ _ g (by decide) (by decide)
  exact decode_of _ (o.pack 0x04000000) (by simp only [rawDecode, hm, u]) (List.forall_mem_cons.2 ⟨show (o.pack 0x04000000).toNat / 2 ^ 0 % 2 ^ 2 = 0 from by omega, List.forall_mem_nil _⟩) hw

theorem rep (o : OpRep) : Statement (.rep o) := by
  intro _ hw
  have l0 := o.cnt.isLt
  have l1 := o.fmD.toNat_le
  have l2 := o.fmA.toNat_le
  have l3 := o.fmB.toNat_le
  have l4 := o.str.isLt
  have e := OpRep_val 0x08000000 o (by decide)
  obtain ⟨g, u⟩ := OpRep_rt 0x08000000 o (by decide) (by decide)
  have hm : (fld 26 6 (o.pack 0x08000000)).toNat = 2 := hi_fld _ 0x08000000 26 _ _ _ g (by decide) (by decide)
  exact decode_of _ (o.pack 0x08000000) (by simp only [rawDecode, hm, u]) (List.forall_mem_cons.2 ⟨show (o.pack 0x08000000).toNat / 2 ^ 0 % 2 ^ 15 = 0 from by omega, List.forall_mem_nil _⟩) hw

theorem stage (o : OpStage) : Statement (.stage o) := by
  intro _ hw
  obtain ⟨g, u⟩ := OpStage_rt 0x0C000000 o (by decide) (by decide)
  have hm : (fld 26 6 (o.pack 0x0C000000)).toNat = 3 := hi_fld _ 0x0C000000 21 _ _ _ g (by decide) (by decide)
  have hk : (fld 23 3 (o.pack 0x0C000000)).toNat = 0 := hi_fld _ 0x0C000000 21 _ _ _ g (by decide) (by decide)
  exact decode_of _ (o.pack 0x0C000000) (by simp only [rawDecode, hm, raw03, hk, u]) (List.forall_mem_cons.2 ⟨show (o.pack 0x0C000000).toNat / 2 ^ 22 % 2 ^ 1 = 0 from hi_zero _ 0x0C000000 21 _ _ g (by decide) (by decide), List.forall_mem_cons.2 ⟨show (o.pack 0x0C000000).toNat / 2 ^ 21 % 2 ^ 1 = 0 from hi_zero _ 0x0C000000 21 _ _ g (by decide) (by decide), List.forall_mem_nil _⟩⟩) hw

theorem mode (o : OpMode) : Statement (.mode o) := by
  intro _ hw
  obtain ⟨g, u⟩ := OpMode_rt 0x10000000 o (by decide) (by decide)
  have hm : (fld 26 6 (o.pack 0x10000000)).toNat = 4 := hi_fld _ 0x10000000 19 _ _ _ g (by decide) (by decide)
  have hk : (fld 20 6 (o.pack 0x10000000)).toNat = 0 := hi_fld _ 0x10000000 19 _ _ _ g (by decide) (by decide)
  exact decode_of _ (o.pack 0x10000000) (by simp only [rawDecode, hm, raw04, hk, u]) (List.forall_mem_cons.2 ⟨show (o.pack 0x10000000).toNat / 2 ^ 19 % 2 ^ 1 = 0 from hi_zero _ 0x10000000 19 _ _ g (by decide) (by decide), List.forall_mem_nil _⟩) hw

theorem modev (o : OpA) : Statement (.modev o) := by
  intro _ hw
  obtain ⟨g, u⟩ := OpA_rt 0x10100000 o (by decide) (by decide)
  have hm : (fld 26 6 (o.pack 0x10100000)).toNat = 4 := hi_fld _ 0x10100000 6 _ _ _ g (by decide) (by decide)
  have hk : (fld 20 6 (o.pack 0x10100000)).toNat = 1 := hi_fld _ 0x10100000 6 _ _ _ g (by decide) (by decide)
  exact decode_of _ (o.pack 0x10100000) (by simp only [rawDecode, hm, raw04, hk, u]) (List.forall_mem_cons.2 ⟨show (o.pack 0x10100000).toNat / 2 ^ 6 % 2 ^ 14 = 0 from hi_zero _ 0x10100000 6 _ _ g (by decide) (by decide), List.forall_mem_nil _⟩) hw

theorem moder (o : OpD) : Statement (.moder o) := by
  intro _ hw
  obtain ⟨g, u⟩ := OpD_rt 0x10200000 o (by decide) (by decide)
  have hm : (fld 26 6 (o.pack 0x10200000)).toNat = 4 := hi_fld _ 0x10200000 6 _ _ _ g (by decide) (by decide)
  have hk : (fld 20 6 (o.pack 0x10200000)).toNat = 2 := hi_fld _ 0x10200000 6 _ _ _ g (by decide) (by decide)
  exact decode_of _ (o.pack 0x10200000) (by simp only [rawDecode, hm, raw04, hk, u]) (List.forall_mem_cons.2 ⟨show (o.pack 0x10200000).toNat / 2 ^ 6 % 2 ^ 14 = 0 from hi_zero _ 0x10200000 6 _ _ g (by decide) (by decide), List.forall_mem_nil _⟩) hw

theorem fill (o : OpA) : Statement (.fill o) := by
  intro _ hw
  obtain ⟨g, u⟩ := OpA_rt 0x10300000 o (by decide) (by decide)
  have hm : (fld 26 6 (o.pack 0x10300000)).toNat = 4 := hi_fld _ 0x10300000 6 _ _ _ g (by decide) (by decide)
  have hk : (fld 20 6 (o.pack 0x10300000)).toNat = 3 := hi_fld _ 0x10300000 6 _ _ _ g (by decide) (by decide)
  have hf : flag 6 (o.pack 0x10300000) = false := hi_flag _ 0x10300000 6 _ _ g (by decide) (by decide)
  exact decode_of _ (o.pack 0x10300000) (by simp only [rawDecode, hm, raw04, hk, hf, Bool.false_eq_true, if_false, u]) (List.forall_mem_cons.2 ⟨show (o.pack 0x10300000).toNat / 2 ^ 7 % 2 ^ 13 = 0 from hi_zero _ 0x10300000 6 _ _ g (by decide) (by decide), List.forall_mem_nil _⟩) hw

theorem fillRd (o : OpD) : Statement (.fillRd o) := by
  intro _ hw
  obtain ⟨g, u⟩ := OpD_rt 0x10300040 o (by decide) (by decide)
  have hm : (fld 26 6 (o.pack 0x10300040)).toNat = 4 := hi_fld _ 0x10300040 6 _ _ _ g (by decide) (by decide)
  have hk : (fld 20 6 (o.pack 0x10300040)).toNat = 3 := hi_fld _ 0x10300040 6 _ _ _ g (by decide) (by decide)
  have hf : flag 6 (o.pack 0x10300040) = true := hi_flag _ 0x10300040 6 _ _ g (by decide) (by decide)
  exact decode_of _ (o.pack 0x10300040) (by simp only [rawDecode, hm, raw04, hk, hf, if_true, u]) (List.forall_mem_cons.2 ⟨show (o.pack 0x10300040).toNat / 2 ^ 7 % 2 ^ 13 = 0 from hi_zero _ 0x10300040 6 _ _ g (by decide) (by decide), List.forall_mem_nil _⟩) hw

theorem sget (o : OpSget) : Statement (.sget o) := by
  intro _ hw
  obtain ⟨g, u⟩ := OpSget_rt 0x10400000 o (by decide) (by decide)
  have hm : (fld 26 6 (o.pack 0x10400000)).toNat = 4 := hi_fld _ 0x10400000 18 _ _ _ g (by decide) (by decide)
  have hk : (fld 20 6 (o.pack 0x10400000)).toNat = 4 := hi_fld _ 0x10400000 18 _ _ _ g (by decide) (by decide)
  exact decode_of _ (o.pack 0x10400000) (by simp only [rawDecode, hm, raw04, hk, u]) (List.forall_mem_cons.2 ⟨show (o.pack 0x10400000).toNat / 2 ^ 18 % 2 ^ 2 = 0 from hi_zero _ 0x10400000 18 _ _ g (by decide) (by decide), List.forall_mem_nil _⟩) hw

theorem sset (o : OpSset) : Statement (.sset o) := by
  intro _ hw
  obtain ⟨g, u⟩ := OpSset_rt 0x10500000 o (by decide) (by decide)
  have hm : (fld 26 6 (o.pack 0x10500000)).toNat = 4 := hi_fld _ 0x10500000 18 _ _ _ g (by decide) (by decide)
  have hk : (fld 20 6 (o.pack 0x10500000)).toNat = 5 := hi_fld _ 0x10500000 18 _ _ _ g (by decide) (by decide)
  exact decode_of _ (o.pack 0x10500000) (by simp only [rawDecode, hm, raw04, hk, u]) (List.forall_mem_cons.2 ⟨show (o.pack 0x10500000).toNat / 2 ^ 18 % 2 ^ 2 = 0 from hi_zero _ 0x10500000 18 _ _ g (by decide) (by decide), List.forall_mem_nil _⟩) hw

theorem nop : Statement .nop := fun _ hw => decode_of _ _ (by decide) (by decide) hw

theorem exit : Statement .exit := fun _ hw => decode_of _ _ (by decide) (by decide) hw

theorem lexit : Statement .lexit := fun _ hw => decode_of _ _ (by decide) (by decide) hw

theorem trap (o : OpImm) : Statement (.trap o) := by
  intro _ hw
  obtain ⟨g, u⟩ := OpImm_rt 0x14300000 o (by decide) (by decide)
  have hm : (fld 26 6 (o.pack 0x14300000)).toNat = 5 := hi_fld _ 0x14300000 16 _ _ _ g (by decide) (by decide)
  have hk : (fld 20 6 (o.pack 0x14300000)).toNat = 3 := hi_fld _ 0x14300000 16 _ _ _ g (by decide) (by decide)
  exact decode_of _ (o.pack 0x14300000) (by simp only [rawDecode, hm, raw05, hk, u]) (List.forall_mem_cons.2 ⟨show (o.pack 0x14300000).toNat / 2 ^ 16 % 2 ^ 4 = 0 from hi_zero _ 0x14300000 16 _ _ g (by decide) (by decide), List.forall_mem_nil _⟩) hw

theorem eret : Statement .eret := fun _ hw => decode_of _ _ (by decide) (by decide) hw

theorem sysc (o : OpDA) : Statement (.sysc o) := by
  intro _ hw
  obtain ⟨g, u⟩ := OpDA_rt 0x14500000 o (by decide) (by decide)
  have hm : (fld 26 6 (o.pack 0x14500000)).toNat = 5 := hi_fld _ 0x14500000 12 _ _ _ g (by decide) (by decide)
  have hk : (fld 20 6 (o.pack 0x14500000)).toNat = 5 := hi_fld _ 0x14500000 12 _ _ _ g (by decide) (by decide)
  exact decode_of _ (o.pack 0x14500000) (by simp only [rawDecode, hm, raw05, hk, u]) (List.forall_mem_cons.2 ⟨show (o.pack 0x14500000).toNat / 2 ^ 12 % 2 ^ 8 = 0 from hi_zero _ 0x14500000 12 _ _ g (by decide) (by decide), List.forall_mem_nil _⟩) hw

theorem brk (o : OpImm) : Statement (.brk o) := by
  intro _ hw
  obtain ⟨g, u⟩ := OpImm_rt 0x14600000 o (by decide) (by decide)
  have hm : (fld 26 6 (o.pack 0x14600000)).toNat = 5 := hi_fld _ 0x14600000 16 _ _ _ g (by decide) (by decide)
  have hk : (fld 20 6 (o.pack 0x14600000)).toNat = 6 := hi_fld _ 0x14600000 16 _ _ _ g (by decide) (by decide)
  exact decode_of _ (o.pack 0x14600000) (by simp only [rawDecode, hm, raw05, hk, u]) (List.forall_mem_cons.2 ⟨show (o.pack 0x14600000).toNat / 2 ^ 16 % 2 ^ 4 = 0 from hi_zero _ 0x14600000 16 _ _ g (by decide) (by decide), List.forall_mem_nil _⟩) hw

theorem twait (o : OpA) : Statement (.twait o) := by
  intro _ hw
  obtain ⟨g, u⟩ := OpA_rt 0x14700000 o (by decide) (by decide)
  have hm : (fld 26 6 (o.pack 0x14700000)).toNat = 5 := hi_fld _ 0x14700000 6 _ _ _ g (by decide) (by decide)
  have hk : (fld 20 6 (o.pack 0x14700000)).toNat = 7 := hi_fld _ 0x14700000 6 _ _ _ g (by decide) (by decide)
  exact decode_of _ (o.pack 0x14700000) (by simp only [rawDecode, hm, raw05, hk, u]) (List.forall_mem_cons.2 ⟨show (o.pack 0x14700000).toNat / 2 ^ 6 % 2 ^ 14 = 0 from hi_zero _ 0x14700000 6 _ _ g (by decide) (by decide), List.forall_mem_nil _⟩) hw

theorem yield : Statement .yield := fun _ hw => decode_of _ _ (by decide) (by decide) hw

theorem bEqz (o : OpBr) : Statement (.bEqz o) := by
  intro _ hw
  obtain ⟨g, u⟩ := OpBr_rt 0x18000000 o (by decide) (by decide)
  have hm : (fld 26 6 (o.pack 0x18000000)).toNat = 6 := hi_fld _ 0x18000000 22 _ _ _ g (by decide) (by decide)
  have hk : (fld 22 4 (o.pack 0x18000000)).toNat = 0 := hi_fld _ 0x18000000 22 _ _ _ g (by decide) (by decide)
  exact decode_of _ (o.pack 0x18000000) (by simp only [rawDecode, hm, raw06, hk, u]) (fun z hz => by cases hz) hw

theorem bNez (o : OpBr) : Statement (.bNez o) := by
  intro _ hw
  obtain ⟨g, u⟩ := OpBr_rt 0x18400000 o (by decide) (by decide)
  have hm : (fld 26 6 (o.pack 0x18400000)).toNat = 6 := hi_fld _ 0x18400000 22 _ _ _ g (by decide) (by decide)
  have hk : (fld 22 4 (o.pack 0x18400000)).toNat = 1 := hi_fld _ 0x18400000 22 _ _ _ g (by decide) (by decide)
  exact decode_of _ (o.pack 0x18400000) (by simp only [rawDecode, hm, raw06, hk, u]) (fun z hz => by cases hz) hw

theorem bLtz (o : OpBr) : Statement (.bLtz o) := by
  intro _ hw
  obtain ⟨g, u⟩ := OpBr_rt 0x18800000 o (by decide) (by decide)
  have hm : (fld 26 6 (o.pack 0x18800000)).toNat = 6 := hi_fld _ 0x18800000 22 _ _ _ g (by decide) (by decide)
  have hk : (fld 22 4 (o.pack 0x18800000)).toNat = 2 := hi_fld _ 0x18800000 22 _ _ _ g (by decide) (by decide)
  exact decode_of _ (o.pack 0x18800000) (by simp only [rawDecode, hm, raw06, hk, u]) (fun z hz => by cases hz) hw

theorem bGez (o : OpBr) : Statement (.bGez o) := by
  intro _ hw
  obtain ⟨g, u⟩ := OpBr_rt 0x18C00000 o (by decide) (by decide)
  have hm : (fld 26 6 (o.pack 0x18C00000)).toNat = 6 := hi_fld _ 0x18C00000 22 _ _ _ g (by decide) (by decide)
  have hk : (fld 22 4 (o.pack 0x18C00000)).toNat = 3 := hi_fld _ 0x18C00000 22 _ _ _ g (by decide) (by decide)
  exact decode_of _ (o.pack 0x18C00000) (by simp only [rawDecode, hm, raw06, hk, u]) (fun z hz => by cases hz) hw

theorem bGtz (o : OpBr) : Statement (.bGtz o) := by
  intro _ hw
  obtain ⟨g, u⟩ := OpBr_rt 0x19000000 o (by decide) (by decide)
  have hm : (fld 26 6 (o.pack 0x19000000)).toNat = 6 := hi_fld _ 0x19000000 22 _ _ _ g (by decide) (by decide)
  have hk : (fld 22 4 (o.pack 0x19000000)).toNat = 4 := hi_fld _ 0x19000000 22 _ _ _ g (by decide) (by decide)
  exact decode_of _ (o.pack 0x19000000) (by simp only [rawDecode, hm, raw06, hk, u]) (fun z hz => by cases hz) hw

theorem bLez (o : OpBr) : Statement (.bLez o) := by
  intro _ hw
  obtain ⟨g, u⟩ := OpBr_rt 0x19400000 o (by decide) (by decide)
  have hm : (fld 26 6 (o.pack 0x19400000)).toNat = 6 := hi_fld _ 0x19400000 22 _ _ _ g (by decide) (by decide)
  have hk : (fld 22 4 (o.pack 0x19400000)).toNat = 5 := hi_fld _ 0x19400000 22 _ _ _ g (by decide) (by decide)
  exact decode_of _ (o.pack 0x19400000) (by simp only [rawDecode, hm, raw06, hk, u]) (fun z hz => by cases hz) hw

theorem bPany (o : OpBrP) : Statement (.bPany o) := by
  intro _ hw
  obtain ⟨g, u⟩ := OpBrP_rt 0x19800000 o (by decide) (by decide)
  have hm : (fld 26 6 (o.pack 0x19800000)).toNat = 6 := hi_fld _ 0x19800000 19 _ _ _ g (by decide) (by decide)
  have hk : (fld 22 4 (o.pack 0x19800000)).toNat = 6 := hi_fld _ 0x19800000 19 _ _ _ g (by decide) (by decide)
  exact decode_of _ (o.pack 0x19800000) (by simp only [rawDecode, hm, raw06, hk, u]) (List.forall_mem_cons.2 ⟨show (o.pack 0x19800000).toNat / 2 ^ 19 % 2 ^ 3 = 0 from hi_zero _ 0x19800000 19 _ _ g (by decide) (by decide), List.forall_mem_nil _⟩) hw

theorem bPnone (o : OpBrP) : Statement (.bPnone o) := by
  intro _ hw
  obtain ⟨g, u⟩ := OpBrP_rt 0x19C00000 o (by decide) (by decide)
  have hm : (fld 26 6 (o.pack 0x19C00000)).toNat = 6 := hi_fld _ 0x19C00000 19 _ _ _ g (by decide) (by decide)
  have hk : (fld 22 4 (o.pack 0x19C00000)).toNat = 7 := hi_fld _ 0x19C00000 19 _ _ _ g (by decide) (by decide)
  exact decode_of _ (o.pack 0x19C00000) (by simp only [rawDecode, hm, raw06, hk, u]) (List.forall_mem_cons.2 ⟨show (o.pack 0x19C00000).toNat / 2 ^ 19 % 2 ^ 3 = 0 from hi_zero _ 0x19C00000 19 _ _ g (by decide) (by decide), List.forall_mem_nil _⟩) hw

theorem bPall (o : OpBrP) : Statement (.bPall o) := by
  intro _ hw
  obtain ⟨g, u⟩ := OpBrP_rt 0x1A000000 o (by decide) (by decide)
  have hm : (fld 26 6 (o.pack 0x1A000000)).toNat = 6 := hi_fld _ 0x1A000000 19 _ _ _ g (by decide) (by decide)
  have hk : (fld 22 4 (o.pack 0x1A000000)).toNat = 8 := hi_fld _ 0x1A000000 19 _ _ _ g (by decide) (by decide)
  exact decode_of _ (o.pack 0x1A000000) (by simp only [rawDecode, hm, raw06, hk, u]) (List.forall_mem_cons.2 ⟨show (o.pack 0x1A000000).toNat / 2 ^ 19 % 2 ^ 3 = 0 from hi_zero _ 0x1A000000 19 _ _ g (by decide) (by decide), List.forall_mem_nil _⟩) hw

theorem bAlways (o : OpBrAlways) : Statement (.bAlways o) := by
  intro _ hw
  obtain ⟨g, u⟩ := OpBrAlways_rt 0x1A400000 o (by decide) (by decide)
  have hm : (fld 26 6 (o.pack 0x1A400000)).toNat = 6 := hi_fld _ 0x1A400000 16 _ _ _ g (by decide) (by decide)
  have hk : (fld 22 4 (o.pack 0x1A400000)).toNat = 9 := hi_fld _ 0x1A400000 16 _ _ _ g (by decide) (by decide)
  exact decode_of _ (o.pack 0x1A400000) (by simp only [rawDecode, hm, raw06, hk, u]) (List.forall_mem_cons.2 ⟨show (o.pack 0x1A400000).toNat / 2 ^ 16 % 2 ^ 6 = 0 from hi_zero _ 0x1A400000 16 _ _ g (by decide) (by decide), List.forall_mem_nil _⟩) hw

theorem j (o : OpJ) : Statement (.j o) := by
  intro _ hw
  obtain ⟨g, u⟩ := OpJ_rt 0x1C000000 o (by decide) (by decide)
  have hm : (fld 26 6 (o.pack 0x1C000000)).toNat = 7 := hi_fld _ 0x1C000000 26 _ _ _ g (by decide) (by decide)
  exact decode_of _ (o.pack 0x1C000000) (by simp only [rawDecode, hm, u]) (fun z hz => by cases hz) hw

theorem call (o : OpJ) : Statement (.call o) := by
  intro _ hw
  obtain ⟨g, u⟩ := OpJ_rt 0x20000000 o (by decide) (by decide)
  have hm : (fld 26 6 (o.pack 0x20000000)).toNat = 8 := hi_fld _ 0x20000000 26 _ _ _ g (by decide) (by decide)
  exact decode_of _ (o.pack 0x20000000) (by simp only [rawDecode, hm, u]) (fun z hz => by cases hz) hw

theorem jr (o : OpJr) : Statement (.jr o) := by
  intro _ hw
  have l0 := o.sa.isLt
  have l1 := o.ta.toNat_le
  have e := OpJr_val 0x24000000 o (by decide)
  obtain ⟨g, u⟩ := OpJr_rt 0x24000000 o (by decide) (by decide)
  have hm : (fld 26 6 (o.pack 0x24000000)).toNat = 9 := hi_fld _ 0x24000000 16 _ _ _ g (by decide) (by decide)
  have hk : (fld 22 4 (o.pack 0x24000000)).toNat = 0 := hi_fld _ 0x24000000 16 _ _ _ g (by decide) (by decide)
  exact decode_of _ (o.pack 0x24000000) (by simp only [rawDecode, hm, raw09, hk, u]) (List.forall_mem_cons.2 ⟨show (o.pack 0x24000000).toNat / 2 ^ 16 % 2 ^ 6 = 0 from hi_zero _ 0x24000000 16 _ _ g (by decide) (by decide), List.forall_mem_cons.2 ⟨show (o.pack 0x24000000).toNat / 2 ^ 4 % 2 ^ 6 = 0 from by omega, List.forall_mem_cons.2 ⟨show (o.pack 0x24000000).toNat / 2 ^ 2 % 2 ^ 1 = 0 from by omega, List.forall_mem_cons.2 ⟨show (o.pack 0x24000000).toNat / 2 ^ 0 % 2 ^ 2 = 0 from by omega, List.forall_mem_nil _⟩⟩⟩⟩) hw

theorem callr (o : OpJr) : Statement (.callr o) := by
  intro _ hw
  have l0 := o.sa.isLt
  have l1 := o.ta.toNat_le
  have e := OpJr_val 0x24400000 o (by decide)
  obtain ⟨g, u⟩ := OpJr_rt 0x24400000 o (by decide) (by decide)
  have hm : (fld 26 6 (o.pack 0x24400000)).toNat = 9 := hi_fld _ 0x24400000 16 _ _ _ g (by decide) (by decide)
  have hk : (fld 22 4 (o.pack 0x24400000)).toNat = 1 := hi_fld _ 0x24400000 16 _ _ _ g (by decide) (by decide)
  exact decode_of _ (o.pack 0x24400000) (by simp only [rawDecode, hm, raw09, hk, u]) (List.forall_mem_cons.2 ⟨show (o.pack 0x24400000).toNat / 2 ^ 16 % 2 ^ 6 = 0 from hi_zero _ 0x24400000 16 _ _ g (by decide) (by decide), List.forall_mem_cons.2 ⟨show (o.pack 0x24400000).toNat / 2 ^ 4 % 2 ^ 6 = 0 from by omega, List.forall_mem_cons.2 ⟨show (o.pack 0x24400000).toNat / 2 ^ 2 % 2 ^ 1 = 0 from by omega, List.forall_mem_cons.2 ⟨show (o.pack 0x24400000).toNat / 2 ^ 0 % 2 ^ 2 = 0 from by omega, List.forall_mem_nil _⟩⟩⟩⟩) hw

theorem loop (o : OpLoop) : Statement (.loop o) := by
  intro _ hw
  obtain ⟨g, u⟩ := OpLoop_rt 0x28000000 o (by decide) (by decide)
  have hm : (fld 26 6 (o.pack 0x28000000)).toNat = 10 := hi_fld _ 0x28000000 11 _ _ _ g (by decide) (by decide)
  have hk : (fld 20 6 (o.pack 0x28000000)).toNat = 0 := hi_fld _ 0x28000000 11 _ _ _ g (by decide) (by decide)
  exact decode_of _ (o.pack 0x28000000) (by simp only [rawDecode, hm, raw0A, hk, u]) (List.forall_mem_cons.2 ⟨show (o.pack 0x28000000).toNat / 2 ^ 11 % 2 ^ 9 = 0 from hi_zero _ 0x28000000 11 _ _ g (by decide) (by decide), List.forall_mem_nil _⟩) hw

theorem add (o : OpSR) : Statement (.add o) := by
  intro _ hw
  have l0 := o.sd.isLt
  have l1 := o.sa.isLt
  have l2 := o.sb.isLt
  have l3 := o.ta.toNat_le
  have l4 := o.tb.toNat_le
  have e := OpSR_val 0x30000000 o (by decide)
  obtain ⟨g, u⟩ := OpSR_rt 0x30000000 o (by decide) (by decide)
  have hm : (fld 26 6 (o.pack 0x30000000)).toNat = 12 := hi_fld _ 0x30000000 22 _ _ _ g (by decide) (by decide)
  have hk : (fld 22 4 (o.pack 0x30000000)).toNat = 0 := hi_fld _ 0x30000000 22 _ _ _ g (by decide) (by decide)
  exact decode_of _ (o.pack 0x30000000) (by simp only [rawDecode, hm, raw0C, hk, u]) (List.forall_mem_cons.2 ⟨show (o.pack 0x30000000).toNat / 2 ^ 0 % 2 ^ 2 = 0 from by omega, List.forall_mem_nil _⟩) hw

theorem sub (o : OpSR) : Statement (.sub o) := by
  intro _ hw
  have l0 := o.sd.isLt
  have l1 := o.sa.isLt
  have l2 := o.sb.isLt
  have l3 := o.ta.toNat_le
  have l4 := o.tb.toNat_le
  have e := OpSR_val 0x30400000 o (by decide)
  obtain ⟨g, u⟩ := OpSR_rt 0x30400000 o (by decide) (by decide)
  have hm : (fld 26 6 (o.pack 0x30400000)).toNat = 12 := hi_fld _ 0x30400000 22 _ _ _ g (by decide) (by decide)
  have hk : (fld 22 4 (o.pack 0x30400000)).toNat = 1 := hi_fld _ 0x30400000 22 _ _ _ g (by decide) (by decide)
  exact decode_of _ (o.pack 0x30400000) (by simp only [rawDecode, hm, raw0C, hk, u]) (List.forall_mem_cons.2 ⟨show (o.pack 0x30400000).toNat / 2 ^ 0 % 2 ^ 2 = 0 from by omega, List.forall_mem_nil _⟩) hw

theorem and (o : OpSR) : Statement (.and o) := by
  intro _ hw
  have l0 := o.sd.isLt
  have l1 := o.sa.isLt
  have l2 := o.sb.isLt
  have l3 := o.ta.toNat_le
  have l4 := o.tb.toNat_le
  have e := OpSR_val 0x30800000 o (by decide)
  obtain ⟨g, u⟩ := OpSR_rt 0x30800000 o (by decide) (by decide)
  have hm : (fld 26 6 (o.pack 0x30800000)).toNat = 12 := hi_fld _ 0x30800000 22 _ _ _ g (by decide) (by decide)
  have hk : (fld 22 4 (o.pack 0x30800000)).toNat = 2 := hi_fld _ 0x30800000 22 _ _ _ g (by decide) (by decide)
  exact decode_of _ (o.pack 0x30800000) (by simp only [rawDecode, hm, raw0C, hk, u]) (List.forall_mem_cons.2 ⟨show (o.pack 0x30800000).toNat / 2 ^ 0 % 2 ^ 2 = 0 from by omega, List.forall_mem_nil _⟩) hw

theorem or (o : OpSR) : Statement (.or o) := by
  intro _ hw
  have l0 := o.sd.isLt
  have l1 := o.sa.isLt
  have l2 := o.sb.isLt
  have l3 := o.ta.toNat_le
  have l4 := o.tb.toNat_le
  have e := OpSR_val 0x30C00000 o (by decide)
  obtain ⟨g, u⟩ := OpSR_rt 0x30C00000 o (by decide) (by decide)
  have hm : (fld 26 6 (o.pack 0x30C00000)).toNat = 12 := hi_fld _ 0x30C00000 22 _ _ _ g (by decide) (by decide)
  have hk : (fld 22 4 (o.pack 0x30C00000)).toNat = 3 := hi_fld _ 0x30C00000 22 _ _ _ g (by decide) (by decide)
  exact decode_of _ (o.pack 0x30C00000) (by simp only [rawDecode, hm, raw0C, hk, u]) (List.forall_mem_cons.2 ⟨show (o.pack 0x30C00000).toNat / 2 ^ 0 % 2 ^ 2 = 0 from by omega, List.forall_mem_nil _⟩) hw

theorem xor (o : OpSR) : Statement (.xor o) := by
  intro _ hw
  have l0 := o.sd.isLt
  have l1 := o.sa.isLt
  have l2 := o.sb.isLt
  have l3 := o.ta.toNat_le
  have l4 := o.tb.toNat_le
  have e := OpSR_val 0x31000000 o (by decide)
  obtain ⟨g, u⟩ := OpSR_rt 0x31000000 o (by decide) (by decide)
  have hm : (fld 26 6 (o.pack 0x31000000)).toNat = 12 := hi_fld _ 0x31000000 22 _ _ _ g (by decide) (by decide)
  have hk : (fld 22 4 (o.pack 0x31000000)).toNat = 4 := hi_fld _ 0x31000000 22 _ _ _ g (by decide) (by decide)
  exact decode_of _ (o.pack 0x31000000) (by simp only [rawDecode, hm, raw0C, hk, u]) (List.forall_mem_cons.2 ⟨show (o.pack 0x31000000).toNat / 2 ^ 0 % 2 ^ 2 = 0 from by omega, List.forall_mem_nil _⟩) hw

theorem andn (o : OpSR) : Statement (.andn o) := by
  intro _ hw
  have l0 := o.sd.isLt
  have l1 := o.sa.isLt
  have l2 := o.sb.isLt
  have l3 := o.ta.toNat_le
  have l4 := o.tb.toNat_le
  have e := OpSR_val 0x31400000 o (by decide)
  obtain ⟨g, u⟩ := OpSR_rt 0x31400000 o (by decide) (by decide)
  have hm : (fld 26 6 (o.pack 0x31400000)).toNat = 12 := hi_fld _ 0x31400000 22 _ _ _ g (by decide) (by decide)
  have hk : (fld 22 4 (o.pack 0x31400000)).toNat = 5 := hi_fld _ 0x31400000 22 _ _ _ g (by decide) (by decide)
  exact decode_of _ (o.pack 0x31400000) (by simp only [rawDecode, hm, raw0C, hk, u]) (List.forall_mem_cons.2 ⟨show (o.pack 0x31400000).toNat / 2 ^ 0 % 2 ^ 2 = 0 from by omega, List.forall_mem_nil _⟩) hw

theorem shl (o : OpSR) : Statement (.shl o) := by
  intro _ hw
  have l0 := o.sd.isLt
  have l1 := o.sa.isLt
  have l2 := o.sb.isLt
  have l3 := o.ta.toNat_le
  have l4 := o.tb.toNat_le
  have e := OpSR_val 0x31800000 o (by decide)
  obtain ⟨g, u⟩ := OpSR_rt 0x31800000 o (by decide) (by decide)
  have hm : (fld 26 6 (o.pack 0x31800000)).toNat = 12 := hi_fld _ 0x31800000 22 _ _ _ g (by decide) (by decide)
  have hk : (fld 22 4 (o.pack 0x31800000)).toNat = 6 := hi_fld _ 0x31800000 22 _ _ _ g (by decide) (by decide)
  exact decode_of _ (o.pack 0x31800000) (by simp only [rawDecode, hm, raw0C, hk, u]) (List.forall_mem_cons.2 ⟨show (o.pack 0x31800000).toNat / 2 ^ 0 % 2 ^ 2 = 0 from by omega, List.forall_mem_nil _⟩) hw

theorem shr (o : OpSR) : Statement (.shr o) := by
  intro _ hw
  have l0 := o.sd.isLt
  have l1 := o.sa.isLt
  have l2 := o.sb.isLt
  have l3 := o.ta.toNat_le
  have l4 := o.tb.toNat_le
  have e := OpSR_val 0x31C00000 o (by decide)
  obtain ⟨g, u⟩ := OpSR_rt 0x31C00000 o (by decide) (by decide)
  have hm : (fld 26 6 (o.pack 0x31C00000)).toNat = 12 := hi_fld _ 0x31C00000 22 _ _ _ g (by decide) (by decide)
  have hk : (fld 22 4 (o.pack 0x31C00000)).toNat = 7 := hi_fld _ 0x31C00000 22 _ _ _ g (by decide) (by decide)
  exact decode_of _ (o.pack 0x31C00000) (by simp only [rawDecode, hm, raw0C, hk, u]) (List.forall_mem_cons.2 ⟨show (o.pack 0x31C00000).toNat / 2 ^ 0 % 2 ^ 2 = 0 from by omega, List.forall_mem_nil _⟩) hw

theorem sar (o : OpSR) : Statement (.sar o) := by
  intro _ hw
  have l0 := o.sd.isLt
  have l1 := o.sa.isLt
  have l2 := o.sb.isLt
  have l3 := o.ta.toNat_le
  have l4 := o.tb.toNat_le
  have e := OpSR_val 0x32000000 o (by decide)
  obtain ⟨g, u⟩ := OpSR_rt 0x32000000 o (by decide) (by decide)
  have hm : (fld 26 6 (o.pack 0x32000000)).toNat = 12 := hi_fld _ 0x32000000 22 _ _ _ g (by decide) (by decide)
  have hk : (fld 22 4 (o.pack 0x32000000)).toNat = 8 := hi_fld _ 0x32000000 22 _ _ _ g (by decide) (by decide)
  exact decode_of _ (o.pack 0x32000000) (by simp only [rawDecode, hm, raw0C, hk, u]) (List.forall_mem_cons.2 ⟨show (o.pack 0x32000000).toNat / 2 ^ 0 % 2 ^ 2 = 0 from by omega, List.forall_mem_nil _⟩) hw

theorem rol (o : OpSR) : Statement (.rol o) := by
  intro _ hw
  have l0 := o.sd.isLt
  have l1 := o.sa.isLt
  have l2 := o.sb.isLt
  have l3 := o.ta.toNat_le
  have l4 := o.tb.toNat_le
  have e := OpSR_val 0x32400000 o (by decide)
  obtain ⟨g, u⟩ := OpSR_rt 0x32400000 o (by decide) (by decide)
  have hm : (fld 26 6 (o.pack 0x32400000)).toNat = 12 := hi_fld _ 0x32400000 22 _ _ _ g (by decide) (by decide)
  have hk : (fld 22 4 (o.pack 0x32400000)).toNat = 9 := hi_fld _ 0x32400000 22 _ _ _ g (by decide) (by decide)
  exact decode_of _ (o.pack 0x32400000) (by simp only [rawDecode, hm, raw0C, hk, u]) (List.forall_mem_cons.2 ⟨show (o.pack 0x32400000).toNat / 2 ^ 0 % 2 ^ 2 = 0 from by omega, List.forall_mem_nil _⟩) hw

theorem min (o : OpSR) : Statement (.min o) := by
  intro _ hw
  have l0 := o.sd.isLt
  have l1 := o.sa.isLt
  have l2 := o.sb.isLt
  have l3 := o.ta.toNat_le
  have l4 := o.tb.toNat_le
  have e := OpSR_val 0x32800000 o (by decide)
  obtain ⟨g, u⟩ := OpSR_rt 0x32800000 o (by decide) (by decide)
  have hm : (fld 26 6 (o.pack 0x32800000)).toNat = 12 := hi_fld _ 0x32800000 22 _ _ _ g (by decide) (by decide)
  have hk : (fld 22 4 (o.pack 0x32800000)).toNat = 10 := hi_fld _ 0x32800000 22 _ _ _ g (by decide) (by decide)
  exact decode_of _ (o.pack 0x32800000) (by simp only [rawDecode, hm, raw0C, hk, u]) (List.forall_mem_cons.2 ⟨show (o.pack 0x32800000).toNat / 2 ^ 0 % 2 ^ 2 = 0 from by omega, List.forall_mem_nil _⟩) hw

theorem max (o : OpSR) : Statement (.max o) := by
  intro _ hw
  have l0 := o.sd.isLt
  have l1 := o.sa.isLt
  have l2 := o.sb.isLt
  have l3 := o.ta.toNat_le
  have l4 := o.tb.toNat_le
  have e := OpSR_val 0x32C00000 o (by decide)
  obtain ⟨g, u⟩ := OpSR_rt 0x32C00000 o (by decide) (by decide)
  have hm : (fld 26 6 (o.pack 0x32C00000)).toNat = 12 := hi_fld _ 0x32C00000 22 _ _ _ g (by decide) (by decide)
  have hk : (fld 22 4 (o.pack 0x32C00000)).toNat = 11 := hi_fld _ 0x32C00000 22 _ _ _ g (by decide) (by decide)
  exact decode_of _ (o.pack 0x32C00000) (by simp only [rawDecode, hm, raw0C, hk, u]) (List.forall_mem_cons.2 ⟨show (o.pack 0x32C00000).toNat / 2 ^ 0 % 2 ^ 2 = 0 from by omega, List.forall_mem_nil _⟩) hw

theorem minz (o : OpSR) : Statement (.minz o) := by
  intro _ hw
  have l0 := o.sd.isLt
  have l1 := o.sa.isLt
  have l2 := o.sb.isLt
  have l3 := o.ta.toNat_le
  have l4 := o.tb.toNat_le
  have e := OpSR_val 0x33000000 o (by decide)
  obtain ⟨g, u⟩ := OpSR_rt 0x33000000 o (by decide) (by decide)
  have hm : (fld 26 6 (o.pack 0x33000000)).toNat = 12 := hi_fld _ 0x33000000 22 _ _ _ g (by decide) (by decide)
  have hk : (fld 22 4 (o.pack 0x33000000)).toNat = 12 := hi_fld _ 0x33000000 22 _ _ _ g (by decide) (by decide)
  exact decode_of _ (o.pack 0x33000000) (by simp only [rawDecode, hm, raw0C, hk, u]) (List.forall_mem_cons.2 ⟨show (o.pack 0x33000000).toNat / 2 ^ 0 % 2 ^ 2 = 0 from by omega, List.forall_mem_nil _⟩) hw

theorem maxz (o : OpSR) : Statement (.maxz o) := by
  intro _ hw
  have l0 := o.sd.isLt
  have l1 := o.sa.isLt
  have l2 := o.sb.isLt
  have l3 := o.ta.toNat_le
  have l4 := o.tb.toNat_le
  have e := OpSR_val 0x33400000 o (by decide)
  obtain ⟨g, u⟩ := OpSR_rt 0x33400000 o (by decide) (by decide)
  have hm : (fld 26 6 (o.pack 0x33400000)).toNat = 12 := hi_fld _ 0x33400000 22 _ _ _ g (by decide) (by decide)
  have hk : (fld 22 4 (o.pack 0x33400000)).toNat = 13 := hi_fld _ 0x33400000 22 _ _ _ g (by decide) (by decide)
  exact decode_of _ (o.pack 0x33400000) (by simp only [rawDecode, hm, raw0C, hk, u]) (List.forall_mem_cons.2 ⟨show (o.pack 0x33400000).toNat / 2 ^ 0 % 2 ^ 2 = 0 from by omega, List.forall_mem_nil _⟩) hw

theorem slt (o : OpSR) : Statement (.slt o) := by
  intro _ hw
  have l0 := o.sd.isLt
  have l1 := o.sa.isLt
  have l2 := o.sb.isLt
  have l3 := o.ta.toNat_le
  have l4 := o.tb.toNat_le
  have e := OpSR_val 0x33800000 o (by decide)
  obtain ⟨g, u⟩ := OpSR_rt 0x33800000 o (by decide) (by decide)
  have hm : (fld 26 6 (o.pack 0x33800000)).toNat = 12 := hi_fld _ 0x33800000 22 _ _ _ g (by decide) (by decide)
  have hk : (fld 22 4 (o.pack 0x33800000)).toNat = 14 := hi_fld _ 0x33800000 22 _ _ _ g (by decide) (by decide)
  exact decode_of _ (o.pack 0x33800000) (by simp only [rawDecode, hm, raw0C, hk, u]) (List.forall_mem_cons.2 ⟨show (o.pack 0x33800000).toNat / 2 ^ 0 % 2 ^ 2 = 0 from by omega, List.forall_mem_nil _⟩) hw

theorem sltz (o : OpSR) : Statement (.sltz o) := by
  intro _ hw
  have l0 := o.sd.isLt
  have l1 := o.sa.isLt
  have l2 := o.sb.isLt
  have l3 := o.ta.toNat_le
  have l4 := o.tb.toNat_le
  have e := OpSR_val 0x33C00000 o (by decide)
  obtain ⟨g, u⟩ := OpSR_rt 0x33C00000 o (by decide) (by decide)
  have hm : (fld 26 6 (o.pack 0x33C00000)).toNat = 12 := hi_fld _ 0x33C00000 22 _ _ _ g (by decide) (by decide)
  have hk : (fld 22 4 (o.pack 0x33C00000)).toNat = 15 := hi_fld _ 0x33C00000 22 _ _ _ g (by decide) (by decide)
  exact decode_of _ (o.pack 0x33C00000) (by simp only [rawDecode, hm, raw0C, hk, u]) (List.forall_mem_cons.2 ⟨show (o.pack 0x33C00000).toNat / 2 ^ 0 % 2 ^ 2 = 0 from by omega, List.forall_mem_nil _⟩) hw

theorem mul (o : OpSR) : Statement (.mul o) := by
  intro _ hw
  have l0 := o.sd.isLt
  have l1 := o.sa.isLt
  have l2 := o.sb.isLt
  have l3 := o.ta.toNat_le
  have l4 := o.tb.toNat_le
  have e := OpSR_val 0x34000000 o (by decide)
  obtain ⟨g, u⟩ := OpSR_rt 0x34000000 o (by decide) (by decide)
  have hm : (fld 26 6 (o.pack 0x34000000)).toNat = 13 := hi_fld _ 0x34000000 22 _ _ _ g (by decide) (by decide)
  have hk : (fld 22 4 (o.pack 0x34000000)).toNat = 0 := hi_fld _ 0x34000000 22 _ _ _ g (by decide) (by decide)
  exact decode_of _ (o.pack 0x34000000) (by simp only [rawDecode, hm, raw0D, hk, u]) (List.forall_mem_cons.2 ⟨show (o.pack 0x34000000).toNat / 2 ^ 0 % 2 ^ 2 = 0 from by omega, List.forall_mem_nil _⟩) hw

theorem mulh (o : OpSR) : Statement (.mulh o) := by
  intro _ hw
  have l0 := o.sd.isLt
  have l1 := o.sa.isLt
  have l2 := o.sb.isLt
  have l3 := o.ta.toNat_le
  have l4 := o.tb.toNat_le
  have e := OpSR_val 0x34400000 o (by decide)
  obtain ⟨g, u⟩ := OpSR_rt 0x34400000 o (by decide) (by decide)
  have hm : (fld 26 6 (o.pack 0x34400000)).toNat = 13 := hi_fld _ 0x34400000 22 _ _ _ g (by decide) (by decide)
  have hk : (fld 22 4 (o.pack 0x34400000)).toNat = 1 := hi_fld _ 0x34400000 22 _ _ _ g (by decide) (by decide)
  exact decode_of _ (o.pack 0x34400000) (by simp only [rawDecode, hm, raw0D, hk, u]) (List.forall_mem_cons.2 ⟨show (o.pack 0x34400000).toNat / 2 ^ 0 % 2 ^ 2 = 0 from by omega, List.forall_mem_nil _⟩) hw

theorem mulhz (o : OpSR) : Statement (.mulhz o) := by
  intro _ hw
  have l0 := o.sd.isLt
  have l1 := o.sa.isLt
  have l2 := o.sb.isLt
  have l3 := o.ta.toNat_le
  have l4 := o.tb.toNat_le
  have e := OpSR_val 0x34800000 o (by decide)
  obtain ⟨g, u⟩ := OpSR_rt 0x34800000 o (by decide) (by decide)
  have hm : (fld 26 6 (o.pack 0x34800000)).toNat = 13 := hi_fld _ 0x34800000 22 _ _ _ g (by decide) (by decide)
  have hk : (fld 22 4 (o.pack 0x34800000)).toNat = 2 := hi_fld _ 0x34800000 22 _ _ _ g (by decide) (by decide)
  exact decode_of _ (o.pack 0x34800000) (by simp only [rawDecode, hm, raw0D, hk, u]) (List.forall_mem_cons.2 ⟨show (o.pack 0x34800000).toNat / 2 ^ 0 % 2 ^ 2 = 0 from by omega, List.forall_mem_nil _⟩) hw

theorem div (o : OpSR) : Statement (.div o) := by
  intro _ hw
  have l0 := o.sd.isLt
  have l1 := o.sa.isLt
  have l2 := o.sb.isLt
  have l3 := o.ta.toNat_le
  have l4 := o.tb.toNat_le
  have e := OpSR_val 0x34C00000 o (by decide)
  obtain ⟨g, u⟩ := OpSR_rt 0x34C00000 o (by decide) (by decide)
  have hm : (fld 26 6 (o.pack 0x34C00000)).toNat = 13 := hi_fld _ 0x34C00000 22 _ _ _ g (by decide) (by decide)
  have hk : (fld 22 4 (o.pack 0x34C00000)).toNat = 3 := hi_fld _ 0x34C00000 22 _ _ _ g (by decide) (by decide)
  exact decode_of _ (o.pack 0x34C00000) (by simp only [rawDecode, hm, raw0D, hk, u]) (List.forall_mem_cons.2 ⟨show (o.pack 0x34C00000).toNat / 2 ^ 0 % 2 ^ 2 = 0 from by omega, List.forall_mem_nil _⟩) hw

theorem divz (o : OpSR) : Statement (.divz o) := by
  intro _ hw
  have l0 := o.sd.isLt
  have l1 := o.sa.isLt
  have l2 := o.sb.isLt
  have l3 := o.ta.toNat_le
  have l4 := o.tb.toNat_le
  have e := OpSR_val 0x35000000 o (by decide)
  obtain ⟨g, u⟩ := OpSR_rt 0x35000000 o (by decide) (by decide)
  have hm : (fld 26 6 (o.pack 0x35000000)).toNat = 13 := hi_fld _ 0x35000000 22 _ _ _ g (by decide) (by decide)
  have hk : (fld 22 4 (o.pack 0x35000000)).toNat = 4 := hi_fld _ 0x35000000 22 _ _ _ g (by decide) (by decide)
  exact decode_of _ (o.pack 0x35000000) (by simp only [rawDecode, hm, raw0D, hk, u]) (List.forall_mem_cons.2 ⟨show (o.pack 0x35000000).toNat / 2 ^ 0 % 2 ^ 2 = 0 from by omega, List.forall_mem_nil _⟩) hw

theorem rem (o : OpSR) : Statement (.rem o) := by
  intro _ hw
  have l0 := o.sd.isLt
  have l1 := o.sa.isLt
  have l2 := o.sb.isLt
  have l3 := o.ta.toNat_le
  have l4 := o.tb.toNat_le
  have e := OpSR_val 0x35400000 o (by decide)
  obtain ⟨g, u⟩ := OpSR_rt 0x35400000 o (by decide) (by decide)
  have hm : (fld 26 6 (o.pack 0x35400000)).toNat = 13 := hi_fld _ 0x35400000 22 _ _ _ g (by decide) (by decide)
  have hk : (fld 22 4 (o.pack 0x35400000)).toNat = 5 := hi_fld _ 0x35400000 22 _ _ _ g (by decide) (by decide)
  exact decode_of _ (o.pack 0x35400000) (by simp only [rawDecode, hm, raw0D, hk, u]) (List.forall_mem_cons.2 ⟨show (o.pack 0x35400000).toNat / 2 ^ 0 % 2 ^ 2 = 0 from by omega, List.forall_mem_nil _⟩) hw

theorem remz (o : OpSR) : Statement (.remz o) := by
  intro _ hw
  have l0 := o.sd.isLt
  have l1 := o.sa.isLt
  have l2 := o.sb.isLt
  have l3 := o.ta.toNat_le
  have l4 := o.tb.toNat_le
  have e := OpSR_val 0x35800000 o (by decide)
  obtain ⟨g, u⟩ := OpSR_rt 0x35800000 o (by decide) (by decide)
  have hm : (fld 26 6 (o.pack 0x35800000)).toNat = 13 := hi_fld _ 0x35800000 22 _ _ _ g (by decide) (by decide)
  have hk : (fld 22 4 (o.pack 0x35800000)).toNat = 6 := hi_fld _ 0x35800000 22 _ _ _ g (by decide) (by decide)
  exact decode_of _ (o.pack 0x35800000) (by simp only [rawDecode, hm, raw0D, hk, u]) (List.forall_mem_cons.2 ⟨show (o.pack 0x35800000).toNat / 2 ^ 0 % 2 ^ 2 = 0 from by omega, List.forall_mem_nil _⟩) hw

theorem clz (o : OpSR1) : Statement (.clz o) := by
  intro _ hw
  have l0 := o.sd.isLt
  have l1 := o.sa.isLt
  have l2 := o.ta.toNat_le
  have e := OpSR1_val 0x35C00000 o (by decide)
  obtain ⟨g, u⟩ := OpSR1_rt 0x35C00000 o (by decide) (by decide)
  have hm : (fld 26 6 (o.pack 0x35C00000)).toNat = 13 := hi_fld _ 0x35C00000 22 _ _ _ g (by decide) (by decide)
  have hk : (fld 22 4 (o.pack 0x35C00000)).toNat = 7 := hi_fld _ 0x35C00000 22 _ _ _ g (by decide) (by decide)
  exact decode_of _ (o.pack 0x35C00000) (by simp only [rawDecode, hm, raw0D, hk, u]) (List.forall_mem_cons.2 ⟨show (o.pack 0x35C00000).toNat / 2 ^ 4 % 2 ^ 6 = 0 from by omega, List.forall_mem_cons.2 ⟨show (o.pack 0x35C00000).toNat / 2 ^ 2 % 2 ^ 1 = 0 from by omega, List.forall_mem_cons.2 ⟨show (o.pack 0x35C00000).toNat / 2 ^ 0 % 2 ^ 2 = 0 from by omega, List.forall_mem_nil _⟩⟩⟩) hw

theorem ctz (o : OpSR1) : Statement (.ctz o) := by
  intro _ hw
  have l0 := o.sd.isLt
  have l1 := o.sa.isLt
  have l2 := o.ta.toNat_le
  have e := OpSR1_val 0x36000000 o (by decide)
  obtain ⟨g, u⟩ := OpSR1_rt 0x36000000 o (by decide) (by decide)
  have hm : (fld 26 6 (o.pack 0x36000000)).toNat = 13 := hi_fld _ 0x36000000 22 _ _ _ g (by decide) (by decide)
  have hk : (fld 22 4 (o.pack 0x36000000)).toNat = 8 := hi_fld _ 0x36000000 22 _ _ _ g (by decide) (by decide)
  exact decode_of _ (o.pack 0x36000000) (by simp only [rawDecode, hm, raw0D, hk, u]) (List.forall_mem_cons.2 ⟨show (o.pack 0x36000000).toNat / 2 ^ 4 % 2 ^ 6 = 0 from by omega, List.forall_mem_cons.2 ⟨show (o.pack 0x36000000).toNat / 2 ^ 2 % 2 ^ 1 = 0 from by omega, List.forall_mem_cons.2 ⟨show (o.pack 0x36000000).toNat / 2 ^ 0 % 2 ^ 2 = 0 from by omega, List.forall_mem_nil _⟩⟩⟩) hw

theorem popc (o : OpSR1) : Statement (.popc o) := by
  intro _ hw
  have l0 := o.sd.isLt
  have l1 := o.sa.isLt
  have l2 := o.ta.toNat_le
  have e := OpSR1_val 0x36400000 o (by decide)
  obtain ⟨g, u⟩ := OpSR1_rt 0x36400000 o (by decide) (by decide)
  have hm : (fld 26 6 (o.pack 0x36400000)).toNat = 13 := hi_fld _ 0x36400000 22 _ _ _ g (by decide) (by decide)
  have hk : (fld 22 4 (o.pack 0x36400000)).toNat = 9 := hi_fld _ 0x36400000 22 _ _ _ g (by decide) (by decide)
  exact decode_of _ (o.pack 0x36400000) (by simp only [rawDecode, hm, raw0D, hk, u]) (List.forall_mem_cons.2 ⟨show (o.pack 0x36400000).toNat / 2 ^ 4 % 2 ^ 6 = 0 from by omega, List.forall_mem_cons.2 ⟨show (o.pack 0x36400000).toNat / 2 ^ 2 % 2 ^ 1 = 0 from by omega, List.forall_mem_cons.2 ⟨show (o.pack 0x36400000).toNat / 2 ^ 0 % 2 ^ 2 = 0 from by omega, List.forall_mem_nil _⟩⟩⟩) hw

theorem brev (o : OpSR1) : Statement (.brev o) := by
  intro _ hw
  have l0 := o.sd.isLt
  have l1 := o.sa.isLt
  have l2 := o.ta.toNat_le
  have e := OpSR1_val 0x36800000 o (by decide)
  obtain ⟨g, u⟩ := OpSR1_rt 0x36800000 o (by decide) (by decide)
  have hm : (fld 26 6 (o.pack 0x36800000)).toNat = 13 := hi_fld _ 0x36800000 22 _ _ _ g (by decide) (by decide)
  have hk : (fld 22 4 (o.pack 0x36800000)).toNat = 10 := hi_fld _ 0x36800000 22 _ _ _ g (by decide) (by decide)
  exact decode_of _ (o.pack 0x36800000) (by simp only [rawDecode, hm, raw0D, hk, u]) (List.forall_mem_cons.2 ⟨show (o.pack 0x36800000).toNat / 2 ^ 4 % 2 ^ 6 = 0 from by omega, List.forall_mem_cons.2 ⟨show (o.pack 0x36800000).toNat / 2 ^ 2 % 2 ^ 1 = 0 from by omega, List.forall_mem_cons.2 ⟨show (o.pack 0x36800000).toNat / 2 ^ 0 % 2 ^ 2 = 0 from by omega, List.forall_mem_nil _⟩⟩⟩) hw

theorem sextb (o : OpSR1) : Statement (.sextb o) := by
  intro _ hw
  have l0 := o.sd.isLt
  have l1 := o.sa.isLt
  have l2 := o.ta.toNat_le
  have e := OpSR1_val 0x36C00000 o (by decide)
  obtain ⟨g, u⟩ := OpSR1_rt 0x36C00000 o (by decide) (by decide)
  have hm : (fld 26 6 (o.pack 0x36C00000)).toNat = 13 := hi_fld _ 0x36C00000 22 _ _ _ g (by decide) (by decide)
  have hk : (fld 22 4 (o.pack 0x36C00000)).toNat = 11 := hi_fld _ 0x36C00000 22 _ _ _ g (by decide) (by decide)
  exact decode_of _ (o.pack 0x36C00000) (by simp only [rawDecode, hm, raw0D, hk, u]) (List.forall_mem_cons.2 ⟨show (o.pack 0x36C00000).toNat / 2 ^ 4 % 2 ^ 6 = 0 from by omega, List.forall_mem_cons.2 ⟨show (o.pack 0x36C00000).toNat / 2 ^ 2 % 2 ^ 1 = 0 from by omega, List.forall_mem_cons.2 ⟨show (o.pack 0x36C00000).toNat / 2 ^ 0 % 2 ^ 2 = 0 from by omega, List.forall_mem_nil _⟩⟩⟩) hw

theorem sexth (o : OpSR1) : Statement (.sexth o) := by
  intro _ hw
  have l0 := o.sd.isLt
  have l1 := o.sa.isLt
  have l2 := o.ta.toNat_le
  have e := OpSR1_val 0x37000000 o (by decide)
  obtain ⟨g, u⟩ := OpSR1_rt 0x37000000 o (by decide) (by decide)
  have hm : (fld 26 6 (o.pack 0x37000000)).toNat = 13 := hi_fld _ 0x37000000 22 _ _ _ g (by decide) (by decide)
  have hk : (fld 22 4 (o.pack 0x37000000)).toNat = 12 := hi_fld _ 0x37000000 22 _ _ _ g (by decide) (by decide)
  exact decode_of _ (o.pack 0x37000000) (by simp only [rawDecode, hm, raw0D, hk, u]) (List.forall_mem_cons.2 ⟨show (o.pack 0x37000000).toNat / 2 ^ 4 % 2 ^ 6 = 0 from by omega, List.forall_mem_cons.2 ⟨show (o.pack 0x37000000).toNat / 2 ^ 2 % 2 ^ 1 = 0 from by omega, List.forall_mem_cons.2 ⟨show (o.pack 0x37000000).toNat / 2 ^ 0 % 2 ^ 2 = 0 from by omega, List.forall_mem_nil _⟩⟩⟩) hw

theorem sextw (o : OpSR1) : Statement (.sextw o) := by
  intro _ hw
  have l0 := o.sd.isLt
  have l1 := o.sa.isLt
  have l2 := o.ta.toNat_le
  have e := OpSR1_val 0x37400000 o (by decide)
  obtain ⟨g, u⟩ := OpSR1_rt 0x37400000 o (by decide) (by decide)
  have hm : (fld 26 6 (o.pack 0x37400000)).toNat = 13 := hi_fld _ 0x37400000 22 _ _ _ g (by decide) (by decide)
  have hk : (fld 22 4 (o.pack 0x37400000)).toNat = 13 := hi_fld _ 0x37400000 22 _ _ _ g (by decide) (by decide)
  exact decode_of _ (o.pack 0x37400000) (by simp only [rawDecode, hm, raw0D, hk, u]) (List.forall_mem_cons.2 ⟨show (o.pack 0x37400000).toNat / 2 ^ 4 % 2 ^ 6 = 0 from by omega, List.forall_mem_cons.2 ⟨show (o.pack 0x37400000).toNat / 2 ^ 2 % 2 ^ 1 = 0 from by omega, List.forall_mem_cons.2 ⟨show (o.pack 0x37400000).toNat / 2 ^ 0 % 2 ^ 2 = 0 from by omega, List.forall_mem_nil _⟩⟩⟩) hw

theorem zextw (o : OpSR1) : Statement (.zextw o) := by
  intro _ hw
  have l0 := o.sd.isLt
  have l1 := o.sa.isLt
  have l2 := o.ta.toNat_le
  have e := OpSR1_val 0x37800000 o (by decide)
  obtain ⟨g, u⟩ := OpSR1_rt 0x37800000 o (by decide) (by decide)
  have hm : (fld 26 6 (o.pack 0x37800000)).toNat = 13 := hi_fld _ 0x37800000 22 _ _ _ g (by decide) (by decide)
  have hk : (fld 22 4 (o.pack 0x37800000)).toNat = 14 := hi_fld _ 0x37800000 22 _ _ _ g (by decide) (by decide)
  exact decode_of _ (o.pack 0x37800000) (by simp only [rawDecode, hm, raw0D, hk, u]) (List.forall_mem_cons.2 ⟨show (o.pack 0x37800000).toNat / 2 ^ 4 % 2 ^ 6 = 0 from by omega, List.forall_mem_cons.2 ⟨show (o.pack 0x37800000).toNat / 2 ^ 2 % 2 ^ 1 = 0 from by omega, List.forall_mem_cons.2 ⟨show (o.pack 0x37800000).toNat / 2 ^ 0 % 2 ^ 2 = 0 from by omega, List.forall_mem_nil _⟩⟩⟩) hw

theorem addi (o : OpSI) : Statement (.addi o) := by
  intro _ hw
  obtain ⟨g, u⟩ := OpSI_rt 0x38000000 o (by decide) (by decide)
  have hm : (fld 26 6 (o.pack 0x38000000)).toNat = 14 := hi_fld _ 0x38000000 24 _ _ _ g (by decide) (by decide)
  have hk : (fld 24 2 (o.pack 0x38000000)).toNat = 0 := hi_fld _ 0x38000000 24 _ _ _ g (by decide) (by decide)
  exact decode_of _ (o.pack 0x38000000) (by simp only [rawDecode, hm, raw0E, hk, u]) (fun z hz => by cases hz) hw

theorem slti (o : OpSI) : Statement (.slti o) := by
  intro _ hw
  obtain ⟨g, u⟩ := OpSI_rt 0x39000000 o (by decide) (by decide)
  have hm : (fld 26 6 (o.pack 0x39000000)).toNat = 14 := hi_fld _ 0x39000000 24 _ _ _ g (by decide) (by decide)
  have hk : (fld 24 2 (o.pack 0x39000000)).toNat = 1 := hi_fld _ 0x39000000 24 _ _ _ g (by decide) (by decide)
  exact decode_of _ (o.pack 0x39000000) (by simp only [rawDecode, hm, raw0E, hk, u]) (fun z hz => by cases hz) hw

theorem sltiz (o : OpSI) : Statement (.sltiz o) := by
  intro _ hw
  obtain ⟨g, u⟩ := OpSI_rt 0x3A000000 o (by decide) (by decide)
  have hm : (fld 26 6 (o.pack 0x3A000000)).toNat = 14 := hi_fld _ 0x3A000000 24 _ _ _ g (by decide) (by decide)
  have hk : (fld 24 2 (o.pack 0x3A000000)).toNat = 2 := hi_fld _ 0x3A000000 24 _ _ _ g (by decide) (by decide)
  exact decode_of _ (o.pack 0x3A000000) (by simp only [rawDecode, hm, raw0E, hk, u]) (fun z hz => by cases hz) hw

theorem andi (o : OpSI) : Statement (.andi o) := by
  intro _ hw
  obtain ⟨g, u⟩ := OpSI_rt 0x3C000000 o (by decide) (by decide)
  have hm : (fld 26 6 (o.pack 0x3C000000)).toNat = 15 := hi_fld _ 0x3C000000 24 _ _ _ g (by decide) (by decide)
  have hk : (fld 24 2 (o.pack 0x3C000000)).toNat = 0 := hi_fld _ 0x3C000000 24 _ _ _ g (by decide) (by decide)
  exact decode_of _ (o.pack 0x3C000000) (by simp only [rawDecode, hm, raw0F, hk, u]) (fun z hz => by cases hz) hw

theorem ori (o : OpSI) : Statement (.ori o) := by
  intro _ hw
  obtain ⟨g, u⟩ := OpSI_rt 0x3D000000 o (by decide) (by decide)
  have hm : (fld 26 6 (o.pack 0x3D000000)).toNat = 15 := hi_fld _ 0x3D000000 24 _ _ _ g (by decide) (by decide)
  have hk : (fld 24 2 (o.pack 0x3D000000)).toNat = 1 := hi_fld _ 0x3D000000 24 _ _ _ g (by decide) (by decide)
  exact decode_of _ (o.pack 0x3D000000) (by simp only [rawDecode, hm, raw0F, hk, u]) (fun z hz => by cases hz) hw

theorem xori (o : OpSI) : Statement (.xori o) := by
  intro _ hw
  obtain ⟨g, u⟩ := OpSI_rt 0x3E000000 o (by decide) (by decide)
  have hm : (fld 26 6 (o.pack 0x3E000000)).toNat = 15 := hi_fld _ 0x3E000000 24 _ _ _ g (by decide) (by decide)
  have hk : (fld 24 2 (o.pack 0x3E000000)).toNat = 2 := hi_fld _ 0x3E000000 24 _ _ _ g (by decide) (by decide)
  exact decode_of _ (o.pack 0x3E000000) (by simp only [rawDecode, hm, raw0F, hk, u]) (fun z hz => by cases hz) hw

theorem shli (o : OpSh) : Statement (.shli o) := by
  intro _ hw
  have l0 := o.sd.isLt
  have l1 := o.sa.isLt
  have l2 := o.amt.isLt
  have e := OpSh_val 0x40000000 o (by decide)
  obtain ⟨g, u⟩ := OpSh_rt 0x40000000 o (by decide) (by decide)
  have hm : (fld 26 6 (o.pack 0x40000000)).toNat = 16 := hi_fld _ 0x40000000 24 _ _ _ g (by decide) (by decide)
  have hk : (fld 24 2 (o.pack 0x40000000)).toNat = 0 := hi_fld _ 0x40000000 24 _ _ _ g (by decide) (by decide)
  exact decode_of _ (o.pack 0x40000000) (by simp only [rawDecode, hm, raw10, hk, u]) (List.forall_mem_cons.2 ⟨show (o.pack 0x40000000).toNat / 2 ^ 6 % 2 ^ 6 = 0 from by omega, List.forall_mem_nil _⟩) hw

theorem shri (o : OpSh) : Statement (.shri o) := by
  intro _ hw
  have l0 := o.sd.isLt
  have l1 := o.sa.isLt
  have l2 := o.amt.isLt
  have e := OpSh_val 0x41000000 o (by decide)
  obtain ⟨g, u⟩ := OpSh_rt 0x41000000 o (by decide) (by decide)
  have hm : (fld 26 6 (o.pack 0x41000000)).toNat = 16 := hi_fld _ 0x41000000 24 _ _ _ g (by decide) (by decide)
  have hk : (fld 24 2 (o.pack 0x41000000)).toNat = 1 := hi_fld _ 0x41000000 24 _ _ _ g (by decide) (by decide)
  exact decode_of _ (o.pack 0x41000000) (by simp only [rawDecode, hm, raw10, hk, u]) (List.forall_mem_cons.2 ⟨show (o.pack 0x41000000).toNat / 2 ^ 6 % 2 ^ 6 = 0 from by omega, List.forall_mem_nil _⟩) hw

theorem sari (o : OpSh) : Statement (.sari o) := by
  intro _ hw
  have l0 := o.sd.isLt
  have l1 := o.sa.isLt
  have l2 := o.amt.isLt
  have e := OpSh_val 0x42000000 o (by decide)
  obtain ⟨g, u⟩ := OpSh_rt 0x42000000 o (by decide) (by decide)
  have hm : (fld 26 6 (o.pack 0x42000000)).toNat = 16 := hi_fld _ 0x42000000 24 _ _ _ g (by decide) (by decide)
  have hk : (fld 24 2 (o.pack 0x42000000)).toNat = 2 := hi_fld _ 0x42000000 24 _ _ _ g (by decide) (by decide)
  exact decode_of _ (o.pack 0x42000000) (by simp only [rawDecode, hm, raw10, hk, u]) (List.forall_mem_cons.2 ⟨show (o.pack 0x42000000).toNat / 2 ^ 6 % 2 ^ 6 = 0 from by omega, List.forall_mem_nil _⟩) hw

theorem roli (o : OpSh) : Statement (.roli o) := by
  intro _ hw
  have l0 := o.sd.isLt
  have l1 := o.sa.isLt
  have l2 := o.amt.isLt
  have e := OpSh_val 0x43000000 o (by decide)
  obtain ⟨g, u⟩ := OpSh_rt 0x43000000 o (by decide) (by decide)
  have hm : (fld 26 6 (o.pack 0x43000000)).toNat = 16 := hi_fld _ 0x43000000 24 _ _ _ g (by decide) (by decide)
  have hk : (fld 24 2 (o.pack 0x43000000)).toNat = 3 := hi_fld _ 0x43000000 24 _ _ _ g (by decide) (by decide)
  exact decode_of _ (o.pack 0x43000000) (by simp only [rawDecode, hm, raw10, hk, u]) (List.forall_mem_cons.2 ⟨show (o.pack 0x43000000).toNat / 2 ^ 6 % 2 ^ 6 = 0 from by omega, List.forall_mem_nil _⟩) hw

theorem lis (o : OpSL) : Statement (.lis o) := by
  intro _ hw
  obtain ⟨g, u⟩ := OpSL_rt 0x44000000 o (by decide) (by decide)
  have hm : (fld 26 6 (o.pack 0x44000000)).toNat = 17 := hi_fld _ 0x44000000 26 _ _ _ g (by decide) (by decide)
  exact decode_of _ (o.pack 0x44000000) (by simp only [rawDecode, hm, u]) (fun z hz => by cases hz) hw

theorem addpc (o : OpSL) : Statement (.addpc o) := by
  intro _ hw
  obtain ⟨g, u⟩ := OpSL_rt 0x48000000 o (by decide) (by decide)
  have hm : (fld 26 6 (o.pack 0x48000000)).toNat = 18 := hi_fld _ 0x48000000 26 _ _ _ g (by decide) (by decide)
  exact decode_of _ (o.pack 0x48000000) (by simp only [rawDecode, hm, u]) (fun z hz => by cases hz) hw

theorem lihi (o : OpSL) : Statement (.lihi o) := by
  intro _ hw
  obtain ⟨g, u⟩ := OpSL_rt 0x4C000000 o (by decide) (by decide)
  have hm : (fld 26 6 (o.pack 0x4C000000)).toNat = 19 := hi_fld _ 0x4C000000 26 _ _ _ g (by decide) (by decide)
  exact decode_of _ (o.pack 0x4C000000) (by simp only [rawDecode, hm, u]) (fun z hz => by cases hz) hw

theorem sldb (o : OpSM) : Statement (.sldb o) := by
  intro _ hw
  obtain ⟨g, u⟩ := OpSM_rt 0x50000000 o (by decide) (by decide)
  have hm : (fld 26 6 (o.pack 0x50000000)).toNat = 20 := hi_fld _ 0x50000000 23 _ _ _ g (by decide) (by decide)
  have hk : (fld 23 3 (o.pack 0x50000000)).toNat = 0 := hi_fld _ 0x50000000 23 _ _ _ g (by decide) (by decide)
  exact decode_of _ (o.pack 0x50000000) (by simp only [rawDecode, hm, raw14, hk, u]) (fun z hz => by cases hz) hw

theorem sldbz (o : OpSM) : Statement (.sldbz o) := by
  intro _ hw
  obtain ⟨g, u⟩ := OpSM_rt 0x50800000 o (by decide) (by decide)
  have hm : (fld 26 6 (o.pack 0x50800000)).toNat = 20 := hi_fld _ 0x50800000 23 _ _ _ g (by decide) (by decide)
  have hk : (fld 23 3 (o.pack 0x50800000)).toNat = 1 := hi_fld _ 0x50800000 23 _ _ _ g (by decide) (by decide)
  exact decode_of _ (o.pack 0x50800000) (by simp only [rawDecode, hm, raw14, hk, u]) (fun z hz => by cases hz) hw

theorem sldh (o : OpSM) : Statement (.sldh o) := by
  intro _ hw
  obtain ⟨g, u⟩ := OpSM_rt 0x51000000 o (by decide) (by decide)
  have hm : (fld 26 6 (o.pack 0x51000000)).toNat = 20 := hi_fld _ 0x51000000 23 _ _ _ g (by decide) (by decide)
  have hk : (fld 23 3 (o.pack 0x51000000)).toNat = 2 := hi_fld _ 0x51000000 23 _ _ _ g (by decide) (by decide)
  exact decode_of _ (o.pack 0x51000000) (by simp only [rawDecode, hm, raw14, hk, u]) (fun z hz => by cases hz) hw

theorem sldhz (o : OpSM) : Statement (.sldhz o) := by
  intro _ hw
  obtain ⟨g, u⟩ := OpSM_rt 0x51800000 o (by decide) (by decide)
  have hm : (fld 26 6 (o.pack 0x51800000)).toNat = 20 := hi_fld _ 0x51800000 23 _ _ _ g (by decide) (by decide)
  have hk : (fld 23 3 (o.pack 0x51800000)).toNat = 3 := hi_fld _ 0x51800000 23 _ _ _ g (by decide) (by decide)
  exact decode_of _ (o.pack 0x51800000) (by simp only [rawDecode, hm, raw14, hk, u]) (fun z hz => by cases hz) hw

theorem sldw (o : OpSM) : Statement (.sldw o) := by
  intro _ hw
  obtain ⟨g, u⟩ := OpSM_rt 0x52000000 o (by decide) (by decide)
  have hm : (fld 26 6 (o.pack 0x52000000)).toNat = 20 := hi_fld _ 0x52000000 23 _ _ _ g (by decide) (by decide)
  have hk : (fld 23 3 (o.pack 0x52000000)).toNat = 4 := hi_fld _ 0x52000000 23 _ _ _ g (by decide) (by decide)
  exact decode_of _ (o.pack 0x52000000) (by simp only [rawDecode, hm, raw14, hk, u]) (fun z hz => by cases hz) hw

theorem sldwz (o : OpSM) : Statement (.sldwz o) := by
  intro _ hw
  obtain ⟨g, u⟩ := OpSM_rt 0x52800000 o (by decide) (by decide)
  have hm : (fld 26 6 (o.pack 0x52800000)).toNat = 20 := hi_fld _ 0x52800000 23 _ _ _ g (by decide) (by decide)
  have hk : (fld 23 3 (o.pack 0x52800000)).toNat = 5 := hi_fld _ 0x52800000 23 _ _ _ g (by decide) (by decide)
  exact decode_of _ (o.pack 0x52800000) (by simp only [rawDecode, hm, raw14, hk, u]) (fun z hz => by cases hz) hw

theorem sldd (o : OpSM) : Statement (.sldd o) := by
  intro _ hw
  obtain ⟨g, u⟩ := OpSM_rt 0x53000000 o (by decide) (by decide)
  have hm : (fld 26 6 (o.pack 0x53000000)).toNat = 20 := hi_fld _ 0x53000000 23 _ _ _ g (by decide) (by decide)
  have hk : (fld 23 3 (o.pack 0x53000000)).toNat = 6 := hi_fld _ 0x53000000 23 _ _ _ g (by decide) (by decide)
  exact decode_of _ (o.pack 0x53000000) (by simp only [rawDecode, hm, raw14, hk, u]) (fun z hz => by cases hz) hw

theorem sstb (o : OpSM) : Statement (.sstb o) := by
  intro _ hw
  obtain ⟨g, u⟩ := OpSM_rt 0x54000000 o (by decide) (by decide)
  have hm : (fld 26 6 (o.pack 0x54000000)).toNat = 21 := hi_fld _ 0x54000000 23 _ _ _ g (by decide) (by decide)
  have hk : (fld 23 3 (o.pack 0x54000000)).toNat = 0 := hi_fld _ 0x54000000 23 _ _ _ g (by decide) (by decide)
  exact decode_of _ (o.pack 0x54000000) (by simp only [rawDecode, hm, raw15, hk, u]) (fun z hz => by cases hz) hw

theorem ssth (o : OpSM) : Statement (.ssth o) := by
  intro _ hw
  obtain ⟨g, u⟩ := OpSM_rt 0x54800000 o (by decide) (by decide)
  have hm : (fld 26 6 (o.pack 0x54800000)).toNat = 21 := hi_fld _ 0x54800000 23 _ _ _ g (by decide) (by decide)
  have hk : (fld 23 3 (o.pack 0x54800000)).toNat = 1 := hi_fld _ 0x54800000 23 _ _ _ g (by decide) (by decide)
  exact decode_of _ (o.pack 0x54800000) (by simp only [rawDecode, hm, raw15, hk, u]) (fun z hz => by cases hz) hw

theorem sstw (o : OpSM) : Statement (.sstw o) := by
  intro _ hw
  obtain ⟨g, u⟩ := OpSM_rt 0x55000000 o (by decide) (by decide)
  have hm : (fld 26 6 (o.pack 0x55000000)).toNat = 21 := hi_fld _ 0x55000000 23 _ _ _ g (by decide) (by decide)
  have hk : (fld 23 3 (o.pack 0x55000000)).toNat = 2 := hi_fld _ 0x55000000 23 _ _ _ g (by decide) (by decide)
  exact decode_of _ (o.pack 0x55000000) (by simp only [rawDecode, hm, raw15, hk, u]) (fun z hz => by cases hz) hw

theorem sstd (o : OpSM) : Statement (.sstd o) := by
  intro _ hw
  obtain ⟨g, u⟩ := OpSM_rt 0x55800000 o (by decide) (by decide)
  have hm : (fld 26 6 (o.pack 0x55800000)).toNat = 21 := hi_fld _ 0x55800000 23 _ _ _ g (by decide) (by decide)
  have hk : (fld 23 3 (o.pack 0x55800000)).toNat = 3 := hi_fld _ 0x55800000 23 _ _ _ g (by decide) (by decide)
  exact decode_of _ (o.pack 0x55800000) (by simp only [rawDecode, hm, raw15, hk, u]) (fun z hz => by cases hz) hw

theorem satomAdd (o : OpSA) : Statement (.satomAdd o) := by
  intro _ hw
  obtain ⟨g, u⟩ := OpSA_rt 0x58000000 o (by decide) (by decide)
  have hm : (fld 26 6 (o.pack 0x58000000)).toNat = 22 := hi_fld _ 0x58000000 22 _ _ _ g (by decide) (by decide)
  have hk : (fld 22 4 (o.pack 0x58000000)).toNat = 0 := hi_fld _ 0x58000000 22 _ _ _ g (by decide) (by decide)
  exact decode_of _ (o.pack 0x58000000) (by simp only [rawDecode, hm, raw16, hk, u]) (fun z hz => by cases hz) hw

theorem satomAnd (o : OpSA) : Statement (.satomAnd o) := by
  intro _ hw
  obtain ⟨g, u⟩ := OpSA_rt 0x58400000 o (by decide) (by decide)
  have hm : (fld 26 6 (o.pack 0x58400000)).toNat = 22 := hi_fld _ 0x58400000 22 _ _ _ g (by decide) (by decide)
  have hk : (fld 22 4 (o.pack 0x58400000)).toNat = 1 := hi_fld _ 0x58400000 22 _ _ _ g (by decide) (by decide)
  exact decode_of _ (o.pack 0x58400000) (by simp only [rawDecode, hm, raw16, hk, u]) (fun z hz => by cases hz) hw

theorem satomOr (o : OpSA) : Statement (.satomOr o) := by
  intro _ hw
  obtain ⟨g, u⟩ := OpSA_rt 0x58800000 o (by decide) (by decide)
  have hm : (fld 26 6 (o.pack 0x58800000)).toNat = 22 := hi_fld _ 0x58800000 22 _ _ _ g (by decide) (by decide)
  have hk : (fld 22 4 (o.pack 0x58800000)).toNat = 2 := hi_fld _ 0x58800000 22 _ _ _ g (by decide) (by decide)
  exact decode_of _ (o.pack 0x58800000) (by simp only [rawDecode, hm, raw16, hk, u]) (fun z hz => by cases hz) hw

theorem satomXor (o : OpSA) : Statement (.satomXor o) := by
  intro _ hw
  obtain ⟨g, u⟩ := OpSA_rt 0x58C00000 o (by decide) (by decide)
  have hm : (fld 26 6 (o.pack 0x58C00000)).toNat = 22 := hi_fld _ 0x58C00000 22 _ _ _ g (by decide) (by decide)
  have hk : (fld 22 4 (o.pack 0x58C00000)).toNat = 3 := hi_fld _ 0x58C00000 22 _ _ _ g (by decide) (by decide)
  exact decode_of _ (o.pack 0x58C00000) (by simp only [rawDecode, hm, raw16, hk, u]) (fun z hz => by cases hz) hw

theorem satomMin (o : OpSA) : Statement (.satomMin o) := by
  intro _ hw
  obtain ⟨g, u⟩ := OpSA_rt 0x59000000 o (by decide) (by decide)
  have hm : (fld 26 6 (o.pack 0x59000000)).toNat = 22 := hi_fld _ 0x59000000 22 _ _ _ g (by decide) (by decide)
  have hk : (fld 22 4 (o.pack 0x59000000)).toNat = 4 := hi_fld _ 0x59000000 22 _ _ _ g (by decide) (by decide)
  exact decode_of _ (o.pack 0x59000000) (by simp only [rawDecode, hm, raw16, hk, u]) (fun z hz => by cases hz) hw

theorem satomMax (o : OpSA) : Statement (.satomMax o) := by
  intro _ hw
  obtain ⟨g, u⟩ := OpSA_rt 0x59400000 o (by decide) (by decide)
  have hm : (fld 26 6 (o.pack 0x59400000)).toNat = 22 := hi_fld _ 0x59400000 22 _ _ _ g (by decide) (by decide)
  have hk : (fld 22 4 (o.pack 0x59400000)).toNat = 5 := hi_fld _ 0x59400000 22 _ _ _ g (by decide) (by decide)
  exact decode_of _ (o.pack 0x59400000) (by simp only [rawDecode, hm, raw16, hk, u]) (fun z hz => by cases hz) hw

theorem satomMinz (o : OpSA) : Statement (.satomMinz o) := by
  intro _ hw
  obtain ⟨g, u⟩ := OpSA_rt 0x59800000 o (by decide) (by decide)
  have hm : (fld 26 6 (o.pack 0x59800000)).toNat = 22 := hi_fld _ 0x59800000 22 _ _ _ g (by decide) (by decide)
  have hk : (fld 22 4 (o.pack 0x59800000)).toNat = 6 := hi_fld _ 0x59800000 22 _ _ _ g (by decide) (by decide)
  exact decode_of _ (o.pack 0x59800000) (by simp only [rawDecode, hm, raw16, hk, u]) (fun z hz => by cases hz) hw

theorem satomMaxz (o : OpSA) : Statement (.satomMaxz o) := by
  intro _ hw
  obtain ⟨g, u⟩ := OpSA_rt 0x59C00000 o (by decide) (by decide)
  have hm : (fld 26 6 (o.pack 0x59C00000)).toNat = 22 := hi_fld _ 0x59C00000 22 _ _ _ g (by decide) (by decide)
  have hk : (fld 22 4 (o.pack 0x59C00000)).toNat = 7 := hi_fld _ 0x59C00000 22 _ _ _ g (by decide) (by decide)
  exact decode_of _ (o.pack 0x59C00000) (by simp only [rawDecode, hm, raw16, hk, u]) (fun z hz => by cases hz) hw

theorem satomXchg (o : OpSA) : Statement (.satomXchg o) := by
  intro _ hw
  obtain ⟨g, u⟩ := OpSA_rt 0x5A000000 o (by decide) (by decide)
  have hm : (fld 26 6 (o.pack 0x5A000000)).toNat = 22 := hi_fld _ 0x5A000000 22 _ _ _ g (by decide) (by decide)
  have hk : (fld 22 4 (o.pack 0x5A000000)).toNat = 8 := hi_fld _ 0x5A000000 22 _ _ _ g (by decide) (by decide)
  exact decode_of _ (o.pack 0x5A000000) (by simp only [rawDecode, hm, raw16, hk, u]) (fun z hz => by cases hz) hw

theorem satomCas (o : OpSA) : Statement (.satomCas o) := by
  intro _ hw
  obtain ⟨g, u⟩ := OpSA_rt 0x5A400000 o (by decide) (by decide)
  have hm : (fld 26 6 (o.pack 0x5A400000)).toNat = 22 := hi_fld _ 0x5A400000 22 _ _ _ g (by decide) (by decide)
  have hk : (fld 22 4 (o.pack 0x5A400000)).toNat = 9 := hi_fld _ 0x5A400000 22 _ _ _ g (by decide) (by decide)
  exact decode_of _ (o.pack 0x5A400000) (by simp only [rawDecode, hm, raw16, hk, u]) (fun z hz => by cases hz) hw

theorem satomLd (o : OpSALd) : Statement (.satomLd o) := by
  intro _ hw
  have l0 := o.sem.isLt
  have l1 := o.scp.isLt
  have l2 := o.sd.isLt
  have l3 := o.sa.isLt
  have e := OpSALd_val 0x5A800000 o (by decide)
  obtain ⟨g, u⟩ := OpSALd_rt 0x5A800000 o (by decide) (by decide)
  have hm : (fld 26 6 (o.pack 0x5A800000)).toNat = 22 := hi_fld _ 0x5A800000 22 _ _ _ g (by decide) (by decide)
  have hk : (fld 22 4 (o.pack 0x5A800000)).toNat = 10 := hi_fld _ 0x5A800000 22 _ _ _ g (by decide) (by decide)
  exact decode_of _ (o.pack 0x5A800000) (by simp only [rawDecode, hm, raw16, hk, u]) (List.forall_mem_cons.2 ⟨show (o.pack 0x5A800000).toNat / 2 ^ 0 % 2 ^ 5 = 0 from by omega, List.forall_mem_nil _⟩) hw

theorem satomSt (o : OpSASt) : Statement (.satomSt o) := by
  intro _ hw
  have l0 := o.sem.isLt
  have l1 := o.scp.isLt
  have l2 := o.sa.isLt
  have l3 := o.sb.isLt
  have e := OpSASt_val 0x5AC00000 o (by decide)
  obtain ⟨g, u⟩ := OpSASt_rt 0x5AC00000 o (by decide) (by decide)
  have hm : (fld 26 6 (o.pack 0x5AC00000)).toNat = 22 := hi_fld _ 0x5AC00000 22 _ _ _ g (by decide) (by decide)
  have hk : (fld 22 4 (o.pack 0x5AC00000)).toNat = 11 := hi_fld _ 0x5AC00000 22 _ _ _ g (by decide) (by decide)
  exact decode_of _ (o.pack 0x5AC00000) (by simp only [rawDecode, hm, raw16, hk, u]) (List.forall_mem_cons.2 ⟨show (o.pack 0x5AC00000).toNat / 2 ^ 11 % 2 ^ 6 = 0 from by omega, List.forall_mem_nil _⟩) hw

theorem slda (o : OpSO) : Statement (.slda o) := by
  intro _ hw
  obtain ⟨g, u⟩ := OpSO_rt 0x5C000000 o (by decide) (by decide)
  have hm : (fld 26 6 (o.pack 0x5C000000)).toNat = 23 := hi_fld _ 0x5C000000 23 _ _ _ g (by decide) (by decide)
  have hk : (fld 23 3 (o.pack 0x5C000000)).toNat = 0 := hi_fld _ 0x5C000000 23 _ _ _ g (by decide) (by decide)
  exact decode_of _ (o.pack 0x5C000000) (by simp only [rawDecode, hm, raw17, hk, u]) (fun z hz => by cases hz) hw

theorem sstl (o : OpSO) : Statement (.sstl o) := by
  intro _ hw
  obtain ⟨g, u⟩ := OpSO_rt 0x5C800000 o (by decide) (by decide)
  have hm : (fld 26 6 (o.pack 0x5C800000)).toNat = 23 := hi_fld _ 0x5C800000 23 _ _ _ g (by decide) (by decide)
  have hk : (fld 23 3 (o.pack 0x5C800000)).toNat = 1 := hi_fld _ 0x5C800000 23 _ _ _ g (by decide) (by decide)
  exact decode_of _ (o.pack 0x5C800000) (by simp only [rawDecode, hm, raw17, hk, u]) (fun z hz => by cases hz) hw

theorem sldaw (o : OpSO) : Statement (.sldaw o) := by
  intro _ hw
  obtain ⟨g, u⟩ := OpSO_rt 0x5D000000 o (by decide) (by decide)
  have hm : (fld 26 6 (o.pack 0x5D000000)).toNat = 23 := hi_fld _ 0x5D000000 23 _ _ _ g (by decide) (by decide)
  have hk : (fld 23 3 (o.pack 0x5D000000)).toNat = 2 := hi_fld _ 0x5D000000 23 _ _ _ g (by decide) (by decide)
  exact decode_of _ (o.pack 0x5D000000) (by simp only [rawDecode, hm, raw17, hk, u]) (fun z hz => by cases hz) hw

theorem sstlw (o : OpSO) : Statement (.sstlw o) := by
  intro _ hw
  obtain ⟨g, u⟩ := OpSO_rt 0x5D800000 o (by decide) (by decide)
  have hm : (fld 26 6 (o.pack 0x5D800000)).toNat = 23 := hi_fld _ 0x5D800000 23 _ _ _ g (by decide) (by decide)
  have hk : (fld 23 3 (o.pack 0x5D800000)).toNat = 3 := hi_fld _ 0x5D800000 23 _ _ _ g (by decide) (by decide)
  exact decode_of _ (o.pack 0x5D800000) (by simp only [rawDecode, hm, raw17, hk, u]) (fun z hz => by cases hz) hw

theorem vadd (o : OpVR) : Statement (.vadd o) := by
  intro _ hw
  obtain ⟨g, u⟩ := OpVR_rt 0x60000000 o (by decide) (by decide)
  have hm : (fld 26 6 (o.pack 0x60000000)).toNat = 24 := hi_fld _ 0x60000000 23 _ _ _ g (by decide) (by decide)
  have hk : (fld 23 3 (o.pack 0x60000000)).toNat = 0 := hi_fld _ 0x60000000 23 _ _ _ g (by decide) (by decide)
  exact decode_of _ (o.pack 0x60000000) (by simp only [rawDecode, hm, raw18, hk, u]) (fun z hz => by cases hz) hw

theorem vsub (o : OpVR) : Statement (.vsub o) := by
  intro _ hw
  obtain ⟨g, u⟩ := OpVR_rt 0x60800000 o (by decide) (by decide)
  have hm : (fld 26 6 (o.pack 0x60800000)).toNat = 24 := hi_fld _ 0x60800000 23 _ _ _ g (by decide) (by decide)
  have hk : (fld 23 3 (o.pack 0x60800000)).toNat = 1 := hi_fld _ 0x60800000 23 _ _ _ g (by decide) (by decide)
  exact decode_of _ (o.pack 0x60800000) (by simp only [rawDecode, hm, raw18, hk, u]) (fun z hz => by cases hz) hw

theorem vmul (o : OpVR) : Statement (.vmul o) := by
  intro _ hw
  obtain ⟨g, u⟩ := OpVR_rt 0x61000000 o (by decide) (by decide)
  have hm : (fld 26 6 (o.pack 0x61000000)).toNat = 24 := hi_fld _ 0x61000000 23 _ _ _ g (by decide) (by decide)
  have hk : (fld 23 3 (o.pack 0x61000000)).toNat = 2 := hi_fld _ 0x61000000 23 _ _ _ g (by decide) (by decide)
  exact decode_of _ (o.pack 0x61000000) (by simp only [rawDecode, hm, raw18, hk, u]) (fun z hz => by cases hz) hw

theorem vmulh (o : OpVR) : Statement (.vmulh o) := by
  intro _ hw
  obtain ⟨g, u⟩ := OpVR_rt 0x61800000 o (by decide) (by decide)
  have hm : (fld 26 6 (o.pack 0x61800000)).toNat = 24 := hi_fld _ 0x61800000 23 _ _ _ g (by decide) (by decide)
  have hk : (fld 23 3 (o.pack 0x61800000)).toNat = 3 := hi_fld _ 0x61800000 23 _ _ _ g (by decide) (by decide)
  exact decode_of _ (o.pack 0x61800000) (by simp only [rawDecode, hm, raw18, hk, u]) (fun z hz => by cases hz) hw

theorem vmad (o : OpVR) : Statement (.vmad o) := by
  intro _ hw
  obtain ⟨g, u⟩ := OpVR_rt 0x62000000 o (by decide) (by decide)
  have hm : (fld 26 6 (o.pack 0x62000000)).toNat = 24 := hi_fld _ 0x62000000 23 _ _ _ g (by decide) (by decide)
  have hk : (fld 23 3 (o.pack 0x62000000)).toNat = 4 := hi_fld _ 0x62000000 23 _ _ _ g (by decide) (by decide)
  exact decode_of _ (o.pack 0x62000000) (by simp only [rawDecode, hm, raw18, hk, u]) (fun z hz => by cases hz) hw

theorem vmin (o : OpVR) : Statement (.vmin o) := by
  intro _ hw
  obtain ⟨g, u⟩ := OpVR_rt 0x62800000 o (by decide) (by decide)
  have hm : (fld 26 6 (o.pack 0x62800000)).toNat = 24 := hi_fld _ 0x62800000 23 _ _ _ g (by decide) (by decide)
  have hk : (fld 23 3 (o.pack 0x62800000)).toNat = 5 := hi_fld _ 0x62800000 23 _ _ _ g (by decide) (by decide)
  exact decode_of _ (o.pack 0x62800000) (by simp only [rawDecode, hm, raw18, hk, u]) (fun z hz => by cases hz) hw

theorem vmax (o : OpVR) : Statement (.vmax o) := by
  intro _ hw
  obtain ⟨g, u⟩ := OpVR_rt 0x63000000 o (by decide) (by decide)
  have hm : (fld 26 6 (o.pack 0x63000000)).toNat = 24 := hi_fld _ 0x63000000 23 _ _ _ g (by decide) (by decide)
  have hk : (fld 23 3 (o.pack 0x63000000)).toNat = 6 := hi_fld _ 0x63000000 23 _ _ _ g (by decide) (by decide)
  exact decode_of _ (o.pack 0x63000000) (by simp only [rawDecode, hm, raw18, hk, u]) (fun z hz => by cases hz) hw

theorem vabsd (o : OpVR) : Statement (.vabsd o) := by
  intro _ hw
  obtain ⟨g, u⟩ := OpVR_rt 0x63800000 o (by decide) (by decide)
  have hm : (fld 26 6 (o.pack 0x63800000)).toNat = 24 := hi_fld _ 0x63800000 23 _ _ _ g (by decide) (by decide)
  have hk : (fld 23 3 (o.pack 0x63800000)).toNat = 7 := hi_fld _ 0x63800000 23 _ _ _ g (by decide) (by decide)
  exact decode_of _ (o.pack 0x63800000) (by simp only [rawDecode, hm, raw18, hk, u]) (fun z hz => by cases hz) hw

theorem vand (o : OpVR) : Statement (.vand o) := by
  intro _ hw
  obtain ⟨g, u⟩ := OpVR_rt 0x64000000 o (by decide) (by decide)
  have hm : (fld 26 6 (o.pack 0x64000000)).toNat = 25 := hi_fld _ 0x64000000 23 _ _ _ g (by decide) (by decide)
  have hk : (fld 23 3 (o.pack 0x64000000)).toNat = 0 := hi_fld _ 0x64000000 23 _ _ _ g (by decide) (by decide)
  exact decode_of _ (o.pack 0x64000000) (by simp only [rawDecode, hm, raw19, hk, u]) (fun z hz => by cases hz) hw

theorem vor (o : OpVR) : Statement (.vor o) := by
  intro _ hw
  obtain ⟨g, u⟩ := OpVR_rt 0x64800000 o (by decide) (by decide)
  have hm : (fld 26 6 (o.pack 0x64800000)).toNat = 25 := hi_fld _ 0x64800000 23 _ _ _ g (by decide) (by decide)
  have hk : (fld 23 3 (o.pack 0x64800000)).toNat = 1 := hi_fld _ 0x64800000 23 _ _ _ g (by decide) (by decide)
  exact decode_of _ (o.pack 0x64800000) (by simp only [rawDecode, hm, raw19, hk, u]) (fun z hz => by cases hz) hw

theorem vxor (o : OpVR) : Statement (.vxor o) := by
  intro _ hw
  obtain ⟨g, u⟩ := OpVR_rt 0x65000000 o (by decide) (by decide)
  have hm : (fld 26 6 (o.pack 0x65000000)).toNat = 25 := hi_fld _ 0x65000000 23 _ _ _ g (by decide) (by decide)
  have hk : (fld 23 3 (o.pack 0x65000000)).toNat = 2 := hi_fld _ 0x65000000 23 _ _ _ g (by decide) (by decide)
  exact decode_of _ (o.pack 0x65000000) (by simp only [rawDecode, hm, raw19, hk, u]) (fun z hz => by cases hz) hw

theorem vandn (o : OpVR) : Statement (.vandn o) := by
  intro _ hw
  obtain ⟨g, u⟩ := OpVR_rt 0x65800000 o (by decide) (by decide)
  have hm : (fld 26 6 (o.pack 0x65800000)).toNat = 25 := hi_fld _ 0x65800000 23 _ _ _ g (by decide) (by decide)
  have hk : (fld 23 3 (o.pack 0x65800000)).toNat = 3 := hi_fld _ 0x65800000 23 _ _ _ g (by decide) (by decide)
  exact decode_of _ (o.pack 0x65800000) (by simp only [rawDecode, hm, raw19, hk, u]) (fun z hz => by cases hz) hw

theorem vshl (o : OpVR) : Statement (.vshl o) := by
  intro _ hw
  obtain ⟨g, u⟩ := OpVR_rt 0x66000000 o (by decide) (by decide)
  have hm : (fld 26 6 (o.pack 0x66000000)).toNat = 25 := hi_fld _ 0x66000000 23 _ _ _ g (by decide) (by decide)
  have hk : (fld 23 3 (o.pack 0x66000000)).toNat = 4 := hi_fld _ 0x66000000 23 _ _ _ g (by decide) (by decide)
  exact decode_of _ (o.pack 0x66000000) (by simp only [rawDecode, hm, raw19, hk, u]) (fun z hz => by cases hz) hw

theorem vshr (o : OpVR) : Statement (.vshr o) := by
  intro _ hw
  obtain ⟨g, u⟩ := OpVR_rt 0x66800000 o (by decide) (by decide)
  have hm : (fld 26 6 (o.pack 0x66800000)).toNat = 25 := hi_fld _ 0x66800000 23 _ _ _ g (by decide) (by decide)
  have hk : (fld 23 3 (o.pack 0x66800000)).toNat = 5 := hi_fld _ 0x66800000 23 _ _ _ g (by decide) (by decide)
  exact decode_of _ (o.pack 0x66800000) (by simp only [rawDecode, hm, raw19, hk, u]) (fun z hz => by cases hz) hw

theorem vsar (o : OpVR) : Statement (.vsar o) := by
  intro _ hw
  obtain ⟨g, u⟩ := OpVR_rt 0x67000000 o (by decide) (by decide)
  have hm : (fld 26 6 (o.pack 0x67000000)).toNat = 25 := hi_fld _ 0x67000000 23 _ _ _ g (by decide) (by decide)
  have hk : (fld 23 3 (o.pack 0x67000000)).toNat = 6 := hi_fld _ 0x67000000 23 _ _ _ g (by decide) (by decide)
  exact decode_of _ (o.pack 0x67000000) (by simp only [rawDecode, hm, raw19, hk, u]) (fun z hz => by cases hz) hw

theorem vrol (o : OpVR) : Statement (.vrol o) := by
  intro _ hw
  obtain ⟨g, u⟩ := OpVR_rt 0x67800000 o (by decide) (by decide)
  have hm : (fld 26 6 (o.pack 0x67800000)).toNat = 25 := hi_fld _ 0x67800000 23 _ _ _ g (by decide) (by decide)
  have hk : (fld 23 3 (o.pack 0x67800000)).toNat = 7 := hi_fld _ 0x67800000 23 _ _ _ g (by decide) (by decide)
  exact decode_of _ (o.pack 0x67800000) (by simp only [rawDecode, hm, raw19, hk, u]) (fun z hz => by cases hz) hw

theorem vaddi (o : OpVI) : Statement (.vaddi o) := by
  intro _ hw
  obtain ⟨g, u⟩ := OpVI_rt 0x68000000 o (by decide) (by decide)
  have hm : (fld 26 6 (o.pack 0x68000000)).toNat = 26 := hi_fld _ 0x68000000 23 _ _ _ g (by decide) (by decide)
  have hk : (fld 23 3 (o.pack 0x68000000)).toNat = 0 := hi_fld _ 0x68000000 23 _ _ _ g (by decide) (by decide)
  exact decode_of _ (o.pack 0x68000000) (by simp only [rawDecode, hm, raw1A, hk, u]) (fun z hz => by cases hz) hw

theorem vmuli (o : OpVI) : Statement (.vmuli o) := by
  intro _ hw
  obtain ⟨g, u⟩ := OpVI_rt 0x68800000 o (by decide) (by decide)
  have hm : (fld 26 6 (o.pack 0x68800000)).toNat = 26 := hi_fld _ 0x68800000 23 _ _ _ g (by decide) (by decide)
  have hk : (fld 23 3 (o.pack 0x68800000)).toNat = 1 := hi_fld _ 0x68800000 23 _ _ _ g (by decide) (by decide)
  exact decode_of _ (o.pack 0x68800000) (by simp only [rawDecode, hm, raw1A, hk, u]) (fun z hz => by cases hz) hw

theorem vandi (o : OpVI) : Statement (.vandi o) := by
  intro _ hw
  obtain ⟨g, u⟩ := OpVI_rt 0x69000000 o (by decide) (by decide)
  have hm : (fld 26 6 (o.pack 0x69000000)).toNat = 26 := hi_fld _ 0x69000000 23 _ _ _ g (by decide) (by decide)
  have hk : (fld 23 3 (o.pack 0x69000000)).toNat = 2 := hi_fld _ 0x69000000 23 _ _ _ g (by decide) (by decide)
  exact decode_of _ (o.pack 0x69000000) (by simp only [rawDecode, hm, raw1A, hk, u]) (fun z hz => by cases hz) hw

theorem vori (o : OpVI) : Statement (.vori o) := by
  intro _ hw
  obtain ⟨g, u⟩ := OpVI_rt 0x69800000 o (by decide) (by decide)
  have hm : (fld 26 6 (o.pack 0x69800000)).toNat = 26 := hi_fld _ 0x69800000 23 _ _ _ g (by decide) (by decide)
  have hk : (fld 23 3 (o.pack 0x69800000)).toNat = 3 := hi_fld _ 0x69800000 23 _ _ _ g (by decide) (by decide)
  exact decode_of _ (o.pack 0x69800000) (by simp only [rawDecode, hm, raw1A, hk, u]) (fun z hz => by cases hz) hw

theorem vxori (o : OpVI) : Statement (.vxori o) := by
  intro _ hw
  obtain ⟨g, u⟩ := OpVI_rt 0x6A000000 o (by decide) (by decide)
  have hm : (fld 26 6 (o.pack 0x6A000000)).toNat = 26 := hi_fld _ 0x6A000000 23 _ _ _ g (by decide) (by decide)
  have hk : (fld 23 3 (o.pack 0x6A000000)).toNat = 4 := hi_fld _ 0x6A000000 23 _ _ _ g (by decide) (by decide)
  exact decode_of _ (o.pack 0x6A000000) (by simp only [rawDecode, hm, raw1A, hk, u]) (fun z hz => by cases hz) hw

theorem vshli (o : OpVI) : Statement (.vshli o) := by
  intro _ hw
  obtain ⟨g, u⟩ := OpVI_rt 0x6A800000 o (by decide) (by decide)
  have hm : (fld 26 6 (o.pack 0x6A800000)).toNat = 26 := hi_fld _ 0x6A800000 23 _ _ _ g (by decide) (by decide)
  have hk : (fld 23 3 (o.pack 0x6A800000)).toNat = 5 := hi_fld _ 0x6A800000 23 _ _ _ g (by decide) (by decide)
  exact decode_of _ (o.pack 0x6A800000) (by simp only [rawDecode, hm, raw1A, hk, u]) (fun z hz => by cases hz) hw

theorem vshri (o : OpVI) : Statement (.vshri o) := by
  intro _ hw
  obtain ⟨g, u⟩ := OpVI_rt 0x6B000000 o (by decide) (by decide)
  have hm : (fld 26 6 (o.pack 0x6B000000)).toNat = 26 := hi_fld _ 0x6B000000 23 _ _ _ g (by decide) (by decide)
  have hk : (fld 23 3 (o.pack 0x6B000000)).toNat = 6 := hi_fld _ 0x6B000000 23 _ _ _ g (by decide) (by decide)
  exact decode_of _ (o.pack 0x6B000000) (by simp only [rawDecode, hm, raw1A, hk, u]) (fun z hz => by cases hz) hw

theorem vsari (o : OpVI) : Statement (.vsari o) := by
  intro _ hw
  obtain ⟨g, u⟩ := OpVI_rt 0x6B800000 o (by decide) (by decide)
  have hm : (fld 26 6 (o.pack 0x6B800000)).toNat = 26 := hi_fld _ 0x6B800000 23 _ _ _ g (by decide) (by decide)
  have hk : (fld 23 3 (o.pack 0x6B800000)).toNat = 7 := hi_fld _ 0x6B800000 23 _ _ _ g (by decide) (by decide)
  exact decode_of _ (o.pack 0x6B800000) (by simp only [rawDecode, hm, raw1A, hk, u]) (fun z hz => by cases hz) hw

theorem vfadd (o : OpVR) : Statement (.vfadd o) := by
  intro _ hw
  obtain ⟨g, u⟩ := OpVR_rt 0x6C000000 o (by decide) (by decide)
  have hm : (fld 26 6 (o.pack 0x6C000000)).toNat = 27 := hi_fld _ 0x6C000000 23 _ _ _ g (by decide) (by decide)
  have hk : (fld 23 3 (o.pack 0x6C000000)).toNat = 0 := hi_fld _ 0x6C000000 23 _ _ _ g (by decide) (by decide)
  exact decode_of _ (o.pack 0x6C000000) (by simp only [rawDecode, hm, raw1B, hk, u]) (fun z hz => by cases hz) hw

theorem vfsub (o : OpVR) : Statement (.vfsub o) := by
  intro _ hw
  obtain ⟨g, u⟩ := OpVR_rt 0x6C800000 o (by decide) (by decide)
  have hm : (fld 26 6 (o.pack 0x6C800000)).toNat = 27 := hi_fld _ 0x6C800000 23 _ _ _ g (by decide) (by decide)
  have hk : (fld 23 3 (o.pack 0x6C800000)).toNat = 1 := hi_fld _ 0x6C800000 23 _ _ _ g (by decide) (by decide)
  exact decode_of _ (o.pack 0x6C800000) (by simp only [rawDecode, hm, raw1B, hk, u]) (fun z hz => by cases hz) hw

theorem vfmul (o : OpVR) : Statement (.vfmul o) := by
  intro _ hw
  obtain ⟨g, u⟩ := OpVR_rt 0x6D000000 o (by decide) (by decide)
  have hm : (fld 26 6 (o.pack 0x6D000000)).toNat = 27 := hi_fld _ 0x6D000000 23 _ _ _ g (by decide) (by decide)
  have hk : (fld 23 3 (o.pack 0x6D000000)).toNat = 2 := hi_fld _ 0x6D000000 23 _ _ _ g (by decide) (by decide)
  exact decode_of _ (o.pack 0x6D000000) (by simp only [rawDecode, hm, raw1B, hk, u]) (fun z hz => by cases hz) hw

theorem vfmin (o : OpVR) : Statement (.vfmin o) := by
  intro _ hw
  obtain ⟨g, u⟩ := OpVR_rt 0x6D800000 o (by decide) (by decide)
  have hm : (fld 26 6 (o.pack 0x6D800000)).toNat = 27 := hi_fld _ 0x6D800000 23 _ _ _ g (by decide) (by decide)
  have hk : (fld 23 3 (o.pack 0x6D800000)).toNat = 3 := hi_fld _ 0x6D800000 23 _ _ _ g (by decide) (by decide)
  exact decode_of _ (o.pack 0x6D800000) (by simp only [rawDecode, hm, raw1B, hk, u]) (fun z hz => by cases hz) hw

theorem vfmax (o : OpVR) : Statement (.vfmax o) := by
  intro _ hw
  obtain ⟨g, u⟩ := OpVR_rt 0x6E000000 o (by decide) (by decide)
  have hm : (fld 26 6 (o.pack 0x6E000000)).toNat = 27 := hi_fld _ 0x6E000000 23 _ _ _ g (by decide) (by decide)
  have hk : (fld 23 3 (o.pack 0x6E000000)).toNat = 4 := hi_fld _ 0x6E000000 23 _ _ _ g (by decide) (by decide)
  exact decode_of _ (o.pack 0x6E000000) (by simp only [rawDecode, hm, raw1B, hk, u]) (fun z hz => by cases hz) hw

theorem vfabs (o : OpVR1) : Statement (.vfabs o) := by
  intro _ hw
  have l0 := o.ta.toNat_le
  have l1 := o.vd.isLt
  have l2 := o.va.isLt
  have e := OpVR1_val 0x6E800000 o (by decide)
  obtain ⟨g, u⟩ := OpVR1_rt 0x6E800000 o (by decide) (by decide)
  have hm : (fld 26 6 (o.pack 0x6E800000)).toNat = 27 := hi_fld _ 0x6E800000 23 _ _ _ g (by decide) (by decide)
  have hk : (fld 23 3 (o.pack 0x6E800000)).toNat = 5 := hi_fld _ 0x6E800000 23 _ _ _ g (by decide) (by decide)
  exact decode_of _ (o.pack 0x6E800000) (by simp only [rawDecode, hm, raw1B, hk, u]) (List.forall_mem_cons.2 ⟨show (o.pack 0x6E800000).toNat / 2 ^ 21 % 2 ^ 1 = 0 from by omega, List.forall_mem_cons.2 ⟨show (o.pack 0x6E800000).toNat / 2 ^ 0 % 2 ^ 7 = 0 from by omega, List.forall_mem_nil _⟩⟩) hw

theorem vfneg (o : OpVR1) : Statement (.vfneg o) := by
  intro _ hw
  have l0 := o.ta.toNat_le
  have l1 := o.vd.isLt
  have l2 := o.va.isLt
  have e := OpVR1_val 0x6F000000 o (by decide)
  obtain ⟨g, u⟩ := OpVR1_rt 0x6F000000 o (by decide) (by decide)
  have hm : (fld 26 6 (o.pack 0x6F000000)).toNat = 27 := hi_fld _ 0x6F000000 23 _ _ _ g (by decide) (by decide)
  have hk : (fld 23 3 (o.pack 0x6F000000)).toNat = 6 := hi_fld _ 0x6F000000 23 _ _ _ g (by decide) (by decide)
  exact decode_of _ (o.pack 0x6F000000) (by simp only [rawDecode, hm, raw1B, hk, u]) (List.forall_mem_cons.2 ⟨show (o.pack 0x6F000000).toNat / 2 ^ 21 % 2 ^ 1 = 0 from by omega, List.forall_mem_cons.2 ⟨show (o.pack 0x6F000000).toNat / 2 ^ 0 % 2 ^ 7 = 0 from by omega, List.forall_mem_nil _⟩⟩) hw

theorem vfsgn (o : OpVR) : Statement (.vfsgn o) := by
  intro _ hw
  obtain ⟨g, u⟩ := OpVR_rt 0x6F800000 o (by decide) (by decide)
  have hm : (fld 26 6 (o.pack 0x6F800000)).toNat = 27 := hi_fld _ 0x6F800000 23 _ _ _ g (by decide) (by decide)
  have hk : (fld 23 3 (o.pack 0x6F800000)).toNat = 7 := hi_fld _ 0x6F800000 23 _ _ _ g (by decide) (by decide)
  exact decode_of _ (o.pack 0x6F800000) (by simp only [rawDecode, hm, raw1B, hk, u]) (fun z hz => by cases hz) hw

theorem vfma (o : OpVR) : Statement (.vfma o) := by
  intro _ hw
  obtain ⟨g, u⟩ := OpVR_rt 0x70000000 o (by decide) (by decide)
  have hm : (fld 26 6 (o.pack 0x70000000)).toNat = 28 := hi_fld _ 0x70000000 23 _ _ _ g (by decide) (by decide)
  have hk : (fld 23 3 (o.pack 0x70000000)).toNat = 0 := hi_fld _ 0x70000000 23 _ _ _ g (by decide) (by decide)
  exact decode_of _ (o.pack 0x70000000) (by simp only [rawDecode, hm, raw1C, hk, u]) (fun z hz => by cases hz) hw

theorem vfms (o : OpVR) : Statement (.vfms o) := by
  intro _ hw
  obtain ⟨g, u⟩ := OpVR_rt 0x70800000 o (by decide) (by decide)
  have hm : (fld 26 6 (o.pack 0x70800000)).toNat = 28 := hi_fld _ 0x70800000 23 _ _ _ g (by decide) (by decide)
  have hk : (fld 23 3 (o.pack 0x70800000)).toNat = 1 := hi_fld _ 0x70800000 23 _ _ _ g (by decide) (by decide)
  exact decode_of _ (o.pack 0x70800000) (by simp only [rawDecode, hm, raw1C, hk, u]) (fun z hz => by cases hz) hw

theorem vfnma (o : OpVR) : Statement (.vfnma o) := by
  intro _ hw
  obtain ⟨g, u⟩ := OpVR_rt 0x71000000 o (by decide) (by decide)
  have hm : (fld 26 6 (o.pack 0x71000000)).toNat = 28 := hi_fld _ 0x71000000 23 _ _ _ g (by decide) (by decide)
  have hk : (fld 23 3 (o.pack 0x71000000)).toNat = 2 := hi_fld _ 0x71000000 23 _ _ _ g (by decide) (by decide)
  exact decode_of _ (o.pack 0x71000000) (by simp only [rawDecode, hm, raw1C, hk, u]) (fun z hz => by cases hz) hw

theorem vdot2 (o : OpVR) : Statement (.vdot2 o) := by
  intro _ hw
  obtain ⟨g, u⟩ := OpVR_rt 0x71800000 o (by decide) (by decide)
  have hm : (fld 26 6 (o.pack 0x71800000)).toNat = 28 := hi_fld _ 0x71800000 23 _ _ _ g (by decide) (by decide)
  have hk : (fld 23 3 (o.pack 0x71800000)).toNat = 3 := hi_fld _ 0x71800000 23 _ _ _ g (by decide) (by decide)
  exact decode_of _ (o.pack 0x71800000) (by simp only [rawDecode, hm, raw1C, hk, u]) (fun z hz => by cases hz) hw

theorem vdot4i (o : OpVR) : Statement (.vdot4i o) := by
  intro _ hw
  obtain ⟨g, u⟩ := OpVR_rt 0x72000000 o (by decide) (by decide)
  have hm : (fld 26 6 (o.pack 0x72000000)).toNat = 28 := hi_fld _ 0x72000000 23 _ _ _ g (by decide) (by decide)
  have hk : (fld 23 3 (o.pack 0x72000000)).toNat = 4 := hi_fld _ 0x72000000 23 _ _ _ g (by decide) (by decide)
  exact decode_of _ (o.pack 0x72000000) (by simp only [rawDecode, hm, raw1C, hk, u]) (fun z hz => by cases hz) hw

theorem vrcp (o : OpVR1) : Statement (.vrcp o) := by
  intro _ hw
  have l0 := o.ta.toNat_le
  have l1 := o.vd.isLt
  have l2 := o.va.isLt
  have e := OpVR1_val 0x74000000 o (by decide)
  obtain ⟨g, u⟩ := OpVR1_rt 0x74000000 o (by decide) (by decide)
  have hm : (fld 26 6 (o.pack 0x74000000)).toNat = 29 := hi_fld _ 0x74000000 23 _ _ _ g (by decide) (by decide)
  have hk : (fld 23 3 (o.pack 0x74000000)).toNat = 0 := hi_fld _ 0x74000000 23 _ _ _ g (by decide) (by decide)
  exact decode_of _ (o.pack 0x74000000) (by simp only [rawDecode, hm, raw1D, hk, u]) (List.forall_mem_cons.2 ⟨show (o.pack 0x74000000).toNat / 2 ^ 21 % 2 ^ 1 = 0 from by omega, List.forall_mem_cons.2 ⟨show (o.pack 0x74000000).toNat / 2 ^ 0 % 2 ^ 7 = 0 from by omega, List.forall_mem_nil _⟩⟩) hw

theorem vrsq (o : OpVR1) : Statement (.vrsq o) := by
  intro _ hw
  have l0 := o.ta.toNat_le
  have l1 := o.vd.isLt
  have l2 := o.va.isLt
  have e := OpVR1_val 0x74800000 o (by decide)
  obtain ⟨g, u⟩ := OpVR1_rt 0x74800000 o (by decide) (by decide)
  have hm : (fld 26 6 (o.pack 0x74800000)).toNat = 29 := hi_fld _ 0x74800000 23 _ _ _ g (by decide) (by decide)
  have hk : (fld 23 3 (o.pack 0x74800000)).toNat = 1 := hi_fld _ 0x74800000 23 _ _ _ g (by decide) (by decide)
  exact decode_of _ (o.pack 0x74800000) (by simp only [rawDecode, hm, raw1D, hk, u]) (List.forall_mem_cons.2 ⟨show (o.pack 0x74800000).toNat / 2 ^ 21 % 2 ^ 1 = 0 from by omega, List.forall_mem_cons.2 ⟨show (o.pack 0x74800000).toNat / 2 ^ 0 % 2 ^ 7 = 0 from by omega, List.forall_mem_nil _⟩⟩) hw

theorem vsqrt (o : OpVR1) : Statement (.vsqrt o) := by
  intro _ hw
  have l0 := o.ta.toNat_le
  have l1 := o.vd.isLt
  have l2 := o.va.isLt
  have e := OpVR1_val 0x75000000 o (by decide)
  obtain ⟨g, u⟩ := OpVR1_rt 0x75000000 o (by decide) (by decide)
  have hm : (fld 26 6 (o.pack 0x75000000)).toNat = 29 := hi_fld _ 0x75000000 23 _ _ _ g (by decide) (by decide)
  have hk : (fld 23 3 (o.pack 0x75000000)).toNat = 2 := hi_fld _ 0x75000000 23 _ _ _ g (by decide) (by decide)
  exact decode_of _ (o.pack 0x75000000) (by simp only [rawDecode, hm, raw1D, hk, u]) (List.forall_mem_cons.2 ⟨show (o.pack 0x75000000).toNat / 2 ^ 21 % 2 ^ 1 = 0 from by omega, List.forall_mem_cons.2 ⟨show (o.pack 0x75000000).toNat / 2 ^ 0 % 2 ^ 7 = 0 from by omega, List.forall_mem_nil _⟩⟩) hw

theorem vexp2 (o : OpVR1) : Statement (.vexp2 o) := by
  intro _ hw
  have l0 := o.ta.toNat_le
  have l1 := o.vd.isLt
  have l2 := o.va.isLt
  have e := OpVR1_val 0x75800000 o (by decide)
  obtain ⟨g, u⟩ := OpVR1_rt 0x75800000 o (by decide) (by decide)
  have hm : (fld 26 6 (o.pack 0x75800000)).toNat = 29 := hi_fld _ 0x75800000 23 _ _ _ g (by decide) (by decide)
  have hk : (fld 23 3 (o.pack 0x75800000)).toNat = 3 := hi_fld _ 0x75800000 23 _ _ _ g (by decide) (by decide)
  exact decode_of _ (o.pack 0x75800000) (by simp only [rawDecode, hm, raw1D, hk, u]) (List.forall_mem_cons.2 ⟨show (o.pack 0x75800000).toNat / 2 ^ 21 % 2 ^ 1 = 0 from by omega, List.forall_mem_cons.2 ⟨show (o.pack 0x75800000).toNat / 2 ^ 0 % 2 ^ 7 = 0 from by omega, List.forall_mem_nil _⟩⟩) hw

theorem vlog2 (o : OpVR1) : Statement (.vlog2 o) := by
  intro _ hw
  have l0 := o.ta.toNat_le
  have l1 := o.vd.isLt
  have l2 := o.va.isLt
  have e := OpVR1_val 0x76000000 o (by decide)
  obtain ⟨g, u⟩ := OpVR1_rt 0x76000000 o (by decide) (by decide)
  have hm : (fld 26 6 (o.pack 0x76000000)).toNat = 29 := hi_fld _ 0x76000000 23 _ _ _ g (by decide) (by decide)
  have hk : (fld 23 3 (o.pack 0x76000000)).toNat = 4 := hi_fld _ 0x76000000 23 _ _ _ g (by decide) (by decide)
  exact decode_of _ (o.pack 0x76000000) (by simp only [rawDecode, hm, raw1D, hk, u]) (List.forall_mem_cons.2 ⟨show (o.pack 0x76000000).toNat / 2 ^ 21 % 2 ^ 1 = 0 from by omega, List.forall_mem_cons.2 ⟨show (o.pack 0x76000000).toNat / 2 ^ 0 % 2 ^ 7 = 0 from by omega, List.forall_mem_nil _⟩⟩) hw

theorem vsin (o : OpVR1) : Statement (.vsin o) := by
  intro _ hw
  have l0 := o.ta.toNat_le
  have l1 := o.vd.isLt
  have l2 := o.va.isLt
  have e := OpVR1_val 0x76800000 o (by decide)
  obtain ⟨g, u⟩ := OpVR1_rt 0x76800000 o (by decide) (by decide)
  have hm : (fld 26 6 (o.pack 0x76800000)).toNat = 29 := hi_fld _ 0x76800000 23 _ _ _ g (by decide) (by decide)
  have hk : (fld 23 3 (o.pack 0x76800000)).toNat = 5 := hi_fld _ 0x76800000 23 _ _ _ g (by decide) (by decide)
  exact decode_of _ (o.pack 0x76800000) (by simp only [rawDecode, hm, raw1D, hk, u]) (List.forall_mem_cons.2 ⟨show (o.pack 0x76800000).toNat / 2 ^ 21 % 2 ^ 1 = 0 from by omega, List.forall_mem_cons.2 ⟨show (o.pack 0x76800000).toNat / 2 ^ 0 % 2 ^ 7 = 0 from by omega, List.forall_mem_nil _⟩⟩) hw

theorem vcos (o : OpVR1) : Statement (.vcos o) := by
  intro _ hw
  have l0 := o.ta.toNat_le
  have l1 := o.vd.isLt
  have l2 := o.va.isLt
  have e := OpVR1_val 0x77000000 o (by decide)
  obtain ⟨g, u⟩ := OpVR1_rt 0x77000000 o (by decide) (by decide)
  have hm : (fld 26 6 (o.pack 0x77000000)).toNat = 29 := hi_fld _ 0x77000000 23 _ _ _ g (by decide) (by decide)
  have hk : (fld 23 3 (o.pack 0x77000000)).toNat = 6 := hi_fld _ 0x77000000 23 _ _ _ g (by decide) (by decide)
  exact decode_of _ (o.pack 0x77000000) (by simp only [rawDecode, hm, raw1D, hk, u]) (List.forall_mem_cons.2 ⟨show (o.pack 0x77000000).toNat / 2 ^ 21 % 2 ^ 1 = 0 from by omega, List.forall_mem_cons.2 ⟨show (o.pack 0x77000000).toNat / 2 ^ 0 % 2 ^ 7 = 0 from by omega, List.forall_mem_nil _⟩⟩) hw

theorem vtanh (o : OpVR1) : Statement (.vtanh o) := by
  intro _ hw
  have l0 := o.ta.toNat_le
  have l1 := o.vd.isLt
  have l2 := o.va.isLt
  have e := OpVR1_val 0x77800000 o (by decide)
  obtain ⟨g, u⟩ := OpVR1_rt 0x77800000 o (by decide) (by decide)
  have hm : (fld 26 6 (o.pack 0x77800000)).toNat = 29 := hi_fld _ 0x77800000 23 _ _ _ g (by decide) (by decide)
  have hk : (fld 23 3 (o.pack 0x77800000)).toNat = 7 := hi_fld _ 0x77800000 23 _ _ _ g (by decide) (by decide)
  exact decode_of _ (o.pack 0x77800000) (by simp only [rawDecode, hm, raw1D, hk, u]) (List.forall_mem_cons.2 ⟨show (o.pack 0x77800000).toNat / 2 ^ 21 % 2 ^ 1 = 0 from by omega, List.forall_mem_cons.2 ⟨show (o.pack 0x77800000).toNat / 2 ^ 0 % 2 ^ 7 = 0 from by omega, List.forall_mem_nil _⟩⟩) hw

theorem vcvt (o : OpCV) : Statement (.vcvt o) := by
  intro _ hw
  obtain ⟨g, u⟩ := OpCV_rt 0x78000000 o (by decide) (by decide)
  have hm : (fld 26 6 (o.pack 0x78000000)).toNat = 30 := hi_fld _ 0x78000000 26 _ _ _ g (by decide) (by decide)
  exact decode_of _ (o.pack 0x78000000) (by simp only [rawDecode, hm, u]) (fun z hz => by cases hz) hw

theorem vmxq (o : OpMX) : Statement (.vmxq o) := by
  intro _ hw
  have l0 := o.fmt.isLt
  have l1 := o.ta.toNat_le
  have l2 := o.vd.isLt
  have l3 := o.va.isLt
  have e : (o.pack 0x7C000000).toNat = 0x7C000000 + o.fmt.toNat * 2 ^ 23 + o.ta.toNat * 2 ^ 22 + o.vd.toNat * 2 ^ 15 + o.va.toNat * 2 ^ 8 := by
    simp only [OpMX.pack, BitVec.toNat_ofNat]
    omega
  have u0 : fld 23 3 (o.pack 0x7C000000) = o.fmt := fld_of _ _ _ _ (by omega)
  have u1 : flag 22 (o.pack 0x7C000000) = o.ta := flag_of _ _ _ (by omega)
  have u2 : fld 15 7 (o.pack 0x7C000000) = o.vd := fld_of _ _ _ _ (by omega)
  have u3 : fld 8 7 (o.pack 0x7C000000) = o.va := fld_of _ _ _ _ (by omega)
  have hm : (fld 26 6 (o.pack 0x7C000000)).toNat = 31 := fld_val _ _ _ _ (by omega)
  have hk : (fld 6 2 (o.pack 0x7C000000)).toNat = 0 := fld_val _ _ _ _ (by omega)
  have hf : ¬ 5 < (fld 23 3 (o.pack 0x7C000000)).toNat := by
    rw [show fld 23 3 (o.pack 0x7C000000) = o.fmt from u0]
    simpa [Instr.wellFormed, Instr.codeRules, Instr.eventOk] using hw
  have u : OpMX.unpack (o.pack 0x7C000000) = o := by simp only [OpMX.unpack, u0, u1, u2, u3]
  exact decode_of _ (o.pack 0x7C000000) (by simp only [rawDecode, hm, raw1F, hk, hf, if_false, u]) (List.forall_mem_cons.2 ⟨show (o.pack 0x7C000000).toNat / 2 ^ 0 % 2 ^ 6 = 0 by omega, List.forall_mem_nil _⟩) hw

theorem vmxd (o : OpMX) : Statement (.vmxd o) := by
  intro _ hw
  have l0 := o.fmt.isLt
  have l1 := o.ta.toNat_le
  have l2 := o.vd.isLt
  have l3 := o.va.isLt
  have e : (o.pack 0x7C000040).toNat = 0x7C000040 + o.fmt.toNat * 2 ^ 23 + o.ta.toNat * 2 ^ 22 + o.vd.toNat * 2 ^ 15 + o.va.toNat * 2 ^ 8 := by
    simp only [OpMX.pack, BitVec.toNat_ofNat]
    omega
  have u0 : fld 23 3 (o.pack 0x7C000040) = o.fmt := fld_of _ _ _ _ (by omega)
  have u1 : flag 22 (o.pack 0x7C000040) = o.ta := flag_of _ _ _ (by omega)
  have u2 : fld 15 7 (o.pack 0x7C000040) = o.vd := fld_of _ _ _ _ (by omega)
  have u3 : fld 8 7 (o.pack 0x7C000040) = o.va := fld_of _ _ _ _ (by omega)
  have hm : (fld 26 6 (o.pack 0x7C000040)).toNat = 31 := fld_val _ _ _ _ (by omega)
  have hk : (fld 6 2 (o.pack 0x7C000040)).toNat = 1 := fld_val _ _ _ _ (by omega)
  have hf : ¬ 5 < (fld 23 3 (o.pack 0x7C000040)).toNat := by
    rw [show fld 23 3 (o.pack 0x7C000040) = o.fmt from u0]
    simpa [Instr.wellFormed, Instr.codeRules, Instr.eventOk] using hw
  have u : OpMX.unpack (o.pack 0x7C000040) = o := by simp only [OpMX.unpack, u0, u1, u2, u3]
  exact decode_of _ (o.pack 0x7C000040) (by simp only [rawDecode, hm, raw1F, hk, hf, if_false, u]) (List.forall_mem_cons.2 ⟨show (o.pack 0x7C000040).toNat / 2 ^ 0 % 2 ^ 6 = 0 by omega, List.forall_mem_nil _⟩) hw

theorem vcmpEq (o : OpVCmp) : Statement (.vcmpEq o) := by
  intro _ hw
  have l0 := o.ta.toNat_le
  have l1 := o.tb.toNat_le
  have l2 := o.pd.isLt
  have l3 := o.va.isLt
  have l4 := o.vb.isLt
  have e := OpVCmp_val 0x80000000 o (by decide)
  obtain ⟨g, u⟩ := OpVCmp_rt 0x80000000 o (by decide) (by decide)
  have hm : (fld 26 6 (o.pack 0x80000000)).toNat = 32 := hi_fld _ 0x80000000 23 _ _ _ g (by decide) (by decide)
  have hk : (fld 23 3 (o.pack 0x80000000)).toNat = 0 := hi_fld _ 0x80000000 23 _ _ _ g (by decide) (by decide)
  exact decode_of _ (o.pack 0x80000000) (by simp only [rawDecode, hm, raw20, hk, u]) (List.forall_mem_cons.2 ⟨show (o.pack 0x80000000).toNat / 2 ^ 17 % 2 ^ 4 = 0 from by omega, List.forall_mem_nil _⟩) hw

theorem vcmpNe (o : OpVCmp) : Statement (.vcmpNe o) := by
  intro _ hw
  have l0 := o.ta.toNat_le
  have l1 := o.tb.toNat_le
  have l2 := o.pd.isLt
  have l3 := o.va.isLt
  have l4 := o.vb.isLt
  have e := OpVCmp_val 0x80800000 o (by decide)
  obtain ⟨g, u⟩ := OpVCmp_rt 0x80800000 o (by decide) (by decide)
  have hm : (fld 26 6 (o.pack 0x80800000)).toNat = 32 := hi_fld _ 0x80800000 23 _ _ _ g (by decide) (by decide)
  have hk : (fld 23 3 (o.pack 0x80800000)).toNat = 1 := hi_fld _ 0x80800000 23 _ _ _ g (by decide) (by decide)
  exact decode_of _ (o.pack 0x80800000) (by simp only [rawDecode, hm, raw20, hk, u]) (List.forall_mem_cons.2 ⟨show (o.pack 0x80800000).toNat / 2 ^ 17 % 2 ^ 4 = 0 from by omega, List.forall_mem_nil _⟩) hw

theorem vcmpLt (o : OpVCmp) : Statement (.vcmpLt o) := by
  intro _ hw
  have l0 := o.ta.toNat_le
  have l1 := o.tb.toNat_le
  have l2 := o.pd.isLt
  have l3 := o.va.isLt
  have l4 := o.vb.isLt
  have e := OpVCmp_val 0x81000000 o (by decide)
  obtain ⟨g, u⟩ := OpVCmp_rt 0x81000000 o (by decide) (by decide)
  have hm : (fld 26 6 (o.pack 0x81000000)).toNat = 32 := hi_fld _ 0x81000000 23 _ _ _ g (by decide) (by decide)
  have hk : (fld 23 3 (o.pack 0x81000000)).toNat = 2 := hi_fld _ 0x81000000 23 _ _ _ g (by decide) (by decide)
  exact decode_of _ (o.pack 0x81000000) (by simp only [rawDecode, hm, raw20, hk, u]) (List.forall_mem_cons.2 ⟨show (o.pack 0x81000000).toNat / 2 ^ 17 % 2 ^ 4 = 0 from by omega, List.forall_mem_nil _⟩) hw

theorem vcmpLe (o : OpVCmp) : Statement (.vcmpLe o) := by
  intro _ hw
  have l0 := o.ta.toNat_le
  have l1 := o.tb.toNat_le
  have l2 := o.pd.isLt
  have l3 := o.va.isLt
  have l4 := o.vb.isLt
  have e := OpVCmp_val 0x81800000 o (by decide)
  obtain ⟨g, u⟩ := OpVCmp_rt 0x81800000 o (by decide) (by decide)
  have hm : (fld 26 6 (o.pack 0x81800000)).toNat = 32 := hi_fld _ 0x81800000 23 _ _ _ g (by decide) (by decide)
  have hk : (fld 23 3 (o.pack 0x81800000)).toNat = 3 := hi_fld _ 0x81800000 23 _ _ _ g (by decide) (by decide)
  exact decode_of _ (o.pack 0x81800000) (by simp only [rawDecode, hm, raw20, hk, u]) (List.forall_mem_cons.2 ⟨show (o.pack 0x81800000).toNat / 2 ^ 17 % 2 ^ 4 = 0 from by omega, List.forall_mem_nil _⟩) hw

theorem vcmpGt (o : OpVCmp) : Statement (.vcmpGt o) := by
  intro _ hw
  have l0 := o.ta.toNat_le
  have l1 := o.tb.toNat_le
  have l2 := o.pd.isLt
  have l3 := o.va.isLt
  have l4 := o.vb.isLt
  have e := OpVCmp_val 0x82000000 o (by decide)
  obtain ⟨g, u⟩ := OpVCmp_rt 0x82000000 o (by decide) (by decide)
  have hm : (fld 26 6 (o.pack 0x82000000)).toNat = 32 := hi_fld _ 0x82000000 23 _ _ _ g (by decide) (by decide)
  have hk : (fld 23 3 (o.pack 0x82000000)).toNat = 4 := hi_fld _ 0x82000000 23 _ _ _ g (by decide) (by decide)
  exact decode_of _ (o.pack 0x82000000) (by simp only [rawDecode, hm, raw20, hk, u]) (List.forall_mem_cons.2 ⟨show (o.pack 0x82000000).toNat / 2 ^ 17 % 2 ^ 4 = 0 from by omega, List.forall_mem_nil _⟩) hw

theorem vcmpGe (o : OpVCmp) : Statement (.vcmpGe o) := by
  intro _ hw
  have l0 := o.ta.toNat_le
  have l1 := o.tb.toNat_le
  have l2 := o.pd.isLt
  have l3 := o.va.isLt
  have l4 := o.vb.isLt
  have e := OpVCmp_val 0x82800000 o (by decide)
  obtain ⟨g, u⟩ := OpVCmp_rt 0x82800000 o (by decide) (by decide)
  have hm : (fld 26 6 (o.pack 0x82800000)).toNat = 32 := hi_fld _ 0x82800000 23 _ _ _ g (by decide) (by decide)
  have hk : (fld 23 3 (o.pack 0x82800000)).toNat = 5 := hi_fld _ 0x82800000 23 _ _ _ g (by decide) (by decide)
  exact decode_of _ (o.pack 0x82800000) (by simp only [rawDecode, hm, raw20, hk, u]) (List.forall_mem_cons.2 ⟨show (o.pack 0x82800000).toNat / 2 ^ 17 % 2 ^ 4 = 0 from by omega, List.forall_mem_nil _⟩) hw

theorem vcmpUnord (o : OpVCmp) : Statement (.vcmpUnord o) := by
  intro _ hw
  have l0 := o.ta.toNat_le
  have l1 := o.tb.toNat_le
  have l2 := o.pd.isLt
  have l3 := o.va.isLt
  have l4 := o.vb.isLt
  have e := OpVCmp_val 0x83000000 o (by decide)
  obtain ⟨g, u⟩ := OpVCmp_rt 0x83000000 o (by decide) (by decide)
  have hm : (fld 26 6 (o.pack 0x83000000)).toNat = 32 := hi_fld _ 0x83000000 23 _ _ _ g (by decide) (by decide)
  have hk : (fld 23 3 (o.pack 0x83000000)).toNat = 6 := hi_fld _ 0x83000000 23 _ _ _ g (by decide) (by decide)
  exact decode_of _ (o.pack 0x83000000) (by simp only [rawDecode, hm, raw20, hk, u]) (List.forall_mem_cons.2 ⟨show (o.pack 0x83000000).toNat / 2 ^ 17 % 2 ^ 4 = 0 from by omega, List.forall_mem_nil _⟩) hw

theorem vcmpOrd (o : OpVCmp) : Statement (.vcmpOrd o) := by
  intro _ hw
  have l0 := o.ta.toNat_le
  have l1 := o.tb.toNat_le
  have l2 := o.pd.isLt
  have l3 := o.va.isLt
  have l4 := o.vb.isLt
  have e := OpVCmp_val 0x83800000 o (by decide)
  obtain ⟨g, u⟩ := OpVCmp_rt 0x83800000 o (by decide) (by decide)
  have hm : (fld 26 6 (o.pack 0x83800000)).toNat = 32 := hi_fld _ 0x83800000 23 _ _ _ g (by decide) (by decide)
  have hk : (fld 23 3 (o.pack 0x83800000)).toNat = 7 := hi_fld _ 0x83800000 23 _ _ _ g (by decide) (by decide)
  exact decode_of _ (o.pack 0x83800000) (by simp only [rawDecode, hm, raw20, hk, u]) (List.forall_mem_cons.2 ⟨show (o.pack 0x83800000).toNat / 2 ^ 17 % 2 ^ 4 = 0 from by omega, List.forall_mem_nil _⟩) hw

theorem vperm (o : OpVR) : Statement (.vperm o) := by
  intro _ hw
  obtain ⟨g, u⟩ := OpVR_rt 0x84000000 o (by decide) (by decide)
  have hm : (fld 26 6 (o.pack 0x84000000)).toNat = 33 := hi_fld _ 0x84000000 23 _ _ _ g (by decide) (by decide)
  have hk : (fld 23 3 (o.pack 0x84000000)).toNat = 0 := hi_fld _ 0x84000000 23 _ _ _ g (by decide) (by decide)
  exact decode_of _ (o.pack 0x84000000) (by simp only [rawDecode, hm, raw21, hk, u]) (fun z hz => by cases hz) hw

theorem vbperm (o : OpVR) : Statement (.vbperm o) := by
  intro _ hw
  obtain ⟨g, u⟩ := OpVR_rt 0x84800000 o (by decide) (by decide)
  have hm : (fld 26 6 (o.pack 0x84800000)).toNat = 33 := hi_fld _ 0x84800000 23 _ _ _ g (by decide) (by decide)
  have hk : (fld 23 3 (o.pack 0x84800000)).toNat = 1 := hi_fld _ 0x84800000 23 _ _ _ g (by decide) (by decide)
  exact decode_of _ (o.pack 0x84800000) (by simp only [rawDecode, hm, raw21, hk, u]) (fun z hz => by cases hz) hw

theorem vshfx (o : OpVI) : Statement (.vshfx o) := by
  intro _ hw
  obtain ⟨g, u⟩ := OpVI_rt 0x88000000 o (by decide) (by decide)
  have hm : (fld 26 6 (o.pack 0x88000000)).toNat = 34 := hi_fld _ 0x88000000 23 _ _ _ g (by decide) (by decide)
  have hk : (fld 23 3 (o.pack 0x88000000)).toNat = 0 := hi_fld _ 0x88000000 23 _ _ _ g (by decide) (by decide)
  exact decode_of _ (o.pack 0x88000000) (by simp only [rawDecode, hm, raw22, hk, u]) (fun z hz => by cases hz) hw

theorem vslideu (o : OpVI) : Statement (.vslideu o) := by
  intro _ hw
  obtain ⟨g, u⟩ := OpVI_rt 0x88800000 o (by decide) (by decide)
  have hm : (fld 26 6 (o.pack 0x88800000)).toNat = 34 := hi_fld _ 0x88800000 23 _ _ _ g (by decide) (by decide)
  have hk : (fld 23 3 (o.pack 0x88800000)).toNat = 1 := hi_fld _ 0x88800000 23 _ _ _ g (by decide) (by decide)
  exact decode_of _ (o.pack 0x88800000) (by simp only [rawDecode, hm, raw22, hk, u]) (fun z hz => by cases hz) hw

theorem vslided (o : OpVI) : Statement (.vslided o) := by
  intro _ hw
  obtain ⟨g, u⟩ := OpVI_rt 0x89000000 o (by decide) (by decide)
  have hm : (fld 26 6 (o.pack 0x89000000)).toNat = 34 := hi_fld _ 0x89000000 23 _ _ _ g (by decide) (by decide)
  have hk : (fld 23 3 (o.pack 0x89000000)).toNat = 2 := hi_fld _ 0x89000000 23 _ _ _ g (by decide) (by decide)
  exact decode_of _ (o.pack 0x89000000) (by simp only [rawDecode, hm, raw22, hk, u]) (fun z hz => by cases hz) hw

theorem vlaneb (o : OpVI) : Statement (.vlaneb o) := by
  intro _ hw
  obtain ⟨g, u⟩ := OpVI_rt 0x89800000 o (by decide) (by decide)
  have hm : (fld 26 6 (o.pack 0x89800000)).toNat = 34 := hi_fld _ 0x89800000 23 _ _ _ g (by decide) (by decide)
  have hk : (fld 23 3 (o.pack 0x89800000)).toNat = 3 := hi_fld _ 0x89800000 23 _ _ _ g (by decide) (by decide)
  exact decode_of _ (o.pack 0x89800000) (by simp only [rawDecode, hm, raw22, hk, u]) (fun z hz => by cases hz) hw

theorem vquad (o : OpVI) : Statement (.vquad o) := by
  intro _ hw
  obtain ⟨g, u⟩ := OpVI_rt 0x8A000000 o (by decide) (by decide)
  have hm : (fld 26 6 (o.pack 0x8A000000)).toNat = 34 := hi_fld _ 0x8A000000 23 _ _ _ g (by decide) (by decide)
  have hk : (fld 23 3 (o.pack 0x8A000000)).toNat = 4 := hi_fld _ 0x8A000000 23 _ _ _ g (by decide) (by decide)
  exact decode_of _ (o.pack 0x8A000000) (by simp only [rawDecode, hm, raw22, hk, u]) (fun z hz => by cases hz) hw

theorem vscanadd (o : OpVR1) : Statement (.vscanadd o) := by
  intro _ hw
  have l0 := o.ta.toNat_le
  have l1 := o.vd.isLt
  have l2 := o.va.isLt
  have e := OpVR1_val 0x8C000000 o (by decide)
  obtain ⟨g, u⟩ := OpVR1_rt 0x8C000000 o (by decide) (by decide)
  have hm : (fld 26 6 (o.pack 0x8C000000)).toNat = 35 := hi_fld _ 0x8C000000 23 _ _ _ g (by decide) (by decide)
  have hk : (fld 23 3 (o.pack 0x8C000000)).toNat = 0 := hi_fld _ 0x8C000000 23 _ _ _ g (by decide) (by decide)
  exact decode_of _ (o.pack 0x8C000000) (by simp only [rawDecode, hm, raw23, hk, u]) (List.forall_mem_cons.2 ⟨show (o.pack 0x8C000000).toNat / 2 ^ 21 % 2 ^ 1 = 0 from by omega, List.forall_mem_cons.2 ⟨show (o.pack 0x8C000000).toNat / 2 ^ 0 % 2 ^ 7 = 0 from by omega, List.forall_mem_nil _⟩⟩) hw

theorem vscanmin (o : OpVR1) : Statement (.vscanmin o) := by
  intro _ hw
  have l0 := o.ta.toNat_le
  have l1 := o.vd.isLt
  have l2 := o.va.isLt
  have e := OpVR1_val 0x8C800000 o (by decide)
  obtain ⟨g, u⟩ := OpVR1_rt 0x8C800000 o (by decide) (by decide)
  have hm : (fld 26 6 (o.pack 0x8C800000)).toNat = 35 := hi_fld _ 0x8C800000 23 _ _ _ g (by decide) (by decide)
  have hk : (fld 23 3 (o.pack 0x8C800000)).toNat = 1 := hi_fld _ 0x8C800000 23 _ _ _ g (by decide) (by decide)
  exact decode_of _ (o.pack 0x8C800000) (by simp only [rawDecode, hm, raw23, hk, u]) (List.forall_mem_cons.2 ⟨show (o.pack 0x8C800000).toNat / 2 ^ 21 % 2 ^ 1 = 0 from by omega, List.forall_mem_cons.2 ⟨show (o.pack 0x8C800000).toNat / 2 ^ 0 % 2 ^ 7 = 0 from by omega, List.forall_mem_nil _⟩⟩) hw

theorem vscanmax (o : OpVR1) : Statement (.vscanmax o) := by
  intro _ hw
  have l0 := o.ta.toNat_le
  have l1 := o.vd.isLt
  have l2 := o.va.isLt
  have e := OpVR1_val 0x8D000000 o (by decide)
  obtain ⟨g, u⟩ := OpVR1_rt 0x8D000000 o (by decide) (by decide)
  have hm : (fld 26 6 (o.pack 0x8D000000)).toNat = 35 := hi_fld _ 0x8D000000 23 _ _ _ g (by decide) (by decide)
  have hk : (fld 23 3 (o.pack 0x8D000000)).toNat = 2 := hi_fld _ 0x8D000000 23 _ _ _ g (by decide) (by decide)
  exact decode_of _ (o.pack 0x8D000000) (by simp only [rawDecode, hm, raw23, hk, u]) (List.forall_mem_cons.2 ⟨show (o.pack 0x8D000000).toNat / 2 ^ 21 % 2 ^ 1 = 0 from by omega, List.forall_mem_cons.2 ⟨show (o.pack 0x8D000000).toNat / 2 ^ 0 % 2 ^ 7 = 0 from by omega, List.forall_mem_nil _⟩⟩) hw

theorem vscanor (o : OpVR1) : Statement (.vscanor o) := by
  intro _ hw
  have l0 := o.ta.toNat_le
  have l1 := o.vd.isLt
  have l2 := o.va.isLt
  have e := OpVR1_val 0x8D800000 o (by decide)
  obtain ⟨g, u⟩ := OpVR1_rt 0x8D800000 o (by decide) (by decide)
  have hm : (fld 26 6 (o.pack 0x8D800000)).toNat = 35 := hi_fld _ 0x8D800000 23 _ _ _ g (by decide) (by decide)
  have hk : (fld 23 3 (o.pack 0x8D800000)).toNat = 3 := hi_fld _ 0x8D800000 23 _ _ _ g (by decide) (by decide)
  exact decode_of _ (o.pack 0x8D800000) (by simp only [rawDecode, hm, raw23, hk, u]) (List.forall_mem_cons.2 ⟨show (o.pack 0x8D800000).toNat / 2 ^ 21 % 2 ^ 1 = 0 from by omega, List.forall_mem_cons.2 ⟨show (o.pack 0x8D800000).toNat / 2 ^ 0 % 2 ^ 7 = 0 from by omega, List.forall_mem_nil _⟩⟩) hw

theorem vxscanadd (o : OpVR1) : Statement (.vxscanadd o) := by
  intro _ hw
  have l0 := o.ta.toNat_le
  have l1 := o.vd.isLt
  have l2 := o.va.isLt
  have e := OpVR1_val 0x8E000000 o (by decide)
  obtain ⟨g, u⟩ := OpVR1_rt 0x8E000000 o (by decide) (by decide)
  have hm : (fld 26 6 (o.pack 0x8E000000)).toNat = 35 := hi_fld _ 0x8E000000 23 _ _ _ g (by decide) (by decide)
  have hk : (fld 23 3 (o.pack 0x8E000000)).toNat = 4 := hi_fld _ 0x8E000000 23 _ _ _ g (by decide) (by decide)
  exact decode_of _ (o.pack 0x8E000000) (by simp only [rawDecode, hm, raw23, hk, u]) (List.forall_mem_cons.2 ⟨show (o.pack 0x8E000000).toNat / 2 ^ 21 % 2 ^ 1 = 0 from by omega, List.forall_mem_cons.2 ⟨show (o.pack 0x8E000000).toNat / 2 ^ 0 % 2 ^ 7 = 0 from by omega, List.forall_mem_nil _⟩⟩) hw

theorem vxscanmax (o : OpVR1) : Statement (.vxscanmax o) := by
  intro _ hw
  have l0 := o.ta.toNat_le
  have l1 := o.vd.isLt
  have l2 := o.va.isLt
  have e := OpVR1_val 0x8E800000 o (by decide)
  obtain ⟨g, u⟩ := OpVR1_rt 0x8E800000 o (by decide) (by decide)
  have hm : (fld 26 6 (o.pack 0x8E800000)).toNat = 35 := hi_fld _ 0x8E800000 23 _ _ _ g (by decide) (by decide)
  have hk : (fld 23 3 (o.pack 0x8E800000)).toNat = 5 := hi_fld _ 0x8E800000 23 _ _ _ g (by decide) (by decide)
  exact decode_of _ (o.pack 0x8E800000) (by simp only [rawDecode, hm, raw23, hk, u]) (List.forall_mem_cons.2 ⟨show (o.pack 0x8E800000).toNat / 2 ^ 21 % 2 ^ 1 = 0 from by omega, List.forall_mem_cons.2 ⟨show (o.pack 0x8E800000).toNat / 2 ^ 0 % 2 ^ 7 = 0 from by omega, List.forall_mem_nil _⟩⟩) hw

theorem vredadd (o : OpVSRed) : Statement (.vredadd o) := by
  intro _ hw
  have l0 := o.ta.toNat_le
  have l1 := o.va.isLt
  have l2 := o.sb.isLt
  have e := OpVSRed_val 0x90000000 o (by decide)
  obtain ⟨g, u⟩ := OpVSRed_rt 0x90000000 o (by decide) (by decide)
  have hm : (fld 26 6 (o.pack 0x90000000)).toNat = 36 := hi_fld _ 0x90000000 23 _ _ _ g (by decide) (by decide)
  have hk : (fld 23 3 (o.pack 0x90000000)).toNat = 0 := hi_fld _ 0x90000000 23 _ _ _ g (by decide) (by decide)
  exact decode_of _ (o.pack 0x90000000) (by simp only [rawDecode, hm, raw24, hk, u]) (List.forall_mem_cons.2 ⟨show (o.pack 0x90000000).toNat / 2 ^ 15 % 2 ^ 7 = 0 from by omega, List.forall_mem_cons.2 ⟨show (o.pack 0x90000000).toNat / 2 ^ 6 % 2 ^ 2 = 0 from by omega, List.forall_mem_nil _⟩⟩) hw

theorem vredmin (o : OpVSRed) : Statement (.vredmin o) := by
  intro _ hw
  have l0 := o.ta.toNat_le
  have l1 := o.va.isLt
  have l2 := o.sb.isLt
  have e := OpVSRed_val 0x90800000 o (by decide)
  obtain ⟨g, u⟩ := OpVSRed_rt 0x90800000 o (by decide) (by decide)
  have hm : (fld 26 6 (o.pack 0x90800000)).toNat = 36 := hi_fld _ 0x90800000 23 _ _ _ g (by decide) (by decide)
  have hk : (fld 23 3 (o.pack 0x90800000)).toNat = 1 := hi_fld _ 0x90800000 23 _ _ _ g (by decide) (by decide)
  exact decode_of _ (o.pack 0x90800000) (by simp only [rawDecode, hm, raw24, hk, u]) (List.forall_mem_cons.2 ⟨show (o.pack 0x90800000).toNat / 2 ^ 15 % 2 ^ 7 = 0 from by omega, List.forall_mem_cons.2 ⟨show (o.pack 0x90800000).toNat / 2 ^ 6 % 2 ^ 2 = 0 from by omega, List.forall_mem_nil _⟩⟩) hw

theorem vredmax (o : OpVSRed) : Statement (.vredmax o) := by
  intro _ hw
  have l0 := o.ta.toNat_le
  have l1 := o.va.isLt
  have l2 := o.sb.isLt
  have e := OpVSRed_val 0x91000000 o (by decide)
  obtain ⟨g, u⟩ := OpVSRed_rt 0x91000000 o (by decide) (by decide)
  have hm : (fld 26 6 (o.pack 0x91000000)).toNat = 36 := hi_fld _ 0x91000000 23 _ _ _ g (by decide) (by decide)
  have hk : (fld 23 3 (o.pack 0x91000000)).toNat = 2 := hi_fld _ 0x91000000 23 _ _ _ g (by decide) (by decide)
  exact decode_of _ (o.pack 0x91000000) (by simp only [rawDecode, hm, raw24, hk, u]) (List.forall_mem_cons.2 ⟨show (o.pack 0x91000000).toNat / 2 ^ 15 % 2 ^ 7 = 0 from by omega, List.forall_mem_cons.2 ⟨show (o.pack 0x91000000).toNat / 2 ^ 6 % 2 ^ 2 = 0 from by omega, List.forall_mem_nil _⟩⟩) hw

theorem vredand (o : OpVSRed) : Statement (.vredand o) := by
  intro _ hw
  have l0 := o.ta.toNat_le
  have l1 := o.va.isLt
  have l2 := o.sb.isLt
  have e := OpVSRed_val 0x91800000 o (by decide)
  obtain ⟨g, u⟩ := OpVSRed_rt 0x91800000 o (by decide) (by decide)
  have hm : (fld 26 6 (o.pack 0x91800000)).toNat = 36 := hi_fld _ 0x91800000 23 _ _ _ g (by decide) (by decide)
  have hk : (fld 23 3 (o.pack 0x91800000)).toNat = 3 := hi_fld _ 0x91800000 23 _ _ _ g (by decide) (by decide)
  exact decode_of _ (o.pack 0x91800000) (by simp only [rawDecode, hm, raw24, hk, u]) (List.forall_mem_cons.2 ⟨show (o.pack 0x91800000).toNat / 2 ^ 15 % 2 ^ 7 = 0 from by omega, List.forall_mem_cons.2 ⟨show (o.pack 0x91800000).toNat / 2 ^ 6 % 2 ^ 2 = 0 from by omega, List.forall_mem_nil _⟩⟩) hw

theorem vredor (o : OpVSRed) : Statement (.vredor o) := by
  intro _ hw
  have l0 := o.ta.toNat_le
  have l1 := o.va.isLt
  have l2 := o.sb.isLt
  have e := OpVSRed_val 0x92000000 o (by decide)
  obtain ⟨g, u⟩ := OpVSRed_rt 0x92000000 o (by decide) (by decide)
  have hm : (fld 26 6 (o.pack 0x92000000)).toNat = 36 := hi_fld _ 0x92000000 23 _ _ _ g (by decide) (by decide)
  have hk : (fld 23 3 (o.pack 0x92000000)).toNat = 4 := hi_fld _ 0x92000000 23 _ _ _ g (by decide) (by decide)
  exact decode_of _ (o.pack 0x92000000) (by simp only [rawDecode, hm, raw24, hk, u]) (List.forall_mem_cons.2 ⟨show (o.pack 0x92000000).toNat / 2 ^ 15 % 2 ^ 7 = 0 from by omega, List.forall_mem_cons.2 ⟨show (o.pack 0x92000000).toNat / 2 ^ 6 % 2 ^ 2 = 0 from by omega, List.forall_mem_nil _⟩⟩) hw

theorem pand (o : OpPR2) : Statement (.pand o) := by
  intro _ hw
  have l0 := o.pd.isLt
  have l1 := o.pa.isLt
  have l2 := o.pb.isLt
  have e := OpPR2_val 0x94000000 o (by decide)
  obtain ⟨g, u⟩ := OpPR2_rt 0x94000000 o (by decide) (by decide)
  have hm : (fld 26 6 (o.pack 0x94000000)).toNat = 37 := hi_fld _ 0x94000000 22 _ _ _ g (by decide) (by decide)
  have hk : (fld 22 4 (o.pack 0x94000000)).toNat = 0 := hi_fld _ 0x94000000 22 _ _ _ g (by decide) (by decide)
  exact decode_of _ (o.pack 0x94000000) (by simp only [rawDecode, hm, raw25, hk, u]) (List.forall_mem_cons.2 ⟨show (o.pack 0x94000000).toNat / 2 ^ 7 % 2 ^ 6 = 0 from by omega, List.forall_mem_cons.2 ⟨show (o.pack 0x94000000).toNat / 2 ^ 0 % 2 ^ 7 = 0 from by omega, List.forall_mem_nil _⟩⟩) hw

theorem por (o : OpPR2) : Statement (.por o) := by
  intro _ hw
  have l0 := o.pd.isLt
  have l1 := o.pa.isLt
  have l2 := o.pb.isLt
  have e := OpPR2_val 0x94400000 o (by decide)
  obtain ⟨g, u⟩ := OpPR2_rt 0x94400000 o (by decide) (by decide)
  have hm : (fld 26 6 (o.pack 0x94400000)).toNat = 37 := hi_fld _ 0x94400000 22 _ _ _ g (by decide) (by decide)
  have hk : (fld 22 4 (o.pack 0x94400000)).toNat = 1 := hi_fld _ 0x94400000 22 _ _ _ g (by decide) (by decide)
  exact decode_of _ (o.pack 0x94400000) (by simp only [rawDecode, hm, raw25, hk, u]) (List.forall_mem_cons.2 ⟨show (o.pack 0x94400000).toNat / 2 ^ 7 % 2 ^ 6 = 0 from by omega, List.forall_mem_cons.2 ⟨show (o.pack 0x94400000).toNat / 2 ^ 0 % 2 ^ 7 = 0 from by omega, List.forall_mem_nil _⟩⟩) hw

theorem pxor (o : OpPR2) : Statement (.pxor o) := by
  intro _ hw
  have l0 := o.pd.isLt
  have l1 := o.pa.isLt
  have l2 := o.pb.isLt
  have e := OpPR2_val 0x94800000 o (by decide)
  obtain ⟨g, u⟩ := OpPR2_rt 0x94800000 o (by decide) (by decide)
  have hm : (fld 26 6 (o.pack 0x94800000)).toNat = 37 := hi_fld _ 0x94800000 22 _ _ _ g (by decide) (by decide)
  have hk : (fld 22 4 (o.pack 0x94800000)).toNat = 2 := hi_fld _ 0x94800000 22 _ _ _ g (by decide) (by decide)
  exact decode_of _ (o.pack 0x94800000) (by simp only [rawDecode, hm, raw25, hk, u]) (List.forall_mem_cons.2 ⟨show (o.pack 0x94800000).toNat / 2 ^ 7 % 2 ^ 6 = 0 from by omega, List.forall_mem_cons.2 ⟨show (o.pack 0x94800000).toNat / 2 ^ 0 % 2 ^ 7 = 0 from by omega, List.forall_mem_nil _⟩⟩) hw

theorem pandn (o : OpPR2) : Statement (.pandn o) := by
  intro _ hw
  have l0 := o.pd.isLt
  have l1 := o.pa.isLt
  have l2 := o.pb.isLt
  have e := OpPR2_val 0x94C00000 o (by decide)
  obtain ⟨g, u⟩ := OpPR2_rt 0x94C00000 o (by decide) (by decide)
  have hm : (fld 26 6 (o.pack 0x94C00000)).toNat = 37 := hi_fld _ 0x94C00000 22 _ _ _ g (by decide) (by decide)
  have hk : (fld 22 4 (o.pack 0x94C00000)).toNat = 3 := hi_fld _ 0x94C00000 22 _ _ _ g (by decide) (by decide)
  exact decode_of _ (o.pack 0x94C00000) (by simp only [rawDecode, hm, raw25, hk, u]) (List.forall_mem_cons.2 ⟨show (o.pack 0x94C00000).toNat / 2 ^ 7 % 2 ^ 6 = 0 from by omega, List.forall_mem_cons.2 ⟨show (o.pack 0x94C00000).toNat / 2 ^ 0 % 2 ^ 7 = 0 from by omega, List.forall_mem_nil _⟩⟩) hw

theorem pnot (o : OpPR1) : Statement (.pnot o) := by
  intro _ hw
  have l0 := o.pd.isLt
  have l1 := o.pa.isLt
  have e := OpPR1_val 0x95000000 o (by decide)
  obtain ⟨g, u⟩ := OpPR1_rt 0x95000000 o (by decide) (by decide)
  have hm : (fld 26 6 (o.pack 0x95000000)).toNat = 37 := hi_fld _ 0x95000000 22 _ _ _ g (by decide) (by decide)
  have hk : (fld 22 4 (o.pack 0x95000000)).toNat = 4 := hi_fld _ 0x95000000 22 _ _ _ g (by decide) (by decide)
  exact decode_of _ (o.pack 0x95000000) (by simp only [rawDecode, hm, raw25, hk, u]) (List.forall_mem_cons.2 ⟨show (o.pack 0x95000000).toNat / 2 ^ 13 % 2 ^ 3 = 0 from by omega, List.forall_mem_cons.2 ⟨show (o.pack 0x95000000).toNat / 2 ^ 7 % 2 ^ 6 = 0 from by omega, List.forall_mem_cons.2 ⟨show (o.pack 0x95000000).toNat / 2 ^ 0 % 2 ^ 7 = 0 from by omega, List.forall_mem_nil _⟩⟩⟩) hw

theorem pmov (o : OpPR1) : Statement (.pmov o) := by
  intro _ hw
  have l0 := o.pd.isLt
  have l1 := o.pa.isLt
  have e := OpPR1_val 0x95400000 o (by decide)
  obtain ⟨g, u⟩ := OpPR1_rt 0x95400000 o (by decide) (by decide)
  have hm : (fld 26 6 (o.pack 0x95400000)).toNat = 37 := hi_fld _ 0x95400000 22 _ _ _ g (by decide) (by decide)
  have hk : (fld 22 4 (o.pack 0x95400000)).toNat = 5 := hi_fld _ 0x95400000 22 _ _ _ g (by decide) (by decide)
  exact decode_of _ (o.pack 0x95400000) (by simp only [rawDecode, hm, raw25, hk, u]) (List.forall_mem_cons.2 ⟨show (o.pack 0x95400000).toNat / 2 ^ 13 % 2 ^ 3 = 0 from by omega, List.forall_mem_cons.2 ⟨show (o.pack 0x95400000).toNat / 2 ^ 7 % 2 ^ 6 = 0 from by omega, List.forall_mem_cons.2 ⟨show (o.pack 0x95400000).toNat / 2 ^ 0 % 2 ^ 7 = 0 from by omega, List.forall_mem_nil _⟩⟩⟩) hw

theorem pset (o : OpPSet) : Statement (.pset o) := by
  intro _ hw
  have l0 := o.pd.isLt
  have l1 := o.sa.isLt
  have e := OpPSet_val 0x95800000 o (by decide)
  obtain ⟨g, u⟩ := OpPSet_rt 0x95800000 o (by decide) (by decide)
  have hm : (fld 26 6 (o.pack 0x95800000)).toNat = 37 := hi_fld _ 0x95800000 22 _ _ _ g (by decide) (by decide)
  have hk : (fld 22 4 (o.pack 0x95800000)).toNat = 6 := hi_fld _ 0x95800000 22 _ _ _ g (by decide) (by decide)
  exact decode_of _ (o.pack 0x95800000) (by simp only [rawDecode, hm, raw25, hk, u]) (List.forall_mem_cons.2 ⟨show (o.pack 0x95800000).toNat / 2 ^ 16 % 2 ^ 3 = 0 from by omega, List.forall_mem_cons.2 ⟨show (o.pack 0x95800000).toNat / 2 ^ 13 % 2 ^ 3 = 0 from by omega, List.forall_mem_cons.2 ⟨show (o.pack 0x95800000).toNat / 2 ^ 0 % 2 ^ 7 = 0 from by omega, List.forall_mem_nil _⟩⟩⟩) hw

theorem pget (o : OpPGet) : Statement (.pget o) := by
  intro _ hw
  have l0 := o.pa.isLt
  have l1 := o.sd.isLt
  have e := OpPGet_val 0x95C00000 o (by decide)
  obtain ⟨g, u⟩ := OpPGet_rt 0x95C00000 o (by decide) (by decide)
  have hm : (fld 26 6 (o.pack 0x95C00000)).toNat = 37 := hi_fld _ 0x95C00000 19 _ _ _ g (by decide) (by decide)
  have hk : (fld 22 4 (o.pack 0x95C00000)).toNat = 7 := hi_fld _ 0x95C00000 19 _ _ _ g (by decide) (by decide)
  exact decode_of _ (o.pack 0x95C00000) (by simp only [rawDecode, hm, raw25, hk, u]) (List.forall_mem_cons.2 ⟨show (o.pack 0x95C00000).toNat / 2 ^ 19 % 2 ^ 3 = 0 from hi_zero _ 0x95C00000 19 _ _ g (by decide) (by decide), List.forall_mem_cons.2 ⟨show (o.pack 0x95C00000).toNat / 2 ^ 13 % 2 ^ 3 = 0 from by omega, List.forall_mem_cons.2 ⟨show (o.pack 0x95C00000).toNat / 2 ^ 0 % 2 ^ 7 = 0 from by omega, List.forall_mem_nil _⟩⟩⟩) hw

theorem pcnt (o : OpPGet) : Statement (.pcnt o) := by
  intro _ hw
  have l0 := o.pa.isLt
  have l1 := o.sd.isLt
  have e := OpPGet_val 0x96000000 o (by decide)
  obtain ⟨g, u⟩ := OpPGet_rt 0x96000000 o (by decide) (by decide)
  have hm : (fld 26 6 (o.pack 0x96000000)).toNat = 37 := hi_fld _ 0x96000000 19 _ _ _ g (by decide) (by decide)
  have hk : (fld 22 4 (o.pack 0x96000000)).toNat = 8 := hi_fld _ 0x96000000 19 _ _ _ g (by decide) (by decide)
  exact decode_of _ (o.pack 0x96000000) (by simp only [rawDecode, hm, raw25, hk, u]) (List.forall_mem_cons.2 ⟨show (o.pack 0x96000000).toNat / 2 ^ 19 % 2 ^ 3 = 0 from hi_zero _ 0x96000000 19 _ _ g (by decide) (by decide), List.forall_mem_cons.2 ⟨show (o.pack 0x96000000).toNat / 2 ^ 13 % 2 ^ 3 = 0 from by omega, List.forall_mem_cons.2 ⟨show (o.pack 0x96000000).toNat / 2 ^ 0 % 2 ^ 7 = 0 from by omega, List.forall_mem_nil _⟩⟩⟩) hw

theorem pfirst (o : OpPGet) : Statement (.pfirst o) := by
  intro _ hw
  have l0 := o.pa.isLt
  have l1 := o.sd.isLt
  have e := OpPGet_val 0x96400000 o (by decide)
  obtain ⟨g, u⟩ := OpPGet_rt 0x96400000 o (by decide) (by decide)
  have hm : (fld 26 6 (o.pack 0x96400000)).toNat = 37 := hi_fld _ 0x96400000 19 _ _ _ g (by decide) (by decide)
  have hk : (fld 22 4 (o.pack 0x96400000)).toNat = 9 := hi_fld _ 0x96400000 19 _ _ _ g (by decide) (by decide)
  exact decode_of _ (o.pack 0x96400000) (by simp only [rawDecode, hm, raw25, hk, u]) (List.forall_mem_cons.2 ⟨show (o.pack 0x96400000).toNat / 2 ^ 19 % 2 ^ 3 = 0 from hi_zero _ 0x96400000 19 _ _ g (by decide) (by decide), List.forall_mem_cons.2 ⟨show (o.pack 0x96400000).toNat / 2 ^ 13 % 2 ^ 3 = 0 from by omega, List.forall_mem_cons.2 ⟨show (o.pack 0x96400000).toNat / 2 ^ 0 % 2 ^ 7 = 0 from by omega, List.forall_mem_nil _⟩⟩⟩) hw

theorem qhelp (o : OpPR1) : Statement (.qhelp o) := by
  intro _ hw
  have l0 := o.pd.isLt
  have l1 := o.pa.isLt
  have e := OpPR1_val 0x96800000 o (by decide)
  obtain ⟨g, u⟩ := OpPR1_rt 0x96800000 o (by decide) (by decide)
  have hm : (fld 26 6 (o.pack 0x96800000)).toNat = 37 := hi_fld _ 0x96800000 22 _ _ _ g (by decide) (by decide)
  have hk : (fld 22 4 (o.pack 0x96800000)).toNat = 10 := hi_fld _ 0x96800000 22 _ _ _ g (by decide) (by decide)
  exact decode_of _ (o.pack 0x96800000) (by simp only [rawDecode, hm, raw25, hk, u]) (List.forall_mem_cons.2 ⟨show (o.pack 0x96800000).toNat / 2 ^ 13 % 2 ^ 3 = 0 from by omega, List.forall_mem_cons.2 ⟨show (o.pack 0x96800000).toNat / 2 ^ 7 % 2 ^ 6 = 0 from by omega, List.forall_mem_cons.2 ⟨show (o.pack 0x96800000).toNat / 2 ^ 0 % 2 ^ 7 = 0 from by omega, List.forall_mem_nil _⟩⟩⟩) hw

theorem vmov (o : OpVS1) : Statement (.vmov o) := by
  intro _ hw
  have l0 := o.ta.toNat_le
  have l1 := o.vd.isLt
  have l2 := o.va.isLt
  have e := OpVS1_val 0x98000000 o (by decide)
  obtain ⟨g, u⟩ := OpVS1_rt 0x98000000 o (by decide) (by decide)
  have hm : (fld 26 6 (o.pack 0x98000000)).toNat = 38 := hi_fld _ 0x98000000 23 _ _ _ g (by decide) (by decide)
  have hk : (fld 23 3 (o.pack 0x98000000)).toNat = 0 := hi_fld _ 0x98000000 23 _ _ _ g (by decide) (by decide)
  exact decode_of _ (o.pack 0x98000000) (by simp only [rawDecode, hm, raw26, hk, u]) (List.forall_mem_cons.2 ⟨show (o.pack 0x98000000).toNat / 2 ^ 6 % 2 ^ 2 = 0 from by omega, List.forall_mem_cons.2 ⟨show (o.pack 0x98000000).toNat / 2 ^ 0 % 2 ^ 6 = 0 from by omega, List.forall_mem_nil _⟩⟩) hw

theorem vmova (o : OpVS1) : Statement (.vmova o) := by
  intro _ hw
  have l0 := o.ta.toNat_le
  have l1 := o.vd.isLt
  have l2 := o.va.isLt
  have e := OpVS1_val 0x98800000 o (by decide)
  obtain ⟨g, u⟩ := OpVS1_rt 0x98800000 o (by decide) (by decide)
  have hm : (fld 26 6 (o.pack 0x98800000)).toNat = 38 := hi_fld _ 0x98800000 23 _ _ _ g (by decide) (by decide)
  have hk : (fld 23 3 (o.pack 0x98800000)).toNat = 1 := hi_fld _ 0x98800000 23 _ _ _ g (by decide) (by decide)
  exact decode_of _ (o.pack 0x98800000) (by simp only [rawDecode, hm, raw26, hk, u]) (List.forall_mem_cons.2 ⟨show (o.pack 0x98800000).toNat / 2 ^ 6 % 2 ^ 2 = 0 from by omega, List.forall_mem_cons.2 ⟨show (o.pack 0x98800000).toNat / 2 ^ 0 % 2 ^ 6 = 0 from by omega, List.forall_mem_nil _⟩⟩) hw

theorem vbcast (o : OpVBc) : Statement (.vbcast o) := by
  intro _ hw
  have l0 := o.vd.isLt
  have l1 := o.sb.isLt
  have e := OpVBc_val 0x99000000 o (by decide)
  obtain ⟨g, u⟩ := OpVBc_rt 0x99000000 o (by decide) (by decide)
  have hm : (fld 26 6 (o.pack 0x99000000)).toNat = 38 := hi_fld _ 0x99000000 22 _ _ _ g (by decide) (by decide)
  have hk : (fld 23 3 (o.pack 0x99000000)).toNat = 2 := hi_fld _ 0x99000000 22 _ _ _ g (by decide) (by decide)
  exact decode_of _ (o.pack 0x99000000) (by simp only [rawDecode, hm, raw26, hk, u]) (List.forall_mem_cons.2 ⟨show (o.pack 0x99000000).toNat / 2 ^ 22 % 2 ^ 1 = 0 from hi_zero _ 0x99000000 22 _ _ g (by decide) (by decide), List.forall_mem_cons.2 ⟨show (o.pack 0x99000000).toNat / 2 ^ 8 % 2 ^ 7 = 0 from by omega, List.forall_mem_cons.2 ⟨show (o.pack 0x99000000).toNat / 2 ^ 6 % 2 ^ 2 = 0 from by omega, List.forall_mem_nil _⟩⟩⟩) hw

theorem viota (o : OpVIota) : Statement (.viota o) := by
  intro _ hw
  have l0 := o.vd.isLt
  have l1 := o.k.isLt
  have l2 := o.sb.isLt
  have e := OpVIota_val 0x99800000 o (by decide)
  obtain ⟨g, u⟩ := OpVIota_rt 0x99800000 o (by decide) (by decide)
  have hm : (fld 26 6 (o.pack 0x99800000)).toNat = 38 := hi_fld _ 0x99800000 22 _ _ _ g (by decide) (by decide)
  have hk : (fld 23 3 (o.pack 0x99800000)).toNat = 3 := hi_fld _ 0x99800000 22 _ _ _ g (by decide) (by decide)
  exact decode_of _ (o.pack 0x99800000) (by simp only [rawDecode, hm, raw26, hk, u]) (List.forall_mem_cons.2 ⟨show (o.pack 0x99800000).toNat / 2 ^ 22 % 2 ^ 1 = 0 from hi_zero _ 0x99800000 22 _ _ g (by decide) (by decide), List.forall_mem_cons.2 ⟨show (o.pack 0x99800000).toNat / 2 ^ 6 % 2 ^ 2 = 0 from by omega, List.forall_mem_nil _⟩⟩) hw

theorem vshape (o : OpVSRed) : Statement (.vshape o) := by
  intro _ hw
  have l0 := o.ta.toNat_le
  have l1 := o.va.isLt
  have l2 := o.sb.isLt
  have e := OpVSRed_val 0x9A000000 o (by decide)
  obtain ⟨g, u⟩ := OpVSRed_rt 0x9A000000 o (by decide) (by decide)
  have hm : (fld 26 6 (o.pack 0x9A000000)).toNat = 38 := hi_fld _ 0x9A000000 23 _ _ _ g (by decide) (by decide)
  have hk : (fld 23 3 (o.pack 0x9A000000)).toNat = 4 := hi_fld _ 0x9A000000 23 _ _ _ g (by decide) (by decide)
  exact decode_of _ (o.pack 0x9A000000) (by simp only [rawDecode, hm, raw26, hk, u]) (List.forall_mem_cons.2 ⟨show (o.pack 0x9A000000).toNat / 2 ^ 15 % 2 ^ 7 = 0 from by omega, List.forall_mem_cons.2 ⟨show (o.pack 0x9A000000).toNat / 2 ^ 6 % 2 ^ 2 = 0 from by omega, List.forall_mem_nil _⟩⟩) hw

theorem vgen (o : OpVS1) : Statement (.vgen o) := by
  intro _ hw
  have l0 := o.ta.toNat_le
  have l1 := o.vd.isLt
  have l2 := o.va.isLt
  have e := OpVS1_val 0x9A800000 o (by decide)
  obtain ⟨g, u⟩ := OpVS1_rt 0x9A800000 o (by decide) (by decide)
  have hm : (fld 26 6 (o.pack 0x9A800000)).toNat = 38 := hi_fld _ 0x9A800000 23 _ _ _ g (by decide) (by decide)
  have hk : (fld 23 3 (o.pack 0x9A800000)).toNat = 5 := hi_fld _ 0x9A800000 23 _ _ _ g (by decide) (by decide)
  exact decode_of _ (o.pack 0x9A800000) (by simp only [rawDecode, hm, raw26, hk, u]) (List.forall_mem_cons.2 ⟨show (o.pack 0x9A800000).toNat / 2 ^ 6 % 2 ^ 2 = 0 from by omega, List.forall_mem_cons.2 ⟨show (o.pack 0x9A800000).toNat / 2 ^ 0 % 2 ^ 6 = 0 from by omega, List.forall_mem_nil _⟩⟩) hw

theorem vext (o : OpVExt) : Statement (.vext o) := by
  intro _ hw
  have l0 := o.ta.toNat_le
  have l1 := o.vd.isLt
  have l2 := o.va.isLt
  have l3 := o.sb.isLt
  have e := OpVExt_val 0x9B000000 o (by decide)
  obtain ⟨g, u⟩ := OpVExt_rt 0x9B000000 o (by decide) (by decide)
  have hm : (fld 26 6 (o.pack 0x9B000000)).toNat = 38 := hi_fld _ 0x9B000000 23 _ _ _ g (by decide) (by decide)
  have hk : (fld 23 3 (o.pack 0x9B000000)).toNat = 6 := hi_fld _ 0x9B000000 23 _ _ _ g (by decide) (by decide)
  exact decode_of _ (o.pack 0x9B000000) (by simp only [rawDecode, hm, raw26, hk, u]) (List.forall_mem_cons.2 ⟨show (o.pack 0x9B000000).toNat / 2 ^ 6 % 2 ^ 2 = 0 from by omega, List.forall_mem_nil _⟩) hw

theorem vldw (o : OpVM) : Statement (.vldw o) := by
  intro _ hw
  obtain ⟨g, u⟩ := OpVM_rt 0x9C000000 o (by decide) (by decide)
  have hm : (fld 26 6 (o.pack 0x9C000000)).toNat = 39 := hi_fld _ 0x9C000000 23 _ _ _ g (by decide) (by decide)
  have hk : (fld 23 3 (o.pack 0x9C000000)).toNat = 0 := hi_fld _ 0x9C000000 23 _ _ _ g (by decide) (by decide)
  exact decode_of _ (o.pack 0x9C000000) (by simp only [rawDecode, hm, raw27, hk, u]) (fun z hz => by cases hz) hw

theorem vldh (o : OpVM) : Statement (.vldh o) := by
  intro _ hw
  obtain ⟨g, u⟩ := OpVM_rt 0x9C800000 o (by decide) (by decide)
  have hm : (fld 26 6 (o.pack 0x9C800000)).toNat = 39 := hi_fld _ 0x9C800000 23 _ _ _ g (by decide) (by decide)
  have hk : (fld 23 3 (o.pack 0x9C800000)).toNat = 1 := hi_fld _ 0x9C800000 23 _ _ _ g (by decide) (by decide)
  exact decode_of _ (o.pack 0x9C800000) (by simp only [rawDecode, hm, raw27, hk, u]) (fun z hz => by cases hz) hw

theorem vldhz (o : OpVM) : Statement (.vldhz o) := by
  intro _ hw
  obtain ⟨g, u⟩ := OpVM_rt 0x9D000000 o (by decide) (by decide)
  have hm : (fld 26 6 (o.pack 0x9D000000)).toNat = 39 := hi_fld _ 0x9D000000 23 _ _ _ g (by decide) (by decide)
  have hk : (fld 23 3 (o.pack 0x9D000000)).toNat = 2 := hi_fld _ 0x9D000000 23 _ _ _ g (by decide) (by decide)
  exact decode_of _ (o.pack 0x9D000000) (by simp only [rawDecode, hm, raw27, hk, u]) (fun z hz => by cases hz) hw

theorem vldb (o : OpVM) : Statement (.vldb o) := by
  intro _ hw
  obtain ⟨g, u⟩ := OpVM_rt 0x9D800000 o (by decide) (by decide)
  have hm : (fld 26 6 (o.pack 0x9D800000)).toNat = 39 := hi_fld _ 0x9D800000 23 _ _ _ g (by decide) (by decide)
  have hk : (fld 23 3 (o.pack 0x9D800000)).toNat = 3 := hi_fld _ 0x9D800000 23 _ _ _ g (by decide) (by decide)
  exact decode_of _ (o.pack 0x9D800000) (by simp only [rawDecode, hm, raw27, hk, u]) (fun z hz => by cases hz) hw

theorem vldbz (o : OpVM) : Statement (.vldbz o) := by
  intro _ hw
  obtain ⟨g, u⟩ := OpVM_rt 0x9E000000 o (by decide) (by decide)
  have hm : (fld 26 6 (o.pack 0x9E000000)).toNat = 39 := hi_fld _ 0x9E000000 23 _ _ _ g (by decide) (by decide)
  have hk : (fld 23 3 (o.pack 0x9E000000)).toNat = 4 := hi_fld _ 0x9E000000 23 _ _ _ g (by decide) (by decide)
  exact decode_of _ (o.pack 0x9E000000) (by simp only [rawDecode, hm, raw27, hk, u]) (fun z hz => by cases hz) hw

theorem vldu (o : OpVLdu) : Statement (.vldu o) := by
  intro _ hw
  have l0 := o.vd.isLt
  have l1 := o.sb.isLt
  have e := OpVLdu_val 0x9E800000 o (by decide)
  obtain ⟨g, u⟩ := OpVLdu_rt 0x9E800000 o (by decide) (by decide)
  have hm : (fld 26 6 (o.pack 0x9E800000)).toNat = 39 := hi_fld _ 0x9E800000 23 _ _ _ g (by decide) (by decide)
  have hk : (fld 23 3 (o.pack 0x9E800000)).toNat = 5 := hi_fld _ 0x9E800000 23 _ _ _ g (by decide) (by decide)
  exact decode_of _ (o.pack 0x9E800000) (by simp only [rawDecode, hm, raw27, hk, u]) (List.forall_mem_cons.2 ⟨show (o.pack 0x9E800000).toNat / 2 ^ 3 % 2 ^ 7 = 0 from by omega, List.forall_mem_cons.2 ⟨show (o.pack 0x9E800000).toNat / 2 ^ 2 % 2 ^ 1 = 0 from by omega, List.forall_mem_cons.2 ⟨show (o.pack 0x9E800000).toNat / 2 ^ 0 % 2 ^ 2 = 0 from by omega, List.forall_mem_nil _⟩⟩⟩) hw

theorem vldq (o : OpVM) : Statement (.vldq o) := by
  intro _ hw
  obtain ⟨g, u⟩ := OpVM_rt 0x9F000000 o (by decide) (by decide)
  have hm : (fld 26 6 (o.pack 0x9F000000)).toNat = 39 := hi_fld _ 0x9F000000 23 _ _ _ g (by decide) (by decide)
  have hk : (fld 23 3 (o.pack 0x9F000000)).toNat = 6 := hi_fld _ 0x9F000000 23 _ _ _ g (by decide) (by decide)
  exact decode_of _ (o.pack 0x9F000000) (by simp only [rawDecode, hm, raw27, hk, u]) (fun z hz => by cases hz) hw

theorem vstw (o : OpVM) : Statement (.vstw o) := by
  intro _ hw
  obtain ⟨g, u⟩ := OpVM_rt 0xA0000000 o (by decide) (by decide)
  have hm : (fld 26 6 (o.pack 0xA0000000)).toNat = 40 := hi_fld _ 0xA0000000 23 _ _ _ g (by decide) (by decide)
  have hk : (fld 23 3 (o.pack 0xA0000000)).toNat = 0 := hi_fld _ 0xA0000000 23 _ _ _ g (by decide) (by decide)
  exact decode_of _ (o.pack 0xA0000000) (by simp only [rawDecode, hm, raw28, hk, u]) (fun z hz => by cases hz) hw

theorem vsth (o : OpVM) : Statement (.vsth o) := by
  intro _ hw
  obtain ⟨g, u⟩ := OpVM_rt 0xA0800000 o (by decide) (by decide)
  have hm : (fld 26 6 (o.pack 0xA0800000)).toNat = 40 := hi_fld _ 0xA0800000 23 _ _ _ g (by decide) (by decide)
  have hk : (fld 23 3 (o.pack 0xA0800000)).toNat = 1 := hi_fld _ 0xA0800000 23 _ _ _ g (by decide) (by decide)
  exact decode_of _ (o.pack 0xA0800000) (by simp only [rawDecode, hm, raw28, hk, u]) (fun z hz => by cases hz) hw

theorem vstb (o : OpVM) : Statement (.vstb o) := by
  intro _ hw
  obtain ⟨g, u⟩ := OpVM_rt 0xA1000000 o (by decide) (by decide)
  have hm : (fld 26 6 (o.pack 0xA1000000)).toNat = 40 := hi_fld _ 0xA1000000 23 _ _ _ g (by decide) (by decide)
  have hk : (fld 23 3 (o.pack 0xA1000000)).toNat = 2 := hi_fld _ 0xA1000000 23 _ _ _ g (by decide) (by decide)
  exact decode_of _ (o.pack 0xA1000000) (by simp only [rawDecode, hm, raw28, hk, u]) (fun z hz => by cases hz) hw

theorem vstq (o : OpVM) : Statement (.vstq o) := by
  intro _ hw
  obtain ⟨g, u⟩ := OpVM_rt 0xA1800000 o (by decide) (by decide)
  have hm : (fld 26 6 (o.pack 0xA1800000)).toNat = 40 := hi_fld _ 0xA1800000 23 _ _ _ g (by decide) (by decide)
  have hk : (fld 23 3 (o.pack 0xA1800000)).toNat = 3 := hi_fld _ 0xA1800000 23 _ _ _ g (by decide) (by decide)
  exact decode_of _ (o.pack 0xA1800000) (by simp only [rawDecode, hm, raw28, hk, u]) (fun z hz => by cases hz) hw

theorem vatomAdd (o : OpAT) : Statement (.vatomAdd o) := by
  intro _ hw
  obtain ⟨g, u⟩ := OpAT_rt 0xA4000000 o (by decide) (by decide)
  have hm : (fld 26 6 (o.pack 0xA4000000)).toNat = 41 := hi_fld _ 0xA4000000 22 _ _ _ g (by decide) (by decide)
  have hk : (fld 22 4 (o.pack 0xA4000000)).toNat = 0 := hi_fld _ 0xA4000000 22 _ _ _ g (by decide) (by decide)
  exact decode_of _ (o.pack 0xA4000000) (by simp only [rawDecode, hm, raw29, hk, u]) (fun z hz => by cases hz) hw

theorem vatomAnd (o : OpAT) : Statement (.vatomAnd o) := by
  intro _ hw
  obtain ⟨g, u⟩ := OpAT_rt 0xA4400000 o (by decide) (by decide)
  have hm : (fld 26 6 (o.pack 0xA4400000)).toNat = 41 := hi_fld _ 0xA4400000 22 _ _ _ g (by decide) (by decide)
  have hk : (fld 22 4 (o.pack 0xA4400000)).toNat = 1 := hi_fld _ 0xA4400000 22 _ _ _ g (by decide) (by decide)
  exact decode_of _ (o.pack 0xA4400000) (by simp only [rawDecode, hm, raw29, hk, u]) (fun z hz => by cases hz) hw

theorem vatomOr (o : OpAT) : Statement (.vatomOr o) := by
  intro _ hw
  obtain ⟨g, u⟩ := OpAT_rt 0xA4800000 o (by decide) (by decide)
  have hm : (fld 26 6 (o.pack 0xA4800000)).toNat = 41 := hi_fld _ 0xA4800000 22 _ _ _ g (by decide) (by decide)
  have hk : (fld 22 4 (o.pack 0xA4800000)).toNat = 2 := hi_fld _ 0xA4800000 22 _ _ _ g (by decide) (by decide)
  exact decode_of _ (o.pack 0xA4800000) (by simp only [rawDecode, hm, raw29, hk, u]) (fun z hz => by cases hz) hw

theorem vatomXor (o : OpAT) : Statement (.vatomXor o) := by
  intro _ hw
  obtain ⟨g, u⟩ := OpAT_rt 0xA4C00000 o (by decide) (by decide)
  have hm : (fld 26 6 (o.pack 0xA4C00000)).toNat = 41 := hi_fld _ 0xA4C00000 22 _ _ _ g (by decide) (by decide)
  have hk : (fld 22 4 (o.pack 0xA4C00000)).toNat = 3 := hi_fld _ 0xA4C00000 22 _ _ _ g (by decide) (by decide)
  exact decode_of _ (o.pack 0xA4C00000) (by simp only [rawDecode, hm, raw29, hk, u]) (fun z hz => by cases hz) hw

theorem vatomMin (o : OpAT) : Statement (.vatomMin o) := by
  intro _ hw
  obtain ⟨g, u⟩ := OpAT_rt 0xA5000000 o (by decide) (by decide)
  have hm : (fld 26 6 (o.pack 0xA5000000)).toNat = 41 := hi_fld _ 0xA5000000 22 _ _ _ g (by decide) (by decide)
  have hk : (fld 22 4 (o.pack 0xA5000000)).toNat = 4 := hi_fld _ 0xA5000000 22 _ _ _ g (by decide) (by decide)
  exact decode_of _ (o.pack 0xA5000000) (by simp only [rawDecode, hm, raw29, hk, u]) (fun z hz => by cases hz) hw

theorem vatomMax (o : OpAT) : Statement (.vatomMax o) := by
  intro _ hw
  obtain ⟨g, u⟩ := OpAT_rt 0xA5400000 o (by decide) (by decide)
  have hm : (fld 26 6 (o.pack 0xA5400000)).toNat = 41 := hi_fld _ 0xA5400000 22 _ _ _ g (by decide) (by decide)
  have hk : (fld 22 4 (o.pack 0xA5400000)).toNat = 5 := hi_fld _ 0xA5400000 22 _ _ _ g (by decide) (by decide)
  exact decode_of _ (o.pack 0xA5400000) (by simp only [rawDecode, hm, raw29, hk, u]) (fun z hz => by cases hz) hw

theorem vatomMinz (o : OpAT) : Statement (.vatomMinz o) := by
  intro _ hw
  obtain ⟨g, u⟩ := OpAT_rt 0xA5800000 o (by decide) (by decide)
  have hm : (fld 26 6 (o.pack 0xA5800000)).toNat = 41 := hi_fld _ 0xA5800000 22 _ _ _ g (by decide) (by decide)
  have hk : (fld 22 4 (o.pack 0xA5800000)).toNat = 6 := hi_fld _ 0xA5800000 22 _ _ _ g (by decide) (by decide)
  exact decode_of _ (o.pack 0xA5800000) (by simp only [rawDecode, hm, raw29, hk, u]) (fun z hz => by cases hz) hw

theorem vatomMaxz (o : OpAT) : Statement (.vatomMaxz o) := by
  intro _ hw
  obtain ⟨g, u⟩ := OpAT_rt 0xA5C00000 o (by decide) (by decide)
  have hm : (fld 26 6 (o.pack 0xA5C00000)).toNat = 41 := hi_fld _ 0xA5C00000 22 _ _ _ g (by decide) (by decide)
  have hk : (fld 22 4 (o.pack 0xA5C00000)).toNat = 7 := hi_fld _ 0xA5C00000 22 _ _ _ g (by decide) (by decide)
  exact decode_of _ (o.pack 0xA5C00000) (by simp only [rawDecode, hm, raw29, hk, u]) (fun z hz => by cases hz) hw

theorem vatomXchg (o : OpAT) : Statement (.vatomXchg o) := by
  intro _ hw
  obtain ⟨g, u⟩ := OpAT_rt 0xA6000000 o (by decide) (by decide)
  have hm : (fld 26 6 (o.pack 0xA6000000)).toNat = 41 := hi_fld _ 0xA6000000 22 _ _ _ g (by decide) (by decide)
  have hk : (fld 22 4 (o.pack 0xA6000000)).toNat = 8 := hi_fld _ 0xA6000000 22 _ _ _ g (by decide) (by decide)
  exact decode_of _ (o.pack 0xA6000000) (by simp only [rawDecode, hm, raw29, hk, u]) (fun z hz => by cases hz) hw

theorem vatomCas (o : OpAT) : Statement (.vatomCas o) := by
  intro _ hw
  obtain ⟨g, u⟩ := OpAT_rt 0xA6400000 o (by decide) (by decide)
  have hm : (fld 26 6 (o.pack 0xA6400000)).toNat = 41 := hi_fld _ 0xA6400000 22 _ _ _ g (by decide) (by decide)
  have hk : (fld 22 4 (o.pack 0xA6400000)).toNat = 9 := hi_fld _ 0xA6400000 22 _ _ _ g (by decide) (by decide)
  exact decode_of _ (o.pack 0xA6400000) (by simp only [rawDecode, hm, raw29, hk, u]) (fun z hz => by cases hz) hw

theorem vatomFadd (o : OpAT) : Statement (.vatomFadd o) := by
  intro _ hw
  obtain ⟨g, u⟩ := OpAT_rt 0xA6800000 o (by decide) (by decide)
  have hm : (fld 26 6 (o.pack 0xA6800000)).toNat = 41 := hi_fld _ 0xA6800000 22 _ _ _ g (by decide) (by decide)
  have hk : (fld 22 4 (o.pack 0xA6800000)).toNat = 10 := hi_fld _ 0xA6800000 22 _ _ _ g (by decide) (by decide)
  exact decode_of _ (o.pack 0xA6800000) (by simp only [rawDecode, hm, raw29, hk, u]) (fun z hz => by cases hz) hw

theorem vatomLd (o : OpAT) : Statement (.vatomLd o) := by
  intro _ hw
  obtain ⟨g, u⟩ := OpAT_rt 0xA6C00000 o (by decide) (by decide)
  have hm : (fld 26 6 (o.pack 0xA6C00000)).toNat = 41 := hi_fld _ 0xA6C00000 22 _ _ _ g (by decide) (by decide)
  have hk : (fld 22 4 (o.pack 0xA6C00000)).toNat = 11 := hi_fld _ 0xA6C00000 22 _ _ _ g (by decide) (by decide)
  exact decode_of _ (o.pack 0xA6C00000) (by simp only [rawDecode, hm, raw29, hk, u]) (fun z hz => by cases hz) hw

theorem vatomSt (o : OpAT) : Statement (.vatomSt o) := by
  intro _ hw
  obtain ⟨g, u⟩ := OpAT_rt 0xA7000000 o (by decide) (by decide)
  have hm : (fld 26 6 (o.pack 0xA7000000)).toNat = 41 := hi_fld _ 0xA7000000 22 _ _ _ g (by decide) (by decide)
  have hk : (fld 22 4 (o.pack 0xA7000000)).toNat = 12 := hi_fld _ 0xA7000000 22 _ _ _ g (by decide) (by decide)
  exact decode_of _ (o.pack 0xA7000000) (by simp only [rawDecode, hm, raw29, hk, u]) (fun z hz => by cases hz) hw

theorem vlda (o : OpVO) : Statement (.vlda o) := by
  intro _ hw
  obtain ⟨g, u⟩ := OpVO_rt 0xA8000000 o (by decide) (by decide)
  have hm : (fld 26 6 (o.pack 0xA8000000)).toNat = 42 := hi_fld _ 0xA8000000 23 _ _ _ g (by decide) (by decide)
  have hk : (fld 23 3 (o.pack 0xA8000000)).toNat = 0 := hi_fld _ 0xA8000000 23 _ _ _ g (by decide) (by decide)
  exact decode_of _ (o.pack 0xA8000000) (by simp only [rawDecode, hm, raw2A, hk, u]) (fun z hz => by cases hz) hw

theorem vstl (o : OpVO) : Statement (.vstl o) := by
  intro _ hw
  obtain ⟨g, u⟩ := OpVO_rt 0xA8800000 o (by decide) (by decide)
  have hm : (fld 26 6 (o.pack 0xA8800000)).toNat = 42 := hi_fld _ 0xA8800000 23 _ _ _ g (by decide) (by decide)
  have hk : (fld 23 3 (o.pack 0xA8800000)).toNat = 1 := hi_fld _ 0xA8800000 23 _ _ _ g (by decide) (by decide)
  exact decode_of _ (o.pack 0xA8800000) (by simp only [rawDecode, hm, raw2A, hk, u]) (fun z hz => by cases hz) hw

theorem fence (o : OpFence) : Statement (.fence o) := by
  intro _ hw
  obtain ⟨g, u⟩ := OpFence_rt 0xAC000000 o (by decide) (by decide)
  have hm : (fld 26 6 (o.pack 0xAC000000)).toNat = 43 := hi_fld _ 0xAC000000 5 _ _ _ g (by decide) (by decide)
  have hk : (fld 20 6 (o.pack 0xAC000000)).toNat = 0 := hi_fld _ 0xAC000000 5 _ _ _ g (by decide) (by decide)
  exact decode_of _ (o.pack 0xAC000000) (by simp only [rawDecode, hm, raw2B, hk, u]) (List.forall_mem_cons.2 ⟨show (o.pack 0xAC000000).toNat / 2 ^ 5 % 2 ^ 15 = 0 from hi_zero _ 0xAC000000 5 _ _ g (by decide) (by decide), List.forall_mem_nil _⟩) hw

theorem bar (o : OpBar) : Statement (.bar o) := by
  intro _ hw
  obtain ⟨g, u⟩ := OpBar_rt 0xAC100000 o (by decide) (by decide)
  have hm : (fld 26 6 (o.pack 0xAC100000)).toNat = 43 := hi_fld _ 0xAC100000 4 _ _ _ g (by decide) (by decide)
  have hk : (fld 20 6 (o.pack 0xAC100000)).toNat = 1 := hi_fld _ 0xAC100000 4 _ _ _ g (by decide) (by decide)
  exact decode_of _ (o.pack 0xAC100000) (by simp only [rawDecode, hm, raw2B, hk, u]) (List.forall_mem_cons.2 ⟨show (o.pack 0xAC100000).toNat / 2 ^ 4 % 2 ^ 16 = 0 from hi_zero _ 0xAC100000 4 _ _ g (by decide) (by decide), List.forall_mem_nil _⟩) hw

theorem bara (o : OpBar) : Statement (.bara o) := by
  intro _ hw
  obtain ⟨g, u⟩ := OpBar_rt 0xAC200000 o (by decide) (by decide)
  have hm : (fld 26 6 (o.pack 0xAC200000)).toNat = 43 := hi_fld _ 0xAC200000 4 _ _ _ g (by decide) (by decide)
  have hk : (fld 20 6 (o.pack 0xAC200000)).toNat = 2 := hi_fld _ 0xAC200000 4 _ _ _ g (by decide) (by decide)
  exact decode_of _ (o.pack 0xAC200000) (by simp only [rawDecode, hm, raw2B, hk, u]) (List.forall_mem_cons.2 ⟨show (o.pack 0xAC200000).toNat / 2 ^ 4 % 2 ^ 16 = 0 from hi_zero _ 0xAC200000 4 _ _ g (by decide) (by decide), List.forall_mem_nil _⟩) hw

theorem barw (o : OpBar) : Statement (.barw o) := by
  intro _ hw
  obtain ⟨g, u⟩ := OpBar_rt 0xAC300000 o (by decide) (by decide)
  have hm : (fld 26 6 (o.pack 0xAC300000)).toNat = 43 := hi_fld _ 0xAC300000 4 _ _ _ g (by decide) (by decide)
  have hk : (fld 20 6 (o.pack 0xAC300000)).toNat = 3 := hi_fld _ 0xAC300000 4 _ _ _ g (by decide) (by decide)
  exact decode_of _ (o.pack 0xAC300000) (by simp only [rawDecode, hm, raw2B, hk, u]) (List.forall_mem_cons.2 ⟨show (o.pack 0xAC300000).toNat / 2 ^ 4 % 2 ^ 16 = 0 from hi_zero _ 0xAC300000 4 _ _ g (by decide) (by decide), List.forall_mem_nil _⟩) hw

theorem barinit (o : OpBarInit) : Statement (.barinit o) := by
  intro _ hw
  obtain ⟨g, u⟩ := OpBarInit_rt 0xAC400000 o (by decide) (by decide)
  have hm : (fld 26 6 (o.pack 0xAC400000)).toNat = 43 := hi_fld _ 0xAC400000 10 _ _ _ g (by decide) (by decide)
  have hk : (fld 20 6 (o.pack 0xAC400000)).toNat = 4 := hi_fld _ 0xAC400000 10 _ _ _ g (by decide) (by decide)
  exact decode_of _ (o.pack 0xAC400000) (by simp only [rawDecode, hm, raw2B, hk, u]) (List.forall_mem_cons.2 ⟨show (o.pack 0xAC400000).toNat / 2 ^ 10 % 2 ^ 10 = 0 from hi_zero _ 0xAC400000 10 _ _ g (by decide) (by decide), List.forall_mem_nil _⟩) hw

theorem cjoin (o : OpCJoin) : Statement (.cjoin o) := by
  intro _ hw
  obtain ⟨g, u⟩ := OpCJoin_rt 0xAC500000 o (by decide) (by decide)
  have hm : (fld 26 6 (o.pack 0xAC500000)).toNat = 43 := hi_fld _ 0xAC500000 14 _ _ _ g (by decide) (by decide)
  have hk : (fld 20 6 (o.pack 0xAC500000)).toNat = 5 := hi_fld _ 0xAC500000 14 _ _ _ g (by decide) (by decide)
  exact decode_of _ (o.pack 0xAC500000) (by simp only [rawDecode, hm, raw2B, hk, u]) (List.forall_mem_cons.2 ⟨show (o.pack 0xAC500000).toNat / 2 ^ 14 % 2 ^ 6 = 0 from hi_zero _ 0xAC500000 14 _ _ g (by decide) (by decide), List.forall_mem_nil _⟩) hw

theorem cleave : Statement .cleave := fun _ hw => decode_of _ _ (by decide) (by decide) hw

theorem sopen (o : OpSOpen) : Statement (.sopen o) := by
  intro _ hw
  obtain ⟨g, u⟩ := OpSOpen_rt 0xB0000000 o (by decide) (by decide)
  have hm : (fld 26 6 (o.pack 0xB0000000)).toNat = 44 := hi_fld _ 0xB0000000 13 _ _ _ g (by decide) (by decide)
  have hk : (fld 20 6 (o.pack 0xB0000000)).toNat = 0 := hi_fld _ 0xB0000000 13 _ _ _ g (by decide) (by decide)
  exact decode_of _ (o.pack 0xB0000000) (by simp only [rawDecode, hm, raw2C, hk, u]) (List.forall_mem_cons.2 ⟨show (o.pack 0xB0000000).toNat / 2 ^ 13 % 2 ^ 7 = 0 from hi_zero _ 0xB0000000 13 _ _ g (by decide) (by decide), List.forall_mem_nil _⟩) hw

theorem sclose (o : OpPort) : Statement (.sclose o) := by
  intro _ hw
  obtain ⟨g, u⟩ := OpPort_rt 0xB0100000 o (by decide) (by decide)
  have hm : (fld 26 6 (o.pack 0xB0100000)).toNat = 44 := hi_fld _ 0xB0100000 7 _ _ _ g (by decide) (by decide)
  have hk : (fld 20 6 (o.pack 0xB0100000)).toNat = 1 := hi_fld _ 0xB0100000 7 _ _ _ g (by decide) (by decide)
  exact decode_of _ (o.pack 0xB0100000) (by simp only [rawDecode, hm, raw2C, hk, u]) (List.forall_mem_cons.2 ⟨show (o.pack 0xB0100000).toNat / 2 ^ 7 % 2 ^ 13 = 0 from hi_zero _ 0xB0100000 7 _ _ g (by decide) (by decide), List.forall_mem_nil _⟩) hw

theorem sdrain (o : OpPort) : Statement (.sdrain o) := by
  intro _ hw
  obtain ⟨g, u⟩ := OpPort_rt 0xB0200000 o (by decide) (by decide)
  have hm : (fld 26 6 (o.pack 0xB0200000)).toNat = 44 := hi_fld _ 0xB0200000 7 _ _ _ g (by decide) (by decide)
  have hk : (fld 20 6 (o.pack 0xB0200000)).toNat = 2 := hi_fld _ 0xB0200000 7 _ _ _ g (by decide) (by decide)
  exact decode_of _ (o.pack 0xB0200000) (by simp only [rawDecode, hm, raw2C, hk, u]) (List.forall_mem_cons.2 ⟨show (o.pack 0xB0200000).toNat / 2 ^ 7 % 2 ^ 13 = 0 from hi_zero _ 0xB0200000 7 _ _ g (by decide) (by decide), List.forall_mem_nil _⟩) hw

theorem bclose (o : OpBClose) : Statement (.bclose o) := by
  intro _ hw
  obtain ⟨g, u⟩ := OpBClose_rt 0xB4000000 o (by decide) (by decide)
  have hm : (fld 26 6 (o.pack 0xB4000000)).toNat = 45 := hi_fld _ 0xB4000000 8 _ _ _ g (by decide) (by decide)
  have hk : (fld 20 6 (o.pack 0xB4000000)).toNat = 0 := hi_fld _ 0xB4000000 8 _ _ _ g (by decide) (by decide)
  exact decode_of _ (o.pack 0xB4000000) (by simp only [rawDecode, hm, raw2D, hk, u]) (List.forall_mem_cons.2 ⟨show (o.pack 0xB4000000).toNat / 2 ^ 8 % 2 ^ 12 = 0 from hi_zero _ 0xB4000000 8 _ _ g (by decide) (by decide), List.forall_mem_nil _⟩) hw

theorem bwait (o : OpDA) : Statement (.bwait o) := by
  intro _ hw
  obtain ⟨g, u⟩ := OpDA_rt 0xB4100000 o (by decide) (by decide)
  have hm : (fld 26 6 (o.pack 0xB4100000)).toNat = 45 := hi_fld _ 0xB4100000 12 _ _ _ g (by decide) (by decide)
  have hk : (fld 20 6 (o.pack 0xB4100000)).toNat = 1 := hi_fld _ 0xB4100000 12 _ _ _ g (by decide) (by decide)
  exact decode_of _ (o.pack 0xB4100000) (by simp only [rawDecode, hm, raw2D, hk, u]) (List.forall_mem_cons.2 ⟨show (o.pack 0xB4100000).toNat / 2 ^ 12 % 2 ^ 8 = 0 from hi_zero _ 0xB4100000 12 _ _ g (by decide) (by decide), List.forall_mem_nil _⟩) hw

theorem tbinit (o : OpAB) : Statement (.tbinit o) := by
  intro _ hw
  obtain ⟨g, u⟩ := OpAB_rt 0xB4200000 o (by decide) (by decide)
  have hm : (fld 26 6 (o.pack 0xB4200000)).toNat = 45 := hi_fld _ 0xB4200000 12 _ _ _ g (by decide) (by decide)
  have hk : (fld 20 6 (o.pack 0xB4200000)).toNat = 2 := hi_fld _ 0xB4200000 12 _ _ _ g (by decide) (by decide)
  exact decode_of _ (o.pack 0xB4200000) (by simp only [rawDecode, hm, raw2D, hk, u]) (List.forall_mem_cons.2 ⟨show (o.pack 0xB4200000).toNat / 2 ^ 12 % 2 ^ 8 = 0 from hi_zero _ 0xB4200000 12 _ _ g (by decide) (by decide), List.forall_mem_nil _⟩) hw

theorem tbarr (o : OpTBArr) : Statement (.tbarr o) := by
  intro _ hw
  obtain ⟨g, u⟩ := OpTBArr_rt 0xB4300000 o (by decide) (by decide)
  have hm : (fld 26 6 (o.pack 0xB4300000)).toNat = 45 := hi_fld _ 0xB4300000 9 _ _ _ g (by decide) (by decide)
  have hk : (fld 20 6 (o.pack 0xB4300000)).toNat = 3 := hi_fld _ 0xB4300000 9 _ _ _ g (by decide) (by decide)
  exact decode_of _ (o.pack 0xB4300000) (by simp only [rawDecode, hm, raw2D, hk, u]) (List.forall_mem_cons.2 ⟨show (o.pack 0xB4300000).toNat / 2 ^ 9 % 2 ^ 11 = 0 from hi_zero _ 0xB4300000 9 _ _ g (by decide) (by decide), List.forall_mem_nil _⟩) hw

theorem tbexp (o : OpAB) : Statement (.tbexp o) := by
  intro _ hw
  obtain ⟨g, u⟩ := OpAB_rt 0xB4400000 o (by decide) (by decide)
  have hm : (fld 26 6 (o.pack 0xB4400000)).toNat = 45 := hi_fld _ 0xB4400000 12 _ _ _ g (by decide) (by decide)
  have hk : (fld 20 6 (o.pack 0xB4400000)).toNat = 4 := hi_fld _ 0xB4400000 12 _ _ _ g (by decide) (by decide)
  exact decode_of _ (o.pack 0xB4400000) (by simp only [rawDecode, hm, raw2D, hk, u]) (List.forall_mem_cons.2 ⟨show (o.pack 0xB4400000).toNat / 2 ^ 12 % 2 ^ 8 = 0 from hi_zero _ 0xB4400000 12 _ _ g (by decide) (by decide), List.forall_mem_nil _⟩) hw

theorem tbwait (o : OpTBWait) : Statement (.tbwait o) := by
  intro _ hw
  obtain ⟨g, u⟩ := OpTBWait_rt 0xB4500000 o (by decide) (by decide)
  have hm : (fld 26 6 (o.pack 0xB4500000)).toNat = 45 := hi_fld _ 0xB4500000 15 _ _ _ g (by decide) (by decide)
  have hk : (fld 20 6 (o.pack 0xB4500000)).toNat = 5 := hi_fld _ 0xB4500000 15 _ _ _ g (by decide) (by decide)
  exact decode_of _ (o.pack 0xB4500000) (by simp only [rawDecode, hm, raw2D, hk, u]) (List.forall_mem_cons.2 ⟨show (o.pack 0xB4500000).toNat / 2 ^ 15 % 2 ^ 5 = 0 from hi_zero _ 0xB4500000 15 _ _ g (by decide) (by decide), List.forall_mem_nil _⟩) hw

theorem vacqW (o : OpDA) : Statement (.vacqW o) := by
  intro _ hw
  obtain ⟨g, u⟩ := OpDA_rt 0xB8001000 o (by decide) (by decide)
  have hm : (fld 26 6 (o.pack 0xB8001000)).toNat = 46 := hi_fld _ 0xB8001000 12 _ _ _ g (by decide) (by decide)
  have hk : (fld 20 6 (o.pack 0xB8001000)).toNat = 0 := hi_fld _ 0xB8001000 12 _ _ _ g (by decide) (by decide)
  have hf : flag 12 (o.pack 0xB8001000) = true := hi_flag _ 0xB8001000 12 _ _ g (by decide) (by decide)
  exact decode_of _ (o.pack 0xB8001000) (by simp only [rawDecode, hm, raw2E, hk, hf, if_true, u]) (List.forall_mem_cons.2 ⟨show (o.pack 0xB8001000).toNat / 2 ^ 13 % 2 ^ 7 = 0 from hi_zero _ 0xB8001000 12 _ _ g (by decide) (by decide), List.forall_mem_nil _⟩) hw

theorem vacqT (o : OpDA) : Statement (.vacqT o) := by
  intro _ hw
  obtain ⟨g, u⟩ := OpDA_rt 0xB8000000 o (by decide) (by decide)
  have hm : (fld 26 6 (o.pack 0xB8000000)).toNat = 46 := hi_fld _ 0xB8000000 12 _ _ _ g (by decide) (by decide)
  have hk : (fld 20 6 (o.pack 0xB8000000)).toNat = 0 := hi_fld _ 0xB8000000 12 _ _ _ g (by decide) (by decide)
  have hf : flag 12 (o.pack 0xB8000000) = false := hi_flag _ 0xB8000000 12 _ _ g (by decide) (by decide)
  exact decode_of _ (o.pack 0xB8000000) (by simp only [rawDecode, hm, raw2E, hk, hf, Bool.false_eq_true, if_false, u]) (List.forall_mem_cons.2 ⟨show (o.pack 0xB8000000).toNat / 2 ^ 13 % 2 ^ 7 = 0 from hi_zero _ 0xB8000000 12 _ _ g (by decide) (by decide), List.forall_mem_nil _⟩) hw

theorem vrel (o : OpRel) : Statement (.vrel o) := by
  intro _ hw
  have l0 := o.sa.isLt
  have e := OpRel_val 0xB8100000 o (by decide)
  obtain ⟨g, u⟩ := OpRel_rt 0xB8100000 o (by decide) (by decide)
  have hm : (fld 26 6 (o.pack 0xB8100000)).toNat = 46 := hi_fld _ 0xB8100000 12 _ _ _ g (by decide) (by decide)
  have hk : (fld 20 6 (o.pack 0xB8100000)).toNat = 1 := hi_fld _ 0xB8100000 12 _ _ _ g (by decide) (by decide)
  exact decode_of _ (o.pack 0xB8100000) (by simp only [rawDecode, hm, raw2E, hk, u]) (List.forall_mem_cons.2 ⟨show (o.pack 0xB8100000).toNat / 2 ^ 12 % 2 ^ 8 = 0 from hi_zero _ 0xB8100000 12 _ _ g (by decide) (by decide), List.forall_mem_cons.2 ⟨show (o.pack 0xB8100000).toNat / 2 ^ 0 % 2 ^ 6 = 0 from by omega, List.forall_mem_nil _⟩⟩) hw

theorem pgacqW (o : OpDA) : Statement (.pgacqW o) := by
  intro _ hw
  obtain ⟨g, u⟩ := OpDA_rt 0xB8201000 o (by decide) (by decide)
  have hm : (fld 26 6 (o.pack 0xB8201000)).toNat = 46 := hi_fld _ 0xB8201000 12 _ _ _ g (by decide) (by decide)
  have hk : (fld 20 6 (o.pack 0xB8201000)).toNat = 2 := hi_fld _ 0xB8201000 12 _ _ _ g (by decide) (by decide)
  have hf : flag 12 (o.pack 0xB8201000) = true := hi_flag _ 0xB8201000 12 _ _ g (by decide) (by decide)
  exact decode_of _ (o.pack 0xB8201000) (by simp only [rawDecode, hm, raw2E, hk, hf, if_true, u]) (List.forall_mem_cons.2 ⟨show (o.pack 0xB8201000).toNat / 2 ^ 13 % 2 ^ 7 = 0 from hi_zero _ 0xB8201000 12 _ _ g (by decide) (by decide), List.forall_mem_nil _⟩) hw

theorem pgacqT (o : OpDA) : Statement (.pgacqT o) := by
  intro _ hw
  obtain ⟨g, u⟩ := OpDA_rt 0xB8200000 o (by decide) (by decide)
  have hm : (fld 26 6 (o.pack 0xB8200000)).toNat = 46 := hi_fld _ 0xB8200000 12 _ _ _ g (by decide) (by decide)
  have hk : (fld 20 6 (o.pack 0xB8200000)).toNat = 2 := hi_fld _ 0xB8200000 12 _ _ _ g (by decide) (by decide)
  have hf : flag 12 (o.pack 0xB8200000) = false := hi_flag _ 0xB8200000 12 _ _ g (by decide) (by decide)
  exact decode_of _ (o.pack 0xB8200000) (by simp only [rawDecode, hm, raw2E, hk, hf, Bool.false_eq_true, if_false, u]) (List.forall_mem_cons.2 ⟨show (o.pack 0xB8200000).toNat / 2 ^ 13 % 2 ^ 7 = 0 from hi_zero _ 0xB8200000 12 _ _ g (by decide) (by decide), List.forall_mem_nil _⟩) hw

theorem pgrel (o : OpRel) : Statement (.pgrel o) := by
  intro _ hw
  have l0 := o.sa.isLt
  have e := OpRel_val 0xB8300000 o (by decide)
  obtain ⟨g, u⟩ := OpRel_rt 0xB8300000 o (by decide) (by decide)
  have hm : (fld 26 6 (o.pack 0xB8300000)).toNat = 46 := hi_fld _ 0xB8300000 12 _ _ _ g (by decide) (by decide)
  have hk : (fld 20 6 (o.pack 0xB8300000)).toNat = 3 := hi_fld _ 0xB8300000 12 _ _ _ g (by decide) (by decide)
  exact decode_of _ (o.pack 0xB8300000) (by simp only [rawDecode, hm, raw2E, hk, u]) (List.forall_mem_cons.2 ⟨show (o.pack 0xB8300000).toNat / 2 ^ 12 % 2 ^ 8 = 0 from hi_zero _ 0xB8300000 12 _ _ g (by decide) (by decide), List.forall_mem_cons.2 ⟨show (o.pack 0xB8300000).toNat / 2 ^ 0 % 2 ^ 6 = 0 from by omega, List.forall_mem_nil _⟩⟩) hw

theorem aacqW (o : OpDA) : Statement (.aacqW o) := by
  intro _ hw
  obtain ⟨g, u⟩ := OpDA_rt 0xB8401000 o (by decide) (by decide)
  have hm : (fld 26 6 (o.pack 0xB8401000)).toNat = 46 := hi_fld _ 0xB8401000 12 _ _ _ g (by decide) (by decide)
  have hk : (fld 20 6 (o.pack 0xB8401000)).toNat = 4 := hi_fld _ 0xB8401000 12 _ _ _ g (by decide) (by decide)
  have hf : flag 12 (o.pack 0xB8401000) = true := hi_flag _ 0xB8401000 12 _ _ g (by decide) (by decide)
  exact decode_of _ (o.pack 0xB8401000) (by simp only [rawDecode, hm, raw2E, hk, hf, if_true, u]) (List.forall_mem_cons.2 ⟨show (o.pack 0xB8401000).toNat / 2 ^ 13 % 2 ^ 7 = 0 from hi_zero _ 0xB8401000 12 _ _ g (by decide) (by decide), List.forall_mem_nil _⟩) hw

theorem aacqT (o : OpDA) : Statement (.aacqT o) := by
  intro _ hw
  obtain ⟨g, u⟩ := OpDA_rt 0xB8400000 o (by decide) (by decide)
  have hm : (fld 26 6 (o.pack 0xB8400000)).toNat = 46 := hi_fld _ 0xB8400000 12 _ _ _ g (by decide) (by decide)
  have hk : (fld 20 6 (o.pack 0xB8400000)).toNat = 4 := hi_fld _ 0xB8400000 12 _ _ _ g (by decide) (by decide)
  have hf : flag 12 (o.pack 0xB8400000) = false := hi_flag _ 0xB8400000 12 _ _ g (by decide) (by decide)
  exact decode_of _ (o.pack 0xB8400000) (by simp only [rawDecode, hm, raw2E, hk, hf, Bool.false_eq_true, if_false, u]) (List.forall_mem_cons.2 ⟨show (o.pack 0xB8400000).toNat / 2 ^ 13 % 2 ^ 7 = 0 from hi_zero _ 0xB8400000 12 _ _ g (by decide) (by decide), List.forall_mem_nil _⟩) hw

theorem arel (o : OpRel) : Statement (.arel o) := by
  intro _ hw
  have l0 := o.sa.isLt
  have e := OpRel_val 0xB8500000 o (by decide)
  obtain ⟨g, u⟩ := OpRel_rt 0xB8500000 o (by decide) (by decide)
  have hm : (fld 26 6 (o.pack 0xB8500000)).toNat = 46 := hi_fld _ 0xB8500000 12 _ _ _ g (by decide) (by decide)
  have hk : (fld 20 6 (o.pack 0xB8500000)).toNat = 5 := hi_fld _ 0xB8500000 12 _ _ _ g (by decide) (by decide)
  exact decode_of _ (o.pack 0xB8500000) (by simp only [rawDecode, hm, raw2E, hk, u]) (List.forall_mem_cons.2 ⟨show (o.pack 0xB8500000).toNat / 2 ^ 12 % 2 ^ 8 = 0 from hi_zero _ 0xB8500000 12 _ _ g (by decide) (by decide), List.forall_mem_cons.2 ⟨show (o.pack 0xB8500000).toNat / 2 ^ 0 % 2 ^ 6 = 0 from by omega, List.forall_mem_nil _⟩⟩) hw

theorem macqW (o : OpDA) : Statement (.macqW o) := by
  intro _ hw
  obtain ⟨g, u⟩ := OpDA_rt 0xB8601000 o (by decide) (by decide)
  have hm : (fld 26 6 (o.pack 0xB8601000)).toNat = 46 := hi_fld _ 0xB8601000 12 _ _ _ g (by decide) (by decide)
  have hk : (fld 20 6 (o.pack 0xB8601000)).toNat = 6 := hi_fld _ 0xB8601000 12 _ _ _ g (by decide) (by decide)
  have hf : flag 12 (o.pack 0xB8601000) = true := hi_flag _ 0xB8601000 12 _ _ g (by decide) (by decide)
  exact decode_of _ (o.pack 0xB8601000) (by simp only [rawDecode, hm, raw2E, hk, hf, if_true, u]) (List.forall_mem_cons.2 ⟨show (o.pack 0xB8601000).toNat / 2 ^ 13 % 2 ^ 7 = 0 from hi_zero _ 0xB8601000 12 _ _ g (by decide) (by decide), List.forall_mem_nil _⟩) hw

theorem macqT (o : OpDA) : Statement (.macqT o) := by
  intro _ hw
  obtain ⟨g, u⟩ := OpDA_rt 0xB8600000 o (by decide) (by decide)
  have hm : (fld 26 6 (o.pack 0xB8600000)).toNat = 46 := hi_fld _ 0xB8600000 12 _ _ _ g (by decide) (by decide)
  have hk : (fld 20 6 (o.pack 0xB8600000)).toNat = 6 := hi_fld _ 0xB8600000 12 _ _ _ g (by decide) (by decide)
  have hf : flag 12 (o.pack 0xB8600000) = false := hi_flag _ 0xB8600000 12 _ _ g (by decide) (by decide)
  exact decode_of _ (o.pack 0xB8600000) (by simp only [rawDecode, hm, raw2E, hk, hf, Bool.false_eq_true, if_false, u]) (List.forall_mem_cons.2 ⟨show (o.pack 0xB8600000).toNat / 2 ^ 13 % 2 ^ 7 = 0 from hi_zero _ 0xB8600000 12 _ _ g (by decide) (by decide), List.forall_mem_nil _⟩) hw

theorem mrel : Statement .mrel := fun _ hw => decode_of _ _ (by decide) (by decide) hw

theorem tspawn (o : OpQSpawn) : Statement (.tspawn o) := by
  intro _ hw
  have l0 := o.sh.isLt
  have l1 := o.se.isLt
  have l2 := o.va.isLt
  have e := OpQSpawn_val 0xBC000000 o (by decide)
  obtain ⟨g, u⟩ := OpQSpawn_rt 0xBC000000 o (by decide) (by decide)
  have hm : (fld 26 6 (o.pack 0xBC000000)).toNat = 47 := hi_fld _ 0xBC000000 23 _ _ _ g (by decide) (by decide)
  have hk : (fld 23 3 (o.pack 0xBC000000)).toNat = 0 := hi_fld _ 0xBC000000 23 _ _ _ g (by decide) (by decide)
  exact decode_of _ (o.pack 0xBC000000) (by simp only [rawDecode, hm, raw2F, hk, u]) (List.forall_mem_cons.2 ⟨show (o.pack 0xBC000000).toNat / 2 ^ 0 % 2 ^ 4 = 0 from by omega, List.forall_mem_nil _⟩) hw

theorem qpush (o : OpQV) : Statement (.qpush o) := by
  intro _ hw
  have l0 := o.sh.isLt
  have l1 := o.va.isLt
  have e := OpQV_val 0xBC800000 o (by decide)
  obtain ⟨g, u⟩ := OpQV_rt 0xBC800000 o (by decide) (by decide)
  have hm : (fld 26 6 (o.pack 0xBC800000)).toNat = 47 := hi_fld _ 0xBC800000 23 _ _ _ g (by decide) (by decide)
  have hk : (fld 23 3 (o.pack 0xBC800000)).toNat = 1 := hi_fld _ 0xBC800000 23 _ _ _ g (by decide) (by decide)
  exact decode_of _ (o.pack 0xBC800000) (by simp only [rawDecode, hm, raw2F, hk, u]) (List.forall_mem_cons.2 ⟨show (o.pack 0xBC800000).toNat / 2 ^ 11 % 2 ^ 6 = 0 from by omega, List.forall_mem_cons.2 ⟨show (o.pack 0xBC800000).toNat / 2 ^ 0 % 2 ^ 4 = 0 from by omega, List.forall_mem_nil _⟩⟩) hw

theorem qpop (o : OpQV) : Statement (.qpop o) := by
  intro _ hw
  have l0 := o.sh.isLt
  have l1 := o.va.isLt
  have e := OpQV_val 0xBD000000 o (by decide)
  obtain ⟨g, u⟩ := OpQV_rt 0xBD000000 o (by decide) (by decide)
  have hm : (fld 26 6 (o.pack 0xBD000000)).toNat = 47 := hi_fld _ 0xBD000000 23 _ _ _ g (by decide) (by decide)
  have hk : (fld 23 3 (o.pack 0xBD000000)).toNat = 2 := hi_fld _ 0xBD000000 23 _ _ _ g (by decide) (by decide)
  exact decode_of _ (o.pack 0xBD000000) (by simp only [rawDecode, hm, raw2F, hk, u]) (List.forall_mem_cons.2 ⟨show (o.pack 0xBD000000).toNat / 2 ^ 11 % 2 ^ 6 = 0 from by omega, List.forall_mem_cons.2 ⟨show (o.pack 0xBD000000).toNat / 2 ^ 0 % 2 ^ 4 = 0 from by omega, List.forall_mem_nil _⟩⟩) hw

theorem qsteal (o : OpQV) : Statement (.qsteal o) := by
  intro _ hw
  have l0 := o.sh.isLt
  have l1 := o.va.isLt
  have e := OpQV_val 0xBD800000 o (by decide)
  obtain ⟨g, u⟩ := OpQV_rt 0xBD800000 o (by decide) (by decide)
  have hm : (fld 26 6 (o.pack 0xBD800000)).toNat = 47 := hi_fld _ 0xBD800000 23 _ _ _ g (by decide) (by decide)
  have hk : (fld 23 3 (o.pack 0xBD800000)).toNat = 3 := hi_fld _ 0xBD800000 23 _ _ _ g (by decide) (by decide)
  exact decode_of _ (o.pack 0xBD800000) (by simp only [rawDecode, hm, raw2F, hk, u]) (List.forall_mem_cons.2 ⟨show (o.pack 0xBD800000).toNat / 2 ^ 11 % 2 ^ 6 = 0 from by omega, List.forall_mem_cons.2 ⟨show (o.pack 0xBD800000).toNat / 2 ^ 0 % 2 ^ 4 = 0 from by omega, List.forall_mem_nil _⟩⟩) hw

theorem eqpush (o : OpQV) : Statement (.eqpush o) := by
  intro _ hw
  have l0 := o.sh.isLt
  have l1 := o.va.isLt
  have e := OpQV_val 0xBE000000 o (by decide)
  obtain ⟨g, u⟩ := OpQV_rt 0xBE000000 o (by decide) (by decide)
  have hm : (fld 26 6 (o.pack 0xBE000000)).toNat = 47 := hi_fld _ 0xBE000000 23 _ _ _ g (by decide) (by decide)
  have hk : (fld 23 3 (o.pack 0xBE000000)).toNat = 4 := hi_fld _ 0xBE000000 23 _ _ _ g (by decide) (by decide)
  exact decode_of _ (o.pack 0xBE000000) (by simp only [rawDecode, hm, raw2F, hk, u]) (List.forall_mem_cons.2 ⟨show (o.pack 0xBE000000).toNat / 2 ^ 11 % 2 ^ 6 = 0 from by omega, List.forall_mem_cons.2 ⟨show (o.pack 0xBE000000).toNat / 2 ^ 0 % 2 ^ 4 = 0 from by omega, List.forall_mem_nil _⟩⟩) hw

theorem eqfire (o : OpEqFire) : Statement (.eqfire o) := by
  intro _ hw
  have l0 := o.sh.isLt
  have l1 := o.se.isLt
  have e := OpEqFire_val 0xBE800000 o (by decide)
  obtain ⟨g, u⟩ := OpEqFire_rt 0xBE800000 o (by decide) (by decide)
  have hm : (fld 26 6 (o.pack 0xBE800000)).toNat = 47 := hi_fld _ 0xBE800000 23 _ _ _ g (by decide) (by decide)
  have hk : (fld 23 3 (o.pack 0xBE800000)).toNat = 5 := hi_fld _ 0xBE800000 23 _ _ _ g (by decide) (by decide)
  exact decode_of _ (o.pack 0xBE800000) (by simp only [rawDecode, hm, raw2F, hk, u]) (List.forall_mem_cons.2 ⟨show (o.pack 0xBE800000).toNat / 2 ^ 4 % 2 ^ 7 = 0 from by omega, List.forall_mem_cons.2 ⟨show (o.pack 0xBE800000).toNat / 2 ^ 0 % 2 ^ 4 = 0 from by omega, List.forall_mem_nil _⟩⟩) hw

theorem adrain (o : OpDrain) : Statement (.adrain o) := by
  intro _ hw
  obtain ⟨g, u⟩ := OpDrain_rt 0xC0000000 o (by decide) (by decide)
  have hm : (fld 26 6 (o.pack 0xC0000000)).toNat = 48 := hi_fld _ 0xC0000000 23 _ _ _ g (by decide) (by decide)
  have hk : (fld 23 3 (o.pack 0xC0000000)).toNat = 0 := hi_fld _ 0xC0000000 23 _ _ _ g (by decide) (by decide)
  have hf : ¬ fld 0 3 (o.pack 0xC0000000) = 6 := by
    rw [show fld 0 3 (o.pack 0xC0000000) = o.dt from congrArg OpDrain.dt u]
    intro h6
    simp [Instr.wellFormed, Instr.codeRules, Instr.eventOk, h6] at hw
  exact decode_of _ (o.pack 0xC0000000) (by simp only [rawDecode, hm, raw30, hk, hf, if_false, u]) (fun z hz => by cases hz) hw

theorem adrainRaw (o : OpRaw) : Statement (.adrainRaw o) := by
  intro _ hw
  have l0 := o.acc.isLt
  have l1 := o.sr.isLt
  have l2 := o.sb.isLt
  have e : (o.pack 0xC0000006).toNat = 0xC0000006 + o.acc.toNat * 2 ^ 18 + o.sr.toNat * 2 ^ 9 + o.sb.toNat * 2 ^ 3 := by
    simp only [OpRaw.pack, BitVec.toNat_ofNat]
    omega
  have u0 : fld 18 2 (o.pack 0xC0000006) = o.acc := fld_of _ _ _ _ (by omega)
  have u1 : fld 9 6 (o.pack 0xC0000006) = o.sr := fld_of _ _ _ _ (by omega)
  have u2 : fld 3 6 (o.pack 0xC0000006) = o.sb := fld_of _ _ _ _ (by omega)
  have hm : (fld 26 6 (o.pack 0xC0000006)).toNat = 48 := fld_val _ _ _ _ (by omega)
  have hk : (fld 23 3 (o.pack 0xC0000006)).toNat = 0 := fld_val _ _ _ _ (by omega)
  have hf : fld 0 3 (o.pack 0xC0000006) = 6 := fld_of _ _ _ _ (by simp only [show (6 : BitVec 3).toNat = 6 from rfl]; omega)
  have u : OpRaw.unpack (o.pack 0xC0000006) = o := by simp only [OpRaw.unpack, u0, u1, u2]
  exact decode_of _ (o.pack 0xC0000006) (by simp only [rawDecode, hm, raw30, hk, hf, if_true, u]) (List.forall_mem_cons.2 ⟨show (o.pack 0xC0000006).toNat / 2 ^ 20 % 2 ^ 3 = 0 by omega, List.forall_mem_cons.2 ⟨show (o.pack 0xC0000006).toNat / 2 ^ 16 % 2 ^ 2 = 0 by omega, List.forall_mem_cons.2 ⟨show (o.pack 0xC0000006).toNat / 2 ^ 15 % 2 ^ 1 = 0 by omega, List.forall_mem_nil _⟩⟩⟩) hw

theorem afill (o : OpFillAcc) : Statement (.afill o) := by
  intro _ hw
  obtain ⟨g, u⟩ := OpFillAcc_rt 0xC0800000 o (by decide) (by decide)
  have hm : (fld 26 6 (o.pack 0xC0800000)).toNat = 48 := hi_fld _ 0xC0800000 20 _ _ _ g (by decide) (by decide)
  have hk : (fld 23 3 (o.pack 0xC0800000)).toNat = 1 := hi_fld _ 0xC0800000 20 _ _ _ g (by decide) (by decide)
  have hf : ¬ fld 0 3 (o.pack 0xC0800000) = 6 := by
    rw [show fld 0 3 (o.pack 0xC0800000) = o.dt from congrArg OpFillAcc.dt u]
    intro h6
    simp [Instr.wellFormed, Instr.codeRules, Instr.eventOk, h6] at hw
  exact decode_of _ (o.pack 0xC0800000) (by simp only [rawDecode, hm, raw30, hk, hf, if_false, u]) (List.forall_mem_cons.2 ⟨show (o.pack 0xC0800000).toNat / 2 ^ 20 % 2 ^ 3 = 0 from hi_zero _ 0xC0800000 20 _ _ g (by decide) (by decide), List.forall_mem_nil _⟩) hw

theorem afillRaw (o : OpRaw) : Statement (.afillRaw o) := by
  intro _ hw
  have l0 := o.acc.isLt
  have l1 := o.sr.isLt
  have l2 := o.sb.isLt
  have e : (o.pack 0xC0800006).toNat = 0xC0800006 + o.acc.toNat * 2 ^ 18 + o.sr.toNat * 2 ^ 9 + o.sb.toNat * 2 ^ 3 := by
    simp only [OpRaw.pack, BitVec.toNat_ofNat]
    omega
  have u0 : fld 18 2 (o.pack 0xC0800006) = o.acc := fld_of _ _ _ _ (by omega)
  have u1 : fld 9 6 (o.pack 0xC0800006) = o.sr := fld_of _ _ _ _ (by omega)
  have u2 : fld 3 6 (o.pack 0xC0800006) = o.sb := fld_of _ _ _ _ (by omega)
  have hm : (fld 26 6 (o.pack 0xC0800006)).toNat = 48 := fld_val _ _ _ _ (by omega)
  have hk : (fld 23 3 (o.pack 0xC0800006)).toNat = 1 := fld_val _ _ _ _ (by omega)
  have hf : fld 0 3 (o.pack 0xC0800006) = 6 := fld_of _ _ _ _ (by simp only [show (6 : BitVec 3).toNat = 6 from rfl]; omega)
  have u : OpRaw.unpack (o.pack 0xC0800006) = o := by simp only [OpRaw.unpack, u0, u1, u2]
  exact decode_of _ (o.pack 0xC0800006) (by simp only [rawDecode, hm, raw30, hk, hf, if_true, u]) (List.forall_mem_cons.2 ⟨show (o.pack 0xC0800006).toNat / 2 ^ 20 % 2 ^ 3 = 0 by omega, List.forall_mem_cons.2 ⟨show (o.pack 0xC0800006).toNat / 2 ^ 16 % 2 ^ 2 = 0 by omega, List.forall_mem_cons.2 ⟨show (o.pack 0xC0800006).toNat / 2 ^ 15 % 2 ^ 1 = 0 by omega, List.forall_mem_nil _⟩⟩⟩) hw

theorem kstart (o : OpAB) : Statement (.kstart o) := by
  intro _ hw
  obtain ⟨g, u⟩ := OpAB_rt 0xC4000000 o (by decide) (by decide)
  have hm : (fld 26 6 (o.pack 0xC4000000)).toNat = 49 := hi_fld _ 0xC4000000 12 _ _ _ g (by decide) (by decide)
  have hk : (fld 20 6 (o.pack 0xC4000000)).toNat = 0 := hi_fld _ 0xC4000000 12 _ _ _ g (by decide) (by decide)
  exact decode_of _ (o.pack 0xC4000000) (by simp only [rawDecode, hm, raw31, hk, u]) (List.forall_mem_cons.2 ⟨show (o.pack 0xC4000000).toNat / 2 ^ 12 % 2 ^ 8 = 0 from hi_zero _ 0xC4000000 12 _ _ g (by decide) (by decide), List.forall_mem_nil _⟩) hw

theorem kwait (o : OpDA) : Statement (.kwait o) := by
  intro _ hw
  obtain ⟨g, u⟩ := OpDA_rt 0xC4100000 o (by decide) (by decide)
  have hm : (fld 26 6 (o.pack 0xC4100000)).toNat = 49 := hi_fld _ 0xC4100000 12 _ _ _ g (by decide) (by decide)
  have hk : (fld 20 6 (o.pack 0xC4100000)).toNat = 1 := hi_fld _ 0xC4100000 12 _ _ _ g (by decide) (by decide)
  exact decode_of _ (o.pack 0xC4100000) (by simp only [rawDecode, hm, raw31, hk, u]) (List.forall_mem_cons.2 ⟨show (o.pack 0xC4100000).toNat / 2 ^ 12 % 2 ^ 8 = 0 from hi_zero _ 0xC4100000 12 _ _ g (by decide) (by decide), List.forall_mem_nil _⟩) hw

theorem cdrain (o : OpDA) : Statement (.cdrain o) := by
  intro _ hw
  obtain ⟨g, u⟩ := OpDA_rt 0xC8000000 o (by decide) (by decide)
  have hm : (fld 26 6 (o.pack 0xC8000000)).toNat = 50 := hi_fld _ 0xC8000000 12 _ _ _ g (by decide) (by decide)
  have hk : (fld 20 6 (o.pack 0xC8000000)).toNat = 0 := hi_fld _ 0xC8000000 12 _ _ _ g (by decide) (by decide)
  exact decode_of _ (o.pack 0xC8000000) (by simp only [rawDecode, hm, raw32, hk, u]) (List.forall_mem_cons.2 ⟨show (o.pack 0xC8000000).toNat / 2 ^ 12 % 2 ^ 8 = 0 from hi_zero _ 0xC8000000 12 _ _ g (by decide) (by decide), List.forall_mem_nil _⟩) hw

theorem cstate (o : OpDA) : Statement (.cstate o) := by
  intro _ hw
  obtain ⟨g, u⟩ := OpDA_rt 0xC8100000 o (by decide) (by decide)
  have hm : (fld 26 6 (o.pack 0xC8100000)).toNat = 50 := hi_fld _ 0xC8100000 12 _ _ _ g (by decide) (by decide)
  have hk : (fld 20 6 (o.pack 0xC8100000)).toNat = 1 := hi_fld _ 0xC8100000 12 _ _ _ g (by decide) (by decide)
  exact decode_of _ (o.pack 0xC8100000) (by simp only [rawDecode, hm, raw32, hk, u]) (List.forall_mem_cons.2 ⟨show (o.pack 0xC8100000).toNat / 2 ^ 12 % 2 ^ 8 = 0 from hi_zero _ 0xC8100000 12 _ _ g (by decide) (by decide), List.forall_mem_nil _⟩) hw

theorem cload (o : OpAB) : Statement (.cload o) := by
  intro _ hw
  obtain ⟨g, u⟩ := OpAB_rt 0xC8200000 o (by decide) (by decide)
  have hm : (fld 26 6 (o.pack 0xC8200000)).toNat = 50 := hi_fld _ 0xC8200000 12 _ _ _ g (by decide) (by decide)
  have hk : (fld 20 6 (o.pack 0xC8200000)).toNat = 2 := hi_fld _ 0xC8200000 12 _ _ _ g (by decide) (by decide)
  exact decode_of _ (o.pack 0xC8200000) (by simp only [rawDecode, hm, raw32, hk, u]) (List.forall_mem_cons.2 ⟨show (o.pack 0xC8200000).toNat / 2 ^ 12 % 2 ^ 8 = 0 from hi_zero _ 0xC8200000 12 _ _ g (by decide) (by decide), List.forall_mem_nil _⟩) hw

theorem csaved (o : OpA) : Statement (.csaved o) := by
  intro _ hw
  obtain ⟨g, u⟩ := OpA_rt 0xC8300000 o (by decide) (by decide)
  have hm : (fld 26 6 (o.pack 0xC8300000)).toNat = 50 := hi_fld _ 0xC8300000 6 _ _ _ g (by decide) (by decide)
  have hk : (fld 20 6 (o.pack 0xC8300000)).toNat = 3 := hi_fld _ 0xC8300000 6 _ _ _ g (by decide) (by decide)
  exact decode_of _ (o.pack 0xC8300000) (by simp only [rawDecode, hm, raw32, hk, u]) (List.forall_mem_cons.2 ⟨show (o.pack 0xC8300000).toNat / 2 ^ 6 % 2 ^ 14 = 0 from hi_zero _ 0xC8300000 6 _ _ g (by decide) (by decide), List.forall_mem_nil _⟩) hw

theorem crestart (o : OpA) : Statement (.crestart o) := by
  intro _ hw
  obtain ⟨g, u⟩ := OpA_rt 0xC8400000 o (by decide) (by decide)
  have hm : (fld 26 6 (o.pack 0xC8400000)).toNat = 50 := hi_fld _ 0xC8400000 6 _ _ _ g (by decide) (by decide)
  have hk : (fld 20 6 (o.pack 0xC8400000)).toNat = 4 := hi_fld _ 0xC8400000 6 _ _ _ g (by decide) (by decide)
  exact decode_of _ (o.pack 0xC8400000) (by simp only [rawDecode, hm, raw32, hk, u]) (List.forall_mem_cons.2 ⟨show (o.pack 0xC8400000).toNat / 2 ^ 6 % 2 ^ 14 = 0 from hi_zero _ 0xC8400000 6 _ _ g (by decide) (by decide), List.forall_mem_nil _⟩) hw

theorem msave (o : OpA) : Statement (.msave o) := by
  intro _ hw
  obtain ⟨g, u⟩ := OpA_rt 0xC8500000 o (by decide) (by decide)
  have hm : (fld 26 6 (o.pack 0xC8500000)).toNat = 50 := hi_fld _ 0xC8500000 6 _ _ _ g (by decide) (by decide)
  have hk : (fld 20 6 (o.pack 0xC8500000)).toNat = 5 := hi_fld _ 0xC8500000 6 _ _ _ g (by decide) (by decide)
  exact decode_of _ (o.pack 0xC8500000) (by simp only [rawDecode, hm, raw32, hk, u]) (List.forall_mem_cons.2 ⟨show (o.pack 0xC8500000).toNat / 2 ^ 6 % 2 ^ 14 = 0 from hi_zero _ 0xC8500000 6 _ _ g (by decide) (by decide), List.forall_mem_nil _⟩) hw

theorem mload (o : OpA) : Statement (.mload o) := by
  intro _ hw
  obtain ⟨g, u⟩ := OpA_rt 0xC8600000 o (by decide) (by decide)
  have hm : (fld 26 6 (o.pack 0xC8600000)).toNat = 50 := hi_fld _ 0xC8600000 6 _ _ _ g (by decide) (by decide)
  have hk : (fld 20 6 (o.pack 0xC8600000)).toNat = 6 := hi_fld _ 0xC8600000 6 _ _ _ g (by decide) (by decide)
  exact decode_of _ (o.pack 0xC8600000) (by simp only [rawDecode, hm, raw32, hk, u]) (List.forall_mem_cons.2 ⟨show (o.pack 0xC8600000).toNat / 2 ^ 6 % 2 ^ 14 = 0 from hi_zero _ 0xC8600000 6 _ _ g (by decide) (by decide), List.forall_mem_nil _⟩) hw

theorem mbox (o : OpIdx) : Statement (.mbox o) := by
  intro _ hw
  obtain ⟨g, u⟩ := OpIdx_rt 0xCC000000 o (by decide) (by decide)
  have hm : (fld 26 6 (o.pack 0xCC000000)).toNat = 51 := hi_fld _ 0xCC000000 12 _ _ _ g (by decide) (by decide)
  have hk : (fld 20 6 (o.pack 0xCC000000)).toNat = 0 := hi_fld _ 0xCC000000 12 _ _ _ g (by decide) (by decide)
  exact decode_of _ (o.pack 0xCC000000) (by simp only [rawDecode, hm, raw33, hk, u]) (List.forall_mem_cons.2 ⟨show (o.pack 0xCC000000).toNat / 2 ^ 12 % 2 ^ 8 = 0 from hi_zero _ 0xCC000000 12 _ _ g (by decide) (by decide), List.forall_mem_nil _⟩) hw

theorem dhalt (o : OpDA) : Statement (.dhalt o) := by
  intro _ hw
  obtain ⟨g, u⟩ := OpDA_rt 0xCC100000 o (by decide) (by decide)
  have hm : (fld 26 6 (o.pack 0xCC100000)).toNat = 51 := hi_fld _ 0xCC100000 12 _ _ _ g (by decide) (by decide)
  have hk : (fld 20 6 (o.pack 0xCC100000)).toNat = 1 := hi_fld _ 0xCC100000 12 _ _ _ g (by decide) (by decide)
  exact decode_of _ (o.pack 0xCC100000) (by simp only [rawDecode, hm, raw33, hk, u]) (List.forall_mem_cons.2 ⟨show (o.pack 0xCC100000).toNat / 2 ^ 12 % 2 ^ 8 = 0 from hi_zero _ 0xCC100000 12 _ _ g (by decide) (by decide), List.forall_mem_nil _⟩) hw

theorem dresume (o : OpDA) : Statement (.dresume o) := by
  intro _ hw
  obtain ⟨g, u⟩ := OpDA_rt 0xCC200000 o (by decide) (by decide)
  have hm : (fld 26 6 (o.pack 0xCC200000)).toNat = 51 := hi_fld _ 0xCC200000 12 _ _ _ g (by decide) (by decide)
  have hk : (fld 20 6 (o.pack 0xCC200000)).toNat = 2 := hi_fld _ 0xCC200000 12 _ _ _ g (by decide) (by decide)
  exact decode_of _ (o.pack 0xCC200000) (by simp only [rawDecode, hm, raw33, hk, u]) (List.forall_mem_cons.2 ⟨show (o.pack 0xCC200000).toNat / 2 ^ 12 % 2 ^ 8 = 0 from hi_zero _ 0xCC200000 12 _ _ g (by decide) (by decide), List.forall_mem_nil _⟩) hw

theorem dstep (o : OpDA) : Statement (.dstep o) := by
  intro _ hw
  obtain ⟨g, u⟩ := OpDA_rt 0xCC300000 o (by decide) (by decide)
  have hm : (fld 26 6 (o.pack 0xCC300000)).toNat = 51 := hi_fld _ 0xCC300000 12 _ _ _ g (by decide) (by decide)
  have hk : (fld 20 6 (o.pack 0xCC300000)).toNat = 3 := hi_fld _ 0xCC300000 12 _ _ _ g (by decide) (by decide)
  exact decode_of _ (o.pack 0xCC300000) (by simp only [rawDecode, hm, raw33, hk, u]) (List.forall_mem_cons.2 ⟨show (o.pack 0xCC300000).toNat / 2 ^ 12 % 2 ^ 8 = 0 from hi_zero _ 0xCC300000 12 _ _ g (by decide) (by decide), List.forall_mem_nil _⟩) hw

theorem dunpin (o : OpDA) : Statement (.dunpin o) := by
  intro _ hw
  obtain ⟨g, u⟩ := OpDA_rt 0xCC400000 o (by decide) (by decide)
  have hm : (fld 26 6 (o.pack 0xCC400000)).toNat = 51 := hi_fld _ 0xCC400000 12 _ _ _ g (by decide) (by decide)
  have hk : (fld 20 6 (o.pack 0xCC400000)).toNat = 4 := hi_fld _ 0xCC400000 12 _ _ _ g (by decide) (by decide)
  exact decode_of _ (o.pack 0xCC400000) (by simp only [rawDecode, hm, raw33, hk, u]) (List.forall_mem_cons.2 ⟨show (o.pack 0xCC400000).toNat / 2 ^ 12 % 2 ^ 8 = 0 from hi_zero _ 0xCC400000 12 _ _ g (by decide) (by decide), List.forall_mem_nil _⟩) hw

theorem bpset (o : OpIdx) : Statement (.bpset o) := by
  intro _ hw
  obtain ⟨g, u⟩ := OpIdx_rt 0xCC500000 o (by decide) (by decide)
  have hm : (fld 26 6 (o.pack 0xCC500000)).toNat = 51 := hi_fld _ 0xCC500000 12 _ _ _ g (by decide) (by decide)
  have hk : (fld 20 6 (o.pack 0xCC500000)).toNat = 5 := hi_fld _ 0xCC500000 12 _ _ _ g (by decide) (by decide)
  exact decode_of _ (o.pack 0xCC500000) (by simp only [rawDecode, hm, raw33, hk, u]) (List.forall_mem_cons.2 ⟨show (o.pack 0xCC500000).toNat / 2 ^ 12 % 2 ^ 8 = 0 from hi_zero _ 0xCC500000 12 _ _ g (by decide) (by decide), List.forall_mem_nil _⟩) hw

theorem warm (o : OpA) : Statement (.warm o) := by
  intro _ hw
  obtain ⟨g, u⟩ := OpA_rt 0xCC600000 o (by decide) (by decide)
  have hm : (fld 26 6 (o.pack 0xCC600000)).toNat = 51 := hi_fld _ 0xCC600000 6 _ _ _ g (by decide) (by decide)
  have hk : (fld 20 6 (o.pack 0xCC600000)).toNat = 6 := hi_fld _ 0xCC600000 6 _ _ _ g (by decide) (by decide)
  exact decode_of _ (o.pack 0xCC600000) (by simp only [rawDecode, hm, raw33, hk, u]) (List.forall_mem_cons.2 ⟨show (o.pack 0xCC600000).toNat / 2 ^ 6 % 2 ^ 14 = 0 from hi_zero _ 0xCC600000 6 _ _ g (by decide) (by decide), List.forall_mem_nil _⟩) hw

theorem mma (o : OpMma) : Statement (.mma o) := by
  intro _ hw
  obtain ⟨g, u⟩ := OpMma_rt 0xE0000000 o (by decide) (by decide)
  have hm : (fld 26 6 (o.pack 0xE0000000)).toNat = 56 := hi_fld _ 0xE0000000 26 _ _ _ g (by decide) (by decide)
  exact decode_of _ (o.pack 0xE0000000) (by simp only [rawDecode, hm, u]) (fun z hz => by cases hz) hw

theorem mldfb (o : OpMLdfb) : Statement (.mldfb o) := by
  intro _ hw
  obtain ⟨g, u⟩ := OpMLdfb_rt 0xE4000000 o (by decide) (by decide)
  have hm : (fld 26 6 (o.pack 0xE4000000)).toNat = 57 := hi_fld _ 0xE4000000 8 _ _ _ g (by decide) (by decide)
  have hk : (fld 20 6 (o.pack 0xE4000000)).toNat = 0 := hi_fld _ 0xE4000000 8 _ _ _ g (by decide) (by decide)
  exact decode_of _ (o.pack 0xE4000000) (by simp only [rawDecode, hm, raw39, hk, u]) (List.forall_mem_cons.2 ⟨show (o.pack 0xE4000000).toNat / 2 ^ 8 % 2 ^ 12 = 0 from hi_zero _ 0xE4000000 8 _ _ g (by decide) (by decide), List.forall_mem_nil _⟩) hw

theorem mring (o : OpMRing) : Statement (.mring o) := by
  intro _ hw
  obtain ⟨g, u⟩ := OpMRing_rt 0xE4100000 o (by decide) (by decide)
  have hm : (fld 26 6 (o.pack 0xE4100000)).toNat = 57 := hi_fld _ 0xE4100000 7 _ _ _ g (by decide) (by decide)
  have hk : (fld 20 6 (o.pack 0xE4100000)).toNat = 1 := hi_fld _ 0xE4100000 7 _ _ _ g (by decide) (by decide)
  exact decode_of _ (o.pack 0xE4100000) (by simp only [rawDecode, hm, raw39, hk, u]) (List.forall_mem_cons.2 ⟨show (o.pack 0xE4100000).toNat / 2 ^ 7 % 2 ^ 13 = 0 from hi_zero _ 0xE4100000 7 _ _ g (by decide) (by decide), List.forall_mem_nil _⟩) hw

theorem mzero (o : OpMZero) : Statement (.mzero o) := by
  intro _ hw
  obtain ⟨g, u⟩ := OpMZero_rt 0xE4200000 o (by decide) (by decide)
  have hm : (fld 26 6 (o.pack 0xE4200000)).toNat = 57 := hi_fld _ 0xE4200000 2 _ _ _ g (by decide) (by decide)
  have hk : (fld 20 6 (o.pack 0xE4200000)).toNat = 2 := hi_fld _ 0xE4200000 2 _ _ _ g (by decide) (by decide)
  exact decode_of _ (o.pack 0xE4200000) (by simp only [rawDecode, hm, raw39, hk, u]) (List.forall_mem_cons.2 ⟨show (o.pack 0xE4200000).toNat / 2 ^ 2 % 2 ^ 18 = 0 from hi_zero _ 0xE4200000 2 _ _ g (by decide) (by decide), List.forall_mem_nil _⟩) hw

theorem mwait (o : OpMWait) : Statement (.mwait o) := by
  intro _ hw
  obtain ⟨g, u⟩ := OpMWait_rt 0xE4300000 o (by decide) (by decide)
  have hm : (fld 26 6 (o.pack 0xE4300000)).toNat = 57 := hi_fld _ 0xE4300000 8 _ _ _ g (by decide) (by decide)
  have hk : (fld 20 6 (o.pack 0xE4300000)).toNat = 3 := hi_fld _ 0xE4300000 8 _ _ _ g (by decide) (by decide)
  exact decode_of _ (o.pack 0xE4300000) (by simp only [rawDecode, hm, raw39, hk, u]) (List.forall_mem_cons.2 ⟨show (o.pack 0xE4300000).toNat / 2 ^ 8 % 2 ^ 12 = 0 from hi_zero _ 0xE4300000 8 _ _ g (by decide) (by decide), List.forall_mem_nil _⟩) hw

theorem msig (o : OpMSig) : Statement (.msig o) := by
  intro _ hw
  obtain ⟨g, u⟩ := OpMSig_rt 0xE4400000 o (by decide) (by decide)
  have hm : (fld 26 6 (o.pack 0xE4400000)).toNat = 57 := hi_fld _ 0xE4400000 12 _ _ _ g (by decide) (by decide)
  have hk : (fld 20 6 (o.pack 0xE4400000)).toNat = 4 := hi_fld _ 0xE4400000 12 _ _ _ g (by decide) (by decide)
  exact decode_of _ (o.pack 0xE4400000) (by simp only [rawDecode, hm, raw39, hk, u]) (List.forall_mem_cons.2 ⟨show (o.pack 0xE4400000).toNat / 2 ^ 12 % 2 ^ 8 = 0 from hi_zero _ 0xE4400000 12 _ _ g (by decide) (by decide), List.forall_mem_nil _⟩) hw

theorem mfetch (o : OpMA) : Statement (.mfetch o) := by
  intro _ hw
  obtain ⟨g, u⟩ := OpMA_rt 0xE4500000 o (by decide) (by decide)
  have hm : (fld 26 6 (o.pack 0xE4500000)).toNat = 57 := hi_fld _ 0xE4500000 4 _ _ _ g (by decide) (by decide)
  have hk : (fld 20 6 (o.pack 0xE4500000)).toNat = 5 := hi_fld _ 0xE4500000 4 _ _ _ g (by decide) (by decide)
  exact decode_of _ (o.pack 0xE4500000) (by simp only [rawDecode, hm, raw39, hk, u]) (List.forall_mem_cons.2 ⟨show (o.pack 0xE4500000).toNat / 2 ^ 4 % 2 ^ 16 = 0 from hi_zero _ 0xE4500000 4 _ _ g (by decide) (by decide), List.forall_mem_nil _⟩) hw

theorem mend : Statement .mend := fun _ hw => decode_of _ _ (by decide) (by decide) hw

theorem mtime (o : OpMA) : Statement (.mtime o) := by
  intro _ hw
  obtain ⟨g, u⟩ := OpMA_rt 0xE4700000 o (by decide) (by decide)
  have hm : (fld 26 6 (o.pack 0xE4700000)).toNat = 57 := hi_fld _ 0xE4700000 4 _ _ _ g (by decide) (by decide)
  have hk : (fld 20 6 (o.pack 0xE4700000)).toNat = 7 := hi_fld _ 0xE4700000 4 _ _ _ g (by decide) (by decide)
  exact decode_of _ (o.pack 0xE4700000) (by simp only [rawDecode, hm, raw39, hk, u]) (List.forall_mem_cons.2 ⟨show (o.pack 0xE4700000).toNat / 2 ^ 4 % 2 ^ 16 = 0 from hi_zero _ 0xE4700000 4 _ _ g (by decide) (by decide), List.forall_mem_nil _⟩) hw

theorem mpop (o : OpMPop) : Statement (.mpop o) := by
  intro _ hw
  obtain ⟨g, u⟩ := OpMPop_rt 0xE4800000 o (by decide) (by decide)
  have hm : (fld 26 6 (o.pack 0xE4800000)).toNat = 57 := hi_fld _ 0xE4800000 11 _ _ _ g (by decide) (by decide)
  have hk : (fld 20 6 (o.pack 0xE4800000)).toNat = 8 := hi_fld _ 0xE4800000 11 _ _ _ g (by decide) (by decide)
  exact decode_of _ (o.pack 0xE4800000) (by simp only [rawDecode, hm, raw39, hk, u]) (List.forall_mem_cons.2 ⟨show (o.pack 0xE4800000).toNat / 2 ^ 11 % 2 ^ 9 = 0 from hi_zero _ 0xE4800000 11 _ _ g (by decide) (by decide), List.forall_mem_nil _⟩) hw

theorem madd (o : OpMAdd) : Statement (.madd o) := by
  intro _ hw
  have l0 := o.md.isLt
  have l1 := o.ma.isLt
  have l2 := o.mb.isLt
  have e := OpMAdd_val 0xE8000000 o (by decide)
  obtain ⟨g, u⟩ := OpMAdd_rt 0xE8000000 o (by decide) (by decide)
  have hm : (fld 26 6 (o.pack 0xE8000000)).toNat = 58 := hi_fld _ 0xE8000000 23 _ _ _ g (by decide) (by decide)
  have hk : (fld 23 3 (o.pack 0xE8000000)).toNat = 0 := hi_fld _ 0xE8000000 23 _ _ _ g (by decide) (by decide)
  exact decode_of _ (o.pack 0xE8000000) (by simp only [rawDecode, hm, raw3A, hk, u]) (List.forall_mem_cons.2 ⟨show (o.pack 0xE8000000).toNat / 2 ^ 4 % 2 ^ 11 = 0 from by omega, List.forall_mem_nil _⟩) hw

theorem maddi (o : OpMAddi) : Statement (.maddi o) := by
  intro _ hw
  obtain ⟨g, u⟩ := OpMAddi_rt 0xE8800000 o (by decide) (by decide)
  have hm : (fld 26 6 (o.pack 0xE8800000)).toNat = 58 := hi_fld _ 0xE8800000 23 _ _ _ g (by decide) (by decide)
  have hk : (fld 23 3 (o.pack 0xE8800000)).toNat = 1 := hi_fld _ 0xE8800000 23 _ _ _ g (by decide) (by decide)
  exact decode_of _ (o.pack 0xE8800000) (by simp only [rawDecode, hm, raw3A, hk, u]) (fun z hz => by cases hz) hw

theorem mli (o : OpMLi) : Statement (.mli o) := by
  intro _ hw
  obtain ⟨g, u⟩ := OpMLi_rt 0xE9000000 o (by decide) (by decide)
  have hm : (fld 26 6 (o.pack 0xE9000000)).toNat = 58 := hi_fld _ 0xE9000000 23 _ _ _ g (by decide) (by decide)
  have hk : (fld 23 3 (o.pack 0xE9000000)).toNat = 2 := hi_fld _ 0xE9000000 23 _ _ _ g (by decide) (by decide)
  exact decode_of _ (o.pack 0xE9000000) (by simp only [rawDecode, hm, raw3A, hk, u]) (fun z hz => by cases hz) hw

theorem mbnz (o : OpMBnz) : Statement (.mbnz o) := by
  intro _ hw
  obtain ⟨g, u⟩ := OpMBnz_rt 0xE9800000 o (by decide) (by decide)
  have hm : (fld 26 6 (o.pack 0xE9800000)).toNat = 58 := hi_fld _ 0xE9800000 19 _ _ _ g (by decide) (by decide)
  have hk : (fld 23 3 (o.pack 0xE9800000)).toNat = 3 := hi_fld _ 0xE9800000 19 _ _ _ g (by decide) (by decide)
  exact decode_of _ (o.pack 0xE9800000) (by simp only [rawDecode, hm, raw3A, hk, u]) (List.forall_mem_cons.2 ⟨show (o.pack 0xE9800000).toNat / 2 ^ 19 % 2 ^ 4 = 0 from hi_zero _ 0xE9800000 19 _ _ g (by decide) (by decide), List.forall_mem_nil _⟩) hw

theorem mj (o : OpMJ) : Statement (.mj o) := by
  intro _ hw
  obtain ⟨g, u⟩ := OpMJ_rt 0xEA000000 o (by decide) (by decide)
  have hm : (fld 26 6 (o.pack 0xEA000000)).toNat = 58 := hi_fld _ 0xEA000000 15 _ _ _ g (by decide) (by decide)
  have hk : (fld 23 3 (o.pack 0xEA000000)).toNat = 4 := hi_fld _ 0xEA000000 15 _ _ _ g (by decide) (by decide)
  exact decode_of _ (o.pack 0xEA000000) (by simp only [rawDecode, hm, raw3A, hk, u]) (List.forall_mem_cons.2 ⟨show (o.pack 0xEA000000).toNat / 2 ^ 19 % 2 ^ 4 = 0 from hi_zero _ 0xEA000000 15 _ _ g (by decide) (by decide), List.forall_mem_cons.2 ⟨show (o.pack 0xEA000000).toNat / 2 ^ 15 % 2 ^ 4 = 0 from hi_zero _ 0xEA000000 15 _ _ g (by decide) (by decide), List.forall_mem_nil _⟩⟩) hw

theorem registerReturn (id : Nat) : Statement (.registerReturn id) := fun h => by cases h

theorem syscAnswer (handle : BitVec 64) (answer : BitVec 64) (bytes : List (BitVec 8)) : Statement (.syscAnswer handle answer bytes) := fun h => by cases h

theorem twaitExpiry (q : Nat) : Statement (.twaitExpiry q) := fun h => by cases h

theorem barrierPhaseWake (q : Nat) : Statement (.barrierPhaseWake q) := fun h => by cases h

theorem barinitResume (q : Nat) : Statement (.barinitResume q) := fun h => by cases h

theorem tbwaitWake (q : Nat) : Statement (.tbwaitWake q) := fun h => by cases h

theorem bwaitDone (q : Nat) : Statement (.bwaitDone q) := fun h => by cases h

theorem bcloseResume (q : Nat) : Statement (.bcloseResume q) := fun h => by cases h

theorem sdrainDone (q : Nat) : Statement (.sdrainDone q) := fun h => by cases h

theorem kwaitDone (q : Nat) : Statement (.kwaitDone q) := fun h => by cases h

theorem lockWaitDone (q : Nat) : Statement (.lockWaitDone q) := fun h => by cases h

theorem allotGrant (core : Nat) (res : Resource) : Statement (.allotGrant core res) := fun h => by cases h

theorem streamReadFill (q port : Nat) : Statement (.streamReadFill q port) := fun h => by cases h

theorem streamWritePerform (q port : Nat) : Statement (.streamWritePerform q port) := fun h => by cases h

theorem bteStart (q : Nat) : Statement (.bteStart q) := fun h => by cases h

theorem copyNbtStart (id : Nat) : Statement (.copyNbtStart id) := fun h => by cases h

theorem copyComplete (id : Nat) : Statement (.copyComplete id) := fun h => by cases h

theorem copyFail (id code : Nat) : Statement (.copyFail id code) := fun h => by cases h

theorem mmaComplete (core : Nat) : Statement (.mmaComplete core) := fun h => by cases h

theorem mfetchDoorbellWrite (core : Nat) : Statement (.mfetchDoorbellWrite core) := fun h => by cases h

theorem teamAdmit (core vf : Nat) : Statement (.teamAdmit core vf) := fun h => by cases h

theorem gatherTimerExpiry (die vf index : Nat) : Statement (.gatherTimerExpiry die vf index) := fun h => by cases h

theorem expertAgeTimer (die vf expert : Nat) : Statement (.expertAgeTimer die vf expert) := fun h => by cases h

theorem expertFire (die vf expert core : Nat) : Statement (.expertFire die vf expert core) := fun h => by cases h

theorem gatheringLaunch (die vf expert : Nat) : Statement (.gatheringLaunch die vf expert) := fun h => by cases h

theorem eqStarveTimeout (die vf expert : Nat) : Statement (.eqStarveTimeout die vf expert) := fun h => by cases h

theorem activeSetEnter (q : Nat) : Statement (.activeSetEnter q) := fun h => by cases h

theorem blockedEvict (q : Nat) : Statement (.blockedEvict q) := fun h => by cases h

theorem yieldHoldExpiry (q : Nat) : Statement (.yieldHoldExpiry q) := fun h => by cases h

theorem aging (q : Nat) : Statement (.aging q) := fun h => by cases h

theorem notify (vf queue : Nat) : Statement (.notify vf queue) := fun h => by cases h

theorem wakeRefill : Statement (.wakeRefill) := fun h => by cases h

theorem launch (vf id : Nat) : Statement (.launch vf id) := fun h => by cases h

theorem launchComplete (lid : Nat) : Statement (.launchComplete lid) := fun h => by cases h

theorem copy (vf id : Nat) : Statement (.copy vf id) := fun h => by cases h

theorem templateLoad (vf id : Nat) : Statement (.templateLoad vf id) := fun h => by cases h

theorem dumpRead (vf id : Nat) : Statement (.dumpRead vf id) := fun h => by cases h

theorem configureTaskQueue (vf id : Nat) : Statement (.configureTaskQueue vf id) := fun h => by cases h

theorem configureExpert (vf id : Nat) : Statement (.configureExpert vf id) := fun h => by cases h

theorem disableTaskQueue (vf id : Nat) : Statement (.disableTaskQueue vf id) := fun h => by cases h

theorem disableExpert (vf id : Nat) : Statement (.disableExpert vf id) := fun h => by cases h

theorem assignPartitions (vf id : Nat) : Statement (.assignPartitions vf id) := fun h => by cases h

theorem writeGrant (vf id : Nat) : Statement (.writeGrant vf id) := fun h => by cases h

theorem clearGrant (vf id : Nat) : Statement (.clearGrant vf id) := fun h => by cases h

theorem stage2Inval (vf id : Nat) : Statement (.stage2Inval vf id) := fun h => by cases h

theorem tlbInval (vf id : Nat) : Statement (.tlbInval vf id) := fun h => by cases h

theorem demandFaultRetry (vf idx : Nat) : Statement (.demandFaultRetry vf idx) := fun h => by cases h

theorem demandFaultFail (vf idx : Nat) : Statement (.demandFaultFail vf idx) := fun h => by cases h

theorem featuresOk (vf : Nat) (status : BitVec 8) : Statement (.featuresOk vf status) := fun h => by cases h

theorem queueEnable (vf : Nat) : Statement (.queueEnable vf) := fun h => by cases h

theorem queueReset (vf : Nat) : Statement (.queueReset vf) := fun h => by cases h

theorem queueResetDone (vf queue : Nat) : Statement (.queueResetDone vf queue) := fun h => by cases h

theorem binderArm : Statement (.binderArm) := fun h => by cases h

theorem binderStop : Statement (.binderStop) := fun h => by cases h

theorem commitReward : Statement (.commitReward) := fun h => by cases h

theorem commitEnv : Statement (.commitEnv) := fun h => by cases h

theorem injvalid : Statement (.injvalid) := fun h => by cases h

theorem knobWrite (vf : Nat) (value : BitVec 32) : Statement (.knobWrite vf value) := fun h => by cases h

theorem binderIdleWrite (off bytes : Nat) (value : BitVec 64) : Statement (.binderIdleWrite off bytes value) := fun h => by cases h

theorem binderBoundary : Statement (.binderBoundary) := fun h => by cases h

theorem preempt (vf : Nat) : Statement (.preempt vf) := fun h => by cases h

theorem sliceExpiry (vf : Nat) : Statement (.sliceExpiry vf) := fun h => by cases h

theorem groupStop (q : Nat) : Statement (.groupStop q) := fun h => by cases h

theorem saveHandlerTimeout (vf q : Nat) : Statement (.saveHandlerTimeout vf q) := fun h => by cases h

theorem folioWrite (vf : Nat) : Statement (.folioWrite vf) := fun h => by cases h

theorem restore (vf : Nat) : Statement (.restore vf) := fun h => by cases h

theorem folioRestore (vf : Nat) (cores : List Nat) : Statement (.folioRestore vf cores) := fun h => by cases h

theorem resumeSave (vf : Nat) : Statement (.resumeSave vf) := fun h => by cases h

theorem discard (vf : Nat) : Statement (.discard vf) := fun h => by cases h

theorem exportImage (vf : Nat) : Statement (.exportImage vf) := fun h => by cases h

theorem hcmdHalt (vf : Nat) : Statement (.hcmdHalt vf) := fun h => by cases h

theorem hcmdResume (vf : Nat) : Statement (.hcmdResume vf) := fun h => by cases h

theorem hcmdStep (vf : Nat) : Statement (.hcmdStep vf) := fun h => by cases h

theorem groupHalt (q : Nat) : Statement (.groupHalt q) := fun h => by cases h

theorem dump (vf : Nat) (value : BitVec 64) : Statement (.dump vf value) := fun h => by cases h

theorem evlostRead (vf : Nat) : Statement (.evlostRead vf) := fun h => by cases h

theorem droopsRead : Statement (.droopsRead) := fun h => by cases h

theorem pdropRead : Statement (.pdropRead) := fun h => by cases h

theorem traceEnable (die : Nat) (value : BitVec 64) : Statement (.traceEnable die value) := fun h => by cases h

theorem traceForce (die : Nat) : Statement (.traceForce die) := fun h => by cases h

theorem traceFreeze (die : Nat) : Statement (.traceFreeze die) := fun h => by cases h

theorem pmcOverflow (core i : Nat) : Statement (.pmcOverflow core i) := fun h => by cases h

theorem correctedError (die vf core code : Nat) : Statement (.correctedError die vf core code) := fun h => by cases h

theorem uncorrectedError (source : DataSource) (vf : Nat) (line pa : BitVec 64) : Statement (.uncorrectedError source vf line pa) := fun h => by cases h

theorem dieHold (die cause : Nat) : Statement (.dieHold die cause) := fun h => by cases h

theorem dieRelease (die : Nat) : Statement (.dieRelease die) := fun h => by cases h

theorem dieReset (die : Nat) : Statement (.dieReset die) := fun h => by cases h

theorem timeSyncMeasure (offset : BitVec 32) : Statement (.timeSyncMeasure offset) := fun h => by cases h

theorem lockTimeout : Statement (.lockTimeout) := fun h => by cases h

theorem fabricPacketRx (die link vf : Nat) (tag : BitVec 16) (cells : List (Nat × BitVec 8)) : Statement (.fabricPacketRx die link vf tag cells) := fun h => by cases h

theorem collectiveStart (die id : Nat) (agree : Bool) : Statement (.collectiveStart die id agree) := fun h => by cases h

theorem collectiveStep (die id rank : Nat) (data : NodeBlock) : Statement (.collectiveStep die id rank data) := fun h => by cases h

theorem collectiveComplete (die id : Nat) : Statement (.collectiveComplete die id) := fun h => by cases h

theorem collWatchdogExpiry (die id : Nat) : Statement (.collWatchdogExpiry die id) := fun h => by cases h

theorem powerArbiterTick (demand : List Nat) : Statement (.powerArbiterTick demand) := fun h => by cases h

theorem thermalWarn (die sensor : Nat) (reading : BitVec 16) : Statement (.thermalWarn die sensor reading) := fun h => by cases h

theorem thermalCrit (die sensor : Nat) (reading : BitVec 16) : Statement (.thermalCrit die sensor reading) := fun h => by cases h

theorem thermalClear (die : Nat) : Statement (.thermalClear die) := fun h => by cases h

theorem droopTrip (die sensor : Nat) (reading : BitVec 16) : Statement (.droopTrip die sensor reading) := fun h => by cases h

theorem droopEnd (die : Nat) : Statement (.droopEnd die) := fun h => by cases h

theorem railCurrentLimit (die sensor : Nat) (reading : BitVec 16) : Statement (.railCurrentLimit die sensor reading) := fun h => by cases h

theorem powerOn (boot : BootOutcome) : Statement (.powerOn boot) := fun h => by cases h

theorem pfFlr (boot : BootOutcome) : Statement (.pfFlr boot) := fun h => by cases h

theorem vfFlr (vf : Nat) : Statement (.vfFlr vf) := fun h => by cases h

theorem vfResetDone (vf : Nat) (salt : BitVec 48) : Statement (.vfResetDone vf salt) := fun h => by cases h

theorem vfEnable (vf : Nat) (salt : BitVec 48) : Statement (.vfEnable vf salt) := fun h => by cases h

theorem getMeasurements : Statement (.getMeasurements) := fun h => by cases h

theorem getDeviceInterfaceState (vf : Nat) : Statement (.getDeviceInterfaceState vf) := fun h => by cases h

theorem registerWrite (block : RegBlock) (off bytes : Nat) (value : BitVec 64) : Statement (.registerWrite block off bytes value) := fun h => by cases h

theorem kStepBoundary (core : Nat) : Statement (.kStepBoundary core) := fun h => by cases h

theorem mtimeExpiry (core : Nat) : Statement (.mtimeExpiry core) := fun h => by cases h

theorem launchNbtStart (lid : Nat) : Statement (.launchNbtStart lid) := fun h => by cases h

theorem tdiTransition (vf : Nat) (target : TdiState) : Statement (.tdiTransition vf target) := fun h => by cases h

theorem vfDisable (vf : Nat) : Statement (.vfDisable vf) := fun h => by cases h

end Sys2Proof.Laws.RoundTrip
end

