-- ==== Sys2Proof/Laws/Vector.lean ====
section
/-!
SUPPORT. The vector destination: what a run of lanes makes of a register, and that a write delivers it, by the reuse table
or without it.
-/

set_option Elab.async false
namespace Sys2Proof.Machine

/-- The run of a word that rounds nothing and raises nothing. -/
theorem runLanes_plain (act live seed : W32) (val : Nat → W32) :
    runLanes act live seed (fun sd k => (val k, 0, sd)) = { vals := (List.range 32).map val, flags := 0, seed := seed } := by
  unfold runLanes
  suffices ∀ n, (List.range n).foldl (fun (r : LaneRun) s =>
    if act.getLsbD s then
      { vals := r.vals ++ [val s], flags := if live.getLsbD s then r.flags ||| 0 else r.flags, seed := r.seed }
    else { r with vals := r.vals ++ [val s] }) { vals := [], flags := 0, seed := seed }
      = { vals := (List.range n).map val, flags := 0, seed := seed } from this 32
  intro n
  induction n with
  | zero => rfl
  | succ n ih => rw [List.range_succ, List.foldl_append, ih]; simp

/-- The result of 02 R50 and R51 is the value of a run. -/
theorem vresult_value (old : VReg) (sh : Shape) (run : LaneRun) (s : State) :
    LaneValue old run sh s (vresult s.me old sh (fun k => run.vals.getD k 0)) := by
  constructor
  · intro h1 h2; simp [vresult, h1, h2]
  · intro b d h1 h2; simp [vresult, h1, h2]
  · intro h1 h2; simp [vresult, h1, h2, generalReg, VReg.code]
  · intro h k hk
    cases hc : s.me.covers
    · simp only [vresult, hc, Bool.not_false, if_true, mergeReg]
      split
      · rename_i hh
        simp only [List.all_eq_true, List.mem_range, Bool.or_eq_true, Bool.not_eq_true', beq_iff_eq] at hh
        split
        · rename_i h3
          rcases hh k hk with h4 | h4
          · simp [h4] at h3
          · exact h4.symm
        · rfl
      · simp [VReg.lane, List.getD_eq_getElem?_getD, hk]
    · rcases h with h | h
      · simp [hc] at h
      · simp [vresult, hc, h, generalReg, VReg.lane, List.getD_eq_getElem?_getD, hk]
  · intro hc
    simp only [vresult, hc, Bool.not_false, if_true, mergeReg]
    split
    · exact .inr rfl
    · exact .inl rfl

/-- A count changes the cores alone. -/
theorem count_eq (core ev vf k : Nat) (s : State) : ∃ cs, count core ev vf k s = { s with cores := cs } := by
  unfold count
  split
  · exact ⟨_, rfl⟩
  · exact ⟨_, rfl⟩

/-- What writing vector register n of a group can change: that register, its bits and marks, the stores and counters of its
core, and nothing else. -/
theorem putVq_spec (q n : Nat) (r : VReg) (s : State) :
    ∃ (r' : VReg) (cs : Tab Core), putVq q n r s = modGroup q (fun g => { g with
        v := Tab.set g.v n r', fullV := g.fullV ||| BitVec.ofNat 112 (2 ^ n), badV := Tab.del g.badV n })
        { s with cores := cs } ∧ r'.lanes = r.lanes ∧ r'.code = r.code := by
  unfold putVq
  dsimp only
  split
  · rename_i k l
    generalize (Core.enter _ _ _ _) = e
    obtain ⟨c1, h1⟩ := count_eq (coreOf q) evRefsat (groupAt s q).vf e.1.refsat
      (modCore (coreOf q) (fun _ => e.2) (modCore (coreOf q) (Core.releaseReg ((groupAt s q).vreg n)) s))
    obtain ⟨c2, h2⟩ := count_eq (coreOf q) evCollide (groupAt s q).vf e.1.collide { s with cores := c1 }
    obtain ⟨c3, h3⟩ := count_eq (coreOf q) evDedup (groupAt s q).vf e.1.dedup { s with cores := c2 }
    refine ⟨.general e.1.name l, c3, ?_, rfl, rfl⟩
    have h1' : count (coreOf q) evRefsat (groupAt s q).vf e.1.refsat
      (modCore (coreOf q) (fun _ => e.2) (modCore (coreOf q) (Core.releaseReg ((groupAt s q).vreg n)) s))
        = { s with cores := c1 } := h1
    rw [h1', h2]
    have h3' : count (coreOf q) evDedup (groupAt s q).vf e.1.dedup { ({ s with cores := c1 } : State) with cores := c2 }
        = { s with cores := c3 } := h3
    rw [h3']
  · exact ⟨_, _, rfl, rfl, rfl⟩

/-- Writing a vector register delivers it (02 R50, R58). -/
theorem putV_delivers {n : Nat} {r : VReg} {s : State} (h : n < 112) : Delivers n r s (putV n r s) := by
  obtain ⟨r', cs, e, hl, hc⟩ := putVq_spec s.qid n r s
  have hbit : ∀ x : BitVec 112, (x ||| BitVec.ofNat 112 (2 ^ n)).getLsbD n = true := by
    intro x
    rw [BitVec.getLsbD_or, BitVec.getLsbD_ofNat, Nat.testBit_two_pow_self]
    simp only [h, decide_true, Bool.and_true, Bool.or_true]
  have hm : ∀ t : State, t = putVq s.qid n r s → t.me.vreg n = r' ∧ t.me.vFull n = true ∧ t.qid = s.qid := by
    intro t ht
    rw [ht, e]
    refine ⟨?_, ?_, rfl⟩
    · simp [State.me, State.qid, modGroup, setGroup, groupAt, Group.vreg]
    · simpa [State.me, State.qid, modGroup, setGroup, groupAt, Group.vFull] using hbit _
  obtain ⟨h1, h2, h3⟩ := hm _ rfl
  unfold putV
  constructor
  · intro _
    dsimp only
    split
    · exact h2
    · simpa [Group.vFull] using h2
  · intro _
    dsimp only
    split
    · rw [h1]; exact ⟨hl, hc⟩
    · have : (modMe (fun g => { g with badV := keptBad s s.qid n }) (putVq s.qid n r s)).me.vreg n = r' := by
        simpa [Group.vreg] using h1
      rw [this]; exact ⟨hl, hc⟩
  · intro h'; omega

/-- A vector destination is delivered, a register or a write port. -/
theorem putDest_delivers (n : Nat) (r : VReg) (s : State) : Delivers n r s (putDest n r s) := by
  unfold putDest
  split
  · exact putV_delivers ‹_›
  · exact ⟨fun h => absurd h ‹_›, fun h => absurd h ‹_›, fun _ => by simp⟩

end Sys2Proof.Machine
end

