-- ==== Sys2Proof/Tests/Slice0.lean ====
section
/-!
SUPPORT. Tests: ill-formed terms, the words of the encoding tables, one step at a time, and a state for the premises of every
statement.
-/
namespace Sys2Proof.Machine
open Sys2Proof

set_option Elab.async false

/-! ## Decoding: a word of every constructor, from its fields in the encoding tables (04 R91 to R106) -/

theorem test_decode_01 :
    decode 0x0643441C = .ok (.hint { gaps := 0x90d1, yields := 7 }) :=
  rfl

theorem test_decode_02 :
    decode 0x091F8000 = .ok (.rep { cnt := 0x11, fmD := true, fmA := true, fmB := true, str := 3 }) :=
  rfl

theorem test_decode_03 :
    decode 0x0C1443EF = .ok (.stage { vd := 0x51, va := 7, vb := 0x6f }) :=
  rfl

theorem test_decode_04 :
    decode 0x1007FE3E = .ok (.mode { mask := 0x3f, nanp := true, ftz := true, sat := true, rnd := 4, et := 7, grd := 6 })
    ∧ decode 0x10100011 = .ok (.modev { sa := 0x11 })
    ∧ decode 0x10200011 = .ok (.moder { sd := 0x11 })
    ∧ decode 0x10300011 = .ok (.fill { sa := 0x11 })
    ∧ decode 0x10300051 = .ok (.fillRd { sd := 0x11 })
    ∧ decode 0x10411C07 = .ok (.sget { sd := 0x11, num := 0xc07 })
    ∧ decode 0x10511C07 = .ok (.sset { sa := 0x11, num := 0xc07 }) :=
  ⟨rfl, rfl, rfl, rfl, rfl, rfl, rfl⟩

theorem test_decode_05_0 :
    decode 0x14000000 = .ok (.nop)
    ∧ decode 0x14100000 = .ok (.exit)
    ∧ decode 0x14200000 = .ok (.lexit)
    ∧ decode 0x143090D1 = .ok (.trap { imm := 0x90d1 })
    ∧ decode 0x14400000 = .ok (.eret)
    ∧ decode 0x1450046B = .ok (.sysc { sa := 0x11, sd := 0x2b })
    ∧ decode 0x146090D1 = .ok (.brk { imm := 0x90d1 })
    ∧ decode 0x14700011 = .ok (.twait { sa := 0x11 }) :=
  ⟨rfl, rfl, rfl, rfl, rfl, rfl, rfl, rfl⟩

theorem test_decode_05_1 :
    decode 0x14800000 = .ok (.yield) :=
  rfl

theorem test_decode_06_0 :
    decode 0x18119C07 = .ok (.bEqz { sa := 0x11, off := 0x9c07 })
    ∧ decode 0x18519C07 = .ok (.bNez { sa := 0x11, off := 0x9c07 })
    ∧ decode 0x18919C07 = .ok (.bLtz { sa := 0x11, off := 0x9c07 })
    ∧ decode 0x18D19C07 = .ok (.bGez { sa := 0x11, off := 0x9c07 })
    ∧ decode 0x19119C07 = .ok (.bGtz { sa := 0x11, off := 0x9c07 })
    ∧ decode 0x19519C07 = .ok (.bLez { sa := 0x11, off := 0x9c07 })
    ∧ decode 0x19819C07 = .ok (.bPany { pa := 1, off := 0x9c07 })
    ∧ decode 0x19C19C07 = .ok (.bPnone { pa := 1, off := 0x9c07 }) :=
  ⟨rfl, rfl, rfl, rfl, rfl, rfl, rfl, rfl⟩

theorem test_decode_06_1 :
    decode 0x1A019C07 = .ok (.bPall { pa := 1, off := 0x9c07 })
    ∧ decode 0x1A4090D1 = .ok (.bAlways { off := 0x90d1 }) :=
  ⟨rfl, rfl⟩

theorem test_decode_07 :
    decode 0x1CD990D1 = .ok (.j { off := 0xd990d1 }) :=
  rfl

theorem test_decode_08 :
    decode 0x20D990D1 = .ok (.call { off := 0xd990d1 }) :=
  rfl

theorem test_decode_09 :
    decode 0x24004408 = .ok (.jr { sa := 0x11, ta := true })
    ∧ decode 0x24404408 = .ok (.callr { sa := 0x11, ta := true }) :=
  ⟨rfl, rfl⟩

theorem test_decode_0A :
    decode 0x28000447 = .ok (.loop { len := 0x11, cnt := 7 }) :=
  rfl

theorem test_decode_0C_0 :
    decode 0x30111EFC = .ok (.add { sd := 0x11, sa := 7, sb := 0x2f, ta := true, tb := true })
    ∧ decode 0x30511EFC = .ok (.sub { sd := 0x11, sa := 7, sb := 0x2f, ta := true, tb := true })
    ∧ decode 0x30911EFC = .ok (.and { sd := 0x11, sa := 7, sb := 0x2f, ta := true, tb := true })
    ∧ decode 0x30D11EFC = .ok (.or { sd := 0x11, sa := 7, sb := 0x2f, ta := true, tb := true })
    ∧ decode 0x31111EFC = .ok (.xor { sd := 0x11, sa := 7, sb := 0x2f, ta := true, tb := true })
    ∧ decode 0x31511EFC = .ok (.andn { sd := 0x11, sa := 7, sb := 0x2f, ta := true, tb := true })
    ∧ decode 0x31911EFC = .ok (.shl { sd := 0x11, sa := 7, sb := 0x2f, ta := true, tb := true })
    ∧ decode 0x31D11EFC = .ok (.shr { sd := 0x11, sa := 7, sb := 0x2f, ta := true, tb := true }) :=
  ⟨rfl, rfl, rfl, rfl, rfl, rfl, rfl, rfl⟩

theorem test_decode_0C_1 :
    decode 0x32111EFC = .ok (.sar { sd := 0x11, sa := 7, sb := 0x2f, ta := true, tb := true })
    ∧ decode 0x32511EFC = .ok (.rol { sd := 0x11, sa := 7, sb := 0x2f, ta := true, tb := true })
    ∧ decode 0x32911EFC = .ok (.min { sd := 0x11, sa := 7, sb := 0x2f, ta := true, tb := true })
    ∧ decode 0x32D11EFC = .ok (.max { sd := 0x11, sa := 7, sb := 0x2f, ta := true, tb := true })
    ∧ decode 0x33111EFC = .ok (.minz { sd := 0x11, sa := 7, sb := 0x2f, ta := true, tb := true })
    ∧ decode 0x33511EFC = .ok (.maxz { sd := 0x11, sa := 7, sb := 0x2f, ta := true, tb := true })
    ∧ decode 0x33911EFC = .ok (.slt { sd := 0x11, sa := 7, sb := 0x2f, ta := true, tb := true })
    ∧ decode 0x33D11EFC = .ok (.sltz { sd := 0x11, sa := 7, sb := 0x2f, ta := true, tb := true }) :=
  ⟨rfl, rfl, rfl, rfl, rfl, rfl, rfl, rfl⟩

theorem test_decode_0D_0 :
    decode 0x34111EFC = .ok (.mul { sd := 0x11, sa := 7, sb := 0x2f, ta := true, tb := true })
    ∧ decode 0x34511EFC = .ok (.mulh { sd := 0x11, sa := 7, sb := 0x2f, ta := true, tb := true })
    ∧ decode 0x34911EFC = .ok (.mulhz { sd := 0x11, sa := 7, sb := 0x2f, ta := true, tb := true })
    ∧ decode 0x34D11EFC = .ok (.div { sd := 0x11, sa := 7, sb := 0x2f, ta := true, tb := true })
    ∧ decode 0x35111EFC = .ok (.divz { sd := 0x11, sa := 7, sb := 0x2f, ta := true, tb := true })
    ∧ decode 0x35511EFC = .ok (.rem { sd := 0x11, sa := 7, sb := 0x2f, ta := true, tb := true })
    ∧ decode 0x35911EFC = .ok (.remz { sd := 0x11, sa := 7, sb := 0x2f, ta := true, tb := true })
    ∧ decode 0x35D11C08 = .ok (.clz { sd := 0x11, sa := 7, ta := true }) :=
  ⟨rfl, rfl, rfl, rfl, rfl, rfl, rfl, rfl⟩

theorem test_decode_0D_1 :
    decode 0x36111C08 = .ok (.ctz { sd := 0x11, sa := 7, ta := true })
    ∧ decode 0x36511C08 = .ok (.popc { sd := 0x11, sa := 7, ta := true })
    ∧ decode 0x36911C08 = .ok (.brev { sd := 0x11, sa := 7, ta := true })
    ∧ decode 0x36D11C08 = .ok (.sextb { sd := 0x11, sa := 7, ta := true })
    ∧ decode 0x37111C08 = .ok (.sexth { sd := 0x11, sa := 7, ta := true })
    ∧ decode 0x37511C08 = .ok (.sextw { sd := 0x11, sa := 7, ta := true })
    ∧ decode 0x37911C08 = .ok (.zextw { sd := 0x11, sa := 7, ta := true }) :=
  ⟨rfl, rfl, rfl, rfl, rfl, rfl, rfl⟩

theorem test_decode_0E :
    decode 0x38447C6F = .ok (.addi { sd := 0x11, sa := 7, imm := 0xc6f })
    ∧ decode 0x39447C6F = .ok (.slti { sd := 0x11, sa := 7, imm := 0xc6f })
    ∧ decode 0x3A447C6F = .ok (.sltiz { sd := 0x11, sa := 7, imm := 0xc6f }) :=
  ⟨rfl, rfl, rfl⟩

theorem test_decode_0F :
    decode 0x3C447C6F = .ok (.andi { sd := 0x11, sa := 7, imm := 0xc6f })
    ∧ decode 0x3D447C6F = .ok (.ori { sd := 0x11, sa := 7, imm := 0xc6f })
    ∧ decode 0x3E447C6F = .ok (.xori { sd := 0x11, sa := 7, imm := 0xc6f }) :=
  ⟨rfl, rfl, rfl⟩

theorem test_decode_10 :
    decode 0x4044702F = .ok (.shli { sd := 0x11, sa := 7, amt := 0x2f })
    ∧ decode 0x4144702F = .ok (.shri { sd := 0x11, sa := 7, amt := 0x2f })
    ∧ decode 0x4244702F = .ok (.sari { sd := 0x11, sa := 7, amt := 0x2f })
    ∧ decode 0x4344702F = .ok (.roli { sd := 0x11, sa := 7, amt := 0x2f }) :=
  ⟨rfl, rfl, rfl, rfl⟩

theorem test_decode_11 :
    decode 0x451A9C07 = .ok (.lis { sd := 0x11, imm := 0xa9c07 }) :=
  rfl

theorem test_decode_12 :
    decode 0x491A9C07 = .ok (.addpc { sd := 0x11, imm := 0xa9c07 }) :=
  rfl

theorem test_decode_13 :
    decode 0x4D1A9C07 = .ok (.lihi { sd := 0x11, imm := 0xa9c07 }) :=
  rfl

theorem test_decode_14 :
    decode 0x50223C6F = .ok (.sldb { sd := 0x11, sa := 7, off := 0x46f })
    ∧ decode 0x50A23C6F = .ok (.sldbz { sd := 0x11, sa := 7, off := 0x46f })
    ∧ decode 0x51223C6F = .ok (.sldh { sd := 0x11, sa := 7, off := 0x46f })
    ∧ decode 0x51A23C6F = .ok (.sldhz { sd := 0x11, sa := 7, off := 0x46f })
    ∧ decode 0x52223C6F = .ok (.sldw { sd := 0x11, sa := 7, off := 0x46f })
    ∧ decode 0x52A23C6F = .ok (.sldwz { sd := 0x11, sa := 7, off := 0x46f })
    ∧ decode 0x53223C6F = .ok (.sldd { sd := 0x11, sa := 7, off := 0x46f }) :=
  ⟨rfl, rfl, rfl, rfl, rfl, rfl, rfl⟩

theorem test_decode_15 :
    decode 0x54223C6F = .ok (.sstb { sd := 0x11, sa := 7, off := 0x46f })
    ∧ decode 0x54A23C6F = .ok (.ssth { sd := 0x11, sa := 7, off := 0x46f })
    ∧ decode 0x55223C6F = .ok (.sstw { sd := 0x11, sa := 7, off := 0x46f })
    ∧ decode 0x55A23C6F = .ok (.sstd { sd := 0x11, sa := 7, off := 0x46f }) :=
  ⟨rfl, rfl, rfl, rfl⟩

theorem test_decode_16_0 :
    decode 0x58177D27 = .ok (.satomAdd { sem := 1, scp := 3, sd := 0x2f, sa := 0x29, sb := 7 })
    ∧ decode 0x58577D27 = .ok (.satomAnd { sem := 1, scp := 3, sd := 0x2f, sa := 0x29, sb := 7 })
    ∧ decode 0x58977D27 = .ok (.satomOr { sem := 1, scp := 3, sd := 0x2f, sa := 0x29, sb := 7 })
    ∧ decode 0x58D77D27 = .ok (.satomXor { sem := 1, scp := 3, sd := 0x2f, sa := 0x29, sb := 7 })
    ∧ decode 0x59177D27 = .ok (.satomMin { sem := 1, scp := 3, sd := 0x2f, sa := 0x29, sb := 7 })
    ∧ decode 0x59577D27 = .ok (.satomMax { sem := 1, scp := 3, sd := 0x2f, sa := 0x29, sb := 7 })
    ∧ decode 0x59977D27 = .ok (.satomMinz { sem := 1, scp := 3, sd := 0x2f, sa := 0x29, sb := 7 })
    ∧ decode 0x59D77D27 = .ok (.satomMaxz { sem := 1, scp := 3, sd := 0x2f, sa := 0x29, sb := 7 }) :=
  ⟨rfl, rfl, rfl, rfl, rfl, rfl, rfl, rfl⟩

theorem test_decode_16_1 :
    decode 0x5A177D27 = .ok (.satomXchg { sem := 1, scp := 3, sd := 0x2f, sa := 0x29, sb := 7 })
    ∧ decode 0x5A577D27 = .ok (.satomCas { sem := 1, scp := 3, sd := 0x2f, sa := 0x29, sb := 7 })
    ∧ decode 0x5A877D20 = .ok (.satomLd { sem := 0, scp := 3, sd := 0x2f, sa := 0x29 })
    ∧ decode 0x5AC605E9 = .ok (.satomSt { sem := 0, scp := 3, sa := 0x2f, sb := 9 }) :=
  ⟨rfl, rfl, rfl, rfl⟩

theorem test_decode_17 :
    decode 0x5C223B29 = .ok (.slda { sd := 0x11, sa := 7, scp := 3, off := 0x29 })
    ∧ decode 0x5CA23B29 = .ok (.sstl { sd := 0x11, sa := 7, scp := 3, off := 0x29 })
    ∧ decode 0x5D223B29 = .ok (.sldaw { sd := 0x11, sa := 7, scp := 3, off := 0x29 })
    ∧ decode 0x5DA23B29 = .ok (.sstlw { sd := 0x11, sa := 7, scp := 3, off := 0x29 }) :=
  ⟨rfl, rfl, rfl, rfl⟩

theorem test_decode_18 :
    decode 0x607BD4C7 = .ok (.vadd { ta := true, tb := true, vd := 0x6f, va := 0x29, vb := 0x47 })
    ∧ decode 0x60FBD4C7 = .ok (.vsub { ta := true, tb := true, vd := 0x6f, va := 0x29, vb := 0x47 })
    ∧ decode 0x617BD4C7 = .ok (.vmul { ta := true, tb := true, vd := 0x6f, va := 0x29, vb := 0x47 })
    ∧ decode 0x61FBD4C7 = .ok (.vmulh { ta := true, tb := true, vd := 0x6f, va := 0x29, vb := 0x47 })
    ∧ decode 0x627BD4C7 = .ok (.vmad { ta := true, tb := true, vd := 0x6f, va := 0x29, vb := 0x47 })
    ∧ decode 0x62FBD4C7 = .ok (.vmin { ta := true, tb := true, vd := 0x6f, va := 0x29, vb := 0x47 })
    ∧ decode 0x637BD4C7 = .ok (.vmax { ta := true, tb := true, vd := 0x6f, va := 0x29, vb := 0x47 })
    ∧ decode 0x63FBD4C7 = .ok (.vabsd { ta := true, tb := true, vd := 0x6f, va := 0x29, vb := 0x47 }) :=
  ⟨rfl, rfl, rfl, rfl, rfl, rfl, rfl, rfl⟩

theorem test_decode_19 :
    decode 0x647BD4C7 = .ok (.vand { ta := true, tb := true, vd := 0x6f, va := 0x29, vb := 0x47 })
    ∧ decode 0x64FBD4C7 = .ok (.vor { ta := true, tb := true, vd := 0x6f, va := 0x29, vb := 0x47 })
    ∧ decode 0x657BD4C7 = .ok (.vxor { ta := true, tb := true, vd := 0x6f, va := 0x29, vb := 0x47 })
    ∧ decode 0x65FBD4C7 = .ok (.vandn { ta := true, tb := true, vd := 0x6f, va := 0x29, vb := 0x47 })
    ∧ decode 0x667BD4C7 = .ok (.vshl { ta := true, tb := true, vd := 0x6f, va := 0x29, vb := 0x47 })
    ∧ decode 0x66FBD4C7 = .ok (.vshr { ta := true, tb := true, vd := 0x6f, va := 0x29, vb := 0x47 })
    ∧ decode 0x677BD4C7 = .ok (.vsar { ta := true, tb := true, vd := 0x6f, va := 0x29, vb := 0x47 })
    ∧ decode 0x67FBD4C7 = .ok (.vrol { ta := true, tb := true, vd := 0x6f, va := 0x29, vb := 0x47 }) :=
  ⟨rfl, rfl, rfl, rfl, rfl, rfl, rfl, rfl⟩

theorem test_decode_1A :
    decode 0x6843EFA6 = .ok (.vaddi { ta := true, vd := 7, va := 0x6f, imm := 0xa6 })
    ∧ decode 0x68C3EFA6 = .ok (.vmuli { ta := true, vd := 7, va := 0x6f, imm := 0xa6 })
    ∧ decode 0x6943EFA6 = .ok (.vandi { ta := true, vd := 7, va := 0x6f, imm := 0xa6 })
    ∧ decode 0x69C3EFA6 = .ok (.vori { ta := true, vd := 7, va := 0x6f, imm := 0xa6 })
    ∧ decode 0x6A43EFA6 = .ok (.vxori { ta := true, vd := 7, va := 0x6f, imm := 0xa6 })
    ∧ decode 0x6AC3EF13 = .ok (.vshli { ta := true, vd := 7, va := 0x6f, imm := 0x13 })
    ∧ decode 0x6B43EF13 = .ok (.vshri { ta := true, vd := 7, va := 0x6f, imm := 0x13 })
    ∧ decode 0x6BC3EF13 = .ok (.vsari { ta := true, vd := 7, va := 0x6f, imm := 0x13 }) :=
  ⟨rfl, rfl, rfl, rfl, rfl, rfl, rfl, rfl⟩

theorem test_decode_1B :
    decode 0x6C7BD4C7 = .ok (.vfadd { ta := true, tb := true, vd := 0x6f, va := 0x29, vb := 0x47 })
    ∧ decode 0x6CFBD4C7 = .ok (.vfsub { ta := true, tb := true, vd := 0x6f, va := 0x29, vb := 0x47 })
    ∧ decode 0x6D7BD4C7 = .ok (.vfmul { ta := true, tb := true, vd := 0x6f, va := 0x29, vb := 0x47 })
    ∧ decode 0x6DFBD4C7 = .ok (.vfmin { ta := true, tb := true, vd := 0x6f, va := 0x29, vb := 0x47 })
    ∧ decode 0x6E7BD4C7 = .ok (.vfmax { ta := true, tb := true, vd := 0x6f, va := 0x29, vb := 0x47 })
    ∧ decode 0x6EC1F780 = .ok (.vfabs { ta := true, vd := 7, va := 0x6f })
    ∧ decode 0x6F41F780 = .ok (.vfneg { ta := true, vd := 7, va := 0x6f })
    ∧ decode 0x6FFBD4C7 = .ok (.vfsgn { ta := true, tb := true, vd := 0x6f, va := 0x29, vb := 0x47 }) :=
  ⟨rfl, rfl, rfl, rfl, rfl, rfl, rfl, rfl⟩

theorem test_decode_1C :
    decode 0x707BD4C7 = .ok (.vfma { ta := true, tb := true, vd := 0x6f, va := 0x29, vb := 0x47 })
    ∧ decode 0x70FBD4C7 = .ok (.vfms { ta := true, tb := true, vd := 0x6f, va := 0x29, vb := 0x47 })
    ∧ decode 0x717BD4C7 = .ok (.vfnma { ta := true, tb := true, vd := 0x6f, va := 0x29, vb := 0x47 })
    ∧ decode 0x71FBD4C7 = .ok (.vdot2 { ta := true, tb := true, vd := 0x6f, va := 0x29, vb := 0x47 })
    ∧ decode 0x727BD4C7 = .ok (.vdot4i { ta := true, tb := true, vd := 0x6f, va := 0x29, vb := 0x47 }) :=
  ⟨rfl, rfl, rfl, rfl, rfl⟩

theorem test_decode_1D :
    decode 0x7441F780 = .ok (.vrcp { ta := true, vd := 7, va := 0x6f })
    ∧ decode 0x74C1F780 = .ok (.vrsq { ta := true, vd := 7, va := 0x6f })
    ∧ decode 0x7541F780 = .ok (.vsqrt { ta := true, vd := 7, va := 0x6f })
    ∧ decode 0x75C1F780 = .ok (.vexp2 { ta := true, vd := 7, va := 0x6f })
    ∧ decode 0x7641F780 = .ok (.vlog2 { ta := true, vd := 7, va := 0x6f })
    ∧ decode 0x76C1F780 = .ok (.vsin { ta := true, vd := 7, va := 0x6f })
    ∧ decode 0x7741F780 = .ok (.vcos { ta := true, vd := 7, va := 0x6f })
    ∧ decode 0x77C1F780 = .ok (.vtanh { ta := true, vd := 7, va := 0x6f }) :=
  ⟨rfl, rfl, rfl, rfl, rfl, rfl, rfl, rfl⟩

theorem test_decode_1E :
    decode 0x7A77A996 = .ok (.vcvt { rnd := 4, ta := true, vd := 0x6f, va := 0x29, st := 9, dt := 6 }) :=
  rfl

theorem test_decode_1F :
    decode 0x7E77A900 = .ok (.vmxq { fmt := 4, ta := true, vd := 0x6f, va := 0x29 })
    ∧ decode 0x7E77A940 = .ok (.vmxd { fmt := 4, ta := true, vd := 0x6f, va := 0x29 }) :=
  ⟨rfl, rfl⟩

theorem test_decode_20 :
    decode 0x806154C7 = .ok (.vcmpEq { ta := true, tb := true, pd := 5, va := 0x29, vb := 0x47 })
    ∧ decode 0x80E154C7 = .ok (.vcmpNe { ta := true, tb := true, pd := 5, va := 0x29, vb := 0x47 })
    ∧ decode 0x816154C7 = .ok (.vcmpLt { ta := true, tb := true, pd := 5, va := 0x29, vb := 0x47 })
    ∧ decode 0x81E154C7 = .ok (.vcmpLe { ta := true, tb := true, pd := 5, va := 0x29, vb := 0x47 })
    ∧ decode 0x826154C7 = .ok (.vcmpGt { ta := true, tb := true, pd := 5, va := 0x29, vb := 0x47 })
    ∧ decode 0x82E154C7 = .ok (.vcmpGe { ta := true, tb := true, pd := 5, va := 0x29, vb := 0x47 })
    ∧ decode 0x836154C7 = .ok (.vcmpUnord { ta := true, tb := true, pd := 5, va := 0x29, vb := 0x47 })
    ∧ decode 0x83E154C7 = .ok (.vcmpOrd { ta := true, tb := true, pd := 5, va := 0x29, vb := 0x47 }) :=
  ⟨rfl, rfl, rfl, rfl, rfl, rfl, rfl, rfl⟩

theorem test_decode_21 :
    decode 0x847BD4C7 = .ok (.vperm { ta := true, tb := true, vd := 0x6f, va := 0x29, vb := 0x47 })
    ∧ decode 0x84FBD4C7 = .ok (.vbperm { ta := true, tb := true, vd := 0x6f, va := 0x29, vb := 0x47 }) :=
  ⟨rfl, rfl⟩

theorem test_decode_22 :
    decode 0x8843EF1B = .ok (.vshfx { ta := true, vd := 7, va := 0x6f, imm := 0x1b })
    ∧ decode 0x88C3EF0D = .ok (.vslideu { ta := true, vd := 7, va := 0x6f, imm := 0xd })
    ∧ decode 0x8943EF15 = .ok (.vslided { ta := true, vd := 7, va := 0x6f, imm := 0x15 })
    ∧ decode 0x89C3EF1E = .ok (.vlaneb { ta := true, vd := 7, va := 0x6f, imm := 0x1e })
    ∧ decode 0x8A43EF0A = .ok (.vquad { ta := true, vd := 7, va := 0x6f, imm := 0xa }) :=
  ⟨rfl, rfl, rfl, rfl, rfl⟩

theorem test_decode_23 :
    decode 0x8C41F780 = .ok (.vscanadd { ta := true, vd := 7, va := 0x6f })
    ∧ decode 0x8CC1F780 = .ok (.vscanmin { ta := true, vd := 7, va := 0x6f })
    ∧ decode 0x8D41F780 = .ok (.vscanmax { ta := true, vd := 7, va := 0x6f })
    ∧ decode 0x8DC1F780 = .ok (.vscanor { ta := true, vd := 7, va := 0x6f })
    ∧ decode 0x8E41F780 = .ok (.vxscanadd { ta := true, vd := 7, va := 0x6f })
    ∧ decode 0x8EC1F780 = .ok (.vxscanmax { ta := true, vd := 7, va := 0x6f }) :=
  ⟨rfl, rfl, rfl, rfl, rfl, rfl⟩

theorem test_decode_24 :
    decode 0x9040072F = .ok (.vredadd { ta := true, va := 7, sb := 0x2f })
    ∧ decode 0x90C0072F = .ok (.vredmin { ta := true, va := 7, sb := 0x2f })
    ∧ decode 0x9140072F = .ok (.vredmax { ta := true, va := 7, sb := 0x2f })
    ∧ decode 0x91C0072F = .ok (.vredand { ta := true, va := 7, sb := 0x2f })
    ∧ decode 0x9240072F = .ok (.vredor { ta := true, va := 7, sb := 0x2f }) :=
  ⟨rfl, rfl, rfl, rfl, rfl⟩

theorem test_decode_25_0 :
    decode 0x942FE000 = .ok (.pand { pd := 5, pa := 7, pb := 7 })
    ∧ decode 0x946FE000 = .ok (.por { pd := 5, pa := 7, pb := 7 })
    ∧ decode 0x94AFE000 = .ok (.pxor { pd := 5, pa := 7, pb := 7 })
    ∧ decode 0x94EFE000 = .ok (.pandn { pd := 5, pa := 7, pb := 7 })
    ∧ decode 0x952F0000 = .ok (.pnot { pd := 5, pa := 7 })
    ∧ decode 0x956F0000 = .ok (.pmov { pd := 5, pa := 7 })
    ∧ decode 0x95A80380 = .ok (.pset { pd := 5, sa := 7 })
    ∧ decode 0x95C10380 = .ok (.pget { pa := 1, sd := 7 }) :=
  ⟨rfl, rfl, rfl, rfl, rfl, rfl, rfl, rfl⟩

theorem test_decode_25_1 :
    decode 0x96010380 = .ok (.pcnt { pa := 1, sd := 7 })
    ∧ decode 0x96410380 = .ok (.pfirst { pa := 1, sd := 7 })
    ∧ decode 0x96AF0000 = .ok (.qhelp { pd := 5, pa := 7 }) :=
  ⟨rfl, rfl, rfl⟩

theorem test_decode_26 :
    decode 0x9843EF00 = .ok (.vmov { ta := true, vd := 7, va := 0x6f })
    ∧ decode 0x98C3EF00 = .ok (.vmova { ta := true, vd := 7, va := 0x6f })
    ∧ decode 0x99288007 = .ok (.vbcast { vd := 0x51, sb := 7 })
    ∧ decode 0x99A8872F = .ok (.viota { vd := 0x51, k := 7, sb := 0x2f })
    ∧ decode 0x9A40072F = .ok (.vshape { ta := true, va := 7, sb := 0x2f })
    ∧ decode 0x9AC3EF00 = .ok (.vgen { ta := true, vd := 7, va := 0x6f })
    ∧ decode 0x9B43EF29 = .ok (.vext { ta := true, vd := 7, va := 0x6f, sb := 0x29 }) :=
  ⟨rfl, rfl, rfl, rfl, rfl, rfl, rfl⟩

theorem test_decode_27 :
    decode 0x9C511F7F = .ok (.vldw { vd := 0x51, sb := 7, vo := 0x6f, t := true, sc := 3 })
    ∧ decode 0x9CD11F7F = .ok (.vldh { vd := 0x51, sb := 7, vo := 0x6f, t := true, sc := 3 })
    ∧ decode 0x9D511F7F = .ok (.vldhz { vd := 0x51, sb := 7, vo := 0x6f, t := true, sc := 3 })
    ∧ decode 0x9DD11F7F = .ok (.vldb { vd := 0x51, sb := 7, vo := 0x6f, t := true, sc := 3 })
    ∧ decode 0x9E511F7F = .ok (.vldbz { vd := 0x51, sb := 7, vo := 0x6f, t := true, sc := 3 })
    ∧ decode 0x9ED11C00 = .ok (.vldu { vd := 0x51, sb := 7 })
    ∧ decode 0x9F511F7F = .ok (.vldq { vd := 0x51, sb := 7, vo := 0x6f, t := true, sc := 3 }) :=
  ⟨rfl, rfl, rfl, rfl, rfl, rfl, rfl⟩

theorem test_decode_28 :
    decode 0xA0511F7F = .ok (.vstw { vd := 0x51, sb := 7, vo := 0x6f, t := true, sc := 3 })
    ∧ decode 0xA0D11F7F = .ok (.vsth { vd := 0x51, sb := 7, vo := 0x6f, t := true, sc := 3 })
    ∧ decode 0xA1511F7F = .ok (.vstb { vd := 0x51, sb := 7, vo := 0x6f, t := true, sc := 3 })
    ∧ decode 0xA1D11F7F = .ok (.vstq { vd := 0x51, sb := 7, vo := 0x6f, t := true, sc := 3 }) :=
  ⟨rfl, rfl, rfl, rfl⟩

theorem test_decode_29_0 :
    decode 0xA417BD4F = .ok (.vatomAdd { sem := 1, scp := 3, vd := 0x6f, vo := 0x29, sbx := 7 })
    ∧ decode 0xA457BD4F = .ok (.vatomAnd { sem := 1, scp := 3, vd := 0x6f, vo := 0x29, sbx := 7 })
    ∧ decode 0xA497BD4F = .ok (.vatomOr { sem := 1, scp := 3, vd := 0x6f, vo := 0x29, sbx := 7 })
    ∧ decode 0xA4D7BD4F = .ok (.vatomXor { sem := 1, scp := 3, vd := 0x6f, vo := 0x29, sbx := 7 })
    ∧ decode 0xA517BD4F = .ok (.vatomMin { sem := 1, scp := 3, vd := 0x6f, vo := 0x29, sbx := 7 })
    ∧ decode 0xA557BD4F = .ok (.vatomMax { sem := 1, scp := 3, vd := 0x6f, vo := 0x29, sbx := 7 })
    ∧ decode 0xA597BD4F = .ok (.vatomMinz { sem := 1, scp := 3, vd := 0x6f, vo := 0x29, sbx := 7 })
    ∧ decode 0xA5D7BD4F = .ok (.vatomMaxz { sem := 1, scp := 3, vd := 0x6f, vo := 0x29, sbx := 7 }) :=
  ⟨rfl, rfl, rfl, rfl, rfl, rfl, rfl, rfl⟩

theorem test_decode_29_1 :
    decode 0xA617BD4F = .ok (.vatomXchg { sem := 1, scp := 3, vd := 0x6f, vo := 0x29, sbx := 7 })
    ∧ decode 0xA656A94F = .ok (.vatomCas { sem := 1, scp := 3, vd := 0x2a, vo := 0x29, sbx := 7 })
    ∧ decode 0xA697BD4F = .ok (.vatomFadd { sem := 1, scp := 3, vd := 0x6f, vo := 0x29, sbx := 7 })
    ∧ decode 0xA6C7BD4F = .ok (.vatomLd { sem := 0, scp := 3, vd := 0x6f, vo := 0x29, sbx := 7 })
    ∧ decode 0xA707BD4F = .ok (.vatomSt { sem := 0, scp := 3, vd := 0x6f, vo := 0x29, sbx := 7 }) :=
  ⟨rfl, rfl, rfl, rfl, rfl⟩

theorem test_decode_2A :
    decode 0xA8511F7B = .ok (.vlda { vd := 0x51, sb := 7, vo := 0x6f, scp := 3 })
    ∧ decode 0xA8D11F7B = .ok (.vstl { vd := 0x51, sb := 7, vo := 0x6f, scp := 3 }) :=
  ⟨rfl, rfl⟩

theorem test_decode_2B :
    decode 0xAC00000D = .ok (.fence { scp := 3, sem := 1 })
    ∧ decode 0xAC100001 = .ok (.bar { id := 1 })
    ∧ decode 0xAC200001 = .ok (.bara { id := 1 })
    ∧ decode 0xAC300001 = .ok (.barw { id := 1 })
    ∧ decode 0xAC400117 = .ok (.barinit { sa := 0x11, id := 7 })
    ∧ decode 0xAC5021EF = .ok (.cjoin { exp := 2, sa := 7, sd := 0x2f })
    ∧ decode 0xAC600000 = .ok (.cleave) :=
  ⟨rfl, rfl, rfl, rfl, rfl, rfl, rfl⟩

theorem test_decode_2C :
    decode 0xB00008FA = .ok (.sopen { sa := 0x11, port := 0x7a })
    ∧ decode 0xB010007A = .ok (.sclose { port := 0x7a })
    ∧ decode 0xB020007A = .ok (.sdrain { port := 0x7a }) :=
  ⟨rfl, rfl, rfl⟩

theorem test_decode_2D :
    decode 0xB4000087 = .ok (.bclose { rw := 2, sd := 7 })
    ∧ decode 0xB4100447 = .ok (.bwait { sa := 0x11, sd := 7 })
    ∧ decode 0xB4200447 = .ok (.tbinit { sb := 0x11, sa := 7 })
    ∧ decode 0xB43000C7 = .ok (.tbarr { scp := 3, sa := 7 })
    ∧ decode 0xB4400447 = .ok (.tbexp { sb := 0x11, sa := 7 })
    ∧ decode 0xB45031EF = .ok (.tbwait { scp := 3, sa := 7, sd := 0x2f }) :=
  ⟨rfl, rfl, rfl, rfl, rfl, rfl⟩

theorem test_decode_2E_0 :
    decode 0xB8001447 = .ok (.vacqW { sa := 0x11, sd := 7 })
    ∧ decode 0xB8000447 = .ok (.vacqT { sa := 0x11, sd := 7 })
    ∧ decode 0xB8100440 = .ok (.vrel { sa := 0x11 })
    ∧ decode 0xB8201447 = .ok (.pgacqW { sa := 0x11, sd := 7 })
    ∧ decode 0xB8200447 = .ok (.pgacqT { sa := 0x11, sd := 7 })
    ∧ decode 0xB8300440 = .ok (.pgrel { sa := 0x11 })
    ∧ decode 0xB8401447 = .ok (.aacqW { sa := 0x11, sd := 7 })
    ∧ decode 0xB8400447 = .ok (.aacqT { sa := 0x11, sd := 7 }) :=
  ⟨rfl, rfl, rfl, rfl, rfl, rfl, rfl, rfl⟩

theorem test_decode_2E_1 :
    decode 0xB8500440 = .ok (.arel { sa := 0x11 })
    ∧ decode 0xB8601447 = .ok (.macqW { sa := 0x11, sd := 7 })
    ∧ decode 0xB8600447 = .ok (.macqT { sa := 0x11, sd := 7 })
    ∧ decode 0xB8700000 = .ok (.mrel) :=
  ⟨rfl, rfl, rfl, rfl⟩

theorem test_decode_2F :
    decode 0xBC223EF0 = .ok (.tspawn { sh := 0x11, se := 7, va := 0x6f })
    ∧ decode 0xBCA20070 = .ok (.qpush { sh := 0x11, va := 7 })
    ∧ decode 0xBD220070 = .ok (.qpop { sh := 0x11, va := 7 })
    ∧ decode 0xBDA20070 = .ok (.qsteal { sh := 0x11, va := 7 })
    ∧ decode 0xBE220070 = .ok (.eqpush { sh := 0x11, va := 7 })
    ∧ decode 0xBEA23800 = .ok (.eqfire { sh := 0x11, se := 7 }) :=
  ⟨rfl, rfl, rfl, rfl, rfl, rfl⟩

theorem test_decode_30 :
    decode 0xC04F523D = .ok (.adrain { rnd := 4, acc := 3, q := 3, vd := 0x29, sb := 7, dt := 5 })
    ∧ decode 0xC0040F7E = .ok (.adrainRaw { acc := 1, sr := 7, sb := 0x2f })
    ∧ decode 0xC087DF4D = .ok (.afill { acc := 1, q := 3, vd := 0x6f, sb := 0x29, dt := 5 })
    ∧ decode 0xC0840F7E = .ok (.afillRaw { acc := 1, sr := 7, sb := 0x2f }) :=
  ⟨rfl, rfl, rfl, rfl⟩

theorem test_decode_31 :
    decode 0xC4000447 = .ok (.kstart { sb := 0x11, sa := 7 })
    ∧ decode 0xC4100447 = .ok (.kwait { sa := 0x11, sd := 7 }) :=
  ⟨rfl, rfl⟩

theorem test_decode_32 :
    decode 0xC8000447 = .ok (.cdrain { sa := 0x11, sd := 7 })
    ∧ decode 0xC8100447 = .ok (.cstate { sa := 0x11, sd := 7 })
    ∧ decode 0xC8200447 = .ok (.cload { sb := 0x11, sa := 7 })
    ∧ decode 0xC8300011 = .ok (.csaved { sa := 0x11 })
    ∧ decode 0xC8400011 = .ok (.crestart { sa := 0x11 })
    ∧ decode 0xC8500011 = .ok (.msave { sa := 0x11 })
    ∧ decode 0xC8600011 = .ok (.mload { sa := 0x11 }) :=
  ⟨rfl, rfl, rfl, rfl, rfl, rfl, rfl⟩

theorem test_decode_33 :
    decode 0xCC000447 = .ok (.mbox { idx := 0x11, sa := 7 })
    ∧ decode 0xCC100447 = .ok (.dhalt { sa := 0x11, sd := 7 })
    ∧ decode 0xCC200447 = .ok (.dresume { sa := 0x11, sd := 7 })
    ∧ decode 0xCC300447 = .ok (.dstep { sa := 0x11, sd := 7 })
    ∧ decode 0xCC400447 = .ok (.dunpin { sa := 0x11, sd := 7 })
    ∧ decode 0xCC500447 = .ok (.bpset { idx := 0x11, sa := 7 })
    ∧ decode 0xCC600011 = .ok (.warm { sa := 0x11 }) :=
  ⟨rfl, rfl, rfl, rfl, rfl, rfl, rfl⟩

theorem test_decode_38 :
    decode 0xE347D725 = .ok (.mma { wait := 0xd1, s := true, set := 7, acc := 1, fb := 7, ra := 1, rb := 1, kx := 1 }) :=
  rfl

theorem test_decode_39_0 :
    decode 0xE4000017 = .ok (.mldfb { ma := 1, fb := 7 })
    ∧ decode 0xE410000F = .ok (.mring { ma := 1, ring := 7 })
    ∧ decode 0xE4200001 = .ok (.mzero { acc := 1 })
    ∧ decode 0xE43000D1 = .ok (.mwait { wait := 0xd1 })
    ∧ decode 0xE4400D17 = .ok (.msig { wait := 0xd1, ma := 7 })
    ∧ decode 0xE4500001 = .ok (.mfetch { ma := 1 })
    ∧ decode 0xE4600000 = .ok (.mend)
    ∧ decode 0xE4700001 = .ok (.mtime { ma := 1 }) :=
  ⟨rfl, rfl, rfl, rfl, rfl, rfl, rfl, rfl⟩

theorem test_decode_39_1 :
    decode 0xE480068F = .ok (.mpop { wait := 0xd1, ring := 7 }) :=
  rfl

theorem test_decode_3A :
    decode 0xE80B800F = .ok (.madd { md := 1, ma := 7, mb := 0xf })
    ∧ decode 0xE88BDC6F = .ok (.maddi { md := 1, ma := 7, imm := 0x5c6f })
    ∧ decode 0xE90BDC6F = .ok (.mli { md := 1, sh := 7, imm := 0x5c6f })
    ∧ decode 0xE9809C07 = .ok (.mbnz { ma := 1, imm := 0x1c07 })
    ∧ decode 0xEA0010D1 = .ok (.mj { imm := 0x10d1 }) :=
  ⟨rfl, rfl, rfl, rfl, rfl⟩

/-! ## Ill-formed instructions, one for each check (04 R101 to R108) -/

theorem test_illformed_0 :
    ([.mode { mask := 0x1f, nanp := true, ftz := false, sat := false, rnd := 0, et := 0, grd := 0 },
      .mode { mask := 0x2f, nanp := false, ftz := true, sat := false, rnd := 0, et := 0, grd := 0 },
      .mode { mask := 0x37, nanp := false, ftz := false, sat := true, rnd := 0, et := 0, grd := 0 },
      .mode { mask := 0x3f, nanp := true, ftz := true, sat := true, rnd := 7, et := 7, grd := 6 },
      .mode { mask := 0x3b, nanp := true, ftz := true, sat := true, rnd := 1, et := 7, grd := 6 },
      .mode { mask := 0x3f, nanp := true, ftz := true, sat := true, rnd := 4, et := 0xd, grd := 6 },
      .mode { mask := 0x3d, nanp := true, ftz := true, sat := true, rnd := 4, et := 1, grd := 6 },
      .mode { mask := 0x3e, nanp := true, ftz := true, sat := true, rnd := 4, et := 7, grd := 1 },
      .sysc { sa := 0x11, sd := 0 },
      .satomAdd { sem := 1, scp := 5, sd := 0x2f, sa := 0x29, sb := 7 },
      .satomAnd { sem := 1, scp := 5, sd := 0x2f, sa := 0x29, sb := 7 },
      .satomOr { sem := 1, scp := 5, sd := 0x2f, sa := 0x29, sb := 7 }] : List Instr).all (fun i => !i.wellFormed) = true := by
  decide

theorem test_illformed_1 :
    ([.satomXor { sem := 1, scp := 5, sd := 0x2f, sa := 0x29, sb := 7 },
      .satomMin { sem := 1, scp := 5, sd := 0x2f, sa := 0x29, sb := 7 },
      .satomMax { sem := 1, scp := 5, sd := 0x2f, sa := 0x29, sb := 7 },
      .satomMinz { sem := 1, scp := 5, sd := 0x2f, sa := 0x29, sb := 7 },
      .satomMaxz { sem := 1, scp := 5, sd := 0x2f, sa := 0x29, sb := 7 },
      .satomXchg { sem := 1, scp := 5, sd := 0x2f, sa := 0x29, sb := 7 },
      .satomCas { sem := 1, scp := 5, sd := 0x2f, sa := 0x29, sb := 7 },
      .satomLd { sem := 0, scp := 5, sd := 0x2f, sa := 0x29 },
      .satomLd { sem := 2, scp := 3, sd := 0x2f, sa := 0x29 },
      .satomSt { sem := 0, scp := 5, sa := 0x2f, sb := 9 },
      .satomSt { sem := 1, scp := 3, sa := 0x2f, sb := 9 },
      .slda { sd := 0x11, sa := 7, scp := 5, off := 0x29 }] : List Instr).all (fun i => !i.wellFormed) = true := by
  decide

theorem test_illformed_2 :
    ([.sstl { sd := 0x11, sa := 7, scp := 5, off := 0x29 },
      .sldaw { sd := 0x11, sa := 7, scp := 5, off := 0x29 },
      .sstlw { sd := 0x11, sa := 7, scp := 5, off := 0x29 },
      .vshli { ta := true, vd := 7, va := 0x6f, imm := 0x20 },
      .vshri { ta := true, vd := 7, va := 0x6f, imm := 0x20 },
      .vsari { ta := true, vd := 7, va := 0x6f, imm := 0x20 },
      .vcvt { rnd := 7, ta := true, vd := 0x6f, va := 0x29, st := 9, dt := 6 },
      .vcvt { rnd := 4, ta := true, vd := 0x6f, va := 0x29, st := 0xe, dt := 6 },
      .vcvt { rnd := 4, ta := true, vd := 0x6f, va := 0x29, st := 9, dt := 0xe },
      .vmxq { fmt := 6, ta := true, vd := 0x6f, va := 0x29 },
      .vmxd { fmt := 6, ta := true, vd := 0x6f, va := 0x29 },
      .vcmpEq { ta := true, tb := true, pd := 0, va := 0x29, vb := 0x47 }] : List Instr).all (fun i => !i.wellFormed) = true := by
  decide

theorem test_illformed_3 :
    ([.vcmpNe { ta := true, tb := true, pd := 0, va := 0x29, vb := 0x47 },
      .vcmpLt { ta := true, tb := true, pd := 0, va := 0x29, vb := 0x47 },
      .vcmpLe { ta := true, tb := true, pd := 0, va := 0x29, vb := 0x47 },
      .vcmpGt { ta := true, tb := true, pd := 0, va := 0x29, vb := 0x47 },
      .vcmpGe { ta := true, tb := true, pd := 0, va := 0x29, vb := 0x47 },
      .vcmpUnord { ta := true, tb := true, pd := 0, va := 0x29, vb := 0x47 },
      .vcmpOrd { ta := true, tb := true, pd := 0, va := 0x29, vb := 0x47 },
      .vshfx { ta := true, vd := 7, va := 0x6f, imm := 0x20 },
      .vslideu { ta := true, vd := 7, va := 0x6f, imm := 0x20 },
      .vslided { ta := true, vd := 7, va := 0x6f, imm := 0x20 },
      .vlaneb { ta := true, vd := 7, va := 0x6f, imm := 0x20 },
      .vquad { ta := true, vd := 7, va := 0x6f, imm := 0xc }] : List Instr).all (fun i => !i.wellFormed) = true := by
  decide

theorem test_illformed_4 :
    ([.vquad { ta := true, vd := 7, va := 0x6f, imm := 3 },
      .pand { pd := 0, pa := 7, pb := 7 },
      .por { pd := 0, pa := 7, pb := 7 },
      .pxor { pd := 0, pa := 7, pb := 7 },
      .pandn { pd := 0, pa := 7, pb := 7 },
      .pnot { pd := 0, pa := 7 },
      .pmov { pd := 0, pa := 7 },
      .pset { pd := 0, sa := 7 },
      .qhelp { pd := 0, pa := 7 },
      .vatomAdd { sem := 1, scp := 5, vd := 0x6f, vo := 0x29, sbx := 7 },
      .vatomAnd { sem := 1, scp := 5, vd := 0x6f, vo := 0x29, sbx := 7 },
      .vatomOr { sem := 1, scp := 5, vd := 0x6f, vo := 0x29, sbx := 7 }] : List Instr).all (fun i => !i.wellFormed) = true := by
  decide

theorem test_illformed_5 :
    ([.vatomXor { sem := 1, scp := 5, vd := 0x6f, vo := 0x29, sbx := 7 },
      .vatomMin { sem := 1, scp := 5, vd := 0x6f, vo := 0x29, sbx := 7 },
      .vatomMax { sem := 1, scp := 5, vd := 0x6f, vo := 0x29, sbx := 7 },
      .vatomMinz { sem := 1, scp := 5, vd := 0x6f, vo := 0x29, sbx := 7 },
      .vatomMaxz { sem := 1, scp := 5, vd := 0x6f, vo := 0x29, sbx := 7 },
      .vatomXchg { sem := 1, scp := 5, vd := 0x6f, vo := 0x29, sbx := 7 },
      .vatomCas { sem := 1, scp := 5, vd := 0x2a, vo := 0x29, sbx := 7 },
      .vatomCas { sem := 1, scp := 3, vd := 0x2b, vo := 0x29, sbx := 7 },
      .vatomFadd { sem := 1, scp := 5, vd := 0x6f, vo := 0x29, sbx := 7 },
      .vatomLd { sem := 0, scp := 5, vd := 0x6f, vo := 0x29, sbx := 7 },
      .vatomLd { sem := 2, scp := 3, vd := 0x6f, vo := 0x29, sbx := 7 },
      .vatomSt { sem := 0, scp := 5, vd := 0x6f, vo := 0x29, sbx := 7 }] : List Instr).all (fun i => !i.wellFormed) = true := by
  decide

theorem test_illformed_6 :
    ([.vatomSt { sem := 1, scp := 3, vd := 0x6f, vo := 0x29, sbx := 7 },
      .vlda { vd := 0x51, sb := 7, vo := 0x6f, scp := 5 },
      .vstl { vd := 0x51, sb := 7, vo := 0x6f, scp := 5 },
      .fence { scp := 5, sem := 1 },
      .fence { scp := 3, sem := 0 },
      .cjoin { exp := 3, sa := 7, sd := 0x2f },
      .sopen { sa := 0x11, port := 0x6f },
      .sclose { port := 0x6f },
      .sdrain { port := 0x6f },
      .bclose { rw := 3, sd := 7 },
      .tbarr { scp := 5, sa := 7 },
      .tbwait { scp := 5, sa := 7, sd := 0x2f }] : List Instr).all (fun i => !i.wellFormed) = true := by
  decide

theorem test_illformed_7 :
    ([.adrain { rnd := 7, acc := 3, q := 3, vd := 0x29, sb := 7, dt := 5 },
      .adrain { rnd := 4, acc := 3, q := 3, vd := 0x29, sb := 7, dt := 7 },
      .adrain { rnd := 4, acc := 3, q := 3, vd := 0x29, sb := 7, dt := 6 },
      .afill { acc := 1, q := 3, vd := 0x6f, sb := 0x29, dt := 7 },
      .afill { acc := 1, q := 3, vd := 0x6f, sb := 0x29, dt := 6 }] : List Instr).all (fun i => !i.wellFormed) = true := by
  decide

theorem test_illformed_event_0 :
    ([.twaitExpiry 32768,
      .barrierPhaseWake 32768,
      .barinitResume 32768,
      .tbwaitWake 32768,
      .bwaitDone 32768,
      .bcloseResume 32768,
      .sdrainDone 32768,
      .kwaitDone 32768,
      .lockWaitDone 32768,
      .allotGrant 256 .vregs,
      .streamReadFill 32768 112,
      .streamReadFill 0 128,
      .streamWritePerform 32768 112,
      .streamWritePerform 0 128,
      .bteStart 32768,
      .copyFail 0 256] : List Instr).all (fun i => !i.wellFormed) = true := by
  decide

theorem test_illformed_event_1 :
    ([.mmaComplete 256,
      .mfetchDoorbellWrite 256,
      .teamAdmit 256 0,
      .teamAdmit 0 513,
      .gatherTimerExpiry 4 0 0,
      .gatherTimerExpiry 0 513 0,
      .gatherTimerExpiry 0 0 65535,
      .expertAgeTimer 4 0 0,
      .expertAgeTimer 0 513 0,
      .expertAgeTimer 0 0 256,
      .expertFire 4 0 0 0,
      .expertFire 0 513 0 0,
      .expertFire 0 0 256 0,
      .expertFire 0 0 0 256,
      .gatheringLaunch 4 0 0,
      .gatheringLaunch 0 513 0] : List Instr).all (fun i => !i.wellFormed) = true := by
  decide

theorem test_illformed_event_2 :
    ([.gatheringLaunch 0 0 256,
      .eqStarveTimeout 4 0 0,
      .eqStarveTimeout 0 513 0,
      .eqStarveTimeout 0 0 256,
      .activeSetEnter 32768,
      .blockedEvict 32768,
      .yieldHoldExpiry 32768,
      .aging 32768,
      .notify 513 0,
      .notify 0 64,
      .launch 513 0,
      .copy 513 0,
      .templateLoad 513 0,
      .dumpRead 513 0,
      .configureTaskQueue 513 0,
      .configureExpert 513 0] : List Instr).all (fun i => !i.wellFormed) = true := by
  decide

theorem test_illformed_event_3 :
    ([.disableTaskQueue 513 0,
      .disableExpert 513 0,
      .assignPartitions 513 0,
      .writeGrant 513 0,
      .clearGrant 513 0,
      .stage2Inval 513 0,
      .tlbInval 513 0,
      .demandFaultRetry 513 0,
      .demandFaultFail 513 0,
      .featuresOk 513 0,
      .queueEnable 513,
      .queueReset 513,
      .queueResetDone 513 0,
      .queueResetDone 0 64,
      .knobWrite 513 0,
      .binderIdleWrite 0 3 0] : List Instr).all (fun i => !i.wellFormed) = true := by
  decide

theorem test_illformed_event_4 :
    ([.preempt 513,
      .sliceExpiry 513,
      .groupStop 32768,
      .saveHandlerTimeout 513 0,
      .saveHandlerTimeout 0 32768,
      .folioWrite 513,
      .restore 513,
      .folioRestore 513 [],
      .resumeSave 513,
      .discard 513,
      .exportImage 513,
      .hcmdHalt 513,
      .hcmdResume 513,
      .hcmdStep 513,
      .groupHalt 32768,
      .dump 513 0] : List Instr).all (fun i => !i.wellFormed) = true := by
  decide

theorem test_illformed_event_5 :
    ([.evlostRead 513,
      .traceEnable 4 0,
      .traceForce 4,
      .traceFreeze 4,
      .pmcOverflow 256 0,
      .pmcOverflow 0 16,
      .correctedError 4 0 0 0,
      .correctedError 0 513 0 0,
      .correctedError 0 0 256 0,
      .correctedError 0 0 0 256,
      .uncorrectedError .hbm 513 0 0,
      .dieHold 5 0,
      .dieRelease 5,
      .dieReset 5,
      .fabricPacketRx 4 0 0 0 [],
      .fabricPacketRx 0 0 513 0 []] : List Instr).all (fun i => !i.wellFormed) = true := by
  decide

theorem test_illformed_event_6 :
    ([.collectiveStart 4 0 true,
      .collectiveStep 4 0 0 ⟨0, 0, []⟩,
      .collectiveComplete 4 0,
      .collWatchdogExpiry 4 0,
      .thermalWarn 5 0 0,
      .thermalCrit 5 0 0,
      .thermalClear 5,
      .droopTrip 5 0 0,
      .droopEnd 5,
      .railCurrentLimit 5 0 0,
      .powerOn { signatureOk := true, version := 0, keysOk := true, hbmOk := true, spineOk := true, kernelOk := true, linksDown := 0, powerCap := 600, digests := [], dieKeys := [], vfCount := 512, pcieIds := 0 },
      .pfFlr { signatureOk := true, version := 0, keysOk := true, hbmOk := true, spineOk := true, kernelOk := true, linksDown := 0, powerCap := 600, digests := [], dieKeys := [], vfCount := 512, pcieIds := 0 },
      .vfFlr 513,
      .vfResetDone 513 0,
      .vfEnable 513 0,
      .getDeviceInterfaceState 513] : List Instr).all (fun i => !i.wellFormed) = true := by
  decide

theorem test_illformed_event_7 :
    ([.registerWrite .bringUp 0 3 0,
      .kStepBoundary 256,
      .mtimeExpiry 256,
      .tdiTransition 513 .locked,
      .vfDisable 513] : List Instr).all (fun i => !i.wellFormed) = true := by
  decide

/-! ## Small states -/

/-- The group of the placed word, about to execute at VA 0x10000, with what a test sets in it. -/
def tg (f : Group → Group) : State := modMe f { State.reset.withFetchWord 32 0x14000000 with cur := .group 0, agenda := [] }

/-- A scalar register, a vector value, a predicate after a step; none where it answers no next state. -/
def sAfter (o : Out) (n : Nat) : Option W64 := (nextOf o).map (fun t => t.me.readS n)
def vAfter (o : Out) (n k : Nat) : Option W32 := (nextOf o).map (fun t => (t.me.vreg n).lane k)
def pAfter (o : Out) (n : Nat) : Option W32 := (nextOf o).map (fun t => t.me.readP n)
def pcAfter (o : Out) : Option W64 := (nextOf o).map (fun t => t.me.pc)
/-- The trap that a step took: its code and its information; none where it took none. -/
def trapAfter (o : Out) : Option (W64 × W64) := (nextOf o).bind (fun t => if t.me.hact then some (t.me.tcode, t.me.tinfo) else none)
def runs (o : Out) : Bool := (nextOf o).isSome

/-- Scalar registers from 1 on. -/
def withS (l : List W64) (g : Group) : Group := { g with s := l.zipIdx.map (fun x => (x.2 + 1, x.1)), tvec := 0x20000 }

/-- Vector registers from 1 on, general. -/
def withV (l : List (List W32)) (g : Group) : Group := { g with v := l.zipIdx.map (fun x => (x.2 + 1, .general x.2 x.1)), tvec := 0x20000 }
def rr (sd sa sb : BitVec 6) : OpSR := { sd := sd, sa := sa, sb := sb, ta := false, tb := false }
def vr (vd va vb : BitVec 7) : OpVR := { ta := false, tb := false, vd := vd, va := va, vb := vb }
def vr1 (vd va : BitVec 7) : OpVR1 := { ta := false, vd := vd, va := va }
def vi (vd va : BitVec 7) (imm : BitVec 8) : OpVI := { ta := false, vd := vd, va := va, imm := imm }

/-! ## One step at a time, with values worked out from the rules by hand -/

theorem test_add_wraps :
    sAfter (exec (.add (rr 3 1 2)) (tg (withS [-1, 2]))) 3 = some 1 := by
  decide +kernel

theorem test_sub_wraps :
    sAfter (exec (.sub (rr 3 1 2)) (tg (withS [0, 1]))) 3 = some (-1) := by
  decide +kernel

theorem test_andn :
    sAfter (exec (.andn (rr 3 1 2)) (tg (withS [0xFF, 0x0F]))) 3 = some 0xF0 := by
  decide +kernel

theorem test_shl_amount :
    sAfter (exec (.shl (rr 3 1 2)) (tg (withS [1, 65]))) 3 = some 2 := by
  decide +kernel

theorem test_sar_sign :
    sAfter (exec (.sar (rr 3 1 2)) (tg (withS [-8, 1]))) 3 = some (-4) := by
  decide +kernel

theorem test_rol :
    sAfter (exec (.rol (rr 3 1 2)) (tg (withS [0x8000000000000001, 1]))) 3 = some 3 := by
  decide +kernel

theorem test_min_signed :
    sAfter (exec (.min (rr 3 1 2)) (tg (withS [-1, 1]))) 3 = some (-1) := by
  decide +kernel

theorem test_minz_unsigned :
    sAfter (exec (.minz (rr 3 1 2)) (tg (withS [-1, 1]))) 3 = some 1 := by
  decide +kernel

theorem test_slt :
    sAfter (exec (.slt (rr 3 1 2)) (tg (withS [-1, 0]))) 3 = some 1 := by
  decide +kernel

theorem test_sltz :
    sAfter (exec (.sltz (rr 3 1 2)) (tg (withS [-1, 0]))) 3 = some 0 := by
  decide +kernel

theorem test_mulh :
    sAfter (exec (.mulh (rr 3 1 2)) (tg (withS [-1, -1]))) 3 = some 0 := by
  decide +kernel

theorem test_mulhz :
    sAfter (exec (.mulhz (rr 3 1 2)) (tg (withS [-1, -1]))) 3 = some (-2) := by
  decide +kernel

theorem test_div_by_zero :
    sAfter (exec (.div (rr 3 1 2)) (tg (withS [7, 0]))) 3 = some (-1) := by
  decide +kernel

theorem test_div_min :
    sAfter (exec (.div (rr 3 1 2)) (tg (withS [0x8000000000000000, -1]))) 3 = some 0x8000000000000000 := by
  decide +kernel

theorem test_rem_by_zero :
    sAfter (exec (.rem (rr 3 1 2)) (tg (withS [7, 0]))) 3 = some 7 := by
  decide +kernel

theorem test_rem_sign :
    sAfter (exec (.rem (rr 3 1 2)) (tg (withS [-7, 2]))) 3 = some (-1) := by
  decide +kernel

theorem test_clz :
    sAfter (exec (.clz { sd := 3, sa := 1, ta := false }) (tg (withS [1]))) 3 = some 63 := by
  decide +kernel

theorem test_ctz_zero :
    sAfter (exec (.ctz { sd := 3, sa := 1, ta := false }) (tg (withS [0]))) 3 = some 64 := by
  decide +kernel

theorem test_popc :
    sAfter (exec (.popc { sd := 3, sa := 1, ta := false }) (tg (withS [0xF0F]))) 3 = some 8 := by
  decide +kernel

theorem test_brev :
    sAfter (exec (.brev { sd := 3, sa := 1, ta := false }) (tg (withS [1]))) 3 = some 0x8000000000000000 := by
  decide +kernel

theorem test_sextb :
    sAfter (exec (.sextb { sd := 3, sa := 1, ta := false }) (tg (withS [0x80]))) 3 = some (-128) := by
  decide +kernel

theorem test_zextw :
    sAfter (exec (.zextw { sd := 3, sa := 1, ta := false }) (tg (withS [-1]))) 3 = some 0xFFFFFFFF := by
  decide +kernel

theorem test_addi_negative :
    sAfter (exec (.addi { sd := 3, sa := 1, imm := -1 }) (tg (withS [0]))) 3 = some (-1) := by
  decide +kernel

theorem test_sltiz :
    sAfter (exec (.sltiz { sd := 3, sa := 1, imm := -1 }) (tg (withS [5]))) 3 = some 1 := by
  decide +kernel

theorem test_andi_sign :
    sAfter (exec (.andi { sd := 3, sa := 1, imm := -2 }) (tg (withS [7]))) 3 = some 6 := by
  decide +kernel

theorem test_roli :
    sAfter (exec (.roli { sd := 3, sa := 1, amt := 63 }) (tg (withS [2]))) 3 = some 1 := by
  decide +kernel

theorem test_lis :
    sAfter (exec (.lis { sd := 3, imm := -1 }) (tg (withS [0]))) 3 = some 0xFFFFFFFFFFFFF000 := by
  decide +kernel

theorem test_lihi :
    sAfter (exec (.lihi { sd := 3, imm := 0xABCDE }) (tg (withS [0, 0, 1]))) 3 = some 0x1ABCDE := by
  decide +kernel

theorem test_addpc :
    sAfter (exec (.addpc { sd := 3, imm := 1 }) (tg (withS [0]))) 3 = some 0x11000 := by
  decide +kernel

theorem test_s0_discards :
    sAfter (exec (.add (rr 0 1 2)) (tg (withS [1, 2]))) 0 = some 0 := by
  decide +kernel

theorem test_beqz_taken :
    pcAfter (exec (.bEqz { sa := 1, off := -1 }) (tg (withS [0]))) = some 0xFFFC := by
  decide +kernel

theorem test_bgtz_not_taken :
    pcAfter (exec (.bGtz { sa := 1, off := 8 }) (tg (withS [-1]))) = some 0x10004 := by
  decide +kernel

theorem test_bpany_off :
    pcAfter (exec (.bPany { pa := 1, off := 8 }) (tg (withS [0]))) = some 0x10004 := by
  decide +kernel

theorem test_jr_aligns :
    pcAfter (exec (.jr { sa := 1, ta := false }) (tg (withS [0x20007]))) = some 0x20004 := by
  decide +kernel

theorem test_callr_s63 :
    pcAfter (exec (.callr { sa := 63, ta := false }) (tg (withS [0, 0, 0, 0, 0, 0, 0, 0, 0, 0, 0, 0, 0, 0, 0, 0, 0, 0, 0, 0, 0, 0, 0, 0, 0, 0, 0, 0, 0, 0, 0, 0, 0, 0, 0, 0, 0, 0, 0, 0, 0, 0, 0, 0, 0, 0, 0, 0, 0, 0, 0, 0, 0, 0, 0, 0, 0, 0, 0, 0, 0, 0, 0x30000]))) = some 0x30000 := by
  decide +kernel

theorem test_call_links :
    sAfter (exec (.call { off := 4 }) (tg (withS [0]))) 63 = some 0x10004 := by
  decide +kernel

theorem test_loop_zero :
    pcAfter (exec (.loop { len := 3, cnt := 1 }) (tg (withS [0]))) = some 0x10014 := by
  decide +kernel

theorem test_loop_pins :
    (nextOf (exec (.loop { len := 0, cnt := 1 }) (tg (withS [5])))).map (fun t => t.me.loop.map (fun l => (l.addr, l.remaining)))
      = some (some (0x10000, 5)) := by
  decide +kernel

theorem test_trap :
    trapAfter (exec (.trap { imm := 0x2A }) (tg (withS [0]))) = some (0x0E, 0x2A) := by
  decide +kernel

theorem test_eret_outside :
    trapAfter (exec (.eret) (tg (withS [0]))) = some (0x01, 0x14400000) := by
  decide +kernel

theorem test_brk_halts :
    (nextOf (exec (.brk { imm := 7 }) (tg (withS [0])))).map (fun t => (t.me.st, t.me.halt.code, t.me.halt.ret)) = some (.halted, 0x0D, 0x10000) := by
  decide +kernel

theorem test_eret_returns :
    pcAfter (exec .eret (tg (fun g => { g with hact := true, tpc := 0x40000 }))) = some 0x40000 := by
  decide +kernel

theorem test_exit_frees :
    (nextOf (exec .exit (tg (withS [1])))).map (fun t => t.me.st) = some .vacant := by
  decide +kernel

theorem test_lexit_part :
    (nextOf (exec .lexit (tg (fun g => { g with mode := 0x81, p := [(1, 0xF)] })))).map (fun t => (t.me.liveMask, t.me.helperMask))
      = some (0xFFFFFFF0, 0) := by
  decide +kernel

theorem test_twait_waits :
    (nextOf (exec (.twait { sa := 1 }) (tg (withS [5])))).map (fun t => t.me.blocked) = some (some (.twait { sa := 1 })) := by
  decide +kernel

theorem test_hint_runs :
    pcAfter (exec (.hint { gaps := 0, yields := 0 }) (tg id)) = some 0x10004 := by
  decide +kernel

theorem test_priv :
    trapAfter (exec (.csaved { sa := 1 }) (tg (withS [0]))) = some (0x05, (BitVec.ofNat 64 (encode (.csaved { sa := 1 })).toNat)) := by
  decide +kernel

theorem test_sysc_disabled :
    trapAfter (exec (.sysc { sa := 1, sd := 3 }) (tg (withS [0x20000]))) = some (0x14, 0) := by
  decide +kernel

theorem test_sldd_reads :
    (nextOf (exec (.sldd { sd := 3, sa := 1, off := 1 }) (tg (withS [0xFF8])))).map (fun t => (t.me.sFull 3, t.returns.map (fun r => r.2.parts)))
      = some (false, [[.scalar 3 0x2001 none]]) := by
  decide +kernel

theorem test_sldbz_sign :
    (nextOf (exec (.sldb { sd := 3, sa := 1, off := 0 }) (tg (withS [0x2000])))).map (fun t => t.returns.map (fun r => r.2.parts))
      = some [[.scalar 3 0x1F none]] := by
  decide +kernel

theorem test_sstw_stores :
    (nextOf (exec (.sstw { sd := 2, sa := 1, off := -1 }) (tg (withS [0x20004, 0x1122334455667788])))).map (fun t =>
      (List.range 5).map (fun i => readPa t (keyNum t 1) (0x20000 + i))) = some [0x88, 0x77, 0x66, 0x55, 0] := by
  decide +kernel

theorem test_satom_add :
    (nextOf (exec (.satomAdd { sem := 0, scp := 1, sd := 3, sa := 1, sb := 2 }) (tg (withS [0x2000, 1])))).map (fun t =>
      (readPa t (keyNum t 1) 0x2000, t.returns.map (fun r => r.2.parts))) = some (0x20, [[.scalar 3 0xE1F none]]) := by
  decide +kernel

theorem test_satom_misaligned :
    (trapAfter (exec (.satomAdd { sem := 0, scp := 1, sd := 3, sa := 1, sb := 2 }) (tg (withS [0x2004, 1])))).map Prod.fst = some 0x06 := by
  decide +kernel

theorem test_load_noncanonical :
    (trapAfter (exec (.sldd { sd := 3, sa := 1, off := 0 }) (tg (withS [0x8000000000000000])))).map Prod.fst = some 0x07 := by
  decide +kernel

theorem test_vadd_bytes :
    vAfter (exec (.vadd (vr 3 1 2)) (tg (fun g => { withV [List.replicate 32 0x01FF02FE, List.replicate 32 0x01010202] g with mode := 0xA0 }))) 3 0 = some 0x02000400 := by
  decide +kernel

theorem test_vadd_saturates :
    vAfter (exec (.vadd (vr 3 1 2)) (tg (fun g => { withV [List.replicate 32 0x7FFF8000, List.replicate 32 0x0001FFFF] g with mode := 0x490 }))) 3 0 = some 0x7FFF8000 := by
  decide +kernel

theorem test_vsub :
    vAfter (exec (.vsub (vr 3 1 2)) (tg (withV [List.replicate 32 0, List.replicate 32 1]))) 3 0 = some 0xFFFFFFFF := by
  decide +kernel

theorem test_vmulh :
    vAfter (exec (.vmulh (vr 3 1 2)) (tg (withV [List.replicate 32 0x80000000, List.replicate 32 2]))) 3 0 = some 0xFFFFFFFF := by
  decide +kernel

theorem test_vshri_logical :
    vAfter (exec (.vshri (vi 3 1 4)) (tg (withV [List.replicate 32 0x80000000]))) 3 0 = some 0x08000000 := by
  decide +kernel

theorem test_vsari_sign :
    vAfter (exec (.vsari (vi 3 1 4)) (tg (withV [List.replicate 32 0x80000000]))) 3 0 = some 0xF8000000 := by
  decide +kernel

theorem test_vfadd :
    vAfter (exec (.vfadd (vr 3 1 2)) (tg (fun g => { withV [List.replicate 32 0x3F800000, List.replicate 32 0x40000000] g with mode := 0xB0 }))) 3 0 = some 0x40400000 := by
  decide +kernel

theorem test_vfadd_wrong_et :
    (trapAfter (exec (.vfadd (vr 3 1 2)) (tg (withV [List.replicate 32 0, List.replicate 32 0])))).map Prod.fst = some 0x02 := by
  decide +kernel

theorem test_vfmul_half :
    vAfter (exec (.vfmul (vr 3 1 2)) (tg (fun g => { withV [List.replicate 32 0x3C004000, List.replicate 32 0x4000C000] g with mode := 0xB8 }))) 3 0 = some 0x4000C400 := by
  decide +kernel

theorem test_vfadd_inexact :
    (nextOf (exec (.vfadd (vr 3 1 2)) (tg (fun g => { withV [List.replicate 32 0x3F800000, List.replicate 32 0x30000000] g with mode := 0xB0 })))).map (fun t =>
      ((t.me.vreg 3).lane 0, t.me.fpstat)) = some (0x3F800000, flagNX) := by
  decide +kernel

theorem test_guard_merges :
    (nextOf (exec (.vadd (vr 3 1 2)) (tg (fun g => { withV [List.replicate 32 1, List.replicate 32 2, List.replicate 32 9] g with mode := 0x81, p := [(1, 2)] })))).map (fun t =>
      ((t.me.vreg 3).lane 0, (t.me.vreg 3).lane 1)) = some (9, 3) := by
  decide +kernel

theorem test_vcmp_lt :
    pAfter (exec (.vcmpLt { ta := false, tb := false, pd := 1, va := 1, vb := 2 }) (tg (withV [List.replicate 32 (-1 : W32), List.replicate 32 0]))) 1 = some 0xFFFFFFFF := by
  decide +kernel

theorem test_vperm :
    vAfter (exec (.vperm (vr 3 1 2)) (tg (withV [(List.range 32).map (BitVec.ofNat 32), List.replicate 32 5]))) 3 9 = some 5 := by
  decide +kernel

theorem test_vslideu :
    vAfter (exec (.vslideu (vi 3 1 1)) (tg (withV [(List.range 32).map (BitVec.ofNat 32)]))) 3 31 = some 30 := by
  decide +kernel

theorem test_vslided_fill :
    vAfter (exec (.vslided (vi 3 1 1)) (tg (fun g => { withV [(List.range 32).map (BitVec.ofNat 32)] g with fill := 7 }))) 3 31 = some 7 := by
  decide +kernel

theorem test_vredadd :
    sAfter (exec (.vredadd { ta := false, va := 1, sb := 5 }) (tg (withV [(List.range 32).map (BitVec.ofNat 32)]))) 5 = some 496 := by
  decide +kernel

theorem test_vscan :
    vAfter (exec (.vscanadd (vr1 3 1)) (tg (withV [List.replicate 32 1]))) 3 31 = some 32 := by
  decide +kernel

theorem test_pand :
    pAfter (exec (.pand { pd := 3, pa := 1, pb := 2 }) (tg (fun g => { g with p := [(1, 0xF0), (2, 0x3C)] }))) 3 = some 0x30 := by
  decide +kernel

theorem test_pcnt :
    sAfter (exec (.pcnt { pa := 1, sd := 4 }) (tg (fun g => { g with p := [(1, 0xF0F)] }))) 4 = some 8 := by
  decide +kernel

theorem test_vbcast :
    vAfter (exec (.vbcast { vd := 3, sb := 1 }) (tg (withS [0x1_0000_0007]))) 3 31 = some 7 := by
  decide +kernel

theorem test_viota :
    vAfter (exec (.viota { vd := 3, k := 3, sb := 1 }) (tg (withS [10]))) 3 4 = some 22 := by
  decide +kernel

theorem test_vldw :
    (nextOf (exec (.vldw { vd := 3, sb := 1, vo := 0, t := false, sc := 2 }) (tg (withS [0x1000])))).map (fun t =>
      (t.me.vFull 3, t.returns.length)) = some (false, 1) := by
  decide +kernel

theorem test_scalar_return :
    (nextOf (exec (.registerReturn 4) { tg (Group.emptyS 3) with returns := [(4, { q := 0, gen := (tg id).me.gen, vf := 1, parts := [.scalar 3 77 none], loadKey := none })] })).map
      (fun t => (t.me.sFull 3, t.me.readS 3, t.returns.length)) = some (true, 77, 0) := by
  decide +kernel

theorem test_stale_return :
    (nextOf (exec (.registerReturn 4) { tg (Group.emptyS 3) with returns := [(4, { q := 0, gen := (tg id).me.gen + 1, vf := 1, parts := [.scalar 3 77 none], loadKey := none })] })).map
      (fun t => (t.me.sFull 3, t.returns.length)) = some (false, 0) := by
  decide +kernel

/-! ## The hypotheses of the statements can be met together -/

/-- `MayGo` as a test. -/
def go (i : Instr) (uses : List Use) (s : State) : Bool :=
  (match s.cur with
    | .group _ => true
    | .sequencer _ => false) && decide (issueCheck (encode i) uses s = none)

theorem go_mayGo {i : Instr} {uses : List Use} {s : State} (h : go i uses s = true) : MayGo i uses s := by
  unfold go at h
  rw [Bool.and_eq_true, decide_eq_true_iff] at h
  exact h

theorem go_all {l : List (Instr × List Use)} {s : State} (h : l.all (fun p => go p.1 p.2 s) = true) :
    ∀ p ∈ l, MayGo p.1 p.2 s := fun p hp => go_mayGo (List.all_eq_true.mp h p hp)

/-- `Calm` as a test. -/
def calm (s : State) : Bool :=
  decide (s.me.step ≠ .armed) && decide ((dieAt s (dieOf s.qid)).trace.keeps 0 s.me.vf (cgidOf s.qid s.me) = false)

theorem calm_of {s : State} (h : calm s = true) : Calm s := by
  unfold calm at h
  rw [Bool.and_eq_true, decide_eq_true_iff, decide_eq_true_iff] at h
  exact h

/-- The sequencer of core 0, about to execute a word at VA 0x10000, with what a test sets in it. -/
def sq (f : Sequencer → Sequencer) : State :=
  modCore 0 (fun c => { c with seq := f c.seq }) { State.reset.withFetchWord 32 0xE0000000 with agenda := [] }

/-- The physical address that an access reaches, if it reaches memory. -/
def memAt (p : Place) : Option Nat :=
  match p with
  | .mem pa _ => some pa
  | _ => none

/-- An access passes its checks and its bytes are those at the same physical address. -/
def reach (s : State) (a : Acc) (slot va : Nat) : Bool :=
  match checkLane s (envOf s s.qid) s.me.failPages a slot va with
  | .ok (.bytes ps _) => decide (ps = [(va, a.size)])
  | _ => false

theorem reach_reaches {s : State} {a : Acc} {slot va : Nat} (h : reach s a slot va = true) :
    ∃ ts, Reaches s a slot va [(va, a.size)] ts := by
  unfold reach at h
  unfold Reaches
  split at h
  · rename_i ps ts he
    exact ⟨ts, by rw [he, of_decide_eq_true h]⟩
  · cases h

theorem reach_all {s : State} {a : Acc} {addr : Nat → Nat}
    (h : (List.range 32).all (fun k => !s.me.actLive.getLsbD k || reach s a k (addr k)) = true) :
    ∀ k, k < 32 → s.me.actLive.getLsbD k = true → ∃ ts, Reaches s a k (addr k) [(addr k, a.size)] ts := fun k hk hl => by
  have hr := List.all_eq_true.mp h k (List.mem_range.mpr hk)
  rw [hl] at hr
  exact reach_reaches hr

theorem noReuse_of {s : State} (h : (coreAt s (coreOf s.qid)).reuse = []) : NoReuse s := fun key => by
  simp [findRecord, h]

/-- A group whose team holds the first page of the scratchpad of core 0, in a function that may use the system scope. -/
def scratchState : State :=
  let s := modVf 1 (fun v => { v with scopePolicy := 1 }) (tg (fun g => { withS [0x1FF000000000000, 7] g with v := [(1, .affine 0 4)] }))
  { s with teams := s.teams.map (fun e => (e.1, { e.2 with pages := [5] })) }

/-- An answer that is there. -/
def isOk {ε α : Type} (e : Except ε α) : Bool :=
  match e with
  | .ok _ => true
  | .error _ => false

/-- Put bytes into memory. -/
def withBytes (pa n v : Nat) (s : State) : State :=
  { s with mem := ((List.range n).zip (leBytes n v)).foldl (fun m p => setByte m (pa + p.1) p.2) s.mem }

/-- The team of the placed word, with what a test sets in it. -/
def tm (f : Team → Team) (s : State) : State := modTeam 1 f s

/-- A layout record of one level with n words of 4 bytes at 0x20000. -/
def words (n : Nat) : Nat := 0x20000 + 32 * 2 ^ 64 + 2 ^ 72 + n * 2 ^ 80 + n * 2 ^ 192 + 4 * 2 ^ 352

theorem test_wit_EncodingRoundTrip :
    (Instr.add { sd := 63, sa := 63, sb := 63, ta := true, tb := true }).isWord = true
      ∧ (Instr.add { sd := 63, sa := 63, sb := 63, ta := true, tb := true }).wellFormed = true
      ∧ (Instr.vatomAdd { sem := 3, scp := 3, vd := 127, vo := 127, sbx := 15 }).isWord = true
      ∧ (Instr.vatomAdd { sem := 3, scp := 3, vd := 111, vo := 111, sbx := 15 }).wellFormed = true
      ∧ (Instr.mend).isWord = true ∧ Instr.mend.wellFormed = true := by
  decide +kernel

theorem test_wit_DecodingIsExact :
    decode 0x34C81400 = .ok (.div { sd := 8, sa := 5, sb := 0, ta := false, tb := false }) := by
  decide +kernel

/-- Nothing is due where no event is listed. -/
theorem nothing_of {s : State} (h : (forced s).isEmpty = true) : NothingDue s := by
  rw [NothingDue, List.isEmpty_iff.mp h]; rfl

/-- A state in the CCLK in which an agent has its turn. -/
def inTurn (a : Agent) (s : State) : State := { tick s with cur := a }

theorem test_wit_StepRuns_due :
    let s := { tg id with dies := [(0, { Die.reset with trace := { Die.reset.trace with tstat := 2 } })] }
    (runFirst s (forced s)).isSome = true := by
  decide +kernel

theorem test_wit_StepRuns_agenda :
    NothingDue { tg id with agenda := [.event (.traceFreeze 0)] } ∧ NothingDue { tg id with agenda := [.issue (.group 0)] } :=
  ⟨nothing_of (by decide +kernel), nothing_of (by decide +kernel)⟩

/-- A load of s3 that has not come back. -/
def awaited : State :=
  { tg (Group.emptyS 3) with returns := [(7, { q := 0, gen := 0, vf := 1, parts := [.scalar 3 5 none], loadKey := none })] }

theorem test_wit_StepRuns_return :
    NothingDue awaited ∧ awaited.agenda = [] ∧ dueEvent awaited = some (.registerReturn 7) :=
  ⟨nothing_of (by decide +kernel), rfl, by decide +kernel⟩

theorem test_wit_StepRuns_group :
    NothingDue (tg id) ∧ (tg id).agenda = [] ∧ dueEvent (tg id) = none ∧ nextAgent (tg id) = .group 0
      ∧ mayIssue (inTurn (.group 0) (tg id)) 0 = true ∧ TriesAgain (inTurn (.group 0) (tg id)).me
      ∧ chosen (inTurn (.group 0) (tg id)) 0 = true ∧ (inTurn (.group 0) (tg id)).me.rep = none
      ∧ (let s2 := settleResume (unmarkMe (inTurn (.group 0) (tg id)))
        breakHit s2 s2.me.pc none = none ∧ (match refreshLoop s2 with
          | .ok s3 => (match groupFetch s3 s3.me.pc with
            | .word w _ => decide (decode w = .ok .nop)
            | _ => false)
          | .error _ => false) = true) := by
  refine ⟨nothing_of (by decide +kernel), rfl, by decide +kernel, by decide +kernel, by decide +kernel, .inl (by decide +kernel), ?_, ?_, ?_⟩
    <;> decide +kernel

theorem test_wit_StepRuns_fetch :
    (tg id).cur = .group 0 ∧ (tg id).me.loop = none ∧ fabricDenied (tg id) (tg id).me.vf 0x10000 = false
      ∧ memAt (resolve (tg id) (envOf (tg id) 0) .fetch (tg id).me.pc.toNat) = some 0x10000 := by
  decide +kernel

/-- A group inside repetition 3 of 3 of a REP over VFADD. -/
def inRep : State := tg (fun g => { g with rep := some { k := 3, op := { cnt := 3, fmD := true, fmA := true, fmB := false, str := 1 }, target := 0x6C020428 } })

theorem test_wit_StepRuns_rep :
    NothingDue inRep ∧ inRep.agenda = [] ∧ dueEvent inRep = none ∧ mayIssue (inTurn (.group 0) inRep) 0 = true
      ∧ TriesAgain (inTurn (.group 0) inRep).me ∧ chosen (inTurn (.group 0) inRep) 0 = true
      ∧ breakHit (unmarkMe (inTurn (.group 0) inRep)) 0x10004 (some 3) = none
      ∧ repWord 64 { k := 3, op := { cnt := 3, fmD := true, fmA := true, fmB := false, str := 1 }, target := 0x6C020428 } = .ok 0x6C038728
      ∧ decode 0x6C038728 = .ok (.vfadd { ta := false, tb := false, vd := 14, va := 14, vb := 40 }) := by
  refine ⟨nothing_of (by decide +kernel), rfl, by decide +kernel, by decide +kernel, .inl (by decide +kernel), ?_, ?_, ?_, ?_⟩
    <;> decide +kernel

theorem test_wit_StepRuns_wake :
    let s := tg (fun g => { g with blocked := some (.twait { sa := 0 }) })
    mayIssue (inTurn (.group 0) s) 0 = true ∧ wakeOf 0 (.twait { sa := 0 }) = some (.twaitExpiry 0)
      ∧ runs (exec (.twaitExpiry 0) (inTurn (.group 0) s)) = true := by
  decide +kernel

theorem test_wit_StepRuns_sequencer :
    NothingDue (sq id) ∧ (sq id).agenda = [] ∧ dueEvent (sq id) = none ∧ (sq id).cur = .sequencer 0
      ∧ unissued (inTurn (.sequencer 0) (sq id)) 0 = none ∧ seqRuns (inTurn (.sequencer 0) (sq id)) 0 = true
      ∧ (coreAt (inTurn (.sequencer 0) (sq id)) 0).seq.owner = some 1
      ∧ fabricDenied (inTurn (.sequencer 0) (sq id)) (envOfTeam (inTurn (.sequencer 0) (sq id)) 1).vf 0x10000 = false
      ∧ (memAt (resolve (inTurn (.sequencer 0) (sq id)) (envOfTeam (inTurn (.sequencer 0) (sq id)) 1) .fetch
          0x10000)).map (fun pa => wordOfBytes (readPas (inTurn (.sequencer 0) (sq id))
            (keyNum (inTurn (.sequencer 0) (sq id)) 1) pa 4)) = some 0xE0000000 := by
  refine ⟨nothing_of (by decide +kernel), ?_, ?_, ?_, ?_, ?_, ?_, ?_, ?_⟩ <;> decide +kernel

/-- Two groups of one function that may both issue, into one partition; one of them ages, or gives way. -/
def twoReady (f : Group → Group) : State := setGroup 1 (f (groupAt (tg id) 0)) (tg id)

theorem test_wit_ChoiceAtIssue :
    ((0 : Nat) ≠ 1)
      ∧ (groupAt (twoReady (fun g => { g with aged := true })) 1).aged = true ∧ (groupAt (twoReady id) 0).aged = false
      ∧ (groupAt (twoReady (fun g => { g with giveWay := true })) 1).giveWay = true
      ∧ (groupAt (twoReady (fun g => { g with lastIssue := 9 })) 0).lastIssue < (groupAt (twoReady (fun g => { g with lastIssue := 9 })) 1).lastIssue
      ∧ (groupAt (twoReady id) 0).vf = (groupAt (twoReady id) 1).vf := by
  decide +kernel

theorem test_wit_ChoiceAtIssue_rivals :
    chosen (twoReady id) 0 = true ∧ nextKind (twoReady id) 0 ≠ 0 ∧ 1 ∈ issueRivals (twoReady id) 0
      ∧ nextKind (twoReady id) 1 = nextKind (twoReady id) 0 ∧ goesOn (twoReady id) 0 = true := by
  decide +kernel

theorem test_wit_StepKeepsMemoryForm : MemoryWf (tg id) ∧ runs (step (tg id)) = true := by
  decide +kernel

theorem test_wit_IssueChecks_empty :
    (tg (Group.emptyS 63)).me.sFull 63 = false ∧ (tg id).me.sFull 63 = true := by
  decide +kernel

theorem test_wit_IssueChecks_illegal : 111 < 112 ∧ 64 < 112 ∧ (tg id).vtop (tg id).me ≤ 64 := by
  decide +kernel

theorem test_wit_IssueChecks_port :
    112 ≤ 119 ∧ 119 < 120 ∧ Tab.find (tg id).me.ports 119 = none ∧ Tab.find (tg id).me.ports 112 = none := by
  decide +kernel

theorem test_wit_PrivilegedWordsTrap :
    (tg id).me.level = false ∧ (tg id).me.pact = false ∧ (tg id).me.dact = false ∧ (tg id).cur = .group 0
      ∧ (tg (fun g => { g with pact := true })).me.pact = true
      ∧ coopOf (tg (fun g => { g with pact := true, vf := 2 })) (tg (fun g => { g with pact := true, vf := 2 })).me = false := by
  decide +kernel

theorem test_wit_Traps_taken :
    (groupAt (tg (withS [])) 0).hact = false ∧ (groupAt (tg (withS [])) 0).dact = false
      ∧ (groupAt (tg (withS [])) 0).pact = false ∧ (groupAt (tg (withS [])) 0).tvec ≠ 0 := by
  decide +kernel

/-- A group with all three vectors, in a function whose debugger is attached. -/
def debugged (f : Group → Group) : State :=
  modVf 1 (fun v => { v with dbg := { v.dbg with dctl := 1 } }) (tg (fun g => f { g with tvec := 0x20000, dvec := 0x20100, pvec := 0x20200 }))

theorem test_wit_Traps_debug :
    (groupAt (debugged id) 0).dvec ≠ 0 ∧ (groupAt (debugged id) 0).pvec ≠ 0
      ∧ (vfAt (debugged id) (groupAt (debugged id) 0).vf).dbg.dctl.getLsbD 0 = true
      ∧ (groupAt (debugged id) 0).hact = false ∧ (groupAt (debugged id) 0).dact = false ∧ (groupAt (debugged id) 0).pact = false := by
  decide +kernel

theorem test_wit_Traps_halt :
    (groupAt (tg id) 0).tvec = 0 ∧ (groupAt (debugged (fun g => { g with hact := true })) 0).hact = true
      ∧ (groupAt (debugged (fun g => { g with dact := true })) 0).dact = true
      ∧ (groupAt (debugged (fun g => { g with pact := true })) 0).pact = true
      ∧ (vfAt (tg id) (groupAt (tg id) 0).vf).dbg.dctl.getLsbD 0 = false := by
  decide +kernel

theorem test_wit_ReturnFromHandler_outside :
    MayGo .eret [] (tg id) ∧ (tg id).me.hact = false ∧ (tg id).me.dact = false ∧ (tg id).me.pact = false := by
  exact ⟨go_mayGo (by decide +kernel), by decide +kernel⟩

theorem test_wit_ReturnFromHandler_inside (s : State) (h : s ∈ [tg (fun g => { g with hact := true, trep := 0x45 }),
      tg (fun g => { g with dact := true }), tg (fun g => { g with pact := true, trep := 0x80 })]) :
    MayGo .eret [] s ∧ (s.me.hact = true ∨ s.me.dact = true ∨ s.me.pact = true) ∧ Calm s := by
  simp only [List.mem_cons, List.not_mem_nil, or_false] at h
  rcases h with rfl | rfl | rfl <;> exact ⟨go_mayGo (by decide +kernel), by decide +kernel, calm_of (by decide +kernel)⟩

/-- A pinned loop of one word at the group's address, and how often it still runs. -/
def pinned (n : W64) : PinnedLoop :=
  { addr := 0xFFF8, body := [0x14000000, 0x14000000], remaining := n, suspended := false, refetch := false, unread := false }

theorem test_wit_Retirement_loop (n : W64) (h : n ∈ [0, 1, 2]) :
    (tg (fun g => { g with loop := some (pinned n) })).me.rep = none
      ∧ (tg (fun g => { g with loop := some (pinned n), pc := 0x10000 })).me.loop = some (pinned n)
      ∧ (pinned n).suspended = false
      ∧ (0x10000 : W64) + 4 = (pinned n).addr + BitVec.ofNat 64 (4 * ((pinned n).body.length + 1))
      ∧ (1 < n.toNat ∨ n.toNat ≤ 1) := by
  simp only [List.mem_cons, List.not_mem_nil, or_false] at h
  rcases h with rfl | rfl | rfl <;> decide +kernel

theorem test_wit_Retirement_rep :
    (∃ r, inRep.me.rep = some r ∧ r.k = r.op.cnt.toNat) ∧ inRep.me.loop = none
      ∧ (∃ r, (tg (fun g => { g with rep := inRep.me.rep.map (fun r => { r with k := 0 }) })).me.rep = some r ∧ r.k < r.op.cnt.toNat) :=
  ⟨⟨_, rfl, by decide +kernel⟩, by decide +kernel, ⟨_, rfl, by decide +kernel⟩⟩

theorem test_wit_Retirement_hint :
    (tg (fun g => { g with hint := some { gaps := 0x8001, yields := 0x81, index := 7 } })).me.hint
        = some { gaps := 0x8001, yields := 0x81, index := 7 }
      ∧ (tg id).me.rep = none ∧ (tg id).me.loop = none := by
  decide +kernel

theorem test_wit_Retirement_step :
    (tg (fun g => { g with step := .armed })).me.step = .armed
      ∧ (dieAt (tg id) (dieOf (tg id).qid)).trace.keeps 0 (tg id).me.vf (cgidOf (tg id).qid (tg id).me) = false := by
  decide +kernel

theorem test_wit_ScalarRegisters : (0 : Nat) < 64 ∧ 63 < 64 ∧ 63 ≠ 0 ∧ 62 ≠ 63 := by
  decide

/-! Words that compute from scalar registers. -/

theorem test_wit_ScalarArithmetic_binary (o : OpSR) (h : o ∈ [rr 3 1 2, rr 0 0 0, { rr 63 63 63 with ta := true, tb := true }]) :
    ∀ i ∈ ([.add o, .sub o, .and o, .or o, .xor o, .andn o, .shl o, .shr o, .sar o, .rol o, .min o, .max o,
        .minz o, .maxz o, .slt o, .sltz o, .mul o, .mulh o, .mulhz o, .div o, .divz o, .rem o, .remz o] : List Instr),
      MayGo i [.ss o.sa.toNat o.ta 1, .ss o.sb.toNat o.tb 2, .sd o.sd.toNat] (tg (withS [5, 0])) := by
  have key : ∀ i : Instr, issueCheck (encode i) [.ss o.sa.toNat o.ta 1, .ss o.sb.toNat o.tb 2, .sd o.sd.toNat] (tg (withS [5, 0])) = none := by
    simp only [List.mem_cons, List.not_mem_nil, or_false] at h
    rcases h with rfl | rfl | rfl <;> intro i <;> exact rfl
  exact fun i _ => ⟨by decide +kernel, key i⟩

theorem test_wit_Scalar_calm : Calm (tg (withS [5, 0])) := calm_of (by decide +kernel)

theorem test_wit_ScalarArithmetic_others :
    ∀ p ∈ ([(.clz { sd := 3, sa := 1, ta := true }, [.ss 1 true 1, .sd 3]), (.ctz { sd := 0, sa := 0, ta := false }, [.ss 0 false 1, .sd 0]),
        (.popc { sd := 63, sa := 63, ta := true }, [.ss 63 true 1, .sd 63]), (.brev { sd := 3, sa := 1, ta := false }, [.ss 1 false 1, .sd 3]),
        (.sextb { sd := 3, sa := 1, ta := false }, [.ss 1 false 1, .sd 3]), (.sexth { sd := 3, sa := 1, ta := false }, [.ss 1 false 1, .sd 3]),
        (.sextw { sd := 3, sa := 1, ta := false }, [.ss 1 false 1, .sd 3]), (.zextw { sd := 3, sa := 1, ta := false }, [.ss 1 false 1, .sd 3]),
        (.addi { sd := 3, sa := 1, imm := -1 }, [.ss 1 false 1, .sd 3]), (.slti { sd := 3, sa := 1, imm := -1 }, [.ss 1 false 1, .sd 3]),
        (.sltiz { sd := 0, sa := 0, imm := 0 }, [.ss 0 false 1, .sd 0]), (.andi { sd := 63, sa := 63, imm := 1 }, [.ss 63 false 1, .sd 63]),
        (.ori { sd := 3, sa := 1, imm := 1 }, [.ss 1 false 1, .sd 3]), (.xori { sd := 3, sa := 1, imm := 1 }, [.ss 1 false 1, .sd 3]),
        (.shli { sd := 3, sa := 1, amt := 63 }, [.ss 1 false 1, .sd 3]), (.shri { sd := 3, sa := 1, amt := 63 }, [.ss 1 false 1, .sd 3]),
        (.sari { sd := 0, sa := 0, amt := 0 }, [.ss 0 false 1, .sd 0]), (.roli { sd := 3, sa := 1, amt := 63 }, [.ss 1 false 1, .sd 3]),
        (.lis { sd := 3, imm := -1 }, [.sd 3]), (.addpc { sd := 3, imm := -1 }, [.sd 3]), (.lihi { sd := 63, imm := -1 }, [.ss 63 false 1, .sd 63])] :
        List (Instr × List Use)), MayGo p.1 p.2 (tg (withS [5])) :=
  go_all (by decide +kernel)

theorem test_wit_ScalarFrame :
    Calm (tg (withS [5, 0])) ∧ runs (exec (.add (rr 3 1 2)) (tg (withS [5, 0]))) = true
      ∧ runs (exec (.callr { sa := 63, ta := true }) (tg (withS [5, 0]))) = true :=
  ⟨calm_of (by decide +kernel), by decide +kernel⟩

theorem test_wit_BranchesAndCalls :
    ∀ p ∈ ([(.bEqz { sa := 1, off := -1 }, [.ss 1 false 1]), (.bNez { sa := 0, off := 1 }, [.ss 0 false 1]),
        (.bLtz { sa := 63, off := 0 }, [.ss 63 false 1]), (.bGez { sa := 1, off := 0 }, [.ss 1 false 1]),
        (.bGtz { sa := 1, off := 0 }, [.ss 1 false 1]), (.bLez { sa := 1, off := 0 }, [.ss 1 false 1]),
        (.bPany { pa := 7, off := -1 }, []), (.bPnone { pa := 0, off := 1 }, []), (.bPall { pa := 1, off := 1 }, []),
        (.bAlways { off := -1 }, []), (.j { off := -1 }, []), (.call { off := 1 }, [.sd 63]),
        (.jr { sa := 63, ta := true }, [.ss 63 true 1]), (.callr { sa := 63, ta := true }, [.ss 63 true 1, .sd 63])] :
        List (Instr × List Use)), MayGo p.1 p.2 (tg (withS [5])) :=
  go_all (by decide +kernel)

theorem test_wit_Loop :
    MayGo (.loop { len := 0, cnt := 1 }) [.ss 1 false 1] (tg (withS [5])) ∧ (tg (withS [5])).me.loop = none
      ∧ loopWords (tg (withS [5])) (envOf (tg (withS [5])) 0) [] 0x10000 1 = .ok [0x14000000]
      ∧ (0x14000000 : W32).toNat / 2 ^ 26 ≠ 0x01 ∧ (0x14000000 : W32).toNat / 2 ^ 26 ≠ 0x0A
      ∧ (0x14000000 : W32).toNat / 2 ^ 26 ≠ 0x02 := by
  refine ⟨go_mayGo (by decide +kernel), ?_, ?_, ?_, ?_, ?_⟩ <;> decide +kernel

/-- A LOOP whose body is the zero word that follows it. -/
theorem test_wit_Loop_body :
    loopWords (tg id) (envOf (tg id) 0) (tg id).me.failPages 0x10004 1 = .ok [0] := by
  decide +kernel

theorem test_wit_Rep_words :
    0x6C020428 / 2 ^ 26 ∈ [0x18, 0x19, 0x1B, 0x1C, 0x1D, 0x21] ∧ (64 : Nat) ≤ 112
      ∧ 0x6C020428 / 2 ^ 14 % 128 + 3 * 2 ^ 1 < 64 ∧ 64 ≤ 0x6C0C1828 / 2 ^ 14 % 128 + 2 * 2 ^ 3 := by
  decide

theorem test_wit_PrefixesAndHints :
    ∀ p ∈ ([(.hint { gaps := 0xFFFF, yields := 0xFF }, []), (.stage { vd := 63, va := 0, vb := 1 }, [.vname 63 0, .vname 0 1, .vname 1 2]),
        (.nop, []), (.yield, []), (.twait { sa := 1 }, [.ss 1 false 1]), (.twait { sa := 0 }, [.ss 0 false 1])] :
        List (Instr × List Use)), MayGo p.1 p.2 (tg (withS [5])) :=
  go_all (by decide +kernel)

theorem test_wit_Twait : (tg (withS [5])).me.readS 0 ≤ (tg (withS [5])).time ∧ (tg (withS [5])).time < (tg (withS [5])).me.readS 1 := by
  decide +kernel

/-- A REP and its target, VFADD. -/
def repState : State := { tg id with mem := placeMem 0x083C8000 (((List.range 4).zip (bytesOfWord 0x6C020428)).foldl (fun m p => setByte m (0x10004 + p.1) p.2) []) }

theorem test_wit_Rep :
    MayGo (.rep { cnt := 3, fmD := true, fmA := true, fmB := false, str := 1 }) [] repState
      ∧ (match groupFetch repState (repState.me.pc + 4) with
        | .word w _ => decide (w = 0x6C020428 ∧ 0x18 ≤ w.toNat / 2 ^ 26 ∧ w.toNat / 2 ^ 26 ≤ 0x28
            ∧ repBadField { cnt := 3, fmD := true, fmA := true, fmB := false, str := 1 } w = none)
        | _ => false) = true := by
  exact ⟨go_mayGo (by decide +kernel), by decide +kernel⟩

theorem test_wit_ModeAndFill :
    ∀ p ∈ ([(.mode { mask := 0x3F, grd := 7, et := 8, rnd := 6, sat := true, ftz := true, nanp := true }, []), (.modev { sa := 1 }, [.ss 1 false 1]),
        (.modev { sa := 2 }, [.ss 2 false 1]), (.moder { sd := 3 }, [.sd 3]), (.fill { sa := 1 }, [.ss 1 false 1]), (.fillRd { sd := 63 }, [.sd 63])] :
        List (Instr × List Use)), MayGo p.1 p.2 (tg (withS [0x1B47, 0x2080])) :=
  go_all (by decide +kernel)

theorem test_wit_Modev_values :
    ¬(2 ^ 13 ≤ 0x1B47 ∨ 8 < 0x1B47 / 2 ^ 3 % 16 ∨ 0x1B47 / 2 ^ 7 % 8 = 0 ∨ 0x1B47 / 2 ^ 7 % 8 = 7) ∧ 2 ^ 13 ≤ 0x2080
      ∧ 8 < 0xC8 / 2 ^ 3 % 16 ∧ 0x40 / 2 ^ 7 % 8 = 0 ∧ 0x380 / 2 ^ 7 % 8 = 7 := by
  decide

theorem test_wit_Sget :
    ∀ p ∈ ([(.sget { sd := 3, num := 0 }, [.sd 3]), (.sget { sd := 63, num := 0x017 }, [.sd 63]), (.sget { sd := 3, num := 0x02F }, [.sd 3]),
        (.sget { sd := 3, num := 0x04F }, [.sd 3]), (.sget { sd := 3, num := 0x00B }, []), (.sget { sd := 3, num := 0xFFF }, [])] :
        List (Instr × List Use)), MayGo p.1 p.2 (tg (withS [5])) :=
  go_all (by decide +kernel)

theorem test_wit_Sset :
    (tg (fun g => { withS [17] g with level := true })).me.level = true ∧ (tg (withS [17])).me.level = false
    ∧ (∀ p ∈ ([(.sset { sa := 1, num := 0x005 }, [.ss 1 false 1]), (.sset { sa := 1, num := 0x014 }, [.ss 1 false 1]),
        (.sset { sa := 1, num := 0x015 }, [.ss 1 false 1]), (.sset { sa := 1, num := 0x016 }, []),
        (.sset { sa := 1, num := 0x02F }, [.ss 1 false 1]), (.sset { sa := 1, num := 0x04F }, [.ss 1 false 1]),
        (.sset { sa := 1, num := 0x000 }, []), (.sset { sa := 1, num := 0xFFF }, [])] :
        List (Instr × List Use)), MayGo p.1 p.2 (tg (fun g => { withS [17] g with level := true })))
    ∧ MayGo (.sset { sa := 1, num := 0x015 }) [] (tg (withS [17])) ∧ MayGo (.sset { sa := 1, num := 0x040 }) [.ss 1 false 1] (tg (fun g => { withS [18] g with level := true })) :=
  ⟨by decide +kernel, by decide +kernel, go_all (by decide +kernel), go_mayGo (by decide +kernel), go_mayGo (by decide +kernel)⟩

theorem test_wit_Exit : MayGo .exit [] (tg id) ∧ MayGo .lexit [] (tg id) ∧ (tg id).me.actLive = (tg id).me.liveMask
    ∧ (tg id).me.actLive ≠ 0 :=
  ⟨go_mayGo (by decide +kernel), go_mayGo (by decide +kernel), by decide +kernel, by decide +kernel⟩

theorem test_wit_Lexit_part :
    MayGo .lexit [] (tg (fun g => { g with mode := 0x81, p := [(1, 0xF)] }))
      ∧ (tg (fun g => { g with mode := 0x81, p := [(1, 0xF)] })).me.actLive ≠ 0
      ∧ (tg (fun g => { g with mode := 0x81, p := [(1, 0xF)] })).me.actLive ≠ (tg (fun g => { g with mode := 0x81, p := [(1, 0xF)] })).me.liveMask
      ∧ MayGo .lexit [] (tg (fun g => { g with mode := 0x81 })) ∧ (tg (fun g => { g with mode := 0x81 })).me.actLive = 0 := by
  refine ⟨go_mayGo ?_, ?_, ?_, go_mayGo ?_, ?_⟩ <;> decide +kernel

/-- A group that asks for service 0, in a function that offers one service or none. -/
def sysState (n : W64) : State := let s := tg (withS [0x2003F]); { s with boot := { s.boot with svccnt := [(1, n)] } }

theorem test_wit_Sysc (n : W64) (h : n ∈ [0, 1]) :
    MayGo (.sysc { sd := 3, sa := 1 }) [.ss 1 false 1, .sd 3] (sysState n) ∧ (sysState n).me.sysc = none ∧ (3 : BitVec 6) ≠ 0
      ∧ ((sysState n).me.readS 1).toNat / 64 * 64 = 0x20000
      ∧ Reaches (sysState n) { size := 64, write := false, atomic := false, vector := true } 0 0x20000 [(0x20000, 64)]
          (match checkLane (sysState n) (envOf (sysState n) 0) [] { size := 64, write := false, atomic := false, vector := true } 0 0x20000 with
            | .ok (.bytes _ ts) => ts
            | _ => [])
      ∧ Unwatched (sysState n) true false 64 [(0, 0x20000)] ∧ partsBad (sysState n) [(0x20000, 64)] = none
      ∧ Calm (sysState n) := by
  simp only [List.mem_cons, List.not_mem_nil, or_false] at h
  rcases h with rfl | rfl <;>
    exact ⟨go_mayGo (by decide +kernel), by decide +kernel, by decide, by decide +kernel, by unfold Reaches; decide +kernel,
      by unfold Unwatched; decide +kernel, by decide +kernel, calm_of (by decide +kernel)⟩

theorem test_wit_TrapAndBreak : MayGo (.trap { imm := 0xFFFF }) [] (tg id) ∧ MayGo (.brk { imm := 0 }) [] (tg id) :=
  ⟨go_mayGo (by decide +kernel), go_mayGo (by decide +kernel)⟩

/-! Memory and vector words. -/

/-- A load or store of each width with the last and the first offset of its range. -/
theorem test_wit_ScalarLoads :
    (∀ p ∈ ([(.sldb { sd := 3, sa := 1, off := -1 }, [.ss 1 false 1, .sd 3]), (.sldbz { sd := 0, sa := 1, off := 0 }, [.ss 1 false 1, .sd 0]),
        (.sldh { sd := 63, sa := 1, off := 1 }, [.ss 1 false 1, .sd 63]), (.sldhz { sd := 3, sa := 1, off := 0 }, [.ss 1 false 1, .sd 3]),
        (.sldw { sd := 1, sa := 1, off := 0 }, [.ss 1 false 1, .sd 1]), (.sldwz { sd := 3, sa := 1, off := 0 }, [.ss 1 false 1, .sd 3]),
        (.sldd { sd := 3, sa := 1, off := 0 }, [.ss 1 false 1, .sd 3]), (.slda { sd := 3, sa := 1, scp := 1, off := 0 }, [.ss 1 false 1, .sd 3]),
        (.sldaw { sd := 3, sa := 1, scp := 4, off := 0 }, [.ss 1 false 1, .sd 3]),
        (.sstb { sd := 2, sa := 1, off := -1 }, [.ss 1 false 1, .ss 2 false 0]), (.ssth { sd := 0, sa := 1, off := 0 }, [.ss 1 false 1, .ss 0 false 0]),
        (.sstw { sd := 2, sa := 1, off := 0 }, [.ss 1 false 1, .ss 2 false 0]), (.sstd { sd := 63, sa := 1, off := 0 }, [.ss 1 false 1, .ss 63 false 0]),
        (.sstl { sd := 2, sa := 1, scp := 1, off := 0 }, [.ss 1 false 1, .ss 2 false 0]),
        (.sstlw { sd := 2, sa := 1, scp := 2, off := 0 }, [.ss 1 false 1, .ss 2 false 0])] : List (Instr × List Use)),
      MayGo p.1 p.2 (tg (withS [0x20000, 7]))) ∧ NoReuse (tg (withS [0x20000, 7])) ∧ Calm (tg (withS [0x20000, 7])) :=
  ⟨go_all (by decide +kernel), noReuse_of (by decide +kernel), calm_of (by decide +kernel)⟩

theorem test_wit_Scalar_reaches (size : Nat) (h : size ∈ [1, 2, 4, 8]) (write : Bool) :
    (∃ ts, Reaches (tg (withS [0x20000, 7])) { size := size, write := write, atomic := false, vector := false } 0 0x20000
      [(0x20000, size)] ts)
    ∧ Unwatched (tg (withS [0x20000, 7])) (!write) write size [(0, 0x20000)] := by
  simp only [List.mem_cons, List.not_mem_nil, or_false] at h
  rcases h with rfl | rfl | rfl | rfl <;> cases write <;>
    exact ⟨reach_reaches (by decide +kernel), by unfold Unwatched; decide +kernel⟩

theorem test_wit_Scalar_scopes : (∀ k ∈ [0, 1, 2, 3], scopeDenied (tg id) (tg id).me.vf k = false)
    ∧ scopeDenied scratchState scratchState.me.vf 4 = false := by
  decide +kernel

/-- The bounds that the privileged MMIO window has: the group runs at S in the PF. -/
def kernelState (a : W64) : State := tg (fun g => { withS [a, 7] g with level := true, vf := 0 })

theorem test_wit_Extend : (2 : Nat) ^ 64 - 1 < 2 ^ (8 * 8) ∧ (0xFF : Nat) < 2 ^ (8 * 1) ∧ (0 : Nat) < 2 ^ (8 * 2) := by
  decide

theorem test_wit_ScalarStoreFrame :
    runs (exec (.sstd { sd := 2, sa := 1, off := 0 }) (tg (withS [0x20000, 7]))) = true
      ∧ runs (exec (.sstlw { sd := 2, sa := 1, scp := 4, off := 0 }) (tg (withS [0x20000, 7]))) = true := by
  decide +kernel

theorem test_wit_ScalarAtomics :
    (∀ p ∈ ([(.satomAdd { sem := 0, scp := 1, sd := 3, sa := 1, sb := 2 }, [.ss 1 false 1, .ss 2 false 2, .sd 3]),
        (.satomAnd { sem := 1, scp := 1, sd := 0, sa := 1, sb := 2 }, [.ss 1 false 1, .ss 2 false 2, .sd 0]),
        (.satomOr { sem := 2, scp := 2, sd := 63, sa := 1, sb := 31 }, [.ss 1 false 1, .ss 31 false 2, .sd 63]),
        (.satomXor { sem := 3, scp := 3, sd := 3, sa := 1, sb := 0 }, [.ss 1 false 1, .ss 0 false 2, .sd 3]),
        (.satomMin { sem := 0, scp := 1, sd := 3, sa := 1, sb := 2 }, [.ss 1 false 1, .ss 2 false 2, .sd 3]),
        (.satomMax { sem := 0, scp := 1, sd := 3, sa := 1, sb := 2 }, [.ss 1 false 1, .ss 2 false 2, .sd 3]),
        (.satomMinz { sem := 0, scp := 1, sd := 3, sa := 1, sb := 2 }, [.ss 1 false 1, .ss 2 false 2, .sd 3]),
        (.satomMaxz { sem := 0, scp := 1, sd := 3, sa := 1, sb := 2 }, [.ss 1 false 1, .ss 2 false 2, .sd 3]),
        (.satomXchg { sem := 0, scp := 1, sd := 3, sa := 1, sb := 2 }, [.ss 1 false 1, .ss 2 false 2, .sd 3]),
        (.satomCas { sem := 0, scp := 1, sd := 3, sa := 1, sb := 2 }, [.ss 1 false 1, .ss 2 false 2, .ss 3 false 0, .sd 3]),
        (.satomLd { sem := 0, scp := 4, sd := 3, sa := 1 }, [.ss 1 false 1, .sd 3]),
        (.satomSt { sem := 0, scp := 1, sa := 1, sb := 2 }, [.ss 1 false 1, .ss 2 false 2])] : List (Instr × List Use)),
      MayGo p.1 p.2 (tg (withS [0x20000, 7])))
    ∧ (∃ ts, Reaches (tg (withS [0x20000, 7])) { size := 8, write := true, atomic := true, vector := false } 0 0x20000 [(0x20000, 8)] ts)
    ∧ Unwatched (tg (withS [0x20000, 7])) true true 8 [(0, 0x20000)] := by
  refine ⟨go_all (by decide +kernel), reach_reaches (a := { size := 8, write := true, atomic := true, vector := false }) (by decide +kernel), ?_⟩
  unfold Unwatched
  decide +kernel

theorem test_wit_ElementsAndShapes : 3 < 32 / 8 ∧ 0 < 32 / 32 ∧ (0 : Nat) < 32 ∧ (0 : Nat) < 64 := by
  decide

/-- A group with general, affine and uniform vectors, a read port with two vectors and a write port, under a MODE. -/
def vg (m : W32) : State := tg (fun g => { withS [0x20000, 5] g with
  mode := m, p := [(1, 0xF0F0F0F0), (2, 1)]
  v := [(1, .affine 0 4), (2, .general 2 ((List.range 32).map (BitVec.ofNat 32))), (3, .uniform 7), (63, .general 3 (List.replicate 32 1))]
  ports := [(112, { tlr := 0x40_01_000000_0000000000000000, pos := 0, fault := none, buffer := [(List.replicate 32 5, 0), (List.replicate 32 6, 0)] }),
    (127, { tlr := 0x40_01_000000_0000000000000000, pos := 0, fault := none, buffer := [] })] })

/-- Two sources and a destination at the edges: registers 0 and 63, T set, the same register throughout, a read port and a
write port. -/
def edges : List OpVR :=
  [vr 3 1 2, { ta := true, tb := true, vd := 63, va := 63, vb := 63 }, vr 0 0 0, vr 127 112 112]

theorem test_wit_VectorInteger (m : W32) (h : m ∈ [0x80, 0x81, 0x4A0, 0x480, 0x490]) :
    (∀ o ∈ edges, ∀ i ∈ ([.vadd o, .vsub o, .vmul o, .vmulh o, .vmin o, .vmax o, .vabsd o, .vand o, .vor o, .vxor o, .vandn o,
        .vshl o, .vshr o, .vsar o, .vrol o, .vperm o, .vbperm o] : List Instr),
      MayGo i [.vd o.vd.toNat, .vs o.va.toNat o.ta 1, .vs o.vb.toNat o.tb 2] (vg m)) ∧ NoReuse (vg m) ∧ Calm (vg m) := by
  refine ⟨fun o ho i _ => ?_, ?_, ?_⟩
  · have key : issueCheck (encode i) [.vd o.vd.toNat, .vs o.va.toNat o.ta 1, .vs o.vb.toNat o.tb 2] (vg m) = none := by
      simp only [List.mem_cons, List.not_mem_nil, or_false, edges] at h ho
      rcases ho with rfl | rfl | rfl | rfl <;> rcases h with rfl | rfl | rfl | rfl | rfl <;> exact rfl
    exact ⟨rfl, key⟩
  · simp only [List.mem_cons, List.not_mem_nil, or_false] at h
    rcases h with rfl | rfl | rfl | rfl | rfl <;> exact noReuse_of (by decide +kernel)
  · simp only [List.mem_cons, List.not_mem_nil, or_false] at h
    rcases h with rfl | rfl | rfl | rfl | rfl <;> exact calm_of (by decide +kernel)

theorem test_wit_VectorInteger_others :
    ∀ p ∈ ([(.vmad (vr 3 1 2), [.vd 3, .vs 1 false 1, .vs 2 false 2, .vs 3 false 3]),
        (.vaddi (vi 3 1 0x80), [.vd 3, .vs 1 false 1]), (.vmuli (vi 3 112 0x7F), [.vd 3, .vs 112 false 1]),
        (.vandi (vi 127 1 0), [.vd 127, .vs 1 false 1]), (.vori (vi 3 3 1), [.vd 3, .vs 3 false 1]), (.vxori (vi 3 1 1), [.vd 3, .vs 1 false 1]),
        (.vshli (vi 3 1 31), [.vd 3, .vs 1 false 1]), (.vshri (vi 3 1 0), [.vd 3, .vs 1 false 1]), (.vsari (vi 3 1 31), [.vd 3, .vs 1 false 1])] :
        List (Instr × List Use)), MayGo p.1 p.2 (vg 0x80) :=
  go_all (by decide +kernel)

theorem test_wit_VectorFloating_values :
    fpDecode .f32 0x7FC00000 = .nan false 0x400000 ∧ fpDecode .h16 0xFC00 = .inf true ∧ fpDecode .h16 0x7C00 = .inf (!true)
      ∧ (match fpDecode .b16 0x8000 with
        | .fin n m _ => n && decide (m = 0)
        | _ => false) = true
      ∧ (match fpDecode .f32 0xBF800000 with
        | .fin n m _ => n && decide (m ≠ 0)
        | _ => false) = true
      ∧ fpSubnormal .f32 0xBF800000 = false := by
  decide +kernel

theorem test_wit_VectorFloating (o : OpVR) (ho : o ∈ edges) :
    (∀ i ∈ ([.vfadd o, .vfsub o, .vfmul o, .vfmin o, .vfmax o, .vfsgn o] : List Instr),
      MayGo i [.vd o.vd.toNat, .vs o.va.toNat o.ta 1, .vs o.vb.toNat o.tb 2] (vg 0xB0))
    ∧ (∀ i ∈ ([.vfabs { ta := o.ta, vd := o.vd, va := o.va }, .vtanh { ta := o.ta, vd := o.vd, va := o.va }] : List Instr),
      MayGo i [.vd o.vd.toNat, .vs o.va.toNat o.ta 1] (vg 0xB0)) := by
  refine ⟨fun i _ => ?_, fun i _ => ?_⟩
  · have key : issueCheck (encode i) [.vd o.vd.toNat, .vs o.va.toNat o.ta 1, .vs o.vb.toNat o.tb 2] (vg 0xB0) = none := by
      simp only [List.mem_cons, List.not_mem_nil, or_false, edges] at ho
      rcases ho with rfl | rfl | rfl | rfl <;> exact rfl
    exact ⟨rfl, key⟩
  · have key : issueCheck (encode i) [.vd o.vd.toNat, .vs o.va.toNat o.ta 1] (vg 0xB0) = none := by
      simp only [List.mem_cons, List.not_mem_nil, or_false, edges] at ho
      rcases ho with rfl | rfl | rfl | rfl <;> exact rfl
    exact ⟨rfl, key⟩

theorem test_wit_VectorFloating_fused :
    (∀ p ∈ ([(.vfma (vr 3 1 2), [.vd 3, .vs 1 false 1, .vs 2 false 2, .vs 3 false 3]), (.vfms (vr 3 1 2), [.vd 3, .vs 1 false 1, .vs 2 false 2, .vs 3 false 3]),
        (.vfnma (vr 63 63 63), [.vd 63, .vs 63 false 1, .vs 63 false 2, .vs 63 false 3]),
        (.vdot4i (vr 3 1 2), [.vd 3, .vs 1 false 1, .vs 2 false 2, .vs 3 false 3]),
        (.vdot2 (vr 3 1 2), [.vd 3, .vs 1 false 1, .vs 2 false 2, .vs 3 false 3])] : List (Instr × List Use)), MayGo p.1 p.2 (vg 0x480))
      ∧ fpView (modeEt (vg 0xB0).me.mode) = some .f32 ∧ fpView (modeEt (vg 0x480).me.mode) = none
      ∧ modeEt 0xA0 = 4 ∧ modeEt 0xA8 = 5 ∧ modeEt 0xB8 = 7 ∧ modeEt 0xC0 = 8 ∧ modeRnd 0x330 = 6 :=
  ⟨go_all (by decide +kernel), by decide +kernel⟩

theorem test_wit_Conversions :
    ∀ p ∈ ([(.vcvt { rnd := 1, ta := false, vd := 3, va := 1, st := 0, dt := 13 }, [.vd 3, .vs 1 false 1]),
        (.vcvt { rnd := 0, ta := true, vd := 127, va := 112, st := 13, dt := 6 }, [.vd 127, .vs 112 true 1]),
        (.vcvt { rnd := 6, ta := false, vd := 3, va := 2, st := 6, dt := 7 }, [.vd 3, .vs 2 false 1]),
        (.vmxd { fmt := 0, ta := false, vd := 3, va := 2 }, [.vd 3, .vs 2 false 1]), (.vmxd { fmt := 6, ta := false, vd := 3, va := 2 }, [.vd 3, .vs 2 false 1]),
        (.vmxq { fmt := 0, ta := false, vd := 63, va := 2 }, [.vd 63, .vs 2 false 1]),
        (.vcmpEq { ta := false, tb := false, pd := 1, va := 1, vb := 2 }, [.vs 1 false 1, .vs 2 false 2]),
        (.vcmpNe { ta := true, tb := true, pd := 7, va := 112, vb := 112 }, [.vs 112 true 1, .vs 112 true 2]),
        (.vcmpLt { ta := false, tb := false, pd := 0, va := 1, vb := 2 }, [.vs 1 false 1, .vs 2 false 2]),
        (.vcmpLe { ta := false, tb := false, pd := 1, va := 63, vb := 63 }, [.vs 63 false 1, .vs 63 false 2]),
        (.vcmpGt { ta := false, tb := false, pd := 1, va := 1, vb := 2 }, [.vs 1 false 1, .vs 2 false 2]),
        (.vcmpGe { ta := false, tb := false, pd := 1, va := 1, vb := 2 }, [.vs 1 false 1, .vs 2 false 2]),
        (.vcmpUnord { ta := false, tb := false, pd := 1, va := 1, vb := 2 }, [.vs 1 false 1, .vs 2 false 2]),
        (.vcmpOrd { ta := false, tb := false, pd := 1, va := 1, vb := 2 }, [.vs 1 false 1, .vs 2 false 2])] : List (Instr × List Use)),
      MayGo p.1 p.2 (vg 0xB1) :=
  go_all (by decide +kernel)

theorem test_wit_Conversions_draws :
    modeRnd (vg 0xB1).me.mode ≠ 6 ∧ (3 : Nat) < 112 ∧ (13 : Nat) < 14
      ∧ (((cvtType 0).fmt.isSome || (cvtType 13).fmt.isSome) && (fpEnvRnd 0xB1 1).rnd == 6) = false := by
  decide +kernel

theorem test_wit_Permutes :
    (∀ p ∈ ([(.vshfx (vi 3 1 31), [.vd 3, .vs 1 false 1]), (.vslideu (vi 3 1 31), [.vd 3, .vs 1 false 1]), (.vslided (vi 127 112 0), [.vd 127, .vs 112 false 1]),
        (.vlaneb (vi 3 1 31), [.vd 3, .vs 1 false 1]), (.vquad (vi 3 1 0), [.vd 3, .vs 1 false 1]), (.vquad (vi 3 1 2), [.vd 3, .vs 1 false 1]),
        (.vquad (vi 3 1 4), [.vd 3, .vs 1 false 1]), (.vquad (vi 3 1 7), [.vd 3, .vs 1 false 1]), (.vquad (vi 3 1 8), [.vd 3, .vs 1 false 1]),
        (.vquad (vi 3 2 11), [.vd 3, .vs 2 false 1])] : List (Instr × List Use)), MayGo p.1 p.2 (vg 0xB1))
      ∧ fpView (modeEt (vg 0xB1).me.mode) = some .f32 ∧ fpView (modeEt (vg 0x80).me.mode) = none ∧ modeRnd (vg 0xB1).me.mode ≠ 6
      ∧ (MayGo (.vquad (vi 3 1 9)) [.vd 3, .vs 1 false 1] (vg 0x80)) ∧ NoReuse (vg 0xB1) :=
  ⟨go_all (by decide +kernel), by decide +kernel, by decide +kernel, by decide +kernel, go_mayGo (by decide +kernel), noReuse_of (by decide +kernel)⟩

theorem test_wit_ScansReductions :
    (∀ p ∈ ([(.vscanadd (vr1 3 1), [.vd 3, .vs 1 false 1]), (.vscanmin (vr1 3 112), [.vd 3, .vs 112 false 1]), (.vscanmax (vr1 127 1), [.vd 127, .vs 1 false 1]),
        (.vscanor (vr1 63 63), [.vd 63, .vs 63 false 1]), (.vxscanadd (vr1 3 1), [.vd 3, .vs 1 false 1]), (.vxscanmax (vr1 3 1), [.vd 3, .vs 1 false 1]),
        (.vredadd { ta := true, va := 2, sb := 0 }, [.vs 2 true 1, .sd 0]), (.vredmin { ta := false, va := 112, sb := 63 }, [.vs 112 false 1, .sd 63]),
        (.vredmax { ta := false, va := 1, sb := 5 }, [.vs 1 false 1, .sd 5]), (.vredor { ta := false, va := 1, sb := 5 }, [.vs 1 false 1, .sd 5]),
        (.vredand { ta := false, va := 1, sb := 5 }, [.vs 1 false 1, .sd 5])] : List (Instr × List Use)), MayGo p.1 p.2 (vg 0xB1))
      ∧ NoReuse (vg 0xB1) ∧ (fpView (modeEt (vg 0xB1).me.mode)).isSome = true ∧ modeRnd (vg 0xB1).me.mode ≠ 6
      ∧ fpView (modeEt 0x80) = none ∧ 0 < (intView (modeEt 0x80)).n :=
  ⟨go_all (by decide +kernel), noReuse_of (by decide +kernel), by decide +kernel⟩

theorem test_wit_PredicatesAndMoves :
    (∀ p ∈ ([(.pand { pd := 7, pa := 7, pb := 0 }, []), (.por { pd := 1, pa := 2, pb := 3 }, []), (.pxor { pd := 1, pa := 1, pb := 1 }, []),
        (.pandn { pd := 1, pa := 2, pb := 3 }, []), (.pnot { pd := 1, pa := 2 }, []), (.pmov { pd := 1, pa := 0 }, []),
        (.pset { pd := 1, sa := 63 }, [.ss 63 false 1]), (.pget { pa := 7, sd := 0 }, [.sd 0]), (.pcnt { pa := 0, sd := 63 }, [.sd 63]),
        (.pfirst { pa := 1, sd := 3 }, [.sd 3]), (.qhelp { pd := 1, pa := 2 }, []),
        (.vmov { ta := true, vd := 3, va := 1 }, [.vd 3, .vs 1 true 1]), (.vmov { ta := false, vd := 127, va := 112 }, [.vd 127, .vs 112 false 1]),
        (.vbcast { vd := 0, sb := 63 }, [.vd 0, .ss 63 false 2]), (.viota { vd := 3, k := 127, sb := 1 }, [.vd 3, .ss 1 false 2]),
        (.vext { ta := false, vd := 3, va := 2, sb := 1 }, [.vd 3, .vs 2 false 1, .ss 1 false 2]),
        (.vmova { ta := false, vd := 3, va := 3 }, [.vd 3, .vs 3 false 1]), (.vgen { ta := true, vd := 3, va := 63 }, [.vname 3 0, .vd 3, .vreg 63 true 1]),
        (.vshape { ta := false, va := 1, sb := 5 }, [.vreg 1 false 1, .sd 5])] : List (Instr × List Use)), MayGo p.1 p.2 (vg 0x80))
      ∧ (7 : BitVec 3).toNat ≠ 0 :=
  ⟨go_all (by decide +kernel), by decide⟩

/-- Every shape of word that the frame covers answers a next state. -/
theorem test_wit_VectorFrame :
    ([.vadd (vr 3 1 2), .vfadd (vr 127 112 112), .vmad (vr 3 1 2), .vfma (vr 3 1 2), .vfabs (vr1 3 1), .vscanadd (vr1 3 1), .vaddi (vi 3 1 1),
        .vquad (vi 3 1 8), .vmxq { fmt := 0, ta := false, vd := 63, va := 2 }, .vmov { ta := false, vd := 3, va := 1 }, .vbcast { vd := 3, sb := 1 },
        .viota { vd := 3, k := 1, sb := 1 }, .vext { ta := false, vd := 3, va := 2, sb := 1 }, .vredadd { ta := true, va := 2, sb := 5 },
        .vcmpEq { ta := false, tb := false, pd := 1, va := 1, vb := 2 }, .pand { pd := 7, pa := 7, pb := 0 }, .pnot { pd := 1, pa := 2 },
        .pset { pd := 1, sa := 1 }, .pget { pa := 1, sd := 3 }] : List Instr).all (fun i => runs (exec i (vg 0xB0))) = true
      ∧ Calm (vg 0xB0) := by
  exact ⟨by decide +kernel, calm_of (by decide +kernel)⟩

theorem test_wit_VectorFrame_dots :
    runs (exec (.vdot4i (vr 3 1 2)) (vg 0xA0)) = true ∧ runs (exec (.vdot2 (vr 3 1 2)) (vg 0xB8)) = true := by
  decide +kernel

theorem test_wit_VectorLoads :
    (∀ p ∈ ([(.vldw { vd := 3, sb := 1, vo := 1, t := true, sc := 0 }, [.vd 3, .ss 1 false 2, .vs 1 true 1]),
        (.vldh { vd := 63, sb := 1, vo := 112, t := false, sc := 3 }, [.vd 63, .ss 1 false 2, .vs 112 false 1]),
        (.vldhz { vd := 127, sb := 1, vo := 1, t := false, sc := 0 }, [.vd 127, .ss 1 false 2, .vs 1 false 1]),
        (.vldb { vd := 1, sb := 1, vo := 1, t := false, sc := 0 }, [.vd 1, .ss 1 false 2, .vs 1 false 1]),
        (.vldbz { vd := 3, sb := 1, vo := 1, t := false, sc := 0 }, [.vd 3, .ss 1 false 2, .vs 1 false 1]),
        (.vldq { vd := 3, sb := 1, vo := 1, t := false, sc := 2 }, [.vd 3, .ss 1 false 2, .vs 1 false 1]),
        (.vldu { vd := 3, sb := 1 }, [.vd 3, .ss 1 false 2]), (.vlda { vd := 3, sb := 1, vo := 1, scp := 4 }, [.vd 3, .ss 1 false 2, .vs 1 false 1]),
        (.vstw { vd := 2, sb := 1, vo := 1, t := true, sc := 0 }, [.vs 2 true 0, .ss 1 false 2, .vs 1 true 1]),
        (.vsth { vd := 112, sb := 1, vo := 1, t := false, sc := 0 }, [.vs 112 false 0, .ss 1 false 2, .vs 1 false 1]),
        (.vstb { vd := 2, sb := 1, vo := 2, t := false, sc := 0 }, [.vs 2 false 0, .ss 1 false 2, .vs 2 false 1]),
        (.vstq { vd := 2, sb := 1, vo := 1, t := false, sc := 2 }, [.vs 2 false 0, .ss 1 false 2, .vs 1 false 1]),
        (.vstl { vd := 2, sb := 1, vo := 1, scp := 1 }, [.vs 2 false 0, .ss 1 false 2, .vs 1 false 1])] : List (Instr × List Use)),
      MayGo p.1 p.2 (vg 0x80)) ∧ NoReuse (vg 0x80) ∧ Calm (vg 0x80) :=
  ⟨go_all (by decide +kernel), noReuse_of (by decide +kernel), calm_of (by decide +kernel)⟩

theorem test_wit_Vector_reaches (a : Acc)
    (h : a ∈ [{ size := 4, write := false, atomic := false, vector := true }, { size := 2, write := false, atomic := false, vector := true },
      { size := 1, write := true, atomic := false, vector := true }, { size := 4, write := true, atomic := false, vector := true },
      { size := 4, write := false, atomic := true, vector := true }, { size := 4, write := true, atomic := true, vector := true }]) :
    ∀ k, k < 32 → (vg 0x80).me.actLive.getLsbD k = true → ∃ ts,
      Reaches (vg 0x80) a k (((vg 0x80).me.readS 1 + (((vg 0x80).me.vreg 1).lane k).signExtend 64 * BitVec.ofNat 64 (2 ^ 0)).toNat)
        [(((vg 0x80).me.readS 1 + (((vg 0x80).me.vreg 1).lane k).signExtend 64 * BitVec.ofNat 64 (2 ^ 0)).toNat, a.size)] ts := by
  simp only [List.mem_cons, List.not_mem_nil, or_false] at h
  rcases h with rfl | rfl | rfl | rfl | rfl | rfl <;>
    exact reach_all (addr := fun k => ((vg 0x80).me.readS 1 + (((vg 0x80).me.vreg 1).lane k).signExtend 64 * BitVec.ofNat 64 (2 ^ 0)).toNat)
      (by decide +kernel)

theorem test_wit_Vector_unwatched (r w : Bool) :
    Unwatched (vg 0x80) r w 4 (((List.range 32).filter (vg 0x80).me.actLive.getLsbD).map (fun k => (k, 0x20000 + 4 * k))) := by
  unfold Unwatched
  cases r <;> cases w <;> decide +kernel

theorem test_wit_VectorAtomics :
    ∀ p ∈ ([(.vatomAdd { sem := 0, scp := 1, vd := 3, vo := 1, sbx := 1 }, [.vd 3, .vs 3 false 0, .ss 1 false 2, .vs 1 false 1]),
        (.vatomAnd { sem := 1, scp := 2, vd := 63, vo := 1, sbx := 1 }, [.vd 63, .vs 63 false 0, .ss 1 false 2, .vs 1 false 1]),
        (.vatomOr { sem := 2, scp := 3, vd := 1, vo := 1, sbx := 1 }, [.vd 1, .vs 1 false 0, .ss 1 false 2, .vs 1 false 1]),
        (.vatomXor { sem := 3, scp := 4, vd := 3, vo := 1, sbx := 7 }, [.vd 3, .vs 3 false 0, .ss 7 false 2, .vs 1 false 1]),
        (.vatomMin { sem := 0, scp := 1, vd := 3, vo := 1, sbx := 1 }, [.vd 3, .vs 3 false 0, .ss 1 false 2, .vs 1 false 1]),
        (.vatomMax { sem := 0, scp := 1, vd := 3, vo := 1, sbx := 1 }, [.vd 3, .vs 3 false 0, .ss 1 false 2, .vs 1 false 1]),
        (.vatomMinz { sem := 0, scp := 1, vd := 3, vo := 1, sbx := 1 }, [.vd 3, .vs 3 false 0, .ss 1 false 2, .vs 1 false 1]),
        (.vatomMaxz { sem := 0, scp := 1, vd := 3, vo := 1, sbx := 1 }, [.vd 3, .vs 3 false 0, .ss 1 false 2, .vs 1 false 1]),
        (.vatomXchg { sem := 0, scp := 1, vd := 3, vo := 1, sbx := 1 }, [.vd 3, .vs 3 false 0, .ss 1 false 2, .vs 1 false 1]),
        (.vatomFadd { sem := 0, scp := 1, vd := 3, vo := 1, sbx := 1 }, [.vd 3, .vs 3 false 0, .ss 1 false 2, .vs 1 false 1]),
        (.vatomCas { sem := 0, scp := 1, vd := 2, vo := 1, sbx := 1 }, [.vd 2, .vs 2 false 0, .vs 3 false 0, .ss 1 false 2, .vs 1 false 1]),
        (.vatomLd { sem := 0, scp := 1, vd := 3, vo := 1, sbx := 1 }, [.vd 3, .ss 1 false 2, .vs 1 false 1]),
        (.vatomSt { sem := 0, scp := 1, vd := 3, vo := 1, sbx := 1 }, [.vs 3 false 0, .ss 1 false 2, .vs 1 false 1])] : List (Instr × List Use)),
      MayGo p.1 p.2 (vg 0x80) :=
  go_all (by decide +kernel)

/-- The system scope, at the scratchpad. -/
theorem test_wit_System_scope (a : Acc) (h : a ∈ [{ size := 8, write := false, atomic := false, vector := false },
      { size := 8, write := true, atomic := true, vector := false }, { size := 4, write := true, atomic := false, vector := false },
      { size := 4, write := false, atomic := true, vector := true }, { size := 4, write := true, atomic := true, vector := true }]) :
    (∃ ts, Reaches scratchState a 0 0x1FF000000000000 [(ocpmBase + 5 * 0x400, a.size)] ts) ∧ scopeDenied scratchState scratchState.me.vf 4 = false := by
  simp only [List.mem_cons, List.not_mem_nil, or_false] at h
  rcases h with rfl | rfl | rfl | rfl | rfl <;> exact ⟨⟨[], by unfold Reaches; decide +kernel⟩, by decide +kernel⟩

/-- A store to START of BTE channel 0, whose descriptor is filled in. -/
theorem test_wit_Aperture :
    checkLane (tg id) (envOf (tg id) 0) [] { size := 8, write := true, atomic := false, vector := false } 0 0x1FF000200000000 = .ok (.aperture 0)
      ∧ (startStore 0 0x20000 (tg id)).isSome = true ∧ 0 % 64 = 0 := by
  refine ⟨?_, ?_, ?_⟩ <;> decide +kernel

theorem test_wit_Mmio :
    (∀ w, checkLane (kernelState 0) (envOf (kernelState 0) 0) [] { size := 8, write := w, atomic := false, vector := false } 0 0x1FF000400000000 = .ok (.mmio 0))
      ∧ (mmioStore 0x20000 8 7 (kernelState 0)).isSome = true := by
  refine ⟨fun w => ?_, ?_⟩
  · cases w <;> decide +kernel
  · decide +kernel

/-! Synchronisation, streams, copies, allotment, queues and the matrix engine. -/

theorem test_wit_Fence (k : BitVec 3) (h : k ∈ [0, 1, 2, 3]) :
    MayGo (.fence { sem := 3, scp := k }) [] (tg id) ∧ scopeDenied (tg id) (tg id).me.vf k.toNat = false := by
  simp only [List.mem_cons, List.not_mem_nil, or_false] at h
  rcases h with rfl | rfl | rfl | rfl <;> exact ⟨go_mayGo (by decide +kernel), by decide +kernel⟩

/-- A team that expects n arrivals at barrier 15 and has seen a. -/
def barState (n a : Nat) (g : Group → Group) : State :=
  tm (fun t => { t with barriers := [(15, { expect := n, arrived := a, phase := 3 })] }) (tg g)

theorem test_wit_Bar_arrives (s : State) (h : s ∈ [barState 1 0 id, barState 16 14 id, barState 16 15 id]) :
    MayGo (.bara { id := 15 }) [] s ∧ MayGo (.bar { id := 15 }) [] s ∧ s.me.barHalf = false := by
  simp only [List.mem_cons, List.not_mem_nil, or_false] at h
  rcases h with rfl | rfl | rfl <;> exact ⟨go_mayGo (by decide +kernel), go_mayGo (by decide +kernel), by decide +kernel⟩

theorem test_wit_Bar_last : ((barState 16 15 id).myTeam.barrier 15).arrived + 1 = ((barState 16 15 id).myTeam.barrier 15).expect
    ∧ ((barState 16 14 id).myTeam.barrier 15).arrived + 1 ≠ ((barState 16 14 id).myTeam.barrier 15).expect := by
  decide +kernel

/-- A group that has arrived at barrier 15 in a phase. -/
def marked (p : BitVec 4) (u : Bool) (g : Group) : Group := { g with barHalf := true, bars := [(15, { phase := p, unmatched := u })] }

theorem test_wit_Bar_waits (s : State) (h : s ∈ [barState 2 1 (marked 3 true), barState 2 1 (marked 2 true), barState 2 1 (marked 3 false)]) :
    MayGo (.bar { id := 15 }) [] s ∧ MayGo (.barw { id := 15 }) [] s ∧ s.me.barHalf = true
      ∧ (let m := Tab.get { phase := 0, unmatched := false } s.me.bars 15
        (m.unmatched = false ∨ (s.myTeam.barrier 15).phase ≠ m.phase) ∨ (m.unmatched = true ∧ (s.myTeam.barrier 15).phase = m.phase)) := by
  simp only [List.mem_cons, List.not_mem_nil, or_false] at h
  rcases h with rfl | rfl | rfl <;>
    exact ⟨go_mayGo (by decide +kernel), go_mayGo (by decide +kernel), by decide +kernel, by decide +kernel⟩

theorem test_wit_Barinit (n : W64) (h : n ∈ [0, 1, 16, 17]) :
    MayGo (.barinit { sa := 1, id := 15 }) [.ss 1 false 1] (barState 4 0 (withS [n]))
      ∧ MayGo (.barinit { sa := 1, id := 15 }) [.ss 1 false 1] (barState 4 1 (withS [n]))
      ∧ ((barState 4 0 (withS [n])).myTeam.barrier 15).arrived = 0 ∧ ((barState 4 1 (withS [n])).myTeam.barrier 15).arrived ≠ 0 := by
  simp only [List.mem_cons, List.not_mem_nil, or_false] at h
  rcases h with rfl | rfl | rfl | rfl <;>
    exact ⟨go_mayGo (by decide +kernel), go_mayGo (by decide +kernel), by decide +kernel, by decide +kernel⟩

theorem test_wit_Bar_wakes :
    (groupAt (barState 2 0 (fun g => { marked 2 true g with blocked := some (.barw { id := 15 }) })) 0).st = .running
      ∧ (groupAt (barState 2 0 (fun g => { marked 2 true g with blocked := some (.barw { id := 15 }) })) 0).blocked = some (.barw { id := 15 })
      ∧ ((teamAt (barState 2 0 (marked 2 true)) 1).barrier 15).phase ≠ 2
      ∧ ((teamAt (barState 2 0 (fun g => { g with blocked := some (.barinit { sa := 1, id := 15 }) })) 1).barrier 15).arrived = 0 := by
  decide +kernel

/-- A sharing group of one key; team 1 belongs to it or not, and other teams hold the member numbers below n. -/
def shareState (me : Option Share) (n : Nat) : State :=
  let s := tm (fun t => { t with share := me }) (tg (withS [7]))
  { s with teams := s.teams ++ (List.range n).map (fun m =>
      (m + 2, { Team.empty with vf := 1, core := 1, share := some { key := 7, member := m, view := 1, exposure := 0 } })) }

theorem test_wit_Cjoin (s : State) (h : s ∈ [shareState none 0, shareState none 3, shareState none 16,
      shareState (some { key := 7, member := 3, view := 1, exposure := 0 }) 2, shareState (some { key := 8, member := 0, view := 1, exposure := 0 }) 2]) :
    s.me.readS 1 = 7 ∧ MayGo (.cjoin { sd := 3, sa := 1, exp := 0 }) [.ss 1 false 1, .sd 3] s ∧ MayGo .cleave [] s
      ∧ pagesLocked s s.myTeam (List.range s.myTeam.pages.length) = false := by
  simp only [List.mem_cons, List.not_mem_nil, or_false] at h
  rcases h with rfl | rfl | rfl | rfl | rfl <;>
    exact ⟨by decide +kernel, go_mayGo (by decide +kernel), go_mayGo (by decide +kernel), by decide +kernel⟩

theorem test_wit_Cjoin_full :
    (shareState none 16).myTeam.share = none
      ∧ (∀ j, j < 16 → (shareState none 16).teams.any (fun e => match e.2.share with
        | some sh => e.2.vf == 1 && e.2.core / 4 == 0 && sh.key == 7 && sh.member == j
        | none => false) = true) := by
  decide +kernel

/-- A team whose page of the scratchpad is locked. -/
theorem test_wit_Cleave_locked :
    let s := modCore 0 (fun c => { c with locks := [(1, { owner := .mma 0, lo := (ocpmBase + 5 * 0x400) / 64, hi := (ocpmBase + 5 * 0x400) / 64, write := true, order := 0 })] })
      (tm (fun t => { t with pages := [5], share := some { key := 7, member := 3, view := 8, exposure := 0 } }) (tg id))
    MayGo .cleave [] s ∧ pagesLocked s s.myTeam (List.range s.myTeam.pages.length) = true := by
  exact ⟨go_mayGo (by decide +kernel), by decide +kernel⟩

/-- A layout record of 64 words lies at 0x21000. -/
def layoutState : State := withBytes 0x21000 64 (words 64) (tg (withS [0x21000]))

theorem test_wit_Sopen :
    MayGo (.sopen { sa := 1, port := 112 }) [.ss 1 false 1] layoutState ∧ MayGo (.sopen { sa := 1, port := 127 }) [.ss 1 false 1] layoutState
      ∧ (match readRecord64 0x21000 layoutState with
        | .ok (r, s1) => tlrValid r && decide (r = BitVec.ofNat 512 (words 64)) && (Tab.find s1.me.ports 112).isNone
          && decide (openPorts (closePort 112 s1) s1.qid < 32)
        | .error _ => false) = true :=
  ⟨go_mayGo (by decide +kernel), go_mayGo (by decide +kernel), by decide +kernel⟩

/-- Other groups of the partition hold 32 ports. -/
theorem test_wit_Sopen_full :
    (match readRecord64 0x21000 { layoutState with groups := layoutState.groups ++ [1, 2].map (fun q =>
        (q, { Group.empty with st := .running, ports := (List.range 16).map (fun n => (112 + n, default)) })) } with
      | .ok (r, s1) => tlrValid r && (Tab.find s1.me.ports 112).isNone && decide (32 ≤ openPorts (closePort 112 s1) s1.qid)
      | .error _ => false) = true := by
  decide +kernel

/-- A group with a read port and a write port that are open, with what they hold. -/
def portState (b : List (List W32 × W32)) (f : Group → Group) : State :=
  tg (fun g => f { g with ports := [(112, { tlr := BitVec.ofNat 512 (words 33), pos := 0, buffer := b, fault := none }),
    (127, { tlr := BitVec.ofNat 512 (words 33), pos := 0, buffer := b, fault := none })] })

theorem test_wit_Ports :
    MayGo (.sclose { port := 112 }) [] (portState [] id) ∧ MayGo (.sclose { port := 127 }) [] (portState [] id)
      ∧ MayGo (.sdrain { port := 0 }) [] (portState [] id) ∧ MayGo (.sdrain { port := 127 }) [] (portState [] id)
      ∧ MayGo (.sdrain { port := 127 }) [] (portState [(List.replicate 32 1, 3)] id)
      ∧ (∀ m, 120 ≤ m → m < 128 → ∀ p, Tab.find (portState [] id).me.ports m = some p → p.buffer = [] ∧ p.fault = none) := by
  refine ⟨go_mayGo ?_, go_mayGo ?_, go_mayGo ?_, go_mayGo ?_, go_mayGo ?_, ?_⟩
  · decide +kernel
  · decide +kernel
  · decide +kernel
  · decide +kernel
  · decide +kernel
  · intro m _ hm p hp
    have key : ∀ m, m < 128 → (match Tab.find (portState [] id).me.ports m with
        | some p => decide (p.buffer = [] ∧ p.fault = none)
        | none => true) = true := by decide +kernel
    have k := key m hm
    rw [hp] at k
    exact of_decide_eq_true k

theorem test_wit_Ports_done :
    (groupAt (portState [] (fun g => { g with blocked := some (.sdrain { port := 127 }) })) 0).st = .running
      ∧ (groupAt (portState [] (fun g => { g with blocked := some (.sclose { port := 127 }) })) 0).blocked = some (.sclose { port := 127 })
      ∧ (Tab.find (groupAt (portState [] id) 0).ports 127).isSome = true := by
  decide +kernel

theorem test_wit_Stream_read :
    let s := portState [] id
    (Tab.find (groupAt s 0).ports 112).isSome = true ∧ 32 * (0 + 0) < tlrElems (BitVec.ofNat 512 (words 33)) ∧ (dieAt s (dieOf 0)).held = false
      ∧ isOk (streamVector s 0 (BitVec.ofNat 512 (words 33)) 0 32) = true ∧ isOk (streamVector s 0 (BitVec.ofNat 512 (words 33)) 1 32) = true := by
  decide +kernel

theorem test_wit_Stream_write :
    let s := portState [(List.replicate 32 1, 0xFFFF0001)] id
    (Tab.find (groupAt s 0).ports 127).map (fun p => p.buffer) = some [(List.replicate 32 1, 0xFFFF0001)] ∧ (dieAt s (dieOf 0)).held = false
      ∧ (streamStore 0 (BitVec.ofNat 512 (words 33)) 0 (List.replicate 32 1) 0xFFFF0001 32 s).2 = none
      ∧ (match (streamStore 0 (BitVec.ofNat 512 (words 33 + 2 ^ 57)) 0 (List.replicate 32 1) 0xFFFF0001 32 s).2 with
        | some (_, .fault _) => true
        | _ => false) = true := by
  decide +kernel

/-- A group with batches. -/
def batchState (l : List Batch) (f : Group → Group) : State := tg (fun g => f { withS [9] g with openBatch := 10, batches := l })

theorem test_wit_Bclose :
    MayGo (.bclose { sd := 3, rw := 1 }) [.sd 3] (batchState [] id)
      ∧ MayGo (.bclose { sd := 0, rw := 2 }) [.sd 0] (batchState ((List.range 8).map (fun n => { num := BitVec.ofNat 32 (n + 1), pending := 1, failed := false })) id)
      ∧ (((batchState ((List.range 8).map (fun n => { num := BitVec.ofNat 32 (n + 1), pending := 1, failed := false })) id).me.batches.filter
        (fun b => b.num != 10 && decide (0 < b.pending))).length = 8) :=
  ⟨go_mayGo (by decide +kernel), go_mayGo (by decide +kernel), by decide +kernel⟩

theorem test_wit_Bwait (l : List Batch) (h : l ∈ [[], [{ num := 9, pending := 0, failed := false }], [{ num := 8, pending := 0, failed := true }],
      [{ num := 9, pending := 1, failed := false }]]) :
    MayGo (.bwait { sd := 3, sa := 1 }) [.ss 1 false 1, .sd 3] (batchState l id)
      ∧ ((∀ b ∈ l, b.pending = 0 ∧ b.failed = false) ∨ (∃ b ∈ l, b.failed = true ∧ ∀ c ∈ l, c.pending = 0) ∨ ∃ b ∈ l, 0 < b.pending)
      ∧ (∀ b ∈ l, (b.num != (10 : W32) && (decide (((9 : W32) - 10).toNat < 2 ^ 31) || decide (((9 : W32) - b.num).toNat < 2 ^ 31))) = true) := by
  simp only [List.mem_cons, List.not_mem_nil, or_false] at h
  rcases h with rfl | rfl | rfl | rfl <;> exact ⟨go_mayGo (by decide +kernel), by decide +kernel, by decide +kernel⟩

theorem test_wit_Batch_wakes :
    (groupAt (batchState [] (fun g => { g with blocked := some (.bclose { sd := 3, rw := 0 }) })) 0).pend < 8
      ∧ (groupAt (batchState [] (fun g => { g with blocked := some (.bwait { sd := 3, sa := 1 }) })) 0).batches = []
      ∧ (groupAt (batchState [] (fun g => { g with blocked := some (.bwait { sd := 3, sa := 1 }) })) 0).st = .running := by
  decide +kernel

/-- A team with sixteen pages of the scratchpad, whose first bytes hold a value. -/
def localState (v : Nat) (f : Group → Group) : State :=
  withBytes (ocpmBase + 5 * 0x400) 16 v (tm (fun t => { t with pages := (List.range 16).map (· + 5) }) (tg (fun g => f (withS [0x1FF000000000000, 0x300000002] g))))

theorem test_wit_Transactions :
    (∀ p ∈ ([(.tbinit { sa := 1, sb := 2 }, [.ss 1 false 1, .ss 2 false 2]), (.tbarr { sa := 1, scp := 1 }, [.ss 1 false 1]),
        (.tbexp { sa := 1, sb := 2 }, [.ss 1 false 1, .ss 2 false 2]), (.tbwait { sd := 3, sa := 1, scp := 1 }, [.ss 1 false 1, .ss 3 false 0, .sd 3])] :
        List (Instr × List Use)), MayGo p.1 p.2 (localState 0 id))
      ∧ isOk (tbAccess 0x1FF000000000000 true true (localState 0 id)) = true ∧ isOk (tbAccess 0x1FF000000000000 false true (localState 0 id)) = true
      ∧ isOk (tbAccess 0x1FF000000000000 true false (localState 0 id)) = true
      ∧ 0x300000002 % 2 ^ 24 ≠ 0 ∧ 0x300000002 / 2 ^ 24 % 256 = 0 ∧ 0x300000002 < 2 ^ 63 :=
  ⟨go_all (by decide +kernel), by decide +kernel⟩

theorem test_wit_Tbwait_phase (v : Nat) (h : v ∈ [0, 1, 15]) :
    (match tbAccess 0x1FF000000000000 true false (localState v id) with
      | .ok (ps, s1) => decide (leNat (readParts s1 s1.me.vf ps) % 16 = v)
      | .error _ => false) = true ∧ (localState v id).me.readS 3 = 0 := by
  simp only [List.mem_cons, List.not_mem_nil, or_false] at h
  rcases h with rfl | rfl | rfl <;> decide +kernel

theorem test_wit_Tbwait_wake :
    (groupAt (localState 1 (fun g => { g with blocked := some (.tbwait { sd := 3, sa := 1, scp := 1 }) })) 0).st = .running
      ∧ isOk (tbAccess 0x1FF000000000000 true false { localState 1 id with cur := .group 0 }) = true := by
  decide +kernel

theorem test_wit_Tb_update : (15 : Nat) < 16 ∧ (2 ^ 24 - 1 : Nat) < 2 ^ 24 ∧ (2 ^ 32 - 1 : Nat) < 2 ^ 32 ∧ (1 : Nat) ≤ 1 ∧ (0 : Nat) ≤ 1 := by
  decide

/-- A copy of one word from 0x20000 to 0x22000, which runs, waits for its time or has failed. -/
def copyState (run : Bool) (failed : Option Nat) (nbt : Nat) : State :=
  let s := tg (fun g => { g with openBatch := 2, batches := [{ num := 1, pending := 1, failed := false }] })
  { modVf 1 (fun v => { v with scopePolicy := 1 }) s with copies := [(4, { (default : Copy) with
      vf := 1, launch := 1, team := 1, q := 0, gen := (tg id).me.gen, core := 0, chan := 15, s1root := 0x3000, batch := 1, run := run, failed := failed
      tpl := { record := BitVec.ofNat 1024 (0x21000 + 0x22000 * 2 ^ 128 + nbt * 2 ^ 192), laya := BitVec.ofNat 512 (words 1), layb := 0 } })] }

theorem test_wit_Copy_starts :
    (Tab.find (copyState false none 0).copies 4).map (fun c => c.run || !copyRuns (copyState false none 0) c) = some false := by
  decide +kernel

theorem test_wit_Copy_completes :
    (Tab.find (copyState true none 0).copies 4).map (fun c => copyRuns (copyState true none 0) c && decide (tpDk (tpRec c.tpl) ≠ 1)
      && decide (tpElems c.tpl - c.done / tpBytes c.tpl = 1) && decide (tpTba (tpRec c.tpl) = 0) && c.cmd.isNone
      && decide ((copyMove c 1 0 (copyState true none 0)).2 = (1, none))) = some true
    ∧ (groupAt (copyState true none 0) 0).st ≠ .vacant
    ∧ (dieAt (copyState true none 0) 0).trace.keeps 2 1 (cgidOf 0 (groupAt (copyState true none 0) 0)) = false := by
  decide +kernel

theorem test_wit_Copy_fails :
    (Tab.find (copyState true (some 3) 0).copies 4).map (fun c => decide (c.parked = false ∧ c.failed = some 3 ∧ c.cmd = none ∧ c.core < 1024)) = some true
      ∧ (dieAt (copyState true (some 3) 0) 0).held = false := by
  decide +kernel

/-! Allotment. -/

/-- A team that holds registers, pages, tiles, and the sequencer of core 0 or not. -/
def heldState (f : Group → Group) (own : Bool) : State :=
  modCore 0 (fun c => { c with seq := { c.seq with st := if own then .run else .free, owner := if own then some 1 else none } })
    (tm (fun t => { t with vext := 40, pages := [5, 6], tiles := [0, 1] }) (tg f))

theorem test_wit_Allotment (n : W64) (h : n ∈ [0, 1, 2, 4, 8, 16, 48, 1024]) :
    ∀ p ∈ ([(.vacqW { sd := 3, sa := 1 }, [.ss 1 false 1, .sd 3]), (.vacqT { sd := 3, sa := 1 }, [.ss 1 false 1, .sd 3]),
        (.pgacqW { sd := 3, sa := 1 }, [.ss 1 false 1, .sd 3]), (.pgacqT { sd := 3, sa := 1 }, [.ss 1 false 1, .sd 3]),
        (.aacqW { sd := 0, sa := 1 }, [.ss 1 false 1, .sd 0]), (.aacqT { sd := 3, sa := 1 }, [.ss 1 false 1, .sd 3]),
        (.macqW { sd := 3, sa := 1 }, [.ss 1 false 1, .sd 3]), (.macqT { sd := 3, sa := 1 }, [.ss 1 false 1, .sd 3]),
        (.vrel { sa := 1 }, [.ss 1 false 1]), (.pgrel { sa := 1 }, [.ss 1 false 1]), (.arel { sa := 1 }, [.ss 1 false 1]), (.mrel, [])] :
        List (Instr × List Use)), MayGo p.1 p.2 (heldState (withS [n]) false) := by
  simp only [List.mem_cons, List.not_mem_nil, or_false] at h
  rcases h with rfl | rfl | rfl | rfl | rfl | rfl | rfl | rfl <;> exact go_all (by decide +kernel)

/-- 8 registers, a page, a tile and the sequencer fit beside what the team holds; 16 registers or 1024 pages exceed the
limit; and where a request waits or no unit is free, none is granted. -/
theorem test_wit_Allotment_free :
    (∀ p ∈ [(Resource.vregs, 8), (.pages, 1), (.tiles, 2)], (waitingReqs (heldState (withS [p.2]) false) 0 p.1).isEmpty = true
      ∧ canMeet (heldState (withS [p.2]) false) (myRequest p.1 { sd := 3, sa := 1 } (heldState (withS [p.2]) false)) = true
      ∧ heldOf (heldState (withS [p.2]) false) 1 p.1 + p.2.toNat ≤ limitOf p.1)
    ∧ canMeet (heldState (withS [0x20000]) false) (myRequest .sequencer { sd := 3, sa := 1 } (heldState (withS [0x20000]) false)) = true
    ∧ canMeet (heldState (withS [0x20000]) true) (myRequest .sequencer { sd := 3, sa := 1 } (heldState (withS [0x20000]) true)) = false
    ∧ limitOf .vregs < heldOf (heldState id false) 1 .vregs + 16 ∧ limitOf .pages < heldOf (heldState id false) 1 .pages + 1024
    ∧ limitOf .tiles < heldOf (heldState id false) 1 .tiles + 4 ∧ limitOf .sequencer < heldOf (heldState id true) 1 .sequencer + 1 := by
  decide +kernel

theorem test_wit_Release :
    (heldState id false).myTeam.vext = 40 ∧ pagesLocked (heldState id false) (heldState id false).myTeam [1] = false
      ∧ (coreAt (heldState id false) 0).seq.mmas = [] ∧ (coreAt (heldState id true) (coreOf (heldState id true).qid)).seq.owner = some 1
      ∧ MayGo .mrel [] (heldState id true) ∧ (coreAt (heldState id false) 0).seq.owner ≠ some 1 :=
  ⟨by decide +kernel, by decide +kernel, by decide +kernel, by decide +kernel, go_mayGo (by decide +kernel), by decide +kernel⟩

/-- A request for two tiles waits on core 0, where n tiles are held by another team. -/
def requestState (l : List Nat) : State :=
  let s := heldState (fun g => { g with blocked := some (.allot .tiles) }) false
  modCore 0 (fun c => { c with requests := [{ res := .tiles, q := 0, team := 1, count := 2, dest := 3, stream := 0, order := 0 }] })
    { s with teams := s.teams ++ [(2, { Team.empty with vf := 1, core := 0, groups := 1, tiles := l })] }

theorem test_wit_AllotGrant :
    (waitingReqs (requestState []) 0 .tiles).length = 1 ∧ (waitingReqs (requestState []) 0 .tiles).all (canMeet (requestState [])) = true
      ∧ (groupAt (requestState []) 0).st = .running ∧ (groupAt (requestState []) 0).blocked = some (.allot .tiles)
      ∧ (waitingReqs (requestState [2, 3]) 0 .tiles).all (fun r => !canMeet (requestState [2, 3]) r) = true := by
  decide +kernel

/-- Where every team that holds tiles waits for tiles, the core is deadlocked. -/
theorem test_wit_AllotGrant_deadlock :
    let s := modCore 0 (fun c => { c with requests := c.requests ++ [{ res := .tiles, q := 1, team := 2, count := 1, dest := 3, stream := 0, order := 1 }] })
      (modGroup 1 (fun g => { g with st := .running, team := 2, vf := 1, blocked := some (.allot .tiles) }) (requestState [2, 3]))
    deadlocked s 0 .tiles = true ∧ (waitingReqs s 0 .tiles).all (fun r => !canMeet s r) = true
      ∧ (waitingReqs s 0 .tiles).getLast?.map (fun r => r.q) = some 1 ∧ (groupAt s 1).st = .running := by
  decide +kernel

/-! Queues. -/

/-- A handle of VF 1 on die 0. -/
def handle (index rights : Nat) : W64 := queueHandle 1 1 0 index rights

/-- Queue 5 of VF 1 on die 0, of values or of waves, with entries; and an expert table. -/
def queueState (wave : Bool) (l : List Sys2Proof.Machine.Task) (h e : W64) : State :=
  let s := tg (fun g => { withS [h, e] g with v := [(1, .uniform 0x20000), (2, .uniform 0), (3, .uniform 0)] })
  modDie 0 (fun d => { d with
    queues := [(queueKey 1 5, { (default : TaskQueue) with
      desc := BitVec.ofNat 512 (1 + (if wave then 2 else 0) + 5 * 2 ^ 16), s1root := 0x3000, gen := 1, enabled := true, entries := l })]
    expertGen := [(1, 1)]
    experts := [(expertKey 1 255, { (default : Expert) with enabled := true, s1root := 0x3000, queue := [1] })] }) s

theorem test_wit_Cap (wave table : Bool) (r : Nat) (h : r < 3) :
    capReason (queueState wave [] (handle (if table then 0xFFFF else 5) 7) 0) (handle (if table then 0xFFFF else 5) 7)
        { right := r, table := table, wave := !table && wave } = none := by
  have : r = 0 ∨ r = 1 ∨ r = 2 := by omega
  rcases this with rfl | rfl | rfl <;> cases wave <;> cases table <;> decide +kernel

theorem test_wit_Cap_fails :
    capReason (queueState false [] (handle 6 7) 0) (handle 6 7) { right := 0, table := false, wave := false } ≠ none
      ∧ (∀ p ∈ ([(.tspawn { sh := 1, se := 2, va := 1 }, [.ss 1 false 1, .ss 2 false 2, .vs 1 false 1, .vs 2 false 1]),
        (.qpush { sh := 1, va := 1 }, [.ss 1 false 1, .vs 1 false 1, .vs 2 false 1]), (.qpop { sh := 1, va := 62 }, [.ss 1 false 1, .vda 62, .vda 63]),
        (.qsteal { sh := 1, va := 1 }, [.ss 1 false 1, .vda 1, .vda 2]), (.eqpush { sh := 1, va := 1 }, [.ss 1 false 1, .vs 1 false 1, .vs 2 false 1, .vs 3 false 1]),
        (.eqfire { sh := 1, se := 2 }, [.ss 1 false 1, .ss 2 false 2])] : List (Instr × List Use)), MayGo p.1 p.2 (queueState false [] (handle 6 7) 0x20000)) :=
  ⟨by decide +kernel, go_all (by decide +kernel)⟩

theorem test_wit_Queues :
    (taskQueue (queueState false [{ entry := 0, value := 7, number := 0 }] (handle 5 7) 0) (capDie (handle 5 7)) (capOwner (queueState false [{ entry := 0, value := 7, number := 0 }] (handle 5 7) 0) (handle 5 7)) (capIndex (handle 5 7))).isSome = true
      ∧ (taskQueue (queueState true [] (handle 5 7) 0x20000) (capDie (handle 5 7)) (capOwner (queueState true [] (handle 5 7) 0x20000) (handle 5 7)) (capIndex (handle 5 7))).map
        (fun q => q.entries.length + 32 ≤ tqCap q.desc) = some True
      ∧ (expertAt (queueState true [] (handle 0xFFFF 7) 255) (capDie (handle 0xFFFF 7)) (capOwner (queueState true [] (handle 0xFFFF 7) 255) (handle 0xFFFF 7)) 255).map (fun x => x.enabled && decide (x.queue ≠ []))
        = some true
      ∧ expertAt (queueState true [] (handle 0xFFFF 7) 255) (capDie (handle 0xFFFF 7)) (capOwner (queueState true [] (handle 0xFFFF 7) 255) (handle 0xFFFF 7)) 0 = none
      ∧ (queueState true [] (handle 5 7) 0x20000).me.actLive ≠ 0 := by
  refine ⟨by decide +kernel, ?_, by decide +kernel, by decide +kernel, by decide +kernel⟩
  exact congrArg some (eq_true (by decide +kernel))

theorem test_wit_Eqpush :
    let s := queueState false [] (handle 0xFFFF 7) 255
    let slots := (List.range 32).filter s.me.actLive.getLsbD
    (∀ k ∈ slots, 0 % 64 = 0) ∧ (match vecAccess s { size := 64, write := false, atomic := false, vector := true } true false (slots.map (fun k => (k, 0x20000))) with
      | .ok (ps, s1) => ps.all (fun p => (partsBad s1 p.2).isNone)
      | .error _ => false) = true := by
  decide +kernel

/-! Accumulators. -/

/-- A team with tile 2, a row number in s1 and an address in s2. -/
def tileState (m : W64) : State :=
  modCore 0 (fun c => { c with tiles := [(2, { rows := 128, cols := 4, fault := false })] }) (tm (fun t => { t with tiles := [2] })
    (tg (fun g => { withS [m, 0x20000] g with mode := 0xB0 })))

theorem test_wit_Accumulators (m : W64) (h : m ∈ [0, 127, 128]) :
    ∀ p ∈ ([(.adrain { rnd := 1, dt := 6, acc := 0, q := 3, vd := 3, sb := 1 }, [.ss 1 false 1, .vd 3]),
        (.afill { dt := 6, acc := 0, q := 0, vd := 0, sb := 1 }, [.vs 0 false 0, .ss 1 false 1]),
        (.adrainRaw { acc := 0, sb := 1, sr := 2 }, [.ss 1 false 1, .ss 2 false 0]), (.afillRaw { acc := 3, sb := 1, sr := 2 }, [.ss 1 false 1, .ss 2 false 0])] :
        List (Instr × List Use)), MayGo p.1 p.2 (tileState m) := by
  simp only [List.mem_cons, List.not_mem_nil, or_false] at h
  rcases h with rfl | rfl | rfl <;> exact go_all (by decide +kernel)

theorem test_wit_Accumulators_runs :
    (tileState 127).myTeam.tiles[0]? = some 2 ∧ (tileState 127).myTeam.tiles.length ≤ 1 ∧ 127 < (tileRec (tileState 127) 0 2).rows
      ∧ 0 < (tileRec (tileState 127) 0 2).cols ∧ elemLock (tileState 127) (elemLines 0 2 127 96 32) false = none
      ∧ elemBad (tileState 127) (elemLines 0 2 127 96 32) = none ∧ elemLock (tileState 127) (elemLines 0 2 127 0 128) true = none
      ∧ isOk (rangeCheck (tileState 127) true 0x20000 (33 * 4)) = true ∧ isOk (rangeCheck (tileState 127) false 0x20000 4224) = true
      ∧ watchHit (tileState 127) 0 false true (33 * 4) [(0, 0x20000)] = none ∧ watchHit (tileState 127) 0 true false 4224 [(0, 0x20000)] = none
      ∧ (tileState 127).qid < 32768 ∧ (fpEnvRnd 0xB0 1).rnd ≠ 6 := by
  refine ⟨?_, ?_, ?_, ?_, ?_, ?_, ?_, ?_, ?_, ?_, ?_, ?_, ?_⟩ <;> decide +kernel

theorem test_wit_DrainElem :
    drainFmt 0 = some .f32 ∧ drainFmt 4 = some .e4m3 := by
  decide +kernel

/-! The sequencer. -/

theorem test_wit_SequencerWords :
    (sq id).cur = .sequencer 0 ∧ (seqAt (sq (fun q => { q with dep := [(7, 1)] })) 0).dep = [(7, 1)]
      ∧ (seqAt (sq (fun q => { q with m := [(1, 0)] })) 0).mreg 1 = 0 ∧ ((seqAt (sq (fun q => { q with m := [(1, 5)] })) 0).mreg 1).toNat = 5
      ∧ (sq id).time.toNat = 0 ∧ (tg id).cur = .group 0 := by
  decide +kernel

/-- A block for one row and one column of A and B code 4 (two elements a byte). -/
def block1 : Nat := 4 + 4 * 16 + 32 * 2 ^ 12 + 2 ^ 32 + 2 ^ 40

/-- A ring of one entry of 4096 bytes at an offset of the scratchpad, its HEAD 0 and its TAIL 1. -/
def ringDesc (base : Nat) : Nat := base + 4096 * 2 ^ 32 + 2 ^ 48 + 2 ^ 64 + 2 ^ 192

/-- The team of the sequencer holds sixteen pages: ring descriptors at 0 and 0x20, a doorbell at 0x40 and a format block at 0x80;
the entries lie at 0x1000 and 0x2000. -/
def matState (door : Nat) (f : Sequencer → Sequencer) : State :=
  withBytes (ocpmBase + 0x14) 4 1 (withBytes (ocpmBase + 0x34) 4 1 (withBytes ocpmBase 16 (ringDesc 0x1000 % 2 ^ 128)
    (withBytes (ocpmBase + 0x20) 16 (ringDesc 0x2000 % 2 ^ 128) (withBytes (ocpmBase + 0x40) 8 door (withBytes (ocpmBase + 0x80) 64 block1
      (withBytes (ocpmBase + 0x18) 4 1 (withBytes (ocpmBase + 0x38) 4 1
      (tm (fun t => { t with pages := List.range 16, tiles := [2] }) (sq (fun q => f { q with m := (List.range 8).map (fun n =>
        (n, BitVec.ofNat 64 (localBase + 0x20 * n))) })))))))))) 

def seqReach (s : State) (w : Bool) (va n : Nat) : Bool :=
  match enginePlaces s (seqEnv s 0) (if w then .write else .read) va n with
  | .ok ps => ps.all (fun p => !olderLock s 0 s.nextOrder p.1 w) && (partsBad s ps).isNone
  | .error _ => false

theorem seqReach_reads {s : State} {va n : Nat} (h : seqReach s false va n = true) : ∃ v, SeqReads s 0 va n v := by
  unfold seqReach at h
  unfold SeqReads SeqReaches
  split at h
  · rename_i ps he
    rw [Bool.and_eq_true, List.all_eq_true] at h
    exact ⟨_, ps, ⟨he, fun p hp => by simpa using h.1 p hp⟩, by simpa using h.2, rfl⟩
  · cases h

theorem seqReach_reaches {s : State} {w : Bool} {va n : Nat} (h : seqReach s w va n = true) : ∃ ps, SeqReaches s 0 w va n ps := by
  unfold seqReach at h
  unfold SeqReaches
  split at h
  · rename_i ps he
    rw [Bool.and_eq_true, List.all_eq_true] at h
    exact ⟨ps, he, fun p hp => by simpa using h.1 p hp⟩
  · cases h

theorem test_wit_Sequencer_memory :
    (matState 0 id).cur = .sequencer 0 ∧ (∃ v, SeqReads (matState 0 id) 0 (localBase + 0x80) 64 v) ∧ (∃ v, SeqReads (matState 0 id) 0 localBase 32 v)
      ∧ (∃ v, SeqReads (matState 0x20000 id) 0 (localBase + 0x40) 8 v) ∧ (∃ ps, SeqReaches (matState 0x20000 id) 0 true (localBase + 0x40) 8 ps)
      ∧ (∃ ps, SeqReaches (matState 0 id) 0 true (localBase + 28) 4 ps)
      ∧ fbValid (BitVec.ofNat 512 block1) = true ∧ fbValid 7 = false ∧ tbRegion localBase = true ∧ tbRegion 0x20000 = false
      ∧ ringValid (ringOf (BitVec.ofNat 64 localBase) (ringDesc 0x1000)) = true ∧ ringValid (ringOf (BitVec.ofNat 64 localBase) 0) = false
      ∧ (tbPlace (matState 0 id) 1 localBase).isSome = true ∧ (teamAt (matState 0 id) 1).tiles[0]? = some 2
      ∧ rangeLocked (matState 0 id) 0 (tileBase 0 2) 0x84000 = false :=
  ⟨by decide +kernel, seqReach_reads (by decide +kernel), seqReach_reads (by decide +kernel), seqReach_reads (by decide +kernel),
    seqReach_reaches (by decide +kernel), seqReach_reaches (by decide +kernel), by decide +kernel⟩

/-- The registers of the sequencer before MMA: format block 0 and rings 0 and 1. -/
def loaded (q : Sequencer) : Sequencer :=
  { q with fb := [(0, BitVec.ofNat 512 block1)], ring := [(0, ringOf (BitVec.ofNat 64 localBase) (ringDesc 0x1000)),
    (1, ringOf (BitVec.ofNat 64 (localBase + 0x20)) (ringDesc 0x2000))] }

def mma1 : OpMma := { fb := 0, acc := 0, ra := 0, rb := 1, kx := 0, wait := 0, s := true, set := 7 }

theorem test_wit_Mma_causes :
    let s := matState 0 loaded
    let q := seqAt s 0
    mmaCauses mma1 1 (Tab.find q.fb 0) (Tab.find q.ring 0) (Tab.find q.ring 1) = []
      ∧ mmaCauses { mma1 with acc := 3 } 1 (Tab.find q.fb 0) (Tab.find q.ring 0) (Tab.find q.ring 1) = [5]
      ∧ q.mmas.length < 2 ∧ Tab.get 0 q.dep 7 ≠ 255 := by
  decide +kernel

theorem test_wit_Mma_issue :
    let s := matState 0 loaded
    (∃ v, SeqReads s 0 (localBase + 24) 4 v) ∧ (∃ v, SeqReads s 0 (localBase + 0x20 + 24) 4 v)
      ∧ (1 : Int) ≤ published (ringOf (BitVec.ofNat 64 localBase) (ringDesc 0x1000)) 1
      ∧ (match mmaIssue 0 (mmaRecord s 0 mma1 (BitVec.ofNat 512 block1) (ringOf (BitVec.ofNat 64 localBase) (ringDesc 0x1000))
          (ringOf (BitVec.ofNat 64 (localBase + 0x20)) (ringDesc 0x2000)) 2) s with
        | .ok (some _) => true
        | _ => false) = true :=
  ⟨seqReach_reads (by decide +kernel), seqReach_reads (by decide +kernel), by decide +kernel, by decide +kernel⟩

/-- The state after the MMA has been issued, if it was. -/
def issued : State :=
  match mmaIssue 0 (mmaRecord (matState 0 loaded) 0 mma1 (BitVec.ofNat 512 block1) (ringOf (BitVec.ofNat 64 localBase) (ringDesc 0x1000))
      (ringOf (BitVec.ofNat 64 (localBase + 0x20)) (ringDesc 0x2000)) 2) (matState 0 loaded) with
  | .ok (some s) => s
  | _ => tg id

theorem test_wit_Mma_step :
    (match lockedHead issued 0 with
      | .ok (some (s1, m)) => isOk (stepData s1 0 m) && !tileLocked s1 0 m && decide (m.done + 1 = 2 ^ m.o.kx.toNat)
      | _ => false) = true := by
  decide +kernel

theorem test_wit_Doorbell (d : Nat) (h : d ∈ [0, 0x20000]) :
    let s := matState d (fun q => { q with st := .idle, park := some (BitVec.ofNat 64 (localBase + 0x40)) })
    (seqAt s 0).st = .idle ∧ (seqAt s 0).park = some (BitVec.ofNat 64 (localBase + 0x40)) ∧ (seqAt s 0).held = false ∧ (seqAt s 0).releasing = false
      ∧ (seqAt s 0).stall = none ∧ (dieAt s 0).held = false ∧ (∃ v, SeqReads s 0 (localBase + 0x40) 8 v) ∧ (∃ ps, SeqReaches s 0 true (localBase + 0x40) 8 ps) := by
  simp only [List.mem_cons, List.not_mem_nil, or_false] at h
  rcases h with rfl | rfl <;>
    exact ⟨by decide +kernel, by decide +kernel, by decide +kernel, by decide +kernel, by decide +kernel, by decide +kernel,
      seqReach_reads (by decide +kernel), seqReach_reaches (by decide +kernel)⟩

theorem test_wit_Mtime :
    (seqAt (sq (fun q => { q with mtime := some 0 })) 0).mtime = some 0 ∧ seqRuns (sq (fun q => { q with mtime := some 0 })) 0 = true := by
  decide +kernel

theorem test_wit_AddBlock : (-128 : Int) ≤ 0 ∧ (2 ^ 255 - 1 : Int) < 2 ^ 255 ∧ -(2 ^ 255 : Int) ≤ -(2 ^ 255) ∧ (32 : Nat) % 4 = 0 := by
  decide

/-! Groups, admission, commands, saving, debugging and the device. -/

/-- A state with one outstanding return. -/
def retState (p : RetPart) (gen : BitVec 16) (f : Group → Group) : State :=
  { tg f with returns := [(4, { q := 0, gen := gen, vf := 1, parts := [p], loadKey := none })] }

theorem test_wit_Returns (p : RetPart) (h : p ∈ [.scalar 0 7 none, .scalar 63 7 (some 1), .vector 0 0xFFFFFFFF true (List.replicate 32 5) none,
      .vector 63 1 false (List.replicate 32 5) none, .vector 64 1 false (List.replicate 32 5) none, .vector 111 1 false (List.replicate 32 5) none]) :
    (Tab.find (retState p (tg id).me.gen (Group.emptyS 63)).returns 4).isSome = true
      ∧ (groupAt (retState p (tg id).me.gen (Group.emptyS 63)) 0).st ≠ .vacant ∧ (groupAt (retState p 0 id) 0).gen = (tg id).me.gen
      ∧ (retState p 0 id).vtop (groupAt (retState p 0 id) 0) = 64
      ∧ (groupAt (retState p ((tg id).me.gen + 1) id) 0).gen ≠ (tg id).me.gen + 1 := by
  simp only [List.mem_cons, List.not_mem_nil, or_false] at h
  rcases h with rfl | rfl | rfl | rfl | rfl | rfl <;> decide +kernel

/-- A system call of service 4 in flight, of group 0 or of a group that has ended or stopped. -/
def answerState (gone : Bool) (f : Group → Group) : State :=
  { tg (fun g => f { g with sysc := some { handle := 6, dest := 3, service := 4, args := [] } }) with
    syscs := [(6, { q := 0, gen := 0, launch := 9, vf := 1, s1root := 0x3000, core := 0, service := 4, args := List.replicate 7 0, gone := gone, answer := none })] }

theorem test_wit_Answers :
    ((answerState false id).syscs.map (fun e => syscAnswerOk e.2 0 && e.2.answer.isNone)) = [true]
      ∧ ((answerState false id).groups.find? (fun e => e.2.st != .stopped && (match e.2.sysc with
        | some y => y.handle == 6
        | none => false))).map Prod.fst = some 0
      ∧ ((answerState false (fun g => { g with st := .stopped })).groups.find? (fun e => e.2.st != .stopped && (match e.2.sysc with
        | some y => y.handle == 6
        | none => false))).isNone = true
      ∧ (Tab.find (answerState true id).syscs 6).map (fun r => r.gone) = some true ∧ (3 : Nat) < 64 := by
  decide +kernel

theorem test_wit_Twait_expires :
    (groupAt (tg (fun g => { withS [0] g with blocked := some (.twait { sa := 1 }) })) 0).blocked = some (.twait { sa := 1 })
      ∧ ((groupAt (tg (withS [0])) 0).readS 1).toNat ≤ (tg id).time.toNat ∧ (groupAt (tg id) 0).st = .running := by
  decide +kernel

theorem test_wit_BteStart :
    let s := tg (fun g => { withS [0x1FF000200000000, 0x20000] g with blocked := some (.start { sd := 2, sa := 1, off := 0 }) })
    (groupAt s 0).st = .running ∧ (match access s { size := 8, write := true, atomic := false, vector := false } false (smAddr s { sd := 2, sa := 1, off := 0 } 8) with
      | .ok (.aperture off, s1) => decide (off % 64 = 0) && (startStore (off / 64) (s1.me.readS 2) s1).isSome
      | _ => false) = true := by
  decide +kernel

/-- Five groups of one partition: the first n in the active set, those from m on of VF 2. -/
def setState (n m : Nat) (f : Group → Group) : State :=
  { tg id with cclk := 2000, groups := (List.range 5).map (fun q => (q, f { placeGroup with
    active := decide (q < n), vf := if q < m then 1 else 2, lastIssue := 0, readyAt := q })) }

theorem test_wit_ActiveSet :
    mayEnter (setState 3 5 id) 3 = true ∧ mayEnter (setState 4 4 id) 4 = true ∧ lacksEntry (setState 4 4 id) 0 2 = true := by
  decide +kernel

theorem test_wit_ActiveSet_order :
    (groupAt (setState 2 3 id) 2).readyAt < (groupAt (setState 2 3 id) 3).readyAt ∧ lacksEntry (setState 2 3 id) 0 2 = true
      ∧ lacksEntry (setState 2 3 id) 0 1 = false ∧ (groupAt (setState 2 3 (fun g => { g with aged := true })) 0).aged = true
      ∧ (groupAt (setState 2 3 (fun g => { g with readyAt := 0 })) 0).readyAt = (groupAt (setState 2 3 (fun g => { g with readyAt := 0 })) 1).readyAt := by
  decide +kernel

theorem test_wit_ActiveSet_leaves :
    let g := groupAt (setState 4 5 (fun g => { g with blocked := some (.twait { sa := 1 }), blockedAt := 1968 })) 0
    g.active = true ∧ g.st = .running ∧ g.blockedAt + 32 ≤ 2000 ∧ (Blocked.twait { sa := 1 }).evicts = true
      ∧ (groupAt (setState 0 5 (fun g => { g with yieldedAt := some 1968 })) 0).yieldedAt = some 1968 ∧ 1968 + 32 ≤ (setState 0 5 id).cclk := by
  decide +kernel

/-! Admission. -/

/-- Launch 9 of VF 1, whose team of 33 lanes waits, or not; VF 1 has the partitions 8 and 9 of core 1. -/
def launchState (waits begun : Bool) (left : Nat) (cmd : Option Nat) : State :=
  let l : Launch := { (default : Launch) with
    vf := 1, kind := .kernel, cmd := cmd, kdesc := { entry := 0x10000, size := 64, pc := 0x10000, groups := 2, vext := 8, pages := 1, tiles := 1, trapVec := 0x20000 }
    teams := 1, lanes := 33, s1root := 0x3000, begun := begun, left := left }
  modVf 1 (fun v => { v with parts := [8, 9], waiting := if waits then [kernelTeam 9 0 l] else [] }) { tg id with launches := [(9, l)] }

theorem test_wit_Admission :
    turnOf (launchState true true 1 none) 1 = some 1
      ∧ (admissible (launchState true true 1 none) 1 1).map (fun x => (x.1.launch, x.2)) = some (9, [128, 144])
      ∧ (Tab.get default (launchState true true 1 none).launches 9).kind = .kernel := by
  decide +kernel

theorem test_wit_Launch_begins :
    (Tab.find (launchState false false 1 none).launches 9).map (fun l => !l.begun && decide (l.nbt.toNat ≤ 0)) = some true := by
  decide +kernel

theorem test_wit_Launch_completes (cmd : Option Nat) (h : cmd ∈ [none, some 3]) :
    (Tab.find (launchState false true 0 cmd).launches 9).map (fun l => decide (l.kind = .kernel ∧ l.begun = true ∧ l.left = 0 ∧ l.saved = none ∧ l.stall = none ∧ l.tlrec = 0 ∧ l.cmd = cmd))
        = some true
      ∧ launchWorks (launchState false true 0 cmd) 9 = false ∧ (dieAt (launchState false true 0 cmd) 4).held = false := by
  simp only [List.mem_cons, List.not_mem_nil, or_false] at h
  rcases h with rfl | rfl <;> decide +kernel

/-- A command of VF v that may begin, with its header and a data area of 256 bytes; its status area lies at 0x31000. -/
def cmdState (v hdr : Nat) : State :=
  modVf v (fun x => { x with
    enabled := true, s2root := 0x1000, parts := [8, 9]
    cmds := [(3, { queue := 0, head := 0, order := 0, header := leBytes 64 hdr, readable := [], writable := [(0x30000, 256)], status := 0x31000, begun := false })] })
    { tg id with boot := { (tg id).boot with bootstat := 0x10007 }, platform := { (tg id).platform with fabtag := [(v, 0x10000)] } }

/-- The header of a launch of one team of 33 lanes whose kernel descriptor lies at 0x20000, with stage-1 root 0x3000. -/
def launchHdr : Nat := 1 + 0x20000 * 2 ^ 64 + 0x3000 * 2 ^ 192 + 2 ^ 256 + 33 * 2 ^ 288

def launchCmd : Command :=
  { queue := 0, head := 0, order := 0, header := leBytes 64 launchHdr, readable := [], writable := [(0x30000, 256)], status := 0x31000, begun := false }

/-- The layout of a kernel descriptor is not given (log 4): whatever descriptor of a legal shape the bytes stand for, the
launch passes its checks. -/
theorem test_wit_Launch (k : Config.KDesc) (hk : k = { entry := 0x10000, size := 64, pc := 0x10000, groups := 2, vext := 48, pages := 1024, tiles := 4, trapVec := 0 })
    (h : readKdesc (cmdState 1 launchHdr) 1 0x3000 0x20000 = some k) : launchCheck (cmdState 1 launchHdr) 1 launchCmd = .ok k := by
  have e1 : BitVec.ofNat 64 (launchCmd.field 24 8) = 0x3000 := by decide +kernel
  have e2 : launchCmd.field 8 8 = 0x20000 := by decide +kernel
  simp only [launchCheck, e1, e2, h]
  subst hk
  decide +kernel

/-- The command that `test_wit_Launch` speaks of is ready, and its kernel descriptor is read. -/
theorem test_wit_Launch_ready :
    readyCmd (cmdState 1 launchHdr) 1 3 1 = some launchCmd ∧ mayAdmit (cmdState 1 launchHdr) 1 = true
      ∧ (cmdRead (cmdState 1 launchHdr) 1 0x3000 0x20000 64).isSome = true
      ∧ (match readyCmd (cmdState 1 1) 1 3 1 with
        | some c => !isOk (launchCheck (cmdState 1 1) 1 c)
        | none => false) = true := by
  decide +kernel

/-! Waves and gatherings. -/

/-- Queue 5 of waves of VF 1 on die 0 with one task and its timer started at 0, and expert 255 with a token and with its
gathering fired or not. -/
def waveState (aged : Bool) (f : List Firing) : State :=
  let s := { launchState false true 1 none with cclk := 100000, time := 1000 }
  modDie 0 (fun d => { d with
    queues := [(queueKey 1 5, { (default : TaskQueue) with
      desc := BitVec.ofNat 512 (3 + 5 * 2 ^ 16 + 2 ^ 48), s1root := 0x3000, gen := 1, enabled := true, timers := [(0x10000, 0)]
      entries := [{ entry := 0x10000, value := 7, number := 0 }] })]
    experts := [(expertKey 1 255, { (default : Expert) with
      desc := BitVec.ofNat 512 (1 + 10 * 2 ^ 128 + 2 * 2 ^ 160), kdesc := { entry := 0x10000, size := 64, pc := 0x10000, groups := 1, vext := 0, pages := 16, tiles := 0, trapVec := 0 }
      s1root := 0x3000, enabled := true, aged := aged, queue := [7], firing := f })] }) s

theorem test_wit_GatherTimer :
    (taskQueue (waveState false []) 0 1 5).map (fun q => q.enabled && decide (q.timers = [(0x10000, 0)]) && decide (0 + tqTimer q.desc ≤ 100000)) = some true
      ∧ (dieAt (waveState false []) 0).held = false := by
  decide +kernel

theorem test_wit_ExpertFire :
    (expertAt (waveState true []) 0 1 255).map (fun x => decide (x.reason (waveState true []).time = some 1 ∧ x.spilled = 0) && (coreAdmits (waveState true []) 0 1 255 x 1).isSome) = some true
      ∧ (dieAt (waveState true []) 0).lastFire = none ∧ (255 : Nat) < 256
      ∧ (∀ y ∈ (dieAt (waveState true []) 0).experts, y.1 = expertKey 1 255)
      ∧ (coreAt (waveState true []) 1).locks.length + 16 ≤ Config.lockEntries := by
  decide +kernel

theorem test_wit_Gathering_starts :
    let f : Firing := { waiting := { (default : WaitingTeam) with launch := 9, entry := 0x10000 }, team := 5, core := 1, slots := [128], records := [7] }
    (expertAt (waveState true [f]) 0 1 255).map (fun x => x.firing) = some [f] ∧ mayAdmit (waveState true [f]) 1 = true ∧ f.slots.Nodup := by
  decide +kernel

theorem test_wit_Expert_ages :
    (expertAt (waveState false []) 0 1 255).map (fun x => x.enabled && decide (exTimer x.desc ≠ 0) && !x.aged && !x.starvePosted
      && decide (recEnq (x.queue.headD 0) + 4 * exTimer x.desc ≤ (waveState false []).time.toNat)) = some true := by
  decide +kernel

/-! Commands. -/

theorem test_wit_Notify :
    vfOn (tg id) 1 = true ∧ (63 : Nat) < 64 ∧ (vfAt (refill (tg id)) 1).tokens ≠ 0 ∧ (vfAt (refill (modVf 1 (fun v => { v with tokens := 0 }) (tg id))) 1).tokens = 0
      ∧ (tg id).time.toNat / 1000 = (tg id).refillAt.toNat / 1000 := by
  decide +kernel

theorem test_wit_Refill :
    ({ tg id with time := 1000, refillAt := 999 } : State).refillAt.toNat / 1000 < ({ tg id with time := 1000, refillAt := 999 } : State).time.toNat / 1000
      ∧ ∀ e ∈ ({ tg id with time := 1000, refillAt := 999 } : State).vfs, wakingQueues { tg id with time := 1000, refillAt := 999 } e.1 = [] := by
  decide +kernel

theorem test_wit_Command_ends :
    let s := modVf 1 (fun v => { v with queues := [(0, { VQueue.reset with size := 4, enable := 1, device := 0x32000 })] }) (cmdState 1 launchHdr)
    (queueAt s 1 0).resetting ≠ 1 ∧ (queueAt s 1 0).needsReset = false ∧ ((writeGpa 1 0x31000 (leBytes 16 0) s).bind (fun t1 =>
      (writeGpa 1 (0x32000 + 4) (leBytes 8 16) (modVf 1 (fun x => { x with cmds := Tab.del x.cmds 3 }) t1)).bind (fun t2 =>
        writeGpa 1 (0x32000 + 2) (leBytes 2 1) t2))).isSome = true := by
  decide +kernel

/-- The command that is ready satisfies a test. -/
def cmdTest (s : State) (v op : Nat) (f : Command → Bool) : Bool :=
  match readyCmd s v 3 op with
  | some c => f c
  | none => false

/-- A template record at 0x21000, whose layout record lies at 0x21100. -/
def tplState : State :=
  withBytes 0x21100 64 (words 1) (withBytes 0x21000 128 (0x21100 + 0x22000 * 2 ^ 128) (cmdState 1 (3 + 4095 * 2 ^ 64 + 0x21000 * 2 ^ 128 + 0x3000 * 2 ^ 192)))

theorem test_wit_TemplateLoad :
    cmdTest tplState 1 3 (fun c => c.clean [(8, 2), (16, 8), (24, 8)] && decide (c.field 8 2 = 4095) && decide (c.field 24 8 % 4096 = 0)
      && decide (c.field 16 8 % 128 = 0) && (match cmdRead tplState 1 0x3000 0x21000 128 with
        | some bs => ((readTemplate tplState 1 0x3000 (leNat bs)).map tplValid) == some true
        | none => false)) = true
      ∧ cmdTest (cmdState 1 (3 + 0x21001 * 2 ^ 128 + 0x3000 * 2 ^ 192)) 1 3 (fun c => c.clean [(8, 2), (16, 8), (24, 8)] && decide (c.field 16 8 % 128 ≠ 0)
        && (cmdRead (cmdState 1 (3 + 0x21001 * 2 ^ 128 + 0x3000 * 2 ^ 192)) 1 0x3000 0x21001 128).isSome) = true := by
  decide +kernel

theorem test_wit_Copy_command :
    cmdTest (cmdState 1 (2 + 7 * 2 ^ 64 + 0x3000 * 2 ^ 256 + 3 * 2 ^ 320)) 1 2 (fun c =>
      c.clean [(8, 2), (12, 4), (16, 4), (20, 4), (24, 4), (28, 4), (32, 8), (40, 1)] && decide (c.byte 40 = 3) && decide (c.field 32 8 % 4096 = 0)) = true
      ∧ cmdTest (cmdState 1 (2 + 4 * 2 ^ 320)) 1 2 (fun c => decide (c.byte 40 ≥ 4)) = true := by
  decide +kernel

/-- A folio of an empty launch in the save area of VF 1 at 0x40000, as the directory names it; its launch has number n. -/
def folioState (n size : Nat) (s : State) : State :=
  withBytes 0x40400 64 (0x4F494C4F46354857 + 2 ^ 64 + 2 ^ 88 + n * 2 ^ 128 + 256 * 2 ^ 192 + 0x100 * 2 ^ 320)
    (withBytes 0x40000 16 (1 + 0x400 * 2 ^ 64) (modCtx 1 (fun c => { c with sarea := 0x40000, sasize := BitVec.ofNat 64 size }) s))

theorem test_wit_DumpRead :
    let s := withBytes 0x40500 16 0 (folioState 9 0x10000 (cmdState 1 (4 + 256 * 2 ^ 192)))
    cmdTest s 1 4 (fun c => c.clean [(8, 4), (16, 8), (24, 8)] && decide (c.field 24 8 ≤ c.writable.foldl (fun n p => n + p.2) 0)
      && ((dumpBytes s 1 (c.field 8 4)).map (fun bs => decide (c.field 16 8 + c.field 24 8 ≤ bs.length))) == some true) = true := by
  decide +kernel

/-- A CONFIGURE header: SUB, DIE, INDEX, the record's address, the root and the argument. -/
def cfgHdr (sub die index va root arg : Nat) : Nat := 5 + sub * 2 ^ 64 + die * 2 ^ 96 + index * 2 ^ 128 + va * 2 ^ 192 + root * 2 ^ 256 + arg * 2 ^ 320

theorem test_wit_Configure_queue :
    let s := withBytes 0x21000 64 (1 + 16 * 2 ^ 16) (cmdState 1 (cfgHdr 0 3 0xFFFE 0x21000 0x3000 0))
    cmdTest s 1 5 (fun c => cfgClean c && decide (c.sub = 0) && decide (c.index ≤ 0xFFFE) && (match cmdRead s 1 c.root c.recordVa 64 with
      | some bs => tqOk (BitVec.ofNat 512 (leNat bs)) && decide (poolUsed s c.die (queueKey 1 c.index) + tqCap (BitVec.ofNat 512 (leNat bs)) ≤ Config.taskPool)
      | none => false)) = true := by
  decide +kernel

/-- For the expert's kernel descriptor at 0x20000 the same holds as for that of a launch: its content is free (log 4). -/
theorem test_wit_Configure_expert :
    let s := withBytes 0x21000 64 (1 + 0x20000 * 2 ^ 224) (cmdState 1 (cfgHdr 1 0 255 0x21000 0x3000 0))
    cmdTest s 1 5 (fun c => cfgClean c && decide (c.sub = 1) && decide (c.index ≤ 255) && decide (expertsOn s c.die (expertKey 1 c.index) < 256)
      && (match cmdRead s 1 c.root c.recordVa 64 with
        | some bs => exOk (BitVec.ofNat 512 (leNat bs)) && exEn (BitVec.ofNat 512 (leNat bs)) && decide (exKdesc (BitVec.ofNat 512 (leNat bs)) = 0x20000)
        | none => false)) = true
      ∧ (cmdRead s 1 0x3000 0x20000 64).isSome = true ∧ kdescOk { entry := 0, size := 64, pc := 0, groups := 1, vext := 0, pages := 16, tiles := 0, trapVec := 0 } = true := by
  decide +kernel

theorem test_wit_Configure_disable :
    (let s := modDie 0 (fun d => { d with queues := [(queueKey 1 5, default)], experts := [(expertKey 1 255, default)] }) (cmdState 1 (cfgHdr 2 0 5 0 0 0))
     cmdTest s 1 5 (fun c => cfgClean c && decide (c.sub = 2 ∧ c.arg = 0) && (taskQueue s c.die 1 c.index).isSome) = true)
    ∧ (let s := modDie 0 (fun d => { d with experts := [(expertKey 1 255, default)] }) (cmdState 1 (cfgHdr 2 0 255 0 0 1))
     cmdTest s 1 5 (fun c => cfgClean c && decide (c.sub = 2 ∧ c.arg = 1) && (expertAt s c.die 1 c.index).isSome) = true) := by
  decide +kernel

theorem test_wit_Configure_pf (sub : Nat) (h : sub ∈ [8, 9, 10, 11]) :
    cmdTest (cmdState 1 (cfgHdr sub 0 5 0 0 0)) 1 5 (fun c => decide (c.sub = sub)) = true
      ∧ (let s := withBytes 0x21000 16 1 (cmdState 0 (cfgHdr sub 0 512 0x21000 0x3000 4095))
        cmdTest s 0 5 (fun c => cfgClean c && decide (c.sub = sub) && decide (c.index ≤ 512) && decide (c.arg < 4096)
          && (cmdRead s 0 c.root c.recordVa 16).isSome && (cmdRead s 0 c.root c.recordVa 256).isSome) = true
        ∧ (vfAt s 512).tdi = .unlocked ∧ (vfAt s 512).ctx.st ≠ .frozen) := by
  simp only [List.mem_cons, List.not_mem_nil, or_false] at h
  rcases h with rfl | rfl | rfl | rfl <;> decide +kernel

theorem test_wit_TlbInval :
    cmdTest (cmdState 1 (6 + 0x3000 * 2 ^ 64)) 1 6 (fun c => c.clean [(8, 8), (16, 8), (24, 8)] && decide (c.field 8 8 % 4096 = 0)) = true := by
  decide +kernel

theorem test_wit_DemandFault :
    let s := modVf 1 (fun v => { v with faults := [{ s1root := 0x3000, stage := 1, page := 7 }] }) (tg (fun g => { g with blocked := some (.demand 1 7) }))
    (vfAt s 1).faults[0]? = some { s1root := 0x3000, stage := 1, page := 7 } ∧ (groupAt s 0).vf = 1 ∧ (teamAt s (groupAt s 0).team).s1root = 0x3000
      ∧ (Tab.find s.groups 0).isSome = true := by
  decide +kernel

/-! Saving. -/

/-- A kernel group (at S) whose words of major 0x32 go on. -/
def ctxState (a b : W64) (f : Group → Group) : State := tg (fun g => f { withS [a, b] g with level := true })

theorem test_wit_ContextWords :
    (∀ p ∈ ([(.cdrain { sd := 3, sa := 1 }, [.priv 0x32, .ss 1 false 1, .sd 3]), (.cstate { sd := 3, sa := 1 }, [.priv 0x32, .ss 1 false 1, .sd 3]),
        (.cload { sa := 1, sb := 2 }, [.priv 0x32, .ss 1 false 1, .ss 2 false 2]), (.csaved { sa := 1 }, [.priv 0x32, .ss 1 false 1]),
        (.crestart { sa := 1 }, [.priv 0x32, .ss 1 false 1]), (.msave { sa := 1 }, [.priv 0x32, .ss 1 false 1]), (.mload { sa := 1 }, [.priv 0x32, .ss 1 false 1])] :
        List (Instr × List Use)), MayGo p.1 p.2 (ctxState 0x20000 0 id))
      ∧ isOk (accessRange (ctxState 0x20000 0 id) true 0x20000 (64 * (myCopies (ctxState 0x20000 0 id)).length)) = true
      ∧ isOk (accessRange (ctxState 0x20000 0 id) true 0x20000 2048) = true ∧ isOk (readRecord 0x20000 2048 (ctxState 0x20000 0 id)) = true
      ∧ isOk (readRecord 0x20000 64 (ctxState 0x20000 0 id)) = true ∧ (coreAt (ctxState 0x20000 0 id) 0).seq.owner ≠ some 1
      ∧ (coreAt (modCore 0 (fun c => { c with seq := { c.seq with owner := some 1 } }) (ctxState 0x20000 0 id)) 0).seq.owner = some 1 :=
  ⟨go_all (by decide +kernel), by decide +kernel⟩

theorem test_wit_Items :
    (∀ i ∈ [0, 0x016, 0x018, 0x01A, 0x020, 0x029, 0x030, 0x040], (ctxItem (ctxState 0 0 id) i).isSome = true)
      ∧ (∀ i ∈ [0x017, 0x01B, 0x02A, 0x041, 0xFFF], (ctxItem (ctxState 0 0 id) i).isSome = false)
      ∧ (∀ i ∈ [0, 0x00F, 0x014, 0x016, 0x018, 0x01A, 0x020, 0x029, 0x030, 0x03F], (writeItem i 0 (ctxState 0 0 id)).isSome = true)
      ∧ (∀ i ∈ [0x010, 0x013, 0x017, 0x02A, 0x040], (writeItem i 0 (ctxState 0 0 id)).isSome = false) ∧ (ctxState 0 0 id).me.loop = none := by
  decide +kernel

theorem test_wit_Csaved :
    let s := modCtx 1 (fun c => { c with st := .saving }) (ctxState 0x20000 0 (fun g => { g with pact := true }))
    MayGo (.csaved { sa := 1 }) [.priv 0x32, .ss 1 false 1] s ∧ (ctxAt s s.me.vf).st = .saving ∧ s.me.pact = true
      ∧ (ctxAt (ctxState 0x20000 0 id) 1).st ≠ .saving := by
  exact ⟨go_mayGo (by decide +kernel), by decide +kernel⟩

/-- A record of CDRAIN with its valid bit set, for template 7. -/
theorem test_wit_Crestart :
    let s := withBytes 0x20000 64 (7 + 2 ^ 24) (ctxState 0x20000 0 id)
    MayGo (.crestart { sa := 1 }) [.priv 0x32, .ss 1 false 1] s ∧ (match readRecord 0x20000 64 s with
      | .ok (bs, s1) => decide (fieldAt bs 3 1 % 2 = 1) && (restartCopy s1.qid bs s1).isSome
      | .error _ => false) = true := by
  exact ⟨go_mayGo (by decide +kernel), by decide +kernel⟩

theorem test_wit_Preempt :
    (vfAt (tg id) 1).ctx.st = .running ∧ (vfAt (tg id) 1).tdi = .unlocked
      ∧ (let c := (vfAt (modCtx 1 (fun c => { c with slice := 5, sliceAt := some 0 }) { tg id with time := 5 }) 1).ctx
        c.slice ≠ 0 ∧ c.sliceAt = some 0 ∧ 0 + c.slice.toNat ≤ 5 ∧ c.st = .running)
      ∧ (vfAt (modVf 1 (fun v => { v with tdi := .locked }) (tg id)) 1).tdi = .locked
      ∧ (vfAt (modCtx 1 (fun c => { c with st := .saved }) (tg id)) 1).ctx.st ≠ .running := by
  decide +kernel

/-- VF 1 is being saved; its group was asked to stop. -/
def savingState (f : Group → Group) (coop : Bool) : State :=
  modCtx 1 (fun c => { c with st := .saving, launches := [1], cctl := if coop then 1 else 0 })
    (tm (fun t => { t with coop := coop }) (tg (fun g => f { g with stopReq := true, pvec := 0x20000 })))

theorem test_wit_GroupStop (coop : Bool) :
    stopReady (savingState id coop) 0 = true ∧ (∀ e ∈ (groupAt (savingState id coop) 0).ports, 120 ≤ e.1 → e.2.fault = none)
      ∧ coopOf (savingState id coop) (groupAt (savingState id coop) 0) = coop := by
  cases coop <;> decide +kernel

theorem test_wit_SaveHandler :
    let s := { savingState (fun g => { g with hact := true }) false with time := 1000000 }
    (vfAt s 1).ctx.st = .saving ∧ (groupAt s 0).launch ∈ (vfAt s 1).ctx.launches ∧ (groupAt s 0).st = .running ∧ (groupAt s 0).hact = true
      ∧ (vfAt s 1).ctx.stopAt.toNat + 1000000 ≤ s.time.toNat ∧ 0 ∉ (vfAt s 1).ctx.late := by
  decide +kernel

theorem test_wit_FolioWrite :
    saveReady (savingState (fun g => { g with st := .stopped, stopReq := false }) false) 1 = true
      ∧ (vfAt (modCtx 1 (fun c => { c with st := .frozen, thaw := .saving }) (tg id)) 1).ctx.thaw = .saving
      ∧ (vfAt (modCtx 1 (fun c => { c with st := .frozen, thaw := .saving }) (tg id)) 1).ctx.st = .frozen ∧ (vfAt (tg id) 1).ctx.st ≠ .frozen := by
  decide +kernel

theorem test_wit_Restore :
    (match readDir (folioState 9 0x10000 (tg id)) 1 with
      | .ok os => decide (os = [0x400])
      | .error _ => false) = true
      ∧ isOk (readDir (modCtx 1 (fun c => { c with sarea := 0xFFFFFFFFFFFFF000 }) (tg id)) 1) = false
      ∧ (vfAt (folioState 9 0x10000 (tg id)) 1).ctx.st = .running ∧ (vfAt (folioState 9 0x10000 (tg id)) 1).tdi = .unlocked := by
  decide +kernel

/-- A restore whose next folio lies at 0x400 in a save area of a size. -/
def restoringState (size : Nat) : State := modCtx 1 (fun c => { c with st := .restoring, todo := [0x400], dir := some [] }) (folioState 9 size (tg id))

theorem test_wit_FolioRestore :
    (vfAt (restoringState 0x10000) 1).ctx.st = .restoring ∧ (vfAt (restoringState 0x10000) 1).ctx.todo = 0x400 :: []
      ∧ (vfAt (restoringState 0x4FF) 1).ctx.sasize.toNat < 0x400 + 256
      ∧ (match readUpTo (restoringState 0x10000) 1 0x40400 256 with
        | .ok ep => decide (folioError ep (0x10000 - 0x400) = 0) && (match readUpTo (restoringState 0x10000) 1 0x40400 (fieldAt ep 24 8) with
          | .ok bs => (restoreFolio 1 (ep ++ opaqueBytes (fieldAt ep 10 1) (bs.drop 256)) [] (restoringState 0x10000)).isSome
          | .error _ => false)
        | .error _ => false) = true
      ∧ (match readUpTo (restoringState 0x10000) 1 0x40000 256 with
        | .ok ep => decide (folioError ep 0x10000 ≠ 0)
        | .error _ => false) = true := by
  refine ⟨?_, ?_, ?_, ?_, ?_⟩ <;> decide +kernel

theorem test_wit_Discard :
    (let s := modCtx 1 (fun c => { c with st := .frozen, thaw := .saving, launches := [1] }) (tg id)
     (vfAt s 1).ctx.st = .frozen ∧ (vfAt s 1).ctx.thaw ≠ .restoring ∧ (vfAt s 1).tdi = .unlocked)
    ∧ (let s := modCtx 1 (fun c => { c with st := .saved }) (folioState 9 0x10000 (tg id))
      (vfAt s 1).ctx.st = .saved ∧ ((endpapers s 1).map (fun eps => eps.all (fun e => fieldAt e.2 10 1 != 2))) = some true)
    ∧ (let s := modCtx 1 (fun c => { c with st := .saved }) (withBytes 0x4040A 1 2 (folioState 9 0x10000 { tg id with tkey := 1 }))
      ((endpapers s 1).map (fun eps => eps.any (fun e => fieldAt e.2 10 1 == 2 && fieldAt e.2 176 16 != s.tkey.toNat))) = some true) := by
  decide +kernel

/-! Debugging. -/

/-- A debug handler whose first register holds a value, in a function with two groups; the second is in a state given. -/
def dbgState (a : W64) (f g2 : Group → Group) : State :=
  let s := tg (fun g => f { withS [a] g with dact := true })
  setGroup 1 (g2 { placeGroup with index := 1, gen := 3 }) s

theorem test_wit_DebugWords :
    ∀ p ∈ ([(.mbox { sa := 1, idx := 15 }, [.priv 0x33, .ss 1 false 1]), (.dhalt { sd := 3, sa := 1 }, [.priv 0x33, .ss 1 false 1, .sd 3]),
        (.dresume { sd := 3, sa := 1 }, [.priv 0x33, .ss 1 false 1, .sd 3]), (.dstep { sd := 3, sa := 0 }, [.priv 0x33, .ss 0 false 1, .sd 3]),
        (.dunpin { sd := 0, sa := 1 }, [.priv 0x33, .ss 1 false 1, .sd 0]), (.bpset { sa := 1, idx := 23 }, [.priv 0x33, .ss 1 false 1]),
        (.bpset { sa := 1, idx := 24 }, [.priv 0x33, .ss 1 false 1]), (.warm { sa := 1 }, [.priv 0x33, .ss 1 false 1])] : List (Instr × List Use)),
      MayGo p.1 p.2 (dbgState 0x20000 id id) :=
  go_all (by decide +kernel)

theorem test_wit_DebugWords_target :
    let c := cgidOf 1 (groupAt (dbgState 0 id id) 1)
    c ≠ 0 ∧ findGroup (dbgState c id id) 1 c = some 1 ∧ (1 : Nat) ≠ (dbgState c id id).qid ∧ (groupAt (dbgState c id id) 1).st = .running
      ∧ (groupAt (dbgState c id (fun g => { g with st := .halted })) 1).st = .halted
      ∧ (groupAt (dbgState c id (fun g => { g with st := .halted, loop := some (pinned 2) })) 1).loop = some (pinned 2)
      ∧ findGroup (dbgState (c + 1) id id) 1 (-1) = none ∧ (dbgState 0 id id).me.st = .running ∧ (dbgState 0 id id).me.step ≠ .armed := by
  decide +kernel

theorem test_wit_Bpset :
    let s := withBytes 0x20000 32 0x10000 (dbgState 0x20000 id id)
    (match access s { size := 32, write := false, atomic := false, vector := true } true 0x20000 with
      | .ok (.bytes ps _, s1) => (partsBad s1 ps).isNone && pointOk 15 (BitVec.ofNat 256 (leNat (readParts s1 s1.me.vf ps)))
      | _ => false) = true ∧ 0x20000 % 32 = 0 ∧ 0x20001 % 32 ≠ 0 := by
  refine ⟨?_, ?_, ?_⟩ <;> decide +kernel

/-- The debug context names a group. -/
theorem test_wit_DebugEvents :
    let s := modDbg 1 (fun d => { d with hcgid := cgidOf 0 (groupAt (tg id) 0) }) (tg id)
    findGroup s 1 (vfAt s 1).dbg.hcgid = some 0 ∧ (groupAt s 0).st ≠ .halted ∧ findGroup (tg id) 2 (vfAt (tg id) 2).dbg.hcgid = none
      ∧ (groupAt (tg (fun g => { g with haltReq := some 0 })) 0).haltReq = some 0 ∧ (groupAt (tg id) 0).atStop = true
      ∧ (groupAt (tg (fun g => { g with st := .halted })) 0).st = .halted := by
  decide +kernel

theorem test_wit_Events :
    let s := modDbg 1 (fun d => { d with evbase := 0x50000, evsize := 4 }) (tg id)
    (vfAt s 1).dbg.evsize ≠ 0 ∧ (vfAt s 1).dbg.evhead - (vfAt s 1).dbg.evtail ≠ (vfAt s 1).dbg.evsize ∧ (vfAt (tg id) 1).dbg.evsize = 0
      ∧ (dieAt s 0).trace.keeps 7 1 0 = false ∧ (writeGpa 1 (0x50000 + 64 * 0) (leBytes 2 5 ++ leBytes 2 1 ++ leBytes 4 0 ++ leBytes 8 0 ++ leBytes 8 0 ++ [1]
        ++ List.replicate 39 0) s).isSome = true
      ∧ (let d := (vfAt (modDbg 1 (fun d => { d with evhead := 4 }) s) 1).dbg; d.evhead - d.evtail = d.evsize) := by
  decide +kernel

theorem test_wit_Dump :
    folioOf (folioState 9 0x10000 (tg id)) 1 1 = none ∧ (folioOf (folioState 9 0x10000 (tg id)) 1 0).isSome = true
      ∧ (match folioOf (folioState 9 0x10000 (tg id)) 1 0 with
        | some (o, bs) => (writeGpa 1 (0x40000 + colophonAt o bs) [1] (folioState 9 0x10000 (tg id))).isSome && decide (colophonAt o bs ≤ 0x10000)
        | none => false) = true := by
  decide +kernel

/-! Trace, errors, collectives and the device. -/

/-- Die 3 traces, or not, with a trigger seen and n records left. -/
def traceState (ctl stat : W64) (n : Nat) : State := modDie 3 (fun d => { d with trace := { d.trace with tctl := ctl, tstat := stat, left := n } }) (tg id)

theorem test_wit_Trace :
    (1 : W64).getLsbD 0 = true ∧ (5 : W64).getLsbD 2 = true ∧ (dieAt (traceState 0 0 0) 3).trace.tctl.getLsbD 0 = false
      ∧ (dieAt (traceState 1 0 0) 3).trace.tctl.getLsbD 0 = true ∧ (dieAt (traceState 1 0 0) 3).trace.tstat = 0
      ∧ (dieAt (traceState 1 2 0) 3).trace.tstat.getLsbD 1 = true ∧ (dieAt (traceState 1 2 0) 3).trace.tstat.getLsbD 0 = false
      ∧ (dieAt (traceState 1 2 0) 3).trace.left = 0 := by
  decide +kernel

theorem test_wit_Pmc : (Tab.get 0 (coreAt (modCore 0 (fun c => { c with pmccfg := [(15, 14)] }) (tg id)) 0).pmccfg 15).toNat % 256 ∈ [14, 15] ∧ (15 : Nat) < 16 := by
  decide +kernel

theorem test_wit_DieReset :
    let s := modDie 0 (fun d => { d with held := true }) { tg id with launches := [(1, default)] }
    (dieAt s 0).held = true ∧ (dieAt (tg id) 0).held = false ∧ onDie s 0 1 = true ∧ (Tab.find s.launches 1).isSome = true := by
  decide +kernel

/-- A descriptor of rank 1 of 2 that reduces two words within the scratchpad, with its peers at 0x24000. -/
def collDesc : Nat := 0x1FF000000000100 + 0x1FF000000000200 * 2 ^ 64 + 0x24000 * 2 ^ 128 + 2 * 2 ^ 256 + 2 * 2 ^ 320 + 2 ^ 336

/-- The descriptor at 0x21000, in a function that may use the system scope. -/
def collState : State := modVf 1 (fun v => { v with scopePolicy := 1 }) (withBytes 0x21000 128 collDesc (tm (fun t => { t with pages := [5] }) (tg (withS [0x21000, 0]))))

theorem test_wit_Kstart :
    MayGo (.kstart { sa := 1, sb := 2 }) [.ss 1 false 1, .ss 2 false 2] collState ∧ scopeDenied collState collState.me.vf 4 = false
      ∧ (match accessRange collState false 0x21000 128 with
        | .ok (ps, s1) =>
          let d := BitVec.ofNat 1024 (leNat (readParts s1 s1.me.vf ps))
          let c := newColl s1 d 0x21000 0
          (partsBad s1 ps).isNone && cdValid d && decide ((collLocks s1 s1.nextCopy c).length ≤ 8) && !collRuns s1 0 c.vf (cdCollid d)
            && decide ((coreAt s1 c.core).locks.length + (collLocks s1 s1.nextCopy c).length ≤ 64)
        | .error _ => false) = true ∧ cdValid 0 = false :=
  ⟨go_mayGo (by decide +kernel), by decide +kernel, by decide +kernel, by decide +kernel⟩

/-- A collective in a phase on die 0, with what has arrived. -/
def runState (p : CollPhase) (read : Bool) (l : Tab (List Byte)) (f : Group → Group) : State :=
  let s := { modVf 1 (fun v => { v with scopePolicy := 1 }) (tm (fun t => { t with pages := [5] }) (tg (fun g => f (withS [0x21000, 0] g)))) with
    time := 0xFFFFFFFFFFFF, platform := { (tg id).platform with fabtag := [(1, 0x10005)] } }
  modDie 0 (fun d => { d with colls := [(2, { newColl s (BitVec.ofNat 1024 collDesc) 0x21000 0 with phase := p, srcRead := read, arrived := l })] }) s

theorem test_wit_Kwait (p : CollPhase) (read : Bool) :
    MayGo (.kwait { sd := 3, sa := 1 }) [.ss 1 false 1, .sd 3] (runState p read [] id)
      ∧ (((dieAt (runState p read [] id) 0).colls.filter (fun e => e.2.q == 0 && e.2.gen == (groupAt (runState p read [] id) 0).gen
        && e.2.descVa == (groupAt (runState p read [] id) 0).readS 1)).map (fun e => (e.2.phase, e.2.srcRead))) = [(p, read)]
      ∧ (groupAt (runState p read [] (fun g => { g with blocked := some (.kwait { sd := 3, sa := 1 }) })) 0).st = .running := by
  cases p <;> cases read <;> exact ⟨go_mayGo (by decide +kernel), by decide +kernel, by decide +kernel⟩

/-- The system-scope write of a collective may reach peer memory; the read of its source does not. -/
theorem test_wit_Collective_steps :
    (collAt (runState .running false [] id) 0 2).map (fun c => decide (c.phase = .running) && collServes (runState .running false [] id) c
      && decide (cdRank c.desc = 1) && decide (cdRanks c.desc = 2) && cdReduces c.desc && decide (cdBlock c.desc = 8) && !c.srcRead
      && isOk (collRead (runState .running false [] id) c (lineRange (cdSrc c.desc) (cdSrcBytes c.desc)))
      && decide (c.watch.toNat + cdWdog c.desc ≤ (runState .running false [] id).time.toNat)) = some true
    ∧ (collAt (runState .waiting false [] id) 0 2).map (fun c => collServes (runState .waiting false [] id) c
      && decide (c.start.toNat ≤ 0) && isOk (collRead (runState .waiting false [] id) c (lineRange (cdPeers c.desc) (4 * cdRanks c.desc)))
      && fabTagged (runState .waiting false [] id) c.vf) = some true
    ∧ (collAt (runState .finished true [] id) 0 2).map (fun c => decide (c.phase = .finished) && !kwaitPends (runState .finished true [] id) c) = some true
    ∧ (collAt (runState .failed false [] id) 0 2).map (fun c => decide (c.phase = .failed) && !kwaitPends (runState .failed false [] id) c) = some true := by
  decide +kernel

theorem test_wit_LockWaits :
    let wait (b : Blocked) : State := heldState (fun g => { withS [1] g with blocked := some b }) false
    (groupAt (wait (.pgrel { sa := 1 })) 0).st = .running
      ∧ (match tryPgrel { sa := 1 } { wait (.pgrel { sa := 1 }) with cur := .group 0 } with
        | .done _ .seq => true
        | _ => false) = true
      ∧ (match tryArel { sa := 1 } { wait (.arel { sa := 1 }) with cur := .group 0 } with
        | .done _ .seq => true
        | _ => false) = true
      ∧ (match tryCleave { wait .cleave with cur := .group 0 } with
        | .done _ .seq => true
        | _ => false) = true
      ∧ (match tryKstart { sa := 1, sb := 2 } { collState with cur := .group 0 } with
        | .done _ .seq => true
        | _ => false) = true := by
  decide +kernel

theorem test_wit_Registers :
    let s := { tg id with boot := { (tg id).boot with bootstat := 0x10007 } }
    bootReady s = true ∧ bootReady (tg id) = false ∧ vfOn s 1 = true ∧ vfOn s 0 = true ∧ (vfAt s 512).tdi = .unlocked
      ∧ (vfAt s 1).queueSelect = BitVec.ofNat 16 0 ∧ (queueAt s 1 0).enable = 0 ∧ (8 : BitVec 8).getLsbD 3 = true
      ∧ (queueAt (modQueue 1 0 (fun q => { q with enable := 1 }) s) 1 0).enable = 1 ∧ (0x40000 : W64).toNat % 4096 = 0
      ∧ (dieAt (traceState 1 0 0) 3).trace.tctl.getLsbD 0 = true ∧ (dieAt s 3).trace.tctl.getLsbD 0 = false := by
  decide +kernel

theorem test_wit_QueueEnable :
    let s := modVf 1 (fun v => { v with deviceStatus := 8, queues := [(0, { VQueue.reset with size := 32768, desc := 16, driver := 2, device := 4 })] }) (tg id)
    vfOn s 1 = true ∧ ((queueAt s 1 0).size.toNat = 2 ^ 15 ∧ (queueAt s 1 0).desc.toNat % 16 = 0 ∧ (queueAt s 1 0).driver.toNat % 2 = 0
      ∧ (queueAt s 1 0).device.toNat % 4 = 0 ∧ (vfAt s 1).deviceStatus.getLsbD 3 = true) ∧ (vfAt (tg id) 1).deviceStatus.getLsbD 3 = false := by
  decide +kernel

theorem test_wit_QueueReset :
    (vfAt (cmdState 1 launchHdr) 1).cmds.all (fun e => e.2.queue == 0 && !e.2.begun) = true
      ∧ (queueAt (modQueue 1 0 (fun q => { q with resetting := 1 }) (cmdState 1 launchHdr)) 1 0).resetting = 1 := by
  decide +kernel

/-- The Binder runs, with one action that changes nothing. -/
def binderRuns : State := { tg id with time := 2000000, binder := { (tg id).binder with st := 1, armAt := some 5, stopAt := some 6, lastBoundary := some 1000000 } }

theorem test_wit_Binder :
    boundaryTime binderRuns = some 2000000 ∧ binderRuns.binder.lastBoundary ≠ some 2000000 ∧ (dieAt binderRuns 4).held = false
      ∧ (6 : W64).toNat < (2000000 : W64).toNat ∧ (tg id).binder.st ≠ 1 ∧ (tg id).binder.armAt = none ∧ (tg id).binder.rewardAt = none
      ∧ (10000 : Nat) ≤ 2 ^ 40 ∧ (1 ≤ 0x10001010 % 256 ∧ 1 ≤ 0x10001010 / 256 % 256 ∧ 1 ≤ 0x10001010 / 2 ^ 24) := by
  decide +kernel

theorem test_wit_Binder_arms :
    let s := { binderRuns with binder := { binderRuns.binder with st := 0, stopAt := none, inject := true } }
    boundaryTime s = some 2000000 ∧ s.binder.armAt = some 5 ∧ s.binder.stopAt = none ∧ s.binder.inject = true ∧ s.binder.injAt = none := by
  decide +kernel

theorem test_wit_Binder_decides :
    (decideStep { (tg id).binder with st := 1 } (fun _ _ => 0)).st ∈ [1, 2] ∧ ({ (tg id).binder with st := 1 } : Binder).st = 1 := by
  decide +kernel

theorem test_wit_Platform :
    let s := { tg id with time := 4000000, platform := { (tg id).platform with tbctl := 1, tbstat := 1, goodRun := 1, fabtag := [(512, 0x1FFFF)] } }
    s.platform.tbctl.toNat % 4 ≠ 0 ∧ (-5 : Int) ≤ (5 : W32).toInt ∧ (5 : W32).toInt ≤ 5 ∧ (-5 : W32).toInt < 0 ∧ ¬ (6 : W32).toInt ≤ 5
      ∧ s.platform.tbstat.getLsbD 0 = true ∧ s.platform.measuredAt.toNat + 4000000 ≤ s.time.toNat ∧ 1 ≤ s.platform.goodRun ∧ s.platform.everLocked = false
      ∧ (Tab.get 0 s.platform.fabtag 512).toNat / 2 ^ 16 % 2 = 1 ∧ (Tab.get 0 s.platform.fabtag 512).toNat % 2 ^ 16 = (0xFFFF : BitVec 16).toNat
      ∧ inOcpm 0x20000 = false ∧ (Tab.get 0 s.platform.fabtag 0).toNat / 2 ^ 16 % 2 = 0 ∧ (vfAt s 0).dbg.evsize = 0
      ∧ s.platform.arbiterAt.toNat / 10000 ≠ s.time.toNat / 10000 ∧ (dieAt s 4).held = false := by
  decide +kernel

theorem test_wit_Thermal :
    let s := modDie 4 (fun d => { d with hot := true, droopAt := some 0, railEvAt := [(15, 0)] }) { tg id with time := 1000 }
    s.platform.twarn.toNat * 256 < (0xFFFF : BitVec 16).toNat ∧ s.platform.tcrit.toNat * 256 ≤ (0xFFFF : BitVec 16).toNat ∧ (dieAt s 4).hot = true
      ∧ (dieAt s 4).droopAt = some 0 ∧ 0 + 1000 ≤ s.time.toNat ∧ Tab.find (dieAt s 4).railEvAt 15 = some 0 ∧ s.time.toNat < 0 + 1000000
      ∧ Tab.find (dieAt s 4).railEvAt 0 = none := by
  decide +kernel

theorem test_wit_Power :
    (vfAt (tg id) 1).enabled = true ∧ hasResident (tg id) 1 = true ∧ hasResident (modVf 2 (fun v => { v with enabled := true, resetPending := true }) (tg id)) 2 = false
      ∧ (vfAt (modVf 2 (fun v => { v with enabled := true, resetPending := true }) (tg id)) 2).resetPending = true
      ∧ (vfAt (tg id) 512).enabled = false ∧ (vfAt (tg id) 512).resetPending = false
      ∧ bootReady { tg id with boot := { (tg id).boot with bootstat := 0x10007 } } = true
      ∧ ((vfAt (tg id) 512).tdi, TdiState.locked) ∈ ([(.unlocked, .locked), (.locked, .run)] : List (TdiState × TdiState))
      ∧ (tg id).boot.version ≤ (0 : BitVec 32) := by
  decide +kernel

/-! What the later clauses of the statements assume. -/

/-- No die is held and no function is frozen in the states whose groups wait. -/
theorem test_wit_Wakes_run (s : State) (h : s ∈ [tg (fun g => { g with blocked := some (.twait { sa := 1 }) }), barState 2 0 (marked 2 true),
      portState [] id, batchState [] id, localState 1 id, requestState [], heldState id false, collState]) :
    mayRunAt s (dieOf 0) (groupAt s 0).vf = true := by
  simp only [List.mem_cons, List.not_mem_nil, or_false] at h
  rcases h with rfl | rfl | rfl | rfl | rfl | rfl | rfl | rfl <;> decide +kernel

theorem test_wit_Kwait_wakes (p : CollPhase) (read : Bool) :
    mayRunAt (runState p read [] (fun g => { g with blocked := some (.kwait { sd := 3, sa := 1 }) })) 0 1 = true := by
  cases p <;> cases read <;> decide +kernel

theorem test_wit_AllotGrant_deadlock_runs :
    mayRunAt (modGroup 1 (fun g => { g with st := .running, team := 2, vf := 1, blocked := some (.allot .tiles) }) (requestState [2, 3])) (dieOf 1) 1 = true := by
  decide +kernel

theorem test_wit_ActiveSet_enters :
    enters (setState 3 5 id) 3 = true ∧ (activeOf (setState 3 5 id) 0).length < 4
      ∧ enters (setState 4 4 id) 4 = true ∧ 4 ≤ (activeOf (setState 4 4 id) 0).length ∧ displaceable (setState 4 4 id) 0 (groupAt (setState 4 4 id) 4).vf ≠ [] := by
  decide +kernel

theorem test_wit_ActiveSet_aged :
    let s := setState 2 3 (fun g => { g with aged := true, lastIssue := g.readyAt })
    (groupAt s 0).aged = true ∧ (groupAt s 1).aged = true ∧ (groupAt s 0).since < (groupAt s 1).since
      ∧ (let u := setState 2 3 (fun g => { g with aged := true, readyAt := 0 })
        (groupAt u 0).since = (groupAt u 1).since ∧ (groupAt u 0).aged = true ∧ (groupAt u 1).aged = true) := by
  decide +kernel

theorem test_wit_Aging_now :
    let full := setState 4 5 (fun g => { g with aged := g.active })
    let room := setState 3 4 (fun g => { g with aged := g.active })
    agesNow full 4 = true ∧ (groupAt full 4).active = false ∧ 4 ≤ (activeOf full 0).length ∧ displaceable full 0 1 ≠ []
      ∧ agesNow room 3 = true ∧ (groupAt room 3).active = false ∧ (activeOf room 0).length < 4
      ∧ agesNow (setState 1 5 id) 0 = true ∧ (groupAt (setState 1 5 id) 0).active = true
      ∧ (dieAt (setState 1 5 id) 0).duties = [] := by
  decide +kernel

/-- A core in whose CCLK a counter was written, or its configuration. -/
theorem test_wit_PmcWrites (b : Bool) :
    ({ coreAt (tg id) 0 with pmcSets := [{ index := 15, cfg := b, value := 5 }] } : Core).pmcSets
      = [{ index := 15, cfg := b, value := 5 }] := rfl

theorem test_wit_Sopen_open :
    let s (n : Nat) (b : List (List W32 × W32)) := modMe (fun g => { g with ports := [(n, { tlr := 0, pos := 0, buffer := b, fault := none })] }) layoutState
    (∀ p ∈ [(112, []), (119, [(List.replicate 32 1, 1)]), (127, []), (127, [(List.replicate 32 1, 1)])],
      (match readRecord64 0x21000 (s p.1 p.2) with
        | .ok (r, s1) => tlrValid r && decide ((Tab.find s1.me.ports p.1).map (fun x => (x.buffer, x.fault)) = some (p.2, none))
        | .error _ => false) = true)
    ∧ (∀ n ∈ [112, 127], MayGo (.sopen { sa := 1, port := BitVec.ofNat 7 n }) [.ss 1 false 1] (s n [])) := by
  refine ⟨by decide +kernel, fun n h => go_mayGo ?_⟩
  simp only [List.mem_cons, List.not_mem_nil, or_false] at h
  rcases h with rfl | rfl <;> decide +kernel

theorem test_wit_Ports_open :
    MayGo (.sclose { port := 120 }) [] (portState [] id) ∧ (Tab.find (portState [] id).me.ports 120).isNone = true
      ∧ (Tab.find (portState [] id).me.ports 112).isSome = true
      ∧ (Tab.find (groupAt (portState [] (fun g => { g with blocked := some (.sclose { port := 127 }) })) 0).ports 127).map (fun p => p.buffer.isEmpty && p.fault.isNone && p.stall.isNone) = some true :=
  ⟨go_mayGo (by decide +kernel), by decide +kernel⟩

theorem test_wit_Stream_marks :
    let s := tg (fun g => { g with ports := [(112, { tlr := BitVec.ofNat 512 (words 33), pos := 0, buffer := [], fault := none })] })
    let uses : List Use := [.vs 112 false 1, .vd 3]
    s.cur = .group 0 ∧ (match issueCheck 0 uses s with
      | some (.wait _ _) => true
      | _ => false) = true ∧ Use.waits s.me uses (.vs 112 false 1) = true ∧ s.me.vFull 3 = true := by
  decide +kernel

theorem test_wit_Copy_settles :
    (Tab.find (copyState true none 0).copies 4).map (fun c => (settleLocks c.core (.copy 4) c.env (copyState true none 0)).isSome) = some true
      ∧ (Tab.find (copyState true (some 3) 0).copies 4).map (fun c => signalWaits (copyState true (some 3) 0) c) = some false := by
  decide +kernel

theorem test_wit_Eqfire :
    (expertAt (queueState true [] (handle 0xFFFF 7) 255) 0 1 255).map (fun x => x.enabled && decide (0 < x.queue.length + x.spilled + x.staged.length)
      && decide (x.staged = [] ∧ x.spilled = 0 ∧ x.queue.length + 32 ≤ 256)) = some true := by
  decide +kernel

theorem test_wit_Adrain_reads :
    elemBad (tileState 127) (drainLines 0 2 127 3 (drainMask (tileState 127).me (tileRec (tileState 127) 0 2) 127 3)) = none := by
  decide +kernel

/-- An address that is reached and one that stage 2 does not map. -/
theorem test_wit_Sequencer_misaligned :
    let missed (s : State) (va n : Nat) : Bool := match enginePlaces s (seqEnv s 0) .read va n with
      | .error .held => false
      | .error (.demand _ _) => false
      | .error _ => true
      | .ok _ => false
    (∀ p ∈ [(1, 64), (1, 32), (1, 8)], missed (matState 0 id) (localBase + p.1) p.2 = false)
      ∧ (∀ p ∈ [(1, 64), (1, 32), (1, 8)], missed (matState 0 id) (2 ^ 56 + p.1) p.2 = true) := by
  decide +kernel

theorem test_wit_Waves_untraced :
    (dieAt (waveState false []) 0).trace.keeps 3 1 0 = false
      ∧ (expertAt (waveState true []) 0 1 255).map (fun x => decide (x.staged = [] ∧ x.firing = [])) = some true
      ∧ gatherWaits (waveState true []) 1 255 { waiting := { (default : WaitingTeam) with launch := 9, entry := 0x10000 }, team := 5, core := 1, slots := [128], records := [7] }
        = false := by
  decide +kernel

/-- The queue of a command that ends interrupts, or not; the driver asks by used_event or by the flags. -/
theorem test_wit_Command_interrupts (ev : Bool) (m : BitVec 16) (h : m ∈ [7, 0xFFFF]) :
    let s := modVf 1 (fun v => { v with
        queues := [(0, { VQueue.reset with size := 4, enable := 1, driver := 0x33000, device := 0x32000, msix := m })]
        driverFeature := if ev then 0x20000000 else 0 }) (cmdState 1 launchHdr)
    (vfAt s 1).driverFeature.getLsbD 29 = ev
      ∧ (readGpa s 1 (0x33000 + (if ev then 4 + 2 * 4 else 0)) 2).map leNat = some 0 ∧ (queueAt s 1 0).usedIdx.toNat = 0
      ∧ ((queueAt s 1 0).msix.toNat = 0xFFFF ↔ m = 0xFFFF) := by
  simp only [List.mem_cons, List.not_mem_nil, or_false] at h
  rcases h with rfl | rfl <;> cases ev <;> decide +kernel

theorem test_wit_Copy_root :
    gpaMapped (cmdState 1 0) 1 0x3000 4096 false = true
      ∧ cmdTest (cmdState 1 (2 + 2 ^ 30 * 0x1000 * 2 ^ 256)) 1 2 (fun c =>
        c.clean [(8, 2), (12, 4), (16, 4), (20, 4), (24, 4), (28, 4), (32, 8), (40, 1)] && decide (c.byte 40 < 4)
        && decide (c.field 32 8 % 4096 = 0) && !gpaMapped (cmdState 1 0) 1 (c.field 32 8) 4096 false) = true := by
  decide +kernel

theorem test_wit_Loads_done :
    loadsDone (cmdState 1 0) 1 = true ∧ loadsDone (cmdState 0 0) 512 = true ∧ bootReady (cmdState 0 0) = true
      ∧ (∀ d ∈ (cmdState 1 0).dies, ∀ e ∈ d.2.experts, e.1 / 256 = 1 → e.2.spilled = 0 ∧ e.2.staged = []) := by
  decide +kernel

theorem test_wit_Loop_item (v : W64) (h : v ∈ [2 ^ 63 + 31 + 2 ^ 8 * 31, 2 ^ 63]) : v.getLsbD 63 = true := by
  simp only [List.mem_cons, List.not_mem_nil, or_false] at h
  rcases h with rfl | rfl <;> decide +kernel

/-- The device is ready. -/
def ready (s : State) : State := { s with boot := { s.boot with bootstat := 0x10007 } }

theorem test_wit_Ready :
    bootReady (ready (tg id)) = true ∧ bootReady (tg id) = false
      ∧ (vfAt (ready (tg id)) 1).ctx.st = .running ∧ (vfAt (ready (tg id)) 1).tdi = .unlocked
      ∧ (let c := (vfAt (modCtx 1 (fun c => { c with st := .saved, slice := 5, sliceAt := some 0 }) { tg id with time := 5 }) 1).ctx
        c.sliceOver 5 = true ∧ c.st ≠ .running)
      ∧ (vfAt (modVf 1 (fun v => { v with tdi := .run }) (ready (tg id))) 1).tdi = .run
      ∧ (match readDir (ready (folioState 9 0x10000 (tg id))) 1 with
        | .ok os => decide (os ≠ [])
        | .error _ => false) = true
      ∧ (dieAt (tg id) 0).trace.keeps 6 1 (cgidOf 0 (groupAt (tg id) 0)) = false := by
  decide +kernel

theorem test_wit_SaveHandler_coop :
    let s := { savingState id true with time := 1000000 }
    (vfAt s 1).ctx.st = .saving ∧ (groupAt s 0).launch ∈ (vfAt s 1).ctx.launches ∧ (groupAt s 0).st = .running
      ∧ (teamAt s (groupAt s 0).team).coop = true ∧ (vfAt s 1).ctx.stopAt.toNat + 1000000 ≤ s.time.toNat ∧ 0 ∉ (vfAt s 1).ctx.late := by
  decide +kernel

theorem test_wit_Export_keys :
    ((endpapers (modCtx 1 (fun c => { c with st := .saved }) (ready (folioState 9 0x10000 (tg id)))) 1).map (fun eps =>
        !eps.isEmpty && eps.all (fun e => fieldAt e.2 176 16 == (tg id).tkey.toNat))) = some true
      ∧ ((endpapers (modCtx 1 (fun c => { c with st := .saved }) (ready (folioState 9 0x10000 { tg id with tkey := 1 }))) 1).map (fun eps =>
        eps.any (fun e => fieldAt e.2 176 16 != (1 : Nat)))) = some true := by
  decide +kernel

theorem test_wit_Debug_ready :
    let s := ready (modDbg 1 (fun d => { d with hcgid := cgidOf 0 (groupAt (tg id) 0) }) (tg id))
    bootReady s = true ∧ findGroup s 1 (vfAt s 1).dbg.hcgid = some 0 ∧ (groupAt s 0).st ≠ .halted
      ∧ folioOf (ready (folioState 9 0x10000 (tg id))) 1 1 = none ∧ (folioOf (ready (folioState 9 0x10000 (tg id))) 1 0).isSome = true := by
  decide +kernel

theorem test_wit_Trace_armed :
    (dieAt (traceState 3 0 0) 3).trace.tctl.getLsbD 0 = true ∧ (dieAt (traceState 3 0 0) 3).trace.tctl.getLsbD 1 = true
      ∧ (dieAt (traceState 3 0 0) 3).trace.tstat = 0 ∧ (dieAt (traceState 1 0 0) 3).trace.tctl.getLsbD 1 = false
      ∧ (7 : W64).getLsbD 2 = true ∧ (7 : W64).getLsbD 1 = true ∧ bootReady (ready (traceState 3 0 0)) = true := by
  decide +kernel

theorem test_wit_UncorrectedError :
    (0x20000 : W64).getLsbD 63 = false
      ∧ (Tab.find (coreAt (modCore 1023 (fun c => { c with crs := [(5, default)] }) (tg id)) 1023).crs 5).isSome = true
      ∧ (taskQueue (queueState false [{ entry := 0, value := 7, number := 0 }] 0 0) 0 1 5).map (fun q => q.entries.length) = some 1 := by
  decide +kernel

theorem test_wit_HubReset :
    let s := modDie 4 (fun d => { d with held := true }) (answerState false id)
    (dieAt s 4).held = true ∧ s.syscs ≠ [] := by
  decide +kernel

theorem test_wit_Collective_settles :
    (collAt (runState .running false [] id) 0 2).map (fun c => (collSettle 2 c (runState .running false [] id)).isSome
      && collServes (runState .running false [] id) c && decide (c.start.toNat ≤ (runState .running false [] id).time.toNat)
      && fabTagged (runState .running false [] id) c.vf) = some true
    ∧ (let s := { runState .running false [] id with platform := { (tg id).platform with fabtag := [] } }
      (collAt s 0 2).map (fun c => collServes s c && !fabTagged s c.vf) = some true)
    ∧ (∀ p ∈ [CollPhase.finished, .failed], (collAt (runState p true [] id) 0 2).map (fun c => collSignalWaits (runState p true [] id) c) = some false) := by
  decide +kernel

theorem test_wit_HostReads :
    noAnswer (.vfRegs 1 false) (ready (tg id)) = false ∧ noAnswer .bringUp (tg id) = false ∧ noAnswer (.config 0) (tg id) = false
      ∧ (vfAt (modVf 1 (fun v => { v with resetPending := true }) (ready (tg id))) 1).resetPending = true
      ∧ vfOn (ready (tg id)) 1 = true ∧ (vfAt (ready (tg id)) 1).queueSelect.toNat < 64
      ∧ 64 ≤ (vfAt (modVf 1 (fun v => { v with queueSelect := 64 }) (ready (tg id))) 1).queueSelect.toNat := by
  decide +kernel

theorem test_wit_Binder_idle :
    boundaryTime { ready (tg id) with time := 5, binder := { (tg id).binder with lastBoundary := some 0 } } = none
      ∧ (tg id).binder.st ≠ 1 ∧ (10000 : W64) ≠ (tg id).binder.period ∧ (7 : W64) ≠ (tg id).binder.origin
      ∧ boundaryTime (ready binderRuns) = some 2000000 ∧ bootReady (ready binderRuns) = true ∧ (dieAt (ready binderRuns) 4).held = false
      ∧ binderRuns.binder.lastBoundary = some 1000000 := by
  decide +kernel

theorem test_wit_Packets : linkDown (tg id) 3 3 = false ∧ (tg id).platform.slew = 0
    ∧ slewOf (tg id) 10000 = 0 := by
  decide +kernel

theorem test_wit_Functions :
    isVf { tg id with boot := { (tg id).boot with vfCount := 1 } } 1 = true ∧ isVf { tg id with boot := { (tg id).boot with vfCount := 512 } } 512 = true
      ∧ isVf (tg id) 1 = false
      ∧ (vfAt (tg id) 1).enabled = true ∧ (5 : Nat) ≤ 7 ∧ (3 : Nat) < 4 := by
  decide +kernel

/-- A read stream whose first element lies where stage 1 maps nothing. -/
theorem test_wit_Stream_stalls :
    let s := tg (fun g => { g with ports := [(112, { tlr := BitVec.ofNat 512 (words 33 + 2 ^ 40), pos := 0, buffer := [], fault := none })] })
    (Tab.find (groupAt s 0).ports 112).map (fun p => p.fault.isNone && p.stall.isNone && decide (32 * (0 + p.buffer.length) < tlrElems p.tlr)) = some true
      ∧ (dieAt s (dieOf 0)).held = false ∧ (match streamVector s 0 (BitVec.ofNat 512 (words 33 + 2 ^ 40)) 0 32 with
        | .error (.demand _ _ _) => true
        | _ => false) = true := by
  decide +kernel

/-! The premises of the clauses on fields, ports, tags and held dies. -/

/-- A REP over a target, at repetition k of stride 8. -/
def repOver (target : W32) (k : Nat) (d a b : Bool) : RepRun := { k := k, op := { cnt := 3, fmD := d, fmA := a, fmB := b, str := 3 }, target := target }

/-- Every format with every field it has: repetition 0 fits; repetition 8 reaches 64, the first number outside the allotment. -/
theorem test_wit_Rep_formats :
    ∀ x ∈ ([0x18, 0x19, 0x1B, 0x1C, 0x1D, 0x21].map (fun m => (m, true, true, true)) ++ [(0x20, false, true, true), (0x23, true, true, false)]
        ++ [0x1A, 0x1E, 0x1F, 0x22, 0x26, 0x27, 0x28].map (fun m => (m, true, true, false)) ++ [(0x24, false, true, false)] :
        List (Nat × Bool × Bool × Bool)),
      let r := repOver (BitVec.ofNat 32 (x.1 * 2 ^ 26)) 8 x.2.1 x.2.2.1 x.2.2.2
      r.target.toNat / 2 ^ 26 = x.1 ∧ (0 : Nat) < 64 ∧ ¬ 0 + r.k * 2 ^ r.op.str.toNat < 64 ∧ 0 + 7 * 2 ^ r.op.str.toNat < 64 := by
  decide +kernel

/-- The stride of VIOTA: 127 fits, 128 does not. -/
theorem test_wit_Rep_viota :
    let r := repOver (BitVec.ofNat 32 (0x26 * 2 ^ 26 + 3 * 2 ^ 23 + 119 * 2 ^ 8)) 1 false true false
    r.target.toNat / 2 ^ 26 == 0x26 ∧ r.target.toNat / 2 ^ 23 % 8 == 3 ∧ r.target.toNat / 2 ^ 8 % 128 + 1 * 8 ≤ 127
      ∧ ¬ r.target.toNat / 2 ^ 8 % 128 + 2 * 8 ≤ 127 := by
  decide +kernel

/-- A REP with a selection, before a target that lacks a selected field. -/
def repLacks (m : Nat) (o : OpRep) : State :=
  let put (a : Nat) (w : W32) (m : List Host.Cell) := ((List.range 4).zip (bytesOfWord w)).foldl (fun m p => setByte m (a + p.1) p.2) m
  { tg id with mem := placeMem (o.pack 0x08000000) (put 0x10004 (BitVec.ofNat 32 (m * 2 ^ 26)) []) }

theorem test_wit_Rep_lacks (m : Nat) (o : OpRep) (h : (m, o) ∈ ([(0x20, { cnt := 1, fmD := true, fmA := false, fmB := false, str := 0 }),
      (0x24, { cnt := 1, fmD := false, fmA := true, fmB := true, str := 0 }), (0x26, { cnt := 1, fmD := true, fmA := true, fmB := true, str := 0 })] :
      List (Nat × OpRep))) :
    MayGo (.rep o) [] (repLacks m o) ∧ (match groupFetch (repLacks m o) ((repLacks m o).me.pc + 4) with
      | .word w _ => decide (w.toNat / 2 ^ 26 = m)
      | _ => false) = true := by
  simp only [List.mem_cons, List.not_mem_nil, or_false, Prod.mk.injEq] at h
  rcases h with ⟨rfl, rfl⟩ | ⟨rfl, rfl⟩ | ⟨rfl, rfl⟩ <;> exact ⟨go_mayGo (by decide +kernel), by decide +kernel⟩

theorem test_wit_Rep_traps :
    let s := tg (fun g => { g with rep := some (repOver 0x6C0C1828 2 true true false) })
    mayIssue (inTurn (.group 0) s) 0 = true ∧ TriesAgain (inTurn (.group 0) s).me ∧ chosen (inTurn (.group 0) s) 0 = true
      ∧ breakHit (unmarkMe (inTurn (.group 0) s)) ((unmarkMe (inTurn (.group 0) s)).me.pc + 4) (some 2) = none
      ∧ (match repWord ((unmarkMe (inTurn (.group 0) s)).vtop (unmarkMe (inTurn (.group 0) s)).me) (repOver 0x6C0C1828 2 true true false) with
        | .error e => decide (e = (0x03, 64))
        | .ok _ => false) = true := by
  refine ⟨by decide +kernel, .inl (by decide +kernel), ?_, ?_, ?_⟩ <;> decide +kernel

/-- Numbers outside the table of the special registers, the edges of its gaps among them. -/
theorem test_wit_Special_unassigned (n : BitVec 12) (h : n ∈ [0x00B, 0x00F, 0x018, 0x01F, 0x030, 0x03F, 0x050, 0xFFF]) :
    MayGo (.sget { sd := 3, num := n }) [] (tg (withS [5])) ∧ MayGo (.sset { sa := 1, num := n }) [] (tg (withS [5])) := by
  simp only [List.mem_cons, List.not_mem_nil, or_false] at h
  rcases h with rfl | rfl | rfl | rfl | rfl | rfl | rfl | rfl <;> exact ⟨go_mayGo (by decide +kernel), go_mayGo (by decide +kernel)⟩

/-- A counter of another function and one of the group's own, at U. -/
theorem test_wit_Special_counters (n : BitVec 12) (h : n ∈ [0x020, 0x04F]) :
    let s (v : Nat) := modCore 0 (fun c => { c with pmccfg := [(0, BitVec.ofNat 64 (17 + 256 * v)), (15, BitVec.ofNat 64 (17 + 256 * v + 2 ^ 48))] }) (tg (withS [17]))
    MayGo (.sset { sa := 1, num := n }) [] (s 2) ∧ (s 2).me.level = false ∧ MayGo (.sset { sa := 1, num := n }) [.ss 1 false 1] (s 1)
      ∧ (Tab.get 0 (coreAt (s 2) 0).pmccfg 15).toNat / 2 ^ 8 % 2 ^ 9 ≠ (s 2).me.vf % 512
      ∧ (Tab.get 0 (coreAt (s 1) 0).pmccfg 15).toNat / 2 ^ 8 % 2 ^ 9 = (s 1).me.vf % 512 := by
  simp only [List.mem_cons, List.not_mem_nil, or_false] at h
  rcases h with rfl | rfl <;> exact ⟨go_mayGo (by decide +kernel), by decide +kernel, go_mayGo (by decide +kernel), by decide +kernel, by decide +kernel⟩

theorem test_wit_Special_wraps :
    let c : Core := { coreAt (tg id) 0 with pmc := [(3, BitVec.ofNat 64 (2 ^ 48 - 1))], pmccfg := [(3, 17 + 256)] }
    c.pmccfg = [(3, 17 + 256)] ∧ (17 + 256 : W64).toNat % 256 = 17 ∧ (17 + 256 : W64).toNat / 256 % 512 = 1 % 512
      ∧ 2 ^ 48 ≤ (Tab.get 0 c.pmc 3).toNat + 1 := by
  decide +kernel

/-- A group with a write port that holds writes or a fault. -/
def writePort (n : Nat) (b : List (List W32 × W32)) (f : Option AccessFault) : State :=
  tg (fun g => { withS [0x21000] g with ports := [(n, { tlr := BitVec.ofNat 512 (words 33), pos := 0, buffer := b, fault := f })] })

def storeFault : AccessFault := { code := 8, detail := 1, write := true, slot := 0, va := 0x21000, lockWrite := false }

theorem test_wit_Ports_waits (i : Instr) (n : Nat) (h : (i, n) ∈ ([(.sclose { port := 120 }, 120), (.sclose { port := 127 }, 127), (.sdrain { port := 120 }, 120),
      (.sdrain { port := 127 }, 127), (.sdrain { port := 0 }, 120), (.sdrain { port := 0 }, 127)] : List (Instr × Nat))) :
    MayGo i [] (writePort n [(List.replicate 32 1, 3)] none) ∧ MayGo i [] (writePort n [] (some storeFault))
      ∧ (Tab.find (writePort n [(List.replicate 32 1, 3)] none).me.ports n).map (fun p => decide (p.buffer ≠ []) && p.fault.isNone) = some true
      ∧ (Tab.find (writePort n [] (some storeFault)).me.ports n).map (fun p => p.fault) = some (some storeFault)
      ∧ (writePort n [] (some storeFault)).me.ports.length = 1 := by
  simp only [List.mem_cons, List.not_mem_nil, or_false, Prod.mk.injEq] at h
  rcases h with ⟨rfl, rfl⟩ | ⟨rfl, rfl⟩ | ⟨rfl, rfl⟩ | ⟨rfl, rfl⟩ | ⟨rfl, rfl⟩ | ⟨rfl, rfl⟩ <;>
    exact ⟨go_mayGo (by decide +kernel), go_mayGo (by decide +kernel), by decide +kernel, by decide +kernel, by decide +kernel⟩

theorem test_wit_Sopen_fault :
    MayGo (.sopen { sa := 1, port := 127 }) [.ss 1 false 1] (withBytes 0x21000 64 (words 64) (writePort 127 [] (some storeFault)))
      ∧ (match readRecord64 0x21000 (withBytes 0x21000 64 (words 64) (writePort 127 [] (some storeFault))) with
        | .ok (r, s1) => tlrValid r && decide ((Tab.find s1.me.ports 127).map (fun p => p.fault) = some (some storeFault))
        | .error _ => false) = true :=
  ⟨go_mayGo (by decide +kernel), by decide +kernel⟩

/-- A member of a sharing group that is still in a folio, whose group goes to the cluster of the team. -/
theorem test_wit_Cjoin_saved :
    let s := modCtx 1 (fun c => { c with homes := [{ key := 7, was := some 5, cluster := 0 }] })
      { tg (withS [7]) with launches := [(1, { (default : Launch) with
        vf := 1, kind := .kernel, saved := some { (default : Roster) with members := [{ team := 0, key := 7, number := 0, cluster := 5 }] } })] }
    (savedMembers s s.myTeam.vf).any (fun x => x.key == 7 && x.number == 0 && x.goesTo (vfAt s s.myTeam.vf).ctx.homes (s.myTeam.core / 4)) = true
      ∧ s.myTeam.share = none := by
  decide +kernel

/-- Two functions in one partition, of which one is owed four words; and an aged group beside the current one. -/
theorem test_wit_ChoiceAtIssue_owed :
    let s := modCore 0 (fun c => { c with lags := [(1, 4 * 2 ^ 16)] }) (twoReady (fun g => { g with vf := 2 }))
    (groupAt s 0).vf ≠ (groupAt s 1).vf ∧ lagOf s 0 (groupAt s 1).vf < lagOf s 0 (groupAt s 0).vf ∧ 4 * 2 ^ 16 ≤ lagOf s 0 (groupAt s 0).vf
      ∧ (groupAt s 0).aged = false ∧ (groupAt s 1).aged = false ∧ (0 : Nat) / 16 = 1 / 16
      ∧ (∀ e ∈ (twoReady id).groups, e.2.aged = false ∧ lagOf (twoReady id) e.1 e.2.vf < 4 * 2 ^ 16)
      ∧ (twoReady id).cur = .group 0 ∧ goesOn (twoReady id) 0 = true
      ∧ (∃ e ∈ (twoReady (fun g => { g with aged := true })).groups, e.2.aged = true ∧ goesOn (twoReady (fun g => { g with aged := true })) e.1 = true) := by
  refine ⟨?_, ?_, ?_, ?_, ?_, ?_, ?_, ?_, ?_, (1, (groupAt (twoReady (fun g => { g with aged := true })) 1)), ?_, ?_, ?_⟩ <;> decide +kernel

/-- A command whose status area is reached through a table on a held die, and one whose status area is not mapped. -/
theorem test_wit_Command_status :
    let s (f : Command → Command) := modVf 1 (fun v => { v with cmds := v.cmds.map (fun e => (e.1, f e.2)) }) (cmdState 1 launchHdr)
    (Tab.find (vfAt (s id) 1).cmds 3).map (fun c => completionHeld (s id) 1 c) = some false
      ∧ (let u := modDie 0 (fun d => { d with held := true }) (modVf 1 (fun v => { v with s2root := BitVec.ofNat 64 ocpmBase }) (s id))
        (Tab.find (vfAt u 1).cmds 3).map (fun c => completionHeld u 1 c) = some true)
      ∧ (queueAt (s id) 1 0).needsReset = false
      ∧ (writeGpa 1 0xFFFFFFFFFFFF000 (leBytes 16 0) (s id)).isNone = true := by
  decide +kernel

theorem test_wit_Save_areas :
    dirHeld (folioState 9 0x10000 (tg id)) 1 = false ∧ gpaHeld (restoringState 0x10000) 1 0x40400 256 = false
      ∧ gpaHeld (restoringState 0x10000) 1 0x40400 512 = false
      ∧ dirHeld (modCtx 1 (fun c => { c with sarea := 0xFFFFFFFFFFFFF000 }) (tg id)) 1 = false
      ∧ dirHeld (modDie 0 (fun d => { d with held := true }) (modVf 1 (fun v => { v with s2root := BitVec.ofNat 64 ocpmBase }) (folioState 9 0x10000 (tg id)))) 1 = true := by
  decide +kernel

theorem test_wit_Die_quiet :
    let s := modDie 4 (fun d => { d with held := true }) (tg id)
    (∀ v ∈ [0, 1, 512], (vfAt s v).cmds = [] ∧ (vfAt s v).queues = [] ∧ (vfAt s v).faults = []) ∧ s.vfs.length ≤ 2
      ∧ s.hubWrites = [] ∧ (∀ e ∈ s.groups, e.2.blocked ≠ some .held) ∧ s.copies = [] ∧ onDie s 4 1 = false
      ∧ (dieAt s 4).held = true
      ∧ (groupAt (tg (fun g => { g with blocked := some .held })) 0).blocked = some .held := by
  decide +kernel

/-- A peer's block under the function's tag, and under another. -/
theorem test_wit_Collective_tags :
    (collAt (runState .running false [] id) 0 2).map (fun c =>
      decide ((5 : BitVec 16).toNat = (Tab.get 0 (runState .running false [] id).platform.fabtag c.vf).toNat % 2 ^ 16)
        && decide ((6 : BitVec 16).toNat ≠ (Tab.get 0 (runState .running false [] id).platform.fabtag c.vf).toNat % 2 ^ 16)
        && decide ((0 : Nat) ≠ cdRank c.desc ∧ 0 < cdRanks c.desc ∧ 3 < 4) && (Tab.find c.arrived 0).isNone
        && decide ((List.replicate 8 (0 : Byte)).length = cdBlock c.desc)) = some true := by
  decide +kernel

/-- The services whose answer needs no memory have their effect; a page that a PAGEIN names is resolved. -/
theorem test_wit_Answers_effect :
    ((answerState false id).syscs.map (fun e => (syscEffect (envOf (answerState false id) 0) e.2 (-1) [] (answerState false id)).isSome
      && (syscEffect { vf := 1, s1root := 0x3000, team := 0, core := 1028, priv := false } e.2 (-2) [] (answerState false id)).isSome
      && (syscEffect (envOf (answerState false id) 0) e.2 0 [] (answerState false id)).isSome)) = [true] := by
  decide +kernel

theorem test_wit_Boot_keys : (List.replicate 5 (1 : BitVec 768)).length = 5 ∧ ([] : List (BitVec 768)).length ≠ 5 := by
  decide

theorem test_wit_Registers_values :
    let s := ready (modQueue 1 63 (fun q => { q with enable := 1 }) (modVf 1 (fun v => { v with queueSelect := 63 }) (tg id)))
    bootReady s = true ∧ vfOn s 1 = true ∧ (vfAt s 1).queueSelect = BitVec.ofNat 16 63 ∧ (queueAt s 1 63).enable = 1 ∧ (vfAt s 1).tdi = .unlocked
      ∧ certKey s 5 = none ∧ noAnswer (.certificate 0) { s with boot := { s.boot with dieKeys := List.replicate 5 1 } } = false
      ∧ (2 : W64).getLsbD 1 = true ∧ (1 : W64).getLsbD 1 = false ∧ 1 ≤ (65535 : W64).toNat % 2 ^ 32 ∧ (65535 : W64).toNat % 2 ^ 32 ≤ 65535
      ∧ 65535 < (65536 : W64).toNat % 2 ^ 32 ∧ (0x1001 : W64).toNat % 4096 ≠ 0 := by
  decide +kernel

theorem test_wit_StepRuns_here :
    breakHere (settleResume (unmarkMe (inTurn (.group 0) (tg id)))) = none
      ∧ failStage (tg id) (envOf (tg id) 0) (tg id).me.failPages (tg id).me.pc.toNat = none := by
  decide +kernel
end Sys2Proof.Machine
end

section
/-!
THE CANONICAL FORM OF MEMORY (O5, O6). Memory changes through `setByte` and `clearRange` alone, and both keep the form. First come
the operations that leave memory as it is, then those that write it, then the frames of words, commands and events, and at last the
instructions and the step.
-/

namespace Sys2Proof.Machine

open Memory

/-! ## What leaves memory as it is -/

/-- Steps that leave memory as it is leave it so in a row. -/
theorem foldl_mem {α : Type} {f : State → α → State} (hf : ∀ u x, (f u x).mem = u.mem) {l : List α} :
    ∀ {s : State}, (l.foldl f s).mem = s.mem := by
  induction l with
  | nil => intro s; rfl
  | cons x l ih => intro s; exact (ih (s := f s x)).trans (hf s x)

@[simp] theorem addTlb_mem {die e} {s : State} : (addTlb die e s).mem = s.mem := by
  unfold addTlb; split <;> rfl

@[simp] theorem sendMsix_mem {vf vector} {s : State} : (sendMsix vf vector s).mem = s.mem := by
  unfold sendMsix; split <;> rfl

@[simp] theorem bumpMemGen_mem {k} {s : State} : (bumpMemGen k s).mem = s.mem := by
  unfold bumpMemGen; dsimp only; split <;> rfl

@[simp] theorem memGenMe_mem {s : State} : (memGenMe s).mem = s.mem := by
  unfold memGenMe; simp

@[simp] theorem putVq_mem {q n r} {s : State} : (putVq q n r s).mem = s.mem := by
  unfold putVq; split <;> simp

@[simp] theorem putV_mem {n r} {s : State} : (putV n r s).mem = s.mem := by
  unfold putV; split <;> simp

@[simp] theorem addReturn_mem {parts key} {s : State} : (addReturn parts key s).mem = s.mem := rfl
@[simp] theorem block_mem {b} {s : State} : (block b s).mem = s.mem := rfl
@[simp] theorem eretState_mem {s : State} : (eretState s).mem = s.mem := rfl
@[simp] theorem releaseSeq_mem {c} {s : State} : (releaseSeq c s).mem = s.mem := rfl

@[simp] theorem leaveShare_mem {k} {s : State} : (leaveShare k s).mem = s.mem := by
  unfold leaveShare; dsimp only; split <;> rfl

@[simp] theorem keepMmas_mem {k} {s : State} : (keepMmas k s).mem = s.mem := by
  unfold keepMmas; dsimp only; split <;> rfl

@[simp] theorem endTeam_mem {k} {s : State} : (endTeam k s).mem = s.mem := by
  unfold endTeam; dsimp only; split <;> simp

@[simp] theorem endGroup_mem {q} {s : State} : (endGroup q s).mem = s.mem := by
  unfold endGroup; dsimp only; (repeat' split) <;> simp

@[simp] theorem raiseDemand_mem {e stage page} {s : State} : (raiseDemand e stage page s).mem = s.mem := by
  unfold raiseDemand; dsimp only; split <;> simp

@[simp] theorem addTlbs_mem {die ts} {s : State} : (addTlbs die ts s).mem = s.mem := foldl_mem fun _ _ => addTlb_mem

@[simp] theorem raiseMe_mem {f} {s : State} : (raiseMe f s).mem = s.mem := rfl

@[simp] theorem markDest_mem {ws uses} {s : State} : (markDest ws uses s).mem = s.mem := by
  unfold markDest; split <;> rfl

@[simp] theorem unblock_mem {q} {s : State} : (unblock q s).mem = s.mem := by
  unfold unblock; dsimp only; (repeat' split) <;> simp

@[simp] theorem popPorts_mem {uses} {s : State} : (popPorts uses s).mem = s.mem := by
  refine foldl_mem fun u x => ?_
  split
  · split <;> rfl
  · rfl

@[simp] theorem leaveWord_mem {uses} {s s1 : State} : (leaveWord s uses s1).mem = s1.mem := by
  unfold leaveWord; simp

@[simp] theorem putDest_mem {n r} {s : State} : (putDest n r s).mem = s.mem := by
  unfold putDest; split <;> simp

@[simp] theorem addRecord_mem {core r} {s : State} : (addRecord core r s).mem = s.mem := rfl
@[simp] theorem putNamed_mem {n r} {s : State} : (putNamed n r s).mem = s.mem := rfl

@[simp] theorem putReused_mem {n key names flags r} {s : State} : (putReused n key names flags r s).mem = s.mem := by
  unfold putReused; dsimp only; (repeat' split) <;> simp

@[simp] theorem modQueue_mem {v q f} {s : State} : (modQueue v q f s).mem = s.mem := rfl
@[simp] theorem beginCmd_mem {v id} {s : State} : (beginCmd v id s).mem = s.mem := rfl

@[simp] theorem endQueueReset_mem {v q} {s : State} : (endQueueReset v q s).mem = s.mem := by
  unfold endQueueReset; dsimp only; split <;> rfl

@[simp] theorem landS_mem {q n v bad} {s : State} : (landS q n v bad s).mem = s.mem := rfl

@[simp] theorem landV_mem {q n mask cover lanes bad} {s : State} : (landV q n mask cover lanes bad s).mem = s.mem := by
  unfold landV; simp

@[simp] theorem landRecord_mem {r key} {s : State} : (landRecord r key s).mem = s.mem := by
  unfold landRecord; dsimp only; (repeat' split) <;> simp

@[simp] theorem landPart_mem {q p} {s : State} : (landPart q p s).mem = s.mem := by
  unfold landPart
  split
  · simp
  · split <;> simp
  · simp

@[simp] theorem land_mem {r} {s : State} : (land r s).mem = s.mem := by
  unfold land
  have parts : ∀ {u : State}, (r.parts.foldl (fun t p => landPart r.q p t) u).mem = u.mem := foldl_mem fun _ _ => landPart_mem
  dsimp only
  (repeat' split) <;> simp [parts]

@[simp] theorem modCopy_mem {id f} {s : State} : (modCopy id f s).mem = s.mem := by
  unfold modCopy; split <;> rfl

@[simp] theorem joinBatch_mem {q num} {s : State} : (joinBatch q num s).mem = s.mem := rfl
@[simp] theorem emptyWindow_mem {w} {s : State} : (emptyWindow w s).mem = s.mem := rfl

@[simp] theorem leaveBatch_mem {c failed} {s : State} : (leaveBatch c failed s).mem = s.mem := by
  unfold leaveBatch; dsimp only; split <;> rfl

@[simp] theorem countSectors_mem {c done} {s : State} : (countSectors c done s).mem = s.mem := by
  unfold countSectors; dsimp only; split <;> simp

@[simp] theorem refillWindow_mem {c} {s : State} : (refillWindow c s).mem = s.mem := by
  unfold refillWindow; split <;> rfl

@[simp] theorem stallCopy_mem {id c st p} {s : State} : (stallCopy id c st p s).mem = s.mem := by
  unfold stallCopy; simp

@[simp] theorem deliverWindow_mem {c w bs} {s : State} : (deliverWindow s c w bs).mem = s.mem := by
  unfold deliverWindow; simp

@[simp] theorem markV_mem {n bad} {s : State} : (markV n bad s).mem = s.mem := by
  unfold markV; split <;> rfl

@[simp] theorem markS_mem {n bad} {s : State} : (markS n bad s).mem = s.mem := by
  unfold markS
  split
  · split <;> rfl
  · rfl

@[simp] theorem vecReturn_mem {vd mask cover lanes bad key} {s : State} :
    (vecReturn vd mask cover lanes bad key s).mem = s.mem := by
  unfold vecReturn
  split
  · rfl
  · split <;> rfl

@[simp] theorem barArrive_mem {id} {s : State} : (barArrive id s).mem = s.mem := by
  unfold barArrive; dsimp only; split <;> simp

@[simp] theorem closePort_mem {n} {s : State} : (closePort n s).mem = s.mem := rfl
@[simp] theorem modPort_mem {q n f} {s : State} : (modPort q n f s).mem = s.mem := rfl

@[simp] theorem stallPort_mem {q n stage page f} {s : State} : (stallPort q n stage page f s).mem = s.mem := by
  unfold stallPort; simp

@[simp] theorem withdraw_mem {c r} {s : State} : (withdraw c r s).mem = s.mem := rfl
@[simp] theorem dropRegs_mem {q lo n} {s : State} : (dropRegs q lo n s).mem = s.mem := rfl
@[simp] theorem dropReturns_mem {qs lo} {s : State} : (dropReturns qs lo s).mem = s.mem := rfl
@[simp] theorem setColl_mem {die id c} {s : State} : (setColl die id c s).mem = s.mem := rfl
@[simp] theorem closeCounters_mem {n} {s : State} : (closeCounters n s).mem = s.mem := rfl
@[simp] theorem pass_mem {n} {s : State} : (pass n s).mem = s.mem := rfl
@[simp] theorem tick_mem {s : State} : (tick s).mem = s.mem := rfl

@[simp] theorem settleResume_mem {s : State} : (settleResume s).mem = s.mem := by
  unfold settleResume
  split
  · rfl
  · split <;> rfl

@[simp] theorem settleGroup_mem {q} {s : State} : (settleGroup q s).mem = s.mem := by
  unfold settleGroup; simp

@[simp] theorem landSysc_mem {q v} {s : State} : (landSysc q v s).mem = s.mem := by
  unfold landSysc; split <;> simp

@[simp] theorem drainReturn_mem {vd mask cover lanes} {s : State} : (drainReturn vd mask cover lanes s).mem = s.mem := by
  unfold drainReturn
  split
  · rfl
  · split <;> rfl

@[simp] theorem fillRange_mem {core tile} {s : State} : (fillRange core tile s).mem = s.mem := rfl
@[simp] theorem modSeq_mem {c f} {s : State} : (modSeq c f s).mem = s.mem := rfl
@[simp] theorem recordBarrier_mem {c va} {s : State} : (recordBarrier c va s).mem = s.mem := rfl
@[simp] theorem setHead_mem {c m} {s : State} : (setHead c m s).mem = s.mem := rfl
@[simp] theorem pmccfgWrite_mem {core i vf priv v} {s : State} : (pmccfgWrite core i vf priv v s).mem = s.mem := rfl
@[simp] theorem pmcWrite_mem {core i v} {s : State} : (pmcWrite core i v s).mem = s.mem := rfl

@[simp] theorem specialWrite_mem {n v} {s : State} : (specialWrite n v s).mem = s.mem := by
  unfold specialWrite; dsimp only; (repeat' split) <;> simp

@[simp] theorem loadRegs_mem {q rec'} {s : State} : (loadRegs q rec' s).mem = s.mem :=
  foldl_mem fun _ _ => putVq_mem

@[simp] theorem loadStream_mem {q r} {s : State} : (loadStream q r s).mem = s.mem := rfl

@[simp] theorem startGroup_mem {k w l gi q} {s : State} : (startGroup k w l gi q s).mem = s.mem := by
  unfold startGroup; dsimp only; split <;> simp

@[simp] theorem startTeam_mem {k w slots} {s : State} : (startTeam k w slots s).mem = s.mem := foldl_mem fun _ _ => startGroup_mem

@[simp] theorem startSlice_mem {vf} {s : State} : (startSlice vf s).mem = s.mem := by
  unfold startSlice; split <;> rfl

@[simp] theorem modQueueOf_mem {die vf index f} {s : State} : (modQueueOf die vf index f s).mem = s.mem := rfl

@[simp] theorem enterActive_mem {q out} {s : State} : (enterActive q out s).mem = s.mem := by
  unfold enterActive; split <;> rfl

@[simp] theorem modCtx_mem {vf f} {s : State} : (modCtx vf f s).mem = s.mem := rfl
@[simp] theorem vacate_mem {q} {s : State} : (vacate q s).mem = s.mem := rfl
@[simp] theorem settleHomes_mem {vf} {s : State} : (settleHomes vf s).mem = s.mem := rfl

@[simp] theorem attachSysc_mem {q handle dest} {s : State} : (attachSysc q handle dest s).mem = s.mem := by
  unfold attachSysc; dsimp only; split <;> simp

@[simp] theorem loadGroup_mem {k l lid gi q kept r} {s : State} : (loadGroup k l lid gi q kept r s).mem = s.mem := by
  unfold loadGroup; dsimp only; split <;> simp

@[simp] theorem idleSeq_mem {k} {s : State} : (idleSeq k s).mem = s.mem := rfl
@[simp] theorem saveGroup_mem {block} {s : State} : (saveGroup block s).mem = s.mem := rfl

@[simp] theorem binderPut_mem {off bytes value} {s : State} : (binderPut off bytes value s).mem = s.mem := by
  unfold binderPut; split <;> rfl

@[simp] theorem modDbg_mem {vf f} {s : State} : (modDbg vf f s).mem = s.mem := rfl

@[simp] theorem askHalt_mem {q cg} {s : State} : (askHalt q cg s).mem = s.mem := by
  unfold askHalt; split <;> rfl

@[simp] theorem resumeGroup_mem {q step} {s : State} : (resumeGroup q step s).mem = s.mem := rfl

@[simp] theorem hcmd_mem {vf cmd} {s : State} : (hcmd vf cmd s).mem = s.mem := by
  unfold hcmd
  split
  · rfl
  · split
    · simp
    · split <;> simp
    · split <;> simp
    · rfl

@[simp] theorem modTrace_mem {die f} {s : State} : (modTrace die f s).mem = s.mem := rfl
@[simp] theorem spoilTask_mem {die key n d} {s : State} : (spoilTask die key n d s).mem = s.mem := rfl
@[simp] theorem modPlatform_mem {f} {s : State} : (modPlatform f s).mem = s.mem := rfl

@[simp] theorem platformStore_mem {off bytes value} {s : State} : (platformStore off bytes value s).mem = s.mem := by
  unfold platformStore; dsimp only; split <;> rfl

@[simp] theorem modDuty_mem {die f} {s : State} : (modDuty die f s).mem = s.mem := rfl
@[simp] theorem modExpert_mem {die vf e f} {s : State} : (modExpert die vf e f s).mem = s.mem := rfl

@[simp] theorem unspill_mem {die vf e n} {s : State} : (unspill die vf e n s).mem = s.mem := by
  induction n generalizing s with
  | zero => rfl
  | succ n ih =>
    unfold unspill
    (repeat' split) <;> simp [ih]

@[simp] theorem queueTeams_mem {lid l} {s : State} : (queueTeams lid l s).mem = s.mem := rfl
@[simp] theorem loadExpert_mem {vf die e d k root} {s : State} : (loadExpert vf die e d k root s).mem = s.mem := rfl
@[simp] theorem dropTranslations_mem {vf hit hitW} {s : State} : (dropTranslations vf hit hitW s).mem = s.mem := rfl
@[simp] theorem wakeEngines_mem {vf f fail} {s : State} : (wakeEngines vf f fail s).mem = s.mem := rfl

@[simp] theorem wakeGroups_mem {vf f fail} {s : State} : (wakeGroups vf f fail s).mem = s.mem := by
  unfold wakeGroups; exact foldl_mem fun _ _ => unblock_mem

@[simp] theorem endFault_mem {vf f} {s : State} : (endFault vf f s).mem = s.mem := rfl
@[simp] theorem dropTenancy_mem {vf} {s : State} : (dropTenancy vf s).mem = s.mem := rfl
@[simp] theorem coldReset_mem {b} {s : State} : (coldReset b s).mem = s.mem := rfl

@[simp] theorem endCmd_mem {v id} {s : State} : (endCmd v id s).mem = s.mem := by
  unfold endCmd; split <;> rfl

@[simp] theorem queueStore_mem {vf f} {s : State} : (queueStore vf f s).mem = s.mem := by
  unfold queueStore; split <;> rfl

@[simp] theorem scopeStore_mem {vf off n} {s : State} : (scopeStore vf off n s).mem = s.mem := rfl

@[simp] theorem popReturn_mem {mask cover bad outs} {s : State} : (popReturn mask cover bad outs s).mem = s.mem := by
  have ports : ∀ {l : List (Nat × List W32)} {u : State},
      (l.foldl (fun u o => modMe (fun g => g.pushPort o.1 o.2 mask) u) u).mem = u.mem := foldl_mem fun _ _ => modMe_mem _ _
  unfold popReturn; dsimp only; split <;> simp [addReturn, ports]

@[simp] theorem unmarkMe_mem {s : State} : (unmarkMe s).mem = s.mem := by
  unfold unmarkMe; split <;> rfl

/-! ### Operations that may refuse, and ends of words -/

/-- The state in which a word ends at issue. -/
def Res.state : Res → State
  | .done s _ => s
  | .trap s _ _ => s
  | .wait s _ => s
  | .ended s => s

@[simp] theorem Res.state_done {s n} : (Res.done s n).state = s := rfl
@[simp] theorem Res.state_trap {s code info} : (Res.trap s code info).state = s := rfl
@[simp] theorem Res.state_wait {s b} : (Res.wait s b).state = s := rfl
@[simp] theorem Res.state_ended {s} : (Res.ended s).state = s := rfl

theorem takeLocks_mem {core ls} {s t : State} (e : takeLocks core ls s = some t) : t.mem = s.mem := by
  unfold takeLocks at e
  split at e
  · cases e; exact foldl_mem fun _ _ => modCore_mem _ _ _
  · cases e

theorem settleLocks_mem {core o env} {s t : State} (e : settleLocks core o env s = some t) : t.mem = s.mem := by
  unfold settleLocks at e
  dsimp only at e
  split at e
  · cases e; rfl
  · split at e
    · cases e
    · cases e; rfl

theorem enterCopy_mem {c fail} {s t : State} (e : enterCopy c fail s = some t) : t.mem = s.mem := by
  unfold enterCopy at e
  dsimp only at e
  split at e
  · cases e; rfl
  · split at e
    · cases e; rfl
    · split at e
      · cases e
      · next s1 e1 =>
        have h1 : s1.mem = s.mem := by
          split at e1
          · exact takeLocks_mem e1
          · cases e1; rfl
        (repeat' split at e) <;> cases e <;> simp [h1]

theorem startCopy_mem {q chan tidx offset params done batch force} {s t : State}
    (e : startCopy q chan tidx offset params done batch force s = some t) : t.mem = s.mem := by
  unfold startCopy at e
  dsimp only at e
  split at e
  · cases e
  · obtain ⟨u, hu, rfl⟩ := Option.map_eq_some_iff.mp e
    simpa using enterCopy_mem hu

theorem startStore_mem {chan v} {s t : State} (e : startStore chan v s = some t) : t.mem = s.mem := by
  unfold startStore at e
  dsimp only at e
  split at e
  · cases e
  · exact startCopy_mem e

theorem restartCopy_mem {q rec'} {s t : State} (e : restartCopy q rec' s = some t) : t.mem = s.mem := startCopy_mem e

theorem restartOrphan_mem {l lid k r} {s t : State} (e : restartOrphan l lid k r s = some t) : t.mem = s.mem := enterCopy_mem e

theorem restartCopies_mem {l lid rs} {s t : State} (e : restartCopies l lid rs s = some t) : t.mem = s.mem := by
  induction rs generalizing s with
  | nil => cases e; rfl
  | cons r rs ih =>
    obtain ⟨u, hu, e⟩ := Option.bind_eq_some_iff.mp e
    refine (ih e).trans ?_
    split at hu
    · exact restartCopy_mem hu
    · exact restartOrphan_mem hu

theorem barLeave_mem {id} {s t : State} (e : barLeave id s = some t) : t.mem = s.mem := by
  unfold barLeave at e
  dsimp only at e
  split at e
  · cases e
  · cases e; rfl

theorem enterColl_mem {c} {s t : State} (e : enterColl c s = some t) : t.mem = s.mem := by
  unfold enterColl at e
  dsimp only at e
  split at e
  · cases e; rfl
  · obtain ⟨u, hu, rfl⟩ := Option.map_eq_some_iff.mp e
    simpa using takeLocks_mem hu

theorem collSettle_mem {id c} {s t : State} (e : collSettle id c s = some t) : t.mem = s.mem := by
  obtain ⟨u, hu, ht⟩ := Option.bind_eq_some_iff.mp e
  exact (settleLocks_mem ht).trans (settleLocks_mem hu)

theorem mmaLock_mem {c m} {s t : State} (e : mmaLock c m s = .ok (some t)) : t.mem = s.mem := by
  unfold mmaLock at e
  dsimp only at e
  split at e
  · obtain ⟨u, hu, rfl⟩ := Option.map_eq_some_iff.mp (Except.ok.inj e)
    simpa using takeLocks_mem hu
  · cases e

theorem mmaIssue_mem {c m} {s t : State} (e : mmaIssue c m s = .ok (some t)) : t.mem = s.mem := by
  unfold mmaIssue at e
  simpa using mmaLock_mem e

theorem lockedHead_mem {c m} {s t : State} (e : lockedHead s c = .ok (some (t, m))) : t.mem = s.mem := by
  unfold lockedHead at e
  split at e
  · cases e
  · split at e
    · cases e; rfl
    · split at e
      · cases e
      · cases e
      · split at e
        · cases e
        · cases e
        · next s1 e1 =>
          obtain ⟨m1, -, hm⟩ := Option.map_eq_some_iff.mp (Except.ok.inj e)
          cases hm
          exact mmaLock_mem e1

theorem writeItem_mem {i v} {s t : State} (e : writeItem i v s = some t) : t.mem = s.mem := by
  unfold writeItem at e
  split at e
  · cases e; rfl
  · split at e
    · cases e
      split
      · rfl
      · split <;> simp
    · split at e
      · cases e
        split <;> simp
      · obtain ⟨g, -, rfl⟩ := Option.map_eq_some_iff.mp e
        rfl

theorem pmcStore_mem {off size value} {s t : State} (e : pmcStore off size value s = some t) : t.mem = s.mem := by
  unfold pmcStore at e
  dsimp only at e
  (repeat' split at e) <;> cases e <;> rfl

@[simp] theorem debugLoad_mem {vf off bytes} {s : State} : (debugLoad vf off bytes s).2.mem = s.mem := by
  unfold debugLoad; dsimp only; split <;> rfl

@[simp] theorem mmioLoad_mem {off size} {s : State} : (mmioLoad off size s).2.mem = s.mem := by
  unfold mmioLoad
  split
  · rfl
  · split
    · simp
    · split <;> rfl

theorem scalarFind_mem {size signed ordered va p v bad} {s t : State}
    (e : scalarFind size signed ordered va p s = some (v, bad, t)) : t.mem = s.mem := by
  unfold scalarFind at e
  split at e
  · cases e; rfl
  · split at e
    · cases e; rfl
    · cases e
  · cases e; simp

@[simp] theorem blockReg_mem {b off} {s : State} : (blockReg b off s).2.mem = s.mem := by
  unfold blockReg
  split
  case h_5 => split <;> simp
  case h_7 => dsimp only; (repeat' split) <;> rfl
  all_goals rfl

@[simp] theorem hostRead_mem {b off} {s : State} : (hostRead b off s).mem = s.mem := by
  unfold hostRead blockLoad
  split
  · rfl
  · dsimp only; split <;> simp

theorem refreshLoop_mem {s t : State} (e : refreshLoop s = .ok t) : t.mem = s.mem := by
  unfold refreshLoop at e
  dsimp only at e
  (repeat' split at e) <;> cases e <;> rfl

/-! ### Checked accesses -/

@[simp] theorem failRes_state_mem {e f} {s : State} : (failRes s e f).state.mem = s.mem := by
  unfold failRes
  split
  · split <;> simp
  · simp
  · rfl

theorem access_ok_mem {a read va p} {s t : State} (e : access s a read va = .ok (p, t)) : t.mem = s.mem := by
  unfold access at e
  dsimp only at e
  (repeat' split at e) <;> cases e <;> simp

theorem access_error_mem {a read va r} {s : State} (e : access s a read va = .error r) : r.state.mem = s.mem := by
  unfold access at e
  dsimp only at e
  (repeat' split at e) <;> cases e <;> simp

theorem rangeCheck_error_mem {write va n r} {s : State} (e : rangeCheck s write va n = .error r) : r.state.mem = s.mem := by
  unfold rangeCheck at e
  dsimp only at e
  split at e
  · cases e; simp
  · split at e <;> cases e
    simp
  · cases e; rfl

theorem accessRange_ok_mem {write va n ps} {s t : State} (e : accessRange s write va n = .ok (ps, t)) : t.mem = s.mem := by
  unfold accessRange at e
  (repeat' split at e) <;> cases e
  simp

theorem accessRange_error_mem {write va n r} {s : State} (e : accessRange s write va n = .error r) : r.state.mem = s.mem := by
  unfold accessRange at e
  split at e
  · next e1 => cases e; exact rangeCheck_error_mem e1
  · split at e <;> cases e; rfl

theorem vecAccess_ok_mem {a read watch lanes ps} {s t : State} (e : vecAccess s a read watch lanes = .ok (ps, t)) :
    t.mem = s.mem := by
  unfold vecAccess at e
  dsimp only at e
  (repeat' split at e) <;> cases e
  simp

theorem vecAccess_error_mem {a read watch lanes r} {s : State} (e : vecAccess s a read watch lanes = .error r) :
    r.state.mem = s.mem := by
  unfold vecAccess at e
  dsimp only at e
  (repeat' split at e) <;> cases e <;> simp

theorem readRecord64_ok_mem {va x} {s t : State} (e : readRecord64 va s = .ok (x, t)) : t.mem = s.mem := by
  unfold readRecord64 at e
  split at e
  · cases e
  · split at e
    · cases e
    · next e1 => split at e <;> cases e; exact access_ok_mem e1
    · cases e

theorem readRecord64_error_mem {va r} {s : State} (e : readRecord64 va s = .error r) : r.state.mem = s.mem := by
  unfold readRecord64 at e
  split at e
  · cases e; rfl
  · split at e
    · next e1 => cases e; exact access_error_mem e1
    · next e1 => split at e <;> cases e; exact access_ok_mem e1
    · next e1 => cases e; exact access_ok_mem e1

theorem readRecord_ok_mem {va n bs} {s t : State} (e : readRecord va n s = .ok (bs, t)) : t.mem = s.mem := by
  unfold readRecord at e
  split at e
  · cases e
  · next e1 => split at e <;> cases e; exact accessRange_ok_mem e1

theorem readRecord_error_mem {va n r} {s : State} (e : readRecord va n s = .error r) : r.state.mem = s.mem := by
  unfold readRecord at e
  split at e
  · next e1 => cases e; exact accessRange_error_mem e1
  · next e1 => split at e <;> cases e; exact accessRange_ok_mem e1

theorem tbAccess_ok_mem {va read write ps} {s t : State} (e : tbAccess va read write s = .ok (ps, t)) : t.mem = s.mem := by
  unfold tbAccess at e
  split at e
  · cases e
  · split at e
    · cases e
    · split at e
      · cases e
      · next e1 => cases e; exact access_ok_mem e1
      · cases e

theorem tbAccess_error_mem {va read write r} {s : State} (e : tbAccess va read write s = .error r) :
    r.state.mem = s.mem := by
  unfold tbAccess at e
  split at e
  · cases e; rfl
  · split at e
    · cases e; rfl
    · split at e
      · next e1 => cases e; exact access_error_mem e1
      · cases e
      · next e1 => cases e; exact access_ok_mem e1

/-! ## What writes memory -/

@[simp] theorem wf_mem_ite {c : Prop} [Decidable c] {a b : State} :
    wf (if c then a else b).mem = if c then wf a.mem else wf b.mem := apply_ite (fun u : State => wf u.mem) c a b

/-- Steps that keep the form keep it in a row. -/
theorem wf_foldl {α : Type} {f : State → α → State} (hf : ∀ u x, wf u.mem → wf (f u x).mem) {l : List α} :
    ∀ {s : State}, wf s.mem → wf (l.foldl f s).mem := by
  induction l with
  | nil => exact fun h => h
  | cons x l ih => exact fun h => ih (hf _ x h)

theorem wf_getD {o : Option State} {d : State} (ho : ∀ t, o = some t → wf t.mem) (hd : wf d.mem) : wf (o.getD d).mem := by
  cases o with
  | none => exact hd
  | some t => exact ho t rfl

section
variable {s : State} (h : wf s.mem)
include h

/-! ### Traces, event records and traps -/

@[simp] theorem wf_capture {die cls code vf cg p} : wf (capture die cls code vf cg p s).mem := by
  unfold capture
  dsimp only
  split
  · split
    · exact wf_writePas _ _ _ _ h
    · exact h
  · exact h

@[simp] theorem wf_captureFree {die cls vf cg} : wf (captureFree die cls vf cg s).mem := wf_capture h

@[simp] theorem wf_postEvent {ring ty vfn die cg p} : wf (postEvent ring ty vfn die cg p s).mem := by
  unfold postEvent
  dsimp only
  split
  · exact h
  · apply wf_capture
    split
    · exact h
    · split
      · exact h
      · next e => simpa using wf_writeGpa _ _ _ _ _ h e

@[simp] theorem wf_postBoth {ty v die cg mine pf} : wf (postBoth ty v die cg mine pf s).mem := by
  unfold postBoth; simp [h]

@[simp] theorem wf_haltGroup {q code info ret} : wf (haltGroup q code info ret s).mem := by
  unfold haltGroup; simp [h]

@[simp] theorem wf_takeTrap {q code info ret} : wf (takeTrap q code info ret s).mem := by
  unfold takeTrap; simp [h]

@[simp] theorem wf_trapHere {code info} : wf (trapHere code info s).mem := wf_takeTrap h

@[simp] theorem wf_countIssue {q g} : wf (countIssue q g s).mem := by
  unfold countIssue; simp [h]

@[simp] theorem wf_retireWord {n} : wf (retireWord n s).mem := by
  unfold retireWord; simp [h]

@[simp] theorem wf_retire {n} : wf (retire n s).mem := by
  unfold retire; split <;> simp [h]

@[simp] theorem wf_dropPacket {die link vf tag} : wf (dropPacket die link vf tag s).mem := by
  unfold dropPacket; simp [h]

@[simp] theorem wf_refuseReq {c r} : wf (refuseReq c r s).mem := by
  unfold refuseReq; simp [h]

@[simp] theorem wf_freezeCtx {vf gpa cause} : wf (freezeCtx vf gpa cause s).mem := by
  unfold freezeCtx; simp [h]

@[simp] theorem wf_postColl {die c step rank} : wf (postColl die c step rank s).mem := wf_postEvent h

@[simp] theorem wf_postThermal {die kind sensor reading} : wf (postThermal die kind sensor reading s).mem := wf_postEvent h

/-! ### Bytes that words and engines write -/

@[simp] theorem wf_writeParts {vf ps bs} : wf (writeParts vf ps bs s).mem := by
  induction ps generalizing s bs with
  | nil => exact h
  | cons p ps ih => exact ih (wf_writePas _ _ _ _ h)

theorem wf_engineWrite {env va bs t} (e : engineWrite env va bs s = .ok t) : wf t.mem := by
  unfold engineWrite at e
  split at e
  · cases e
  · cases e; exact wf_writeParts h

@[simp] theorem wf_tbModify {vf pa f} : wf (tbModify vf pa f s).mem := wf_writePas _ _ _ _ h

theorem wf_tbEngine {k va f t} (e : tbEngine k va f s = some t) : wf t.mem := by
  unfold tbEngine at e
  split at e
  · cases e; exact wf_tbModify h
  · cases e

@[simp] theorem wf_writeElem {core tile m n x} : wf (writeElem core tile m n x s).mem := wf_writePas _ _ _ _ h

@[simp] theorem wf_clearPage {core p} : wf (clearPage core p s).mem := wf_clearRange _ _ _ h

@[simp] theorem wf_clearTile {core t} : wf (clearTile core t s).mem := wf_clearRange _ _ _ h

@[simp] theorem wf_atomicLane {vf size op v c parts} : wf (atomicLane vf size op v c parts s).2.mem := by
  unfold atomicLane; simp [h]

/-! ### Range locks and sequencer faults -/

theorem wf_signalBarrier {c x t} (e : signalBarrier c x s = some t) : wf t.mem := by
  unfold signalBarrier at e
  split at e
  · cases e; exact h
  · split at e <;> cases e; exact wf_tbModify h

@[simp] theorem wf_signalCore {c} : wf (signalCore c s).mem := by
  refine wf_foldl (fun u x hu => ?_) (by simp [h])
  split
  · next e => exact wf_signalBarrier hu e
  · exact hu

@[simp] theorem wf_dropLocks {core o} : wf (dropLocks core o s).mem :=
  wf_foldl (fun _ _ hu => wf_signalCore hu) h

@[simp] theorem wf_seqFault {c cause word addr} : wf (seqFault c cause word addr s).mem := by
  have freed : ∀ {l : List MmaRec} {u : State}, wf u.mem → wf (l.foldl (fun u m => dropLocks c (.mma m.serial) u) u).mem :=
    wf_foldl fun _ _ hu => wf_dropLocks hu
  unfold seqFault
  dsimp only
  apply wf_postEvent
  apply wf_signalCore
  refine freed ?_
  split <;> exact h

end

/-! ### Queues and commands -/

section
variable {s : State} (h : wf s.mem)
include h

@[simp] theorem wf_ringError {v q cause} : wf (ringError v q cause s).mem := by
  unfold ringError; simp [h]

@[simp] theorem wf_scatterBytes {v ps bs} : wf (scatterBytes v ps bs s).mem := by
  induction ps generalizing s bs with
  | nil => exact h
  | cons p ps ih => exact ih (wf_getD (fun _ e => wf_writeGpa _ _ _ _ _ h e) h)

@[simp] theorem wf_usedInterrupt {v q old} : wf (usedInterrupt v q old s).mem := by
  unfold usedInterrupt
  dsimp only
  split <;> simp [h]

@[simp] theorem wf_pushUsed {v c len} : wf (pushUsed v c len s).mem := by
  unfold pushUsed
  dsimp only
  split
  · exact h
  · split
    · exact wf_ringError h
    · next e1 =>
      split
      · exact wf_ringError h
      · next e2 => exact wf_usedInterrupt (by simpa using wf_writeGpa _ _ _ _ _ (wf_writeGpa _ _ _ _ _ h e1) e2)

@[simp] theorem wf_statusError {v c} : wf (statusError v c s).mem := by
  unfold statusError; simp [h]

@[simp] theorem wf_finishCmd {v id status detail result extra} : wf (finishCmd v id status detail result extra s).mem := by
  unfold finishCmd
  split
  · exact h
  · split
    · exact h
    · apply wf_pushUsed
      simpa using wf_getD (fun _ e => wf_writeGpa _ _ _ _ _ h e) (wf_statusError h)

@[simp] theorem wf_settleCmds {v n} : wf (settleCmds v n s).mem := by
  induction n generalizing s with
  | zero => exact h
  | succ n ih =>
    unfold settleCmds
    split
    · exact h
    · exact ih (wf_finishCmd h)

@[simp] theorem wf_settle {v} : wf (settle v s).mem := wf_settleCmds h

@[simp] theorem wf_completeCmd {v id status detail result extra} : wf (completeCmd v id status detail result extra s).mem :=
  wf_settle (wf_finishCmd h)

@[simp] theorem wf_readEntries {v q n} : wf (readEntries v q n s).mem := by
  induction n generalizing s with
  | zero => exact h
  | succ n ih =>
    unfold readEntries
    dsimp only
    split
    · exact wf_ringError h
    · split
      · exact wf_ringError h
      · split
        · exact wf_ringError h
        · exact ih h

@[simp] theorem wf_writeAvailEvent {v q} : wf (writeAvailEvent v q s).mem := by
  unfold writeAvailEvent
  split
  · exact wf_getD (fun _ e => wf_writeGpa _ _ _ _ _ h e) (by simp [h])
  · exact h

@[simp] theorem wf_scanQueue {v q} : wf (scanQueue v q s).mem := by
  unfold scanQueue
  split
  · exact h
  · split
    · simpa using h
    · dsimp only
      split
      · exact wf_ringError h
      · split
        · exact wf_ringError h
        · exact wf_settle (wf_writeAvailEvent (wf_readEntries h))

@[simp] theorem wf_finishHeld {v} : wf (finishHeld v s).mem := by
  refine wf_foldl (fun u x hu => ?_) h
  split
  · exact wf_completeCmd hu
  · exact hu

@[simp] theorem wf_scanAgain {v} : wf (scanAgain v s).mem :=
  wf_foldl (fun _ _ hu => wf_scanQueue (by simpa using hu)) h

@[simp] theorem wf_wakeHeld : wf (wakeHeld s).mem :=
  wf_foldl (fun _ _ hu => wf_scanAgain hu) (wf_foldl (fun _ _ hu => wf_finishHeld hu) (wf_flushHub _ h))

@[simp] theorem wf_rescan {v} : wf (rescan v s).mem := by
  unfold rescan
  dsimp only
  split
  · exact h
  · exact wf_foldl (fun _ _ hu => wf_scanQueue hu) (wf_foldl (fun _ _ hu => by simpa using hu) (by simpa using h))

@[simp] theorem wf_refillOnce : wf (refillOnce s).mem := wf_foldl (fun _ _ hu => wf_rescan hu) h

@[simp] theorem wf_refillTimes {n} : wf (refillTimes n s).mem := by
  induction n generalizing s with
  | zero => exact h
  | succ n ih => exact ih (wf_refillOnce h)

@[simp] theorem wf_refill : wf (refill s).mem := by
  unfold refill; simp [h]

/-! ### Copies -/

@[simp] theorem wf_copyMove {c m k} : wf (copyMove c m k s).1.mem := by
  induction m generalizing s k with
  | zero => exact h
  | succ m ih =>
    unfold copyMove
    split
    · exact h
    · exact h
    · exact ih (wf_writeParts h)

theorem wf_copySignal {c failed t} (e : copySignal c failed s = some t) : wf t.mem := by
  unfold copySignal at e
  dsimp only at e
  split at e
  · cases e; exact h
  · exact wf_tbEngine h e

@[simp] theorem wf_holdElem {key pa} : wf (holdElem key pa s).mem := by
  unfold holdElem; simp [wf_writePa, wf_writePas, h]

@[simp] theorem wf_holdElems {c lo hi all} : wf (holdElems c lo hi all s).mem := by
  unfold holdElems
  split
  · exact wf_foldl (fun _ _ hu => wf_holdElem hu) h
  · exact h

@[simp] theorem wf_cancelCopy {c} : wf (cancelCopy c s).mem := by
  unfold cancelCopy; simp [h]

@[simp] theorem wf_dropCopy {id c} : wf (dropCopy id c s).mem := by
  unfold dropCopy; simp [h]

@[simp] theorem wf_failCopy {id c code signal} : wf (failCopy id c code signal s).mem := by
  unfold failCopy
  extract_lets s1 s2 s3 s4 s5
  have h1 : wf s1.mem := by simp [s1, h]
  have h2 : wf s2.mem := by simp [s2, h1, wf_getD fun _ e => wf_copySignal h1 e]
  have h5 : wf s5.mem := by simp [s5, s4, s3, h2]
  split
  · exact wf_completeCmd h5
  · exact h5

@[simp] theorem wf_finishCopy {id c} : wf (finishCopy id c s).mem := by
  unfold finishCopy
  split
  · exact wf_failCopy h
  · next s1 e =>
    have h1 : wf s1.mem := wf_copySignal (wf_dropCopy h) e
    split <;> simp [h1]

/-- The states that a run of a copy may leave keep the form. -/
def CopyRun.Wf : CopyRun → Prop
  | .complete t => wf t.mem
  | .progress t => wf t.mem
  | .failed t _ _ => wf t.mem
  | .nothing => True

theorem wf_runCopy {id c} : (runCopy id c s).Wf := by
  unfold runCopy
  dsimp only
  split
  · split
    · split
      · simpa [CopyRun.Wf] using h
      · exact h
    · exact h
    · exact h
    · simpa [CopyRun.Wf] using h
    · trivial
  · split
    · simp [CopyRun.Wf, h]
    · simp [CopyRun.Wf, h]
    · simp [CopyRun.Wf, h]
    · simp [CopyRun.Wf, h]
    · split <;> simp [CopyRun.Wf, h]

@[simp] theorem wf_advanceCopy {id c} : wf (advanceCopy id c s).mem := by
  unfold advanceCopy; simp [h]

end

/-! ### Streams, allotments, collectives and answered calls -/

section
variable {s : State} (h : wf s.mem)
include h

@[simp] theorem wf_streamStore {q t k vals mask n} : wf (streamStore q t k vals mask n s).1.mem := by
  induction n with
  | zero => exact h
  | succ n ih =>
    unfold streamStore
    split
    · next e => simpa [e] using ih
    · next s1 e =>
      have h1 : wf s1.mem := by simpa [e] using ih
      dsimp only
      split
      · exact h1
      · split
        · exact h1
        · split
          · exact h1
          · exact wf_writeParts h1

@[simp] theorem wf_grantReq {r} : wf (grantReq r s).mem := by
  unfold grantReq
  dsimp only
  split
  · exact wf_foldl (fun _ _ hu => by simpa using hu) (by simpa using h)
  · exact wf_foldl (fun _ _ hu => wf_clearPage hu) (by simpa using h)
  · exact wf_foldl (fun _ _ hu => wf_clearTile hu) (by simpa using h)
  · simpa using h

@[simp] theorem wf_failColl {die id c} : wf (failColl die id c s).mem := by
  unfold failColl; simp [h]

@[simp] theorem wf_collWrite {c ls bs} : wf (collWrite c ls bs s).1.mem := by
  induction ls generalizing s bs with
  | nil => exact h
  | cons l ls ih =>
    unfold collWrite
    split
    · exact h
    · exact ih (wf_writeParts h)

theorem wf_stopColl {die id c why t} (e : stopColl die id c why s = some t) : wf t.mem := by
  unfold stopColl at e
  split at e <;> cases e <;> simp [h]

theorem wf_takeBlock {die id rank block c t} (e : takeBlock die id rank block c s = some t) : wf t.mem := by
  unfold takeBlock at e
  dsimp only at e
  split at e
  · cases e; simpa using h
  · split at e
    · cases e; simp [h]
    · exact wf_stopColl (wf_collWrite h) e

theorem wf_engineWrite_toOption {env va bs t} (e : (engineWrite env va bs s).toOption = some t) : wf t.mem := by
  cases hw : engineWrite env va bs s with
  | error p => rw [hw] at e; cases e
  | ok u => rw [hw] at e; cases e; exact wf_engineWrite h hw

theorem wf_syscEffect {env r v bytes t} (e : syscEffect env r v bytes s = some t) : wf t.mem := by
  unfold syscEffect at e
  split at e
  · cases e; exact h
  · split at e
    · obtain ⟨bs, -, rfl⟩ := Option.map_eq_some_iff.mp e
      simpa using h
    · exact wf_engineWrite_toOption h e
    · split at e <;> cases e
      exact h
    · cases e; exact h

/-! ### Matrix engine -/

@[simp] theorem wf_addStep {c m d} : wf (addStep c m d s).mem := by
  unfold addStep
  extract_lets f fresh cols s1
  have h1 : wf s1.mem := by simp [s1, h]
  exact wf_foldl (fun _ _ hu => wf_foldl (fun _ _ hv => wf_writeElem hv) hu) h1

theorem wf_runStep {c m r} (e : runStep c m s = some r) : wf r.1.mem := by
  unfold runStep at e
  split at e
  · cases e
  · cases e; exact wf_seqFault h
  · split at e <;> cases e
    simp [h]

@[simp] theorem wf_seqReissue {c m} : wf (seqReissue c m s).mem := by
  unfold seqReissue
  dsimp only
  split
  · exact wf_seqFault h
  · exact h
  · split
    · exact wf_seqFault h
    · exact h
    · next e => simpa [mmaLock_mem e] using h

@[simp] theorem wf_lockFault {c cause} : wf (lockFault s c cause).mem := by
  unfold lockFault
  split <;> simp [h]

@[simp] theorem wf_mmaDone {c m} : wf (mmaDone c m s).mem := by
  unfold mmaDone; simp [h]

@[simp] theorem wf_loadImage {c k img} : wf (loadImage c k img s).mem := by
  unfold loadImage
  dsimp only
  split
  · simp [h]
  · split <;> simp [h]

@[simp] theorem wf_loadMatrix {k r} : wf (loadMatrix k r s).mem := by
  unfold loadMatrix
  extract_lets t tile s1 img
  have h1 : wf s1.mem := wf_foldl (fun _ _ hu => wf_writePas _ _ _ _ (by simpa using hu)) h
  split
  · exact h1
  · split <;> simp [h1]

/-! ### Admission and waves -/

@[simp] theorem wf_takeCounts {c vf w s1root slots} : wf (takeCounts c vf w s1root slots s).mem := by
  unfold takeCounts
  dsimp only
  exact wf_foldl (fun _ _ hu => wf_clearTile hu) (wf_foldl (fun _ _ hu => wf_clearPage hu) (by simpa using h))

@[simp] theorem wf_admitTeam {c vf w slots} : wf (admitTeam c vf w slots s).mem := by
  unfold admitTeam; simp [h]

@[simp] theorem wf_launchWave {die vf index entry} : wf (launchWave die vf index entry s).mem := by
  unfold launchWave
  split
  · exact h
  · simp [h]

@[simp] theorem wf_pushTask {die vf index entry value} : wf (pushTask die vf index entry value s).mem := by
  unfold pushTask
  split
  · exact h
  · extract_lets s1 s2
    have h1 : wf s1.mem := by simp [s1, h]
    have h2 : wf s2.mem := by simp [s2, h1]
    split
    · split <;> simp [h2]
    · exact h2

/-! ### Contexts -/

@[simp] theorem wf_holdSeq {c} : wf (holdSeq c s).mem := by
  unfold holdSeq
  simpa using wf_foldl (fun _ _ hu => wf_dropLocks hu) h

@[simp] theorem wf_holdSeqs {vf} : wf (holdSeqs vf s).mem := by
  refine wf_foldl (fun u x hu => ?_) h
  split
  · split
    · exact wf_holdSeq hu
    · exact hu
  · exact hu

@[simp] theorem wf_startStop {vf reason} : wf (startStop vf reason s).mem := by
  unfold startStop; simp [h]

theorem wf_writeGpa_getD {vf gpa bs} : wf ((writeGpa vf gpa bs s).getD s).mem :=
  wf_getD (fun _ e => wf_writeGpa _ _ _ _ _ h e) h

@[simp] theorem wf_writeUpTo {vf gpa bs} : wf (writeUpTo vf gpa bs s).1.mem := by
  unfold writeUpTo
  split <;> exact wf_writeGpa_getD h

@[simp] theorem wf_parkCopy {id} : wf (parkCopy id s).mem := by
  unfold parkCopy
  split
  · simpa using wf_dropLocks (wf_cancelCopy (wf_advanceCopy h))
  · exact h

@[simp] theorem wf_cutCopies {vf} : wf (cutCopies vf s).mem := by
  unfold cutCopies
  dsimp only
  simpa using wf_foldl (fun _ _ hu => by simpa using hu) (wf_foldl (fun _ _ hu => wf_parkCopy hu) h)

@[simp] theorem wf_saveOne {vf lid} : wf (saveOne vf lid s).1.mem := by
  unfold saveOne
  dsimp only
  split
  · exact h
  · split <;> simp [h]

@[simp] theorem wf_saveFolios {vf ls} : wf (saveFolios vf ls s).1.mem := by
  induction ls generalizing s with
  | nil => exact h
  | cons lid ls ih =>
    unfold saveFolios
    dsimp only
    split
    · simp [h]
    · exact ih (wf_saveOne h)

@[simp] theorem wf_dropSeqLocks {c : Nat} {ms : List MmaRec} :
    wf (ms.foldl (fun u m => dropLocks c (.mma m.serial) u) s).mem :=
  wf_foldl (fun _ _ hu => wf_dropLocks hu) h

@[simp] theorem wf_freeTeam {k} : wf (freeTeam k s).mem := by
  unfold freeTeam
  extract_lets t s1 s2 q s3 s4
  have h1 : wf s1.mem := wf_foldl (fun _ _ hu => by simpa using hu) h
  have h2 : wf s2.mem := by simp [s2, h1]
  have h3 : wf s3.mem := by simp [s3, h2]
  simpa [s4] using h3

@[simp] theorem wf_freeLaunch {lid} : wf (freeLaunch lid s).mem :=
  wf_foldl (fun _ _ hu => wf_freeTeam hu) h

@[simp] theorem wf_finishSave {vf} : wf (finishSave vf s).mem := by
  unfold finishSave
  dsimp only
  split
  · simp [h]
  · exact wf_captureFree (by simpa using wf_foldl (fun _ _ hu => wf_freeLaunch hu) (wf_writeUpTo h))

@[simp] theorem wf_runSave {vf} : wf (runSave vf s).mem := by
  unfold runSave
  extract_lets s1 s2
  have h1 : wf s1.mem := by simp [s1, h]
  cases e : s2 with
  | error g => simp [h1]
  | ok s3 =>
    have h3 : wf s3.mem := by
      simp only [s2] at e
      split at e
      · cases e; exact h1
      · split at e
        · cases e
        · split at e <;> cases e
          simpa using h1
    dsimp only
    split <;> simp [h3]

@[simp] theorem wf_killLaunch {lid} : wf (killLaunch lid s).mem := by
  unfold killLaunch
  extract_lets l s0 cs s1 s2 s3
  have h1 : wf s1.mem := wf_foldl (fun _ _ hu => wf_dropCopy hu) h
  have h2 : wf s2.mem := wf_foldl (fun _ _ hu => wf_foldl (fun _ _ hv => by simp [hv]) hu) h1
  have h3 : wf s3.mem := wf_foldl (fun _ _ hu => wf_freeTeam hu) h2
  cases l with
  | none => exact h3
  | some x => simpa using h3

@[simp] theorem wf_dropReleased {vf} : wf (dropReleased vf s).mem := by
  refine wf_foldl (fun u x hu => ?_) h
  split <;> simp [hu]

@[simp] theorem wf_finishRestore {vf} : wf (finishRestore vf s).mem := by
  unfold finishRestore
  dsimp only
  split <;> simp [h]

@[simp] theorem wf_beginRestore {vf} : wf (beginRestore vf s).mem := by
  unfold beginRestore
  split
  · simp [h]
  · dsimp only
    split <;> simp [h]

@[simp] theorem wf_tryRestore {vf} : wf (tryRestore vf s).mem := by
  unfold tryRestore; simp [h]

@[simp] theorem wf_loadTeam {k r} : wf (loadTeam k r s).mem := by
  unfold loadTeam
  dsimp only
  exact wf_foldl (fun _ _ hu => wf_writePas _ _ _ _ hu) (by simpa using h)

@[simp] theorem wf_enterCoop {k l lid gi q block} : wf (enterCoop k l lid gi q block s).mem := by
  unfold enterCoop; simp [h]

@[simp] theorem wf_restoreTeam {l lid c slots r p} : wf (restoreTeam l lid c slots r p s).mem := by
  unfold restoreTeam
  extract_lets k t s1 s2 s3 s4 s5
  have h1 : wf s1.mem := by simp [s1, h]
  have h2 : wf s2.mem := by
    refine wf_foldl (fun u x hu => ?_) h1
    split <;> simp [hu]
  have h3 : wf s3.mem := by
    refine wf_foldl (fun u x hu => ?_) h2
    split <;> simp [hu]
  have h4 : wf s4.mem := wf_foldl (fun _ _ hu => wf_loadMatrix hu) h3
  have h5 : wf s5.mem := by simp [s5, h4]
  refine wf_foldl (fun u x hu => ?_) h5
  split <;> simp [hu]

theorem wf_restoreTeams {l lid p pend ts cs homes r} (e : restoreTeams l lid p pend ts cs homes s = some r) : wf r.1.mem := by
  induction ts generalizing s cs homes with
  | nil => cases e; exact h
  | cons t ts ih =>
    cases cs with
    | nil => cases e
    | cons c cs =>
      unfold restoreTeams at e
      dsimp only at e
      split at e
      · cases e
      · split at e
        · cases e
        · exact ih (wf_restoreTeam h) e

theorem wf_restoreFolio {vf bs cores t} (e : restoreFolio vf bs cores s = some t) : wf t.mem := by
  unfold restoreFolio at e
  extract_lets id known lid l p s1 at e
  have h1 : wf s1.mem := h
  obtain ⟨x, ex, et⟩ := Option.bind_eq_some_iff.mp e
  have hx : wf x.1.mem := wf_restoreTeams h1 ex
  rw [restartCopies_mem et]
  simp [hx]

@[simp] theorem wf_takeFolio {vf} : wf (takeFolio vf s).mem := by
  unfold takeFolio; simp [h]

@[simp] theorem wf_discardSave {vf} : wf (discardSave vf s).mem := by
  unfold discardSave
  dsimp only
  exact wf_postEvent (by simpa using wf_foldl (fun _ _ hu => wf_killLaunch hu) (wf_dropReleased h))

@[simp] theorem wf_discardRestore {vf} : wf (discardRestore vf s).mem := by
  unfold discardRestore
  extract_lets c s1
  have h1 : wf s1.mem := by
    simp only [s1]
    split <;> simp [h]
  simpa using h1

end

/-! ### The binder, debugging and platform registers -/

section
variable {s : State} (h : wf s.mem)
include h

@[simp] theorem wf_boundaryStep {bt} : wf (boundaryStep bt s).mem := by
  unfold boundaryStep
  extract_lets b1 took b2 sens b3 s1 s2
  have h1 : wf s1.mem := h
  have h2 : wf s2.mem := wf_capture h1
  clear_value s2
  split
  · dsimp only
    apply wf_postEvent
    exact h2
  · exact h2

theorem wf_settleBoundary {t} (e : settleBoundary s = some t) : wf t.mem := by
  unfold settleBoundary at e
  split at e
  · cases e
  · split at e <;> cases e
    exact wf_boundaryStep h

@[simp] theorem wf_binderStore {off bytes value} : wf (binderStore off bytes value s).mem := by
  have h1 : wf ((settleBoundary s).getD s).mem := wf_getD (fun _ e => wf_settleBoundary h e) h
  unfold binderStore
  dsimp only
  split
  · split <;> simpa using h1
  · simpa using h

@[simp] theorem wf_dump {vf n} : wf (dump vf n s).mem := by
  unfold dump
  dsimp only
  split
  · simpa using h
  · split
    · simpa using h
    · split
      · next e => simpa using wf_writeGpa _ _ _ _ _ h e
      · simpa using h

@[simp] theorem wf_debugStore {vf off bytes value} : wf (debugStore vf off bytes value s).mem := by
  unfold debugStore
  dsimp only
  split
  · split <;> simp [h]
  · split <;> simp [h]
  · simp [h]

theorem wf_mmioStore {off size value t} (e : mmioStore off size value s = some t) : wf t.mem := by
  unfold mmioStore at e
  split at e
  · cases e; exact wf_binderStore h
  · split at e
    · cases e; exact wf_debugStore h
    · rwa [pmcStore_mem e]

theorem wf_whenReady {f : State → State} (hf : wf (f s).mem) : wf (whenReady f s).mem := by
  unfold whenReady
  split
  · exact hf
  · exact h

theorem wf_pfWrite {vf} {f : State → State} (hf : wf (f s).mem) : wf (pfWrite vf f s).mem := by
  unfold pfWrite
  split
  · exact h
  · split
    · split
      · exact h
      · simpa using h
    · exact hf

@[simp] theorem wf_dbgStore {vf byPf off bytes n} : wf (dbgStore vf byPf off bytes n s).mem := by
  unfold dbgStore
  split
  · exact wf_pfWrite h (wf_debugStore h)
  · exact wf_debugStore h

/-! ### Experts, task queues and launches -/

/-- The states that a write to a spill ring may leave keep the form. -/
def SpillEnd.Wf : SpillEnd → Prop
  | .done t => wf t.mem
  | .later t => wf t.mem
  | .refused => True

theorem wf_spillFail {env p} : (spillFail env p s).Wf := by
  unfold spillFail
  split <;> simp [SpillEnd.Wf, h]

theorem wf_spillWrite {vf x r} : (spillWrite vf x r s).Wf := by
  unfold spillWrite
  split
  · next e => exact wf_engineWrite h e
  · exact wf_spillFail h

theorem wf_spillWrite_done {vf x r t} (e : spillWrite vf x r s = .done t) : wf t.mem := by
  simpa [e, SpillEnd.Wf] using wf_spillWrite (vf := vf) (x := x) (r := r) h

theorem wf_spillWrite_later {vf x r t} (e : spillWrite vf x r s = .later t) : wf t.mem := by
  simpa [e, SpillEnd.Wf] using wf_spillWrite (vf := vf) (x := x) (r := r) h

@[simp] theorem wf_flushStaged {die vf e n} : wf (flushStaged die vf e n s).mem := by
  induction n generalizing s with
  | zero => exact h
  | succ n ih =>
    unfold flushStaged
    split
    · exact h
    · split
      · exact h
      · split
        · next e1 => exact ih (by simpa using wf_spillWrite_done h e1)
        · next e1 => exact wf_spillWrite_later h e1
        · exact h

@[simp] theorem wf_retrySpill {die vf e} : wf (retrySpill die vf e s).mem := by
  unfold retrySpill
  split
  · split <;> simp [h]
  · exact h

theorem wf_pushRecord {die vf e r t} (et : pushRecord die vf e r s = some t) : wf t.mem := by
  have h1 : wf (retrySpill die vf e s).mem := wf_retrySpill h
  unfold pushRecord at et
  dsimp only at et
  split at et
  · cases et
  · split at et
    · cases et
    · split at et
      · cases et; simp [h1]
      · split at et
        · split at et
          · cases et; simp [h1]
          · split at et
            · next e1 => cases et; simp [wf_spillWrite_done h1 e1]
            · next e1 => cases et; simp [wf_spillWrite_later h1 e1]
            · cases et
        · cases et

@[simp] theorem wf_reportSpill {die vf e} : wf (reportSpill die vf e s).mem := by
  unfold reportSpill
  split
  · split <;> simp [h]
  · exact h

theorem wf_fire {die vf e core slots reason t} (et : fire die vf e core slots reason s = some t) : wf t.mem := by
  have h1 : wf (retrySpill die vf e s).mem := wf_retrySpill h
  unfold fire at et
  dsimp only at et
  split at et
  · cases et
  · split at et
    · cases et
    · split at et
      · cases et
      · next s2 e2 =>
        cases et
        have h2 : wf s2.mem := by
          rw [takeLocks_mem e2]
          apply wf_takeCounts
          exact h1
        exact wf_captureFree (by simpa using wf_retrySpill (by simpa using h2))

@[simp] theorem wf_fireBetween {die slot} : wf (fireBetween die slot s).mem := by
  unfold fireBetween
  split
  · exact h
  · split
    · exact h
    · split
      · exact h
      · dsimp only
        split
        · exact wf_getD (fun _ e => wf_fire h e) h
        · exact h

theorem wf_writeLoss {lid l} : (writeLoss lid l s).Wf := by
  unfold writeLoss
  dsimp only
  split
  · exact h
  · split
    · next e => exact wf_engineWrite h e
    · simp [SpillEnd.Wf, h]
    · trivial
    · exact h

@[simp] theorem wf_completeLaunch {lid l} : wf (completeLaunch lid l s).mem := by
  unfold completeLaunch
  dsimp only
  split <;> simp [h]

@[simp] theorem wf_wakeSpills {vf} : wf (wakeSpills vf s).mem :=
  wf_foldl (fun _ _ hu => wf_foldl (fun _ _ hv => wf_retrySpill hv) hu) h

@[simp] theorem wf_retryFault {vf f} : wf (retryFault vf f s).mem := by
  unfold retryFault; simp [h]

@[simp] theorem wf_dropFiring {vf e f} : wf (dropFiring vf e f s).mem := wf_freeTeam (wf_dropLocks h)

@[simp] theorem wf_dropFirings {die mine} : wf (dropFirings die mine s).mem := by
  refine wf_foldl (fun u x hu => ?_) h
  split
  · simpa using wf_foldl (fun _ _ hv => wf_dropFiring hv) hu
  · exact hu

@[simp] theorem wf_endLaunches {vf} : wf (endLaunches vf s).mem := wf_foldl (fun _ _ hu => wf_killLaunch hu) h

@[simp] theorem wf_endTenancy {vf on salt} : wf (endTenancy vf on salt s).mem := by
  unfold endTenancy
  dsimp only
  simpa using wf_foldl (fun _ _ hu => wf_dropFirings hu) (wf_dropReleased (wf_endLaunches h))

@[simp] theorem wf_endOnDie {lid l} : wf (endOnDie lid l s).mem := by
  unfold endOnDie
  apply wf_killLaunch
  split <;> simp [h]

@[simp] theorem wf_resetHub : wf (resetHub s).mem :=
  wf_foldl (fun _ _ hu => wf_foldl (fun _ _ hv => wf_retryFault hv) hu) h

@[simp] theorem wf_resetDie {die} : wf (resetDie die s).mem := by
  unfold resetDie
  extract_lets s0 ls s1 s2 s3
  have h0 : wf s0.mem := by simp [s0, h]
  have h1 : wf s1.mem := wf_foldl (fun _ _ hu => wf_endOnDie hu) h0
  have h2 : wf s2.mem := wf_dropFirings h1
  have h3 : wf s3.mem := by
    refine wf_foldl (fun u x hu => ?_) h2
    dsimp only
    split <;> simpa using hu
  exact wf_wakeHeld (by simpa using h3)

theorem wf_pushValue {q v t} (e : pushValue q v s = some t) : wf t.mem := by
  unfold pushValue at e
  split at e <;> cases e
  simp [h]

theorem wf_takeEntry {q tail r} (e : takeEntry q tail s = some r) : wf r.2.mem := by
  unfold takeEntry at e
  split at e
  · cases e
  · dsimp only at e
    split at e
    all_goals
      obtain ⟨x, -, rfl⟩ := Option.map_eq_some_iff.mp e
      simp [h]

@[simp] theorem wf_takeEach {q tail ks} : wf (takeEach q tail ks s).2.2.mem := by
  induction ks generalizing s with
  | nil => exact h
  | cons k ks ih =>
    unfold takeEach
    split
    · next e => exact ih (wf_takeEntry h e)
    · exact ih h

theorem wf_eachSlot {step : Nat → State → Option State} (hs : ∀ k u t, wf u.mem → step k u = some t → wf t.mem) :
    wf (eachSlot step s).mem := by
  unfold eachSlot
  dsimp only
  rw [modMe_mem]
  refine List.foldlRecOn (motive := fun a : Nat × State => wf a.2.mem) _ _ h fun a ha k _ => ?_
  split
  · next e => exact hs _ _ _ ha e
  · exact ha

@[simp] theorem wf_vatomLanes {vf op v c ps old} : wf (vatomLanes vf op v c ps (old, s)).2.mem := by
  induction ps generalizing s old with
  | nil => exact h
  | cons p ps ih => exact ih (wf_atomicLane h)

end

/-! ## What a word may end with -/

@[simp] theorem Res.state_ite {c : Prop} [Decidable c] {a b : Res} :
    (if c then a else b).state = if c then a.state else b.state := apply_ite _ _ _ _

/-- Memory keeps its form in the state that a word ends in. (A definition of its own: two words that name accumulator elements are then
compared as they stand, and no address is computed.) -/
def Res.Wf (r : Res) : Prop := wf r.state.mem

@[simp] theorem badOperandW_state {word n} {s : State} : (badOperandW word n s).state = s := rfl

@[simp] theorem badOperand_state {i n} {s : State} : (badOperand i n s).state = s := rfl

@[simp] theorem badEt_state {i} {s : State} : (badEt i s).state = s := rfl

@[simp] theorem allotTrap_state {word reason} {s : State} : (allotTrap word reason s).state = s := rfl

@[simp] theorem jumpTo_state {t} {s : State} : (jumpTo t s).state = s := rfl

theorem issueCheck_mem {word uses r} {s : State} (e : issueCheck word uses s = some r) : r.state.mem = s.mem := by
  unfold issueCheck at e
  dsimp only at e
  (repeat' split at e) <;> cases e <;> simp

theorem elemLock_mem {lines write r} {s : State} (e : elemLock s lines write = some r) : r.state.mem = s.mem := by
  obtain ⟨x, -, rfl⟩ := Option.map_eq_some_iff.mp e
  exact failRes_state_mem

theorem elemBad_mem {lines r} {s : State} (e : elemBad s lines = some r) : r.state.mem = s.mem := by
  obtain ⟨d, -, rfl⟩ := Option.map_eq_some_iff.mp e
  rfl

theorem spawnCheck_mem {addrs r} {s : State} (e : spawnCheck s addrs = some r) : r.state.mem = s.mem := by
  unfold spawnCheck at e
  (repeat' split at e) <;> cases e <;> rfl

section
variable {s : State} (h : wf s.mem)
include h

@[simp] theorem wf_takeReturn : wf (takeReturn s).state.mem := by
  unfold takeReturn; simp [h]

@[simp] theorem wf_steppedReturn : wf (steppedReturn s).state.mem := by
  unfold steppedReturn; simp [h]

@[simp] theorem wf_capTrap {q reason} : wf (capTrap s q reason).state.mem := by
  unfold capTrap; simp [h]

@[simp] theorem wf_vecBody {f uses shape old lane src} : wf (vecBody f uses shape old lane s src).state.mem := by
  unfold vecBody; simp [h]

@[simp] theorem wf_moveBody {vd uses sh f src} : wf (moveBody vd uses sh f s src).state.mem := wf_vecBody h

@[simp] theorem wf_atScope {scp write body} (hb : wf body.state.mem) : wf (atScope scp write s body).state.mem := by
  unfold atScope; simp [h, hb]

@[simp] theorem wf_at64 {va write} {body : Nat → Res} (hb : wf (body va.toNat).state.mem) : wf (at64 va write s body).state.mem := by
  unfold at64; simp [h, hb]

@[simp] theorem wf_ownSeq {word body} (hb : wf body.state.mem) : wf (ownSeq word s body).state.mem := by
  unfold ownSeq; simp [h, hb]

/-! ### Loads, stores and atomics -/

@[simp] theorem wf_vecLoad {vd size signed ordered key addr} : wf (vecLoad vd size signed ordered key addr s).state.mem := by
  unfold vecLoad
  dsimp only
  split
  · next e => simpa [vecAccess_error_mem e] using h
  · next e => simp [vecAccess_ok_mem e, h]

@[simp] theorem wf_vecStore {size ordered data addr} : wf (vecStore size ordered data addr s).state.mem := by
  unfold vecStore
  dsimp only
  split
  · next e => simpa [vecAccess_error_mem e] using h
  · next e =>
    rw [Res.state_done, memGenMe_mem]
    exact wf_foldl (fun _ _ hu => wf_writeParts hu) (by rwa [vecAccess_ok_mem e])

@[simp] theorem wf_scalarLoad {sd size signed ordered key va} : wf (scalarLoad sd size signed ordered key va s).state.mem := by
  unfold scalarLoad
  split
  · exact h
  · split
    · next e => simpa [access_error_mem e] using h
    · next e1 =>
      split
      · simpa [access_ok_mem e1] using h
      · next e2 => simp [scalarFind_mem e2, access_ok_mem e1, h]

@[simp] theorem wf_scalarStore {word sd size ordered start va} : wf (scalarStore word sd size ordered start va s).state.mem := by
  unfold scalarStore
  split
  · exact h
  · split
    · next e => simpa [access_error_mem e] using h
    · next s1 e =>
      have h1 : wf s1.mem := by rwa [access_ok_mem e]
      simpa using wf_writeParts h1
    · next s1 e =>
      have h1 : wf s1.mem := by rwa [access_ok_mem e]
      split
      · split
        · split
          · next e2 => simpa [startStore_mem e2] using h1
          · exact h1
        · exact h1
      · exact h1
    · next s1 e =>
      have h1 : wf s1.mem := by rwa [access_ok_mem e]
      split
      · next e2 => simpa using wf_mmioStore h1 e2
      · exact h1

@[simp] theorem wf_sstBody {word o size} : wf (sstBody word o size s).state.mem := wf_scalarStore h

@[simp] theorem wf_tbWord {va read f} : wf (tbWord va read f s).state.mem := by
  unfold tbWord
  split
  · next e => simpa [tbAccess_error_mem e] using h
  · next s1 e =>
    have h1 : wf s1.mem := by rwa [tbAccess_ok_mem e]
    simpa using wf_writeParts h1

/-! ### Words that may wait -/

@[simp] theorem wf_tryBarw {o b} : wf (tryBarw o b s).state.mem := by
  unfold tryBarw
  split
  · next e => simpa [barLeave_mem e] using h
  · exact h

@[simp] theorem wf_tryBarinit {o} : wf (tryBarinit o s).state.mem := by
  unfold tryBarinit; simp [h]

@[simp] theorem wf_tryCleave : wf (tryCleave s).state.mem := by
  unfold tryCleave
  dsimp only
  split <;> simp [h]

@[simp] theorem wf_portTrap {n f} : wf (portTrap n f s).state.mem := by
  unfold portTrap; simp [h]

theorem wf_drainPorts {ns b} {done : State → Res} (hd : wf (done s).state.mem) : wf (drainPorts ns b s done).state.mem := by
  unfold drainPorts
  split
  · split
    · exact wf_portTrap h
    · exact h
  · simp [h, hd]

@[simp] theorem wf_trySdrain {o} : wf (trySdrain o s).state.mem := wf_drainPorts h (by simpa using h)

theorem wf_closeThen {n b} {done : State → Res} (hd : ∀ u, wf u.mem → wf (done u).state.mem) :
    wf (closeThen n b s done).state.mem := by
  unfold closeThen
  split
  · exact hd _ h
  · split
    · exact hd _ (by simpa using h)
    · exact wf_drainPorts h (hd _ (by simpa using h))

@[simp] theorem wf_trySclose {o} : wf (trySclose o s).state.mem := wf_closeThen h fun _ hu => hu

@[simp] theorem wf_acquireWait {r dest} : wf (acquireWait r dest s).state.mem := by
  unfold acquireWait; simp [h]

@[simp] theorem wf_acquireTry {r dest} : wf (acquireTry r dest s).state.mem := by
  unfold acquireTry; simp [h]

@[simp] theorem wf_tryPgrel {o} : wf (tryPgrel o s).state.mem := by
  unfold tryPgrel; simp [h]

@[simp] theorem wf_tryArel {o} : wf (tryArel o s).state.mem := by
  unfold tryArel; simp [h]

@[simp] theorem wf_tryKstart {o} : wf (tryKstart o s).state.mem := by
  unfold tryKstart
  dsimp only
  split
  · exact h
  · split
    · next e => simpa [accessRange_error_mem e] using h
    · next s1 e =>
      have h1 : wf s1.mem := by rwa [accessRange_ok_mem e]
      split
      · exact h1
      · split
        · exact h1
        · split
          · next e2 => simpa [enterColl_mem e2] using h1
          · exact h1

@[simp] theorem wf_tryKwait {o} : wf (tryKwait o s).state.mem := by
  unfold tryKwait
  split <;> simp [h]

@[simp] theorem wf_tryTwait {o} : wf (tryTwait o s).state.mem := by
  unfold tryTwait; simp [h]

@[simp] theorem wf_tryBclose {o} : wf (tryBclose o s).state.mem := by
  unfold tryBclose; simp [h]

@[simp] theorem wf_tryBwait {o} : wf (tryBwait o s).state.mem := by
  unfold tryBwait; simp [h]

@[simp] theorem wf_tryTbwait {o} : wf (tryTbwait o s).state.mem := by
  unfold tryTbwait
  split
  · next e => simpa [tbAccess_error_mem e] using h
  · next e => simp [tbAccess_ok_mem e, h]

end

/-! ## The outcomes of a step -/

/-- Memory keeps its form in the state that an outcome goes on with. -/
def NextWf (o : Out) : Prop := ∀ t, o = .next t → wf t.mem

/-- Memory keeps its form in the state that an event goes on with, where it happens. -/
def SomeWf (o : Option State) : Prop := ∀ t, o = some t → wf t.mem

@[simp] theorem nextWf_next {t : State} : NextWf (.next t) ↔ wf t.mem := by simp [NextWf]

@[simp] theorem nextWf_fault {f : Fault} : NextWf (.fault f) := by simp [NextWf]

@[simp] theorem nextWf_ite {c : Prop} [Decidable c] {a b : Out} : NextWf (if c then a else b) ↔ if c then NextWf a else NextWf b := by
  split <;> rfl

@[simp] theorem someWf_some {t : State} : SomeWf (some t) ↔ wf t.mem := by simp [SomeWf]

@[simp] theorem someWf_none : SomeWf none := by simp [SomeWf]

@[simp] theorem someWf_ite {c : Prop} [Decidable c] {a b : Option State} :
    SomeWf (if c then a else b) ↔ if c then SomeWf a else SomeWf b := by
  split <;> rfl

theorem someWf_map {α : Type} {o : Option α} {f : α → State} (hf : ∀ x, o = some x → wf (f x).mem) : SomeWf (o.map f) := by
  cases o with
  | none => exact someWf_none
  | some x => exact someWf_some.mpr (hf x rfl)

@[simp] theorem nextWf_event {name o} : NextWf (event name o) ↔ SomeWf o := by
  cases o <;> simp [event]

theorem wf_orStay {o : Out} {s : State} (h : wf s.mem) (ho : NextWf o) : wf (orStay o s).mem := by
  unfold orStay
  split
  · exact ho _ rfl
  · exact h

theorem nextWf_invalidate {name done o} (ho : NextWf o) : NextWf (invalidate name done o) := by
  unfold invalidate; simp [ho]

theorem nextWf_finish {r : Res} (hr : wf r.state.mem) : NextWf (finish r) := by
  cases r with
  | done t n => exact nextWf_next.mpr (wf_retire hr)
  | trap t code info => exact nextWf_next.mpr (wf_trapHere hr)
  | wait t b => exact nextWf_next.mpr (by simpa using hr)
  | ended t => exact nextWf_next.mpr hr

/-! ### The frames of words and events -/

section
variable {s : State} (h : wf s.mem)
include h

theorem nextWf_wordW {word uses} {body : State → List VReg → Res} (hb : ∀ src, wf (body s src).state.mem) :
    NextWf (wordW word uses s body) := by
  unfold wordW
  split
  · simp [h]
  · split
    · next e => exact nextWf_finish (by rwa [issueCheck_mem e])
    · have hr := hb (sourceRegs s.me uses [])
      split
      · next e => exact nextWf_finish (by simpa [e] using hr)
      · exact nextWf_finish hr

theorem nextWf_wordG {i uses} {body : State → List VReg → Res} (hb : ∀ src, wf (body s src).state.mem) :
    NextWf (wordG i uses s body) := nextWf_wordW h hb

theorem nextWf_wordM {word} {body : Nat → State → Out} (hb : ∀ c, NextWf (body c s)) : NextWf (wordM word s body) := by
  unfold wordM
  split
  · exact hb _
  · exact nextWf_finish h

theorem nextWf_wakeWord {name q f} (hf : ∀ b body, f b = some body → ∀ u : State, wf u.mem → wf (body u).state.mem) :
    NextWf (wakeWord name q s f) := by
  unfold wakeWord
  dsimp only
  split
  · next body _ e =>
    obtain ⟨b, -, eb⟩ := Option.bind_eq_some_iff.mp e
    have hr := hf b body eb { s with cur := .group q } h
    split
    · next e1 => simpa [e1] using wf_retire (by simpa [e1] using hr)
    · next e1 => simpa [e1] using wf_trapHere (by simpa [e1] using hr)
    · next e1 => simpa [e1] using hr
    · exact nextWf_fault
  · exact nextWf_fault

omit h in
theorem nextWf_cmdNow {name v id op pick} {f : Command → Answer} (hf : ∀ c, wf (f c).state.mem) :
    NextWf (cmdNow name v id op pick s f) := by
  unfold cmdNow
  rw [nextWf_event]
  split
  · next c _ => simp [wf_completeCmd, hf c]
  · exact someWf_none

theorem nextWf_configure {name sub limit vf id pick} {f : Command → Answer} (hf : ∀ c, wf (f c).state.mem) :
    NextWf (configure name sub limit vf id pick s f) := by
  refine nextWf_cmdNow fun c => ?_
  split
  · exact h
  · exact hf c

theorem nextWf_configurePf {name sub vf id} {f : Command → Answer} (hf : ∀ c, wf (f c).state.mem) :
    NextWf (configurePf name sub vf id s f) := by
  refine nextWf_cmdNow fun c => ?_
  split
  · exact h
  · split
    · exact h
    · exact hf c

theorem nextWf_queueWord {word uses sh n} {pre : State → Option Res} {body : W64 → State → List VReg → Res}
    (hp : ∀ r, pre s = some r → wf r.state.mem) (hb : ∀ x src, wf (body x s src).state.mem) :
    NextWf (queueWord word uses sh n pre s body) := by
  refine nextWf_wordW h fun src => ?_
  dsimp only
  split
  · next e => exact hp _ e
  · split
    · exact wf_capTrap h
    · exact hb _ src

theorem nextWf_accWord {word uses acc sb} {go : Nat → Nat → State → List VReg → Res}
    (hg : ∀ tile m src, (go tile m s src).Wf) : NextWf (accWord word uses acc sb s go) := by
  refine nextWf_wordW h fun src => ?_
  split
  · exact h
  · dsimp only
    split
    · exact h
    · exact hg _ _ src

theorem nextWf_ctxWord {word uses} {body : State → Res} (hb : wf (body s).state.mem) : NextWf (ctxWord word uses s body) := by
  refine nextWf_wordW h fun src => ?_
  split
  · next e => simpa [e] using hb
  · exact hb

theorem nextWf_debugWord {word o} {go : Nat → State → Res} (hg : ∀ q, wf (go q s).state.mem) :
    NextWf (debugWord word o s go) := by
  refine nextWf_wordW h fun src => ?_
  split
  · exact hg _
  · simpa using h

theorem nextWf_acquireWord {word res o} {go : AllotReq → Nat → State → Res} (hg : ∀ r d, wf (go r d s).state.mem) :
    NextWf (acquireWord word res o s go) := by
  refine nextWf_wordW h fun src => ?_
  simp [h, hg]

/-! ### The words of a sequencer -/

theorem nextWf_seqGoto {c pc} : NextWf (seqGoto c pc s) := by
  unfold seqGoto; simp [h]

theorem nextWf_seqNext {c} : NextWf (seqNext c s) := nextWf_seqGoto h

theorem nextWf_seqStop {c cause word} : NextWf (seqStop c cause word s) := nextWf_next.mpr (wf_seqFault h)

theorem nextWf_seqStall {c env word st p} : NextWf (seqStall c env word st p s) := by
  unfold seqStall; simp [h]

theorem nextWf_seqPlaces {c word write va n} {go : List (Nat × Nat) → Out} (hg : ∀ ps, NextWf (go ps)) :
    NextWf (seqPlaces c word write va n s go) := by
  unfold seqPlaces
  dsimp only
  split
  · exact nextWf_seqStall h
  · exact nextWf_next.mpr h
  · exact nextWf_seqStop h
  · split
    · exact nextWf_next.mpr h
    · exact hg _

theorem nextWf_seqRead {c word va n} {go : Nat → Out} (hg : ∀ x, NextWf (go x)) : NextWf (seqRead c word va n s go) := by
  refine nextWf_seqPlaces h fun ps => ?_
  split
  · exact nextWf_seqStop h
  · exact hg _

theorem nextWf_seqWrite {c word va bs} {go : State → Out} (hg : ∀ u, wf u.mem → NextWf (go u)) :
    NextWf (seqWrite c word va bs s go) := nextWf_seqPlaces h fun _ => hg _ (wf_writeParts h)

theorem nextWf_seqMisaligned {c word va n} : NextWf (seqMisaligned c word va n s) := by
  unfold seqMisaligned
  split <;> exact nextWf_seqStop h

theorem nextWf_doorbellTaken {c word door v} : NextWf (doorbellTaken c word door v s) := by
  refine nextWf_seqWrite h fun u hu => ?_
  split
  · exact nextWf_seqStop hu
  · exact nextWf_seqGoto (by simpa using hu)

/-! ### Words that do not decode -/

theorem nextWf_fetchFail {f} : NextWf (fetchFail s f) := by
  cases f with
  | held => exact nextWf_finish (r := .wait s .held) h
  | trap code info => exact nextWf_finish (r := .trap s code info) h
  | demand st p => exact nextWf_finish (r := .wait (raiseDemand _ st p s) _) (by simpa using h)
  | word w ts => exact nextWf_next.mpr h

theorem nextWf_rejectWord {w r} : NextWf (rejectWord s w r) := by
  unfold rejectWord
  split
  · exact nextWf_fetchFail h
  · split
    · exact nextWf_finish h
    · split <;> exact nextWf_finish h

/-! ### Families of words -/

theorem nextWf_branch {i uses off taken} : NextWf (branch i uses off taken s) :=
  nextWf_wordG h fun _ => by simp [h]

theorem nextWf_scalar2 {i o f} : NextWf (scalar2 i o f s) := nextWf_wordG h fun _ => by simpa using h

theorem nextWf_scalar1 {i o f} : NextWf (scalar1 i o f s) := nextWf_wordG h fun _ => by simpa using h

theorem nextWf_scalarImm {i o f} : NextWf (scalarImm i o f s) := nextWf_wordG h fun _ => by simpa using h

theorem nextWf_scalarShift {i o f} : NextWf (scalarShift i o f s) := nextWf_wordG h fun _ => by simpa using h

theorem nextWf_intVR {i o acc mask shape f} : NextWf (intVR i o acc mask shape f s) := nextWf_wordG h fun _ => wf_vecBody h

theorem nextWf_intVI {i o mask shape f} : NextWf (intVI i o mask shape f s) := nextWf_wordG h fun _ => wf_vecBody h

theorem nextWf_fpWord {i uses vd mask rounds f} : NextWf (fpWord i uses vd mask rounds f s) := by
  refine nextWf_wordG h fun _ => ?_
  dsimp only
  split
  · exact h
  · exact wf_vecBody h

theorem nextWf_signWord {i uses vd f} : NextWf (signWord i uses vd f s) := by
  refine nextWf_wordG h fun _ => ?_
  dsimp only
  split
  · exact h
  · exact wf_vecBody h

theorem nextWf_sfuWord {i o member} : NextWf (sfuWord i o member s) := nextWf_fpWord h

theorem nextWf_cmpWord {i o op} : NextWf (cmpWord i o op s) := nextWf_wordG h fun _ => by simpa using h

theorem nextWf_permWord {i uses vd wordBits mask shape f} : NextWf (permWord i uses vd wordBits mask shape f s) :=
  nextWf_wordG h fun _ => wf_vecBody h

theorem nextWf_slideWord {i o shape t} : NextWf (slideWord i o shape t s) := nextWf_permWord h

theorem nextWf_scanWord {i o kind exclusive} : NextWf (scanWord i o kind exclusive s) :=
  nextWf_wordG h fun _ => by simpa using h

theorem nextWf_redWord {i o kind} : NextWf (redWord i o kind s) := nextWf_wordG h fun _ => by simpa using h

theorem nextWf_predWord {i pd f} : NextWf (predWord i pd f s) := nextWf_wordG h fun _ => by simpa using h

theorem nextWf_predScalar {i o f} : NextWf (predScalar i o f s) := nextWf_wordG h fun _ => by simpa using h

theorem nextWf_vmLoad {i uses vd sb size signed addr} : NextWf (vmLoad i uses vd sb size signed addr s) := by
  refine nextWf_wordG h fun _ => ?_
  dsimp only
  split
  · simpa using h
  · exact wf_vecLoad h

theorem nextWf_vmStore {i o size addr} : NextWf (vmStore i o size addr s) := nextWf_wordG h fun _ => wf_vecStore h

theorem nextWf_satomWord {i uses op scp sd sa sb} : NextWf (satomWord i uses op scp sd sa sb s) := by
  refine nextWf_wordG h fun _ => wf_atScope h ?_
  dsimp only
  split
  · simpa using h
  · split
    · exact h
    · split <;> simp [wf_atomicLane, h]
  · exact h

theorem nextWf_satomOp {i o op} : NextWf (satomOp i o op s) := nextWf_satomWord h

theorem nextWf_vatomWord {i o uses op data cmp off} : NextWf (vatomWord i o uses op data cmp off s) := by
  refine nextWf_wordG h fun _ => wf_atScope h ?_
  dsimp only
  split
  · next e => simpa [vecAccess_error_mem e] using h
  · next ps s1 e =>
    have h1 : wf s1.mem := by rwa [vecAccess_ok_mem e]
    split <;> simp [h1]

theorem nextWf_vatomOp {i o op} : NextWf (vatomOp i o op s) := nextWf_vatomWord h

theorem nextWf_sldWord {i o fn size signed} : NextWf (sldWord i o fn size signed s) := by
  refine nextWf_wordG h fun _ => ?_
  dsimp only
  split
  · simpa using h
  · exact wf_scalarLoad h

theorem nextWf_sstWord {i o size} : NextWf (sstWord i o size s) := nextWf_wordG h fun _ => wf_sstBody h

theorem nextWf_popWord {word o tail} : NextWf (popWord word o tail s) := by
  unfold popWord
  refine nextWf_queueWord h (by simp) fun _ _ => ?_
  dsimp only
  split <;> simp [h]

end

/-! ## The words of groups, each where it is more than its frame -/

section
variable {s : State} (h : wf s.mem)
include h

theorem wf_elemLock {lines write r} (e : elemLock s lines write = some r) : r.Wf := by
  rwa [Res.Wf, elemLock_mem e]

theorem wf_elemBad {lines r} (e : elemBad s lines = some r) : r.Wf := by
  rwa [Res.Wf, elemBad_mem e]

theorem wf_rangeCheck_error {write va n r} (e : rangeCheck s write va n = .error r) : r.Wf := by
  rwa [Res.Wf, rangeCheck_error_mem e]

theorem nextWf_execCjoin {o} : NextWf (execCjoin o s) := by
  refine nextWf_wordG h fun _ => ?_
  split <;> simpa using h

theorem nextWf_execBar {o} : NextWf (execBar o s) :=
  nextWf_wordG h fun _ => by simp [h]

theorem nextWf_execBarinit {o} : NextWf (execBarinit o s) :=
  nextWf_wordG h fun _ => by simp [h]

theorem nextWf_execSopen {o} : NextWf (execSopen o s) := by
  refine nextWf_wordG h fun _ => ?_
  dsimp only
  split
  · next e => simpa [readRecord64_error_mem e] using h
  · next rec' s1 e =>
    have h1 : wf s1.mem := by rwa [readRecord64_ok_mem e]
    split
    · exact h1
    · refine wf_closeThen h1 fun u hu => ?_
      split <;> simpa using hu

theorem nextWf_execVrel {o} : NextWf (execVrel o s) := by
  refine nextWf_wordW h fun _ => ?_
  dsimp only
  split
  · exact h
  · split
    · exact h
    · rw [Res.state_done, dropReturns_mem]
      exact wf_foldl (fun _ _ hu => by simpa using hu) (by simpa using h)

theorem nextWf_execMrel : NextWf (execMrel s) := nextWf_wordW h fun _ => by simp [h]

theorem nextWf_execRep {o} : NextWf (execRep o s) := by
  refine nextWf_wordG h fun _ => ?_
  dsimp only
  split
  · exact h
  · simpa using h
  · exact h
  · split
    · exact h
    · split
      · exact h
      · simpa using h

theorem nextWf_execLexit : NextWf (execLexit s) := nextWf_wordG h fun _ => by simp [h]

theorem nextWf_execTrap {o} : NextWf (execTrap o s) :=
  nextWf_wordG h fun _ => wf_takeTrap (by simpa using wf_retireWord h)

theorem nextWf_execEret : NextWf (execEret s) := nextWf_wordG h fun _ => by simp [h]

theorem nextWf_execSysc {o} : NextWf (execSysc o s) := by
  refine nextWf_wordG h fun _ => ?_
  dsimp only
  split
  · exact h
  · split
    · next e => simpa [access_error_mem e] using h
    · next s1 e =>
      have h1 : wf s1.mem := by rwa [access_ok_mem e]
      split
      · exact h1
      · split
        · exact h1
        · simpa using h1
    · next e => simpa [access_ok_mem e] using h

theorem nextWf_execLoop {o} : NextWf (execLoop o s) := by
  unfold execLoop
  dsimp only
  split
  · refine nextWf_wordG h fun _ => ?_
    split <;> simpa using h
  · refine nextWf_wordG h fun _ => ?_
    split
    · exact h
    · split <;> exact h

theorem nextWf_execAdrain {o} : NextWf (execAdrain o s) := by
  unfold execAdrain
  refine nextWf_accWord h fun _ _ _ => ?_
  extract_lets +onlyGivenNames g core q lines
  cases e : elemLock s lines false with
  | some r => exact wf_elemLock h e
  | none =>
    dsimp -zeta only
    extract_lets +onlyGivenNames mask
    cases e2 : elemBad s (drainLines core _ _ q mask) with
    | some r => exact wf_elemBad h e2
    | none =>
      dsimp -zeta only
      extract_lets +onlyGivenNames env run
      clear_value run
      simpa [Res.Wf] using h

theorem nextWf_execAdrainRaw {o} : NextWf (execAdrainRaw o s) := by
  unfold execAdrainRaw
  refine nextWf_accWord h fun _ _ _ => ?_
  extract_lets +onlyGivenNames core r n a lines
  cases e : rangeCheck s true a (33 * n) with
  | error r => exact wf_rangeCheck_error h e
  | ok p =>
    obtain ⟨ps, ts⟩ := p
    cases e2 : elemLock s lines false with
    | some r => exact wf_elemLock h e2
    | none =>
      dsimp -zeta only
      clear_value lines n
      split
      · exact h
      · split
        · next e3 => exact wf_elemBad h (Option.ite_none_left_eq_some.mp e3).2
        · simp [Res.Wf, h]

theorem nextWf_execAfill {o} : NextWf (execAfill o s) := by
  unfold execAfill
  refine nextWf_accWord h fun tile m _ => ?_
  extract_lets +onlyGivenNames g core q
  cases e : elemLock s (elemLines core tile m (32 * q) 32) true with
  | some r => exact wf_elemLock h e
  | none =>
    dsimp -zeta only
    extract_lets +onlyGivenNames x
    rw [Res.Wf, Res.state_done, fillRange_mem]
    refine wf_foldl (fun u k hu => ?_) h
    split
    · exact wf_writeElem hu
    · exact hu

theorem nextWf_execAfillRaw {o} : NextWf (execAfillRaw o s) := by
  unfold execAfillRaw
  refine nextWf_accWord h fun tile m _ => ?_
  extract_lets +onlyGivenNames core a
  cases e : rangeCheck s false a 4224 with
  | error r => exact wf_rangeCheck_error h e
  | ok p =>
    obtain ⟨ps, ts⟩ := p
    cases e2 : elemLock s (elemLines core tile m 0 128) true with
    | some r => exact wf_elemLock h e2
    | none =>
      dsimp -zeta only
      split
      · exact h
      · split
        · exact h
        · extract_lets +onlyGivenNames bs
          rw [Res.Wf, Res.state_done, fillRange_mem]
          exact wf_foldl (fun _ _ hu => wf_writeElem hu) (by simpa using h)

theorem nextWf_execSget {o} : NextWf (execSget o s) := by
  unfold execSget
  split
  · exact nextWf_wordG h fun _ => h
  · exact nextWf_wordG h fun _ => by simpa using h

theorem nextWf_execSset {o} : NextWf (execSset o s) := by
  unfold execSset
  split
  · exact nextWf_wordG h fun _ => h
  · exact nextWf_wordG h fun _ => h
  · exact nextWf_wordG h fun _ => by simp [h]

theorem nextWf_execVbperm {o} : NextWf (execVbperm o s) := nextWf_wordG h fun _ => by simp [h]

theorem nextWf_execVquad {o} : NextWf (execVquad o s) := by
  unfold execVquad
  dsimp only
  split
  · exact nextWf_slideWord h
  · refine nextWf_wordG h fun _ => ?_
    split
    · exact h
    · exact wf_vecBody h

theorem nextWf_execVdot2 {o} : NextWf (execVdot2 o s) := by
  refine nextWf_wordG h fun _ => ?_
  dsimp only
  split
  · exact wf_vecBody h
  · exact wf_vecBody h
  · exact h

theorem nextWf_execVdot4i {o} : NextWf (execVdot4i o s) := nextWf_wordG h fun _ => by simp [h]

/-! ### The words of contexts and of debugging -/

theorem nextWf_execCdrain {o} : NextWf (execCdrain o s) := by
  refine nextWf_ctxWord h (wf_at64 h ?_)
  dsimp only
  split
  · next e => simpa [accessRange_error_mem e] using h
  · next ps s1 e =>
    have h1 : wf s1.mem := by rwa [accessRange_ok_mem e]
    have h2 := wf_foldl (f := fun (u : State) (e : Nat × Copy) => advanceCopy e.1 e.2 u) (fun _ _ hu => wf_advanceCopy hu)
      (l := myCopies s) h1
    rw [Res.state_done, putS_mem]
    exact wf_writeParts (wf_foldl (fun _ _ hu => by simpa using wf_dropCopy (wf_cancelCopy hu)) h2)

theorem nextWf_execCstate {o} : NextWf (execCstate o s) := by
  refine nextWf_ctxWord h ?_
  split <;> simpa using h

theorem nextWf_execCload {o} : NextWf (execCload o s) := by
  refine nextWf_ctxWord h ?_
  split
  · next e => simpa [writeItem_mem e] using h
  · exact h

theorem nextWf_execCsaved {o} : NextWf (execCsaved o s) := by
  refine nextWf_ctxWord h (wf_at64 h ?_)
  simp [h]

theorem nextWf_execCrestart {o} : NextWf (execCrestart o s) := by
  refine nextWf_ctxWord h (wf_at64 h ?_)
  split
  · next e => simpa [readRecord_error_mem e] using h
  · next bs s1 e =>
    have h1 : wf s1.mem := by rwa [readRecord_ok_mem e]
    split
    · exact h1
    · split
      · next e2 => simpa [restartCopy_mem e2] using h1
      · exact h1

theorem nextWf_execMsave {o} : NextWf (execMsave o s) := by
  refine nextWf_ctxWord h (wf_at64 h (wf_ownSeq h ?_))
  split
  · next e => simpa [accessRange_error_mem e] using h
  · next ps s1 e =>
    have h1 : wf s1.mem := by rwa [accessRange_ok_mem e]
    exact wf_writeParts (wf_holdSeq h1)

theorem nextWf_execMload {o} : NextWf (execMload o s) := by
  refine nextWf_ctxWord h (wf_at64 h (wf_ownSeq h ?_))
  split
  · next e => simpa [readRecord_error_mem e] using h
  · next bs s1 e =>
    have h1 : wf s1.mem := by rwa [readRecord_ok_mem e]
    exact wf_loadImage (wf_holdSeq h1)

theorem nextWf_execDhalt {o} : NextWf (execDhalt o s) := by
  refine nextWf_debugWord h fun q => ?_
  dsimp only
  simp [h]

theorem nextWf_execDresume {o} : NextWf (execDresume o s) := nextWf_debugWord h fun _ => by simp [h]

theorem nextWf_execDstep {o} : NextWf (execDstep o s) := nextWf_debugWord h fun _ => by simp [h]

theorem nextWf_execDunpin {o} : NextWf (execDunpin o s) := nextWf_debugWord h fun _ => by simp [h]

theorem nextWf_execMbox {o} : NextWf (execMbox o s) := nextWf_wordW h fun _ => by simp [h]

theorem nextWf_execBpset {o} : NextWf (execBpset o s) := by
  unfold execBpset
  refine nextWf_wordW h fun _ => ?_
  dsimp only
  split
  · exact h
  · split
    · exact h
    · split
      · next e => simpa [access_error_mem e] using h
      · next s1 e =>
        have h1 : wf s1.mem := by rwa [access_ok_mem e]
        split
        · exact h1
        · split <;> simpa using h1
      · next e => simpa [access_ok_mem e] using h

/-! ### The words of queues -/

theorem nextWf_execTspawn {o} : NextWf (execTspawn o s) := by
  unfold execTspawn
  refine nextWf_queueWord h (fun r e => ?_) fun x _ => ?_
  · dsimp only at e
    split at e
    · cases e; exact h
    · cases e
  · dsimp only
    split
    · next e => simpa [spawnCheck_mem e] using h
    · rw [Res.state_done]
      refine wf_eachSlot h fun k u t hu e => ?_
      split at e <;> cases e
      exact wf_pushTask hu

theorem nextWf_execQpush {o} : NextWf (execQpush o s) := by
  unfold execQpush
  refine nextWf_queueWord h (by simp) fun x _ => ?_
  exact wf_eachSlot h fun k u t hu e => wf_pushValue hu e

theorem nextWf_execEqpush {o} : NextWf (execEqpush o s) := by
  unfold execEqpush
  refine nextWf_queueWord h (by simp) fun x _ => ?_
  dsimp only
  split
  · exact h
  · split
    · next e => simpa [vecAccess_error_mem e] using h
    · next ps s1 e =>
      have h1 : wf s1.mem := by rwa [vecAccess_ok_mem e]
      split
      · exact h1
      · rw [Res.state_done, modMe_mem]
        refine List.foldlRecOn (motive := fun a : Nat × State => wf a.2.mem) _ _ h1 fun a ha k _ => ?_
        split
        · exact ha
        · split
          · next e2 => exact wf_fireBetween (wf_pushRecord ha e2)
          · exact wf_fireBetween (wf_reportSpill ha)

theorem nextWf_execEqfire {o} : NextWf (execEqfire o s) := by
  unfold execEqfire
  refine nextWf_queueWord h (by simp) fun x _ => ?_
  simp [h]

/-! ### The words of a sequencer -/

theorem nextWf_seqSet {c n v} : NextWf (seqSet c n v s) := by
  unfold seqSet
  exact nextWf_seqNext (by simpa using h)

theorem nextWf_execMbnz {o} : NextWf (execMbnz o s) := by
  refine nextWf_wordM h fun c => ?_
  split
  · exact nextWf_seqGoto h
  · exact nextWf_seqNext h

theorem nextWf_execMldfb {o} : NextWf (execMldfb o s) := by
  unfold execMldfb
  refine nextWf_wordM h fun c => ?_
  dsimp only
  split
  · exact nextWf_seqMisaligned h
  · refine nextWf_seqRead h fun n => ?_
    split
    · exact nextWf_seqNext (by simpa using h)
    · exact nextWf_seqStop h

theorem nextWf_execMring {o} : NextWf (execMring o s) := by
  unfold execMring
  refine nextWf_wordM h fun c => ?_
  dsimp only
  split
  · exact nextWf_next.mpr h
  · split
    · exact nextWf_seqMisaligned h
    · refine nextWf_seqRead h fun n => ?_
      split
      · exact nextWf_seqNext (by simpa using h)
      · exact nextWf_seqStop h

theorem nextWf_execMzero {o} : NextWf (execMzero o s) := by
  unfold execMzero
  refine nextWf_wordM h fun c => ?_
  split
  · exact nextWf_seqStop h
  · split
    · exact nextWf_next.mpr h
    · exact nextWf_seqNext (wf_clearTile h)

theorem nextWf_execMwait {o} : NextWf (execMwait o s) := by
  refine nextWf_wordM h fun c => ?_
  split
  · exact nextWf_seqNext h
  · exact nextWf_next.mpr h

theorem nextWf_execMsig {o} : NextWf (execMsig o s) := by
  unfold execMsig
  refine nextWf_wordM h fun c => ?_
  extract_lets va s1
  have h1 : wf s1.mem := by simpa [s1] using h
  split
  · exact nextWf_seqStop h
  · split
    · exact nextWf_seqStop h
    · split
      · exact nextWf_next.mpr h1
      · split
        · exact nextWf_seqStop h1
        · split
          · exact nextWf_next.mpr h1
          · exact nextWf_seqNext (wf_tbModify h1)

theorem nextWf_execMfetch {o} : NextWf (execMfetch o s) := by
  unfold execMfetch
  refine nextWf_wordM h fun c => ?_
  dsimp only
  split
  · exact nextWf_seqMisaligned h
  · refine nextWf_seqRead h fun n => ?_
    split
    · exact nextWf_next.mpr (by simpa using h)
    · exact nextWf_doorbellTaken h

theorem nextWf_execMend : NextWf (execMend s) := nextWf_wordM h fun _ => nextWf_seqNext (by simpa using h)

theorem nextWf_execMtime {o} : NextWf (execMtime o s) := by
  refine nextWf_wordM h fun c => ?_
  dsimp only
  split
  · exact nextWf_seqNext h
  · exact nextWf_next.mpr (by simpa using h)

theorem nextWf_execMpop {o} : NextWf (execMpop o s) := by
  unfold execMpop
  refine nextWf_wordM h fun c => ?_
  split
  · exact nextWf_seqStop h
  · split
    · exact nextWf_next.mpr h
    · exact nextWf_seqWrite h fun u hu => nextWf_seqNext hu

theorem nextWf_execMfetchDoorbellWrite {c} : NextWf (execMfetchDoorbellWrite c s) := by
  unfold execMfetchDoorbellWrite
  dsimp only
  split
  · split
    · simp
    · refine nextWf_seqRead h fun n => ?_
      split
      · exact nextWf_next.mpr h
      · exact nextWf_doorbellTaken h
  · simp

theorem nextWf_execMma {o} : NextWf (execMma o s) := by
  unfold execMma
  refine nextWf_wordM h fun c => ?_
  dsimp only
  split
  · exact nextWf_next.mpr h
  · split
    · split
      · exact nextWf_seqStop h
      · refine nextWf_seqRead h fun ta => nextWf_seqRead h fun tb => ?_
        split
        · exact nextWf_next.mpr h
        · split
          · exact nextWf_next.mpr h
          · split
            · exact nextWf_seqStop h
            · exact nextWf_next.mpr h
            · next s1 e => exact nextWf_seqNext (wf_captureFree (by rwa [mmaIssue_mem e]))
    · exact nextWf_seqStop h

theorem nextWf_execKStepBoundary {c} : NextWf (execKStepBoundary c s) := by
  unfold execKStepBoundary
  split
  · exact nextWf_next.mpr (wf_lockFault h)
  · simp
  · next s1 m e =>
    have h1 : wf s1.mem := by rwa [lockedHead_mem e]
    split
    · exact nextWf_event.mpr (someWf_map fun r er => wf_runStep h1 er)
    · simp

theorem nextWf_execMmaComplete {c} : NextWf (execMmaComplete c s) := by
  unfold execMmaComplete
  split
  · exact nextWf_next.mpr (wf_lockFault h)
  · simp
  · next s1 m e =>
    have h1 : wf s1.mem := by rwa [lockedHead_mem e]
    split
    · exact nextWf_next.mpr (wf_mmaDone h1)
    · split
      · refine nextWf_event.mpr (someWf_map fun r er => ?_)
        have hr : wf r.1.mem := wf_runStep h1 er
        split
        · exact wf_mmaDone hr
        · exact hr
      · simp

theorem nextWf_execMtimeExpiry {c} : NextWf (execMtimeExpiry c s) := by
  unfold execMtimeExpiry
  split
  · split
    · exact nextWf_seqNext h
    · simp
  · simp

end

/-! ## The events, each where it is more than its frame -/

section
variable {s : State} (h : wf s.mem)
include h

/-! ### Queues, commands and copies -/

theorem nextWf_execWakeRefill : NextWf (execWakeRefill s) := by
  unfold execWakeRefill; simp [h]

theorem nextWf_execNotify {vf queue} : NextWf (execNotify vf queue s) := by
  unfold execNotify
  rw [nextWf_event]
  split
  · exact someWf_none
  · dsimp only
    split
    · simp [h]
    · simpa using wf_scanQueue (by simpa using wf_refill h)

theorem nextWf_execTemplateLoad {vf id} : NextWf (execTemplateLoad vf id s) := by
  refine nextWf_cmdNow fun c => ?_
  dsimp only
  split
  · exact h
  · split
    · exact h
    · split
      · exact h
      · split
        · exact h
        · split
          · simpa using h
          · exact h

theorem nextWf_execCopyComplete {id} : NextWf (execCopyComplete id s) := by
  unfold execCopyComplete
  rw [nextWf_event]
  split
  · exact someWf_none
  · next c _ =>
    split
    · exact someWf_none
    · split
      · exact someWf_none
      · next s0 e0 =>
        have hr : (runCopy id c s0).Wf := wf_runCopy (by rwa [settleLocks_mem e0])
        split
        · next e =>
          rw [e] at hr
          split
          · exact someWf_none
          · exact someWf_some.mpr (wf_finishCopy hr)
        · next e =>
          rw [e] at hr
          exact someWf_some.mpr hr
        · exact someWf_none

theorem nextWf_execCopyFail {id code} : NextWf (execCopyFail id code s) := by
  unfold execCopyFail
  rw [nextWf_event]
  split
  · exact someWf_none
  · next c _ =>
    dsimp only
    split
    · exact someWf_none
    · split
      · split
        · split <;> simp [h]
        · exact someWf_none
      · split
        · split <;> simp [h]
        · split
          · exact someWf_none
          · have hr : (runCopy id c s).Wf := wf_runCopy h
            split
            · next e =>
              rw [e] at hr
              split
              · exact someWf_none
              · rw [someWf_some]
                split
                · exact wf_postBoth (wf_failCopy hr)
                · exact wf_failCopy hr
            · exact someWf_none

theorem nextWf_execCopy {vf id} : NextWf (execCopy vf id s) := by
  unfold execCopy
  rw [nextWf_event]
  split
  · exact someWf_none
  · dsimp only
    split
    · simp [h]
    · split
      · simp [h]
      · intro t e
        simpa [enterCopy_mem e] using h

theorem nextWf_execDumpRead {vf id} : NextWf (execDumpRead vf id s) := by
  unfold execDumpRead
  rw [nextWf_event]
  split
  · exact someWf_none
  · dsimp only
    split
    · simp [h]
    · split
      · simp [h]
      · split
        · simp [h]
        · exact someWf_some.mpr (wf_completeCmd (wf_scatterBytes (by simpa using h)))

theorem nextWf_execFeaturesOk {vf status} : NextWf (execFeaturesOk vf status s) := by
  unfold execFeaturesOk; simp [h]

theorem nextWf_execQueueEnable {vf} : NextWf (execQueueEnable vf s) := by
  unfold execQueueEnable
  rw [nextWf_event]
  split
  · exact someWf_none
  · split
    · exact someWf_none
    · split <;> simp [h]

theorem nextWf_execQueueReset {vf} : NextWf (execQueueReset vf s) := by
  unfold execQueueReset
  rw [nextWf_event]
  split
  · exact someWf_none
  · split
    · exact someWf_none
    · simp [h]

theorem nextWf_execQueueResetDone {vf queue} : NextWf (execQueueResetDone vf queue s) := by
  unfold execQueueResetDone; simp [h]

theorem nextWf_execCopyNbtStart {id} : NextWf (execCopyNbtStart id s) := by
  unfold execCopyNbtStart
  rw [nextWf_event]
  split <;> simp [h]

/-! ### Groups, streams and allotments -/

theorem nextWf_execRegisterReturn {id} : NextWf (execRegisterReturn id s) := by
  unfold execRegisterReturn
  exact nextWf_event.mpr (someWf_map fun _ _ => by simpa using h)

theorem nextWf_execStreamReadFill {q port} : NextWf (execStreamReadFill q port s) := by
  unfold execStreamReadFill
  rw [nextWf_event]
  split
  · exact someWf_none
  · dsimp only
    split
    · exact someWf_none
    · split <;> simp [h]

theorem nextWf_execStreamWritePerform {q port} : NextWf (execStreamWritePerform q port s) := by
  unfold execStreamWritePerform
  rw [nextWf_event]
  split
  · exact someWf_none
  · next p _ =>
    split
    · exact someWf_none
    · next vals mask rest _ =>
      split
      · exact someWf_none
      · have h1 : wf (streamStore q p.tlr p.pos vals mask 32 s).1.mem := wf_streamStore h
        split
        · next e =>
          rw [e] at h1
          simpa using h1
        · next e =>
          rw [e] at h1
          dsimp only
          split
          · simpa using h1
          · simpa using h1
          · split
            · exact someWf_none
            · simpa using h1

theorem nextWf_execAllotGrant {core res} : NextWf (execAllotGrant core res s) := by
  unfold execAllotGrant
  dsimp only
  split
  · simp
  · split
    · refine nextWf_wakeWord h fun b body e u hu => ?_
      split at e <;> cases e
      rw [Res.state_done, putS_mem]
      exact wf_grantReq (by simpa using hu)
    · split
      · refine nextWf_wakeWord h fun b body e u hu => ?_
        split at e <;> cases e
        simpa using wf_refuseReq hu
      · simp

theorem nextWf_execActiveSetEnter {q} : NextWf (execActiveSetEnter q s) := by
  unfold execActiveSetEnter
  rw [nextWf_event]
  dsimp only
  split
  · exact someWf_none
  · split
    · simp [h]
    · exact someWf_map fun _ _ => by simpa using h

theorem nextWf_execBlockedEvict {q} : NextWf (execBlockedEvict q s) := by
  unfold execBlockedEvict; simp [h]

theorem nextWf_execYieldHoldExpiry {q} : NextWf (execYieldHoldExpiry q s) := by
  unfold execYieldHoldExpiry; simp [h]

theorem nextWf_execAging {q} : NextWf (execAging q s) := by
  unfold execAging
  rw [nextWf_event]
  dsimp only
  split
  · exact someWf_none
  · split
    · simp [h]
    · split
      · simp [h]
      · exact someWf_map fun _ _ => by simpa using h

theorem nextWf_execSyscAnswer {handle answer bytes} : NextWf (execSyscAnswer handle answer bytes s) := by
  unfold execSyscAnswer
  rw [nextWf_event]
  split
  · exact someWf_none
  · split
    · exact someWf_none
    · split
      · simpa using h
      · split
        · exact someWf_map fun _ e => by simpa using wf_syscEffect h e
        · refine someWf_map fun t e => ?_
          exact wf_syscEffect (t := t) h e

/-! ### Collectives -/

theorem nextWf_execCollectiveStart {die id agree} : NextWf (execCollectiveStart die id agree s) := by
  unfold execCollectiveStart
  rw [nextWf_event]
  split
  · exact someWf_none
  · split
    · exact someWf_none
    · split
      · split <;> simp [h]
      · split
        · exact someWf_none
        · split
          · simp [h]
          · split
            · exact fun t e => wf_stopColl h e
            · simp [h]

theorem nextWf_execCollectiveStep {die id rank data} : NextWf (execCollectiveStep die id rank data s) := by
  unfold execCollectiveStep
  rw [nextWf_event]
  split
  · exact someWf_none
  · split
    · exact someWf_none
    · split
      · exact someWf_none
      · split
        · refine someWf_some.mpr (wf_dropPacket ?_)
          split
          · exact h
          · exact wf_failColl h
        · split
          · simp [h]
          · split
            · exact someWf_none
            · next s0 e0 =>
              have h0 : wf s0.mem := by rwa [collSettle_mem e0]
              split
              · split
                · exact fun t e => wf_takeBlock h0 e
                · split
                  · exact fun t e => wf_stopColl h0 e
                  · extract_lets c1 s1
                    have h1 : wf s1.mem := by simp [s1, h0]
                    exact someWf_some.mpr (wf_getD (fun t e => wf_takeBlock h1 e) h1)
              · exact fun t e => wf_takeBlock h0 e

theorem nextWf_execCollectiveComplete {die id} : NextWf (execCollectiveComplete die id s) := by
  unfold execCollectiveComplete
  rw [nextWf_event]
  split
  · exact someWf_none
  · split
    · exact someWf_none
    · extract_lets failed s1
      have h1 : wf s1.mem := by simp [s1, h]
      exact someWf_some.mpr <| wf_getD (fun t e => wf_tbEngine h1 e) (wf_postColl h1)

theorem nextWf_execCollWatchdogExpiry {die id} : NextWf (execCollWatchdogExpiry die id s) := by
  unfold execCollWatchdogExpiry
  rw [nextWf_event]
  split <;> simp [h]

/-! ### Admission and contexts -/

theorem nextWf_execTeamAdmit {core vf} : NextWf (execTeamAdmit core vf s) := by
  unfold execTeamAdmit
  rw [nextWf_event]
  split
  · exact someWf_map fun _ _ => wf_admitTeam h
  · exact someWf_none

theorem nextWf_execGatherTimerExpiry {die vf index} : NextWf (execGatherTimerExpiry die vf index s) := by
  unfold execGatherTimerExpiry
  rw [nextWf_event]
  split
  · exact someWf_none
  · split
    · exact someWf_none
    · exact someWf_map fun _ _ => wf_launchWave h

theorem nextWf_execPreempt {vf} : NextWf (execPreempt vf s) :=
  nextWf_next.mpr (wf_pfWrite h (by simp [h]))

theorem nextWf_execSliceExpiry {vf} : NextWf (execSliceExpiry vf s) := by
  unfold execSliceExpiry; simp [h]

theorem nextWf_execGroupStop {q} : NextWf (execGroupStop q s) := by
  unfold execGroupStop
  rw [nextWf_event]
  split
  · exact someWf_none
  · dsimp only
    have h1 : ∀ {die cls vf cg}, wf (captureFree die cls vf cg (settleGroup q s)).mem := wf_captureFree (by simpa using h)
    split
    · simp [h1]
    · split <;> simp [h1]

theorem nextWf_execSaveHandlerTimeout {vf q} : NextWf (execSaveHandlerTimeout vf q s) := by
  unfold execSaveHandlerTimeout; simp [h]

theorem nextWf_execFolioWrite {vf} : NextWf (execFolioWrite vf s) := by
  unfold execFolioWrite; simp [h]

theorem nextWf_execRestore {vf} : NextWf (execRestore vf s) :=
  nextWf_next.mpr (wf_pfWrite h (by simp [h]))

theorem nextWf_execFolioRestore {vf cores} : NextWf (execFolioRestore vf cores s) := by
  unfold execFolioRestore
  rw [nextWf_event]
  dsimp only
  split
  · split <;> simp [h]
  · split
    · simp [h]
    · split
      · exact someWf_none
      · split
        · simp [h]
        · split
          · simp [h]
          · split
            · exact someWf_none
            · split
              · simp [h]
              · exact someWf_map fun t e => wf_takeFolio (by simpa using wf_restoreFolio h e)
  · exact someWf_none

theorem nextWf_execResumeSave {vf} : NextWf (execResumeSave vf s) :=
  nextWf_next.mpr (wf_pfWrite h (by simp [h]))

theorem nextWf_execDiscard {vf} : NextWf (execDiscard vf s) :=
  nextWf_next.mpr (wf_pfWrite h (by simp [h]))

theorem nextWf_execExportImage {vf} : NextWf (execExportImage vf s) := by
  refine nextWf_next.mpr (wf_pfWrite h ?_)
  dsimp only
  split
  · exact h
  · split
    · simpa using h
    · split
      · exact wf_foldl (fun _ _ hu => wf_writeUpTo hu) h
      · simpa using h

/-! ### The binder, debugging and the platform -/

theorem nextWf_execBinderBoundary : NextWf (execBinderBoundary s) :=
  nextWf_event.mpr fun _ e => wf_settleBoundary h e

theorem nextWf_whenReady_binderStore {off bytes value} : NextWf (.next (whenReady (binderStore off bytes value) s)) :=
  nextWf_next.mpr (wf_whenReady h (wf_binderStore h))

theorem nextWf_execKnobWrite {vf value} : NextWf (execKnobWrite vf value s) := by
  unfold execKnobWrite
  simp [wf_whenReady h (wf_binderStore h)]

theorem nextWf_execBinderIdleWrite {off bytes value} : NextWf (execBinderIdleWrite off bytes value s) := by
  unfold execBinderIdleWrite
  simp [wf_whenReady h (wf_binderStore h)]

theorem nextWf_execGroupHalt {q} : NextWf (execGroupHalt q s) := by
  unfold execGroupHalt
  rw [nextWf_event]
  dsimp only
  split
  · split <;> simp [h]
  · exact someWf_none

theorem nextWf_execCorrectedError {die vf core code} : NextWf (execCorrectedError die vf core code s) := by
  unfold execCorrectedError; simp [h]

theorem nextWf_execUncorrectedError {source vf line pa} : NextWf (execUncorrectedError source vf line pa s) := by
  unfold execUncorrectedError
  refine nextWf_next.mpr (wf_postBoth ?_)
  split
  · simpa using h
  · split
    · simpa using h
    · exact h

theorem nextWf_execDieHold {die cause} : NextWf (execDieHold die cause s) := by
  unfold execDieHold; simp [h]

theorem nextWf_execDieRelease {die} : NextWf (execDieRelease die s) := by
  unfold execDieRelease; simp [h]

theorem nextWf_execFabricPacketRx {die link vf tag cells} : NextWf (execFabricPacketRx die link vf tag cells s) := by
  unfold execFabricPacketRx
  rw [nextWf_event]
  split
  · exact someWf_none
  · split
    · refine someWf_some.mpr (wf_foldl (fun u x hu => ?_) h)
      split
      · exact hu
      · exact wf_writePa _ _ _ _ hu
    · simp [h]

theorem nextWf_execThermalWarn {die sensor reading} : NextWf (execThermalWarn die sensor reading s) := by
  unfold execThermalWarn; simp [h]

theorem nextWf_execThermalCrit {die sensor reading} : NextWf (execThermalCrit die sensor reading s) := by
  unfold execThermalCrit; simp [h]

theorem nextWf_execDroopTrip {die sensor reading} : NextWf (execDroopTrip die sensor reading s) := by
  unfold execDroopTrip; simp [h]

theorem nextWf_execRailCurrentLimit {die sensor reading} : NextWf (execRailCurrentLimit die sensor reading s) := by
  unfold execRailCurrentLimit; simp [h]

theorem nextWf_execEvlostRead {vf} : NextWf (execEvlostRead vf s) :=
  nextWf_next.mpr (wf_whenReady h (by simpa using h))

theorem nextWf_execTraceEnable {die value} : NextWf (execTraceEnable die value s) := by
  unfold execTraceEnable
  have h1 := wf_whenReady h (f := modTrace die (Trace.control value)) (by simpa using h)
  simp [h1]

theorem nextWf_execTraceForce {die} : NextWf (execTraceForce die s) := by
  unfold execTraceForce
  have h1 := wf_whenReady h (f := modTrace die Trace.force) (by simpa using h)
  simp [h1]

theorem nextWf_execTraceFreeze {die} : NextWf (execTraceFreeze die s) := by
  unfold execTraceFreeze; simp [h]

theorem nextWf_execPmcOverflow {core i} : NextWf (execPmcOverflow core i s) := by
  unfold execPmcOverflow; simp [h]

theorem nextWf_execTimeSyncMeasure {offset} : NextWf (execTimeSyncMeasure offset s) := by
  unfold execTimeSyncMeasure; simp [h]

theorem nextWf_execLockTimeout : NextWf (execLockTimeout s) := by
  unfold execLockTimeout; simp [h]

theorem nextWf_execPowerArbiterTick {demand} : NextWf (execPowerArbiterTick demand s) := by
  unfold execPowerArbiterTick
  rw [nextWf_event]
  split
  · exact someWf_none
  · exact someWf_some.mpr (wf_foldl (fun _ _ hu => by simpa using hu) (by simpa using h))

theorem nextWf_execThermalClear {die} : NextWf (execThermalClear die s) := by
  unfold execThermalClear; simp [h]

theorem nextWf_execDroopEnd {die} : NextWf (execDroopEnd die s) := by
  unfold execDroopEnd
  rw [nextWf_event]
  split
  · split <;> simp [h]
  · exact someWf_none

/-! ### Experts and launches -/

theorem nextWf_execExpertFire {die vf expert core} : NextWf (execExpertFire die vf expert core s) := by
  unfold execExpertFire
  rw [nextWf_event]
  split
  · exact someWf_none
  · split
    · exact someWf_none
    · split
      · split
        · exact fun _ e => wf_fire h e
        · exact someWf_none
      · exact someWf_none

theorem nextWf_execGatheringLaunch {die vf expert} : NextWf (execGatheringLaunch die vf expert s) := by
  unfold execGatheringLaunch
  rw [nextWf_event]
  split
  · exact someWf_none
  · split
    · exact someWf_none
    · split
      · exact someWf_none
      · dsimp only
        rw [someWf_some, startTeam_mem]
        simp only [startSlice_mem, modExpert_mem]
        refine wf_dropLocks (wf_foldl (fun u r hu => ?_) h)
        split
        · exact wf_writePas _ _ _ _ hu
        · exact hu

theorem nextWf_execEqStarveTimeout {die vf expert} : NextWf (execEqStarveTimeout die vf expert s) := by
  unfold execEqStarveTimeout
  rw [nextWf_event]
  split <;> simp [h]

theorem nextWf_execExpertAgeTimer {die vf expert} : NextWf (execExpertAgeTimer die vf expert s) := by
  unfold execExpertAgeTimer
  rw [nextWf_event]
  split <;> simp [h]

theorem nextWf_execLaunch {vf id} : NextWf (execLaunch vf id s) := by
  unfold execLaunch
  rw [nextWf_event]
  split
  · exact someWf_none
  · split
    · exact someWf_none
    · dsimp only
      split
      · simp [h]
      · refine someWf_some.mpr (wf_settle ?_)
        split <;> simpa using h

theorem nextWf_execLaunchNbtStart {lid} : NextWf (execLaunchNbtStart lid s) := by
  unfold execLaunchNbtStart
  rw [nextWf_event]
  split <;> simp [h]

theorem nextWf_execLaunchComplete {lid} : NextWf (execLaunchComplete lid s) := by
  unfold execLaunchComplete
  rw [nextWf_event]
  split
  · exact someWf_none
  · next l _ =>
    split
    · have hl : (writeLoss lid l s).Wf := wf_writeLoss h
      split
      · next e =>
        rw [e] at hl
        exact someWf_some.mpr (wf_completeLaunch hl)
      · next e =>
        rw [e] at hl
        exact someWf_some.mpr hl
      · exact someWf_none
    · exact someWf_none

theorem nextWf_execConfigureTaskQueue {vf id} : NextWf (execConfigureTaskQueue vf id s) := by
  refine nextWf_configure h fun c => ?_
  split
  · exact h
  · dsimp only
    split
    · exact h
    · split
      · exact h
      · simpa using h

theorem nextWf_execConfigureExpert {vf id} : NextWf (execConfigureExpert vf id s) := by
  refine nextWf_configure h fun c => ?_
  split
  · exact h
  · dsimp only
    split
    · exact h
    · split
      · simpa using h
      · split
        · exact h
        · split
          · exact h
          · split
            · exact h
            · split
              · exact h
              · simpa using h

theorem nextWf_execDisableTaskQueue {vf id} : NextWf (execDisableTaskQueue vf id s) :=
  nextWf_configure h fun _ => by simpa using h

theorem nextWf_execDisableExpert {vf id} : NextWf (execDisableExpert vf id s) :=
  nextWf_configure h fun _ => by simpa using h

/-! ### Functions, dies and translations -/

theorem nextWf_execAssignPartitions {vf id} : NextWf (execAssignPartitions vf id s) := by
  refine nextWf_configurePf h fun c => ?_
  split
  · exact h
  · exact wf_pfWrite h (by simp [h])

theorem nextWf_execWriteGrant {vf id} : NextWf (execWriteGrant vf id s) := by
  refine nextWf_configurePf h fun c => ?_
  split
  · exact h
  · split <;> exact h

theorem nextWf_execClearGrant {vf id} : NextWf (execClearGrant vf id s) := by
  refine nextWf_configurePf h fun c => ?_
  split <;> exact h

theorem nextWf_execStage2Inval {vf id} : NextWf (execStage2Inval vf id s) :=
  nextWf_invalidate (nextWf_configurePf h fun _ => wf_pfWrite h (by simpa using h))

theorem nextWf_execTlbInval {vf id} : NextWf (execTlbInval vf id s) := by
  refine nextWf_invalidate (nextWf_cmdNow fun c => ?_)
  dsimp only
  split
  · exact h
  · simpa using h

theorem nextWf_execDemandFaultRetry {vf idx} : NextWf (execDemandFaultRetry vf idx s) := by
  unfold execDemandFaultRetry
  exact nextWf_event.mpr (someWf_map fun _ _ => wf_retryFault h)

theorem nextWf_execDemandFaultFail {vf idx} : NextWf (execDemandFaultFail vf idx s) := by
  unfold execDemandFaultFail
  rw [nextWf_event]
  split
  · exact someWf_none
  · dsimp only
    rw [someWf_some, endFault_mem, wakeEngines_mem, wakeGroups_mem]
    refine wf_foldl (fun u d hu => wf_foldl (fun v e hv => wf_failColl hv) hu) (wf_foldl (fun u c hu => ?_) h)
    split
    · exact wf_seqFault hu
    · exact hu

theorem nextWf_execVfResetDone {vf salt} : NextWf (execVfResetDone vf salt s) := by
  unfold execVfResetDone; simp [h]

theorem nextWf_execVfDisable {vf} : NextWf (execVfDisable vf s) := by
  unfold execVfDisable; simp [h]

theorem nextWf_execVfFlr {vf} : NextWf (execVfFlr vf s) := by
  unfold execVfFlr; simp [h]

theorem nextWf_execVfEnable {vf salt} : NextWf (execVfEnable vf salt s) := by
  unfold execVfEnable; simp [h]

theorem nextWf_execTdiTransition {vf target} : NextWf (execTdiTransition vf target s) := by
  unfold execTdiTransition; simp [h]

theorem nextWf_execGetDeviceInterfaceState {vf} : NextWf (execGetDeviceInterfaceState vf s) := by
  unfold execGetDeviceInterfaceState; simp [h]

theorem nextWf_execDieReset {die} : NextWf (execDieReset die s) := by
  unfold execDieReset; simp [h]

/-! ### Registers of the host -/

@[simp] theorem wf_vfRegStore {vf byPf off bytes value} : wf (vfRegStore vf byPf off bytes value s).mem := by
  unfold vfRegStore
  dsimp only
  split
  · simpa using h
  · split
    · simpa using h
    · split
      · simpa using h
      · split
        · simpa using h
        · split
          · split
            · exact wf_orStay h (nextWf_execFeaturesOk h)
            · simpa using h
          · simpa using h
          · simpa using h
          · split
            · exact wf_orStay h (nextWf_execQueueEnable h)
            · exact h
          · split
            · exact wf_orStay h (nextWf_execQueueReset h)
            · exact h
          · simpa using h
          · split <;> simpa using h
          · split
            · exact wf_pfWrite h (by simpa using h)
            · exact h
          · split
            · exact wf_pfWrite h (by simpa using h)
            · exact h
          · split
            · exact wf_pfWrite h (by simpa using h)
            · exact h
          · exact h

@[simp] theorem wf_ctxCommand {vf n} : wf (ctxCommand vf n s).mem := by
  unfold ctxCommand
  split
  · exact wf_orStay h (nextWf_execPreempt h)
  · exact wf_orStay h (nextWf_execRestore h)
  · exact wf_orStay h (nextWf_execResumeSave h)
  · exact wf_orStay h (nextWf_execDiscard h)
  · exact wf_orStay h (nextWf_execExportImage h)
  · exact h

@[simp] theorem wf_ctxStore {a bytes n} : wf (ctxStore a bytes n s).mem := by
  unfold ctxStore
  split
  · exact h
  · split
    · exact h
    · split
      · exact wf_ctxCommand h
      · exact wf_pfWrite h (by simpa using h)

@[simp] theorem wf_bootStore {off bytes n} : wf (bootStore off bytes n s).mem := by
  unfold bootStore
  dsimp only
  split
  · split
    · exact h
    · split
      · exact wf_orStay h (nextWf_execDieRelease h)
      · exact wf_orStay h (nextWf_execDieReset h)
      · exact h
  · split
    · split <;> exact h
    · exact h

@[simp] theorem wf_blockStore {b off bytes value} : wf (blockStore b off bytes value s).mem := by
  unfold blockStore
  dsimp only
  split
  · simp [h]
  · simp [h]
  · simp [h]
  · simp [h]
  · simp [h]
  · simp [h]
  · exact h
  · exact h
  · exact h
  · split
    · exact h
    · split
      · exact wf_pfWrite h (by simpa using h)
      · simpa using h

theorem nextWf_execRegisterWrite {block off bytes value} : NextWf (execRegisterWrite block off bytes value s) := by
  unfold execRegisterWrite; simp [h]

end

/-! ## One instruction -/

/-- Whatever an instruction does, memory keeps its form in the state that it goes on with. -/
theorem nextWf_exec (i : Instr) {s : State} (h : wf s.mem) : NextWf (exec i s) := by
  unfold exec
  cases i with
  -- words whose effect is a state operation or two
  | hint | stage | mode | modev | moder | fill | fillRd | nop | exit | brk | twait | yield | j | call | jr | callr | lis | addpc | lihi
  | slda | sldaw | sstl | sstlw | vlda | vstl | fence | bara | barw | cleave | sdrain | sclose | bclose | bwait | tbinit | tbarr
  | tbexp | tbwait | vcvt | vmxq | vmxd | pset | qhelp | vmov | vmova | vbcast | viota | vshape | vgen | vext =>
    exact nextWf_wordG h fun _ => by simp [h]
  | pgrel | arel | kstart | kwait | warm => exact nextWf_wordW h fun _ => by simp [h]
  | rep => exact nextWf_execRep h
  | sget => exact nextWf_execSget h
  | sset => exact nextWf_execSset h
  | lexit => exact nextWf_execLexit h
  | trap => exact nextWf_execTrap h
  | eret => exact nextWf_execEret h
  | sysc => exact nextWf_execSysc h
  | loop => exact nextWf_execLoop h
  | bar => exact nextWf_execBar h
  | barinit => exact nextWf_execBarinit h
  | cjoin => exact nextWf_execCjoin h
  | sopen => exact nextWf_execSopen h
  -- branches and scalar arithmetic
  | bEqz | bNez | bLtz | bGez | bGtz | bLez | bPany | bPnone | bPall | bAlways => exact nextWf_branch h
  | add | sub | and | or | xor | andn | shl | shr | sar | rol | min | max | minz | maxz | slt | sltz | mul | mulh | mulhz | div | divz
  | rem | remz => exact nextWf_scalar2 h
  | clz | ctz | popc | brev | sextb | sexth | sextw | zextw => exact nextWf_scalar1 h
  | addi | slti | sltiz | andi | ori | xori => exact nextWf_scalarImm h
  | shli | shri | sari | roli => exact nextWf_scalarShift h
  -- loads, stores and atomics
  | sldb | sldbz | sldh | sldhz | sldw | sldwz | sldd => exact nextWf_sldWord h
  | sstb | ssth | sstw | sstd => exact nextWf_sstWord h
  | satomAdd | satomAnd | satomOr | satomXor | satomMin | satomMax | satomMinz | satomMaxz | satomXchg | satomCas =>
    exact nextWf_satomOp h
  | satomLd | satomSt => exact nextWf_satomWord h
  | vldw | vldh | vldhz | vldb | vldbz | vldu | vldq => exact nextWf_vmLoad h
  | vstw | vsth | vstb | vstq => exact nextWf_vmStore h
  | vatomAdd | vatomAnd | vatomOr | vatomXor | vatomMin | vatomMax | vatomMinz | vatomMaxz | vatomXchg | vatomFadd =>
    exact nextWf_vatomOp h
  | vatomCas | vatomLd | vatomSt => exact nextWf_vatomWord h
  -- vector arithmetic and predicates
  | vadd | vsub | vmul | vmulh | vmad | vmin | vmax | vabsd | vand | vor | vxor | vandn | vshl | vshr | vsar | vrol =>
    exact nextWf_intVR h
  | vaddi | vmuli | vandi | vori | vxori | vshli | vshri | vsari => exact nextWf_intVI h
  | vfadd | vfsub | vfmul | vfmin | vfmax | vfma | vfms | vfnma => exact nextWf_fpWord h
  | vrcp | vrsq | vsqrt | vexp2 | vlog2 | vsin | vcos | vtanh => exact nextWf_sfuWord h
  | vfabs | vfneg | vfsgn => exact nextWf_signWord h
  | vdot2 => exact nextWf_execVdot2 h
  | vdot4i => exact nextWf_execVdot4i h
  | vcmpEq | vcmpNe | vcmpLt | vcmpLe | vcmpGt | vcmpGe | vcmpUnord | vcmpOrd => exact nextWf_cmpWord h
  | vperm => exact nextWf_permWord h
  | vshfx | vslideu | vslided | vlaneb => exact nextWf_slideWord h
  | vbperm => exact nextWf_execVbperm h
  | vquad => exact nextWf_execVquad h
  | vscanadd | vscanmin | vscanmax | vscanor | vxscanadd | vxscanmax => exact nextWf_scanWord h
  | vredadd | vredmin | vredmax | vredand | vredor => exact nextWf_redWord h
  | pand | por | pxor | pandn | pnot | pmov => exact nextWf_predWord h
  | pget | pcnt | pfirst => exact nextWf_predScalar h
  -- allotments and queues
  | vacqW | pgacqW | aacqW | macqW => exact nextWf_acquireWord h fun _ _ => wf_acquireWait h
  | vacqT | pgacqT | aacqT | macqT => exact nextWf_acquireWord h fun _ _ => wf_acquireTry h
  | vrel => exact nextWf_execVrel h
  | mrel => exact nextWf_execMrel h
  | tspawn => exact nextWf_execTspawn h
  | qpush => exact nextWf_execQpush h
  | qpop | qsteal => exact nextWf_popWord h
  | eqpush => exact nextWf_execEqpush h
  | eqfire => exact nextWf_execEqfire h
  -- accumulators, contexts and debugging
  | adrain => exact nextWf_execAdrain h
  | adrainRaw => exact nextWf_execAdrainRaw h
  | afill => exact nextWf_execAfill h
  | afillRaw => exact nextWf_execAfillRaw h
  | cdrain => exact nextWf_execCdrain h
  | cstate => exact nextWf_execCstate h
  | cload => exact nextWf_execCload h
  | csaved => exact nextWf_execCsaved h
  | crestart => exact nextWf_execCrestart h
  | msave => exact nextWf_execMsave h
  | mload => exact nextWf_execMload h
  | mbox => exact nextWf_execMbox h
  | dhalt => exact nextWf_execDhalt h
  | dresume => exact nextWf_execDresume h
  | dstep => exact nextWf_execDstep h
  | dunpin => exact nextWf_execDunpin h
  | bpset => exact nextWf_execBpset h
  -- the words of a sequencer
  | madd | maddi | mli => exact nextWf_wordM h fun _ => nextWf_seqSet h
  | mj => exact nextWf_wordM h fun _ => nextWf_seqGoto h
  | mma => exact nextWf_execMma h
  | mldfb => exact nextWf_execMldfb h
  | mring => exact nextWf_execMring h
  | mzero => exact nextWf_execMzero h
  | mwait => exact nextWf_execMwait h
  | msig => exact nextWf_execMsig h
  | mfetch => exact nextWf_execMfetch h
  | mend => exact nextWf_execMend h
  | mtime => exact nextWf_execMtime h
  | mpop => exact nextWf_execMpop h
  | mbnz => exact nextWf_execMbnz h
  -- the ends of waits
  | twaitExpiry | barrierPhaseWake | barinitResume | tbwaitWake | bwaitDone | bcloseResume | sdrainDone | kwaitDone | lockWaitDone
  | bteStart =>
    refine nextWf_wakeWord h fun b body e u hu => ?_
    split at e <;> cases e <;> simp [hu]
  | allotGrant => exact nextWf_execAllotGrant h
  -- events of groups, streams, copies and sequencers
  | registerReturn => exact nextWf_execRegisterReturn h
  | syscAnswer => exact nextWf_execSyscAnswer h
  | streamReadFill => exact nextWf_execStreamReadFill h
  | streamWritePerform => exact nextWf_execStreamWritePerform h
  | copyNbtStart => exact nextWf_execCopyNbtStart h
  | copyComplete => exact nextWf_execCopyComplete h
  | copyFail => exact nextWf_execCopyFail h
  | mmaComplete => exact nextWf_execMmaComplete h
  | kStepBoundary => exact nextWf_execKStepBoundary h
  | mtimeExpiry => exact nextWf_execMtimeExpiry h
  | mfetchDoorbellWrite => exact nextWf_execMfetchDoorbellWrite h
  | activeSetEnter => exact nextWf_execActiveSetEnter h
  | blockedEvict => exact nextWf_execBlockedEvict h
  | yieldHoldExpiry => exact nextWf_execYieldHoldExpiry h
  | aging => exact nextWf_execAging h
  -- events of admission, queues and experts
  | teamAdmit => exact nextWf_execTeamAdmit h
  | gatherTimerExpiry => exact nextWf_execGatherTimerExpiry h
  | expertAgeTimer => exact nextWf_execExpertAgeTimer h
  | expertFire => exact nextWf_execExpertFire h
  | gatheringLaunch => exact nextWf_execGatheringLaunch h
  | eqStarveTimeout => exact nextWf_execEqStarveTimeout h
  -- commands
  | notify => exact nextWf_execNotify h
  | wakeRefill => exact nextWf_execWakeRefill h
  | launch => exact nextWf_execLaunch h
  | launchNbtStart => exact nextWf_execLaunchNbtStart h
  | launchComplete => exact nextWf_execLaunchComplete h
  | copy => exact nextWf_execCopy h
  | templateLoad => exact nextWf_execTemplateLoad h
  | dumpRead => exact nextWf_execDumpRead h
  | configureTaskQueue => exact nextWf_execConfigureTaskQueue h
  | configureExpert => exact nextWf_execConfigureExpert h
  | disableTaskQueue => exact nextWf_execDisableTaskQueue h
  | disableExpert => exact nextWf_execDisableExpert h
  | assignPartitions => exact nextWf_execAssignPartitions h
  | writeGrant => exact nextWf_execWriteGrant h
  | clearGrant => exact nextWf_execClearGrant h
  | stage2Inval => exact nextWf_execStage2Inval h
  | tlbInval => exact nextWf_execTlbInval h
  | demandFaultRetry => exact nextWf_execDemandFaultRetry h
  | demandFaultFail => exact nextWf_execDemandFaultFail h
  | featuresOk => exact nextWf_execFeaturesOk h
  | queueEnable => exact nextWf_execQueueEnable h
  | queueReset => exact nextWf_execQueueReset h
  | queueResetDone => exact nextWf_execQueueResetDone h
  -- the Binder
  | binderArm | binderStop | commitReward | commitEnv | injvalid => exact nextWf_whenReady_binderStore h
  | knobWrite => exact nextWf_execKnobWrite h
  | binderIdleWrite => exact nextWf_execBinderIdleWrite h
  | binderBoundary => exact nextWf_execBinderBoundary h
  -- contexts
  | preempt => exact nextWf_execPreempt h
  | sliceExpiry => exact nextWf_execSliceExpiry h
  | groupStop => exact nextWf_execGroupStop h
  | saveHandlerTimeout => exact nextWf_execSaveHandlerTimeout h
  | folioWrite => exact nextWf_execFolioWrite h
  | restore => exact nextWf_execRestore h
  | folioRestore => exact nextWf_execFolioRestore h
  | resumeSave => exact nextWf_execResumeSave h
  | discard => exact nextWf_execDiscard h
  | exportImage => exact nextWf_execExportImage h
  -- debugging, traces and counters
  | hcmdHalt | hcmdResume | hcmdStep | droopsRead | pdropRead => exact nextWf_next.mpr (wf_whenReady h (by simpa using h))
  | evlostRead => exact nextWf_execEvlostRead h
  | dump => exact nextWf_next.mpr (wf_whenReady h (wf_dump h))
  | groupHalt => exact nextWf_execGroupHalt h
  | traceEnable => exact nextWf_execTraceEnable h
  | traceForce => exact nextWf_execTraceForce h
  | traceFreeze => exact nextWf_execTraceFreeze h
  | pmcOverflow => exact nextWf_execPmcOverflow h
  -- errors and dies
  | correctedError => exact nextWf_execCorrectedError h
  | uncorrectedError => exact nextWf_execUncorrectedError h
  | dieHold => exact nextWf_execDieHold h
  | dieRelease => exact nextWf_execDieRelease h
  | dieReset => exact nextWf_execDieReset h
  -- the fabric and the platform
  | fabricPacketRx => exact nextWf_execFabricPacketRx h
  | collectiveStart => exact nextWf_execCollectiveStart h
  | collectiveStep => exact nextWf_execCollectiveStep h
  | collectiveComplete => exact nextWf_execCollectiveComplete h
  | collWatchdogExpiry => exact nextWf_execCollWatchdogExpiry h
  | timeSyncMeasure => exact nextWf_execTimeSyncMeasure h
  | lockTimeout => exact nextWf_execLockTimeout h
  | powerArbiterTick => exact nextWf_execPowerArbiterTick h
  | thermalWarn => exact nextWf_execThermalWarn h
  | thermalCrit => exact nextWf_execThermalCrit h
  | thermalClear => exact nextWf_execThermalClear h
  | droopTrip => exact nextWf_execDroopTrip h
  | droopEnd => exact nextWf_execDroopEnd h
  | railCurrentLimit => exact nextWf_execRailCurrentLimit h
  -- resets, functions and registers
  | powerOn | pfFlr => exact nextWf_next.mpr (by simpa using h)
  | vfFlr => exact nextWf_execVfFlr h
  | vfResetDone => exact nextWf_execVfResetDone h
  | vfEnable => exact nextWf_execVfEnable h
  | vfDisable => exact nextWf_execVfDisable h
  | tdiTransition => exact nextWf_execTdiTransition h
  | getMeasurements => exact nextWf_next.mpr h
  | getDeviceInterfaceState => exact nextWf_execGetDeviceInterfaceState h
  | registerWrite => exact nextWf_execRegisterWrite h

/-! ## The step -/

section
variable {s : State} (h : wf s.mem)
include h

theorem nextWf_breakAtTarget {info} : NextWf (breakAtTarget info s) := by
  unfold breakAtTarget
  split
  · exact nextWf_finish h
  · exact nextWf_finish (r := .trap _ tBrk info) (by simpa using h)

theorem nextWf_issueRep {r} : NextWf (issueRep s r) := by
  unfold issueRep
  split
  · exact nextWf_breakAtTarget h
  · split
    · exact nextWf_finish h
    · split
      · exact nextWf_exec _ h
      · exact nextWf_finish h
      · exact nextWf_finish h

theorem nextWf_issueWord {w} : NextWf (issueWord s w) := by
  unfold issueWord
  split
  · exact nextWf_exec _ h
  · exact nextWf_rejectWord h

theorem nextWf_issueNext : NextWf (issueNext s) := by
  have h0 : wf (settleResume s).mem := by simpa using h
  unfold issueNext
  dsimp only
  split
  · exact nextWf_finish h0
  · split
    · exact nextWf_fetchFail h0
    · next s1 e =>
      have h1 : wf s1.mem := by rwa [refreshLoop_mem e]
      split
      · exact nextWf_issueWord (by simpa using h1)
      · exact nextWf_fetchFail h1

theorem nextWf_issueReady : NextWf (issueReady s) := by
  unfold issueReady
  split
  · exact nextWf_issueRep h
  · exact nextWf_issueNext h

theorem nextWf_issueGroup {q} : NextWf (issueGroup q s) := by
  have ready : NextWf (if chosen s q then issueReady (unmarkMe s) else .next s) := by
    split
    · exact nextWf_issueReady (by simpa using h)
    · exact nextWf_next.mpr h
  unfold issueGroup
  split
  · exact nextWf_next.mpr h
  · split
    · exact ready
    · exact ready
    · exact ready
    · exact ready
    · exact ready
    · exact ready
    · split
      · split
        · next e => exact nextWf_next.mpr (nextWf_exec _ h _ e)
        · exact nextWf_next.mpr h
      · exact nextWf_next.mpr h

theorem nextWf_issueSeq {c} : NextWf (issueSeq c s) := by
  unfold issueSeq
  dsimp only
  split
  · exact nextWf_next.mpr (wf_seqReissue h)
  · split
    · exact nextWf_next.mpr h
    · split
      · exact nextWf_next.mpr (wf_seqFault h)
      · exact nextWf_next.mpr h
      · exact nextWf_next.mpr (by simpa using h)
      · next w t _ =>
        have h1 : wf (addTlb (c / 64) t s).mem := by simpa using h
        split
        · split
          · exact nextWf_exec _ h1
          · exact nextWf_next.mpr (wf_seqFault h1)
        · exact nextWf_next.mpr (wf_seqFault h1)

theorem nextWf_issue {a} : NextWf (issue a s) := by
  have close : ∀ {o : Out}, NextWf o → NextWf (closeCclk o) := by
    intro o ho
    unfold closeCclk
    split
    · simpa using ho
    · exact ho
  unfold issue
  dsimp only
  split
  · exact close (nextWf_issueGroup (by simpa using h))
  · exact close (nextWf_issueSeq (by simpa using h))

theorem someWf_runFirst {is} : SomeWf (runFirst s is) := by
  have h1 : wf { s with free := s.free + 1 }.mem := h
  induction is with
  | nil => exact someWf_none
  | cons i is ih =>
    unfold runFirst
    split
    · next e => exact someWf_some.mpr (nextWf_exec i h1 _ e)
    · exact ih

theorem nextWf_turn {t} : NextWf (turn t s) := by
  have h1 : wf { s with free := s.free + 1 }.mem := h
  unfold turn
  split
  · exact nextWf_issue h
  · exact nextWf_exec _ h1
  · exact nextWf_next.mpr h
  · exact nextWf_next.mpr (by simpa using h)

/-- Memory keeps its form in the state that a step goes on with. -/
theorem nextWf_step : NextWf (step s) := by
  have h1 : wf { s with free := s.free + 1 }.mem := h
  unfold step nextTurn
  split
  · next e => exact nextWf_next.mpr (someWf_runFirst h _ e)
  · split
    · next t rest _ =>
      have h2 : wf { s with agenda := rest }.mem := h
      exact nextWf_turn h2
    · split
      · exact nextWf_exec _ h1
      · exact nextWf_issue h

end

/-- Settles O5: every operation that writes memory does so through `setByte` or `clearRange`, which keep its form (log 2), and a step
runs such operations alone, case by case over the instructions (`nextWf_exec`). -/
theorem stepKeepsMemoryForm : Obligations.StepKeepsMemoryForm := by
  unfold Obligations.StepKeepsMemoryForm
  exact fun _ t h e => nextWf_step h t e

/-- Settles O6: each value is read off `State.reset`, whose tables are empty, so an entry of any number is the one that its table starts
with (log 3). -/
theorem resetState : Obligations.ResetState := by
  unfold Obligations.ResetState
  exact ⟨rfl, rfl, rfl, rfl, rfl, rfl, fun _ => ⟨rfl, rfl, rfl, rfl⟩, rfl, rfl, rfl, fun _ => rfl, rfl, rfl, rfl, fun _ => rfl,
    fun _ => rfl⟩

end Sys2Proof.Machine
end

section
/-!
ELEMENTS, WIDTHS AND SHAPES (O26). What a lane packed from elements holds, the values of integer patterns under the width rule, and the
shapes of results.
-/

namespace Sys2Proof.Machine

/-! ## Elements of a lane (01 R15, 06 R162) -/

/-- The number that the elements of a lane make, before it is a lane. -/
def packedSum (w : Nat) (es : List Nat) : Nat := es.zipIdx.foldl (fun n e => n + e.1 % 2 ^ w * 2 ^ (w * e.2)) 0

theorem packElems_eq (w : Nat) (es : List Nat) : packElems w es = BitVec.ofNat 32 (packedSum w es) := rfl

theorem packedSum_concat (w : Nat) (es : List Nat) (x : Nat) :
    packedSum w (es ++ [x]) = packedSum w es + x % 2 ^ w * 2 ^ (w * es.length) := by
  simp [packedSum, List.zipIdx_append]

theorem packedSum_lt (w : Nat) (es : List Nat) : packedSum w es < 2 ^ (w * es.length) := by
  induction es using List.reverseRecOn with
  | nil => exact Nat.one_pos
  | append_singleton es x ih =>
    have hx : x % 2 ^ w + 1 ≤ 2 ^ w := Nat.mod_lt _ (by positivity)
    calc packedSum w (es ++ [x]) = packedSum w es + x % 2 ^ w * 2 ^ (w * es.length) := packedSum_concat ..
      _ < (x % 2 ^ w + 1) * 2 ^ (w * es.length) := by linarith
      _ ≤ 2 ^ w * 2 ^ (w * es.length) := Nat.mul_le_mul_right _ hx
      _ = 2 ^ (w * (es ++ [x]).length) := by rw [← Nat.pow_add, List.length_append, List.length_singleton]; ring_nf

/-- An element added above does not carry into those below it. -/
theorem packedSum_elem (w : Nat) (es : List Nat) (j : Nat) (hj : j < es.length) :
    packedSum w es / 2 ^ (w * j) % 2 ^ w = es.getD j 0 % 2 ^ w := by
  induction es using List.reverseRecOn with
  | nil => exact absurd hj (Nat.not_lt_zero j)
  | append_singleton es x ih =>
    rw [packedSum_concat]
    rcases Nat.lt_or_ge j es.length with h | h
    · obtain ⟨d, hd⟩ := Nat.exists_eq_add_of_lt h
      have split : x % 2 ^ w * 2 ^ (w * es.length) = 2 ^ (w * j) * (2 ^ w * (x % 2 ^ w * 2 ^ (w * d))) := by
        rw [hd]; ring
      rw [split, Nat.add_mul_div_left _ _ (by positivity), Nat.add_mul_mod_self_left, ih h, List.getD_append _ _ _ _ h]
    · obtain rfl : j = es.length := by simp at hj; omega
      rw [Nat.add_mul_div_right _ _ (by positivity), Nat.div_eq_of_lt (packedSum_lt w es)]
      simp

/-- Element j of a lane that is packed from elements that fit it. -/
theorem elemOf_packElems {w : Nat} {es : List Nat} {j : Nat} (hw : w * es.length ≤ 32) (hj : j < es.length) :
    elemOf w j (packElems w es) = es.getD j 0 % 2 ^ w := by
  have hlt : packedSum w es < 2 ^ 32 := (packedSum_lt w es).trans_le (Nat.pow_le_pow_right (by decide) hw)
  rw [packElems_eq, elemOf, BitVec.toNat_ofNat, Nat.mod_eq_of_lt hlt, packedSum_elem w es j hj]

/-- Elements are computed each from the same element of the operands (01 R15). -/
theorem elemOf_mapElems {w : Nat} (f : List Nat → Nat) (xs : List W32) {j : Nat} (hj : j < 32 / w) :
    elemOf w j (mapElems w f xs) = f (xs.map (elemOf w j)) % 2 ^ w := by
  have hw : w * (32 / w) ≤ 32 := Nat.mul_div_le 32 w
  rw [mapElems, elemOf_packElems (by simpa using hw) (by simpa using hj)]
  simp [List.getD_eq_getElem?_getD, hj]

/-- An element is the slice of its bits. -/
theorem ofNat_elemOf (w j : Nat) (x : W32) : BitVec.ofNat w (elemOf w j x) = x.extractLsb' (w * j) w := by
  apply BitVec.eq_of_toNat_eq
  simp [elemOf, Nat.shiftRight_eq_div_pow]

/-! ## Integer values and the width rule (01 R16, R26) -/

theorem intValue_signed {w : Nat} (hw : 0 < w) (v : BitVec w) : intValue true w v.toNat = v.toInt := by
  obtain ⟨n, rfl⟩ := Nat.exists_eq_add_of_lt hw
  simp only [intValue, BitVec.toInt_eq_toNat_cond, Bool.true_and, decide_eq_true_eq, Nat.zero_add, Nat.add_sub_cancel, pow_succ]
  push_cast
  by_cases h : 2 ^ n ≤ v.toNat
  · rw [if_pos h, if_neg (by omega)]
  · rw [if_neg h, if_pos (by omega)]

theorem intValue_unsigned (w n : Nat) : intValue false w n = n := by
  simp [intValue]

theorem intBits_cast (w : Nat) (x : Int) : (intBits w x : Int) = x % 2 ^ w :=
  Int.toNat_of_nonneg (Int.emod_nonneg _ (by positivity))

/-- A result without SAT wraps (01 R26). -/
theorem widthRule_wrap (signed : Bool) (w : Nat) (x : Int) : (widthRule false signed w x : Int) = x % 2 ^ w := intBits_cast w x

theorem intMin_le_intMax (signed : Bool) (w : Nat) : intMin signed w ≤ intMax signed w := by
  have h1 : (1 : Int) ≤ 2 ^ (w - 1) := one_le_pow₀ (by decide)
  have h2 : (1 : Int) ≤ 2 ^ w := one_le_pow₀ (by decide)
  cases signed
  · simp only [intMin, intMax, Bool.false_eq_true, if_false]; omega
  · simp only [intMin, intMax, if_true]; omega

theorem satInt_eq (signed : Bool) (w : Nat) (x : Int) : satInt signed w x = max (intMin signed w) (min x (intMax signed w)) := by
  have h := intMin_le_intMax signed w
  unfold satInt
  split
  · omega
  · split <;> omega

/-- The pattern of an integer within its type has the integer as its value (01 R16). -/
theorem intValue_intBits {signed : Bool} {w : Nat} {x : Int} (hw : 0 < w) (lo : intMin signed w ≤ x) (hi : x ≤ intMax signed w) :
    intValue signed w (intBits w x) = x := by
  obtain ⟨n, rfl⟩ := Nat.exists_eq_add_of_lt hw
  have hb := intBits_cast (0 + n + 1) x
  have hp : (2 : Int) ^ n > 0 := by positivity
  cases signed with
  | false =>
    simp only [intMin, intMax, Bool.false_eq_true, if_false] at lo hi
    rw [intValue_unsigned, hb, Int.emod_eq_of_lt lo (by omega)]
  | true =>
    simp only [intMin, intMax, if_true, Nat.zero_add, Nat.add_sub_cancel] at lo hi
    simp only [Nat.zero_add, pow_succ] at hb
    have hc : ((2 ^ n : Nat) : Int) = 2 ^ n := by norm_cast
    simp only [intValue, Bool.true_and, decide_eq_true_eq, Nat.zero_add, Nat.add_sub_cancel, pow_succ]
    rcases Int.lt_or_le x 0 with neg | pos
    · have hx : x % (2 ^ n * 2) = x + 2 ^ n * 2 := by
        rw [← Int.add_emod_right, Int.emod_eq_of_lt] <;> omega
      rw [if_pos (by omega)]; omega
    · have hx : x % (2 ^ n * 2) = x := Int.emod_eq_of_lt pos (by omega)
      rw [if_neg (by omega)]; omega

/-- A result with SAT clamps (01 R26). -/
theorem widthRule_clamp (signed : Bool) {w : Nat} (hw : 0 < w) (x : Int) :
    intValue signed w (widthRule true signed w x) = max (intMin signed w) (min x (intMax signed w)) := by
  have h := intMin_le_intMax signed w
  rw [widthRule, if_pos rfl, satInt_eq]
  exact intValue_intBits hw (le_max_left ..) (max_le h (min_le_right ..))

/-! ## Shapes of results (02 R50) -/

theorem anyA_general_left (n : Nat) (l : List W32) (r : VReg) : anyA [.general n l, r] = false := by
  simp [anyA, VReg.code]

theorem anyA_general_right (n : Nat) (l : List W32) (r : VReg) : anyA [r, .general n l] = false := by
  simp [anyA, VReg.code]

theorem shapeAdd_general_left (p sb : Bool) (n : Nat) (l : List W32) (r : VReg) : shapeAdd p sb (.general n l) r = .g := by
  simp [shapeAdd, anyA_general_left, VReg.isU]

theorem shapeAdd_general_right (p sb : Bool) (n : Nat) (l : List W32) (r : VReg) : shapeAdd p sb r (.general n l) = .g := by
  simp [shapeAdd, anyA_general_right, VReg.isU]

theorem shapeMul_general_left (p : Bool) (n : Nat) (l : List W32) (r : VReg) : shapeMul p (.general n l) r = .g := by
  simp [shapeMul, anyA_general_left, VReg.isU]

theorem shapeElem_general_right (n : Nat) (l : List W32) (r : VReg) : shapeElem [r, .general n l] = .g := by
  simp [shapeElem, VReg.isU]

/-- Settles O26: an element packed above carries into none below it (`packedSum_elem`), the clamped value lies in its type
(`intValue_intBits`), and a general source makes a general result while the other shapes are read off their definitions. -/
theorem elementsAndShapes : Obligations.ElementsAndShapes := by
  unfold Obligations.ElementsAndShapes
  have pos : ∀ w ∈ [8, 16, 32], 0 < w := by decide
  refine ⟨⟨fun w f xs j _ hj => elemOf_mapElems f xs hj, fun w j x _ _ => ofNat_elemOf w j x,
    fun w v hw => ⟨intValue_signed (pos w hw) v, intValue_unsigned w _⟩,
    fun w signed x hw => ⟨widthRule_wrap signed w x, widthRule_clamp signed (pos w hw) x⟩⟩, fun x y b d e c n m l k r => ?_⟩
  refine ⟨rfl, rfl, ?_, ?_, rfl, ?_, ?_, rfl, fun p sb => ⟨shapeAdd_general_left p sb n l r, shapeAdd_general_right p sb m k r⟩, rfl, rfl,
    rfl, rfl, rfl, fun p => shapeMul_general_left p n l r, rfl, rfl, rfl, shapeElem_general_right n l r⟩
  -- a uniform source has stride 0
  · exact congrArg (Shape.a _) (BitVec.add_zero d)
  · exact congrArg (Shape.a _) (BitVec.zero_add e)
  · exact congrArg (Shape.a _) (BitVec.sub_zero d)
  · exact congrArg (Shape.a _) (BitVec.zero_sub e)

end Sys2Proof.Machine
end

section
/-!
VECTOR FLOATING POINT (O28). The values at the edges come first, then what a vector word delivers by the reuse table or without it, the
runs that step no rounder, the frames of the floating-point words and of the dot products, and at last the members.
-/

namespace Sys2Proof.Machine

/-! ## Patterns at the edges (01 R23, R24) -/

/-- The value of a subnormal pattern is a non-zero finite number. -/
theorem fpDecode_of_fpSubnormal {f : Fmt} {a : Nat} (h : fpSubnormal f a = true) :
    ∃ n m e, m ≠ 0 ∧ fpDecode f a = .fin n m e := by
  simp only [fpSubnormal, Bool.and_eq_true, beq_iff_eq, bne_iff_ne] at h
  obtain ⟨he, hm⟩ := h
  have hmax : (0 == 2 ^ f.ebits - 1) = false := by cases f <;> rfl
  exact ⟨a / 2 ^ (f.ebits + f.mbits) % 2 == 1, a % 2 ^ f.mbits, f.emin - f.mbits, hm, by simp [fpDecode, he, hmax]⟩

theorem fpInput_of_not_subnormal {f : Fmt} {ftz : Bool} {a : Nat} (h : ftz = false ∨ fpSubnormal f a = false) :
    fpInput f ftz a = fpDecode f a := by
  unfold fpInput
  rcases h with h | h <;> simp [h]

/-- The flush of an input leaves a pattern alone that is no non-zero finite number. -/
theorem fpInput_of_special {f : Fmt} {a : Nat} {v : Fpv} (ftz : Bool) (ha : fpDecode f a = v)
    (hv : ∀ n m e, m ≠ 0 → v ≠ .fin n m e) : fpInput f ftz a = v := by
  rw [fpInput_of_not_subnormal (.inr ?_), ha]
  by_contra hs
  obtain ⟨n, m, e, hm, hd⟩ := fpDecode_of_fpSubnormal (eq_true_of_ne_false hs)
  exact hv n m e hm (ha.symm.trans hd)

theorem fpInput_nan {f : Fmt} {a n p} (ftz : Bool) (h : fpDecode f a = .nan n p) : fpInput f ftz a = .nan n p :=
  fpInput_of_special ftz h (by simp)

theorem fpInput_inf {f : Fmt} {a n} (ftz : Bool) (h : fpDecode f a = .inf n) : fpInput f ftz a = .inf n :=
  fpInput_of_special ftz h (by simp)

theorem fpInput_zero {f : Fmt} {a n e} (ftz : Bool) (h : fpDecode f a = .fin n 0 e) : fpInput f ftz a = .fin n 0 e :=
  fpInput_of_special ftz h (by intro _ m _ hm he; cases he; exact hm rfl)

@[simp] theorem nanResult_canonical (f : Fmt) (ops : List NanOp) : nanResult f false ops = f.nanBits := by
  cases ops <;> rfl

@[simp] theorem withSign_false (f : Fmt) (bits : Nat) : withSign f false bits = bits := by simp [withSign]

/-! ## Sums of special terms (01 R31, 06 R169) -/

@[simp] theorem term_nan (n : Bool) (p : Nat) : (Fpv.nan n p).term = .nan := rfl
@[simp] theorem term_inf (n : Bool) : (Fpv.inf n).term = .inf n := rfl
@[simp] theorem neg_term_nan : Term.nan.neg = .nan := rfl
@[simp] theorem neg_term_inf (n : Bool) : (Term.inf n).neg = .inf (!n) := rfl

theorem term_ne_invalid (v : Fpv) : v.term ≠ .invalid := by cases v <;> simp [Fpv.term]

theorem neg_term_ne_invalid (v : Fpv) : v.term.neg ≠ .invalid := by cases v <;> simp [Fpv.term, Term.neg]

/-- A sum with a NaN first is a NaN without a flag. -/
theorem sumTerms_nan (f : Fmt) (env : FpEnv) (l : Nat) (nans : List NanOp) {t : Term} (ht : t ≠ .invalid) :
    sumTerms f env l nans [.nan, t] = (nanResult f env.nanp nans, 0) := by
  simp [sumTerms, ht.symm]

/-- Infinities of opposite signs are invalid. -/
theorem sumTerms_inf_opposite (f : Fmt) (env : FpEnv) (l : Nat) (nans : List NanOp) (n : Bool) :
    sumTerms f env l nans [.inf n, .inf (!n)] = (nanResult f env.nanp nans, flagNV) := by
  cases n <;> simp [sumTerms]

section
variable {f : Fmt} {env : FpEnv} (hn : env.nanp = false) (l : Nat) {a b : Nat}
include hn

theorem fpAdd_nan_left {n p} (ha : fpDecode f a = .nan n p) : fpAdd f env l a b = (f.nanBits, 0) := by
  simp [fpAdd, fpInput_nan env.ftz ha, sumTerms_nan, term_ne_invalid, hn]

theorem fpSub_nan_left {n p} (ha : fpDecode f a = .nan n p) : fpSub f env l a b = (f.nanBits, 0) := by
  simp [fpSub, fpInput_nan env.ftz ha, sumTerms_nan, neg_term_ne_invalid, hn]

theorem fpMul_nan_left {n p} (ha : fpDecode f a = .nan n p) : fpMul f env l a b = (f.nanBits, 0) := by
  simp [fpMul, fpInput_nan env.ftz ha, mulTerm, hn]

theorem fpAdd_inf_opposite {n} (ha : fpDecode f a = .inf n) (hb : fpDecode f b = .inf (!n)) :
    fpAdd f env l a b = (f.nanBits, flagNV) := by
  simp [fpAdd, fpInput_inf env.ftz ha, fpInput_inf env.ftz hb, sumTerms_inf_opposite, hn]

theorem fpSub_inf_same {n} (ha : fpDecode f a = .inf n) (hb : fpDecode f b = .inf n) : fpSub f env l a b = (f.nanBits, flagNV) := by
  simp [fpSub, fpInput_inf env.ftz ha, fpInput_inf env.ftz hb, sumTerms_inf_opposite, hn]

theorem fpMul_inf_zero {n k e} (ha : fpDecode f a = .inf n) (hb : fpDecode f b = .fin k 0 e) :
    fpMul f env l a b = (f.nanBits, flagNV) := by
  simp [fpMul, fpInput_inf env.ftz ha, fpInput_zero env.ftz hb, mulTerm, hn]

/-! ## Special inputs of the SFU (06 R174) -/

theorem sfuOp_nan (member : Nat) (mode : W32) {n p} (ha : fpDecode f a = .nan n p) : sfuOp f env member mode l a = (f.nanBits, 0) := by
  simp [sfuOp, fpInput_nan env.ftz ha, hn]

theorem sfuOp_inf (mode : W32) (ha : fpDecode f a = .inf false) :
    sfuOp f env 0 mode l a = (0, 0) ∧ sfuOp f env 1 mode l a = (0, 0) ∧ sfuOp f env 2 mode l a = (f.infBits, 0)
      ∧ sfuOp f env 3 mode l a = (f.infBits, 0) ∧ sfuOp f env 4 mode l a = (f.infBits, 0)
      ∧ sfuOp f env 5 mode l a = (f.nanBits, flagNV) ∧ sfuOp f env 6 mode l a = (f.nanBits, flagNV)
      ∧ sfuOp f env 7 mode l a = (fpOne f, 0) := by
  simp [sfuOp, fpInput_inf env.ftz ha, hn]

/-- The reciprocal square root, the square root and the logarithm of a negative number are invalid. -/
theorem sfuOp_negative (mode : W32) {m e} (hm : m ≠ 0) (ha : fpDecode f a = .fin true m e)
    (hs : env.ftz = false ∨ fpSubnormal f a = false) {member : Nat} (hk : member ∈ [1, 2, 4]) :
    sfuOp f env member mode l a = (f.nanBits, flagNV) := by
  obtain ⟨m, rfl⟩ := Nat.exists_eq_succ_of_ne_zero hm
  simp only [List.mem_cons, List.not_mem_nil, or_false] at hk
  rcases hk with rfl | rfl | rfl <;> simp [sfuOp, fpInput_of_not_subnormal hs, ha, hn]

end

theorem sfuOp_zero {f : Fmt} (env : FpEnv) (l : Nat) (mode : W32) {a n e} (ha : fpDecode f a = .fin n 0 e) :
    sfuOp f env 0 mode l a = (withSign f n f.infBits, flagDZ) ∧ sfuOp f env 1 mode l a = (withSign f n f.infBits, flagDZ)
      ∧ sfuOp f env 2 mode l a = (withSign f n 0, 0) ∧ sfuOp f env 3 mode l a = (fpOne f, 0)
      ∧ sfuOp f env 4 mode l a = (withSign f true f.infBits, flagDZ) ∧ sfuOp f env 5 mode l a = (withSign f n 0, 0)
      ∧ sfuOp f env 6 mode l a = (fpOne f, 0) ∧ sfuOp f env 7 mode l a = (withSign f n 0, 0) := by
  simp [sfuOp, fpInput_zero env.ftz ha]

/-! ## The destination of a vector word -/

@[simp] theorem me_addRecord (core : Nat) (r : ReuseRec) (s : State) : (addRecord core r s).me = s.me := by
  simp [addRecord, State.me]

theorem putVq_me (n : Nat) (r : VReg) (s : State) : ∃ v full bad,
    (putVq s.qid n r s).me = { s.me with v := v, fullV := full, badV := bad } ∧ (putVq s.qid n r s).qid = s.qid := by
  obtain ⟨r', cs, e, -, -⟩ := putVq_spec s.qid n r s
  rw [e]
  exact ⟨_, _, _, me_modMe _ { s with cores := cs }, rfl⟩

theorem putV_me (n : Nat) (r : VReg) (s : State) : ∃ v full bad, (putV n r s).me = { s.me with v := v, fullV := full, badV := bad } := by
  obtain ⟨v, full, bad, hm, -⟩ := putVq_me n r s
  unfold putV
  dsimp only
  split
  · exact ⟨v, full, bad, hm⟩
  · exact ⟨v, full, _, by rw [me_modMe, hm]⟩

/-- A vector destination changes the vector registers with their bits and marks, and the ports, of the executing group. -/
theorem putDest_me (n : Nat) (r : VReg) (s : State) : ∃ v full bad ports,
    (putDest n r s).me = { s.me with v := v, fullV := full, badV := bad, ports := ports } := by
  unfold putDest
  split
  · obtain ⟨v, full, bad, hm⟩ := putV_me n r s
    exact ⟨v, full, bad, _, hm⟩
  · rw [me_modMe]
    unfold Group.pushPort
    split
    · exact ⟨_, _, _, _, rfl⟩
    · exact ⟨_, _, _, _, rfl⟩

@[simp] theorem putDest_fpstat (n : Nat) (r : VReg) (s : State) : (putDest n r s).me.fpstat = s.me.fpstat := by
  obtain ⟨v, full, bad, ports, hm⟩ := putDest_me n r s
  rw [hm]

/-- Where no record of the reuse table hits, an eligible word leaves the group as any other (02 R63). -/
theorem putReused_me {n : Nat} {key : Option (List Nat)} {s : State} (names : List Nat) (flags : Flags) (r : VReg)
    (hr : NoReuse s) (hk : key ≠ none → n < 112) : (putReused n key names flags r s).me = (putDest n r s).me := by
  cases key with
  | none => rfl
  | some k =>
    have hn : n < 112 := hk (by simp)
    simp only [putReused, hr k, putDest, hn, if_true]
    split <;> simp

/-- A value is delivered where the vector registers, their bits and the ports are what its delivery made them. -/
theorem Delivers.of_me {n : Nat} {r : VReg} {s t u : State} (h : Delivers n r s t) (hv : u.me.v = t.me.v)
    (hf : u.me.fullV = t.me.fullV) (hp : u.me.ports = t.me.ports) : Delivers n r s u where
  full hn := by rw [Group.vFull, hf]; exact h.full hn
  value hn := by rw [Group.vreg, hv]; exact h.value hn
  port hn := hp.trans (h.port hn)

/-- A vector word writes the result of its run, under a key for the reuse table only where it writes a register (02 R61, 06 R161). -/
theorem vecBody_eq {f : VecForm} {uses : List Use} (shape : List VReg → Shape) (old : VReg)
    (lane : List VReg → W32 → Nat → W32 × Flags × W32) (s : State) (src : List VReg) (hd : .vd f.vd ∈ uses) :
    ∃ key run, run = runLanes s.me.guardMask s.me.liveMask s.me.seed (lane src) ∧ (key ≠ none → f.vd < 112)
      ∧ vecBody f uses shape old lane s src = .done (modMe (Group.takeRun run)
        (putReused f.vd key (src.flatMap VReg.entries) run.flags
          (vresult s.me old (if f.rs then .g else shape src) (fun k => run.vals.getD k 0)) s)) .seq := by
  refine ⟨_, _, rfl, fun hne => ?_, rfl⟩
  by_contra h112
  refine hne (if_neg fun eligible => ?_)
  simp only [Bool.and_eq_true, Bool.not_eq_true'] at eligible
  obtain ⟨⟨-, unported⟩, -⟩ := eligible
  exact List.any_eq_false.mp unported _ hd (decide_eq_true (Nat.le_of_not_lt h112))

/-- A vector word that finds no record of the reuse table completes and delivers the lanes of its run (06 R161). -/
theorem vecBody_laneResult {f : VecForm} {uses : List Use} (shape : List VReg → Shape)
    (lane : List VReg → W32 → Nat → W32 × Flags × W32) {s : State} (src : List VReg) (hr : NoReuse s) (hd : .vd f.vd ∈ uses) :
    ∃ t, vecBody f uses shape (s.me.vreg f.vd) lane s src = .done t .seq
      ∧ LaneResult f.vd (runLanes s.me.guardMask s.me.liveMask s.me.seed (lane src)) (if f.rs then .g else shape src) s t := by
  obtain ⟨key, run, rfl, hk, e⟩ := vecBody_eq shape (s.me.vreg f.vd) lane s src hd
  refine ⟨_, e, ?_, ?_, _, vresult_value .., (putDest_delivers ..).of_me ?_ ?_ ?_⟩
  all_goals rw [me_modMe, putReused_me _ _ _ hr hk]
  all_goals simp [Group.takeRun]

/-! ## Runs that step no rounder -/

/-- A run whose every slot leaves the rounder's state alone computes its slots independently of each other. -/
theorem runLanes_still {act live seed : W32} {f : W32 → Nat → W32 × Flags × W32} (h : ∀ k, (f seed k).2.2 = seed) :
    (runLanes act live seed f).vals = (List.range 32).map (fun k => (f seed k).1) ∧ (runLanes act live seed f).seed = seed := by
  unfold runLanes
  generalize List.range 32 = ks
  induction ks using List.reverseRecOn with
  | nil => exact ⟨rfl, rfl⟩
  | append_singleton ks k ih =>
    obtain ⟨hv, hs⟩ := ih
    rw [List.foldl_append, List.foldl_cons, List.foldl_nil, List.map_append, ← hv, hs]
    dsimp only
    split
    · exact ⟨rfl, h k⟩
    · exact ⟨rfl, rfl⟩

/-- A member that rounds nothing, and any member outside RS, computes every element from LFSR bits 0 and leaves the rounder's
state (01 R22). -/
theorem fpElems_still {w : Nat} {rounds : Bool} {rnd : Nat} (f : Nat → List Nat → Nat × Flags) (xs : List W32) (seed : W32)
    (h : rounds = false ∨ rnd ≠ 6) :
    fpElems w rounds rnd f xs seed = (mapElems w (fun x => (f 0 x).1) xs,
      (List.range (32 / w)).foldl (fun fl j => fl ||| (f 0 (xs.map (elemOf w j))).2) 0, seed) := by
  have draw (sd : W32) : (if rounds = true then drawRound rnd sd else (sd, 0)) = (sd, 0) := by
    rcases h with h | h <;> simp [h, drawRound]
  unfold fpElems mapElems
  simp only [draw]
  generalize List.range (32 / w) = js
  suffices ∀ es fl, js.foldl (fun (acc : List Nat × Flags × W32) j => (acc.1 ++ [(f 0 (xs.map (elemOf w j))).1],
      acc.2.1 ||| (f 0 (xs.map (elemOf w j))).2, acc.2.2)) (es, fl, seed)
      = (es ++ js.map (fun j => (f 0 (xs.map (elemOf w j))).1),
        js.foldl (fun fl j => fl ||| (f 0 (xs.map (elemOf w j))).2) fl, seed) by simp [this]
  induction js with
  | nil => simp
  | cons j js ih => intro es fl; simp [ih]

/-- A member that raises nothing besides is a map of its elements. -/
theorem fpElems_pure (w rnd : Nat) (g : List Nat → Nat) (xs : List W32) (seed : W32) :
    fpElems w false rnd (fun _ x => (g x, 0)) xs seed = (mapElems w g xs, 0, seed) := by
  rw [fpElems_still _ _ _ (.inl rfl)]
  have flags (js : List Nat) : js.foldl (fun (fl : Flags) _ => fl ||| 0) 0 = 0 := by
    induction js with
    | nil => rfl
    | cons _ _ ih => exact ih
  rw [flags]

/-- The lane of a source, by its place among the sources. -/
theorem getD_map_lane (src : List VReg) (k n : Nat) :
    (src.map (fun r => r.lane k)).getD n 0 = (src.getD n (.uniform 0)).lane k := by
  rw [← List.getD_map (f := fun r : VReg => r.lane k)]
  rfl

/-! ## Words of the floating-point view (06 R163, R169 to R174) -/

/-- The run of a floating-point member over the elements of its sources. -/
def fpRun (s : State) (uses : List Use) (rounds : Bool) (fm : Fmt) (f : Nat → List Nat → Nat × Flags) : LaneRun :=
  runLanes s.me.guardMask s.me.liveMask s.me.seed (fun seed k =>
    fpElems fm.width rounds (modeRnd s.me.mode) f ((sourceRegs s.me uses []).map (fun r => r.lane k)) seed)

/-- What a floating-point member does under the ET of MODE: its run is delivered, or the word is an ILLEGAL_FIELD (06 R163). -/
structure FpOutcome (i : Instr) (uses : List Use) (vd : Nat) (rounds : Bool) (f : Fmt → FpEnv → Nat → List Nat → Nat × Flags)
    (s : State) (o : Out) : Prop where
  completes : ∀ fm, fpView (modeEt s.me.mode) = some fm → NoReuse s → ∃ t, o = .next (retire .seq (leaveWord s uses t))
    ∧ LaneResult vd (fpRun s uses rounds fm (f fm (fpEnvOf s.me.mode)))
      (if rounds && modeRnd s.me.mode == 6 then .g else shapeElem (sourceRegs s.me uses [])) s t
  illegal : fpView (modeEt s.me.mode) = none → o = .next (takeTrap s.qid 0x02
    (BitVec.ofNat 64 ((encode i).toNat + 3 * 2 ^ 32 + 2 ^ 46)) s.me.pc s)

theorem wordG_badEt {i : Instr} {uses : List Use} {s : State} {body : State → List VReg → Res} (hg : MayGo i uses s)
    (hb : body s (sourceRegs s.me uses []) = badEt i s) : wordG i uses s body = .next (takeTrap s.qid 0x02
      (BitVec.ofNat 64 ((encode i).toNat + 3 * 2 ^ 32 + 2 ^ 46)) s.me.pc s) := by
  rw [wordG_go hg, hb]; rfl

section
variable {i : Instr} {uses : List Use} {vd : Nat} {s : State} (hg : MayGo i uses s) (hd : .vd vd ∈ uses)
include hg hd

theorem fpWord_outcome (mask : Nat) (rounds : Bool) (f : Fmt → W32 → FpEnv → Nat → List Nat → Nat × Flags) :
    FpOutcome i uses vd rounds (fun fm e => f fm s.me.mode e) s (fpWord i uses vd mask rounds f s) where
  completes fm hf hr := by
    obtain ⟨t, e, result⟩ := vecBody_laneResult
      (f := vform vd (keyVR i) s.me.mode (maskG ||| maskEt ||| mask) (rounds && modeRnd s.me.mode == 6) false) shapeElem
      (fun src seed k => fpElems fm.width rounds (modeRnd s.me.mode) (f fm s.me.mode (fpEnvOf s.me.mode))
        (src.map (fun r => r.lane k)) seed) (sourceRegs s.me uses []) hr hd
    exact ⟨t, wordG_done hg (by simp only [hf]; exact e), result⟩
  illegal hf := by
    unfold fpWord
    exact wordG_badEt hg (by simp only [hf])

theorem signWord_outcome (g : Fmt → List Nat → Nat) :
    FpOutcome i uses vd false (fun fm _ _ x => (g fm x, 0)) s (signWord i uses vd g s) where
  completes fm hf hr := by
    obtain ⟨t, e, result⟩ := vecBody_laneResult (f := { vform vd 0 s.me.mode 0 false false with eligible := false }) shapeElem
      (pureLane (mapElems fm.width (g fm))) (sourceRegs s.me uses []) hr hd
    refine ⟨t, wordG_done hg (by simp only [hf]; exact e), ?_⟩
    simp only [fpRun, fpElems_pure]
    exact result
  illegal hf := wordG_badEt hg (by simp only [hf])

end

/-- Outside RS, or where nothing rounds, the run keeps the rounder's state and each element is computed by itself. -/
theorem fpRun_still (s : State) (uses : List Use) {rounds : Bool} (fm : Fmt) (f : Nat → List Nat → Nat × Flags)
    (h : rounds = false ∨ modeRnd s.me.mode ≠ 6) :
    (fpRun s uses rounds fm f).seed = s.me.seed ∧ ∀ k j, k < 32 → j < 32 / fm.width →
      elemOf fm.width j ((fpRun s uses rounds fm f).vals.getD k 0)
        = (f 0 ((sourceRegs s.me uses []).map (fun r => elemOf fm.width j (r.lane k)))).1 % 2 ^ fm.width := by
  obtain ⟨hv, hs⟩ := runLanes_still (act := s.me.guardMask) (live := s.me.liveMask) (seed := s.me.seed)
    (f := fun seed k => fpElems fm.width rounds (modeRnd s.me.mode) f ((sourceRegs s.me uses []).map (fun r => r.lane k)) seed)
    (fun k => by rw [fpElems_still _ _ _ h])
  refine ⟨hs, fun k j hk hj => ?_⟩
  have lane : (fpRun s uses rounds fm f).vals.getD k 0
      = mapElems fm.width (fun x => (f 0 x).1) ((sourceRegs s.me uses []).map (fun r => r.lane k)) := by
    rw [fpRun, hv, List.getD_eq_getElem?_getD]
    simp [hk, fpElems_still _ _ _ h]
  rw [lane, elemOf_mapElems _ _ hj, List.map_map]
  rfl

/-! ## Dot products (06 R172) -/

/-- The bytes' products and the addend, as their exact sum under the width rule. -/
theorem dot4_eq (sg sat : Bool) (x : List W32) :
    dot4 sg sat x = BitVec.ofNat 32 (widthRule sat sg 32
      (intValue sg 8 (elemOf 8 0 (x.getD 0 0)) * intValue sg 8 (elemOf 8 0 (x.getD 1 0))
        + intValue sg 8 (elemOf 8 1 (x.getD 0 0)) * intValue sg 8 (elemOf 8 1 (x.getD 1 0))
        + intValue sg 8 (elemOf 8 2 (x.getD 0 0)) * intValue sg 8 (elemOf 8 2 (x.getD 1 0))
        + intValue sg 8 (elemOf 8 3 (x.getD 0 0)) * intValue sg 8 (elemOf 8 3 (x.getD 1 0))
        + intValue sg 32 (x.getD 2 0).toNat)) := by
  simp only [dot4, List.range_succ, List.range_zero, List.nil_append, List.foldl_append, List.foldl_cons, List.foldl_nil]
  ring_nf

theorem runLanes_pureLane (s : State) (f : List W32 → W32) (src : List VReg) :
    runLanes s.me.guardMask s.me.liveMask s.me.seed (pureLane f src) = plainRun s (fun k => f (src.map (fun r => r.lane k))) :=
  runLanes_plain ..

section
variable {o : OpVR} {s : State} (hr : NoReuse s)
include hr

theorem execVdot4i_completes (hg : MayGo (.vdot4i o) (usesVR o true) s) (he : modeEt s.me.mode = 4 ∨ modeEt s.me.mode = 5) :
    ∃ t, execVdot4i o s = .next (retire .seq (leaveWord s (usesVR o true) t))
      ∧ LaneResult o.vd.toNat (plainRun s (fun k => dot4 (modeEt s.me.mode == 4) (modeSat s.me.mode)
        ((sourceRegs s.me (usesVR o true) []).map (fun r => r.lane k)))) (shapeElem (sourceRegs s.me (usesVR o true) [])) s t := by
  obtain ⟨t, e, result⟩ := vecBody_laneResult (uses := usesVR o true)
    (f := vform o.vd.toNat (keyVR (.vdot4i o)) s.me.mode (maskG ||| maskEt ||| maskSat) false false) shapeElem
    (pureLane (dot4 (modeEt s.me.mode == 4) (modeSat s.me.mode))) (sourceRegs s.me (usesVR o true) []) hr (List.mem_cons_self ..)
  refine ⟨t, wordG_done hg (by simp only [he, if_true]; exact e), ?_⟩
  rw [← runLanes_pureLane]
  exact result

/-- The run of VDOT2, one rounding place in each slot. -/
def dot2Run (s : State) (uses : List Use) (f : Fmt) : LaneRun :=
  runLanes s.me.guardMask s.me.liveMask s.me.seed (fun seed k =>
    let d := drawRound (modeRnd s.me.mode) seed
    let r := dot2 f (fpEnvOf s.me.mode) d.2 ((srcReg uses s 0).lane k) ((srcReg uses s 1).lane k) ((srcReg uses s 2).lane k)
    (BitVec.ofNat 32 r.1, r.2, d.1))

theorem execVdot2_completes (hg : MayGo (.vdot2 o) (usesVR o true) s) {f : Fmt} (hf : f = .h16 ∨ f = .b16)
    (he : fpView (modeEt s.me.mode) = some f) : ∃ t, execVdot2 o s = .next (retire .seq (leaveWord s (usesVR o true) t))
      ∧ LaneResult o.vd.toNat (dot2Run s (usesVR o true) f)
        (if modeRnd s.me.mode == 6 then .g else shapeElem (sourceRegs s.me (usesVR o true) [])) s t := by
  obtain ⟨t, e, result⟩ := vecBody_laneResult (uses := usesVR o true)
    (f := vform o.vd.toNat (keyVR (.vdot2 o)) s.me.mode maskAll (modeRnd s.me.mode == 6) false) shapeElem
    (fun src seed k =>
      let d := drawRound (modeRnd s.me.mode) seed
      let x := src.map (fun r => r.lane k)
      let r := dot2 f (fpEnvOf s.me.mode) d.2 (x.getD 0 0) (x.getD 1 0) (x.getD 2 0)
      (BitVec.ofNat 32 r.1, r.2, d.1)) (sourceRegs s.me (usesVR o true) []) hr (List.mem_cons_self ..)
  refine ⟨t, wordG_done hg ?_, ?_⟩
  · rcases hf with rfl | rfl <;> (simp only [he]; exact e)
  · simp only [getD_map_lane] at result
    exact result

end

/-! ## The members -/

/-- The members of majors 0x1B and 0x1C with two vector sources: whether VD is a third source, whether the member rounds, and the
value of an element (06 R169 to R171). -/
def fpMembers (o : OpVR) : List (Instr × Bool × Bool × (Fmt → FpEnv → Nat → List Nat → Nat × Flags)) :=
  [(.vfadd o, false, true, fun f e l x => fpAdd f e l (x.getD 0 0) (x.getD 1 0)),
    (.vfsub o, false, true, fun f e l x => fpSub f e l (x.getD 0 0) (x.getD 1 0)),
    (.vfmul o, false, true, fun f e l x => fpMul f e l (x.getD 0 0) (x.getD 1 0)),
    (.vfmin o, false, false, fun f e _ x => fpMinMax f e false (x.getD 0 0) (x.getD 1 0)),
    (.vfmax o, false, false, fun f e _ x => fpMinMax f e true (x.getD 0 0) (x.getD 1 0)),
    (.vfsgn o, false, false, fun f _ _ x => (x.getD 0 0 % 2 ^ (f.width - 1)
      + x.getD 1 0 / 2 ^ (f.width - 1) % 2 * 2 ^ (f.width - 1), 0)),
    (.vfma o, true, true, fun f e l x => fpFma f e l false false (x.getD 0 0) (x.getD 1 0) (x.getD 2 0)),
    (.vfms o, true, true, fun f e l x => fpFma f e l false true (x.getD 0 0) (x.getD 1 0) (x.getD 2 0)),
    (.vfnma o, true, true, fun f e l x => fpFma f e l true false (x.getD 0 0) (x.getD 1 0) (x.getD 2 0))]

/-- Each of them is a word of the floating-point view, or of its signs. -/
theorem exec_fpMembers_outcome {o : OpVR} {acc rounds : Bool} {i : Instr} {f : Fmt → FpEnv → Nat → List Nat → Nat × Flags} {s : State}
    (hm : (i, acc, rounds, f) ∈ fpMembers o) (hg : MayGo i (usesVR o acc) s) :
    FpOutcome i (usesVR o acc) o.vd.toNat rounds f s (exec i s) := by
  have hd : .vd o.vd.toNat ∈ usesVR o acc := List.mem_cons_self ..
  simp only [fpMembers, List.mem_cons, List.not_mem_nil, or_false, Prod.mk.injEq] at hm
  rcases hm with ⟨rfl, rfl, rfl, rfl⟩ | ⟨rfl, rfl, rfl, rfl⟩ | ⟨rfl, rfl, rfl, rfl⟩ | ⟨rfl, rfl, rfl, rfl⟩ | ⟨rfl, rfl, rfl, rfl⟩
    | ⟨rfl, rfl, rfl, rfl⟩ | ⟨rfl, rfl, rfl, rfl⟩ | ⟨rfl, rfl, rfl, rfl⟩ | ⟨rfl, rfl, rfl, rfl⟩
  · exact fpWord_outcome hg hd maskRound true fun f _ env l x => fpAdd f env l (e0 x) (e1 x)
  · exact fpWord_outcome hg hd maskRound true fun f _ env l x => fpSub f env l (e0 x) (e1 x)
  · exact fpWord_outcome hg hd maskRound true fun f _ env l x => fpMul f env l (e0 x) (e1 x)
  · exact fpWord_outcome hg hd (maskFtz ||| maskNanp) false fun f _ env _ x => fpMinMax f env false (e0 x) (e1 x)
  · exact fpWord_outcome hg hd (maskFtz ||| maskNanp) false fun f _ env _ x => fpMinMax f env true (e0 x) (e1 x)
  · exact signWord_outcome hg hd fun f x => putSign f (signOf f (e1 x)) (e0 x)
  · exact fpWord_outcome hg hd maskRound true fun f _ env l x => fpFma f env l false false (e0 x) (e1 x) (e2 x)
  · exact fpWord_outcome hg hd maskRound true fun f _ env l x => fpFma f env l false true (e0 x) (e1 x) (e2 x)
  · exact fpWord_outcome hg hd maskRound true fun f _ env l x => fpFma f env l true false (e0 x) (e1 x) (e2 x)

/-- The members with one vector source: two signs of major 0x1B, and the SFU (06 R170, R173). -/
def fpMembers1 (o : OpVR1) (mode : W32) : List (Instr × Bool × (Fmt → FpEnv → Nat → List Nat → Nat × Flags)) :=
  [(.vfabs o, false, fun f _ _ x => (x.getD 0 0 % 2 ^ (f.width - 1), 0)),
    (.vfneg o, false, fun f _ _ x => (x.getD 0 0 % 2 ^ (f.width - 1)
      + (1 - x.getD 0 0 / 2 ^ (f.width - 1) % 2) * 2 ^ (f.width - 1), 0)),
    (.vrcp o, true, fun f e l x => sfuOp f e 0 mode l (x.getD 0 0)),
    (.vrsq o, true, fun f e l x => sfuOp f e 1 mode l (x.getD 0 0)),
    (.vsqrt o, true, fun f e l x => sfuOp f e 2 mode l (x.getD 0 0)),
    (.vexp2 o, true, fun f e l x => sfuOp f e 3 mode l (x.getD 0 0)),
    (.vlog2 o, true, fun f e l x => sfuOp f e 4 mode l (x.getD 0 0)),
    (.vsin o, true, fun f e l x => sfuOp f e 5 mode l (x.getD 0 0)),
    (.vcos o, true, fun f e l x => sfuOp f e 6 mode l (x.getD 0 0)),
    (.vtanh o, true, fun f e l x => sfuOp f e 7 mode l (x.getD 0 0))]

/-- Each of them is a word of the floating-point view, or of its signs. -/
theorem exec_fpMembers1_outcome {o : OpVR1} {rounds : Bool} {i : Instr} {f : Fmt → FpEnv → Nat → List Nat → Nat × Flags} {s : State}
    (hm : (i, rounds, f) ∈ fpMembers1 o s.me.mode) (hg : MayGo i (usesVR1 o) s) :
    FpOutcome i (usesVR1 o) o.vd.toNat rounds f s (exec i s) := by
  have hd : .vd o.vd.toNat ∈ usesVR1 o := List.mem_cons_self ..
  have sfu {j : Instr} (member : Nat) (hj : MayGo j (usesVR1 o) s) : FpOutcome j (usesVR1 o) o.vd.toNat true
      (fun f e l x => sfuOp f e member s.me.mode l (x.getD 0 0)) s (sfuWord j o member s) :=
    fpWord_outcome hj hd maskRound true fun f m env l x => sfuOp f env member m l (e0 x)
  simp only [fpMembers1, List.mem_cons, List.not_mem_nil, or_false, Prod.mk.injEq] at hm
  rcases hm with ⟨rfl, rfl, rfl⟩ | ⟨rfl, rfl, rfl⟩ | ⟨rfl, rfl, rfl⟩ | ⟨rfl, rfl, rfl⟩ | ⟨rfl, rfl, rfl⟩
    | ⟨rfl, rfl, rfl⟩ | ⟨rfl, rfl, rfl⟩ | ⟨rfl, rfl, rfl⟩ | ⟨rfl, rfl, rfl⟩ | ⟨rfl, rfl, rfl⟩
  · have unsigned (f : Fmt) (x : List Nat) : x.getD 0 0 % 2 ^ (f.width - 1) = putSign f 0 (e0 x) := by simp [putSign, e0]
    simp only [unsigned]
    exact signWord_outcome hg hd fun f x => putSign f 0 (e0 x)
  · exact signWord_outcome hg hd fun f x => putSign f (1 - signOf f (e0 x)) (e0 x)
  · exact sfu 0 hg
  · exact sfu 1 hg
  · exact sfu 2 hg
  · exact sfu 3 hg
  · exact sfu 4 hg
  · exact sfu 5 hg
  · exact sfu 6 hg
  · exact sfu 7 hg

/-- Settles O28: the special values are read off the sums of special terms and the rows of the SFU, and each word runs its lanes in the
shared frame (`fpWord_outcome`, `signWord_outcome`), where a run outside RS computes each element by itself (`fpRun_still`). -/
theorem vectorFloating : Obligations.VectorFloating := by
  unfold Obligations.VectorFloating
  refine ⟨fun f env l a b mode _ hn => ⟨?_, ?_, ?_, ?_, ?_, ?_, ?_, ?_⟩, ⟨?_, ?_⟩⟩
  · rintro ⟨n, p, ha⟩
    exact ⟨fpAdd_nan_left hn l ha, fpSub_nan_left hn l ha, fpMul_nan_left hn l ha⟩
  · exact fun n ha hb => fpAdd_inf_opposite hn l ha hb
  · exact fun n ha hb => fpSub_inf_same hn l ha hb
  · exact fun n e k ha hb => fpMul_inf_zero hn l ha hb
  · rintro member - ⟨n, p, ha⟩
    exact sfuOp_nan hn l member mode ha
  · exact fun n e ha => sfuOp_zero env l mode ha
  · exact fun ha => sfuOp_inf hn l mode ha
  · exact fun m e hm ha hs member hk => sfuOp_negative hn l mode hm ha hs hk
  · intro s i uses vd rounds f env hform hg
    have outcome : FpOutcome i uses vd rounds f s (exec i s) := by
      rcases hform with ⟨o, acc, rfl, rfl, hm⟩ | ⟨o, rfl, rfl, hm⟩
      · exact exec_fpMembers_outcome hm hg
      · exact exec_fpMembers1_outcome hm hg
    refine ⟨fun fm hf hr => ?_, outcome.illegal⟩
    obtain ⟨t, e, result⟩ := outcome.completes fm hf hr
    exact ⟨t, _, e, rfl, result, fpRun_still s uses fm (f fm env)⟩
  · intro o s uses
    refine ⟨fun hg he hr => ?_, fun hg he hr => ?_⟩
    · obtain ⟨t, e, result⟩ := execVdot4i_completes hr hg he
      refine ⟨t, e, ?_⟩
      simp only [dot4_eq, getD_map_lane] at result
      exact result
    · have hv : fpView (modeEt s.me.mode) = some (if modeEt s.me.mode = 7 then .h16 else .b16) := by
        rcases he with he | he <;> rw [he] <;> rfl
      obtain ⟨t, e, result⟩ := execVdot2_completes hr hg (ite_eq_or_eq ..) hv
      simp only [beq_iff_eq] at result
      exact ⟨t, _, e, rfl, result⟩

end Sys2Proof.Machine
end

section
/-!
REGISTERS (O12). What a register reads after a write or an emptying, of it or of another one, and what stays where one group changes.
-/

namespace Sys2Proof.Machine

/-! ## Full bits (02 R53, R54) -/

theorem getLsbD_fill {w : Nat} (x : BitVec w) (n m : Nat) :
    (x ||| BitVec.ofNat w (2 ^ n)).getLsbD m = (x.getLsbD m || (decide (m < w) && decide (n = m))) := by
  rw [BitVec.getLsbD_or, BitVec.getLsbD_ofNat, Nat.testBit_two_pow]

theorem getLsbD_clear {w : Nat} (x : BitVec w) (n m : Nat) :
    (x &&& ~~~BitVec.ofNat w (2 ^ n)).getLsbD m = (x.getLsbD m && decide (n ≠ m)) := by
  rw [BitVec.getLsbD_and, BitVec.getLsbD_not, BitVec.getLsbD_ofNat, Nat.testBit_two_pow]
  by_cases hm : m < w
  · simp [hm]
  · simp [BitVec.getLsbD_of_ge x m (Nat.le_of_not_lt hm)]

/-! ## Scalar registers (02 R53, 05 R155) -/

@[simp] theorem Group.writeS_zero (v : W64) (g : Group) : g.writeS 0 v = g := if_pos rfl
@[simp] theorem Group.readS_zero (g : Group) : g.readS 0 = 0 := if_pos rfl
@[simp] theorem Group.sFull_zero (g : Group) : g.sFull 0 = true := rfl

section
variable {n m : Nat} (v : W64) (g : Group)

theorem Group.readS_writeS_same : (g.writeS n v).readS n = if n = 0 then 0 else v := by
  by_cases h0 : n = 0
  · simp [h0]
  · simp [Group.writeS, Group.readS, h0]

theorem Group.sFull_writeS_same (hn : n < 64) : (g.writeS n v).sFull n = true := by
  by_cases h0 : n = 0
  · subst h0; rfl
  · simp only [Group.writeS, Group.sFull, h0, if_false, getLsbD_fill, hn, decide_true, Bool.and_self, Bool.or_true]

theorem Group.readS_writeS_other (h : m ≠ n) : (g.writeS n v).readS m = g.readS m := by
  by_cases h0 : n = 0
  · simp [h0]
  · simp [Group.writeS, Group.readS, h0, h]

theorem Group.sFull_writeS_other (h : m ≠ n) : (g.writeS n v).sFull m = g.sFull m := by
  by_cases h0 : n = 0
  · simp [h0]
  · simp only [Group.writeS, Group.sFull, h0, if_false, getLsbD_fill, h.symm, decide_false, Bool.and_false, Bool.or_false]

@[simp] theorem Group.vreg_writeS : (g.writeS n v).vreg m = g.vreg m := by
  simp [Group.vreg]

@[simp] theorem Group.readS_emptyS : (g.emptyS n).readS m = g.readS m := by
  simp [Group.readS]

theorem Group.sFull_emptyS_same (hn : n ≠ 0) : (g.emptyS n).sFull n = false := by
  simp only [Group.emptyS, Group.sFull, hn, if_false, getLsbD_clear, ne_eq, not_true, decide_false, Bool.and_false, Bool.or_false,
    beq_eq_false_iff_ne, not_false_eq_true]

theorem Group.sFull_emptyS_other (h : m ≠ n) : (g.emptyS n).sFull m = g.sFull m := by
  unfold Group.emptyS
  split
  · rfl
  · simp only [Group.sFull, getLsbD_clear, ne_eq, h.symm, not_false_eq_true, decide_true, Bool.and_true]

end

/-- Settles O12: what a register reads after a write or an emptying, of it and of another register. -/
theorem scalarRegisters : Obligations.ScalarRegisters := by
  unfold Obligations.ScalarRegisters
  intro g n v hn
  exact ⟨fun h0 => ⟨(g.readS_writeS_same v).trans (if_neg h0), g.sFull_writeS_same v hn⟩, g.writeS_zero v, g.readS_zero, g.sFull_zero,
    fun m _ hm => ⟨g.readS_writeS_other v hm, g.sFull_writeS_other v hm, g.readS_emptyS, g.sFull_emptyS_other hm⟩,
    fun h0 => g.sFull_emptyS_same h0⟩

/-! ## Vector registers (02 R50, R51) -/

/-- Vector register n written and full, without a mark of bad data: what `putVq` and `putNamed` make of the group. -/
def Group.writeV (n : Nat) (r : VReg) (g : Group) : Group :=
  { g with v := Tab.set g.v n r, fullV := g.fullV ||| BitVec.ofNat 112 (2 ^ n), badV := Tab.del g.badV n }

section
variable {n m : Nat} (r : VReg) (g : Group)

@[simp] theorem Group.vreg_writeV_same : (g.writeV n r).vreg n = r := by
  simp [Group.writeV, Group.vreg]

theorem Group.vreg_writeV_other (h : m ≠ n) : (g.writeV n r).vreg m = g.vreg m := by
  simp [Group.writeV, Group.vreg, h]

theorem Group.vFull_writeV_same (hn : n < 112) : (g.writeV n r).vFull n = true := by
  simp only [Group.writeV, Group.vFull, getLsbD_fill, hn, decide_true, Bool.and_self, Bool.or_true]

theorem Group.vFull_writeV_other (h : m ≠ n) : (g.writeV n r).vFull m = g.vFull m := by
  simp only [Group.writeV, Group.vFull, getLsbD_fill, h.symm, decide_false, Bool.and_false, Bool.or_false]

end

/-- A write of a vector register delivers its value to the group, under a name of the store of its core (02 R58). -/
theorem putVq_writeV (q n : Nat) (r : VReg) (s : State) : ∃ (r' : VReg) (cs : Tab Core),
    putVq q n r s = modGroup q (Group.writeV n r') { s with cores := cs } ∧ r'.lanes = r.lanes ∧ r'.code = r.code :=
  putVq_spec q n r s

theorem lane_of_lanes {r r' : VReg} (h : r'.lanes = r.lanes) {k : Nat} (hk : k < 32) : r'.lane k = r.lane k :=
  List.map_inj_left.mp h k (List.mem_range.mpr hk)

/-- The masked slots of a general value are new, the others keep theirs (R50, R51). -/
theorem generalReg_lane (old : VReg) (mask : W32) (new : Nat → W32) {k : Nat} (hk : k < 32) :
    (generalReg old mask new).lane k = if mask.getLsbD k then new k else old.lane k := by
  simp [generalReg, VReg.lane, List.getD_eq_getElem?_getD, hk]

theorem mergeReg_lane (old : VReg) (mask : W32) (new : Nat → W32) {k : Nat} (hk : k < 32) :
    (mergeReg old mask new).lane k = if mask.getLsbD k then new k else old.lane k := by
  unfold mergeReg
  split
  · next kept =>
    have slot := List.all_eq_true.mp kept k (List.mem_range.mpr hk)
    split
    · next acted => exact Eq.symm (by simpa [acted] using slot)
    · rfl
  · exact generalReg_lane old mask new hk

/-! ## Changes that stay in one group and in the cores -/

/-- Nothing but the group of a slot and the cores changes. -/
structure InGroup (q : Nat) (s t : State) : Prop where
  rest : t = { s with groups := t.groups, cores := t.cores }
  others : ∀ k, k ≠ q → groupAt t k = groupAt s k

namespace InGroup
variable {q : Nat} {s t u : State}

theorem refl : InGroup q s s := ⟨rfl, fun _ _ => rfl⟩

theorem trans (h : InGroup q s t) (h' : InGroup q t u) : InGroup q s u where
  rest := h'.rest.trans (by rw [h.rest])
  others k hk := (h'.others k hk).trans (h.others k hk)

theorem modGroup (f : Group → Group) : InGroup q s (modGroup q f s) :=
  ⟨rfl, fun _ hk => groupAt_modGroup_other _ _ _ _ hk⟩

theorem cores (cs : Tab Core) : InGroup q s { s with cores := cs } := ⟨rfl, fun _ _ => rfl⟩

theorem count (core ev vf n : Nat) : InGroup q s (count core ev vf n s) := by
  obtain ⟨cs, e⟩ := count_eq core ev vf n s
  rw [e]
  exact cores cs

theorem foldl {α : Type} {f : State → α → State} (hf : ∀ u x, InGroup q u (f u x)) (l : List α) : InGroup q s (l.foldl f s) := by
  induction l generalizing s with
  | nil => exact refl
  | cons x l ih => exact (hf s x).trans ih

theorem sameMemory (h : InGroup q s t) : SameMemory s t := by
  intro key pa
  rw [h.rest]
  rfl

end InGroup
end Sys2Proof.Machine
end

section
/-!
RETURNS AND ANSWERS (O45). A return writes the group of its slot and the cores; an answer lands beside what its service does; and the
second part of a word that waited completes.
-/

namespace Sys2Proof.Machine

/-! ## Where a return lands (02 R54, R68, R69) -/

/-- A wait ends, or goes on. -/
theorem unblock_eq (q : Nat) (s : State) :
    unblock q s = modGroup q (fun g => { g with blocked := none, readyAt := s.cclk }) s ∨ unblock q s = s := ite_eq_or_eq ..

namespace InGroup
variable {q : Nat} {s : State}

theorem putVq (n : Nat) (r : VReg) : InGroup q s (putVq q n r s) := by
  obtain ⟨r', cs, e, -, -⟩ := putVq_writeV q n r s
  rw [e]
  exact (cores cs).trans (modGroup _)

theorem landPart (p : RetPart) : InGroup q s (landPart q p s) := by
  unfold Machine.landPart
  split
  · exact modGroup _
  · split
    · exact count _ _ _ _
    · unfold landV
      exact (putVq _ _).trans (modGroup _)
  · exact count _ _ _ _

theorem unblock : InGroup q s (unblock q s) := by
  rcases unblock_eq q s with e | e
  · rw [e]; exact modGroup _
  · rw [e]; exact refl

theorem landRecord (r : Return) (key : List Nat) : InGroup q s (landRecord r key s) := by
  unfold Machine.landRecord
  dsimp only
  (repeat' split)
  · exact refl
  · exact cores _
  · exact cores _
  · exact refl

theorem land (r : Return) : InGroup r.q s (land r s) := by
  have parts : InGroup r.q s (Machine.unblock r.q (r.parts.foldl (fun t p => Machine.landPart r.q p t) s)) :=
    (foldl (fun _ p => landPart p) r.parts).trans unblock
  unfold Machine.land
  dsimp only
  (repeat' split)
  · exact count _ _ _ _
  · exact parts
  · exact parts.trans (landRecord _ _)
  · exact parts

end InGroup

/-- The end of a wait changes no register. -/
theorem groupAt_unblock (q : Nat) (s : State) :
    ∃ b c, groupAt (unblock q s) q = { groupAt s q with blocked := b, readyAt := c } := by
  rcases unblock_eq q s with e | e
  · exact ⟨_, _, (congrArg (groupAt · q) e).trans (groupAt_modGroup_same _ _ _)⟩
  · exact ⟨_, _, congrArg (groupAt · q) e⟩

theorem groupAt_landRecord (r : Return) (key : List Nat) (s : State) (q : Nat) : groupAt (landRecord r key s) q = groupAt s q := by
  unfold landRecord
  dsimp only
  (repeat' split) <;> rfl

/-- The return of a group that has ended is dropped (02 R68). -/
theorem groupAt_land_ended {r : Return} {s : State} (h : (groupAt s r.q).st = .vacant ∨ (groupAt s r.q).gen ≠ r.gen) :
    groupAt (land r s) r.q = groupAt s r.q := by
  unfold land
  dsimp only
  rw [if_pos h]
  exact groupAt_count _ _ _ _ _ _

/-- The return of a group that goes on delivers its part, and may end a wait (02 R54). -/
theorem groupAt_land_part {r : Return} {s : State} {p : RetPart} (hv : (groupAt s r.q).st ≠ .vacant)
    (hg : (groupAt s r.q).gen = r.gen) (hp : r.parts = [p]) :
    ∃ b c, groupAt (land r s) r.q = { groupAt (landPart r.q p s) r.q with blocked := b, readyAt := c } := by
  obtain ⟨b, c, e⟩ := groupAt_unblock r.q (landPart r.q p s)
  refine ⟨b, c, ?_⟩
  unfold land
  dsimp only
  rw [if_neg (not_or.mpr ⟨hv, not_not.mpr hg⟩), hp]
  (repeat' split)
  · exact e
  · exact (groupAt_landRecord _ _ _ _).trans e
  · exact e

/-- A scalar part writes its register; its mark of bad data is beside the value. -/
theorem groupAt_landPart_scalar (q n : Nat) (v : W64) (bad : Option W64) (s : State) :
    ∃ b, groupAt (landPart q (.scalar n v bad) s) q = { (groupAt s q).writeS n v with badS := b } := by
  unfold landPart landS
  rw [groupAt_modGroup_same]
  dsimp only
  split
  · split <;> exact ⟨_, rfl⟩
  · exact ⟨_, rfl⟩

/-- A vector part writes its register where it is allotted: the masked lanes are new, the others stay, and the value is general where
the guard covered every live slot (02 R50, R51, R69). -/
theorem groupAt_landPart_vector {q n : Nat} (mask : W32) (cover : Bool) (lanes : List W32) (bad : Option W64) {s : State}
    (h : n < s.vtop (groupAt s q)) :
    ∃ r b, groupAt (landPart q (.vector n mask cover lanes bad) s) q = { (groupAt s q).writeV n r with badV := b }
      ∧ (∀ k, k < 32 → r.lane k = if mask.getLsbD k then lanes.getD k 0 else ((groupAt s q).vreg n).lane k)
      ∧ (cover = true → r.code = 2) := by
  let merged := if cover then generalReg ((groupAt s q).vreg n) mask (fun k => lanes.getD k 0)
    else mergeReg ((groupAt s q).vreg n) mask (fun k => lanes.getD k 0)
  obtain ⟨r, cs, e, hl, hc⟩ := putVq_writeV q n merged s
  refine ⟨r, ?_, ?_, fun k hk => ?_, ?_⟩
  rotate_left
  · rw [landPart, if_neg (Nat.not_le.mpr h), landV, groupAt_modGroup_same, e, groupAt_modGroup_same]
    rfl
  · rw [lane_of_lanes hl hk]
    cases cover
    · exact mergeReg_lane _ _ _ hk
    · exact generalReg_lane _ _ _ hk
  · rintro rfl
    exact hc

/-- A part for a released register is dropped (02 R69). -/
theorem groupAt_landPart_released {q n : Nat} (mask : W32) (cover : Bool) (lanes : List W32) (bad : Option W64) {s : State}
    (h : s.vtop (groupAt s q) ≤ n) : groupAt (landPart q (.vector n mask cover lanes bad) s) q = groupAt s q := by
  rw [landPart, if_pos h]
  exact groupAt_count _ _ _ _ _ _

section
variable {q n m : Nat} (mask : W32) (cover : Bool) (lanes : List W32) (bad : Option W64) (s : State)

theorem groupAt_landPart_vector_other (hm : m ≠ n) :
    (groupAt (landPart q (.vector n mask cover lanes bad) s) q).vreg m = (groupAt s q).vreg m := by
  rcases Nat.lt_or_ge n (s.vtop (groupAt s q)) with h | h
  · obtain ⟨r, b, e, -, -⟩ := groupAt_landPart_vector mask cover lanes bad h
    rw [e]
    exact Group.vreg_writeV_other r _ hm
  · rw [groupAt_landPart_released mask cover lanes bad h]

theorem groupAt_landPart_vector_readS (m : Nat) :
    (groupAt (landPart q (.vector n mask cover lanes bad) s) q).readS m = (groupAt s q).readS m := by
  rcases Nat.lt_or_ge n (s.vtop (groupAt s q)) with h | h
  · obtain ⟨r, b, e, -, -⟩ := groupAt_landPart_vector mask cover lanes bad h
    rw [e]
    rfl
  · rw [groupAt_landPart_released mask cover lanes bad h]

end

/-- A scalar return: its register is full and holds the value, and no other register changes. -/
theorem land_scalar {r : Return} {s : State} {n : Nat} {v : W64} {bad : Option W64} (hv : (groupAt s r.q).st ≠ .vacant)
    (hg : (groupAt s r.q).gen = r.gen) (hp : r.parts = [.scalar n v bad]) (hn : n < 64) :
    (groupAt (land r s) r.q).sFull n = true ∧ (groupAt (land r s) r.q).readS n = (if n = 0 then 0 else v)
      ∧ (∀ m, m ≠ n → (groupAt (land r s) r.q).readS m = (groupAt s r.q).readS m)
      ∧ (∀ m, (groupAt (land r s) r.q).vreg m = (groupAt s r.q).vreg m) := by
  obtain ⟨b, c, landed⟩ := groupAt_land_part hv hg hp
  obtain ⟨d, written⟩ := groupAt_landPart_scalar r.q n v bad s
  rw [landed, written]
  exact ⟨Group.sFull_writeS_same v _ hn, Group.readS_writeS_same v _, fun m hm => Group.readS_writeS_other v _ hm,
    fun _ => Group.vreg_writeS v _⟩

/-- A vector return: its register is full and holds the masked lanes where it is allotted, and no other register changes. -/
theorem land_vector {r : Return} {s : State} {n : Nat} {mask : W32} {cover : Bool} {lanes : List W32} {bad : Option W64}
    (hv : (groupAt s r.q).st ≠ .vacant) (hg : (groupAt s r.q).gen = r.gen) (hp : r.parts = [.vector n mask cover lanes bad])
    (hn : n < 112) :
    (n < s.vtop (groupAt s r.q) → (groupAt (land r s) r.q).vFull n = true
      ∧ (∀ k, k < 32 → ((groupAt (land r s) r.q).vreg n).lane k
        = if mask.getLsbD k then lanes.getD k 0 else ((groupAt s r.q).vreg n).lane k)
      ∧ (cover = true → ((groupAt (land r s) r.q).vreg n).code = 2))
    ∧ (s.vtop (groupAt s r.q) ≤ n → (groupAt (land r s) r.q).vreg n = (groupAt s r.q).vreg n
      ∧ (groupAt (land r s) r.q).vFull n = (groupAt s r.q).vFull n)
    ∧ (∀ m, m ≠ n → (groupAt (land r s) r.q).vreg m = (groupAt s r.q).vreg m)
    ∧ (∀ m, (groupAt (land r s) r.q).readS m = (groupAt s r.q).readS m) := by
  obtain ⟨b, c, landed⟩ := groupAt_land_part hv hg hp
  rw [landed]
  refine ⟨fun allotted => ?_, fun released => ?_, fun m hm => groupAt_landPart_vector_other mask cover lanes bad s hm,
    groupAt_landPart_vector_readS mask cover lanes bad s⟩
  · obtain ⟨x, d, written, hl, hc⟩ := groupAt_landPart_vector mask cover lanes bad allotted
    have value : ((groupAt s r.q).writeV n x).vreg n = x := Group.vreg_writeV_same x _
    rw [written]
    exact ⟨Group.vFull_writeV_same x _ hn, fun k hk => (congrArg (VReg.lane · k) value).trans (hl k hk),
      fun covers => (congrArg VReg.code value).trans (hc covers)⟩
  · rw [groupAt_landPart_released mask cover lanes bad released]
    exact ⟨rfl, rfl⟩

theorem exec_registerReturn {id : Nat} {s : State} {r : Return} (h : Tab.find s.returns id = some r) :
    exec (.registerReturn id) s = .next (land r { s with returns := Tab.del s.returns id }) := by
  show event _ ((Tab.find s.returns id).map _) = _
  rw [h]
  rfl

/-! ## The answer of a system call (05 R149, 02 R68, 22 R470) -/

theorem writeParts_eq (vf : Nat) (ps : List (Nat × Nat)) (bs : List Byte) (s : State) :
    ∃ m l d, writeParts vf ps bs s = { s with mem := m, lineKey := l, badLines := d } := by
  induction ps generalizing bs s with
  | nil => exact ⟨_, _, _, rfl⟩
  | cons p ps ih =>
    obtain ⟨m, l, d, e⟩ := writePas_eq (keyNum s vf) p.1 (bs.take p.2) s
    obtain ⟨m', l', d', e'⟩ := ih (bs.drop p.2) (writePas (keyNum s vf) p.1 (bs.take p.2) s)
    exact ⟨m', l', d', e'.trans (by rw [e])⟩

theorem engineWrite_eq {e : Env} {va : Nat} {bs : List Byte} {s t : State} (h : (engineWrite e va bs s).toOption = some t) :
    ∃ m l d, t = { s with mem := m, lineKey := l, badLines := d } := by
  unfold engineWrite at h
  split at h
  · cases h
  · next ps _ =>
    obtain ⟨m, l, d, w⟩ := writeParts_eq e.vf ps bs s
    exact ⟨m, l, d, (Option.some.inj h).symm.trans w⟩

/-- A service writes memory and the log of its function (22 R470). -/
theorem syscEffect_eq {e : Env} {r : SyscRec} {v : W64} {bytes : List Byte} {s t : State}
    (h : syscEffect e r v bytes s = some t) :
    ∃ m l d f, t = { s with mem := m, lineKey := l, badLines := d, vfs := f } := by
  unfold syscEffect at h
  split at h
  · cases h; exact ⟨_, _, _, _, rfl⟩
  · split at h
    · obtain ⟨bs, -, rfl⟩ := Option.map_eq_some_iff.mp h
      exact ⟨_, _, _, _, rfl⟩
    · obtain ⟨m, l, d, rfl⟩ := engineWrite_eq h
      exact ⟨_, _, _, _, rfl⟩
    · split at h <;> cases h
      exact ⟨_, _, _, _, rfl⟩
    · cases h; exact ⟨_, _, _, _, rfl⟩

/-- An advance of MEMGEN changes its team and the cores (02 R65). -/
theorem bumpMemGen_eq (k : Nat) (s : State) :
    ∃ cs, bumpMemGen k s = { modTeam k (fun t => { t with memGen := t.memGen + 1 }) s with cores := cs } := by
  unfold bumpMemGen
  dsimp only
  split <;> exact ⟨_, rfl⟩

/-- The group of a call as its answer lands. -/
def Group.takeAnswer (y : PendingSysc) (v : W64) (cclk : Nat) (g : Group) : Group :=
  { g.writeS y.dest v with
    sysc := none, blocked := if g.blocked = some .sysc then none else g.blocked
    readyAt := if g.blocked = some .sysc then cclk else g.readyAt }

/-- What the answer of a call leaves: its register holds it, the call is over, MEMGEN of the team has advanced and no other group has
changed (05 R149). -/
structure AnswerLanded (q : Nat) (y : PendingSysc) (v : W64) (s t : State) : Prop where
  syscs : t.syscs = Tab.del s.syscs y.handle.toNat
  group : ∃ b c, groupAt t q = { (groupAt s q).writeS y.dest v with sysc := none, blocked := b, readyAt := c }
  memGen : (teamAt t (groupAt s q).team).memGen = (teamAt s (groupAt s q).team).memGen + 1
  others : ∀ k, k ≠ q → groupAt t k = groupAt s k

section
variable {q : Nat} {y : PendingSysc} {v : W64} {s t : State}

theorem AnswerLanded.register (h : AnswerLanded q y v s t) (hd : y.dest < 64) : (groupAt t q).sysc = none
    ∧ (groupAt t q).sFull y.dest = true ∧ (groupAt t q).readS y.dest = (if y.dest = 0 then 0 else v) := by
  obtain ⟨b, c, group⟩ := h.group
  rw [group]
  exact ⟨rfl, Group.sFull_writeS_same v _ hd, Group.readS_writeS_same v _⟩

theorem landSysc_answerLanded (v : W64) (h : (groupAt s q).sysc = some y) : AnswerLanded q y v s (landSysc q v s) := by
  let ended : State := { modGroup q (Group.takeAnswer y v s.cclk) s with syscs := Tab.del s.syscs y.handle.toNat }
  obtain ⟨cs, bumped⟩ := bumpMemGen_eq (groupAt s q).team (unblock q ended)
  obtain ⟨b, c, group⟩ := groupAt_unblock q ended
  have within : InGroup q ended (unblock q ended) := InGroup.unblock
  have e : landSysc q v s = { modTeam (groupAt s q).team (fun t => { t with memGen := t.memGen + 1 }) (unblock q ended) with
      cores := cs } := by
    rw [← bumped]
    unfold landSysc
    rw [h]
    rfl
  rw [e]
  refine ⟨?_, ⟨b, c, ?_⟩, ?_, fun k hk => ?_⟩
  · show (unblock q ended).syscs = _
    rw [within.rest]
  · exact group.trans (by
      rw [show groupAt ended q = _ from groupAt_modGroup_same q (Group.takeAnswer y v s.cclk) s, Group.takeAnswer])
  · have teams : (unblock q ended).teams = s.teams := by rw [within.rest]; rfl
    simp [teamAt, modTeam, teams]
  · exact (within.others k hk).trans (groupAt_modGroup_other q (Group.takeAnswer y v s.cclk) s k hk)

end

/-- The entry of the group table that waits for the answer of a handle: one that has not stopped (17 R404). -/
def ownsCall (handle : W64) (e : Nat × Group) : Bool :=
  e.2.st != .stopped && (match e.2.sysc with
    | some y => y.handle == handle
    | none => false)

section
variable {handle answer : W64} {bytes : List Byte} {s : State} {r : SyscRec}
  (hr : Tab.find s.syscs handle.toNat = some r) (hok : syscAnswerOk r answer = true) (hn : r.answer = none)
include hr hok hn

/-- The answer of a group that has ended is dropped (02 R68). -/
theorem execSyscAnswer_gone (hg : r.gone = true) : execSyscAnswer handle answer bytes s
    = .next (count r.core evGendrop r.vf 1 { s with syscs := Tab.del s.syscs handle.toNat }) := by
  simp only [execSyscAnswer, hr, hok, hn, hg, Bool.not_true, Option.isSome_none, Bool.or_self, Bool.false_eq_true, if_false, if_true,
    event_some]

/-- The answer of a group that has not stopped lands in it. -/
theorem execSyscAnswer_lands {q : Nat} {g : Group} {y : PendingSysc} (hg : r.gone = false)
    (ho : s.groups.find? (ownsCall handle) = some (q, g)) (hy : (groupAt s q).sysc = some y)
    (he : (syscEffect (envOf s q) r answer bytes s).isSome = true) :
    ∃ t, execSyscAnswer handle answer bytes s = .next t ∧ AnswerLanded q y answer s t := by
  obtain ⟨u, hu⟩ := Option.isSome_iff_exists.mp he
  refine ⟨landSysc q answer u, ?_, ?_⟩
  · simp only [execSyscAnswer, hr, hok, hn, hg, Bool.not_true, Option.isSome_none, Bool.or_self, Bool.false_eq_true, if_false]
    split
    · next found =>
      cases ho.symm.trans found
      rw [hu]
      rfl
    · next found => cases ho.symm.trans found
  · obtain ⟨m, l, d, f, rfl⟩ := syscEffect_eq hu
    have landed := landSysc_answerLanded (s := { s with mem := m, lineKey := l, badLines := d, vfs := f }) answer hy
    exact ⟨landed.syscs, landed.group, landed.memGen, landed.others⟩

/-- The answer of a group that has stopped is kept by the hub (17 R404). -/
theorem execSyscAnswer_kept (hg : r.gone = false) (ho : s.groups.find? (ownsCall handle) = none)
    (he : (syscEffect { vf := r.vf, s1root := r.s1root, team := 0, core := 1028, priv := r.vf == 0 } r answer bytes s).isSome = true) :
    ∃ t, execSyscAnswer handle answer bytes s = .next t ∧ t.groups = s.groups
      ∧ Tab.find t.syscs handle.toNat = some { r with answer := some answer } := by
  obtain ⟨u, hu⟩ := Option.isSome_iff_exists.mp he
  refine ⟨{ u with syscs := Tab.set u.syscs handle.toNat { r with answer := some answer } }, ?_, ?_, Tab.find_set_same _ _ _⟩
  · simp only [execSyscAnswer, hr, hok, hn, hg, Bool.not_true, Option.isSome_none, Bool.or_self, Bool.false_eq_true, if_false]
    split
    · next found => cases ho.symm.trans found
    · rw [hu]
      rfl
  · obtain ⟨m, l, d, f, rfl⟩ := syscEffect_eq hu
    rfl

end

/-! ## The second part of a START (09 R273, R274) -/

/-- The store of a START to an aperture completes where its copy starts. -/
theorem sstBody_starts {word : W32} {o : OpSM} {s s1 s2 : State} {off : Nat}
    (ha : access s { size := 8, write := true, atomic := false, vector := false } false (smAddr s o 8) = .ok (.aperture off, s1))
    (hoff : off % 64 = 0) (hs : startStore (off / 64) (s1.me.readS o.sd.toNat) s1 = some s2) :
    sstBody word o 8 s = .done (memGenMe s2) .seq := by
  simp only [sstBody, scalarStore, Bool.false_and, Bool.false_eq_true, if_false, ha]
  rw [if_pos ⟨trivial, hoff⟩, hs]

/-- Settles O45: a return lands in its group (`land_scalar`, `land_vector`) or is dropped (`groupAt_land_ended`), an answer lands after
what its service does (`landSysc_answerLanded`, `syscEffect_eq`), and a word that waited runs its second part (`wakeWord_done`). -/
theorem returnsAndAnswers : Obligations.ReturnsAndAnswers := by
  unfold Obligations.ReturnsAndAnswers
  refine ⟨?_, ?_, ?_, ?_⟩
  · intro id s r hr g
    let s0 : State := { s with returns := Tab.del s.returns id }
    have within : InGroup r.q s0 (land r s0) := InGroup.land r
    exact ⟨_, exec_registerReturn hr, by rw [within.rest], within.sameMemory, by rw [within.rest], within.others,
      groupAt_land_ended (s := s0), fun hv hg => ⟨fun n v bad hp hn => land_scalar (s := s0) hv hg hp hn,
        fun n mask cover lanes bad hp hn => land_vector (s := s0) hv hg hp hn⟩⟩
  · intro h answer bytes s r owns e0 hr hok hn
    refine ⟨fun hg => ?_, fun q g y hg ho hy hh hd he => ?_, fun hg ho he => execSyscAnswer_kept hr hok hn hg ho he⟩
    · exact ⟨_, execSyscAnswer_gone hr hok hn hg, count_syscs .., count_groups .., (InGroup.count (q := 0) ..).sameMemory⟩
    · obtain ⟨t, e, landed⟩ := execSyscAnswer_lands (bytes := bytes) hr hok hn hg ho hy he
      obtain ⟨ended, full, value⟩ := landed.register hd
      exact ⟨t, e, by rw [landed.syscs, hh]; exact Tab.find_del_same _ _, ended, full, value, landed.memGen, landed.others⟩
  · intro q s o hrun hmay hb hle
    exact wakeWord_done (body := tryTwait o) hrun hmay (by rw [hb]; rfl) (if_pos hle)
  · intro q s s1 s2 o off s0 hrun hmay hb ha hoff hs
    exact wakeWord_done (body := sstBody (encode (.sstd o)) o 8) hrun hmay (by rw [hb]; rfl) (sstBody_starts ha hoff hs)

end Sys2Proof.Machine
end

section
/-!
WHAT THE VECTOR WORDS LEAVE UNCHANGED (O33). A word changes named registers and ports of its group, the flags and the rounder's state, and
in the cores their stores, records and counters; its retirement then moves the group on. Each operation that a word is made of stays
within such bounds, so do the frames of the words, and at last the members.
-/

namespace Sys2Proof.Machine

/-! ## Bounds of a change -/

/-- A group's registers change within the lists of scalar registers, vector registers and predicates, and its ports within a list; beside
them FPSTAT, the rounder's state and the marks of bad data alone. -/
structure Group.Within (ss vs ps ns : List Nat) (g h : Group) : Prop where
  rest : h = { g with s := h.s, v := h.v, p := h.p, fullS := h.fullS, fullV := h.fullV, badS := h.badS, badV := h.badV
                      ports := h.ports, fpstat := h.fpstat, seed := h.seed }
  scalars : ∀ n, n ∉ ss → h.readS n = g.readS n ∧ h.sFull n = g.sFull n
  vectors : ∀ n, n ∉ vs → h.vreg n = g.vreg n ∧ h.vFull n = g.vFull n
  preds : ∀ n, n ∉ ps → h.readP n = g.readP n
  ports : ∀ n, n ∉ ns → Tab.find h.ports n = Tab.find g.ports n

/-- The matrix sequencer, the tiles and the locks of a core are as they were. -/
def Core.SameEngine (d c : Core) : Prop := d.seq = c.seq ∧ d.tiles = c.tiles ∧ d.locks = c.locks

namespace Core

theorem SameEngine.trans {a b c : Core} (h : c.SameEngine b) (h' : b.SameEngine a) : c.SameEngine a :=
  ⟨h.1.trans h'.1, h.2.1.trans h'.2.1, h.2.2.trans h'.2.2⟩

theorem count_sameEngine (ev vf n : Nat) (c : Core) : (c.count ev vf n).SameEngine c := by
  obtain ⟨-, hseq, hlocks, htiles, -, -⟩ := Core.count_keeps ev vf n c
  exact ⟨hseq, htiles, hlocks⟩

theorem releaseReg_sameEngine (r : VReg) (c : Core) : (c.releaseReg r).SameEngine c := by
  cases r with
  | general n l =>
    show (c.release n).SameEngine c
    unfold release
    (repeat' split) <;> exact ⟨rfl, rfl, rfl⟩
  | _ => exact ⟨rfl, rfl, rfl⟩

theorem enter_sameEngine (vf : Nat) (salt : BitVec 48) (l : List W32) (c : Core) : (c.enter vf salt l).2.SameEngine c := by
  unfold enter
  dsimp only
  split <;> exact ⟨rfl, rfl, rfl⟩

end Core

/-- The executing group changes within bounds, and no engine of a core does. -/
structure Within (ss vs ps ns : List Nat) (s t : State) : Prop where
  inGroup : InGroup s.qid s t
  me : s.me.Within ss vs ps ns t.me
  engines : ∀ c, (coreAt t c).SameEngine (coreAt s c)

section
variable {ss vs ps ns : List Nat}

namespace Group.Within
variable {g h k : Group}

theorem refl : g.Within ss vs ps ns g :=
  ⟨rfl, fun _ _ => ⟨rfl, rfl⟩, fun _ _ => ⟨rfl, rfl⟩, fun _ _ => rfl, fun _ _ => rfl⟩

theorem trans (a : g.Within ss vs ps ns h) (b : h.Within ss vs ps ns k) : g.Within ss vs ps ns k where
  rest := b.rest.trans (by rw [a.rest])
  scalars n hn := ⟨(b.scalars n hn).1.trans (a.scalars n hn).1, (b.scalars n hn).2.trans (a.scalars n hn).2⟩
  vectors n hn := ⟨(b.vectors n hn).1.trans (a.vectors n hn).1, (b.vectors n hn).2.trans (a.vectors n hn).2⟩
  preds n hn := (b.preds n hn).trans (a.preds n hn)
  ports n hn := (b.ports n hn).trans (a.ports n hn)

theorem writeS {n : Nat} (v : W64) (hn : n ∈ ss) : g.Within ss vs ps ns (g.writeS n v) where
  rest := by unfold Group.writeS; split <;> rfl
  scalars m hm := have h : m ≠ n := fun e => hm (e ▸ hn)
    ⟨g.readS_writeS_other v h, g.sFull_writeS_other v h⟩
  vectors m _ := ⟨g.vreg_writeS v, by simp [Group.vFull]⟩
  preds m _ := by unfold Group.writeS; split <;> rfl
  ports m _ := by rw [g.writeS_ports]

theorem writeV {n : Nat} (r : VReg) (hn : n ∈ vs) : g.Within ss vs ps ns (g.writeV n r) where
  rest := rfl
  scalars _ _ := ⟨rfl, rfl⟩
  vectors m hm := have h : m ≠ n := fun e => hm (e ▸ hn)
    ⟨g.vreg_writeV_other r h, g.vFull_writeV_other r h⟩
  preds _ _ := rfl
  ports _ _ := rfl

theorem marks (b : Tab W64) : g.Within ss vs ps ns { g with badV := b } :=
  ⟨rfl, fun _ _ => ⟨rfl, rfl⟩, fun _ _ => ⟨rfl, rfl⟩, fun _ _ => rfl, fun _ _ => rfl⟩

theorem flags (f : Flags) (d : W32) : g.Within ss vs ps ns { g with fpstat := f, seed := d } :=
  ⟨rfl, fun _ _ => ⟨rfl, rfl⟩, fun _ _ => ⟨rfl, rfl⟩, fun _ _ => rfl, fun _ _ => rfl⟩

theorem writePraw {n : Nat} (v : W32) (hn : n ∈ ps) : g.Within ss vs ps ns (g.writePraw n v) where
  rest := by unfold Group.writePraw; split <;> rfl
  scalars m _ := by simp [Group.readS, Group.sFull]
  vectors m _ := by simp [Group.vreg, Group.vFull]
  preds m hm := by
    have h : m ≠ n := fun e => hm (e ▸ hn)
    unfold Group.writePraw
    split
    · rfl
    · show (if m = 0 then g.liveMask else Tab.get 0 (Tab.set g.p n v) m) = _
      rw [Tab.get_set_other _ _ _ _ _ h]
      rfl
  ports m _ := by simp

/-- A change of one port. -/
theorem setPort {n : Nat} (p : Port) (hn : n ∈ ns) : g.Within ss vs ps ns { g with ports := Tab.set g.ports n p } :=
  ⟨rfl, fun _ _ => ⟨rfl, rfl⟩, fun _ _ => ⟨rfl, rfl⟩, fun _ _ => rfl,
    fun _ hm => Tab.find_set_other _ _ _ _ (fun e => hm (e ▸ hn))⟩

theorem pushPort {n : Nat} (l : List W32) (mask : W32) (hn : n ∈ ns) : g.Within ss vs ps ns (g.pushPort n l mask) := by
  unfold Group.pushPort
  split
  · exact refl
  · exact setPort _ hn

theorem popPort {n : Nat} (hn : n ∈ ns) : g.Within ss vs ps ns (g.popPort n) := by
  unfold Group.popPort
  split
  · exact refl
  · exact setPort _ hn

end Group.Within

namespace Within
variable {s t u : State}

theorem qid (h : Within ss vs ps ns s t) : t.qid = s.qid := by
  rw [h.inGroup.rest]
  rfl

theorem refl : Within ss vs ps ns s s := ⟨InGroup.refl, Group.Within.refl, fun _ => ⟨rfl, rfl, rfl⟩⟩

theorem trans (a : Within ss vs ps ns s t) (b : Within ss vs ps ns t u) : Within ss vs ps ns s u where
  inGroup := a.inGroup.trans (a.qid ▸ b.inGroup)
  me := a.me.trans b.me
  engines c := (b.engines c).trans (a.engines c)

theorem modGroup {q : Nat} {f : Group → Group} (hq : q = s.qid) (h : s.me.Within ss vs ps ns (f s.me)) :
    Within ss vs ps ns s (modGroup q f s) := by
  subst hq
  exact ⟨InGroup.modGroup f, by rw [show (Machine.modGroup s.qid f s).me = f s.me from me_modMe f s]; exact h,
    fun _ => ⟨rfl, rfl, rfl⟩⟩

theorem modMe {f : Group → Group} (h : s.me.Within ss vs ps ns (f s.me)) : Within ss vs ps ns s (modMe f s) := modGroup rfl h

/-- A change of one core that leaves its engine. -/
theorem modCore {c : Nat} {f : Core → Core} (h : (f (coreAt s c)).SameEngine (coreAt s c)) :
    Within ss vs ps ns s (modCore c f s) where
  inGroup := InGroup.cores _
  me := Group.Within.refl
  engines k := by
    by_cases hk : k = c
    · subst hk
      rw [coreAt_modCore_same]
      exact h
    · rw [coreAt_modCore_other _ _ _ _ hk]
      exact ⟨rfl, rfl, rfl⟩

theorem count (core ev vf n : Nat) : Within ss vs ps ns s (count core ev vf n s) := by
  unfold Machine.count
  split
  · exact refl
  · exact modCore (Core.count_sameEngine ..)

/-! ## The operations of a vector word -/

theorem putS {n : Nat} (v : W64) (hn : n ∈ ss) : Within ss vs ps ns s (putS n v s) := modMe (.writeS v hn)

theorem putVq {n : Nat} (r : VReg) (hn : n ∈ vs) : Within ss vs ps ns s (putVq s.qid n r s) := by
  have released : Within ss vs ps ns s (Machine.modCore (coreOf s.qid) (Core.releaseReg ((groupAt s s.qid).vreg n)) s) :=
    modCore (Core.releaseReg_sameEngine ..)
  unfold Machine.putVq
  dsimp only
  split
  · refine released.trans ((modCore (Core.enter_sameEngine ..)).trans ((count ..).trans ((count ..).trans ((count ..).trans
      (modGroup ?_ (.writeV _ hn))))))
    simp
  · exact released.trans (modGroup rfl (.writeV _ hn))

theorem putV {n : Nat} (r : VReg) (hn : n ∈ vs) : Within ss vs ps ns s (putV n r s) := by
  unfold Machine.putV
  dsimp only
  split
  · exact putVq r hn
  · exact (putVq r hn).trans (modMe (.marks _))

theorem putDest {n : Nat} (r : VReg) (hv : n ∈ vs) (hp : 112 ≤ n → n ∈ ns) : Within ss vs ps ns s (putDest n r s) := by
  unfold Machine.putDest
  split
  · exact putV r hv
  · next h => exact modMe (.pushPort _ _ (hp (Nat.le_of_not_lt h)))

theorem putNamed {n : Nat} (r : VReg) (hn : n ∈ vs) : Within ss vs ps ns s (putNamed n r s) := by
  unfold Machine.putNamed
  refine (modCore ?_).trans (modMe (.writeV r hn))
  cases r <;> exact (Core.releaseReg_sameEngine ..).trans ⟨rfl, rfl, rfl⟩

/-- The result of a word, by the reuse table or by execution (02 R63). -/
theorem putReused {n : Nat} (key : Option (List Nat)) (names : List Nat) (flags : Flags) (r : VReg) (hv : n ∈ vs)
    (hp : 112 ≤ n → n ∈ ns) : Within ss vs ps ns s (putReused n key names flags r s) := by
  unfold Machine.putReused
  split
  · exact putDest r hv hp
  · split
    · exact (putNamed _ hv).trans (count ..)
    · dsimp only
      split
      · exact (putV r hv).trans (modCore ⟨rfl, rfl, rfl⟩)
      · exact putV r hv

theorem popPorts {uses : List Use} (h : ∀ n t pos, .vs n t pos ∈ uses → 112 ≤ n → n ∈ ns) :
    Within ss vs ps ns s (popPorts uses s) := by
  unfold Machine.popPorts
  induction uses generalizing s with
  | nil => exact refl
  | cons x uses ih =>
    rw [List.foldl_cons]
    refine trans ?_ (ih fun n t pos hu => h n t pos (List.mem_cons_of_mem _ hu))
    cases x with
    | vs n t pos =>
      dsimp only
      split
      · exact refl
      · next hn => exact modMe (.popPort (h n t pos (List.mem_cons_self ..) (Nat.le_of_not_lt hn)))
    | _ => exact refl

end Within
end

/-- The ports that a word reads or writes. -/
def portsOf (uses : List Use) : List Nat := (uses.filterMap Use.vecOf).filter (fun n => decide (112 ≤ n))

theorem mem_portsOf {uses : List Use} {u : Use} {n : Nat} (hu : u ∈ uses) (hv : u.vecOf = some n) (hn : 112 ≤ n) :
    n ∈ portsOf uses :=
  List.mem_filter.mpr ⟨List.mem_filterMap.mpr ⟨u, hu, hv⟩, decide_eq_true hn⟩

theorem Within.leaveWord {ss vs ps : List Nat} {s t : State} (uses : List Use) (h : Within ss vs ps (portsOf uses) s t) :
    Within ss vs ps (portsOf uses) s (leaveWord s uses t) :=
  h.trans ((Within.popPorts fun _ _ _ hu hn => mem_portsOf hu rfl hn).trans (Within.count ..))

/-! ## Retirement -/

theorem Within.calm {ss vs ps ns : List Nat} {s t : State} (h : Within ss vs ps ns s t) (hc : Calm s) : Calm t := by
  have step : t.me.step = s.me.step := by rw [h.me.rest]
  have vf : t.me.vf = s.me.vf := by rw [h.me.rest]
  have name : cgidOf t.qid t.me = cgidOf s.qid s.me := by rw [h.qid, h.me.rest]; rfl
  have die : dieAt t (dieOf s.qid) = dieAt s (dieOf s.qid) := by rw [h.inGroup.rest]; rfl
  obtain ⟨unarmed, untraced⟩ := hc
  exact ⟨by rwa [step], by rwa [vf, name, h.qid, die]⟩

/-- Retirement moves the group on and counts its word; it leaves registers, ports and engines. -/
theorem engines_retire (n : Next) (s : State) (h : Calm s) (c : Nat) : (coreAt (retire n s) c).SameEngine (coreAt s c) := by
  have counted (ev k : Nat) (u : State) : (coreAt (count (coreOf s.qid) ev s.me.vf k u) c).SameEngine (coreAt u c) :=
    (Within.count (ss := []) (vs := []) (ps := []) (ns := []) (coreOf s.qid) ev s.me.vf k).engines c
  rw [retire_of_calm n s h]
  obtain ⟨l, e⟩ := coreAt_owe s.qid s.me (tally 0 s.me.vf 1 (count (coreOf s.qid) evAged s.me.vf (if s.me.aged then 1 else 0)
      (count (coreOf s.qid) evIssue s.me.vf 1 (modMe (fun g => g.retire n s.cclk) s)))) c
  rw [e]
  have tallied (k : Nat) (u : State) : coreAt (tally 0 s.me.vf k u) c = coreAt u c := by simp [coreAt]
  rw [tallied]
  exact (counted evAged _ _).trans (counted evIssue _ _)

theorem Group.retire_liveMask (g : Group) (n : Next) (c : Nat) : (g.retire n c).liveMask = g.liveMask :=
  maskOf_ext _ _ fun k _ => by simp [Group.live, Group.slot]

theorem Within.sameControl {ss vs ps ns : List Nat} {s t : State} (h : Within ss vs ps ns s t) : SameControl s t := by
  unfold SameControl
  rw [h.me.rest]
  exact ⟨rfl, rfl, rfl, rfl, rfl, rfl, rfl⟩

theorem Within.sameTrapState {ss vs ps ns : List Nat} {s t : State} (h : Within ss vs ps ns s t) : SameTrapState s t := by
  unfold SameTrapState
  rw [h.me.rest]
  exact ⟨rfl, rfl, rfl, rfl, rfl, rfl, rfl, rfl, rfl, rfl, rfl⟩

/-- A word whose effect stays within bounds leaves, as it retires, all else as it was. -/
theorem Within.frame {ss vs ps ns : List Nat} {s t : State} (h : Within ss vs ps ns s t) (hc : Calm s) :
    Frame ss vs ps ns s (retire .seq t) := by
  have ht : Calm t := h.calm hc
  have me : (retire .seq t).me = t.me.retire .seq t.cclk := retire_me .seq t ht
  have qid : (retire .seq t).qid = t.qid := by simp only [State.qid, retire_cur .seq t ht]
  have state := h.inGroup.rest
  constructor
  · refine ⟨fun n hn => ?_, fun n hn => ?_, fun n hn => ?_⟩ <;> rw [me]
    · simpa [Group.readS, Group.sFull] using h.me.scalars n hn
    · simpa [Group.vreg, Group.vFull] using h.me.vectors n hn
    · simpa [Group.readP, Group.retire_liveMask] using h.me.preds n hn
  · intro n hn
    rw [me, Group.retire_ports]
    exact h.me.ports n hn
  · simpa [SameControl, me] using h.sameControl
  · simpa [SameTrapState, me] using h.sameTrapState
  · exact ⟨qid.trans h.qid, fun q hq => (retire_other .seq t ht q (by rwa [h.qid])).trans (h.inGroup.others q hq)⟩
  · exact fun key pa => (retire_readPa .seq t ht key pa).trans (h.inGroup.sameMemory key pa)
  · rw [retire_teams .seq t ht, state]
  · rw [retire_launches .seq t ht, state]
  · rw [retire_copies .seq t ht, state]
  · rw [retire_vfs .seq t ht, state]
  · exact fun c => (engines_retire .seq t ht c).trans (h.engines c)

/-! ## The frames of the vector words (06 R161) -/

/-- Where a word completes at issue, it leaves all but its destinations and its ports as it was. -/
def LeavesRest (ss vs ps : List Nat) (uses : List Use) (s : State) (o : Out) : Prop :=
  ∀ t, o = .next t → Frame ss vs ps (portsOf uses) s t

theorem wordG_leavesRest {ss vs ps : List Nat} {i : Instr} {uses : List Use} {s : State} {body : State → List VReg → Res} (hc : Calm s)
    (hb : ∃ u, body s (sourceRegs s.me uses []) = .done u .seq ∧ Within ss vs ps (portsOf uses) s u) (hg : MayGo i uses s) :
    LeavesRest ss vs ps uses s (wordG i uses s body) := by
  intro t ht
  obtain ⟨u, e, within⟩ := hb
  cases (wordG_done hg e).symm.trans ht
  exact (within.leaveWord uses).frame hc

/-- The result of a word at its vector destination. -/
theorem Within.destination {uses : List Use} {s : State} {vd : Nat} (hd : .vd vd ∈ uses) (key : Option (List Nat)) (names : List Nat)
    (flags : Flags) (r : VReg) : Within [] [vd] [] (portsOf uses) s (Machine.putReused vd key names flags r s) :=
  .putReused key names flags r (List.mem_singleton_self _) fun h => mem_portsOf hd rfl h

theorem vecBody_within {f : VecForm} {uses : List Use} (shape : List VReg → Shape) (old : VReg)
    (lane : List VReg → W32 → Nat → W32 × Flags × W32) (s : State) (src : List VReg) (hd : .vd f.vd ∈ uses) :
    ∃ u, vecBody f uses shape old lane s src = .done u .seq ∧ Within [] [f.vd] [] (portsOf uses) s u := by
  obtain ⟨key, run, -, -, e⟩ := vecBody_eq shape old lane s src hd
  exact ⟨_, e, (Within.destination hd ..).trans (.modMe (.flags _ _))⟩

theorem moveBody_within {vd : Nat} {uses : List Use} (sh : Shape) (f : Nat → W32) (s : State) (src : List VReg) (hd : .vd vd ∈ uses) :
    ∃ u, moveBody vd uses sh f s src = .done u .seq ∧ Within [] [vd] [] (portsOf uses) s u :=
  vecBody_within _ _ _ _ _ hd

section
variable {i : Instr} {s : State} (hc : Calm s)
include hc

theorem intVR_leavesRest {o : OpVR} {acc : Bool} {mask : Nat} {shape : W32 → List VReg → Shape} {f : W32 → List W32 → W32}
    (hg : MayGo i (usesVR o acc) s) : LeavesRest [] [o.vd.toNat] [] (usesVR o acc) s (intVR i o acc mask shape f s) :=
  wordG_leavesRest hc (vecBody_within _ _ _ _ _ (List.mem_cons_self ..)) hg

theorem intVI_leavesRest {o : OpVI} {mask : Nat} {shape : W32 → List VReg → Shape} {f : W32 → List W32 → W32}
    (hg : MayGo i (usesVI o) s) : LeavesRest [] [o.vd.toNat] [] (usesVI o) s (intVI i o mask shape f s) :=
  wordG_leavesRest hc (vecBody_within _ _ _ _ _ (List.mem_cons_self ..)) hg

section
variable {uses : List Use} {vd : Nat} (hd : .vd vd ∈ uses)
include hd

theorem permWord_leavesRest {bits mask : Nat} {shape : List VReg → Shape} {f : Group → List VReg → Nat → W32}
    (hg : MayGo i uses s) : LeavesRest [] [vd] [] uses s (permWord i uses vd bits mask shape f s) :=
  wordG_leavesRest hc (vecBody_within _ _ _ _ _ hd) hg

theorem fpWord_leavesRest {mask : Nat} {rounds : Bool} {f : Fmt → W32 → FpEnv → Nat → List Nat → Nat × Flags}
    (hf : (fpView (modeEt s.me.mode)).isSome = true) (hg : MayGo i uses s) :
    LeavesRest [] [vd] [] uses s (fpWord i uses vd mask rounds f s) := by
  obtain ⟨fm, e⟩ := Option.isSome_iff_exists.mp hf
  refine wordG_leavesRest hc ?_ hg
  simp only [e]
  exact vecBody_within _ _ _ _ _ hd

theorem signWord_leavesRest {f : Fmt → List Nat → Nat} (hf : (fpView (modeEt s.me.mode)).isSome = true) (hg : MayGo i uses s) :
    LeavesRest [] [vd] [] uses s (signWord i uses vd f s) := by
  obtain ⟨fm, e⟩ := Option.isSome_iff_exists.mp hf
  refine wordG_leavesRest hc ?_ hg
  simp only [e]
  exact vecBody_within _ _ _ _ _ hd

end

theorem scanWord_leavesRest {o : OpVR1} {kind : Nat} {exclusive : Bool} (hg : MayGo i (usesVR1 o) s) :
    LeavesRest [] [o.vd.toNat] [] (usesVR1 o) s (scanWord i o kind exclusive s) :=
  wordG_leavesRest hc ⟨_, rfl, (Within.destination (List.mem_cons_self ..) ..).trans (.modMe (.flags _ _))⟩ hg

theorem redWord_leavesRest {o : OpVSRed} {kind : Nat} (hg : MayGo i [.vs o.va.toNat o.ta 1, .sd o.sb.toNat] s) :
    LeavesRest [o.sb.toNat] [] [] [.vs o.va.toNat o.ta 1, .sd o.sb.toNat] s (redWord i o kind s) :=
  wordG_leavesRest hc ⟨_, rfl, (Within.modMe (.flags _ _)).trans (.putS _ (List.mem_singleton_self _))⟩ hg

theorem cmpWord_leavesRest {o : OpVCmp} {op : Nat} (hg : MayGo i [.vs o.va.toNat o.ta 1, .vs o.vb.toNat o.tb 2] s) :
    LeavesRest [] [] [o.pd.toNat] [.vs o.va.toNat o.ta 1, .vs o.vb.toNat o.tb 2] s (cmpWord i o op s) :=
  wordG_leavesRest hc ⟨_, rfl, .modMe (.writePraw _ (List.mem_singleton_self _))⟩ hg

theorem predWord_leavesRest {pd : Nat} {f : Group → W32} (hg : MayGo i [] s) : LeavesRest [] [] [pd] [] s (predWord i pd f s) :=
  wordG_leavesRest hc ⟨_, rfl, .modMe (.writePraw _ (List.mem_singleton_self _))⟩ hg

theorem predScalar_leavesRest {o : OpPGet} {f : Group → W64} (hg : MayGo i [.sd o.sd.toNat] s) :
    LeavesRest [o.sd.toNat] [] [] [.sd o.sd.toNat] s (predScalar i o f s) :=
  wordG_leavesRest hc ⟨_, rfl, .putS _ (List.mem_singleton_self _)⟩ hg

/-! ## The members -/

theorem execVbperm_leavesRest {o : OpVR} (hg : MayGo (.vbperm o) (usesVR o false) s) :
    LeavesRest [] [o.vd.toNat] [] (usesVR o false) s (execVbperm o s) := by
  have hd : Use.vd o.vd.toNat ∈ usesVR o false := List.mem_cons_self ..
  refine wordG_leavesRest hc ?_ hg
  dsimp only
  split
  · exact ⟨_, rfl, .destination hd ..⟩
  · next h => exact ⟨_, rfl, .modMe (.pushPort _ _ (mem_portsOf hd rfl (Nat.le_of_not_lt h)))⟩

theorem execVdot4i_leavesRest {o : OpVR} (he : modeEt s.me.mode = 4 ∨ modeEt s.me.mode = 5) (hg : MayGo (.vdot4i o) (usesVR o true) s) :
    LeavesRest [] [o.vd.toNat] [] (usesVR o true) s (execVdot4i o s) := by
  refine wordG_leavesRest hc ?_ hg
  simp only [he, if_true]
  exact vecBody_within _ _ _ _ _ (List.mem_cons_self ..)

theorem execVdot2_leavesRest {o : OpVR} (he : modeEt s.me.mode = 7 ∨ modeEt s.me.mode = 8) (hg : MayGo (.vdot2 o) (usesVR o true) s) :
    LeavesRest [] [o.vd.toNat] [] (usesVR o true) s (execVdot2 o s) := by
  refine wordG_leavesRest hc ?_ hg
  rcases he with he | he <;> simp only [he, fpView] <;> exact vecBody_within _ _ _ _ _ (List.mem_cons_self ..)

theorem execVquad_leavesRest {o : OpVI} (hq : o.imm.toNat < 8 ∨ (fpView (modeEt s.me.mode)).isSome = true)
    (hg : MayGo (.vquad o) (usesVI o) s) : LeavesRest [] [o.vd.toNat] [] (usesVI o) s (execVquad o s) := by
  unfold execVquad
  dsimp only
  split
  · exact permWord_leavesRest hc (List.mem_cons_self ..) hg
  · next h8 =>
    obtain ⟨fm, e⟩ := Option.isSome_iff_exists.mp (hq.resolve_left h8)
    refine wordG_leavesRest hc ?_ hg
    simp only [e]
    exact vecBody_within _ _ _ _ _ (List.mem_cons_self ..)

theorem execVcvt_leavesRest {o : OpCV} (hg : MayGo (.vcvt o) [.vd o.vd.toNat, .vs o.va.toNat o.ta 1] s) :
    LeavesRest [] [o.vd.toNat] [] [.vd o.vd.toNat, .vs o.va.toNat o.ta 1] s (execVcvt o s) :=
  wordG_leavesRest hc (vecBody_within _ _ _ _ _ (List.mem_cons_self ..)) hg

theorem execVmxq_leavesRest {o : OpMX} (hg : MayGo (.vmxq o) [.vd o.vd.toNat, .vs o.va.toNat o.ta 1] s) :
    LeavesRest [] [o.vd.toNat] [] [.vd o.vd.toNat, .vs o.va.toNat o.ta 1] s (execVmxq o s) :=
  wordG_leavesRest hc ⟨_, rfl, (Within.destination (List.mem_cons_self ..) ..).trans (.modMe (.flags _ _))⟩ hg

theorem execVmxd_leavesRest {o : OpMX} (hg : MayGo (.vmxd o) [.vd o.vd.toNat, .vs o.va.toNat o.ta 1] s) :
    LeavesRest [] [o.vd.toNat] [] [.vd o.vd.toNat, .vs o.va.toNat o.ta 1] s (execVmxd o s) :=
  wordG_leavesRest hc (vecBody_within _ _ _ _ _ (List.mem_cons_self ..)) hg

theorem execVmov_leavesRest {o : OpVS1} (hg : MayGo (.vmov o) (usesVS1 o) s) :
    LeavesRest [] [o.vd.toNat] [] (usesVS1 o) s (execVmov o s) :=
  wordG_leavesRest hc (moveBody_within _ _ _ _ (List.mem_cons_self ..)) hg

theorem execVbcast_leavesRest {o : OpVBc} (hg : MayGo (.vbcast o) [.vd o.vd.toNat, .ss o.sb.toNat false 2] s) :
    LeavesRest [] [o.vd.toNat] [] [.vd o.vd.toNat, .ss o.sb.toNat false 2] s (execVbcast o s) :=
  wordG_leavesRest hc (moveBody_within _ _ _ _ (List.mem_cons_self ..)) hg

theorem execViota_leavesRest {o : OpVIota} (hg : MayGo (.viota o) [.vd o.vd.toNat, .ss o.sb.toNat false 2] s) :
    LeavesRest [] [o.vd.toNat] [] [.vd o.vd.toNat, .ss o.sb.toNat false 2] s (execViota o s) :=
  wordG_leavesRest hc (moveBody_within _ _ _ _ (List.mem_cons_self ..)) hg

theorem execVext_leavesRest {o : OpVExt} (hg : MayGo (.vext o) [.vd o.vd.toNat, .vs o.va.toNat o.ta 1, .ss o.sb.toNat false 2] s) :
    LeavesRest [] [o.vd.toNat] [] [.vd o.vd.toNat, .vs o.va.toNat o.ta 1, .ss o.sb.toNat false 2] s (execVext o s) :=
  wordG_leavesRest hc (moveBody_within _ _ _ _ (List.mem_cons_self ..)) hg

theorem execVmova_leavesRest {o : OpVS1} (hg : MayGo (.vmova o) (usesVS1 o) s) :
    LeavesRest [] [o.vd.toNat] [] (usesVS1 o) s (execVmova o s) :=
  wordG_leavesRest hc ⟨_, rfl, .putDest _ (List.mem_singleton_self _) fun h => mem_portsOf (List.mem_cons_self ..) rfl h⟩ hg

theorem execVgen_leavesRest {o : OpVS1} (hg : MayGo (.vgen o) [.vname o.vd.toNat 0, .vd o.vd.toNat, .vreg o.va.toNat o.ta 1] s) :
    LeavesRest [] [o.vd.toNat] [] [.vname o.vd.toNat 0, .vd o.vd.toNat, .vreg o.va.toNat o.ta 1] s (execVgen o s) :=
  wordG_leavesRest hc ⟨_, rfl, .putV _ (List.mem_singleton_self _)⟩ hg

theorem execVshape_leavesRest {o : OpVSRed} (hg : MayGo (.vshape o) [.vreg o.va.toNat o.ta 1, .sd o.sb.toNat] s) :
    LeavesRest [o.sb.toNat] [] [] [.vreg o.va.toNat o.ta 1, .sd o.sb.toNat] s (execVshape o s) :=
  wordG_leavesRest hc ⟨_, rfl, .putS _ (List.mem_singleton_self _)⟩ hg

theorem execQhelp_leavesRest {o : OpPR1} (hg : MayGo (.qhelp o) [] s) : LeavesRest [] [] [o.pd.toNat] [] s (execQhelp o s) :=
  wordG_leavesRest hc ⟨_, rfl, .modMe (.writePraw _ (List.mem_singleton_self _))⟩ hg

theorem execPset_leavesRest {o : OpPSet} (hg : MayGo (.pset o) [.ss o.sa.toNat false 1] s) :
    LeavesRest [] [] [o.pd.toNat] [.ss o.sa.toNat false 1] s (execPset o s) :=
  wordG_leavesRest hc ⟨_, rfl, .modMe (.writePraw _ (List.mem_singleton_self _))⟩ hg

end

section
variable {s : State} (hc : Calm s)
include hc

/-- The members of majors 0x18, 0x19 and 0x21 with two vector sources (06 R166, R167, R179, R180). -/
theorem exec_VR_leavesRest (o : OpVR) :
    ∀ i ∈ ([.vadd o, .vsub o, .vmul o, .vmulh o, .vmin o, .vmax o, .vabsd o, .vand o, .vor o, .vxor o,
      .vandn o, .vshl o, .vshr o, .vsar o, .vrol o, .vperm o, .vbperm o] : List Instr),
    MayGo i (usesVR o false) s → LeavesRest [] [o.vd.toNat] [] (usesVR o false) s (exec i s) := by
  have int {i : Instr} {mask : Nat} {shape : W32 → List VReg → Shape} {f : W32 → List W32 → W32} (hg : MayGo i (usesVR o false) s) :
      LeavesRest [] [o.vd.toNat] [] (usesVR o false) s (intVR i o false mask shape f s) := intVR_leavesRest hc hg
  simp only [List.forall_mem_cons, List.not_mem_nil, false_implies, implies_true, and_true]
  dsimp only [exec]
  exact ⟨int, int, int, int, int, int, int, int, int, int, int, int, int, int, int, permWord_leavesRest hc (List.mem_cons_self ..),
    execVbperm_leavesRest hc⟩

/-- The members of majors 0x1A and 0x22 (06 R168, R181). -/
theorem exec_VI_leavesRest (o : OpVI) : ∀ i ∈ ([.vaddi o, .vmuli o, .vandi o, .vori o, .vxori o, .vshli o, .vshri o, .vsari o, .vshfx o,
      .vslideu o, .vslided o, .vlaneb o] : List Instr),
    MayGo i (usesVI o) s → LeavesRest [] [o.vd.toNat] [] (usesVI o) s (exec i s) := by
  have slide {i : Instr} {shape : List VReg → Shape} {f : Nat → Int} (hg : MayGo i (usesVI o) s) :
      LeavesRest [] [o.vd.toNat] [] (usesVI o) s (slideWord i o shape f s) := permWord_leavesRest hc (List.mem_cons_self ..) hg
  simp only [List.forall_mem_cons, List.not_mem_nil, false_implies, implies_true, and_true]
  dsimp only [exec]
  exact ⟨intVI_leavesRest hc, intVI_leavesRest hc, intVI_leavesRest hc, intVI_leavesRest hc, intVI_leavesRest hc, intVI_leavesRest hc,
    intVI_leavesRest hc, intVI_leavesRest hc, slide, slide, slide, slide⟩

/-- The scans (06 R183). -/
theorem exec_scans_leavesRest (o : OpVR1) : ∀ i ∈ ([.vscanadd o, .vscanmin o, .vscanmax o, .vscanor o, .vxscanadd o, .vxscanmax o] :
      List Instr), MayGo i (usesVR1 o) s → LeavesRest [] [o.vd.toNat] [] (usesVR1 o) s (exec i s) := by
  simp only [List.forall_mem_cons, List.not_mem_nil, false_implies, implies_true, and_true]
  dsimp only [exec]
  exact ⟨scanWord_leavesRest hc, scanWord_leavesRest hc, scanWord_leavesRest hc, scanWord_leavesRest hc, scanWord_leavesRest hc,
    scanWord_leavesRest hc⟩

/-- Block scaling (06 R177). -/
theorem exec_MX_leavesRest (o : OpMX) : ∀ i ∈ ([.vmxq o, .vmxd o] : List Instr), MayGo i [.vd o.vd.toNat, .vs o.va.toNat o.ta 1] s →
    LeavesRest [] [o.vd.toNat] [] [.vd o.vd.toNat, .vs o.va.toNat o.ta 1] s (exec i s) := by
  simp only [List.forall_mem_cons, List.not_mem_nil, false_implies, implies_true, and_true]
  exact ⟨execVmxq_leavesRest hc, execVmxd_leavesRest hc⟩

/-- The moves of a vector register (06 R187). -/
theorem exec_VS1_leavesRest (o : OpVS1) : ∀ i ∈ ([.vmov o, .vmova o] : List Instr), MayGo i (usesVS1 o) s →
    LeavesRest [] [o.vd.toNat] [] (usesVS1 o) s (exec i s) := by
  simp only [List.forall_mem_cons, List.not_mem_nil, false_implies, implies_true, and_true]
  exact ⟨execVmov_leavesRest hc, execVmova_leavesRest hc⟩

/-- The reductions (06 R184). -/
theorem exec_reductions_leavesRest (o : OpVSRed) : ∀ i ∈ ([.vredadd o, .vredmin o, .vredmax o, .vredand o, .vredor o] : List Instr),
    MayGo i [.vs o.va.toNat o.ta 1, .sd o.sb.toNat] s →
    LeavesRest [o.sb.toNat] [] [] [.vs o.va.toNat o.ta 1, .sd o.sb.toNat] s (exec i s) := by
  simp only [List.forall_mem_cons, List.not_mem_nil, false_implies, implies_true, and_true]
  dsimp only [exec]
  exact ⟨redWord_leavesRest hc, redWord_leavesRest hc, redWord_leavesRest hc, redWord_leavesRest hc, redWord_leavesRest hc⟩

/-- The comparisons (06 R178). -/
theorem exec_compares_leavesRest (o : OpVCmp) : ∀ i ∈ ([.vcmpEq o, .vcmpNe o, .vcmpLt o, .vcmpLe o, .vcmpGt o, .vcmpGe o, .vcmpUnord o,
      .vcmpOrd o] : List Instr), MayGo i [.vs o.va.toNat o.ta 1, .vs o.vb.toNat o.tb 2] s →
    LeavesRest [] [] [o.pd.toNat] [.vs o.va.toNat o.ta 1, .vs o.vb.toNat o.tb 2] s (exec i s) := by
  simp only [List.forall_mem_cons, List.not_mem_nil, false_implies, implies_true, and_true]
  dsimp only [exec]
  exact ⟨cmpWord_leavesRest hc, cmpWord_leavesRest hc, cmpWord_leavesRest hc, cmpWord_leavesRest hc, cmpWord_leavesRest hc,
    cmpWord_leavesRest hc, cmpWord_leavesRest hc, cmpWord_leavesRest hc⟩

/-- The predicate words of two and of one predicate (06 R185, R186). -/
theorem exec_PR2_leavesRest (o : OpPR2) : ∀ i ∈ ([.pand o, .por o, .pxor o, .pandn o] : List Instr), MayGo i [] s →
    LeavesRest [] [] [o.pd.toNat] [] s (exec i s) := by
  simp only [List.forall_mem_cons, List.not_mem_nil, false_implies, implies_true, and_true]
  dsimp only [exec]
  exact ⟨predWord_leavesRest hc, predWord_leavesRest hc, predWord_leavesRest hc, predWord_leavesRest hc⟩

theorem exec_PR1_leavesRest (o : OpPR1) : ∀ i ∈ ([.pnot o, .pmov o, .qhelp o] : List Instr), MayGo i [] s →
    LeavesRest [] [] [o.pd.toNat] [] s (exec i s) := by
  simp only [List.forall_mem_cons, List.not_mem_nil, false_implies, implies_true, and_true]
  dsimp only [exec]
  exact ⟨predWord_leavesRest hc, predWord_leavesRest hc, execQhelp_leavesRest hc⟩

theorem exec_PGet_leavesRest (o : OpPGet) : ∀ i ∈ ([.pget o, .pcnt o, .pfirst o] : List Instr), MayGo i [.sd o.sd.toNat] s →
    LeavesRest [o.sd.toNat] [] [] [.sd o.sd.toNat] s (exec i s) := by
  simp only [List.forall_mem_cons, List.not_mem_nil, false_implies, implies_true, and_true]
  dsimp only [exec]
  exact ⟨predScalar_leavesRest hc, predScalar_leavesRest hc, predScalar_leavesRest hc⟩

/-! Members of the floating-point view (06 R169 to R173). -/

section
variable (hf : (fpView (modeEt s.me.mode)).isSome = true)
include hf

theorem exec_fpVR_leavesRest (o : OpVR) : ∀ i ∈ ([.vfadd o, .vfsub o, .vfmul o, .vfmin o, .vfmax o, .vfsgn o] : List Instr),
    MayGo i (usesVR o false) s → LeavesRest [] [o.vd.toNat] [] (usesVR o false) s (exec i s) := by
  have hd : Use.vd o.vd.toNat ∈ usesVR o false := List.mem_cons_self ..
  simp only [List.forall_mem_cons, List.not_mem_nil, false_implies, implies_true, and_true]
  dsimp only [exec]
  exact ⟨fpWord_leavesRest hc hd hf, fpWord_leavesRest hc hd hf, fpWord_leavesRest hc hd hf, fpWord_leavesRest hc hd hf,
    fpWord_leavesRest hc hd hf, signWord_leavesRest hc hd hf⟩

theorem exec_fused_leavesRest (o : OpVR) : ∀ i ∈ ([.vfma o, .vfms o, .vfnma o] : List Instr),
    MayGo i (usesVR o true) s → LeavesRest [] [o.vd.toNat] [] (usesVR o true) s (exec i s) := by
  have hd : Use.vd o.vd.toNat ∈ usesVR o true := List.mem_cons_self ..
  simp only [List.forall_mem_cons, List.not_mem_nil, false_implies, implies_true, and_true]
  dsimp only [exec]
  exact ⟨fpWord_leavesRest hc hd hf, fpWord_leavesRest hc hd hf, fpWord_leavesRest hc hd hf⟩

theorem exec_fpVR1_leavesRest (o : OpVR1) :
    ∀ i ∈ ([.vfabs o, .vfneg o, .vrcp o, .vrsq o, .vsqrt o, .vexp2 o, .vlog2 o, .vsin o, .vcos o,
      .vtanh o] : List Instr), MayGo i (usesVR1 o) s → LeavesRest [] [o.vd.toNat] [] (usesVR1 o) s (exec i s) := by
  have hd : Use.vd o.vd.toNat ∈ usesVR1 o := List.mem_cons_self ..
  have sign {i : Instr} {f : Fmt → List Nat → Nat} (hg : MayGo i (usesVR1 o) s) :
      LeavesRest [] [o.vd.toNat] [] (usesVR1 o) s (signWord i (usesVR1 o) o.vd.toNat f s) := signWord_leavesRest hc hd hf hg
  have sfu {i : Instr} {member : Nat} (hg : MayGo i (usesVR1 o) s) :
      LeavesRest [] [o.vd.toNat] [] (usesVR1 o) s (sfuWord i o member s) := fpWord_leavesRest hc hd hf hg
  simp only [List.forall_mem_cons, List.not_mem_nil, false_implies, implies_true, and_true]
  dsimp only [exec]
  exact ⟨sign, sign, sfu, sfu, sfu, sfu, sfu, sfu, sfu, sfu⟩

end
end

/-- Settles O33: each word is one of the frames of the vector words, whose effect is made of operations that stay within the bounds of
the destination and the ports (`Within`), and retirement leaves the rest (`Within.frame`). -/
theorem vectorFrame : Obligations.VectorFrame := by
  unfold Obligations.VectorFrame
  intro s t i uses ss vs ps ht hc hg fp hform
  refine (?_ : LeavesRest ss vs ps uses s (exec i s)) t ht
  rcases hform with ⟨o, acc, rfl, rfl, rfl, rfl, hi⟩ | ⟨o, rfl, rfl, rfl, rfl, hi⟩ | ⟨o, rfl, rfl, rfl, rfl, hi⟩
    | ⟨o, rfl, rfl, rfl, rfl, rfl⟩ | ⟨o, hi, rfl, rfl, rfl, rfl⟩ | ⟨o, rfl, rfl, rfl, hi⟩ | ⟨o, rfl, rfl, rfl, rfl, rfl⟩
    | ⟨o, rfl, rfl, rfl, rfl, rfl⟩ | ⟨o, rfl, rfl, rfl, rfl, rfl⟩ | ⟨o, rfl, rfl, rfl, hi⟩ | ⟨o, hi, rfl, rfl, rfl, rfl⟩
    | ⟨o, hi, rfl, rfl, rfl, rfl⟩ | ⟨o, hi, rfl, rfl, rfl, rfl⟩ | ⟨o, rfl, rfl, rfl, rfl, rfl⟩ | ⟨o, hi, rfl, rfl, rfl, rfl⟩
  · rcases hi with ⟨rfl, hi⟩ | ⟨rfl, hf, hi⟩ | ⟨rfl, rfl⟩ | ⟨rfl, hf, hi⟩ | ⟨rfl, rfl, he⟩ | ⟨rfl, rfl, he⟩
    · exact exec_VR_leavesRest hc o i hi hg
    · exact exec_fpVR_leavesRest hc hf o i hi hg
    · dsimp only [exec]
      exact intVR_leavesRest hc hg
    · exact exec_fused_leavesRest hc hf o i hi hg
    · exact execVdot4i_leavesRest hc he hg
    · exact execVdot2_leavesRest hc he hg
  · rcases hi with ⟨hf, hi⟩ | hi
    · exact exec_fpVR1_leavesRest hc hf o i hi hg
    · exact exec_scans_leavesRest hc o i hi hg
  · rcases hi with hi | ⟨rfl, hq⟩
    · exact exec_VI_leavesRest hc o i hi hg
    · exact execVquad_leavesRest hc hq hg
  · exact execVcvt_leavesRest hc hg
  · exact exec_MX_leavesRest hc o i hi hg
  · rcases hi with ⟨hi, rfl⟩ | ⟨rfl, rfl⟩
    · exact exec_VS1_leavesRest hc o i hi hg
    · exact execVgen_leavesRest hc hg
  · exact execVbcast_leavesRest hc hg
  · exact execViota_leavesRest hc hg
  · exact execVext_leavesRest hc hg
  · rcases hi with ⟨hi, rfl⟩ | ⟨rfl, rfl⟩
    · exact exec_reductions_leavesRest hc o i hi hg
    · exact execVshape_leavesRest hc hg
  · exact exec_compares_leavesRest hc o i hi hg
  · exact exec_PR2_leavesRest hc o i hi hg
  · exact exec_PR1_leavesRest hc o i hi hg
  · exact execPset_leavesRest hc hg
  · exact exec_PGet_leavesRest hc o i hi hg

end Sys2Proof.Machine
end

section
/-!
THE ENCODING (O1, O2, O3). Decoding the encoding of an instruction gives it back, and a word that decodes is the encoding of what
it decodes to: a word is the sum of its fields, and the operands of each format, packed, give that sum again.
-/

namespace Sys2Proof.Laws.RoundTrip

/-- Each instruction is decoded from its encoding (04 R91 to R106): the lemma of its own format. -/
theorem statement (i : Instr) : Statement i :=
  i.casesOn
    hint rep stage mode modev moder fill fillRd sget sset nop exit lexit trap eret sysc brk twait yield bEqz bNez bLtz bGez
    bGtz bLez bPany bPnone bPall bAlways j call jr callr loop add sub and or xor andn shl shr sar rol min max minz maxz slt
    sltz mul mulh mulhz div divz rem remz clz ctz popc brev sextb sexth sextw zextw addi slti sltiz andi ori xori shli shri
    sari roli lis addpc lihi sldb sldbz sldh sldhz sldw sldwz sldd sstb ssth sstw sstd satomAdd satomAnd satomOr satomXor
    satomMin satomMax satomMinz satomMaxz satomXchg satomCas satomLd satomSt slda sstl sldaw sstlw vadd vsub vmul vmulh vmad
    vmin vmax vabsd vand vor vxor vandn vshl vshr vsar vrol vaddi vmuli vandi vori vxori vshli vshri vsari vfadd vfsub vfmul
    vfmin vfmax vfabs vfneg vfsgn vfma vfms vfnma vdot2 vdot4i vrcp vrsq vsqrt vexp2 vlog2 vsin vcos vtanh vcvt vmxq vmxd
    vcmpEq vcmpNe vcmpLt vcmpLe vcmpGt vcmpGe vcmpUnord vcmpOrd vperm vbperm vshfx vslideu vslided vlaneb vquad vscanadd
    vscanmin vscanmax vscanor vxscanadd vxscanmax vredadd vredmin vredmax vredand vredor pand por pxor pandn pnot pmov pset
    pget pcnt pfirst qhelp vmov vmova vbcast viota vshape vgen vext vldw vldh vldhz vldb vldbz vldu vldq vstw vsth vstb vstq
    vatomAdd vatomAnd vatomOr vatomXor vatomMin vatomMax vatomMinz vatomMaxz vatomXchg vatomCas vatomFadd vatomLd vatomSt vlda
    vstl fence bar bara barw barinit cjoin cleave sopen sclose sdrain bclose bwait tbinit tbarr tbexp tbwait vacqW vacqT vrel
    pgacqW pgacqT pgrel aacqW aacqT arel macqW macqT mrel tspawn qpush qpop qsteal eqpush eqfire adrain adrainRaw afill
    afillRaw kstart kwait cdrain cstate cload csaved crestart msave mload mbox dhalt dresume dstep dunpin bpset warm mma mldfb
    mring mzero mwait msig mfetch mend mtime mpop madd maddi mli mbnz mj registerReturn syscAnswer twaitExpiry
    barrierPhaseWake barinitResume tbwaitWake bwaitDone bcloseResume sdrainDone kwaitDone lockWaitDone allotGrant
    streamReadFill streamWritePerform bteStart copyNbtStart copyComplete copyFail mmaComplete mfetchDoorbellWrite teamAdmit
    gatherTimerExpiry expertAgeTimer expertFire gatheringLaunch eqStarveTimeout activeSetEnter blockedEvict yieldHoldExpiry
    aging notify wakeRefill launch launchComplete copy templateLoad dumpRead configureTaskQueue configureExpert
    disableTaskQueue disableExpert assignPartitions writeGrant clearGrant stage2Inval tlbInval demandFaultRetry
    demandFaultFail featuresOk queueEnable queueReset queueResetDone binderArm binderStop commitReward commitEnv injvalid
    knobWrite binderIdleWrite binderBoundary preempt sliceExpiry groupStop saveHandlerTimeout folioWrite restore folioRestore
    resumeSave discard exportImage hcmdHalt hcmdResume hcmdStep groupHalt dump evlostRead droopsRead pdropRead traceEnable
    traceForce traceFreeze pmcOverflow correctedError uncorrectedError dieHold dieRelease dieReset timeSyncMeasure lockTimeout
    fabricPacketRx collectiveStart collectiveStep collectiveComplete collWatchdogExpiry powerArbiterTick thermalWarn
    thermalCrit thermalClear droopTrip droopEnd railCurrentLimit powerOn pfFlr vfFlr vfResetDone vfEnable getMeasurements
    getDeviceInterfaceState registerWrite kStepBoundary mtimeExpiry launchNbtStart tdiTransition vfDisable

end Sys2Proof.Laws.RoundTrip

namespace Sys2Proof.Machine

/-- Settles O1: one lemma per instruction of the table. -/
theorem encodingRoundTrip : Obligations.EncodingRoundTrip := Laws.RoundTrip.statement

/-- Settles O3: each word of the manual is decoded by computation. -/
theorem specWordsDecode : Obligations.SpecWordsDecode := by
  unfold Obligations.SpecWordsDecode
  exact ⟨rfl, rfl, rfl, rfl, rfl, rfl, rfl, rfl, rfl, rfl, rfl, rfl, rfl, rfl, rfl, rfl⟩

end Sys2Proof.Machine

namespace Sys2Proof

/-! ## A word as the sum of its fields (04 R91) -/

/-- The field of n bits of a word whose lowest bit is `lo`, as a number. -/
def fieldAt (w : W32) (lo n : Nat) : Nat := w.toNat / 2 ^ lo % 2 ^ n

theorem fld_toNat (lo n : Nat) (w : W32) : (fld lo n w).toNat = fieldAt w lo n := BitVec.toNat_ofNat ..

theorem flag_toNat (lo : Nat) (w : W32) : (flag lo w).toNat = fieldAt w lo 1 := by
  unfold flag fieldAt
  rcases Nat.mod_two_eq_zero_or_one (w.toNat / 2 ^ lo) with h | h <;> rw [Nat.pow_one, h] <;> rfl

/-- The fields of a word that must be zero are zero (04 R100). -/
def ZeroIn (w : W32) (zs : List (Nat × Nat)) : Prop := ∀ z ∈ zs, fieldAt w z.2 (z.1 + 1 - z.2) = 0

/-- A word from bit `lo` up, as the sum of adjacent fields of these widths. -/
def fieldSum (w : W32) : Nat → List Nat → Nat
  | _, [] => 0
  | lo, n :: ns => fieldAt w lo n + 2 ^ n * fieldSum w (lo + n) ns

theorem fieldSum_eq (w : W32) (ns : List Nat) (lo : Nat) (h : lo + ns.sum = 32) : fieldSum w lo ns = w.toNat / 2 ^ lo := by
  induction ns generalizing lo with
  | nil =>
    obtain rfl : lo = 32 := by simpa using h
    exact (Nat.div_eq_of_lt w.isLt).symm
  | cons n ns ih =>
    have hn : lo + n + ns.sum = 32 := by rw [List.sum_cons] at h; omega
    rw [fieldSum, ih (lo + n) hn, fieldAt, Nat.pow_add, ← Nat.div_div_eq_div_mul, Nat.mod_add_div]

/-- A word is the sum of the fields that make it up. -/
theorem ofNat_fieldSum {w : W32} (ns : List Nat) (h : ns.sum = 32) {x : Nat} (hx : x = fieldSum w 0 ns) :
    BitVec.ofNat 32 x = w := by
  rw [hx, fieldSum_eq w ns 0 (by omega), Nat.pow_zero, Nat.div_one, BitVec.ofNat_toNat, BitVec.setWidth_eq]

/-- A field that is zero, down to a bit below it that is zero too. -/
theorem ZeroIn.withBit {w : W32} {hi lo : Nat} (hz : ZeroIn w [(hi, lo + 1)]) (hf : ¬flag lo w = true) (h : lo ≤ hi) :
    ZeroIn w [(hi, lo)] := by
  have hz' : fieldAt w (lo + 1) (hi - lo) = 0 := by simpa [ZeroIn] using hz
  have hf' : fieldAt w lo 1 = 0 := by rw [← flag_toNat, Bool.eq_false_of_not_eq_true hf]; rfl
  have hs : fieldAt w lo (1 + (hi - lo)) = fieldAt w lo 1 + 2 ^ 1 * fieldAt w (lo + 1) (hi - lo) := by
    rw [fieldAt, Nat.pow_add, Nat.mod_mul, Nat.div_div_eq_div_mul, ← Nat.pow_add]; rfl
  have he : hi + 1 - lo = 1 + (hi - lo) := by omega
  simp [ZeroIn, he, hs, hf', hz']

/-! ### Words without a selector -/

section
variable {w : W32} {m M : Nat} (hM : fieldAt w 26 6 = M) (hm : m = M * 2 ^ 26)
include hM hm

theorem OpHint.pack_unpack (hz : ZeroIn w [(1, 0)]) : (OpHint.unpack w).pack m = w := by
  simp only [ZeroIn, List.forall_mem_cons, Nat.reduceAdd, Nat.reduceSub] at hz
  refine ofNat_fieldSum [2, 8, 16, 6] rfl ?_
  simp only [OpHint.unpack, fld_toNat, fieldSum, Nat.reduceAdd, hM, hz, hm]
  ring

theorem OpRep.pack_unpack (hz : ZeroIn w [(14, 0)]) : (OpRep.unpack w).pack m = w := by
  simp only [ZeroIn, List.forall_mem_cons, Nat.reduceAdd, Nat.reduceSub] at hz
  refine ofNat_fieldSum [15, 2, 1, 1, 1, 6, 6] rfl ?_
  simp only [OpRep.unpack, fld_toNat, flag_toNat, fieldSum, Nat.reduceAdd, hM, hz, hm]
  ring

theorem OpJ.pack_unpack : (OpJ.unpack w).pack m = w := by
  refine ofNat_fieldSum [26, 6] rfl ?_
  simp only [OpJ.unpack, fld_toNat, fieldSum, Nat.reduceAdd, hM, hm]
  ring

theorem OpSL.pack_unpack : (OpSL.unpack w).pack m = w := by
  refine ofNat_fieldSum [20, 6, 6] rfl ?_
  simp only [OpSL.unpack, fld_toNat, fieldSum, Nat.reduceAdd, hM, hm]
  ring

theorem OpCV.pack_unpack : (OpCV.unpack w).pack m = w := by
  refine ofNat_fieldSum [4, 4, 7, 7, 1, 3, 6] rfl ?_
  simp only [OpCV.unpack, fld_toNat, flag_toNat, fieldSum, Nat.reduceAdd, hM, hm]
  ring

theorem OpMma.pack_unpack : (OpMma.unpack w).pack m = w := by
  refine ofNat_fieldSum [2, 3, 3, 4, 2, 3, 1, 8, 6] rfl ?_
  simp only [OpMma.unpack, fld_toNat, flag_toNat, fieldSum, Nat.reduceAdd, hM, hm]
  ring

end

/-! ### Words with a selector of two bits -/

section
variable {w : W32} {m M c : Nat} (hM : fieldAt w 26 6 = M) (hc : fieldAt w 24 2 = c) (hm : m = M * 2 ^ 26 + c * 2 ^ 24)
include hM hc hm

theorem OpSI.pack_unpack : (OpSI.unpack w).pack m = w := by
  refine ofNat_fieldSum [12, 6, 6, 2, 6] rfl ?_
  simp only [OpSI.unpack, fld_toNat, fieldSum, Nat.reduceAdd, hM, hc, hm]
  ring

theorem OpSh.pack_unpack (hz : ZeroIn w [(11, 6)]) : (OpSh.unpack w).pack m = w := by
  simp only [ZeroIn, List.forall_mem_cons, Nat.reduceAdd, Nat.reduceSub] at hz
  refine ofNat_fieldSum [6, 6, 6, 6, 2, 6] rfl ?_
  simp only [OpSh.unpack, fld_toNat, fieldSum, Nat.reduceAdd, hM, hc, hz, hm]
  ring

end

/-! ### Words with a selector of three bits -/

section
variable {w : W32} {m M c : Nat} (hM : fieldAt w 26 6 = M) (hc : fieldAt w 23 3 = c) (hm : m = M * 2 ^ 26 + c * 2 ^ 23)
include hM hc hm

theorem OpStage.pack_unpack (hz : ZeroIn w [(22, 22), (21, 21)]) : (OpStage.unpack w).pack m = w := by
  simp only [ZeroIn, List.forall_mem_cons, Nat.reduceAdd, Nat.reduceSub] at hz
  refine ofNat_fieldSum [7, 7, 7, 1, 1, 3, 6] rfl ?_
  simp only [OpStage.unpack, fld_toNat, fieldSum, Nat.reduceAdd, hM, hc, hz, hm]
  ring

theorem OpSM.pack_unpack : (OpSM.unpack w).pack m = w := by
  refine ofNat_fieldSum [11, 6, 6, 3, 6] rfl ?_
  simp only [OpSM.unpack, fld_toNat, fieldSum, Nat.reduceAdd, hM, hc, hm]
  ring

theorem OpSO.pack_unpack : (OpSO.unpack w).pack m = w := by
  refine ofNat_fieldSum [8, 3, 6, 6, 3, 6] rfl ?_
  simp only [OpSO.unpack, fld_toNat, fieldSum, Nat.reduceAdd, hM, hc, hm]
  ring

theorem OpVR.pack_unpack : (OpVR.unpack w).pack m = w := by
  refine ofNat_fieldSum [7, 7, 7, 1, 1, 3, 6] rfl ?_
  simp only [OpVR.unpack, fld_toNat, flag_toNat, fieldSum, Nat.reduceAdd, hM, hc, hm]
  ring

theorem OpVI.pack_unpack : (OpVI.unpack w).pack m = w := by
  refine ofNat_fieldSum [8, 7, 7, 1, 3, 6] rfl ?_
  simp only [OpVI.unpack, fld_toNat, flag_toNat, fieldSum, Nat.reduceAdd, hM, hc, hm]
  ring

theorem OpVR1.pack_unpack (hz : ZeroIn w [(21, 21), (6, 0)]) : (OpVR1.unpack w).pack m = w := by
  simp only [ZeroIn, List.forall_mem_cons, Nat.reduceAdd, Nat.reduceSub] at hz
  refine ofNat_fieldSum [7, 7, 7, 1, 1, 3, 6] rfl ?_
  simp only [OpVR1.unpack, fld_toNat, flag_toNat, fieldSum, Nat.reduceAdd, hM, hc, hz, hm]
  ring

theorem OpVCmp.pack_unpack (hz : ZeroIn w [(20, 17)]) : (OpVCmp.unpack w).pack m = w := by
  simp only [ZeroIn, List.forall_mem_cons, Nat.reduceAdd, Nat.reduceSub] at hz
  refine ofNat_fieldSum [7, 7, 3, 4, 1, 1, 3, 6] rfl ?_
  simp only [OpVCmp.unpack, fld_toNat, flag_toNat, fieldSum, Nat.reduceAdd, hM, hc, hz, hm]
  ring

theorem OpVSRed.pack_unpack (hz : ZeroIn w [(21, 15), (7, 6)]) : (OpVSRed.unpack w).pack m = w := by
  simp only [ZeroIn, List.forall_mem_cons, Nat.reduceAdd, Nat.reduceSub] at hz
  refine ofNat_fieldSum [6, 2, 7, 7, 1, 3, 6] rfl ?_
  simp only [OpVSRed.unpack, fld_toNat, flag_toNat, fieldSum, Nat.reduceAdd, hM, hc, hz, hm]
  ring

theorem OpVS1.pack_unpack (hz : ZeroIn w [(7, 6), (5, 0)]) : (OpVS1.unpack w).pack m = w := by
  simp only [ZeroIn, List.forall_mem_cons, Nat.reduceAdd, Nat.reduceSub] at hz
  refine ofNat_fieldSum [6, 2, 7, 7, 1, 3, 6] rfl ?_
  simp only [OpVS1.unpack, fld_toNat, flag_toNat, fieldSum, Nat.reduceAdd, hM, hc, hz, hm]
  ring

theorem OpVBc.pack_unpack (hz : ZeroIn w [(22, 22), (14, 8), (7, 6)]) : (OpVBc.unpack w).pack m = w := by
  simp only [ZeroIn, List.forall_mem_cons, Nat.reduceAdd, Nat.reduceSub] at hz
  refine ofNat_fieldSum [6, 2, 7, 7, 1, 3, 6] rfl ?_
  simp only [OpVBc.unpack, fld_toNat, fieldSum, Nat.reduceAdd, hM, hc, hz, hm]
  ring

theorem OpVIota.pack_unpack (hz : ZeroIn w [(22, 22), (7, 6)]) : (OpVIota.unpack w).pack m = w := by
  simp only [ZeroIn, List.forall_mem_cons, Nat.reduceAdd, Nat.reduceSub] at hz
  refine ofNat_fieldSum [6, 2, 7, 7, 1, 3, 6] rfl ?_
  simp only [OpVIota.unpack, fld_toNat, fieldSum, Nat.reduceAdd, hM, hc, hz, hm]
  ring

theorem OpVExt.pack_unpack (hz : ZeroIn w [(7, 6)]) : (OpVExt.unpack w).pack m = w := by
  simp only [ZeroIn, List.forall_mem_cons, Nat.reduceAdd, Nat.reduceSub] at hz
  refine ofNat_fieldSum [6, 2, 7, 7, 1, 3, 6] rfl ?_
  simp only [OpVExt.unpack, fld_toNat, flag_toNat, fieldSum, Nat.reduceAdd, hM, hc, hz, hm]
  ring

theorem OpVM.pack_unpack : (OpVM.unpack w).pack m = w := by
  refine ofNat_fieldSum [2, 1, 7, 6, 7, 3, 6] rfl ?_
  simp only [OpVM.unpack, fld_toNat, flag_toNat, fieldSum, Nat.reduceAdd, hM, hc, hm]
  ring

theorem OpVLdu.pack_unpack (hz : ZeroIn w [(9, 3), (2, 2), (1, 0)]) : (OpVLdu.unpack w).pack m = w := by
  simp only [ZeroIn, List.forall_mem_cons, Nat.reduceAdd, Nat.reduceSub] at hz
  refine ofNat_fieldSum [2, 1, 7, 6, 7, 3, 6] rfl ?_
  simp only [OpVLdu.unpack, fld_toNat, fieldSum, Nat.reduceAdd, hM, hc, hz, hm]
  ring

theorem OpVO.pack_unpack : (OpVO.unpack w).pack m = w := by
  refine ofNat_fieldSum [3, 7, 6, 7, 3, 6] rfl ?_
  simp only [OpVO.unpack, fld_toNat, fieldSum, Nat.reduceAdd, hM, hc, hm]
  ring

theorem OpQSpawn.pack_unpack (hz : ZeroIn w [(3, 0)]) : (OpQSpawn.unpack w).pack m = w := by
  simp only [ZeroIn, List.forall_mem_cons, Nat.reduceAdd, Nat.reduceSub] at hz
  refine ofNat_fieldSum [4, 7, 6, 6, 3, 6] rfl ?_
  simp only [OpQSpawn.unpack, fld_toNat, fieldSum, Nat.reduceAdd, hM, hc, hz, hm]
  ring

theorem OpQV.pack_unpack (hz : ZeroIn w [(16, 11), (3, 0)]) : (OpQV.unpack w).pack m = w := by
  simp only [ZeroIn, List.forall_mem_cons, Nat.reduceAdd, Nat.reduceSub] at hz
  refine ofNat_fieldSum [4, 7, 6, 6, 3, 6] rfl ?_
  simp only [OpQV.unpack, fld_toNat, fieldSum, Nat.reduceAdd, hM, hc, hz, hm]
  ring

theorem OpEqFire.pack_unpack (hz : ZeroIn w [(10, 4), (3, 0)]) : (OpEqFire.unpack w).pack m = w := by
  simp only [ZeroIn, List.forall_mem_cons, Nat.reduceAdd, Nat.reduceSub] at hz
  refine ofNat_fieldSum [4, 7, 6, 6, 3, 6] rfl ?_
  simp only [OpEqFire.unpack, fld_toNat, fieldSum, Nat.reduceAdd, hM, hc, hz, hm]
  ring

theorem OpDrain.pack_unpack : (OpDrain.unpack w).pack m = w := by
  refine ofNat_fieldSum [3, 6, 7, 2, 2, 3, 3, 6] rfl ?_
  simp only [OpDrain.unpack, fld_toNat, fieldSum, Nat.reduceAdd, hM, hc, hm]
  ring

theorem OpFillAcc.pack_unpack (hz : ZeroIn w [(22, 20)]) : (OpFillAcc.unpack w).pack m = w := by
  simp only [ZeroIn, List.forall_mem_cons, Nat.reduceAdd, Nat.reduceSub] at hz
  refine ofNat_fieldSum [3, 6, 7, 2, 2, 3, 3, 6] rfl ?_
  simp only [OpFillAcc.unpack, fld_toNat, fieldSum, Nat.reduceAdd, hM, hc, hz, hm]
  ring

theorem OpMAdd.pack_unpack (hz : ZeroIn w [(14, 4)]) : (OpMAdd.unpack w).pack m = w := by
  simp only [ZeroIn, List.forall_mem_cons, Nat.reduceAdd, Nat.reduceSub] at hz
  refine ofNat_fieldSum [4, 11, 4, 4, 3, 6] rfl ?_
  simp only [OpMAdd.unpack, fld_toNat, fieldSum, Nat.reduceAdd, hM, hc, hz, hm]
  ring

theorem OpMAddi.pack_unpack : (OpMAddi.unpack w).pack m = w := by
  refine ofNat_fieldSum [15, 4, 4, 3, 6] rfl ?_
  simp only [OpMAddi.unpack, fld_toNat, fieldSum, Nat.reduceAdd, hM, hc, hm]
  ring

theorem OpMLi.pack_unpack : (OpMLi.unpack w).pack m = w := by
  refine ofNat_fieldSum [15, 4, 4, 3, 6] rfl ?_
  simp only [OpMLi.unpack, fld_toNat, fieldSum, Nat.reduceAdd, hM, hc, hm]
  ring

theorem OpMBnz.pack_unpack (hz : ZeroIn w [(22, 19)]) : (OpMBnz.unpack w).pack m = w := by
  simp only [ZeroIn, List.forall_mem_cons, Nat.reduceAdd, Nat.reduceSub] at hz
  refine ofNat_fieldSum [15, 4, 4, 3, 6] rfl ?_
  simp only [OpMBnz.unpack, fld_toNat, fieldSum, Nat.reduceAdd, hM, hc, hz, hm]
  ring

theorem OpMJ.pack_unpack (hz : ZeroIn w [(22, 19), (18, 15)]) : (OpMJ.unpack w).pack m = w := by
  simp only [ZeroIn, List.forall_mem_cons, Nat.reduceAdd, Nat.reduceSub] at hz
  refine ofNat_fieldSum [15, 4, 4, 3, 6] rfl ?_
  simp only [OpMJ.unpack, fld_toNat, fieldSum, Nat.reduceAdd, hM, hc, hz, hm]
  ring

end

/-! ### Words with a selector of four bits -/

section
variable {w : W32} {m M c : Nat} (hM : fieldAt w 26 6 = M) (hc : fieldAt w 22 4 = c) (hm : m = M * 2 ^ 26 + c * 2 ^ 22)
include hM hc hm

theorem OpBr.pack_unpack : (OpBr.unpack w).pack m = w := by
  refine ofNat_fieldSum [16, 6, 4, 6] rfl ?_
  simp only [OpBr.unpack, fld_toNat, fieldSum, Nat.reduceAdd, hM, hc, hm]
  ring

theorem OpBrP.pack_unpack (hz : ZeroIn w [(21, 19)]) : (OpBrP.unpack w).pack m = w := by
  simp only [ZeroIn, List.forall_mem_cons, Nat.reduceAdd, Nat.reduceSub] at hz
  refine ofNat_fieldSum [16, 3, 3, 4, 6] rfl ?_
  simp only [OpBrP.unpack, fld_toNat, fieldSum, Nat.reduceAdd, hM, hc, hz, hm]
  ring

theorem OpBrAlways.pack_unpack (hz : ZeroIn w [(21, 16)]) : (OpBrAlways.unpack w).pack m = w := by
  simp only [ZeroIn, List.forall_mem_cons, Nat.reduceAdd, Nat.reduceSub] at hz
  refine ofNat_fieldSum [16, 6, 4, 6] rfl ?_
  simp only [OpBrAlways.unpack, fld_toNat, fieldSum, Nat.reduceAdd, hM, hc, hz, hm]
  ring

theorem OpJr.pack_unpack (hz : ZeroIn w [(21, 16), (9, 4), (2, 2), (1, 0)]) : (OpJr.unpack w).pack m = w := by
  simp only [ZeroIn, List.forall_mem_cons, Nat.reduceAdd, Nat.reduceSub] at hz
  refine ofNat_fieldSum [2, 1, 1, 6, 6, 6, 4, 6] rfl ?_
  simp only [OpJr.unpack, fld_toNat, flag_toNat, fieldSum, Nat.reduceAdd, hM, hc, hz, hm]
  ring

theorem OpSR.pack_unpack (hz : ZeroIn w [(1, 0)]) : (OpSR.unpack w).pack m = w := by
  simp only [ZeroIn, List.forall_mem_cons, Nat.reduceAdd, Nat.reduceSub] at hz
  refine ofNat_fieldSum [2, 1, 1, 6, 6, 6, 4, 6] rfl ?_
  simp only [OpSR.unpack, fld_toNat, flag_toNat, fieldSum, Nat.reduceAdd, hM, hc, hz, hm]
  ring

theorem OpSR1.pack_unpack (hz : ZeroIn w [(9, 4), (2, 2), (1, 0)]) : (OpSR1.unpack w).pack m = w := by
  simp only [ZeroIn, List.forall_mem_cons, Nat.reduceAdd, Nat.reduceSub] at hz
  refine ofNat_fieldSum [2, 1, 1, 6, 6, 6, 4, 6] rfl ?_
  simp only [OpSR1.unpack, fld_toNat, flag_toNat, fieldSum, Nat.reduceAdd, hM, hc, hz, hm]
  ring

theorem OpSA.pack_unpack : (OpSA.unpack w).pack m = w := by
  refine ofNat_fieldSum [5, 6, 6, 3, 2, 4, 6] rfl ?_
  simp only [OpSA.unpack, fld_toNat, fieldSum, Nat.reduceAdd, hM, hc, hm]
  ring

theorem OpSALd.pack_unpack (hz : ZeroIn w [(4, 0)]) : (OpSALd.unpack w).pack m = w := by
  simp only [ZeroIn, List.forall_mem_cons, Nat.reduceAdd, Nat.reduceSub] at hz
  refine ofNat_fieldSum [5, 6, 6, 3, 2, 4, 6] rfl ?_
  simp only [OpSALd.unpack, fld_toNat, fieldSum, Nat.reduceAdd, hM, hc, hz, hm]
  ring

theorem OpSASt.pack_unpack (hz : ZeroIn w [(16, 11)]) : (OpSASt.unpack w).pack m = w := by
  simp only [ZeroIn, List.forall_mem_cons, Nat.reduceAdd, Nat.reduceSub] at hz
  refine ofNat_fieldSum [5, 6, 6, 3, 2, 4, 6] rfl ?_
  simp only [OpSASt.unpack, fld_toNat, fieldSum, Nat.reduceAdd, hM, hc, hz, hm]
  ring

theorem OpPR2.pack_unpack (hz : ZeroIn w [(12, 7), (6, 0)]) : (OpPR2.unpack w).pack m = w := by
  simp only [ZeroIn, List.forall_mem_cons, Nat.reduceAdd, Nat.reduceSub] at hz
  refine ofNat_fieldSum [7, 6, 3, 3, 3, 4, 6] rfl ?_
  simp only [OpPR2.unpack, fld_toNat, fieldSum, Nat.reduceAdd, hM, hc, hz, hm]
  ring

theorem OpPR1.pack_unpack (hz : ZeroIn w [(15, 13), (12, 7), (6, 0)]) : (OpPR1.unpack w).pack m = w := by
  simp only [ZeroIn, List.forall_mem_cons, Nat.reduceAdd, Nat.reduceSub] at hz
  refine ofNat_fieldSum [7, 6, 3, 3, 3, 4, 6] rfl ?_
  simp only [OpPR1.unpack, fld_toNat, fieldSum, Nat.reduceAdd, hM, hc, hz, hm]
  ring

theorem OpPSet.pack_unpack (hz : ZeroIn w [(18, 16), (15, 13), (6, 0)]) : (OpPSet.unpack w).pack m = w := by
  simp only [ZeroIn, List.forall_mem_cons, Nat.reduceAdd, Nat.reduceSub] at hz
  refine ofNat_fieldSum [7, 6, 3, 3, 3, 4, 6] rfl ?_
  simp only [OpPSet.unpack, fld_toNat, fieldSum, Nat.reduceAdd, hM, hc, hz, hm]
  ring

theorem OpPGet.pack_unpack (hz : ZeroIn w [(21, 19), (15, 13), (6, 0)]) : (OpPGet.unpack w).pack m = w := by
  simp only [ZeroIn, List.forall_mem_cons, Nat.reduceAdd, Nat.reduceSub] at hz
  refine ofNat_fieldSum [7, 6, 3, 3, 3, 4, 6] rfl ?_
  simp only [OpPGet.unpack, fld_toNat, fieldSum, Nat.reduceAdd, hM, hc, hz, hm]
  ring

theorem OpAT.pack_unpack : (OpAT.unpack w).pack m = w := by
  refine ofNat_fieldSum [3, 7, 7, 3, 2, 4, 6] rfl ?_
  simp only [OpAT.unpack, fld_toNat, fieldSum, Nat.reduceAdd, hM, hc, hm]
  ring

end

/-! ### Words with a selector of six bits -/

section
variable {w : W32} {m M c : Nat} (hM : fieldAt w 26 6 = M) (hc : fieldAt w 20 6 = c) (hm : m = M * 2 ^ 26 + c * 2 ^ 20)
include hM hc hm

theorem OpMode.pack_unpack (hz : ZeroIn w [(19, 19)]) : (OpMode.unpack w).pack m = w := by
  simp only [ZeroIn, List.forall_mem_cons, Nat.reduceAdd, Nat.reduceSub] at hz
  refine ofNat_fieldSum [3, 4, 3, 1, 1, 1, 6, 1, 6, 6] rfl ?_
  simp only [OpMode.unpack, fld_toNat, flag_toNat, fieldSum, Nat.reduceAdd, hM, hc, hz, hm]
  ring

theorem OpA.pack_unpack (hz : ZeroIn w [(19, 6)]) : (OpA.unpack w).pack m = w := by
  simp only [ZeroIn, List.forall_mem_cons, Nat.reduceAdd, Nat.reduceSub] at hz
  refine ofNat_fieldSum [6, 14, 6, 6] rfl ?_
  simp only [OpA.unpack, fld_toNat, fieldSum, Nat.reduceAdd, hM, hc, hz, hm]
  ring

theorem OpD.pack_unpack (hz : ZeroIn w [(19, 6)]) : (OpD.unpack w).pack m = w := by
  simp only [ZeroIn, List.forall_mem_cons, Nat.reduceAdd, Nat.reduceSub] at hz
  refine ofNat_fieldSum [6, 14, 6, 6] rfl ?_
  simp only [OpD.unpack, fld_toNat, fieldSum, Nat.reduceAdd, hM, hc, hz, hm]
  ring

theorem OpSget.pack_unpack (hz : ZeroIn w [(19, 18)]) : (OpSget.unpack w).pack m = w := by
  simp only [ZeroIn, List.forall_mem_cons, Nat.reduceAdd, Nat.reduceSub] at hz
  refine ofNat_fieldSum [12, 6, 2, 6, 6] rfl ?_
  simp only [OpSget.unpack, fld_toNat, fieldSum, Nat.reduceAdd, hM, hc, hz, hm]
  ring

theorem OpSset.pack_unpack (hz : ZeroIn w [(19, 18)]) : (OpSset.unpack w).pack m = w := by
  simp only [ZeroIn, List.forall_mem_cons, Nat.reduceAdd, Nat.reduceSub] at hz
  refine ofNat_fieldSum [12, 6, 2, 6, 6] rfl ?_
  simp only [OpSset.unpack, fld_toNat, fieldSum, Nat.reduceAdd, hM, hc, hz, hm]
  ring

theorem OpImm.pack_unpack (hz : ZeroIn w [(19, 16)]) : (OpImm.unpack w).pack m = w := by
  simp only [ZeroIn, List.forall_mem_cons, Nat.reduceAdd, Nat.reduceSub] at hz
  refine ofNat_fieldSum [16, 4, 6, 6] rfl ?_
  simp only [OpImm.unpack, fld_toNat, fieldSum, Nat.reduceAdd, hM, hc, hz, hm]
  ring

theorem OpDA.pack_unpack (hz : ZeroIn w [(19, 12)]) : (OpDA.unpack w).pack m = w := by
  simp only [ZeroIn, List.forall_mem_cons, Nat.reduceAdd, Nat.reduceSub] at hz
  refine ofNat_fieldSum [6, 6, 8, 6, 6] rfl ?_
  simp only [OpDA.unpack, fld_toNat, fieldSum, Nat.reduceAdd, hM, hc, hz, hm]
  ring

theorem OpLoop.pack_unpack (hz : ZeroIn w [(19, 11)]) : (OpLoop.unpack w).pack m = w := by
  simp only [ZeroIn, List.forall_mem_cons, Nat.reduceAdd, Nat.reduceSub] at hz
  refine ofNat_fieldSum [6, 5, 9, 6, 6] rfl ?_
  simp only [OpLoop.unpack, fld_toNat, fieldSum, Nat.reduceAdd, hM, hc, hz, hm]
  ring

theorem OpFence.pack_unpack (hz : ZeroIn w [(19, 5)]) : (OpFence.unpack w).pack m = w := by
  simp only [ZeroIn, List.forall_mem_cons, Nat.reduceAdd, Nat.reduceSub] at hz
  refine ofNat_fieldSum [2, 3, 15, 6, 6] rfl ?_
  simp only [OpFence.unpack, fld_toNat, fieldSum, Nat.reduceAdd, hM, hc, hz, hm]
  ring

theorem OpBar.pack_unpack (hz : ZeroIn w [(19, 4)]) : (OpBar.unpack w).pack m = w := by
  simp only [ZeroIn, List.forall_mem_cons, Nat.reduceAdd, Nat.reduceSub] at hz
  refine ofNat_fieldSum [4, 16, 6, 6] rfl ?_
  simp only [OpBar.unpack, fld_toNat, fieldSum, Nat.reduceAdd, hM, hc, hz, hm]
  ring

theorem OpBarInit.pack_unpack (hz : ZeroIn w [(19, 10)]) : (OpBarInit.unpack w).pack m = w := by
  simp only [ZeroIn, List.forall_mem_cons, Nat.reduceAdd, Nat.reduceSub] at hz
  refine ofNat_fieldSum [4, 6, 10, 6, 6] rfl ?_
  simp only [OpBarInit.unpack, fld_toNat, fieldSum, Nat.reduceAdd, hM, hc, hz, hm]
  ring

theorem OpCJoin.pack_unpack (hz : ZeroIn w [(19, 14)]) : (OpCJoin.unpack w).pack m = w := by
  simp only [ZeroIn, List.forall_mem_cons, Nat.reduceAdd, Nat.reduceSub] at hz
  refine ofNat_fieldSum [6, 6, 2, 6, 6, 6] rfl ?_
  simp only [OpCJoin.unpack, fld_toNat, fieldSum, Nat.reduceAdd, hM, hc, hz, hm]
  ring

theorem OpSOpen.pack_unpack (hz : ZeroIn w [(19, 13)]) : (OpSOpen.unpack w).pack m = w := by
  simp only [ZeroIn, List.forall_mem_cons, Nat.reduceAdd, Nat.reduceSub] at hz
  refine ofNat_fieldSum [7, 6, 7, 6, 6] rfl ?_
  simp only [OpSOpen.unpack, fld_toNat, fieldSum, Nat.reduceAdd, hM, hc, hz, hm]
  ring

theorem OpPort.pack_unpack (hz : ZeroIn w [(19, 7)]) : (OpPort.unpack w).pack m = w := by
  simp only [ZeroIn, List.forall_mem_cons, Nat.reduceAdd, Nat.reduceSub] at hz
  refine ofNat_fieldSum [7, 13, 6, 6] rfl ?_
  simp only [OpPort.unpack, fld_toNat, fieldSum, Nat.reduceAdd, hM, hc, hz, hm]
  ring

theorem OpBClose.pack_unpack (hz : ZeroIn w [(19, 8)]) : (OpBClose.unpack w).pack m = w := by
  simp only [ZeroIn, List.forall_mem_cons, Nat.reduceAdd, Nat.reduceSub] at hz
  refine ofNat_fieldSum [6, 2, 12, 6, 6] rfl ?_
  simp only [OpBClose.unpack, fld_toNat, fieldSum, Nat.reduceAdd, hM, hc, hz, hm]
  ring

theorem OpAB.pack_unpack (hz : ZeroIn w [(19, 12)]) : (OpAB.unpack w).pack m = w := by
  simp only [ZeroIn, List.forall_mem_cons, Nat.reduceAdd, Nat.reduceSub] at hz
  refine ofNat_fieldSum [6, 6, 8, 6, 6] rfl ?_
  simp only [OpAB.unpack, fld_toNat, fieldSum, Nat.reduceAdd, hM, hc, hz, hm]
  ring

theorem OpTBArr.pack_unpack (hz : ZeroIn w [(19, 9)]) : (OpTBArr.unpack w).pack m = w := by
  simp only [ZeroIn, List.forall_mem_cons, Nat.reduceAdd, Nat.reduceSub] at hz
  refine ofNat_fieldSum [6, 3, 11, 6, 6] rfl ?_
  simp only [OpTBArr.unpack, fld_toNat, fieldSum, Nat.reduceAdd, hM, hc, hz, hm]
  ring

theorem OpTBWait.pack_unpack (hz : ZeroIn w [(19, 15)]) : (OpTBWait.unpack w).pack m = w := by
  simp only [ZeroIn, List.forall_mem_cons, Nat.reduceAdd, Nat.reduceSub] at hz
  refine ofNat_fieldSum [6, 6, 3, 5, 6, 6] rfl ?_
  simp only [OpTBWait.unpack, fld_toNat, fieldSum, Nat.reduceAdd, hM, hc, hz, hm]
  ring

theorem OpRel.pack_unpack (hz : ZeroIn w [(19, 12), (5, 0)]) : (OpRel.unpack w).pack m = w := by
  simp only [ZeroIn, List.forall_mem_cons, Nat.reduceAdd, Nat.reduceSub] at hz
  refine ofNat_fieldSum [6, 6, 8, 6, 6] rfl ?_
  simp only [OpRel.unpack, fld_toNat, fieldSum, Nat.reduceAdd, hM, hc, hz, hm]
  ring

theorem OpIdx.pack_unpack (hz : ZeroIn w [(19, 12)]) : (OpIdx.unpack w).pack m = w := by
  simp only [ZeroIn, List.forall_mem_cons, Nat.reduceAdd, Nat.reduceSub] at hz
  refine ofNat_fieldSum [6, 6, 8, 6, 6] rfl ?_
  simp only [OpIdx.unpack, fld_toNat, fieldSum, Nat.reduceAdd, hM, hc, hz, hm]
  ring

theorem OpMLdfb.pack_unpack (hz : ZeroIn w [(19, 8)]) : (OpMLdfb.unpack w).pack m = w := by
  simp only [ZeroIn, List.forall_mem_cons, Nat.reduceAdd, Nat.reduceSub] at hz
  refine ofNat_fieldSum [4, 4, 12, 6, 6] rfl ?_
  simp only [OpMLdfb.unpack, fld_toNat, fieldSum, Nat.reduceAdd, hM, hc, hz, hm]
  ring

theorem OpMRing.pack_unpack (hz : ZeroIn w [(19, 7)]) : (OpMRing.unpack w).pack m = w := by
  simp only [ZeroIn, List.forall_mem_cons, Nat.reduceAdd, Nat.reduceSub] at hz
  refine ofNat_fieldSum [3, 4, 13, 6, 6] rfl ?_
  simp only [OpMRing.unpack, fld_toNat, fieldSum, Nat.reduceAdd, hM, hc, hz, hm]
  ring

theorem OpMZero.pack_unpack (hz : ZeroIn w [(19, 2)]) : (OpMZero.unpack w).pack m = w := by
  simp only [ZeroIn, List.forall_mem_cons, Nat.reduceAdd, Nat.reduceSub] at hz
  refine ofNat_fieldSum [2, 18, 6, 6] rfl ?_
  simp only [OpMZero.unpack, fld_toNat, fieldSum, Nat.reduceAdd, hM, hc, hz, hm]
  ring

theorem OpMWait.pack_unpack (hz : ZeroIn w [(19, 8)]) : (OpMWait.unpack w).pack m = w := by
  simp only [ZeroIn, List.forall_mem_cons, Nat.reduceAdd, Nat.reduceSub] at hz
  refine ofNat_fieldSum [8, 12, 6, 6] rfl ?_
  simp only [OpMWait.unpack, fld_toNat, fieldSum, Nat.reduceAdd, hM, hc, hz, hm]
  ring

theorem OpMSig.pack_unpack (hz : ZeroIn w [(19, 12)]) : (OpMSig.unpack w).pack m = w := by
  simp only [ZeroIn, List.forall_mem_cons, Nat.reduceAdd, Nat.reduceSub] at hz
  refine ofNat_fieldSum [4, 8, 8, 6, 6] rfl ?_
  simp only [OpMSig.unpack, fld_toNat, fieldSum, Nat.reduceAdd, hM, hc, hz, hm]
  ring

theorem OpMA.pack_unpack (hz : ZeroIn w [(19, 4)]) : (OpMA.unpack w).pack m = w := by
  simp only [ZeroIn, List.forall_mem_cons, Nat.reduceAdd, Nat.reduceSub] at hz
  refine ofNat_fieldSum [4, 16, 6, 6] rfl ?_
  simp only [OpMA.unpack, fld_toNat, fieldSum, Nat.reduceAdd, hM, hc, hz, hm]
  ring

theorem OpMPop.pack_unpack (hz : ZeroIn w [(19, 11)]) : (OpMPop.unpack w).pack m = w := by
  simp only [ZeroIn, List.forall_mem_cons, Nat.reduceAdd, Nat.reduceSub] at hz
  refine ofNat_fieldSum [3, 8, 9, 6, 6] rfl ?_
  simp only [OpMPop.unpack, fld_toNat, fieldSum, Nat.reduceAdd, hM, hc, hz, hm]
  ring

end

/-! ### Words with another fixed bit -/

section
variable {w : W32} {m M c : Nat} (hM : fieldAt w 26 6 = M) (hc : fieldAt w 20 6 = c)
include hM hc

/-- The second form of FILL, which bit 6 marks (05 R139). -/
theorem OpD.pack_unpack_form (hm : m = M * 2 ^ 26 + c * 2 ^ 20 + 2 ^ 6) (hf : flag 6 w = true) (hz : ZeroIn w [(19, 7)]) :
    (OpD.unpack w).pack m = w := by
  simp only [ZeroIn, List.forall_mem_cons, Nat.reduceAdd, Nat.reduceSub] at hz
  replace hf : fieldAt w 6 1 = 1 := (flag_toNat 6 w).symm.trans (congrArg Bool.toNat hf)
  refine ofNat_fieldSum [6, 1, 13, 6, 6] rfl ?_
  simp only [OpD.unpack, fld_toNat, fieldSum, Nat.reduceAdd, hM, hc, hz, hm, hf]
  ring

/-- A request that waits, which bit 12 marks (11 R309). -/
theorem OpDA.pack_unpack_form (hm : m = M * 2 ^ 26 + c * 2 ^ 20 + 2 ^ 12) (hf : flag 12 w = true) (hz : ZeroIn w [(19, 13)]) :
    (OpDA.unpack w).pack m = w := by
  simp only [ZeroIn, List.forall_mem_cons, Nat.reduceAdd, Nat.reduceSub] at hz
  replace hf : fieldAt w 12 1 = 1 := (flag_toNat 12 w).symm.trans (congrArg Bool.toNat hf)
  refine ofNat_fieldSum [6, 6, 1, 7, 6, 6] rfl ?_
  simp only [OpDA.unpack, fld_toNat, fieldSum, Nat.reduceAdd, hM, hc, hz, hm, hf]
  ring

end

section
variable {w : W32} {m M c : Nat} (hM : fieldAt w 26 6 = M)
include hM

/-- The member of major 0x1F is in X, and FN names a block format. -/
theorem OpMX.pack_unpack (hc : fieldAt w 6 2 = c) (hm : m = M * 2 ^ 26 + c * 2 ^ 6) (hz : ZeroIn w [(5, 0)]) :
    (OpMX.unpack w).pack m = w := by
  simp only [ZeroIn, List.forall_mem_cons, Nat.reduceAdd, Nat.reduceSub] at hz
  refine ofNat_fieldSum [6, 2, 7, 7, 1, 3, 6] rfl ?_
  simp only [OpMX.unpack, fld_toNat, flag_toNat, fieldSum, Nat.reduceAdd, hM, hc, hz, hm]
  ring

/-- A raw transfer, which code 6 in the place of DT marks. -/
theorem OpRaw.pack_unpack (hc : fieldAt w 23 3 = c) (hl : fieldAt w 0 3 = 6)
    (hm : m = M * 2 ^ 26 + c * 2 ^ 23 + 6) (hz : ZeroIn w [(22, 20), (17, 16), (15, 15)]) :
    (OpRaw.unpack w).pack m = w := by
  simp only [ZeroIn, List.forall_mem_cons, Nat.reduceAdd, Nat.reduceSub] at hz
  refine ofNat_fieldSum [3, 6, 6, 1, 2, 2, 3, 3, 6] rfl ?_
  simp only [OpRaw.unpack, fld_toNat, fieldSum, Nat.reduceAdd, hM, hc, hz, hm, hl]
  ring

end

end Sys2Proof

namespace Sys2Proof

/-! ## The words of each major (04 R106) -/

/-- The instruction is a word, and this is its encoding. -/
structure IsWordOf (i : Instr) (w : W32) : Prop where
  encode_eq : encode i = w
  isWord : i.isWord = true
  eventOk : i.eventOk = true

section
variable {w : W32} {i : Instr}

/-- A word without operands. -/
theorem bare_word {M c m : Nat} (hM : fieldAt w 26 6 = M) (hc : fieldAt w 20 6 = c) (hz : ZeroIn w [(19, 0)])
    (hm : m = M * 2 ^ 26 + c * 2 ^ 20) : BitVec.ofNat 32 m = w := by
  simp only [ZeroIn, List.forall_mem_cons, Nat.reduceAdd, Nat.reduceSub] at hz
  refine ofNat_fieldSum [20, 6, 6] rfl ?_
  simp only [fieldSum, Nat.reduceAdd, hM, hc, hz, hm]
  ring

theorem raw03_isWordOf (hM : fieldAt w 26 6 = 0x03) (h : raw03 w = some i) (hz : ZeroIn w i.zeroFields) : IsWordOf i w := by
  unfold raw03 at h
  split at h <;> cases h
  · exact ⟨OpStage.pack_unpack hM ‹(fld 23 3 w).toNat = _› rfl hz, rfl, rfl⟩

theorem raw04_isWordOf (hM : fieldAt w 26 6 = 0x04) (h : raw04 w = some i) (hz : ZeroIn w i.zeroFields) : IsWordOf i w := by
  unfold raw04 at h
  repeat' split at h
  all_goals cases h
  · exact ⟨OpMode.pack_unpack hM ‹(fld 20 6 w).toNat = _› rfl hz, rfl, rfl⟩
  · exact ⟨OpA.pack_unpack hM ‹(fld 20 6 w).toNat = _› rfl hz, rfl, rfl⟩
  · exact ⟨OpD.pack_unpack hM ‹(fld 20 6 w).toNat = _› rfl hz, rfl, rfl⟩
  · exact ⟨OpD.pack_unpack_form hM ‹(fld 20 6 w).toNat = _› rfl ‹_› hz, rfl, rfl⟩
  · exact ⟨OpA.pack_unpack hM ‹(fld 20 6 w).toNat = _› rfl (ZeroIn.withBit hz ‹_› (by decide)), rfl, rfl⟩
  · exact ⟨OpSget.pack_unpack hM ‹(fld 20 6 w).toNat = _› rfl hz, rfl, rfl⟩
  · exact ⟨OpSset.pack_unpack hM ‹(fld 20 6 w).toNat = _› rfl hz, rfl, rfl⟩

theorem raw05_isWordOf (hM : fieldAt w 26 6 = 0x05) (h : raw05 w = some i) (hz : ZeroIn w i.zeroFields) : IsWordOf i w := by
  unfold raw05 at h
  split at h <;> cases h
  iterate 3 exact ⟨bare_word hM ‹(fld 20 6 w).toNat = _› hz rfl, rfl, rfl⟩
  · exact ⟨OpImm.pack_unpack hM ‹(fld 20 6 w).toNat = _› rfl hz, rfl, rfl⟩
  · exact ⟨bare_word hM ‹(fld 20 6 w).toNat = _› hz rfl, rfl, rfl⟩
  · exact ⟨OpDA.pack_unpack hM ‹(fld 20 6 w).toNat = _› rfl hz, rfl, rfl⟩
  · exact ⟨OpImm.pack_unpack hM ‹(fld 20 6 w).toNat = _› rfl hz, rfl, rfl⟩
  · exact ⟨OpA.pack_unpack hM ‹(fld 20 6 w).toNat = _› rfl hz, rfl, rfl⟩
  · exact ⟨bare_word hM ‹(fld 20 6 w).toNat = _› hz rfl, rfl, rfl⟩

theorem raw06_isWordOf (hM : fieldAt w 26 6 = 0x06) (h : raw06 w = some i) (hz : ZeroIn w i.zeroFields) : IsWordOf i w := by
  unfold raw06 at h
  split at h <;> cases h
  iterate 6 exact ⟨OpBr.pack_unpack hM ‹(fld 22 4 w).toNat = _› rfl, rfl, rfl⟩
  iterate 3 exact ⟨OpBrP.pack_unpack hM ‹(fld 22 4 w).toNat = _› rfl hz, rfl, rfl⟩
  · exact ⟨OpBrAlways.pack_unpack hM ‹(fld 22 4 w).toNat = _› rfl hz, rfl, rfl⟩

theorem raw09_isWordOf (hM : fieldAt w 26 6 = 0x09) (h : raw09 w = some i) (hz : ZeroIn w i.zeroFields) : IsWordOf i w := by
  unfold raw09 at h
  split at h <;> cases h
  all_goals exact ⟨OpJr.pack_unpack hM ‹(fld 22 4 w).toNat = _› rfl hz, rfl, rfl⟩

theorem raw0A_isWordOf (hM : fieldAt w 26 6 = 0x0A) (h : raw0A w = some i) (hz : ZeroIn w i.zeroFields) : IsWordOf i w := by
  unfold raw0A at h
  split at h <;> cases h
  · exact ⟨OpLoop.pack_unpack hM ‹(fld 20 6 w).toNat = _› rfl hz, rfl, rfl⟩

theorem raw0C_isWordOf (hM : fieldAt w 26 6 = 0x0C) (h : raw0C w = some i) (hz : ZeroIn w i.zeroFields) : IsWordOf i w := by
  unfold raw0C at h
  split at h <;> cases h
  all_goals exact ⟨OpSR.pack_unpack hM ‹(fld 22 4 w).toNat = _› rfl hz, rfl, rfl⟩

theorem raw0D_isWordOf (hM : fieldAt w 26 6 = 0x0D) (h : raw0D w = some i) (hz : ZeroIn w i.zeroFields) : IsWordOf i w := by
  unfold raw0D at h
  split at h <;> cases h
  iterate 7 exact ⟨OpSR.pack_unpack hM ‹(fld 22 4 w).toNat = _› rfl hz, rfl, rfl⟩
  all_goals exact ⟨OpSR1.pack_unpack hM ‹(fld 22 4 w).toNat = _› rfl hz, rfl, rfl⟩

theorem raw0E_isWordOf (hM : fieldAt w 26 6 = 0x0E) (h : raw0E w = some i) (hz : ZeroIn w i.zeroFields) : IsWordOf i w := by
  unfold raw0E at h
  split at h <;> cases h
  all_goals exact ⟨OpSI.pack_unpack hM ‹(fld 24 2 w).toNat = _› rfl, rfl, rfl⟩

theorem raw0F_isWordOf (hM : fieldAt w 26 6 = 0x0F) (h : raw0F w = some i) (hz : ZeroIn w i.zeroFields) : IsWordOf i w := by
  unfold raw0F at h
  split at h <;> cases h
  all_goals exact ⟨OpSI.pack_unpack hM ‹(fld 24 2 w).toNat = _› rfl, rfl, rfl⟩

theorem raw10_isWordOf (hM : fieldAt w 26 6 = 0x10) (h : raw10 w = some i) (hz : ZeroIn w i.zeroFields) : IsWordOf i w := by
  unfold raw10 at h
  split at h <;> cases h
  all_goals exact ⟨OpSh.pack_unpack hM ‹(fld 24 2 w).toNat = _› rfl hz, rfl, rfl⟩

theorem raw14_isWordOf (hM : fieldAt w 26 6 = 0x14) (h : raw14 w = some i) (hz : ZeroIn w i.zeroFields) : IsWordOf i w := by
  unfold raw14 at h
  split at h <;> cases h
  all_goals exact ⟨OpSM.pack_unpack hM ‹(fld 23 3 w).toNat = _› rfl, rfl, rfl⟩

theorem raw15_isWordOf (hM : fieldAt w 26 6 = 0x15) (h : raw15 w = some i) (hz : ZeroIn w i.zeroFields) : IsWordOf i w := by
  unfold raw15 at h
  split at h <;> cases h
  all_goals exact ⟨OpSM.pack_unpack hM ‹(fld 23 3 w).toNat = _› rfl, rfl, rfl⟩

theorem raw16_isWordOf (hM : fieldAt w 26 6 = 0x16) (h : raw16 w = some i) (hz : ZeroIn w i.zeroFields) : IsWordOf i w := by
  unfold raw16 at h
  split at h <;> cases h
  iterate 10 exact ⟨OpSA.pack_unpack hM ‹(fld 22 4 w).toNat = _› rfl, rfl, rfl⟩
  · exact ⟨OpSALd.pack_unpack hM ‹(fld 22 4 w).toNat = _› rfl hz, rfl, rfl⟩
  · exact ⟨OpSASt.pack_unpack hM ‹(fld 22 4 w).toNat = _› rfl hz, rfl, rfl⟩

theorem raw17_isWordOf (hM : fieldAt w 26 6 = 0x17) (h : raw17 w = some i) (hz : ZeroIn w i.zeroFields) : IsWordOf i w := by
  unfold raw17 at h
  split at h <;> cases h
  all_goals exact ⟨OpSO.pack_unpack hM ‹(fld 23 3 w).toNat = _› rfl, rfl, rfl⟩

theorem raw18_isWordOf (hM : fieldAt w 26 6 = 0x18) (h : raw18 w = some i) (hz : ZeroIn w i.zeroFields) : IsWordOf i w := by
  unfold raw18 at h
  split at h <;> cases h
  all_goals exact ⟨OpVR.pack_unpack hM ‹(fld 23 3 w).toNat = _› rfl, rfl, rfl⟩

theorem raw19_isWordOf (hM : fieldAt w 26 6 = 0x19) (h : raw19 w = some i) (hz : ZeroIn w i.zeroFields) : IsWordOf i w := by
  unfold raw19 at h
  split at h <;> cases h
  all_goals exact ⟨OpVR.pack_unpack hM ‹(fld 23 3 w).toNat = _› rfl, rfl, rfl⟩

theorem raw1A_isWordOf (hM : fieldAt w 26 6 = 0x1A) (h : raw1A w = some i) (hz : ZeroIn w i.zeroFields) : IsWordOf i w := by
  unfold raw1A at h
  split at h <;> cases h
  all_goals exact ⟨OpVI.pack_unpack hM ‹(fld 23 3 w).toNat = _› rfl, rfl, rfl⟩

theorem raw1B_isWordOf (hM : fieldAt w 26 6 = 0x1B) (h : raw1B w = some i) (hz : ZeroIn w i.zeroFields) : IsWordOf i w := by
  unfold raw1B at h
  split at h <;> cases h
  iterate 5 exact ⟨OpVR.pack_unpack hM ‹(fld 23 3 w).toNat = _› rfl, rfl, rfl⟩
  iterate 2 exact ⟨OpVR1.pack_unpack hM ‹(fld 23 3 w).toNat = _› rfl hz, rfl, rfl⟩
  · exact ⟨OpVR.pack_unpack hM ‹(fld 23 3 w).toNat = _› rfl, rfl, rfl⟩

theorem raw1C_isWordOf (hM : fieldAt w 26 6 = 0x1C) (h : raw1C w = some i) (hz : ZeroIn w i.zeroFields) : IsWordOf i w := by
  unfold raw1C at h
  split at h <;> cases h
  all_goals exact ⟨OpVR.pack_unpack hM ‹(fld 23 3 w).toNat = _› rfl, rfl, rfl⟩

theorem raw1D_isWordOf (hM : fieldAt w 26 6 = 0x1D) (h : raw1D w = some i) (hz : ZeroIn w i.zeroFields) : IsWordOf i w := by
  unfold raw1D at h
  split at h <;> cases h
  all_goals exact ⟨OpVR1.pack_unpack hM ‹(fld 23 3 w).toNat = _› rfl hz, rfl, rfl⟩

theorem raw1F_isWordOf (hM : fieldAt w 26 6 = 0x1F) (h : raw1F w = some i) (hz : ZeroIn w i.zeroFields) : IsWordOf i w := by
  unfold raw1F at h
  split at h
  · cases h
  split at h <;> cases h
  all_goals exact ⟨OpMX.pack_unpack hM ‹(fld 6 2 w).toNat = _› rfl hz, rfl, rfl⟩

theorem raw20_isWordOf (hM : fieldAt w 26 6 = 0x20) (h : raw20 w = some i) (hz : ZeroIn w i.zeroFields) : IsWordOf i w := by
  unfold raw20 at h
  split at h <;> cases h
  all_goals exact ⟨OpVCmp.pack_unpack hM ‹(fld 23 3 w).toNat = _› rfl hz, rfl, rfl⟩

theorem raw21_isWordOf (hM : fieldAt w 26 6 = 0x21) (h : raw21 w = some i) (hz : ZeroIn w i.zeroFields) : IsWordOf i w := by
  unfold raw21 at h
  split at h <;> cases h
  all_goals exact ⟨OpVR.pack_unpack hM ‹(fld 23 3 w).toNat = _› rfl, rfl, rfl⟩

theorem raw22_isWordOf (hM : fieldAt w 26 6 = 0x22) (h : raw22 w = some i) (hz : ZeroIn w i.zeroFields) : IsWordOf i w := by
  unfold raw22 at h
  split at h <;> cases h
  all_goals exact ⟨OpVI.pack_unpack hM ‹(fld 23 3 w).toNat = _› rfl, rfl, rfl⟩

theorem raw23_isWordOf (hM : fieldAt w 26 6 = 0x23) (h : raw23 w = some i) (hz : ZeroIn w i.zeroFields) : IsWordOf i w := by
  unfold raw23 at h
  split at h <;> cases h
  all_goals exact ⟨OpVR1.pack_unpack hM ‹(fld 23 3 w).toNat = _› rfl hz, rfl, rfl⟩

theorem raw24_isWordOf (hM : fieldAt w 26 6 = 0x24) (h : raw24 w = some i) (hz : ZeroIn w i.zeroFields) : IsWordOf i w := by
  unfold raw24 at h
  split at h <;> cases h
  all_goals exact ⟨OpVSRed.pack_unpack hM ‹(fld 23 3 w).toNat = _› rfl hz, rfl, rfl⟩

theorem raw25_isWordOf (hM : fieldAt w 26 6 = 0x25) (h : raw25 w = some i) (hz : ZeroIn w i.zeroFields) : IsWordOf i w := by
  unfold raw25 at h
  split at h <;> cases h
  iterate 4 exact ⟨OpPR2.pack_unpack hM ‹(fld 22 4 w).toNat = _› rfl hz, rfl, rfl⟩
  iterate 2 exact ⟨OpPR1.pack_unpack hM ‹(fld 22 4 w).toNat = _› rfl hz, rfl, rfl⟩
  · exact ⟨OpPSet.pack_unpack hM ‹(fld 22 4 w).toNat = _› rfl hz, rfl, rfl⟩
  iterate 3 exact ⟨OpPGet.pack_unpack hM ‹(fld 22 4 w).toNat = _› rfl hz, rfl, rfl⟩
  · exact ⟨OpPR1.pack_unpack hM ‹(fld 22 4 w).toNat = _› rfl hz, rfl, rfl⟩

theorem raw26_isWordOf (hM : fieldAt w 26 6 = 0x26) (h : raw26 w = some i) (hz : ZeroIn w i.zeroFields) : IsWordOf i w := by
  unfold raw26 at h
  split at h <;> cases h
  iterate 2 exact ⟨OpVS1.pack_unpack hM ‹(fld 23 3 w).toNat = _› rfl hz, rfl, rfl⟩
  · exact ⟨OpVBc.pack_unpack hM ‹(fld 23 3 w).toNat = _› rfl hz, rfl, rfl⟩
  · exact ⟨OpVIota.pack_unpack hM ‹(fld 23 3 w).toNat = _› rfl hz, rfl, rfl⟩
  · exact ⟨OpVSRed.pack_unpack hM ‹(fld 23 3 w).toNat = _› rfl hz, rfl, rfl⟩
  · exact ⟨OpVS1.pack_unpack hM ‹(fld 23 3 w).toNat = _› rfl hz, rfl, rfl⟩
  · exact ⟨OpVExt.pack_unpack hM ‹(fld 23 3 w).toNat = _› rfl hz, rfl, rfl⟩

theorem raw27_isWordOf (hM : fieldAt w 26 6 = 0x27) (h : raw27 w = some i) (hz : ZeroIn w i.zeroFields) : IsWordOf i w := by
  unfold raw27 at h
  split at h <;> cases h
  iterate 5 exact ⟨OpVM.pack_unpack hM ‹(fld 23 3 w).toNat = _› rfl, rfl, rfl⟩
  · exact ⟨OpVLdu.pack_unpack hM ‹(fld 23 3 w).toNat = _› rfl hz, rfl, rfl⟩
  · exact ⟨OpVM.pack_unpack hM ‹(fld 23 3 w).toNat = _› rfl, rfl, rfl⟩

theorem raw28_isWordOf (hM : fieldAt w 26 6 = 0x28) (h : raw28 w = some i) (hz : ZeroIn w i.zeroFields) : IsWordOf i w := by
  unfold raw28 at h
  split at h <;> cases h
  all_goals exact ⟨OpVM.pack_unpack hM ‹(fld 23 3 w).toNat = _› rfl, rfl, rfl⟩

theorem raw29_isWordOf (hM : fieldAt w 26 6 = 0x29) (h : raw29 w = some i) (hz : ZeroIn w i.zeroFields) : IsWordOf i w := by
  unfold raw29 at h
  split at h <;> cases h
  all_goals exact ⟨OpAT.pack_unpack hM ‹(fld 22 4 w).toNat = _› rfl, rfl, rfl⟩

theorem raw2A_isWordOf (hM : fieldAt w 26 6 = 0x2A) (h : raw2A w = some i) (hz : ZeroIn w i.zeroFields) : IsWordOf i w := by
  unfold raw2A at h
  split at h <;> cases h
  all_goals exact ⟨OpVO.pack_unpack hM ‹(fld 23 3 w).toNat = _› rfl, rfl, rfl⟩

theorem raw2B_isWordOf (hM : fieldAt w 26 6 = 0x2B) (h : raw2B w = some i) (hz : ZeroIn w i.zeroFields) : IsWordOf i w := by
  unfold raw2B at h
  split at h <;> cases h
  · exact ⟨OpFence.pack_unpack hM ‹(fld 20 6 w).toNat = _› rfl hz, rfl, rfl⟩
  iterate 3 exact ⟨OpBar.pack_unpack hM ‹(fld 20 6 w).toNat = _› rfl hz, rfl, rfl⟩
  · exact ⟨OpBarInit.pack_unpack hM ‹(fld 20 6 w).toNat = _› rfl hz, rfl, rfl⟩
  · exact ⟨OpCJoin.pack_unpack hM ‹(fld 20 6 w).toNat = _› rfl hz, rfl, rfl⟩
  · exact ⟨bare_word hM ‹(fld 20 6 w).toNat = _› hz rfl, rfl, rfl⟩

theorem raw2C_isWordOf (hM : fieldAt w 26 6 = 0x2C) (h : raw2C w = some i) (hz : ZeroIn w i.zeroFields) : IsWordOf i w := by
  unfold raw2C at h
  split at h <;> cases h
  · exact ⟨OpSOpen.pack_unpack hM ‹(fld 20 6 w).toNat = _› rfl hz, rfl, rfl⟩
  all_goals exact ⟨OpPort.pack_unpack hM ‹(fld 20 6 w).toNat = _› rfl hz, rfl, rfl⟩

theorem raw2D_isWordOf (hM : fieldAt w 26 6 = 0x2D) (h : raw2D w = some i) (hz : ZeroIn w i.zeroFields) : IsWordOf i w := by
  unfold raw2D at h
  split at h <;> cases h
  · exact ⟨OpBClose.pack_unpack hM ‹(fld 20 6 w).toNat = _› rfl hz, rfl, rfl⟩
  · exact ⟨OpDA.pack_unpack hM ‹(fld 20 6 w).toNat = _› rfl hz, rfl, rfl⟩
  · exact ⟨OpAB.pack_unpack hM ‹(fld 20 6 w).toNat = _› rfl hz, rfl, rfl⟩
  · exact ⟨OpTBArr.pack_unpack hM ‹(fld 20 6 w).toNat = _› rfl hz, rfl, rfl⟩
  · exact ⟨OpAB.pack_unpack hM ‹(fld 20 6 w).toNat = _› rfl hz, rfl, rfl⟩
  · exact ⟨OpTBWait.pack_unpack hM ‹(fld 20 6 w).toNat = _› rfl hz, rfl, rfl⟩

theorem raw2E_isWordOf (hM : fieldAt w 26 6 = 0x2E) (h : raw2E w = some i) (hz : ZeroIn w i.zeroFields) : IsWordOf i w := by
  unfold raw2E at h
  repeat' split at h
  all_goals cases h
  · exact ⟨OpDA.pack_unpack_form hM ‹(fld 20 6 w).toNat = _› rfl ‹_› hz, rfl, rfl⟩
  · exact ⟨OpDA.pack_unpack hM ‹(fld 20 6 w).toNat = _› rfl (ZeroIn.withBit hz ‹_› (by decide)), rfl, rfl⟩
  · exact ⟨OpRel.pack_unpack hM ‹(fld 20 6 w).toNat = _› rfl hz, rfl, rfl⟩
  · exact ⟨OpDA.pack_unpack_form hM ‹(fld 20 6 w).toNat = _› rfl ‹_› hz, rfl, rfl⟩
  · exact ⟨OpDA.pack_unpack hM ‹(fld 20 6 w).toNat = _› rfl (ZeroIn.withBit hz ‹_› (by decide)), rfl, rfl⟩
  · exact ⟨OpRel.pack_unpack hM ‹(fld 20 6 w).toNat = _› rfl hz, rfl, rfl⟩
  · exact ⟨OpDA.pack_unpack_form hM ‹(fld 20 6 w).toNat = _› rfl ‹_› hz, rfl, rfl⟩
  · exact ⟨OpDA.pack_unpack hM ‹(fld 20 6 w).toNat = _› rfl (ZeroIn.withBit hz ‹_› (by decide)), rfl, rfl⟩
  · exact ⟨OpRel.pack_unpack hM ‹(fld 20 6 w).toNat = _› rfl hz, rfl, rfl⟩
  · exact ⟨OpDA.pack_unpack_form hM ‹(fld 20 6 w).toNat = _› rfl ‹_› hz, rfl, rfl⟩
  · exact ⟨OpDA.pack_unpack hM ‹(fld 20 6 w).toNat = _› rfl (ZeroIn.withBit hz ‹_› (by decide)), rfl, rfl⟩
  · exact ⟨bare_word hM ‹(fld 20 6 w).toNat = _› hz rfl, rfl, rfl⟩

theorem raw2F_isWordOf (hM : fieldAt w 26 6 = 0x2F) (h : raw2F w = some i) (hz : ZeroIn w i.zeroFields) : IsWordOf i w := by
  unfold raw2F at h
  split at h <;> cases h
  · exact ⟨OpQSpawn.pack_unpack hM ‹(fld 23 3 w).toNat = _› rfl hz, rfl, rfl⟩
  iterate 4 exact ⟨OpQV.pack_unpack hM ‹(fld 23 3 w).toNat = _› rfl hz, rfl, rfl⟩
  · exact ⟨OpEqFire.pack_unpack hM ‹(fld 23 3 w).toNat = _› rfl hz, rfl, rfl⟩

theorem raw30_isWordOf (hM : fieldAt w 26 6 = 0x30) (h : raw30 w = some i) (hz : ZeroIn w i.zeroFields) : IsWordOf i w := by
  unfold raw30 at h
  repeat' split at h
  all_goals cases h
  · exact ⟨OpRaw.pack_unpack hM ‹(fld 23 3 w).toNat = _› (congrArg BitVec.toNat ‹fld 0 3 w = 6›) rfl hz, rfl, rfl⟩
  · exact ⟨OpDrain.pack_unpack hM ‹(fld 23 3 w).toNat = _› rfl, rfl, rfl⟩
  · exact ⟨OpRaw.pack_unpack hM ‹(fld 23 3 w).toNat = _› (congrArg BitVec.toNat ‹fld 0 3 w = 6›) rfl hz, rfl, rfl⟩
  · exact ⟨OpFillAcc.pack_unpack hM ‹(fld 23 3 w).toNat = _› rfl hz, rfl, rfl⟩

theorem raw31_isWordOf (hM : fieldAt w 26 6 = 0x31) (h : raw31 w = some i) (hz : ZeroIn w i.zeroFields) : IsWordOf i w := by
  unfold raw31 at h
  split at h <;> cases h
  · exact ⟨OpAB.pack_unpack hM ‹(fld 20 6 w).toNat = _› rfl hz, rfl, rfl⟩
  · exact ⟨OpDA.pack_unpack hM ‹(fld 20 6 w).toNat = _› rfl hz, rfl, rfl⟩

theorem raw32_isWordOf (hM : fieldAt w 26 6 = 0x32) (h : raw32 w = some i) (hz : ZeroIn w i.zeroFields) : IsWordOf i w := by
  unfold raw32 at h
  split at h <;> cases h
  iterate 2 exact ⟨OpDA.pack_unpack hM ‹(fld 20 6 w).toNat = _› rfl hz, rfl, rfl⟩
  · exact ⟨OpAB.pack_unpack hM ‹(fld 20 6 w).toNat = _› rfl hz, rfl, rfl⟩
  all_goals exact ⟨OpA.pack_unpack hM ‹(fld 20 6 w).toNat = _› rfl hz, rfl, rfl⟩

theorem raw33_isWordOf (hM : fieldAt w 26 6 = 0x33) (h : raw33 w = some i) (hz : ZeroIn w i.zeroFields) : IsWordOf i w := by
  unfold raw33 at h
  split at h <;> cases h
  · exact ⟨OpIdx.pack_unpack hM ‹(fld 20 6 w).toNat = _› rfl hz, rfl, rfl⟩
  iterate 4 exact ⟨OpDA.pack_unpack hM ‹(fld 20 6 w).toNat = _› rfl hz, rfl, rfl⟩
  · exact ⟨OpIdx.pack_unpack hM ‹(fld 20 6 w).toNat = _› rfl hz, rfl, rfl⟩
  · exact ⟨OpA.pack_unpack hM ‹(fld 20 6 w).toNat = _› rfl hz, rfl, rfl⟩

theorem raw39_isWordOf (hM : fieldAt w 26 6 = 0x39) (h : raw39 w = some i) (hz : ZeroIn w i.zeroFields) : IsWordOf i w := by
  unfold raw39 at h
  split at h <;> cases h
  · exact ⟨OpMLdfb.pack_unpack hM ‹(fld 20 6 w).toNat = _› rfl hz, rfl, rfl⟩
  · exact ⟨OpMRing.pack_unpack hM ‹(fld 20 6 w).toNat = _› rfl hz, rfl, rfl⟩
  · exact ⟨OpMZero.pack_unpack hM ‹(fld 20 6 w).toNat = _› rfl hz, rfl, rfl⟩
  · exact ⟨OpMWait.pack_unpack hM ‹(fld 20 6 w).toNat = _› rfl hz, rfl, rfl⟩
  · exact ⟨OpMSig.pack_unpack hM ‹(fld 20 6 w).toNat = _› rfl hz, rfl, rfl⟩
  · exact ⟨OpMA.pack_unpack hM ‹(fld 20 6 w).toNat = _› rfl hz, rfl, rfl⟩
  · exact ⟨bare_word hM ‹(fld 20 6 w).toNat = _› hz rfl, rfl, rfl⟩
  · exact ⟨OpMA.pack_unpack hM ‹(fld 20 6 w).toNat = _› rfl hz, rfl, rfl⟩
  · exact ⟨OpMPop.pack_unpack hM ‹(fld 20 6 w).toNat = _› rfl hz, rfl, rfl⟩

theorem raw3A_isWordOf (hM : fieldAt w 26 6 = 0x3A) (h : raw3A w = some i) (hz : ZeroIn w i.zeroFields) : IsWordOf i w := by
  unfold raw3A at h
  split at h <;> cases h
  · exact ⟨OpMAdd.pack_unpack hM ‹(fld 23 3 w).toNat = _› rfl hz, rfl, rfl⟩
  · exact ⟨OpMAddi.pack_unpack hM ‹(fld 23 3 w).toNat = _› rfl, rfl, rfl⟩
  · exact ⟨OpMLi.pack_unpack hM ‹(fld 23 3 w).toNat = _› rfl, rfl, rfl⟩
  · exact ⟨OpMBnz.pack_unpack hM ‹(fld 23 3 w).toNat = _› rfl hz, rfl, rfl⟩
  · exact ⟨OpMJ.pack_unpack hM ‹(fld 23 3 w).toNat = _› rfl hz, rfl, rfl⟩

end

/-- What the major and the selector of a word name, with its operands, encodes to the word where its zero fields are zero
(04 R106). -/
theorem rawDecode_isWordOf {w : W32} {i : Instr} (h : rawDecode w = some i) (hz : ZeroIn w i.zeroFields) : IsWordOf i w := by
  unfold rawDecode at h
  split at h
  · cases h; exact ⟨OpHint.pack_unpack ‹(fld 26 6 w).toNat = _› rfl hz, rfl, rfl⟩
  · cases h; exact ⟨OpRep.pack_unpack ‹(fld 26 6 w).toNat = _› rfl hz, rfl, rfl⟩
  · exact raw03_isWordOf ‹_› h hz
  · exact raw04_isWordOf ‹_› h hz
  · exact raw05_isWordOf ‹_› h hz
  · exact raw06_isWordOf ‹_› h hz
  · cases h; exact ⟨OpJ.pack_unpack ‹(fld 26 6 w).toNat = _› rfl, rfl, rfl⟩
  · cases h; exact ⟨OpJ.pack_unpack ‹(fld 26 6 w).toNat = _› rfl, rfl, rfl⟩
  · exact raw09_isWordOf ‹_› h hz
  · exact raw0A_isWordOf ‹_› h hz
  · exact raw0C_isWordOf ‹_› h hz
  · exact raw0D_isWordOf ‹_› h hz
  · exact raw0E_isWordOf ‹_› h hz
  · exact raw0F_isWordOf ‹_› h hz
  · exact raw10_isWordOf ‹_› h hz
  · cases h; exact ⟨OpSL.pack_unpack ‹(fld 26 6 w).toNat = _› rfl, rfl, rfl⟩
  · cases h; exact ⟨OpSL.pack_unpack ‹(fld 26 6 w).toNat = _› rfl, rfl, rfl⟩
  · cases h; exact ⟨OpSL.pack_unpack ‹(fld 26 6 w).toNat = _› rfl, rfl, rfl⟩
  · exact raw14_isWordOf ‹_› h hz
  · exact raw15_isWordOf ‹_› h hz
  · exact raw16_isWordOf ‹_› h hz
  · exact raw17_isWordOf ‹_› h hz
  · exact raw18_isWordOf ‹_› h hz
  · exact raw19_isWordOf ‹_› h hz
  · exact raw1A_isWordOf ‹_› h hz
  · exact raw1B_isWordOf ‹_› h hz
  · exact raw1C_isWordOf ‹_› h hz
  · exact raw1D_isWordOf ‹_› h hz
  · cases h; exact ⟨OpCV.pack_unpack ‹(fld 26 6 w).toNat = _› rfl, rfl, rfl⟩
  · exact raw1F_isWordOf ‹_› h hz
  · exact raw20_isWordOf ‹_› h hz
  · exact raw21_isWordOf ‹_› h hz
  · exact raw22_isWordOf ‹_› h hz
  · exact raw23_isWordOf ‹_› h hz
  · exact raw24_isWordOf ‹_› h hz
  · exact raw25_isWordOf ‹_› h hz
  · exact raw26_isWordOf ‹_› h hz
  · exact raw27_isWordOf ‹_› h hz
  · exact raw28_isWordOf ‹_› h hz
  · exact raw29_isWordOf ‹_› h hz
  · exact raw2A_isWordOf ‹_› h hz
  · exact raw2B_isWordOf ‹_› h hz
  · exact raw2C_isWordOf ‹_› h hz
  · exact raw2D_isWordOf ‹_› h hz
  · exact raw2E_isWordOf ‹_› h hz
  · exact raw2F_isWordOf ‹_› h hz
  · exact raw30_isWordOf ‹_› h hz
  · exact raw31_isWordOf ‹_› h hz
  · exact raw32_isWordOf ‹_› h hz
  · exact raw33_isWordOf ‹_› h hz
  · cases h; exact ⟨OpMma.pack_unpack ‹(fld 26 6 w).toNat = _› rfl, rfl, rfl⟩
  · exact raw39_isWordOf ‹_› h hz
  · exact raw3A_isWordOf ‹_› h hz
  · cases h

/-- What a word that decodes has: a name, zero fields that are zero, and no reserved code (04 R100, R107 check 6). -/
theorem decode_ok {w : W32} {i : Instr} (h : decode w = .ok i) :
    rawDecode w = some i ∧ ZeroIn w i.zeroFields ∧ i.codeRules.all (fun r => !r.2) = true := by
  unfold decode at h
  split at h
  · cases h
  next j hj =>
    split at h
    next hb =>
      cases h
      simp only [badField, List.max?_eq_none_iff, List.append_eq_nil_iff, List.map_eq_nil_iff, List.filter_eq_nil_iff,
        bne_iff_ne, ne_eq, Decidable.not_not, Bool.not_eq_true] at hb
      exact ⟨hj, hb.1, by simpa using hb.2⟩
    · cases h

end Sys2Proof

namespace Sys2Proof.Machine

/-- Settles O2: a word that decodes is what its major and selector name, with its zero fields zero (`decode_ok`), and the operands
that it holds make it up again (`rawDecode_isWordOf`). -/
theorem decodingIsExact : Obligations.DecodingIsExact := by
  intro w i h
  obtain ⟨hr, hz, hc⟩ := decode_ok h
  obtain ⟨he, hw, ho⟩ := rawDecode_isWordOf hr hz
  exact ⟨he, hw, by rw [Instr.wellFormed, hc, ho]; rfl⟩

end Sys2Proof.Machine
end

section
/-!
THE CHECKS AT ISSUE AND THE PRIVILEGED WORDS (O7, O8). Each check of 04 R107 passes exactly where it does for every use; a word
of majors 0x32 and 0x33 names its right as its first use.
-/

namespace Sys2Proof.Machine

/-! ## The checks at issue (04 R107) -/

/-- Where no privileged major is denied (04 R109). -/
theorem denied_none_iff (s : State) (uses : List Use) :
    uses.any (Use.denied s s.me) = false ↔ ∀ m, Use.priv m ∈ uses → mayRun s s.me m = true := by
  rw [List.any_eq_false]
  constructor
  · intro h m hm
    simpa [Use.denied] using h _ hm
  · intro h u hu
    cases u with
    | priv m => simpa [Use.denied] using h m hu
    | _ => exact Bool.false_ne_true

/-- A scalar source without a value: EMPTY under T = 1, else the word waits for it and for an empty destination (02 R55,
R56). -/
theorem issueCheck_emptyScalar (w : W32) (n d : Nat) (t : Bool) (s : State) (h : s.me.sFull n = false) :
    issueCheck w [.ss n t 1, .sd d] s =
      some (if t then .trap s 0x04 (n + 1 * 2 ^ 8 + 2 ^ 12)
        else .wait s (.register [] (if s.me.sFull d then [n] else [n, d]))) := by
  cases t with
  | true =>
    simp [issueCheck, Use.denied, Use.illegal, Use.closed, Use.emptyTrap, Use.isEmpty, h, tEmpty, List.findSome?_cons]
  | false =>
    cases hd : s.me.sFull d <;>
      simp [issueCheck, Use.denied, Use.illegal, Use.closed, Use.emptyTrap, Use.isEmpty, Use.waits, h, hd, markDest,
        Use.vecOf, Use.scalarOf, List.findSome?_cons]

/-- An empty scalar destination makes the word wait (02 R56). -/
theorem issueCheck_emptyDest (w : W32) (d : Nat) (s : State) (h : s.me.sFull d = false) :
    issueCheck w [.sd d] s = some (.wait s (.register [] [d])) := by
  simp [issueCheck, Use.denied, Use.illegal, Use.closed, Use.emptyTrap, Use.waits, h, markDest, Use.vecOf,
    Use.scalarOf]

/-- A vector destination outside the allotment (02 R39). -/
theorem issueCheck_illegalDest (w : W32) (n : Nat) (s : State) (hn : n < 112) (h : s.vtop s.me ≤ n) :
    issueCheck w [.vd n] s = some (.trap s 0x03 n) := by
  simp [issueCheck, Use.denied, Use.illegal, hn, h, tIllegalReg]

/-- A vector source outside the allotment, with its position (02 R39). -/
theorem issueCheck_illegalSource (w : W32) (n : Nat) (t : Bool) (s : State) (hn : n < 112) (h : s.vtop s.me ≤ n) :
    issueCheck w [.vs n t 1] s = some (.trap s 0x03 (n + 2 ^ 8)) := by
  simp [issueCheck, Use.denied, Use.illegal, hn, h, tIllegalReg]

/-- A read port that is not open (02 R40). -/
theorem issueCheck_closedPort (w : W32) (n : Nat) (t : Bool) (s : State) (hn : 112 ≤ n) (hn' : n < 120)
    (h : Tab.find s.me.ports n = none) : issueCheck w [.vs n t 1] s = some (.trap s 0x12 n) := by
  have hi : Use.illegal (s.vtop s.me) (.vs n t 1) = none := by
    rw [Use.illegal, if_neg (by omega), if_neg (by omega)]
  simp [issueCheck, Use.denied, hi, Use.closed, hn, h, tStream]

/-- Settles O7: the checks pass where each passes for every use, and the listed cases are computed check by check. -/
theorem issueChecks : Obligations.IssueChecks := by
  refine ⟨fun w uses s => ?_, issueCheck_emptyScalar, issueCheck_emptyDest, fun w n s hn h => ?_, issueCheck_closedPort⟩
  · rw [issueCheck_none, denied_none_iff]
    simp only [List.findSome?_eq_none_iff, List.any_eq_false, Bool.not_eq_true]
  · exact ⟨issueCheck_illegalDest w n s hn h, fun t => issueCheck_illegalSource w n t s hn h⟩

/-! ## Majors 0x32 and 0x33 (04 R109) -/

/-- The instruction is a word of this major, and its frame asks for the right to the major first. -/
structure AsksRight (m : Nat) (i : Instr) : Prop where
  major : (encode i).toNat / 2 ^ 26 = m
  frame : ∀ s, ∃ uses body, exec i s = wordW (encode i) (.priv m :: uses) s body

/-- A word whose low operand bits alone differ from a base word has the base word's major. -/
theorem major_of_high {w n k M : Nat} (h : w / 2 ^ k = n / 2 ^ k) (hk : k + (26 - k) = 26) (hM : n / 2 ^ 26 = M) :
    w / 2 ^ 26 = M := by
  rw [← hM, ← hk, Nat.pow_add, ← Nat.div_div_eq_div_mul, ← Nat.div_div_eq_div_mul, h]

open Laws.RoundTrip in
/-- The words of major 0x32. -/
theorem asksRight_ctx {i : Instr} (h : (∃ o : OpDA, i = .cdrain o ∨ i = .cstate o) ∨ (∃ o, i = .cload o)
      ∨ (∃ o : OpA, i = .csaved o ∨ i = .crestart o ∨ i = .msave o ∨ i = .mload o)) : AsksRight 0x32 i := by
  constructor
  · rcases h with ⟨o, rfl | rfl⟩ | ⟨o, rfl⟩ | ⟨o, rfl | rfl | rfl | rfl⟩
    iterate 2 exact major_of_high (OpDA_rt _ o (by decide) (by decide)).1 rfl rfl
    · exact major_of_high (OpAB_rt _ o (by decide) (by decide)).1 rfl rfl
    iterate 4 exact major_of_high (OpA_rt _ o (by decide) (by decide)).1 rfl rfl
  · intro s
    rcases h with ⟨o, rfl | rfl⟩ | ⟨o, rfl⟩ | ⟨o, rfl | rfl | rfl | rfl⟩ <;>
      dsimp only [exec, encode, execCdrain, execCstate, execCload, execCsaved, execCrestart, execMsave, execMload, ctxWord] <;>
      exact ⟨_, _, rfl⟩

open Laws.RoundTrip in
/-- The words of major 0x33. -/
theorem asksRight_debug {i : Instr} (h : (∃ o : OpIdx, i = .mbox o ∨ i = .bpset o) ∨ (∃ o, i = .warm o)
      ∨ (∃ o : OpDA, i = .dhalt o ∨ i = .dresume o ∨ i = .dstep o ∨ i = .dunpin o)) : AsksRight 0x33 i := by
  constructor
  · rcases h with ⟨o, rfl | rfl⟩ | ⟨o, rfl⟩ | ⟨o, rfl | rfl | rfl | rfl⟩
    iterate 2 exact major_of_high (OpIdx_rt _ o (by decide) (by decide)).1 rfl rfl
    · exact major_of_high (OpA_rt _ o (by decide) (by decide)).1 rfl rfl
    iterate 4 exact major_of_high (OpDA_rt _ o (by decide) (by decide)).1 rfl rfl
  · intro s
    rcases h with ⟨o, rfl | rfl⟩ | ⟨o, rfl⟩ | ⟨o, rfl | rfl | rfl | rfl⟩ <;>
      dsimp only [exec, encode, execMbox, execBpset, execWarm, execDhalt, execDresume, execDstep, execDunpin, debugWord] <;>
      exact ⟨_, _, rfl⟩

/-- A group without the right takes PRIV, whatever else the word uses (04 R107 check 7). -/
theorem issueCheck_denied (w : W32) (uses : List Use) {m : Nat} {s : State} (h : mayRun s s.me m = false) :
    issueCheck w (.priv m :: uses) s = some (.trap s tPriv w.toNat) := by
  simp [issueCheck, Use.denied, h]

/-- A word that asks for a right, of a group that lacks it. -/
theorem AsksRight.exec_denied {m : Nat} {i : Instr} (h : AsksRight m i) {s : State} (hg : ∃ q, s.cur = .group q)
    (hr : mayRun s s.me m = false) :
    exec i s = .next (takeTrap s.qid 0x05 (BitVec.ofNat 64 (encode i).toNat) s.me.pc s) := by
  obtain ⟨uses, body, he⟩ := h.frame s
  obtain ⟨q, hq⟩ := hg
  rw [he, wordW, hq]
  dsimp only
  rw [issueCheck_denied _ _ hr]
  rfl

/-- A word that checks nothing but its right goes on exactly where the group has it. -/
theorem issueCheck_priv (w : W32) (m : Nat) (s : State) : issueCheck w [.priv m] s = none ↔ mayRun s s.me m = true := by
  cases h : mayRun s s.me m with
  | false => simp [issueCheck_denied w [] h]
  | true =>
    simp [issueCheck, Use.denied, Use.illegal, Use.closed, Use.emptyTrap, Use.waits, Use.badRead, h]

/-- Settles O8: every word of the two majors asks for its right first. -/
theorem privilegedWordsTrap : Obligations.PrivilegedWordsTrap := by
  refine ⟨fun s i m h hg => ?_, fun w s => ⟨?_, ?_⟩⟩
  · rcases h with ⟨rfl, hl, hp, hi⟩ | ⟨rfl, hd, hi⟩
    · have hr : mayRun s s.me 0x32 = false := by
        rcases hp with hp | hp <;> simp [mayRun, hl, hp]
      exact ⟨(asksRight_ctx hi).major, (asksRight_ctx hi).exec_denied hg hr⟩
    · have hr : mayRun s s.me 0x33 = false := by simp [mayRun, hd]
      exact ⟨(asksRight_debug hi).major, (asksRight_debug hi).exec_denied hg hr⟩
  · simp [issueCheck_priv, mayRun]
  · simp [issueCheck_priv, mayRun]

end Sys2Proof.Machine
end

section
/-!
RETIREMENT (O11). Where a group goes on after a word retires: `Group.retire` case by case, and the armed single step behind it.
-/

namespace Sys2Proof.Machine

/-! ## The next word of a group (04 R111 to R121) -/

@[simp] theorem Group.advance_hint (g : Group) (pc : W64) : (g.advance pc).hint = g.hint := by
  unfold Group.advance; (repeat' split) <;> rfl

@[simp] theorem Group.advance_rep (g : Group) (pc : W64) : (g.advance pc).rep = g.rep := by
  unfold Group.advance; (repeat' split) <;> rfl

/-- Whatever retires, the group has issued now and waits for nothing; it is aged no more (07 R205). -/
theorem Group.retire_issued (g : Group) (n : Next) (c : Nat) :
    (g.retire n c).lastIssue = c ∧ (g.retire n c).aged = false ∧ (g.retire n c).blocked = none := by
  unfold Group.retire; exact ⟨rfl, rfl, rfl⟩

theorem Group.retire_unpinned (g : Group) (c : Nat) (hr : g.rep = none) (hl : g.loop = none) :
    (g.retire .seq c).pc = g.pc + 4 ∧ (g.retire .seq c).loop = none := by
  simp [Group.retire, hr, Group.advance, hl]

theorem Group.retire_repeats (g : Group) (c : Nat) (r : RepRun) (hr : g.rep = some r) (hk : r.k < r.op.cnt.toNat) :
    (g.retire .seq c).pc = g.pc ∧ (g.retire .seq c).rep = some { r with k := r.k + 1 }
      ∧ (g.retire .seq c).notBefore = c + 1 := by
  simp [Group.retire, hr, hk]

theorem Group.retire_lastRepetition (g : Group) (c : Nat) (r : RepRun) (hr : g.rep = some r) (hk : r.k = r.op.cnt.toNat)
    (hl : g.loop = none) : (g.retire .seq c).pc = g.pc + 8 ∧ (g.retire .seq c).rep = none := by
  simp [Group.retire, hr, hk, Group.advance, hl]

/-- At the last word of a pinned body: back to its first word, or past it (04 R121). -/
theorem Group.retire_bodyEnd (g : Group) (c : Nat) (l : PinnedLoop) (hr : g.rep = none) (hl : g.loop = some l)
    (hs : l.suspended = false) (hp : g.pc + 4 = l.after) :
    (1 < l.remaining.toNat → (g.retire .seq c).pc = l.addr + 4
      ∧ (g.retire .seq c).loop = some { l with remaining := l.remaining - 1 })
    ∧ (l.remaining.toNat ≤ 1 → (g.retire .seq c).pc = g.pc + 4 ∧ (g.retire .seq c).loop = none) := by
  have hp' : g.pc + 4#64 = l.after := hp
  constructor
  · intro h
    simp [Group.retire, hr, Group.advance, hl, hs, hp', Nat.not_le.mpr h]
  · intro h
    simp [Group.retire, hr, Group.advance, hl, hs, hp', h]

/-- Inside a run of hints (04 R116). -/
theorem Group.retire_hinted (g : Group) (c : Nat) (h : HintRun) (hr : g.rep = none) (hh : g.hint = some h) :
    (g.retire .seq c).notBefore = c + 1 + h.gaps.toNat / 4 ^ h.index % 4
      ∧ (g.retire .seq c).giveWay = h.yields.getLsbD h.index
      ∧ (g.retire .seq c).hint = (if h.index < 7 then some { h with index := h.index + 1 } else none) := by
  simp [Group.retire, hr, Group.hintGap, Group.hintYield, Group.hintNext, hh]

theorem Group.retire_goto (g : Group) (c : Nat) (p : W64) (l : Option PinnedLoop) :
    (g.retire (.goto p l) c).pc = p ∧ (g.retire (.goto p l) c).loop = l ∧ (g.retire (.goto p l) c).hint = none
      ∧ (g.retire (.goto p l) c).rep = none := by
  unfold Group.retire; exact ⟨rfl, rfl, rfl, rfl⟩

/-! ## The single step (05 R125, 19 R428) -/

/-- A retired word that the trace does not keep: what is counted beside the group's own change. -/
theorem retireWord_untraced (n : Next) (s : State)
    (h : (dieAt s (dieOf s.qid)).trace.keeps 0 s.me.vf (cgidOf s.qid s.me) = false) :
    retireWord n s = owe s.qid s.me (tally 0 s.me.vf 1 (count (coreOf s.qid) evAged s.me.vf (if s.me.aged then 1 else 0)
      (count (coreOf s.qid) evIssue s.me.vf 1 (modMe (fun g => g.retire n s.cclk) s)))) := by
  unfold retireWord countIssue
  exact capture_off (by simpa [owe, dieAt, modMe] using h)

theorem retireWord_qid (n : Next) (s : State)
    (h : (dieAt s (dieOf s.qid)).trace.keeps 0 s.me.vf (cgidOf s.qid s.me) = false) : (retireWord n s).qid = s.qid := by
  simp [retireWord_untraced n s h, State.qid, owe]

theorem retireWord_me (n : Next) (s : State)
    (h : (dieAt s (dieOf s.qid)).trace.keeps 0 s.me.vf (cgidOf s.qid s.me) = false) :
    (retireWord n s).me = s.me.retire n s.cclk := by
  simp [retireWord_untraced n s h, State.me, modMe, owe]

theorem retireWord_sameMemory (n : Next) (s : State)
    (h : (dieAt s (dieOf s.qid)).trace.keeps 0 s.me.vf (cgidOf s.qid s.me) = false) : SameMemory s (retireWord n s) := by
  intro key pa
  simp [retireWord_untraced n s h, readPa, owe]

/-- An armed step is taken once the word has retired, with the next word as its return address. -/
theorem retire_armed (n : Next) (s : State) (hs : s.me.step = .armed)
    (h : (dieAt s (dieOf s.qid)).trace.keeps 0 s.me.vf (cgidOf s.qid s.me) = false) :
    ∃ t, retire n s = takeTrap s.qid 0x10 0 (s.me.retire n s.cclk).pc t ∧ t.qid = s.qid
      ∧ t.me = { s.me.retire n s.cclk with step := .off } ∧ SameMemory s t := by
  have me : (modMe (fun g => { g with step := .off }) (retireWord n s)).me = { s.me.retire n s.cclk with step := .off } := by
    rw [me_modMe, retireWord_me n s h]
  refine ⟨modMe (fun g => { g with step := .off }) (retireWord n s), ?_, ?_, me, ?_⟩
  · simp only [retire, hs, me]
    rfl
  · simpa [modMe, State.qid] using retireWord_qid n s h
  · simpa [SameMemory, readPa, modMe] using retireWord_sameMemory n s h

/-- Settles O11: `Group.retire` case by case, then the step that follows a retired word. -/
theorem retirement : Obligations.Retirement :=
  ⟨fun g c => ⟨fun n => g.retire_issued n c, g.retire_unpinned c, g.retire_repeats c, g.retire_lastRepetition c,
    g.retire_bodyEnd c, g.retire_hinted c, g.retire_goto c⟩, fun s n => retire_armed n s⟩

end Sys2Proof.Machine
end

section
/-!
PREFIXES AND HINTS (O17). The digits of a run of hints, what STAGE keeps in the operand cache, and the words that complete
without a result.
-/

namespace Sys2Proof.Machine

/-! ## Words that go on without retiring -/

section
variable {i : Instr} {uses : List Use} {s t : State} {body : State → List VReg → Res} (h : MayGo i uses s)
include h

/-- A word that may go and whose body ends its turn. -/
theorem wordG_ended (hb : body s (sourceRegs s.me uses []) = .ended t) : wordG i uses s body = .next t := by
  rw [wordG_go h, hb]
  rfl

/-- A word that may go and whose body traps. -/
theorem wordG_trap {code info : Nat} (hb : body s (sourceRegs s.me uses []) = .trap t code info) :
    wordG i uses s body = .next (trapHere code info t) := by
  rw [wordG_go h, hb]
  rfl

/-- A word that may go and whose body waits. -/
theorem wordG_wait {b : Blocked} (hb : body s (sourceRegs s.me uses []) = .wait t b) :
    wordG i uses s body = .next (block b t) := by
  rw [wordG_go h, hb]
  rfl

end

/-! ## The run that a HINT opens (04 R98, R116) -/

/-- The gaps of a run by index, as its HINT lists them. -/
def hintGaps (o : OpHint) : List Nat := (List.range 8).map (fun i => o.gaps.toNat / 4 ^ (7 - i))

/-- The give-way bits of a run by index, as its HINT lists them. -/
def hintGives (o : OpHint) : List Nat := (List.range 8).map (fun i => o.yields.toNat / 2 ^ (7 - i))

theorem hintRun_gaps (o : OpHint) : (hintRun o).gaps.toNat = packedSum 2 (hintGaps o) := by
  have h : (hintRun o).gaps = BitVec.ofNat 16 (packedSum 2 (hintGaps o)) := rfl
  rw [h, BitVec.toNat_ofNat]
  exact Nat.mod_eq_of_lt (packedSum_lt 2 (hintGaps o))

theorem hintRun_yields (o : OpHint) : (hintRun o).yields.toNat = packedSum 1 (hintGives o) := by
  have h : (hintRun o).yields = BitVec.ofNat 8 (packedSum 1 (hintGives o)) := rfl
  rw [h, BitVec.toNat_ofNat]
  exact Nat.mod_eq_of_lt (packedSum_lt 1 (hintGives o))

/-- The gap at an index is the HINT's field at that place from the top. -/
theorem hintRun_gap (o : OpHint) {k : Nat} (hk : k < 8) :
    (hintRun o).gaps.toNat / 4 ^ k % 4 = o.gaps.toNat / 4 ^ (7 - k) % 4 := by
  have h := packedSum_elem 2 (hintGaps o) k hk
  rw [hintRun_gaps, show 4 = 2 ^ 2 from rfl, ← Nat.pow_mul, h]
  simp [hintGaps, hk]

/-- The give-way bit at an index is the HINT's bit at that place from the top. -/
theorem hintRun_yield (o : OpHint) {k : Nat} (hk : k < 8) : (hintRun o).yields.getLsbD k = o.yields.getLsbD (7 - k) := by
  have h := packedSum_elem 1 (hintGives o) k hk
  rw [Nat.one_mul, ← hintRun_yields] at h
  have hg : (hintGives o).getD k 0 = o.yields.toNat / 2 ^ (7 - k) := by simp [hintGives, hk]
  rw [hg] at h
  simp only [BitVec.getLsbD, Nat.testBit_eq_decide_div_mod_eq, Nat.pow_one] at h ⊢
  rw [h]

theorem execHint_opens (o : OpHint) (s : State) (h : MayGo (.hint o) [] s) :
    exec (.hint o) s
      = .next (modMe (fun g => { g.advance (g.pc + 4) with hint := some (hintRun o), blocked := none }) s) := by
  dsimp only [exec, execHint]
  exact wordG_ended h rfl

/-! ## REP at issue (04 R111, R114) -/

/-- A target of the majors 0x18 to 0x28 may be repeated (04 R117). -/
theorem repTargetOk_of_major {w : W32} (hl : 0x18 ≤ w.toNat / 2 ^ 26) (hu : w.toNat / 2 ^ 26 ≤ 0x28) :
    repTargetOk w = true := by
  rw [repTargetOk, decide_eq_true hl, decide_eq_true hu, Bool.and_self]

theorem execRep_begins (o : OpRep) (s : State) (w : W32) (e : Option TlbEntry) (h : MayGo (.rep o) [] s)
    (hf : groupFetch s (s.me.pc + 4) = .word w e) (hl : 0x18 ≤ w.toNat / 2 ^ 26) (hu : w.toNat / 2 ^ 26 ≤ 0x28)
    (hb : repBadField o w = none) :
    exec (.rep o) s = .next (modMe (fun g =>
      if o.cnt.toNat < s.me.repResume.getD 0 then
        { g with hint := g.hintNext, repResume := none, blocked := none }.advance (g.pc + 8)
      else { g with rep := some { k := s.me.repResume.getD 0, op := o, target := w }, hint := g.hintNext, repResume := none
                    blocked := none }) s) := by
  dsimp only [exec, execRep]
  refine wordG_ended h ?_
  simp only [hf, repTargetOk_of_major hl hu, hb, Bool.not_true, Bool.false_eq_true, if_false]

/-! ## STAGE (02 R67) -/

/-- Naming a register moves it to the end of the operand cache. -/
def stageName (c : List Nat) (n : Nat) : List Nat := c.filter (· != n) ++ [n]

/-- Once registers are named in order, they alone stand behind what is left of the cache. -/
theorem foldl_stageName (named cache : List Nat) : ∃ rest last, named.foldl stageName cache = rest ++ last
    ∧ last.length ≤ named.length ∧ (∀ n, n ∈ last ↔ n ∈ named) ∧ ∀ n ∈ rest, n ∈ cache := by
  induction named using List.reverseRecOn with
  | nil => exact ⟨cache, [], by simp⟩
  | append_singleton named x ih =>
    obtain ⟨rest, last, eq, short, names, old⟩ := ih
    refine ⟨rest.filter (· != x), last.filter (· != x) ++ [x], ?_, ?_, fun n => ?_, fun n hn => ?_⟩
    · simp [eq, stageName]
    · simpa using (List.length_filter_le _ last).trans short
    · by_cases hx : n = x <;> simp [hx, names]
    · exact old n (List.mem_of_mem_filter hn)

/-- At most six registers are resident: those that a STAGE names, and some that were. -/
theorem stageCache_resident (named cache : List Nat) (h : named.length ≤ 6) :
    (stageCache named cache).length ≤ 6 ∧ (∀ n ∈ named, n ∈ stageCache named cache)
      ∧ ∀ n ∈ stageCache named cache, n ∈ named ∨ n ∈ cache := by
  obtain ⟨rest, last, eq, short, names, old⟩ := foldl_stageName named cache
  have whole : stageCache named cache = (rest ++ last).drop ((rest ++ last).length - 6) := by rw [← eq]; rfl
  have kept : (rest ++ last).drop ((rest ++ last).length - 6) = rest.drop ((rest ++ last).length - 6) ++ last := by
    rw [List.drop_append, List.length_append, show rest.length + last.length - 6 - rest.length = 0 by omega, List.drop_zero]
  refine ⟨?_, fun n hn => ?_, fun n hn => ?_⟩
  · rw [whole, List.length_drop]; omega
  · rw [whole, kept]
    exact List.mem_append_right _ ((names n).mpr hn)
  · rw [whole] at hn
    rcases List.mem_append.mp (List.mem_of_mem_drop hn) with hr | hl
    · exact .inr (old n hr)
    · exact .inl ((names n).mp hl)

theorem execStage_done (o : OpStage) (s : State)
    (h : MayGo (.stage o) [.vname o.vd.toNat 0, .vname o.va.toNat 1, .vname o.vb.toNat 2] s) :
    exec (.stage o) s = .next (retire .seq
      (modMe (fun g => { g with cache := stageCache [o.vd.toNat, o.va.toNat, o.vb.toNat] s.me.cache }) s)) := by
  dsimp only [exec, execStage]
  rw [wordG_done h rfl, leaveWord_same _ _ _ rfl]
  rfl

/-! ## NOP, YIELD and TWAIT (05 R144, R145, R150) -/

theorem execNop_done (s : State) (h : MayGo .nop [] s) : exec .nop s = .next (retire .seq s) := by
  dsimp only [exec, execNop]
  rw [wordG_done h rfl, leaveWord_same _ _ _ rfl]

theorem execYield_done (s : State) (h : MayGo .yield [] s) : exec .yield s
    = .next (retire .seq (modMe (fun g => { g with active := false, cache := [], yieldedAt := some s.cclk }) s)) := by
  dsimp only [exec, execYield]
  rw [wordG_done h rfl, leaveWord_same _ _ _ rfl]

/-- TIME has come. -/
theorem execTwait_done (o : OpA) (s : State) (h : MayGo (.twait o) [.ss o.sa.toNat false 1] s)
    (ht : s.me.readS o.sa.toNat ≤ s.time) : exec (.twait o) s = .next (retire .seq s) := by
  have hd : tryTwait o s = .done s .seq := if_pos (BitVec.le_def.mp ht)
  dsimp only [exec, execTwait]
  rw [wordG_done h hd, leaveWord_same _ _ _ rfl]

/-- TIME has not come. -/
theorem execTwait_waits (o : OpA) (s : State) (h : MayGo (.twait o) [.ss o.sa.toNat false 1] s)
    (ht : s.time < s.me.readS o.sa.toNat) : exec (.twait o) s = .next (block (.twait o) s) := by
  have hw : tryTwait o s = .wait s (.twait o) := if_neg (Nat.not_le.mpr (BitVec.lt_def.mp ht))
  dsimp only [exec, execTwait]
  exact wordG_wait h hw

/-- Settles O17: each word is run by the lemma of its own. -/
theorem prefixesAndHints : Obligations.PrefixesAndHints := by
  refine ⟨fun o s h => ⟨hintRun o, execHint_opens o s h, rfl, fun k hk => ⟨hintRun_gap o hk, hintRun_yield o hk⟩⟩,
    execRep_begins, fun o s h => ⟨stageCache [o.vd.toNat, o.va.toNat, o.vb.toNat] s.me.cache, execStage_done o s h, ?_⟩,
    execNop_done, execYield_done, fun o s h => ⟨execTwait_done o s h, execTwait_waits o s h⟩⟩
  exact stageCache_resident [o.vd.toNat, o.va.toNat, o.vb.toNat] s.me.cache (by simp)

end Sys2Proof.Machine
end

section
/-!
THE STEP (O4). Each lemma says what one stage of a step does: what is due, the agenda, a turn, the issue of a word, a repetition
or a wake, the fetch, and the sequencer.
-/

namespace Sys2Proof.Machine

/-! ## What goes first (log 5) -/

theorem step_due {s t : State} (h : runFirst s (forced s) = some t) : step s = .next t := by
  simp only [step, nextTurn, h]

/-- With nothing due, a step takes its turn from the agenda. -/
theorem step_agenda {s : State} {t : Turn} {rest : List Turn} (h : NothingDue s) (ha : s.agenda = t :: rest) :
    step s = turn t { s with agenda := rest } := by
  have h' : runFirst s (forced s) = none := h
  simp only [step, nextTurn, h', ha]

/-- With nothing due and an empty agenda, a stop or a return comes next. -/
theorem step_dueEvent {s : State} {i : Instr} (h : NothingDue s) (ha : s.agenda = []) (hd : dueEvent s = some i) :
    step s = exec i { s with free := s.free + 1 } := by
  have h' : runFirst s (forced s) = none := h
  simp only [step, nextTurn, h', ha, hd]

/-- Without one, it is an agent's turn. -/
theorem step_agent {s : State} (h : NothingDue s) (ha : s.agenda = []) (hd : dueEvent s = none) :
    step s = issue (nextAgent s) s := by
  have h' : runFirst s (forced s) = none := h
  simp only [step, nextTurn, h', ha, hd]

/-! ## What the preliminaries of a turn keep -/

@[simp] theorem unmarkMe_cur (s : State) : (unmarkMe s).cur = s.cur := by
  unfold unmarkMe; split <;> rfl

@[simp] theorem settleResume_cur (s : State) : (settleResume s).cur = s.cur := by
  unfold settleResume; split
  · rfl
  · split <;> rfl

theorem refreshLoop_cur {s t : State} (h : refreshLoop s = .ok t) : t.cur = s.cur := by
  unfold refreshLoop at h
  dsimp only at h
  (repeat' split at h) <;> cases h <;> rfl

theorem Group.unmark_rep (g : Group) : g.unmark.rep = g.rep := by
  unfold Group.unmark; (repeat' split) <;> rfl

theorem unmarkMe_rep (s : State) : (unmarkMe s).me.rep = s.me.rep := by
  unfold unmarkMe; split
  · rw [me_modMe, Group.unmark_rep]
  · rfl

theorem qid_of_cur {s : State} {q : Nat} (h : s.cur = .group q) : s.qid = q := by
  unfold State.qid; rw [h]

/-! ## A group's turn -/

section
variable {s s1 : State} {q : Nat} (h1 : s1 = { tick s with cur := .group q })
include h1

theorem issue_group : issue (.group q) s = closeCclk (issueGroup q s1) := by rw [h1]; rfl

theorem inTurn_cur : s1.cur = .group q := by rw [h1]

/-- A group that tries its word again and is chosen issues. -/
theorem issue_tries (hm : mayIssue s1 q = true) (ht : TriesAgain s1.me) (hc : chosen s1 q = true) :
    issue (.group q) s = closeCclk (issueReady (unmarkMe s1)) := by
  have turn : issueGroup q s1 = (if chosen s1 q then issueReady (unmarkMe s1) else .next s1) := by
    unfold issueGroup
    rw [hm]
    rcases ht with hb | ⟨vs, xs, hb⟩ | ⟨b, hb, hmem⟩ | ⟨n, hb⟩
    · rw [hb]; rfl
    · rw [hb]; rfl
    · simp only [List.mem_cons, List.not_mem_nil, or_false] at hmem
      rcases hmem with rfl | rfl | rfl <;> rw [hb] <;> rfl
    · rw [hb]; rfl
  rw [issue_group h1, turn, if_pos hc]

end

/-- A group whose wait has an event that may happen goes on by it. -/
theorem issueGroup_wakes {s t : State} {q : Nat} {b : Blocked} {i : Instr} (hm : mayIssue s q = true)
    (hb : s.me.blocked = some b) (hw : wakeOf q b = some i) (he : exec i s = .next t) : issueGroup q s = .next t := by
  unfold issueGroup
  rw [hm, hb]
  cases b <;> cases hw <;> simp only [wakeOf, he, Bool.not_true, Bool.false_eq_true, if_false]

/-- The issue of a word that the group fetches and that decodes. -/
theorem issueNext_word {s0 s2 s3 : State} {q : Nat} {w : W32} {e : Option TlbEntry} {i : Instr} (hq : s0.cur = .group q)
    (h2 : s2 = settleResume s0) (hb : breakHere s2 = none) (hr : refreshLoop s2 = .ok s3)
    (hf : groupFetch s3 s3.me.pc = .word w e) (hd : decode w = .ok i) :
    issueNext s0 = exec i (addTlb (dieOf q) e s3) := by
  have h3 : s3.qid = q := qid_of_cur (by rw [refreshLoop_cur hr, h2, settleResume_cur, hq])
  subst h2
  simp only [issueNext, hb, hr, hf, issueWord, hd, h3]

/-- The issue of a repetition whose word decodes. -/
theorem issueRep_word {s : State} {r : RepRun} {w : W32} {i : Instr} (hb : breakHit s (s.me.pc + 4) (some r.k) = none)
    (hw : repWord (s.vtop s.me) r = .ok w) (hd : decode w = .ok i) : issueRep s r = exec i s := by
  simp only [issueRep, hb, hw, hd]

/-! ## The fetch (05 R153, 14 R356) -/

/-- A fetch that reaches memory delivers the four bytes there. -/
theorem fetchWord_memory {s : State} {e : Env} {fails : List (Nat × Nat)} {pc : W64} {pa : Nat} {t : Option TlbEntry}
    (hs : failStage s e fails pc.toNat = none) (hr : resolve s e .fetch pc.toNat = .mem pa t)
    (hd : fabricDenied s e.vf pa = false) :
    fetchWord s e fails pc = .word (wordOfBytes (readPas s (keyNum s e.vf) pa 4)) t := by
  simp only [fetchWord, hs, hr, hd, Option.isSome_none, Bool.false_eq_true, if_false]

theorem failStage_nil (s : State) (e : Env) (va : Nat) : failStage s e [] va = none := by
  simp [failStage]

/-- Outside a pinned loop there is no body to fetch anew, and words come from memory. -/
theorem fetch_unpinned {s : State} (hl : s.me.loop = none) :
    refreshLoop s = .ok s ∧ ∀ pc, groupFetch s pc = fetchWord s (envOf s s.qid) s.me.failPages pc :=
  ⟨by simp only [refreshLoop, hl], fun pc => by simp only [groupFetch, hl]⟩

/-- Inside a pinned loop words come from the loop buffer (04 R119). -/
theorem groupFetch_pinned {s : State} {l : PinnedLoop} {pc : W64} {w : W32} (hl : s.me.loop = some l) (hs : l.suspended = false)
    (hh : l.holds pc = true) (hw : l.body[((pc - l.addr).toNat - 4) / 4]? = some w) : groupFetch s pc = .word w none := by
  simp only [groupFetch, hl, hs, hh, hw, Bool.not_false, Bool.and_self, if_true]

/-! ## A sequencer's turn (10 R285) -/

/-- A sequencer that runs executes the word that it fetches. -/
theorem issueSeq_word {s : State} {c k : Nat} {w : W32} {e : Option TlbEntry} {i : Instr} (hu : unissued s c = none)
    (hr : seqRuns s c = true) (ho : (coreAt s c).seq.owner = some k)
    (hf : fetchWord s (envOfTeam s k) [] (coreAt s c).seq.pc = .word w e) (hd : decode w = .ok i)
    (hl : 0x38 ≤ w.toNat / 2 ^ 26) (hh : w.toNat / 2 ^ 26 ≤ 0x3A) : issueSeq c s = exec i (addTlb (c / 64) e s) := by
  simp only [issueSeq, hu, hr, ho, Option.getD_some, hf, hd, Bool.not_true, Bool.false_eq_true, if_false, decide_eq_true hl,
    decide_eq_true hh, Bool.and_self, if_true]

/-- Settles O4: what goes first, then a group's word, its fetch, a repetition, a wake, and a sequencer's word, by the lemma of
each. -/
theorem stepRunsTheDecodedWord : Obligations.StepRunsTheDecodedWord := by
  refine ⟨fun s t => step_due, fun s i rest => step_agenda, fun s a rest => step_agenda, fun s i => step_dueEvent,
    fun s => step_agent, ?_, ?_, fun s1 l w => groupFetch_pinned, ?_, ?_, ?_⟩
  · intro s s1 s2 s3 q w e i h1 hm ht hc h2 hrep hb hr hf hd
    have hq : (unmarkMe s1).cur = .group q := by rw [unmarkMe_cur, inTurn_cur h1]
    have ready : issueReady (unmarkMe s1) = issueNext (unmarkMe s1) := by simp only [issueReady, unmarkMe_rep, hrep]
    rw [issue_tries h1 hm ht hc, ready, issueNext_word hq h2 hb hr hf hd]
  · intro s1 q pa e hq hl hs hr hd
    have qid : s1.qid = q := qid_of_cur hq
    have me : s1.me = groupAt s1 q := by rw [State.me, qid]
    have vf : (envOf s1 q).vf = s1.me.vf := by rw [me]; rfl
    obtain ⟨hrefresh, hfetch⟩ := fetch_unpinned hl
    exact ⟨hrefresh, by rw [hfetch, qid, fetchWord_memory hs hr (by rwa [vf]), vf]⟩
  · intro s s1 s2 q r w i h1 hm ht hc h2 hrep hb hw hd
    have ready : issueReady s2 = issueRep s2 r := by simp only [issueReady, hrep]
    rw [issue_tries h1 hm ht hc, ← h2, ready, issueRep_word hb hw hd]
  · intro s s1 t q b i h1 hm hb hw he
    rw [issue_group h1, issueGroup_wakes hm hb hw he]
  · intro s s1 c k pa e w i h1 hu hr ho hres hfab hw hd hl hh
    have hf := fetchWord_memory (failStage_nil s1 (envOfTeam s1 k) _) hres hfab
    have turn : issue (.sequencer c) s = closeCclk (issueSeq c s1) := by rw [h1]; rfl
    rw [turn, issueSeq_word hu hr ho (hw ▸ hf) hd hl hh]

end Sys2Proof.Machine
end

section
/-!
LOOPS AND REPETITIONS (O16). LOOP pins a body that R120 lets pass; the word of a repetition adds to its target the sum of what
its selected fields step by, or takes the trap of the first of them that does not fit.
-/

namespace Sys2Proof.Machine

/-! ## LOOP (04 R119 to R121) -/

theorem length_loopWords {s : State} {e : Env} {fails : List (Nat × Nat)} {pc : W64} {n : Nat} {ws : List W32}
    (h : loopWords s e fails pc n = .ok ws) : ws.length = n := by
  induction n generalizing ws with
  | zero => cases h; rfl
  | succ n ih =>
    unfold loopWords at h
    split at h
    · cases h
    · next us hu =>
      split at h
      · cases h; simp [ih hu]
      · cases h

/-- A body that holds no HINT and no LOOP and does not end in a REP passes (04 R120). -/
theorem loopBadWord_none {ws : List W32} {n : Nat} (hn : ws.length = n + 1)
    (hw : ∀ k, k < n + 1 → (ws.getD k 0).toNat / 2 ^ 26 ≠ 0x01
      ∧ ((ws.getD k 0).toNat / 2 ^ 26 = 0x0A → (ws.getD k 0).toNat / 2 ^ 20 % 64 ≠ 0))
    (hl : (ws.getD n 0).toNat / 2 ^ 26 ≠ 0x02) : loopBadWord ws = none := by
  unfold loopBadWord
  rw [List.head?_eq_none_iff, List.filter_eq_nil_iff]
  intro x hx
  obtain ⟨hk, he⟩ := List.mem_zipIdx' hx
  have word : ws.getD x.2 0 = x.1 := by rw [List.getD_eq_getElem _ _ hk, he]
  obtain ⟨noHint, noLoop⟩ := hw x.2 (hn ▸ hk)
  rw [word] at noHint noLoop
  have noRep : x.1.toNat / 2 ^ 26 = 2 → x.2 + 1 ≠ ws.length := by
    intro hm hlast
    obtain rfl : x.2 = n := by omega
    exact hl (word ▸ hm)
  simp only [Bool.or_eq_true, Bool.and_eq_true, beq_iff_eq, not_or, not_and]
  exact ⟨⟨noHint, noLoop⟩, noRep⟩

/-- A LOOP passes check 4 where no loop is pinned and the words of its body are there and pass (04 R107, R120). -/
theorem check4_loop {o : OpLoop} {s : State} {ws : List W32} (hl : s.me.loop = none)
    (hf : loopWords s (envOf s s.qid) s.me.failPages (s.me.pc + 4) (o.len.toNat + 1) = .ok ws)
    (hb : loopBadWord ws = none) :
    check4 s (encode (.loop o)) = none := by
  have hlen := o.len.isLt
  have hcnt := o.cnt.isLt
  have word : (encode (.loop o)).toNat = 0x28000000 + o.len.toNat * 2 ^ 6 + o.cnt.toNat :=
    Laws.RoundTrip.OpLoop_val _ o (by decide)
  have major : (encode (.loop o)).toNat / 2 ^ 26 = 0x0A := by omega
  have fn : (encode (.loop o)).toNat / 2 ^ 20 % 64 = 0 := by omega
  have len : (encode (.loop o)).toNat / 64 % 32 = o.len.toNat := by omega
  simp only [check4, major, fn, len, hl, hf, hb, ne_eq, not_true_eq_false, if_false, Option.isSome_none,
    Bool.false_eq_true, Option.map_none]

theorem execLoop_pins {o : OpLoop} {s : State} {ws : List W32} (h : MayGo (.loop o) [.ss o.cnt.toNat false 1] s)
    (hf : loopWords s (envOf s s.qid) s.me.failPages (s.me.pc + 4) (o.len.toNat + 1) = .ok ws)
    (hc : check4 s (encode (.loop o)) = none) :
    exec (.loop o) s = .next (retire
      (if s.me.readS o.cnt.toNat = 0 then .goto (s.me.pc + BitVec.ofNat 64 (4 * (o.len.toNat + 2))) none
       else .goto (s.me.pc + 4) (some
        { addr := s.me.pc, body := ws, remaining := s.me.readS o.cnt.toNat, suspended := false, refetch := false,
          unread := false })) s) := by
  dsimp only [exec, execLoop]
  rw [hc]
  dsimp only
  by_cases hz : s.me.readS o.cnt.toNat = 0
  · rw [wordG_done (t := s) (n := .goto (s.me.pc + BitVec.ofNat 64 (4 * (o.len.toNat + 2))) none) h
      (by simp only [hf, hz, if_true]), leaveWord_same _ _ _ rfl, if_pos hz]
  · rw [wordG_done (t := s) h (by simp only [hf, hz, if_false]; rfl), leaveWord_same _ _ _ rfl, if_neg hz]

/-! ## The word of a repetition (04 R111 to R113) -/

/-- The formats of R112: the majors of each, with the lowest bits of its fields. -/
def repFormats : List (Nat × Option Nat × Option Nat × Option Nat) :=
  [0x18, 0x19, 0x1B, 0x1C, 0x1D, 0x21].map (fun m => (m, some 14, some 7, some 0))
    ++ [(0x20, none, some 7, some 0), (0x23, some 14, some 7, none)]
    ++ [0x1A, 0x1E, 0x1F, 0x22, 0x26].map (fun m => (m, some 15, some 8, none)) ++ [(0x24, none, some 8, none)]
    ++ [0x27, 0x28].map (fun m => (m, some 16, some 3, none))

theorem repFields_listed {m : Nat} {f : Option Nat × Option Nat × Option Nat} (h : (m, f) ∈ repFormats) :
    repFields m = f := by
  have all : ∀ x ∈ repFormats, repFields x.1 = x.2 := by decide
  exact all (m, f) h

/-- A selected field: its lowest bit and its position in the order D, A, B. -/
abbrev RepField : Type := Nat × Nat

/-- What a repetition adds to each selected field. -/
def RepRun.step (r : RepRun) : Nat := r.k * 2 ^ r.op.str.toNat

def RepRun.value (r : RepRun) (f : RepField) : Nat := r.target.toNat / 2 ^ f.1 % 128 + r.step

/-- The field is the stride of VIOTA, which is no register number. -/
def RepRun.isStride (r : RepRun) (f : RepField) : Bool :=
  r.target.toNat / 2 ^ 26 == 0x26 && r.target.toNat / 2 ^ 23 % 8 == 3 && f.2 == 1

/-- The stepped field names a register of the allotment, or is a stride that the field can hold. -/
def RepRun.Fits (vtop : Nat) (r : RepRun) (f : RepField) : Prop :=
  if r.isStride f then r.value f ≤ 127 else r.value f < vtop

/-- The trap of a field that does not fit. -/
def RepRun.misfit (r : RepRun) (f : RepField) : Nat × Nat :=
  if r.isStride f then (0x02, r.target.toNat + f.1 * 2 ^ 32) else (0x03, r.value f % 128 + f.2 * 2 ^ 8)

/-- The fields that a REP selects, in the order D, A, B, of those that the format has. -/
def RepRun.fields (r : RepRun) (d a b : Option Nat) : List RepField :=
  ([(r.op.fmD, d, 0), (r.op.fmA, a, 1), (r.op.fmB, b, 2)] : List (Bool × Option Nat × Nat)).filterMap
    (fun x => if x.1 then x.2.1.map (fun l => (l, x.2.2)) else none)

/-- What a selected field adds to the word, by the model's `stepOne`. -/
def RepRun.stepField (vtop : Nat) (r : RepRun) (f : RepField) : Except (Nat × Nat) Nat :=
  stepOne r.target.toNat vtop r.step f.2 true (some f.1)

theorem stepField_stride {vtop : Nat} {r : RepRun} {f : RepField} (hs : r.isStride f = true) :
    r.stepField vtop f = if r.value f ≤ 127 then .ok (r.step * 2 ^ f.1) else .error (r.misfit f) := by
  have model : r.stepField vtop f
      = if r.isStride f then (if 127 < r.value f then .error (0x02, r.target.toNat + f.1 * 2 ^ 32) else .ok (r.step * 2 ^ f.1))
        else _ := rfl
  rw [model, if_pos hs, RepRun.misfit, if_pos hs]
  by_cases h : r.value f ≤ 127 <;> simp [h, Nat.not_lt.mpr, Nat.not_le.mp]

theorem stepField_register {vtop : Nat} {r : RepRun} {f : RepField} (hv : vtop ≤ 112) (hs : r.isStride f = false) :
    r.stepField vtop f = if r.value f < vtop then .ok (r.step * 2 ^ f.1) else .error (r.misfit f) := by
  have model : r.stepField vtop f = if r.isStride f then _ else if 112 ≤ r.value f || vtop ≤ r.value f
        then .error (0x03, r.value f % 128 + f.2 * 2 ^ 8) else .ok (r.step * 2 ^ f.1) := rfl
  rw [model, hs, RepRun.misfit, hs]
  by_cases h : r.value f < vtop
  · simp [h, show ¬112 ≤ r.value f by omega]
  · simp [h, Nat.not_lt.mp h]

theorem stepField_fits {vtop : Nat} {r : RepRun} {f : RepField} (hv : vtop ≤ 112) (h : r.Fits vtop f) :
    r.stepField vtop f = .ok (r.step * 2 ^ f.1) := by
  cases hs : r.isStride f <;> simp only [RepRun.Fits, hs, Bool.false_eq_true, if_true, if_false] at h
  · rw [stepField_register hv hs, if_pos h]
  · rw [stepField_stride hs, if_pos h]

theorem stepField_misfits {vtop : Nat} {r : RepRun} {f : RepField} (hv : vtop ≤ 112) (h : ¬r.Fits vtop f) :
    r.stepField vtop f = .error (r.misfit f) := by
  cases hs : r.isStride f <;> simp only [RepRun.Fits, hs, Bool.false_eq_true, if_true, if_false] at h
  · rw [stepField_register hv hs, if_neg h]
  · rw [stepField_stride hs, if_neg h]

/-- The first trap of the fields in order, or what they add together. -/
def RepRun.stepAll (vtop : Nat) (r : RepRun) : List RepField → Except (Nat × Nat) Nat
  | [] => .ok 0
  | f :: fs =>
    match r.stepField vtop f, r.stepAll vtop fs with
    | .error e, _ => .error e
    | .ok _, .error e => .error e
    | .ok x, .ok y => .ok (x + y)

theorem stepAll_fit {vtop : Nat} {r : RepRun} (hv : vtop ≤ 112) {fs : List RepField} (h : ∀ f ∈ fs, r.Fits vtop f) :
    r.stepAll vtop fs = .ok (fs.map (fun f => r.step * 2 ^ f.1)).sum := by
  induction fs with
  | nil => rfl
  | cons f fs ih =>
    rw [List.forall_mem_cons] at h
    rw [RepRun.stepAll, stepField_fits hv h.1, ih h.2]
    rfl

theorem stepAll_misfit {vtop : Nat} {r : RepRun} (hv : vtop ≤ 112) {f : RepField} {before after : List RepField}
    (hb : ∀ e ∈ before, r.Fits vtop e) (h : ¬r.Fits vtop f) :
    r.stepAll vtop (before ++ f :: after) = .error (r.misfit f) := by
  induction before with
  | nil => rw [List.nil_append, RepRun.stepAll, stepField_misfits hv h]
  | cons e es ih =>
    rw [List.forall_mem_cons] at hb
    rw [List.cons_append, RepRun.stepAll, stepField_fits hv hb.1, ih hb.2]

theorem stepAll_append (vtop : Nat) (r : RepRun) (xs ys : List RepField) : r.stepAll vtop (xs ++ ys)
    = (match r.stepAll vtop xs, r.stepAll vtop ys with
      | .error e, _ => .error e
      | .ok _, .error e => .error e
      | .ok x, .ok y => .ok (x + y)) := by
  induction xs with
  | nil => cases h : r.stepAll vtop ys <;> simp [RepRun.stepAll, h]
  | cons f fs ih =>
    simp only [List.cons_append, RepRun.stepAll, ih]
    cases r.stepField vtop f <;> cases r.stepAll vtop fs <;> cases r.stepAll vtop ys <;> simp [Nat.add_assoc]

theorem stepAll_single (vtop : Nat) (r : RepRun) (f : RepField) : r.stepAll vtop [f] = r.stepField vtop f := by
  rw [RepRun.stepAll]; cases r.stepField vtop f <;> rfl

/-- The field of one position, where it is selected and the format has it. -/
def fieldOf (on : Bool) (lo : Option Nat) (pos : Nat) : List RepField :=
  if on then (lo.map (fun l => (l, pos))).toList else []

/-- The model steps one position as the field of that position, or nothing. -/
theorem stepOne_eq (vtop : Nat) (r : RepRun) (on : Bool) (lo : Option Nat) (pos : Nat) :
    stepOne r.target.toNat vtop r.step pos on lo = r.stepAll vtop (fieldOf on lo pos) := by
  cases on with
  | false => cases lo <;> rfl
  | true =>
    cases lo with
    | none => rfl
    | some l => exact (stepAll_single vtop r (l, pos)).symm

theorem fields_eq (r : RepRun) (d a b : Option Nat) :
    r.fields d a b = fieldOf r.op.fmD d 0 ++ (fieldOf r.op.fmA a 1 ++ fieldOf r.op.fmB b 2) := by
  unfold RepRun.fields fieldOf
  cases r.op.fmD <;> cases r.op.fmA <;> cases r.op.fmB <;> cases d <;> cases a <;> cases b <;> rfl

/-- The word of a repetition is its target with what the selected fields add. -/
theorem repWord_eq {vtop : Nat} {r : RepRun} {d a b : Option Nat} (hf : repFields (r.target.toNat / 2 ^ 26) = (d, a, b)) :
    repWord vtop r = (r.stepAll vtop (r.fields d a b)).map (fun x => BitVec.ofNat 32 (r.target.toNat + x)) := by
  have model (pos : Nat) (on : Bool) (lo : Option Nat) :
      stepOne r.target.toNat vtop (r.k * repStride r.op) pos on lo = r.stepAll vtop (fieldOf on lo pos) :=
    stepOne_eq vtop r on lo pos
  simp only [repWord, hf, model, fields_eq, stepAll_append]
  cases r.stepAll vtop (fieldOf r.op.fmD d 0) <;> cases r.stepAll vtop (fieldOf r.op.fmA a 1) <;>
    cases r.stepAll vtop (fieldOf r.op.fmB b 2) <;> simp [Except.map, Nat.add_assoc]

/-- Where every selected field fits, each grows by what a repetition adds (04 R112). -/
theorem repWord_fit {vtop : Nat} {r : RepRun} {d a b : Option Nat} (hf : repFields (r.target.toNat / 2 ^ 26) = (d, a, b))
    (hv : vtop ≤ 112) (h : ∀ f ∈ r.fields d a b, r.Fits vtop f) :
    repWord vtop r = .ok (BitVec.ofNat 32 (r.target.toNat + ((r.fields d a b).map (fun f => r.step * 2 ^ f.1)).sum)) := by
  rw [repWord_eq hf, stepAll_fit hv h]; rfl

/-- The first selected field that does not fit takes its trap (04 R113). -/
theorem repWord_misfit {vtop : Nat} {r : RepRun} {d a b : Option Nat} {f : RepField} {before after : List RepField}
    (hf : repFields (r.target.toNat / 2 ^ 26) = (d, a, b)) (hv : vtop ≤ 112) (he : r.fields d a b = before ++ f :: after)
    (hb : ∀ e ∈ before, r.Fits vtop e) (h : ¬r.Fits vtop f) : repWord vtop r = .error (r.misfit f) := by
  rw [repWord_eq hf, he, stepAll_misfit hv hb h]; rfl

/-! ## A REP that selects a position its format lacks (04 R112) -/

/-- The check finds the first position, in the order D, A, B, that is selected and that the format lacks. -/
theorem repBadField_of_lacking {o : OpRep} {w : W32} {bit : Nat}
    (h : let f := repFields (w.toNat / 2 ^ 26)
      (o.fmD = true ∧ f.1 = none ∧ bit = 19) ∨ ((o.fmD = false ∨ f.1 ≠ none) ∧ o.fmA = true ∧ f.2.1 = none ∧ bit = 18)
        ∨ ((o.fmD = false ∨ f.1 ≠ none) ∧ (o.fmA = false ∨ f.2.1 ≠ none) ∧ o.fmB = true ∧ f.2.2 = none ∧ bit = 17)) :
    repBadField o w = some bit := by
  have has {on : Bool} {lo : Option Nat} (h : on = false ∨ lo ≠ none) : (on && lo.isNone) = false := by
    rcases h with rfl | h
    · rfl
    · rw [Option.isNone_eq_false_iff.mpr (Option.isSome_iff_ne_none.mpr h), Bool.and_false]
  have lacks {on : Bool} {lo : Option Nat} (h : on = true) (h' : lo = none) : (on && lo.isNone) = true := by
    rw [h, h']; rfl
  dsimp only [repBadField]
  rcases h with ⟨hd, fd, rfl⟩ | ⟨hd, ha, fa, rfl⟩ | ⟨hd, ha, hb, fb, rfl⟩
  · rw [if_pos (lacks hd fd)]
  · rw [has hd, if_neg Bool.false_ne_true, if_pos (lacks ha fa)]
  · rw [has hd, has ha, if_neg Bool.false_ne_true, if_neg Bool.false_ne_true, if_pos (lacks hb fb)]

theorem execRep_lacking {o : OpRep} {s : State} {w : W32} {e : Option TlbEntry} {bit : Nat} (h : MayGo (.rep o) [] s)
    (hf : groupFetch s (s.me.pc + 4) = .word w e) (hl : 0x18 ≤ w.toNat / 2 ^ 26) (hu : w.toNat / 2 ^ 26 ≤ 0x28)
    (hb : repBadField o w = some bit) :
    exec (.rep o) s
      = .next (takeTrap s.qid 0x02 (BitVec.ofNat 64 ((encode (.rep o)).toNat + bit * 2 ^ 32)) s.me.pc s) := by
  dsimp only [exec, execRep]
  refine wordG_trap h ?_
  simp only [hf, repTargetOk_of_major hl hu, hb, Bool.not_true, Bool.false_eq_true, if_false]
  rfl

/-! ## A repetition whose fields fail (04 R113) -/

theorem issueRep_fails {s : State} {r : RepRun} {code info : Nat} (hb : breakHit s (s.me.pc + 4) (some r.k) = none)
    (hw : repWord (s.vtop s.me) r = .error (code, info)) :
    issueRep s r = .next (takeTrap s.qid code (BitVec.ofNat 64 info) s.me.pc s) := by
  simp only [issueRep, hb, hw]
  rfl

/-- Settles O16: a body that R120 lets pass is pinned; a repetition is its target with every selected field stepped, or takes
the trap of the first that does not fit; and REP checks its positions first. -/
theorem loopsAndRepetitions : Obligations.LoopsAndRepetitions := by
  refine ⟨?_, ?_, ?_, ?_, rfl, rfl⟩
  · intro o s ws h hl hf hw hlast
    have pass : loopBadWord ws = none := loopBadWord_none (length_loopWords hf) hw hlast
    exact execLoop_pins h hf (check4_loop hl hf pass)
  · intro vtop r d a b hmem _ _ _ hv
    have hf : repFields (r.target.toNat / 2 ^ 26) = (d, a, b) := repFields_listed hmem
    exact ⟨fun h => repWord_fit hf hv h, fun f before after he hb h => repWord_misfit hf hv he hb h⟩
  · intro o s w e bit h hf hl hu hb
    exact execRep_lacking h hf hl hu (repBadField_of_lacking hb)
  · intro s s1 s2 q code info r h1 hm ht hc h2 hrep hb hw
    have ready : issueReady s2 = issueRep s2 r := by simp only [issueReady, hrep]
    have qid : s2.qid = q := qid_of_cur (by rw [h2, unmarkMe_cur, inTurn_cur h1])
    rw [issue_tries h1 hm ht hc, ← h2, ready, issueRep_fails hb hw, qid]

end Sys2Proof.Machine
end

section
/-!
SCALAR WORDS AND CONTROL TRANSFERS (O13, O14, O15). What a retirement leaves, whatever comes next; the values of the scalar rows
against the model's functions of them; the conditions and targets of branches; and, from what the words do, their frames.
-/

namespace Sys2Proof.Machine

/-! ## What a retirement leaves -/

theorem frame_retire (n : Next) {s : State} (hc : Calm s) : Frame [] [] [] [] s (retire n s) where
  regs := by
    refine ⟨fun k _ => ?_, fun k _ => ?_, fun k _ => ?_⟩ <;> rw [retire_me n s hc]
    · simp [Group.readS, Group.sFull]
    · simp [Group.vreg, Group.vFull]
    · simp [Group.readP, Group.retire_liveMask]
  ports k _ := by rw [retire_me n s hc, Group.retire_ports]
  control := by simp [SameControl, retire_me n s hc]
  trap := by simp [SameTrapState, retire_me n s hc]
  others := ⟨by simp only [State.qid, retire_cur n s hc], retire_other n s hc⟩
  memory := retire_readPa n s hc
  teams := retire_teams n s hc
  launches := retire_launches n s hc
  copies := retire_copies n s hc
  vfs := retire_vfs n s hc
  engines := engines_retire n s hc

/-- A change within bounds, and then one that leaves all. -/
theorem Within.andThen {ss vs ps ns : List Nat} {s t u : State} (h : Within ss vs ps ns s t) (f : Frame [] [] [] [] t u) :
    Frame ss vs ps ns s u := by
  obtain ⟨scalars, vectors, preds⟩ := f.regs
  have state := h.inGroup.rest
  have none (n : Nat) : n ∉ ([] : List Nat) := List.not_mem_nil
  constructor
  · refine ⟨fun n hn => ?_, fun n hn => ?_, fun n hn => (preds n (none n)).trans (h.me.preds n hn)⟩
    · exact ⟨(scalars n (none n)).1.trans (h.me.scalars n hn).1, (scalars n (none n)).2.trans (h.me.scalars n hn).2⟩
    · exact ⟨(vectors n (none n)).1.trans (h.me.vectors n hn).1, (vectors n (none n)).2.trans (h.me.vectors n hn).2⟩
  · exact fun n hn => (f.ports n (none n)).trans (h.me.ports n hn)
  · have control := f.control
    have before := h.sameControl
    simp only [SameControl] at control before ⊢
    simpa only [before] using control
  · have trap := f.trap
    have before := h.sameTrapState
    simp only [SameTrapState] at trap before ⊢
    simpa only [before] using trap
  · obtain ⟨qid, groups⟩ := f.others
    exact ⟨qid.trans h.qid, fun q hq => (groups q (by rwa [h.qid])).trans (h.inGroup.others q hq)⟩
  · exact fun key pa => (f.memory key pa).trans (h.inGroup.sameMemory key pa)
  · rw [f.teams, state]
  · rw [f.launches, state]
  · rw [f.copies, state]
  · rw [f.vfs, state]
  · exact fun c => Core.SameEngine.trans (f.engines c) (h.engines c)

/-- A word whose effect stays within bounds and raises no flag leaves all else as it was, wherever the group goes on. -/
theorem frame_of_retires {ss vs ps ns : List Nat} {i : Instr} {n : Next} {s t u : State} (he : exec i s = .next (retire n u))
    (h : Within ss vs ps ns s u) (hf : SameFlags s u) (ht : exec i s = .next t) (hc : Calm s) :
    Frame ss vs ps ns s t ∧ SameFlags s t := by
  cases he.symm.trans ht
  have calm : Calm u := h.calm hc
  refine ⟨h.andThen (frame_retire n calm), ?_⟩
  simpa [SameFlags, retire_me n u calm] using hf

theorem sameFlags_putS (n : Nat) (v : W64) (s : State) : SameFlags s (putS n v s) := by
  simp [SameFlags]

/-- A word that writes a scalar register and retires. -/
theorem frame_of_putS {i : Instr} {m : Next} {n : Nat} {v : W64} {s t : State} (he : exec i s = .next (retire m (putS n v s)))
    (ht : exec i s = .next t) (hc : Calm s) : Frame [n] [] [] [] s t ∧ SameFlags s t :=
  frame_of_retires he (.putS v (List.mem_singleton_self n)) (sameFlags_putS n v s) ht hc

/-- A word that retires and does nothing besides. -/
theorem frame_of_nothing {i : Instr} {m : Next} {s t : State} (he : exec i s = .next (retire m s)) (ht : exec i s = .next t)
    (hc : Calm s) : Frame [] [] [] [] s t ∧ SameFlags s t :=
  frame_of_retires he .refl ⟨rfl, rfl⟩ ht hc

/-! ## The values of the rows (05 R156, R157; 01 R27) -/

/-- Where equal keys choose between equal values, `≤` and `<` choose alike. -/
theorem ite_le_eq_ite_lt {ι α : Type} [LinearOrder ι] {x y : ι} {a b : α} (h : x = y → a = b) :
    (if x ≤ y then a else b) = if x < y then a else b := by
  rcases lt_trichotomy x y with lt | eq | gt
  · rw [if_pos lt.le, if_pos lt]
  · rw [h eq, ite_self, ite_self]
  · rw [if_neg gt.not_ge, if_neg gt.not_gt]

section
variable (a b : W64)

theorem opMin_eq : opMin a b = if a.slt b then a else b := by
  simp only [opMin, BitVec.slt_iff_toInt_lt]
  exact ite_le_eq_ite_lt BitVec.eq_of_toInt_eq

theorem opMax_eq : opMax a b = if a.slt b then b else a := by
  simp only [opMax, BitVec.slt_iff_toInt_lt]
  exact ite_le_eq_ite_lt fun h => (BitVec.eq_of_toInt_eq h).symm

theorem opMinz_eq : opMinz a b = if a < b then a else b := by
  simp only [opMinz, BitVec.lt_def]
  exact ite_le_eq_ite_lt BitVec.eq_of_toNat_eq

theorem opMaxz_eq : opMaxz a b = if a < b then b else a := by
  simp only [opMaxz, BitVec.lt_def]
  exact ite_le_eq_ite_lt fun h => (BitVec.eq_of_toNat_eq h).symm

theorem opSlt_eq : opSlt a b = if a.slt b then 1 else 0 := by
  simp only [opSlt, BitVec.slt_iff_toInt_lt]

/-- The high half of a signed product: the product fits 128 bits. -/
theorem opMulh_eq : opMulh a b = (a.signExtend 128 * b.signExtend 128).extractLsb' 64 64 := by
  have product : a.signExtend 128 * b.signExtend 128 = BitVec.ofInt 128 (a.toInt * b.toInt) := by
    rw [BitVec.ofInt_mul, ← BitVec.toInt_signExtend_of_le (x := a) (v := 128) (by decide),
      ← BitVec.toInt_signExtend_of_le (x := b) (v := 128) (by decide), BitVec.ofInt_toInt, BitVec.ofInt_toInt]
  rw [product]
  apply BitVec.eq_of_toNat_eq
  simp only [opMulh, BitVec.extractLsb'_toNat, BitVec.toNat_ofInt, Nat.shiftRight_eq_div_pow]
  generalize a.toInt * b.toInt = p
  omega

theorem opMulhz_eq : opMulhz a b = (a.zeroExtend 128 * b.zeroExtend 128).extractLsb' 64 64 := by
  have fits : a.toNat * b.toNat < 2 ^ 128 := by
    calc a.toNat * b.toNat < 2 ^ 64 * 2 ^ 64 := Nat.mul_lt_mul'' a.isLt b.isLt
      _ = 2 ^ 128 := by norm_num
  apply BitVec.eq_of_toNat_eq
  have ha := a.isLt
  have hb := b.isLt
  simp only [opMulhz, BitVec.extractLsb'_toNat, BitVec.toNat_mul, BitVec.truncate_eq_setWidth, BitVec.toNat_setWidth,
    BitVec.toNat_ofNat, Nat.shiftRight_eq_div_pow]
  rw [Nat.mod_eq_of_lt (show a.toNat < 2 ^ 128 by omega), Nat.mod_eq_of_lt (show b.toNat < 2 ^ 128 by omega),
    Nat.mod_eq_of_lt fits]

theorem opDiv_eq : opDiv a b = if b = 0 then 0xFFFF_FFFF_FFFF_FFFF else a.sdiv b := by
  have h : BitVec.ofInt 64 (Int.tdiv a.toInt b.toInt) = a.sdiv b := by
    apply BitVec.eq_of_toInt_eq
    rw [BitVec.toInt_ofInt, BitVec.toInt_sdiv]
  rw [opDiv, h]
  rfl

theorem opDivz_eq : opDivz a b = if b = 0 then 0xFFFF_FFFF_FFFF_FFFF else a / b := by
  have h : BitVec.ofNat 64 (a.toNat / b.toNat) = a / b := by
    rw [← BitVec.toNat_udiv, BitVec.ofNat_toNat, BitVec.setWidth_eq]
  rw [opDivz, h]
  rfl

theorem opRem_eq : opRem a b = if b = 0 then a else a.srem b := by
  rw [opRem, ← BitVec.toInt_srem, BitVec.ofInt_toInt]

theorem opRemz_eq : opRemz a b = if b = 0 then a else a % b := by
  rw [opRemz, ← BitVec.toNat_umod, BitVec.ofNat_toNat, BitVec.setWidth_eq]

end

/-! ## Counts of bits (05 R157) -/

/-- The count of zero bits above says how large the number of the bits below is. -/
theorem clzFrom_spec (a : W64) (n : Nat) : clzFrom a n ≤ n ∧ a.toNat % 2 ^ n < 2 ^ (n - clzFrom a n)
    ∧ (clzFrom a n < n → 2 ^ (n - 1 - clzFrom a n) ≤ a.toNat % 2 ^ n) := by
  induction n with
  | zero => simp [clzFrom, Nat.mod_one]
  | succ n ih =>
    obtain ⟨small, below, above⟩ := ih
    have digit : a.toNat % 2 ^ (n + 1) = a.toNat % 2 ^ n + 2 ^ n * (a.getLsbD n).toNat := by
      rw [Nat.mod_pow_succ, BitVec.getLsbD, Nat.toNat_testBit]
    rw [digit, clzFrom]
    cases a.getLsbD n with
    | true =>
      have low := Nat.mod_lt a.toNat (Nat.two_pow_pos n)
      simp only [if_true, Bool.toNat_true, Nat.mul_one, Nat.sub_zero, Nat.add_sub_cancel, Nat.pow_succ]
      omega
    | false =>
      simp only [Bool.false_eq_true, if_false, Bool.toNat_false, Nat.mul_zero, Nat.add_zero]
      rw [show n + 1 - (clzFrom a n + 1) = n - clzFrom a n by omega,
        show n + 1 - 1 - (clzFrom a n + 1) = n - 1 - clzFrom a n by omega]
      exact ⟨by omega, below, fun h => above (by omega)⟩

/-- The bits that a count of trailing zeros passes are clear, and the one that it stops at is set. -/
theorem ctzFrom_spec (a : W64) (n k : Nat) : ctzFrom a n k ≤ n ∧ (∀ j, j < ctzFrom a n k → a.getLsbD (k + j) = false)
    ∧ (ctzFrom a n k < n → a.getLsbD (k + ctzFrom a n k) = true) := by
  induction n generalizing k with
  | zero => simp [ctzFrom]
  | succ n ih =>
    obtain ⟨small, clear, stop⟩ := ih (k + 1)
    rw [ctzFrom]
    cases hb : a.getLsbD k with
    | true => simp [hb]
    | false =>
      simp only [Bool.false_eq_true, if_false]
      refine ⟨by omega, fun j hj => ?_, fun h => ?_⟩
      · cases j with
        | zero => exact hb
        | succ j => rw [← Nat.add_assoc, Nat.add_right_comm]; exact clear j (by omega)
      · rw [← Nat.add_assoc, Nat.add_right_comm]; exact stop (by omega)

theorem opClz_spec (a : W64) : (opClz a).toNat ≤ 64 ∧ a.toNat < 2 ^ (64 - (opClz a).toNat)
    ∧ ((opClz a).toNat < 64 → 2 ^ (63 - (opClz a).toNat) ≤ a.toNat) := by
  have spec := clzFrom_spec a 64
  have value : (opClz a).toNat = clzFrom a 64 := by
    rw [opClz, BitVec.toNat_ofNat, Nat.mod_eq_of_lt (by omega)]
  rw [Nat.mod_eq_of_lt a.isLt] at spec
  rwa [value]

theorem opCtz_spec (a : W64) : (opCtz a).toNat ≤ 64 ∧ (∀ k, k < (opCtz a).toNat → a.getLsbD k = false)
    ∧ ((opCtz a).toNat < 64 → a.getLsbD (opCtz a).toNat = true) := by
  have spec := ctzFrom_spec a 64 0
  have value : (opCtz a).toNat = ctzFrom a 64 0 := by
    rw [opCtz, BitVec.toNat_ofNat, Nat.mod_eq_of_lt (by omega)]
  simp only [Nat.zero_add] at spec
  rwa [value]

theorem foldl_count (p : Nat → Bool) (ks : List Nat) (n : Nat) :
    ks.foldl (fun n i => if p i then n + 1 else n) n = n + (ks.filter p).length := by
  induction ks generalizing n with
  | nil => rfl
  | cons k ks ih =>
    rw [List.foldl_cons, ih, List.filter_cons]
    split
    · rw [List.length_cons]; omega
    · rfl

theorem opPopc_toNat (a : W64) : (opPopc a).toNat = ((List.range 64).filter a.getLsbD).length := by
  have := List.length_filter_le a.getLsbD (List.range 64)
  rw [List.length_range] at this
  rw [opPopc, foldl_count, Nat.zero_add, BitVec.toNat_ofNat, Nat.mod_eq_of_lt (by omega)]

/-- The sum of the mirrored bits of the first n positions: a bit added below those that stand carries into none of them. -/
theorem mirrorSum_spec (f : Nat → Bool) (n : Nat) (hn : n ≤ 64) :
    ∃ x, (List.range n).foldl (fun n i => if f i then n + 2 ^ (63 - i) else n) 0 = 2 ^ (64 - n) * x
      ∧ ∀ k, k < n → (2 ^ (64 - n) * x).testBit (63 - k) = f k := by
  induction n with
  | zero => exact ⟨0, rfl, fun k hk => absurd hk (Nat.not_lt_zero k)⟩
  | succ n ih =>
    obtain ⟨x, hx, bits⟩ := ih (by omega)
    have split : 2 ^ (64 - n) * x = 2 ^ (64 - (n + 1)) * (2 * x) := by
      rw [show 64 - n = 64 - (n + 1) + 1 by omega, Nat.pow_succ, Nat.mul_assoc]
    rw [split] at hx bits
    rw [List.range_succ, List.foldl_append, hx, List.foldl_cons, List.foldl_nil]
    refine ⟨2 * x + (f n).toNat, ?_, fun k hk => ?_⟩
    · cases f n
      · rfl
      · rw [if_pos rfl, Nat.mul_add, Bool.toNat_true, Nat.mul_one, show 63 - n = 64 - (n + 1) by omega]
    · rw [Nat.mul_comm, Nat.testBit_mul_two_pow]
      rcases Nat.lt_succ_iff_lt_or_eq.mp hk with h | rfl
      · have old := bits k h
        rw [Nat.mul_comm, Nat.testBit_mul_two_pow] at old
        rw [← old, show 63 - k - (64 - (n + 1)) = n - 1 - k + 1 by omega, Nat.testBit_succ, Nat.testBit_succ]
        congr 2
        have := (f n).toNat_le
        omega
      · rw [show 63 - k - (64 - (k + 1)) = 0 by omega]
        cases f k <;> simp

theorem opBrev_getLsbD (a : W64) {k : Nat} (hk : k < 64) : (opBrev a).getLsbD (63 - k) = a.getLsbD k := by
  obtain ⟨x, hx, bits⟩ := mirrorSum_spec a.getLsbD 64 (Nat.le_refl _)
  rw [opBrev, hx, BitVec.getLsbD_ofNat, bits k hk, decide_eq_true (by omega), Bool.true_and]

/-! ## The rows of scalar arithmetic (05 R156 to R159) -/

/-- The binary members of majors 0x0C and 0x0D, each with the value of its row. -/
def binaryRows (o : OpSR) : List (Instr × (W64 → W64 → W64)) :=
  [(.add o, fun a b => a + b), (.sub o, fun a b => a - b), (.and o, fun a b => a &&& b),
    (.or o, fun a b => a ||| b), (.xor o, fun a b => a ^^^ b), (.andn o, fun a b => a &&& ~~~b),
    (.shl o, fun a b => a <<< (b.toNat % 64)), (.shr o, fun a b => a >>> (b.toNat % 64)),
    (.sar o, fun a b => a.sshiftRight (b.toNat % 64)), (.rol o, fun a b => a.rotateLeft (b.toNat % 64)),
    (.min o, fun a b => if a.slt b then a else b), (.max o, fun a b => if a.slt b then b else a),
    (.minz o, fun a b => if a < b then a else b), (.maxz o, fun a b => if a < b then b else a),
    (.slt o, fun a b => if a.slt b then 1 else 0), (.sltz o, fun a b => if a < b then 1 else 0),
    (.mul o, fun a b => a * b),
    (.mulh o, fun a b => (a.signExtend 128 * b.signExtend 128).extractLsb' 64 64),
    (.mulhz o, fun a b => (a.zeroExtend 128 * b.zeroExtend 128).extractLsb' 64 64),
    (.div o, fun a b => if b = 0 then 0xFFFF_FFFF_FFFF_FFFF else a.sdiv b),
    (.divz o, fun a b => if b = 0 then 0xFFFF_FFFF_FFFF_FFFF else a / b),
    (.rem o, fun a b => if b = 0 then a else a.srem b), (.remz o, fun a b => if b = 0 then a else a % b)]

/-- The unary members of major 0x0D, each with what its row says of the value. -/
def unaryRows (o : OpSR1) : List (Instr × (W64 → W64 → Prop)) :=
  [(.clz o, fun a v => v.toNat ≤ 64 ∧ a.toNat < 2 ^ (64 - v.toNat) ∧ (v.toNat < 64 → 2 ^ (63 - v.toNat) ≤ a.toNat)),
    (.ctz o, fun a v => v.toNat ≤ 64 ∧ (∀ k, k < v.toNat → a.getLsbD k = false) ∧ (v.toNat < 64 → a.getLsbD v.toNat = true)),
    (.popc o, fun a v => v.toNat = ((List.range 64).filter a.getLsbD).length),
    (.brev o, fun a v => ∀ k, k < 64 → v.getLsbD (63 - k) = a.getLsbD k),
    (.sextb o, fun a v => v = (a.setWidth 8).signExtend 64), (.sexth o, fun a v => v = (a.setWidth 16).signExtend 64),
    (.sextw o, fun a v => v = (a.setWidth 32).signExtend 64), (.zextw o, fun a v => v = (a.setWidth 32).zeroExtend 64)]

/-- The immediate members of majors 0x0E and 0x0F. -/
def immediateRows (o : OpSI) : List (Instr × (W64 → W64 → W64)) :=
  [(.addi o, fun a b => a + b), (.slti o, fun a b => if a.slt b then 1 else 0),
    (.sltiz o, fun a b => if a < b then 1 else 0), (.andi o, fun a b => a &&& b), (.ori o, fun a b => a ||| b),
    (.xori o, fun a b => a ^^^ b)]

/-- The shifts of major 0x10. -/
def shiftRows (o : OpSh) : List (Instr × (W64 → Nat → W64)) :=
  [(.shli o, fun a n => a <<< n), (.shri o, fun a n => a >>> n), (.sari o, fun a n => a.sshiftRight n),
    (.roli o, fun a n => a.rotateLeft n)]

section
variable {i : Instr} {s : State}

/-- A word without a vector source that completes. -/
theorem wordG_retires {uses : List Use} {body : State → List VReg → Res} {t : State} {n : Next} (h : MayGo i uses s)
    (hb : body s (sourceRegs s.me uses []) = .done t n) (hl : leaveWord s uses t = t) :
    wordG i uses s body = .next (retire n t) := by
  rw [wordG_done h hb, hl]

theorem scalar2_done {o : OpSR} {f : W64 → W64 → W64} {v : W64} (hv : f (s.me.readS o.sa.toNat) (s.me.readS o.sb.toNat) = v)
    (h : MayGo i [.ss o.sa.toNat o.ta 1, .ss o.sb.toNat o.tb 2, .sd o.sd.toNat] s) :
    scalar2 i o f s = .next (retire .seq (putS o.sd.toNat v s)) := by
  rw [← hv]
  exact wordG_retires h rfl (leaveWord_same _ _ _ rfl)

theorem scalar1_done {o : OpSR1} {f : W64 → W64} {r : W64 → Prop} (hr : r (f (s.me.readS o.sa.toNat)))
    (h : MayGo i [.ss o.sa.toNat o.ta 1, .sd o.sd.toNat] s) :
    ∃ v, r v ∧ scalar1 i o f s = .next (retire .seq (putS o.sd.toNat v s)) :=
  ⟨_, hr, wordG_retires h rfl (leaveWord_same _ _ _ rfl)⟩

theorem scalarImm_done {o : OpSI} {f : W64 → W64 → W64} {v : W64} (hv : f (s.me.readS o.sa.toNat) (o.imm.signExtend 64) = v)
    (h : MayGo i [.ss o.sa.toNat false 1, .sd o.sd.toNat] s) :
    scalarImm i o f s = .next (retire .seq (putS o.sd.toNat v s)) := by
  rw [← hv]
  exact wordG_retires h rfl (leaveWord_same _ _ _ rfl)

theorem scalarShift_done {o : OpSh} {f : W64 → W64 → W64} {v : W64} (hv : f (s.me.readS o.sa.toNat) (o.amt.zeroExtend 64) = v)
    (h : MayGo i [.ss o.sa.toNat false 1, .sd o.sd.toNat] s) :
    scalarShift i o f s = .next (retire .seq (putS o.sd.toNat v s)) := by
  rw [← hv]
  exact wordG_retires h rfl (leaveWord_same _ _ _ rfl)

/-- An immediate amount is below 64, so that taking it modulo 64 changes nothing. -/
theorem amount64_immediate (n : BitVec 6) : amount64 (n.zeroExtend 64) = n.toNat := by
  have small := n.isLt
  simp only [amount64, BitVec.truncate_eq_setWidth, BitVec.toNat_setWidth]
  omega

end

section
variable (s : State)

theorem exec_binaryRows (o : OpSR) : ∀ p ∈ binaryRows o,
    MayGo p.1 [.ss o.sa.toNat o.ta 1, .ss o.sb.toNat o.tb 2, .sd o.sd.toNat] s →
    exec p.1 s = .next (retire .seq (putS o.sd.toNat (p.2 (s.me.readS o.sa.toNat) (s.me.readS o.sb.toNat)) s)) := by
  simp only [binaryRows, List.forall_mem_cons, List.not_mem_nil, false_implies, implies_true, and_true]
  dsimp only [exec]
  exact ⟨scalar2_done rfl, scalar2_done rfl, scalar2_done rfl, scalar2_done rfl, scalar2_done rfl, scalar2_done rfl,
    scalar2_done rfl, scalar2_done rfl, scalar2_done rfl, scalar2_done rfl, scalar2_done (opMin_eq _ _),
    scalar2_done (opMax_eq _ _), scalar2_done (opMinz_eq _ _), scalar2_done (opMaxz_eq _ _), scalar2_done (opSlt_eq _ _),
    scalar2_done rfl, scalar2_done rfl, scalar2_done (opMulh_eq _ _), scalar2_done (opMulhz_eq _ _), scalar2_done (opDiv_eq _ _),
    scalar2_done (opDivz_eq _ _), scalar2_done (opRem_eq _ _), scalar2_done (opRemz_eq _ _)⟩

theorem zeroExtend_low (a : W64) : BitVec.ofNat 64 (a.toNat % 2 ^ 32) = (a.setWidth 32).zeroExtend 64 := by
  apply BitVec.eq_of_toNat_eq
  simp

theorem exec_unaryRows (o : OpSR1) : ∀ p ∈ unaryRows o, MayGo p.1 [.ss o.sa.toNat o.ta 1, .sd o.sd.toNat] s →
    ∃ v, p.2 (s.me.readS o.sa.toNat) v ∧ exec p.1 s = .next (retire .seq (putS o.sd.toNat v s)) := by
  simp only [unaryRows, List.forall_mem_cons, List.not_mem_nil, false_implies, implies_true, and_true]
  dsimp only [exec]
  exact ⟨scalar1_done (opClz_spec _), scalar1_done (opCtz_spec _), scalar1_done (opPopc_toNat _),
    scalar1_done fun _ => opBrev_getLsbD _, scalar1_done rfl, scalar1_done rfl, scalar1_done rfl,
    scalar1_done (zeroExtend_low _)⟩

theorem exec_immediateRows (o : OpSI) : ∀ p ∈ immediateRows o, MayGo p.1 [.ss o.sa.toNat false 1, .sd o.sd.toNat] s →
    exec p.1 s = .next (retire .seq (putS o.sd.toNat (p.2 (s.me.readS o.sa.toNat) (o.imm.signExtend 64)) s)) := by
  simp only [immediateRows, List.forall_mem_cons, List.not_mem_nil, false_implies, implies_true, and_true]
  dsimp only [exec]
  exact ⟨scalarImm_done rfl, scalarImm_done (opSlt_eq _ _), scalarImm_done rfl, scalarImm_done rfl, scalarImm_done rfl,
    scalarImm_done rfl⟩

theorem exec_shiftRows (o : OpSh) : ∀ p ∈ shiftRows o, MayGo p.1 [.ss o.sa.toNat false 1, .sd o.sd.toNat] s →
    exec p.1 s = .next (retire .seq (putS o.sd.toNat (p.2 (s.me.readS o.sa.toNat) o.amt.toNat) s)) := by
  simp only [shiftRows, List.forall_mem_cons, List.not_mem_nil, false_implies, implies_true, and_true]
  rw [← amount64_immediate o.amt]
  dsimp only [exec]
  exact ⟨scalarShift_done rfl, scalarShift_done rfl, scalarShift_done rfl, scalarShift_done rfl⟩

/-- A shift by twelve places is a product with 4096. -/
theorem upper20_eq (imm : BitVec 20) : upper20 imm = imm.signExtend 64 * 4096 := BitVec.shiftLeft_eq_mul_twoPow _ 12

theorem execLis_done (o : OpSL) (h : MayGo (.lis o) [.sd o.sd.toNat] s) :
    exec (.lis o) s = .next (retire .seq (putS o.sd.toNat (o.imm.signExtend 64 * 4096) s)) := by
  rw [← upper20_eq]
  dsimp only [exec, execLis]
  exact wordG_retires h rfl (leaveWord_same _ _ _ rfl)

theorem execAddpc_done (o : OpSL) (h : MayGo (.addpc o) [.sd o.sd.toNat] s) :
    exec (.addpc o) s = .next (retire .seq (putS o.sd.toNat (s.me.pc + o.imm.signExtend 64 * 4096) s)) := by
  rw [← upper20_eq]
  dsimp only [exec, execAddpc]
  exact wordG_retires h rfl (leaveWord_same _ _ _ rfl)

theorem execLihi_done (o : OpSL) (h : MayGo (.lihi o) [.ss o.sd.toNat false 1, .sd o.sd.toNat] s) :
    exec (.lihi o) s = .next (retire .seq (putS o.sd.toNat (s.me.readS o.sd.toNat * 2 ^ 20 ||| o.imm.zeroExtend 64) s)) := by
  have shifted : s.me.readS o.sd.toNat <<< 20 = s.me.readS o.sd.toNat * 2 ^ 20 := BitVec.shiftLeft_eq_mul_twoPow _ 20
  rw [← shifted]
  dsimp only [exec, execLihi]
  exact wordG_retires h rfl (leaveWord_same _ _ _ rfl)

end

/-- Settles O13: each function of the model is the value of its row, and the word that computes it completes. -/
theorem scalarArithmetic : Obligations.ScalarArithmetic := by
  unfold Obligations.ScalarArithmetic
  exact ⟨fun o s i f hm => exec_binaryRows s o (i, f) hm, fun o s i r hm => exec_unaryRows s o (i, r) hm,
    fun o s i f hm => exec_immediateRows s o (i, f) hm, fun o s i f hm => exec_shiftRows s o (i, f) hm,
    fun o s => execLis_done s o, fun o s => execAddpc_done s o, fun o s => execLihi_done s o⟩

/-! ## Branches, jumps and calls (05 R151, R152) -/

/-- A pinned loop that is suspended stays through a branch, and an active one ends (04 R121, R122). -/
theorem Group.loopAfterBranch_eq (g : Group) : g.loopAfterBranch = g.loop.filter (fun l => l.suspended) := by
  unfold Group.loopAfterBranch
  cases g.loop with
  | none => rfl
  | some l => cases h : l.suspended <;> simp [Option.filter, h]

/-- Four bytes to a word of an offset. -/
theorem shiftLeft_two (x : W64) : x <<< 2 = x * 4 := BitVec.shiftLeft_eq_mul_twoPow x 2

/-- The target of a taken branch, which every jump and call goes to in the same way. -/
theorem jumpTo_eq (t : W64) (s : State) : jumpTo t s = .done s (.goto t (s.me.loop.filter (fun l => l.suspended))) := by
  rw [jumpTo, Group.loopAfterBranch_eq]

/-- A branch goes to its target or on to the next word. -/
def branchNext (g : Group) (off : BitVec 16) (taken : Bool) : Next :=
  if taken then .goto (g.pc + off.signExtend 64 * 4) (g.loop.filter (fun l => l.suspended)) else .seq

theorem branch_done {i : Instr} {uses : List Use} {off : BitVec 16} {taken : Group → Bool} {s : State} {c : Bool}
    (hl : leaveWord s uses s = s) (hc : taken s.me = c) (h : MayGo i uses s) :
    branch i uses off taken s = .next (retire (branchNext s.me off c) s) := by
  refine wordG_retires h ?_ hl
  rw [jumpTo_eq, shiftLeft_two, ← hc, branchNext]
  cases taken s.me <;> rfl

/-- The signed value of a register against zero. -/
theorem beq_zero_eq (v : W64) : (v == 0) = decide (v.toInt = 0) := by
  rw [Bool.eq_iff_iff, beq_iff_eq, decide_eq_true_iff, ← BitVec.toInt_inj]
  rfl

theorem bne_zero_eq (v : W64) : (v != 0) = decide (v.toInt ≠ 0) := by
  rw [bne, beq_zero_eq, decide_not]

/-- A predicate counts at live slots alone (04 R103). -/
theorem Group.predLive_getLsbD (g : Group) (n : Nat) {k : Nat} (hk : k < 32) :
    (g.predLive n).getLsbD k = (g.live k && (g.readP n).getLsbD k) := by
  rw [Group.predLive, BitVec.getLsbD_and, g.liveMask_getLsbD k hk, Bool.and_comm]

/-- A mask is 0 exactly where it has no bit. -/
theorem eq_zero_iff_bits (x : W32) : x = 0 ↔ ∀ k, k < 32 → x.getLsbD k = false := by
  refine ⟨fun h k _ => by rw [h]; exact BitVec.getLsbD_zero, fun h => BitVec.eq_of_getLsbD_eq fun k hk => ?_⟩
  rw [h k hk]
  exact BitVec.getLsbD_zero.symm

theorem Group.predNone_eq (g : Group) (n : Nat) :
    (g.predLive n == 0) = (List.range 32).all (fun k => !(g.live k && (g.readP n).getLsbD k)) := by
  rw [Bool.eq_iff_iff, beq_iff_eq, eq_zero_iff_bits, List.all_eq_true]
  refine forall_congr' fun k => ?_
  rw [List.mem_range, Bool.not_eq_true']
  exact imp_congr_right fun hk => by rw [g.predLive_getLsbD n hk]

theorem Group.predAny_eq (g : Group) (n : Nat) :
    (g.predLive n != 0) = (List.range 32).any (fun k => g.live k && (g.readP n).getLsbD k) := by
  rw [bne, g.predNone_eq, ← List.not_any_eq_all_not, Bool.not_not]

theorem Group.predAll_eq (g : Group) (n : Nat) :
    (g.predLive n == g.liveMask) = (List.range 32).all (fun k => !g.live k || (g.readP n).getLsbD k) := by
  rw [Bool.eq_iff_iff, beq_iff_eq, List.all_eq_true]
  have slot (k : Nat) (hk : k < 32) : (g.predLive n).getLsbD k = g.liveMask.getLsbD k
      ↔ (!g.live k || (g.readP n).getLsbD k) = true := by
    rw [g.predLive_getLsbD n hk, g.liveMask_getLsbD k hk]
    cases g.live k <;> simp
  exact ⟨fun h k hk => (slot k (List.mem_range.mp hk)).mp (by rw [h]),
    fun h => BitVec.eq_of_getLsbD_eq fun k hk => (slot k hk).mpr (h k (List.mem_range.mpr hk))⟩

/-- The conditions on a scalar register, each with what it asks of the value. -/
def scalarBranches (o : OpBr) (v : W64) : List (Instr × Bool) :=
  [(.bEqz o, decide (v.toInt = 0)), (.bNez o, decide (v.toInt ≠ 0)), (.bLtz o, decide (v.toInt < 0)),
    (.bGez o, decide (v.toInt ≥ 0)), (.bGtz o, decide (v.toInt > 0)), (.bLez o, decide (v.toInt ≤ 0))]

/-- The conditions on a predicate, each with what it asks of the live slots. -/
def predicateBranches (o : OpBrP) (g : Group) : List (Instr × Bool) :=
  [(.bPany o, (List.range 32).any (fun k => g.live k && (g.readP o.pa.toNat).getLsbD k)),
    (.bPnone o, (List.range 32).all (fun k => !(g.live k && (g.readP o.pa.toNat).getLsbD k))),
    (.bPall o, (List.range 32).all (fun k => !g.live k || (g.readP o.pa.toNat).getLsbD k))]

section
variable (s : State)

theorem exec_scalarBranches (o : OpBr) : ∀ p ∈ scalarBranches o (s.me.readS o.sa.toNat),
    MayGo p.1 [.ss o.sa.toNat false 1] s → exec p.1 s = .next (retire (branchNext s.me o.off p.2) s) := by
  have leaves : leaveWord s [.ss o.sa.toNat false 1] s = s := leaveWord_same _ _ _ rfl
  simp only [scalarBranches, List.forall_mem_cons, List.not_mem_nil, false_implies, implies_true, and_true]
  dsimp only [exec]
  exact ⟨branch_done leaves (beq_zero_eq _), branch_done leaves (bne_zero_eq _), branch_done leaves rfl, branch_done leaves rfl,
    branch_done leaves rfl, branch_done leaves rfl⟩

theorem exec_predicateBranches (o : OpBrP) : ∀ p ∈ predicateBranches o s.me, MayGo p.1 [] s →
    exec p.1 s = .next (retire (branchNext s.me o.off p.2) s) := by
  have leaves : leaveWord s [] s = s := leaveWord_same _ _ _ rfl
  simp only [predicateBranches, List.forall_mem_cons, List.not_mem_nil, false_implies, implies_true, and_true]
  dsimp only [exec]
  exact ⟨branch_done leaves (s.me.predAny_eq _), branch_done leaves (s.me.predNone_eq _), branch_done leaves (s.me.predAll_eq _)⟩

theorem execBAlways_done (o : OpBrAlways) (h : MayGo (.bAlways o) [] s) :
    exec (.bAlways o) s = .next (retire (branchNext s.me o.off true) s) := by
  dsimp only [exec, execBAlways]
  exact branch_done (leaveWord_same _ _ _ rfl) rfl h

theorem jpTarget_eq (pc : W64) (off : BitVec 26) : jpTarget pc off = pc + off.signExtend 64 * 4 := by
  rw [jpTarget, shiftLeft_two]

theorem execJ_done (o : OpJ) (h : MayGo (.j o) [] s) : exec (.j o) s
    = .next (retire (.goto (s.me.pc + o.off.signExtend 64 * 4) (s.me.loop.filter (fun l => l.suspended))) s) := by
  rw [← jpTarget_eq]
  dsimp only [exec, execJ]
  exact wordG_retires h (jumpTo_eq _ _) (leaveWord_same _ _ _ rfl)

/-- The link register is no part of a loop. -/
theorem jumpTo_putS (t : W64) (n : Nat) (v : W64) :
    jumpTo t (putS n v s) = .done (putS n v s) (.goto t (s.me.loop.filter (fun l => l.suspended))) := by
  rw [jumpTo_eq, me_putS, Group.writeS_loop]

theorem execCall_done (o : OpJ) (h : MayGo (.call o) [.sd 63] s) : exec (.call o) s
    = .next (retire (.goto (s.me.pc + o.off.signExtend 64 * 4) (s.me.loop.filter (fun l => l.suspended)))
      (putS 63 (s.me.pc + 4) s)) := by
  rw [← jpTarget_eq]
  dsimp only [exec, execCall]
  exact wordG_retires h (jumpTo_putS ..) (leaveWord_same _ _ _ rfl)

theorem execJr_done (o : OpJr) (h : MayGo (.jr o) [.ss o.sa.toNat o.ta 1] s) : exec (.jr o) s
    = .next (retire (.goto (s.me.readS o.sa.toNat &&& 0xFFFF_FFFF_FFFF_FFFC) (s.me.loop.filter (fun l => l.suspended))) s) := by
  dsimp only [exec, execJr]
  exact wordG_retires h (jumpTo_eq _ _) (leaveWord_same _ _ _ rfl)

theorem execCallr_done (o : OpJr) (h : MayGo (.callr o) [.ss o.sa.toNat o.ta 1, .sd 63] s) : exec (.callr o) s
    = .next (retire (.goto (s.me.readS o.sa.toNat &&& 0xFFFF_FFFF_FFFF_FFFC) (s.me.loop.filter (fun l => l.suspended)))
      (putS 63 (s.me.pc + 4) s)) := by
  dsimp only [exec, execCallr]
  exact wordG_retires h (jumpTo_putS ..) (leaveWord_same _ _ _ rfl)

end

/-! ## The words of BR, JP and SR format (04 R103) -/

/-- The condition number of each branch on a scalar register. -/
def scalarCodes (o : OpBr) : List (Instr × Nat) :=
  [(.bEqz o, 0), (.bNez o, 1), (.bLtz o, 2), (.bGez o, 3), (.bGtz o, 4), (.bLez o, 5)]

def predicateCodes (o : OpBrP) : List (Instr × Nat) := [(.bPany o, 6), (.bPnone o, 7), (.bPall o, 8)]

open Laws.RoundTrip in
theorem encode_scalarCodes (o : OpBr) : ∀ p ∈ scalarCodes o,
    (encode p.1).toNat = 0x06 * 2 ^ 26 + p.2 * 2 ^ 22 + (o.sa.toNat * 2 ^ 16 + o.off.toNat) := by
  have word (n : Nat) (hn : n < 16) : (o.pack (0x06 * 2 ^ 26 + n * 2 ^ 22)).toNat
      = 0x06 * 2 ^ 26 + n * 2 ^ 22 + (o.sa.toNat * 2 ^ 16 + o.off.toNat) := by
    rw [OpBr_val _ o (by omega), Nat.add_assoc]
  simp only [scalarCodes, List.forall_mem_cons, List.not_mem_nil, false_implies, implies_true, and_true]
  exact ⟨word 0 (by decide), word 1 (by decide), word 2 (by decide), word 3 (by decide), word 4 (by decide), word 5 (by decide)⟩

open Laws.RoundTrip in
theorem encode_predicateCodes (o : OpBrP) : ∀ p ∈ predicateCodes o,
    (encode p.1).toNat = 0x06 * 2 ^ 26 + p.2 * 2 ^ 22 + (o.pa.toNat * 2 ^ 16 + o.off.toNat) := by
  have word (n : Nat) (hn : n < 16) : (o.pack (0x06 * 2 ^ 26 + n * 2 ^ 22)).toNat
      = 0x06 * 2 ^ 26 + n * 2 ^ 22 + (o.pa.toNat * 2 ^ 16 + o.off.toNat) := by
    rw [OpBrP_val _ o (by omega), Nat.add_assoc]
  simp only [predicateCodes, List.forall_mem_cons, List.not_mem_nil, false_implies, implies_true, and_true]
  exact ⟨word 6 (by decide), word 7 (by decide), word 8 (by decide)⟩

open Laws.RoundTrip in
/-- Settles O15: the lemma of each condition, target and format. -/
theorem branchesAndCalls : Obligations.BranchesAndCalls := by
  unfold Obligations.BranchesAndCalls
  refine ⟨fun s i uses off taken hform hg => ?_, ⟨fun o s => execJ_done s o, fun o s => execCall_done s o,
    fun o s => execJr_done s o, fun o s => execCallr_done s o⟩, fun b p a j r => ⟨fun i n hm => encode_scalarCodes b (i, n) hm,
      fun i n hm => encode_predicateCodes p (i, n) hm, OpBrAlways_val _ a (by decide), OpJ_val _ j (by decide),
      OpJ_val _ j (by decide), OpJr_val _ r (by decide), OpJr_val _ r (by decide)⟩⟩
  rcases hform with ⟨o, rfl, rfl, hm⟩ | ⟨o, rfl, rfl, hm⟩ | ⟨o, rfl, rfl, rfl, rfl⟩
  · exact exec_scalarBranches s o (i, taken) hm hg
  · exact exec_predicateBranches s o (i, taken) hm hg
  · exact execBAlways_done s o hg

/-! ## What they leave alone (05 R151 to R153, R155) -/

/-- An instruction that a list names is one of its rows. -/
theorem row_of_mem {α : Type} {i : Instr} {rows : List (Instr × α)} (h : i ∈ rows.map Prod.fst) : ∃ x, (i, x) ∈ rows := by
  obtain ⟨⟨_, x⟩, hm, rfl⟩ := List.mem_map.mp h
  exact ⟨x, hm⟩

/-- Settles O14: each word is a write of one scalar register, or none, and a retirement (O13, O15), which leave all else
(`frame_of_putS`, `frame_of_nothing`). -/
theorem scalarFrame : Obligations.ScalarFrame := by
  unfold Obligations.ScalarFrame
  refine ⟨fun s t i ht hc => ⟨fun o hi hg => ?_, fun o hi hg => ?_, fun o hi hg => ?_, fun o hi hg => ?_, fun o hi hg => ?_,
    fun o hi hg => ?_⟩, fun s t i ht hc => ⟨fun o hi hg => ?_, fun o hi hg => ?_, fun o hi hg => ?_, fun o hi hg => ?_,
      fun o hi hg => ?_, fun o hi hg => ?_, fun o hi hg => ?_⟩⟩
  · obtain ⟨f, hm⟩ := row_of_mem (rows := binaryRows o) hi
    exact frame_of_putS (exec_binaryRows s o (i, f) hm hg) ht hc
  · obtain ⟨r, hm⟩ := row_of_mem (rows := unaryRows o) hi
    obtain ⟨v, -, he⟩ := exec_unaryRows s o (i, r) hm hg
    exact frame_of_putS he ht hc
  · obtain ⟨f, hm⟩ := row_of_mem (rows := immediateRows o) hi
    exact frame_of_putS (exec_immediateRows s o (i, f) hm hg) ht hc
  · obtain ⟨f, hm⟩ := row_of_mem (rows := shiftRows o) hi
    exact frame_of_putS (exec_shiftRows s o (i, f) hm hg) ht hc
  · simp only [List.mem_cons, List.not_mem_nil, or_false] at hi
    rcases hi with rfl | rfl
    · exact frame_of_putS (execLis_done s o hg) ht hc
    · exact frame_of_putS (execAddpc_done s o hg) ht hc
  · subst hi
    exact frame_of_putS (execLihi_done s o hg) ht hc
  · obtain ⟨c, hm⟩ := row_of_mem (rows := scalarBranches o (s.me.readS o.sa.toNat)) hi
    exact frame_of_nothing (exec_scalarBranches s o (i, c) hm hg) ht hc
  · obtain ⟨c, hm⟩ := row_of_mem (rows := predicateBranches o s.me) hi
    exact frame_of_nothing (exec_predicateBranches s o (i, c) hm hg) ht hc
  · subst hi
    exact frame_of_nothing (execBAlways_done s o hg) ht hc
  · subst hi
    exact frame_of_nothing (execJ_done s o hg) ht hc
  · subst hi
    exact frame_of_putS (execCall_done s o hg) ht hc
  · subst hi
    exact frame_of_nothing (execJr_done s o hg) ht hc
  · subst hi
    exact frame_of_putS (execCallr_done s o hg) ht hc

end Sys2Proof.Machine
end

section
/-!
TRAPS AND RETURNS (O9, O10, O21). What entering a handler saves and where it goes, what a halt keeps, the return from a handler, and
the words that trap by themselves.
-/

namespace Sys2Proof.Machine

/-! ## Entering a handler, and halting instead (05 R124, R128) -/

theorem isDebugEvent_iff (code : Nat) : isDebugEvent code = true ↔ code = 0x0D ∨ code = 0x0F ∨ code = 0x10 := by
  simp [isDebugEvent, or_assoc]

theorem isDebugEvent_eq (code : Nat) : isDebugEvent code = decide (code = 0x0D ∨ code = 0x0F ∨ code = 0x10) := by
  rw [Bool.eq_iff_iff, isDebugEvent_iff, decide_eq_true_iff]

/-- The address of the handler that a trap enters (05 R124, R128). -/
def Group.handler (g : Group) (code : Nat) : W64 :=
  if code = 0x11 then g.pvec else if code = 0x0D ∨ code = 0x0F ∨ code = 0x10 then g.dvec else g.tvec

theorem Group.handler_eq (g : Group) (code : Nat) :
    (if code = 17 then g.pvec else if isDebugEvent code then g.dvec else g.tvec) = g.handler code := by
  simp only [Group.handler, isDebugEvent_iff]

/-- The group halts where a handler is active, the vector is 0, or a debug event finds no debugger. -/
def Halts (s : State) (g : Group) (code : Nat) : Prop :=
  g.hact = true ∨ g.dact = true ∨ g.pact = true ∨ g.handler code = 0
    ∨ ((code = 0x0D ∨ code = 0x0F ∨ code = 0x10) ∧ (vfAt s g.vf).dbg.dctl.getLsbD 0 = false)

theorem halts_iff (s : State) (g : Group) (code : Nat) :
    (g.hact || g.dact || g.pact || (if code = 17 then g.pvec else if isDebugEvent code then g.dvec else g.tvec) == 0
      || (isDebugEvent code && !dattOf s g)) = true ↔ Halts s g code := by
  rw [g.handler_eq]
  simp only [Bool.or_eq_true, Bool.and_eq_true, beq_iff_eq, Bool.not_eq_true', isDebugEvent_iff, Halts, dattOf, or_assoc]

section
variable {s : State} {q code : Nat} {info ret : W64}

/-- The group in its handler. -/
theorem groupAt_takeTrap_enters (h : ¬ Halts s (groupAt s q) code) : groupAt (takeTrap q code info ret s) q =
    { (groupAt s q).unmark with
      tpc := ret, tcode := BitVec.ofNat 64 code, tinfo := info, trep := (groupAt s q).trepNow
      hact := !isDebugEvent code && code != 17, dact := isDebugEvent code, pact := code == 17
      pc := (groupAt s q).handler code, hint := none, rep := none, repResume := none, barHalf := false, blocked := none
      step := .off, failPages := [], suppress := (groupAt s q).suppress && (code == 16 || code == 17)
      loop := (groupAt s q).loop.map (fun l => { l with suspended := true }) } := by
  have enters := Bool.eq_false_iff.mpr (mt (halts_iff s (groupAt s q) code).mp h)
  simp only [Halts, not_or, Bool.not_eq_true] at h
  obtain ⟨hact, dact, pact, -⟩ := h
  rw [takeTrap_enters enters, groupAt_modGroup_same, groupAt_capture, Group.handler_eq, hact, dact, pact]
  rfl

theorem groupAt_takeTrap_other (h : ¬ Halts s (groupAt s q) code) {k : Nat} (hk : k ≠ q) :
    groupAt (takeTrap q code info ret s) k = groupAt s k := by
  have enters := Bool.eq_false_iff.mpr (mt (halts_iff s (groupAt s q) code).mp h)
  rw [takeTrap_enters enters, groupAt_modGroup_other _ _ _ _ hk, groupAt_capture]

/-- The group that halts. -/
theorem groupAt_takeTrap_halts (h : Halts s (groupAt s q) code) : ∃ k b, groupAt (takeTrap q code info ret s) q =
    { (groupAt s q).unmark with
      st := .halted, halt := { code := BitVec.ofNat 8 code, info := info, ret := ret }, pc := ret, rep := none
      repResume := k, hint := none, step := (groupAt s q).stepLeft
      active := false, cache := [], haltReq := none, blocked := b } := by
  have hint : Group.hintBack { groupAt s q with hint := none, step := (groupAt s q).stepLeft } = none := by
    unfold Group.hintBack
    cases (groupAt s q).rep <;> rfl
  rw [takeTrap_halts ((halts_iff s (groupAt s q) code).mpr h), groupAt_haltGroup, groupAt_modGroup_same, groupAt_capture, hint]
  exact ⟨_, _, rfl⟩

end

theorem Group.stepLeft_eq (g : Group) : g.stepLeft = if g.step = .afterEret then .afterEret else .off := by
  simp only [Group.stepLeft, beq_iff_eq]

/-- Settles O9: the two outcomes of a trap, by what R124 and R128 ask for a handler (`halts_iff`). -/
theorem traps : Obligations.Traps := by
  unfold Obligations.Traps
  refine ⟨fun s q code info ret => ?_, fun s q code info ret => ?_⟩
  · intro g debug vec hh hd hp hv hdbg
    have enters : ¬ Halts s g code := by
      rintro (h | h | h | h | ⟨h, h'⟩)
      · exact Bool.false_ne_true (hh.symm.trans h)
      · exact Bool.false_ne_true (hd.symm.trans h)
      · exact Bool.false_ne_true (hp.symm.trans h)
      · exact hv h
      · exact Bool.false_ne_true (h'.symm.trans (hdbg h))
    refine ⟨?_, fun q' hq => groupAt_takeTrap_other enters hq⟩
    rw [groupAt_takeTrap_enters enters, isDebugEvent_eq]
    unfold Group.trepNow
    cases (groupAt s q).rep <;> cases (groupAt s q).repResume <;> rfl
  · intro g debug vec hhalts
    have halts : Halts s g code := hhalts
    obtain ⟨k, b, halted⟩ := groupAt_takeTrap_halts (info := info) (ret := ret) halts
    rw [halted, ← g.stepLeft_eq]
    exact ⟨rfl, rfl, rfl, rfl, rfl, rfl, rfl, rfl, rfl, rfl, rfl, rfl, rfl, rfl, rfl, rfl, rfl, rfl, rfl⟩

/-! ## The return from a handler (05 R130) -/

theorem eretState_me (s : State) : (eretState s).me = { s.me with
    hact := false, dact := false, pact := false, trep := s.me.trep &&& ~~~(0xC0 : W64), suppress := s.me.dact } := me_modMe _ s

/-- A return resumes where it says (04 R114, R122). -/
theorem Group.retire_resume (g : Group) (c : Nat) (p : W64) (l : Option PinnedLoop) (k : Option Nat) (b : Bool) :
    (g.retire (.resume p l k b) c).pc = p ∧ (g.retire (.resume p l k b) c).loop = l ∧ (g.retire (.resume p l k b) c).hint = none
      ∧ (g.retire (.resume p l k b) c).rep = none ∧ (g.retire (.resume p l k b) c).repResume = k
      ∧ (g.retire (.resume p l k b) c).barHalf = b := ⟨rfl, rfl, rfl, rfl, rfl, rfl⟩

theorem calm_eretState {s : State} (hc : Calm s) : Calm (eretState s) := by
  obtain ⟨unarmed, untraced⟩ := hc
  exact ⟨by rwa [eretState_me], by rw [eretState_me]; exact untraced⟩

/-- What the loop becomes: a suspended one goes on where TPC lies in it. -/
def Group.loopAfterReturn (g : Group) : Option PinnedLoop :=
  g.loop.bind (fun l => if l.suspended then (if l.holds g.tpc then some { l with suspended := false, pos := none } else none)
    else some l)

theorem eretNext_eq (g : Group) : eretNext g = .resume g.tpc g.loopAfterReturn
    (if g.trep.getLsbD 6 then some (g.trep.toNat % 64) else none) (g.trep.getLsbD 7) := by
  unfold eretNext Group.loopAfterReturn
  cases g.loop with
  | none => rfl
  | some l => cases hs : l.suspended <;> cases hh : l.holds g.tpc <;> simp [hs, hh]

section
variable {s : State} (h : MayGo .eret [] s)
include h

theorem execEret_illegal (hh : s.me.hact = false) (hd : s.me.dact = false) (hp : s.me.pact = false) :
    exec .eret s = .next (takeTrap s.qid 0x01 0x14400000 s.me.pc s) := by
  dsimp only [exec, execEret]
  refine wordG_trap h (code := tIllegalOpcode) (info := (encode .eret).toNat) ?_
  simp [hh, hd, hp]

theorem execEret_returns (hh : s.me.hact = true ∨ s.me.dact = true ∨ s.me.pact = true) (hs : s.me.step ≠ .armed) :
    exec .eret s = .next (retire (eretNext s.me) (eretState s)) := by
  have handling : (s.me.hact || s.me.dact || s.me.pact) = true := by simpa [or_assoc] using hh
  dsimp only [exec, execEret]
  refine wordG_retires h ?_ (leaveWord_same _ _ _ rfl)
  simp only [handling, beq_eq_false_iff_ne.mpr hs, if_true, Bool.false_eq_true, if_false, takeReturn]

end

/-- Settles O10: ERET clears the handler's bits and TREP[7:6], and the retirement that follows, which leaves the rest
(`frame_retire`), resumes as `eretNext` says. -/
theorem returnFromHandler : Obligations.ReturnFromHandler := by
  unfold Obligations.ReturnFromHandler
  refine ⟨fun s h => execEret_illegal h, fun s h hh hc => ⟨_, execEret_returns h hh hc.1, ?_⟩⟩
  have calm := calm_eretState hc
  have cleared := eretState_me s
  have resumed := retire_me (eretNext s.me) (eretState s) calm
  have left := frame_retire (eretNext s.me) calm
  obtain ⟨pc, loop, hint, rep, repResume, barHalf⟩ := Group.retire_resume (eretState s).me (eretState s).cclk s.me.tpc
    s.me.loopAfterReturn (if s.me.trep.getLsbD 6 then some (s.me.trep.toNat % 64) else none) (s.me.trep.getLsbD 7)
  rw [← eretNext_eq, ← resumed] at pc loop hint rep repResume barHalf
  have flags : (retire (eretNext s.me) (eretState s)).me.fpstat = s.me.fpstat := by rw [resumed, Group.retire_fpstat, cleared]
  have regs := left.regs
  obtain ⟨mode, -⟩ := left.control
  obtain ⟨tcode, tpc, tinfo, trep, tvec, dvec, pvec, hact, dact, pact, level⟩ := left.trap
  rw [SameRegisters, cleared] at regs
  rw [cleared] at mode tcode tpc tinfo trep tvec dvec pvec hact dact pact level
  exact ⟨hact, dact, pact, pc, hint, rep, repResume, barHalf, trep, flags, mode, loop, regs,
    ⟨left.others.1, fun q hq => (left.others.2 q hq).trans (groupAt_modMe_other _ s q hq)⟩, left.memory, tpc, tcode, tinfo, tvec, dvec,
    pvec, level⟩

/-! ## TRAP and BRK (05 R148) -/

theorem tally_eq (cls vf n : Nat) (s : State) : ∃ bn, tally cls vf n s = { s with binder := bn } := by
  unfold tally
  split <;> exact ⟨_, rfl⟩

/-- What the issue of a word counts and samples: the cores, the Binder's tally and the trace. -/
theorem countIssue_eq (q : Nat) (g : Group) (s : State) : ∃ m l b d cs bn, countIssue q g s
    = { s with mem := m, lineKey := l, badLines := b, dies := d, cores := cs, binder := bn } := by
  unfold countIssue
  obtain ⟨_, issued⟩ := count_eq (coreOf q) evIssue g.vf 1 s
  rw [issued]
  obtain ⟨cs, aged⟩ := count_eq (coreOf q) evAged g.vf (if g.aged then 1 else 0) { s with cores := _ }
  rw [aged]
  obtain ⟨bn, tallied⟩ := tally_eq 0 g.vf 1 { s with cores := cs }
  rw [tallied]
  obtain ⟨m, l, b, d, traced⟩ := capture_eq (dieOf q) 0 0 g.vf (cgidOf q g) (some g.pc.toNat)
    (owe q g { s with cores := cs, binder := bn })
  exact ⟨m, l, b, d, _, bn, traced⟩

theorem retireWord_qid_me (n : Next) (s : State) :
    (retireWord n s).qid = s.qid ∧ (retireWord n s).me = s.me.retire n s.cclk := by
  obtain ⟨m, l, b, d, cs, bn, e⟩ := countIssue_eq s.qid s.me (modMe (fun g => g.retire n s.cclk) s)
  rw [retireWord, e]
  exact ⟨rfl, me_modMe (fun g => g.retire n s.cclk) s⟩

/-- TRAP retires first, so that the next word is its return address. -/
theorem execTrap_traps {o : OpImm} {s : State} (h : MayGo (.trap o) [] s) : exec (.trap o) s
    = .next (takeTrap s.qid 0x0E (o.imm.zeroExtend 64) (s.me.retire .seq s.cclk).pc
      (modMe (fun g => { g with step := if g.step = .afterEret then .afterEret else .off }) (retireWord .seq s))) := by
  simp only [← Group.stepLeft_eq]
  rw [← (retireWord_qid_me .seq s).2]
  dsimp only [exec, execTrap]
  rw [wordG_ended h rfl, me_modMe]
  rfl

theorem execBrk_traps {o : OpImm} {s : State} (h : MayGo (.brk o) [] s) :
    exec (.brk o) s = .next (takeTrap s.qid 0x0D (o.imm.zeroExtend 64) s.me.pc s) := by
  dsimp only [exec, execBrk]
  have info : BitVec.ofNat 64 o.imm.toNat = o.imm.zeroExtend 64 := BitVec.ofNat_toNat 64 o.imm
  rw [← info]
  exact wordG_trap h rfl

/-- Settles O21: TRAP retires and traps (`execTrap_traps`), BRK traps at its own address (`execBrk_traps`). -/
theorem trapAndBreak : Obligations.TrapAndBreak := by
  unfold Obligations.TrapAndBreak
  exact ⟨fun o s => execTrap_traps, fun o s => execBrk_traps⟩

end Sys2Proof.Machine
end
section
/-!
MODE, FILL AND THE SPECIAL REGISTERS (O18, O19). The fields of MODE, the rows of the special registers, and the counters of a core at
the end of a CCLK.
-/

namespace Sys2Proof.Machine

/-! ## Changes of the executing group -/

/-- Two changes of the executing group that agree on it are one. -/
theorem modMe_congr {f g : Group → Group} {s : State} (h : f s.me = g s.me) : modMe f s = modMe g s := by
  have at_me (f : Group → Group) : modMe f s = setGroup s.qid (f s.me) s := rfl
  rw [at_me, at_me, h]

theorem modCore_congr {c : Nat} {f g : Core → Core} {s : State} (h : f (coreAt s c) = g (coreAt s c)) :
    modCore c f s = modCore c g s := by
  unfold modCore
  rw [h]

/-! ## MODE (05 R139, R140; 02 R43) -/

/-- A field of MODE, of w bits from bit lo on, after a MODE word: replaced where its mask bit is set. -/
def modeField (o : OpMode) (m : W32) (bit lo w new : Nat) : Nat :=
  if o.mask.getLsbD bit then new else m.toNat / 2 ^ lo % 2 ^ w

theorem modeField_lt {o : OpMode} {m : W32} {bit lo w new : Nat} (h : new < 2 ^ w) : modeField o m bit lo w new < 2 ^ w := by
  unfold modeField
  split
  · exact h
  · exact Nat.mod_lt _ (Nat.two_pow_pos w)

/-- The six fields do not overlap, so that each is read back. -/
theorem modeSet_fields (o : OpMode) (m : W32) :
    (modeSet o m).toNat % 8 = modeField o m 0 0 3 o.grd.toNat
      ∧ (modeSet o m).toNat / 2 ^ 3 % 16 = modeField o m 1 3 4 o.et.toNat
      ∧ (modeSet o m).toNat / 2 ^ 7 % 8 = modeField o m 2 7 3 o.rnd.toNat
      ∧ (modeSet o m).toNat / 2 ^ 10 % 2 = modeField o m 3 10 1 o.sat.toNat
      ∧ (modeSet o m).toNat / 2 ^ 11 % 2 = modeField o m 4 11 1 o.ftz.toNat
      ∧ (modeSet o m).toNat / 2 ^ 12 % 2 = modeField o m 5 12 1 o.nanp.toNat ∧ (modeSet o m).toNat < 2 ^ 13 := by
  have grd := modeField_lt (o := o) (m := m) (bit := 0) (lo := 0) o.grd.isLt
  have et := modeField_lt (o := o) (m := m) (bit := 1) (lo := 3) o.et.isLt
  have rnd := modeField_lt (o := o) (m := m) (bit := 2) (lo := 7) o.rnd.isLt
  have sat := modeField_lt (o := o) (m := m) (bit := 3) (lo := 10) (w := 1) o.sat.toNat_lt
  have ftz := modeField_lt (o := o) (m := m) (bit := 4) (lo := 11) (w := 1) o.ftz.toNat_lt
  have nanp := modeField_lt (o := o) (m := m) (bit := 5) (lo := 12) (w := 1) o.nanp.toNat_lt
  have sum : modeSet o m = BitVec.ofNat 32 (modeField o m 0 0 3 o.grd.toNat * 2 ^ 0 + modeField o m 1 3 4 o.et.toNat * 2 ^ 3
      + modeField o m 2 7 3 o.rnd.toNat * 2 ^ 7 + modeField o m 3 10 1 o.sat.toNat * 2 ^ 10
      + modeField o m 4 11 1 o.ftz.toNat * 2 ^ 11 + modeField o m 5 12 1 o.nanp.toNat * 2 ^ 12) := rfl
  rw [sum, BitVec.toNat_ofNat]
  omega

/-- A bit of MODE is the field that it makes. -/
theorem getLsbD_of_modeField {o : OpMode} {m x : W32} {bit lo : Nat} {new : Bool}
    (h : x.toNat / 2 ^ lo % 2 = modeField o m bit lo 1 new.toNat) :
    x.getLsbD lo = if o.mask.getLsbD bit then new else m.getLsbD lo := by
  have digit (y : W32) : y.toNat / 2 ^ lo % 2 = (y.getLsbD lo).toNat := (Nat.toNat_testBit ..).symm
  rw [modeField, Nat.pow_one, digit, digit] at h
  rw [Bool.eq_iff_iff, ← Bool.toNat_eq_one, ← Bool.toNat_eq_one, h, apply_ite Bool.toNat]

section
variable {s : State}

theorem execMode_done {o : OpMode} (h : MayGo (.mode o) [] s) :
    exec (.mode o) s = .next (retire .seq (modMe (fun g => { g with mode := modeSet o s.me.mode }) s)) := by
  rw [modMe_congr (g := fun g => { g with mode := modeSet o g.mode }) rfl]
  dsimp only [exec, execMode]
  exact wordG_retires h rfl (leaveWord_same _ _ _ rfl)

/-- The values that MODE may not take (02 R43). -/
theorem modeBad_iff (v : W32) : modeBad v = true
    ↔ 2 ^ 13 ≤ v.toNat ∨ 8 < v.toNat / 2 ^ 3 % 16 ∨ v.toNat / 2 ^ 7 % 8 = 0 ∨ v.toNat / 2 ^ 7 % 8 = 7 := by
  simp only [modeBad, Bool.or_eq_true, decide_eq_true_eq, beq_iff_eq, or_assoc]
  rfl

section
variable {o : OpA} (h : MayGo (.modev o) [.ss o.sa.toNat false 1] s)
include h

theorem execModev_done (hb : modeBad ((s.me.readS o.sa.toNat).setWidth 32) = false) : exec (.modev o) s
    = .next (retire .seq (modMe (fun g => { g with mode := (s.me.readS o.sa.toNat).setWidth 32 }) s)) := by
  dsimp only [exec, execModev]
  refine wordG_retires h ?_ (leaveWord_same _ _ _ rfl)
  simp only [hb, Bool.false_eq_true, if_false]

theorem execModev_bad (hb : modeBad ((s.me.readS o.sa.toNat).setWidth 32) = true) : exec (.modev o) s
    = .next (takeTrap s.qid 0x02 (BitVec.ofNat 64 ((encode (.modev o)).toNat + 2 ^ 47 + o.sa.toNat * 2 ^ 40)) s.me.pc s) := by
  dsimp only [exec, execModev]
  refine wordG_trap h (code := tIllegalField) ?_
  simp only [hb, if_true]
  rfl

end

theorem execModer_done {o : OpD} (h : MayGo (.moder o) [.sd o.sd.toNat] s) :
    exec (.moder o) s = .next (retire .seq (putS o.sd.toNat (s.me.mode.zeroExtend 64) s)) := by
  dsimp only [exec, execModer]
  exact wordG_retires h rfl (leaveWord_same _ _ _ rfl)

theorem execFill_done {o : OpA} (h : MayGo (.fill o) [.ss o.sa.toNat false 1] s) : exec (.fill o) s
    = .next (retire .seq (modMe (fun g => { g with fill := (s.me.readS o.sa.toNat).setWidth 32 }) s)) := by
  rw [modMe_congr (g := fun g => { g with fill := (g.readS o.sa.toNat).setWidth 32 }) rfl]
  dsimp only [exec, execFill]
  exact wordG_retires h rfl (leaveWord_same _ _ _ rfl)

theorem execFillRd_done {o : OpD} (h : MayGo (.fillRd o) [.sd o.sd.toNat] s) :
    exec (.fillRd o) s = .next (retire .seq (putS o.sd.toNat (s.me.fill.zeroExtend 64) s)) := by
  dsimp only [exec, execFillRd]
  exact wordG_retires h rfl (leaveWord_same _ _ _ rfl)

end

/-- Settles O18: the fields of MODE are read back from their sum (`modeSet_fields`), and a reserved value is the one that R43 names
(`modeBad_iff`). -/
theorem modeAndFill : Obligations.ModeAndFill := by
  unfold Obligations.ModeAndFill
  refine ⟨fun o s _ h => ?_, fun o s h => ?_, fun o s => execModer_done, fun o s => execFill_done, fun o s => execFillRd_done⟩
  · obtain ⟨grd, et, rnd, sat, ftz, nanp, small⟩ := modeSet_fields o s.me.mode
    refine ⟨modeSet o s.me.mode, execMode_done h, ?_, et, rnd, getLsbD_of_modeField sat, getLsbD_of_modeField ftz,
      getLsbD_of_modeField nanp, small⟩
    rw [grd, modeField, Nat.pow_zero, Nat.div_one]
    rfl
  · intro v bad
    exact ⟨fun hb => execModev_done h (Bool.eq_false_iff.mpr (mt (modeBad_iff v).mp hb)),
      fun hb => execModev_bad h ((modeBad_iff v).mpr hb)⟩

/-! ## Reading a special register (05 R131 to R137) -/

/-- The number of a counter, or of its configuration, is one of sixteen. -/
theorem mem_sixteen {n b : Nat} : n ∈ (List.range 16).map (fun k => b + k) ↔ b ≤ n ∧ n ≤ b + 15 := by
  simp only [List.mem_map, List.mem_range]
  constructor
  · rintro ⟨k, hk, rfl⟩
    omega
  · intro h
    exact ⟨n - b, by omega, by omega⟩

/-- The special registers that are no counters, with what each reads. -/
def specialRows (s : State) : List (Nat × W64) :=
  [(0x000, s.time), (0x001, cgidOf s.qid s.me), (0x002, s.me.laneBase),
    (0x003, BitVec.ofNat 64 (s.myTeam.index % 2 ^ 16 + s.me.index % 16 * 2 ^ 16 + (s.myTeam.groups - 1) % 16 * 2 ^ 20)),
    (0x004, BitVec.ofNat 64 (s.me.vf % 512)), (0x005, s.me.fpstat.zeroExtend 64), (0x006, batchView s.me),
    (0x007, BitVec.ofNat 64 (64 + s.myTeam.vext)), (0x008, allotpView s.myTeam), (0x009, s.me.seed.zeroExtend 64),
    (0x00A, s.myTeam.memGen.zeroExtend 64), (0x010, s.me.tvec), (0x011, s.me.tcode), (0x012, s.me.tpc),
    (0x013, s.me.tinfo), (0x014, s.me.trep), (0x015, s.me.dvec), (0x016, s.me.pvec),
    (0x017, BitVec.ofNat 64 (s.me.level.toNat + 2 * (coopOf s s.me).toNat + 4 * s.me.hact.toNat + 8 * s.me.dact.toNat
      + 16 * s.me.pact.toNat + 32 * (dattOf s s.me).toNat))]

/-- PRIV is the sum of its bits (05 R136). -/
theorem privView_eq (s : State) (g : Group) : privView s g = BitVec.ofNat 64 (g.level.toNat + 2 * (coopOf s g).toNat
    + 4 * g.hact.toNat + 8 * g.dact.toNat + 16 * g.pact.toNat + 32 * (dattOf s g).toNat) := by
  have bit (x : Bool) (n : Nat) : (if x then 2 ^ n else 0) = 2 ^ n * x.toNat := by cases x <;> simp
  simp only [privView, bit]
  norm_num

section
variable (s : State)

theorem specialRead_rows : ∀ p ∈ specialRows s, specialRead s p.1 = some p.2 := by
  simp only [specialRows, List.forall_mem_cons, List.not_mem_nil, false_implies, implies_true, and_true]
  exact ⟨rfl, rfl, rfl, rfl, rfl, rfl, rfl, rfl, rfl, rfl, rfl, rfl, rfl, rfl, rfl, rfl, rfl, rfl,
    congrArg some (privView_eq s s.me)⟩

theorem specialRead_pmc {k : Nat} (hk : k < 16) :
    specialRead s (0x20 + k) = some (pmcView s (coreOf s.qid) k s.me.vf s.me.level) := by
  unfold specialRead
  dsimp only
  rw [if_pos (by omega), Nat.add_sub_cancel_left]

theorem specialRead_pmccfg {k : Nat} (hk : k < 16) :
    specialRead s (0x40 + k) = some (pmccfgView s (coreOf s.qid) k s.me.vf s.me.level) := by
  unfold specialRead
  dsimp only
  rw [if_neg (by omega), if_pos (by omega), Nat.add_sub_cancel_left]

theorem specialRead_listed {n : Nat} {v : W64} (h : (n, v) ∈ specialRows s
      ++ (List.range 16).map (fun k => (0x20 + k, pmcView s (coreOf s.qid) k s.me.vf s.me.level))
      ++ (List.range 16).map (fun k => (0x40 + k, pmccfgView s (coreOf s.qid) k s.me.vf s.me.level))) :
    specialRead s n = some v := by
  simp only [List.mem_append, List.mem_map, List.mem_range, Prod.mk.injEq] at h
  rcases h with (h | ⟨k, hk, rfl, rfl⟩) | ⟨k, hk, rfl, rfl⟩
  · exact specialRead_rows s (n, v) h
  · exact specialRead_pmc s hk
  · exact specialRead_pmccfg s hk

/-- A number that none bears. -/
theorem specialRead_unlisted {n : Nat} (h : n ∉ (specialRows s).map Prod.fst) (hp : ¬(0x20 ≤ n ∧ n ≤ 0x2F))
    (hc : ¬(0x40 ≤ n ∧ n ≤ 0x4F)) : specialRead s n = none := by
  simp only [specialRead, if_neg hp, if_neg hc]
  split
  iterate 19 exact absurd (by simp [specialRows]) h
  rfl

end

section
variable {s : State} {o : OpSget}

theorem execSget_done {v : W64} (hv : specialRead s o.num.toNat = some v) (h : MayGo (.sget o) [.sd o.sd.toNat] s) :
    exec (.sget o) s = .next (retire .seq (putS o.sd.toNat v s)) := by
  dsimp only [exec, execSget]
  rw [hv]
  refine wordG_retires h ?_ (leaveWord_same _ _ _ rfl)
  rw [hv]
  rfl

theorem execSget_illegal (hv : specialRead s o.num.toNat = none) (h : MayGo (.sget o) [] s) :
    exec (.sget o) s = .next (takeTrap s.qid 0x02 (BitVec.ofNat 64 (encode (.sget o)).toNat) s.me.pc s) := by
  dsimp only [exec, execSget]
  rw [hv]
  exact wordG_trap h rfl

end

/-! ## Writing a special register (05 R131, R132; 19 R434) -/

/-- The registers that SSET may write at U, with what each becomes. -/
def writableRows (v : W64) : List (Nat × (Group → Group)) :=
  [(0x005, fun g => { g with fpstat := v.setWidth 5 }),
    (0x009, fun g => { g with seed := v.setWidth 32 }), (0x010, fun g => { g with tvec := v &&& 0xFFFF_FFFF_FFFF_FFFC }),
    (0x011, fun g => { g with tcode := v &&& 0xFF }), (0x012, fun g => { g with tpc := v &&& 0xFFFF_FFFF_FFFF_FFFC }),
    (0x013, fun g => { g with tinfo := v }), (0x014, fun g => { g with trep := v &&& 0xFF })]

/-- Those that it may write at S. -/
def guardedRows (v : W64) : List (Nat × (Group → Group)) :=
  [(0x015, fun g => { g with dvec := v &&& 0xFFFF_FFFF_FFFF_FFFC }),
    (0x016, fun g => { g with pvec := v &&& 0xFFFF_FFFF_FFFF_FFFC })]

section
variable (s : State) (v : W64)

/-- What a write of a register that is no counter does, once its number passes. -/
structure WritesGroup (n : Nat) (f : Group → Group) : Prop where
  write : specialWrite n v s = modMe f s
  other : ¬(0x40 ≤ n ∧ n ≤ 0x4F)

theorem writesGroup_writableRows : ∀ p ∈ writableRows v, WritesGroup s v p.1 p.2 ∧ ssetCheck s p.1 = .ok := by
  simp only [writableRows, List.forall_mem_cons, List.not_mem_nil, false_implies, implies_true, and_true]
  exact ⟨⟨⟨rfl, by decide⟩, rfl⟩, ⟨⟨rfl, by decide⟩, rfl⟩, ⟨⟨rfl, by decide⟩, rfl⟩, ⟨⟨rfl, by decide⟩, rfl⟩,
    ⟨⟨rfl, by decide⟩, rfl⟩, ⟨⟨rfl, by decide⟩, rfl⟩, ⟨⟨rfl, by decide⟩, rfl⟩⟩

theorem writesGroup_guardedRows : ∀ p ∈ guardedRows v,
    WritesGroup s v p.1 p.2 ∧ ssetCheck s p.1 = if s.me.level then .ok else .priv := by
  simp only [guardedRows, List.forall_mem_cons, List.not_mem_nil, false_implies, implies_true, and_true]
  exact ⟨⟨⟨rfl, by decide⟩, rfl⟩, ⟨⟨rfl, by decide⟩, rfl⟩⟩

/-- A counter, or its configuration, of index k counts an event of another VF, which a group at U may not write (19 R434). -/
def Foreign (k : Nat) : Prop :=
  s.me.level = false ∧ (Tab.get 0 (coreAt s (coreOf s.qid)).pmccfg k).toNat % 2 ^ 8 ≠ 0
    ∧ (Tab.get 0 (coreAt s (coreOf s.qid)).pmccfg k).toNat / 2 ^ 8 % 2 ^ 9 ≠ s.me.vf % 512

theorem ssetCheck_counter {n k : Nat} (hk : k < 16) (hn : n = 0x20 + k ∨ n = 0x40 + k) :
    (Foreign s k → ssetCheck s n = .priv) ∧ (¬Foreign s k → ssetCheck s n = .ok) := by
  have index : n % 16 = k := by omega
  have foreign : (!s.me.level && (Tab.get 0 (coreAt s (coreOf s.qid)).pmccfg k).toNat % 256 != 0
      && (Tab.get 0 (coreAt s (coreOf s.qid)).pmccfg k).toNat / 256 % 512 != s.me.vf % 512) = true ↔ Foreign s k := by
    simp only [Bool.and_eq_true, Bool.not_eq_true', bne_iff_ne, and_assoc]
    rfl
  unfold ssetCheck
  dsimp only
  rw [if_pos (by omega), index]
  exact ⟨fun h => if_pos (foreign.mpr h), fun h => if_neg (mt foreign.mp h)⟩

theorem ssetCheck_unlisted {n : Nat} (h : n ∉ [0x005, 0x009, 0x010, 0x011, 0x012, 0x013, 0x014, 0x015, 0x016])
    (hp : ¬(0x20 ≤ n ∧ n ≤ 0x2F)) (hc : ¬(0x40 ≤ n ∧ n ≤ 0x4F)) : ssetCheck s n = .illegal := by
  simp only [ssetCheck, if_neg (not_or.mpr ⟨hp, hc⟩)]
  split
  iterate 9 exact absurd (by decide) h
  rfl

end

section
variable {s : State} {o : OpSset}

theorem execSset_illegal (hc : ssetCheck s o.num.toNat = .illegal) (h : MayGo (.sset o) [] s) :
    exec (.sset o) s = .next (takeTrap s.qid 0x02 (BitVec.ofNat 64 (encode (.sset o)).toNat) s.me.pc s) := by
  dsimp only [exec, execSset]
  rw [hc]
  exact wordG_trap h rfl

theorem execSset_priv (hc : ssetCheck s o.num.toNat = .priv) (h : MayGo (.sset o) [] s) :
    exec (.sset o) s = .next (takeTrap s.qid 0x05 (BitVec.ofNat 64 (encode (.sset o)).toNat) s.me.pc s) := by
  dsimp only [exec, execSset]
  rw [hc]
  exact wordG_trap h rfl

section
variable (hc : ssetCheck s o.num.toNat = .ok) (h : MayGo (.sset o) [.ss o.sa.toNat false 1] s)
include hc h

theorem execSset_done (hr : ¬(0x40 ≤ o.num.toNat ∧ o.num.toNat ≤ 0x4F ∧ eventReserved (s.me.readS o.sa.toNat) = true)) :
    exec (.sset o) s = .next (retire .seq (specialWrite o.num.toNat (s.me.readS o.sa.toNat) s)) := by
  dsimp only [exec, execSset]
  rw [hc]
  refine wordG_retires h ?_ (leaveWord_same _ _ _ rfl)
  simp only [if_neg hr]

theorem execSset_group {f : Group → Group} (hw : WritesGroup s (s.me.readS o.sa.toNat) o.num.toNat f) :
    exec (.sset o) s = .next (retire .seq (modMe f s)) := by
  rw [execSset_done hc h fun ⟨lo, hi, _⟩ => hw.other ⟨lo, hi⟩, hw.write]

/-- A configuration of a reserved event (19 R435). -/
theorem execSset_reserved (hn : 0x40 ≤ o.num.toNat ∧ o.num.toNat ≤ 0x4F) (hr : 17 < (s.me.readS o.sa.toNat).toNat % 256) :
    exec (.sset o) s = .next (takeTrap s.qid 0x02
      (BitVec.ofNat 64 ((encode (.sset o)).toNat + 2 ^ 47 + o.sa.toNat * 2 ^ 40)) s.me.pc s) := by
  have reserved : eventReserved (s.me.readS o.sa.toNat) = true := decide_eq_true hr
  dsimp only [exec, execSset]
  rw [hc]
  refine wordG_trap h (code := tIllegalField) ?_
  simp only [hn, reserved, and_self, if_true]
  rfl

end
end

theorem specialWrite_pmc (s : State) (v : W64) {k : Nat} (hk : k < 16) :
    specialWrite (0x20 + k) v s = modCore (coreOf s.qid) (fun c => { c with
      pmcSets := c.pmcSets ++ [{ index := k, cfg := false, value := BitVec.ofNat 64 (v.toNat % 2 ^ 48) }] }) s := by
  unfold specialWrite
  dsimp only
  rw [if_pos (by omega), Nat.add_sub_cancel_left]
  rfl

/-- The configuration that a write of it leaves: the event, its owner, and OVF where it stays. -/
def configWritten (s : State) (v : W64) (k : Nat) : W64 :=
  BitVec.ofNat 64 (v.toNat % 256 + (if s.me.level then v.toNat / 256 % 512 else s.me.vf % 512) * 256
    + (if (Tab.get 0 (coreAt s (coreOf s.qid)).pmccfg k).getLsbD 48 && !v.getLsbD 48 then 2 ^ 48 else 0))

theorem specialWrite_pmccfg (s : State) (v : W64) {k : Nat} (hk : k < 16) :
    specialWrite (0x40 + k) v s = modCore (coreOf s.qid) (fun c => { c with
      pmcSets := c.pmcSets ++ [{ index := k, cfg := true, value := configWritten s v k }] }) s := by
  unfold specialWrite
  dsimp only
  rw [if_neg (by omega), if_pos (by omega), Nat.add_sub_cancel_left]
  exact modCore_congr rfl

theorem configWritten_fields (s : State) (v : W64) (k : Nat) :
    (configWritten s v k).toNat % 2 ^ 8 = v.toNat % 2 ^ 8
      ∧ (configWritten s v k).toNat / 2 ^ 8 % 2 ^ 9 = (if s.me.level then v.toNat / 2 ^ 8 % 2 ^ 9 else s.me.vf % 512)
      ∧ (configWritten s v k).toNat / 2 ^ 17
        = (if (Tab.get 0 (coreAt s (coreOf s.qid)).pmccfg k).toNat / 2 ^ 48 % 2 = 1 ∧ v.getLsbD 48 = false then 2 ^ 31 else 0) := by
  have ovf : ((Tab.get 0 (coreAt s (coreOf s.qid)).pmccfg k).getLsbD 48 && !v.getLsbD 48) = true
      ↔ (Tab.get 0 (coreAt s (coreOf s.qid)).pmccfg k).toNat / 2 ^ 48 % 2 = 1 ∧ v.getLsbD 48 = false := by
    rw [Bool.and_eq_true, Bool.not_eq_true', BitVec.getLsbD, Nat.testBit_eq_decide_div_mod_eq, decide_eq_true_iff]
  have owner : (if s.me.level then v.toNat / 256 % 512 else s.me.vf % 512) < 512 := by split <;> omega
  simp only [configWritten, ovf, BitVec.toNat_ofNat]
  generalize (if s.me.level then v.toNat / 256 % 512 else s.me.vf % 512) = x at *
  split <;> omega

/-! ## The counters at the end of a CCLK (19 R436) -/

theorem close_one {s : State} {id n : Nat} {c : Core} {w : PmcSet} (h : c.pmcSets = [w]) :
    c.close s id n = { (c.countCclk s id n).setPmc w with pmcSets := [], wrapped := [] } := by
  simp [Core.close, h]

theorem setPmc_counter (c : Core) {w : PmcSet} (h : w.cfg = false) : c.setPmc w = { c with pmc := Tab.set c.pmc w.index w.value } := by
  simp [Core.setPmc, h]

theorem setPmc_config (c : Core) {w : PmcSet} (h : w.cfg = true) : c.setPmc w = { c with
    pmccfg := Tab.set c.pmccfg w.index (if w.index ∈ c.wrapped then w.value ||| BitVec.ofNat 64 (2 ^ 48) else w.value) } := by
  simp [Core.setPmc, h]

/-- A counter that wraps is noted. -/
theorem count_wrapped {c : Core} {ev vf k : Nat} {cfg : W64} (n : Nat) (hc : c.pmccfg = [(k, cfg)]) (he : cfg.toNat % 256 = ev)
    (hv : cfg.toNat / 256 % 512 = vf % 512) :
    (c.count ev vf n).wrapped = if 2 ^ 48 ≤ (Tab.get 0 c.pmc k).toNat + n then k :: c.wrapped else c.wrapped := by
  simp [Core.count, hc, he, hv]

/-- Settles O19: a number is listed or not (`specialRead_listed`, `specialRead_unlisted`; `ssetCheck_counter`, `ssetCheck_unlisted`),
what is written is read off its row, and the counters close as `setPmc` says. -/
theorem specialRegisters : Obligations.SpecialRegisters := by
  unfold Obligations.SpecialRegisters
  refine ⟨fun o s => ⟨fun v hm h => execSget_done (specialRead_listed s hm) h, fun hn h => ?_⟩, fun o s v hv => ?_⟩
  · simp only [List.mem_append, mem_sixteen, not_or] at hn
    obtain ⟨⟨named, counter⟩, config⟩ := hn
    exact execSget_illegal (specialRead_unlisted s named counter config) h
  subst hv
  refine ⟨fun f hm h => ?_, fun f hm => ?_, fun k hk => ?_, fun s id n c w hw => ?_, fun c ev vf n k cfg hc he hv => ?_,
    fun hn h => ?_⟩
  · obtain ⟨writes, ok⟩ := writesGroup_writableRows s _ (_, f) hm
    exact execSset_group ok h writes
  · obtain ⟨writes, check⟩ := writesGroup_guardedRows s _ (_, f) hm
    refine ⟨fun hl h => execSset_group (check.trans (if_pos hl)) h writes, fun hl h => execSset_priv (check.trans ?_) h⟩
    rw [hl]
    rfl
  · intro cfg foreign
    refine ⟨fun hn hf h => execSset_priv ((ssetCheck_counter s hk hn).1 hf) h, fun hn hf h => ?_,
      fun hn hf h => ⟨fun he => ?_, fun he => ?_⟩⟩
    · have ok := (ssetCheck_counter s hk (.inl hn)).2 hf
      rw [execSset_done ok h (by omega), hn, specialWrite_pmc s _ hk]
    · have ok := (ssetCheck_counter s hk (.inr hn)).2 hf
      have kept : eventReserved (s.me.readS o.sa.toNat) = false := decide_eq_false (Nat.not_lt.mpr he)
      refine ⟨configWritten s (s.me.readS o.sa.toNat) k, ?_, configWritten_fields s _ k⟩
      rw [execSset_done ok h (by simp [kept]), hn, specialWrite_pmccfg s _ hk]
    · exact execSset_reserved ((ssetCheck_counter s hk (.inr hn)).2 hf) h (by omega) he
  · intro counted
    rw [close_one hw]
    refine ⟨fun hc => ?_, fun hc => ?_, rfl, rfl⟩
    · rw [setPmc_counter _ hc]
      exact ⟨Tab.get_set_same .., rfl⟩
    · rw [setPmc_config _ hc]
      exact Tab.get_set_same ..
  · exact count_wrapped n hc he hv
  · simp only [List.mem_append, mem_sixteen, not_or] at hn
    obtain ⟨⟨named, counter⟩, config⟩ := hn
    exact execSset_illegal (ssetCheck_unlisted s named counter config) h

end Sys2Proof.Machine
end

section
/-!
EXITS AND SYSTEM CALLS (O20). What the end of a group and of its team can change; the slots after LEXIT, quad by quad; and an access
that passes its checks, behind which SYSC leaves its request.
-/

namespace Sys2Proof.Machine

/-! ## The end of a group (05 R146, 07 R197) -/

theorem leaveShare_eq (k : Nat) (s : State) : ∃ ts, leaveShare k s = { s with teams := ts } := by
  unfold leaveShare
  dsimp only
  split <;> exact ⟨_, rfl⟩

theorem keepMmas_eq (k : Nat) (s : State) : ∃ cs, keepMmas k s = { s with cores := cs } := by
  unfold keepMmas
  dsimp only
  split <;> exact ⟨_, rfl⟩

/-- The end of a team touches the teams, the launches and the cores. -/
theorem endTeam_eq (k : Nat) (s : State) :
    ∃ ts ls cs, endTeam k s = { s with teams := ts, launches := ls, cores := cs } := by
  obtain ⟨cs, kept⟩ := keepMmas_eq k s
  obtain ⟨ts, left⟩ := leaveShare_eq k { s with cores := cs }
  unfold endTeam
  dsimp only
  rw [kept, left]
  split <;> exact ⟨_, _, _, rfl⟩

/-- The calls after a group has ended: its own has lost its group (02 R68). -/
def callsWithout (y : Option PendingSysc) (t : Tab SyscRec) : Tab SyscRec :=
  match y with
  | some y => Tab.set t y.handle.toNat { Tab.get default t y.handle.toNat with gone := true }
  | none => t

/-- The end of a group frees its slot and touches beside it the teams, the launches, the cores and its call. -/
theorem endGroup_eq (q : Nat) (s : State) : ∃ ts ls cs, endGroup q s =
    { setGroup q { Group.empty with gen := (groupAt s q).gen } s with
      teams := ts, launches := ls, cores := cs, syscs := callsWithout (groupAt s q).sysc s.syscs } := by
  unfold endGroup
  dsimp only
  split_ifs
  · exact endTeam_eq (groupAt s q).team _
  · exact ⟨_, _, _, rfl⟩

/-- What EXIT leaves: the slot is free, the group's call has lost it, and what is outstanding elsewhere goes on. -/
structure Exited (s t : State) : Prop where
  slot : groupAt t s.qid = { Group.empty with gen := s.me.gen }
  others : SameOthers s t
  memory : Calm s → SameMemory s t
  returns : t.returns = s.returns
  copies : t.copies = s.copies
  syscs : t.syscs = callsWithout s.me.sysc s.syscs

theorem countIssue_calm {s : State} (hc : Calm s) : SameMemory s (countIssue s.qid s.me s) := by
  have untraced := capture_off (die := dieOf s.qid) (code := 0) (p := some s.me.pc.toNat)
    (s := owe s.qid s.me (tally 0 s.me.vf 1 (count (coreOf s.qid) evAged s.me.vf (if s.me.aged then 1 else 0)
      (count (coreOf s.qid) evIssue s.me.vf 1 s)))) (by simpa using hc.2)
  intro key pa
  rw [countIssue, untraced]
  simp [readPa]

theorem exited_endGroup (s : State) : Exited s (endGroup s.qid (countIssue s.qid s.me s)) := by
  obtain ⟨m, l, b, d, cs, bn, counted⟩ := countIssue_eq s.qid s.me s
  obtain ⟨ts, ls, cs', ended⟩ := endGroup_eq s.qid (countIssue s.qid s.me s)
  have me : groupAt (countIssue s.qid s.me s) s.qid = s.me := by rw [counted]; rfl
  rw [ended, me]
  constructor
  · exact groupAt_setGroup_same s.qid _ (countIssue s.qid s.me s)
  · refine ⟨by rw [counted]; rfl, fun q hq => (groupAt_setGroup_other s.qid _ (countIssue s.qid s.me s) q hq).trans ?_⟩
    rw [counted]
    rfl
  · exact fun hc => countIssue_calm hc
  · rw [counted]; rfl
  · rw [counted]; rfl
  · rw [counted]

/-- The call of a group that has ended stands without it. -/
theorem find_callsWithout (y : PendingSysc) (t : Tab SyscRec) :
    (Tab.find (callsWithout (some y) t) y.handle.toNat).map (fun r => r.gone) = some true := by
  simp [callsWithout]

section
variable {s : State}

theorem execExit_exits (h : MayGo .exit [] s) : exec .exit s = .next (endGroup s.qid (countIssue s.qid s.me s)) := by
  dsimp only [exec, execExit]
  exact wordG_ended h rfl

/-! ## LEXIT (05 R147, 02 R46) -/

section
variable (h : MayGo .lexit [] s)
include h

theorem execLexit_nop (ha : s.me.actLive = 0) : exec .lexit s = .next (retire .seq s) := by
  dsimp only [exec, execLexit]
  exact wordG_retires h (by rw [if_pos ha]) (leaveWord_same _ _ _ rfl)

theorem execLexit_all (ha : s.me.actLive ≠ 0) (hl : s.me.actLive = s.me.liveMask) :
    exec .lexit s = .next (endGroup s.qid (countIssue s.qid s.me s)) := by
  have covers : s.me.covers = true := beq_iff_eq.mpr hl
  dsimp only [exec, execLexit]
  exact wordG_ended h (by rw [if_neg ha, if_pos covers])

theorem execLexit_some (ha : s.me.actLive ≠ 0) (hl : s.me.actLive ≠ s.me.liveMask) :
    exec .lexit s = .next (retire .seq (modMe (fun g => { g with slots := lexitSlots s.me }) s)) := by
  have uncovered : ¬s.me.covers = true := mt beq_iff_eq.mp hl
  rw [modMe_congr (g := fun g => { g with slots := lexitSlots g }) rfl]
  dsimp only [exec, execLexit]
  exact wordG_retires h (by rw [if_neg ha, if_neg uncovered]) (leaveWord_same _ _ _ rfl)

end
end

/-- A live slot that does not act stays. -/
def Group.stays (g : Group) (k : Nat) : Bool := g.live k && !g.guardMask.getLsbD k

/-- Some slot of the quad of slot k stays. -/
def Group.quadStays (g : Group) (k : Nat) : Bool := (List.range 4).any (fun j => g.stays (k / 4 * 4 + j))

/-- A slot as the acting live slots leave, before the quads settle. -/
def Group.leftSlot (g : Group) (k : Nat) : Slot :=
  if g.guardMask.getLsbD k && g.live k then { g.slot k with st := .exited } else g.slot k

/-- A slot after its quad has settled, by whether the quad has a live slot. -/
def Slot.settled (quadLive : Bool) (sl : Slot) : Slot :=
  match sl.st with
  | .live => sl
  | .helper => if quadLive then sl else { sl with st := .exited }
  | .exited => if quadLive then { sl with st := .helper } else sl
  | .vacant => if quadLive then { sl with st := .helper } else sl

theorem Slot.settled_live {sl : Slot} (h : sl.st = .live) (quadLive : Bool) : sl.settled quadLive = sl := by
  rw [Slot.settled, h]

/-- A slot that is not live is a helper just where its quad has a live slot. -/
theorem Slot.settled_dead {sl : Slot} (h : sl.st ≠ .live) (quadLive : Bool) :
    ((sl.settled quadLive).st = .helper ↔ quadLive = true) ∧ (sl.settled quadLive).st ≠ .live := by
  unfold Slot.settled
  cases st : sl.st with
  | live => exact absurd st h
  | helper => cases quadLive <;> simp [st]
  | exited => cases quadLive <;> simp [st]
  | vacant => cases quadLive <;> simp [st]

theorem Group.leftSlot_live (g : Group) (k : Nat) : ((g.leftSlot k).st == .live) = g.stays k := by
  unfold Group.leftSlot Group.stays Group.live
  cases g.guardMask.getLsbD k <;> cases live : (g.slot k).st == .live <;> simp [live]

theorem Group.leftSlot_stays {g : Group} {k : Nat} (h : g.stays k = true) : g.leftSlot k = g.slot k := by
  have idle : g.guardMask.getLsbD k = false := by simpa using (Bool.and_eq_true_iff.mp h).2
  rw [Group.leftSlot, idle, Bool.false_and, if_neg Bool.false_ne_true]

theorem getD_range_map (f : Nat → Slot) {k : Nat} (hk : k < 32) (d : Slot) : ((List.range 32).map f).getD k d = f k := by
  simp [List.getD_eq_getElem?_getD, hk]

theorem lexitSlots_length (g : Group) : (lexitSlots g).length = 32 := by
  simp [lexitSlots, settleQuads]

/-- A slot after LEXIT: the slot that is left, settled by what stays of its quad. -/
theorem lexitSlots_getD (g : Group) {k : Nat} (hk : k < 32) :
    (lexitSlots g).getD k { st := .vacant, ident := 0 } = (g.leftSlot k).settled (g.quadStays k) := by
  have quad : (List.range 4).any (fun j => (((List.range 32).map g.leftSlot).getD (k / 4 * 4 + j)
      { st := .vacant, ident := 0 }).st == .live) = g.quadStays k := by
    rw [Group.quadStays, Bool.eq_iff_iff, List.any_eq_true, List.any_eq_true]
    refine exists_congr fun j => and_congr_right fun hj => ?_
    have within : k / 4 * 4 + j < 32 := by have := List.mem_range.mp hj; omega
    rw [getD_range_map _ within, g.leftSlot_live]
  have left : ((List.range 32).map g.leftSlot).getD k { st := .vacant, ident := 0 } = g.leftSlot k := getD_range_map _ hk _
  rw [← quad, ← left, lexitSlots, settleQuads, getD_range_map _ hk]
  rfl

theorem lexitSlots_stays {g : Group} {k : Nat} (hk : k < 32) (h : g.stays k = true) :
    (lexitSlots g).getD k { st := .vacant, ident := 0 } = g.slot k := by
  have live : (g.leftSlot k).st = .live := beq_iff_eq.mp ((g.leftSlot_live k).trans h)
  rw [lexitSlots_getD g hk, Slot.settled_live live, Group.leftSlot_stays h]

theorem lexitSlots_leaves {g : Group} {k : Nat} (hk : k < 32) (h : g.stays k = false) :
    (((lexitSlots g).getD k { st := .vacant, ident := 0 }).st = .helper ↔ g.quadStays k = true)
      ∧ ((lexitSlots g).getD k { st := .vacant, ident := 0 }).st ≠ .live := by
  have dead : (g.leftSlot k).st ≠ .live := beq_eq_false_iff_ne.mp ((g.leftSlot_live k).trans h)
  rw [lexitSlots_getD g hk]
  exact Slot.settled_dead dead _

/-! ## SYSC (05 R149) -/

theorem Group.advance_pc_congr {g h : Group} (hl : h.loop = g.loop) (pc : W64) : (h.advance pc).pc = (g.advance pc).pc := by
  unfold Group.advance
  rw [hl]
  cases g.loop with
  | none => rfl
  | some l =>
    dsimp only
    split_ifs <;> rfl

/-- Where a word retires to depends on its own address, on a REP and on a loop alone. -/
theorem Group.retire_pc_congr {g h : Group} (hr : h.rep = g.rep) (hl : h.loop = g.loop) (hp : h.pc = g.pc) (c : Nat) :
    (h.retire .seq c).pc = (g.retire .seq c).pc := by
  unfold Group.retire
  rw [hr, hp]
  cases g.rep with
  | none =>
    dsimp only
    exact Group.advance_pc_congr (by exact hl) _
  | some r =>
    dsimp only
    split_ifs
    · rfl
    · exact Group.advance_pc_congr (by exact hl) _

/-- Nothing but the dies' translations has changed. -/
structure OnlyWalks (s t : State) : Prop where
  rest : t = { s with dies := t.dies }
  trace : ∀ k, (dieAt t k).trace = (dieAt s k).trace

namespace OnlyWalks

theorem trans {s t u : State} (h : OnlyWalks s t) (h' : OnlyWalks t u) : OnlyWalks s u where
  rest := h'.rest.trans (by rw [h.rest])
  trace k := (h'.trace k).trans (h.trace k)

theorem addTlb (die : Nat) (e : TlbEntry) (s : State) : OnlyWalks s (addTlb die (some e) s) where
  rest := rfl
  trace k := by
    unfold Machine.addTlb
    by_cases hk : k = die
    · rw [hk, dieAt_modDie_same]
    · rw [dieAt_modDie_other _ _ _ _ hk]

theorem addTlbs (die : Nat) (ts : List TlbEntry) (s : State) : OnlyWalks s (addTlbs die ts s) := by
  unfold Machine.addTlbs
  induction ts generalizing s with
  | nil => exact ⟨rfl, fun _ => rfl⟩
  | cons e ts ih => exact (addTlb die e s).trans (ih _)

end OnlyWalks

/-- An access that passes its checks and meets no watchpoint enters its translations. -/
theorem access_reaches {s : State} {a : Acc} {read : Bool} {va : Nat} {ps : List (Nat × Nat)} {ts : List TlbEntry}
    (hr : Reaches s a 0 va ps ts) (hw : Unwatched s read a.write a.size [(0, va)]) :
    access s a read va = .ok (.bytes ps ts, addTlbs (dieOf s.qid) ts s) := by
  unfold access
  rw [Reaches] at hr
  rw [Unwatched] at hw
  simp only [hr, hw]

theorem OnlyWalks.calm {s t : State} (h : OnlyWalks s t) (hc : Calm s) : Calm t := by
  obtain ⟨unarmed, untraced⟩ := hc
  have me : t.me = s.me := by rw [h.rest]; rfl
  have qid : t.qid = s.qid := by rw [h.rest]; rfl
  rw [Calm, me, qid, h.trace]
  exact ⟨unarmed, untraced⟩

/-- The call that a group makes. -/
def pendingCall (sd : Nat) (b : W64 × List W64) (s : State) : PendingSysc :=
  { handle := BitVec.ofNat 64 s.nextSysc, dest := sd, service := b.1, args := b.2 }

/-- The hub's record of the call. -/
def callRecord (b : W64 × List W64) (s : State) : SyscRec :=
  { q := s.qid, gen := s.me.gen, vf := s.me.vf, launch := s.me.launch, s1root := s.myTeam.s1root, core := coreOf s.qid
    service := b.1, args := b.2, gone := false, answer := none }

/-- What SYSC leaves before it retires. -/
def requestCall (sd : Nat) (b : W64 × List W64) (s : State) : State :=
  { modMe (fun g => { g.emptyS sd with sysc := some (pendingCall sd b s) }) s with
    nextSysc := s.nextSysc + 1
    syscs := Tab.set s.syscs s.nextSysc (callRecord b s) }

section
variable (sd : Nat) (b : W64 × List W64) (s : State)

theorem requestCall_me : (requestCall sd b s).me = { s.me.emptyS sd with sysc := some (pendingCall sd b s) } :=
  me_modMe (fun g => { g.emptyS sd with sysc := some (pendingCall sd b s) }) s

theorem requestCall_calm (hc : Calm s) : Calm (requestCall sd b s) := by
  obtain ⟨unarmed, untraced⟩ := hc
  rw [Calm, requestCall_me]
  exact ⟨by simpa using unarmed, by simpa [cgidOf, requestCall, dieAt, State.qid] using untraced⟩

/-- The word retires to where it would have retired without its call. -/
theorem requestCall_retire_pc : ((requestCall sd b s).me.retire .seq s.cclk).pc = (s.me.retire .seq s.cclk).pc := by
  rw [requestCall_me]
  exact Group.retire_pc_congr (by simp) (by simp) (by simp) _

end

section
variable {o : OpDA} {s : State} {ps : List (Nat × Nat)} {ts : List TlbEntry} (b : W64 × List W64)
variable (h : MayGo (.sysc o) [.ss o.sa.toNat false 1, .sd o.sd.toNat] s) (hn : s.me.sysc = none)
  (hr : Reaches s { size := 64, write := false, atomic := false, vector := true } 0 ((s.me.readS o.sa.toNat).toNat / 64 * 64) ps ts)
  (hw : Unwatched s true false 64 [(0, (s.me.readS o.sa.toNat).toNat / 64 * 64)]) (hp : partsBad s ps = none)
  (hb : syscBlock (readParts s s.me.vf ps) = b)
include h hn hr hw hp hb

/-- SYSC reads its block, and then its service decides. -/
theorem execSysc_eq : exec (.sysc o) s = .next (if (Tab.get 0 s.boot.svccnt s.me.vf).toNat % 256 ≤ b.1.toNat
    then takeTrap s.qid 0x14 (BitVec.ofNat 64 (b.1.toNat % 2 ^ 16)) s.me.pc (addTlbs (dieOf s.qid) ts s)
    else retire .seq (requestCall o.sd.toNat b (addTlbs (dieOf s.qid) ts s))) := by
  have rest := (OnlyWalks.addTlbs (dieOf s.qid) ts s).rest
  have reached := access_reaches (a := { size := 64, write := false, atomic := false, vector := true }) hr hw
  generalize addTlbs (dieOf s.qid) ts s = t at *
  generalize t.dies = d at rest
  subst rest hb
  have undamaged : partsBad { s with dies := d } ps = none := hp
  have content : readParts { s with dies := d } s.me.vf ps = readParts s s.me.vf ps := rfl
  dsimp only [exec, execSysc]
  rw [wordG_go h, hn, reached, Option.isSome_none, if_neg Bool.false_ne_true]
  simp only [undamaged, content]
  split_ifs
  · rfl
  · exact congrArg (fun t => Host.Outcome.next (retire .seq t)) (leaveWord_same s [.ss o.sa.toNat false 1, .sd o.sd.toNat] _ rfl)

end

/-- What a call that is accepted leaves. -/
structure Requested (sd : Nat) (b : W64 × List W64) (s t : State) : Prop where
  empty : t.me.sFull sd = false
  pc : t.me.pc = (s.me.retire .seq s.cclk).pc
  pending : t.me.sysc = some (pendingCall sd b s)
  record : Tab.find t.syscs s.nextSysc = some (callRecord b s)
  memory : SameMemory s t
  others : SameOthers s t

theorem requested_retire {sd : Nat} (b : W64 × List W64) {s : State} (hc : Calm s) (hd : sd ≠ 0) :
    Requested sd b s (retire .seq (requestCall sd b s)) := by
  have calm := requestCall_calm sd b s hc
  have me := retire_me .seq _ calm
  constructor
  · rw [me, Group.sFull, Group.retire_fullS, requestCall_me]
    exact Group.sFull_emptyS_same s.me hd
  · rw [me]
    exact requestCall_retire_pc sd b s
  · rw [me, Group.retire_sysc, requestCall_me]
  · rw [retire_syscs _ _ calm]
    exact Tab.find_set_same _ _ _
  · exact fun key pa => retire_readPa _ _ calm key pa
  · refine ⟨by rw [State.qid, retire_cur _ _ calm]; rfl, fun q hq => (retire_other _ _ calm q hq).trans ?_⟩
    exact groupAt_modMe_other (fun g => { g.emptyS sd with sysc := some (pendingCall sd b s) }) s q hq

/-- Translations that are entered before do not show in the call. -/
theorem Requested.of_walks {sd : Nat} {b : W64 × List W64} {s t u : State} (h : OnlyWalks s t) (r : Requested sd b t u) :
    Requested sd b s u := by
  obtain ⟨rest, -⟩ := h
  generalize t.dies = d at rest
  subst rest
  exact ⟨r.empty, r.pc, r.pending, r.record, r.memory, r.others⟩

/-- Settles O20: EXIT ends the group (`exited_endGroup`); LEXIT by how many of the live slots act, its slots as their quads settle
(`lexitSlots_stays`, `lexitSlots_leaves`); SYSC by its service (`execSysc_eq`), with what a call leaves (`requested_retire`). -/
theorem exitsAndSystemCalls : Obligations.ExitsAndSystemCalls := by
  unfold Obligations.ExitsAndSystemCalls
  refine ⟨⟨fun s h => ?_, fun s => execLexit_nop, fun s h h' ha hl => ?_, fun s h ha hl => ?_⟩,
    fun o s va ps ts h hn hd hva hr hw hp => ?_⟩
  · have exited := exited_endGroup s
    refine ⟨_, execExit_exits h, exited.slot, exited.others, exited.memory, exited.returns, exited.copies, fun y hy => ?_⟩
    rw [exited.syscs, hy]
    exact find_callsWithout y s.syscs
  · rw [execLexit_all h ha hl, execExit_exits h']
  · exact ⟨_, execLexit_some h ha hl, lexitSlots_length s.me, fun k hk => ⟨lexitSlots_stays hk, lexitSlots_leaves hk⟩⟩
  · subst hva
    have walks := OnlyWalks.addTlbs (dieOf s.qid) ts s
    have nonzero : o.sd.toNat ≠ 0 := fun e => hd (BitVec.eq_of_toNat_eq e)
    have decided := execSysc_eq _ h hn hr hw hp rfl
    refine ⟨fun below hc => ?_, fun above => decided.trans (congrArg Host.Outcome.next (if_pos above))⟩
    have made := (requested_retire (syscBlock (readParts s s.me.vf ps)) (walks.calm hc) nonzero).of_walks walks
    exact ⟨_, decided.trans (congrArg Host.Outcome.next (if_neg (Nat.not_le.mpr below))), made.empty, made.pc,
      ⟨_, _, made.pending, rfl, rfl, rfl, rfl, made.record, rfl, rfl, rfl, rfl, rfl⟩, made.memory, made.others⟩

end Sys2Proof.Machine
end

section
/-!
VECTOR WORDS THAT RAISE NO FLAG (O27). The frames of integer, bitwise and shift members complete, and their tables give each member its
value and its shape.
-/

namespace Sys2Proof.Machine

/-! ## Words that compute lane by lane (06 R161) -/

/-- The word completes: it delivers to each lane a value, in a shape where the guard covers every live slot, and raises no flag. -/
def CompletesPlain (uses : List Use) (vd : Nat) (s : State) (o : Out) (val : Nat → W32) (sh : Shape) : Prop :=
  ∃ t, o = .next (retire .seq (leaveWord s uses t)) ∧ LaneResult vd (plainRun s val) sh s t

/-- A word whose lanes neither raise flags nor round completes, where no record of the reuse table hits. -/
theorem wordG_completesPlain {i : Instr} {uses : List Use} {s : State} (hg : MayGo i uses s) {body : State → List VReg → Res} {form : VecForm} {shape : List VReg → Shape}
    (val : List VReg → Nat → W32) (hrs : form.rs = false) (hd : .vd form.vd ∈ uses) (hr : NoReuse s)
    (hb : body s (sourceRegs s.me uses []) = vecBody form uses shape (s.me.vreg form.vd) (fun src seed k => (val src k, 0, seed)) s
      (sourceRegs s.me uses [])) :
    CompletesPlain uses form.vd s (wordG i uses s body) (val (sourceRegs s.me uses [])) (shape (sourceRegs s.me uses [])) := by
  obtain ⟨t, e, result⟩ := vecBody_laneResult shape (fun src seed k => (val src k, 0, seed)) (sourceRegs s.me uses []) hr hd
  refine ⟨t, wordG_done hg (hb.trans e), ?_⟩
  rw [runLanes_plain, hrs] at result
  exact result

/-- Slot k of a run whose slots leave the rounder's state alone. -/
theorem runLanes_still_slot {act live seed : W32} {f : W32 → Nat → W32 × Flags × W32} (h : ∀ k, (f seed k).2.2 = seed) {k : Nat}
    (hk : k < 32) : (runLanes act live seed f).vals.getD k 0 = (f seed k).1 := by
  rw [(runLanes_still h).1, List.getD_eq_getElem?_getD]
  simp [hk]

section
variable {i : Instr} {s : State} (hr : NoReuse s)
include hr

theorem intVR_completesPlain {o : OpVR} {acc : Bool} {mask : Nat} {shape : W32 → List VReg → Shape} {f : W32 → List W32 → W32}
    (hg : MayGo i (usesVR o acc) s) : CompletesPlain (usesVR o acc) o.vd.toNat s (intVR i o acc mask shape f s)
      (fun k => f s.me.mode ((sourceRegs s.me (usesVR o acc) []).map (fun r => r.lane k)))
      (shape s.me.mode (sourceRegs s.me (usesVR o acc) [])) :=
  wordG_completesPlain hg (form := vform o.vd.toNat (keyVR i) s.me.mode (maskG ||| mask) false false) (shape := shape s.me.mode)
    (fun (src : List VReg) k => f s.me.mode (src.map (fun r : VReg => r.lane k))) rfl (List.mem_cons_self ..) hr (by rfl)

theorem intVI_completesPlain {o : OpVI} {mask : Nat} {shape : W32 → List VReg → Shape} {f : W32 → List W32 → W32}
    (hg : MayGo i (usesVI o) s) : CompletesPlain (usesVI o) o.vd.toNat s (intVI i o mask shape f s)
      (fun k => f s.me.mode [(srcReg (usesVI o) s 0).lane k]) (shape s.me.mode [srcReg (usesVI o) s 0]) :=
  wordG_completesPlain hg (form := vform o.vd.toNat (keyVI i) s.me.mode (maskG ||| mask) false false) (shape := shape s.me.mode)
    (fun (src : List VReg) k => f s.me.mode (src.map (fun r : VReg => r.lane k))) rfl (List.mem_cons_self ..) hr (by rfl)

end

/-! ## The members (06 R166 to R168) -/

/-- A member of the integer view by the exact value of an element: under the view of MODE, with saturation or without (06 R166). -/
def intElem (m : W32) (sat : Bool) (x : List Int → Int) : List W32 → W32 :=
  mapElems (intView (modeEt m)).w (fun es => widthRule sat (intView (modeEt m)).signed (intView (modeEt m)).w
    (x (es.map (intValue (intView (modeEt m)).signed (intView (modeEt m)).w))))

/-- A shift member by its value of an element and an amount (06 R167). -/
def shiftElem (m : W32) (g : Nat → Nat → Nat) : List W32 → W32 :=
  mapElems (intView (modeEt m)).w (fun es => g (es.getD 0 0) (es.getD 1 0 % (intView (modeEt m)).w))

/-- The members with two vector sources: the value of a lane and the shape (06 R166, R167). -/
def intMembers (o : OpVR) (m : W32) : List (Instr × Bool × (List W32 → W32) × (VReg → VReg → Shape)) :=
  let w := (intView (modeEt m)).w
  let other (a b : VReg) : Shape := shapeElem [a, b]
  [(.vadd o, false, intElem m (modeSat m) (fun x => x.getD 0 0 + x.getD 1 0), shapeAdd (plainInt m) false),
    (.vsub o, false, intElem m (modeSat m) (fun x => x.getD 0 0 - x.getD 1 0), shapeAdd (plainInt m) true),
    (.vmul o, false, intElem m (modeSat m) (fun x => x.getD 0 0 * x.getD 1 0), shapeMul (plainInt m)),
    (.vmulh o, false, intElem m false (fun x => x.getD 0 0 * x.getD 1 0 / 2 ^ w), other),
    (.vmin o, false, intElem m false (fun x => min (x.getD 0 0) (x.getD 1 0)), other),
    (.vmax o, false, intElem m false (fun x => max (x.getD 0 0) (x.getD 1 0)), other),
    (.vabsd o, false, intElem m (modeSat m) (fun x => |x.getD 0 0 - x.getD 1 0|), other),
    (.vand o, false, fun x => x.getD 0 0 &&& x.getD 1 0, other),
    (.vor o, false, fun x => x.getD 0 0 ||| x.getD 1 0, other),
    (.vxor o, false, fun x => x.getD 0 0 ^^^ x.getD 1 0, other),
    (.vandn o, false, fun x => x.getD 0 0 &&& ~~~(x.getD 1 0), other),
    (.vshl o, false, shiftElem m (fun a k => a * 2 ^ k % 2 ^ w), other),
    (.vshr o, false, shiftElem m (fun a k => a / 2 ^ k), other),
    (.vsar o, false, shiftElem m (fun a k => (intValue true w a / 2 ^ k % 2 ^ w).toNat), other),
    (.vrol o, false, shiftElem m (fun a k => (a * 2 ^ k + a / 2 ^ (w - k)) % 2 ^ w), other)]

section
variable {s : State} (hr : NoReuse s)
include hr

theorem exec_intMembers_completesPlain (o : OpVR) : ∀ p ∈ intMembers o s.me.mode, MayGo p.1 (usesVR o false) s →
    CompletesPlain (usesVR o false) o.vd.toNat s (exec p.1 s)
      (fun k => p.2.2.1 ((sourceRegs s.me (usesVR o false) []).map (fun r => r.lane k)))
      (p.2.2.2 (srcReg (usesVR o false) s 0) (srcReg (usesVR o false) s 1)) := by
  have int {i : Instr} {mask : Nat} {shape : W32 → List VReg → Shape} {f : W32 → List W32 → W32} :
      MayGo i (usesVR o false) s → CompletesPlain (usesVR o false) o.vd.toNat s (intVR i o false mask shape f s)
        (fun k => f s.me.mode ((sourceRegs s.me (usesVR o false) []).map (fun r => r.lane k)))
        (shape s.me.mode [srcReg (usesVR o false) s 0, srcReg (usesVR o false) s 1]) :=
    intVR_completesPlain hr
  simp only [intMembers, List.forall_mem_cons, List.not_mem_nil, false_implies, implies_true, and_true]
  dsimp only [exec]
  refine ⟨int, int, int, int, int, int, ?_, int, int, int, int, int, int, int, int⟩
  simp only [Int.abs_eq_natAbs]
  exact int

/-- The multiply-add has the destination as its third source (06 R166). -/
theorem exec_vmad_completesPlain {o : OpVR} (hg : MayGo (.vmad o) (usesVR o true) s) :
    CompletesPlain (usesVR o true) o.vd.toNat s (exec (.vmad o) s)
      (fun k => intElem s.me.mode (modeSat s.me.mode) (fun x => x.getD 0 0 * x.getD 1 0 + x.getD 2 0)
        ((sourceRegs s.me (usesVR o true) []).map (fun r => r.lane k)))
      (shapeElem [srcReg (usesVR o true) s 0, srcReg (usesVR o true) s 1, srcReg (usesVR o true) s 2]) := by
  dsimp only [exec]
  exact intVR_completesPlain hr hg

end

/-- The members with an immediate operand: the value of a lane and the shape (06 R168). -/
def immMembers (o : OpVI) (m : W32) : List (Instr × (W32 → W32) × (VReg → Shape)) :=
  let w := (intView (modeEt m)).w
  let el (x : Int → Int) (a : W32) : W32 := intElem m (modeSat m) (fun es => x (es.getD 0 0)) [a]
  let shift (g : Nat → Nat → Nat) (a : W32) : W32 := mapElems w (fun es => g (es.getD 0 0) (o.imm.toNat % w)) [a]
  let b : W32 := o.imm.signExtend 32
  [(.vaddi o, el (fun x => x + o.imm.toInt), fun r => shapeAdd (plainInt m) false r (.uniform b)),
    (.vmuli o, el (fun x => x * o.imm.toInt), fun r => shapeMul (plainInt m) r (.uniform b)),
    (.vandi o, fun a => a &&& b, fun r => shapeElem [r]), (.vori o, fun a => a ||| b, fun r => shapeElem [r]),
    (.vxori o, fun a => a ^^^ b, fun r => shapeElem [r]),
    (.vshli o, shift (fun a k => a * 2 ^ k % 2 ^ w),
      fun r => shapeMul (plainInt m) r (.uniform (BitVec.ofNat 32 (2 ^ (o.imm.toNat % 32))))),
    (.vshri o, shift (fun a k => a / 2 ^ k), fun r => shapeElem [r]),
    (.vsari o, shift (fun a k => (intValue true w a / 2 ^ k % 2 ^ w).toNat), fun r => shapeElem [r])]

theorem exec_immMembers_completesPlain {s : State} (hr : NoReuse s) (o : OpVI) : ∀ p ∈ immMembers o s.me.mode, MayGo p.1 (usesVI o) s →
    CompletesPlain (usesVI o) o.vd.toNat s (exec p.1 s) (fun k => p.2.1 ((srcReg (usesVI o) s 0).lane k))
      (p.2.2 (srcReg (usesVI o) s 0)) := by
  have int {i : Instr} {mask : Nat} {shape : W32 → List VReg → Shape} {f : W32 → List W32 → W32} :
      MayGo i (usesVI o) s → CompletesPlain (usesVI o) o.vd.toNat s (intVI i o mask shape f s)
        (fun k => f s.me.mode [(srcReg (usesVI o) s 0).lane k]) (shape s.me.mode [srcReg (usesVI o) s 0]) :=
    intVI_completesPlain hr
  simp only [immMembers, List.forall_mem_cons, List.not_mem_nil, false_implies, implies_true, and_true]
  dsimp only [exec]
  exact ⟨int, int, int, int, int, int, int, int⟩

/-- Settles O27: each member is a word that computes lane by lane without flags, and its value and shape are its row's. -/
theorem vectorInteger : Obligations.VectorInteger := by
  unfold Obligations.VectorInteger
  constructor
  · intro o s i acc f sh m w el shift other uses hm hg hr
    rcases hm with hm | ⟨rfl, rfl, rfl, rfl⟩
    · have row : (i, acc, f, sh) ∈ intMembers o s.me.mode := hm
      have plain : acc = false := by
        simp only [intMembers, List.mem_cons, List.not_mem_nil, or_false, Prod.mk.injEq] at row
        tauto
      subst plain
      exact exec_intMembers_completesPlain hr o _ row hg
    · exact exec_vmad_completesPlain hr hg
  · intro o s i f sh m w el shift b uses hm hg hr
    exact exec_immMembers_completesPlain hr o (i, f, sh) hm hg

end Sys2Proof.Machine
end

section
/-!
PERMUTES (O30). A slot that acts takes the value of its source position (06 R164), the derivative codes subtract two of them, and a
scatter writes the value of the highest sender of a slot.
-/

namespace Sys2Proof.Machine

/-! ## Words that read a source position (06 R179 to R182) -/

/-- The value of a position that is a slot: that of a live or helper slot, else FILL (06 R164). -/
theorem Group.src_slot (g : Group) (a : VReg) {t : Nat} (ht : t < 32) :
    g.src a (t : Int) = if (g.live t || g.helper t) = true then a.lane t else g.fill := by
  simp [Group.src, ht]

section
variable {i : Instr} {s : State} (hr : NoReuse s)
include hr

theorem permWord_completesPlain {uses : List Use} {vd bits mask : Nat} {shape : List VReg → Shape} {f : Group → List VReg → Nat → W32}
    (hd : .vd vd ∈ uses) (hg : MayGo i uses s) : CompletesPlain uses vd s (permWord i uses vd bits mask shape f s)
      (f s.me (sourceRegs s.me uses [])) (shape (sourceRegs s.me uses [])) :=
  wordG_completesPlain hg (form := vform vd bits s.me.mode (maskG ||| mask) false true) (shape := shape)
    (fun src k => f s.me src k) rfl hd hr (by rfl)

theorem slideWord_completesPlain {o : OpVI} {shape : List VReg → Shape} {pos : Nat → Int} (hg : MayGo i (usesVI o) s) :
    CompletesPlain (usesVI o) o.vd.toNat s (slideWord i o shape pos s) (fun k => s.me.src (srcReg (usesVI o) s 0) (pos k))
      (shape [srcReg (usesVI o) s 0]) :=
  permWord_completesPlain hr (List.mem_cons_self ..) hg

end

/-- The permutes with an immediate: shape and source position (06 R181). -/
def slideMembers (o : OpVI) : List (Instr × Shape × (Nat → Int)) :=
  [(.vshfx o, .g, fun k => ((k ^^^ o.imm.toNat : Nat) : Int)), (.vslideu o, .g, fun k => (k : Int) - o.imm.toNat),
    (.vslided o, .g, fun k => (k : Int) + o.imm.toNat), (.vlaneb o, .u, fun _ => (o.imm.toNat : Int))]

section
variable {s : State} (hr : NoReuse s)
include hr

theorem exec_slideMembers_completesPlain (o : OpVI) : ∀ p ∈ slideMembers o, MayGo p.1 (usesVI o) s →
    CompletesPlain (usesVI o) o.vd.toNat s (exec p.1 s) (fun k => s.me.src (srcReg (usesVI o) s 0) (p.2.2 k)) p.2.1 := by
  have slide {i : Instr} {shape : List VReg → Shape} {pos : Nat → Int} : MayGo i (usesVI o) s →
      CompletesPlain (usesVI o) o.vd.toNat s (slideWord i o shape pos s) (fun k => s.me.src (srcReg (usesVI o) s 0) (pos k))
        (shape [srcReg (usesVI o) s 0]) := slideWord_completesPlain hr
  simp only [slideMembers, List.forall_mem_cons, List.not_mem_nil, false_implies, implies_true, and_true]
  dsimp only [exec]
  exact ⟨slide, slide, slide, slide⟩

theorem exec_vperm_completesPlain {o : OpVR} (hg : MayGo (.vperm o) (usesVR o false) s) :
    CompletesPlain (usesVR o false) o.vd.toNat s (exec (.vperm o) s)
      (fun k => s.me.src (srcReg (usesVR o false) s 0) ((((srcReg (usesVR o false) s 1).lane k).toNat % 32 : Nat) : Int)) .g := by
  dsimp only [exec]
  exact permWord_completesPlain hr (List.mem_cons_self ..) hg

/-- The source position of a code below 8: a swap within the quad, or one slot of it (06 R182). -/
theorem exec_vquad_completesPlain {o : OpVI} {pos : Nat → Int} (hg : MayGo (.vquad o) (usesVI o) s)
    (hpos : (o.imm.toNat < 3 ∧ pos = fun k => ((k / 4 * 4 + (k % 4 ^^^ (o.imm.toNat + 1)) : Nat) : Int))
      ∨ (4 ≤ o.imm.toNat ∧ o.imm.toNat < 8 ∧ pos = fun k => ((k / 4 * 4 + (o.imm.toNat - 4) : Nat) : Int))) :
    CompletesPlain (usesVI o) o.vd.toNat s (exec (.vquad o) s) (fun k => s.me.src (srcReg (usesVI o) s 0) (pos k)) .g := by
  have h8 : o.imm.toNat < 8 := by omega
  have code : pos = fun k => ((k / 4 * 4 : Nat) : Int)
      + ((if o.imm.toNat < 4 then (k % 4) ^^^ (o.imm.toNat + 1) else o.imm.toNat - 4 : Nat) : Int) := by
    rcases hpos with ⟨h3, rfl⟩ | ⟨h4, -, rfl⟩
    · simp only [if_pos (show o.imm.toNat < 4 by omega), Nat.cast_add]
    · simp only [if_neg (show ¬ o.imm.toNat < 4 by omega), Nat.cast_add]
  dsimp only [exec]
  rw [code, execVquad, if_pos h8]
  exact slideWord_completesPlain hr hg

end

/-! ## The derivative codes (06 R182) -/

/-- Both positions of a derivative code lie in the quad of the slot. -/
theorem quadPair_lt (c : Nat) {k : Nat} (hk : k < 32) : (quadPair c k).1 < 32 ∧ (quadPair c k).2 < 32 := by
  have or1 : k % 4 ||| 1 < 4 := Nat.or_lt_two_pow (n := 2) (by omega) (by omega)
  have or2 : k % 4 ||| 2 < 4 := Nat.or_lt_two_pow (n := 2) (by omega) (by omega)
  have and1 : k % 4 &&& 1 ≤ 1 := Nat.and_le_right
  have and2 : k % 4 &&& 2 ≤ 2 := Nat.and_le_right
  unfold quadPair
  dsimp only
  split <;> dsimp only <;> omega

/-- The run of a derivative code: each element is one subtraction, in ascending order. -/
def quadRun (s : State) (o : OpVI) (f : Fmt) : LaneRun :=
  runLanes s.me.guardMask s.me.liveMask s.me.seed (fun seed k =>
    fpElems f.width true (modeRnd s.me.mode) (fun l x => fpSub f (fpEnvOf s.me.mode) l (x.getD 0 0) (x.getD 1 0))
      [s.me.src (srcReg (usesVI o) s 0) (quadPair o.imm.toNat k).1, s.me.src (srcReg (usesVI o) s 0) (quadPair o.imm.toNat k).2] seed)

section
variable {o : OpVI} {s : State} (h8 : 8 ≤ o.imm.toNat) (hg : MayGo (.vquad o) (usesVI o) s)
include h8 hg

theorem execVquad_completes {f : Fmt} (hf : fpView (modeEt s.me.mode) = some f) (hr : NoReuse s) :
    ∃ t, exec (.vquad o) s = .next (retire .seq (leaveWord s (usesVI o) t)) ∧ LaneResult o.vd.toNat (quadRun s o f) .g s t := by
  obtain ⟨t, e, result⟩ := vecBody_laneResult (uses := usesVI o)
    (f := vform o.vd.toNat (keyVI (.vquad o)) s.me.mode maskAll (modeRnd s.me.mode == 6) true) (fun _ => .g)
    (fun src seed k => fpElems f.width true (modeRnd s.me.mode) (fun l x => fpSub f (fpEnvOf s.me.mode) l (x.getD 0 0) (x.getD 1 0))
      [s.me.src (src.getD 0 (.uniform 0)) (quadPair o.imm.toNat k).1, s.me.src (src.getD 0 (.uniform 0)) (quadPair o.imm.toNat k).2] seed)
    (sourceRegs s.me (usesVI o) []) hr (List.mem_cons_self ..)
  rw [ite_self] at result
  refine ⟨t, ?_, result⟩
  dsimp only [exec]
  rw [execVquad, if_neg (Nat.not_lt.mpr h8)]
  exact wordG_done hg (by simp only [hf]; exact e)

theorem execVquad_illegal (hf : fpView (modeEt s.me.mode) = none) : exec (.vquad o) s = .next (takeTrap s.qid 0x02
    (BitVec.ofNat 64 ((encode (.vquad o)).toNat + 3 * 2 ^ 32 + 2 ^ 46)) s.me.pc s) := by
  dsimp only [exec]
  rw [execVquad, if_neg (Nat.not_lt.mpr h8)]
  exact wordG_badEt hg (by simp only [hf])

end

/-- Outside RS the run of a derivative code keeps the rounder's state and subtracts each element by itself. -/
theorem quadRun_still {s : State} (o : OpVI) (f : Fmt) (h : modeRnd s.me.mode ≠ 6) :
    (quadRun s o f).seed = s.me.seed ∧ ∀ k j, k < 32 → j < 32 / f.width → elemOf f.width j ((quadRun s o f).vals.getD k 0)
      = (fpSub f (fpEnvOf s.me.mode) 0
          (elemOf f.width j (s.me.src (srcReg (usesVI o) s 0) (quadPair o.imm.toNat k).1))
          (elemOf f.width j (s.me.src (srcReg (usesVI o) s 0) (quadPair o.imm.toNat k).2))).1 % 2 ^ f.width := by
  have still (x : List W32) (seed : W32) := fpElems_still (w := f.width) (rounds := true)
    (fun l x => fpSub f (fpEnvOf s.me.mode) l (x.getD 0 0) (x.getD 1 0)) x seed (.inr h)
  have kept (k : Nat) : (fpElems f.width true (modeRnd s.me.mode) (fun l x => fpSub f (fpEnvOf s.me.mode) l (x.getD 0 0) (x.getD 1 0))
      [s.me.src (srcReg (usesVI o) s 0) (quadPair o.imm.toNat k).1, s.me.src (srcReg (usesVI o) s 0) (quadPair o.imm.toNat k).2]
      s.me.seed).2.2 = s.me.seed := by rw [still]
  refine ⟨(runLanes_still kept).2, fun k j hk hj => ?_⟩
  rw [quadRun, runLanes_still_slot kept hk, still, elemOf_mapElems _ _ hj]
  rfl

/-! ## The scatter (06 R180) -/

/-- Of the positions up to n that meet a test, a fold that keeps the last finds the highest. -/
theorem foldl_last_none {α : Type} {P : Nat → Bool} {a : Nat → α} {n : Nat} (h : ∀ k, k < n → P k = false) :
    (List.range n).foldl (fun r k => if P k then some (a k) else r) none = none := by
  induction n with
  | zero => rfl
  | succ n ih =>
    rw [List.range_succ, List.foldl_append, ih fun k hk => h k (by omega)]
    simp [h n (by omega)]

theorem foldl_last_some {α : Type} {P : Nat → Bool} {a : Nat → α} {n j : Nat} (hj : j < n) (hP : P j = true)
    (top : ∀ k, k < n → P k = true → k ≤ j) :
    (List.range n).foldl (fun r k => if P k then some (a k) else r) none = some (a j) := by
  induction n with
  | zero => exact absurd hj (Nat.not_lt_zero j)
  | succ n ih =>
    rw [List.range_succ, List.foldl_append, List.foldl_cons, List.foldl_nil]
    rcases Nat.lt_or_ge j n with lower | same
    · have last : P n = false := by
        by_contra hn
        have := top n (by omega) (by simpa using hn)
        omega
      rw [ih lower fun k hk => top k (by omega), last]
      rfl
    · obtain rfl : j = n := by omega
      rw [if_pos hP]

/-- Slot j sends to slot t. -/
def Group.sends (g : Group) (b : VReg) (j t : Nat) : Prop := j < 32 ∧ g.guardMask.getLsbD j = true ∧ (b.lane j).toNat % 32 = t

section
variable {g : Group} (a : VReg) {b : VReg} {t : Nat}

theorem scatterTo_of_dead (ht : g.live t = false ∧ g.helper t = false) : scatterTo g a b t = none := by
  simp [scatterTo, ht]

theorem scatterTo_of_unsent (h : ∀ j, ¬ g.sends b j t) : scatterTo g a b t = none := by
  unfold scatterTo
  split
  · refine foldl_last_none fun k hk => ?_
    by_contra hs
    exact h k ⟨hk, by simpa using hs⟩
  · rfl

theorem scatterTo_of_highest {j : Nat} (ht : g.live t = true ∨ g.helper t = true) (hj : g.sends b j t)
    (top : ∀ j', g.sends b j' t → j' ≤ j) : scatterTo g a b t = some (a.lane j) := by
  obtain ⟨hlt, acts⟩ := hj
  have there : (g.live t || g.helper t) = true := by simpa using ht
  rw [scatterTo, if_pos there]
  exact foldl_last_some hlt (by simpa using acts) fun k hk hs => top k ⟨hk, by simpa using hs⟩

/-- A slot is written where some slot sends to it and it is live or a helper. -/
theorem scatterTo_isSome : (scatterTo g a b t).isSome = true ↔ (g.live t = true ∨ g.helper t = true) ∧ ∃ j, g.sends b j t := by
  constructor
  · intro h
    refine ⟨?_, ?_⟩
    · by_contra dead
      simp only [not_or, Bool.not_eq_true] at dead
      simp [scatterTo_of_dead a dead] at h
    · by_contra unsent
      simp [scatterTo_of_unsent a (not_exists.mp unsent)] at h
  · rintro ⟨ht, j, hj⟩
    classical
    have below {j : Nat} (hs : g.sends b j t) : j ≤ 31 := Nat.le_of_lt_succ hs.1
    rw [scatterTo_of_highest a ht (Nat.findGreatest_spec (P := fun j => g.sends b j t) (below hj) hj) fun j' hj' => Nat.le_findGreatest (below hj') hj']
    rfl

end

/-- The slots that a scatter writes. -/
def scatterMask (g : Group) (a b : VReg) : W32 := maskOf (fun t => (scatterTo g a b t).isSome)

/-- The value of a scatter: the written slots stand in the place of the guard (06 R180). -/
def scatterReg (g : Group) (a b old : VReg) : VReg :=
  if scatterMask g a b &&& g.liveMask == g.liveMask then generalReg old (scatterMask g a b) (fun t => (scatterTo g a b t).getD 0)
  else mergeReg old (scatterMask g a b) (fun t => (scatterTo g a b t).getD 0)

theorem scatterReg_lane (g : Group) (a b old : VReg) {k : Nat} (hk : k < 32) :
    (scatterReg g a b old).lane k = (scatterTo g a b k).getD (old.lane k) := by
  have merged : (scatterReg g a b old).lane k
      = if (scatterMask g a b).getLsbD k then (scatterTo g a b k).getD 0 else old.lane k := by
    unfold scatterReg
    split
    · exact generalReg_lane _ _ _ hk
    · exact mergeReg_lane _ _ _ hk
  rw [merged, scatterMask, maskOf_getLsbD _ _ hk]
  cases scatterTo g a b k <;> rfl

/-! ## Eligible words beside the shared frame -/

/-- Where no record of the reuse table hits, an eligible word delivers its value and touches no flag. -/
theorem putReused_delivers {n : Nat} {key : Option (List Nat)} {s : State} (names : List Nat) (flags : Flags) (r : VReg)
    (hr : NoReuse s) (hk : key ≠ none → n < 112) :
    Delivers n r s (putReused n key names flags r s) ∧ SameFlags s (putReused n key names flags r s) := by
  have me := putReused_me names flags r hr hk
  obtain ⟨v, full, bad, ports, dest⟩ := putDest_me n r s
  refine ⟨(putDest_delivers n r s).of_me ?_ ?_ ?_, ?_, ?_⟩
  all_goals rw [me]
  all_goals rw [dest]

/-- What VBPERM does: a register takes the scattered value, a write port takes it for the live slots that are written. -/
theorem exec_vbperm_completes {o : OpVR} {s : State} {a b r : VReg} (hg : MayGo (.vbperm o) (usesVR o false) s) (hr : NoReuse s)
    (ha : a = srcReg (usesVR o false) s 0) (hb : b = srcReg (usesVR o false) s 1)
    (hv : r = scatterReg s.me a b (s.me.vreg o.vd.toNat)) :
    ∃ t, exec (.vbperm o) s = .next (retire .seq (leaveWord s (usesVR o false) t))
      ∧ (o.vd.toNat < 112 → Delivers o.vd.toNat r s t) ∧ SameFlags s t
      ∧ (112 ≤ o.vd.toNat → t.me.ports = (s.me.pushPort o.vd.toNat r.lanes (scatterMask s.me a b &&& s.me.liveMask)).ports) := by
  subst ha hb hv
  dsimp only [exec]
  by_cases port : o.vd.toNat < 112
  · obtain ⟨delivers, flags⟩ := putReused_delivers (key := if s.me.reusable && decide (o.vd.toNat < 112) && decide (o.va.toNat < 112)
        && decide (o.vb.toNat < 112) then some (aluKey s.me (keyVR (.vbperm o)) (modeKey s.me.mode maskG) true
          (sourceRegs s.me (usesVR o false) [])) else none)
      ((sourceRegs s.me (usesVR o false) []).flatMap VReg.entries) 0
      (scatterReg s.me (srcReg (usesVR o false) s 0) (srcReg (usesVR o false) s 1) (s.me.vreg o.vd.toNat)) hr (fun _ => port)
    exact ⟨_, wordG_done hg (if_pos port), fun _ => delivers, flags, fun h => absurd port (Nat.not_lt.mpr h)⟩
  · refine ⟨_, wordG_done hg (if_neg port), fun h => absurd h port, ?_, fun _ => by rw [me_modMe]; rfl⟩
    unfold SameFlags Group.pushPort
    rw [me_modMe]
    split <;> exact ⟨rfl, rfl⟩

/-- Settles O30: the permutes are lane by lane by their source positions, a derivative code subtracts the two positions of its row
(`quadRun_still`), and a scatter finds the highest sender of each slot (`scatterTo_of_highest`). -/
theorem permutes : Obligations.Permutes := by
  unfold Obligations.Permutes
  refine ⟨?_, ?_, ?_⟩
  · intro s i uses vd sh pos src hform hg hr
    rcases hform with ⟨o, rfl, rfl, rfl, rfl, rfl⟩ | ⟨o, rfl, rfl, hm⟩ | ⟨o, c, rfl, rfl, rfl, rfl, rfl, hpos⟩
    · exact exec_vperm_completesPlain hr hg
    · exact exec_slideMembers_completesPlain hr o (i, sh, pos) hm hg
    · exact exec_vquad_completesPlain hr hg hpos
  · intro o s p q uses src hm hg
    have row : 8 ≤ o.imm.toNat ∧ p = (fun k => (quadPair o.imm.toNat k).1) ∧ q = fun k => (quadPair o.imm.toNat k).2 := by
      simp only [List.mem_cons, List.not_mem_nil, or_false, Prod.mk.injEq] at hm
      rcases hm with ⟨hc, rfl, rfl⟩ | ⟨hc, rfl, rfl⟩ | ⟨hc, rfl, rfl⟩ | ⟨hc, rfl, rfl⟩ <;> rw [hc] <;> exact ⟨by decide, rfl, rfl⟩
    obtain ⟨h8, rfl, rfl⟩ := row
    refine ⟨fun fm hf hr hs => ?_, execVquad_illegal h8 hg⟩
    obtain ⟨t, e, result⟩ := execVquad_completes h8 hg hf hr
    obtain ⟨seed, elements⟩ := quadRun_still o fm hs
    refine ⟨t, _, e, result, seed, fun k j hk hj => ?_⟩
    obtain ⟨hp, hq⟩ := quadPair_lt o.imm.toNat hk
    rw [elements k j hk hj, Group.src_slot _ _ hp, Group.src_slot _ _ hq]
    rfl
  · intro o s send uses hg hr hsend
    obtain ⟨t, e, delivers, flags, port⟩ := exec_vbperm_completes hg hr rfl rfl rfl
    have sends (j k : Nat) : send j k ↔ s.me.sends (srcReg (usesVR o false) s 1) j k := by rw [hsend]; rfl
    simp only [sends]
    refine ⟨t, _, e, delivers, flags, fun h => ⟨_, port h, fun k hk => ?_⟩, fun k hk => ⟨?_, ?_⟩⟩
    · rw [BitVec.getLsbD_and, scatterMask, maskOf_getLsbD _ _ hk, s.me.liveMask_getLsbD k hk, Bool.and_eq_true, scatterTo_isSome]
      tauto
    · rintro (unsent | dead) <;> rw [scatterReg_lane _ _ _ _ hk]
      · rw [scatterTo_of_unsent _ unsent]; rfl
      · rw [scatterTo_of_dead _ dead]; rfl
    · intro there j hj top
      rw [scatterReg_lane _ _ _ _ hk, scatterTo_of_highest _ there hj top]
      rfl

end Sys2Proof.Machine
end

section
/-!
CONVERSIONS, BLOCK SCALING AND COMPARISONS (O29). A conversion outside RS treats each element by itself, a block is written whole, and
the eight relations are those of the order of two numbers, which is none where one is NaN.
-/

namespace Sys2Proof.Machine

/-! ## Elements of a lane computed in ascending order (01 R22) -/

/-- Where no step moves the rounder's state, the elements of a lane are computed each by itself, and their flags are ORed. -/
theorem foldl_elements {step : Nat → W32 → Nat × Flags × W32} {seed : W32} (h : ∀ j, (step j seed).2.2 = seed) (n : Nat) :
    (List.range n).foldl (fun (acc : List Nat × Flags × W32) j =>
        (acc.1 ++ [(step j acc.2.2).1], acc.2.1 ||| (step j acc.2.2).2.1, (step j acc.2.2).2.2)) ([], 0, seed)
      = ((List.range n).map (fun j => (step j seed).1), (List.range n).foldl (fun fl j => fl ||| (step j seed).2.1) 0, seed) := by
  induction n with
  | zero => rfl
  | succ n ih => rw [List.range_succ, List.foldl_append, ih]; simp [h]

/-- An element above those that a lane is packed from is 0. -/
theorem elemOf_packElems_above {w : Nat} {es : List Nat} {j : Nat} (hw : w * es.length ≤ 32) (hj : es.length ≤ j) :
    elemOf w j (packElems w es) = 0 := by
  have below : packedSum w es < 2 ^ (w * j) := (packedSum_lt w es).trans_le (Nat.pow_le_pow_right (by decide) (Nat.mul_le_mul_left w hj))
  have fits : packedSum w es < 2 ^ 32 := (packedSum_lt w es).trans_le (Nat.pow_le_pow_right (by decide) hw)
  rw [packElems_eq, elemOf, BitVec.toNat_ofNat, Nat.mod_eq_of_lt fits, Nat.div_eq_of_lt below, Nat.zero_mod]

/-! ## VCVT (06 R176) -/

def usesCV (o : OpCV) : List Use := [.vd o.vd.toNat, .vs o.va.toNat o.ta 1]

/-- A conversion that draws no bits converts the elements that both types have, each by itself, and keeps the rounder's state. -/
theorem cvtLane_still {st dt : CvtType} {env : FpEnv} (h : (cvtRounds st dt && env.rnd == 6) = false) (x seed : W32) :
    (cvtLane st dt env x seed).1
        = packElems dt.w ((List.range (min (32 / st.w) (32 / dt.w))).map (fun j => (cvtElem st dt env 0 (elemOf st.w j x)).1))
      ∧ (cvtLane st dt env x seed).2.2 = seed := by
  have draw (sd : W32) : (if cvtRounds st dt then drawRound env.rnd sd else (sd, 0)) = (sd, 0) := by
    split
    · next rounds => simp [drawRound, show (env.rnd == 6) = false by simpa [rounds] using h]
    · rfl
  have elements := foldl_elements (step := fun j sd => ((cvtElem st dt env 0 (elemOf st.w j x)).1,
    (cvtElem st dt env 0 (elemOf st.w j x)).2, sd)) (seed := seed) (fun _ => rfl) (min (32 / st.w) (32 / dt.w))
  unfold cvtLane
  simp only [draw, elements, and_self]

/-- The element j of such a conversion: the converted element where both types have it, else 0. -/
theorem elemOf_cvtLane {st dt : CvtType} {env : FpEnv} (h : (cvtRounds st dt && env.rnd == 6) = false) (x seed : W32) {j : Nat}
    (hj : j < 32 / dt.w) : elemOf dt.w j (cvtLane st dt env x seed).1
      = if j < 32 / st.w then (cvtElem st dt env 0 (elemOf st.w j x)).1 % 2 ^ dt.w else 0 := by
  have fits : dt.w * min (32 / st.w) (32 / dt.w) ≤ 32 := (Nat.mul_le_mul_left _ (min_le_right _ _)).trans (Nat.mul_div_le 32 dt.w)
  rw [(cvtLane_still h x seed).1]
  split
  · next hs =>
    have both : j < min (32 / st.w) (32 / dt.w) := lt_min hs hj
    rw [elemOf_packElems (by simpa using fits) (by simpa using both), List.getD_eq_getElem?_getD]
    simp only [List.getElem?_map, List.getElem?_range both, Option.map_some, Option.getD_some]
  · next hs => exact elemOf_packElems_above (by simpa using fits) (by simp; omega)

/-- The run of a conversion. -/
def cvtRun (s : State) (o : OpCV) : LaneRun :=
  runLanes s.me.guardMask s.me.liveMask s.me.seed (fun seed k =>
    cvtLane (cvtType o.st.toNat) (cvtType o.dt.toNat) (fpEnvRnd s.me.mode o.rnd.toNat)
      ((srcReg (usesCV o) s 0).lane k) seed)

theorem exec_vcvt_completes {o : OpCV} {s : State} (hg : MayGo (.vcvt o) (usesCV o) s) (hr : NoReuse s) :
    ∃ t, exec (.vcvt o) s = .next (retire .seq (leaveWord s (usesCV o) t))
      ∧ LaneResult o.vd.toNat (cvtRun s o)
        (if cvtRounds (cvtType o.st.toNat) (cvtType o.dt.toNat) && (fpEnvRnd s.me.mode o.rnd.toNat).rnd == 6 then .g
          else shapeElem (sourceRegs s.me (usesCV o) [])) s t := by
  obtain ⟨t, e, result⟩ := vecBody_laneResult (uses := usesCV o)
    (f := { vform o.vd.toNat (keyVI (.vcvt o)) s.me.mode
        (maskG ||| maskSat ||| maskFtz ||| maskNanp ||| (if o.rnd = 0 then maskRnd else 0))
        (cvtRounds (cvtType o.st.toNat) (cvtType o.dt.toNat) && (fpEnvRnd s.me.mode o.rnd.toNat).rnd == 6) false with
      eligible := (fpEnvRnd s.me.mode o.rnd.toNat).rnd != 6 }) shapeElem
    (fun src seed k => cvtLane (cvtType o.st.toNat) (cvtType o.dt.toNat) (fpEnvRnd s.me.mode o.rnd.toNat)
      ((src.map (fun r => r.lane k)).getD 0 0) seed)
    (sourceRegs s.me (usesCV o) []) hr (List.mem_cons_self ..)
  simp only [getD_map_lane] at result
  refine ⟨t, ?_, result⟩
  dsimp only [exec]
  exact wordG_done hg (by exact e)

/-- A conversion that draws no bits keeps the rounder's state and converts each element by itself. -/
theorem cvtRun_still {s : State} {o : OpCV}
    (h : (cvtRounds (cvtType o.st.toNat) (cvtType o.dt.toNat) && (fpEnvRnd s.me.mode o.rnd.toNat).rnd == 6) = false) :
    (cvtRun s o).seed = s.me.seed ∧ ∀ k j, k < 32 → j < 32 / (cvtType o.dt.toNat).w →
      elemOf (cvtType o.dt.toNat).w j ((cvtRun s o).vals.getD k 0) = if j < 32 / (cvtType o.st.toNat).w
        then (cvtElem (cvtType o.st.toNat) (cvtType o.dt.toNat) (fpEnvRnd s.me.mode o.rnd.toNat) 0 (elemOf (cvtType o.st.toNat).w j
          ((srcReg (usesCV o) s 0).lane k))).1 % 2 ^ (cvtType o.dt.toNat).w else 0 := by
  have kept (k : Nat) : (cvtLane (cvtType o.st.toNat) (cvtType o.dt.toNat) (fpEnvRnd s.me.mode o.rnd.toNat)
      ((srcReg (usesCV o) s 0).lane k) s.me.seed).2.2 = s.me.seed := (cvtLane_still h _ _).2
  refine ⟨(runLanes_still kept).2, fun k j hk hj => ?_⟩
  rw [cvtRun, runLanes_still_slot kept hk]
  exact elemOf_cvtLane h _ _ hj

/-! ## Block scaling (06 R177) -/

def usesMX (o : OpMX) : List Use := [.vd o.vd.toNat, .vs o.va.toNat o.ta 1]

/-- The run of a dequantization: each slot is one rounding place. -/
def mxdRun (s : State) (o : OpMX) : LaneRun :=
  runLanes s.me.guardMask s.me.liveMask s.me.seed (fun seed k =>
    let d := drawRound (modeRnd s.me.mode) seed
    let r := mxDequant o.fmt.toNat (fpEnvOf s.me.mode) d.2 k (srcReg (usesMX o) s 0)
    (BitVec.ofNat 32 r.1, r.2, d.1))

theorem exec_vmxd_completes {o : OpMX} {s : State} (hg : MayGo (.vmxd o) (usesMX o) s) (hr : NoReuse s) :
    ∃ t, exec (.vmxd o) s = .next (retire .seq (leaveWord s (usesMX o) t))
      ∧ LaneResult o.vd.toNat (mxdRun s o) .g s t := by
  obtain ⟨t, e, result⟩ := vecBody_laneResult (uses := usesMX o)
    (f := vform o.vd.toNat (keyVI (.vmxd o)) s.me.mode (maskG ||| maskFtz ||| maskRnd ||| maskSat ||| maskNanp)
      (modeRnd s.me.mode == 6) false) (fun _ => .g)
    (fun src seed k =>
      let d := drawRound (modeRnd s.me.mode) seed
      let r := mxDequant o.fmt.toNat (fpEnvOf s.me.mode) d.2 k (src.getD 0 (.uniform 0))
      (BitVec.ofNat 32 r.1, r.2, d.1))
    (sourceRegs s.me (usesMX o) []) hr (List.mem_cons_self ..)
  rw [ite_self] at result
  refine ⟨t, ?_, result⟩
  dsimp only [exec]
  exact wordG_done hg (by exact e)

/-- Outside RS each slot of a dequantization is computed by itself. -/
theorem mxdRun_still {s : State} (o : OpMX) (h : modeRnd s.me.mode ≠ 6) :
    (mxdRun s o).seed = s.me.seed ∧ ∀ k, k < 32 → (mxdRun s o).vals.getD k 0 = BitVec.ofNat 32
      (mxDequant o.fmt.toNat (fpEnvOf s.me.mode) 0 k (srcReg (usesMX o) s 0)).1 := by
  have draw (seed : W32) : drawRound (modeRnd s.me.mode) seed = (seed, 0) := by simp [drawRound, h]
  unfold mxdRun
  simp only [draw]
  exact ⟨(runLanes_still fun _ => rfl).2, fun k hk => runLanes_still_slot (fun _ => rfl) hk⟩

/-! A register that takes a whole general value holds its list, under a name of the store of its core (02 R58). -/

theorem count_cores {s u : State} {core ev vf k : Nat} (h : ∃ cs, u = { s with cores := cs }) :
    ∃ cs, count core ev vf k u = { s with cores := cs } := by
  obtain ⟨c, rfl⟩ := h
  exact count_eq core ev vf k { s with cores := c }

theorem putVq_general (q n k : Nat) (l : List W32) (s : State) : ∃ name cs,
    putVq q n (.general k l) s = modGroup q (Group.writeV n (.general name l)) { s with cores := cs } := by
  unfold putVq
  dsimp only
  generalize Core.enter _ _ _ _ = entry
  have entered : ∃ cs, modCore (coreOf q) (fun _ => entry.2) (modCore (coreOf q) (Core.releaseReg ((groupAt s q).vreg n)) s)
    = { s with cores := cs } := ⟨_, rfl⟩
  obtain ⟨cs, e⟩ := count_cores (core := coreOf q) (ev := evDedup) (vf := (groupAt s q).vf) (k := entry.1.dedup)
    (count_cores (core := coreOf q) (ev := evCollide) (vf := (groupAt s q).vf) (k := entry.1.collide)
      (count_cores (core := coreOf q) (ev := evRefsat) (vf := (groupAt s q).vf) (k := entry.1.refsat) entered))
  exact ⟨entry.1.name, cs, congrArg (modGroup q (Group.writeV n (.general entry.1.name l))) e⟩

theorem putDest_general {n : Nat} (k : Nat) (l : List W32) (s : State) (hn : n < 112) :
    ∃ name, (putDest n (.general k l) s).me.vreg n = .general name l := by
  obtain ⟨name, cs, e⟩ := putVq_general s.qid n k l s
  have held : (putVq s.qid n (.general k l) s).me.vreg n = .general name l := by
    have me : (modGroup s.qid (Group.writeV n (.general name l)) { s with cores := cs }).me = _ :=
      me_modMe (Group.writeV n (.general name l)) { s with cores := cs }
    rw [e, me, Group.vreg_writeV_same]
  refine ⟨name, ?_⟩
  rw [putDest, if_pos hn, putV]
  split
  · exact held
  · rw [me_modMe, ← held]
    simp only [Group.vreg]

/-- VMXQ quantizes the slots under the guard, the others as 0, and writes the whole block (01 R29). -/
theorem exec_vmxq_completes {o : OpMX} {s : State} {xs : List W32}
    (hg : MayGo (.vmxq o) (usesMX o) s) (hr : NoReuse s) (hd : o.vd.toNat < 112)
    (hx : xs = (List.range 32).map (fun k => if s.me.guardMask.getLsbD k
      then (srcReg (usesMX o) s 0).lane k else 0)) :
    ∃ t n, exec (.vmxq o) s = .next (retire .seq (leaveWord s (usesMX o) t))
      ∧ t.me.vreg o.vd.toNat = .general n (mxQuantize o.fmt.toNat (modeFtz s.me.mode) s.me.liveMask xs).1
      ∧ t.me.vFull o.vd.toNat = true
      ∧ t.me.fpstat = s.me.fpstat ||| (mxQuantize o.fmt.toNat (modeFtz s.me.mode) s.me.liveMask xs).2 := by
  subst hx
  let r := mxQuantize o.fmt.toNat (modeFtz s.me.mode) s.me.liveMask ((List.range 32).map (fun k =>
    if s.me.guardMask.getLsbD k then (srcReg (usesMX o) s 0).lane k else 0))
  obtain ⟨name, held⟩ := putDest_general 0 r.1 s hd
  have done : ∃ key, exec (.vmxq o) s = .next (retire .seq (leaveWord s (usesMX o) (raiseMe r.2
      (putReused o.vd.toNat key ((sourceRegs s.me (usesMX o) []).flatMap VReg.entries) r.2
        (.general 0 r.1) s)))) := ⟨_, by dsimp only [exec]; exact wordG_done hg (by rfl)⟩
  obtain ⟨key, e⟩ := done
  obtain ⟨delivers, flags⟩ := putReused_delivers (key := key)
    ((sourceRegs s.me (usesMX o) []).flatMap VReg.entries) r.2 (.general 0 r.1) hr (fun _ => hd)
  have me := putReused_me (key := key) ((sourceRegs s.me (usesMX o) []).flatMap VReg.entries) r.2
    (.general 0 r.1) hr (fun _ => hd)
  refine ⟨_, name, e, ?_, ?_, ?_⟩ <;> rw [raiseMe, me_modMe]
  · exact (congrArg (Group.vreg · o.vd.toNat) me).trans held
  · exact delivers.full hd
  · exact congrArg (· ||| r.2) flags.1

/-! ## Comparison (06 R178) -/

def usesCmp (o : OpVCmp) : List Use := [.vs o.va.toNat o.ta 1, .vs o.vb.toNat o.tb 2]

theorem fpLess_asymm {x y : Fpv} (h : fpLess false x y = true) : fpLess false y x = false := by
  cases x <;> cases y <;> simp_all [fpLess, min_comm]
  case fin.fin => omega

def Fpv.isNan : Fpv → Bool
  | .nan _ _ => true
  | _ => false

/-- A NaN is neither below nor above anything. -/
theorem fpLess_nan {x y : Fpv} (h : (x.isNan || y.isNan) = true) : fpLess false x y = false := by
  cases x <;> cases y <;> simp_all [fpLess, Fpv.isNan]

/-- The relation of a code from three tests: the operands are unordered, the first is less, the first is greater. -/
def testRelation (op : Nat) (un lt gt : Bool) : Bool :=
  match op with
  | 0 => !un && !lt && !gt
  | 1 => un || lt || gt
  | 2 => !un && lt
  | 3 => !un && !gt
  | 4 => !un && gt
  | 5 => !un && !lt
  | 6 => un
  | _ => !un

/-- The relation of a code in the order of two numbers, which is none where one is NaN: only NE and UNORD hold of a NaN. -/
def orderRelation (op : Nat) (r : Option Ordering) : Bool :=
  match op with
  | 0 => r == some .eq
  | 1 => r != some .eq
  | 2 => r == some .lt
  | 3 => r == some .lt || r == some .eq
  | 4 => r == some .gt
  | 5 => r == some .gt || r == some .eq
  | 6 => r.isNone
  | _ => r.isSome

theorem orderRelation_eq (op : Nat) {un lt gt : Bool} (hlt : lt = true → gt = false) (hun : un = true → lt = false ∧ gt = false) :
    orderRelation op (if un then none else some (if lt then .lt else if gt then .gt else .eq)) = testRelation op un lt gt := by
  rcases op with _ | _ | _ | _ | _ | _ | _ | op <;> cases un <;> cases lt <;> cases gt <;> simp_all [orderRelation, testRelation]

section
variable (f : Fmt) (ftz : Bool) (a b : Nat)

theorem fpOrder_eq : fpOrder f ftz a b = if (fpInput f ftz a).isNan || (fpInput f ftz b).isNan then none
    else some (if fpLess false (fpInput f ftz a) (fpInput f ftz b) then .lt
      else if fpLess false (fpInput f ftz b) (fpInput f ftz a) then .gt else .eq) := by
  unfold fpOrder
  cases fpInput f ftz a <;> cases fpInput f ftz b <;> rfl

theorem fpRelation_eq (op : Nat) : fpRelation f ftz op a b = orderRelation op (fpOrder f ftz a b) := by
  rw [fpOrder_eq, orderRelation_eq op fpLess_asymm fun un => ⟨fpLess_nan un, fpLess_nan (Bool.or_comm .. ▸ un)⟩]
  unfold fpRelation
  cases fpInput f ftz a <;> cases fpInput f ftz b <;> rfl

end

/-- A lane's relation holds for every element, of the integers or of the numbers that ET gives it. -/
theorem laneRelation_eq (m : W32) (op : Nat) (a b : W32) : laneRelation m op a b = match fpView (modeEt m) with
    | none => (List.range (intView (modeEt m)).n).all (fun j => intRelation op
        (intValue (intView (modeEt m)).signed (intView (modeEt m)).w (elemOf (intView (modeEt m)).w j a))
        (intValue (intView (modeEt m)).signed (intView (modeEt m)).w (elemOf (intView (modeEt m)).w j b)))
    | some f => (List.range (32 / f.width)).all (fun j =>
        orderRelation op (fpOrder f (modeFtz m) (elemOf f.width j a) (elemOf f.width j b))) := by
  unfold laneRelation
  cases fpView (modeEt m) with
  | none => rfl
  | some f => simp only [fpRelation_eq]

/-- The members with their relations of integers and of the order of two numbers. -/
def cmpMembers (o : OpVCmp) : List (Instr × (Int → Int → Bool) × (Option Ordering → Bool)) :=
  [(.vcmpEq o, fun a b => decide (a = b), fun r => r == some .eq),
    (.vcmpNe o, fun a b => decide (a ≠ b), fun r => r != some .eq),
    (.vcmpLt o, fun a b => decide (a < b), fun r => r == some .lt),
    (.vcmpLe o, fun a b => decide (a ≤ b), fun r => r == some .lt || r == some .eq),
    (.vcmpGt o, fun a b => decide (a > b), fun r => r == some .gt),
    (.vcmpGe o, fun a b => decide (a ≥ b), fun r => r == some .gt || r == some .eq),
    (.vcmpUnord o, fun _ _ => false, fun r => r.isNone), (.vcmpOrd o, fun _ _ => true, fun r => r.isSome)]

/-- Each is the comparison of a code. -/
theorem exec_cmpMembers (o : OpVCmp) (s : State) : ∀ p ∈ cmpMembers o, ∃ op, exec p.1 s = cmpWord p.1 o op s
    ∧ p.2.1 = intRelation op ∧ p.2.2 = orderRelation op := by
  have ne : (fun a b : Int => decide (a ≠ b)) = intRelation 1 := by
    funext a b
    exact decide_not
  simp only [cmpMembers, List.forall_mem_cons, List.not_mem_nil, false_implies, implies_true, and_true]
  dsimp only [exec]
  exact ⟨⟨0, rfl, rfl, rfl⟩, ⟨1, rfl, ne, rfl⟩, ⟨2, rfl, rfl, rfl⟩, ⟨3, rfl, rfl, rfl⟩, ⟨4, rfl, rfl, rfl⟩, ⟨5, rfl, rfl, rfl⟩,
    ⟨6, rfl, rfl, rfl⟩, ⟨7, rfl, rfl, rfl⟩⟩

/-- A comparison completes: a live slot under the guard takes the relation of its lanes, a live slot outside it keeps its bit. -/
theorem cmpWord_completes {i : Instr} {o : OpVCmp} (op : Nat) {s : State}
    (hg : MayGo i (usesCmp o) s) :
    ∃ p, cmpWord i o op s = .next (retire .seq (leaveWord s (usesCmp o)
        (modMe (Group.writeP o.pd.toNat p) s)))
      ∧ ∀ k, k < 32 → (p &&& s.me.liveMask).getLsbD k = (s.me.live k &&
        (if s.me.guardMask.getLsbD k then
          laneRelation s.me.mode op ((srcReg (usesCmp o) s 0).lane k)
            ((srcReg (usesCmp o) s 1).lane k)
        else (s.me.readP o.pd.toNat).getLsbD k)) := by
  refine ⟨_, wordG_done hg (by rfl), fun k hk => ?_⟩
  simp only [BitVec.getLsbD_and, BitVec.getLsbD_or, BitVec.getLsbD_not, hk, maskOf_getLsbD _ _ hk, s.me.liveMask_getLsbD k hk]
  cases s.me.guardMask.getLsbD k <;> simp [srcReg, Bool.and_comm]

/-- Settles O29: a conversion outside RS treats each element by itself (`cvtRun_still`), VMXQ leaves its whole block in the register
(`exec_vmxq_completes`), VMXD computes each slot by itself (`mxdRun_still`), and a comparison is a relation of the order of its operands
(`fpRelation_eq`). -/
theorem conversionsAndCompares : Obligations.ConversionsAndCompares := by
  unfold Obligations.ConversionsAndCompares
  refine ⟨⟨?_, ?_, ?_⟩, ?_⟩
  · intro o s uses env st dt draws hg hr _ _
    obtain ⟨t, e, result⟩ := exec_vcvt_completes hg hr
    exact ⟨t, _, e, result, cvtRun_still⟩
  · intro o s uses hg hr hs
    obtain ⟨t, e, result⟩ := exec_vmxd_completes hg hr
    exact ⟨t, _, e, result, mxdRun_still o hs⟩
  · intro o s uses xs hg hr hd
    exact exec_vmxq_completes hg hr hd rfl
  · intro o s i rel frel uses v a b hm hg
    obtain ⟨op, code, rfl, rfl⟩ := exec_cmpMembers o s (i, rel, frel) hm
    obtain ⟨p, e, bits⟩ := cmpWord_completes op hg
    refine ⟨p, code.trans e, fun k hk => ?_⟩
    rw [bits k hk, laneRelation_eq]
    rfl

end Sys2Proof.Machine
end

section
/-!
SCANS AND REDUCTIONS (O31). Outside RS a combination of lanes depends on its lanes alone; then a scan's chain and a reduction's tree are
the functions `chainVal` and `treeVal` of the contributing slots.
-/

namespace Sys2Proof.Machine

/-! ## Combinations (01 R32, R33) -/

/-- A combination under which the rounder's state stays. -/
def Combine.Still (c : Combine) : Prop := ∀ a b seed, (c.op a b seed).2.2 = seed

/-- Only a rounded sum under RS draws bits (01 R22). -/
theorem combineOf_still {m : W32} {kind : Nat} (h : ¬ (kind = 0 ∧ (fpView (modeEt m)).isSome = true ∧ modeRnd m = 6)) :
    (combineOf m kind).Still := by
  intro a b seed
  unfold combineOf
  dsimp only
  split
  case h_6 f hf =>
    have hr : modeRnd m ≠ 6 := fun hr => h ⟨rfl, by simp [hf], hr⟩
    simp [fpEnvOf, drawRound, hr]
  all_goals rfl

section
variable {c : Combine} (hc : c.Still)
include hc

theorem Combine.lanes_still (a b seed : W32) : (c.lanes a b seed).1 = packElems c.w ((List.range (32 / c.w)).map (fun j =>
      (c.op (elemOf c.w j a) (elemOf c.w j b) seed).1)) ∧ (c.lanes a b seed).2.2 = seed := by
  have elements := foldl_elements (step := fun j sd => c.op (elemOf c.w j a) (elemOf c.w j b) sd) (seed := seed)
    (fun j => hc _ _ seed) (32 / c.w)
  unfold Combine.lanes
  dsimp only
  rw [elements]
  exact ⟨rfl, rfl⟩

/-- Elements combine each with the same element (01 R15). -/
theorem Combine.elemOf_lanes (a b seed : W32) {j : Nat} (hj : j < 32 / c.w) :
    elemOf c.w j (c.lanes a b seed).1 = (c.op (elemOf c.w j a) (elemOf c.w j b) seed).1 % 2 ^ c.w := by
  rw [(lanes_still hc a b seed).1, elemOf_packElems (by simpa using Nat.mul_div_le 32 c.w) (by simpa using hj),
    List.getD_eq_getElem?_getD]
  simp [hj]

end

/-- Every element of the unit is the identity. -/
theorem Combine.elemOf_unit (c : Combine) {j : Nat} (hj : j < 32 / c.w) : elemOf c.w j c.unit = c.identity % 2 ^ c.w := by
  rw [Combine.unit, elemOf_packElems (by simpa using Nat.mul_div_le 32 c.w) (by simpa using hj), List.getD_eq_getElem?_getD]
  simp [hj]

/-- The lanes of a combination, with its flags, at a state of the rounder. -/
def Combine.pair (c : Combine) (seed x y : W32) : W32 × Flags := ((c.lanes x y seed).1, (c.lanes x y seed).2.1)

/-! ## The chain (01 R33) -/

/-- A chain goes on to another lane: with none before it the lane itself, else their combination. -/
def chainStep (f : W32 → W32 → W32 × Flags) (x : Option (W32 × Flags)) (y : W32) : W32 × Flags :=
  x.elim (y, 0) fun a => ((f a.1 y).1, a.2 ||| (f a.1 y).2)

theorem chainVal_concat (f : W32 → W32 → W32 × Flags) (xs : List W32) (y : W32) :
    chainVal f (xs ++ [y]) = some (chainStep f (chainVal f xs) y) := by
  cases xs <;> simp [chainVal, chainStep]

/-- The chain of the contributing slots below n. -/
def chainUpTo (f : W32 → W32 → W32 × Flags) (mask : W32) (a : VReg) (n : Nat) : Option (W32 × Flags) :=
  chainVal f (((List.range n).filter mask.getLsbD).map a.lane)

theorem chainUpTo_succ (f : W32 → W32 → W32 × Flags) (mask : W32) (a : VReg) (n : Nat) : chainUpTo f mask a (n + 1)
    = if mask.getLsbD n then some (chainStep f (chainUpTo f mask a n) (a.lane n)) else chainUpTo f mask a n := by
  unfold chainUpTo
  cases h : mask.getLsbD n <;> simp [List.range_succ, h, chainVal_concat]

/-- What a slot that contributes takes of a scan: its chain with its own value or without it, the unit where that is empty. -/
def scanValue (c : Combine) (exclusive : Bool) (mask : W32) (a : VReg) (seed : W32) (k : Nat) : W32 :=
  (chainUpTo (c.pair seed) mask a (if exclusive then k else k + 1)).elim c.unit Prod.fst

/-- The run of a scan over the first n slots. -/
def scanSteps (c : Combine) (exclusive : Bool) (mask : W32) (a : VReg) (seed : W32) (n : Nat) : ScanRun :=
  (List.range n).foldl (fun r k =>
    if mask.getLsbD k then
      match r.acc with
      | none => { r with vals := r.vals ++ [if exclusive then c.unit else a.lane k], acc := some (a.lane k) }
      | some x =>
        let o := c.lanes x (a.lane k) r.seed
        { vals := r.vals ++ [if exclusive then x else o.1], acc := some o.1, flags := r.flags ||| o.2.1, seed := o.2.2 }
    else { r with vals := r.vals ++ [0] }) { vals := [], acc := none, flags := 0, seed := seed }

theorem scanRun_eq (c : Combine) (exclusive : Bool) (mask : W32) (a : VReg) (seed : W32) :
    scanRun c exclusive mask a seed = scanSteps c exclusive mask a seed 32 := rfl

/-- Outside RS a scan's accumulator and flags are those of the chain, and each slot has its value of it. -/
theorem scanSteps_still {c : Combine} (hc : c.Still) (exclusive : Bool) (mask : W32) (a : VReg) (seed : W32) (n : Nat) :
    scanSteps c exclusive mask a seed n =
      { vals := (List.range n).map (fun k => if mask.getLsbD k then scanValue c exclusive mask a seed k else 0)
        acc := (chainUpTo (c.pair seed) mask a n).map Prod.fst
        flags := (chainUpTo (c.pair seed) mask a n).elim 0 Prod.snd
        seed := seed } := by
  induction n with
  | zero => rfl
  | succ n ih =>
    rw [scanSteps, List.range_succ, List.foldl_append]
    rw [scanSteps] at ih
    rw [ih, List.foldl_cons, List.foldl_nil, List.map_append, chainUpTo_succ]
    cases hm : mask.getLsbD n with
    | false => simp [hm]
    | true =>
      have value : scanValue c exclusive mask a seed n = if exclusive then (chainUpTo (c.pair seed) mask a n).elim c.unit Prod.fst
          else (chainStep (c.pair seed) (chainUpTo (c.pair seed) mask a n) (a.lane n)).1 := by
        cases exclusive <;> simp [scanValue, chainUpTo_succ, hm]
      cases hx : chainUpTo (c.pair seed) mask a n with
      | none => simp [hm, value, hx, chainStep]
      | some x => simp [hm, value, hx, chainStep, Combine.pair, (c.lanes_still hc _ _ _).2]

/-! ## Scans (06 R183) -/

/-- What a scan delivers: the acting live slots take their values, the others keep theirs. -/
def scanReg (g : Group) (vd : Nat) (r : ScanRun) : VReg :=
  if g.covers then generalReg (g.vreg vd) g.actLive (fun k => r.vals.getD k 0)
  else mergeReg (g.vreg vd) g.actLive (fun k => r.vals.getD k 0)

theorem scanReg_lane (g : Group) (vd : Nat) (r : ScanRun) {k : Nat} (hk : k < 32) :
    (scanReg g vd r).lane k = if g.actLive.getLsbD k then r.vals.getD k 0 else (g.vreg vd).lane k := by
  unfold scanReg
  split
  · exact generalReg_lane _ _ _ hk
  · exact mergeReg_lane _ _ _ hk

/-- The run of a scan word. -/
def scanOf (s : State) (o : OpVR1) (kind : Nat) (exclusive : Bool) : ScanRun :=
  scanRun (combineOf s.me.mode kind) exclusive s.me.actLive (srcReg (usesVR1 o) s 0) s.me.seed

theorem scanWord_completes {i : Instr} {o : OpVR1} {s : State} (kind : Nat) (exclusive : Bool) (hg : MayGo i (usesVR1 o) s)
    (hr : NoReuse s) : ∃ t, scanWord i o kind exclusive s = .next (retire .seq (leaveWord s (usesVR1 o) t))
      ∧ Delivers o.vd.toNat (scanReg s.me o.vd.toNat (scanOf s o kind exclusive)) s t
      ∧ t.me.seed = (scanOf s o kind exclusive).seed ∧ t.me.fpstat = s.me.fpstat ||| (scanOf s o kind exclusive).flags := by
  obtain ⟨key, hk, e⟩ : ∃ key, (key ≠ none → o.vd.toNat < 112) ∧ scanWord i o kind exclusive s
      = .next (retire .seq (leaveWord s (usesVR1 o) (modMe (fun g => { g with
          fpstat := g.fpstat ||| (scanOf s o kind exclusive).flags, seed := (scanOf s o kind exclusive).seed })
        (putReused o.vd.toNat key ((sourceRegs s.me (usesVR1 o) []).flatMap VReg.entries) (scanOf s o kind exclusive).flags
          (scanReg s.me o.vd.toNat (scanOf s o kind exclusive)) s)))) := by
    refine ⟨_, fun eligible => ?_, wordG_done hg (by rfl)⟩
    by_contra port
    refine eligible (if_neg fun all => port ?_)
    simp only [Bool.and_eq_true, decide_eq_true_eq] at all
    obtain ⟨⟨-, dest⟩, -⟩ := all
    exact dest
  obtain ⟨delivers, flags, seed⟩ := putReused_delivers ((sourceRegs s.me (usesVR1 o) []).flatMap VReg.entries)
    (scanOf s o kind exclusive).flags (scanReg s.me o.vd.toNat (scanOf s o kind exclusive)) hr hk
  refine ⟨_, e, delivers.of_me ?_ ?_ ?_, ?_, ?_⟩ <;> rw [me_modMe]
  exact congrArg (· ||| _) flags

/-! ## The tree (01 R32) -/

/-- A pair combines where both are there, else the one that is there passes. -/
def treePair (f : W32 → W32 → W32) : Option W32 → Option W32 → Option W32
  | some a, some b => some (f a b)
  | some a, none => some a
  | none, b => b

theorem treeVal_succ (f : W32 → W32 → W32) (x : Nat → Option W32) (k i : Nat) :
    treeVal f x (k + 1) i = treePair f (treeVal f x k i) (treeVal f x k (i + 2 ^ k)) := by
  rw [treeVal]
  cases treeVal f x k i <;> cases treeVal f x k (i + 2 ^ k) <;> rfl

/-- One pair of a level: the positions i and i + d combine into i. -/
def redStep (c : Combine) (d : Nat) (r : RedRun) (i : Nat) : RedRun :=
  match r.vals.getD i none, r.vals.getD (i + d) none with
  | some a, some b =>
    let o := c.lanes a b r.seed
    { vals := r.vals.set i (some o.1), flags := r.flags ||| o.2.1, seed := o.2.2 }
  | none, b => { r with vals := r.vals.set i b }
  | some _, none => r

/-- The first n pairs of a level. -/
def redSteps (c : Combine) (k : Nat) (r : RedRun) (n : Nat) : RedRun :=
  (List.range n).foldl (fun r p => redStep c (2 ^ k) r (p * 2 ^ (k + 1))) r

theorem redLevel_eq (c : Combine) (r : RedRun) (k : Nat) : redLevel c r k = redSteps c k r (32 / 2 ^ (k + 1)) := rfl

/-- The combination of two lanes at a state of the rounder. -/
def Combine.value (c : Combine) (seed x y : W32) : W32 := (c.lanes x y seed).1

section
variable {c : Combine} (hc : c.Still)
include hc

theorem redStep_still {r : RedRun} (d : Nat) {i : Nat} (hi : i < r.vals.length) :
    (redStep c d r i).seed = r.seed ∧ (redStep c d r i).vals.length = r.vals.length
      ∧ ∀ j, (redStep c d r i).vals.getD j none = if j = i then treePair (c.value r.seed) (r.vals.getD i none) (r.vals.getD (i + d) none)
        else r.vals.getD j none := by
  have set (v : Option W32) (j : Nat) : (r.vals.set i v).getD j none = if j = i then v else r.vals.getD j none := by
    simp only [List.getD_eq_getElem?_getD, List.getElem?_set, hi, if_true, eq_comm (a := i)]
    split <;> rfl
  unfold redStep
  cases ha : r.vals.getD i none <;> cases hb : r.vals.getD (i + d) none
  · exact ⟨rfl, by simp, set _⟩
  · exact ⟨rfl, by simp, set _⟩
  · refine ⟨rfl, rfl, fun j => ?_⟩
    by_cases e : j = i
    · rw [if_pos e, e]; exact ha
    · rw [if_neg e]
  · exact ⟨c.lanes_still hc _ _ _ |>.2, by simp, set _⟩

/-- The pairs of a level do not meet: each combines what the level found. -/
theorem redSteps_still {r : RedRun} {k n : Nat} (hl : r.vals.length = 32) (hn : n ≤ 32 / 2 ^ (k + 1)) :
    (redSteps c k r n).seed = r.seed ∧ (redSteps c k r n).vals.length = 32
      ∧ ∀ j, (redSteps c k r n).vals.getD j none = if 2 ^ (k + 1) ∣ j ∧ j / 2 ^ (k + 1) < n
        then treePair (c.value r.seed) (r.vals.getD j none) (r.vals.getD (j + 2 ^ k) none) else r.vals.getD j none := by
  induction n with
  | zero => exact ⟨rfl, hl, fun j => by simp [redSteps]⟩
  | succ n ih =>
    obtain ⟨seed, len, vals⟩ := ih (by omega)
    have pos : 0 < 2 ^ (k + 1) := by positivity
    have inside : n * 2 ^ (k + 1) < 32 := by
      have := (Nat.le_div_iff_mul_le pos).mp hn
      rw [Nat.succ_mul] at this
      omega
    have odd : ¬ 2 ^ (k + 1) ∣ n * 2 ^ (k + 1) + 2 ^ k := by
      rw [Nat.dvd_add_right (Nat.dvd_mul_left ..)]
      exact fun h => absurd (Nat.le_of_dvd (by positivity) h) (by rw [pow_succ]; have := Nat.two_pow_pos k; omega)
    obtain ⟨seed', len', vals'⟩ := redStep_still hc (r := redSteps c k r n) (2 ^ k) (i := n * 2 ^ (k + 1)) (by rwa [len])
    have step : redSteps c k r (n + 1) = redStep c (2 ^ k) (redSteps c k r n) (n * 2 ^ (k + 1)) := by
      rw [redSteps, List.range_succ, List.foldl_append]
      rfl
    have here : (redSteps c k r n).vals.getD (n * 2 ^ (k + 1)) none = r.vals.getD (n * 2 ^ (k + 1)) none := by
      rw [vals, if_neg fun h => absurd h.2 (by rw [Nat.mul_div_cancel _ pos]; exact lt_irrefl n)]
    have there : (redSteps c k r n).vals.getD (n * 2 ^ (k + 1) + 2 ^ k) none = r.vals.getD (n * 2 ^ (k + 1) + 2 ^ k) none := by
      rw [vals, if_neg fun h => odd h.1]
    rw [step]
    refine ⟨seed'.trans seed, len'.trans len, fun j => ?_⟩
    rw [vals', seed, here, there, vals j]
    by_cases e : j = n * 2 ^ (k + 1)
    · rw [if_pos e, if_pos ⟨e ▸ Nat.dvd_mul_left .., by rw [e, Nat.mul_div_cancel _ pos]; exact n.lt_succ_self⟩, e]
    · have other : 2 ^ (k + 1) ∣ j → j / 2 ^ (k + 1) ≠ n := fun hd hq => e (by rw [← hq, Nat.div_mul_cancel hd])
      rw [if_neg e]
      refine if_congr ?_ rfl rfl
      constructor
      · exact fun h => ⟨h.1, by omega⟩
      · exact fun h => ⟨h.1, by have := other h.1; omega⟩

/-- After k levels the positions that the next ones read hold the tree of k levels. -/
theorem redLevels_still {x : Nat → Option W32} {r : RedRun} (hl : r.vals.length = 32) (hx : ∀ i, i < 32 → r.vals.getD i none = x i)
    {k : Nat} (hk : k ≤ 5) : ((List.range k).foldl (redLevel c) r).seed = r.seed ∧ ((List.range k).foldl (redLevel c) r).vals.length = 32
      ∧ ∀ i, i < 32 → 2 ^ k ∣ i → ((List.range k).foldl (redLevel c) r).vals.getD i none = treeVal (c.value r.seed) x k i := by
  induction k with
  | zero => exact ⟨rfl, hl, fun i hi _ => hx i hi⟩
  | succ k ih =>
    obtain ⟨seed, len, vals⟩ := ih (by omega)
    rw [List.range_succ, List.foldl_append, List.foldl_cons, List.foldl_nil, redLevel_eq]
    obtain ⟨seed', len', vals'⟩ := redSteps_still hc (k := k) len le_rfl
    refine ⟨seed'.trans seed, len', fun i hi hd => ?_⟩
    have whole : 2 ^ (k + 1) ∣ 32 := pow_dvd_pow 2 hk
    have half : i + 2 ^ k < 32 := by
      obtain ⟨q, rfl⟩ := hd
      obtain ⟨m, hm⟩ := whole
      rw [hm] at hi ⊢
      have := Nat.mul_le_mul_left (2 ^ (k + 1)) (Nat.lt_of_mul_lt_mul_left hi)
      have := Nat.two_pow_pos k
      rw [Nat.mul_succ] at *
      omega
    rw [vals', seed, if_pos ⟨hd, Nat.div_lt_div_of_lt_of_dvd whole hi⟩, vals i hi ((pow_dvd_pow 2 (by omega)).trans hd),
      vals _ half (Dvd.dvd.add ((pow_dvd_pow 2 (by omega)).trans hd) dvd_rfl), treeVal_succ]

/-- Outside RS a reduction keeps the rounder's state, and position 0 holds the tree of five levels. -/
theorem redRun_still (mask : W32) (a : VReg) (seed : W32) : (redRun c mask a seed).seed = seed
    ∧ (redRun c mask a seed).vals.getD 0 none
      = treeVal (c.value seed) (fun k => if mask.getLsbD k then some (a.lane k) else none) 5 0 := by
  obtain ⟨kept, -, vals⟩ := redLevels_still hc (k := 5) (x := fun k => if mask.getLsbD k then some (a.lane k) else none)
    (r := { vals := (List.range 32).map (fun k => if mask.getLsbD k then some (a.lane k) else none), flags := 0, seed := seed })
    (by simp) (fun i hi => by simp [List.getD_eq_getElem?_getD, hi]) le_rfl
  exact ⟨kept, vals 0 (by decide) (by decide)⟩

end

/-! ## Reductions (06 R184) -/

def usesRed (o : OpVSRed) : List Use := [.vs o.va.toNat o.ta 1, .sd o.sb.toNat]

/-- The run of a reduction. -/
def redOf (s : State) (o : OpVSRed) (kind : Nat) : RedRun :=
  redRun (combineOf s.me.mode kind) s.me.actLive (srcReg (usesRed o) s 0) s.me.seed

/-- The value that a reduction gives: that of its tree, or the unit where nothing contributes. -/
def redValue (s : State) (o : OpVSRed) (kind : Nat) : W32 := ((redOf s o kind).vals.getD 0 none).getD (combineOf s.me.mode kind).unit

theorem redWord_completes {i : Instr} {o : OpVSRed} {s : State} (kind : Nat) (hg : MayGo i (usesRed o) s) :
    redWord i o kind s = .next (retire .seq (leaveWord s (usesRed o) (putS o.sb.toNat
      (if kind ≤ 2 ∧ modeEt s.me.mode = 0 then (redValue s o kind).signExtend 64 else (redValue s o kind).zeroExtend 64)
      (modMe (fun g => { g with fpstat := g.fpstat ||| (redOf s o kind).flags, seed := (redOf s o kind).seed }) s)))) :=
  wordG_done hg (by rfl)

/-! ## The operations of ET (06 R183, R184) -/

theorem intView_w_pos (et : Nat) : 0 < (intView et).w := by
  unfold intView
  split <;> decide

theorem intView_n (et : Nat) : (intView et).n = 32 / (intView et).w := by
  unfold intView
  split <;> rfl

theorem intBits_lt (w : Nat) (x : Int) : intBits w x < 2 ^ w := by
  have h := Int.emod_lt_of_pos x (show (0 : Int) < 2 ^ w by positivity)
  have := intBits_cast w x
  zify
  omega

theorem packElems_zero (w n : Nat) : packElems w (List.replicate n 0) = 0 := by
  have sum : packedSum w (List.replicate n 0) = 0 := by
    induction n with
    | zero => rfl
    | succ n ih => rw [List.replicate_succ', packedSum_concat, ih]; simp
  rw [packElems_eq, sum]
  rfl

theorem elemOf_whole (x : W32) : elemOf 32 0 x = x.toNat := by
  simp only [elemOf, Nat.mul_zero, pow_zero, Nat.div_one, Nat.mod_eq_of_lt x.isLt]

/-- An operation of whole lanes. -/
def bitCombine (identity : Nat) (f : Nat → Nat → Nat) : Combine where
  w := 32
  identity := identity
  op a b seed := (f a b, 0, seed)

theorem combineOf_or (m : W32) : combineOf m 3 = bitCombine 0 (fun a b => a ||| b) := by
  unfold combineOf
  cases fpView (modeEt m) <;> rfl

theorem combineOf_and (m : W32) : combineOf m 4 = bitCombine (2 ^ 32 - 1) (fun a b => a &&& b) := by
  unfold combineOf
  cases fpView (modeEt m) <;> rfl

theorem lanes_bitCombine {identity : Nat} {f : Nat → Nat → Nat} (a b seed : W32) {x : W32} (hx : x.toNat = f a.toNat b.toNat) :
    ((bitCombine identity f).lanes a b seed).1 = x := by
  have whole := (bitCombine identity f).elemOf_lanes (fun _ _ _ => rfl) a b seed (j := 0) (show 0 < 32 / 32 by decide)
  refine BitVec.eq_of_toNat_eq ((elemOf_whole _).symm.trans (whole.trans ?_))
  change f (elemOf 32 0 a) (elemOf 32 0 b) % 2 ^ 32 = x.toNat
  rw [elemOf_whole, elemOf_whole, ← hx, Nat.mod_eq_of_lt x.isLt]

/-- An operation of the integer view, by its exact value (01 R26). -/
def intCombine (m : W32) (identity : Nat) (f : Int → Int → Int) (sat : Bool) : Combine where
  w := (intView (modeEt m)).w
  identity := identity
  op a b seed := (widthRule sat (intView (modeEt m)).signed (intView (modeEt m)).w
    (f (intValue (intView (modeEt m)).signed (intView (modeEt m)).w a) (intValue (intView (modeEt m)).signed (intView (modeEt m)).w b)), 0, seed)

section
variable {m : W32} (h : fpView (modeEt m) = none)
include h

theorem combineOf_add_int : combineOf m 0 = intCombine m 0 (fun a b => a + b) (modeSat m) := by
  simp only [combineOf, h]; rfl

theorem combineOf_min_int : combineOf m 1
    = intCombine m (intBits (intView (modeEt m)).w (intMax (intView (modeEt m)).signed (intView (modeEt m)).w)) min false := by
  simp only [combineOf, h]; rfl

theorem combineOf_max_int : combineOf m 2
    = intCombine m (intBits (intView (modeEt m)).w (intMin (intView (modeEt m)).signed (intView (modeEt m)).w)) max false := by
  simp only [combineOf, h]; rfl

end

section
variable (m : W32) (identity : Nat) (f : Int → Int → Int) (sat : Bool) {j : Nat} (hj : j < (intView (modeEt m)).n)
include hj

theorem elemOf_intCombine (a b seed : W32) : elemOf (intView (modeEt m)).w j ((intCombine m identity f sat).lanes a b seed).1
    = widthRule sat (intView (modeEt m)).signed (intView (modeEt m)).w
      (f (intValue (intView (modeEt m)).signed (intView (modeEt m)).w (elemOf (intView (modeEt m)).w j a))
        (intValue (intView (modeEt m)).signed (intView (modeEt m)).w (elemOf (intView (modeEt m)).w j b))) :=
  ((intCombine m identity f sat).elemOf_lanes (fun _ _ _ => rfl) a b seed (intView_n _ ▸ hj)).trans
    (Nat.mod_eq_of_lt (intBits_lt _ _))

/-- The identity of an integer operation as an integer of its type. -/
theorem intValue_unit_intCombine {x : Int} (lo : intMin (intView (modeEt m)).signed (intView (modeEt m)).w ≤ x)
    (hi : x ≤ intMax (intView (modeEt m)).signed (intView (modeEt m)).w) :
    intValue (intView (modeEt m)).signed (intView (modeEt m)).w (elemOf (intView (modeEt m)).w j
      (intCombine m (intBits (intView (modeEt m)).w x) f sat).unit) = x := by
  have unit := (intCombine m (intBits (intView (modeEt m)).w x) f sat).elemOf_unit (j := j) (intView_n _ ▸ hj)
  rw [show elemOf (intView (modeEt m)).w j _ = _ from unit.trans (Nat.mod_eq_of_lt (intBits_lt _ _))]
  exact intValue_intBits (intView_w_pos _) lo hi

end

/-- An operation of the floating-point view: its width, its identity and its effect on two elements. -/
def fpCombine (fm : Fmt) (identity : Nat) (op : Nat → Nat → W32 → Nat × Flags × W32) : Combine where
  w := fm.width
  identity := identity
  op := op

section
variable {m : W32} {fm : Fmt} (h : fpView (modeEt m) = some fm)
include h

theorem combineOf_add_fp (hs : modeRnd m ≠ 6) : combineOf m 0
    = fpCombine fm 0 (fun a b seed => ((fpAdd fm (fpEnvOf m) 0 a b).1, (fpAdd fm (fpEnvOf m) 0 a b).2, seed)) := by
  have draw (seed : W32) : drawRound (fpEnvOf m).rnd seed = (seed, 0) := by simp [fpEnvOf, drawRound, hs]
  simp only [combineOf, h, draw]; rfl

theorem combineOf_min_fp : combineOf m 1 = fpCombine fm fm.infBits (fun a b seed =>
    ((fpMinMax fm (fpEnvOf m) false a b).1, (fpMinMax fm (fpEnvOf m) false a b).2, seed)) := by
  simp only [combineOf, h]; rfl

theorem combineOf_max_fp : combineOf m 2 = fpCombine fm (withSign fm true fm.infBits) (fun a b seed =>
    ((fpMinMax fm (fpEnvOf m) true a b).1, (fpMinMax fm (fpEnvOf m) true a b).2, seed)) := by
  simp only [combineOf, h]; rfl

theorem fpView_fmt : fm = .f32 ∨ fm = .h16 ∨ fm = .b16 := by
  unfold fpView at h
  split at h <;> simp_all

/-- The infinities are the identities of minimum and maximum. -/
theorem fpDecode_inf : fpDecode fm (fm.infBits % 2 ^ fm.width) = .inf false
    ∧ fpDecode fm (withSign fm true fm.infBits % 2 ^ fm.width) = .inf true := by
  rcases fpView_fmt h with rfl | rfl | rfl <;> exact ⟨rfl, rfl⟩

end

/-- The scans, with their operations and whether they are exclusive. -/
def scanMembers (o : OpVR1) : List (Instr × Nat × Bool) :=
  [(.vscanadd o, 0, false), (.vscanmin o, 1, false), (.vscanmax o, 2, false), (.vscanor o, 3, false),
    (.vxscanadd o, 0, true), (.vxscanmax o, 2, true)]

theorem exec_scanMembers (o : OpVR1) (s : State) : ∀ p ∈ scanMembers o, exec p.1 s = scanWord p.1 o p.2.1 p.2.2 s := by
  simp only [scanMembers, List.forall_mem_cons, List.not_mem_nil, false_implies, implies_true, and_true]
  dsimp only [exec]
  exact ⟨rfl, rfl, rfl, rfl, rfl, rfl⟩

/-- The reductions, with their operations. -/
def redMembers (o : OpVSRed) : List (Instr × Nat) :=
  [(.vredadd o, 0), (.vredmin o, 1), (.vredmax o, 2), (.vredor o, 3), (.vredand o, 4)]

theorem exec_redMembers (o : OpVSRed) (s : State) : ∀ p ∈ redMembers o, exec p.1 s = redWord p.1 o p.2 s := by
  simp only [redMembers, List.forall_mem_cons, List.not_mem_nil, false_implies, implies_true, and_true]
  dsimp only [exec]
  exact ⟨rfl, rfl, rfl, rfl, rfl⟩

/-- Settles O31: a scan's chain is `chainVal` of the slots before (`scanSteps_still`), a reduction's five levels are `treeVal`
(`redRun_still`), and the operations of ET combine each element by its exact or its rounded value. -/
theorem scansReductions : Obligations.ScansReductions := by
  unfold Obligations.ScansReductions
  refine ⟨?_, ?_, ?_⟩
  · intro o s i kind exclusive uses m c f chain value hm hg hr
    obtain ⟨t, e, delivers, seed, flags⟩ := scanWord_completes kind exclusive hg hr
    refine ⟨t, _, (exec_scanMembers o s (i, kind, exclusive) hm).trans e, delivers, fun still => ?_⟩
    have run : scanOf s o kind exclusive = _ := scanSteps_still (combineOf_still still) exclusive s.me.actLive (srcReg uses s 0) s.me.seed 32
    rw [run] at seed flags
    refine ⟨seed, flags.trans (congrArg (s.me.fpstat ||| ·) ?_), fun k hk => ?_⟩
    · have same : chain 32 = chainUpTo (c.pair s.me.seed) s.me.actLive (srcReg uses s 0) 32 := rfl
      rw [same]
      cases chainUpTo (c.pair s.me.seed) s.me.actLive (srcReg uses s 0) 32 <;> rfl
    · have slot : value k = scanValue c exclusive s.me.actLive (srcReg uses s 0) s.me.seed k := by
        have same : chain (if exclusive then k else k + 1)
          = chainUpTo (c.pair s.me.seed) s.me.actLive (srcReg uses s 0) (if exclusive then k else k + 1) := rfl
        unfold value scanValue
        rw [same]
        cases chainUpTo (c.pair s.me.seed) s.me.actLive (srcReg uses s 0) (if exclusive then k else k + 1) <;> rfl
      rw [scanReg_lane _ _ _ hk, run, slot, List.getD_eq_getElem?_getD]
      simp only [List.getElem?_map, List.getElem?_range hk, Option.map_some, Option.getD_some]
      cases s.me.actLive.getLsbD k <;> rfl
  · intro o s i kind uses m c hm hg
    refine ⟨_, _, _, (exec_redMembers o s (i, kind) hm).trans (redWord_completes kind hg), fun still => ?_⟩
    obtain ⟨seed, tree⟩ := redRun_still (combineOf_still still) s.me.actLive (srcReg uses s 0) s.me.seed
    exact ⟨seed, congrArg (Option.getD · c.unit) tree⟩
  · intro m a b seed v env e
    refine ⟨?_, ?_, ?_, ?_, fun h => ⟨?_, fun j hj => ?_⟩, fun fm h hs => ⟨?_, fun j hj => ?_⟩⟩
    · exact combineOf_or m ▸ lanes_bitCombine a b seed (BitVec.toNat_or ..)
    · exact combineOf_and m ▸ lanes_bitCombine a b seed (BitVec.toNat_and ..)
    · exact combineOf_or m ▸ packElems_zero 32 1
    · exact combineOf_and m ▸ rfl
    · rw [combineOf_add_int h]
      exact packElems_zero ..
    · have order := intMin_le_intMax v.signed v.w
      rw [combineOf_add_int h, combineOf_min_int h, combineOf_max_int h]
      exact ⟨elemOf_intCombine m _ _ _ hj a b seed, elemOf_intCombine m _ _ _ hj a b seed, elemOf_intCombine m _ _ _ hj a b seed,
        intValue_unit_intCombine m _ _ hj order le_rfl, intValue_unit_intCombine m _ _ hj le_rfl order⟩
    · rw [combineOf_add_fp h hs]
      exact packElems_zero ..
    · obtain ⟨pos, neg⟩ := fpDecode_inf h
      rw [combineOf_add_fp h hs, combineOf_min_fp h, combineOf_max_fp h]
      have lanes (identity : Nat) (op : Nat → Nat → W32 → Nat × Flags × W32) (still : ∀ x y sd, (op x y sd).2.2 = sd) :=
        (fpCombine fm identity op).elemOf_lanes still a b seed hj
      have unit (identity : Nat) (op : Nat → Nat → W32 → Nat × Flags × W32) := (fpCombine fm identity op).elemOf_unit hj
      exact ⟨lanes _ _ fun _ _ _ => rfl, lanes _ _ fun _ _ _ => rfl, lanes _ _ fun _ _ _ => rfl,
        (congrArg (fpDecode fm) (unit ..)).trans pos, (congrArg (fpDecode fm) (unit ..)).trans neg⟩

end Sys2Proof.Machine
end

section
/-!
PREDICATES AND MOVES (O32). A predicate that is written keeps the bits of the live slots; the moves deliver their value under every
guard, with or without records of the reuse table, which they do not look for (06 R165).
-/

namespace Sys2Proof.Machine

/-! ## Predicates (06 R185, R186) -/

theorem predWord_done {i : Instr} {pd : Nat} {f : Group → W32} {s : State} (hg : MayGo i [] s) :
    predWord i pd f s = .next (retire .seq (modMe (Group.writeP pd (f s.me)) s)) := by
  rw [predWord, wordG_done hg (by rfl), leaveWord_same s [] _ rfl]
  exact congrArg (fun t => Host.Outcome.next (retire .seq t)) (modMe_congr rfl)

/-- The words of two predicates with their values (06 R185). -/
def predMembers2 (o : OpPR2) (g : Group) : List (Instr × W32) :=
  [(.pand o, g.readP o.pa.toNat &&& g.readP o.pb.toNat), (.por o, g.readP o.pa.toNat ||| g.readP o.pb.toNat),
    (.pxor o, g.readP o.pa.toNat ^^^ g.readP o.pb.toNat), (.pandn o, g.readP o.pa.toNat &&& ~~~(g.readP o.pb.toNat))]

/-- The words of one predicate with their values (06 R185). -/
def predMembers1 (o : OpPR1) (g : Group) : List (Instr × W32) :=
  [(.pnot o, ~~~(g.readP o.pa.toNat)), (.pmov o, g.readP o.pa.toNat)]

section
variable {s : State}

theorem exec_predMembers2 (o : OpPR2) : ∀ p ∈ predMembers2 o s.me, MayGo p.1 [] s →
    exec p.1 s = .next (retire .seq (modMe (Group.writeP o.pd.toNat p.2) s)) := by
  simp only [predMembers2, List.forall_mem_cons, List.not_mem_nil, false_implies, implies_true, and_true]
  dsimp only [exec]
  exact ⟨predWord_done, predWord_done, predWord_done, predWord_done⟩

theorem exec_predMembers1 (o : OpPR1) : ∀ p ∈ predMembers1 o s.me, MayGo p.1 [] s →
    exec p.1 s = .next (retire .seq (modMe (Group.writeP o.pd.toNat p.2) s)) := by
  simp only [predMembers1, List.forall_mem_cons, List.not_mem_nil, false_implies, implies_true, and_true]
  dsimp only [exec]
  exact ⟨predWord_done, predWord_done⟩

theorem exec_pset_done {o : OpPSet} (hg : MayGo (.pset o) [.ss o.sa.toNat false 1] s) : exec (.pset o) s
    = .next (retire .seq (modMe (Group.writeP o.pd.toNat ((s.me.readS o.sa.toNat).setWidth 32)) s)) := by
  dsimp only [exec]
  rw [execPset, wordG_done hg (by rfl), leaveWord_same s _ _ rfl]
  exact congrArg (fun t => Host.Outcome.next (retire .seq t)) (modMe_congr rfl)

theorem predScalar_done {i : Instr} {o : OpPGet} {f : Group → W64} (hg : MayGo i [.sd o.sd.toNat] s) :
    predScalar i o f s = .next (retire .seq (putS o.sd.toNat (f s.me) s)) := by
  rw [predScalar, wordG_done hg (by rfl), leaveWord_same s _ _ rfl]

end

/-- Bit k of a predicate among the live slots. -/
theorem getLsbD_and_live (g : Group) (p : W32) {k : Nat} (hk : k < 32) :
    ((p &&& g.liveMask).zeroExtend 64).getLsbD k = (p.getLsbD k && g.live k) := by
  simp [g.liveMask_getLsbD k hk, show k < 64 by omega]

/-- PCNT counts the live slots with their bit set (06 R186). -/
theorem opPopc_live (g : Group) (p : W32) : (opPopc ((p &&& g.liveMask).zeroExtend 64)).toNat
    = ((List.range 32).filter (fun k => p.getLsbD k && g.live k)).length := by
  have low : (List.range 32).filter ((p &&& g.liveMask).zeroExtend 64).getLsbD
      = (List.range 32).filter (fun k => p.getLsbD k && g.live k) :=
    List.filter_congr fun k hk => getLsbD_and_live g p (List.mem_range.mp hk)
  have high : ((List.range 32).map (32 + ·)).filter ((p &&& g.liveMask).zeroExtend 64).getLsbD = [] := by
    simp [List.filter_eq_nil_iff]
  rw [opPopc_toNat, show 64 = 32 + 32 from rfl, List.range_add, List.filter_append, low, high, List.append_nil]

/-- PFIRST finds the first live slot with its bit set, or gives 32 (06 R186). -/
theorem ctzFrom_live (g : Group) (p : W32) : let n := ctzFrom ((p &&& g.liveMask).zeroExtend 64) 32 0
    n ≤ 32 ∧ (∀ k, k < n → (p.getLsbD k && g.live k) = false) ∧ (n < 32 → (p.getLsbD n && g.live n) = true) := by
  obtain ⟨le, before, found⟩ := ctzFrom_spec ((p &&& g.liveMask).zeroExtend 64) 32 0
  simp only [Nat.zero_add] at before found
  refine ⟨le, fun k hk => ?_, fun h => ?_⟩
  · rw [← getLsbD_and_live g p (by omega)]
    exact before k hk
  · rw [← getLsbD_and_live g p h]
    exact found h

/-- The reads of a predicate: what each gives of it (06 R186). -/
def predReads (o : OpPGet) (g : Group) : List (Instr × (W32 → W64 → Prop)) :=
  [(.pget o, fun p v => v = p.zeroExtend 64),
    (.pcnt o, fun p v => v.toNat = ((List.range 32).filter (fun k => p.getLsbD k && g.live k)).length),
    (.pfirst o, fun p v => v.toNat ≤ 32 ∧ (∀ k, k < v.toNat → (p.getLsbD k && g.live k) = false)
      ∧ (v.toNat < 32 → (p.getLsbD v.toNat && g.live v.toNat) = true))]

theorem exec_predReads (o : OpPGet) (s : State) : ∀ q ∈ predReads o s.me, MayGo q.1 [.sd o.sd.toNat] s →
    ∃ v, q.2 (s.me.readP o.pa.toNat) v ∧ exec q.1 s = .next (retire .seq (putS o.sd.toNat v s)) := by
  simp only [predReads, List.forall_mem_cons, List.not_mem_nil, false_implies, implies_true, and_true]
  dsimp only [exec]
  refine ⟨fun hg => ⟨_, rfl, predScalar_done hg⟩, fun hg => ⟨_, opPopc_live .., predScalar_done hg⟩, fun hg => ⟨_, ?_, predScalar_done hg⟩⟩
  have first := ctzFrom_live s.me (s.me.readP o.pa.toNat)
  dsimp only at first
  rwa [BitVec.toNat_ofNat, Nat.mod_eq_of_lt (by omega)]

theorem exec_qhelp_done {o : OpPR1} {s : State} (hg : MayGo (.qhelp o) [] s) : exec (.qhelp o) s
    = .next (retire .seq (modMe (Group.writePraw o.pd.toNat (qhelpMask s.me (s.me.readP o.pa.toNat))) s)) := by
  dsimp only [exec]
  rw [execQhelp, wordG_done hg (by rfl), leaveWord_same s _ _ rfl]
  exact congrArg (fun t => Host.Outcome.next (retire .seq t)) (modMe_congr rfl)

/-- QHELP keeps the bits of live slots, and sets that of a helper whose quad has a live slot with its bit set (06 R186). -/
theorem qhelpMask_getLsbD (g : Group) (p : W32) {k : Nat} (hk : k < 32) :
    (g.live k = true → (qhelpMask g p).getLsbD k = p.getLsbD k)
    ∧ (g.live k = false → ((qhelpMask g p).getLsbD k = true
      ↔ g.helper k = true ∧ ∃ j, j / 4 = k / 4 ∧ g.live j = true ∧ p.getLsbD j = true)) := by
  rw [qhelpMask, maskOf_getLsbD _ _ hk]
  refine ⟨fun h => if_pos h, fun h => ?_⟩
  simp only [h, Bool.false_eq_true, if_false, Bool.and_eq_true, List.any_eq_true, List.mem_range]
  refine and_congr_right fun _ => ⟨?_, ?_⟩
  · rintro ⟨i, hi, hl, hp⟩
    exact ⟨_, by omega, hl, hp⟩
  · rintro ⟨j, hj, hl, hp⟩
    have at' : k / 4 * 4 + j % 4 = j := by omega
    exact ⟨j % 4, by omega, by rwa [at'], by rwa [at']⟩

/-! ## Moves (06 R187, R188) -/

/-- A state whose executing group a vector destination has taken a run's result, with the run's flags and rounder's state. -/
theorem laneResult_putDest (vd : Nat) (run : LaneRun) (sh : Shape) (s : State) :
    LaneResult vd run sh s (modMe (Group.takeRun run) (putDest vd (vresult s.me (s.me.vreg vd) sh (fun k => run.vals.getD k 0)) s)) := by
  obtain ⟨v, full, bad, ports, dest⟩ := putDest_me vd (vresult s.me (s.me.vreg vd) sh (fun k => run.vals.getD k 0)) s
  refine ⟨?_, ?_, _, vresult_value .., (putDest_delivers ..).of_me ?_ ?_ ?_⟩ <;> rw [me_modMe]
  · rw [dest]; rfl
  all_goals rfl

/-- A move looks for no record of the reuse table (06 R165). -/
theorem moveBody_eq (vd : Nat) (uses : List Use) (sh : Shape) (f : Nat → W32) (s : State) (src : List VReg) :
    moveBody vd uses sh f s src = .done (modMe (Group.takeRun (plainRun s f))
      (putDest vd (vresult s.me (s.me.vreg vd) sh (fun k => (plainRun s f).vals.getD k 0)) s)) .seq := by
  unfold moveBody vecBody
  simp only [runLanes_plain]
  rfl

/-- A move completes whatever the reuse table holds. -/
theorem moveWord_completesPlain {i : Instr} {uses : List Use} {s : State} {vd : Nat} {sh : Shape} {f : Nat → W32}
    {body : State → List VReg → Res} (hg : MayGo i uses s)
    (hb : body s (sourceRegs s.me uses []) = moveBody vd uses sh f s (sourceRegs s.me uses [])) :
    CompletesPlain uses vd s (wordG i uses s body) f sh :=
  ⟨_, wordG_done hg (hb.trans (moveBody_eq ..)), laneResult_putDest ..⟩

def usesVBc (o : OpVBc) : List Use := [.vd o.vd.toNat, .ss o.sb.toNat false 2]
def usesVIota (o : OpVIota) : List Use := [.vd o.vd.toNat, .ss o.sb.toNat false 2]
def usesVExt (o : OpVExt) : List Use := [.vd o.vd.toNat, .vs o.va.toNat o.ta 1, .ss o.sb.toNat false 2]

theorem ofInt_intBits (x : Int) : BitVec.ofNat 32 (intBits 32 x) = BitVec.ofInt 32 x := by
  apply BitVec.eq_of_toNat_eq
  rw [BitVec.toNat_ofNat, BitVec.toNat_ofInt, Nat.mod_eq_of_lt (intBits_lt 32 x)]
  rfl

/-- The field of VEXT, by its value with or without sign (06 R188). -/
theorem extField_eq (c : W64) (x : W32) : extField c x = BitVec.ofInt 32
    (if c.getLsbD 10 = true ∧ 2 ^ (c.toNat / 32 % 32 + 1 - 1) ≤ x.toNat / 2 ^ (c.toNat % 32) % 2 ^ (c.toNat / 32 % 32 + 1)
      then ((x.toNat / 2 ^ (c.toNat % 32) % 2 ^ (c.toNat / 32 % 32 + 1) : Nat) : Int) - 2 ^ (c.toNat / 32 % 32 + 1)
      else ((x.toNat / 2 ^ (c.toNat % 32) % 2 ^ (c.toNat / 32 % 32 + 1) : Nat) : Int)) := by
  unfold extField
  dsimp only
  generalize x.toNat / 2 ^ (c.toNat % 32) % 2 ^ (c.toNat / 32 % 32 + 1) = v
  cases c.getLsbD 10 with
  | false => simp
  | true => simp [ofInt_intBits, intValue]

section
variable {s : State}

theorem exec_vmov_completesPlain {o : OpVS1} (hg : MayGo (.vmov o) (usesVS1 o) s) :
    CompletesPlain (usesVS1 o) o.vd.toNat s (exec (.vmov o) s) (srcReg (usesVS1 o) s 0).lane (shapeOf (srcReg (usesVS1 o) s 0)) := by
  dsimp only [exec]
  exact moveWord_completesPlain hg (by rfl)

theorem exec_vbcast_completesPlain {o : OpVBc} (hg : MayGo (.vbcast o) (usesVBc o) s) :
    CompletesPlain (usesVBc o) o.vd.toNat s (exec (.vbcast o) s) (fun _ => (s.me.readS o.sb.toNat).setWidth 32) .u := by
  dsimp only [exec]
  exact moveWord_completesPlain hg (by rfl)

theorem exec_viota_completesPlain {o : OpVIota} (hg : MayGo (.viota o) (usesVIota o) s) :
    CompletesPlain (usesVIota o) o.vd.toNat s (exec (.viota o) s)
      (fun k => (s.me.readS o.sb.toNat).setWidth 32 + BitVec.ofNat 32 k * o.k.zeroExtend 32)
      (.a ((s.me.readS o.sb.toNat).setWidth 32) (o.k.zeroExtend 32)) := by
  dsimp only [exec]
  exact moveWord_completesPlain hg (by rfl)

theorem exec_vext_completesPlain {o : OpVExt} (hg : MayGo (.vext o) (usesVExt o) s) :
    CompletesPlain (usesVExt o) o.vd.toNat s (exec (.vext o) s)
      (fun k => extField (s.me.readS o.sb.toNat) ((srcReg (usesVExt o) s 0).lane k)) .g := by
  dsimp only [exec]
  exact moveWord_completesPlain hg (by rfl)

/-- VMOVA moves a whole value, its shape with it (06 R187). -/
theorem exec_vmova_completes {o : OpVS1} (hg : MayGo (.vmova o) (usesVS1 o) s) :
    ∃ t, exec (.vmova o) s = .next (retire .seq (leaveWord s (usesVS1 o) t))
      ∧ Delivers o.vd.toNat (srcReg (usesVS1 o) s 0) s t ∧ SameFlags s t := by
  dsimp only [exec]
  obtain ⟨v, full, bad, ports, dest⟩ := putDest_me o.vd.toNat (srcReg (usesVS1 o) s 0) s
  refine ⟨_, wordG_done hg (by rfl), putDest_delivers .., ?_⟩
  rw [SameFlags, dest]
  exact ⟨rfl, rfl⟩

def usesVGen (o : OpVS1) : List Use := [.vname o.vd.toNat 0, .vd o.vd.toNat, .vreg o.va.toNat o.ta 1]

/-- A word that reads no port leaves the group as its effect made it. -/
theorem leaveWord_me {uses : List Use} {t : State} (h : uses.all (fun u => match u with
    | .vs n _ _ => decide (n < 112)
    | _ => true) = true) : (leaveWord s uses t).me = t.me := by
  obtain ⟨cs, e⟩ := count_eq (coreOf t.qid) evStagemiss t.me.vf (stageMisses s.me uses) t
  rw [leaveWord, popPorts_same uses t h, countMe, e]
  rfl

/-- VGEN makes a register general (06 R187). -/
theorem exec_vgen_completes {o : OpVS1} (hg : MayGo (.vgen o) (usesVGen o) s) (hd : o.vd.toNat < 112) :
    ∃ t, exec (.vgen o) s = .next (retire .seq t)
      ∧ Delivers o.vd.toNat (.general 0 (s.me.vreg o.va.toNat).lanes) s t ∧ SameFlags s t := by
  obtain ⟨v, full, bad, me⟩ := putV_me o.vd.toNat (.general 0 (s.me.vreg o.va.toNat).lanes) s
  have done : exec (.vgen o) s = .next (retire .seq (leaveWord s (usesVGen o)
      (putV o.vd.toNat (.general 0 (s.me.vreg o.va.toNat).lanes) s))) := by
    dsimp only [exec]
    exact wordG_done hg (by rfl)
  have left := leaveWord_me (s := s) (uses := usesVGen o)
    (t := putV o.vd.toNat (.general 0 (s.me.vreg o.va.toNat).lanes) s) rfl
  refine ⟨_, done, (putV_delivers hd).of_me ?_ ?_ ?_, ?_⟩
  · rw [left]
  · rw [left]
  · rw [left]
  · rw [SameFlags, left, me]
    exact ⟨rfl, rfl⟩

/-- VSHAPE reads the shape code (06 R187). -/
theorem exec_vshape_done {o : OpVSRed} (hg : MayGo (.vshape o) [.vreg o.va.toNat o.ta 1, .sd o.sb.toNat] s) : exec (.vshape o) s
    = .next (retire .seq (leaveWord s [.vreg o.va.toNat o.ta 1, .sd o.sb.toNat]
      (putS o.sb.toNat (BitVec.ofNat 64 (s.me.vreg o.va.toNat).code) s))) := by
  dsimp only [exec]
  exact wordG_done hg (by rfl)

end

/-- Settles O32: the predicate words write their row's value among the live slots, QHELP its helpers (`qhelpMask_getLsbD`), the reads
count and search the live slots, and the moves look for no record (`moveBody_eq`). -/
theorem predicatesAndMoves : Obligations.PredicatesAndMoves := by
  unfold Obligations.PredicatesAndMoves
  refine ⟨⟨?_, ?_, ?_⟩, ?_, ?_, ?_, ?_⟩
  · intro s i pd v uses hform hg hd
    have done : exec i s = .next (retire .seq (modMe (Group.writeP pd v) s)) := by
      rcases hform with ⟨o, rfl, rfl, hm⟩ | ⟨o, rfl, rfl, hm⟩ | ⟨o, rfl, rfl, rfl, rfl⟩
      · exact exec_predMembers2 o (i, v) hm hg
      · exact exec_predMembers1 o (i, v) hm hg
      · exact exec_pset_done hg
    refine ⟨_, done, rfl, ?_, fun n hn => ?_⟩ <;> rw [me_modMe]
    · exact s.me.readP_writeP_same pd v hd
    · exact s.me.readP_writeP_other pd n v hn
  · intro o s i r hm hg
    exact exec_predReads o s (i, r) hm hg
  · intro o s hg _
    exact ⟨_, exec_qhelp_done hg, fun k hk => qhelpMask_getLsbD _ _ hk⟩
  · intro s i uses vd sh f a hform hg
    rcases hform with ⟨o, rfl, rfl, rfl, rfl, rfl⟩ | ⟨o, rfl, rfl, rfl, rfl, rfl⟩ | ⟨o, rfl, rfl, rfl, rfl, rfl⟩
      | ⟨o, c, rfl, rfl, rfl, rfl, rfl, rfl⟩
    · exact exec_vmov_completesPlain hg
    · exact exec_vbcast_completesPlain hg
    · exact exec_viota_completesPlain hg
    · have moved := exec_vext_completesPlain hg
      simp only [extField_eq] at moved
      exact moved
  · intro o s uses hg
    exact exec_vmova_completes hg
  · intro o s hg hd
    exact exec_vgen_completes hg hd
  · intro o s uses hg
    rw [exec_vshape_done hg]
    cases s.me.vreg o.va.toNat <;> rfl

end Sys2Proof.Machine
end

section
/-!
THE ACTIVE SET AND THE CHOICE OF THE ISSUER (O46). Both orders are chains of keys, each of which decides where it differs: one group goes
before the other, never both. The events of the active set change the groups that they name.
-/

namespace Sys2Proof.Machine

/-! ## Orders made of keys -/

/-- A key that decides between two the same way round, and a rest that does, decide together. -/
theorem ite_eq_not_ite {c c' : Prop} [Decidable c] [Decidable c'] {r r' e e' : Bool} (hc : c ↔ c') (hr : c → r = !r')
    (he : ¬c → e = !e') : (if c then r else e) = !(if c' then r' else e') := by
  by_cases h : c
  · rw [if_pos h, if_pos (hc.mp h), hr h]
  · rw [if_neg h, if_neg (fun h' => h (hc.mpr h')), he h]

/-- Different numbers come in one order. -/
theorem decide_lt_eq_not {a b : Nat} (h : a ≠ b) : decide (a < b) = !decide (b < a) := by
  rw [← decide_not]
  exact decide_eq_decide.mpr (by omega)

theorem bne_swap {α : Type} [BEq α] [LawfulBEq α] (x y : α) : (x != y) = true ↔ (y != x) = true := by
  simp only [bne_iff_ne, ne_comm]

variable (s : State) (p a b q : Nat)

theorem agesBefore_swap (h : a ≠ b) : agesBefore s a b = !agesBefore s b a :=
  ite_eq_not_ite (bne_swap _ _) (fun hs => decide_lt_eq_not (bne_iff_ne.mp hs)) fun _ => decide_lt_eq_not h

theorem agesBefore_self : agesBefore s a a = false := by simp [agesBefore]

theorem goesBefore_self : goesBefore s p a a = false := by simp [goesBefore, agesBefore_self]

/-- Of two groups one goes before the other into a free entry (07 R202). -/
theorem goesBefore_swap (h : a ≠ b) : goesBefore s p a b = !goesBefore s p b a := by
  refine ite_eq_not_ite (bne_swap _ _) (fun h => Bool.eq_not_iff.mpr (bne_iff_ne.mp h)) fun haged => ?_
  refine ite_eq_not_ite (by rw [bne_iff_ne, not_not] at haged; rw [haged]) (fun _ => agesBefore_swap s a b h) fun _ => ?_
  refine ite_eq_not_ite (bne_swap _ _) (fun h => Bool.eq_not_iff.mpr (bne_iff_ne.mp h)) fun _ => ?_
  exact ite_eq_not_ite (bne_swap _ _) (fun hr => decide_lt_eq_not (bne_iff_ne.mp hr)) fun _ => decide_lt_eq_not h

/-- Two slots of one partition are owed the same. -/
theorem lagOf_partition {a b : Nat} (h : a / 16 = b / 16) (v : Nat) : lagOf s a v = lagOf s b v := by
  have core : coreOf a = coreOf b := by
    unfold coreOf
    omega
  rw [lagOf, lagOf, lagKey, lagKey, core, h]

/-- Of two groups of a partition one goes before the other into a slot (07 R204). -/
theorem issuesBefore_swap (h : a ≠ b) (hp : a / 16 = b / 16) : issuesBefore s a b = !issuesBefore s b a := by
  unfold issuesBefore
  simp only [lagOf_partition s hp]
  refine ite_eq_not_ite (bne_swap _ _) (fun h => Bool.eq_not_iff.mpr (bne_iff_ne.mp h)) fun haged => ?_
  rw [bne_iff_ne, not_not] at haged
  refine ite_eq_not_ite (by rw [haged]) (fun _ => agesBefore_swap s a b h) fun _ => ?_
  refine ite_eq_not_ite ?_ (fun ho => decide_lt_eq_not ?_) fun _ => ?_
  · rw [max_comm]
    simp only [Bool.and_eq_true, bne_swap (groupAt s a).vf, bne_swap (lagOf s b (groupAt s a).vf)]
  · simp only [Bool.and_eq_true, bne_iff_ne] at ho
    obtain ⟨⟨-, owed⟩, -⟩ := ho
    exact owed.symm
  refine ite_eq_not_ite ?_ (fun hr => decide_lt_eq_not ?_) fun _ => ?_
  · simp only [Bool.and_eq_true, bne_iff_ne, ne_comm]
  · simp only [Bool.and_eq_true, bne_iff_ne] at hr
    exact hr.2
  refine ite_eq_not_ite (bne_swap _ _) (fun hg => ?_) fun _ => ?_
  · exact Bool.eq_not_iff.mpr (bne_iff_ne.mp hg).symm
  exact ite_eq_not_ite (bne_swap _ _) (fun hl => decide_lt_eq_not (bne_iff_ne.mp hl)) fun _ => decide_lt_eq_not h

/-! ## What each key decides (07 R202 to R205) -/

theorem agesBefore_of_since {a b : Nat} (h : (groupAt s a).since < (groupAt s b).since) : agesBefore s a b = true := by
  simp [agesBefore, h, Nat.ne_of_lt h]

theorem agesBefore_of_slot {a b : Nat} (hs : (groupAt s a).since = (groupAt s b).since) (h : a < b) : agesBefore s a b = true := by
  simp [agesBefore, hs, h]

section
variable {s p} {a b : Nat}

theorem goesBefore_aged (ha : (groupAt s a).aged = true) (hb : (groupAt s b).aged = false) : goesBefore s p a b = true := by
  simp [goesBefore, ha, hb]

theorem goesBefore_both_aged (ha : (groupAt s a).aged = true) (hb : (groupAt s b).aged = true) :
    goesBefore s p a b = agesBefore s a b := by
  simp [goesBefore, ha, hb]

theorem issuesBefore_aged (ha : (groupAt s a).aged = true) (hb : (groupAt s b).aged = false) : issuesBefore s a b = true := by
  simp [issuesBefore, ha, hb]

theorem issuesBefore_both_aged (ha : (groupAt s a).aged = true) (hb : (groupAt s b).aged = true) :
    issuesBefore s a b = agesBefore s a b := by
  simp [issuesBefore, agesBefore, ha, hb]

section
variable (ha : (groupAt s a).aged = false) (hb : (groupAt s b).aged = false)
include ha hb

theorem goesBefore_lacks (hx : lacksEntry s p (groupAt s a).vf = true) (hy : lacksEntry s p (groupAt s b).vf = false) :
    goesBefore s p a b = true := by
  simp [goesBefore, ha, hb, hx, hy]

theorem goesBefore_ready (hl : lacksEntry s p (groupAt s a).vf = lacksEntry s p (groupAt s b).vf)
    (hr : (groupAt s a).readyAt < (groupAt s b).readyAt) : goesBefore s p a b = true := by
  simp [goesBefore, ha, hb, hl, hr, Nat.ne_of_lt hr]

theorem goesBefore_slot (hl : lacksEntry s p (groupAt s a).vf = lacksEntry s p (groupAt s b).vf)
    (hr : (groupAt s a).readyAt = (groupAt s b).readyAt) (h : a < b) : goesBefore s p a b = true := by
  simp [goesBefore, ha, hb, hl, hr, h]

/-- A function that is owed four words or more goes before one that is owed less (07 R207). -/
theorem issuesBefore_owed (hv : (groupAt s a).vf ≠ (groupAt s b).vf)
    (hl : lagOf s a (groupAt s b).vf < lagOf s a (groupAt s a).vf) (hm : 4 * 2 ^ 16 ≤ lagOf s a (groupAt s a).vf) :
    issuesBefore s a b = true := by
  have most : lagMost ≤ lagOf s a (groupAt s a).vf := hm
  simp [issuesBefore, ha, hb, hv, hl, most, Nat.ne_of_gt hl]

/-- Groups of one function go by their give-way marks, then by their last issues, then by their slots (07 R203, R204). -/
theorem issuesBefore_sameVf (hv : (groupAt s a).vf = (groupAt s b).vf) : issuesBefore s a b =
    if (groupAt s a).giveWay != (groupAt s b).giveWay then (groupAt s b).giveWay
    else if (groupAt s a).lastIssue != (groupAt s b).lastIssue then decide ((groupAt s a).lastIssue < (groupAt s b).lastIssue)
    else decide (a < b) := by
  simp [issuesBefore, ha, hb, hv]

end
end

/-! ## Entering the active set (07 R202, R206) -/

theorem goesFirst_iff (may : Nat → Bool) : goesFirst s may q = true ↔ may q = true ∧
    ∀ e ∈ residents s (q / 16), e.1 ≠ q → may e.1 = true → goesBefore s (q / 16) e.1 q = false := by
  simp only [goesFirst, Bool.and_eq_true, Bool.not_eq_true', List.any_eq_false, not_and, bne_iff_ne, Bool.not_eq_true, ne_eq]
  grind

/-- What lets a group take an entry: a free one asks that it may enter, a full set that its function has a claim. -/
theorem enters_eq_goesFirst : enters s q = goesFirst s (fun k => if (activeOf s (q / 16)).length < 4 then mayEnter s k
    else mayEnter s k && (groupAt s k).counts s.cclk && lacksEntry s (q / 16) (groupAt s k).vf) q := by
  unfold enters
  split <;> rfl

theorem groupAt_enterActive_same (out : Option Nat) : (groupAt (enterActive q out s) q).active = true := by
  simp [enterActive]

theorem groupAt_enterActive_out {o q : Nat} (h : o ≠ q) : groupAt (enterActive q (some o) s) o = (groupAt s o).leaveActive := by
  simp [enterActive, h]

theorem groupAt_enterActive_other {o q k : Nat} (hq : k ≠ q) (ho : k ≠ o) : groupAt (enterActive q (some o) s) k = groupAt s k := by
  simp [enterActive, hq, ho]

section
variable {s q}

theorem exec_activeSetEnter_free (h : enters s q = true) (hl : (activeOf s (q / 16)).length < 4) :
    exec (.activeSetEnter q) s = .next (modGroup q (fun g => { g with active := true, yieldedAt := none }) s) := by
  simp [exec, execActiveSetEnter, h, hl, enterActive]

/-- Which group gives up its entry is free (log 4): it is one of those that may. -/
theorem exec_activeSetEnter_full (h : enters s q = true) (hl : 4 ≤ (activeOf s (q / 16)).length)
    (hd : displaceable s (q / 16) (groupAt s q).vf ≠ []) :
    ∃ d ∈ displaceable s (q / 16) (groupAt s q).vf, exec (.activeSetEnter q) s = .next (enterActive q (some d.1) s) := by
  have hi := Nat.mod_lt (Config.freeW64 s.free (8000 + q)).toNat (List.length_pos_iff.mpr hd)
  refine ⟨_, List.getElem_mem hi, ?_⟩
  simp [exec, execActiveSetEnter, h, Nat.not_lt.mpr hl, List.getElem?_eq_getElem hi]

/-! ## Leaving it, and the end of a hold (07 R202) -/

theorem exec_blockedEvict_done {b : Blocked} (ha : (groupAt s q).active = true) (hst : (groupAt s q).st = .running)
    (ht : (groupAt s q).blockedAt + 32 ≤ s.cclk) (hb : (groupAt s q).blocked = some b) (he : b.evicts = true) :
    exec (.blockedEvict q) s = .next (modGroup q Group.leaveActive s) := by
  simp [exec, execBlockedEvict, Group.evictDue, ha, hst, ht, hb, he]

theorem exec_yieldHoldExpiry_done {c : Nat} (hy : (groupAt s q).yieldedAt = some c) (hc : c + 32 ≤ s.cclk) :
    exec (.yieldHoldExpiry q) s = .next (modGroup q (fun g => { g with yieldedAt := none }) s) := by
  simp [exec, execYieldHoldExpiry, Group.holdOver, hy, hc]

/-! ## Aging (07 R205, 21 R457) -/

theorem agingWindow_of_full (h : (dieAt s (dieOf q)).duties = []) : agingWindow s q = 1024 := by
  simp [agingWindow, h, withheld]

theorem agingDue_iff : agingDue s q = true ↔ (groupAt s q).st = .running ∧ (groupAt s q).blocked = none
    ∧ ((groupAt s q).aged = true ∨ (groupAt s q).notBefore ≤ s.cclk) ∧ (groupAt s q).yieldedAt = none
    ∧ (dieAt s (dieOf q)).held = false ∧ (groupAt s q).since + agingWindow s q ≤ s.cclk := by
  simp [agingDue, Group.counts, Group.ready, and_assoc]

/-- The most recent issuer of a list that is not empty is one of it that issued no earlier than any. -/
theorem mostRecent_spec : ∀ l : List (Nat × Group), l ≠ [] →
    ∃ d ∈ l, mostRecent l = some d ∧ ∀ e ∈ l, e.2.lastIssue ≤ d.2.lastIssue
  | [], h => absurd rfl h
  | e :: t, _ => by
    by_cases ht : t = []
    · subst ht
      exact ⟨e, List.mem_cons_self, rfl, by simp⟩
    · obtain ⟨f, hf, hm, hmax⟩ := mostRecent_spec t ht
      by_cases hlt : e.2.lastIssue < f.2.lastIssue
      · exact ⟨f, List.mem_cons_of_mem _ hf, by simp [mostRecent, hm, hlt], List.forall_mem_cons.mpr ⟨hlt.le, hmax⟩⟩
      · exact ⟨e, List.mem_cons_self, by simp [mostRecent, hm, hlt],
          List.forall_mem_cons.mpr ⟨le_rfl, fun g hg => (hmax g hg).trans (Nat.not_lt.mp hlt)⟩⟩

section
variable (h : agesNow s q = true)
include h

theorem exec_aging_active (ha : (groupAt s q).active = true) :
    exec (.aging q) s = .next (modGroup q (fun g => { g with aged := true }) s) := by
  simp [exec, execAging, h, ha]

theorem exec_aging_enters (ha : (groupAt s q).active = false) (hl : (activeOf s (q / 16)).length < 4) :
    exec (.aging q) s = .next (modGroup q (fun g => { g with active := true, yieldedAt := none })
      (modGroup q (fun g => { g with aged := true }) s)) := by
  simp [exec, execAging, h, ha, hl, enterActive]

theorem exec_aging_displaces (ha : (groupAt s q).active = false) (hl : 4 ≤ (activeOf s (q / 16)).length)
    (hd : displaceable s (q / 16) (groupAt s q).vf ≠ []) : ∃ d ∈ displaceable s (q / 16) (groupAt s q).vf,
      (∀ e ∈ displaceable s (q / 16) (groupAt s q).vf, e.2.lastIssue ≤ d.2.lastIssue)
      ∧ exec (.aging q) s = .next (enterActive q (some d.1) (modGroup q (fun g => { g with aged := true }) s)) := by
  obtain ⟨d, hd, hm, hmax⟩ := mostRecent_spec _ hd
  exact ⟨d, hd, hmax, by simp [exec, execAging, h, ha, Nat.not_lt.mpr hl, hm]⟩

end
end

/-! ## The group that a partition chooses (07 R201, R204) -/

theorem mem_issueRivals_iff (r : Nat) : r ∈ issueRivals s q ↔
    r ≠ q ∧ r / 16 = q / 16 ∧ ∃ g, (r, g) ∈ s.groups ∧ g.blocked = none ∧ mayIssue s r = true := by
  simp only [issueRivals, List.mem_map, List.mem_filter, Bool.and_eq_true, bne_iff_ne, beq_iff_eq, Option.isNone_iff_eq_none]
  constructor
  · rintro ⟨⟨_, g⟩, ⟨hg, ⟨⟨hq, hp⟩, hb⟩, hm⟩, rfl⟩
    exact ⟨hq, hp, g, hg, hb, hm⟩
  · rintro ⟨hq, hp, g, hg, hb, hm⟩
    exact ⟨(r, g), ⟨hg, ⟨⟨hq, hp⟩, hb⟩, hm⟩, rfl⟩

/-- A group that its partition chooses goes before each ready rival for its slot kind. -/
theorem chosen_issuesBefore {q r : Nat} (hc : chosen s q = true) (hk : nextKind s q ≠ 0) (hr : r ∈ issueRivals s q)
    (hkind : nextKind s r = nextKind s q) : issuesBefore s q r = true := by
  have rivals : issueRivals s q ≠ [] := List.ne_nil_of_mem hr
  have all : nextKind s q = 0 ∨ ∀ r ∈ issueRivals s q, nextKind s r ≠ nextKind s q ∨ issuesBefore s q r = true := by
    unfold chosen at hc
    split at hc
    · contradiction
    · simpa using hc
  exact ((all.resolve_left hk) r hr).resolve_left (fun ne => ne hkind)

/-! ## The next agent (07 R205, R207, R208) -/

/-- What the aged groups go by: how long each has waited, then its slot. -/
def ageKey (s : State) (q : Nat) : ℕ ×ₗ ℕ := toLex ((groupAt s q).since, q)

theorem agesBefore_iff_ageKey : agesBefore s a b = true ↔ ageKey s a < ageKey s b := by
  rw [ageKey, ageKey, Prod.Lex.toLex_lt_toLex, agesBefore]
  by_cases h : (groupAt s a).since = (groupAt s b).since <;> simp [h]

/-- In a list of slots that is not empty one goes before every other. -/
theorem find_agesBefore_isSome {l : List Nat} (h : l ≠ []) :
    (l.find? (fun q => l.all (fun r => r == q || agesBefore s q r))).isSome = true := by
  obtain ⟨m, hm, hmin⟩ := l.toFinset.exists_min_image (ageKey s) (List.toFinset_nonempty_iff l |>.mpr h)
  refine List.find?_isSome.mpr ⟨m, List.mem_toFinset.mp hm, List.all_eq_true.mpr fun r hr => ?_⟩
  rw [Bool.or_eq_true, beq_iff_eq, agesBefore_iff_ageKey]
  rcases eq_or_lt_of_le (hmin r (List.mem_toFinset.mpr hr)) with heq | hlt
  · exact .inl (Prod.ext_iff.mp (toLex_inj.mp heq)).2.symm
  · exact .inr hlt

/-- While an aged group can go on, the next word is an aged group's. -/
theorem agedNext_of_aged (h : ∃ e ∈ s.groups, e.2.aged = true ∧ goesOn s e.1 = true) :
    ∃ q g, agedNext s = some q ∧ (q, g) ∈ s.groups ∧ g.aged = true ∧ goesOn s q = true := by
  obtain ⟨e, he, haged, hgo⟩ := h
  have due : e.1 ∈ (s.groups.filter (fun e => e.2.aged && goesOn s e.1)).map Prod.fst :=
    List.mem_map_of_mem (List.mem_filter.mpr ⟨he, by simp [haged, hgo]⟩)
  obtain ⟨q, hq⟩ := Option.isSome_iff_exists.mp (find_agesBefore_isSome s (List.ne_nil_of_mem due))
  obtain ⟨⟨_, g⟩, hg, rfl⟩ := List.mem_map.mp (List.mem_of_find?_eq_some hq)
  obtain ⟨hg, hag⟩ := List.mem_filter.mp hg
  rw [Bool.and_eq_true] at hag
  exact ⟨_, g, hq, hg, hag.1, hag.2⟩

theorem agedNext_none (h : ∀ e ∈ s.groups, e.2.aged = true → goesOn s e.1 = false) : agedNext s = none := by
  have none_due : s.groups.filter (fun e => e.2.aged && goesOn s e.1) = [] :=
    List.filter_eq_nil_iff.mpr fun e he => by simpa using h e he
  simp [agedNext, none_due]

theorem owedNext_none (h : ∀ e ∈ s.groups, goesOn s e.1 = true → lagOf s e.1 e.2.vf < 4 * 2 ^ 16) : owedNext s = none := by
  have none_due : s.groups.filter (fun e => goesOn s e.1 && decide (lagMost ≤ lagOf s e.1 e.2.vf)) = [] :=
    List.filter_eq_nil_iff.mpr fun e he hin => by
      obtain ⟨hgo, hlag⟩ := Bool.and_eq_true .. ▸ hin
      exact Nat.not_le.mpr (h e he hgo) (of_decide_eq_true hlag)
  simp [owedNext, none_due]

theorem nextAgent_stays {q : Nat} (hc : s.cur = .group q) (hg : goesOn s q = true) (ha : agedNext s = none) (ho : owedNext s = none) :
    nextAgent s = .group q := by
  simp [nextAgent, ha, ho, hc, hg]

/-- Settles O46: the two orders decide by their keys (`goesBefore_swap`, `issuesBefore_swap`), each event of the active set changes the
groups that it names, and the aged group that has waited longest is found (`agedNext_of_aged`). -/
theorem activeSet : Obligations.ActiveSet := by
  unfold Obligations.ActiveSet
  refine ⟨⟨?_, ?_, ?_, ?_, ?_⟩, fun s a b => issuesBefore_swap s a b, fun s a b => issuesBefore_aged, ?_, ?_,
    fun s q r => chosen_issuesBefore s, fun s q r => mem_issueRivals_iff s q r, fun s a b => issuesBefore_owed, ?_, ?_⟩
  · intro q s h
    refine ⟨exec_activeSetEnter_free h, fun hl hd => ?_⟩
    obtain ⟨d, hd, entered⟩ := exec_activeSetEnter_full h hl hd
    refine ⟨d, _, hd, entered, groupAt_enterActive_same s q _, fun hne => ?_, fun k hq ho => groupAt_enterActive_other s hq ho⟩
    rw [groupAt_enterActive_out s hne]
    exact ⟨rfl, rfl⟩
  · intro q s
    dsimp only
    rw [enters_eq_goesFirst]
    exact goesFirst_iff s q _
  · intro s p a b
    refine ⟨goesBefore_self s p a, goesBefore_swap s p a b, goesBefore_aged, fun ha hb hs => ?_, fun ha hb hs h => ?_,
      fun h => goesBefore_lacks h.1 h.2, fun h => goesBefore_ready h.1 h.2, fun h => goesBefore_slot h.1 h.2⟩
    · rw [goesBefore_both_aged ha hb, agesBefore_of_since s hs]
    · rw [goesBefore_both_aged ha hb, agesBefore_of_slot s hs h]
  · intro q s b
    exact ⟨exec_blockedEvict_done, fun c => exec_yieldHoldExpiry_done, rfl, rfl, rfl, rfl, rfl, rfl⟩
  · intro q s
    exact ⟨agingWindow_of_full, Nat.le_add_right .., agingDue_iff, exec_aging_active, exec_aging_enters, exec_aging_displaces⟩
  · intro s a b ha hb hs
    rw [issuesBefore_both_aged ha hb, agesBefore_of_since s hs]
  · intro s a b ha hb hv
    rw [issuesBefore_sameVf ha hb hv]
    exact ⟨fun hx hy => by simp [hx, hy], fun hg hl => by simp [hg, hl, Nat.ne_of_lt hl], fun hg hl h => by simp [hg, hl, h]⟩
  · intro s q hc hg ha ho
    exact nextAgent_stays s hc hg (agedNext_none s ha) (owedNext_none s ho)
  · intro s h
    obtain ⟨q, g, hq, rest⟩ := agedNext_of_aged s h
    exact ⟨q, g, by simp [nextAgent, hq], rest⟩

end Sys2Proof.Machine
end
section
/-!
LAUNCHES AND ADMISSION (O47). The groups of a team start one after another, each in a slot of its own: the fold over the slots is followed
by what it leaves alone and by the group that each step starts. The slots themselves come from `placeGroups`, which takes no slot twice.
-/

namespace Sys2Proof.Machine

/-! ## What a list of steps keeps -/

/-- What every step of a list keeps, the list keeps. -/
theorem foldl_keeps {α β : Type} {f : State → α → State} (π : State → β) (hf : ∀ u x, π (f u x) = π u) (l : List α) (s : State) :
    π (l.foldl f s) = π s := by
  induction l generalizing s with
  | nil => rfl
  | cons x l ih => exact (ih (f s x)).trans (hf s x)

/-- What a change of one core keeps of it, it keeps of every core. -/
theorem coreAt_modCore_keeps {β : Type} (π : Core → β) {c : Nat} {f : Core → Core} {s : State}
    (hf : π (f (coreAt s c)) = π (coreAt s c)) (k : Nat) : π (coreAt (modCore c f s) k) = π (coreAt s k) := by
  by_cases h : k = c
  · subst h
    rw [coreAt_modCore_same, hf]
  · rw [coreAt_modCore_other c f s k h]

/-! ## The turn of a core among the functions (07 R199) -/

theorem Core.release_rrVf (n : Nat) (c : Core) : (c.release n).rrVf = c.rrVf := by
  unfold Core.release
  (repeat' split) <;> rfl

theorem Core.releaseReg_rrVf (r : VReg) (c : Core) : (c.releaseReg r).rrVf = c.rrVf := by
  cases r with
  | general n l => exact c.release_rrVf n
  | _ => rfl

theorem Core.enter_rrVf (vf : Nat) (salt : BitVec 48) (l : List W32) (c : Core) : (c.enter vf salt l).2.rrVf = c.rrVf := by
  unfold Core.enter
  dsimp only
  split <;> rfl

theorem Core.count_rrVf (ev vf n : Nat) (c : Core) : (c.count ev vf n).rrVf = c.rrVf := by
  unfold Core.count
  generalize c.pmccfg = l
  induction l generalizing c with
  | nil => rfl
  | cons e l ih =>
    rw [List.foldl_cons, ih]
    dsimp only
    split <;> rfl

theorem count_rrVf (core ev vf n : Nat) (s : State) (c : Nat) : (coreAt (count core ev vf n s) c).rrVf = (coreAt s c).rrVf := by
  unfold count
  split
  · rfl
  · exact coreAt_modCore_keeps Core.rrVf (Core.count_rrVf ..) c

theorem putVq_rrVf (q n : Nat) (r : VReg) (s : State) (c : Nat) : (coreAt (putVq q n r s) c).rrVf = (coreAt s c).rrVf := by
  have released := coreAt_modCore_keeps (s := s) Core.rrVf (Core.releaseReg_rrVf ((groupAt s q).vreg n) (coreAt s (coreOf q)))
  unfold putVq
  dsimp only
  split
  · rw [coreAt_modGroup, count_rrVf, count_rrVf, count_rrVf]
    exact (coreAt_modCore_keeps Core.rrVf (Core.enter_rrVf ..) c).trans (released c)
  · rw [coreAt_modGroup]
    exact released c

theorem clearTile_rrVf (core t : Nat) (s : State) (c : Nat) : (coreAt (clearTile core t s) c).rrVf = (coreAt s c).rrVf :=
  coreAt_modCore_keeps Core.rrVf rfl c

/-! ## The start of groups (07 R190 to R192) -/

section
variable (k : Nat) (w : WaitingTeam) (l : Launch)

/-- A group that starts changes its slot, the cores, and its team, whose member it becomes. -/
theorem startGroup_inGroup (gi q : Nat) (s : State) :
    InGroup q (modTeam k (fun t => { t with members := t.members ++ [q] }) s) (startGroup k w l gi q s) := by
  have started : InGroup q (modTeam k (fun t => { t with members := t.members ++ [q] }) s)
      (modTeam k (fun t => { t with members := t.members ++ [q] }) (setGroup q (launchGroup s k w l gi q) s)) :=
    InGroup.modGroup (fun _ => launchGroup s k w l gi q)
  unfold startGroup
  dsimp only
  split
  · exact (started.trans (InGroup.putVq ..)).trans (InGroup.putVq ..)
  · exact started

theorem groupAt_startGroup_other (gi : Nat) {q j : Nat} (h : j ≠ q) (s : State) : groupAt (startGroup k w l gi q s) j = groupAt s j :=
  (startGroup_inGroup k w l gi q s).others j h

/-- A group of a kernel or a gathering starts in the state of 07 R191. -/
theorem groupAt_startGroup_same (hk : l.kind ≠ .wave) (gi q : Nat) (s : State) :
    groupAt (startGroup k w l gi q s) q = launchGroup s k w l gi q := by
  simp [startGroup, hk]

theorem startGroup_vfs (gi q : Nat) (s : State) : (startGroup k w l gi q s).vfs = s.vfs := by
  rw [(startGroup_inGroup k w l gi q s).rest]
  rfl

theorem startGroup_nextTeam (gi q : Nat) (s : State) : (startGroup k w l gi q s).nextTeam = s.nextTeam := by
  rw [(startGroup_inGroup k w l gi q s).rest]
  rfl

theorem startGroup_cclk (gi q : Nat) (s : State) : (startGroup k w l gi q s).cclk = s.cclk := by
  rw [(startGroup_inGroup k w l gi q s).rest]
  rfl

theorem teamAt_startGroup (gi q : Nat) (s : State) :
    teamAt (startGroup k w l gi q s) k = { teamAt s k with members := (teamAt s k).members ++ [q] } := by
  rw [teamAt, (startGroup_inGroup k w l gi q s).rest]
  exact Tab.get_set_same ..

theorem startGroup_rrVf (gi q : Nat) (s : State) (c : Nat) : (coreAt (startGroup k w l gi q s) c).rrVf = (coreAt s c).rrVf := by
  unfold startGroup
  dsimp only
  split
  · rw [putVq_rrVf, putVq_rrVf]
    rfl
  · rfl

/-- The state in which a group starts asks the slot for its generation, and the package for its time and its functions alone. -/
theorem launchGroup_congr {s t : State} {gi q : Nat} (hg : groupAt t q = groupAt s q) (hv : t.vfs = s.vfs) (hc : t.cclk = s.cclk) :
    launchGroup t k w l gi q = launchGroup s k w l gi q := by
  simp only [launchGroup, vfAt, hg, hv, hc]

/-! ### One after another -/

theorem groupAt_startGroups_other {q : Nat} (xs : List (Nat × Nat)) (h : q ∉ xs.map Prod.fst) (s : State) :
    groupAt (xs.foldl (fun u x => startGroup k w l x.2 x.1 u) s) q = groupAt s q := by
  induction xs generalizing s with
  | nil => rfl
  | cons x xs ih =>
    rw [List.map_cons, List.mem_cons, not_or] at h
    exact (ih h.2 _).trans (groupAt_startGroup_other k w l x.2 h.1 s)

theorem groupAt_startGroups_mem (hk : l.kind ≠ .wave) {q gi : Nat} (xs : List (Nat × Nat)) (hn : (xs.map Prod.fst).Nodup)
    (h : (q, gi) ∈ xs) (s : State) :
    groupAt (xs.foldl (fun u x => startGroup k w l x.2 x.1 u) s) q = launchGroup s k w l gi q := by
  induction xs generalizing s with
  | nil => contradiction
  | cons x xs ih =>
    rw [List.map_cons, List.nodup_cons] at hn
    rcases List.mem_cons.mp h with rfl | hx
    · exact (groupAt_startGroups_other k w l xs hn.1 _).trans (groupAt_startGroup_same k w l hk gi q s)
    · have other : q ≠ x.1 := fun e => hn.1 (e ▸ List.mem_map_of_mem (f := Prod.fst) hx)
      exact (ih hn.2 hx _).trans (launchGroup_congr k w l (groupAt_startGroup_other k w l x.2 other s) (startGroup_vfs ..)
        (startGroup_cclk ..))

theorem teamAt_startGroups (xs : List (Nat × Nat)) (s : State) : teamAt (xs.foldl (fun u x => startGroup k w l x.2 x.1 u) s) k
    = { teamAt s k with members := (teamAt s k).members ++ xs.map Prod.fst } := by
  induction xs generalizing s with
  | nil => simp
  | cons x xs ih => simp [ih, teamAt_startGroup]

end

section
variable (k : Nat) (w : WaitingTeam) (slots : List Nat) (s : State)

theorem groupAt_startTeam_other {q : Nat} (h : q ∉ slots) : groupAt (startTeam k w slots s) q = groupAt s q :=
  groupAt_startGroups_other k w _ _ (by rwa [List.zipIdx_map_fst]) s

/-- A team's groups of a kernel or a gathering start in their slots, in order. -/
theorem groupAt_startTeam_slot {slots : List Nat} (hk : (Tab.get default s.launches w.launch).kind ≠ .wave) (hn : slots.Nodup)
    {gi q : Nat} (h : slots[gi]? = some q) :
    groupAt (startTeam k w slots s) q = launchGroup s k w (Tab.get default s.launches w.launch) gi q :=
  groupAt_startGroups_mem k w _ hk _ (by rwa [List.zipIdx_map_fst]) (List.mem_zipIdx_iff_getElem?.mpr h) s

theorem teamAt_startTeam : teamAt (startTeam k w slots s) k = { teamAt s k with members := (teamAt s k).members ++ slots } := by
  rw [startTeam, teamAt_startGroups, List.zipIdx_map_fst]

theorem startTeam_vfs : (startTeam k w slots s).vfs = s.vfs := foldl_keeps State.vfs (fun _ _ => startGroup_vfs ..) _ s

theorem startTeam_nextTeam : (startTeam k w slots s).nextTeam = s.nextTeam :=
  foldl_keeps State.nextTeam (fun _ _ => startGroup_nextTeam ..) _ s

theorem startTeam_rrVf (c : Nat) : (coreAt (startTeam k w slots s) c).rrVf = (coreAt s c).rrVf :=
  foldl_keeps (fun u => (coreAt u c).rrVf) (fun _ _ => startGroup_rrVf ..) _ s

end

/-! ## The counts of a team (07 R197) -/

section
variable (c vf : Nat) (w : WaitingTeam) (root : W64) (slots : List Nat) (s : State)

/-- The counts of a team: what its pages and tiles leave alone is as its first step leaves it. -/
theorem takeCounts_keeps {β : Type} (π : State → β) (page : ∀ p u, π (clearPage c p u) = π u) (tile : ∀ t u, π (clearTile c t u) = π u) :
    π (takeCounts c vf w root slots s) = π (modCore c (fun x => { x with rrPart := Tab.set x.rrPart vf (slots.headD 0 / 16 + 1) })
      { s with
        nextTeam := s.nextTeam + 1
        teams := Tab.set s.teams s.nextTeam { Team.empty with
          launch := w.launch, index := w.index, vf := vf, core := c, groups := w.groups, vext := w.vext
          pages := (freePages s c).take w.pages, tiles := (freeTiles s c).take w.tiles, s1root := root } }) :=
  (foldl_keeps π (fun u t => tile t u) _ _).trans (foldl_keeps π (fun u p => page p u) _ _)

theorem groupAt_takeCounts (q : Nat) : groupAt (takeCounts c vf w root slots s) q = groupAt s q :=
  takeCounts_keeps c vf w root slots s (fun u => groupAt u q) (fun _ _ => rfl) (fun _ _ => rfl)

theorem takeCounts_vfs : (takeCounts c vf w root slots s).vfs = s.vfs :=
  takeCounts_keeps c vf w root slots s State.vfs (fun _ _ => rfl) (fun _ _ => rfl)

theorem takeCounts_launches : (takeCounts c vf w root slots s).launches = s.launches :=
  takeCounts_keeps c vf w root slots s State.launches (fun _ _ => rfl) (fun _ _ => rfl)

theorem takeCounts_nextTeam : (takeCounts c vf w root slots s).nextTeam = s.nextTeam + 1 :=
  takeCounts_keeps c vf w root slots s State.nextTeam (fun _ _ => rfl) (fun _ _ => rfl)

theorem takeCounts_rrVf (k : Nat) : (coreAt (takeCounts c vf w root slots s) k).rrVf = (coreAt s k).rrVf :=
  (takeCounts_keeps c vf w root slots s (fun u => (coreAt u k).rrVf) (fun _ _ => rfl) (fun _ _ => clearTile_rrVf ..)).trans
    (coreAt_modCore_keeps Core.rrVf rfl k)

theorem teamAt_takeCounts : teamAt (takeCounts c vf w root slots s) s.nextTeam = { Team.empty with
    launch := w.launch, index := w.index, vf := vf, core := c, groups := w.groups, vext := w.vext
    pages := (freePages s c).take w.pages, tiles := (freeTiles s c).take w.tiles, s1root := root } :=
  (takeCounts_keeps c vf w root slots s (fun u => teamAt u s.nextTeam) (fun _ _ => rfl) (fun _ _ => rfl)).trans
    (Tab.get_set_same ..)

end

/-! ## Placement (07 R197, R198) -/

/-- Each group that is placed takes a slot that its partition offers and that none before it took. -/
theorem placeGroups_spec {parts : List Nat} {free : Nat → List Nat} : ∀ {n from' : Nat} {taken slots : List Nat},
    placeGroups parts free n from' taken = some slots → ∃ placed, slots = taken ++ placed ∧ placed.length = n
      ∧ (taken.Nodup → slots.Nodup) ∧ ∀ q ∈ placed, ∃ p ∈ parts, q ∈ free p
  | 0, _, taken, _, h => by
    obtain rfl : taken = _ := Option.some.inj h
    exact ⟨[], (List.append_nil _).symm, rfl, id, List.forall_mem_nil _⟩
  | n + 1, from', taken, slots, h => by
    unfold placeGroups at h
    dsimp only at h
    split at h
    · contradiction
    · next q found =>
      obtain ⟨p, hp, hq⟩ := List.exists_of_findSome?_eq_some found
      have untaken : q ∉ taken := by simpa using List.find?_some hq
      have part : p ∈ parts := by
        rcases List.mem_append.mp hp with hp | hp <;> exact (List.mem_filter.mp hp).1
      obtain ⟨placed, rfl, hlen, hnodup, hfree⟩ := placeGroups_spec h
      refine ⟨q :: placed, by simp, by simp [hlen], fun ht => hnodup ?_, List.forall_mem_cons.mpr ⟨?_, hfree⟩⟩
      · exact List.nodup_append.mpr ⟨ht, List.nodup_singleton q, by simpa using fun a ha (e : a = q) => untaken (e ▸ ha)⟩
      · exact ⟨p, part, List.mem_of_find?_eq_some hq⟩

/-- A slot that a partition offers is one of its own and vacant. -/
theorem mem_offeredSlots {s : State} {vf p q : Nat} (h : q ∈ offeredSlots s vf p) : (groupAt s q).st = .vacant ∧ q / 16 = p := by
  unfold offeredSlots at h
  split at h
  · obtain ⟨hm, hf⟩ := List.mem_filter.mp h
    obtain ⟨i, hi, rfl⟩ := List.mem_map.mp hm
    rw [List.mem_range] at hi
    simp only [slotFree, Bool.and_eq_true, beq_iff_eq] at hf
    obtain ⟨⟨⟨⟨vacant, -⟩, -⟩, -⟩, -⟩ := hf
    exact ⟨vacant, by omega⟩
  · contradiction

/-- A place for a team: its counts are there, and its groups have vacant slots of the core, each its own. -/
theorem placement_spec {s : State} {c vf : Nat} {w : WaitingTeam} {slots : List Nat} (h : placement s c vf w = some slots) :
    w.pages ≤ (freePages s c).length ∧ w.tiles ≤ (freeTiles s c).length ∧ slots.length = w.groups ∧ slots.Nodup
      ∧ ∀ q ∈ slots, (groupAt s q).st = .vacant ∧ q / 128 = c := by
  unfold placement at h
  split at h
  · next counts =>
    simp only [Bool.and_eq_true, decide_eq_true_eq] at counts
    obtain ⟨⟨⟨-, pages⟩, tiles⟩, -⟩ := counts
    obtain ⟨placed, rfl, hlen, hnodup, hfree⟩ := placeGroups_spec h
    refine ⟨pages, tiles, hlen, hnodup List.nodup_nil, fun q hq => ?_⟩
    obtain ⟨p, hp, hoffer⟩ := hfree q hq
    obtain ⟨vacant, part⟩ := mem_offeredSlots hoffer
    have core : p / 8 = c := by simpa using (List.mem_filter.mp hp).2
    exact ⟨vacant, by omega⟩
  · contradiction

theorem admissible_placement {s : State} {c vf : Nat} {w : WaitingTeam} {slots : List Nat} (h : admissible s c vf = some (w, slots)) :
    placement s c vf w = some slots := by
  unfold admissible at h
  split at h
  · split at h
    · contradiction
    · obtain ⟨p, hp, e⟩ := Option.map_eq_some_iff.mp h
      cases e
      exact hp
  · contradiction

/-! ## The slots of a group at launch (07 R192) -/

theorem Slot.settled_ident (sl : Slot) (quadLive : Bool) : (sl.settled quadLive).ident = sl.ident := by
  unfold Slot.settled
  cases sl.st <;> cases quadLive <;> rfl

theorem Slot.settled_isLive (sl : Slot) (quadLive : Bool) : (sl.settled quadLive).st = .live ↔ sl.st = .live := by
  by_cases h : sl.st = .live
  · rw [Slot.settled_live h]
  · exact iff_of_false (Slot.settled_dead h quadLive).2 h

/-- A slot settles by whether its quad has a live slot. -/
theorem settleQuads_getD (slots : List Slot) {i : Nat} (h : i < 32) : ∃ quadLive,
    (settleQuads slots).getD i { st := .vacant, ident := 0 } = (slots.getD i { st := .vacant, ident := 0 }).settled quadLive :=
  ⟨_, getD_range_map _ h _⟩

section
variable (w : WaitingTeam) (gi : Nat) {i : Nat} (h : i < 32)
include h

theorem launchSlots_live (wave : Bool) :
    ((launchSlots w wave gi).getD i { st := .vacant, ident := 0 }).st = .live ↔ 32 * gi + i < w.lanes := by
  obtain ⟨quadLive, settles⟩ := settleQuads_getD (slots := (List.range 32).map _) h
  rw [launchSlots, settles, Slot.settled_isLive, getD_range_map _ h]
  split <;> simp [*]

theorem launchSlots_ident (hl : 32 * gi + i < w.lanes) :
    ((launchSlots w false gi).getD i { st := .vacant, ident := 0 }).ident = BitVec.ofNat 16 (32 * gi + i) := by
  obtain ⟨quadLive, settles⟩ := settleQuads_getD (slots := (List.range 32).map _) h
  rw [launchSlots, settles, Slot.settled_ident, getD_range_map _ h, if_pos hl]
  rfl

end

/-! ## The launch state (07 R191) -/

section
variable {s : State} {k : Nat} {w : WaitingTeam} {l : Launch} {gi q : Nat}

/-- The scalar registers of a kernel's group: its arguments, its team, its place in the team and the number of teams. -/
theorem launchGroup_readS (hk : l.kind = .kernel) : let g := launchGroup s k w l gi q
    g.readS 1 = l.args ∧ g.readS 2 = BitVec.ofNat 64 w.index ∧ g.readS 3 = BitVec.ofNat 64 gi ∧ g.readS 4 = BitVec.ofNat 64 l.teams
      ∧ ∀ n, 4 < n → g.readS n = 0 := by
  have regs : (launchGroup s k w l gi q).s = [(1, l.args), (2, BitVec.ofNat 64 w.index), (3, BitVec.ofNat 64 gi), (4, BitVec.ofNat 64 l.teams)] := by
    simp [launchGroup, launchRegs, hk]
  refine ⟨?_, ?_, ?_, ?_, fun n hn => ?_⟩
  case refine_5 =>
    have unlisted : n ≠ 0 ∧ 1 ≠ n ∧ 2 ≠ n ∧ 3 ≠ n ∧ 4 ≠ n := by omega
    simp [Group.readS, regs, Tab.get, Tab.find, unlisted]
  all_goals simp [Group.readS, regs, Tab.get, Tab.find]

theorem launchGroup_vreg_other {n : Nat} (h : 0 < n) : (launchGroup s k w l gi q).vreg n = .uniform 0 := by
  simp [Group.vreg, launchGroup, Tab.get, Tab.find, Nat.ne_of_lt h]

theorem launchGroup_sFull {n : Nat} (h : n < 64) : (launchGroup s k w l gi q).sFull n = true := by
  have full : (launchGroup s k w l gi q).fullS = BitVec.allOnes 64 := rfl
  rw [Group.sFull, full, BitVec.getLsbD_allOnes, decide_eq_true h, Bool.or_true]

theorem launchGroup_vFull {n : Nat} (h : n < 112) : (launchGroup s k w l gi q).vFull n = true := by
  have full : (launchGroup s k w l gi q).fullV = BitVec.allOnes 112 := rfl
  rw [Group.vFull, full, BitVec.getLsbD_allOnes, decide_eq_true h]

theorem launchGroup_readP {n : Nat} (h : 1 ≤ n) : (launchGroup s k w l gi q).readP n = 0 := by
  simp [Group.readP, launchGroup, Group.empty, Tab.get, Tab.find, Nat.ne_of_gt h]

theorem launchGroup_live {i : Nat} (h : i < 32) : (launchGroup s k w l gi q).liveMask.getLsbD i = decide (32 * gi + i < w.lanes) := by
  rw [Group.liveMask_getLsbD _ i h, Group.live, Bool.eq_iff_iff, beq_iff_eq, decide_eq_true_iff]
  exact launchSlots_live w gi h _

theorem launchGroup_ident (hk : l.kind = .kernel) {i : Nat} (h : i < 32) (hl : 32 * gi + i < w.lanes) :
    ((launchGroup s k w l gi q).slots.getD i { st := .vacant, ident := 0 }).ident = BitVec.ofNat 16 (32 * gi + i) := by
  have slots : (launchGroup s k w l gi q).slots = launchSlots w false gi := by
    rw [launchGroup, hk]
    rfl
  rw [slots, launchSlots_ident w gi h hl]

end

/-! ## Admission (07 R197, R199) -/

/-- The state in which a team that is admitted takes its counts: it waits no more, and its function has had its turn. -/
def turnTaken (c vf : Nat) (s : State) : State :=
  modVf vf (fun v => { v with waiting := v.waiting.drop 1 }) (modCore c (fun x => { x with rrVf := vf }) (startSlice vf s))

section
variable (c vf : Nat) (w : WaitingTeam) (slots : List Nat) (s : State)

theorem admitTeam_eq : admitTeam c vf w slots s = startTeam s.nextTeam w slots
    (takeCounts c vf w (Tab.get default s.launches w.launch).s1root slots (turnTaken c vf s)) := rfl

/-- The start of a slice is noted in the context of the function alone (17 R384). -/
theorem startSlice_eq : ∃ vs, startSlice vf s = { s with vfs := vs } ∧ (Tab.get Vf.reset vs vf).waiting = (vfAt s vf).waiting := by
  unfold startSlice
  split
  · exact ⟨_, rfl, by simp [vfAt]⟩
  · exact ⟨s.vfs, rfl, rfl⟩

/-- Giving a function its turn changes functions and cores alone. -/
theorem turnTaken_rest : turnTaken c vf s = { s with vfs := (turnTaken c vf s).vfs, cores := (turnTaken c vf s).cores } := by
  obtain ⟨vs, e, -⟩ := startSlice_eq vf s
  rw [turnTaken, e]
  rfl

theorem turnTaken_waiting : (vfAt (turnTaken c vf s) vf).waiting = (vfAt s vf).waiting.drop 1 := by
  obtain ⟨vs, e, hw⟩ := startSlice_eq vf s
  rw [turnTaken, e, vfAt_modVf_same, ← hw]
  rfl

theorem turnTaken_rrVf : (coreAt (turnTaken c vf s) c).rrVf = vf := by simp [turnTaken]

theorem turnTaken_seq : (coreAt (turnTaken c vf s) c).seq = (coreAt s c).seq := by
  obtain ⟨vs, e, -⟩ := startSlice_eq vf s
  rw [turnTaken, e, coreAt_modVf, coreAt_modCore_same]
  rfl

theorem groupAt_turnTaken (q : Nat) : groupAt (turnTaken c vf s) q = groupAt s q := by rw [turnTaken_rest]; rfl

theorem turnTaken_nextTeam : (turnTaken c vf s).nextTeam = s.nextTeam := by rw [turnTaken_rest]

theorem turnTaken_launches : (turnTaken c vf s).launches = s.launches := by rw [turnTaken_rest]

theorem freePages_turnTaken : freePages (turnTaken c vf s) c = freePages s c := by rw [turnTaken_rest]; rfl

theorem freeTiles_turnTaken : freeTiles (turnTaken c vf s) c = freeTiles s c := by
  rw [freeTiles, turnTaken_seq, turnTaken_rest]
  rfl

/-! ### The state after an admission -/

theorem admitTeam_waiting : (vfAt (admitTeam c vf w slots s) vf).waiting = (vfAt s vf).waiting.drop 1 := by
  rw [admitTeam_eq, vfAt, startTeam_vfs, takeCounts_vfs]
  exact turnTaken_waiting c vf s

theorem admitTeam_rrVf : (coreAt (admitTeam c vf w slots s) c).rrVf = vf := by
  rw [admitTeam_eq, startTeam_rrVf, takeCounts_rrVf, turnTaken_rrVf]

theorem admitTeam_nextTeam : (admitTeam c vf w slots s).nextTeam = s.nextTeam + 1 := by
  rw [admitTeam_eq, startTeam_nextTeam, takeCounts_nextTeam, turnTaken_nextTeam]

/-- The team that is admitted, with its pages and tiles and the slots of its groups. -/
theorem teamAt_admitTeam : teamAt (admitTeam c vf w slots s) s.nextTeam = { Team.empty with
    launch := w.launch, index := w.index, vf := vf, core := c, groups := w.groups, vext := w.vext, members := slots
    pages := (freePages s c).take w.pages, tiles := (freeTiles s c).take w.tiles
    s1root := (Tab.get default s.launches w.launch).s1root } := by
  rw [admitTeam_eq, ← turnTaken_nextTeam c vf s, teamAt_startTeam, teamAt_takeCounts, freePages_turnTaken, freeTiles_turnTaken]
  rfl

theorem groupAt_admitTeam_other {q : Nat} (h : q ∉ slots) : groupAt (admitTeam c vf w slots s) q = groupAt s q := by
  rw [admitTeam_eq, groupAt_startTeam_other _ _ _ _ h, groupAt_takeCounts, groupAt_turnTaken]

/-- The groups of a kernel's team start in their slots, in order, each with the launch state. -/
theorem groupAt_admitTeam_slot {slots : List Nat} (hk : (Tab.get default s.launches w.launch).kind = .kernel) (hn : slots.Nodup)
    {gi q : Nat} (h : slots[gi]? = some q) : ∃ u, groupAt u q = groupAt s q ∧ groupAt (admitTeam c vf w slots s) q
      = launchGroup u s.nextTeam w (Tab.get default s.launches w.launch) gi q := by
  refine ⟨takeCounts c vf w (Tab.get default s.launches w.launch).s1root slots (turnTaken c vf s), ?_, ?_⟩
  · rw [groupAt_takeCounts, groupAt_turnTaken]
  · have launches : (takeCounts c vf w (Tab.get default s.launches w.launch).s1root slots (turnTaken c vf s)).launches = s.launches := by
      rw [takeCounts_launches, turnTaken_launches]
    rw [admitTeam_eq, groupAt_startTeam_slot _ _ _ (by rw [launches, hk]; decide) hn h, launches]

end

theorem exec_teamAdmit_done {c vf : Nat} {w : WaitingTeam} {slots : List Nat} {s : State} (ht : turnOf s c = some vf)
    (ha : admissible s c vf = some (w, slots)) : exec (.teamAdmit c vf) s = .next (admitTeam c vf w slots s) := by
  simp [exec, execTeamAdmit, ht, ha]

/-! ## The beginning of a launch (07 R190, 14 R346, 21 R446) -/

section
variable {lid : Nat} {s : State} {l : Launch}

/-- What a launch whose teams begin to wait changes. -/
theorem queueTeams_spec : Tab.find (queueTeams lid l s).launches lid = some { l with begun := true }
    ∧ (vfAt (queueTeams lid l s) l.vf).waiting = (vfAt s l.vf).waiting ++ (List.range l.teams).map (fun i => kernelTeam lid i l)
    ∧ (queueTeams lid l s).groups = s.groups ∧ (queueTeams lid l s).nextLaunch = s.nextLaunch ∧ SameMemory s (queueTeams lid l s) := by
  refine ⟨by simp [queueTeams], ?_, rfl, rfl, fun _ _ => rfl⟩
  rw [queueTeams, vfAt_modVf_same]
  rfl

theorem exec_launchNbtStart_done (hl : Tab.find s.launches lid = some l) (hb : l.begun = false) (ht : l.nbt.toNat ≤ s.time.toNat) :
    exec (.launchNbtStart lid) s = .next (queueTeams lid l s) := by
  simp [exec, execLaunchNbtStart, hl, hb, Nat.not_lt.mpr ht]

/-! ## Its completion (14 R348, 19 R433) -/

/-- A launch that asks for no time-loss record completes at once. -/
theorem exec_launchComplete_done (hl : Tab.find s.launches lid = some l) (hk : l.kind = .kernel) (hb : l.begun = true) (h0 : l.left = 0)
    (hs : l.saved = none) (hstall : l.stall = none) (hw : launchWorks s lid = false) (hheld : (dieAt s 4).held = false)
    (hrec : l.tlrec = 0) : exec (.launchComplete lid) s = .next (completeLaunch lid l s) := by
  simp [exec, execLaunchComplete, hl, hk, hb, h0, hs, hstall, hw, hheld, writeLoss, Launch.lose, hrec]

theorem completeLaunch_noCmd (h : l.cmd = none) : completeLaunch lid l s = { s with launches := Tab.del s.launches lid } := by
  simp [completeLaunch, h]

theorem completeLaunch_cmd {id : Nat} (h : l.cmd = some id) : ∃ u,
    completeLaunch lid l s = completeCmd l.vf id 0 0 (lid % 2 ^ 24) 0 u
      ∧ Tab.find u.launches lid = none ∧ SameMemory s u ∧ u.groups = s.groups := by
  refine ⟨tally 2 l.vf (s.time - l.start).toNat { s with launches := Tab.del s.launches lid }, ?_, ?_, fun key pa => ?_, ?_⟩
  · simp only [completeLaunch, h]
  · rw [tally_launches, Tab.find_del_same]
  · simp [readPa]
  · rw [tally_groups]

end

/-! ## LAUNCH (14 R346) -/

section
variable {vf id : Nat} {s : State} {c : Command}

theorem beginCmd_waiting (vf id : Nat) (s : State) : (vfAt (beginCmd vf id s) vf).waiting = (vfAt s vf).waiting := by
  rw [beginCmd, vfAt_modVf_same]
  split <;> rfl

theorem exec_launch_refused {e : Nat} (hc : readyCmd s vf id 1 = some c) (ha : mayAdmit s vf = true) (he : launchCheck s vf c = .error e) :
    exec (.launch vf id) s = .next (completeCmd vf id e 0 0 0 (beginCmd vf id s)) := by
  simp [exec, execLaunch, hc, ha, he]

/-- The state with a launch that LAUNCH has made: its teams wait where its not-before time has come. -/
def launched (vf id : Nat) (c : Command) (k : Config.KDesc) (s : State) : State :=
  let l := launchOf s vf id c k
  let s1 : State := { beginCmd vf id s with launches := Tab.set s.launches s.nextLaunch l, nextLaunch := s.nextLaunch + 1 }
  if l.nbt.toNat ≤ s.time.toNat then queueTeams s.nextLaunch l s1 else s1

theorem exec_launch_done {k : Config.KDesc} (hc : readyCmd s vf id 1 = some c) (ha : mayAdmit s vf = true)
    (hk : launchCheck s vf c = .ok k) : exec (.launch vf id) s = .next (settle vf (launched vf id c k s)) := by
  simp only [exec, execLaunch, hc, ha, hk, Bool.not_true, Bool.false_eq_true, if_false, event_some]
  rfl

/-- The launch that LAUNCH makes has begun just where its not-before time has come, and just then its teams wait. -/
theorem launched_launch (vf id : Nat) (c : Command) (k : Config.KDesc) (s : State) :
    let l : Launch := { launchOf s vf id c k with begun := decide ((BitVec.ofNat 64 (c.field 40 8)).toNat ≤ s.time.toNat) }
    Tab.find (launched vf id c k s).launches s.nextLaunch = some l ∧ (vfAt (launched vf id c k s) vf).waiting = (vfAt s vf).waiting ++
      (if l.begun then (List.range l.teams).map (fun i => kernelTeam s.nextLaunch i l) else []) := by
  unfold launched
  dsimp only
  by_cases h : (launchOf s vf id c k).nbt.toNat ≤ s.time.toNat
  · obtain ⟨found, waits, -⟩ := queueTeams_spec (lid := s.nextLaunch) (l := launchOf s vf id c k)
      (s := { beginCmd vf id s with launches := Tab.set s.launches s.nextLaunch (launchOf s vf id c k), nextLaunch := s.nextLaunch + 1 })
    rw [if_pos h, found, decide_eq_true (p := (BitVec.ofNat 64 (c.field 40 8)).toNat ≤ s.time.toNat) h]
    refine ⟨rfl, waits.trans ?_⟩
    exact congrArg (· ++ _) (beginCmd_waiting vf id s)
  · rw [if_neg h, decide_eq_false (p := (BitVec.ofNat 64 (c.field 40 8)).toNat ≤ s.time.toNat) h]
    refine ⟨Tab.find_set_same .., ?_⟩
    rw [if_neg Bool.false_ne_true, List.append_nil]
    exact beginCmd_waiting vf id s

theorem launched_rest (vf id : Nat) (c : Command) (k : Config.KDesc) (s : State) : (launched vf id c k s).nextLaunch = s.nextLaunch + 1
    ∧ (launched vf id c k s).groups = s.groups ∧ SameMemory s (launched vf id c k s) := by
  unfold launched
  dsimp only
  split <;> exact ⟨rfl, rfl, fun _ _ => rfl⟩

end

/-- Settles O47: an admission is the turn taken, the counts and the groups in their slots (`admitTeam_eq`), each launch state is read off
`launchGroup`, and LAUNCH, its not-before time and its completion are run by the lemmas of their own. -/
theorem admission : Obligations.Admission := by
  unfold Obligations.Admission
  refine ⟨?_, ?_, ?_, ?_⟩
  · intro c vf s w slots ht ha
    obtain ⟨pages, tiles, len, nodup, vacant⟩ := placement_spec (admissible_placement ha)
    refine ⟨_, exec_teamAdmit_done ht ha, admitTeam_waiting .., admitTeam_rrVf .., admitTeam_nextTeam .., ?_, len, nodup, vacant,
      fun q hq => groupAt_admitTeam_other c vf w slots s hq, fun hk gi q hq => ?_⟩
    · rw [teamAt_admitTeam]
      exact ⟨rfl, rfl, rfl, rfl, rfl, rfl, by simpa using pages, by simpa using tiles, rfl, rfl, rfl⟩
    · obtain ⟨u, same, started⟩ := groupAt_admitTeam_slot c vf w s hk nodup hq
      obtain ⟨r1, r2, r3, r4, rest⟩ := launchGroup_readS (s := u) (k := s.nextTeam) (w := w) (gi := gi) (q := q) hk
      rw [started, ← same]
      exact ⟨rfl, rfl, rfl, rfl, rfl, rfl, rfl, rfl, rfl, rfl, rfl, r1, r2, r3, r4, rest, fun _ => launchGroup_sFull, rfl,
        fun _ => launchGroup_vreg_other, fun _ => launchGroup_vFull, rfl, fun _ h _ => launchGroup_readP h,
        fun _ => launchGroup_live, fun _ => launchGroup_ident hk, rfl, rfl, rfl, rfl, rfl, rfl, rfl⟩
  · intro lid s l hl hb ht
    obtain ⟨found, waits, groups, -, memory⟩ := queueTeams_spec (lid := lid) (s := s) (l := l)
    exact ⟨_, exec_launchNbtStart_done hl hb ht, found, waits, groups, memory⟩
  · intro lid s l hl hk hb h0 hs hstall hw hheld hrec
    rw [exec_launchComplete_done hl hk hb h0 hs hstall hw hheld hrec]
    refine ⟨fun h => by rw [completeLaunch_noCmd h], fun id h => ?_⟩
    obtain ⟨u, e, rest⟩ := completeLaunch_cmd (lid := lid) (s := s) h
    exact ⟨u, by rw [e], rest⟩
  · intro vf id s c hc ha
    refine ⟨fun e => exec_launch_refused hc ha, fun k hk => ⟨_, exec_launch_done hc ha hk, ?_, launched_rest ..⟩⟩
    obtain ⟨found, waits⟩ := launched_launch vf id c k s
    exact ⟨_, found, rfl, rfl, rfl, rfl, rfl, rfl, rfl, waits⟩

end Sys2Proof.Machine
end

section
/-!
THE START OF A GATHERING (O48). Its copy's lock is released first, and a release wakes the groups of its core whose CRESTART waits for room
in the lock table (17 R401): they stand outside the slots of the gathering and change nevertheless.
-/

namespace Sys2Proof.Machine

/-! ## The release of locks (08 R239, R241) -/

theorem find_map_value {α : Type} (f : Nat → α → α) (t : Tab α) (n : Nat) :
    Tab.find (t.map (fun e => (e.1, f e.1 e.2))) n = (Tab.find t n).map (f n) := by
  induction t with
  | nil => rfl
  | cons e t ih =>
    by_cases h : e.1 = n
    · simp [Tab.find, h]
    · simp [Tab.find, h, ih]

/-- A slot whose group waits is listed. -/
theorem find_groups_of_blocked {s : State} {q : Nat} (hb : (groupAt s q).blocked ≠ none) :
    Tab.find s.groups q = some (groupAt s q) := by
  cases found : Tab.find s.groups q with
  | none =>
    rw [groupAt, Tab.get, found] at hb
    exact absurd rfl hb
  | some g => rw [groupAt, Tab.get, found, Option.getD_some]

/-- A group that waits, and that a test picks, waits no more. -/
theorem groupAt_wakeAgain {p : Nat → Group → Bool} {s : State} {q : Nat} (hb : (groupAt s q).blocked ≠ none)
    (hp : p q (groupAt s q) = true) : groupAt (wakeAgain p s) q = { groupAt s q with blocked := none, readyAt := s.cclk } := by
  have woken := find_map_value (fun k g => if p k g then { g with blocked := none, readyAt := s.cclk } else g) s.groups q
  rw [find_groups_of_blocked hb, Option.map_some, if_pos hp] at woken
  rw [groupAt, Tab.get, wakeAgain, woken, Option.getD_some]

theorem writePas_groups (key pa : Nat) (bs : List Byte) (s : State) : (writePas key pa bs s).groups = s.groups := by
  obtain ⟨m, l, b, e⟩ := writePas_eq key pa bs s
  rw [e]

theorem signalBarrier_groups {c : Nat} {x : Nat × Nat × W64} {s t : State} (h : signalBarrier c x s = some t) : t.groups = s.groups := by
  unfold signalBarrier at h
  split at h
  · cases h
    rfl
  · split at h
    · contradiction
    · cases h
      exact writePas_groups ..

theorem signalCore_groups (c : Nat) (s : State) : (signalCore c s).groups = s.groups := by
  refine (foldl_keeps State.groups (fun u x => ?_) _ _).trans ?_
  · split
    · next h => exact signalBarrier_groups h
    · rfl
  · split <;> rfl

/-- A group of the core whose CRESTART waits for room issues again once locks are released. -/
theorem groupAt_dropLocks_restart {core : Nat} {o : LockOwner} {s : State} {q : Nat} (hc : coreOf q = core)
    (hb : (groupAt s q).blocked = some .restart) : (groupAt (dropLocks core o s) q).blocked = none := by
  have signals := foldl_keeps (fun u => groupAt u q) (fun u (c : Nat × Core) => congrArg (Tab.get Group.empty · q) (signalCore_groups c.1 u))
  rw [dropLocks, signals, groupAt_wakeAgain (by simp [hb]) (by simp [hc, hb])]

/-! ## GATHERING_LAUNCH (10 R302) -/

theorem groupAt_startSlice (vf : Nat) (s : State) (q : Nat) : groupAt (startSlice vf s) q = groupAt s q := by
  obtain ⟨vs, e, -⟩ := startSlice_eq vf s
  rw [e]
  rfl

/-- A gathering that starts wakes each group of its core, outside its slots, whose CRESTART waits for room. -/
theorem exec_gatheringLaunch_wakes {die vf expert q : Nat} {s t : State} {x : Expert} {f : Firing} {later : List Firing}
    (hx : expertAt s die vf expert = some x) (hf : x.firing = f :: later) (hq : q ∉ f.slots) (hc : coreOf q = f.core)
    (hb : (groupAt s q).blocked = some .restart) (ht : exec (.gatheringLaunch die vf expert) s = .next t) :
    (groupAt t q).blocked = none := by
  simp only [exec, execGatheringLaunch, hx, hf] at ht
  split at ht
  · contradiction
  · cases ht
    rw [groupAt_startTeam_other _ _ _ _ hq]
    refine (congrArg Group.blocked (groupAt_startSlice vf _ q)).trans (groupAt_dropLocks_restart hc ?_)
    refine (congrArg Group.blocked (foldl_keeps (groupAt · q) (fun u r => ?_) _ s)).trans hb
    split
    · exact congrArg (Tab.get Group.empty · q) (writePas_groups ..)
    · rfl

/-! ## A gathering and a restart on one core -/

/-- A gathering of VF 1 whose record is copied: it runs on core 1, in slot 128. -/
def copiedFiring : Firing :=
  { waiting := { (default : WaitingTeam) with launch := 9, entry := 0x10000, lanes := 32, groups := 1 }, team := 5, core := 1
    slots := [128], records := [7] }

/-- Expert 255 of VF 1 on die 0, from which that gathering was fired. -/
def firedExpert : Expert := { (default : Expert) with enabled := true, firing := [copiedFiring] }

/-- That gathering holds its lock on core 1, and the group beside it, in slot 129, waits in a CRESTART for room in the lock table. -/
def restartBeside : State :=
  { State.reset with
    groups := [(129, { Group.empty with st := .running, vf := 1, blocked := some .restart })]
    teams := [(5, { Team.empty with launch := 9, vf := 1, core := 1, groups := 1, pages := [0] })]
    cores := [(1, { Core.reset with
      locks := [(0, { owner := .gathering 1 255 5, order := 0, write := true, lo := ocpmWindow 1 / 64, hi := ocpmWindow 1 / 64 })] })]
    dies := [(0, { Die.reset with experts := [(expertKey 1 255, firedExpert)] })] }

/-- Refutes O48: the third clause says that no group outside the slots of a gathering that starts changes, and where a group of its core
waits in a CRESTART for room in the lock table, the release of the gathering's lock wakes it (`exec_gatheringLaunch_wakes`). -/
theorem not_wavesAndGatherings : ¬ Obligations.WavesAndGatherings := by
  unfold Obligations.WavesAndGatherings
  rintro ⟨-, -, gathering, -⟩
  obtain ⟨t, ht, -, -, -, others⟩ := gathering 0 1 255 restartBeside firedExpert copiedFiring [] rfl rfl rfl rfl
    (by decide +kernel) (List.nodup_singleton 128)
  have outside : 129 ∉ copiedFiring.slots := by decide
  have woken : (groupAt t 129).blocked = none := exec_gatheringLaunch_wakes rfl rfl outside rfl rfl ht
  rw [others 129 outside] at woken
  contradiction

end Sys2Proof.Machine
end

section
/-!
THE FRAME OF THE QUEUE WORDS (O41). The capability check as the conjunction of what it asks; the turns of the acting slots as a recursion
that answers the slots that succeed; and what a die keeps when a trace or event record is offered to it.
-/

set_option Elab.async false
namespace Sys2Proof.Machine

/-! ## The capability check (10 R305, R306; 14 R362) -/

/-- A handle names the executing group's own function exactly where its VF field holds that number modulo 512 (log 52). -/
theorem capOwner_eq_me (s : State) (h : W64) : capOwner s h = s.me.vf ↔ capVf h = s.me.vf % 512 := by
  have field : capVf h < 512 := Nat.mod_lt _ (by decide)
  unfold capOwner
  split <;> omega

/-- A chain of checks finds nothing where its first check passes and the rest finds nothing. -/
theorem ite_some_eq_none {α : Type} {p : Prop} [Decidable p] {a : α} {x : Option α} :
    (if p then some a else x) = none ↔ ¬ p ∧ x = none := by
  split <;> simp_all

theorem capReason_eq_none (s : State) (h : W64) (n : CapNeed) :
    capReason s h n = none ↔ h.toNat < 2 ^ 48 ∧ ∃ wave, capTarget s h = some (capGen h, true, wave)
      ∧ capRights h / 2 ^ n.right % 2 = 1 ∧ (capVf h = s.me.vf % 512 ∨ granted s h s.me.vf n.right = true)
      ∧ (n.table = true ↔ capIndex h = 0xFFFF) ∧ (n.table = false → wave = n.wave) := by
  have narrow : ¬ h.toNat / 2 ^ 48 ≠ 0 ↔ h.toNat < 2 ^ 48 := by omega
  unfold capReason
  rw [ite_some_eq_none, narrow, ← capOwner_eq_me]
  refine and_congr_right fun _ => ?_
  cases capTarget s h with
  | none => simp
  | some x =>
    obtain ⟨gen, en, wave⟩ := x
    have bit : ¬ capRights h / 2 ^ n.right % 2 = 0 ↔ capRights h / 2 ^ n.right % 2 = 1 := by omega
    have owner : ¬ (capOwner s h ≠ s.me.vf ∧ (!granted s h s.me.vf n.right) = true)
        ↔ capOwner s h = s.me.vf ∨ granted s h s.me.vf n.right = true := by
      rw [not_and_or, not_not, Bool.not_eq_true, Bool.not_eq_false']
    have kind : ¬ ((capIndex h == 0xFFFF) != n.table || (!n.table && wave != n.wave)) = true
        ↔ (n.table = true ↔ capIndex h = 0xFFFF) ∧ (n.table = false → wave = n.wave) := by
      by_cases table : capIndex h = 0xFFFF <;> cases n.table <;> simp [table]
    simp only [ite_some_eq_none, bit, owner, kind, Option.some.injEq, Prod.mk.injEq]
    simp [and_assoc]

section
variable {i : Instr} {word : W32} {uses : List Use} {sh : Nat} {n : CapNeed} {pre : State → Option Res} {s : State}
  {body : W64 → State → List VReg → Res}

/-- A failing check clears p7 and traps with its reason (10 R306). -/
theorem queueWord_refuses {reason : Nat} (hw : encode i = word) (go : MayGo i (.ss sh false 1 :: uses) s) (hp : pre s = none)
    (hc : capReason s (s.me.readS sh) n = some reason) :
    queueWord word uses sh n pre s body = .next (takeTrap s.qid 0x0B
      (BitVec.ofNat 64 ((s.me.readS sh).toNat % 2 ^ 16 + (s.me.readS sh).toNat / 2 ^ 16 % 16 * 2 ^ 16 + reason * 2 ^ 20)) s.me.pc
      (modMe (Group.writePraw 7 0) s)) := by
  subst hw
  have trapped := wordG_trap go (body := fun s src => match pre s with
    | some r => r
    | none =>
      match capReason s (s.me.readS sh) n with
      | some r => capTrap s (s.me.readS sh) r
      | none => body (s.me.readS sh) s src) (by simp only [hp, hc]; exact rfl)
  rw [trapHere, qid_modMe, me_modMe, Group.writePraw_pc] at trapped
  exact trapped

theorem queueWord_completes {t : State} {next : Next} (hw : encode i = word) (go : MayGo i (.ss sh false 1 :: uses) s)
    (hp : pre s = none) (hc : capReason s (s.me.readS sh) n = none)
    (hb : body (s.me.readS sh) s (sourceRegs s.me (.ss sh false 1 :: uses) []) = .done t next) :
    queueWord word uses sh n pre s body = .next (retire next (leaveWord s (.ss sh false 1 :: uses) t)) := by
  subst hw
  refine wordG_done go ?_
  simp only [hp, hc]
  exact hb

end

/-! ## Turns of the slots (11 R318) -/

/-- The mask of the slots of a list. -/
def slotMask (ks : List Nat) : W32 := BitVec.ofNat 32 (ks.map (2 ^ ·)).sum

theorem slotMask_getLsbD {ks : List Nat} (sorted : ks.SortedLT) {k : Nat} (hk : k < 32) :
    (slotMask ks).getLsbD k = decide (k ∈ ks) := by
  have bit := Nat.mem_bitIndices (i := k) (n := (ks.map (2 ^ ·)).sum)
  rw [Nat.bitIndices_sum_map_two_pow sorted] at bit
  rw [slotMask, BitVec.getLsbD_ofNat, decide_eq_true hk, Bool.true_and, Bool.eq_iff_iff, decide_eq_true_iff, bit]

theorem actingSlots_sorted (g : Group) : (actingSlots g).SortedLT :=
  (List.pairwise_lt_range.sublist List.filter_sublist).sortedLT

theorem mem_actingSlots {g : Group} {k : Nat} : k ∈ actingSlots g ↔ k < 32 ∧ g.actLive.getLsbD k = true := by
  rw [actingSlots, List.mem_filter, List.mem_range]

theorem slotMask_take_getLsbD (g : Group) (n : Nat) {k : Nat} (hk : k < 32) :
    (slotMask ((actingSlots g).take n)).getLsbD k = decide (k ∈ (actingSlots g).take n) :=
  slotMask_getLsbD ((actingSlots_sorted g).pairwise.sublist (List.take_sublist ..)).sortedLT hk

theorem actingSlots_length_le (g : Group) : (actingSlots g).length ≤ 32 :=
  (List.length_filter_le ..).trans (List.length_range ..).le

/-- Each slot of a list takes its turn: those that succeed, and the state after them. -/
def takeTurns (turn : Nat → State → Bool × State) : List Nat → State → List Nat × State
  | [], s => ([], s)
  | k :: ks, s => (if (turn k s).1 then k :: (takeTurns turn ks (turn k s).2).1 else (takeTurns turn ks (turn k s).2).1,
      (takeTurns turn ks (turn k s).2).2)

section
variable {turn : Nat → State → Bool × State}

theorem takeTurns_won {k : Nat} {s u : State} (h : turn k s = (true, u)) (ks : List Nat) :
    takeTurns turn (k :: ks) s = (k :: (takeTurns turn ks u).1, (takeTurns turn ks u).2) := by
  simp [takeTurns, h]

theorem takeTurns_lost {k : Nat} {s u : State} (h : turn k s = (false, u)) (ks : List Nat) :
    takeTurns turn (k :: ks) s = takeTurns turn ks u := by
  simp [takeTurns, h]

theorem takeTurns_sublist (ks : List Nat) (s : State) : (takeTurns turn ks s).1.Sublist ks := by
  induction ks generalizing s with
  | nil => exact .slnil
  | cons k ks ih =>
    rw [takeTurns]
    split
    · exact (ih _).cons_cons k
    · exact (ih _).cons k

/-- A fold that adds the bit of each slot whose turn succeeds. -/
theorem foldl_takeTurns {f : Nat × State → Nat → Nat × State}
    (hf : ∀ n u k, f (n, u) k = (if (turn k u).1 then n + 2 ^ k else n, (turn k u).2)) (ks : List Nat) (n : Nat) (s : State) :
    ks.foldl f (n, s) = (n + ((takeTurns turn ks s).1.map (2 ^ ·)).sum, (takeTurns turn ks s).2) := by
  induction ks generalizing n s with
  | nil => rfl
  | cons k ks ih =>
    rw [List.foldl_cons, hf, ih, takeTurns]
    cases (turn k s).1
    · rfl
    · simp [Nat.add_assoc]

/-- A slot whose turn fails in every state is not among those that succeed. -/
theorem not_mem_takeTurns {k : Nat} (fails : ∀ u, (turn k u).1 = false) (ks : List Nat) (s : State) : k ∉ (takeTurns turn ks s).1 := by
  induction ks generalizing s with
  | nil => exact List.not_mem_nil
  | cons j ks ih =>
    rw [takeTurns]
    split
    next won =>
      have other : k ≠ j := fun e => Bool.false_ne_true ((fails s).symm.trans (e ▸ won))
      exact List.not_mem_cons_of_ne_of_not_mem other (ih _)
    next => exact ih _

/-- A slot succeeds where its turn does as long as there is room for one more, and every turn takes up the room of one at most. -/
theorem mem_takeTurns {room : Nat → State → Prop} {k : Nat} (keeps : ∀ j n u, room (n + 1) u → room n (turn j u).2)
    (wins : ∀ n u, room (n + 1) u → (turn k u).1 = true) {ks : List Nat} {s : State} (enough : room ks.length s) (mem : k ∈ ks) :
    k ∈ (takeTurns turn ks s).1 := by
  induction ks generalizing s with
  | nil => exact absurd mem List.not_mem_nil
  | cons j ks ih =>
    rw [takeTurns]
    obtain rfl | later := List.mem_cons.mp mem
    · rw [if_pos (wins _ _ enough)]
      exact List.mem_cons_self
    · have found := ih (keeps j _ _ enough) later
      split
      · exact List.mem_cons_of_mem _ found
      · exact found

end

/-- A turn that may find no way: it fails and changes nothing. -/
def attempt (step : Nat → State → Option State) (k : Nat) (s : State) : Bool × State := ((step k s).isSome, (step k s).getD s)

theorem attempt_some {step : Nat → State → Option State} {k : Nat} {s t : State} (h : step k s = some t) :
    attempt step k s = (true, t) := by
  rw [attempt, h]
  rfl

theorem attempt_none {step : Nat → State → Option State} {k : Nat} {s : State} (h : step k s = none) :
    attempt step k s = (false, s) := by
  rw [attempt, h]
  rfl

theorem eachSlot_eq (step : Nat → State → Option State) (s : State) :
    eachSlot step s = modMe (Group.writePraw 7 (slotMask (takeTurns (attempt step) (actingSlots s.me) s).1))
      (takeTurns (attempt step) (actingSlots s.me) s).2 := by
  unfold eachSlot
  rw [foldl_takeTurns (turn := attempt step) (fun n u k => ?_), Nat.zero_add]
  · rfl
  · unfold attempt
    cases taken : step k u <;> rfl

theorem Group.readP_writePraw_same (v : W32) (g : Group) : (g.writePraw 7 v).readP 7 = v := Tab.get_set_same ..

/-- The slots that succeed act. -/
theorem slotMask_and_actLive {g : Group} {won : List Nat} (acting : won.Sublist (actingSlots g)) :
    slotMask won &&& g.actLive = slotMask won := by
  refine BitVec.eq_of_getLsbD_eq fun k hk => ?_
  have sorted : won.SortedLT := ((actingSlots_sorted g).pairwise.sublist acting).sortedLT
  rw [BitVec.getLsbD_and, slotMask_getLsbD sorted hk, Bool.and_eq_left_iff_imp, decide_eq_true_iff]
  exact fun mem => (mem_actingSlots.mp (acting.subset mem)).2

theorem eachSlot_p7 (step : Nat → State → Option State) (s : State) :
    (eachSlot step s).me.readP 7 = slotMask (takeTurns (attempt step) (actingSlots s.me) s).1 := by
  rw [eachSlot_eq, me_modMe, Group.readP_writePraw_same]

theorem taskQueue_eachSlot (step : Nat → State → Option State) (s : State) (die vf index : Nat) :
    taskQueue (eachSlot step s) die vf index = taskQueue (takeTurns (attempt step) (actingSlots s.me) s).2 die vf index := by
  rw [eachSlot_eq]
  rfl

theorem slotMask_eq_actLive {g : Group} {won : List Nat} (sub : won.Sublist (actingSlots g)) (all : ∀ k ∈ actingSlots g, k ∈ won) :
    slotMask won = g.actLive := by
  refine BitVec.eq_of_getLsbD_eq fun k hk => ?_
  have sorted : won.SortedLT := ((actingSlots_sorted g).pairwise.sublist sub).sortedLT
  rw [slotMask_getLsbD sorted hk, Bool.eq_iff_iff, decide_eq_true_iff]
  exact ⟨fun mem => (mem_actingSlots.mp (sub.subset mem)).2, fun acts => all k (mem_actingSlots.mpr ⟨hk, acts⟩)⟩

/-! ## What a die keeps -/

/-- What a change of one die keeps of it, it keeps of every die. -/
theorem dieAt_modDie_keeps {β : Type} (π : Die → β) {d : Nat} {f : Die → Die} {s : State}
    (hf : π (f (dieAt s d)) = π (dieAt s d)) (k : Nat) : π (dieAt (modDie d f s) k) = π (dieAt s k) := by
  by_cases h : k = d
  · subst h
    rw [dieAt_modDie_same, hf]
  · rw [dieAt_modDie_other d f s k h]

/-- A trace record changes nothing of a die but its trace (19 R432). -/
theorem dieAt_capture_keeps {β : Type} (π : Die → β) (trace : ∀ d t, π { d with trace := t } = π d) (die cls code vf : Nat) (cg : W64)
    (p : Option Nat) (s : State) (k : Nat) : π (dieAt (capture die cls code vf cg p s) k) = π (dieAt s k) := by
  have recorded (f : Trace → Trace) : π (dieAt (modDie die (fun d => { d with trace := f d.trace }) s) k) = π (dieAt s k) :=
    dieAt_modDie_keeps π (trace (dieAt s die) _) k
  unfold capture
  dsimp only
  split
  · split
    · obtain ⟨m, l, b, e⟩ := writePas_eq (keyNum s 0) _ _ _
      rw [e]
      exact recorded _
    · exact recorded _
  · rfl

/-- So does an event record, for which a trace record is offered (19 R416). -/
theorem dieAt_postEvent_keeps {β : Type} (π : Die → β) (trace : ∀ d t, π { d with trace := t } = π d) (ring ty vfn die : Nat) (cg : W64)
    (pl : List Byte) (s : State) (k : Nat) : π (dieAt (postEvent ring ty vfn die cg pl s) k) = π (dieAt s k) := by
  unfold postEvent
  dsimp only
  split
  · rfl
  · rw [dieAt_capture_keeps π trace]
    split
    · rfl
    · split
      · rfl
      · rename_i written
        obtain ⟨m, l, b, w, rfl⟩ := writeGpa_eq written
        unfold sendMsix
        split <;> rfl

end Sys2Proof.Machine
end

section
/-!
THE WORDS OF TASK QUEUES (O41). `QueueStands` follows the queue that a handle names through the turns of the slots: a push gives it one
entry, a pop takes one from its end, and a spawned task takes one place at most, since the waves that launch beside it only give places
back. What the executing group and the outstanding returns are does not change on the way.
-/

set_option Elab.async false
namespace Sys2Proof.Machine

/-! ## The queue of a handle (11 R316) -/

/-- The queue that a handle names stands as q, and the executing group and the outstanding returns are those of s. -/
structure QueueStands (s : State) (h : W64) (q : TaskQueue) (t : State) : Prop where
  cur : t.cur = s.cur
  groups : t.groups = s.groups
  returns : t.returns = s.returns
  nextReturn : t.nextReturn = s.nextReturn
  queue : taskQueue t (capDie h) (capOwner s h) (capIndex h) = some q

theorem taskQueue_modQueueOf {die vf index : Nat} {f : TaskQueue → TaskQueue} {s : State} {q : TaskQueue}
    (hq : taskQueue s die vf index = some q) : taskQueue (modQueueOf die vf index f s) die vf index = some (f q) := by
  unfold taskQueue at *
  rw [modQueueOf, dieAt_modDie_same, hq]
  exact Tab.find_set_same ..

theorem taskQueue_captureFree (d cls v : Nat) (cg : W64) (s : State) (die vf index : Nat) :
    taskQueue (captureFree d cls v cg s) die vf index = taskQueue s die vf index :=
  congrArg (Tab.find · _) (dieAt_capture_keeps Die.queues (fun _ _ => rfl) ..)

namespace QueueStands

variable {s t : State} {h : W64} {q : TaskQueue}

theorem refl (hq : taskQueue s (capDie h) (capOwner s h) (capIndex h) = some q) : QueueStands s h q s := ⟨rfl, rfl, rfl, rfl, hq⟩

theorem qid (st : QueueStands s h q t) : t.qid = s.qid := by rw [State.qid, State.qid, st.cur]

theorem me (st : QueueStands s h q t) : t.me = s.me := by rw [State.me, State.me, st.qid, groupAt, groupAt, st.groups]

theorem owner (st : QueueStands s h q t) : capOwner t h = capOwner s h := by rw [capOwner, capOwner, st.me]

theorem of_eq {u : State} (st : QueueStands s h q t) (cur : u.cur = t.cur) (groups : u.groups = t.groups)
    (returns : u.returns = t.returns) (nextReturn : u.nextReturn = t.nextReturn) (dies : u.dies = t.dies) : QueueStands s h q u where
  cur := cur.trans st.cur
  groups := groups.trans st.groups
  returns := returns.trans st.returns
  nextReturn := nextReturn.trans st.nextReturn
  queue := by rw [taskQueue, dieAt, dies]; exact st.queue

theorem captureFree (st : QueueStands s h q t) (d cls v : Nat) (cg : W64) : QueueStands s h q (captureFree d cls v cg t) := by
  have queue := (taskQueue_captureFree d cls v cg t ..).trans st.queue
  obtain ⟨cur, groups, returns, nextReturn, -⟩ := st
  obtain ⟨m, l, b, ds, e⟩ := capture_eq d cls ((Config.freeW64 t.free 3200).toNat % 256) v cg none t
  rw [Machine.captureFree, e] at queue ⊢
  exact ⟨cur, groups, returns, nextReturn, queue⟩

theorem modQueueOf (st : QueueStands s h q t) (f : TaskQueue → TaskQueue) :
    QueueStands s h (f q) (modQueueOf (capDie h) (capOwner s h) (capIndex h) f t) where
  cur := st.cur
  groups := st.groups
  returns := st.returns
  nextReturn := st.nextReturn
  queue := taskQueue_modQueueOf st.queue

theorem modVf (st : QueueStands s h q t) (v : Nat) (f : Vf → Vf) : QueueStands s h q (modVf v f t) :=
  st.of_eq rfl rfl rfl rfl rfl

theorem room (st : QueueStands s h q t) : queueRoom t h = decide (q.entries.length < tqCap q.desc) := by
  unfold queueRoom
  rw [st.owner, st.queue]

/-! ### Pushes (11 R318) -/

/-- The queue with one value more. -/
def pushed (v : W64) (q : TaskQueue) : TaskQueue :=
  { q with entries := q.entries ++ [{ entry := 0, value := v, number := q.nextTask }], nextTask := q.nextTask + 1 }

/-- A value goes into a queue that has room, and into no other. -/
theorem pushValue (st : QueueStands s h q t) (v : W64) :
    if q.entries.length < tqCap q.desc then ∃ u, pushValue h v t = some u ∧ QueueStands s h (pushed v q) u
    else pushValue h v t = none := by
  unfold Machine.pushValue
  rw [st.room, st.owner]
  split <;> rename_i space
  · rw [if_pos (decide_eq_true space)]
    exact ⟨_, rfl, (st.modQueueOf _).captureFree ..⟩
  · rw [if_neg (by rwa [decide_eq_true_iff])]

/-- The first slots push until the queue is full. -/
theorem pushes (st : QueueStands s h q t) (value : Nat → W64) (ks : List Nat) :
    let turns := takeTurns (attempt (fun k u => Machine.pushValue h (value k) u)) ks t
    turns.1 = ks.take (tqCap q.desc - q.entries.length) ∧ ∃ q', QueueStands s h q' turns.2 ∧ q'.desc = q.desc
      ∧ q'.entries.map (fun e => e.value) = q.entries.map (fun e => e.value) ++ turns.1.map value := by
  induction ks generalizing t q with
  | nil => exact ⟨List.take_nil.symm, q, st, rfl, (List.append_nil _).symm⟩
  | cons k ks ih =>
    have turn := st.pushValue (value k)
    dsimp only
    split at turn
    next space =>
      obtain ⟨u, took, stands⟩ := turn
      obtain ⟨won, q', after, desc, values⟩ := ih stands
      have left : tqCap q.desc - q.entries.length = tqCap (pushed (value k) q).desc - (pushed (value k) q).entries.length + 1 := by
        simp only [pushed, List.length_append, List.length_singleton]
        omega
      rw [takeTurns_won (attempt_some took), left, List.take_succ_cons]
      exact ⟨congrArg _ won, q', after, desc, by simpa [pushed] using values⟩
    next full =>
      obtain ⟨won, rest⟩ := ih st
      have none_left : tqCap q.desc - q.entries.length = 0 := by omega
      rw [none_left, List.take_zero] at won ⊢
      rw [takeTurns_lost (attempt_none turn)]
      exact ⟨won, rest⟩

/-! ### Tasks of waves (07 R194, R196) -/

/-- The queue without the tasks of a wave that has launched. -/
def waved (entry : W64) (ts : List Machine.Task) (q : TaskQueue) : TaskQueue :=
  { q with entries := q.entries.filter (fun x => !ts.contains x), timers := Tab.del q.timers entry.toNat }

/-- A wave that launches takes its tasks from the queue. -/
theorem launchWave (st : QueueStands s h q t) (entry : W64) :
    QueueStands s h (waved entry ((q.entries.filter (fun x => x.entry == entry)).take 32) q)
      (launchWave (capDie h) (capOwner s h) (capIndex h) entry t) := by
  unfold Machine.launchWave
  rw [st.queue]
  dsimp only
  apply modVf
  apply captureFree
  exact of_eq (st.modQueueOf (waved entry _)) rfl rfl rfl rfl rfl

/-- The queue with one task more. -/
def joined (entry value : W64) (cclk : Nat) (q : TaskQueue) : TaskQueue :=
  { q with
    entries := q.entries ++ [{ entry := entry, value := value, number := q.nextTask }], nextTask := q.nextTask + 1
    timers := if (Tab.find q.timers entry.toNat).isSome then q.timers else Tab.set q.timers entry.toNat cclk }

/-- A task that is pushed takes one place at most: a wave that launches beside it gives places back. -/
theorem pushTask (st : QueueStands s h q t) (entry value : W64) : ∃ q', q'.desc = q.desc
    ∧ q'.entries.length ≤ q.entries.length + 1
    ∧ QueueStands s h q' (pushTask (capDie h) (capOwner s h) (capIndex h) entry value t) := by
  have first : ∃ q1, q1.desc = q.desc ∧ q1.entries.length ≤ q.entries.length ∧ QueueStands s h q1
      (if timerOver t q entry.toNat then Machine.launchWave (capDie h) (capOwner s h) (capIndex h) entry t else t) := by
    split
    · refine ⟨_, ?_, ?_, st.launchWave entry⟩
      · rfl
      · exact List.length_filter_le ..
    · exact ⟨q, rfl, le_rfl, st⟩
  obtain ⟨q1, desc, fewer, st1⟩ := first
  have joins := (st1.modQueueOf (joined entry value t.cclk)).captureFree (capDie h) 3 (capOwner s h) (cgidOf t.qid t.me)
  have one_more : (joined entry value t.cclk q1).entries.length = q1.entries.length + 1 := List.length_append
  have same_desc : (joined entry value t.cclk q1).desc = q.desc := desc
  generalize joined entry value t.cclk q1 = q2 at joins one_more same_desc
  unfold joined at joins
  unfold Machine.pushTask
  rw [st.queue]
  dsimp only
  rw [joins.queue]
  dsimp only
  split
  · refine ⟨_, ?_, ?_, joins.launchWave entry⟩
    · exact same_desc
    · exact (List.length_filter_le ..).trans (by omega)
  · exact ⟨q2, same_desc, by omega, joins⟩

end QueueStands

/-! ## The ends of a queue (11 R318) -/

/-- The entries in the order in which pops meet them, or steals. -/
def fromEnd (tail : Bool) (es : List Machine.Task) : List Machine.Task := if tail then es.reverse else es

theorem fromEnd_fromEnd (tail : Bool) (es : List Machine.Task) : fromEnd tail (fromEnd tail es) = es := by
  cases tail
  · rfl
  · exact es.reverse_reverse

theorem fromEnd_length (tail : Bool) (es : List Machine.Task) : (fromEnd tail es).length = es.length := by
  cases tail
  · rfl
  · exact List.length_reverse

/-- What is left after each slot of a list has taken an entry, as far as there are any. -/
theorem fromEnd_drop (tail : Bool) (es : List Machine.Task) (ks : List Nat) :
    fromEnd tail ((fromEnd tail es).drop ks.length) = if tail then es.take (es.length - (ks.take es.length).length)
      else es.drop (ks.take es.length).length := by
  rw [List.length_take]
  cases tail with
  | false =>
    obtain few | many := Nat.le_total ks.length es.length
    · rw [Nat.min_eq_right few]
      rfl
    · rw [Nat.min_eq_left many, if_neg Bool.false_ne_true, List.drop_length]
      exact List.drop_eq_nil_of_le many
  | true =>
    change (es.reverse.drop ks.length).reverse = es.take _
    rw [List.drop_reverse, List.reverse_reverse]
    congr 1
    omega

namespace QueueStands

variable {s t : State} {h : W64} {q : TaskQueue}

/-- A queue gives up the entry at its end, where it has one. -/
theorem takeEntry (st : QueueStands s h q t) (tail : Bool) :
    match fromEnd tail q.entries with
    | [] => takeEntry h tail t = none
    | v :: vs => ∃ u, takeEntry h tail t = some (v, u) ∧ QueueStands s h { q with entries := fromEnd tail vs } u := by
  have left (es) := (st.modQueueOf (fun q => { q with entries := es })).captureFree (capDie h) 3 (capOwner s h) (cgidOf t.qid t.me)
  have entries := (fromEnd_fromEnd tail q.entries).symm
  unfold Machine.takeEntry
  rw [st.owner, st.queue]
  dsimp only
  generalize fromEnd tail q.entries = es at entries ⊢
  rw [entries]
  cases tail with
  | false =>
    cases es with
    | nil => rfl
    | cons v vs => exact ⟨_, rfl, left vs⟩
  | true =>
    cases es with
    | nil => rfl
    | cons v vs => exact ⟨_, by simp [fromEnd], left vs.reverse⟩

/-- Each slot takes the next entry, as far as there are any. -/
theorem takeEach (st : QueueStands s h q t) (tail : Bool) (ks : List Nat) :
    let taken := takeEach h tail ks t
    taken.1 = ((ks.take q.entries.length).map (2 ^ ·)).sum ∧ taken.2.1 = ks.zip (fromEnd tail q.entries)
      ∧ QueueStands s h { q with entries := fromEnd tail ((fromEnd tail q.entries).drop ks.length) } taken.2.2 := by
  induction ks generalizing t q with
  | nil => simpa [Machine.takeEach, fromEnd_fromEnd] using st
  | cons k ks ih =>
    have turn := st.takeEntry tail
    rw [← fromEnd_length tail q.entries, Machine.takeEach]
    split at turn
    next empty =>
      obtain ⟨mask, taken, stands⟩ := ih st
      simp only [← fromEnd_length tail q.entries, empty] at mask taken stands ⊢
      simp only [turn]
      exact ⟨by simpa using mask, by simpa using taken, by simpa using stands⟩
    next v vs nonempty =>
      obtain ⟨u, took, stands⟩ := turn
      obtain ⟨mask, taken, after⟩ := ih stands
      simp only [fromEnd_fromEnd, fromEnd_length] at mask taken after
      simp only [took, nonempty]
      exact ⟨by simp [mask], by simp [taken], by simpa using after⟩

end QueueStands

/-! ## Registers that wait for what was popped (11 R318) -/

section
variable {mask : W32} {cover : Bool} {bad : Option W64} (outs : List (Nat × List W32)) (s : State)

theorem popReturn_keeps {β : Type} (π : State → β) (port : ∀ n vals u, π (modMe (fun g => g.pushPort n vals mask) u) = π u)
    (empty : ∀ u (ns : List (Nat × List W32)), π (modMe (fun g => ns.foldl (fun g o => g.emptyV o.1) g) u) = π u)
    (enter : ∀ u parts, π (addReturn parts none u) = π u) :
    π (popReturn mask cover bad outs s) = π s := by
  have ports := foldl_keeps (f := fun u (o : Nat × List W32) => modMe (fun g => g.pushPort o.1 o.2 mask) u) π
    (fun u o => port o.1 o.2 u) (outs.filter (fun o => decide (112 ≤ o.1))) s
  unfold popReturn
  dsimp only
  split
  · exact ports
  · exact (empty ..).trans ((enter ..).trans ports)

theorem popReturn_dies : (popReturn mask cover bad outs s).dies = s.dies :=
  popReturn_keeps outs s State.dies (fun _ _ _ => rfl) (fun _ _ => rfl) (fun _ _ => rfl)

theorem foldl_emptyV_p (ns : List (Nat × List W32)) (g : Group) : (ns.foldl (fun g o => g.emptyV o.1) g).p = g.p := by
  induction ns generalizing g with
  | nil => rfl
  | cons o ns ih => exact ih _

theorem popReturn_p : (popReturn mask cover bad outs s).me.p = s.me.p := by
  refine popReturn_keeps outs s (fun u => u.me.p) (fun n vals u => ?_) (fun u ns => ?_) (fun _ _ => rfl)
  · rw [me_modMe]
    unfold Group.pushPort
    split <;> rfl
  · rw [me_modMe, foldl_emptyV_p]

end

theorem popReturn_registers {mask : W32} {cover : Bool} {bad : Option W64} {n : Nat} (hn : n + 1 < 112) (lo hi : List W32) (s : State) :
    popReturn mask cover bad [(n, lo), (n + 1, hi)] s = modMe (fun g => (g.emptyV n).emptyV (n + 1))
      (addReturn [.vector n mask cover lo bad, .vector (n + 1) mask cover hi bad] none s) := by
  have first : n < 112 := by omega
  have no_ports : ¬ 112 ≤ n ∧ ¬ 112 ≤ n + 1 := by omega
  simp [popReturn, hn, first, no_ports]

theorem vFull_emptyV (n m : Nat) (g : Group) : (g.emptyV n).vFull m = (g.vFull m && decide (n ≠ m)) := getLsbD_clear ..

theorem find_addReturn (parts : List RetPart) (s : State) : Tab.find (addReturn parts none s).returns s.nextReturn
    = some { q := s.qid, gen := s.me.gen, vf := s.me.vf, parts := parts, loadKey := none } := Tab.find_set_same ..

/-! ## The halves of a value (11 R318) -/

/-- A 64-bit operand is its high word, then its low word. -/
theorem ofNat_pair (a b : W32) : BitVec.ofNat 64 (a.toNat * 2 ^ 32 + b.toNat) = a.zeroExtend 64 <<< 32 ||| b.zeroExtend 64 := by
  have high := a.isLt
  have low := b.isLt
  refine BitVec.eq_of_toNat_eq ?_
  have shift : (a.zeroExtend 64 <<< 32 : W64).toNat = a.toNat <<< 32 := by
    rw [BitVec.toNat_shiftLeft, BitVec.toNat_setWidth_of_le (by decide), Nat.shiftLeft_eq]
    omega
  have wide : (b.zeroExtend 64 : W64).toNat = b.toNat := BitVec.toNat_setWidth_of_le (by decide)
  rw [BitVec.toNat_or, shift, wide, ← Nat.shiftLeft_add_eq_or_of_lt low, BitVec.toNat_ofNat, Nat.shiftLeft_eq]
  omega

theorem halves (v : W64) : (BitVec.ofNat 32 (v.toNat / 2 ^ 32)).zeroExtend 64 <<< 32 ||| (BitVec.ofNat 32 (v.toNat / 2 ^ 0)).zeroExtend 64
    = v := by
  have word := v.isLt
  rw [← ofNat_pair]
  refine BitVec.eq_of_toNat_eq ?_
  simp only [BitVec.toNat_ofNat]
  omega

/-- The entry that a slot has taken. -/
theorem find_zip {ks : List Nat} (nodup : ks.Nodup) {es : List Machine.Task} {j k : Nat} {e : Machine.Task}
    (hk : ks[j]? = some k) (he : es[j]? = some e) : (ks.zip es).find? (fun p => p.1 == k) = some (k, e) := by
  induction ks generalizing es j with
  | nil => simp at hk
  | cons i ks ih =>
    cases es with
    | nil => simp at he
    | cons d es =>
      obtain ⟨fresh, nodup⟩ := List.nodup_cons.mp nodup
      cases j with
      | zero => simp_all
      | succ j =>
        simp only [List.getElem?_cons_succ] at hk he
        have other : i ≠ k := fun e => fresh (e ▸ List.mem_of_getElem? hk)
        rw [List.zip_cons_cons, List.find?_cons_of_neg (by simpa using other)]
        exact ih nodup hk he

/-! ## QPUSH (11 R318) -/

/-- The 64-bit operand of a slot: high word, low word. -/
def operand (lo hi : VReg) (k : Nat) : W64 := (hi.lane k).zeroExtend 64 <<< 32 ||| (lo.lane k).zeroExtend 64

theorem exec_qpush {o : OpQV} {s : State} {uses : List Use}
    (hu : uses = [.ss o.sh.toNat false 1, .vs o.va.toNat false 1, .vs (o.va.toNat + 1) false 1]) (go : MayGo (.qpush o) uses s)
    (passes : capReason s (s.me.readS o.sh.toNat) { right := 0, table := false, wave := false } = none) :
    exec (.qpush o) s = .next (retire .seq (leaveWord s uses (eachSlot
      (fun k u => pushValue (s.me.readS o.sh.toNat) (operand (srcReg uses s 0) (srcReg uses s 1) k) u) s))) := by
  subst hu
  dsimp only [exec, execQpush]
  refine queueWord_completes (i := .qpush o) rfl go rfl passes ?_
  simp only [operand, ← ofNat_pair]
  rfl

/-- The pushes of all slots. -/
theorem eachSlot_pushValue {s : State} {h : W64} {q : TaskQueue} (hq : taskQueue s (capDie h) (capOwner s h) (capIndex h) = some q)
    (value : Nat → W64) :
    let t := eachSlot (fun k u => pushValue h (value k) u) s
    let won := (actingSlots s.me).take (tqCap q.desc - q.entries.length)
    ∃ q', taskQueue t (capDie h) (capOwner s h) (capIndex h) = some q' ∧ q'.desc = q.desc
      ∧ q'.entries.map (fun e => e.value) = q.entries.map (fun e => e.value) ++ won.map value
      ∧ ∀ k, k < 32 → (t.me.readP 7).getLsbD k = decide (k ∈ won) := by
  intro t won
  obtain ⟨slots, q', stands, desc, values⟩ := (QueueStands.refl hq).pushes value (actingSlots s.me)
  rw [slots] at values
  refine ⟨q', (taskQueue_eachSlot ..).trans stands.queue, desc, values, fun k hk => ?_⟩
  rw [eachSlot_p7, slots, slotMask_take_getLsbD _ _ hk]

/-! ## TSPAWN (11 R318; 07 R194) -/

theorem spawnCheck_eq_none {s : State} {addrs : List (Nat × Nat)} (good : ∀ a ∈ addrs, a.2 % 64 = 0 ∧ a.2 < 2 ^ 57) :
    spawnCheck s addrs = none := by
  have aligned : addrs.find? (fun a => a.2 % 64 != 0) = none :=
    List.find?_eq_none.mpr fun a ha => by simp [(good a ha).1]
  have canonical : addrs.find? (fun a => decide (2 ^ 57 ≤ a.2)) = none :=
    List.find?_eq_none.mpr fun a ha => by simpa using (good a ha).2
  rw [spawnCheck, aligned, canonical]

/-- The turn of a slot in TSPAWN. -/
def spawnStep (s : State) (h entry : W64) (addr : Nat → Nat) (k : Nat) (u : State) : Option State :=
  if queueRoom u h then some (pushTask (capDie h) (capOwner s h) (capIndex h) entry (BitVec.ofNat 64 (addr k)) u) else none

theorem exec_tspawn {o : OpQSpawn} {s : State} {uses : List Use}
    (hu : uses = [.ss o.sh.toNat false 1, .ss o.se.toNat false 2, .vs o.va.toNat false 1, .vs (o.va.toNat + 1) false 1])
    (go : MayGo (.tspawn o) uses s) (entry : (s.me.readS o.se.toNat).toNat % 4 = 0 ∧ (s.me.readS o.se.toNat).toNat < 2 ^ 57)
    (passes : capReason s (s.me.readS o.sh.toNat) { right := 0, table := false, wave := true } = none)
    (good : ∀ k ∈ actingSlots s.me, pairOf (srcReg uses s 0) (srcReg uses s 1) k % 64 = 0
      ∧ pairOf (srcReg uses s 0) (srcReg uses s 1) k < 2 ^ 57) :
    exec (.tspawn o) s = .next (retire .seq (leaveWord s uses (eachSlot
      (spawnStep s (s.me.readS o.sh.toNat) (s.me.readS o.se.toNat) (pairOf (srcReg uses s 0) (srcReg uses s 1))) s))) := by
  have checks : spawnCheck s ((actingSlots s.me).map (fun k => (k, pairOf (srcReg uses s 0) (srcReg uses s 1) k))) = none :=
    spawnCheck_eq_none (List.forall_mem_map.mpr good)
  subst hu
  dsimp only [exec, execTspawn]
  refine queueWord_completes (i := .tspawn o) rfl go (if_neg (by omega)) passes ?_
  rw [srcReg, srcReg] at checks
  simp only [checks]
  rfl

/-- A queue that has room for the tasks of all acting slots takes them all. -/
theorem mem_spawned {s : State} {h entry : W64} {q : TaskQueue} (hq : taskQueue s (capDie h) (capOwner s h) (capIndex h) = some q)
    (room : q.entries.length + 32 ≤ tqCap q.desc) (addr : Nat → Nat) {k : Nat} (hk : k ∈ actingSlots s.me) :
    k ∈ (takeTurns (attempt (spawnStep s h entry addr)) (actingSlots s.me) s).1 := by
  have step {j n : Nat} {u : State} {q : TaskQueue} (st : QueueStands s h q u) (left : q.entries.length + (n + 1) ≤ tqCap q.desc) :
      spawnStep s h entry addr j u = some (pushTask (capDie h) (capOwner s h) (capIndex h) entry (BitVec.ofNat 64 (addr j)) u) := by
    rw [spawnStep, st.room, if_pos (decide_eq_true (by omega))]
  refine mem_takeTurns (room := fun n u => ∃ q, QueueStands s h q u ∧ q.entries.length + n ≤ tqCap q.desc) ?_ ?_
    ⟨q, .refl hq, ?_⟩ hk
  · rintro j n u ⟨q, st, left⟩
    obtain ⟨q', desc, more, after⟩ := st.pushTask entry (BitVec.ofNat 64 (addr j))
    rw [attempt_some (step st left)]
    exact ⟨q', after, by rw [desc]; omega⟩
  · rintro n u ⟨q, st, left⟩
    rw [attempt_some (step st left)]
  · have few := actingSlots_length_le s.me
    omega

/-! ## QPOP and QSTEAL (11 R318) -/

/-- The halves of the entries that slots have taken, by slot. -/
def popHalf (taken : List (Nat × Machine.Task)) (shift : Nat) : List W32 := (List.range 32).map (fun k =>
  BitVec.ofNat 32 (((taken.find? (fun p => p.1 == k)).map (fun p => p.2.value.toNat)).getD 0 / 2 ^ shift))

/-- A mask in p7, and MEMGEN advanced (02 R65). -/
def writeP7 (mask : W32) (s : State) : State := memGenMe (modMe (Group.writePraw 7 mask) s)

theorem memGenMe_eq (s : State) : ∃ cs ts, memGenMe s = { s with teams := ts, cores := cs } := by
  obtain ⟨cs, e⟩ := bumpMemGen_eq s.me.team s
  exact ⟨cs, _, e⟩

theorem writeP7_me (mask : W32) (s : State) : (writeP7 mask s).me = s.me.writePraw 7 mask := by
  obtain ⟨cs, ts, e⟩ := memGenMe_eq (modMe (Group.writePraw 7 mask) s)
  rw [writeP7, e]
  exact me_modMe ..

theorem writeP7_rest (mask : W32) (s : State) : (writeP7 mask s).qid = s.qid ∧ (writeP7 mask s).dies = s.dies
    ∧ (writeP7 mask s).returns = s.returns ∧ (writeP7 mask s).nextReturn = s.nextReturn := by
  obtain ⟨cs, ts, e⟩ := memGenMe_eq (modMe (Group.writePraw 7 mask) s)
  rw [writeP7, e]
  exact ⟨rfl, rfl, rfl, rfl⟩

/-- What a pop into registers n and n + 1 leaves before it retires. -/
def popped (h : W64) (n : Nat) (tail : Bool) (s : State) : State :=
  let r := takeEach h tail (actingSlots s.me) s
  if s.me.actLive = 0 then writeP7 (BitVec.ofNat 32 r.1) r.2.2
  else popReturn (BitVec.ofNat 32 r.1) s.me.covers (poppedBad r.2.1) [(n, popHalf r.2.1 0), (n + 1, popHalf r.2.1 32)]
    (writeP7 (BitVec.ofNat 32 r.1) r.2.2)

theorem popWord_completes {i : Instr} {word : W32} {o : OpQV} {tail : Bool} {s : State} (hw : encode i = word)
    (go : MayGo i [.ss o.sh.toNat false 1, .vda o.va.toNat, .vda (o.va.toNat + 1)] s)
    (passes : capReason s (s.me.readS o.sh.toNat) { right := if tail then 2 else 1, table := false, wave := false } = none) :
    popWord word o tail s = .next (retire .seq (popped (s.me.readS o.sh.toNat) o.va.toNat tail s)) := by
  have stays := leaveWord_same s [.ss o.sh.toNat false 1, .vda o.va.toNat, .vda (o.va.toNat + 1)]
    (popped (s.me.readS o.sh.toNat) o.va.toNat tail s) rfl
  rw [← stays]
  unfold popWord
  refine queueWord_completes hw go rfl passes ?_
  unfold popped
  dsimp only
  split <;> rfl

theorem exec_pop {o : OpQV} {s : State} {i : Instr} {tail : Bool}
    (hi : (i, tail) ∈ ([(.qpop o, false), (.qsteal o, true)] : List (Instr × Bool)))
    (go : MayGo i [.ss o.sh.toNat false 1, .vda o.va.toNat, .vda (o.va.toNat + 1)] s)
    (passes : capReason s (s.me.readS o.sh.toNat) { right := if tail then 2 else 1, table := false, wave := false } = none) :
    exec i s = .next (retire .seq (popped (s.me.readS o.sh.toNat) o.va.toNat tail s)) := by
  simp only [List.mem_cons, Prod.mk.injEq, List.not_mem_nil, or_false] at hi
  obtain ⟨rfl, rfl⟩ | ⟨rfl, rfl⟩ := hi
  · exact popWord_completes (word := o.pack 0xBD000000) rfl go passes
  · exact popWord_completes (word := o.pack 0xBD800000) rfl go passes

theorem popped_p7 (h : W64) (n : Nat) (tail : Bool) (s : State) :
    (popped h n tail s).me.readP 7 = BitVec.ofNat 32 (takeEach h tail (actingSlots s.me) s).1 := by
  unfold popped
  dsimp only
  generalize takeEach h tail (actingSlots s.me) s = r
  have written : (writeP7 (BitVec.ofNat 32 r.1) r.2.2).me.readP 7 = BitVec.ofNat 32 r.1 := by
    rw [writeP7_me, Group.readP_writePraw_same]
  split
  · exact written
  · exact (congrArg (Tab.get 0 · 7) (popReturn_p ..)).trans written

theorem popped_dies (h : W64) (n : Nat) (tail : Bool) (s : State) :
    (popped h n tail s).dies = (takeEach h tail (actingSlots s.me) s).2.2.dies := by
  obtain ⟨-, written, -, -⟩ := writeP7_rest (BitVec.ofNat 32 (takeEach h tail (actingSlots s.me) s).1)
    (takeEach h tail (actingSlots s.me) s).2.2
  unfold popped
  dsimp only
  split
  · exact written
  · exact (popReturn_dies ..).trans written

/-- The return that a pop enters, and its registers, which are empty until then. -/
theorem popped_registers {h : W64} {n : Nat} {tail : Bool} {s : State} {q : TaskQueue}
    (hq : taskQueue s (capDie h) (capOwner s h) (capIndex h) = some q) (acts : s.me.actLive ≠ 0) (hn : n + 1 < 112) :
    let r := takeEach h tail (actingSlots s.me) s
    Tab.find (popped h n tail s).returns s.nextReturn = some
        { q := s.qid, gen := s.me.gen, vf := s.me.vf, loadKey := none
          parts := [.vector n (BitVec.ofNat 32 r.1) s.me.covers (popHalf r.2.1 0) (poppedBad r.2.1),
            .vector (n + 1) (BitVec.ofNat 32 r.1) s.me.covers (popHalf r.2.1 32) (poppedBad r.2.1)] }
      ∧ (popped h n tail s).me.vFull n = false ∧ (popped h n tail s).me.vFull (n + 1) = false := by
  obtain ⟨-, -, stands⟩ := (QueueStands.refl hq).takeEach tail (actingSlots s.me)
  unfold popped
  dsimp only
  rw [if_neg acts, popReturn_registers hn, modMe_returns]
  generalize takeEach h tail (actingSlots s.me) s = r at stands ⊢
  obtain ⟨qid, -, -, next⟩ := writeP7_rest (BitVec.ofNat 32 r.1) r.2.2
  have entered (parts) := find_addReturn parts (writeP7 (BitVec.ofNat 32 r.1) r.2.2)
  rw [next, qid, writeP7_me, Group.writePraw_gen, Group.writePraw_vf, stands.nextReturn, stands.qid, stands.me] at entered
  refine ⟨entered _, ?_, ?_⟩
  · rw [me_modMe, vFull_emptyV, vFull_emptyV, decide_eq_false (not_not_intro rfl), Bool.and_false, Bool.false_and]
  · rw [me_modMe, vFull_emptyV, decide_eq_false (not_not_intro rfl), Bool.and_false]

theorem poppedBad_eq_none {ks : List Nat} {es : List Machine.Task} :
    poppedBad (ks.zip es) = none ↔ ∀ j e, j < (ks.take es.length).length → es[j]? = some e → e.bad = none := by
  rw [poppedBad, List.findSome?_eq_none_iff]
  simp only [Option.map_eq_none_iff]
  constructor
  · intro good j e hj he
    rw [List.length_take, lt_min_iff] at hj
    have taken : (ks.zip es)[j]? = some (ks[j], e) := List.getElem?_zip_eq_some.mpr ⟨List.getElem?_eq_getElem hj.2, he⟩
    exact good _ (List.mem_of_getElem? taken)
  · intro good p hp
    obtain ⟨j, taken⟩ := List.mem_iff_getElem?.mp hp
    obtain ⟨slot, entry⟩ := List.getElem?_zip_eq_some.mp taken
    have bound : j < (ks.take es.length).length := by
      rw [List.length_take, lt_min_iff]
      exact ⟨(List.getElem?_eq_some_iff.mp entry).1, (List.getElem?_eq_some_iff.mp slot).1⟩
    exact good j p.2 bound entry

/-- The two halves that a slot gets are its entry's value. -/
theorem popHalf_value {g : Group} {es : List Machine.Task} {j k : Nat} {e : Machine.Task}
    (hk : (actingSlots g)[j]? = some k) (he : es[j]? = some e) :
    ((popHalf ((actingSlots g).zip es) 32).getD k 0).zeroExtend 64 <<< 32
      ||| ((popHalf ((actingSlots g).zip es) 0).getD k 0).zeroExtend 64 = e.value := by
  have slot : k < 32 := (mem_actingSlots.mp (List.mem_of_getElem? hk)).1
  have half (shift : Nat) : (popHalf ((actingSlots g).zip es) shift).getD k 0 = BitVec.ofNat 32 (e.value.toNat / 2 ^ shift) := by
    simp [popHalf, List.getD_eq_getElem?_getD, slot, find_zip (actingSlots_sorted g).pairwise.nodup hk he]
  rw [half, half, halves]

theorem popped_queue {h : W64} {q : TaskQueue} {s : State} (hq : taskQueue s (capDie h) (capOwner s h) (capIndex h) = some q)
    (n : Nat) (tail : Bool) : ∃ q', taskQueue (popped h n tail s) (capDie h) (capOwner s h) (capIndex h) = some q'
      ∧ q'.entries = if tail then q.entries.take (q.entries.length - ((actingSlots s.me).take q.entries.length).length)
        else q.entries.drop ((actingSlots s.me).take q.entries.length).length := by
  obtain ⟨-, -, stands⟩ := (QueueStands.refl hq).takeEach tail (actingSlots s.me)
  have queue := stands.queue
  rw [taskQueue, dieAt, ← popped_dies h n] at queue
  exact ⟨_, queue, fromEnd_drop ..⟩

theorem popped_mask {h : W64} {q : TaskQueue} {s : State} (hq : taskQueue s (capDie h) (capOwner s h) (capIndex h) = some q)
    (tail : Bool) : BitVec.ofNat 32 (takeEach h tail (actingSlots s.me) s).1 = slotMask ((actingSlots s.me).take q.entries.length) := by
  obtain ⟨sum, -, -⟩ := (QueueStands.refl hq).takeEach tail (actingSlots s.me)
  rw [sum, slotMask]

/-- The mask of a pop, the words that its registers get, and whether they are bad. -/
theorem popped_values {h : W64} {n : Nat} {tail : Bool} {s : State} {q : TaskQueue}
    (hq : taskQueue s (capDie h) (capOwner s h) (capIndex h) = some q) (acts : s.me.actLive ≠ 0) (hn : n + 1 < 112) :
    let won := (actingSlots s.me).take q.entries.length
    ∃ lo hi bad,
      Tab.find (popped h n tail s).returns s.nextReturn = some
        { q := s.qid, gen := s.me.gen, vf := s.me.vf, loadKey := none
          parts := [.vector n (slotMask won) s.me.covers lo bad, .vector (n + 1) (slotMask won) s.me.covers hi bad] }
      ∧ (bad = none ↔ ∀ j e, j < won.length → (fromEnd tail q.entries)[j]? = some e → e.bad = none)
      ∧ (popped h n tail s).me.vFull n = false ∧ (popped h n tail s).me.vFull (n + 1) = false
      ∧ ∀ (j k : Nat) (e : Machine.Task), won[j]? = some k → (fromEnd tail q.entries)[j]? = some e →
        (hi.getD k 0).zeroExtend 64 <<< 32 ||| (lo.getD k 0).zeroExtend 64 = e.value := by
  obtain ⟨-, taken, -⟩ := (QueueStands.refl hq).takeEach tail (actingSlots s.me)
  obtain ⟨entered, empty, empty'⟩ := popped_registers (tail := tail) hq acts hn
  rw [taken, popped_mask hq] at entered
  refine ⟨_, _, _, entered, ?_, empty, empty', fun j k e hk he => ?_⟩
  · rw [poppedBad_eq_none, fromEnd_length]
  · have slot : j < q.entries.length := by
      rw [← fromEnd_length tail]
      exact (List.getElem?_eq_some_iff.mp he).1
    rw [List.getElem?_take_of_lt slot] at hk
    exact popHalf_value hk he

end Sys2Proof.Machine
end

section
/-!
THE WORDS OF EXPERTS (O41). `Roomy` follows an expert through the turns of EQPUSH: it is enabled, nothing of it is spilled, and n records
more fit on chip. Firings, reports and the records of other experts leave it so, and each record of its own takes one place.
-/

set_option Elab.async false
namespace Sys2Proof.Machine

/-! ## What experts keep (10 R300 to R302) -/

theorem expertAt_of_dies {s t : State} (hd : t.dies = s.dies) (die vf e : Nat) : expertAt t die vf e = expertAt s die vf e := by
  rw [expertAt, dieAt, hd]
  rfl

theorem expertAt_modExpert_same {die vf e : Nat} {s : State} {x : Expert} (hx : expertAt s die vf e = some x) (f : Expert → Expert) :
    expertAt (modExpert die vf e f s) die vf e = some (f x) := by
  unfold expertAt at *
  rw [modExpert, dieAt_modDie_same, hx]
  exact Tab.find_set_same ..

theorem expertAt_modExpert_other {die vf e vf' e' : Nat} (hk : expertKey vf e ≠ expertKey vf' e') (f : Expert → Expert) (s : State) :
    expertAt (modExpert die vf' e' f s) die vf e = expertAt s die vf e := by
  rw [expertAt, modExpert, dieAt_modDie_same]
  split
  · exact Tab.find_set_other _ _ _ _ hk
  · rfl

theorem expertAt_captureFree (d cls v : Nat) (cg : W64) (s : State) (die vf e : Nat) :
    expertAt (captureFree d cls v cg s) die vf e = expertAt s die vf e :=
  congrArg (Tab.find · _) (dieAt_capture_keeps Die.experts (fun _ _ => rfl) ..)

theorem expertAt_postEvent (ring ty vfn d : Nat) (cg : W64) (pl : List Byte) (s : State) (die vf e : Nat) :
    expertAt (postEvent ring ty vfn d cg pl s) die vf e = expertAt s die vf e :=
  congrArg (Tab.find · _) (dieAt_postEvent_keeps Die.experts (fun _ _ => rfl) ..)

theorem raiseDemand_dies (e : Env) (stage page : Nat) (s : State) : (raiseDemand e stage page s).dies = s.dies := by
  unfold raiseDemand
  dsimp only
  split
  · rfl
  · exact count_dies ..

/-- How an access to the spill ring ends: it changes no die. -/
def SpillEnd.Keeps (s : State) : SpillEnd → Prop
  | .done t | .later t => t.dies = s.dies
  | .refused => True

theorem spillFail_keeps (e : Env) (p : Place) (s : State) : (spillFail e p s).Keeps s := by
  cases p with
  | demand st pg => exact raiseDemand_dies ..
  | held => exact rfl
  | _ => trivial

theorem spillWrite_keeps (vf : Nat) (x : Expert) (r : BitVec 512) (s : State) : (spillWrite vf x r s).Keeps s := by
  unfold spillWrite
  split
  next written =>
    obtain ⟨m, l, d, rfl⟩ := engineWrite_eq (congrArg Except.toOption written)
    rfl
  next => exact spillFail_keeps ..

theorem spillWrite_done {vf : Nat} {x : Expert} {r : BitVec 512} {s t : State} (h : spillWrite vf x r s = .done t) :
    t.dies = s.dies := by
  have kept := spillWrite_keeps vf x r s
  rwa [h] at kept

theorem spillWrite_later {vf : Nat} {x : Expert} {r : BitVec 512} {s t : State} (h : spillWrite vf x r s = .later t) :
    t.dies = s.dies := by
  have kept := spillWrite_keeps vf x r s
  rwa [h] at kept

theorem takeCounts_dies (c vf : Nat) (w : WaitingTeam) (root : W64) (slots : List Nat) (s : State) :
    (takeCounts c vf w root slots s).dies = s.dies :=
  takeCounts_keeps c vf w root slots s State.dies (fun _ _ => rfl) (fun _ _ => rfl)

theorem takeLocks_dies {core : Nat} {ls : List Lock} {s t : State} (h : takeLocks core ls s = some t) : t.dies = s.dies := by
  unfold takeLocks at h
  split at h
  · cases h
    exact foldl_keeps (f := fun t (l : Lock) => modCore core _ t) State.dies (fun _ _ => rfl) ls s
  · contradiction

section
variable {die vf e vf' e' : Nat} (hk : expertKey vf e ≠ expertKey vf' e')
include hk

theorem expertAt_flushStaged_other (n : Nat) (s : State) : expertAt (flushStaged die vf' e' n s) die vf e = expertAt s die vf e := by
  induction n generalizing s with
  | zero => rfl
  | succ n ih =>
    unfold flushStaged
    split
    · rfl
    · split
      · rfl
      · split
        next written => rw [ih, expertAt_modExpert_other hk, expertAt_of_dies (spillWrite_done written)]
        next stalled => rw [expertAt_of_dies (spillWrite_later stalled)]
        next => rfl

theorem expertAt_unspill_other (n : Nat) (s : State) : expertAt (unspill die vf' e' n s) die vf e = expertAt s die vf e := by
  induction n generalizing s with
  | zero => rfl
  | succ n ih =>
    unfold unspill
    split
    · rfl
    · split
      · rfl
      · split
        · split
          · rfl
          · rw [ih, expertAt_modExpert_other hk]
        · split
          · exact expertAt_of_dies (raiseDemand_dies ..) ..
          · rfl
          · rw [ih, expertAt_modExpert_other hk]

theorem expertAt_retrySpill_other (s : State) : expertAt (retrySpill die vf' e' s) die vf e = expertAt s die vf e := by
  unfold retrySpill
  split
  · split
    · rfl
    · rw [expertAt_flushStaged_other hk, expertAt_unspill_other hk]
  · rfl

end

/-! ## An expert with room on chip (11 R318, R320) -/

/-- An expert is enabled, nothing of it is spilled, and n records more fit on chip. -/
def Roomy (die vf e n : Nat) (s : State) : Prop :=
  ∃ x, expertAt s die vf e = some x ∧ x.enabled = true ∧ x.spilled = 0 ∧ x.staged = [] ∧ x.queue.length + n ≤ 256

namespace Roomy

variable {die vf e n : Nat} {s t : State}

theorem of_eq (room : Roomy die vf e n s) (h : expertAt t die vf e = expertAt s die vf e) : Roomy die vf e n t := by
  rwa [Roomy, h]

theorem mono {m : Nat} (room : Roomy die vf e n s) (h : m ≤ n) : Roomy die vf e m s := by
  obtain ⟨x, hx, on, unspilled, unstaged, fits⟩ := room
  exact ⟨x, hx, on, unspilled, unstaged, by omega⟩

/-- An expert is changed, but no record comes in. -/
theorem modExpert (room : Roomy die vf e n s) (vf' e' : Nat) {f : Expert → Expert}
    (hf : ∀ x, (f x).enabled = x.enabled ∧ (f x).spilled = x.spilled ∧ (f x).staged = x.staged ∧ (f x).queue.length ≤ x.queue.length) :
    Roomy die vf e n (modExpert die vf' e' f s) := by
  by_cases hk : expertKey vf e = expertKey vf' e'
  · obtain ⟨x, hx, on, unspilled, unstaged, fits⟩ := room
    obtain ⟨on', spilled', staged', queue'⟩ := hf x
    have changed : expertAt (Machine.modExpert die vf' e' f s) die vf e = some (f x) := by
      rw [Machine.modExpert, ← hk]
      exact expertAt_modExpert_same hx f
    exact ⟨f x, changed, on'.trans on, spilled'.trans unspilled, staged'.trans unstaged, by omega⟩
  · exact room.of_eq (expertAt_modExpert_other hk f s)

/-- The spill ring of an expert with room is empty, and that of another does not touch it. -/
theorem retrySpill (room : Roomy die vf e n s) (vf' e' : Nat) : Roomy die vf e n (retrySpill die vf' e' s) := by
  by_cases hk : expertKey vf e = expertKey vf' e'
  · obtain ⟨x, hx, -, unspilled, unstaged, -⟩ := id room
    have same : expertAt s die vf' e' = some x := by rw [← hx, expertAt, expertAt, hk]
    rw [Machine.retrySpill, same]
    dsimp only
    rwa [if_pos ⟨unspilled, unstaged⟩]
  · exact room.of_eq (expertAt_retrySpill_other hk s)

theorem reportSpill (room : Roomy die vf e n s) (vf' e' : Nat) : Roomy die vf e n (reportSpill die vf' e' s) := by
  unfold Machine.reportSpill
  split
  · split
    · exact (room.of_eq (expertAt_postEvent ..)).modExpert _ _ fun _ => ⟨rfl, rfl, rfl, le_rfl⟩
    · exact room
  · exact room

/-- A firing takes records from its expert and moves spilled ones on chip. -/
theorem fire (room : Roomy die vf e n s) {vf' e' core reason : Nat} {slots : List Nat}
    (fires : fire die vf' e' core slots reason s = some t) : Roomy die vf e n t := by
  unfold Machine.fire at fires
  dsimp only at fires
  split at fires
  · contradiction
  · split at fires
    · contradiction
    · split at fires
      · contradiction
      · rename_i s2 locked
        cases fires
        have locks := (takeLocks_dies locked).trans (takeCounts_dies ..)
        have fewer {x : Expert} : (x.queue.drop 256).length ≤ x.queue.length := (List.drop_sublist ..).length_le
        have taken {f : Firing} := ((room.retrySpill vf' e').of_eq (expertAt_of_dies locks ..)).modExpert vf' e' (f := fun x => { x with
          queue := x.queue.drop 256, marked := false, aged := false, spillPosted := false, starvePosted := false
          firing := x.firing ++ [f] }) fun _ => ⟨rfl, rfl, rfl, fewer⟩
        refine of_eq (of_eq (retrySpill ?_ vf' e') (expertAt_of_dies (tally_dies ..) ..)) (expertAt_captureFree ..)
        exact of_eq taken (congrArg (Tab.find · _) (dieAt_modDie_keeps Die.experts rfl die))

theorem fireBetween (room : Roomy die vf e n s) (slot : Nat) : Roomy die vf e n (fireBetween die slot s) := by
  unfold Machine.fireBetween
  split
  · exact room
  · split
    · exact room
    · split
      · exact room
      · dsimp only
        split
        next c r _ _ =>
          rcases fires : Machine.fire die _ _ c.1 c.2 r s with _ | t
          · exact room
          · exact room.fire fires
        next => exact room

/-- A record for an expert with room goes on chip. -/
theorem pushRecord (room : Roomy die vf e (n + 1) s) (r : BitVec 512) :
    ∃ t, pushRecord die vf e r s = some t ∧ Roomy die vf e n t := by
  obtain ⟨x, hx, on, unspilled, unstaged, fits⟩ := room.retrySpill vf e
  have fewer : x.queue.length < 256 := by omega
  unfold Machine.pushRecord
  dsimp only
  rw [hx]
  simp only [on, Bool.not_true, Bool.false_eq_true, if_false, if_pos (And.intro fewer (And.intro unspilled unstaged))]
  refine ⟨_, rfl, ?_⟩
  refine of_eq ⟨_, expertAt_modExpert_same hx _, on, unspilled, unstaged, ?_⟩ (expertAt_captureFree ..)
  rw [List.length_append, List.length_singleton]
  omega

/-- A record for another expert leaves it alone. -/
theorem pushRecord_other (room : Roomy die vf e n s) {vf' e' : Nat} (hk : expertKey vf e ≠ expertKey vf' e') {r : BitVec 512}
    (pushes : Machine.pushRecord die vf' e' r s = some t) : Roomy die vf e n t := by
  have took {u : State} (hu : u.dies = (Machine.retrySpill die vf' e' s).dies) (d cls v : Nat) (cg : W64) (f : Expert → Expert) :
      expertAt (captureFree d cls v cg (Machine.modExpert die vf' e' f u)) die vf e = expertAt s die vf e := by
    rw [expertAt_captureFree, expertAt_modExpert_other hk, expertAt_of_dies hu, expertAt_retrySpill_other hk]
  unfold Machine.pushRecord at pushes
  dsimp only at pushes
  refine room.of_eq ?_
  split at pushes
  · cases pushes
  · split at pushes
    · cases pushes
    · split at pushes
      · cases pushes
        rw [took rfl]
      · split at pushes
        · split at pushes
          · cases pushes
            rw [took rfl]
          · split at pushes
            next written =>
              cases pushes
              rw [took (spillWrite_done written)]
            next stalled =>
              cases pushes
              rw [took (spillWrite_later stalled)]
            next => cases pushes
        · cases pushes

end Roomy

/-! ## EQPUSH (11 R318, R320, R321) -/

/-- The turn of a slot in EQPUSH: it pushes its record to its expert, and the unit may fire one between. -/
def eqpushTurn (die vf : Nat) (expert : Nat → Nat) (record : Nat → BitVec 512) (k : Nat) (s : State) : Bool × State :=
  if 256 ≤ expert k then (false, s)
  else match pushRecord die vf (expert k) (record k) s with
    | some t => (true, fireBetween die k t)
    | none => (false, fireBetween die k (reportSpill die vf (expert k) s))

section
variable {die vf : Nat} {expert : Nat → Nat} {record : Nat → BitVec 512}

/-- A slot's step in EQPUSH adds the bit of the slot where its turn succeeds. -/
theorem eqpushTurn_adds (n : Nat) (s : State) (k : Nat) :
    (if 256 ≤ expert k then (n, s)
      else match pushRecord die vf (expert k) (record k) s with
        | some t => (n + 2 ^ k, fireBetween die k t)
        | none => (n, fireBetween die k (reportSpill die vf (expert k) s)))
      = (if (eqpushTurn die vf expert record k s).1 then n + 2 ^ k else n, (eqpushTurn die vf expert record k s).2) := by
  unfold eqpushTurn
  split
  · rfl
  · cases pushRecord die vf (expert k) (record k) s <;> rfl

theorem eqpushTurn_none {k : Nat} (h : 256 ≤ expert k) (s : State) : eqpushTurn die vf expert record k s = (false, s) := if_pos h

theorem eqpushTurn_roomy {k n : Nat} {s : State} (h : expert k < 256) (room : Roomy die vf (expert k) (n + 1) s) :
    (eqpushTurn die vf expert record k s).1 = true ∧ Roomy die vf (expert k) n (eqpushTurn die vf expert record k s).2 := by
  obtain ⟨t, pushed, left⟩ := room.pushRecord (record k)
  rw [eqpushTurn, if_neg (by omega), pushed]
  exact ⟨rfl, left.fireBetween k⟩

theorem eqpushTurn_keeps {e n : Nat} (he : e < 256) (j : Nat) (s : State) (room : Roomy die vf e (n + 1) s) :
    Roomy die vf e n (eqpushTurn die vf expert record j s).2 := by
  by_cases outside : 256 ≤ expert j
  · rw [eqpushTurn_none outside]
    exact room.mono (Nat.le_succ n)
  by_cases same : e = expert j
  · subst same
    exact (eqpushTurn_roomy he room).2
  have hk : expertKey vf e ≠ expertKey vf (expert j) := fun h => same (by rw [expertKey, expertKey] at h; omega)
  have less := room.mono (Nat.le_succ n)
  rw [eqpushTurn, if_neg outside]
  cases pushed : pushRecord die vf (expert j) (record j) s with
  | some t => exact (less.pushRecord_other hk pushed).fireBetween j
  | none => exact (less.reportSpill vf (expert j)).fireBetween j

end

theorem expertAt_addTlbs (d : Nat) (ts : List TlbEntry) (s : State) (die vf e : Nat) :
    expertAt (addTlbs d ts s) die vf e = expertAt s die vf e :=
  foldl_keeps (f := fun u x => addTlb d (some x) u) (fun u => expertAt u die vf e)
    (fun _ _ => congrArg (Tab.find · _) (dieAt_modDie_keeps Die.experts rfl die)) ts s

theorem expertAt_vecAccess {s t : State} {a : Acc} {read watch : Bool} {lanes : List (Nat × Nat)} {ps : List (Nat × List (Nat × Nat))}
    (h : vecAccess s a read watch lanes = .ok (ps, t)) (die vf e : Nat) : expertAt t die vf e = expertAt s die vf e := by
  unfold vecAccess at h
  dsimp only at h
  split at h
  · cases h
  · split at h
    · cases h
    · cases h
      exact expertAt_addTlbs ..

/-- The record that a slot of EQPUSH reads. -/
def slotRecord (s : State) (ps : List (Nat × List (Nat × Nat))) (k : Nat) : BitVec 512 :=
  match ps.find? (fun p => p.1 == k) with
  | some p => BitVec.ofNat 512 (leNat (readParts s s.me.vf p.2))
  | none => 0

theorem exec_eqpush {o : OpQV} {s s1 : State} {uses : List Use} {ps : List (Nat × List (Nat × Nat))}
    (hu : uses = [.ss o.sh.toNat false 1, .vs o.va.toNat false 1, .vs (o.va.toNat + 1) false 1, .vs (o.va.toNat + 2) false 1])
    (go : MayGo (.eqpush o) uses s)
    (passes : capReason s (s.me.readS o.sh.toNat) { right := 0, table := true, wave := false } = none)
    (aligned : ∀ k ∈ actingSlots s.me, pairOf (srcReg uses s 1) (srcReg uses s 2) k % 64 = 0)
    (reads : vecAccess s { size := 64, write := false, atomic := false, vector := true } true false
      ((actingSlots s.me).map (fun k => (k, pairOf (srcReg uses s 1) (srcReg uses s 2) k))) = .ok (ps, s1))
    (good : ∀ p ∈ ps, partsBad s1 p.2 = none) :
    let h := s.me.readS o.sh.toNat
    let turns := takeTurns (eqpushTurn (capDie h) (capOwner s h) (fun k => ((srcReg uses s 0).lane k).toNat) (slotRecord s1 ps))
      (actingSlots s.me) s1
    exec (.eqpush o) s = .next (retire .seq (leaveWord s uses (modMe (Group.writePraw 7 (slotMask turns.1)) turns.2))) := by
  intro h turns
  have on_line : ((actingSlots s.me).map (fun k => (k, pairOf (srcReg uses s 1) (srcReg uses s 2) k))).find? (fun a => a.2 % 64 != 0)
      = none :=
    List.find?_eq_none.mpr (List.forall_mem_map.mpr fun k hk => by simp [aligned k hk])
  have intact : ps.filterMap (fun p => badInfo s1 p.1 (pairOf (srcReg uses s 1) (srcReg uses s 2) p.1) p.2) = [] :=
    List.filterMap_eq_nil_iff.mpr fun p hp => by rw [badInfo, good p hp]; rfl
  subst hu
  dsimp only [exec, execEqpush]
  refine queueWord_completes (i := .eqpush o) rfl go rfl passes ?_
  rw [srcReg, srcReg] at on_line intact reads
  simp only [on_line, reads, intact, List.head?_nil]
  exact congrArg (fun r : Nat × State => Res.done (modMe (Group.writePraw 7 (BitVec.ofNat 32 r.1)) r.2) .seq)
    ((foldl_takeTurns eqpushTurn_adds _ 0 s1).trans (congrArg (·, turns.2) (Nat.zero_add _)))

/-- The slots whose records go in act; none names an expert beyond the table, and those of an expert with room for all are among them. -/
theorem eqpushed_mask (die vf : Nat) (expert : Nat → Nat) (record : Nat → BitVec 512) (g : Group) (s : State) :
    let p := slotMask (takeTurns (eqpushTurn die vf expert record) (actingSlots g) s).1
    p &&& g.actLive = p ∧ ∀ k ∈ actingSlots g, (256 ≤ expert k → p.getLsbD k = false)
      ∧ (expert k < 256 → Roomy die vf (expert k) 32 s → p.getLsbD k = true) := by
  have won := takeTurns_sublist (turn := eqpushTurn die vf expert record) (actingSlots g) s
  have sorted := ((actingSlots_sorted g).pairwise.sublist won).sortedLT
  refine ⟨slotMask_and_actLive won, fun k hk => ?_⟩
  rw [slotMask_getLsbD sorted (mem_actingSlots.mp hk).1, decide_eq_false_iff_not, decide_eq_true_iff]
  refine ⟨fun outside => not_mem_takeTurns (fun u => ?_) _ _, fun inside room => ?_⟩
  · rw [eqpushTurn_none outside]
  · exact mem_takeTurns (room := Roomy die vf (expert k)) (fun j n u left => eqpushTurn_keeps inside j u left)
      (fun n u left => (eqpushTurn_roomy inside left).1) (room.mono (actingSlots_length_le g)) hk

/-! ## EQFIRE (11 R320) -/

/-- The expert holds a token and may fire. -/
def holdsToken (s : State) (die vf e : Nat) : Bool :=
  match expertAt s die vf e with
  | some x => decide (e < 256) && x.enabled && decide (0 < x.fill)
  | none => false

/-- What EQFIRE leaves before it retires. -/
def eqfired (h : W64) (e : Nat) (s : State) : State :=
  if holdsToken s (capDie h) (capOwner s h) e then modMe (fun g => g.writePraw 7 g.liveMask)
    (modExpert (capDie h) (capOwner s h) e (fun x => { x with marked := true }) s)
  else modMe (Group.writePraw 7 0) s

theorem exec_eqfire {o : OpEqFire} {s : State} (go : MayGo (.eqfire o) [.ss o.sh.toNat false 1, .ss o.se.toNat false 2] s)
    (passes : capReason s (s.me.readS o.sh.toNat) { right := 0, table := true, wave := false } = none) :
    exec (.eqfire o) s = .next (retire .seq (eqfired (s.me.readS o.sh.toNat) (s.me.readS o.se.toNat).toNat s)) := by
  rw [← leaveWord_same s [.ss o.sh.toNat false 1, .ss o.se.toNat false 2] (eqfired ..) rfl]
  dsimp only [exec, execEqfire]
  refine queueWord_completes (i := .eqfire o) rfl go rfl passes ?_
  unfold eqfired
  change (if holdsToken s _ _ _ = true then _ else _) = _
  split <;> rfl

theorem holdsToken_eq_true {s : State} {die vf e : Nat} {x : Expert} (he : e < 256) (hx : expertAt s die vf e = some x)
    (on : x.enabled = true) (token : 0 < x.queue.length + x.spilled + x.staged.length) : holdsToken s die vf e = true := by
  rw [holdsToken, hx]
  simp [he, on, Expert.fill, token]

theorem holdsToken_eq_false {s : State} {die vf e : Nat} (h : 256 ≤ e ∨ ∀ x, expertAt s die vf e = some x →
      x.enabled = false ∨ (x.queue = [] ∧ x.spilled = 0 ∧ x.staged = [])) : holdsToken s die vf e = false := by
  unfold holdsToken
  split
  next x hx =>
    obtain outside | idle := h
    · simp [Nat.not_lt.mpr outside]
    · obtain off | ⟨queue, spilled, staged⟩ := idle x hx
      · simp [off]
      · simp [Expert.fill, queue, spilled, staged]
  next => rfl

/-! ## The obligation -/

/-- Settles O41: each word is its frame (`queueWord_refuses`, `queueWord_completes`) around the turns of its acting slots (`takeTurns`).
The queue is followed through them by `QueueStands`, and an expert that has room for all by `Roomy`, which a firing between two turns
keeps. -/
theorem queuesAndCapabilities : Obligations.QueuesAndCapabilities := by
  unfold Obligations.QueuesAndCapabilities
  refine ⟨⟨capReason_eq_none, ?refused⟩, ?push, ?pop, ?spawn, ?eqpush, ?eqfire⟩
  case refused =>
    intro s i uses sh reason n h word go fails
    obtain ⟨o, rfl, rfl, rfl, rfl, entry⟩ | ⟨o, rfl, ⟨rfl, rfl, rfl⟩ | ⟨rfl, rfl, rfl⟩ | ⟨rfl, rfl, rfl⟩ | ⟨rfl, rfl, rfl⟩⟩
      | ⟨o, rfl, rfl, rfl, rfl⟩ := word
    all_goals dsimp only [exec, execTspawn, execQpush, execQpop, execQsteal, popWord, execEqpush, execEqfire]
    · obtain ⟨aligned, canonical⟩ := entry
      refine queueWord_refuses (word := o.pack 0xBC000000) rfl go ?_ fails
      exact if_neg (by omega)
    · exact queueWord_refuses (word := o.pack 0xBC800000) (pre := fun _ => none) rfl go rfl fails
    · exact queueWord_refuses (word := o.pack 0xBD000000) (pre := fun _ => none) rfl go rfl fails
    · exact queueWord_refuses (word := o.pack 0xBD800000) (pre := fun _ => none) rfl go rfl fails
    · exact queueWord_refuses (word := o.pack 0xBE000000) (pre := fun _ => none) rfl go rfl fails
    · exact queueWord_refuses (word := o.pack 0xBE800000) (pre := fun _ => none) rfl go rfl fails
  case push =>
    intro o s q h uses won value go passes hq
    obtain ⟨q', spec⟩ := eachSlot_pushValue hq value
    exact ⟨_, q', exec_qpush rfl go passes, spec⟩
  case pop =>
    intro o s q i tail h won order hi go passes hq
    obtain ⟨q', queue, entries⟩ := popped_queue hq o.va.toNat tail
    exact ⟨_, q', slotMask won, exec_pop hi go passes, queue, entries, (popped_p7 ..).trans (popped_mask hq tail),
      fun k hk => slotMask_take_getLsbD _ _ hk, popped_values hq⟩
  case spawn =>
    intro o s q h e uses addr go entry canonical passes hq good
    have records : ∀ k ∈ actingSlots s.me, addr k % 64 = 0 ∧ addr k < 2 ^ 57 := fun k hk => by
      obtain ⟨slot, acts⟩ := mem_actingSlots.mp hk
      exact good k slot acts
    refine ⟨_, exec_tspawn rfl go ⟨entry, canonical⟩ passes records, ?_⟩
    rw [eachSlot_p7]
    exact ⟨slotMask_and_actLive (takeTurns_sublist ..),
      fun room => slotMask_eq_actLive (takeTurns_sublist ..) fun k hk => mem_spawned hq room _ hk⟩
  case eqpush =>
    intro o s s1 ps h uses addr slots go passes aligned reads good
    obtain ⟨acting, each⟩ := eqpushed_mask (capDie h) (capOwner s h) (fun k => ((srcReg uses s 0).lane k).toNat) (slotRecord s1 ps) s.me s1
    refine ⟨_, exec_eqpush rfl go passes aligned reads good, ?_⟩
    rw [me_modMe, Group.readP_writePraw_same]
    refine ⟨acting, fun k hk => ?_⟩
    obtain ⟨outside, inside⟩ := each k hk
    exact ⟨outside, fun x he hx on unspilled unstaged fits =>
      inside he ⟨x, (expertAt_vecAccess reads ..).trans hx, on, unspilled, unstaged, fits⟩⟩
  case eqfire =>
    intro o s h e go passes
    refine ⟨fun x he hx on token => ?_, fun idle => ?_⟩
    · rw [exec_eqfire go passes, eqfired, if_pos (holdsToken_eq_true he hx on token)]
    · rw [exec_eqfire go passes, eqfired, holdsToken_eq_false idle]
      rfl

end Sys2Proof.Machine
end
